-- ==== Sys2Proof/Word.lean ====
section
/-!
DEFINITION. The words of the block: bytes, register words and the byte offsets and addresses of the local
address map (00_scope.md R13, R16; 21_reference_tables.md R492).
-/

namespace Sys2Proof

/-- A byte of memory or of a message. -/
abbrev Byte := BitVec 8

/-- A register: 64 bits (R16). -/
abbrev Word := BitVec 64

/-- A sparse table: the entries that differ from the table's reset value, keys strictly rising. -/
abbrev Sparse (α : Type) := List (Nat × α)

end Sys2Proof
end

