-- ==== Sys2Proof/Syntax.lean ====
section
/-!
DEFINITION. The commands the block takes (spec/opcode_table.json), with the types of their operands.
An operand that reports what happened outside the block (how long a level was held, whether a signature verified,
what a medium returned) is evidence the environment supplies (notes/assumptions/2.md).
-/

namespace Sys2Proof

/-- Which half of a register an access reaches (R430): the whole 8 bytes, or bits [31:0], or bits [63:32]; `other` is an access of another
size or alignment. -/
inductive Half where
  | whole | low | high | other
  deriving DecidableEq, Repr

/-- A flit's header (Table 10-5) and its payload of 240 bytes in clear. -/
structure Flit where
  vc : BitVec 3 := 0
  epoch : Bool := false
  hop : BitVec 4 := 0
  route : BitVec 32 := 0
  src : BitVec 16 := 0
  dst : BitVec 16 := 0
  typ : BitVec 6 := 0
  seq : BitVec 12 := 0
  retry : Bool := false
  /-- The GCM tag under the keys of the link it leaves on (R271). -/
  tag : BitVec 32 := 0
  payload : List Byte := []
  deriving DecidableEq, Repr

/-- What a neighbour reports of its hall time (R67, R81, R85): its HT_STATUS.STATE, hops from the root, root device,
root generation and root sequence number. -/
structure NbrReport where
  state : Nat := 0
  hops : Nat := 0
  rootId : BitVec 16 := 0
  gen : BitVec 8 := 0
  seq : Nat := 0
  deriving DecidableEq, Repr

/-- The content of an LCTL flit (Table 10-9): acknowledged and refused LSEQ, buffers freed per VC, VC1 holes as
(slot number, flit position). -/
structure Lctl where
  ack : Option (BitVec 12) := none
  nak : Option (BitVec 12) := none
  freed : List (BitVec 8) := []
  holes : List (Nat × Nat) := []
  deriving DecidableEq, Repr

/-- What a peer sends in step 5 of port training (R270, R448): its certificate chain, its X448 public key, its OWNER_FPR. -/
structure Hello where
  chain : List Byte := []
  key : List Byte := []
  fpr : BitVec 128 := 0
  deriving DecidableEq, Repr

/-- The content of a start message (Table 12-8) but for its kind. -/
structure StartMsg where
  treeB : Bool := false
  root : BitVec 16 := 0
  seq : BitVec 32 := 0
  blendId : BitVec 64 := 0
  job : BitVec 32 := 0
  count : Nat := 0
  t : Nat := 0
  deriving DecidableEq, Repr

/-- The content of an envelope message (Table 19-2): watts, and slew limits in 0.1 W per µs. -/
structure EnvMsg where
  seq : BitVec 32 := 0
  at' : Nat := 0
  expiry : Nat := 0
  ceil1ms : Nat := 0
  ceil1s : Nat := 0
  floor : Nat := 0
  slewUp : Nat := 0
  slewDn : Nat := 0
  deriving DecidableEq, Repr

/-- What the host answered to a near-channel host command (R344, Table 13-4). -/
inductive HostReply where
  /-- The answer has not come yet: the command runs. -/
  | pending
  | data (bytes : List Byte)
  | done
  | abort
  | noCompletion
  | poisoned
  deriving DecidableEq, Repr

/-- What the ECC of a store found at an address (R471 to R474); the store is numbered in the order of Table 20-2's
row (0 registers, 1 DMEM, 2 IMEM, 3 scratchpad, 4 Stack SRAM, 5 directory, 6 prefix table, 7 GDDR7, 8 Warden SRAM). -/
inductive EccEvent where
  | none
  | corrected (store addr : Nat)
  | uncorrectable (store addr : Nat)
  deriving DecidableEq, Repr

/-- What the ECC of one address found (R471 to R474). -/
inductive EccFound where
  | clean | corrected | uncorrectable
  deriving DecidableEq, Repr

/-- The JTAG operations of R443. -/
inductive JtagOp where
  | bypass | idcode | samplePreload | extest | internalDebug
  deriving DecidableEq, Repr

/-- Whether each of a Warden request's two signatures verifies under the key its signer code names (R453). -/
structure SigVerdict where
  a : Bool := false
  b : Bool := false
  deriving DecidableEq, Repr

/-- The commands of the block, one constructor per row of spec/opcode_table.json, with the operands the outside
supplies: addresses, values, lengths, and what a sensor, a medium, a verifier or the host answered. -/
inductive Instr where
  /-- PWR_EN_CHANGE, R23: PWR_EN at P1-018 changes level, which starts or ends the qualification and shutdown conditions of Table 1-2. -/
  | pwrEnChange (level : Bool) (heldUs : Nat)
  /-- RAIL_SEQUENCING_START, R23: Vin at or above 58 V with PWR_EN high for 10 ms begins rail sequencing (step 2). -/
  | railSequencingStart (vinMv heldUs : Nat)
  /-- RAIL_REGULATION_TIMEOUT, R47: A rail misses regulation within 3 ms; rails are removed, the sequencing-fault word is recorded and the device holds with CAUSE 0x01. -/
  | railRegulationTimeout (rail : Nat)
  /-- PWR_OK_RELEASE, R48: All rails are in regulation; PWR_OK is released and the Warden leaves reset to run its boot ROM. -/
  | pwrOkRelease
  /-- INPUT_SHUTDOWN, R24: A Table 1-2 condition persists for its duration; PWR_OK drops, rails are removed, nothing commits, volatile contents are lost and the cause word is recorded. -/
  | inputShutdown (vinMv iinMa heldNs : Nat)
  /-- INPUT_EXCURSION_END, R23: Vin leaves the band of an excursion whose outcome lets operation continue; one trouble-log entry 0x0003 is written. -/
  | inputExcursionEnd (row extremeMv spanNs : Nat)
  /-- POWER_64V_APPLIED, R497: Vin rises to 40 V or above after removal; BOOT_CFG, HT_SEED and FAB_ID reset to their reset values. -/
  | power64vApplied (vinMv removedMs : Nat)
  /-- POWER_64V_REMOVED, R497: Vin falls below 40 V, starting the 1 s removal count of R25. -/
  | power64vRemoved (vinMv : Nat)
  /-- CABLE_POWER_OVERLOAD, R34: A cable draws more than 4.0 W for 1 ms; CBL_PWR of that cage turns off and its three ports go down. -/
  | cablePowerOverload (cage milliwatts heldUs : Nat)
  /-- CAGE_PRESENCE_CHANGE, R267: CAGE_PRES_N changes; a seated plug starts cable-memory read and training, a removed plug takes its ports down. -/
  | cagePresenceChange (cage : Nat) (seated : Bool)
  /-- PERST_N_ASSERT, R31: The host asserts PERST_N, resetting only the host-link function. -/
  | perstAssert
  /-- PERST_N_DEASSERT, R63: The host deasserts PERST_N, letting step 7 begin or resume host-link training. -/
  | perstDeassert
  /-- ROOT_SOURCE_LOSS, R40: The selected root source shows no edge for 200 ns or drifts beyond 50 ppm; the root enters holdover and an alarm is raised. -/
  | rootSourceLoss (noEdgeNs driftPpm : Nat)
  /-- ROOT_SOURCE_RETURN, R40: The selected source has been valid for 10 ms; the root returns to it phase-continuously. -/
  | rootSourceReturn (validUs : Nat)
  /-- WARDEN_SELF_TEST_DONE, R48: The boot ROM self-test ends; on pass, step 4 begins; on failure, the device holds with CAUSE 0x02. -/
  | wardenSelfTestDone (pass subjectOk storeCrcOk : Bool)
  /-- REPAIR_MAP_VOTE, R50: The three repair-map copies have been read and the map is taken or the device holds with REPAIR_DISAGREE. -/
  | repairMapVote (copies : List (List Byte)) (bist : List (BitVec 9)) (columns : List Nat) (owners : List (List Byte))
  /-- REPAIR_REBUILD, R52: Writing 1 to REPAIR_REBUILD while CAUSE is 0x03 starts the built-in self-test of every resource. -/
  | repairRebuild
  /-- REPAIR_REBUILD_DONE, R52: The rebuild self-test ends; a new map is written to all three copies and bring-up restarts at step 3. -/
  | repairRebuildDone (body : List Byte)
  /-- BOOT_MBOX_LENGTH_WRITE, R55: A write of LENGTH sets the image length and resets the data pointer. -/
  | bootMboxLengthWrite (len : BitVec 24)
  /-- BOOT_MBOX_DATA_WRITE, R55: A write to BOOT_MBOX_DATA places bytes at the data pointer and advances it, or is ignored. -/
  | bootMboxDataWrite (half : Half) (data : BitVec 64)
  /-- BOOT_MBOX_COMMIT, R56: Writing COMMIT starts verification of the mailbox image and increments ATTEMPT. -/
  | bootMboxCommit
  /-- IMAGE_VERIFY_DONE, R54: Image verification ends; a passing image runs (after the reserved-area write if from the mailbox), a failing one holds with IMAGE_VERIFY. -/
  | imageVerifyDone (tinImage : List Byte) (accepts : List Bool)
  /-- RESERVED_IMAGE_WRITE_DONE, R56: The write of a mailbox image to the reserved Tin area ends; step 5 completes and the firmware starts. -/
  | reservedImageWriteDone
  /-- GDDR_TRAINING_DONE, R58: A channel training attempt ends; failures retrain up to twice, and a third failure sets GDDR_FAIL and holds with CAUSE 0x05. -/
  | gddrTrainingDone (channel : Nat) (pass : Bool)
  /-- GDDR_ZERO_FILL_DONE, R59: The encrypted zero fill of 384 GiB ends; step 6 completes and steps 7 and 8 begin. -/
  | gddrZeroFillDone
  /-- TIN_MOUNT_DONE, R60: The Tin translation layer mount completes or fails, releasing step 10's wait. -/
  | tinMountDone (ok : Bool) (capacity spare : Nat)
  /-- HOST_LINK_UP, R61: A training attempt forms a host link; HOST_LINK is set and BAR0, BAR2 and DOE open. -/
  | hostLinkUp (rate width : Nat) (cxl : Bool)
  /-- HOST_LINK_ATTEMPT_TIMEOUT, R61: A 200 ms training attempt forms no link; after five, step 7 completes degraded with RATE 0. -/
  | hostLinkAttemptTimeout
  /-- TIME_EXCHANGE_START, R75: Every 10 µs a non-root device sends a time-exchange request to its upstream. -/
  | timeExchangeStart
  /-- TIME_EXCHANGE_REQUEST_RECEIVE, R77: The upstream stamps t2 and t3 and returns the response with root ID, generation and sequence. -/
  | timeExchangeRequestReceive (port t2 t3 : Nat) (report : NbrReport)
  /-- TIME_EXCHANGE_RESPONSE_RECEIVE, R77: The downstream computes θ and the delay and steers or steps its count. -/
  | timeExchangeResponseReceive (port : Nat) (t1 t2 t3 t4 : Int) (report : NbrReport)
  /-- ROOT_PHASE_STEP, R79: A phase step of at most 0.5 ps lengthens or shortens one root cycle, at least 250 ns after the last. -/
  | rootPhaseStep (fs : Nat) (lengthen : Bool) (sinceNs : Nat)
  /-- EXCHANGE_NO_RESPONSE, R81: A third consecutive exchange gets no response; the device loses its upstream. -/
  | exchangeNoResponse
  /-- HOLD_LIMIT_EXPIRY, R83: Holdover lasts HOLD_LIMIT; the device goes out of tolerance, stops scheduled sending and fails scheduled commands with ROUTE_DEAD. -/
  | holdLimitExpiry
  /-- RELOCK_PAUSE_END, R84: A count held under relock resumes advancing. -/
  | relockPauseEnd
  /-- ROOT_SEQUENCE_INCREMENT, R85: The root increments its root sequence number every 10 µs. -/
  | rootSequenceIncrement
  /-- BACKUP_ROOT_TAKEOVER, R85: Backup k sees no root-sequence increase for (k+1)×100 µs and takes the root role with a higher generation. -/
  | backupRootTakeover
  /-- HALL_TIMER_FIRE, R93: An armed timer reaches CMP; it sets FIRED, delivers its owner's event and disarms or adds PERIOD. -/
  | hallTimerFire (timer : Nat)
  /-- HT_TMR_CMP_WRITE, R92: A write to a timer's CMP applies from its owner, or is ignored and logged; a past CMP fires LATE. -/
  | htTmrCmpWrite (requester timer : Nat) (half : Half) (value : BitVec 64)
  /-- HT_TMR_CTL_WRITE, R93: A write to a timer's CTL arms or configures it; writes from non-owners or with PERIOD below 5 are ignored and logged. -/
  | htTmrCtlWrite (requester timer : Nat) (half : Half) (value : BitVec 64)
  /-- REFRESH_BATCH, R98: Each GDDR7 controller issues its refresh batch in slot position 15, and in position 7 when doubled. -/
  | refreshBatch (channel : Nat)
  /-- REFRESH_RATE_CHANGE, R98: A GDDR7 temperature readout crosses the doubled-refresh threshold, adding or removing the second batch. -/
  | refreshRateChange (channel : Nat) (hot : Bool)
  /-- BLEND_CLAIM, R105: CLAIM sets CLAIMANT and moves the stage from EMPTY to CLAIMED. -/
  | blendClaim (requester : Nat)
  /-- BLEND_LOAD, R106: LOAD copies BLD_LEN bytes from BLD_SRC, resets staged values and starts checking. -/
  | blendLoad (requester : Nat)
  /-- BLEND_CHECK_DONE, R109: Checking ends; the stage becomes CHECKED, or CLAIMED with the first failure in BLD_RESULT and a log entry. -/
  | blendCheckDone (sigOk : Bool)
  /-- HOP_TABLE_LOAD_DEFER_END, R278: A LOAD carrying HOP held in CHECKING reaches BLD_HOP_FLIP_AT + 100,000 and writes the unused hop-table version. -/
  | hopTableLoadDeferEnd
  /-- BLEND_APPLY, R112: APPLY rechecks if DIRTY, checks signature policy and BLD_APPLY_TIME, and arms the stage or refuses. -/
  | blendApply (requester : Nat)
  /-- BLEND_CANCEL, R105: CANCEL before T − 2,560 returns an ARMED stage to CHECKED. -/
  | blendCancel (requester : Nat)
  /-- BLEND_RELEASE, R105: RELEASE discards the stage and returns it to EMPTY. -/
  | blendRelease (requester : Nat)
  /-- ST_FIELD_WRITE, R104: A write to an ST field changes its staged value and sets DIRTY, or is ignored and logged while ARMED. -/
  | stFieldWrite (offset : Nat) (half : Half) (value : BitVec 64)
  /-- BLEND_APPLY_AT_T, R114: At T the device repeats its T checks and applies every staged setting at once, or refuses and returns to CHECKED. -/
  | blendApplyAtT
  /-- REGISTER_WRITE, R16: A write to a register with no row of its own applies by its access code, or is ignored. -/
  | registerWrite (requester offset : Nat) (half : Half) (value : BitVec 64)
  /-- BUNDLE_ISSUE, R126: A bundle issues when its long-running instructions find queue room and no WAIT holds, else stalls for the cycle. -/
  | bundleIssue (core : Nat) (ecc : EccEvent)
  /-- WAIT_SATISFIED, R128: The condition of a held WAIT or WAITD is met; GE_ADV or FLAG_TAKE act and issue resumes, clearing WAITD's result flag. -/
  | waitSatisfied (core : Nat)
  /-- WAITD_DEADLINE, R129: At the end of the deadline tick with the condition unmet, WAITD completes and sets its result flag. -/
  | waitdDeadline (core : Nat)
  /-- TASK_END_DRAINED, R130: After END, every queue is empty and every started instruction complete; the core's task is done. -/
  | taskEndDrained (core : Nat)
  /-- LD_T, R136: LD.T starts when its wait is met and copies tensor D0 to D1. -/
  | ldT (core : Nat)
  /-- LD_G, R146: LD.G starts and gathers rows of D0 by INDEX32 indices into D2 under its OOB mode. -/
  | ldG (core : Nat)
  /-- LD_CR, R151: LD.CR starts and requests credit for a neighbour's window. -/
  | ldCr (core : Nat)
  /-- CREDIT_GRANT, R151: A window becomes grantable and is granted to the oldest pending request, setting HOLDER and completing its LD.CR. -/
  | creditGrant (core window : Nat)
  /-- ST_T, R149: ST.T starts and copies tensor D0 to D1, locally, to a neighbour or remotely. -/
  | stT (core : Nat)
  /-- ST_S, R146: ST.S starts and scatters rows of D0 by index into table D2. -/
  | stS (core : Nat)
  /-- ST_A, R293: ST.A starts and issues remote atomics element by element. -/
  | stA (core : Nat)
  /-- ST_FENCE, R302: ST.FENCE starts and completes after every earlier remote write of the core has ended. -/
  | stFence (core : Nat)
  /-- MMA, R165: MMA starts on the array and computes C = A × Bᵀ in the fixed reduction order. -/
  | mma (core : Nat)
  /-- MMA_SCREEN, R193: MMA.SCREEN starts, scores channels at MXFP4 and writes the counted list of selected channels. -/
  | mmaScreen (core : Nat)
  /-- TCVT, R161: TCVT starts and converts tensor D0 to the format of D1. -/
  | tcvt (core : Nat)
  /-- TADD, R175: TADD starts and writes D2 = D0 + D1 with one rounding. -/
  | tadd (core : Nat)
  /-- TMUL, R175: TMUL starts and writes D2 = D0 × D1 with one rounding. -/
  | tmul (core : Nat)
  /-- TRED, R174: TRED starts and writes exact FP32 sums over dimension 0. -/
  | tred (core : Nat)
  /-- TSPARSE_STRICT, R188: TSPARSE in STRICT mode compresses keeping every non-zero, failing over-full groups. -/
  | tsparseStrict (core : Nat)
  /-- TSPARSE_PRUNE, R189: TSPARSE in PRUNE mode keeps the N largest magnitudes per group. -/
  | tsparsePrune (core : Nat)
  /-- TSPARSE_MASK, R188: TSPARSE in MASK mode keeps the positions named by the metadata. -/
  | tsparseMask (core : Nat)
  /-- TSPARSE_NZLIST, R195: TSPARSE in NZLIST mode writes the counted list of non-zero dimension-0 positions. -/
  | tsparseNzlist (core : Nat)
  /-- LONG_INSTRUCTION_COMPLETE, R124: A long-running instruction's writes become visible and its signal counter increments. -/
  | longInstructionComplete (core unit : Nat) (overlapped : Bool) (frozen cause : Nat) (drain : Bool)
  /-- CORE_MODE_WRITE, R150: Host writes CORE_MODE while the core is idle, or the write is ignored and logged. -/
  | coreModeWrite (core : Nat) (mode : BitVec 2)
  /-- URN_INSERT, R199: INSERT adds keyed vectors into an Urn table, spilling when buckets are full, applied at commit. -/
  | urnInsert
  /-- URN_DRAIN, R203: DRAIN merges resident slots and spill records, writes one record per key and clears the table. -/
  | urnDrain
  /-- URN_CLEAR, R204: CLEAR empties a table and its spill area. -/
  | urnClear
  /-- SELECT, R219: SELECT scores, selects experts, assigns capacity slots and writes choice records, dispatch list, shape words and bitmap. -/
  | select
  /-- DIR_WRITE, R210: DIR_WRITE checks and writes Expert Directory entries at commit. -/
  | dirWrite
  /-- DIR_READ, R209: DIR_READ copies directory entries to a tensor. -/
  | dirRead
  /-- DIR_BIAS, R211: DIR_BIAS adds deltas to entry biases, rounded to BF16. -/
  | dirBias
  /-- DISPATCH, R240: DISPATCH reads its dispatch list, assigns destinations and builds the count vector. -/
  | dispatch
  /-- COMBINE, R255: COMBINE starts returning expert outputs along reverse paths. -/
  | combine
  /-- SPOUT_RELEASE, R239: RELEASE frees an exchange context. -/
  | spoutRelease
  /-- EXCHANGE_PART_START, R247: A count round, dispatch stage or combine stage begins in its first owned slot. -/
  | exchangePartStart (ctx : Nat)
  /-- SCHED_FLIT_SEND, R244: A scheduled stream flit leaves at its lane position. -/
  | schedFlitSend (port slot pos : Nat)
  /-- SCHED_FLIT_FORWARD, R245: A forwarder sends a scheduled flit on in the next owned slot at the same position. -/
  | schedFlitForward (port slot pos : Nat)
  /-- SPOUT_STREAM_COMPLETE, R252: An inbound count or data stream completes and is checked for COUNT, CRC and header agreement. -/
  | spoutStreamComplete (ctx src : Nat)
  /-- SPOUT_LATE_START, R258: A command not ready by its effective start sends nothing and fails with REMOTE_TIMEOUT. -/
  | spoutLateStart (ctx : Nat)
  /-- SPOUT_RECEIVE_DEADLINE, R253: At END + RX_SLACK an incomplete stream fails the command with REMOTE_TIMEOUT. -/
  | spoutReceiveDeadline (ctx : Nat)
  /-- DISPATCH_COMMIT, R254: DISPATCH commits once all streams, forwarding and L0 copy are done, writing shape words and the row list. -/
  | dispatchCommit (ctx : Nat)
  /-- COMBINE_COMMIT, R256: COMBINE commits, summing each token's outputs in choice-record order, and frees its context. -/
  | combineCommit (ctx : Nat)
  /-- CABLE_MEMORY_READ, R267: Training step 1 reads the cable memory and enables CBL_PWR for class 2. -/
  | cableMemoryRead (port : Nat) (mem : Option (List Byte))
  /-- PMD_EQUALISATION_DONE, R269: Training step 2 completes PMD equalisation on all 8 lanes. -/
  | pmdEqualisationDone (port : Nat)
  /-- FEC_LOCK_DONE, R269: Training step 3 completes FEC lock and lane deskew. -/
  | fecLockDone (port : Nat)
  /-- LINK_LAYER_EXCHANGE_DONE, R269: Training step 4 exchanges FAB_ID, port number and path latencies. -/
  | linkLayerExchangeDone (port : Nat) (peerId : BitVec 16) (peerPort peerTx peerRx : Nat)
  /-- MUTUAL_AUTHENTICATION_DONE, R270: Step 5 verifies the peer and derives link keys, or refuses the peer. -/
  | mutualAuthenticationDone (port : Nat) (peer : Hello) (chainOk peerRefused : Bool) (report : NbrReport)
  /-- TRAINING_STEP_TIMEOUT, R269: A training step exceeds its limit and the port reads its failed state. -/
  | trainingStepTimeout (port : Nat) (lane : Option Nat) (loopbackFails : Bool)
  /-- PORT_TRAINING_RETRY, R64: One second after a training failure a port with a seated cable retries. -/
  | portTrainingRetry (port sinceMs : Nat)
  /-- AUTHENTICATION_RETRY, R64: Ten seconds after an authentication failure the port retries. -/
  | authenticationRetry (port sinceMs : Nat)
  /-- PEER_TRAINING_DETECTED, R64: A listening port detects peer training signalling and begins step 2 at once. -/
  | peerTrainingDetected (port : Nat)
  /-- LINK_KEY_ROLLOVER, R272: At each multiple of 2^32 positions each end replaces the direction's key. -/
  | linkKeyRollover (port : Nat) (transmit : Bool)
  /-- FLIT_RECEIVE, R275: A flit passes or fails its check and is forwarded, delivered or discarded by its route nibble and epoch. -/
  | flitReceive (port : Nat) (flit : Flit) (fecOk : Bool) (fec count pos : Nat)
  /-- ERR_RSP_SEND, R289: A router sends an ERR_RSP for a discarded MEM_REQ from 8 ns after the fault. -/
  | errRspSend
  /-- LCTL_SEND, R282: A port sends an LCTL each repair slot and at least once per 256 arbitrated receive positions. -/
  | lctlSend (port : Nat)
  /-- LCTL_RECEIVE, R282: An LCTL returns credits, acknowledges flits and reports NAKs and VC1 holes. -/
  | lctlReceive (port : Nat) (msg : Lctl)
  /-- VC1_RETRY_SEND, R284: A kept VC1 flit is resent with RETRY 1 in the first free repair-slot position. -/
  | vc1RetrySend (port slot pos : Nat)
  /-- PORT_DOWN, R285: A port goes down; queued flits are discarded, an alarm is raised and retraining starts. -/
  | portDown (port cond : Nat)
  /-- CONG_REPORT_SEND, R290: At the end of each FAB_FM.PERIOD a CONG flit is sent or dropped. -/
  | congReportSend
  /-- REMOTE_REQUEST_SEND, R294: A remote request is split, numbered and injected by its path-table route, or ends with ROUTE_DEAD. -/
  | remoteRequestSend
  /-- REMOTE_LOAD, R292: A LOAD request at the destination reads LEN bytes and responds. -/
  | remoteLoad
  /-- REMOTE_STORE, R297: A STORE request at the destination writes LEN bytes under the stream record. -/
  | remoteStore
  /-- REMOTE_STORE_F, R298: A STORE_F request is held until earlier writes of its stream are applied. -/
  | remoteStoreF
  /-- STORE_F_RELEASE, R298: A held STORE_F's gap closes; its data and flag add apply and it responds. -/
  | storeFRelease
  /-- STORE_F_GAP_TIMEOUT, R299: A hold open for LOAD_TIMEOUT/2 marks missing numbers lost, applies data without the flag and answers CHECK_MISMATCH. -/
  | storeFGapTimeout
  /-- AADD, R293: AADD adds A to the word and returns the old word. -/
  | aadd
  /-- AMIN, R293: AMIN writes the signed minimum and returns the old word. -/
  | amin
  /-- AMAX, R293: AMAX writes the signed maximum and returns the old word. -/
  | amax
  /-- AAND, R293: AAND ANDs A into the word and returns the old word. -/
  | aand
  /-- AOR, R293: AOR ORs A into the word and returns the old word. -/
  | aor
  /-- AXOR, R293: AXOR XORs A into the word and returns the old word. -/
  | axor
  /-- ASWAP, R293: ASWAP writes A and returns the old word. -/
  | aswap
  /-- ACAS, R339: ACAS writes B if the word equals A and returns the old word, also taking landing-window credit. -/
  | acas
  /-- FADD, R311: FADD adds A as FP32 and returns the old word, counted in FAB_RM_CNT_FP_ATOMIC. -/
  | fadd
  /-- MEM_RSP_RECEIVE, R295: A MEM_RSP or ERR_RSP ends its request, writing data or all-ones. -/
  | memRspReceive
  /-- REMOTE_REQUEST_DEADLINE, R307: A request without a response at its deadline ends with REMOTE_TIMEOUT. -/
  | remoteRequestDeadline (tag : Nat)
  /-- REDUCE_SCATTER, R315: REDUCE_SCATTER starts a rank-ordered reduction over the plan's phases. -/
  | reduceScatter
  /-- ALL_GATHER, R314: ALL_GATHER starts gathering every member's shard in rank order. -/
  | allGather
  /-- COLLECTIVE_PART_START, R320: A collective's count round or stage begins in its first owned slot. -/
  | collectivePartStart
  /-- CHUNK_RECEIVE, R317: A received chunk's seal and header are checked before it is summed, stored or forwarded. -/
  | chunkReceive (src : Nat)
  /-- COLLECTIVE_LATE, R322: A collective not ready by its effective start sends nothing and fails with REMOTE_TIMEOUT. -/
  | collectiveLate
  /-- COLLECTIVE_RECEIVE_DEADLINE, R321: At END + RX_SLACK an incomplete stream fails the collective with REMOTE_TIMEOUT. -/
  | collectiveReceiveDeadline
  /-- COLLECTIVE_COMMIT, R315: A collective commits its outputs once all streams are complete. -/
  | collectiveCommit
  /-- START, R324: START joins the job-start broadcast, checking trees and blend IDs. -/
  | start
  /-- START_ACK_RECEIVE, R326: An ACK arrives from a tree-A child; once all children have acked the device acks its parent, or the root commits. -/
  | startAckReceive (port : Nat) (msg : StartMsg)
  /-- ACK_DEADLINE_EXPIRY, R326: ACK_DEADLINE passes at the root without TOTAL; ABORT is sent and START fails. -/
  | ackDeadlineExpiry
  /-- START_COMMIT_RECEIVE, R327: A first COMMIT is forwarded to all children and APPLY is performed at T. -/
  | startCommitReceive (port : Nat) (msg : StartMsg)
  /-- START_ABORT_RECEIVE, R327: A first ABORT is forwarded and START ends with REMOTE_TIMEOUT. -/
  | startAbortReceive (port : Nat) (msg : StartMsg)
  /-- START_COMMIT_TIMEOUT, R327: No COMMIT by ACK_DEADLINE + DEPTH × 2,720; START ends with REMOTE_TIMEOUT. -/
  | startCommitTimeout
  /-- START_ROLLBACK, R330: At R after a failed start check the job is killed, PRIOR_ID restored, windows scrubbed and the stage kept CHECKED. -/
  | startRollback
  /-- COPY, R341: NCH COPY copies a source tensor to a destination. -/
  | copy
  /-- FILL, R341: NCH FILL writes a 64-bit pattern over a destination. -/
  | fill
  /-- GATHER, R342: NCH GATHER copies indexed rows in index order. -/
  | gather
  /-- POOL, R343: NCH POOL sums, averages or maxes each bag of rows in fixed order. -/
  | pool
  /-- REDUCE, R342: NCH REDUCE sums 2 to 7 inputs in ascending order. -/
  | reduce
  /-- HOST_READ, R344: HOST_READ copies host memory into a device tensor. -/
  | hostRead (reply : HostReply)
  /-- HOST_WRITE, R344: HOST_WRITE writes a device tensor to host memory and runs to completion. -/
  | hostWrite (reply : HostReply)
  /-- DIGEST, R482: DIGEST writes the SHAKE256 digest of a tensor. -/
  | digest
  /-- AUDIT, R482: AUDIT compares N digests and fails with CHECK_MISMATCH on disagreement. -/
  | audit
  /-- SCRUB_FILL_DONE, R348: The zero fill of a removed lent region or torn-down window completes. -/
  | scrubFillDone
  /-- ALLOC, R353: Caddy ALLOC queues a request for N buffers of a pool. -/
  | alloc
  /-- ALLOC_SERVE, R353: The head request of a pool queue is served once N buffers are free. -/
  | allocServe (pool : Nat)
  /-- ALLOC_DEADLINE, R353: An ALLOC unserved at the end of its deadline tick ends with DEADLINE. -/
  | allocDeadline (pool : Nat)
  /-- FREE, R354: Caddy FREE checks every handle and frees them all, or none with POOL_CHECK. -/
  | free
  /-- CADDY_ENGINE_REQUEST, R355: An engine asks Caddy directly for buffers or frees handles under its requester code. -/
  | caddyEngineRequest (requester pool count deadline : Nat) (handles : List (BitVec 64))
  /-- CREATE, R358: TIN CREATE makes a zero-filled object and writes its handle. -/
  | create
  /-- TIN_WRITE, R359: TIN WRITE places data in erased pages and switches the map in one journal record at commit. -/
  | tinWrite (failed : List Nat)
  /-- TIN_READ, R360: TIN READ returns the object as of its start, rebuilding pages from parity. -/
  | tinRead (failed : List (Nat × Nat × Nat)) (bad : List Nat)
  /-- TIN_DELETE, R357: TIN DELETE removes an object and increments its generation. -/
  | tinDelete (failed : List Nat)
  /-- TIN_STAT, R358: TIN STAT writes an object's size and generation. -/
  | tinStat
  /-- WEAR_LEVEL_MOVE, R362: An erase-count spread above 512 moves the coldest block. -/
  | wearLevelMove (failed : List Nat)
  /-- READ_DISTURB_MOVE, R362: A block read 50,000 times since erase is moved. -/
  | readDisturbMove (block : Nat) (failed : List Nat)
  /-- RETENTION_PATROL, R362: Each block is patrol-read once per 7 days and weak pages are moved. -/
  | retentionPatrol (block : Nat) (weak failed : List Nat)
  /-- UPDATE, R371: UPDATE applies the optimiser rule block by block and writes the working copy by stochastic rounding. -/
  | update
  /-- STEP_ADVANCE, R374: STEP ADVANCE adds 1 to a range of step counters at commit. -/
  | stepAdvance
  /-- STEP_SET, R374: STEP SET writes VALUE into a range of step counters. -/
  | stepSet
  /-- INFUSER_STREAM, R381: STREAM sends a header and data flits in POSJOB's slot positions. -/
  | infuserStream
  /-- INFUSER_STREAM_LATE, R382: A STREAM not started by its effective start fails with REMOTE_TIMEOUT. -/
  | infuserStreamLate
  /-- INFUSION_STREAM_RECEIVE, R383: The receiver checks an infusion stream against the SHADOW region and marks its shard complete or discards it. -/
  | infusionStreamReceive (src : Nat)
  /-- ACCEPT, R384: ACCEPT makes a FREE region SHADOW for a new version. -/
  | accept
  /-- ACCEPT_COMPLETE, R384: NSHARDS shards are complete; ACCEPT commits and the region becomes READY. -/
  | acceptComplete (set : Nat)
  /-- ACCEPT_DEADLINE, R384: ACCEPT misses its deadline, fails with REMOTE_TIMEOUT and frees the region. -/
  | acceptDeadline (set : Nat)
  /-- SWAP, R385: SWAP rounds T and arms its Infuser-owned timer. -/
  | swap
  /-- SEQ_BEGIN, R386: SEQ_BEGIN makes sequence entries VALID on the live version. -/
  | seqBegin
  /-- SEQ_END, R386: SEQ_END clears entries and releases the OLD region when none hold it. -/
  | seqEnd
  /-- COOLING_END, R388: A COOLING region becomes FREE at the first frame boundary after release plus GUARD. -/
  | coolingEnd (set region : Nat)
  /-- PREFIX_HASH, R392: HASH computes chained block keys of a token sequence. -/
  | prefixHash
  /-- PREFIX_LOOKUP, R395: LOOKUP reports the held prefix length and its handles. -/
  | prefixLookup
  /-- PREFIX_INSERT, R398: INSERT moves request blocks into the prefix table, evicting under R396. -/
  | prefixInsert
  /-- ADMIT, R400: ADMIT admits or refuses request rows by slot, size, KV memory and finish time. -/
  | admitRequest
  /-- GROW, R399: GROW allocates reserved KV blocks for a request from Caddy. -/
  | grow
  /-- STEP_BEGIN, R401: STEP_BEGIN checks generation-before-prefill and marks named requests IN_STEP. -/
  | stepBegin
  /-- STEP_COMMIT, R402: STEP_COMMIT emits or retires each row of the step by its deadline. -/
  | stepCommit
  /-- RETIRE, R404: RETIRE retires a request and frees its blocks unless pinned. -/
  | retire
  /-- PIN, R404: PIN sets or clears PINNED, releasing a retired pinned request. -/
  | pin
  /-- REQUEST_DEADLINE_RETIRE, R403: An ADMITTED request not IN_STEP at its deadline tick is retired with DEADLINE. -/
  | requestDeadlineRetire (job request : Nat)
  /-- TENANT_KEY_LOAD, R393: LOAD makes the four key words tenant key k after the running command commits, invalidating its entries. -/
  | tenantKeyLoad (key : Nat)
  /-- JOB_ARM, R411: Engine 0 ARM sets a job counter's target. -/
  | jobArm
  /-- JOB_ARMADD, R411: Engine 0 ARMADD adds to a job counter's target. -/
  | jobArmadd
  /-- JOB_STEP, R411: Engine 0 STEP sets a job counter's step. -/
  | jobStep
  /-- JOB_CSET, R411: Engine 0 CSET sets a job counter. -/
  | jobCset
  /-- JOB_CINC, R411: Engine 0 CINC adds to a job counter. -/
  | jobCinc
  /-- SAVE, R422: SAVE copies the listed live ranges into the save area. -/
  | save
  /-- RESTORE, R422: RESTORE copies saved ranges back. -/
  | restore
  /-- PLOAD, R412: PLOAD copies IMEM and DMEM images to a run of cores. -/
  | pload
  /-- TASK, R412: TASK starts a run of cores at an entry bundle. -/
  | task
  /-- TASK_COMMIT, R412: Every core of the run has reached END; TASK commits or ends with the lowest failing core's status. -/
  | taskCommit (core : Nat)
  /-- PREEMPT, R420: JOB_CTL PREEMPT stops restartable commands of a job and holds its queues. -/
  | preempt (job : Nat)
  /-- RESUME, R420: JOB_CTL RESUME ends a preemption. -/
  | resume (job : Nat)
  /-- KILL, R420: JOB_CTL KILL ends queued and restartable commands with KILLED. -/
  | kill (job : Nat)
  /-- TEARDOWN_DRAIN_DONE, R423: A torn-down job's commands and remote requests have ended; scrubbing starts. -/
  | teardownDrainDone (job : Nat)
  /-- TEARDOWN_SCRUB_DONE, R423: A torn-down job's scrub ends and its STATE reads DONE. -/
  | teardownScrubDone (job : Nat)
  /-- CORE_SCRUB_DONE, R425: The 16,384-cycle core zeroing completes and waiting PLOAD and TASK may start. -/
  | coreScrubDone (core : Nat)
  /-- DOORBELL_WRITE, R435: A doorbell write sets a ring's tail, or is ignored and logged. -/
  | doorbellWrite (ring tail : Nat)
  /-- DESCRIPTOR_FETCH, R435: A descriptor read completes; the command is checked under R410 and queued, or a read error sets FAULT. -/
  | descriptorFetch (ring : Nat) (bytes : Option (BitVec 512))
  /-- CQ_HEAD_WRITE, R436: Writing CQ_HEAD frees completion-queue reservations and lets fetching resume. -/
  | cqHeadWrite (ring : Nat) (half : Half) (value : BitVec 64)
  /-- INTERRUPT_COALESCE_TIMEOUT, R438: COAL_US after a ring's first unsignalled post, its MSI-X vector is raised. -/
  | interruptCoalesceTimeout (ring : Nat)
  /-- BIAS_FLIP, R433: BIAS_CMD GO starts flipping a run of bias pages, or is refused for pinned pages. -/
  | biasFlip (value : BitVec 64)
  /-- BIAS_FLIP_PAGE_DONE, R433: A page flip to device bias completes after claiming its lines. -/
  | biasFlipPageDone (page : Nat)
  /-- HOST_CXL_MEM_ACCESS, R432: A host CXL.mem access is served under the page's bias, flipping it if needed. -/
  | hostCxlMemAccess (addr len : Nat) (write : Option (List Byte))
  /-- HOST_BAR4_ACCESS, R431: A host BAR4 access acts as a plain load or store in the HOST_WIN range. -/
  | hostBar4Access (offset len : Nat) (write : Option (List Byte))
  /-- HOST_LINK_DOWN, R439: The link goes down or PERST_N asserts; rings disable, posts are lost and host-bias pages return. -/
  | hostLinkDown
  /-- IDE_INTEGRITY_FAILURE, R441: An IDE integrity failure is reported and takes the link down. -/
  | ideIntegrityFailure
  /-- DOE_DISCOVERY, R440: DOE Discovery lists the supported protocols. -/
  | doeDiscovery (index : BitVec 8)
  /-- DOE_ABORT, R440: A DOE Abort discards the request in progress. -/
  | doeAbort
  /-- GET_VERSION, R440: SPDM GET_VERSION returns supported versions. -/
  | getVersion
  /-- GET_CAPABILITIES, R440: SPDM GET_CAPABILITIES returns responder capabilities. -/
  | getCapabilities
  /-- NEGOTIATE_ALGORITHMS, R440: SPDM NEGOTIATE_ALGORITHMS selects Ed448, SHA3-512 and the session suite. -/
  | negotiateAlgorithms
  /-- GET_DIGESTS, R440: SPDM GET_DIGESTS returns certificate-chain digests. -/
  | getDigests
  /-- GET_CERTIFICATE, R446: SPDM GET_CERTIFICATE returns the slot 0 chain. -/
  | getCertificate (slot : Nat)
  /-- CHALLENGE, R447: SPDM CHALLENGE is answered with an alias-key signature, or an error when CERT_BAD. -/
  | challenge (nonce : List Byte)
  /-- GET_MEASUREMENTS, R459: SPDM GET_MEASUREMENTS returns the signed blocks of Table 18-8. -/
  | getMeasurements (index : Nat) (nonce : List Byte)
  /-- KEY_EXCHANGE, R440: SPDM KEY_EXCHANGE starts a session, or errors when CERT_BAD. -/
  | keyExchange (request : List Byte)
  /-- FINISH, R440: SPDM FINISH completes session establishment. -/
  | finish (verified : Bool)
  /-- HEARTBEAT, R440: SPDM HEARTBEAT keeps a session alive. -/
  | heartbeat
  /-- KEY_UPDATE, R440: SPDM KEY_UPDATE refreshes session keys. -/
  | keyUpdate
  /-- END_SESSION, R460: SPDM END_SESSION ends a session and removes its keys. -/
  | endSession
  /-- IDE_KM, R441: IDE_KM in a session programs or refreshes IDE keys without traffic loss. -/
  | ideKm (request : List Byte) (program : Bool)
  /-- CDAT_READ, R440: CXL Table Access returns the CDAT memory figures. -/
  | cdatRead (entry : Nat)
  /-- I3C_SETDASA, R442: SETDASA assigns the dynamic address from static address 0x3A. -/
  | i3cSetdasa (staticAddr dynamicAddr : BitVec 7)
  /-- I3C_REGISTER_WRITE, R442: A sideband private write reaches a permitted register, or is ignored and counted. -/
  | i3cRegisterWrite (bytes : List Byte)
  /-- I3C_REGISTER_READ, R442: A sideband private write of 0x01 and offset followed by a read returns 8 bytes of a permitted block. -/
  | i3cRegisterRead (bytes : List Byte)
  /-- JTAG_TAP_ACCESS, R443: JTAG operations act only at the debug level the Warden has granted. -/
  | jtagTapAccess (op : JtagOp)
  /-- WMB_CTRL_LENGTH_WRITE, R453: Writing the Warden mailbox LENGTH resets its data pointer. -/
  | wmbCtrlLengthWrite (len : BitVec 16)
  /-- WMB_DATA_WRITE, R453: A write to WMB_DATA places request bytes and advances the pointer. -/
  | wmbDataWrite (half : Half) (data : BitVec 64)
  /-- WMB_RDATA_READ, R453: A read of WMB_RDATA returns 8 response bytes and advances. -/
  | wmbRdataRead
  /-- MAINT_ENTER, R456: MAINT_ENTER enters the maintenance stop when idle and the stage is EMPTY. -/
  | maintEnter (sig : SigVerdict)
  /-- MAINT_EXIT, R456: MAINT_EXIT ends maintenance with a restart at step 3. -/
  | maintExit (sig : SigVerdict)
  /-- FW_UPDATE, R457: FW_UPDATE verifies an image in GDDR7 and starts writing it to the reserved area. -/
  | fwUpdate (sig : SigVerdict) (accepts : List Bool)
  /-- FW_IMAGE_WRITE_DONE, R457: The reserved-image write ends and the device restarts at step 3. -/
  | fwImageWriteDone
  /-- SVN_COMMIT, R458: SVN_COMMIT burns thermometer bits up to the running image's security version. -/
  | svnCommit (sig : SigVerdict)
  /-- FWKEY_REVOKE, R453: FWKEY_REVOKE burns a firmware-key revocation bit. -/
  | fwkeyRevoke (sig : SigVerdict)
  /-- OWNER_CLAIM, R454: OWNER_CLAIM burns an owner bit and seals a new owner record. -/
  | ownerClaim (sig : SigVerdict)
  /-- OWNER_SET, R454: OWNER_SET replaces the owner record under an owner signature. -/
  | ownerSet (sig : SigVerdict)
  /-- OWNER_RELEASE, R454: OWNER_RELEASE burns an owner bit and erases the copies. -/
  | ownerRelease (sig : SigVerdict)
  /-- RECORD_RESTORE, R455: RECORD_RESTORE writes a sealed record to all copies, clearing OWNER_LOST. -/
  | recordRestore (sig : SigVerdict)
  /-- DEBUG_AUTH, R443: DEBUG_AUTH raises the debug level, erasing memory keys for level 2. -/
  | debugAuth (sig : SigVerdict)
  /-- RECORD_READ, R453: RECORD_READ places the sealed owner record in the response buffer. -/
  | recordRead (sig : SigVerdict)
  /-- KETTLE_CONTROL_STEP, R464: Each µs Kettle samples P1 and sets ballast and target draw. -/
  | kettleControlStep (vin iin : Nat)
  /-- OVERDRAW_KILL, R467: An overdraw persisting 1 ms kills every job. -/
  | overdrawKill
  /-- THERMAL_SAMPLE, R468: Every 100 µs Kettle compares sensors with WARN, TRIP and SHUTDOWN thresholds. -/
  | thermalSample (readings : List (BitVec 16))
  /-- THERMAL_TRIP_CLEAR, R468: Every sensor below WARN for 1 s ends the TRIP hold. -/
  | thermalTripClear
  /-- ENVELOPE_MESSAGE, R462: An envelope CONTROL flit is accepted or rejected by SRC and SEQ. -/
  | envelopeMessage (src : BitVec 16) (payload : List Byte)
  /-- ENVELOPE_IN_FORCE, R462: An accepted envelope message comes into force at AT rounded to a frame. -/
  | envelopeInForce
  /-- ENVELOPE_EXPIRY, R462: An envelope message in force reaches EXPIRY. -/
  | envelopeExpiry
  /-- RAMP_UNTIL, R466: At tick UNTIL an UP ramp's level returns to 0. -/
  | rampUntil (timer : Nat)
  /-- KETTLE_TELEMETRY, R469: Every TEL_PERIOD frames Kettle sends or drops a telemetry MGMT flit. -/
  | kettleTelemetry
  /-- PATROL_READ, R472: Patrol reads lines and writes back corrected ones. -/
  | patrolRead (store addr : Nat) (found : EccFound)
  /-- GDDR_WRITE_REISSUE, R472: A GDDR7 write failing CRC is reissued in slot position 15 of the next frame. -/
  | gddrWriteReissue (addr : Nat)
  /-- LOG_TOKEN_REFILL, R485: A class regains a token and flushes its coalescing counters. -/
  | logTokenRefill (cls : Nat)
  /-- DROP_REPORT, R487: A pending drop report is written as a 0x0070 entry once the gate and 1 ms allow. -/
  | dropReport
  /-- LOG_EXPORT_SEND, R489: Queued log entries leave as a MGMT flit at 7 entries or 10 µs. -/
  | logExportSend
  /-- ALARM_SEND, R490: A queued class 5 entry leaves as an ALARM flit on VC7. -/
  | alarmSend
  /-- LOG_RD_WRITE, R488: Writing LOG_RD consumes log entries, clamped to LOG_WR. -/
  | logRdWrite (half : Half) (value : BitVec 64)
  /-- EXCHANGE_END, R259: At the END of the exchange, a Spout member whose command has already failed stops sending and forwarding and completes with its status. -/
  | exchangeEnd (ctx : Nat)
  /-- COLLECTIVE_END, R322: At the END of the final stage, a collective member whose command has already failed stops sending, forwarding and sealing and completes with its status. -/
  | collectiveEnd
  deriving DecidableEq, Repr

end Sys2Proof
end

