-- ==== Sys2Proof/Config.lean ====
section
/-!
DEFINITION. What one device fixes and the spec leaves open: constants with no body (nothing in the model or in a
proof can see their value), each named in the assumption log.
-/

namespace Sys2Proof

/-- DESIGN CHOICE (notes/assumptions/6.md): a byte whose value the spec leaves undefined (R384, R418); the first
argument is the number of the event that left it so, the second its address. -/
opaque Config.freeByte : Nat → Nat → BitVec 8

/-- R453, R444: the n-th request nonce drawn from the Warden's random source. -/
opaque Config.nonce : Nat → BitVec 128

/-- R445, 18_trust_and_warden.md: the 256-bit unique device secret in the fuses. -/
opaque Config.uds : List (BitVec 8)

/-- R446, 18_trust_and_warden.md: the certificates of the root, the product CA and the device, as written at manufacture. -/
opaque Config.rootCert : List (BitVec 8)
opaque Config.productCaCert : List (BitVec 8)
opaque Config.deviceCert : List (BitVec 8)

/-- RFC 8032: the Ed448 public key of a private key, and the signature of a message under a private key. -/
opaque Config.ed448Public : List (BitVec 8) → List (BitVec 8)
opaque Config.ed448Sign : List (BitVec 8) → List (BitVec 8) → List (BitVec 8)

/-- R446: the part of an X.509 alias certificate that is signed, of its subject key, body digest and security version. -/
opaque Config.aliasCertBody : List (BitVec 8) → List (BitVec 8) → Nat → List (BitVec 8)

/-- R336, 13_memory_tiers.md: the n-th GDDR7 key pair drawn from the random source. -/
opaque Config.randomKey : Nat → List (BitVec 8)

/-- R271: AES-256-GCM of a key, nonce, additional data and plaintext: the ciphertext, then the tag. -/
opaque Config.gcm : List (BitVec 8) → List (BitVec 8) → List (BitVec 8) → List (BitVec 8) → List (BitVec 8)

/-- R270, RFC 7748: the n-th X448 private key drawn from the random source, the public key of a private key, and the shared secret of a
private key and a peer's public key. -/
opaque Config.x448Private : Nat → List (BitVec 8)
opaque Config.x448Public : List (BitVec 8) → List (BitVec 8)
opaque Config.x448 : List (BitVec 8) → List (BitVec 8) → List (BitVec 8)

/-- R428, 21_reference_tables.md: silicon stepping, the revision ID. -/
opaque Config.stepping : BitVec 8

/-- R459 block 1: digest of the boot ROM. -/
opaque Config.romDigest : List (BitVec 8)

/-- R361, R364: the free value a shard or page holds when the spec states none; number of the event and index. -/
opaque Config.freeWord : Nat → Nat → BitVec 64

/-- R160, R170: an integer result outside its format, of an operation with its operands, by element (R9: the same of the same operands). -/
opaque Config.outOfRange : List Nat → Nat → BitVec 64

/-- R400: the chunks of a prefill of some tokens by a job that grants none. -/
opaque Config.unboundedChunks : Nat → BitVec 64

/-- R377, R383: the region of a set taken where the spec does not say which. -/
opaque Config.freeRegion : Nat → Bool

/-- R364: where the search for a new object's index starts, of the indices in use, and the first generation of an index. -/
opaque Config.tinIndex : List Nat → BitVec 64
opaque Config.tinGeneration : Nat → BitVec 64

/-- R336, R337: AES-256-XTS of a key pair, a tweak and a data unit. -/
opaque Config.xts : List (BitVec 8) → List Nat → List (BitVec 8) → List (BitVec 8)

/-- R362, 13_memory_tiers.md: blocks of a Tin channel, 16 KiB units of a block, rated erases, and the blocks marked by the factory. -/
opaque Config.tinBlocks : Nat
opaque Config.tinBlockUnits : Nat
opaque Config.tinEndurance : Nat
opaque Config.tinFactoryBad : Nat → Bool

/-- R443: Molnel's JEDEC manufacturer code, and the version bits of IDCODE. -/
opaque Config.jedec : BitVec 11
opaque Config.idVersion : BitVec 4

/-- R440: body of a message whose layout stands in a document the spec only names (SPDM, IDE_KM, CDAT). -/
opaque Config.messageBody : Nat → List (BitVec 8) → List (BitVec 8)

/-- R428: Molnel's PCI-SIG vendor ID, which the spec does not give. -/
opaque Config.vendorId : BitVec 16

/-- R429: what a word of BAR2 shows whose layout stands outside the spec: the offset, and what the block holds for it. -/
opaque Config.barWord : Nat → List Nat → BitVec 64

end Sys2Proof
end

