-- ==== Sys2Proof/Machine/State.lean ====
section
/-!
DEFINITION. The state of the block: every register, buffer, queue, counter, mode and contact the spec gives it, as
plain data. A field's default is its value at reset; where the spec gives none the value is the one of
notes/assumptions/1.md. A `Sparse` table lists the entries that differ from the default, keys rising.
-/

namespace Sys2Proof.Machine

/-! ## Memory -/

/-- R384, R418: a range whose bytes the spec calls undefined since event `epoch`. -/
structure UndefRange where
  base : Nat
  len : Nat
  epoch : Nat
  /-- R198: the range holds empty Urn slots of this many bytes each; 0 where it holds none. -/
  slot : Nat := 0
  deriving DecidableEq, Repr

/-- GDDR7, Stack SRAM and scratchpads by local address (R492): listed bytes, and the undefined ranges. -/
structure Memory where
  cells : List Host.Cell := []
  undef : List UndefRange := []
  deriving DecidableEq, Repr

/-! ## Module: power input, cages, clock root (01_module.md) -/

/-- R21 to R34. -/
structure Power where
  /-- R497: 64 V present at P1. -/
  present : Bool := false
  /-- Last reported input voltage in mV. -/
  vinMv : Nat := 0
  /-- P1-018. -/
  pwrEn : Bool := false
  /-- R468: the Warden's internal enable. -/
  internalEnable : Bool := true
  /-- R23: running, from the start of rail sequencing until the rails are removed. -/
  running : Bool := false
  /-- P1-019 released. -/
  pwrOk : Bool := false
  /-- R25, R47: no restart until one of R25's actions. -/
  latched : Bool := false
  /-- R24: the nonvolatile cause word, if one is recorded. -/
  causeWord : Option Nat := none
  /-- R47: the nonvolatile sequencing-fault word, if one is recorded. -/
  seqFault : Option Nat := none
  /-- CAGE_PRES_N low, per cage 0 to 3 (F1 to F4). -/
  seated : Sparse Bool := []
  /-- R267: the entry for an unreadable cable memory is written, per cage, until the plug is removed. -/
  memLogged : Sparse Bool := []
  /-- CBL_PWR on, per cage. -/
  cablePwr : Sparse Bool := []
  /-- R34: CBL_PWR held off until the plug is reseated, per cage. -/
  cableOff : Sparse Bool := []
  /-- H1-129: PERST_N asserted. -/
  perst : Bool := true
  deriving DecidableEq, Repr

/-- R38: what drives the root PLL. -/
inductive RootSource where
  | oscillator | hallRef | port (p : Nat)
  deriving DecidableEq, Repr

/-- R35: the function of T1-002. -/
inductive AuxFunction where
  | none | epochMarker | traceClock
  deriving DecidableEq, Repr

/-- R37 to R40, R79. -/
structure ClockRoot where
  source : RootSource := .oscillator
  holdover : Bool := false
  /-- R79: phase moved so far by steering, in fs. -/
  phaseFs : Int := 0
  aux : AuxFunction := .none
  deriving DecidableEq, Repr

/-! ## Bring-up (02_bring_up.md, 21_reference_tables.md) -/

/-- One-time-programmed facts of the part (R4, R450, R452, Table 18-1). -/
structure Fuses where
  /-- Grade fused at manufacture: 1 AZB-7T, 2 AZB-7S, 3 AZB-7R. -/
  grade : Nat := 1
  svnBits : Nat := 0
  ownerBits : Nat := 0
  revoked : BitVec 4 := 0
  /-- R78: transmit and receive path latencies of each port, measured at manufacturing test, in 2^-16 ns. -/
  txLatency : Sparse Nat := []
  rxLatency : Sparse Nat := []
  deriving DecidableEq, Repr

/-- R51: a repair map being written: its sequence number and body, the copy that is being written, and when that copy is done (ns
since PWR_OK release). -/
structure RepairWrite where
  seq : Nat := 0
  body : List Byte := []
  copy : Nat := 0
  doneAt : Nat := 0
  deriving DecidableEq, Repr

/-- BOOT_STATE, BOOT_CFG, the boot mailbox and what the ten steps keep. -/
structure Boot where
  step : Nat := 0
  hold : Bool := false
  wait : Bool := false
  degraded : Bool := false
  status : Nat := 0
  cause : Nat := 0
  attempt : Nat := 0
  /-- ns since PWR_OK release (BOOT_STATE.ELAPSED counts its µs). -/
  sincePwrOk : Nat := 0
  imgSrc : Bool := false
  timeRoot : Bool := false
  mboxLen : BitVec 24 := 0
  mboxPtr : Nat := 0
  mboxBusy : Bool := false
  /-- IMG_SRC as sampled at step 5. -/
  fromMailbox : Bool := false
  /-- R56: the write of a mailbox image to the reserved area runs. -/
  imageWriting : Bool := false
  /-- R57: body digest kept, security version, key slot, and the firmware runs. -/
  fwDigest : List Byte := []
  imageSvn : Nat := 0
  fwKeyUsed : Nat := 0
  fwRunning : Bool := false
  /-- The single reserved firmware image, when the block wrote it. -/
  reservedImage : List Byte := []
  /-- R49 to R52: the repair map in force and what was last written. -/
  repairSeq : Nat := 0
  repairSeqWritten : Nat := 0
  repairHighest : Nat := 0
  repairBody : List Byte := []
  repairCopies : Sparse (List Byte) := []
  /-- R476: the map last written in this bring-up, if any, and the maps being written, the one under way first (R51). -/
  repairNext : Option (Nat × List Byte) := none
  repairWrites : List RepairWrite := []
  rebuilding : Bool := false
  gddrFail : BitVec 96 := 0
  gddrTrained : BitVec 96 := 0
  gddrAttempts : Sparse Nat := []
  hostRate : Nat := 0
  hostWidth : Nat := 0
  hostCxl : Bool := false
  hostAttempts : Nat := 0
  step7Done : Bool := false
  step8Done : Bool := false
  /-- R494: feature registers, filled at step 4. -/
  featuresValid : Bool := false
  grade : Nat := 0
  belowGrade : Bool := false
  coreMask : BitVec 256 := 0
  coreCount : Nat := 0
  updatePresent : Bool := false
  /-- R120: physical columns usable per physical row, rows numbered stack × 8 + y. -/
  usable : List (BitVec 9) := []
  deriving DecidableEq, Repr

/-! ## Hall time (03_hall_time.md) -/

/-- Table 3-1. -/
inductive HtState where
  | invalid | acquiring | locked | holdover | outOfTolerance | root
  deriving DecidableEq, Repr

/-- R78: the asymmetry of a port, in 2^-16 ns: device part, cable part, and whether the cable part was read. -/
structure Asym where
  device : Int := 0
  cable : Int := 0
  cal : Bool := false
  deriving DecidableEq, Repr

/-- HT_TMR_CMP_n and HT_TMR_CTL_n. -/
structure HtTimer where
  cmp : Nat := 0
  arm : Bool := false
  periodic : Bool := false
  fired : Bool := false
  late : Bool := false
  flag : BitVec 6 := 0
  period : Nat := 0
  owner : Nat := 0
  /-- R93, R84: a CMP found in the past fires no earlier than this tick. -/
  lateAt : Nat := 0
  deriving DecidableEq, Repr

/-- The HTM block and the servo's own state. -/
structure HallTime where
  state : HtState := .invalid
  /-- The count in ticks once locked or root (R71, R72). -/
  count : Nat := 0
  /-- The provisional count of R76. -/
  prov : Nat := 0
  /-- R76 against R84: acquiring for the first time, not relocking. -/
  firstAcquire : Bool := false
  far : Bool := false
  upstream : Option Nat := none
  rootId : BitVec 16 := 0
  rootGen : BitVec 8 := 0
  hops : Nat := 0
  /-- Last θ and mean delay, in 2^-16 ns. -/
  offset : Int := 0
  delay : Int := 0
  /-- Phase correction still to be spread over the 10 µs of R77, in fs; positive retards. -/
  corr : Int := 0
  seed : Nat := 0
  /-- Consecutive agreeing exchanges, the first of an upstream aside (R76). -/
  agree : Nat := 0
  firstExchange : Bool := true
  /-- θ values of a relock, newest first (R84). -/
  thetas : List Int := []
  noResponse : Nat := 0
  exchanging : Bool := false
  /-- R75: the own count at which the last exchange was started, and at which its request left (R77). -/
  exchangeAt : Option Nat := none
  departedAt : Nat := 0
  /-- R84: ticks the count still holds; scheduled sending waits for this tick. -/
  pause : Nat := 0
  resumeAt : Nat := 0
  /-- R85: root sequence number last seen or own, and the count at its last increase. -/
  rootSeq : Nat := 0
  rootSeqAt : Nat := 0
  /-- R85: the highest generation seen above the own, and the count when one was last seen. -/
  genSeen : BitVec 8 := 0
  genSeenAt : Option Nat := none
  holdSince : Nat := 0
  events : BitVec 6 := 0
  asym : Sparse Asym := []
  nbr : Sparse NbrReport := []
  timers : Sparse HtTimer := []
  /-- R98: channels that run the second refresh batch; batches issued per channel. -/
  doubled : Sparse Bool := []
  batches : Sparse Nat := []
  /-- One more than the slot of each channel's latest batch. -/
  batchAt : Sparse Nat := []
  deriving DecidableEq, Repr

/-! ## The blend (04_blend.md and the section layouts of other chapters) -/

/-- Table 16-1. -/
structure JobEntry where
  jobId : Nat := 0
  tenant : Nat := 0
  excl : Bool := false
  teardown : Bool := false
  hcm : Bool := false
  deriving DecidableEq, Repr

/-- R276: one hop-table entry. -/
structure HopEntry where
  phys : Nat := 0
  en : Bool := false
  dateline : Bool := false
  lmap : BitVec 24 := 0
  deriving DecidableEq, Repr

/-- R234: a phase entry of a route plan: lanes and the route of each lane. -/
structure PlanPhase where
  lanes : BitVec 12 := 0
  routes : List (BitVec 32) := []
  deriving DecidableEq, Repr

/-- Table 9-1. -/
structure Plan where
  tag : BitVec 32 := 0
  dM1 : Nat := 0
  level : Nat := 0
  hmax : Nat := 0
  members : List Nat := []
  phases : List PlanPhase := []
  deriving DecidableEq, Repr

/-- Table 13-2. -/
structure Window where
  kind : Nat := 0
  mode : Nat := 0
  job : Nat := 0
  base : Nat := 0
  len : Nat := 0
  arrival : Nat := 0
  arrCnt : Nat := 0
  deriving DecidableEq, Repr

/-- Table 19-3. -/
structure RampEntry where
  timer : Nat := 0
  kind : Nat := 0
  job : Nat := 0
  rate : Nat := 0
  delta : Nat := 0
  at' : Nat := 0
  until' : Nat := 0
  deriving DecidableEq, Repr

/-- A claim of the TMR section: timer and owner code. -/
structure TimerClaim where
  timer : Nat := 0
  owner : Nat := 0
  deriving DecidableEq, Repr

/-- A claim of the PIN section: T1 position and function (0 none, 1 epoch marker, 2 trace clock, 3 reference in). -/
structure PinClaim where
  contact : Nat := 0
  function : Nat := 0
  deriving DecidableEq, Repr

/-- The settings a blend holds (Table 4-2) that are no ST register, and the ST registers by aperture offset. -/
structure Blend where
  id : BitVec 64 := 0
  jobs : List JobEntry := []
  /-- Job slot of each logical core, 0xFF none. -/
  cores : List Nat := []
  ringMap : List Nat := []
  share : List Nat := []
  trace : List Nat := []
  hop : List HopEntry := []
  /-- Owner slot of port p, position i at p × 16 + i; 0xFF none. -/
  ttab : List Nat := []
  plans : Sparse Plan := []
  rootSource : RootSource := .oscillator
  pins : List PinClaim := []
  timers : List TimerClaim := []
  ramps : List RampEntry := []
  windows : List Window := []
  depth : Nat := 0
  /-- Header digest (Table 18-8). -/
  digest : List Byte := []
  st : Sparse Word := []
  deriving DecidableEq, Repr

/-- BLD_STATE.STATE. -/
inductive StageState where
  | empty | claimed | checking | checked | armed
  deriving DecidableEq, Repr

/-- BLD_RESULT. -/
structure BldResult where
  status : Nat := 0
  resource : Nat := 0
  secNo : Nat := 0
  count : Nat := 0
  index : Nat := 0
  deriving DecidableEq, Repr

/-- The BLD block, the stage, the current blend and the two hop-table versions. -/
structure BlendUnit where
  state : StageState := .empty
  dirty : Bool := false
  delta : Bool := false
  claimant : Nat := 0
  src : Nat := 0
  len : Nat := 0
  applyTime : Nat := 0
  result : BldResult := {}
  stagedId : BitVec 64 := 0
  currentId : BitVec 64 := 0
  appliedAt : Nat := 0
  epoch : Bool := false
  flipAt : Nat := 0
  /-- A flip has happened in this power cycle (R112, R277, R278). -/
  flipped : Bool := false
  modified : Bool := false
  signed : Bool := false
  /-- The copied image, the blend it spells over the current one, and the section codes it carries. -/
  image : List Byte := []
  /-- The fault of the image itself, as LOAD found it with the BLD_LEN of that moment (R102, R109). -/
  verdict : Option BldResult := none
  staged : Blend := {}
  baseId : BitVec 64 := 0
  carried : List Nat := []
  stagedSigned : Bool := false
  /-- Staged value of every ST register (R104). -/
  stagedSt : Sparse Word := []
  /-- ST fields written after LOAD, by offset (R459). -/
  writtenSt : Sparse Word := []
  armedT : Nat := 0
  /-- R278: checking waits until this tick. -/
  deferUntil : Nat := 0
  cur : Blend := {}
  hop0 : List HopEntry := []
  hop1 : List HopEntry := []
  /-- A blend has been applied in this power cycle. -/
  applied : Bool := false
  /-- ST fields applied after LOAD, for the blend measurement. -/
  measSt : Sparse Word := []
  deriving DecidableEq, Repr

/-! ## Commands and jobs (16_jobs_and_sharing.md) -/

/-- A command descriptor (Table 16-2) with its ring, its ring index, its run count and last start. -/
structure Cmd where
  opcode : Nat := 0
  engine : Nat := 0
  job : Nat := 0
  norerun : Bool := false
  irq : Bool := false
  wait : BitVec 10 := 0
  signal : BitVec 8 := 0
  arg : Nat := 0
  arg2 : Nat := 0
  compl : BitVec 64 := 0
  tag : BitVec 64 := 0
  imm : BitVec 64 := 0
  live : Nat := 0
  ring : Nat := 0
  index : Nat := 0
  runs : Nat := 0
  startAt : Nat := 0
  /-- R413: the engine cycle in which it entered its queue. -/
  cycle : Option Nat := none
  bytes : BitVec 512 := 0
  deriving DecidableEq, Repr

/-- A started command that has not ended: its declared ranges and whether it can still be stopped (R417, R419). -/
structure Live where
  cmd : Cmd := {}
  ins : List (Nat × Nat) := []
  outs : List (Nat × Nat) := []
  restartable : Bool := true
  deriving DecidableEq, Repr

/-- One job slot: JOB_STAT, the job counters, pre-emption and the start check. -/
structure JobSlot where
  /-- 0 empty, 1 running, 2 preempting, 3 preempted, 4 draining, 5 scrubbing, 6 done. -/
  state : Nat := 0
  lastFail : Nat := 0
  fails : Nat := 0
  cnt : Sparse (BitVec 48) := []
  tgt : Sparse (BitVec 48) := []
  stp : Sparse (BitVec 48) := []
  startAt : Nat := 0
  /-- R411, R125: the engine cycle of the latest changes of counters, the values set in it, and the increments made in it; `cnt` holds
  the values from before that cycle. -/
  cntAt : Nat := 0
  csets : Sparse (Option (BitVec 48)) := []
  incs : Sparse (BitVec 48) := []
  /-- R328: started by broadcast and not yet confirmed. -/
  provisional : Bool := false
  deriving DecidableEq, Repr

/-- A command ring and its completion queue (17_host_interface.md). -/
structure Ring where
  base : BitVec 64 := 0
  cqBase : BitVec 64 := 0
  log2size : Nat := 0
  en : Bool := false
  cqEn : Bool := false
  vec : Nat := 0
  coalCnt : Nat := 0
  coalUs : Nat := 0
  head : Nat := 0
  tail : Nat := 0
  fault : Bool := false
  lost : Nat := 0
  cqHead : Nat := 0
  /-- Next completion-queue entry to post, and the phase it carries. -/
  cqTail : Nat := 0
  phase : Bool := true
  /-- Commands fetched and not yet posted. -/
  unposted : Nat := 0
  /-- R438: posts since the last interrupt, and the tick of the first of them. -/
  posts : Nat := 0
  firstPostAt : Nat := 0
  deriving DecidableEq, Repr

/-- The status registers every engine block has (xxx_STATUS, xxx_LAST_FAIL, xxx_EVT). -/
structure EngRegs where
  lastStatus : Nat := 0
  failStatus : Nat := 0
  failOpcode : Nat := 0
  failJob : Nat := 0
  failUnit : Nat := 0
  failDetail : Nat := 0
  evt : BitVec 16 := 0
  /-- R93: the timers whose events were delivered to this engine, where its chapter gives the event no use. -/
  timerEvents : BitVec 16 := 0
  deriving DecidableEq, Repr

/-! ## Cores (05_core_sequencer.md, 06_arithmetic.md) -/

/-- CORE_STATE.RUN. -/
inductive RunState where
  | idle | issuing | heldByWait | stalled | ending | failed
  deriving DecidableEq, Repr

/-- A fixed-latency result on its way (R139): file 0 s register, 1 v register. -/
structure PendingReg where
  file : Nat
  reg : Nat
  value : BitVec 2048
  visibleAt : Nat
  slot : Nat
  issued : Nat
  bundle : Nat
  deriving DecidableEq, Repr

/-- A store on its way to DMEM (`dmem`) or to the own scratchpad. -/
structure PendingStore where
  dmem : Bool
  addr : Nat
  bytes : List Byte
  visibleAt : Nat
  deriving DecidableEq, Repr

/-- A long-running instruction in a unit's queue: unit 3 VEC, 4 MAT, 5 LD, 6 ST (bundle order). -/
structure LongInstr where
  unit : Nat
  bits : BitVec 96
  bundle : Nat
  deriving DecidableEq, Repr

/-- A started long-running instruction: the writes it makes visible when it completes, the remote requests it still
awaits, and the neighbour counter and credit window its arrival touches. -/
structure StartedInstr where
  unit : Nat
  bits : BitVec 96
  bundle : Nat
  id : Nat
  writes : List (Nat × List Byte)
  remote : Nat := 0
  fence : Bool := false
  creditWait : Bool := false
  arrival : Option (Nat × Nat) := none
  /-- The windows, by core and number, whose grants this write consumes (R151). -/
  credit : List (Nat × Nat) := []
  /-- Core cycles for which the array is occupied, and whether it started behind another one still in the array (R168). -/
  busy : Nat := 0
  backToBack : Bool := false
  deriving DecidableEq, Repr

/-- CORE_CRW_w. -/
structure CreditWindow where
  base : Nat := 0
  len : Nat := 0
  free : Bool := true
  en : Bool := false
  holder : Nat := 0
  /-- A write that consumes the grant is on its way (R151). -/
  used : Bool := false
  deriving DecidableEq, Repr

/-- A request for a credit window, kept at the owner (R151): direction code of the requester seen from the owner. -/
structure CreditReq where
  window : Nat
  dir : Nat
  core : Nat
  instr : Nat
  /-- The owner's core cycle in which the request was made. -/
  clock : Nat := 0
  deriving DecidableEq, Repr

/-- A SYNC WAIT or WAITD that holds the sequencer. -/
structure WaitHold where
  spec : BitVec 10
  deadlineFlag : Option Nat
  resultFlag : Nat
  /-- R129: the tick of the deadline has ended with the condition unmet. -/
  late : Bool := false
  deriving DecidableEq, Repr

/-- CORE_HAZARD. -/
structure Hazard where
  valid : Bool := false
  bundle : Nat := 0
  kind : Nat := 0
  file : Nat := 0
  reg : Nat := 0
  cycle : Nat := 0
  deriving DecidableEq, Repr

/-- R138: a write to a scratchpad in the running core cycle, with its place among that cycle's writes. -/
structure PadWrite where
  rank : Nat
  addr : Nat
  bytes : List Byte
  deriving DecidableEq, Repr

/-- R129: the counters and flags of a core as a hall tick left them. -/
structure TickEnd where
  cnt : Sparse (BitVec 48) := []
  flags : BitVec 64 := 0
  deriving DecidableEq, Repr

/-- One core (Table 5-1) and its CORE registers. -/
structure Core where
  s : Sparse (BitVec 32) := []
  v : Sparse (BitVec 2048) := []
  dmem : Sparse Byte := []
  imem : Sparse (BitVec 512) := []
  cnt : Sparse (BitVec 48) := []
  tgt : Sparse (BitVec 48) := []
  stp : Sparse (BitVec 48) := []
  flags : BitVec 64 := 0
  /-- R125: the increments and flag sets of the running core cycle, which take effect as it ends. -/
  incs : Sparse (BitVec 48) := []
  sets : BitVec 64 := 0
  /-- R129: one more than the hall tick in which each flag was last set, and the counters and flags as that tick left them. -/
  flagAt : Sparse Nat := []
  flagSnap : Sparse TickEnd := []
  /-- R138: the scratchpad's writes of the running cycle. -/
  padWrites : List PadWrite := []
  /-- R151: core cycles that have passed, whether or not a task runs. -/
  clock : Nat := 0
  run : RunState := .idle
  /-- Bundle to issue next, delay bundles left before a taken branch, and its target. -/
  pc : Nat := 0
  delay : Nat := 0
  target : Nat := 0
  inDelay : Nat := 0
  lastBundle : Nat := 0
  cycle : Nat := 0
  wait : Option WaitHold := none
  pend : List PendingReg := []
  stores : List PendingStore := []
  qVec : List LongInstr := []
  qMat : List LongInstr := []
  qLd : List LongInstr := []
  qSt : List LongInstr := []
  started : List StartedInstr := []
  nextId : Nat := 0
  htLatch : BitVec 32 := 0
  mode : BitVec 2 := 0
  crw : Sparse CreditWindow := []
  creditReqs : List CreditReq := []
  hcm : Bool := false
  hazard : Hazard := {}
  /-- R142: an event was recorded in this task, whether or not the host has cleared VALID since. -/
  hazardSeen : Bool := false
  /-- Order number of the result last written to each register (file × 32 + register), for OUT_OF_ORDER. -/
  lastWritten : Sparse Nat := []
  faultStatus : Nat := 0
  faultSlot : Nat := 0
  faultBundle : Nat := 0
  faultDetail : Nat := 0
  oobRows : Nat := 0
  matBusy : Nat := 0
  matFrozen : Nat := 0
  matCause : Nat := 0
  matDrain : Bool := false
  job : Nat := 0
  /-- The TASK runs on this core, and it has reached END with all drained. -/
  tasks : List Cmd := []
  done : Bool := false
  sentRemote : Bool := false
  /-- First status other than OK of a remote request of the task (R310). -/
  remoteStatus : Nat := 0
  /-- R425: tenant last served, and a scrub under way. -/
  tenant : Option Nat := none
  scrubbing : Bool := false
  deriving DecidableEq, Repr

/-! ## Engines -/

/-- Table 7-4: an Urn slot or spill record. -/
structure UrnSlot where
  key : BitVec 64 := 0xFFFFFFFFFFFFFFFF
  sat : BitVec 64 := 0
  nan : BitVec 64 := 0
  count : Nat := 0
  elems : List Int := []
  deriving DecidableEq, Repr

/-- One Urn table: slots by index, spill records in order, URN_EVT. -/
structure UrnTable where
  slots : Sparse UrnSlot := []
  spill : List UrnSlot := []
  satCount : Nat := 0
  nanCount : Nat := 0
  deriving DecidableEq, Repr

/-- Strainer's directory and counters (08_strainer.md). -/
structure Strainer where
  dir : Sparse (BitVec 256) := []
  /-- R473: directory entries that hold an uncorrectable error. -/
  badDir : List Nat := []
  /-- R224, R249: one more than the K with which SELECT last wrote a dispatch list, by the list's address. -/
  lists : Sparse Nat := []
  cntCmd : Nat := 0
  cntNan : Nat := 0
  cntDrop : Nat := 0
  cntSkip : Nat := 0
  deriving DecidableEq, Repr

/-- A stream placed in a timetable: lane, start position, payloads still to send, from a base slot in the owned slots
of a job (R244, R248). -/
structure OutStream where
  engine : Nat
  ctx : Nat
  kind : Nat
  stage : Nat
  phase : Nat
  lane : Nat
  dst : BitVec 16
  route : BitVec 32
  job : Nat
  base : Nat
  start : Nat
  next : Nat := 0
  flits : List (List Byte) := []
  /-- R382: where a STREAM reads its data flits as they leave: address and length. -/
  src : Option (Nat × Nat) := none
  deriving DecidableEq, Repr

/-- A scheduled flit delivered here: its source, its port, the job that owns its position, its key slot × 128 +
position. -/
structure RxFlit where
  src : BitVec 16
  port : Nat
  job : Nat
  key : Nat
  payload : List Byte
  deriving DecidableEq, Repr

/-- A dispatch or combine record (Table 9-7) with its destination member and row bytes. -/
structure SpoutRecord where
  origin : Nat := 0
  token : Nat := 0
  expert : Nat := 0
  slot : Nat := 0
  choice : Nat := 0
  shared : Bool := false
  home : Nat := 0
  dest : Nat := 0
  /-- The header's reserved bits [79:72] and [127:96], which a sender of its own leaves zero. -/
  rsv : Nat := 0
  row : List Byte := []
  deriving DecidableEq, Repr

/-- A landed record: its region (0 L0, 1 stage 1, 2 stage 2), phase, landing row. -/
structure Landed where
  region : Nat
  phase : Nat
  row : Nat
  recd : SpoutRecord
  deriving DecidableEq, Repr

/-- A stream that a Spout context or a collective expects (R253, R321). -/
structure SpoutExpect where
  part : Nat
  src : Nat
  phase : Nat
  /-- The slots in which its flits are sent: from the part's base slot to before its END. -/
  base : Nat
  upTo : Nat
  /-- The flit position of its header. -/
  pos : Nat
  deadline : Nat
  deriving DecidableEq, Repr

/-- SPT_CTX_c and what an exchange keeps (R239 to R259). -/
structure SpoutCtx where
  /-- 0 FREE, 1 COUNTING, 2 DISPATCHING, 3 DISPATCHED, 4 COMBINING. -/
  state : Nat := 0
  job : Nat := 0
  plan : Nat := 0
  rbound : Nat := 0
  endsAt : Nat := 0
  cmd : Option Cmd := none
  params : List Byte := []
  effStart : Nat := 0
  /-- Current part: 0 none begun, 1 round A, 2 B1, 3 B2, 4 stage 1, 5 stage 2 (of DISPATCH or COMBINE). -/
  part : Nat := 0
  partBegun : Bool := false
  /-- Base slot of the part that has begun, and its END (before it begins: the END of the part before it). -/
  partBase : Nat := 0
  partEnd : Nat := 0
  vec : List Nat := []
  recs : List SpoutRecord := []
  landed : List Landed := []
  fi : Nat := 0
  fo : Nat := 0
  /-- Streams of the parts begun so far that are still expected. -/
  expect : List SpoutExpect := []
  answers : List SpoutRecord := []
  status : Nat := 0
  detail : Nat := 0
  /-- R259: a count stream was lost or bad. -/
  countsLost : Bool := false
  /-- Extents H and T of DISPATCH's token rows. -/
  h : Nat := 0
  t : Nat := 0
  /-- END and job before the command started, for a command that is stopped and runs again (R420). -/
  prevEnd : Nat := 0
  prevJob : Nat := 0
  /-- R257: the start instant before it is raised, and, while PREV's END is still open, the gap from it. -/
  base : Nat := 0
  gap : Option Nat := none
  deriving DecidableEq, Repr

/-- Spout's contexts and counters, and the scheduled streams of all engines. -/
structure Spout where
  ctx : Sparse SpoutCtx := []
  /-- R257: per job, the latest END of an exchange that no context shows any more. -/
  lastEnd : Sparse Nat := []
  cntExch : Nat := 0
  cntFlits : Nat := 0
  cntRedirect : Nat := 0
  outs : List OutStream := []
  rx : List RxFlit := []
  deriving DecidableEq, Repr

/-- A VC1 flit kept for retry, or waiting to be forwarded: slot, position, tick of its last transmission, flit. -/
structure KeptFlit where
  slot : Nat
  pos : Nat
  at' : Nat := 0
  flit : Flit
  deriving DecidableEq, Repr

/-- An arbitrated flit waiting to leave, and the port whose receive buffer it holds when it is forwarded; a VC6 flit counts the positions
of orders 5 and 6 that it waited through (R281). -/
structure QFlit where
  flit : Flit
  waited : Nat := 0
  inPort : Option Nat := none
  inVc : Nat := 0
  deriving DecidableEq, Repr

/-- One fabric port: training, keys, credits, retry and counters (10_fabric.md). -/
structure Port where
  /-- PORT_STATE code. -/
  state : Nat := 0
  /-- Step of Table 10-4 under way, 0 none. -/
  tstep : Nat := 0
  cls : Nat := 0
  peerPort : Nat := 0
  peerId : BitVec 16 := 0xFFFF
  keyed : Bool := false
  evt : BitVec 4 := 0
  credits : Sparse Nat := []
  txLseq : BitVec 12 := 0
  rxLseq : BitVec 12 := 0
  nak : Option (BitVec 12) := none
  ack : Option (BitVec 12) := none
  unacked : List Flit := []
  txq : List QFlit := []
  freed : Sparse (BitVec 8) := []
  peerFreed : Sparse (BitVec 8) := []
  /-- R270 to R272: the generation of each direction's key, the keys and salts, and the positions counted in each direction since step 6. -/
  txKey : Nat := 0
  rxKey : Nat := 0
  txSecret : List Byte := []
  rxSecret : List Byte := []
  txSalt : List Byte := []
  rxSalt : List Byte := []
  txPos : Nat := 0
  rxPos : Nat := 0
  /-- R88: the last position taken: the line's tick in which it began, and whether that tick is hall time. -/
  usedAt : Option (Bool × Nat) := none
  /-- R90: the slot the two counts below stand for: positions taken in it by VC0 and by VC7. -/
  slotNo : Nat := 0
  taken0 : Nat := 0
  taken7 : Nat := 0
  /-- R281: VC5 comes before VC4 next, VC3 before VC2. -/
  turn45 : Bool := false
  turn23 : Bool := false
  /-- R283: the LSEQ to send again next. -/
  resendAt : Option (BitVec 12) := none
  /-- R285: failures of each hole (slot × 128 + position) and of the arbitrated flit awaited; one flit has failed four transmissions; the
  failures of the last ms; the last check passed (ns since PWR_OK release). -/
  holeFails : Sparse Nat := []
  seqFails : Nat := 0
  fourFails : Bool := false
  failTimes : List Nat := []
  lastGood : Nat := 0
  cntTx : Nat := 0
  cntRx : Nat := 0
  cntFec : Nat := 0
  cntCheck : Nat := 0
  cntRetryArb : Nat := 0
  cntRetrySched : Nat := 0
  kept : List KeptFlit := []
  retry : List (Nat × Nat) := []
  holes : List (Nat × Nat) := []
  fwd : List KeptFlit := []
  fwdRetry : List KeptFlit := []
  /-- R77: the last mean path delay found on this port, in 2^-16 ns; and the sum of the four fused latencies of its link (R78). -/
  meanDelay : Nat := 0
  fusedDelay : Nat := 0
  /-- Cable delays, in 2^-16 ns. -/
  delayOut : Nat := 0
  delayIn : Nat := 0
  lane : Nat := 0
  /-- R282: positions since the last LCTL in which an arbitrated flit came; a NAK or hole has been found since; the repair slot in which
  the last LCTL left, if one. -/
  arbSinceLctl : Nat := 0
  lctlNew : Bool := false
  lctlSlot : Option Nat := none
  /-- R290: positions waiting for credit, arbitrated positions, retries, check failures, peak occupancies. -/
  congWait : Nat := 0
  congArb : Nat := 0
  congRetry : Nat := 0
  congCheck : Nat := 0
  peak : Sparse Nat := []
  occ : Sparse Nat := []
  authFails : Nat := 0
  deriving DecidableEq, Repr

/-- A remote request at its requester (Table 11-2). -/
structure RemReq where
  op : Nat := 0
  len : Nat := 0
  requester : Nat := 0
  tag : Nat := 0
  addr : BitVec 64 := 0
  a : BitVec 64 := 0
  b : BitVec 64 := 0
  flagAddr : Nat := 0
  jobId : Nat := 0
  jobSlot : Nat := 0
  data : List Byte := []
  rseq : Nat := 0
  sync : Bool := false
  deadline : Nat := 0
  /-- Where LOAD data or an old word goes (base and length, in order), and the started instruction of the core that
  waits. -/
  dest : List (Nat × Nat) := []
  instr : Nat := 0
  /-- The engine cycle in which it was handed over (R296). -/
  cycle : Nat := 0
  /-- R437: the ended command whose completion record it carries, 0 none. -/
  endId : Nat := 0
  deriving DecidableEq, Repr

/-- R437: a command that has ended and whose record is on its way to a COMPL on another device: the ID of its job, and whether it signals.
It signals, posts and interrupts when the STOREs of the record have ended. -/
structure Ending where
  id : Nat := 0
  cmd : Cmd := {}
  jobId : Nat := 0
  record : List Byte := []
  signals : Bool := true
  deriving DecidableEq, Repr

/-- A request arrived at this device as destination: its source, port and content, and the engine cycle of its arrival (R304). -/
structure InReq where
  src : Nat := 0
  port : Nat := 0
  vc : Nat := 2
  req : RemReq := {}
  cycle : Nat := 0
  deriving DecidableEq, Repr

/-- A response arrived for this device as requester: MEM_RSP, or ERR_RSP of a router, and the tick of its arrival. -/
structure InRsp where
  err : Bool := false
  at' : Nat := 0
  port : Nat := 0
  vc : Nat := 4
  status : Nat := 0
  tag : Nat := 0
  op : Nat := 0
  old : BitVec 64 := 0
  data : List Byte := []
  deriving DecidableEq, Repr

/-- R300: the stream record of one source: the next sequence not yet applied or lost, and those ahead of it that are. -/
structure StreamRec where
  next : Nat := 0
  ahead : List Nat := []
  deriving DecidableEq, Repr

/-- R298: a held STORE_F and the tick its hold began. -/
structure HeldStore where
  inreq : InReq
  since : Nat
  deriving DecidableEq, Repr

/-- An ERR_RSP to send (R289): status, destination, first payload bytes, route found. -/
structure ErrRsp where
  status : Nat
  dst : Nat
  head : List Byte
  /-- When the fault was found (ns since PWR_OK release). -/
  foundAt : Nat := 0
  deriving DecidableEq, Repr

/-- Fabric-common registers, and remote memory semantics (10, 11). -/
structure Fabric where
  fabId : BitVec 16 := 0xFFFF
  cntStale : Nat := 0
  cntMisroute : Nat := 0
  cntRouteDead : Nat := 0
  cntSchedDrop : Nat := 0
  cntErrNoPath : Nat := 0
  cntCongDrop : Nat := 0
  congSeq : Nat := 0
  /-- R290: the tick of the last congestion report. -/
  congAt : Option Nat := none
  /-- R88: the last position that has passed: the line's tick, and whether that tick is hall time. -/
  lineAt : Option (Bool × Nat) := none
  rmEvt : BitVec 5 := 0
  cntTimeout : Nat := 0
  cntGap : Nat := 0
  cntLate : Nat := 0
  cntFpAtomic : Nat := 0
  heldPeak : Nat := 0
  lastAddr : BitVec 64 := 0
  lastStatus : Nat := 0
  lastOp : Nat := 0
  lastReq : Nat := 0
  lastTime : Nat := 0
  toSend : List RemReq := []
  outstanding : List RemReq := []
  nextTag : Nat := 0
  rseq : Sparse Nat := []
  /-- Destinations whose next write carries SYNC need no entry; a synced one is listed true. -/
  synced : Sparse Bool := []
  /-- Tag of the SYNC write a destination still owes an answer to, plus one. -/
  syncWait : Sparse Nat := []
  streams : Sparse (Option StreamRec) := []
  held : List HeldStore := []
  ingress : List InReq := []
  responses : List InRsp := []
  errRsps : List ErrRsp := []
  /-- R437: ended commands whose records are on their way, and the number of the last one. -/
  endings : List Ending := []
  lastEnding : Nat := 0
  deriving DecidableEq, Repr

/-- A chunk received (Table 12-4). -/
structure Chunk where
  stage : Nat := 1
  phase : Nat := 0
  src : Nat := 0
  sealer : Nat := 0
  rank : Nat := 0
  shard : Nat := 0
  fmt : Nat := 0
  isPartial : Bool := false
  missing : Bool := false
  elems : Nat := 0
  data : List Byte := []
  deriving DecidableEq, Repr

/-- The running collective (12_collectives.md). -/
structure ColRun where
  cmd : Cmd := {}
  params : List Byte := []
  effStart : Nat := 0
  /-- 0 none begun, 1 count round stage 1, 2 count round stage 2, 3 stage 1, 4 stage 2. -/
  part : Nat := 0
  partBegun : Bool := false
  /-- Base slot of the part that has begun, and its END (before it begins: the END of the part before it). -/
  partBase : Nat := 0
  partEnd : Nat := 0
  smax : Nat := 0
  sizeCrc : BitVec 32 := 0
  chunks : List Chunk := []
  /-- Streams of the parts begun so far that are still expected. -/
  expect : List SpoutExpect := []
  status : Nat := 0
  detail : Nat := 0
  /-- END of the final stage plus RX_SLACK; under VAR as far as Smax is known (R321). -/
  deadline : Nat := 0
  /-- The job's previous END, for a command that is stopped and runs again (R420). -/
  prevEnd : Nat := 0
  deriving DecidableEq, Repr

/-- A START that takes part in a broadcast (R324 to R330). -/
structure StartRun where
  cmd : Cmd := {}
  blendId : BitVec 64 := 0
  priorId : BitVec 64 := 0
  jobId : Nat := 0
  seq : BitVec 32 := 0
  root : BitVec 16 := 0
  depth : Nat := 0
  parentA : Nat := 0xF
  childA : BitVec 12 := 0
  childB : BitVec 12 := 0
  total : Nat := 0
  ackDeadline : Nat := 0
  tMin : Nat := 0
  acks : List (Nat × Nat) := []
  acked : Bool := false
  committed : Bool := false
  deriving DecidableEq, Repr

/-- The collective engine's registers and state. -/
structure Collective where
  run : Option ColRun := none
  lastEnd : Sparse Nat := []
  cntCmd : Nat := 0
  cntSeal : Nat := 0
  cntRollback : Nat := 0
  startState : Nat := 0
  viaB : Bool := false
  startSeq : BitVec 32 := 0
  startT : Nat := 0
  start : Option StartRun := none
  /-- Messages of a START that has not started here: (kind, port, message). -/
  early : List (Nat × Nat × StartMsg) := []
  /-- The blend in force before a broadcast start, and the job that is provisional (R330). -/
  prior : Option Blend := none
  rollbackAt : Option Nat := none
  rollbackStage : BlendUnit := {}
  /-- START_SEQ of the START that ended last: later copies of its messages are discarded (R327). -/
  ended : Option (BitVec 32) := none
  provJob : Option Nat := none
  /-- The first collective of the provisional job, its start check, has ended (R328, R330). -/
  checkDone : Bool := false
  deriving DecidableEq, Repr

/-- A fill that scrubs memory (R348, R423): its range, and the job torn down, if any. -/
structure Scrub where
  base : Nat
  len : Nat
  job : Option Nat
  deriving DecidableEq, Repr

/-- A request waiting in a pool's queue (R353). -/
structure Waiter where
  requester : Nat
  at' : Nat
  count : Nat
  deadline : Nat
  cmd : Option Cmd
  /-- The engine cycle in which it reached Caddy (R355). -/
  cycle : Nat := 0
  deriving DecidableEq, Repr

/-- A Caddy pool (R349, R352): water mark, head of the free list, free buffers below the mark, waiters. -/
structure PoolState where
  mark : Nat := 0
  head : Option Nat := none
  free : Nat := 0
  waiters : List Waiter := []
  /-- R355: requests served whose commit is still to come, with their buffers. -/
  served : List (Waiter × List Nat) := []
  /-- R355: the engine cycle of the latest frees, the head before them, and the buffers freed then with their requester codes, in order. -/
  freeAt : Option Nat := none
  base : Option Nat := none
  fresh : List (Nat × Nat) := []
  deriving DecidableEq, Repr

/-- A Tin object (R357): its live generation, size and bytes. -/
structure TinObject where
  ns : Nat
  index : Nat
  gen : Nat
  live : Bool
  size : Nat
  data : Sparse Byte
  lost : List Nat := []
  deriving DecidableEq, Repr

/-- A stripe unit of an object (R361): lanes 0 to 14 hold data, lane 15 parity. -/
structure TinUnit where
  ns : Nat
  index : Nat
  stripe : Nat
  lane : Nat
  deriving DecidableEq, Repr

/-- A flash block (R362): erases, reads since the last erase, units programmed since then, the powered time of its last patrol read,
whether it is retired, and the units it holds. -/
structure TinBlock where
  erases : Nat := 0
  reads : Nat := 0
  filled : Nat := 0
  patrolAt : Nat := 0
  retired : Bool := false
  units : List TinUnit := []
  deriving DecidableEq, Repr

/-- The Tin controller (R357 to R364). -/
structure Tin where
  /-- TIN_STATUS.STATE: 0 unmounted, 1 mounting, 2 mounted, 3 read-only, 4 mount failed. -/
  state : Nat := 0
  cap : Nat := 0
  used : Nat := 0
  spare : Nat := 0
  /-- Flash blocks by number: block n stands on channel n mod 16. -/
  blocks : Sparse TinBlock := []
  /-- Powered time of earlier power cycles, in ns. -/
  powered : Nat := 0
  cntMove : Nat := 0
  cntParity : Nat := 0
  cntLost : Nat := 0
  objects : List TinObject := []
  deriving DecidableEq, Repr

/-- The update engine (14_training_and_infusion.md). -/
structure UpdateEngine where
  steps : Sparse (BitVec 32) := []
  cntElems : Nat := 0
  cntFrozen : Nat := 0
  cntNonfin : Nat := 0
  deriving DecidableEq, Repr

/-- A running ACCEPT: its command, version, shards wanted and complete, deadline. -/
structure AcceptRun where
  cmd : Cmd := {}
  version : BitVec 64 := 0
  nshards : Nat := 0
  done : List Nat := []
  deadline : Nat := 0
  deriving DecidableEq, Repr

/-- A pending SWAP: its command, timer and instant. -/
structure SwapRun where
  cmd : Cmd := {}
  timer : Nat := 0
  t : Nat := 0
  /-- Its timer has fired in this tick, and no region was READY (R385). -/
  due : Bool := false
  deriving DecidableEq, Repr

/-- R380: the state of a region of an infusion set. -/
inductive RegionState where
  | free | shadow | ready | live | old | cooling
  deriving DecidableEq, Repr

/-- An infusion set. Its set words and sequence table stand in its Stack SRAM area. -/
structure InfSet where
  r0 : RegionState := .free
  r1 : RegionState := .free
  readyVer : BitVec 64 := 0
  accept : Option AcceptRun := none
  swaps : List SwapRun := []
  coolAt0 : Nat := 0
  coolAt1 : Nat := 0
  deriving DecidableEq, Repr

/-- A STREAM on its way out: its command, its effective start and the port index it leaves by. -/
structure InfStream where
  cmd : Cmd := {}
  effStart : Nat := 0
  lane : Nat := 0
  deriving DecidableEq, Repr

/-- The Infuser. -/
structure Infuser where
  sets : Sparse InfSet := []
  streams : List InfStream := []
  portFree : Sparse Nat := []
  cntDiscard : Nat := 0
  cntCrc : Nat := 0
  deriving DecidableEq, Repr

/-- Table 15-2. -/
structure PfxEntry where
  hash : BitVec 128 := 0
  handle : BitVec 64 := 0
  depth : Nat := 0
  tenant : Nat := 0
  job : Nat := 0
  valid : Bool := false
  orphan : Bool := false
  refs : Nat := 0
  lastUse : Nat := 0
  deriving DecidableEq, Repr

/-- A step context: its job and row words; a void row is listed apart. -/
structure StepCtx where
  busy : Bool := false
  job : Nat := 0
  rows : List (BitVec 32) := []
  void : List Bool := []
  deriving DecidableEq, Repr

/-- The prefix engine (15_serving.md). Request records stand in each job's Stack SRAM area. -/
structure Prefix where
  table : Sparse PfxEntry := []
  /-- R474: entries with an uncorrectable error. -/
  bad : List Nat := []
  keyValid : Sparse Bool := []
  keys : Sparse (List Byte) := []
  /-- PFX_TKEY_k_w, word w of key k at k × 4 + w, and the keys whose LOAD waits for the running command (R393). -/
  keyWords : Sparse Word := []
  loads : List Nat := []
  steps : Sparse StepCtx := []
  cntHit : Nat := 0
  cntMiss : Nat := 0
  cntEvict : Nat := 0
  cntRefused : Nat := 0
  cntDeadline : Nat := 0
  deriving DecidableEq, Repr

/-! ## Host attachment, sideband, Warden (17, 18) -/

/-- A host access that waits (17_host_interface.md R433, R434): by CXL.mem or through BAR4, its local range, and what it writes. -/
structure HostAccess where
  cxl : Bool
  addr : Nat
  len : Nat
  write : Option (List Byte)
  deriving DecidableEq, Repr

/-- HOST_WIN, bias, DOE, SPDM, IDE, I3C and JTAG state. -/
structure HostIf where
  win : Nat := 0
  biasFirst : Nat := 0
  biasCount : Nat := 0
  biasDir : Bool := false
  /-- Pages of the running flip still to do; first is the next. -/
  biasLeft : Nat := 0
  biasNext : Nat := 0
  biasRefused : Bool := false
  /-- R433: the engine cycle of the latest flip command, and the pages that it flipped to host bias. -/
  biasAt : Option Nat := none
  biasFresh : List Nat := []
  hostFlips : Nat := 0
  hostBias : Sparse Bool := []
  /-- R433, R434: host accesses that wait for the flip of their page, or for the channel time of the host. -/
  waiting : List HostAccess := []
  /-- R429: what software has written into the CXL component registers, by 8-byte word. -/
  component : Sparse (BitVec 64) := []
  /-- R426, R441: an IDE integrity failure stands reported through AER and through the CXL RAS capability. -/
  aer : Bool := false
  ras : Bool := false
  /-- R441: the link stream that protects CXL.io, and CXL IDE in containment mode, which protects CXL.cache and CXL.mem, run. -/
  linkStream : Bool := false
  contained : Bool := false
  debugLevel : Nat := 0
  spdmVersion : Bool := false
  spdmCaps : Bool := false
  spdmAlgs : Bool := false
  /-- 0 none, 1 handshaking, 2 established. -/
  session : Nat := 0
  /-- Generation of the SPDM session keys and of the IDE keys held; 0 none. -/
  sessionKeys : Nat := 0
  ideKeys : Nat := 0
  i3cAddr : Option (BitVec 7) := none
  /-- R442: the engine cycle, the offset and the value of the latest sideband write of a register. -/
  sbWrite : Option (Nat × Nat × BitVec 64) := none
  deriving DecidableEq, Repr

/-- R428: the identity of Function 0. -/
structure FunctionId where
  vendor : BitVec 16
  device : BitVec 16
  classCode : BitVec 24
  revision : BitVec 8
  deriving DecidableEq, Repr

/-- An entry of the MSI-X table in BAR2 (17_host_interface.md R429, R438): where its message goes, what it writes, and whether it is
masked. Its 16 bytes are laid out, and a vector starts masked, as in PCIe (notes/assumptions/45.md). -/
structure MsixVector where
  addr : BitVec 64 := 0
  data : BitVec 32 := 0
  masked : Bool := true
  deriving DecidableEq, Repr

/-- The MSI-X table of 65 entries and its array of pending bits (17_host_interface.md R429, R438). -/
structure MsixTables where
  vectors : Sparse MsixVector := []
  pendingBits : Sparse Bool := []
  deriving DecidableEq, Repr

/-- R446: the alias certificate: its subject key, the digest and security version of its extension, and its signature. -/
structure AliasCert where
  subject : List Byte := []
  digest : List Byte := []
  svn : Nat := 0
  signature : List Byte := []
  deriving DecidableEq, Repr

/-- WDN, the Warden mailbox, and what the Warden holds. -/
structure Warden where
  /-- 0 booting, 1 running, 2 maintenance. -/
  mode : Nat := 0
  /-- R456: the engine cycle in which MAINT_ENTER began the maintenance stop. -/
  maintAt : Option Nat := none
  owned : Bool := false
  ownerLost : Bool := false
  certBad : Bool := false
  keysErased : Bool := false
  policy : BitVec 64 := 2
  ownerSeq : Nat := 0
  ownerKeys : List (List Byte) := []
  keyValid : BitVec 4 := 0
  ownerFpr : BitVec 128 := 0
  /-- The sealed record in force, and the three copies as last written. -/
  record : List Byte := []
  copies : Sparse (List Byte) := []
  nonce : BitVec 128 := 0
  nonceCount : Nat := 0
  wmbLen : BitVec 16 := 0
  wmbPtr : Nat := 0
  wmbBytes : Sparse Byte := []
  wmbBusy : Bool := false
  wmbStatus : Nat := 0
  rvalid : Bool := false
  rbytes : List Byte := []
  rptr : Nat := 0
  imageWriting : Bool := false
  /-- R457: the verified image being written to the reserved area. -/
  newImage : List Byte := []
  /-- Owner-change count at which OWNER_RELEASE erased the copies (nonvolatile, as the copies are). -/
  released : Option Nat := none
  devFprValid : Bool := false
  /-- R445, R460: the keys the Warden holds; none is held while its list is empty. -/
  identityKey : List Byte := []
  aliasKey : List Byte := []
  tinKey : List Byte := []
  sealKey : List Byte := []
  gddrKey : List Byte := []
  /-- Number of GDDR7 key pairs drawn from the random source so far. -/
  keyCount : Nat := 0
  /-- R446: the certificates of the chain, from the root to the device's own, and the alias certificate. -/
  certs : List (List Byte) := []
  aliasCert : Option AliasCert := none
  deriving DecidableEq, Repr

/-! ## Kettle (19_kettle_power.md) -/

/-- The five values of an envelope: watts and 0.1 W per µs (R461). -/
structure Envelope where
  ceil1ms : Nat := 2700
  ceil1s : Nat := 2400
  floor : Nat := 0
  slewUp : Nat := 0xFFF
  slewDn : Nat := 0xFFF
  deriving DecidableEq, Repr

/-- A ramp in force: its entry, a DOWN hold as taken at the apply (µW), the tick its timer fired, what it has moved since (µW) up to a
tick, and whether its level or hold is over. -/
structure RampState where
  entry : RampEntry := {}
  hold : Nat := 0
  firedAt : Option Nat := none
  moved : Nat := 0
  movedAt : Nat := 0
  levelOver : Bool := false
  deriving DecidableEq, Repr

/-- Kettle's registers and control state; power in µW. -/
structure Kettle where
  msgSeq : BitVec 32 := 0
  msgAny : Bool := false
  msgActive : Option EnvMsg := none
  msgQueue : List EnvMsg := []
  vin : BitVec 16 := 0
  iin : BitVec 16 := 0
  sampleTick : Nat := 0
  /-- Draw samples, newest first, at most 1,000,000 (the averages of 1 ms and 1 s). -/
  draws : List Nat := []
  sPrev : Int := 0
  /-- R463: the ballast that runs, the arrays it runs in, what ran since the last sample in µW·ns up to an instant, that instant, and that
  of the last sample (ns since PWR_OK release). -/
  ballast : Int := 0
  ballastOn : BitVec 256 := 0
  ballastNs : Int := 0
  ballastMark : Nat := 0
  sampledAt : Nat := 0
  bcap : Nat := 0
  /-- Energy in pJ. -/
  energy : Nat := 0
  evt : BitVec 16 := 0
  /-- KTL_EVT bits set during the telemetry period. -/
  evtPeriod : BitVec 16 := 0
  ballastSum : Nat := 0
  ballastCount : Nat := 0
  vinLow : Nat := 0xFFFF
  therm : Nat := 0
  /-- ns since PWR_OK release from which every sensor has read below its WARN while a TRIP holds, and from which an
  overdraw holds. -/
  belowSince : Option Nat := none
  overdrawSince : Option Nat := none
  ramps : List RampState := []
  /-- The µs of the latest control step, the 100 µs of the latest readings (ns since PWR_OK release), and the tick of the latest report. -/
  stepAt : Option Nat := none
  heatAt : Option Nat := none
  telAt : Option Nat := none
  cntSlew : Nat := 0
  cntKill : Nat := 0
  cntTelDrop : Nat := 0
  /-- KTL_THERM_s.TEMP: the last reading of each sensor. -/
  temps : Sparse (BitVec 16) := []
  deriving DecidableEq, Repr

/-! ## Trouble log, ECC and repair (20_faults_and_log.md) -/

/-- A trouble-log entry (Table 20-6), or an event offered to the log; `at'` is its instant in ns since PWR_OK release, by which SPAN is
measured whichever of the two TIME shows. -/
structure LogEntry where
  time : Nat := 0
  at' : Nat := 0
  cls : Nat := 0
  prelock : Bool := false
  coalesced : Bool := false
  status : Nat := 0
  source : Nat := 0
  event : Nat := 0
  job : Option Nat := none
  aux : Nat := 0
  count : Nat := 1
  span : Nat := 0
  detail : BitVec 64 := 0
  deriving DecidableEq, Repr

/-- One class of the log: tokens held, coalescing counters in order of first occurrence, events dropped. -/
structure LogClass where
  spent : Nat := 0
  /-- R485: the instant (ns since PWR_OK release) from which the next token is being regained. -/
  refillAt : Nat := 0
  coal : List LogEntry := []
  merge : Option LogEntry := none
  dropped : Nat := 0
  deriving DecidableEq, Repr

/-- R489: an entry queued for export: its index in the log, and when it was queued (ns since PWR_OK release). -/
structure Export where
  index : Nat := 0
  at' : Nat := 0
  entry : LogEntry := {}
  deriving DecidableEq, Repr

/-- The LOG block, the log's ring, and the export and alarm queues. -/
structure TroubleLog where
  ring : Sparse LogEntry := []
  wr : Nat := 0
  rd : Nat := 0
  evt : BitVec 9 := 0
  expEn : Bool := false
  minClass : Nat := 3
  classes : Sparse LogClass := []
  /-- Events offered in this hall tick, not yet written (R487). -/
  offered : List LogEntry := []
  expDrop : Nat := 0
  cntAbsent : Nat := 0
  cntCorr : Nat := 0
  cntUncorr : Nat := 0
  quar : BitVec 256 := 0
  spareCores : Nat := 0
  spareRows : Nat := 0
  spareLanes : Nat := 0
  /-- R487: a drop report is pending; drops since the last; time of the last. -/
  dropPending : Bool := false
  dropCounts : List Nat := [0, 0, 0, 0]
  lastReport : Option Nat := none
  /-- R489: entries queued for export. -/
  exports : List Export := []
  /-- R490: queued alarms, and the merge entry that the queue's last position holds alone. -/
  alarms : List LogEntry := []
  alarmMerge : Option LogEntry := none
  /-- R473, R474: uncorrectable lines, corrected errors per address, addresses marked, spare lanes used per cage. -/
  badLines : List Nat := []
  corrected : Sparse Nat := []
  marked : List Nat := []
  laneSpares : Sparse Nat := []
  rowSpares : Sparse Nat := []
  /-- R477: uncorrectable errors of each physical core (row × 9 + column) in this power cycle. -/
  coreErrs : Sparse Nat := []
  deriving DecidableEq, Repr

/-! ## What the block emits -/

/-- What the block emits to the outside. The list of them is the model's own field (notes/assumptions/3.md). -/
inductive Output where
  /-- A flit, and the 32 bytes that each physical lane carries of it (R266). -/
  | flit (port : Nat) (f : Flit) (lanes : List (List Byte))
  /-- A message of port training (R269, R270). -/
  | train (port : Nat) (bytes : List Byte)
  | msix (vector : Nat) (addr : BitVec 64) (data : BitVec 32)
  | hostWrite (addr : Nat) (bytes : List Byte)
  /-- R344: a host command's read and write: by CXL.cache with CXL 1 in HOST_LINK, else a CXL.io memory request. -/
  | hostRead (cxlCache : Bool) (addr len : Nat)
  | hostCmdWrite (cxlCache : Bool) (addr : Nat) (bytes : List Byte)
  /-- R432, R433: the lines of a range are claimed from the host with CXL.cache RdOwnNoData. -/
  | claim (base len : Nat)
  /-- R428: the identity that Function 0 reports. -/
  | function0 (id : FunctionId)
  | data (bytes : List Byte)
  | unsupported
  | poison
  | ibi (cls : Nat)
  | doe (kind : Nat) (bytes : List Byte)
  | spdmError (kind : Nat)
  | jtag (value : BitVec 32)
  deriving DecidableEq, Repr

/-! ## The state -/

/-- The whole block. -/
structure State where
  /-- Commands waiting, first in, first out. -/
  pending : List Instr := []
  pwr : Power := {}
  clk : ClockRoot := {}
  fuse : Fuses := {}
  boot : Boot := {}
  ht : HallTime := {}
  bld : BlendUnit := {}
  mem : Memory := {}
  jobs : Sparse JobSlot := []
  /-- R413: queue of engine e and job j at e × 8 + j; R414: pass values, same index. -/
  queues : Sparse (List Cmd) := []
  pass : Sparse Nat := []
  live : List Live := []
  eng : Sparse EngRegs := []
  rings : Sparse Ring := []
  cores : Sparse Core := []
  urn : Sparse UrnTable := []
  str : Strainer := {}
  spt : Spout := {}
  ports : Sparse Port := []
  fab : Fabric := {}
  col : Collective := {}
  scrubs : List Scrub := []
  pools : Sparse PoolState := []
  cdyCheck : Nat := 0
  tin : Tin := {}
  upd : UpdateEngine := {}
  inf : Infuser := {}
  pfx : Prefix := {}
  host : HostIf := {}
  irq : MsixTables := {}
  wdn : Warden := {}
  ktl : Kettle := {}
  log : TroubleLog := {}
  /-- Number of the next event that leaves a value open (the model's own field). -/
  freeCount : Nat := 0
  /-- Everything emitted so far, newest last (the model's own field). -/
  out : List Output := []
  deriving DecidableEq, Repr

/-- Why a run stops. -/
inductive Fault where
  /-- Raised by a meaning whose operand names a port, cage, core, timer, ring, channel or sensor the module does not
  have (Tables 1-4 to 1-7, R8, R33, R92, R435). Safe: no such command can reach the module. -/
  | noSuchResource (kind : String) (index : Nat)
  deriving DecidableEq, Repr

/-- Why a command has no meaning. -/
inductive Refusal where
  /-- Raised by an arm of `exec` whose command is not modelled yet. Safe: nothing is claimed of it. -/
  | notModelled (mnemonic : String)
  deriving DecidableEq, Repr

/-- The block before 64 V is first applied: every field at its reset value. -/
def State.reset : State := {}

end Sys2Proof.Machine
end

