-- ==== Sys2Proof/Machine/Bits.lean ====
section
/-!
DEFINITION. Bit fields and byte order: a register field [hi:lo] of Table 0-6's notation (R13), little-endian byte
strings, signed readings, and saturating counters.
-/

namespace Sys2Proof.Machine

/-- Bits [hi:lo] of a number (R13). -/
def field (w hi lo : Nat) : Nat := (w / 2 ^ lo) % 2 ^ (hi + 1 - lo)

/-- One bit of a number. -/
def bitOf (w i : Nat) : Bool := w.testBit i

/-- A number placed at bits [hi:lo]; what does not fit is cut. -/
def place (hi lo v : Nat) : Nat := (v % 2 ^ (hi + 1 - lo)) * 2 ^ lo

/-- A flag as a bit. -/
def flagBit (b : Bool) (i : Nat) : Nat := if b then 2 ^ i else 0

/-- The low `n` bytes of `v`, least significant first. -/
def leBytes : Nat → Nat → List Byte
  | 0, _ => []
  | n + 1, v => BitVec.ofNat 8 v :: leBytes n (v / 256)

/-- The number a byte string spells, least significant byte first. -/
def leNat : List Byte → Nat
  | [] => 0
  | b :: bs => b.toNat + 256 * leNat bs

/-- The first `n` bytes of a byte string; bytes past its end read zero. -/
def takeBytes : Nat → List Byte → List Byte
  | 0, _ => []
  | n + 1, bs => bs.headD 0 :: takeBytes n bs.tail

/-- `n` bytes from position `i` of a byte string; bytes past its end read zero. -/
def slice (bs : List Byte) (i n : Nat) : List Byte := takeBytes n (bs.drop i)

/-- The number at bytes `i` to `i + n - 1` of a byte string. -/
def leAt (bs : List Byte) (i n : Nat) : Nat := leNat (slice bs i n)

/-- A `w`-bit number read as two's complement. -/
def signedOf (w v : Nat) : Int := if v % 2 ^ w < 2 ^ (w - 1) then (v % 2 ^ w : Nat) else (v % 2 ^ w : Nat) - (2 ^ w : Nat)

/-- An integer as a `w`-bit two's-complement number. -/
def unsignedOf (w : Nat) (i : Int) : Nat := (i % (2 ^ w : Nat)).toNat

/-- A counter of `w` bits that saturates. -/
def satAdd (w a b : Nat) : Nat := min (a + b) (2 ^ w - 1)

/-- Zero bytes. -/
def zeros (n : Nat) : List Byte := List.replicate n 0

/-- A byte string cut or zero-filled to `n` bytes. -/
def padTo (n : Nat) (bs : List Byte) : List Byte := slice bs 0 n

/-- Two ranges, as base and length, overlap. -/
def overlap (a b : Nat × Nat) : Bool :=
  a.1 < b.1 + b.2 && b.1 < a.1 + a.2 && 0 < a.2 && 0 < b.2

/-- `inner` lies inside `outer`, both as base and length. -/
def inside (inner outer : Nat × Nat) : Bool :=
  outer.1 ≤ inner.1 && inner.1 + inner.2 ≤ outer.1 + outer.2

/-- Ceiling division. -/
def ceilDiv (a b : Nat) : Nat := (a + b - 1) / b

/-- The first number at or above `a` that is a multiple of `m`. -/
def roundUp (a m : Nat) : Nat := ceilDiv a m * m

/-- Replaces entry `i` of a list. -/
def listSet (l : List α) (i : Nat) (x : α) : List α := l.set i x

/-- Ones in a number of `w` bits. -/
def popCount (w v : Nat) : Nat := ((List.range w).filter (v.testBit ·)).length

/-- Bits set in a number of `w` bits, rising. -/
def bitsSet (w v : Nat) : List Nat := (List.range w).filter (v.testBit ·)

/-- Insertion into a list kept in the order `le`, after equal elements. -/
def insertBy (le : α → α → Bool) (x : α) : List α → List α
  | [] => [x]
  | y :: ys => if le y x then y :: insertBy le x ys else x :: y :: ys

/-- A stable insertion sort. -/
def sortBy (le : α → α → Bool) (l : List α) : List α := l.foldl (fun acc x => insertBy le x acc) []

/-- A list cut into pieces of `n` (n at least 1); `fuel` bounds the pieces. -/
def chunksOf (n : Nat) : Nat → List α → List (List α)
  | 0, _ => []
  | _, [] => []
  | fuel + 1, l => l.take n :: chunksOf n fuel (l.drop n)

end Sys2Proof.Machine
end

