-- ==== Sys2Proof/Machine/Table.lean ====
section
/-!
DEFINITION. Sparse tables: an unlisted key reads as the table's default `d`, and no entry equal to it is listed, so
equal tables are equal data (notes/assumptions/7.md).
-/

namespace Sys2Proof.Machine

/-- The entry at a key, if listed. -/
def tfind (t : Sparse α) (k : Nat) : Option α :=
  match t with
  | [] => none
  | (j, x) :: r => if j = k then some x else tfind r k

/-- The value at a key. -/
def tget (d : α) (t : Sparse α) (k : Nat) : α := (tfind t k).getD d

/-- Lists a value at a key, keys rising. -/
def tput (t : Sparse α) (k : Nat) (v : α) : Sparse α :=
  match t with
  | [] => [(k, v)]
  | (j, x) :: r => if k < j then (k, v) :: (j, x) :: r else if k = j then (k, v) :: r else (j, x) :: tput r k v

/-- Unlists a key. -/
def tdel (t : Sparse α) (k : Nat) : Sparse α := t.filter (fun e => e.1 != k)

/-- Sets the value at a key, keeping the canonical form. -/
def tset [DecidableEq α] (d : α) (t : Sparse α) (k : Nat) (v : α) : Sparse α :=
  if v = d then tdel t k else tput t k v

/-- Changes the value at a key. -/
def tmod [DecidableEq α] (d : α) (t : Sparse α) (k : Nat) (f : α → α) : Sparse α := tset d t k (f (tget d t k))

/-- The canonical form: keys strictly rising, no entry equal to the default. -/
abbrev Twf [DecidableEq α] (d : α) (t : Sparse α) : Prop :=
  List.Pairwise (fun a b => a.1 < b.1) t ∧ ∀ e ∈ t, e.2 ≠ d

end Sys2Proof.Machine
end

