-- ==== Sys2Proof/Machine/Mem.lean ====
section
/-!
DEFINITION. Memory by local address (R492): the canonical list of cells over what an unlisted address reads as, which
is 0 (R53, R59) except where an event left bytes undefined (R384, R418): there it is a free value
(notes/assumptions/6.md).
-/

namespace Sys2Proof.Machine

/-- An overlay covers an address. -/
def UndefRange.covers (u : UndefRange) (a : Nat) : Bool := u.base ≤ a && a < u.base + u.len

/-- What a covered address reads as: the empty key of a slot (Table 7-4), a zero fill, or a free value. -/
def UndefRange.byte (u : UndefRange) (a : Nat) : Byte :=
  if u.slot != 0 && (a - u.base) % u.slot < 8 then 0xFF else if u.epoch = 0 then 0 else Config.freeByte u.epoch a

/-- What an unlisted address reads as under the overlays, newest first; overlay 0 is a zero fill. -/
def overlayByte (us : List UndefRange) (a : Nat) : Byte :=
  match us with
  | [] => 0
  | u :: r => if u.covers a then u.byte a else overlayByte r a

/-- What an unlisted address reads as. -/
def Memory.unlisted (m : Memory) (a : Nat) : Byte := overlayByte m.undef a

/-- One byte of memory. -/
def Memory.byte (m : Memory) (a : Nat) : Byte := tget (m.unlisted a) m.cells a

/-- Writes one byte, keeping the canonical form. -/
def Memory.setByte (m : Memory) (a : Nat) (b : Byte) : Memory :=
  { m with cells := if b = m.unlisted a then tdel m.cells a else tput m.cells a b }

/-- `n` bytes from an address. -/
def Memory.bytes (m : Memory) (a n : Nat) : List Byte := (List.range n).map fun i => m.byte (a + i)

/-- Writes bytes from an address, lowest address first. -/
def Memory.write (m : Memory) (a : Nat) (bs : List Byte) : Memory :=
  match bs with
  | [] => m
  | b :: r => (m.setByte a b).write (a + 1) r

/-- Writes several byte strings, in list order. -/
def Memory.writeAll (m : Memory) (ws : List (Nat × List Byte)) : Memory := ws.foldl (fun m w => m.write w.1 w.2) m

/-- The number at `n` bytes from an address, least significant byte first. -/
def Memory.nat (m : Memory) (a n : Nat) : Nat := leNat (m.bytes a n)

/-- Lays an overlay over a range: its cells are unlisted, and it reads zero (epoch 0), a free value, or as empty Urn slots. -/
def Memory.overlay (m : Memory) (base len epoch : Nat) (slot : Nat := 0) : Memory :=
  { cells := m.cells.filter (fun c => !(base ≤ c.1 && c.1 < base + len))
    undef := { base, len, epoch, slot } :: m.undef }

/-- A zero fill of a range. -/
def Memory.zeroFill (m : Memory) (base len : Nat) : Memory :=
  if m.undef.isEmpty then { m with cells := m.cells.filter (fun c => !(base ≤ c.1 && c.1 < base + len)) }
  else m.overlay base len 0

/-- The canonical form: addresses strictly rising, and no entry equal to what an unlisted address reads as. -/
abbrev Memory.wf (m : Memory) : Prop :=
  List.Pairwise (fun a b => a.1 < b.1) m.cells ∧ ∀ c ∈ m.cells, c.2 ≠ m.unlisted c.1

end Sys2Proof.Machine
end

