-- ==== Sys2Proof/Machine/Flags.lean ====
section
/-!
DEFINITION. Status codes (R495), hall time as the block reads it (R72, R46), interrupts (R438), and the trouble log
(R483 to R490): an event is offered, and the tick's end writes, coalesces or drops the offered events in order.
-/

namespace Sys2Proof.Machine

/-! ## Status codes, Table 21-4 -/

def stOk : Nat := 0x00
def stEngineAbsent : Nat := 0x11
def stBadOpcode : Nat := 0x12
def stBounds : Nat := 0x21
def stStructure : Nat := 0x22
def stAlign : Nat := 0x23
def stPoolCheck : Nat := 0x24
def stOverlap : Nat := 0x25
def stRemoteTimeout : Nat := 0x31
def stCheckMismatch : Nat := 0x32
def stRouteDead : Nat := 0x33
def stEccUncorr : Nat := 0x41
def stHazard : Nat := 0x42
def stKilled : Nat := 0x51
def stDeadline : Nat := 0x52
def stAdmissionRefused : Nat := 0x53
def stBlendConflict : Nat := 0x61
def stBlendSignature : Nat := 0x62
def stRepairDisagree : Nat := 0x71
def stImageVerify : Nat := 0x72

/-! ## Outcomes -/

/-- The outcome of a command. -/
abbrev Result := Host.Outcome State Fault Refusal

/-- An operand that names a resource the module does not have. -/
def noResource (kind : String) (i : Nat) : Result := .fault (.noSuchResource kind i)

/-! ## Hall time -/

/-- HT_STATUS.STATE of Table 3-1. -/
def HtState.code : HtState → Nat
  | .invalid => 0 | .acquiring => 1 | .locked => 2 | .holdover => 3 | .outOfTolerance => 4 | .root => 5

/-- R72, Table 3-1: the count advances. -/
def State.counting (s : State) : Bool :=
  match s.ht.state with
  | .invalid => false
  | .acquiring => !s.ht.firstAcquire
  | _ => true

/-- HT_NOW (R72): zero while invalid or first acquiring. -/
def State.now (s : State) : Nat := if s.counting then s.ht.count else 0

/-- R83: the device may send scheduled traffic; after a relock, from the next frame boundary (R84). -/
def State.schedOk (s : State) : Bool :=
  match s.ht.state with
  | .locked | .holdover | .root => decide (s.ht.resumeAt ≤ s.ht.count) && decide (s.ht.pause ≤ 1)
  | _ => false

/-- R46: an entry written now carries ns since PWR_OK release. -/
def State.prelock (s : State) : Bool := decide (s.boot.step < 10)

/-- TIME of an event that happens now. -/
def State.logTime (s : State) : Nat := if s.prelock then s.boot.sincePwrOk else s.now

/-- R87: frame length and slot length in ticks. -/
def frameLen : Nat := 2560
def slotLen : Nat := 160

/-- R90: one of the 121 positions of a slot begins in this tick (a position lasts 1.28 ns). -/
def positionBegins (t : Nat) : Bool := (List.range 121).any fun i => 128 * i / 100 == t % slotLen

/-- The tick by which flit positions are counted: hall time, and before it runs the ns since PWR_OK release. DESIGN CHOICE
(notes/assumptions/49.md): the spec does not say what the positions of a port do while a relock pause holds the count; they follow the held
count, so a position passes once and the next one begins when the count goes on. -/
def State.lineTick (s : State) : Nat := if s.counting then s.now else s.boot.sincePwrOk

/-- The line's tick, and whether it is hall time. -/
def State.line (s : State) : Bool × Nat := (s.counting, s.lineTick)

/-- R87: the repair slot. -/
def State.inRepair (s : State) : Bool := s.counting && s.now / slotLen % 16 == 15

/-! ## Interrupts and outputs -/

/-- The host link carries traffic. -/
def State.linkUp (s : State) : Bool := s.boot.hostRate != 0 && !s.pwr.perst

/-- Emits an output. -/
def State.emit (s : State) (o : Output) : State := { s with out := s.out ++ [o] }

/-- An entry of the MSI-X table. -/
def State.vector (s : State) (v : Nat) : MsixVector := tget {} s.irq.vectors v

/-- The pending bit of a vector. -/
def State.vectorPending (s : State) (v : Nat) : Bool := tget false s.irq.pendingBits v

/-- Writes the pending bit of a vector. -/
def State.setVectorPending (s : State) (v : Nat) (b : Bool) : State :=
  { s with irq := { s.irq with pendingBits := tset false s.irq.pendingBits v b } }

/-- R438: raises a vector: its message leaves, or its pending bit is set while it is masked; nothing happens while the link is down
(R439; notes/assumptions/45.md). -/
def State.msix (s : State) (v : Nat) : State :=
  if !s.linkUp then s
  else if (s.vector v).masked then s.setVectorPending v true
  else s.emit (.msix v (s.vector v).addr (s.vector v).data)

/-- R438: vector 64 signals device events. -/
def State.deviceEvent (s : State) : State := s.msix 64

/-- HT_EVENTS bits: 0 HOLDOVER, 1 OUT_OF_TOL, 2 RELOCK_STEP, 3 RELOCK_PAUSE, 4 ROOT_CHANGE, 5 UPSTREAM_CHANGE. -/
def State.htEvent (s : State) (bit : Nat) : State :=
  State.deviceEvent { s with ht := { s.ht with events := s.ht.events ||| BitVec.ofNat 6 (2 ^ bit) } }

/-- BOOT_STATE.STEP, a change of which signals vector 64. DESIGN CHOICE (notes/assumptions/47.md): R44 does not say what ATTEMPT reads
at a step that is not retried: it reads 0 at steps 8 to 10 and at step 5 before COMMIT, and 1 on entry to the other steps. -/
def State.setStep (s : State) (n : Nat) : State :=
  if s.boot.step = n then s else State.deviceEvent { s with boot := { s.boot with step := n, attempt := 0 } }

/-! ## The trouble log -/

/-- Table 20-7: tokens regained per ms. -/
def logRate (c : Nat) : Nat := match c with | 0 => 64 | 1 => 16 | 2 => 16 | 3 => 32 | 4 => 32 | _ => 64
/-- Table 20-7: token limit. -/
def logBurst (c : Nat) : Nat := match c with | 0 => 512 | 1 => 64 | 2 => 64 | 3 => 128 | 4 => 128 | _ => 256
/-- Table 20-7: unread entries at which the class stops writing. -/
def logGate (c : Nat) : Nat := match c with | 0 => 6144 | 1 => 6144 | 2 => 6144 | 3 => 7680 | _ => 8192
/-- Table 20-7: coalescing counters. -/
def logCounters (c : Nat) : Nat := match c with | 0 => 0 | 1 => 0 | 2 => 16 | 3 => 16 | 4 => 16 | _ => 64

/-- Unread entries. -/
def TroubleLog.unread (l : TroubleLog) : Nat := l.wr - l.rd

/-- A class of the log. -/
def TroubleLog.cls (l : TroubleLog) (c : Nat) : LogClass := tget {} l.classes c

/-- R485: the class holds a token and is below its gate. -/
def TroubleLog.canWrite (l : TroubleLog) (c : Nat) : Bool :=
  decide ((l.cls c).spent < logBurst c) && decide (l.unread < logGate c)

/-- R486: the key of an entry. -/
def LogEntry.sameKey (a b : LogEntry) : Bool := a.source == b.source && a.event == b.event && a.job == b.job

/-- R489: an entry that finds the export queue full displaces the newest queued entry of the lowest class below. -/
def exportPush (q : List Export) (x : Export) : List Export × Nat :=
  if q.length < 64 then (q ++ [x], 0)
  else
    let low := q.foldl (fun m e => min m e.entry.cls) 6
    if low < x.entry.cls then
      let k := ((List.range q.length).filter fun i => (q.getD i {}).entry.cls == low).getLast?.getD 0
      (q.eraseIdx k ++ [x], 1)
    else (q, 1)

/-- A further occurrence added to an entry: COUNT grows, and SPAN runs to it, in ns (by the time since PWR_OK release, which both bases of
TIME share). -/
def addOccurrence (m e : LogEntry) : LogEntry :=
  { m with count := m.count + e.count, span := min (e.at' + e.span - m.at') 0xFFFFFFFF }

/-- R486, R490: a merge entry of alarms, or a further alarm merged into it. -/
def mergeInto (m : Option LogEntry) (e : LogEntry) : LogEntry :=
  match m with
  | none => { time := e.time, at' := e.at', prelock := e.prelock, cls := 5, source := 0x050, event := 0xFFFF, count := e.count, span := e.span }
  | some m => addOccurrence m e

/-- R490: the alarm queue: 31 positions for entries, and the last for the merge entry alone. An alarm that finds the positions taken joins
the queued entry with its key, or the merge entry. -/
def TroubleLog.queueAlarm (l : TroubleLog) (e : LogEntry) : TroubleLog :=
  if l.alarms.length < 31 then { l with alarms := l.alarms ++ [e] }
  else
    match l.alarms.findIdx? (·.sameKey e) with
    | some i => { l with alarms := l.alarms.set i (addOccurrence (l.alarms.getD i {}) e) }
    | none => { l with alarmMerge := some (mergeInto l.alarmMerge e), evt := l.evt ||| 16 }

/-- LOG_EVT bits for an unread count reached. -/
def gateBits (unread : Nat) : BitVec 9 :=
  (if unread = 6144 then 1 else 0) ||| (if unread = 7680 then 2 else 0) ||| (if unread = 8192 then 4 else 0)

/-- Writes one entry into the ring: the ring, the gates' event bits, export (R489), the alarm queue
(R490); `now` is ns since PWR_OK release. -/
def TroubleLog.write (l : TroubleLog) (e : LogEntry) (now : Nat) : TroubleLog :=
  let l1 := { l with ring := tset {} l.ring (l.wr % 8192) e, wr := l.wr + 1 }
  let l2 := { l1 with evt := l1.evt ||| gateBits l1.unread }
  let l3 :=
    if l2.expEn && decide (l2.minClass ≤ e.cls) then
      let (q, lost) := exportPush l2.exports { index := l.wr, at' := now, entry := e }
      { l2 with exports := q, expDrop := l2.expDrop + lost }
    else l2
  -- R491: an alarm received is not sent again
  if e.cls = 5 && e.event != 0x0060 then
    l3.queueAlarm e
  else l3

/-- Takes one token of a class; a class that was full begins to regain it. -/
def TroubleLog.spend (l : TroubleLog) (c now : Nat) : TroubleLog :=
  { l with classes := tmod {} l.classes c fun x => { x with spent := x.spent + 1, refillAt := if x.spent = 0 then now else x.refillAt } }

/-- R485: how long a class takes to regain a token, in ns. -/
def refillTime (c : Nat) : Nat := 1000000 / logRate c

/-- The occupied counters of a class in order of first occurrence, the merge counter among them. -/
def LogClass.occupied (x : LogClass) : List LogEntry :=
  match x.merge with
  | none => x.coal
  | some m => insertBy (fun a b => decide (a.at' ≤ b.at')) m x.coal

/-- Frees the counter that holds an entry. -/
def LogClass.free (x : LogClass) (e : LogEntry) : LogClass :=
  if x.merge = some e then { x with merge := none } else { x with coal := x.coal.erase e }

/-- Writes occupied counters of a class while it holds a token and is below its gate (R486). -/
def TroubleLog.flush (l : TroubleLog) (c now : Nat) : Nat → TroubleLog
  | 0 => l
  | fuel + 1 =>
    match (l.cls c).occupied with
    | [] => l
    | e :: _ =>
      if l.canWrite c then
        let l1 := { l with classes := tmod {} l.classes c fun x => x.free e }
        TroubleLog.flush ((l1.spend c now).write { e with coalesced := true } now) c now fuel
      else l

/-- R486: an event that cannot be written is coalesced, merged or dropped. -/
def TroubleLog.coalesce (l : TroubleLog) (e : LogEntry) : TroubleLog :=
  let x := l.cls e.cls
  match x.coal.findIdx? (·.sameKey e) with
  | some i =>
    { l with classes := tset {} l.classes e.cls { x with coal := x.coal.set i (addOccurrence (x.coal.getD i {}) e) } }
  | none =>
    if x.coal.length < logCounters e.cls then
      { l with classes := tset {} l.classes e.cls { x with coal := x.coal ++ [e] } }
    else if e.cls = 5 then
      { l with classes := tset {} l.classes e.cls { x with merge := some (mergeInto x.merge e) }, evt := l.evt ||| 16 }
    else
      { l with
        classes := tset {} l.classes e.cls { x with dropped := x.dropped + 1 }
        evt := l.evt ||| 8
        dropPending := true
        dropCounts := if e.cls < 4 then l.dropCounts.set e.cls (l.dropCounts.getD e.cls 0 + 1) else l.dropCounts }

/-- R485, R486: one offered event is written, coalesced or dropped. -/
def TroubleLog.take (l : TroubleLog) (e : LogEntry) (now : Nat) : TroubleLog :=
  let l1 := l.flush e.cls now 80
  if l1.canWrite e.cls && (l1.cls e.cls).occupied.isEmpty then (l1.spend e.cls now).write e now else l1.coalesce e

/-- R487: ascending SOURCE, then ascending EVENT. -/
def entryLe (a b : LogEntry) : Bool :=
  decide (a.source < b.source) || (a.source == b.source && decide (a.event ≤ b.event))

/-- The tick's end: every offered event is taken in order. -/
def TroubleLog.settle (l : TroubleLog) (now : Nat) : TroubleLog :=
  (sortBy entryLe l.offered).foldl (fun l e => l.take e now) { l with offered := [] }

/-- R487: a drop report is due: below the gate of 6,144, and 1 ms after the report before it. -/
def TroubleLog.reportDue (l : TroubleLog) (now : Nat) : Bool :=
  l.dropPending && decide (l.unread < 6144) && l.lastReport.all fun t => decide (t + 1000000 ≤ now)

/-- R487: the drop report, ahead of other events; it takes no token. -/
def TroubleLog.report (l : TroubleLog) (time now : Nat) (prelock : Bool) : TroubleLog :=
  if l.reportDue now then
    let d := leNat ((List.range 4).flatMap fun c => leBytes 2 (min (l.dropCounts.getD c 0) 0xFFFF))
    { l.write { time, at' := now, prelock, cls := 4, source := 0x050, event := 0x0070, detail := BitVec.ofNat 64 d } now with
      dropPending := false, dropCounts := [0, 0, 0, 0], lastReport := some now }
  else l

/-- R438, R442: what newly written alarms raise: vector 64 and an In-Band Interrupt. -/
def State.alarmsRaised (s : State) (n : Nat) : State :=
  (List.range n).foldl (fun s _ => (s.deviceEvent).emit (.ibi 5)) s

/-- Alarms standing in the ring among the last `n` entries written. -/
def TroubleLog.newAlarms (l : TroubleLog) (n : Nat) : Nat :=
  ((List.range n).filter fun i => (tget ({} : LogEntry) l.ring ((l.wr - 1 - i) % 8192)).cls == 5).length

/-- R64: a further occurrence of an event of which one entry stands in the log: added to it where it waits to be written, in its
coalescing counter, or in the ring while it is unread (notes/assumptions/47.md). -/
def TroubleLog.addTo (l : TroubleLog) (e : LogEntry) : TroubleLog :=
  match l.offered.findIdx? (·.sameKey e), (l.cls e.cls).coal.findIdx? (·.sameKey e) with
  | some i, _ => { l with offered := l.offered.set i (addOccurrence (l.offered.getD i {}) e) }
  | none, some i => { l with classes := tmod {} l.classes e.cls fun x => { x with coal := x.coal.set i (addOccurrence (x.coal.getD i {}) e) } }
  | none, none =>
    match (List.range l.unread).find? fun i => (tget ({} : LogEntry) l.ring ((l.wr - 1 - i) % 8192)).sameKey e with
    | some i => { l with ring := tmod {} l.ring ((l.wr - 1 - i) % 8192) fun x => addOccurrence x e }
    | none => l

/-- Runs a change of the log and raises what its new alarms raise. -/
def State.onLog (s : State) (f : TroubleLog → TroubleLog) : State :=
  let l := f s.log
  State.alarmsRaised { s with log := l } (l.newAlarms (l.wr - s.log.wr))

/-- DROP_REPORT (R487): a drop report that is due is written. -/
def State.reported (s : State) : State := s.onLog fun l => l.report s.logTime s.boot.sincePwrOk s.prelock

/-- R486: every class writes what its counters hold while it may, after a drop report that is due. -/
def State.flushAll (s : State) : State :=
  (List.range 6).foldl (fun t c => t.onLog fun l => l.flush c t.boot.sincePwrOk 80) s.reported

/-- The log's part of a hall tick: a report that is due, then the tick's events; before step 3 no log runs and they leave no trace (R43). -/
def State.logTick (s : State) : State :=
  if s.pwr.pwrOk then s.reported.onLog fun l => l.settle s.boot.sincePwrOk else { s with log := { s.log with offered := [] } }

/-- R483: offers an event to the log. -/
def State.offer (s : State) (e : LogEntry) : State :=
  { s with log := { s.log with offered := s.log.offered ++ [{ e with time := s.logTime, at' := s.boot.sincePwrOk, prelock := s.prelock }] } }

/-- An event of Table 20-8 without a job. -/
def State.event (s : State) (cls source event aux : Nat) (detail : Nat) (status : Nat := 0) : State :=
  s.offer { cls, source, event, aux, detail := BitVec.ofNat 64 detail, status }

/-- An event of Table 20-8 of a job slot. -/
def State.jobEvent (s : State) (cls source event aux : Nat) (detail status job : Nat) : State :=
  s.offer { cls, source, event, aux, detail := BitVec.ofNat 64 detail, status, job := some job }

/-- A write that was ignored (event 0x0026): SOURCE is the page of the register's block. -/
def State.writeIgnored (s : State) (offset : Nat) : State := s.event 2 (offset / 0x1000) 0x0026 0 offset

/-! ## Bring-up reports -/

/-- BOOT_STATE (R43). -/
def State.bootState (s : State) : Nat :=
  place 3 0 s.boot.step + flagBit s.boot.hold 4 + flagBit s.boot.wait 5 + flagBit s.boot.degraded 6 +
  place 15 8 s.boot.status + place 23 16 s.boot.cause + place 31 24 s.boot.attempt +
  place 63 32 (min (s.boot.sincePwrOk / 1000) 0xFFFFFFFF)

/-- R46: the log entry of a step complete, degraded (class 1) or held (class 4). DESIGN CHOICE (notes/assumptions/47.md): the spec names no
page as its SOURCE; the model puts GLB's, 0x000, where BOOT_STATE stands. -/
def State.stepEvent (s : State) (step : Nat) (held : Bool) (status : Nat := 0) : State :=
  s.event (if held then 4 else 1) 0x000 0x0010 step s.bootState status

/-- R42, R44: a hold with its cause. -/
def State.holdAt (s : State) (step cause status : Nat) : State :=
  State.stepEvent { s.setStep step with
    boot := { (s.setStep step).boot with hold := true, wait := false, cause, status } } step true status

/-- R44: a wait with its cause. -/
def State.waitFor (s : State) (cause : Nat) : State :=
  { s with boot := { s.boot with wait := true, hold := false, cause, status := 0 } }

/-- R44: no hold or wait. -/
def State.noWait (s : State) : State :=
  { s with boot := { s.boot with wait := false, hold := false, cause := 0, status := 0 } }

end Sys2Proof.Machine
end

