-- ==== Sys2Proof/Machine/Hash.lean ====
section
/-!
DEFINITION. SHAKE256, SHA3-512 and CRC-32C. The spec names the functions; their definitions are PRESUMED from FIPS 202 and
from the Castagnoli polynomial (notes/assumptions/14.md).
-/

namespace Sys2Proof.Machine

/-- Continues with a number, evaluated first. -/
def withNat (n : Nat) (k : Nat → α) : α :=
  match n with
  | 0 => k 0
  | m + 1 => k m.succ

/-! The state of Keccak-f[1600] is one number: lane x + 5 y stands at bit 64 (x + 5 y), so five planes of 320 bits follow each
other. -/

/-- The number repeated in each of the five planes. -/
def eachPlane (n : Nat) : Nat := n ||| n <<< 320 ||| n <<< 640 ||| n <<< 960 ||| n <<< 1280

/-- `n` lanes of all ones. -/
def laneOnes (n : Nat) : Nat := 1 <<< (64 * n) - 1

/-- θ: the parity of the columns, one plane wide. -/
def keccakParity (a : Nat) : Nat := (a ^^^ a >>> 320 ^^^ a >>> 640 ^^^ a >>> 960 ^^^ a >>> 1280) &&& laneOnes 5

/-- The lanes of a plane moved up by one, the last to the first place. -/
def planeUp (c : Nat) : Nat := (c <<< 64 ||| c >>> 256) &&& laneOnes 5

/-- The lanes of a plane moved down by one, the first to the last place. -/
def planeDown (c : Nat) : Nat := (c >>> 64 ||| c <<< 256) &&& laneOnes 5

/-- Bit 0 of each lane of a plane. -/
def laneFirst : Nat := 1 ||| 1 <<< 64 ||| 1 <<< 128 ||| 1 <<< 192 ||| 1 <<< 256

/-- Every lane of a plane rotated left by one bit. -/
def planeRot (c : Nat) : Nat := ((c <<< 1) &&& (laneOnes 5 ^^^ laneFirst)) ||| ((c >>> 63) &&& laneFirst)

/-- θ. -/
def keccakTheta (a : Nat) : Nat := withNat (keccakParity a) fun c => a ^^^ eachPlane (planeUp c ^^^ planeRot (planeDown c))

/-- A lane rotated left. -/
def laneRot (n k : Nat) : Nat := (n <<< k ||| n >>> (64 - k)) &&& laneOnes 1

/-- ρ and π as one walk over the `n` lanes still to move: the lane at (x, y) goes to (y, 2 x + 3 y), which is the lane the walk
takes next, rotated by the sum of the steps taken, `k` so far and `t` the next step. Lane (0, 0), where the walk never comes,
stays. -/
def keccakWalk (a : Nat) : (n x y t k done : Nat) → Nat
  | 0, _, _, _, _, done => done
  | n + 1, x, y, t, k, done =>
    withNat ((2 * x + 3 * y) % 5) fun z =>
    withNat ((k + t) % 64) fun r =>
    withNat (done ||| laneRot ((a >>> (64 * (x + 5 * y))) &&& laneOnes 1) r <<< (64 * (y + 5 * z))) fun d =>
    keccakWalk a n y z (t + 1) r d

/-- The lanes of every plane moved down by `n`, the first ones to the last places. -/
def planesDown (a n : Nat) : Nat :=
  ((a >>> (64 * n)) &&& eachPlane (laneOnes (5 - n))) ||| ((a &&& eachPlane (laneOnes n)) <<< (320 - 64 * n))

/-- χ. -/
def keccakChi (b : Nat) : Nat := b ^^^ ((planesDown b 1 ^^^ laneOnes 25) &&& planesDown b 2)

/-- One step of the shift register that makes the round constants: x^8 + x^6 + x^5 + x^4 + 1. -/
def rcStep (r : Nat) : Nat := if r < 128 then 2 * r else (2 * r) ^^^ 0x171

/-- A round's constant, folded into the first lane: the register's low bit at each bit position, one step per position. -/
def rcFold (ps : List Nat) (r a : Nat) (k : Nat → Nat → Nat) : Nat :=
  match ps with
  | [] => k r a
  | p :: ps => withNat (rcStep r) fun r' => withNat (a ^^^ (r % 2) <<< p) fun a' => rcFold ps r' a' k

/-- `n` rounds, from a state of the shift register. -/
def keccakRounds (n r a : Nat) : Nat :=
  match n with
  | 0 => a
  | n + 1 =>
    withNat (keccakTheta a) fun t =>
    withNat (keccakWalk t 24 1 0 1 0 (t &&& laneOnes 1)) fun b =>
    withNat (keccakChi b) fun c => rcFold [0, 1, 3, 7, 15, 31, 63] r c fun r' d => keccakRounds n r' d

/-- Absorbs blocks, each followed by Keccak-f[1600]. -/
def absorb (blks : List (List Byte)) (a : Nat) : Nat :=
  match blks with
  | [] => a
  | blk :: r => withNat (a ^^^ leNat blk) fun x => withNat (keccakRounds 24 1 x) fun y => absorb r y

/-- The padded message of SHAKE256. -/
def shakePad (bs : List Byte) : List Byte :=
  let q := 136 - bs.length % 136
  bs ++ (if q = 1 then [0x9F] else 0x1F :: (zeros (q - 2) ++ [0x80]))

/-- SHAKE256 with up to 136 bytes of output. -/
def shake256 (n : Nat) (bs : List Byte) : List Byte :=
  let p := shakePad bs
  leBytes n (absorb (chunksOf 136 (p.length / 136) p) 0)

/-- The padded message of SHA3-512, in blocks of 72 bytes. -/
def sha3Pad (bs : List Byte) : List Byte :=
  let q := 72 - bs.length % 72
  bs ++ (if q = 1 then [0x86] else 0x06 :: (zeros (q - 2) ++ [0x80]))

/-- SHA3-512. -/
def sha3512 (bs : List Byte) : List Byte :=
  let p := sha3Pad bs
  leBytes 64 (absorb (chunksOf 72 (p.length / 72) p) 0)

/-- The 512-bit digest the manual uses throughout. -/
def digest512 (bs : List Byte) : List Byte := shake256 64 bs

/-- One bit of CRC-32C (reflected polynomial 0x82F63B78). -/
def crcBit (c : Nat) : Nat := if c % 2 = 1 then (c / 2) ^^^ 0x82F63B78 else c / 2

/-- One byte. -/
def crcByte (c : Nat) (b : Byte) : Nat := crcBit (crcBit (crcBit (crcBit (crcBit (crcBit (crcBit (crcBit (c ^^^ b.toNat))))))))

/-- CRC-32C. -/
def crc32c (bs : List Byte) : Nat := (bs.foldl crcByte 0xFFFFFFFF) ^^^ 0xFFFFFFFF

end Sys2Proof.Machine
end

