-- ==== Sys2Proof/Machine/Num.lean ====
section
/-!
DEFINITION. Number formats (06_arithmetic.md R153 to R162): exact values, one rounding, the MX blocks, and the
correctly rounded functions of R172. A value is exact until it is rounded once into a format.
-/

namespace Sys2Proof.Machine

/-- An exact value: a NaN, an infinity, or (-1)^neg × m × 2^e. A zero keeps its sign. -/
inductive FVal where
  | nan
  | inf (neg : Bool)
  | fin (neg : Bool) (m : Nat) (e : Int)
  deriving DecidableEq, Repr

/-- Rounding modes of Table 6-2. -/
inductive Rnd where
  | rne | zero | down | up
  deriving DecidableEq, Repr

/-- RND (R159). -/
def Rnd.ofCode (c : Nat) : Rnd := match c % 4 with | 0 => .rne | 1 => .zero | 2 => .down | _ => .up
def Rnd.code (r : Rnd) : Nat := match r with | .rne => 0 | .zero => 1 | .down => 2 | .up => 3

/-- A float format: exponent and fraction widths, bias, whether it has infinities, and its largest finite fields;
`nan` is the encoding of its canonical NaN, if it has one (R154). -/
structure FloatFmt where
  eb : Nat
  fb : Nat
  bias : Nat
  hasInf : Bool
  maxE : Nat
  maxF : Nat
  nan : Option Nat

def fmtFp32 : FloatFmt := ⟨8, 23, 127, true, 254, 0x7FFFFF, some 0x7FC00000⟩
def fmtBf16 : FloatFmt := ⟨8, 7, 127, true, 254, 0x7F, some 0x7FC0⟩
def fmtFp16 : FloatFmt := ⟨5, 10, 15, true, 30, 0x3FF, some 0x7E00⟩
def fmtE4m3 : FloatFmt := ⟨4, 3, 7, false, 15, 6, some 0x7F⟩
def fmtE5m2 : FloatFmt := ⟨5, 2, 15, true, 30, 3, some 0x7E⟩
def fmtE3m2 : FloatFmt := ⟨3, 2, 3, false, 7, 3, none⟩
def fmtE2m3 : FloatFmt := ⟨2, 3, 1, false, 3, 7, none⟩
def fmtE2m1 : FloatFmt := ⟨2, 1, 1, false, 3, 1, none⟩
/-- R157: the sign, exponent and 39-bit fraction f ∥ E of a MASTER48 element. -/
def fmtMaster : FloatFmt := ⟨8, 39, 127, true, 254, 0x7FFFFFFFFF, some 0x7FC000000000⟩

/-- The float format of a code of Table 6-1; for an MX code, that of its elements. -/
def floatFmt (code : Nat) : Option FloatFmt :=
  match code with
  | 0x0 => some fmtFp32 | 0x1 => some fmtBf16 | 0x2 => some fmtFp16 | 0x3 => some fmtE4m3 | 0x4 => some fmtE5m2
  | 0x5 => some fmtE4m3 | 0x6 => some fmtE3m2 | 0x7 => some fmtE2m3 | 0x8 => some fmtE2m1 | 0xB => some fmtMaster
  | _ => none

/-- Bits of one element. -/
def fmtBits (code : Nat) : Nat :=
  match code with
  | 0x0 => 32 | 0x1 => 16 | 0x2 => 16 | 0x3 => 8 | 0x4 => 8 | 0x5 => 8 | 0x6 => 6 | 0x7 => 6 | 0x8 => 4 | 0x9 => 8
  | 0xA => 32 | 0xB => 48 | 0xC => 128 | 0xD => 32 | _ => 0

/-- Bytes of an MX block (R155), 0 for other formats. -/
def mxBlock (code : Nat) : Nat := match code with | 0x5 => 33 | 0x6 => 25 | 0x7 => 25 | 0x8 => 17 | _ => 0

/-- A block format. -/
def isMx (code : Nat) : Bool := mxBlock code != 0

/-- R153, Align column: element size for the alignment check. -/
def fmtAlign (code : Nat) : Nat :=
  match code with | 0x0 => 4 | 0x1 => 2 | 0x2 => 2 | 0xA => 4 | 0xB => 2 | 0xC => 16 | 0xD => 4 | _ => 1

/-- Bytes of `n` elements of dimension 0. -/
def rowBytes (code n : Nat) : Nat := if isMx code then n / 32 * mxBlock code else n * fmtBits code / 8

/-! ## Decoding -/

/-- The value of an encoding of a float format. E4M3 alone keeps its top exponent for numbers. -/
def FloatFmt.decode (f : FloatFmt) (w : Nat) : FVal :=
  let neg := w.testBit (f.eb + f.fb)
  let e := field w (f.eb + f.fb - 1) f.fb
  let fr := w % 2 ^ f.fb
  if f.maxE < e then (if fr = 0 then .inf neg else .nan)
  else if f.nan.isSome && !f.hasInf && e == f.maxE && decide (f.maxF < fr) then .nan
  else if e = 0 then .fin neg fr (1 - (f.bias : Int) - f.fb)
  else .fin neg (2 ^ f.fb + fr) ((e : Int) - f.bias - f.fb)

/-- An integer as a value. -/
def FVal.ofInt (i : Int) : FVal := .fin (decide (i < 0)) i.natAbs 0

/-- The value of an element of a format that is no MX format: INT8, INT32, INDEX32 and WIDE128 as integers. -/
def decodeElem (code w : Nat) : FVal :=
  match code with
  | 0x9 => FVal.ofInt (signedOf 8 w)
  | 0xA => FVal.ofInt (signedOf 32 w)
  | 0xC => FVal.ofInt (signedOf 128 w)
  | 0xD => FVal.ofInt (w % 2 ^ 32 : Nat)
  | c =>
    match floatFmt c with
    | some f =>
      -- R157: the extension of an infinite or NaN MASTER48 element is ignored
      if c = 0xB && field w 46 39 == 255 then fmtFp32.decode (w / 2 ^ 16) else f.decode w
    | none => .nan

/-- A value times 2^k. -/
def FVal.scale (v : FVal) (k : Int) : FVal := match v with | .fin n m e => .fin n m (e + k) | x => x

/-- Element `i` of a little-endian bit string of `b`-bit elements. -/
def packedAt (bs : List Byte) (b i : Nat) : Nat := (leNat (slice bs (b * i / 8) ((b + 14) / 8 + 1)) / 2 ^ (b * i % 8)) % 2 ^ b

/-- The 32 elements of an MX block (R155, R156). -/
def decodeBlock (code : Nat) (bs : List Byte) : List FVal :=
  let x := (bs.getD 0 0).toNat
  let el := bs.drop 1
  match floatFmt code with
  | none => []
  | some f =>
    (List.range 32).map fun i =>
      if x = 0xFF then .nan else (f.decode (packedAt el (fmtBits code) i)).scale ((x : Int) - 127)

/-- The `n` elements of a row of dimension 0. -/
def decodeRow (code n : Nat) (bs : List Byte) : List FVal :=
  if isMx code then (List.range (n / 32)).flatMap fun b => decodeBlock code (slice bs (b * mxBlock code) (mxBlock code))
  else (List.range n).map fun i => decodeElem code (leAt bs (i * (fmtBits code / 8)) (fmtBits code / 8))

/-! ## Exact arithmetic -/

def FVal.isNan : FVal → Bool | .nan => true | _ => false
def FVal.isZero : FVal → Bool | .fin _ 0 _ => true | _ => false
def FVal.isNeg : FVal → Bool | .fin n _ _ => n | .inf n => n | .nan => false
def FVal.neg : FVal → FVal | .fin n m e => .fin (!n) m e | .inf n => .inf (!n) | .nan => .nan
def FVal.abs : FVal → FVal | .fin _ m e => .fin false m e | .inf _ => .inf false | .nan => .nan

/-- A signed mantissa at exponent `e0`, at or below the value's own. -/
def mantAt (neg : Bool) (m : Nat) (e e0 : Int) : Int :=
  let a : Int := (m * 2 ^ (e - e0).toNat : Nat)
  if neg then -a else a

/-- Exact sum. An exact zero is +0 unless every addend is -0; `down` gives -0 in the mode toward -∞ (IEEE 754). -/
def FVal.add (a b : FVal) (down : Bool := false) : FVal :=
  match a, b with
  | .nan, _ => .nan
  | _, .nan => .nan
  | .inf n, .inf k => if n = k then .inf n else .nan
  | .inf n, _ => .inf n
  | _, .inf n => .inf n
  | .fin n m e, .fin k l d =>
    let e0 := min e d
    let s := mantAt n m e e0 + mantAt k l d e0
    if s = 0 then .fin (if m = 0 && l = 0 then (if n == k then n else down) else down) 0 e0
    else .fin (decide (s < 0)) s.natAbs e0

/-- Exact product. -/
def FVal.mul (a b : FVal) : FVal :=
  match a, b with
  | .nan, _ => .nan
  | _, .nan => .nan
  | .inf n, .inf k => .inf (n != k)
  | .inf n, .fin k m _ => if m = 0 then .nan else .inf (n != k)
  | .fin k m _, .inf n => if m = 0 then .nan else .inf (n != k)
  | .fin n m e, .fin k l d => .fin (n != k) (m * l) (e + d)

/-- Positive zero. -/
def fZero : FVal := .fin false 0 0
/-- Negative zero, the neutral addend. -/
def fNegZero : FVal := .fin true 0 0

/-- Exact sum of a list: +0 when empty, and -0 only when every addend is. -/
def exactSum (l : List FVal) : FVal := match l with | [] => fZero | x :: r => r.foldl (fun a b => a.add b) x

/-- Exact comparison of values that are no NaN: -0 equals +0. -/
def FVal.lt (a b : FVal) : Bool :=
  match a, b with
  | .nan, _ => false
  | _, .nan => false
  | .inf n, .inf k => n && !k
  | .inf n, _ => n
  | _, .inf k => !k
  | .fin n m e, .fin k l d => let e0 := min e d; decide (mantAt n m e e0 < mantAt k l d e0)

/-- Equality of values; a NaN equals nothing. -/
def FVal.eqv (a b : FVal) : Bool := !a.isNan && !b.isNan && !a.lt b && !b.lt a

/-- R170: minimum and maximum of IEEE 754-2019. -/
def FVal.minimum (a b : FVal) : FVal :=
  if a.isNan || b.isNan then .nan else if a.lt b then a else if b.lt a then b else if a.isNeg then a else b
def FVal.maximum (a b : FVal) : FVal :=
  if a.isNan || b.isNan then .nan else if a.lt b then b else if b.lt a then a else if a.isNeg then b else a

/-! ## Rounding -/

/-- Bit length. -/
def bitLen (m : Nat) : Nat := if m = 0 then 0 else Nat.log2 m + 1

/-- m × 2^e as an integer multiple of 2^q, rounded. -/
def roundQuot (r : Rnd) (neg : Bool) (m : Nat) (e q : Int) : Nat :=
  if q ≤ e then m * 2 ^ (e - q).toNat
  else
    let s := (q - e).toNat
    let f := m / 2 ^ s
    let rem := m % 2 ^ s
    let half := 2 ^ (s - 1)
    let up := match r with
      | .rne => decide (half < rem) || (rem == half && f % 2 == 1)
      | .zero => false
      | .down => neg && rem != 0
      | .up => !neg && rem != 0
    if up then f + 1 else f

/-- The sign bit of a format. -/
def FloatFmt.signBit (f : FloatFmt) (neg : Bool) : Nat := if neg then 2 ^ (f.eb + f.fb) else 0

/-- R160: overflow of a finite result. -/
def FloatFmt.overflow (f : FloatFmt) (r : Rnd) (neg : Bool) : Nat :=
  let toInf := f.hasInf && (match r with | .rne => true | .zero => false | .down => neg | .up => !neg)
  f.signBit neg + (if toInf then (2 ^ f.eb - 1) * 2 ^ f.fb else f.maxE * 2 ^ f.fb + f.maxF)

/-- R160: one rounding into a float format. A NaN or infinity that the format lacks saturates or is its NaN. -/
def FloatFmt.round (f : FloatFmt) (r : Rnd) (v : FVal) : Nat :=
  match v with
  | .nan => f.nan.getD (f.maxE * 2 ^ f.fb + f.maxF)
  | .inf n =>
    if f.hasInf then f.signBit n + (2 ^ f.eb - 1) * 2 ^ f.fb
    else f.nan.getD (f.signBit n + f.maxE * 2 ^ f.fb + f.maxF)
  | .fin n m e =>
    if m = 0 then f.signBit n
    else
      let emin : Int := 1 - f.bias
      let q := max (e + bitLen m - 1) emin - f.fb
      let k := roundQuot r n m e q
      -- a carry past the fraction moves to the next exponent
      let (k, q) := if k = 2 ^ (f.fb + 1) then (2 ^ f.fb, q + 1) else (k, q)
      if k < 2 ^ f.fb then f.signBit n + k
      else
        let ef := (q + f.fb + f.bias).toNat
        if f.maxE < ef || (ef = f.maxE && f.maxF < k - 2 ^ f.fb) then f.overflow r n
        else f.signBit n + ef * 2 ^ f.fb + (k - 2 ^ f.fb)

/-- R160: a float to an integer of `w` bits, saturating; NaN gives zero. -/
def roundInt (w : Nat) (r : Rnd) (v : FVal) : Int :=
  match v with
  | .nan => 0
  | .inf n => if n then -(2 ^ (w - 1) : Nat) else ((2 ^ (w - 1) : Nat) : Int) - 1
  | .fin n m e =>
    let a : Int := roundQuot r n m e 0
    let i := if n then -a else a
    max (-(2 ^ (w - 1) : Nat)) (min i (((2 ^ (w - 1) : Nat) : Int) - 1))

/-- A value in a format that is no MX format. -/
def encodeElem (code : Nat) (r : Rnd) (v : FVal) : Nat :=
  match code with
  | 0x9 => unsignedOf 8 (roundInt 8 r v)
  | 0xA => unsignedOf 32 (roundInt 32 r v)
  | 0xC => unsignedOf 128 (roundInt 128 r v)
  | 0xD => unsignedOf 32 (roundInt 64 r v)
  | c => match floatFmt c with | some f => f.round r v | none => 0

/-- A value rounded to FP32 with ties to even, again as a value. -/
def toFp32 (v : FVal) : FVal := fmtFp32.decode (fmtFp32.round .rne v)

/-- floor(log2 |v|) of a nonzero finite value. -/
def FVal.exponent : FVal → Int | .fin _ m e => e + bitLen m - 1 | _ => 0

/-- R161: emax of the element formats. -/
def mxEmax (code : Nat) : Int := match code with | 0x5 => 8 | 0x6 => 4 | _ => 2

/-- Packs `b`-bit elements into a little-endian bit string. -/
def packBits (b : Nat) (es : List Nat) : Nat :=
  match es with
  | [] => 0
  | e :: r => e % 2 ^ b + 2 ^ b * packBits b r

/-- R161: quantises a block of 32 values. -/
def encodeBlock (code : Nat) (r : Rnd) (vs : List FVal) : List Byte :=
  let n := mxBlock code - 1
  if vs.any (fun v => match v with | .fin _ _ _ => false | _ => true) then 0xFF :: zeros n
  else
    let amax := vs.foldl (fun a v => if a.lt v.abs then v.abs else a) fZero
    if amax.isZero then 0 :: zeros n
    else
      let x := max (-127) (min (amax.exponent - mxEmax code) 127)
      match floatFmt code with
      | none => []
      | some f => BitVec.ofNat 8 (x + 127).toNat :: leBytes n (packBits (fmtBits code) (vs.map fun v => f.round r (v.scale (-x))))

/-- A row of dimension 0 in a format. -/
def encodeRow (code : Nat) (r : Rnd) (vs : List FVal) : List Byte :=
  if isMx code then (chunksOf 32 (vs.length / 32) vs).flatMap (encodeBlock code r)
  else vs.flatMap fun v => leBytes (fmtBits code / 8) (encodeElem code r v)

/-! ## Division, roots and powers of two: integer arithmetic to more bits than any format keeps, with a sticky bit -/

/-- Integer square root by bits. -/
def isqrtBits (n : Nat) : Nat → Nat → Nat
  | 0, r => r
  | k + 1, r => let t := r + 2 ^ k; if t * t ≤ n then isqrtBits n k t else isqrtBits n k r

/-- floor(√n). -/
def isqrt (n : Nat) : Nat := isqrtBits n (bitLen n / 2 + 1) 0

/-- A positive rational n/d as a value exact to more than 64 significant bits, with a sticky bit below them. -/
def ratVal (neg : Bool) (n d : Nat) (e : Int) : FVal :=
  let k := bitLen d + 80
  let q := n * 2 ^ k / d
  .fin neg (2 * q + (if n * 2 ^ k % d = 0 then 0 else 1)) (e - k - 1)

/-- Quotient, to be rounded once. -/
def FVal.div (a b : FVal) : FVal :=
  match a, b with
  | .nan, _ => .nan
  | _, .nan => .nan
  | .inf _, .inf _ => .nan
  | .inf n, .fin k _ _ => .inf (n != k)
  | .fin n _ _, .inf k => .fin (n != k) 0 0
  | .fin n m e, .fin k l d =>
    if l = 0 then (if m = 0 then .nan else .inf (n != k))
    else if m = 0 then .fin (n != k) 0 0
    else ratVal (n != k) m l (e - d)

/-- An even exponent below `e`, and the mantissa that goes with it. -/
def evenExp (m : Nat) (e : Int) : Nat × Int := if e % 2 = 0 then (m, e) else (2 * m, e - 1)

/-- Square root, to be rounded once. -/
def FVal.sqrt (v : FVal) : FVal :=
  match v with
  | .nan => .nan
  | .inf n => if n then .nan else .inf false
  | .fin n m e =>
    if m = 0 then .fin n 0 0 else if n then .nan
    else
      let (m, e) := evenExp m e
      let z := m * 2 ^ 160
      let y := isqrt z
      .fin false (2 * y + (if y * y = z then 0 else 1)) (e / 2 - 81)

/-- Reciprocal square root, to be rounded once (R172). -/
def FVal.rsqrt (v : FVal) : FVal :=
  match v with
  | .nan => .nan
  | .inf n => if n then .nan else fZero
  | .fin n m e =>
    if m = 0 then .inf n else if n then .nan
    else
      let (m, e) := evenExp m e
      let k := bitLen m + 80
      let y := isqrt (2 ^ (2 * k) / m)
      .fin false (2 * y + (if y * y * m = 2 ^ (2 * k) then 0 else 1)) (-(e / 2) - k - 1)

/-- 2^(2^-i) for the bits of a fraction below 2^-i, with `p` fraction bits: multiplies those whose bit is set. -/
def exp2Bits (p frac : Nat) : Nat → Nat → Nat → Nat
  | 0, _, acc => acc
  | t + 1, c, acc =>
    let acc' := if frac.testBit t then acc * c / 2 ^ p else acc
    exp2Bits p frac t (isqrt (c * 2 ^ p)) acc'

/-- 2^v, to be rounded once: exact for integers, else to 256 bits with a sticky bit (R172). -/
def FVal.exp2 (v : FVal) : FVal :=
  match v with
  | .nan => .nan
  | .inf n => if n then fZero else .inf false
  | .fin n m e =>
    if m = 0 then .fin false 1 0
    else if 0 ≤ e then
      let i := m * 2 ^ (min e.toNat 40)
      if 100000 < i then (if n then .fin false 1 (-100000) else .fin false 1 100000)
      else .fin false 1 (if n then -(i : Int) else i)
    else
      let t := (-e).toNat
      let i : Int := mantAt n m 0 0
      let k := i / (2 ^ t : Nat)
      let fr := (i % (2 ^ t : Nat)).toNat
      if 100000 < k then .fin false 1 100000
      else if k < -100000 then .fin false 1 (-100000)
      else if fr = 0 then .fin false 1 k
      else
        let p := 256
        let y := exp2Bits p fr t (isqrt (2 * 2 ^ (2 * p))) (2 ^ p)
        .fin false (2 * y + 1) (k - p - 1)

/-- The FP32 encoding of log2 e, of the composition of VEXP. -/
def log2e : FVal := fmtFp32.decode 0x3FB8AA3B

/-- VEXP of R172: 2^(round_rne_fp32(x × log2 e)), to be rounded once. -/
def FVal.exp (v : FVal) : FVal := (toFp32 (v.mul log2e)).exp2

/-- floor(2^256 × log2 e). -/
def log2eBits : Nat := 167052672916848388242985626561247531987276682633131050150846402744536260568207

/-- e^v, to be rounded once (R216). -/
def FVal.expNat (v : FVal) : FVal :=
  match v with
  | .fin n m e => (FVal.fin n (m * log2eBits) (e - 256)).exp2
  | x => x.exp2

/-- A finite value times 2^k, rounded to an integer with ties to even. -/
def FVal.scaledInt (v : FVal) (k : Int) : Int :=
  match v with
  | .fin n m e => let a : Int := roundQuot .rne n m (e + k) 0; if n then -a else a
  | _ => 0

end Sys2Proof.Machine
end

