-- ==== Sys2Proof/Machine/Operands.lean ====
section
/-!
DEFINITION. Operands: the local address map (R492), job windows (R333), tensor descriptors and shape words (R143 to
R145), wait and signal fields over counters (R122 to R125), and the argument blocks of the engines (R356).
-/

namespace Sys2Proof.Machine

/-! ## The local address map, Table 21-1 -/

def gddrSize : Nat := 0x6000000000
def ssramBase : Nat := 0x010000000000
def ssramSize : Nat := 0x80000000
def padBase : Nat := 0x020000000000
def padSize : Nat := 0x400000
def apertureBase : Nat := 0x030000000000

/-- A range inside GDDR7. -/
def inGddr (a n : Nat) : Bool := decide (a + n ≤ gddrSize)
/-- A range inside Stack SRAM. -/
def inSsram (a n : Nat) : Bool := decide (ssramBase ≤ a) && decide (a + n ≤ ssramBase + ssramSize)
/-- A range inside GDDR7 or Stack SRAM. -/
def inMain (a n : Nat) : Bool := inGddr a n || inSsram a n
/-- The scratchpad of a core, as base and length. -/
def padOf (c : Nat) : Nat × Nat := (padBase + c * padSize, padSize)

/-- R334: the GDDR7 channel of a local address. -/
def gddrChannel (a : Nat) : Nat :=
  let l := a / 64
  let g := l / 96
  let h := (g * 0x9E3779B97F4A7C15 % 2 ^ 64 / 2 ^ 32) % 96
  (l % 96 + h) % 96

/-- R334: the address of a byte within its channel, and the stack a channel's GDDR7 device sits on. -/
def gddrAddress (a : Nat) : Nat := a / 64 / 96 * 64 + a % 64
def gddrStack (channel : Nat) : Nat := channel / 24

/-- R335: the (stack, bank group) pair of a Stack SRAM address. -/
def ssramBank (a : Nat) : Nat :=
  let o := a - ssramBase
  field o 30 29 * 32 + (field o 10 6 ^^^ field o 15 11)

/-- R291: device ID and local address of a global address. -/
def devOf (g : Nat) : Nat := g / 2 ^ 48 % 2 ^ 16
def localOf (g : Nat) : Nat := g % 2 ^ 48

/-- The device's own ID. -/
def State.devId (s : State) : Nat := s.fab.fabId.toNat

/-- R291: an address on this device; device ID 0xFFFF is no memory target. -/
def State.ownAddr (s : State) (g : Nat) : Bool := devOf g == s.devId && devOf g != 0xFFFF

/-- The engine cycle, of 900 MHz, that a tick lies in. -/
def State.engCycle (s : State) : Nat := s.boot.sincePwrOk * 9 / 10

/-! ## Jobs and ST registers -/

/-- Reset value of an ST register by aperture offset (R96, R288, R290, R461, R307). -/
def stReset (off : Nat) : Word :=
  match off with
  | 0x020020 => 0x000A0000
  | 0x020030 => 0xFFFFFFFFFFFFFFFF
  | 0x2F0010 => 0xFFFF
  | 0x2F0200 => 0x28
  | 0x030000 => 0x0FFFFFF000960A8C
  | 0x030018 => 0xFFFF
  | _ => 0

/-- An ST register in force, and as staged (R104). -/
def State.st (s : State) (off : Nat) : Nat := (tget (stReset off) s.bld.cur.st off).toNat
def State.stagedSt (s : State) (off : Nat) : Nat := (tget (stReset off) s.bld.stagedSt off).toNat

/-- The PART entry of a job slot in force. -/
def State.job (s : State) (j : Nat) : JobEntry := s.bld.cur.jobs.getD j {}
/-- A job slot holds a job. -/
def State.hasJob (s : State) (j : Nat) : Bool := (s.job j).jobId != 0
/-- The slot of a job ID. -/
def State.slotOf (s : State) (id : Nat) : Option Nat :=
  if id = 0 then none else (List.range 8).find? fun j => (s.job j).jobId == id
/-- The run state of a job slot. -/
def State.slot (s : State) (j : Nat) : JobSlot := tget {} s.jobs j
def State.setSlot (s : State) (j : Nat) (f : JobSlot → JobSlot) : State := { s with jobs := tmod {} s.jobs j f }
/-- R125: the counters once the changes of their engine cycle have combined: values set first, then the increments. -/
def JobSlot.after (j : JobSlot) : Sparse (BitVec 48) :=
  let set := j.csets.foldl (fun t e => match e.2 with | some v => tset 0 t e.1 v | none => t) j.cnt
  j.incs.foldl (fun t e => tmod 0 t e.1 (· + e.2)) set
/-- R125: the counters as a read in an engine cycle returns them: from before the cycle. -/
def JobSlot.cntIn (j : JobSlot) (e : Nat) : Sparse (BitVec 48) := if j.cntAt = e then j.cnt else j.after
/-- R125: a job slot whose counters change in an engine cycle. -/
def JobSlot.inCycle (j : JobSlot) (e : Nat) : JobSlot :=
  if j.cntAt = e then j else { j with cnt := j.after, csets := [], incs := [], cntAt := e }
/-- The counters of a job slot, as read now (R411). -/
def State.jobCnt (s : State) (j : Nat) : Sparse (BitVec 48) := (s.slot j).cntIn s.engCycle
/-- Cores of a job slot. -/
def State.jobOfCore (s : State) (c : Nat) : Nat := s.bld.cur.cores.getD c 0xFF
/-- The enabled-core mask (R494). -/
def State.coreEnabled (s : State) (c : Nat) : Bool := decide (c < 256) && s.boot.coreMask.getLsbD c

/-- R408: the SHARE byte of engine e and job j. -/
def Blend.shareOf (b : Blend) (e j : Nat) : Nat := b.share.getD (8 * e + j) 0

/-- R349: pool p of the CDY section. -/
structure Pool where
  base : Nat
  log2 : Nat
  job : Nat
  en : Bool
  len : Nat
  deriving DecidableEq, Repr

/-- Pool p from its two registers. -/
def poolOf (cfg len : Nat) : Pool :=
  ⟨field cfg 35 0 * 4096, field cfg 40 36, field cfg 43 41, bitOf cfg 44, field len 35 0 * 4096⟩

def State.pool (s : State) (p : Nat) : Pool := poolOf (s.st (0x130100 + 0x10 * p)) (s.st (0x130108 + 0x10 * p))

/-- R349: buffers of a pool. -/
def Pool.count (p : Pool) : Nat := min (p.len / 2 ^ p.log2) (2 ^ 32 - 1)

/-- R333, R349: the ranges a job reaches: its windows of KIND 1 to 3 and its pools' regions. -/
def State.jobRanges (s : State) (j : Nat) : List (Nat × Nat) :=
  (s.bld.cur.windows.filter fun w => 1 ≤ w.kind && w.kind ≤ 3 && w.job == (s.job j).jobId && w.job != 0).map (fun w => (w.base, w.len)) ++
  ((List.range 64).filter fun p => (s.pool p).en && (s.pool p).job == j).map fun p => ((s.pool p).base, (s.pool p).len)

/-- Every byte from `a` to the end lies in some range. -/
def covered (rs : List (Nat × Nat)) (a e : Nat) : Nat → Bool
  | 0 => decide (e ≤ a)
  | fuel + 1 =>
    if e ≤ a then true
    else match rs.find? fun r => r.1 ≤ a && a < r.1 + r.2 with
      | some r => covered rs (r.1 + r.2) e fuel
      | none => false

/-- A range inside a job's windows or pools. -/
def State.inWindows (s : State) (j a n : Nat) : Bool :=
  let rs := s.jobRanges j
  inMain a n && covered rs a (a + n) (rs.length + 1)

/-- R379, R391: the set-word areas and the request area a job reads as windows and does not write. -/
def State.readAreas (s : State) (j : Nat) : List (Nat × Nat) :=
  (((List.range 8).map fun i => s.st (0x140200 + 0x20 * i)).filter fun c => bitOf c 0 && field c 3 1 == j).map (fun c =>
    (ssramBase + field c 35 17 * 4096, 64 + 16 * field c 16 4)) ++
  (let c := s.st (0x170100 + 0x10 * j)
   if bitOf c 0 then [(ssramBase + field (s.st (0x170108 + 0x10 * j)) 18 0 * 4096, field c 23 11 * (64 + 8 * field c 35 24))] else [])

/-- A range a job may read. -/
def State.inReadable (s : State) (j a n : Nat) : Bool :=
  let rs := s.jobRanges j ++ s.readAreas j
  inMain a n && covered rs a (a + n) (rs.length + 1)

/-- R292, R333: a range that remote requests naming a job reach: its windows, those lent to it, and its pools. -/
def State.inRemote (s : State) (id a n : Nat) : Bool :=
  let rs := ((s.bld.cur.windows.filter fun w => 1 ≤ w.kind && w.kind ≤ 4 && w.job == id && id != 0).map fun w => (w.base, w.len)) ++
    (match s.slotOf id with | some j => s.jobRanges j | none => [])
  inMain a n && covered rs a (a + n) (rs.length + 1)

/-- R434: a job runs in exclusive mode. -/
def State.anyExclusive (s : State) : Bool :=
  (List.range 8).any fun j => (s.job j).excl && decide (1 ≤ (s.slot j).state) && decide ((s.slot j).state ≤ 3)

/-! ## ECC, R473 -/

/-- The 64-byte line of an address. -/
def lineOf (a : Nat) : Nat := a / 64 * 64

/-- A read of the range meets an uncorrectable line. -/
def State.hasBad (s : State) (a n : Nat) : Bool := s.log.badLines.any fun l => overlap (l, 64) (a, n)

/-- A write of the range would have to read part of an uncorrectable line. -/
def State.partBad (s : State) (a n : Nat) : Bool :=
  s.log.badLines.any fun l => overlap (l, 64) (a, n) && !inside (l, 64) (a, n)

/-- Writes bytes; a line written whole is good again (R473). -/
def State.store (s : State) (a : Nat) (bs : List Byte) : State :=
  { s with mem := s.mem.write a bs
           log := { s.log with badLines := s.log.badLines.filter fun l => !inside (l, 64) (a, bs.length) } }

/-- Writes several byte strings in order. -/
def State.storeAll (s : State) (ws : List (Nat × List Byte)) : State := ws.foldl (fun s w => s.store w.1 w.2) s

/-- R474: an uncorrectable error is counted in LOG_CNT_ECC_UNCORR. -/
def State.countUncorr (s : State) : State := { s with log := { s.log with cntUncorr := s.log.cntUncorr + 1 } }

/-- R474: a read or write that ends with this status is counted, if it met an uncorrectable line. -/
def State.tallyEcc (s : State) (status : Nat) : State := if status = 0x41 then s.countUncorr else s

/-- Writes zeros over a range; its lines are good again. -/
def State.zero (s : State) (base len : Nat) : State :=
  { s with mem := s.mem.zeroFill base len
           log := { s.log with badLines := s.log.badLines.filter fun l => !inside (l, 64) (base, len) } }

/-! ## Counters, waits and signals, R122 to R125 -/

/-- R123: a counter reaches its target. -/
def reached (cnt tgt : BitVec 48) : Bool := decide ((cnt - tgt).toNat < 2 ^ 47)

/-- The modes of a wait field. -/
def waitMode (w : BitVec 10) : Nat := field w.toNat 2 0
def waitIdx (w : BitVec 10) : Nat := field w.toNat 8 3

/-- R122: the wait field is well formed. -/
def waitOk (w : BitVec 10) : Bool :=
  decide (waitMode w < 6) && !w.getLsbD 9 && (decide (waitMode w = 0 ∨ waitMode w = 4 ∨ waitMode w = 5) || decide (waitIdx w < 32))

/-- R122: the wait is met, over counters, targets and flags. -/
def waitMet (cnt tgt : Sparse (BitVec 48)) (flags : BitVec 64) (w : BitVec 10) : Bool :=
  let i := waitIdx w
  match waitMode w with
  | 0 => true
  | 1 => reached (tget 0 cnt i) (tget 0 tgt i)
  | 2 => reached (tget 0 cnt i) (tget 0 tgt i)
  | 3 => tget 0 cnt i == tget 0 tgt i
  | 4 => flags.getLsbD i
  | 5 => flags.getLsbD i
  | _ => false

/-- R124: the counter a signal field increments. -/
def sigCounter (g : BitVec 8) : Option Nat := if g.getLsbD 5 then some (field g.toNat 4 0) else none

/-- One added to a counter. -/
def bump (cnt : Sparse (BitVec 48)) (i : Nat) : Sparse (BitVec 48) := tmod 0 cnt i (· + 1)

/-! ## Tensor descriptors, Table 5-13 -/

/-- A tensor descriptor. -/
structure Desc where
  base : Nat := 0
  fmt : Nat := 0
  rank : Nat := 0
  src : Nat := 0
  bound : Nat := 0
  exts : List Nat := []
  strs : List Int := []
  swbase : Nat := 0
  /-- The reserved bytes and bits are zero. -/
  clean : Bool := true
  deriving DecidableEq, Repr

/-- A descriptor from its 64 bytes. -/
def parseDesc (b : List Byte) : Desc :=
  let x := leAt b 8 1
  { base := leAt b 0 8, fmt := field x 3 0, rank := field x 6 4, src := field (leAt b 9 1) 4 0, bound := leAt b 11 5
    exts := (List.range 5).map fun i => leAt b (16 + 4 * i) 4
    strs := (List.range 4).map fun i => signedOf 32 (leAt b (36 + 4 * i) 4)
    swbase := leAt b 56 6
    clean := !bitOf x 7 && field (leAt b 9 1) 7 5 == 0 && leAt b 10 1 == 0 && leAt b 52 4 == 0 && leAt b 62 2 == 0 }

/-- A resolved tensor: extents and strides of its RANK dimensions. -/
structure Tensor where
  base : Nat
  fmt : Nat
  bound : Nat
  exts : List Nat
  strs : List Int
  deriving DecidableEq, Repr

/-- R144: resolves the extents through the shape words. -/
def Desc.resolve (m : Memory) (d : Desc) : Tensor :=
  { base := d.base, fmt := d.fmt, bound := d.bound
    exts := (List.range d.rank).map fun i =>
      if d.src.testBit i then m.nat (d.swbase + 4 * d.exts.getD i 0) 4 else d.exts.getD i 0
    strs := d.strs.take (d.rank - 1) }

/-- R143, R145: RANK, format, reserved fields, dimensions above RANK, and a dimension-0 extent of whole MX blocks. -/
def Desc.structOk (m : Memory) (d : Desc) (fmts : List Nat) : Bool :=
  decide (1 ≤ d.rank) && decide (d.rank ≤ 5) && fmts.contains d.fmt && d.clean &&
  (d.exts.drop d.rank).all (· == 0) && (d.strs.drop (d.rank - 1)).all (· == 0) && d.src / 2 ^ d.rank == 0 &&
  (!isMx d.fmt || (d.resolve m).exts.headD 0 % 32 == 0)

/-- R145: alignment of BASE, strides and SWBASE. -/
def Desc.alignOk (d : Desc) : Bool :=
  d.base % fmtAlign d.fmt == 0 && d.strs.all (fun x => x % (fmtAlign d.fmt : Int) == 0) &&
  (d.src == 0 || d.swbase % 4 == 0)

/-- Byte offsets of the rows of dimension 0, in flattened order. -/
def dimOffsets : List (Nat × Int) → List Int
  | [] => [0]
  | (n, st) :: r => (dimOffsets r).flatMap fun o => (List.range n).map fun (i : Nat) => o + i * st

/-- The local byte offsets of the rows from BASE. -/
def Tensor.offsets (t : Tensor) : List Int := dimOffsets ((t.exts.drop 1).zip t.strs)

/-- Bytes of one row. -/
def Tensor.rowLen (t : Tensor) : Nat := rowBytes t.fmt (t.exts.headD 0)

/-- Elements in all. -/
def Tensor.size (t : Tensor) : Nat := t.exts.foldl (· * ·) 1

/-- R143: every access falls inside [BASE, BASE + BOUND). -/
def Tensor.inBound (t : Tensor) : Bool :=
  t.size == 0 || t.offsets.all fun o => decide (0 ≤ o) && decide (o + t.rowLen ≤ t.bound)

/-- Local addresses of the rows. -/
def Tensor.rows (t : Tensor) : List Nat :=
  if t.size = 0 then [] else t.offsets.map fun o => ((localOf t.base : Int) + o).toNat

/-- The rows' bytes in flattened order. -/
def Tensor.readRows (m : Memory) (t : Tensor) : List (List Byte) := t.rows.map fun a => m.bytes a t.rowLen

/-- All bytes in flattened order. -/
def Tensor.read (m : Memory) (t : Tensor) : List Byte := (t.readRows m).flatten

/-- All elements in flattened order. -/
def Tensor.vals (m : Memory) (t : Tensor) : List FVal := (t.readRows m).flatMap (decodeRow t.fmt (t.exts.headD 0))

/-- INT32 or INDEX32 elements as numbers, in flattened order. -/
def Tensor.words (m : Memory) (t : Tensor) : List Nat :=
  t.rows.flatMap fun a => (List.range (t.exts.headD 0)).map fun i => m.nat (a + 4 * i) 4

/-- The writes that place bytes into the rows, in flattened order. -/
def Tensor.place (t : Tensor) (bs : List Byte) : List (Nat × List Byte) :=
  (t.rows.zip (List.range t.rows.length)).map fun (a, i) => (a, slice bs (i * t.rowLen) t.rowLen)

/-- The writes that place values into the rows, each rounded once to the format. -/
def Tensor.placeVals (t : Tensor) (r : Rnd) (vs : List FVal) : List (Nat × List Byte) :=
  let n := t.exts.headD 0
  (t.rows.zip (List.range t.rows.length)).map fun (a, i) => (a, encodeRow t.fmt r ((vs.drop (i * n)).take n))

/-- The writes that place 32-bit words. -/
def Tensor.placeWords (t : Tensor) (ws : List Nat) : List (Nat × List Byte) := t.place (ws.flatMap (leBytes 4))

/-! ## Argument blocks, R356 -/

/-- The 64-byte parameter block of a command. -/
def State.params (s : State) (c : Cmd) : List Byte := s.mem.bytes c.arg 64

/-- Tensor slot `i` of a command's argument block. -/
def State.slotDesc (s : State) (c : Cmd) (i : Nat) : Desc := parseDesc (s.mem.bytes (c.arg + 64 * (i + 1)) 64)
def State.slotTensor (s : State) (c : Cmd) (i : Nat) : Tensor := (s.slotDesc c i).resolve s.mem

/-- A failed check: its status and DETAIL. -/
abbrev Check := Option (Nat × Nat)

/-- The first failure of a list of checks, in order. -/
def firstFail (l : List Check) : Check := l.findSome? id

/-- A condition that must hold. -/
def need (ok : Bool) (status detail : Nat) : Check := if ok then none else some (status, detail)

/-- The input and output slots of a command, by engine and opcode (the tensor tables of the engines' chapters). -/
def slotRoles (engine opcode : Nat) (params : List Byte) : List Nat × List Nat :=
  match engine, opcode with
  | 2, 0x01 => ([0, 1, 2], [3, 4, 5, 6, 7])
  | 2, 0x02 => ([0], [])
  | 2, 0x03 => ([], [0])
  | 2, 0x04 => ([0], [])
  | 3, 0x01 => ([0, 1, 2, 5], [3, 4])
  | 3, 0x02 => ([0, 1, 2], [3])
  | 4, 0x01 => ([0, 1], [])
  | 4, 0x02 => ([], [0, 1, 2])
  | 5, 0x01 => ([], [7])
  | 5, 0x02 => ([0], [])
  | 6, 0x01 => ([0], [])
  | 6, 0x04 => ([0], [])
  | 6, 0x05 => ([0], [])
  | 7, 0x01 => ([0], [7])
  | 7, 0x02 => ([], [7])
  | 7, 0x03 => ([0, 1], [7])
  | 7, 0x04 => (if bitOf (leAt params 2 1) 0 then [0, 1, 2, 3] else [0, 1, 2], [7])
  | 7, 0x05 => (List.range (min (leAt params 0 1) 7), [7])
  | 7, 0x06 => (if bitOf (leAt params 1 1) 2 then [0, 5] else [0], [1, 2, 3, 4, 6])
  | 7, 0x08 => ([], [7])
  | 7, 0x09 => ([0], [])
  | 7, 0x0A => ([0], [7])
  | 7, 0x0B => ([0], [])
  | 8, 0x01 => ([0, 2], [1])
  | 8, 0x02 => ([0], [1, 2])
  | 9, 0x01 => ([0], [7])
  | 9, 0x02 => ([1], [7])
  | 9, 0x03 => ([1], [7])
  | 9, 0x04 => ([0, 1], [7])
  | 9, 0x06 => ([0], [])
  | 9, 0x07 => ([0], [7])
  | 10, 0x01 => ([], [7])
  | 10, 0x02 => ([0], [])
  | 10, 0x03 => ([], [0])
  | 10, 0x05 => ([], [7])
  | _, _ => ([], [])

/-- The shape words of a descriptor, as base and length (R144). -/
def Desc.shapeWords (d : Desc) : List (Nat × Nat) :=
  ((List.range d.rank).filter (d.src.testBit ·)).map fun k => (d.swbase + 4 * d.exts.getD k 0, 4)

/-- A slot's checks: structure, alignment, then BOUND and the job's windows, those of the shape words it reads too (R145, R341, R492). -/
def State.checkSlot (s : State) (c : Cmd) (i : Nat) (fmts : List Nat) (shape : Tensor → Bool) : List Check :=
  let d := s.slotDesc c i
  let t := d.resolve s.mem
  let rd := (slotRoles c.engine c.opcode (s.params c)).1.contains i
  [need (d.structOk s.mem fmts && shape t) stStructure i,
   need d.alignOk stAlign i,
   need (d.shapeWords.all fun w => s.inReadable c.job w.1 w.2) stBounds i,
   need (t.inBound && t.rows.all (fun a => if rd then s.inReadable c.job a t.rowLen else s.inWindows c.job a t.rowLen) && (t.size == 0 || s.ownAddr t.base)) stBounds i]

/-- The first uncorrectable line that reads of some ranges meet. -/
def State.badLine (s : State) (rs : List (Nat × Nat)) : Option Nat := rs.findSome? fun r => s.log.badLines.find? fun l => overlap (l, 64) r

/-- The first uncorrectable line of a slot that is read, its shape words ahead of its rows. -/
def State.badSlot (s : State) (c : Cmd) (i : Nat) : Option Nat :=
  let t := s.slotTensor c i
  s.badLine ((s.slotDesc c i).shapeWords ++ t.rows.map fun a => (a, t.rowLen))

/-- The first uncorrectable line of a slot that is written: its shape words are read, and no row fills a part of a bad line. -/
def State.badOut (s : State) (c : Cmd) (i : Nat) : Option Nat :=
  let t := s.slotTensor c i
  (s.badLine (s.slotDesc c i).shapeWords).orElse fun _ => (t.rows.find? fun a => s.partBad a t.rowLen).map lineOf

/-- R165: a row of K elements padded with exact zeros to whole reduction blocks. -/
def padK (kb : Nat) (a : List FVal) : List FVal := a ++ List.replicate ((kb - a.length % kb) % kb) fZero

/-- R165: one element in FP32, from its accumulator. -/
def dotBlocks (kb : Nat) (acc : FVal) (a b : List FVal) : FVal :=
  let x := padK kb a
  let y := padK kb b
  ((chunksOf kb (x.length + 1) x).zip (chunksOf kb (y.length + 1) y)).foldl
    (fun acc x => toFp32 (acc.add (exactSum (x.1.zipWith FVal.mul x.2)))) acc

/-- R473: no slot read meets an uncorrectable line, and no slot written covers part of one; DETAIL is the slot. -/
def State.eccSlots (s : State) (c : Cmd) (ins outs : List Nat) : List Check :=
  ins.map (fun i => need (s.badSlot c i).isNone stEccUncorr i) ++
  outs.map fun i => need (s.badOut c i).isNone stEccUncorr i

/-- A slot is not used: its descriptor is all zero. -/
def State.slotZero (s : State) (c : Cmd) (i : Nat) : Bool := (s.mem.bytes (c.arg + 64 * (i + 1)) 64).all (· == 0)

/-- Parameter bytes that must be zero: BAD_OPCODE with the first offset that is not. -/
def zeroParams (b : List Byte) (offs : List Nat) : Check :=
  (offs.find? fun i => b.getD i 0 != 0).map fun i => (stBadOpcode, i)

/-- The offsets lo to hi. -/
def offsets (lo hi : Nat) : List Nat := (List.range (hi + 1 - lo)).map (lo + ·)

/-- Every format of data: WIDE128 is Urn's alone and INDEX32 an index's (R158). -/
def anyFmt : List Nat := List.range 12

end Sys2Proof.Machine
end

