-- ==== Sys2Proof/Machine/Ops.lean ====
section
/-!
DEFINITION. Operations shared by the commands: the queues of engines and jobs and their arbiter (R413, R414, R417),
starting a command, ending it in the order of R437, signals, rings and interrupts, and requests to other devices.
-/

namespace Sys2Proof.Machine

/-! ## Engines -/

/-- The block page that logs as SOURCE of an engine (Table 20-6); 11 stands for the update engine of engine 7. -/
def engSource (e : Nat) : Nat :=
  match e with
  | 1 => 0x400 | 2 => 0x100 | 3 => 0x110 | 4 => 0x120 | 5 => 0x130 | 6 => 0x140 | 7 => 0x180 | 8 => 0x160 | 9 => 0x170
  | 10 => 0x190 | 11 => 0x150 | _ => 0x000

/-- Table 3-3: the requester code of an engine. -/
def engCode (e : Nat) : Nat :=
  match e with | 3 => 0x004 | 6 => 0x003 | 8 => 0x005 | 9 => 0x006 | 11 => 0x007 | _ => 0x000

/-- UPDATE and STEP belong to the update engine of engine 7 (R408). -/
def Cmd.isUpdate (c : Cmd) : Bool := c.engine == 7 && (c.opcode == 0x06 || c.opcode == 0x07)

/-- The unit a command's events name: 11 is the update engine. -/
def Cmd.unit (c : Cmd) : Nat := if c.isUpdate then 11 else c.engine

/-- R365, R494: the update engine is present in the grade fused at manufacture. -/
def State.updateEngine (s : State) : Bool := s.boot.updatePresent

/-- R408, R410: the job is admitted to the engine of a command. -/
def State.admitted (s : State) (c : Cmd) : Bool :=
  if c.engine ≤ 1 then true
  else if c.isUpdate then s.bld.cur.shareOf 7 c.job != 0 && bitOf (s.st (0x150100 + 8 * c.job)) 21
  else s.bld.cur.shareOf c.engine c.job != 0

/-- Registers of an engine unit. -/
def State.engRegs (s : State) (u : Nat) : EngRegs := tget {} s.eng u
def State.modEng (s : State) (u : Nat) (f : EngRegs → EngRegs) : State := { s with eng := tmod {} s.eng u f }

/-! ## Declared ranges, R416 -/

/-- The range of a descriptor: [BASE, BASE + BOUND). -/
def Desc.range (d : Desc) : Nat × Nat := (d.base, d.bound)

/-- A descriptor that is in use: its RANK is nonzero. -/
def Desc.used (d : Desc) : Bool := d.rank != 0

/-- The opcodes of an engine. -/
def knownOpcode (e op : Nat) : Bool :=
  match e with
  | 0 => (1 ≤ op && op ≤ 5) || op == 0x10 || op == 0x11
  | 1 => 1 ≤ op && op ≤ 2
  | 2 => 1 ≤ op && op ≤ 4
  | 3 => 1 ≤ op && op ≤ 3
  | 4 => 1 ≤ op && op ≤ 3
  | 5 => 1 ≤ op && op ≤ 2
  | 6 => 1 ≤ op && op ≤ 5
  | 7 => 1 ≤ op && op ≤ 11
  | 8 => op == 1 || op == 2 || op == 0x10
  | 9 => 1 ≤ op && op ≤ 9
  | 10 => 1 ≤ op && op ≤ 5
  | _ => false

/-- R416: the entries of a TASK's declared tensor list: inputs and outputs named in its header. -/
def State.listCounts (s : State) (c : Cmd) : Nat × Nat := (s.mem.nat c.arg 1, s.mem.nat (c.arg + 1) 1)
/-- Entry i of the list. -/
def State.listDesc (s : State) (c : Cmd) (i : Nat) : Desc := parseDesc (s.mem.bytes (c.arg + 64 * (i + 1)) 64)

/-- R254, R416: the landing rows of DISPATCH are declared outputs. DESIGN CHOICE (notes/assumptions/24.md): how many there are is known only
with the maxima, so from its ring on the command declares its whole landing window. -/
def State.landingRange (s : State) (c : Cmd) : List (Nat × Nat) :=
  if c.engine = 3 && c.opcode = 0x01 then
    ((s.bld.cur.windows[leAt (s.params c) 4 1]?).filter fun w => w.kind == 3 && w.job == (s.job c.job).jobId).toList.map
      fun w => (s.devId * 2 ^ 48 + w.base, w.len)
  else []

/-- The declared inputs and outputs of a command (R416). -/
def State.declared (s : State) (c : Cmd) : List (Nat × Nat) × List (Nat × Nat) :=
  if c.engine = 1 then
    if c.opcode = 0x02 && inMain c.arg 64 then
      let ni := min (s.listCounts c).1 15
      let no := min (s.listCounts c).2 (15 - ni)
      let d i := (s.listDesc c i).range
      ((List.range ni).map d, (List.range no).map fun i => d (ni + i))
    else ([], [])
  else if inMain c.arg 576 then
    let (i, o) := slotRoles c.engine c.opcode (s.params c)
    let ds (l : List Nat) := ((l.map (s.slotDesc c)).filter Desc.used).map Desc.range
    (ds i, ds o ++ s.landingRange c)
  else ([], [])

/-- R413, R410: a command reads the 576 bytes at its ARG, and writes its record at its COMPL: an address in no region is BOUNDS (R492), and
an uncorrectable line of the argument block is ECC_UNCORR (R473, Table 13-4). DESIGN CHOICE (notes/assumptions/24.md): both are found as the
command starts, ahead of its chapter's table, with DETAIL 0 but for the channel of engine 7. -/
def State.argCheck (s : State) (c : Cmd) : Check :=
  firstFail
    [need (c.compl == 0 || !s.ownAddr c.compl.toNat || inMain (localOf c.compl.toNat) 64) stBounds 0,
     need (decide (c.engine ≤ 1) || inMain c.arg 576) stBounds 0,
     if c.engine ≤ 1 then none
     else (s.badLine [(c.arg, 576)]).map fun l => (stEccUncorr, if c.engine = 7 && inGddr l 64 then gddrChannel l else 0)]

/-- The run of cores a PLOAD or TASK names (R412). -/
def Cmd.cores (c : Cmd) : List Nat :=
  (List.range (field c.imm.toNat 24 16)).map (field c.imm.toNat 7 0 + ·)

/-- The part of a range that lies in another. -/
def clipTo (r o : Nat × Nat) : Option (Nat × Nat) :=
  let lo := max r.1 o.1
  let hi := min (r.1 + r.2) (o.1 + o.2)
  if lo < hi then some (lo, hi - lo) else none

/-- R418: the declared output bytes of a command that writes in place, as far as its job reaches them: its windows and pools, and the
scratchpads of a task's cores. Cores write in place, and Spout and the collective engine receive into memory; the other engines write at
their commit alone. -/
def State.undefinedOuts (s : State) (c : Cmd) : List (Nat × Nat) :=
  if c.engine = 1 || c.engine = 3 || c.engine = 8 then
    ((s.declared c).2.filter fun o => s.ownAddr o.1).flatMap fun o =>
      (s.jobRanges c.job ++ (if c.engine = 1 then c.cores.map padOf else [])).filterMap (clipTo (localOf o.1, o.2))
  else []

/-! ## Bias pages, R432, R433 -/

/-- Bytes of a bias page, and bias pages of GDDR7. -/
def biasPage : Nat := 0x200000
def biasPages : Nat := 196608

/-- The lines of local ranges that stand in host-bias pages, as ranges. -/
def State.hostLines (s : State) (rs : List (Nat × Nat)) : List (Nat × Nat) :=
  s.host.hostBias.flatMap fun e => rs.filterMap fun r =>
    if r.2 = 0 then none else clipTo (lineOf r.1, lineOf (r.1 + r.2 + 63) - lineOf r.1) (e.1 * biasPage, biasPage)

/-- R432: a device engine claims the lines it accesses in host-bias pages from the host; the pages stay in host bias. -/
def State.claim (s : State) (rs : List (Nat × Nat)) : State :=
  { s with out := s.out ++ (s.hostLines rs).map fun r => .claim r.1 r.2 }

/-- R433: an access to a page that flips waits. -/
def State.flipWaits (s : State) (rs : List (Nat × Nat)) : Bool :=
  s.host.biasLeft != 0 && rs.any fun r => overlap r (s.host.biasNext * biasPage, biasPage)

/-- The home channel of a 64-byte line (R303): a GDDR7 channel, or a Stack SRAM bank group. -/
def homeChannel (a : Nat) : Nat := if inSsram a 1 then 1000 + ssramBank a else gddrChannel a

/-- The home channels of a request's lines, a STORE_F's flag word among them. -/
def RemReq.channels (r : RemReq) : List Nat :=
  let a := localOf r.addr.toNat
  ((List.range ((a % 64 + r.len + 63) / 64)).map fun i => homeChannel (lineOf a + 64 * i)) ++
    if r.op = 0x03 then [homeChannel (lineOf r.flagAddr)] else []

/-- R434: a home channel is in the part of slot position 15 that serves the host alone: for a GDDR7 channel, after its refresh batch of that
slot. -/
def State.hostTime (s : State) (channel : Nat) : Bool :=
  s.inRepair && (decide (1000 ≤ channel) || tget 0 s.ht.batchAt channel == s.now / slotLen + 1)

/-- The local ranges of a request. -/
def RemReq.touched (r : RemReq) : List (Nat × Nat) :=
  (localOf r.addr.toNat, r.len) :: if r.op = 0x03 then [(r.flagAddr, 8)] else []

/-- R433, R434: a request waits while a page of it flips, and while its channels serve the host alone. -/
def State.channelWaits (s : State) (r : RemReq) : Bool :=
  s.flipWaits r.touched || (s.anyExclusive && r.channels.any s.hostTime)

/-- The local ranges a command names: its argument block or list, its inputs and its outputs on this device. -/
def State.touched (s : State) (c : Cmd) : List (Nat × Nat) :=
  (if c.engine = 0 || (c.engine = 1 && c.opcode != 0x02) then []
    else [(c.arg, if c.engine = 1 then 64 + 64 * ((s.listCounts c).1 + (s.listCounts c).2) else 576)]) ++
  (((s.declared c).1 ++ (s.declared c).2).filter fun r => s.ownAddr r.1).map fun r => (localOf r.1, r.2)

/-! ## Queues and the arbiter, R413, R414, R417 -/

/-- The queue of engine e and job j. -/
def State.queue (s : State) (e j : Nat) : List Cmd := tget [] s.queues (e * 8 + j)
def State.setQueue (s : State) (e j : Nat) (q : List Cmd) : State := { s with queues := tset [] s.queues (e * 8 + j) q }

/-- The pass value of engine e and job j. -/
def State.passOf (s : State) (e j : Nat) : Nat := tget 0 s.pass (e * 8 + j)

/-- R414: a queue that becomes non-empty raises its pass value to the lowest among the other non-empty queues. -/
def State.raisePass (s : State) (e j : Nat) : State :=
  let others := ((List.range 8).filter fun k => k != j && !(s.queue e k).isEmpty).map (s.passOf e)
  match s.queue e j, others with
  | [], x :: xs => { s with pass := tset 0 s.pass (e * 8 + j) (max (s.passOf e j) (xs.foldl min x)) }
  | _, _ => s

/-- R413: the order of a queue: by the engine cycle of entry, within it by ring. -/
def Cmd.before (a b : Cmd) : Bool :=
  let (x, y) := (a.cycle.elim 0 (· + 1), b.cycle.elim 0 (· + 1))
  decide (x < y) || (x == y && decide (a.ring ≤ b.ring))

/-- Adds a command to its queue (R413, R414). -/
def State.enqueue (s : State) (c : Cmd) : State :=
  let s1 := s.raisePass c.engine c.job
  s1.setQueue c.engine c.job (insertBy Cmd.before { c with cycle := some s.engCycle } (s1.queue c.engine c.job))

/-- R417: none of a command's declared ranges meets those of a started command of its job. -/
def State.rangesClear (s : State) (c : Cmd) : Bool :=
  let (ins, outs) := s.declared c
  s.live.all fun l => l.cmd.job != c.job ||
    (l.outs.all (fun o => (ins ++ outs).all fun r => !overlap o r) && l.ins.all (fun i => outs.all fun r => !overlap i r))

/-- R304: what has arrived from other devices has been applied, but for a STORE_F that waits for room in the hold (R301) and requests that wait
for their channels (R433, R434): the device's own accesses come after the arrivals of their engine cycle. -/
def State.arrivalsDone (s : State) : Bool :=
  s.fab.ingress.all fun q => (q.req.op == 0x03 && decide (1024 ≤ s.fab.held.length)) || s.channelWaits q.req

/-- R422: SAVE, RESTORE and PLOAD run while their job is preempted. -/
def Cmd.switches (c : Cmd) : Bool := (c.engine == 0 && (c.opcode == 0x10 || c.opcode == 0x11)) || (c.engine == 1 && c.opcode == 0x01)

/-- The command of a job that engine e starts next: the head of its queue, and while the job is preempted the first that switches the context
(R422; DEDUCED: notes/assumptions/36.md). -/
def State.head (s : State) (e j : Nat) : Option Cmd :=
  if (s.slot j).state = 3 then (s.queue e j).find? Cmd.switches else (s.queue e j).head?

/-- R386: a SWAP of the set takes effect in this tick. -/
def State.swapDue (s : State) (set : Nat) : Bool :=
  (tget ({} : InfSet) s.inf.sets set).swaps.any fun w =>
    let t := tget ({} : HtTimer) s.ht.timers w.timer
    w.due || (t.arm && decide (t.cmp ≤ s.now))

/-- Engine conditions on a start: NCH waits for scrub fills (R348), PLOAD and TASK for core scrubs (R425), Spout and the
Infuser while the job is provisional (R328), the prefix engine for the command it runs (R397), START for the START that runs and a
collective for the collective (R324, R312). -/
def State.engineFree (s : State) (c : Cmd) : Bool :=
  if c.engine = 3 then !(s.slot c.job).provisional
  else if c.engine = 6 then
    !(s.slot c.job).provisional &&
      -- R386: after any swap of its set in the same tick
      ((c.opcode != 4 && c.opcode != 5) || !s.swapDue (leAt (s.params c) 0 1))
  else if c.engine = 7 then s.scrubs.isEmpty
  else if c.engine = 8 then (if c.opcode = 0x10 then s.col.start.isNone else s.col.run.isNone)
  else if c.engine = 9 then s.live.all fun l => l.cmd.engine != 9
  else if c.engine = 1 then c.cores.all fun k => !(tget ({} : Core) s.cores k).scrubbing
  else true

/-- A head command can start: it did not enter its queue in this engine cycle (R413), its job is not held (R420, R422), its wait is met, its
ranges and its engine are free, what has arrived is applied (R304), and no page of its ranges flips (R433). -/
def State.canStart (s : State) (c : Cmd) : Bool :=
  let js := s.slot c.job
  c.cycle != some s.engCycle && js.state != 2 && (js.state != 3 || c.switches) && s.arrivalsDone && waitMet (s.jobCnt c.job) js.tgt 0 c.wait && s.rangesClear c && s.engineFree c &&
    !s.flipWaits (s.touched c)

/-- R414: the job whose head command an engine chooses: lowest pass value, then lower slot. -/
def State.choose (s : State) (e : Nat) : Option Cmd :=
  let heads := (List.range 8).filterMap fun j => (s.head e j).filter s.canStart
  heads.foldl (fun best c =>
    match best with
    | none => some c
    | some b => if s.passOf e c.job < s.passOf e b.job then some c else some b) none

/-- R411: both commands wait with GE_ADV on one counter of one job. -/
def Cmd.contends (a b : Cmd) : Bool :=
  a.job == b.job && waitMode a.wait == 2 && waitMode b.wait == 2 && waitIdx a.wait == waitIdx b.wait

/-- R411, R414: the command that starts next on engine e: the one it chooses, unless a lower engine starts one that waits with GE_ADV on
the same counter. -/
def State.pick (s : State) (e : Nat) : Option Cmd :=
  (s.choose e).filter fun c => !(List.range e).any fun d => (s.choose d).any c.contends

/-- R414, R122, R432: starts a command taken from its queue. -/
def State.startCmd (s : State) (c : Cmd) : State × Cmd :=
  let share := if c.engine ≤ 1 then 1 else max 1 (s.bld.cur.shareOf c.engine c.job)
  let c' := { c with runs := c.runs + 1, startAt := s.now }
  let s1 := s.setQueue c.engine c.job ((s.queue c.engine c.job).erase c)
  let s2 := { s1 with pass := tmod 0 s1.pass (c.engine * 8 + c.job) (· + 65536 / share) }
  let s3 := if waitMode c.wait = 2 then
      s2.setSlot c.job fun j => { j with tgt := tmod 0 j.tgt (waitIdx c.wait) (· + tget 0 j.stp (waitIdx c.wait)) }
    else s2
  (s3.claim (s.touched c), c')

/-! ## Started commands -/

/-- The same command, wherever it stands: fetched from one ring index. -/
def Cmd.same (a b : Cmd) : Bool := a.ring == b.ring && a.index == b.index && a.engine == b.engine && a.job == b.job

/-- A number for a command in a stream it sends. -/
def Cmd.key (c : Cmd) : Nat := c.index * 64 + c.ring

/-- Registers a started command until it ends (Table 16-4: with NORERUN it runs to its end). -/
def State.addLive (s : State) (c : Cmd) (restartable : Bool) : State :=
  let (ins, outs) := s.declared c
  { s with live := s.live ++ [{ cmd := c, ins, outs, restartable := restartable && !c.norerun }] }

/-- R419: from here on the command runs to its end. -/
def State.noRestart (s : State) (c : Cmd) : State :=
  { s with live := s.live.map fun l => if l.cmd.same c then { l with restartable := false } else l }

/-- Removes a started command. -/
def State.dropLive (s : State) (c : Cmd) : State := { s with live := s.live.filter fun l => !l.cmd.same c }

/-! ## Cores -/

def State.core (s : State) (k : Nat) : Core := tget {} s.cores k
def State.modCore (s : State) (k : Nat) (f : Core → Core) : State := { s with cores := tmod {} s.cores k f }

/-- SOURCE of a requester code of Table 3-3. -/
def codeSource (code : Nat) : Nat :=
  if 0x100 ≤ code then 0x400 + (code - 0x100)
  else match code with
    | 2 => 0x030 | 3 => 0x140 | 4 => 0x110 | 5 => 0x160 | 6 => 0x170 | 7 => 0x150 | _ => 0x2F0

/-- Bytes spread over pieces, in order. -/
def spread (bs : List Byte) : List (Nat × Nat) → List (Nat × List Byte)
  | [] => []
  | (a, n) :: r => (a, bs.take n) :: spread (bs.drop n) r

/-- Bytes written into the DMEM of a core. -/
def Core.writeDmem (c : Core) (a : Nat) : List Byte → Core
  | [] => c
  | b :: r => Core.writeDmem { c with dmem := tset 0 c.dmem (a % 65536) b } (a + 1) r

/-! ## Signals -/

/-- R411: a command signals on its job's counters, as its engine cycle ends (R125). -/
def State.signal (s : State) (j : Nat) (g : BitVec 8) : State :=
  match sigCounter g with
  | some i => s.setSlot j fun x => let y := x.inCycle s.engCycle; { y with incs := bump y.incs i }
  | none => s

/-! ## Rings and interrupts, R436 to R438 -/

def State.ring (s : State) (r : Nat) : Ring := tget {} s.rings r
def State.modRing (s : State) (r : Nat) (f : Ring → Ring) : State := { s with rings := tmod {} s.rings r f }

/-- Entries of a ring. -/
def Ring.size (r : Ring) : Nat := 2 ^ r.log2size

/-- R438, R439: raises a ring's vector; while the link is down the interrupt is discarded and counted in LOST. -/
def State.ringInterrupt (s : State) (r : Nat) : State :=
  (s.modRing r fun x => { x with posts := 0, lost := if s.linkUp then x.lost else satAdd 16 x.lost 1 }).msix (s.ring r).vec

/-- R437, R439: posts a record to the completion queue, or discards it while the link is down. -/
def State.post (s : State) (c : Cmd) (record : List Byte) : State :=
  let r := s.ring c.ring
  let s1 := s.modRing c.ring fun x => { x with unposted := x.unposted - 1 }
  if !r.cqEn then s1
  else if !s.linkUp then s1.modRing c.ring fun x => { x with lost := satAdd 16 x.lost 1 }
  else
    let rec' := record.set 13 (if r.phase then 1 else 0)
    let last := r.cqTail + 1 == r.size
    let s2 := (s1.modRing c.ring fun x =>
      { x with cqTail := if last then 0 else x.cqTail + 1, phase := if last then !x.phase else x.phase
               posts := x.posts + 1, firstPostAt := if x.posts = 0 then s.boot.sincePwrOk else x.firstPostAt }).emit
      (.hostWrite (r.cqBase.toNat + 64 * r.cqTail) rec')
    if c.irq || (r.coalCnt != 0 && decide (r.coalCnt ≤ r.posts + 1)) then s2.ringInterrupt c.ring else s2

/-! ## Requests to other devices, R294 -/

/-- Splits a span in ascending order: no piece crosses a 4 KiB page, none is longer than 192 bytes. -/
def splitSpan (a n : Nat) : Nat → List (Nat × Nat)
  | 0 => []
  | fuel + 1 =>
    if n = 0 then []
    else
      let k := min n (min 192 (4096 - a % 4096))
      (a, k) :: splitSpan (a + k) (n - k) fuel

/-- R296: hand-over order: by engine cycle, within it by requester code. -/
def RemReq.before (a b : RemReq) : Bool := decide (a.cycle < b.cycle) || (a.cycle == b.cycle && decide (a.requester ≤ b.requester))

/-- Hands requests over for sending, in order (R296). -/
def State.requests (s : State) (rs : List RemReq) : State :=
  { s with fab := { s.fab with
      toSend := (rs.map fun r => { r with cycle := s.engCycle }).foldl (fun l r => insertBy RemReq.before r l) s.fab.toSend } }

/-- STOREs of bytes to a global address. -/
def storeRequests (addr : Nat) (bs : List Byte) (requester jobId jobSlot : Nat) : List RemReq :=
  (splitSpan addr bs.length (bs.length + 1)).map fun (a, n) =>
    { op := 0x02, len := n, requester, addr := BitVec.ofNat 64 a, jobId, jobSlot, data := slice bs (a - addr) n }

/-! ## Ending a command, R437 -/

/-- The record of Table 17-5, PHASE 0. -/
def Cmd.record (c : Cmd) (status detail endAt : Nat) : List Byte :=
  leBytes 8 c.tag.toNat ++ leBytes 1 status ++ leBytes 1 c.opcode ++ leBytes 1 c.engine ++ leBytes 1 c.job ++
  leBytes 1 c.ring ++ [0] ++ leBytes 2 c.runs ++ leBytes 4 c.index ++ zeros 4 ++ leBytes 8 detail ++
  leBytes 8 (if c.runs = 0 then 0 else c.startAt) ++ leBytes 8 endAt ++ zeros 16

/-- R437: the record goes to a COMPL on another device. -/
def State.remoteCompl (s : State) (c : Cmd) : Bool := c.compl != 0 && !s.ownAddr c.compl.toNat

/-- R437 1: the record at COMPL, a local write or remote STOREs; the end of the command waits for the latter. A local record is not written
into no region (R492), nor over a part of an uncorrectable line (R473). -/
def State.writeCompl (s : State) (c : Cmd) (record : List Byte) (signals : Bool) : State :=
  let g := c.compl.toNat
  if g = 0 then s
  else if s.ownAddr g then (if inMain (localOf g) 64 && !s.partBad (localOf g) 64 then (s.claim [(localOf g, 64)]).store (localOf g) record else s)
  else
    let id := s.fab.lastEnding + 1
    let e : Ending := { id, cmd := c, jobId := (s.job c.job).jobId, record, signals }
    State.requests { s with fab := { s.fab with endings := s.fab.endings ++ [e], lastEnding := id } }
      ((storeRequests g record (engCode c.unit) e.jobId c.job).map fun r => { r with endId := id })

/-- R437 2 to 4: the signal, the post and the interrupt. -/
def State.conclude (s : State) (c : Cmd) (record : List Byte) (signals : Bool) : State :=
  (if signals then s.signal c.job c.signal else s).post c record

/-- R437: a command ends: its record, and, unless the record is on its way to another device, its signal and its post. -/
def State.finish (s : State) (c : Cmd) (record : List Byte) (signals : Bool) : State :=
  if s.remoteCompl c then s.writeCompl c record signals else (s.writeCompl c record signals).conclude c record signals

/-- R437: the commands whose records have arrived, or have failed to, signal and are posted, in the order in which they ended. A signal
stays in its slot's job. -/
def State.settleEndings (s : State) : State :=
  let on (e : Ending) := (s.fab.toSend ++ s.fab.outstanding).any fun r => r.endId == e.id
  (s.fab.endings.filter fun e => !on e).foldl (fun s e => s.conclude e.cmd e.record (e.signals && (s.job e.cmd.job).jobId == e.jobId))
    { s with fab := { s.fab with endings := s.fab.endings.filter on } }

/-- The job's account of a command that ends (JOB_STAT). -/
def State.account (s : State) (c : Cmd) (status : Nat) : State :=
  if status = 0 then s
  else s.setSlot c.job fun j => { j with lastFail := status, fails := satAdd 32 j.fails 1 }

/-- R408: the trace entry of a traced job. -/
def State.trace (s : State) (c : Cmd) (status : Nat) : State :=
  if bitOf (s.bld.cur.trace.getD c.engine 0) c.job then
    s.jobEvent 0 (engSource c.unit) 0x0050 c.opcode (status + 256 * (c.runs % 65536)) status c.job
  else s

/-- R480: the entry and the count of an absent engine. -/
def State.absent (s : State) (c : Cmd) (status : Nat) : State :=
  if status = stEngineAbsent then
    let s1 := s.jobEvent 3 (engSource c.unit) 0x0021 c.opcode c.engine status c.job
    { s1 with log := { s1.log with cntAbsent := s1.log.cntAbsent + 1 } }
  else s

/-- The engine's own status registers; the Strainer counts every command that ends, a killed one too (R229). -/
def State.engineEnd (s : State) (c : Cmd) (status detail sub : Nat) : State :=
  State.modEng { s with str := { s.str with cntCmd := if c.engine = 2 then s.str.cntCmd + 1 else s.str.cntCmd } } c.engine fun e =>
    if status = 0 then { e with lastStatus := 0 }
    else { e with lastStatus := status, failStatus := status, failOpcode := c.opcode, failJob := c.job
                  failUnit := sub, failDetail := detail }

/-- R420: a job whose last running command has ended is preempted. -/
def State.settlePreempt (s : State) (j : Nat) : State :=
  if (s.slot j).state = 2 && s.live.all (fun l => l.cmd.job != j) then s.setSlot j fun x => { x with state := 3 } else s

/-- R437: a command ends. `signals` is false only for a command refused because its job slot is empty (R410); `counts` only for poisoned
host data, which is no error of the device. An ECC_UNCORR is counted (R474), a task's where its core met it. -/
def State.complete (s : State) (c : Cmd) (status detail : Nat) (signals : Bool := true) (sub : Nat := 0) (counts : Bool := true) : State :=
  let rec' := c.record status detail s.now
  let s0 := if counts && !(c.engine == 1 && c.opcode == 0x02) then s.tallyEcc status else s
  let s1 := ((((s0.dropLive c).settlePreempt c.job).engineEnd c status detail sub).absent c status).trace c status
  (if signals then s1.account c status else s1).finish c rec' signals

/-- R410, R416: a command that fails a check as it is taken from its ring ends there: no engine has taken it. -/
def State.completeRefused (s : State) (c : Cmd) (status detail : Nat) (signals : Bool) : State :=
  let rec' := c.record status detail s.now
  let s1 := (s.absent c status).trace c status
  (if signals then s1.account c status else s1).finish c rec' signals

/-- R69: a job command that ends with KILLED ahead of R410: its record is written and posted, and nothing else happens. -/
def State.completeClosed (s : State) (c : Cmd) : State :=
  s.finish c (c.record stKilled 0 s.now) false

/-- Ends a command with its first failed check, or goes on. -/
def State.orFail (s : State) (c : Cmd) (checks : List Check) (body : State → State) : State :=
  match firstFail checks with
  | some (st, d) => s.complete c st d
  | none => body s

/-- The checks of declared outputs against declared inputs (R416). -/
def State.overlapCheck (s : State) (c : Cmd) (detail : Nat) : Check :=
  let (ins, outs) := s.declared c
  need (outs.all fun o => ins.all fun i => !overlap o i) stOverlap detail

/-- R418: bytes left undefined by a failed or killed command that writes in place. -/
def State.leaveUndefined (s : State) (rs : List (Nat × Nat)) : State :=
  if rs.isEmpty then s
  else
    let e := s.freeCount + 1
    { s with mem := rs.foldl (fun m r => if r.2 = 0 then m else m.overlay (localOf r.1) r.2 e) s.mem, freeCount := e }

/-- R418: a command that ends with a failure leaves its declared outputs undefined. -/
def State.failOutputs (s : State) (c : Cmd) (status : Nat) : State :=
  if status = 0 then s else s.leaveUndefined (s.undefinedOuts c)

/-- R330: the end of a collective that failed. The first of a provisional job is its start check, which sets the roll-back instant. -/
def State.checkFailed (s : State) (j status deadline : Nat) : State :=
  if (s.slot j).provisional && s.col.provJob == some j && !s.col.checkDone then
    { s with col := { s.col with
        checkDone := true
        rollbackAt := if status == stRemoteTimeout || status == stCheckMismatch || status == stRouteDead then
          some (roundUp (deadline + 10240) frameLen) else s.col.rollbackAt } }
  else s

/-! ## Rows of an engine -/

/-- A head command whose opcode its engine does not have ends with BAD_OPCODE when it starts, whichever row of the engine
runs. -/
def State.badOpcode (s : State) (c : Cmd) : State :=
  let s1 := if c.engine = 2 then s.modEng 2 fun e => { e with evt := e.evt ||| 8 } else s
  s1.complete c stBadOpcode 0

/-- A head command that cannot read its argument block, or whose COMPL is in no region, ends as it starts, whichever row of the engine runs
(R473, R492). -/
def State.refuseStart (s : State) (c : Cmd) (status detail : Nat) : State :=
  let s1 := if c.engine = 2 then s.modEng 2 fun e => { e with evt := e.evt ||| 8 }
    else if c.isUpdate && status == stEccUncorr then s.modEng 11 fun e => { e with evt := e.evt ||| 4 } else s
  let s2 := if c.engine = 8 && c.opcode != 0x10 then s1.checkFailed c.job status 0 else s1
  (s2.failOutputs c status).complete c status detail

/-- Runs `body` on the head command the arbiter starts on engine e, when it has this opcode and `pred` holds of its
parameters. -/
def State.withHeadIf (s : State) (e op : Nat) (pred : List Byte → Bool) (body : State → Cmd → State) : State :=
  match s.pick e with
  | none => s
  | some c =>
    if !knownOpcode e c.opcode then (s.startCmd c).1.badOpcode (s.startCmd c).2
    else
      match s.argCheck c with
      | some (st, d) => (s.startCmd c).1.refuseStart (s.startCmd c).2 st d
      | none => if c.opcode = op && pred (s.params c) then body (s.startCmd c).1 (s.startCmd c).2 else s

/-- Runs `body` on the head command the arbiter starts on engine e, when it has this opcode. -/
def State.withHead (s : State) (e op : Nat) (body : State → Cmd → State) : State := s.withHeadIf e op (fun _ => true) body

end Sys2Proof.Machine
end

