-- ==== Sys2Proof/Machine/Access.lean ====
section
/-!
DEFINITION. Register accesses of 4 and 8 bytes (R430): the bits an access writes, and the write rules of RW and W1C fields
(Table 0-6).
-/

namespace Sys2Proof.Machine

/-- The bits an access writes. -/
def Half.mask : Half → Nat
  | .whole => 0xFFFFFFFFFFFFFFFF
  | .low => 0xFFFFFFFF
  | .high => 0xFFFFFFFF00000000
  | .other => 0

/-- R430: an access of another size or alignment completes as Unsupported Request, without effect. -/
def served (h : Half) (body : State → State) (s : State) : State :=
  if h = .other then (if s.linkUp then s.emit .unsupported else s) else body s

/-- A register's value after a write of the bits of `fields` that the access reaches. -/
def mergeWrite (h : Half) (fields old new : Nat) : Nat :=
  let m := Half.mask h &&& fields
  (old ^^^ (old &&& m)) ||| (new &&& m)

/-- The bits of `fields` that a write clears by writing 1. -/
def clearBits (h : Half) (fields old new : Nat) : Nat := old ^^^ (old &&& (Half.mask h &&& fields &&& new))

end Sys2Proof.Machine
end

