-- ==== Sys2Proof/Machine/Identity.lean ====
section
/-!
DEFINITION. Keys and certificates (18_trust_and_warden.md R445, R446, R460): the keys the Warden derives from the unique device
secret, the fingerprint of a public key, the owner-record seal, and the certificate chain. Ed448 and the encoding of an X.509
certificate stand in documents the spec only names: they are constants with no body (notes/assumptions/48.md).
-/

namespace Sys2Proof.Machine

/-- An ASCII string as bytes, without a terminator. -/
def ascii (t : String) : List Byte := t.toList.map fun c => BitVec.ofNat 8 c.toNat

/-- Table 18-1: the 256-bit unique device secret. -/
def uds : List Byte := padTo 32 Config.uds

/-- R445: the leading `n` bytes of SHAKE256 over a label and its inputs. -/
def deriveKey (label : String) (inputs : List Byte) (n : Nat) : List Byte := shake256 n (ascii label ++ inputs)

/-- Table 18-2: the identity key. -/
def devIdentityKey : List Byte := deriveKey "AZB7-ID" uds 57
/-- Table 18-2: the Tin key pair. -/
def devTinKey : List Byte := deriveKey "AZB7-TIN" uds 64
/-- Table 18-2: the owner-record seal key. -/
def devSealKey : List Byte := deriveKey "AZB7-OWNER" uds 32
/-- Table 18-2: the alias key of a firmware body digest and security version. -/
def devAliasKey (digest : List Byte) (svn : Nat) : List Byte := deriveKey "AZB7-ALIAS" (uds ++ digest ++ leBytes 4 svn) 57

/-- The 57-byte Ed448 public key of a private key. -/
def publicKey (key : List Byte) : List Byte := padTo 57 (Config.ed448Public key)

/-- The first 16 bytes of SHAKE256 of a public key (WDN_DEV_FPR, WDN_OWNER_FPR). -/
def fingerprint (pub : List Byte) : BitVec 128 := BitVec.ofNat 128 (leNat (shake256 16 pub))

/-- WDN_DEV_FPR of a device whose Warden holds an identity key. -/
def deviceFpr (identity : List Byte) : BitVec 128 := fingerprint (publicKey identity)

/-- The seal of an owner record: SHAKE256 over the seal key and bytes 0x000 to 0x13F. -/
def ownerSeal (key record : List Byte) : List Byte := shake256 64 (key ++ record)

/-- R446: the chain of the certificate store: root, product CA, device certificate. -/
def storeChain : List (List Byte) := [Config.rootCert, Config.productCaCert, Config.deviceCert]

/-- R446: the alias certificate of an image: its subject key is the alias key, its extension carries the body digest and the
security version, and the identity key signs it. -/
def issueAlias (identity digest : List Byte) (svn : Nat) : AliasCert :=
  let subject := publicKey (devAliasKey digest svn)
  { subject, digest, svn, signature := Config.ed448Sign identity (Config.aliasCertBody subject digest svn) }

/-- The alias certificate as bytes. -/
def AliasCert.bytes (c : AliasCert) : List Byte := Config.aliasCertBody c.subject c.digest c.svn ++ c.signature

/-- R459: the chain of SPDM slot 0: root, product CA, device certificate and, once an image has verified, alias certificate. -/
def Warden.chain (w : Warden) : List (List Byte) :=
  w.certs ++ (match w.aliasCert with | some c => [c.bytes] | none => [])

/-- R445, R446: what step 3 derives and reads. -/
def Warden.derived (w : Warden) : Warden :=
  { w with identityKey := devIdentityKey, tinKey := devTinKey, sealKey := devSealKey, certs := storeChain }

/-! ## Memory encryption, R336, R337 -/

/-- R336: what GDDR7 holds of a 64-byte line, whose plaintext accesses see: XTS under the key of this bring-up, the tweak the line
number. -/
def State.gddrStored (s : State) (line : Nat) : List Byte := Config.xts s.wdn.gddrKey [line] (s.mem.bytes (64 * line) 64)

/-- R337: what the flash holds of a 4 KiB page of an object, the tweak its namespace, object index and page index. -/
def State.tinStored (s : State) (o : TinObject) (page : Nat) : List Byte :=
  Config.xts s.wdn.tinKey [o.ns, o.index, page] ((List.range 4096).map fun i => tget 0 o.data (4096 * page + i))

end Sys2Proof.Machine
end

