-- ==== Sys2Proof/Machine/Bringup.lean ====
section
/-!
DEFINITION. Operations of bring-up and of hall time that several commands share: loss of power and the restart at
step 3, choosing an upstream (R67, R81, R86), and the completion of steps 7 to 10 (02_bring_up.md).
-/

namespace Sys2Proof.Machine

/-! ## Ports -/

def State.port (s : State) (p : Nat) : Port := tget {} s.ports p
def State.modPort (s : State) (p : Nat) (f : Port → Port) : State := { s with ports := tmod {} s.ports p f }
/-- The cage of a port (R33), and whether a cable is seated there. -/
def State.portSeated (s : State) (p : Nat) : Bool := tget false s.pwr.seated (p / 3)
/-- A port carries traffic. -/
def State.portUp (s : State) (p : Nat) : Bool := (s.port p).state == 3
/-- The twelve ports. -/
def allPorts : List Nat := List.range 12

/-! ## Loss of power and restarts -/

/-- What survives an input shutdown (R24, R45, R70): the power stage, fuses, BOOT_CFG, HT_SEED, FAB_ID, the reserved
Tin area, the numbers of nonces and keys drawn and Tin's objects. Everything else takes its reset value; the model's own
fields stay. DESIGN CHOICE (notes/assumptions/10.md): the dynamic address of the I3C target, which R21 keeps powered in standby,
survives too, and goes with the 64 V input. -/
def State.volatileLost (s : State) : State :=
  { pending := s.pending, out := s.out, freeCount := s.freeCount, fuse := s.fuse
    pwr := { s.pwr with pwrOk := false, running := false, internalEnable := true, cablePwr := [], memLogged := [] }
    boot := { imgSrc := s.boot.imgSrc, timeRoot := s.boot.timeRoot, reservedImage := s.boot.reservedImage
              -- R51: the copy whose write is interrupted fails its checks
              repairCopies := match s.boot.repairWrites with
                | w :: _ => tset [] s.boot.repairCopies w.copy [0]
                | [] => s.boot.repairCopies }
    ht := { seed := s.ht.seed }
    fab := { fabId := s.fab.fabId }
    host := { i3cAddr := s.host.i3cAddr }
    tin := { objects := s.tin.objects, cap := s.tin.cap, used := s.tin.used, spare := s.tin.spare, blocks := s.tin.blocks
             powered := s.tin.powered + s.boot.sincePwrOk }
    wdn := { copies := s.wdn.copies, released := s.wdn.released, nonceCount := s.wdn.nonceCount, keyCount := s.wdn.keyCount } }

/-- R24: an input shutdown with its cause word. -/
def State.inputShutdown (s : State) (cause : Nat) : State :=
  let s1 := s.volatileLost
  -- R457: an interrupted write leaves part of an image, which does not verify
  let torn := s.boot.imageWriting || s.wdn.imageWriting
  { s1 with
    pwr := { s1.pwr with latched := true, causeWord := some cause }
    boot := { s1.boot with reservedImage := if torn then [0] else s1.boot.reservedImage } }

/-- A restart at step 3 without cycling the rails (R52, R456): a bring-up that keeps power and the trouble log. DESIGN CHOICE
(notes/assumptions/10.md): steps 1 and 2 do not complete again, so R46's entries for them are not written a second time. It is the next
bring-up of R477, so quarantine ends; marks of R474 end with it, since the rows marked have taken their spares. -/
def State.restartAt3 (s : State) : State :=
  let s1 := s.volatileLost
  { s1 with
    pwr := { s.pwr with cablePwr := [] }
    boot := { s1.boot with step := 3, attempt := 1, sincePwrOk := s.boot.sincePwrOk
                           repairSeqWritten := s.boot.repairSeqWritten }
    -- the time since PWR_OK runs on, and is not counted twice
    tin := { s1.tin with powered := s.tin.powered }
    log := { s.log with quar := 0, marked := [] } }

/-- R24, R46: what the Warden writes when it starts, ahead of any other entry of the power cycle: the cause word, the sequencing-fault
word, steps 1 and 2 (TIME 0). DESIGN CHOICE (notes/assumptions/47.md): the spec names no page as their SOURCE; the model puts GLB's, 0x000. -/
def State.firstEntries (s : State) : State :=
  let s1 := match s.pwr.causeWord with | some w => s.event 4 0x000 0x0001 0 w | none => s
  let s2 := match s.pwr.seqFault with | some r => s1.event 4 0x000 0x0002 r 0 | none => s1
  let e (k : Nat) : LogEntry := { time := 0, prelock := true, cls := 1, source := 0x000, event := 0x0010, aux := k
                                  detail := BitVec.ofNat 64 s2.bootState }
  { s2 with log := { s2.log with offered := s2.log.offered ++ [e 1, e 2] }
            pwr := { s2.pwr with causeWord := none, seqFault := none } }

/-- A step begins: its first attempt. -/
def State.beginStep (s : State) (n : Nat) : State :=
  let s1 := s.setStep n
  { s1 with boot := { s1.boot with attempt := 1 } }

/-- Marks a reduced resource (BOOT_STATE.DEGRADED) and logs it for its step (R46). -/
def State.degrade (s : State) (step : Nat) : State :=
  State.stepEvent { s with boot := { s.boot with degraded := true } } step false

/-! ## The upstream, R67 -/

/-- The count a device paces its exchanges by (R75): the provisional count while it first acquires. -/
def State.ownCount (s : State) : Nat := if s.ht.state == .acquiring && s.ht.firstAcquire then s.ht.prov else s.ht.count

/-- R96: the upstream is given up. -/
def State.dropUpstream (s : State) : State :=
  let s1 := { s with ht := { s.ht with upstream := none, exchanging := false } }
  if s.ht.upstream.isSome then s1.htEvent 5 else s1

/-- HT_ROOT_LIST entry k. -/
def State.rootListed (s : State) (k : Nat) : Nat := field (s.st 0x020030) (16 * k + 15) (16 * k)

/-- The place of a root in HT_ROOT_LIST; 4 when absent (R86). -/
def State.rootRank (s : State) (id : BitVec 16) : Nat :=
  ((List.range 4).find? fun k => s.rootListed k == id.toNat).getD 4

/-- HT_ASYM_OVR of a port. -/
def State.asymOvr (s : State) (p : Nat) : Nat := s.st (0x020180 + 8 * p)

/-- A of a port in use (R78), in 2^-16 ns. -/
def State.asymOf (s : State) (p : Nat) : Int :=
  if bitOf (s.asymOvr p) 32 then signedOf 32 (s.asymOvr p)
  else (tget ({} : Asym) s.ht.asym p).device + (tget ({} : Asym) s.ht.asym p).cable

/-- CAL of a port. -/
def State.cal (s : State) (p : Nat) : Bool := (tget ({} : Asym) s.ht.asym p).cal

/-- The last report of the neighbour on a port. -/
def State.nbr (s : State) (p : Nat) : NbrReport := tget {} s.ht.nbr p

/-- The neighbour reports itself locked or root. -/
def State.offers (s : State) (p : Nat) : Bool := s.portUp p && ((s.nbr p).state == 2 || (s.nbr p).state == 5)

/-- A neighbour to prefer: the higher root generation, then the earlier root (R86), then CAL 1 (R78), then fewer hops
(R67); a tie goes to the lower port. -/
def State.prefer (s : State) (p q : Nat) : Bool :=
  let a := s.nbr p
  let b := s.nbr q
  if a.gen != b.gen then decide (b.gen.toNat < a.gen.toNat)
  else if s.rootRank a.rootId != s.rootRank b.rootId then decide (s.rootRank a.rootId < s.rootRank b.rootId)
  else if s.cal p != s.cal q then s.cal p
  else if a.hops != b.hops then decide (a.hops < b.hops)
  else decide (p < q)

/-- The upstream R67 chooses. -/
def State.chooseUpstream (s : State) : Option Nat :=
  (allPorts.filter s.offers).foldl (fun best p =>
    match best with
    | none => some p
    | some q => if s.prefer p q then some p else some q) none

/-- R80: hops from the root; beyond 8 a locked device sets FAR and raises an alarm. -/
def State.setHops (s : State) (h : Nat) : State :=
  let far := decide (8 < h)
  let s1 := { s with ht := { s.ht with hops := min h 255, far } }
  if far && !s.ht.far && s.ht.state == .locked then s1.event 5 0x020 0x0041 s.ht.state.code s.ht.rootId.toNat else s1

/-- Copies root, generation, sequence and hops from the neighbour on a port (R85). -/
def State.follow (s : State) (p : Nat) : State :=
  let r := s.nbr p
  let changed := r.rootId != s.ht.rootId || r.gen != s.ht.rootGen
  let newer := decide (s.ht.rootSeq < r.seq) || changed
  let s1 := { s with ht := { s.ht with
    rootId := r.rootId, rootGen := r.gen, rootSeq := r.seq
    rootSeqAt := if newer then s.ht.count else s.ht.rootSeqAt } }
  let s2 := s1.setHops (r.hops + 1)
  if changed then s2.htEvent 4 else s2

/-- Takes a port as upstream. -/
def State.takeUpstream (s : State) (p : Nat) : State :=
  let moved := s.ht.upstream != some p
  let s1 := { s with ht := { s.ht with upstream := some p, noResponse := 0, exchanging := false, agree := 0, thetas := [] } }
  let s2 := s1.follow p
  if moved then s2.htEvent 5 else s2

/-- R82, R83: a locked device that finds no upstream enters holdover; it keeps its last phase correction. -/
def State.enterHoldover (s : State) : State :=
  (State.htEvent { s with ht := { s.ht with state := .holdover, holdSince := s.ht.count } } 0).dropUpstream

/-- R72, R76: starts acquiring from a port with a provisional count of zero. -/
def State.beginAcquire (s : State) (p : Nat) : State :=
  State.takeUpstream { s with ht := { s.ht with
    state := .acquiring, firstAcquire := true, firstExchange := true, prov := 0, count := 0 } } p

/-- R84: an out-of-tolerance device, or a root that leaves its role, relocks from a port. -/
def State.beginRelock (s : State) (p : Nat) : State :=
  State.takeUpstream { s with ht := { s.ht with state := .acquiring, firstAcquire := false, corr := 0 } } p

/-- Chooses again by R67 (R76, R81, R84): on loss of the upstream, or when a neighbour's report changes. -/
def State.reselect (s : State) : State :=
  match s.ht.state, s.chooseUpstream with
  | .root, _ => s
  | .invalid, some p => if s.boot.step = 9 then (s.beginAcquire p).noWait else s
  | .invalid, none => s
  | .acquiring, some p => s.takeUpstream p
  | .acquiring, none =>
    if s.ht.firstAcquire then
      let s1 := State.dropUpstream { s with ht := { s.ht with state := .invalid, firstAcquire := false, prov := 0, count := 0 } }
      if s.boot.step = 9 then s1.waitFor 0x12 else s1
    else (State.htEvent { s with ht := { s.ht with state := .outOfTolerance } } 1).dropUpstream
  | .locked, some p => s.takeUpstream p
  | .locked, none => s.enterHoldover
  | .holdover, some p => State.takeUpstream { s with ht := { s.ht with state := .locked } } p
  | .holdover, none => s
  | .outOfTolerance, some p => s.beginRelock p
  | .outOfTolerance, none => s

/-- R86: the better root of two (generation, then place in the list). -/
def State.betterRoot (s : State) (gen : BitVec 8) (id : BitVec 16) (gen' : BitVec 8) (id' : BitVec 16) : Bool :=
  if gen != gen' then decide (gen'.toNat < gen.toNat) else decide (s.rootRank id < s.rootRank id')

/-- R85: a report shows a generation above the own. -/
def HallTime.seesGen (h : HallTime) (g : BitVec 8) : HallTime :=
  if h.rootGen.toNat < g.toNat then { h with genSeen := if h.genSeen.toNat < g.toNat then g else h.genSeen, genSeenAt := some h.count } else h

/-- A neighbour's report arrives (R67, R81, R85, R86). -/
def State.noteNbr (s : State) (p : Nat) (r : NbrReport) : State :=
  let s1 := { s with ht := { s.ht.seesGen r.gen with nbr := tset {} s.ht.nbr p r } }
  let better := s1.offers p && s1.betterRoot r.gen r.rootId s.ht.rootGen s.ht.rootId
  match s.ht.state with
  | .root => if better then s1.beginRelock p else s1
  | .invalid => s1.reselect
  | .outOfTolerance => s1.reselect
  | .holdover => s1.reselect
  | .locked => if (s.ht.upstream == some p && !s1.offers p) || better then s1.reselect else s1
  | .acquiring => if (s.ht.upstream == some p && !s1.offers p) || better then s1.reselect else s1

/-- R81: the upstream port went down. -/
def State.upstreamDown (s : State) (p : Nat) : State :=
  let s1 := { s with ht := { s.ht with nbr := tset {} s.ht.nbr p {} } }
  if s.ht.upstream = some p then s1.reselect else s1

/-! ## Steps 7 to 10 -/

/-- R68, R60: step 10 waits for the first blend, or for Tin's mount. -/
def State.beginStep10 (s : State) : State :=
  let s1 := s.setStep 10
  (s1.waitFor (if s.tin.state ≤ 1 then 0x15 else 0x13)).stepEvent 9 false

/-- R74: the device takes the root role and loads its counter from HT_SEED, rounded up to a frame. -/
def State.startRoot (s : State) : State :=
  State.htEvent { s with ht := { s.ht with
    state := .root, count := roundUp s.ht.seed frameLen, rootId := s.fab.fabId, hops := 0, far := false, upstream := none
    rootSeqAt := roundUp s.ht.seed frameLen } } 4

/-- R85, R86: an up neighbour follows a root that goes before the root this device would be. -/
def State.rootExists (s : State) : Bool :=
  allPorts.any fun p => s.offers p && s.betterRoot (s.nbr p).gen (s.nbr p).rootId s.ht.rootGen s.fab.fabId

/-- R67: step 9 begins; TIME_ROOT is sampled here (R45). A primary root that returns where another root has taken the role joins as an
ordinary device (R85, R86). -/
def State.beginStep9 (s : State) : State :=
  let s1 := (s.setStep 9).noWait
  if s.boot.timeRoot && !s1.rootExists then s1.startRoot.beginStep10
  else match s1.chooseUpstream with
    | some p => s1.beginAcquire p
    | none => s1.waitFor 0x12

/-- R64, R65: step 8 is complete. -/
def State.step8Ready (s : State) : Bool :=
  allPorts.any s.portUp &&
  allPorts.all fun p => !s.portSeated p || (let t := (s.port p).state; t == 3 || t == 4 || t == 5 || t == 6)

/-- R44: the wait that steps 7 and 8 show. -/
def State.wait78 (s : State) : State :=
  if s.boot.step = 7 && !s.boot.step7Done && s.pwr.perst then s.waitFor 0x11
  else if !s.boot.step8Done && allPorts.all (fun p => !s.portUp p) &&
      allPorts.all (fun p => !s.portSeated p || (let t := (s.port p).state; t == 4 || t == 5 || t == 6)) then s.waitFor 0x14
  else s.noWait

/-- Steps 7 and 8 complete as their events allow (R41, R61, R64, R65). -/
def State.advance78 (s : State) : State :=
  if s.boot.step != 7 && s.boot.step != 8 then s
  else
    let s1 :=
      if !s.boot.step8Done && s.step8Ready then
        let d := allPorts.any fun p => s.portSeated p && !s.portUp p
        let t := State.stepEvent { s with boot := { s.boot with step8Done := true } } 8 false
        if d then t.degrade 8 else t
      else s
    let s2 := if s1.boot.step = 7 && s1.boot.step7Done then s1.setStep 8 else s1
    if s2.boot.step = 8 && s2.boot.step8Done then s2.beginStep9 else s2.wait78

/-- R64, R267: a port with a seated cable begins training at step 1 of Table 10-4. -/
def State.trainPort (s : State) (p : Nat) : State := s.modPort p fun x => { x with state := 1, tstep := 1 }

end Sys2Proof.Machine
end

