-- ==== Sys2Proof/Machine/Image.lean ====
section
/-!
DEFINITION. Blend images (04_blend.md R102 to R104 and the section layouts of R332, R407, R408, R234, Table 19-1): the structural
check, the ST registers and their places in the sections, and the blend an image spells over another. The byte layouts
of HOP, TTAB, CDY, URN, PIN, TMR, HTM and the ROUTE container are the model's (notes/assumptions/9.md).
-/

namespace Sys2Proof.Machine

/-! ## ST registers, R104 -/

/-- Ones at bits [hi:lo]. -/
def bitMask (hi lo : Nat) : Nat := 2 ^ (hi + 1) - 2 ^ lo

/-- Register `i` of an array of `n` registers at `base` with a stride. -/
def inArray (base stride n off : Nat) : Bool :=
  decide (base ≤ off) && decide (off < base + stride * n) && (off - base) % stride == 0

/-- Every ST register by aperture offset, with the bits it holds. -/
def stMask (off : Nat) : Option Nat :=
  if off = 0x020020 then some (1 + bitMask 29 16)
  else if off = 0x020030 then some (bitMask 63 0)
  else if inArray 0x020180 8 12 off then some (bitMask 32 0)
  else if off = 0x030000 then some (bitMask 59 0)
  else if off = 0x030018 then some (bitMask 31 0)
  else if inArray 0x100100 8 8 off then some (bitMask 33 0)
  else if inArray 0x110300 8 8 off then some (bitMask 17 0)
  else if inArray 0x140100 8 8 off then some (bitMask 3 0)
  else if inArray 0x150100 8 8 off then some (bitMask 21 0)
  else if inArray 0x160100 8 8 off then some (bitMask 16 0)
  else if inArray 0x170100 0x10 8 off then some (bitMask 35 0)
  else if inArray 0x170108 0x10 8 off then some (bitMask 18 0)
  else if inArray 0x190100 8 8 off then some (bitMask 8 0)
  else if inArray 0x120100 0x20 16 off then
    some (bitMask 18 0 + bitMask 38 20 + bitMask 46 40 + bitMask 54 48 + bitMask 58 56 + bitMask 63 63)
  else if inArray 0x120108 0x20 16 off then some (bitMask 26 0 + bitMask 63 32)
  else if inArray 0x130100 0x10 64 off then some (bitMask 44 0)
  else if inArray 0x130108 0x10 64 off then some (bitMask 35 0)
  else if inArray 0x140200 0x20 8 off then some (bitMask 55 0)
  else if inArray 0x140208 0x20 8 off then some (bitMask 35 0)
  else if inArray 0x140210 0x20 8 off then some (bitMask 35 0)
  else if inArray 0x140218 0x20 8 off then some (bitMask 35 0)
  else if off = 0x2F0008 then some (bitMask 20 0)
  else if off = 0x2F0010 then some (bitMask 31 0)
  else if off = 0x2F0200 then some (bitMask 8 0)
  else none

/-- An array of registers, each with its byte offset in a section. -/
def regImage (base stride n at' : Nat) : List (Nat × Nat) := (List.range n).map fun i => (base + stride * i, at' + 8 * i)

/-- Interleaved pairs of registers: register base + stride × i, then base + 8 + stride × i. -/
def pairImage (base stride n at' : Nat) : List (Nat × Nat) :=
  (List.range n).flatMap fun i => [(base + stride * i, at' + 16 * i), (base + 8 + stride * i, at' + 16 * i + 8)]

/-- Table 4-2, R408: the ST registers of a section and where their 8-byte images stand in it; WIN's depend on its entry
count. KTL's stand in Table 19-1's own form. -/
def secRegs (code entries : Nat) : List (Nat × Nat) :=
  match code with
  | 0x02 => regImage 0x100100 8 8 256 ++ regImage 0x110300 8 8 320 ++ regImage 0x140100 8 8 384 ++
      regImage 0x150100 8 8 448 ++ regImage 0x160100 8 8 512 ++ pairImage 0x170100 0x10 8 576 ++ regImage 0x190100 8 8 704
  | 0x03 => [(0x2F0008, 96), (0x2F0010, 104), (0x2F0200, 112)]
  | 0x06 => pairImage 0x130100 0x10 64 0
  | 0x07 => pairImage 0x120100 0x20 16 0
  | 0x0B => (List.range 8).flatMap fun i => (List.range 4).map fun k =>
      (0x140200 + 0x20 * i + 8 * k, 64 + 32 * entries + 32 * i + 8 * k)
  | 0x0C => [(0x020020, 0), (0x020030, 8)] ++ regImage 0x020180 8 12 16
  | _ => []

/-- A blend's own value of an ST register. -/
def Blend.stv (b : Blend) (off : Nat) : Nat := (tget (stReset off) b.st off).toNat

/-- Sets an ST register in a table of them; reserved bits read zero. -/
def setSt (t : Sparse Word) (off v : Nat) : Sparse Word :=
  match stMask off with
  | some m => tset (stReset off) t off (BitVec.ofNat 64 (v &&& m))
  | none => t

/-! ## Header and directory, Table 4-1 -/

/-- Directory entry k: code, version, offset, length. -/
structure DirEntry where
  code : Nat
  version : Nat
  off : Nat
  len : Nat
  clean : Bool
  deriving DecidableEq, Repr

/-- Directory entry k of an image. -/
def dirEntry (b : List Byte) (k : Nat) : DirEntry :=
  let o := 0x100 + 16 * k
  { code := leAt b o 2, version := leAt b (o + 2) 2, off := leAt b (o + 8) 4, len := leAt b (o + 12) 4, clean := leAt b (o + 4) 4 == 0 }

/-- The directory, at most twelve entries. -/
def directory (b : List Byte) : List DirEntry := (List.range (min (leAt b 0x28 4) 12)).map (dirEntry b)

/-- The bytes of a section, and its offset. -/
def sectionAt (b : List Byte) (code : Nat) : Option (Nat × List Byte) :=
  ((directory b).find? fun e => e.code == code).map fun e => (e.off, slice b e.off e.len)

def imgDelta (b : List Byte) : Bool := bitOf (leAt b 0x0C 4) 0
def imgId (b : List Byte) : BitVec 64 := BitVec.ofNat 64 (leAt b 0x10 8)
def imgBase (b : List Byte) : BitVec 64 := BitVec.ofNat 64 (leAt b 0x18 8)
/-- The signature is not all zero. -/
def imgSigned (b : List Byte) : Bool := !(slice b 0x80 114).all (· == 0)
def imgKey (b : List Byte) : Nat := leAt b 0xF2 2

/-- The first of the bytes from lo to hi that is not zero. -/
def firstNonzero (b : List Byte) (lo hi : Nat) : Option Nat := (offsets lo hi).find? fun i => b.getD i 0 != 0

/-! ## Section content -/

/-- The first byte of the given offsets that is not zero. -/
def firstSet (b : List Byte) (l : List Nat) : Option Nat := l.find? fun i => b.getD i 0 != 0

/-- Bytes a section must have, by its own counts. -/
def secNeed (code : Nat) (b : List Byte) : Nat :=
  match code with
  | 0x01 => 512 | 0x02 => 768 | 0x03 => 120 | 0x04 => 192 | 0x05 => 64 | 0x06 => 1024 | 0x07 => 256
  | 0x08 => 4 + 4 * leAt b 1 1
  | 0x09 => 64 + 8 * leAt b 0 4
  | 0x0A => 64 + 32 * leAt b 14 1
  | 0x0B => 64 + 32 * leAt b 0 4 + 256
  | _ => 120

/-- R332: ARRIVAL and ARR_CNT of the window entry at an offset: zero but for KIND 3; an owner code of Table 3-3; a counter index only
with a core code. -/
def arrivalFault (b : List Byte) (o : Nat) : Option Nat :=
  if leAt b o 1 != 3 then firstSet b (offsets (o + 24) (o + 26))
  else
    let arrival := leAt b (o + 24) 2
    let core := decide (0x100 ≤ arrival)
    if 0x200 ≤ arrival || (8 ≤ arrival && !core) then some (o + 24)
    else if 32 ≤ leAt b (o + 26) 1 || (!core && leAt b (o + 26) 1 != 0) then some (o + 26) else none

/-- The offset inside a section of its first reserved byte set, or of a count or code its layout does not have. -/
def contentFault (code : Nat) (b : List Byte) : Option Nat :=
  if b.length < secNeed code b then some 0
  else match code with
  | 0x01 => (List.range 8).findSome? fun j =>
      if 8 ≤ leAt b (32 * j + 6) 1 then some (32 * j + 6) else firstSet b (offsets (32 * j + 7) (32 * j + 31))
  | 0x02 => ((offsets 64 151).find? fun i => decide (16 ≤ leAt b i 1)).or (firstSet b (offsets 163 255))
  | 0x03 => (List.range 12).findSome? fun i =>
      if 64 ≤ leAt b (8 * i) 1 then some (8 * i) else firstSet b (offsets (8 * i + 4) (8 * i + 7))
  | 0x08 => if 13 < leAt b 0 1 then some 0 else (List.range (leAt b 1 1)).findSome? fun i =>
      if leAt b (4 + 4 * i) 2 = 0 || 2 < leAt b (4 + 4 * i) 2 then some (4 + 4 * i)
      else if 3 < leAt b (6 + 4 * i) 2 then some (6 + 4 * i) else none
  | 0x09 => (List.range (leAt b 0 4)).findSome? fun i => if 16 ≤ leAt b (64 + 8 * i) 1 then some (64 + 8 * i) else none
  | 0x0A => if 16 < leAt b 14 1 then some 14 else
      (firstSet b (offsets 15 63)).or ((List.range (leAt b 14 1)).findSome? fun r =>
        let o := 64 + 32 * r
        if 16 ≤ leAt b o 1 then some o else if 2 ≤ leAt b (o + 1) 1 then some (o + 1)
        else firstSet b ([o + 3] ++ offsets (o + 24) (o + 31)))
  | 0x0B => if 256 < leAt b 0 4 then some 0 else
      (firstSet b (offsets 4 63)).or ((List.range (leAt b 0 4)).findSome? fun i =>
        let o := 64 + 32 * i
        if 3 < leAt b (o + 1) 1 || (leAt b (o + 1) 1 != 0 && leAt b o 1 != 3) then some (o + 1)
        else (firstSet b ([o + 2, o + 3] ++ offsets (o + 27) (o + 31))).or (arrivalFault b o))
  | _ => none

/-! ## The structural check, R102 -/

/-- A failed check of Table 4-3. -/
def conflict (resource sec index : Nat) : BldResult := { status := stBlendConflict, resource, secNo := sec, index }

/-- An IMAGE failure in the header, or in a secNos content. -/
def imageFault (sec index : Nat) : BldResult := conflict 0x01 sec index

/-- A header condition with the offset of its field. -/
def headerNeed (ok : Bool) (index : Nat) : Option BldResult := if ok then none else some (imageFault 0 index)

/-- The first directory entry that breaks a condition, with the offset of its field. -/
def dirNeed (d : List DirEntry) (ok : Nat → DirEntry → Bool) (fld : Nat) : Option BldResult :=
  ((List.range d.length).find? fun k => !(d[k]?.all (ok k))).map fun k => imageFault 0 (0x100 + 16 * k + fld)

/-- R102, in its order: the first failure of an image of `len` bytes for device `dev`. -/
def imageCheck (b : List Byte) (len dev : Nat) : Option BldResult :=
  let d := directory b
  let n := leAt b 0x28 4
  let before (k : Nat) := d.take k
  [headerNeed (slice b 0 8 == [0x41, 0x5A, 0x42, 0x37, 0x42, 0x4C, 0x4E, 0x44]) 0, headerNeed (leAt b 8 4 == 1) 8,
   headerNeed (decide (leAt b 0x0C 4 < 2)) 0x0C,
   (firstNonzero b 0x2E 0x3F).map (imageFault 0), (firstNonzero b 0xF4 0xFF).map (imageFault 0), dirNeed d (fun _ e => e.clean) 4,
   headerNeed (imgId b != 0) 0x10, headerNeed (imgDelta b || imgBase b == 0) 0x18,
   headerNeed (decide (imgKey b < 4) && (imgSigned b || imgKey b == 0)) 0xF2,
   headerNeed (leAt b 0x20 8 == len && decide (len ≤ 0x1000000) && len % 256 == 0) 0x20,
   headerNeed (decide (1 ≤ n) && decide (n ≤ 12) && (imgDelta b || n == 12)) 0x28,
   dirNeed d (fun _ e => e.off % 256 == 0 && decide (e.off + e.len ≤ len)) 8,
   dirNeed d (fun k e => (before k).all fun f => !overlap (e.off, e.len) (f.off, f.len)) 8,
   dirNeed d (fun k e => decide (1 ≤ e.code) && decide (e.code ≤ 12) && (before k).all fun f => f.code != e.code) 0,
   dirNeed d (fun _ e => e.version == 1) 2,
   headerNeed (digest512 (slice b 0x100 (len - 0x100)) == slice b 0x40 64) 0x40,
   headerNeed (leAt b 0x2C 2 == 0xFFFF || leAt b 0x2C 2 == dev) 0x2C,
   (offsets 1 12).findSome? fun code => (sectionAt b code).bind fun (o, x) => (contentFault code x).map fun i => imageFault code (o + i)].findSome? id

/-! ## Sections read -/

/-- Table 16-1, entry j. -/
def parseJob (b : List Byte) (j : Nat) : JobEntry :=
  let f := leAt b (32 * j + 6) 1
  { jobId := leAt b (32 * j) 4, tenant := leAt b (32 * j + 4) 2, excl := bitOf f 0, teardown := bitOf f 1, hcm := bitOf f 2 }

/-- A hop-table entry in the FAB_HOP layout. -/
def parseHop (w : Nat) : HopEntry :=
  { phys := field w 3 0, en := bitOf w 4, dateline := bitOf w 5, lmap := BitVec.ofNat 24 (field w 31 8) }

/-- A phase entry (R234). -/
def parsePhase (b : List Byte) (o : Nat) : PlanPhase :=
  { lanes := BitVec.ofNat 12 (leAt b o 2), routes := (List.range 12).map fun l => BitVec.ofNat 32 (leAt b (o + 4 + 4 * l) 4) }

/-- A phase entry's other bytes are zero. -/
def phaseClean (b : List Byte) (o : Nat) : Bool := decide (leAt b o 2 < 4096) && (firstSet b ([o + 2, o + 3] ++ offsets (o + 52) (o + 63))).isNone

/-- A plan of Table 9-1 at an offset; LEVEL 0xFF where a reserved byte is set, which R234 makes a plan no command may use. -/
def parsePlan (b : List Byte) (o : Nat) : Plan :=
  let d := leAt b (o + 4) 2 + 1
  let level := leAt b (o + 6) 1
  let ph := o + 64 + roundUp (2 * d) 64
  let n := min (if level = 1 then 63 + (d / 64 - 1) else d - 1) ((b.length - ph) / 64)
  let pad := offsets (o + 64 + 2 * d) (ph - 1)
  let clean := (firstSet b (offsets (o + 8) (o + 63) ++ pad)).isNone && (List.range n).all fun k => phaseClean b (ph + 64 * k)
  { tag := BitVec.ofNat 32 (leAt b o 4), dM1 := d - 1, level := if clean then level else 0xFF, hmax := leAt b (o + 7) 1
    members := (List.range (min d ((b.length - (o + 64)) / 2))).map fun k => leAt b (o + 64 + 2 * k) 2
    phases := (List.range n).map fun k => parsePhase b (ph + 64 * k) }

/-- The ROUTE section: sixteen section offsets, 0 for no plan. -/
def parsePlans (b : List Byte) : Sparse Plan :=
  (List.range 16).filterMap fun p => let o := leAt b (4 * p) 4; if o = 0 then none else some (p, parsePlan b o)

/-- Table 13-2, entry i. -/
def parseWindow (b : List Byte) (i : Nat) : Window :=
  let o := 64 + 32 * i
  { kind := leAt b o 1, mode := leAt b (o + 1) 1, job := leAt b (o + 4) 4, base := leAt b (o + 8) 8, len := leAt b (o + 16) 8
    arrival := leAt b (o + 24) 2, arrCnt := leAt b (o + 26) 1 }

/-- Table 19-3, entry r. -/
def parseRamp (b : List Byte) (r : Nat) : RampEntry :=
  let o := 64 + 32 * r
  { timer := leAt b o 1, kind := leAt b (o + 1) 1, job := leAt b (o + 2) 1, rate := leAt b (o + 4) 2, delta := leAt b (o + 6) 2
    at' := leAt b (o + 8) 8, until' := leAt b (o + 16) 8 }

/-- The root source of a PIN byte. -/
def parseRoot (v : Nat) : RootSource := if v = 0 then .oscillator else if v = 1 then .hallRef else .port (v - 2)

/-- Table 19-1 as the two KTL registers; a value its register cannot hold is taken as the largest it can. -/
def ktlRegs (b : List Byte) : List (Nat × Nat) :=
  let w (i : Nat) := min (leAt b (2 * i) 2) 0xFFF
  [(0x030000, w 0 + w 1 * 2 ^ 12 + w 2 * 2 ^ 24 + w 3 * 2 ^ 36 + w 4 * 2 ^ 48), (0x030018, leAt b 10 2 + leAt b 12 2 * 2 ^ 16)]

/-- ST values a section carries, by aperture offset. -/
def secValues (code : Nat) (b : List Byte) : List (Nat × Nat) :=
  if code = 0x0A then ktlRegs b else (secRegs code (leAt b 0 4)).map fun (off, i) => (off, leAt b i 8)

/-- One secNos content over a blend. -/
def Blend.withSection (x : Blend) (code : Nat) (b : List Byte) : Blend :=
  let bytes (lo n : Nat) := (List.range n).map fun i => leAt b (lo + i) 1
  let y : Blend := { x with st := (secValues code b).foldl (fun t v => setSt t v.1 v.2) x.st }
  match code with
  | 0x01 => { y with jobs := (List.range 8).map (parseJob b), cores := bytes 256 256 }
  | 0x02 => { y with ringMap := bytes 0 64, share := bytes 64 88, trace := bytes 152 11 }
  | 0x03 => { y with hop := (List.range 12).map fun i => parseHop (leAt b (8 * i) 8) }
  | 0x04 => { y with ttab := bytes 0 192 }
  | 0x05 => { y with plans := parsePlans b }
  | 0x08 => { y with rootSource := parseRoot (leAt b 0 1)
                     pins := (List.range (leAt b 1 1)).map fun i => { contact := leAt b (4 + 4 * i) 2, function := leAt b (6 + 4 * i) 2 } }
  | 0x09 => { y with timers := (List.range (leAt b 0 4)).map fun i => { timer := leAt b (64 + 8 * i) 1, owner := leAt b (66 + 8 * i) 2 } }
  | 0x0A => { y with ramps := (List.range (leAt b 14 1)).map (parseRamp b) }
  | 0x0B => { y with windows := (List.range (leAt b 0 4)).map (parseWindow b) }
  | 0x0C => { y with depth := leAt b 112 8 }
  | _ => y

/-- Section codes an image carries, rising. -/
def imgCodes (b : List Byte) : List Nat := (offsets 1 12).filter fun c => (sectionAt b c).isSome

/-- R103: the blend an image spells over another. -/
def Blend.withImage (x : Blend) (b : List Byte) : Blend :=
  let y := (imgCodes b).foldl (fun y c => match sectionAt b c with | some (_, d) => y.withSection c d | none => y) x
  { y with id := imgId b, digest := slice b 0x40 64 }

end Sys2Proof.Machine
end

