-- ==== Sys2Proof/Machine/Urn.lean ====
section
/-!
DEFINITION. Urn (07_sparsity_and_urn.md R198 to R204): exact accumulation by key. The argument block names the table in
parameter byte 0; INSERT takes keys and values in slots 0 and 1, DRAIN writes keys, values and status to slots 0, 1
and 2 (notes/assumptions/9.md).
-/

namespace Sys2Proof.Machine

/-- R198: the settings of a table. -/
structure UrnCfg where
  base : Nat
  len : Nat
  width : Nat
  frac : Nat
  job : Nat
  en : Bool
  spillBase : Nat
  spillLen : Nat
  deriving DecidableEq, Repr

def State.urnCfg (s : State) (t : Nat) : UrnCfg :=
  let c := s.st (0x120100 + 0x20 * t)
  let p := s.st (0x120108 + 0x20 * t)
  { base := ssramBase + field c 18 0 * 4096, len := field c 38 20 * 4096, width := field c 46 40, frac := field c 54 48
    job := field c 58 56, en := bitOf c 63, spillBase := field p 26 0 * 4096, spillLen := field p 63 32 }

/-- Bytes of a slot or spill record (Table 7-4). -/
def UrnCfg.slotBytes (u : UrnCfg) : Nat := 32 + 16 * u.width

/-- b: the largest power of two of slots that fits the region. -/
def UrnCfg.b (u : UrnCfg) : Nat :=
  ((List.range 32).filter fun b => 2 ^ b * u.slotBytes ≤ u.len).getLast?.getD 0

/-- R198, R199: the slots an insert looks at: bucket h, then the next, eight slots each; none below b = 3. -/
def UrnCfg.probe (u : UrnCfg) (key : Nat) : List Nat :=
  if u.b < 3 then []
  else
    let nb := 2 ^ (u.b - 3)
    let h := (key * 0x9E3779B97F4A7C15 % 2 ^ 64) / 2 ^ (64 - (u.b - 3))
    (List.range 8).map (h * 8 + ·) ++ (List.range 8).map ((h + 1) % nb * 8 + ·)

def emptyKey : BitVec 64 := 0xFFFFFFFFFFFFFFFF

/-- R200: the bound of an input. -/
def urnBound : Int := 2 ^ 103 - 1

/-- R200: an input element in the table's fixed point: value, saturated, NaN. -/
def urnElem (frac fmt : Nat) (v : FVal) : Int × Bool × Bool :=
  match v with
  | .nan => (0, false, true)
  | .inf n => (if n then -urnBound else urnBound, true, false)
  | x =>
    let i := x.scaledInt (if fmt = 0xC then 0 else frac)
    if urnBound < i then (urnBound, true, false) else if i < -urnBound then (-urnBound, true, false) else (i, false, false)

/-- A mask of the elements for which a test holds. -/
def maskOf (es : List (Int × Bool × Bool)) (f : Int × Bool × Bool → Bool) : BitVec 64 :=
  BitVec.ofNat 64 ((es.zip (List.range es.length)).foldl (fun m x => if f x.1 then m + 2 ^ x.2 else m) 0)

/-- R200: two contents of one key added. -/
def UrnSlot.merge (a b : UrnSlot) : UrnSlot :=
  { key := a.key, sat := a.sat ||| b.sat, nan := a.nan ||| b.nan, count := min (a.count + b.count) 0xFFFFFFFF
    elems := a.elems.zipWith (· + ·) b.elems }

/-- One insert as a record. -/
def urnRecord (u : UrnCfg) (fmt key : Nat) (vs : List FVal) : UrnSlot :=
  let es := vs.map (urnElem u.frac fmt)
  { key := BitVec.ofNat 64 key, sat := maskOf es (·.2.1), nan := maskOf es (·.2.2), count := 1, elems := es.map (·.1) }

/-- R199, R201: places one insert; none when the spill area is full. -/
def UrnTable.insert (t : UrnTable) (u : UrnCfg) (r : UrnSlot) : Option UrnTable :=
  let ps := u.probe r.key.toNat
  let t1 := { t with satCount := satAdd 32 t.satCount (popCount 64 r.sat.toNat), nanCount := satAdd 16 t.nanCount (popCount 64 r.nan.toNat) }
  match ps.find? fun p => (tget ({} : UrnSlot) t.slots p).key == r.key with
  | some p => some { t1 with slots := tmod {} t.slots p fun x => x.merge r }
  | none =>
    match ps.find? fun p => (tget ({} : UrnSlot) t.slots p).key == emptyKey with
    | some p => some { t1 with slots := tset {} t.slots p r }
    | none => if t.spill.length < u.spillLen then some { t1 with spill := t.spill ++ [r] } else none

/-- The bytes of a slot or spill record. -/
def UrnSlot.bytes (x : UrnSlot) : List Byte :=
  leBytes 8 x.key.toNat ++ leBytes 8 x.sat.toNat ++ leBytes 8 x.nan.toNat ++ leBytes 4 x.count ++ zeros 4 ++
  x.elems.flatMap fun e => leBytes 16 (unsignedOf 128 e)

/-- The bytes of a table in its region and spill area (R198). -/
def UrnTable.image (t : UrnTable) (u : UrnCfg) : List (Nat × List Byte) :=
  t.slots.map (fun x => (u.base + x.1 * u.slotBytes, x.2.bytes)) ++
  (t.spill.zip (List.range t.spill.length)).map fun (x, i) => (u.spillBase + i * u.slotBytes, x.bytes)

/-- A table emptied: its slots' keys read as empty, its spill records as zero. -/
def UrnTable.cleared (t : UrnTable) (u : UrnCfg) : List (Nat × List Byte) :=
  t.slots.map (fun x => (u.base + x.1 * u.slotBytes, leBytes 8 emptyKey.toNat ++ zeros (u.slotBytes - 8))) ++
  (List.range t.spill.length).map fun i => (u.spillBase + i * u.slotBytes, zeros u.slotBytes)

def State.urnTable (s : State) (t : Nat) : UrnTable := tget {} s.urn t
def State.setUrn (s : State) (t : Nat) (x : UrnTable) : State := { s with urn := tset {} s.urn t x }

/-- R202: the table is enabled and the job's; DETAIL 0. -/
def State.urnOwned (s : State) (c : Cmd) (t : Nat) : Check :=
  need (decide (t < 16) && (s.urnCfg t).en && (s.urnCfg t).job == c.job) stBounds 0

/-- The table a command names. -/
def State.urnTableOf (s : State) (c : Cmd) : Nat := leAt (s.params c) 0 1

/-- R200: the value formats of INSERT. -/
def urnFmts : List Nat := [0, 1, 2, 3, 4, 0xA, 0xC]

/-- The records an INSERT carries. -/
def State.urnRecords (s : State) (c : Cmd) (u : UrnCfg) : List UrnSlot :=
  let k := s.slotTensor c 0
  let v := s.slotTensor c 1
  let keys := k.rows.map fun a => s.mem.nat a 8
  let vals := (v.readRows s.mem).map (decodeRow v.fmt u.width)
  (keys.zip vals).map fun (key, vs) => urnRecord u v.fmt key vs

/-- The checks of URN_INSERT, in order. -/
def State.urnInsertChecks (s : State) (c : Cmd) : List Check :=
  let t := s.urnTableOf c
  let u := s.urnCfg t
  let k := s.slotTensor c 0
  [s.urnOwned c t] ++ s.checkSlot c 0 [0xA] (fun x => x.exts.headD 0 == 2) ++
    s.checkSlot c 1 urnFmts (fun x => x.exts.headD 0 == u.width && x.rows.length == k.rows.length) ++ s.eccSlots c [0, 1] [] ++
    [need ((s.urnRecords c u).all fun r => r.key != emptyKey) stStructure 0]

/-- URN_INSERT (R199 to R202). -/
def urnInsert (s : State) : State :=
  s.withHead 4 0x01 fun s c =>
    let t := s.urnTableOf c
    let u := s.urnCfg t
    let v := s.slotTensor c 1
    s.orFail c (s.urnInsertChecks c) fun s =>
      match (s.urnRecords c u).foldl (fun (o : Option UrnTable) r => o.bind fun t => t.insert u r) (some (s.urnTable t)) with
      | none => s.complete c stBounds (if v.size = 0 then 0 else 1)
      | some x => ((s.setUrn t x).storeAll (x.image u)).complete c stOk 0

def execUrnInsert (s : State) : Result := .next (urnInsert s)

/-- R203: every resident slot and spill record merged by key, keys rising. -/
def UrnTable.merged (t : UrnTable) : List UrnSlot :=
  let all := t.slots.map (·.2) ++ t.spill
  let m := all.foldl (fun (acc : Sparse UrnSlot) r =>
    match tfind acc r.key.toNat with
    | some x => tput acc r.key.toNat (x.merge r)
    | none => tput acc r.key.toNat r) []
  m.map (·.2)

/-- R203: element `e` of a record in the output format. -/
def UrnSlot.out (x : UrnSlot) (frac fmt e : Nat) : Nat :=
  if fmt = 0xC then unsignedOf 128 (x.elems.getD e 0)
  else if x.nan.getLsbD e || decide (2 ^ 24 < x.count) then encodeElem fmt .rne .nan
  else encodeElem fmt .rne ((FVal.ofInt (x.elems.getD e 0)).scale (-(frac : Int)))

/-- R203: the status word of a record. -/
def UrnSlot.status (x : UrnSlot) : Nat :=
  flagBit (x.sat != 0) 0 + flagBit (x.nan != 0) 1 + flagBit (decide (2 ^ 24 < x.count)) 2

/-- The checks of URN_DRAIN, in order. -/
def State.urnDrainChecks (s : State) (c : Cmd) : List Check :=
  let t := s.urnTableOf c
  let u := s.urnCfg t
  let recs := (s.urnTable t).merged
  let n := recs.length
  let k := s.slotTensor c 0
  let v := s.slotTensor c 1
  let w := s.slotTensor c 2
  [s.urnOwned c t] ++ s.checkSlot c 0 [0xA] (fun x => x.exts.headD 0 == 2) ++
    s.checkSlot c 1 [0, 1, 0xC] (fun x => x.exts.headD 0 == u.width) ++ s.checkSlot c 2 [0xA] (fun x => x.exts.length == 1) ++
    s.eccSlots c [] [0, 1, 2] ++
    [need (decide (n + 1 ≤ k.rows.length)) stBounds 0, need (decide (n ≤ v.rows.length)) stBounds 1,
     need (decide (n ≤ w.exts.headD 0)) stBounds 2]

/-- Bytes of encodings in a format. -/
def urnEncBytes (fmt : Nat) (ws : List Nat) : List Byte := ws.flatMap (leBytes (fmtBits fmt / 8))

/-- What URN_DRAIN writes to slots 0, 1 and 2: the count and the keys, the values, the status words. -/
def State.urnDrainWrites (s : State) (c : Cmd) : List (Nat × List Byte) :=
  let u := s.urnCfg (s.urnTableOf c)
  let recs := (s.urnTable (s.urnTableOf c)).merged
  let v := s.slotTensor c 1
  let k := s.slotTensor c 0
  let keys := leBytes 8 recs.length :: recs.map fun r => leBytes 8 r.key.toNat
  -- R193: what follows the last entry holds 0xFFFF_FFFF
  k.rows.zip (keys ++ List.replicate (k.rows.length - keys.length) (List.replicate 8 0xFF)) ++
    v.rows.zip (recs.map fun r => urnEncBytes v.fmt ((List.range u.width).map (r.out u.frac v.fmt))) ++
    (s.slotTensor c 2).rows.zip [(recs.map UrnSlot.status).flatMap (leBytes 4)]

/-- URN_DRAIN (R203, R204). -/
def urnDrain (s : State) : State :=
  s.withHead 4 0x02 fun s c =>
    let t := s.urnTableOf c
    s.orFail c (s.urnDrainChecks c) fun s =>
      (((s.setUrn t {}).storeAll ((s.urnTable t).cleared (s.urnCfg t))).storeAll (s.urnDrainWrites c)).complete c stOk 0

def execUrnDrain (s : State) : Result := .next (urnDrain s)

/-- URN_CLEAR (R204). -/
def urnClear (s : State) : State :=
  s.withHead 4 0x03 fun s c =>
    let t := s.urnTableOf c
    s.orFail c [s.urnOwned c t] fun s =>
      ((s.setUrn t {}).storeAll ((s.urnTable t).cleared (s.urnCfg t))).complete c stOk 0

def execUrnClear (s : State) : Result := .next (urnClear s)

end Sys2Proof.Machine
end

