-- ==== Sys2Proof/Machine/BlendCheck.lean ====
section
/-!
DEFINITION. The consistency checks of Table 4-3 over a candidate blend (04_blend.md R103, R109 to R111; R206, R287, R348, R349,
R379, R391, R406 to R408, R415, R424, R434): every failure, in the order of the table, then of section codes, then of entries.
-/

namespace Sys2Proof.Machine

/-! ## What a blend gives -/

def Blend.jobAt (b : Blend) (j : Nat) : JobEntry := b.jobs.getD j {}
/-- Job slot j holds a job that is not in teardown. -/
def Blend.runs (b : Blend) (j : Nat) : Bool := (b.jobAt j).jobId != 0 && !(b.jobAt j).teardown
/-- The slot of a job ID. -/
def Blend.slotOf (b : Blend) (id : Nat) : Option Nat :=
  if id = 0 then none else (List.range 8).find? fun j => (b.jobAt j).jobId == id
def Blend.pool (b : Blend) (p : Nat) : Pool := poolOf (b.stv (0x130100 + 0x10 * p)) (b.stv (0x130108 + 0x10 * p))
/-- Urn table t of a blend. -/
def Blend.urn (b : Blend) (t : Nat) : UrnCfg :=
  let c := b.stv (0x120100 + 0x20 * t)
  let p := b.stv (0x120108 + 0x20 * t)
  { base := ssramBase + field c 18 0 * 4096, len := field c 38 20 * 4096, width := field c 46 40, frac := field c 54 48
    job := field c 58 56, en := bitOf c 63, spillBase := field p 26 0 * 4096, spillLen := field p 63 32 }
def enabledPools (b : Blend) : List Nat := (List.range 64).filter fun p => (b.pool p).en
def enabledUrns (b : Blend) : List Nat := (List.range 16).filter fun t => (b.urn t).en
/-- The owner of a slot position. -/
def Blend.owner (b : Blend) (i : Nat) : Nat := b.ttab.getD i 0xFF
/-- The hop table, filled to twelve entries. -/
def Blend.hops (b : Blend) : List HopEntry := (List.range 12).map fun i => b.hop.getD i {}

/-! ## Memory claims -/

/-- A claim of the SRAM or GDDR check: section, entry number, range, whether it is bad by itself, and whether it lies
inside windows (the regions of infusion sets), where it meets only its like. -/
structure MemClaim where
  sec : Nat
  entry : Nat
  base : Nat
  len : Nat
  bad : Bool
  inner : Bool := false
  deriving DecidableEq, Repr

/-- Bases of one store. -/
def inStore (sram : Bool) (base : Nat) : Bool := sram == decide (ssramBase ≤ base)

/-- Windows of a blend whose KIND, or whose base where the KIND is none of Table 13-2, belongs to a store. -/
def Blend.windowClaims (b : Blend) (sram : Bool) : List MemClaim :=
  (List.range b.windows.length).filterMap fun i =>
    let w := b.windows.getD i {}
    let known := 1 ≤ w.kind && w.kind ≤ 4
    if (if known then sram == (w.kind == 2 || w.kind == 3) else inStore sram w.base) then
      some { sec := 0x0B, entry := i, base := w.base, len := w.len
             bad := !known || w.len % 4096 != 0 || decide (w.len < 4096) }
    else none

/-- Windows of a job for R379. -/
def Blend.inJobWindow (b : Blend) (j a n : Nat) : Bool :=
  b.windows.any fun w => (w.kind == 1 || w.kind == 2) && w.job == (b.jobAt j).jobId && w.job != 0 && inside (a, n) (w.base, w.len)

/-- R391: the request area of a job slot. -/
def Blend.requestArea (b : Blend) (j : Nat) : Nat × Nat :=
  let c := b.stv (0x170100 + 0x10 * j)
  (ssramBase + field (b.stv (0x170108 + 0x10 * j)) 18 0 * 4096, field c 23 11 * (64 + 8 * field c 35 24))

/-- R379: the set-word area of an infusion set. -/
def Blend.setWordArea (b : Blend) (i : Nat) : Nat × Nat :=
  let c := b.stv (0x140200 + 0x20 * i)
  (ssramBase + field c 35 17 * 4096, 64 + 16 * field c 16 4)

/-- R379: the claims of the infusion sets. -/
def Blend.setClaims (b : Blend) (sram : Bool) : List MemClaim :=
  (List.range 8).flatMap fun i =>
    let c := b.stv (0x140200 + 0x20 * i)
    let len := b.stv (0x140218 + 0x20 * i) * 4096
    let region (k : Nat) : List MemClaim :=
      let base := b.stv (0x140208 + 0x20 * i + 8 * k) * 4096
      if inStore sram base then
        [{ sec := 0x0B, entry := i, base, len, bad := !b.inJobWindow (field c 3 1) base len, inner := true }] else []
    if bitOf c 0 then
      (if sram then [{ sec := 0x0B, entry := i, base := (b.setWordArea i).1, len := (b.setWordArea i).2, bad := false }] else []) ++
      region 0 ++ region 1
    else []

/-- Caddy pools of a store. -/
def Blend.poolClaims (b : Blend) (sram : Bool) : List MemClaim :=
  ((enabledPools b).filter fun p => inStore sram (b.pool p).base).map fun p =>
    { sec := 0x06, entry := p, base := (b.pool p).base, len := (b.pool p).len, bad := false }

/-- The claims of a store in ascending section code, then entry order. -/
def Blend.claims (b : Blend) (sram : Bool) : List MemClaim :=
  (if sram then
    ((List.range 8).filter fun j => bitOf (b.stv (0x170100 + 0x10 * j)) 0).map (fun j =>
      ({ sec := 0x02, entry := j, base := (b.requestArea j).1, len := (b.requestArea j).2, bad := false } : MemClaim)) ++
    (let f := b.stv 0x2F0008
     if bitOf f 19 then [{ sec := 0x03, entry := 0, base := ssramBase + field f 18 0 * 4096, len := 0x100000, bad := field f 18 0 % 256 != 0 }] else [])
   else []) ++
  b.poolClaims sram ++
  (enabledUrns b).map (fun t =>
    let u := b.urn t
    if sram then ({ sec := 0x07, entry := t, base := u.base, len := u.len, bad := false } : MemClaim)
    else { sec := 0x07, entry := t, base := u.spillBase, len := u.spillLen * u.slotBytes, bad := false }) ++
  b.windowClaims sram ++ b.setClaims sram

/-- A claim fails by itself: outside its store, not 4 KiB aligned, or on a lent region still being scrubbed (R348). -/
def State.claimBad (s : State) (sram : Bool) (c : MemClaim) : Bool :=
  c.bad || c.base % 4096 != 0 || !(if sram then inSsram c.base c.len else inGddr c.base c.len) ||
  s.scrubs.any fun x => x.job.isNone && overlap (x.base, x.len) (c.base, c.len)

/-- The SRAM or GDDR failures, claim by claim. A claim that is bad by itself, or that meets several earlier ones, counts as one failure
(R109 does not say; DESIGN CHOICE, notes/assumptions/20.md). -/
def State.claimFails (s : State) (sram : Bool) : List MemClaim → List MemClaim → List BldResult
  | _, [] => []
  | seen, c :: r =>
    let res := if sram then 0x08 else 0x09
    (if s.claimBad sram c then [conflict res c.sec c.entry]
     else match seen.find? fun d => d.inner == c.inner && overlap (d.base, d.len) (c.base, c.len) with
      | some d => [conflict res c.sec ((max c.base d.base - (if sram then ssramBase else 0)) / 4096)]
      | none => []) ++ State.claimFails s sram (seen ++ [c]) r

/-! ## Group 3 -/

/-- R103: BASE, and the first blend full. -/
def State.baseFails (s : State) : List BldResult :=
  if s.bld.delta && (!s.bld.applied || s.bld.baseId != s.bld.currentId) then [conflict 0x02 0 0] else []

/-! ## Group 4 -/

/-- Indices below n where a condition fails, as failures. -/
def failAt (n res sec : Nat) (bad : Nat → Bool) : List BldResult := ((List.range n).filter bad).map (conflict res sec)

/-- CORE. -/
def State.coreFails (s : State) (b : Blend) : List BldResult :=
  failAt 256 0x04 0x01 fun k =>
    let j := b.cores.getD k 0xFF
    j != 0xFF && (decide (8 ≤ j) || (b.jobAt j).jobId == 0 || !s.coreEnabled k || s.log.quar.getLsbD k)

/-- R408: the register and bit that shows a job's admission to an engine. -/
def admitBit (e : Nat) : Option (Nat × Nat × Nat) :=
  match e with
  | 2 => some (0x100100, 8, 33) | 3 => some (0x110300, 8, 0) | 6 => some (0x140100, 8, 0) | 8 => some (0x160100, 8, 0)
  | 9 => some (0x170100, 0x10, 0) | 10 => some (0x190100, 8, 8) | _ => none

/-- ENGINE: engine e, job slot j. -/
def State.engineBad (s : State) (b : Blend) (e j : Nat) : Bool :=
  let share := b.shareOf e j != 0
  if e = 7 then bitOf (b.stv (0x150100 + 8 * j)) 21 && (!share || !s.updateEngine)
  else match admitBit e with
    | some (base, stride, bit) => bitOf (b.stv (base + stride * j)) bit != share
    | none => false

def State.engineFails (s : State) (b : Blend) : List BldResult :=
  (offsets 2 10).flatMap fun e => ((List.range 8).filter (s.engineBad b e)).map fun _ => conflict 0x05 0x02 e

/-- Entries that repeat an earlier one. -/
def repeats : List Nat → List Nat → List Bool
  | _, [] => []
  | seen, x :: r => seen.contains x :: repeats (x :: seen) r

/-- CONTACT: a second claim, or T1-001 as an output. -/
def contactFails (b : Blend) : List BldResult :=
  (b.pins.zip (repeats [] (b.pins.map (·.contact)))).filterMap fun (p, again) =>
    if again || (p.contact == 1 && (p.function == 1 || p.function == 2)) then some (conflict 0x06 0x08 p.contact) else none

/-- TIMER: the TMR claims, then the ramps' (R465). -/
def timerFails (b : Blend) : List BldResult :=
  let cs := b.timers.map (fun t => (0x09, t.timer)) ++ b.ramps.map fun r => (0x0A, r.timer)
  (cs.zip (repeats [] (cs.map (·.2)))).filterMap fun (c, again) => if again then some (conflict 0x07 c.1 c.2) else none

/-- SLOT. -/
def slotFails (b : Blend) : List BldResult :=
  failAt 192 0x0A 0x04 fun i =>
    let j := b.owner i
    j != 0xFF && (i % 16 == 15 || decide (8 ≤ j) || (b.jobAt j).jobId == 0)

/-- A lane map is a permutation of 0 to 7. -/
def lmapOk (m : BitVec 24) : Bool :=
  (List.range 8).all fun l => (List.range 8).any fun j => field m.toNat (3 * j + 2) (3 * j) == l

/-- HOPTAB: of enabled entries; and the LOAD_TIMEOUT of FAB_RM_CFG. -/
def hoptabFails (b : Blend) : List BldResult :=
  let h := b.hops
  let at' (i : Nat) := h.getD i {}
  (failAt 12 0x0B 0x03 fun i => (at' i).en && (decide (11 < (at' i).phys) || !lmapOk (at' i).lmap ||
    (List.range i).any fun k => (at' k).en && (at' k).phys == (at' i).phys)) ++
  (let t := b.stv 0x2F0200
   if 2 ≤ t && t ≤ 500 then [] else [conflict 0x0B 0x03 0])

/-- Port indices of a route: the nibbles before the first 12, at most eight. -/
def routeHops (r : BitVec 32) : List Nat := ((List.range 8).map fun k => field r.toNat (4 * k + 3) (4 * k)).takeWhile (· != 12)

/-- Two port indices leave this device on one lane: one index, or two enabled indices of one physical port. -/
def sameHop (h : List HopEntry) (i k : Nat) : Bool :=
  let at' (i : Nat) := h.getD i {}
  decide (i < 12) && decide (k < 12) && (i == k || (at' i).en && (at' k).en && (at' i).phys == (at' k).phys)

/-- ROUTE: a lane of a phase entry. -/
def routeBad (b : Blend) (e : PlanPhase) (l : Nat) : Bool :=
  let hop (l : Nat) := (routeHops (e.routes.getD l 0)).headD 15
  (routeHops (e.routes.getD l 0)).any (13 ≤ ·) || (bitsSet l e.lanes.toNat).any fun k => sameHop b.hops (hop k) (hop l)

def routeFails (b : Blend) : List BldResult :=
  b.plans.flatMap fun (p, x) => (List.range x.phases.length).flatMap fun i =>
    let e := x.phases.getD i {}
    ((bitsSet 12 e.lanes.toNat).filter (routeBad b e)).map fun l => conflict 0x0C 0x05 (p * 65536 + i * 16 + l)

/-- POOL. -/
def poolFails (b : Blend) : List BldResult :=
  failAt 64 0x0D 0x06 fun p =>
    let q := b.pool p
    q.en && (decide (q.log2 < 8) || decide (20 < q.log2) || decide (q.len < 2 ^ q.log2))

/-- URN. -/
def urnFails (b : Blend) : List BldResult := failAt 16 0x0E 0x07 fun t => (b.urn t).en && (b.urn t).spillLen == 0

/-- KETTLE, R22. -/
def kettleFails (b : Blend) : List BldResult :=
  let e := b.stv 0x030000
  if 2700 < field e 11 0 || 2400 < field e 23 12 || field e 23 12 < field e 35 24 then [conflict 0x0F 0x0A 0] else []

/-- HTM. -/
def htmFails (b : Blend) : List BldResult :=
  let l := field (b.stv 0x020020) 29 16
  (if 1 ≤ l && l ≤ 10000 then [] else [conflict 0x03 0x0C 0]) ++
  (if 8 < b.depth && (List.range 192).any (fun i => i % 16 != 15 && b.owner i != 0xFF) then [conflict 0x03 0x0C 0] else [])

/-- Group 4, in the table's order. -/
def State.group4 (s : State) (b : Blend) : List BldResult :=
  s.coreFails b ++ s.engineFails b ++ contactFails b ++ timerFails b ++ s.claimFails true [] (b.claims true) ++
  s.claimFails false [] (b.claims false) ++ slotFails b ++ hoptabFails b ++ routeFails b ++ poolFails b ++ urnFails b ++
  kettleFails b ++ htmFails b

/-! ## Group 5: JOB -/

/-- Cores of a job slot. -/
def Blend.coresOf (b : Blend) (j : Nat) : List Nat := (List.range 256).filter fun k => b.cores.getD k 0xFF == j

/-- Windows of a job ID by number; a change of MODE is none (R339). -/
def Blend.windowsOf (b : Blend) (id : Nat) : List (Nat × Nat × Nat × Nat) :=
  (List.range b.windows.length).filterMap fun i =>
    let w := b.windows.getD i {}
    if 1 ≤ w.kind && w.kind ≤ 3 && w.job == id && id != 0 then some (i, w.kind, w.base, w.len) else none

/-- Slot positions of a job slot. -/
def Blend.slotsOf (b : Blend) (j : Nat) : List Nat := (List.range 192).filter fun i => b.owner i == j

/-- Caddy pools of a job slot. -/
def Blend.poolsOf (b : Blend) (j : Nat) : List (Nat × Pool) :=
  ((enabledPools b).filter fun p => (b.pool p).job == j).map fun p => (p, b.pool p)

/-- The job slot of the core a timer's owner code names; 0xFF for an owner that is no core of a job. -/
def Blend.coreJob (b : Blend) (owner : Nat) : Nat := if 0x100 ≤ owner && owner < 0x200 then b.cores.getD (owner - 0x100) 0xFF else 0xFF

/-- A JOB failure, with the entry of its section at which it is found: of PART the job entries, then the core bytes from 8 on. -/
abbrev JobFail := Nat × BldResult

def jobFail (sec entry id : Nat) : JobFail := (entry, conflict 0x10 sec id)

/-- The lowest entry that only one of two lists has. -/
def lowestDiff {α : Type} [DecidableEq α] (key : α → Nat) (a b : List α) : Nat :=
  ((a.filter (!b.contains ·) ++ b.filter (!a.contains ·)).map key).foldl min 0xFFFF

/-- R407: a JOB_ID that an earlier entry has. -/
def dupFails (n : Blend) : List JobFail :=
  ((List.range 8).filter fun j => (n.jobAt j).jobId != 0 && (List.range j).any fun k => (n.jobAt k).jobId == (n.jobAt j).jobId).map fun j =>
    jobFail 0x01 j (n.jobAt j).jobId

/-- The timers a job slot holds, with the section that claims each: its cores' and its ramps'. -/
def Blend.timersOf (b : Blend) (j : Nat) : List (Nat × Nat) :=
  ((b.timers.filter fun t => b.coreJob t.owner == j).map fun t => (0x09, t.timer)) ++
  (b.ramps.filter fun r => r.job == j).map fun r => (0x0A, r.timer)

/-- The claims of a blend that name no window: section, entry, claiming job slot, range. They are the request areas (R391), the Urn
regions and spill areas, the pools, and the set-word areas (R379). -/
def Blend.areaClaims (n : Blend) : List (Nat × Nat × Nat × (Nat × Nat)) :=
  ((List.range 8).filter fun j => bitOf (n.stv (0x170100 + 0x10 * j)) 0).map (fun j =>
    (0x02, j, j, n.requestArea j)) ++
  (enabledPools n).map (fun p => (0x06, p, (n.pool p).job, ((n.pool p).base, (n.pool p).len))) ++
  (enabledUrns n).flatMap (fun t =>
    [(0x07, t, (n.urn t).job, ((n.urn t).base, (n.urn t).len)), (0x07, t, (n.urn t).job, ((n.urn t).spillBase, (n.urn t).spillLen * (n.urn t).slotBytes))]) ++
  ((List.range 8).filter fun i => bitOf (n.stv (0x140200 + 0x20 * i)) 0).map fun i =>
    (0x0B, i, field (n.stv (0x140200 + 0x20 * i)) 3 1, n.setWordArea i)

/-- Ranges a job slot holds (R110): its windows and what it claims besides. -/
def Blend.rangesOf (b : Blend) (j : Nat) : List (Nat × Nat) :=
  (b.windowsOf (b.jobAt j).jobId).map (fun w => (w.2.2.1, w.2.2.2)) ++ (b.areaClaims.filter fun c => c.2.2.1 == j).map fun c => c.2.2.2

/-- Ranges that the jobs of a blend other than `id` claim. -/
def Blend.otherRanges (n : Blend) (id : Nat) : List (Nat × Nat) :=
  (((List.range 8).filter fun i => (n.jobAt i).jobId != id && (n.jobAt i).jobId != 0).flatMap n.rangesOf) ++
  (n.windows.filter fun w => w.job != id && w.job != 0).map fun w => (w.base, w.len)

/-- R110: what a job in teardown in both blends no longer has although no other job claims it (a claim is `heldFails`'s):
the job keeps every core, slot, pool and window until a blend omits it. -/
def Blend.droppedFails (o n : Blend) (j i : Nat) : List JobFail :=
  let id := (o.jobAt j).jobId
  let meets (r : Nat × Nat) := (n.otherRanges id).any (overlap r)
  (if (o.coresOf j).any fun k => decide (8 ≤ n.cores.getD k 0xFF) then [jobFail 0x01 i id] else []) ++
  (((o.slotsOf j).filter fun k => decide (8 ≤ n.owner k)).take 1).map (fun k => jobFail 0x04 k id) ++
  (((o.poolsOf j).filter fun p => !(n.poolsOf i).contains p && !meets (p.2.base, p.2.len) && (!(n.pool p.1).en || (n.pool p.1).job == i)).take 1).map
    (fun p => jobFail 0x06 p.1 id) ++
  (((o.windowsOf id).filter fun w => !(n.windowsOf id).contains w && !meets (w.2.2.1, w.2.2.2)).take 1).map fun w => jobFail 0x0B w.1 id

/-- R110: timers of a job named in teardown that no section of the new blend claims any more. -/
def Blend.timerDrops (o n : Blend) (j : Nat) : List JobFail :=
  let claimed := n.timers.map (·.timer) ++ n.ramps.map (·.timer)
  ((o.timersOf j).filter fun t => !claimed.contains t.2).map fun t => jobFail t.1 t.2 (o.jobAt j).jobId

/-- R109, R110, R406, R424: what becomes of the job in slot j of the blend in force. A preempted job that goes on running may give its
cores away, as the context switch of chapter 16 does. -/
def State.fateFails (s : State) (n : Blend) (j : Nat) : List JobFail :=
  let o := s.bld.cur
  let id := (o.jobAt j).jobId
  if id = 0 then []
  else match n.slotOf id with
    | none => if o.runs j || (s.slot j).state != 6 then [jobFail 0x01 j id] else []
    | some i =>
      (if o.runs j then
        (if i != j || (o.coresOf j != n.coresOf i && ((s.slot j).state != 3 || !n.runs i)) then [jobFail 0x01 i id] else []) ++
        (if o.stv (0x100100 + 8 * j) != n.stv (0x100100 + 8 * i) then [jobFail 0x02 i id] else []) ++
        (if o.slotsOf j != n.slotsOf i then [jobFail 0x04 (lowestDiff (fun k => k) (o.slotsOf j) (n.slotsOf i)) id] else []) ++
        (if o.poolsOf j != n.poolsOf i then [jobFail 0x06 (lowestDiff Prod.fst (o.poolsOf j) (n.poolsOf i)) id] else []) ++
        (if o.windowsOf id != n.windowsOf id then [jobFail 0x0B (lowestDiff Prod.fst (o.windowsOf id) (n.windowsOf id)) id] else [])
      else if n.runs i || i != j then [jobFail 0x01 i id]
      else o.droppedFails n j i) ++
      (if n.runs i then [] else o.timerDrops n j)

/-- R110: timers that the job in slot j of the blend in force holds and that something of the new blend claims which is none of the job's.
INDEX is the claiming job's ID and, where a host or an engine claims, that of the job that holds the timer (DESIGN CHOICE,
notes/assumptions/20.md). -/
def State.timersTaken (s : State) (n : Blend) (j : Nat) : List JobFail :=
  let o := s.bld.cur
  let id := (o.jobAt j).jobId
  let other (i : Nat) := (n.jobAt i).jobId != id
  let claimant (i : Nat) := if (n.jobAt i).jobId = 0 then id else (n.jobAt i).jobId
  let mine (t : Nat) := (o.timersOf j).any fun q => q.2 == t
  let at' {α : Type} (l : List α) := l.zip (List.range l.length)
  ((at' n.timers).filter fun t => other (n.coreJob t.1.owner) && mine t.1.timer).map (fun t =>
    jobFail 0x09 t.2 (claimant (n.coreJob t.1.owner))) ++
  ((at' n.ramps).filter fun r => other r.1.job && mine r.1.timer).map fun r => jobFail 0x0A r.2 (claimant r.1.job)

/-- R110: claims of other jobs on what the job torn down in slot j of the blend in force holds; of a job that the new blend is
the first to name in teardown the timers (`fateFails` compares its cores, slots, pools and windows). -/
def State.heldFails (s : State) (n : Blend) (j : Nat) : List JobFail :=
  let o := s.bld.cur
  let id := (o.jobAt j).jobId
  let held := o.rangesOf j
  let other (i : Nat) := decide (i < 8) && (n.jobAt i).jobId != id && (n.jobAt i).jobId != 0
  let meets (r : Nat × Nat) := held.any (overlap r)
  if id = 0 then []
  else if o.runs j then (match n.slotOf id with | some i => if n.runs i then [] else s.timersTaken n j | none => [])
  else
    ((o.coresOf j).filter fun k => other (n.cores.getD k 0xFF)).map (fun k => jobFail 0x01 (8 + k) (n.jobAt (n.cores.getD k 0xFF)).jobId) ++
    ((o.slotsOf j).filter fun i => other (n.owner i)).map (fun i => jobFail 0x04 i (n.jobAt (n.owner i)).jobId) ++
    (n.areaClaims.filter fun c => other c.2.2.1 && (meets c.2.2.2 || (c.1 == 0x06 && (o.poolsOf j).any fun q => q.1 == c.2.1))).map
      (fun c => jobFail c.1 c.2.1 (n.jobAt c.2.2.1).jobId) ++
    s.timersTaken n j ++
    ((n.windows.zip (List.range n.windows.length)).filter fun w => w.1.job != id && w.1.job != 0 && meets (w.1.base, w.1.len)).map fun w =>
      jobFail 0x0B w.2 w.1.job

/-- R415: another PART entry than j holds something. -/
def Blend.holds (n : Blend) (k : Nat) : Bool :=
  (n.jobAt k).jobId != 0 && (!(n.coresOf k).isEmpty || (offsets 2 10).any (fun e => n.shareOf e k != 0) ||
    !(n.windowsOf (n.jobAt k).jobId).isEmpty || !(n.poolsOf k).isEmpty || (enabledUrns n).any fun t => (n.urn t).job == k)

/-- A page in host bias, of 2 MiB (R432), meets a range. -/
def State.hostBiased (s : State) (r : Nat × Nat) : Bool :=
  s.host.hostBias.any fun e => e.2 && overlap (e.1 * 0x200000, 0x200000) r

/-- R415, R434: the conditions on an exclusive job. -/
def State.exclFails (s : State) (n : Blend) (j : Nat) : List JobFail :=
  let id := (n.jobAt j).jobId
  if id = 0 || !(n.jobAt j).excl then []
  else
    (if (List.range 8).any fun k => k != j && n.holds k then [jobFail 0x01 j id] else []) ++
    (if n.windows.any fun w => w.kind == 4 && w.job != id then [jobFail 0x01 j id] else []) ++
    (if (n.windowsOf id).any fun w => w.2.1 == 1 && s.hostBiased (w.2.2.1, w.2.2.2) then [jobFail 0x01 j id] else [])

/-- Group 5 in ascending section code, and within a section in the order of its entries. -/
def State.group5 (s : State) (n : Blend) : List BldResult :=
  let all := dupFails n ++ (List.range 8).flatMap fun j => s.fateFails n j ++ s.heldFails n j ++ s.exclFails n j
  (sortBy (fun a b => decide (a.2.secNo < b.2.secNo) || (a.2.secNo == b.2.secNo && decide (a.1 ≤ b.1))) all).map Prod.snd

/-! ## Together -/

/-- R104: the staged set: the loaded sections with every ST field as staged. -/
def State.candidate (s : State) : Blend := { s.bld.staged with st := s.bld.stagedSt }

/-- Groups 3 to 5. -/
def State.blendFails (s : State) : List BldResult :=
  s.baseFails ++ s.group4 s.candidate ++ s.group5 s.candidate

/-- R109: the first failure with the count of all. -/
def countFails : List BldResult → Option BldResult
  | [] => none
  | x :: r => some { x with count := min (r.length + 1) 255 }

end Sys2Proof.Machine
end

