-- ==== Sys2Proof/Machine/Links.lean ====
section
/-!
DEFINITION. Operations of the fabric (10_fabric.md): hop tables and routes, queues and credits of a port, injection
by the path table, router errors, a port going down; and the payloads of MEM_REQ and MEM_RSP (Tables 11-2, 11-3).
-/

namespace Sys2Proof.Machine

/-! ## Virtual channels, Table 10-7 -/

/-- Receive buffers of a VC. -/
def vcBuffers (v : Nat) : Nat := match v with | 0 => 16 | 1 => 0 | 6 => 32 | 7 => 8 | _ => 64

/-- Table 10-6: the VCs a TYPE allows. -/
def typeVcs (t : Nat) : List Nat :=
  match t with
  | 0x00 => [0] | 0x01 => [0] | 0x02 => [0] | 0x04 => [0] | 0x05 => [0] | 0x08 => [1] | 0x10 => [2, 3] | 0x11 => [4, 5]
  | 0x12 => [4, 5] | 0x18 => [6] | 0x19 => [6] | 0x1C => [7] | _ => []

/-! ## Hop tables, R275 to R277 -/

/-- The hop-table version. -/
def State.hopTable (s : State) (epoch : Bool) : List HopEntry := if epoch then s.bld.hop1 else s.bld.hop0

/-- R275: nibble k of a route. -/
def routeNibble (route : BitVec 32) (k : Nat) : Nat := field route.toNat (4 * k + 3) (4 * k)

/-- R277: the version a flit's route is read under, none when stale. -/
def State.versionOf (s : State) (epoch : Bool) : Option (List HopEntry) :=
  if epoch == s.bld.epoch then some (s.hopTable epoch)
  else if s.bld.flipped && s.now < s.bld.flipAt + 100000 then some (s.hopTable epoch)
  else none

/-- R66, R456: only VC0, VC6 and VC7 are carried, and nothing is forwarded. -/
def State.neighbourOnly (s : State) : Bool := !s.bld.applied || s.wdn.mode == 2

/-! ## A port's queue, R279, R281, R283 -/

def Port.credit (x : Port) (v : Nat) : Nat := tget 0 x.credits v

/-- A receive buffer in use is freed (R279). -/
def Port.freeBuffer (x : Port) (v : Nat) : Port :=
  if tget 0 x.occ v = 0 then x else { x with freed := tmod 0 x.freed v (· + 1), occ := tmod 0 x.occ v (· - 1) }

/-- A receive buffer is taken; the peak occupancy follows (R290). -/
def Port.takeBuffer (x : Port) (v : Nat) : Port :=
  let n := tget 0 x.occ v + 1
  { x with occ := tset 0 x.occ v n, peak := tmod 0 x.peak v (max n) }

/-! ## A flit on the line, R266, R271, R273 -/

/-- The header of Table 10-5, as its 16 bytes. -/
def flitHeader (f : Flit) : List Byte :=
  leBytes 16 (place 2 0 f.vc.toNat + flagBit f.epoch 3 + place 7 4 f.hop.toNat + place 39 8 f.route.toNat + place 55 40 f.src.toNat +
    place 71 56 f.dst.toNat + place 77 72 f.typ.toNat + place 91 80 f.seq.toNat + flagBit f.retry 92 + place 127 96 f.tag.toNat)

/-- R271: the ciphertext and tag of a flit under a direction's key and salt, in the position its count names: nonce salt and count,
additional data header bytes 0 to 11. -/
def sealFlit (key salt : List Byte) (count : Nat) (f : Flit) : List Byte :=
  Config.gcm key (salt ++ leBytes 8 count) ((flitHeader { f with tag := 0 }).take 12) f.payload

/-- The tag a seal carries. -/
def tagOf (sealed : List Byte) : BitVec 32 := BitVec.ofNat 32 (leNat (sealed.drop 240))

/-- What a flit sent now is sealed as. -/
def Port.seal (x : Port) (f : Flit) : List Byte := sealFlit x.txSecret x.txSalt x.txPos f

/-- The flit with its tag. -/
def Port.sealed (x : Port) (f : Flit) : Flit := { f with tag := tagOf (x.seal f) }

/-- R271: a flit received in the position `count` of the peer's direction passes its check: its tag is that of the direction's key. -/
def Port.verifies (x : Port) (f : Flit) (count : Nat) : Bool :=
  decide (x.rxPos ≤ count) && f.tag == tagOf (sealFlit x.rxSecret x.rxSalt count f)

/-- R276: the physical lane of a port that carries logical lane j. -/
def lmapLane (m : BitVec 24) (j : Nat) : Nat := field m.toNat (3 * j + 2) (3 * j)

/-- R276: the lane map of a port: that of the first enabled entry that names it, else the identity. -/
def State.laneMap (s : State) (p : Nat) : BitVec 24 :=
  match (s.hopTable s.bld.epoch).find? fun h => h.en && h.phys == p with
  | some h => h.lmap
  | none => BitVec.ofNat 24 ((List.range 8).foldl (fun v j => v + j * 2 ^ (3 * j)) 0)

/-- R266: the 256 bytes of a flit over the 8 lanes: logical lane j carries bytes 32 j to 32 j + 31. -/
def stripe (m : BitVec 24) (bytes : List Byte) : List (List Byte) :=
  (List.range 8).map fun lane =>
    match (List.range 8).find? fun j => lmapLane m j == lane with
    | some j => slice bytes (32 * j) 32
    | none => []

/-- A flit leaves a port: sealed under its keys, striped over its lanes. -/
def State.flitOut (s : State) (p : Nat) (f : Flit) : Output :=
  let g := (s.port p).sealed f
  .flit p g (stripe (s.laneMap p) (flitHeader g ++ padTo 240 ((s.port p).seal f)))

/-! ## Positions, R88, R90, R281 -/

/-- The position of this tick has neither passed nor been taken on a port. -/
def State.positionFree (s : State) (p : Nat) : Bool := (s.port p).usedAt != some s.line && s.fab.lineAt != some s.line

/-- A position of a port that is up begins in this tick and is free. -/
def State.positionOpen (s : State) (p : Nat) : Bool := s.portUp p && positionBegins s.lineTick && s.positionFree p

/-- R90: the counts of VC0 and VC7 positions stand for this slot. -/
def Port.atSlot (x : Port) (slot : Nat) : Port := if x.slotNo = slot then x else { x with slotNo := slot, taken0 := 0, taken7 := 0 }

/-- A flit of a VC takes the position. -/
def State.takePosition (s : State) (p vc : Nat) : State :=
  s.modPort p fun x =>
    let y := x.atSlot (s.lineTick / slotLen)
    { y with usedAt := some s.line, taken0 := if vc = 0 then y.taken0 + 1 else y.taken0
             taken7 := if vc = 7 then y.taken7 + 1 else y.taken7 }

/-- R90: VC0 and VC7 take at most 8 positions each of a repair slot. -/
def State.withinLimit (s : State) (p vc : Nat) : Bool :=
  let y := (s.port p).atSlot (s.lineTick / slotLen)
  !s.inRepair || ((vc != 0 || decide (y.taken0 < 8)) && (vc != 7 || decide (y.taken7 < 8)))

/-- R90: within VC0, the job-start messages of R325 go before time exchanges, and those before other CONTROL flits. -/
def vc0Rank (f : Flit) : Nat :=
  if f.typ = 0x05 then (if [0x11, 0x12, 0x13].contains (leAt f.payload 0 1) then 0 else 2) else 1

/-- The queued flit of a VC that is ready: a credit of its VC, fewer than 2,048 unacknowledged (R279, R283). -/
def Port.ready (x : Port) (v : Nat) : Option Nat :=
  if x.credit v = 0 || 2048 ≤ x.unacked.length then none
  else if v = 0 then (List.range 3).findSome? fun k => x.txq.findIdx? fun q => q.flit.vc == 0 && vc0Rank q.flit == k
  else x.txq.findIdx? fun q => q.flit.vc.toNat == v

/-- Two VCs that alternate. -/
def alternate (a b : Option Nat) (second : Bool) : Option Nat :=
  match a, b with
  | some i, some j => some (if second then j else i)
  | some i, none => some i
  | none, b => b

/-- What a position carries. -/
inductive Source where
  | lctl
  | queued (i : Nat)
  | vc1Retry
  | again
  deriving DecidableEq, Repr

/-- R282: an LCTL is due: a NAK or hole was found since the last one, arbitrated flits came in 256 positions, or a repair slot has none
yet. -/
def State.lctlDue (s : State) (p : Nat) : Bool :=
  let x := s.port p
  s.portUp p && (x.lctlNew || decide (256 ≤ x.arbSinceLctl) || (s.inRepair && x.lctlSlot != some (s.now / slotLen)))

/-- R283: the unacknowledged flit to send again next. -/
def Port.nextAgain (x : Port) : Option Flit := x.resendAt.bind fun n => x.unacked.find? fun f => f.seq == n

/-- R281: orders 5 to 7 of Table 10-8; a VC6 flit that waited through 64 of their positions goes first. -/
def Port.bulk (x : Port) (can : Nat → Option Nat) : Option Nat :=
  let old := (can 6).filter fun i => (x.txq[i]?).any fun q => decide (64 ≤ q.waited)
  (((old <|> alternate (can 4) (can 5) x.turn45) <|> alternate (can 2) (can 3) x.turn23) <|> can 6)

/-- A flit of a VC may be carried: before the first blend and in a maintenance stop only VC0, VC6 and VC7 (R66, R456), and in a repair
slot within the limits of Table 3-2. -/
def State.mayCarry (s : State) (p v : Nat) : Bool := s.withinLimit p v && !(s.neighbourOnly && 2 ≤ v && v ≤ 5)

/-- R66, R456: while a device speaks to its direct neighbours only, a flit leaves only for the device at the end of its link. -/
def State.flitAllowed (s : State) (f : Flit) : Bool :=
  !s.neighbourOnly || (routeNibble f.route f.hop.toNat == 12 && (f.vc == 0 || f.vc == 6 || f.vc == 7))

/-- R456: a maintenance stop begins: queued flits for devices beyond the neighbours do not leave (notes/assumptions/38.md). -/
def State.dropBeyond (s : State) : State :=
  let gone := s.ports.flatMap fun e => e.2.txq.filter fun q => !s.flitAllowed q.flit
  gone.foldl (fun s q => match q.inPort with | some i => s.modPort i fun y => y.freeBuffer q.inVc | none => s)
    { s with ports := s.ports.map fun e => (e.1, { e.2 with txq := e.2.txq.filter fun q => s.flitAllowed q.flit }) }

/-- The first ready source, in the order of Table 10-8, and in the repair slot in that of Table 3-2, by which a flit sent again takes its
VC's place. -/
def State.nextSource (s : State) (p : Nat) (retryWaits : Bool) : Option Source :=
  let x := s.port p
  let can v : Option Source := if s.mayCarry p v then (x.ready v).map .queued else none
  let bulk := (x.bulk fun v => if s.mayCarry p v then x.ready v else none).map Source.queued
  let again := x.nextAgain.filter fun f => s.mayCarry p f.vc.toNat && s.flitAllowed f
  let againOn v : Option Source := if again.any fun f => f.vc.toNat == v then some .again else none
  if s.lctlDue p && s.withinLimit p 0 then some .lctl
  else if s.inRepair then
    againOn 0 <|> can 0 <|> againOn 7 <|> can 7 <|> (if retryWaits then some .vc1Retry else none) <|> again.map (fun _ => .again) <|> bulk
  else can 0 <|> can 7 <|> again.map (fun _ => .again) <|> bulk

/-- 2^16: one tick in the units of stamps. -/
def tickUnits : Int := 65536

/-- A stamp in 2^-16 ns: the tick of a count, and the part of a tick that the port's time stamping gives. -/
def stampAt (tick : Nat) (part : Int) : Int := (tick : Int) * tickUnits + part % tickUnits

/-- R77: a time response as it leaves: t3 is the own count at that moment, with the part of a tick that stands in its place. -/
def State.stamped (s : State) (f : Flit) : Flit :=
  if f.typ = 0x04 && leAt f.payload 0 1 = 1 then
    { f with payload := f.payload.take 9 ++
        leBytes 8 (max (leAt f.payload 1 8) (stampAt s.ownCount (leAt f.payload 9 8)).toNat) ++ f.payload.drop 17 }
  else f

/-- R77: the departure of a time request is stamped. -/
def State.departs (s : State) (f : Flit) : State :=
  if f.typ = 0x04 && leAt f.payload 0 1 = 0 then { s with ht := { s.ht with departedAt := s.ownCount } } else s

/-- R281: the VC6 flits in a queue wait through a position of orders 5 and 6. -/
def waitThrough (q : List QFlit) (v : Nat) : List QFlit :=
  if 2 ≤ v && v ≤ 5 then q.map fun x => if x.flit.vc == 6 then { x with waited := x.waited + 1 } else x else q

/-- One queued flit leaves: a credit is taken, LSEQ is written, the flit is kept until acknowledged; exchange flits are stamped as they
leave (R77). -/
def State.sendOne (s : State) (p i : Nat) : State :=
  match (s.port p).txq[i]? with
  | none => s
  | some q =>
    let f := s.stamped { q.flit with seq := (s.port p).txLseq }
    let v := f.vc.toNat
    let s1 := (s.takePosition p v).modPort p fun x =>
      { x with txq := waitThrough (x.txq.eraseIdx i) v, credits := tmod 0 x.credits v (· - 1), txLseq := x.txLseq + 1
               unacked := x.unacked ++ [f], cntTx := x.cntTx + 1, congArb := x.congArb + 1
               turn45 := if v = 4 then true else if v = 5 then false else x.turn45
               turn23 := if v = 2 then true else if v = 3 then false else x.turn23 }
    let s2 := match q.inPort with | some i => s1.modPort i fun y => y.freeBuffer q.inVc | none => s1
    (s2.departs f).emit (s.flitOut p f)

/-- R283: the flit to send again next leaves. -/
def State.sendAgain (s : State) (p : Nat) : State :=
  let x := s.port p
  match x.resendAt.bind fun n => x.unacked.findIdx? fun f => f.seq == n with
  | none => s
  | some i =>
    let f := s.stamped (x.unacked.getD i {})
    State.emit (State.departs ((s.takePosition p f.vc.toNat).modPort p fun x =>
      { x with resendAt := (x.unacked[i + 1]?).map (·.seq), cntRetryArb := x.cntRetryArb + 1, congRetry := x.congRetry + 1
               congArb := x.congArb + 1, cntTx := x.cntTx + 1 }) f) (s.flitOut p f)

/-- The payload of an LCTL (Table 10-9); a hole names its slot by 16 bits of the frame and the slot position. -/
def lctlBytes (m : Lctl) : List Byte :=
  let seq (o : Option (BitVec 12)) := o.elim 0 fun a => a.toNat + 2 ^ 15
  leBytes 2 (seq m.ack) ++ leBytes 2 (seq m.nak) ++ padTo 8 m.freed ++ leBytes 1 m.holes.length ++ zeros 3 ++
  m.holes.flatMap fun h => leBytes 4 (h.1 % 16 + h.2 * 16 + h.1 / 16 % 65536 * 2048)

/-- What a port's LCTL says: acknowledgement, refusal, buffers freed, and up to 16 holes (R282, R284). -/
def Port.lctl (x : Port) : Lctl :=
  { ack := x.ack, nak := x.nak, freed := (List.range 8).map fun v => if v = 1 then 0 else tget 0 x.freed v
    holes := (x.holes.take 16).map fun h => (h.1 % 2 ^ 20, h.2) }

/-- The LCTL flit of a port: to the neighbour, without LSEQ (R283). -/
def State.lctlFlit (s : State) (p : Nat) : Flit :=
  { vc := 0, epoch := s.bld.epoch, hop := 1, route := BitVec.ofNat 32 (p + 12 * 16), src := s.fab.fabId, dst := 0xFFFF, typ := 0x01
    payload := padTo 240 (lctlBytes (s.port p).lctl) }

/-- R282: an LCTL leaves. -/
def State.sendLctl (s : State) (p : Nat) : State :=
  ((s.takePosition p 0).modPort p fun x =>
    { x with arbSinceLctl := 0, lctlNew := false, lctlSlot := if s.inRepair then some (s.now / slotLen) else x.lctlSlot
             cntTx := x.cntTx + 1 }).emit (s.flitOut p (s.lctlFlit p))

/-- Queues a flit on a port. -/
def State.queueFlit (s : State) (p : Nat) (q : QFlit) : State := s.modPort p fun x => { x with txq := x.txq ++ [q] }

/-- R280: the VC beyond a port index; none for a second dateline. -/
def vcBeyond (h : HopEntry) (vc : BitVec 3) : Option (BitVec 3) :=
  if h.dateline then
    match vc.toNat with | 2 => some 3 | 4 => some 5 | 3 => none | 5 => none | _ => some vc
  else some vc

/-! ## The path table, R287, R288 -/

/-- The routes of the entry of a device, in word order without empty words. -/
def State.routesTo (s : State) (dst : Nat) : List (BitVec 32) :=
  let w := s.st 0x2F0008
  if bitOf w 19 then
    let a := ssramBase + field w 18 0 * 4096 + 16 * dst
    ((List.range 4).map fun i => BitVec.ofNat 32 (s.mem.nat (a + 4 * i) 4)).filter (· != 0)
  else []

/-- R288: the route index of HASH mode. -/
def hashRoute (key n : Nat) : Nat := (key * 0x9E3779B97F4A7C15 % 2 ^ 64 / 2 ^ 32) % n

/-- The first hop of a route under the current version: its entry, when its port is in use and up. -/
def State.firstHop (s : State) (r : BitVec 32) : Option HopEntry :=
  let i := routeNibble r 0
  let h := (s.hopTable s.bld.epoch).getD i {}
  if i < 12 && h.en && s.portUp h.phys then some h else none

/-- R288: ADAPTIVE: the route whose first-hop port holds the most credits, ties to the lower number. -/
def State.adaptiveRoute (s : State) (rs : List (BitVec 32)) (vc : Nat) : Nat :=
  let cr i := ((s.firstHop (rs.getD i 0)).map fun h => (s.port h.phys).credit vc + 1).getD 0
  (List.range rs.length).foldl (fun b i => if cr b < cr i then i else b) 0

/-- R288: the route chosen; VC0 and VC7 always take route 0. -/
def State.chooseRoute (s : State) (dst vc key : Nat) : Option (BitVec 32) :=
  let rs := s.routesTo dst
  if rs.isEmpty then none
  else if vc = 0 || vc = 7 then rs[0]?
  else if bitOf (s.st 0x2F0008) 20 then rs[s.adaptiveRoute rs vc]?
  else rs[hashRoute key rs.length]?

/-- R66, R456: a route that a device may use for a VC: while it speaks to its direct neighbours only, one hop of VC0, VC6 or VC7. -/
def State.routeAllowed (s : State) (r : BitVec 32) (vc : Nat) : Bool :=
  !s.neighbourOnly || (routeNibble r 1 == 12 && (vc == 0 || vc == 6 || vc == 7))

/-- R275, R287: injects a flit; none when no route leads there now. -/
def State.inject (s : State) (vc typ dst key : Nat) (payload : List Byte) : Option State :=
  match (s.chooseRoute dst vc key).filter fun r => s.routeAllowed r vc with
  | none => none
  | some r =>
    match s.firstHop r with
    | none => none
    | some h =>
      match vcBeyond h (BitVec.ofNat 3 vc) with
      | none => none
      | some v => some (s.queueFlit h.phys { flit :=
          { vc := v, epoch := s.bld.epoch, hop := 1, route := r, src := s.fab.fabId, dst := BitVec.ofNat 16 dst
            typ := BitVec.ofNat 6 typ, payload := padTo 240 payload } })

/-! ## Requests and responses, Tables 11-2 and 11-3 -/

/-- The payload of a MEM_REQ. -/
def RemReq.payload (r : RemReq) : List Byte :=
  leBytes 1 r.op ++ leBytes 1 r.len ++ leBytes 2 (r.requester % 4096 + flagBit r.sync 15) ++ leBytes 2 r.rseq ++
  leBytes 2 r.tag ++ leBytes 8 r.addr.toNat ++ leBytes 8 (if r.op = 0x03 then r.flagAddr else r.a.toNat) ++
  leBytes 4 r.jobId ++ zeros 4 ++ leBytes 8 r.b.toNat ++ zeros 8 ++ padTo 192 r.data

/-- The request a payload spells. -/
def parseReq (b : List Byte) : RemReq :=
  let op := leAt b 0 1
  let rq := leAt b 2 2
  { op, len := leAt b 1 1, requester := rq % 4096, sync := bitOf rq 15, rseq := leAt b 4 2, tag := leAt b 6 2
    addr := BitVec.ofNat 64 (leAt b 8 8), a := BitVec.ofNat 64 (leAt b 16 8), flagAddr := leAt b 16 8
    jobId := leAt b 24 4, b := BitVec.ofNat 64 (leAt b 32 8), data := slice b 48 (leAt b 1 1) }

/-- The payload of a MEM_RSP to a request. -/
def rspPayload (r : RemReq) (status : Nat) (old : BitVec 64) (data : List Byte) : List Byte :=
  leBytes 1 r.op ++ leBytes 1 status ++ leBytes 2 (r.requester % 4096) ++ leBytes 2 r.rseq ++ leBytes 2 r.tag ++
  leBytes 8 r.addr.toNat ++ leBytes 8 old.toNat ++ zeros 24 ++ padTo 192 data

/-- The response a delivered flit spells. -/
def parseRsp (port : Nat) (f : Flit) : InRsp :=
  let b := f.payload
  if f.typ = 0x12 then
    { err := true, port, vc := f.vc.toNat, status := leAt b 0 1, op := leAt b 1 1, tag := leAt b 7 2 }
  else
    { port, vc := f.vc.toNat, status := leAt b 1 1, op := leAt b 0 1, tag := leAt b 6 2
      old := BitVec.ofNat 64 (leAt b 16 8), data := slice b 48 192 }

/-! ## Discards, R289 -/

/-- An ERR_RSP owed to the source of a discarded MEM_REQ. -/
def State.oweErr (s : State) (f : Flit) (status : Nat) : State :=
  if f.typ = 0x10 then
    { s with fab := { s.fab with errRsps := s.fab.errRsps ++
      [{ status, dst := f.src.toNat, head := f.payload.take 32, foundAt := s.boot.sincePwrOk }] } }
  else s

def State.countDead (s : State) : State := { s with fab := { s.fab with cntRouteDead := s.fab.cntRouteDead + 1 } }
def State.countMisroute (s : State) : State := { s with fab := { s.fab with cntMisroute := s.fab.cntMisroute + 1 } }
def State.countSchedDrop (s : State) : State := { s with fab := { s.fab with cntSchedDrop := s.fab.cntSchedDrop + 1 } }

/-! ## A port goes down, R285 -/

/-- FPT page of a port as SOURCE. -/
def portSource (p : Nat) : Nat := 0x200 + 0x10 * p

/-- Everything a port queues, keeps or counts for its peer is discarded; it takes the state given. -/
def Port.dropped (x : Port) (state tstep : Nat) : Port :=
  { state, tstep, cls := x.cls, peerPort := x.peerPort, peerId := x.peerId, evt := x.evt
    cntTx := x.cntTx, cntRx := x.cntRx, cntFec := x.cntFec, cntCheck := x.cntCheck, cntRetryArb := x.cntRetryArb
    cntRetrySched := x.cntRetrySched, congWait := x.congWait, congArb := x.congArb, congRetry := x.congRetry
    congCheck := x.congCheck, peak := x.peak, meanDelay := x.meanDelay, fusedDelay := x.fusedDelay, delayOut := x.delayOut, delayIn := x.delayIn, lane := x.lane
    authFails := x.authFails }

/-- The MEM_REQs among a port's flits are answered under R289. -/
def State.answerDropped (s : State) (p : Nat) : State :=
  let x := s.port p
  (x.unacked ++ x.txq.map (·.flit)).foldl (fun s f => s.oweErr f stRouteDead) s

/-- Everything a port queues is dropped: its MEM_REQs are answered, and the receive buffers its flits hold elsewhere are freed. -/
def State.dropQueued (s : State) (p : Nat) : State :=
  let held := (s.port p).txq.filterMap fun q => q.inPort.map fun i => (i, q.inVc)
  held.foldl (fun t h => t.modPort h.1 fun y => y.freeBuffer h.2) (s.answerDropped p)

/-- R285: flits discarded, alarm and log entry, FPT_EVT.DOWN, and the state given. -/
def State.portDown (s : State) (p cond state tstep : Nat) : State :=
  let s1 := (s.dropQueued p).modPort p fun x => { (x.dropped state tstep) with evt := x.evt ||| 1 }
  ((s1.event 5 (portSource p) 0x0040 cond (s.port p).peerId.toNat).deviceEvent).upstreamDown p

end Sys2Proof.Machine
end

