-- ==== Sys2Proof/Machine/Stage.lean ====
section
/-!
DEFINITION. The stage (04_blend.md R105 to R113, R115): refusals, loading an image, ending a check, and the APPLY request that
host software and the collective engine share.
-/

namespace Sys2Proof.Machine

def State.modBld (s : State) (f : BlendUnit → BlendUnit) : State := { s with bld := f s.bld }

/-- R111: BLD_RESULT and one entry of event 0x0024. -/
def State.refuse (s : State) (r : BldResult) : State :=
  (s.modBld fun b => { b with result := r }).event 3 0x010 0x0024 r.resource
    (r.secNo + r.count * 256 + r.index % 2 ^ 32 * 2 ^ 32) r.status

/-- A single failure. -/
def oneFail (r : BldResult) : BldResult := { r with count := 1 }

/-- R105: a command not accepted in this state or from this requester. -/
def State.reject (s : State) : State := s.refuse (oneFail (conflict 0x11 0 0))

/-- R456: a BLD_CMD of the engine cycle in which the maintenance stop began comes before the MAINT_ENTER. -/
def State.maintNow (s : State) : Bool := s.wdn.mode == 2 && s.wdn.maintAt == some s.engCycle

/-- R108, R456: the device takes BLD_CMD. -/
def State.bldOpen (s : State) : Bool := s.boot.step7Done && (s.wdn.mode != 2 || s.maintNow)

/-- R104: every staged value at its value in force. -/
def BlendUnit.unstaged (b : BlendUnit) (state : StageState) : BlendUnit :=
  { b with state, stagedSt := b.cur.st, staged := b.cur, image := [], verdict := none, carried := [], stagedId := 0, baseId := 0, delta := false
           stagedSigned := false, writtenSt := [], deferUntil := 0 }

/-! ## LOAD and its check -/

/-- The image as LOAD reads it; a line with an uncorrectable error reads as free values. -/
def State.readImage (s : State) (a n : Nat) : List Byte :=
  let b := s.mem.bytes a n
  if s.hasBad a n then
    (b.zip (List.range n)).map fun (x, i) => if s.hasBad (a + i) 1 then Config.freeByte (s.freeCount + 1) (a + i) else x
  else b

/-- R104, R106: LOAD reads the image, and sets the staged value of each field its sections carry. -/
def State.loadImage (s : State) : State :=
  let img := s.readImage s.bld.src s.bld.len
  let n := s.freeCount + (if s.hasBad s.bld.src s.bld.len then 1 else 0)
  let verdict := imageCheck img s.bld.len s.devId
  let ok := verdict.isNone
  let staged := if ok then s.bld.cur.withImage img else s.bld.cur
  State.modBld { s with freeCount := n } fun b =>
    { b with state := .checking, dirty := false, image := img, verdict, delta := imgDelta img, stagedId := imgId img, baseId := imgBase img
             staged, stagedSt := staged.st, carried := if ok then imgCodes img else [], writtenSt := [], deferUntil := 0 }

/-- R109: a failed check leaves the stage CLAIMED with every staged value in force (R104). -/
def State.loadFailed (s : State) (r : BldResult) : State := (s.modBld fun b => b.unstaged .claimed).refuse r

/-- R113: the signature check; `sigOk` says whether the signature verifies under the key its index names. -/
def State.signatureFail (s : State) (sigOk : Bool) : Option BldResult :=
  let b := s.bld.image
  let bad : BldResult := { status := stBlendSignature, index := imgKey b }
  if imgSigned b then (if sigOk && s.wdn.keyValid.getLsbD (imgKey b) then none else some bad)
  else if s.wdn.policy.getLsbD 0 then some bad else none

/-- The checks of LOAD in order: IMAGE, SIGNATURE, then every other check. -/
def State.loadFail (s : State) (sigOk : Bool) : Option BldResult :=
  match s.bld.verdict with
  | some r => some (oneFail r)
  | none =>
    match s.signatureFail sigOk with
    | some r => some (oneFail r)
    | none => countFails s.blendFails

/-- R115: the staged blend changes the hop table. -/
def State.hopChanges (s : State) : Bool := s.bld.carried.contains 0x03 && s.bld.staged.hops != s.bld.cur.hops

/-- R115 1, R109: the new hop table is written into the version not in use; the stage is CHECKED. -/
def State.loadDone (s : State) : State :=
  let h := s.bld.staged.hops
  s.modBld fun b =>
    { b with state := .checked, deferUntil := 0, result := {}, stagedSigned := imgSigned b.image
             hop0 := if s.hopChanges && b.epoch then h else b.hop0
             hop1 := if s.hopChanges && !b.epoch then h else b.hop1 }

/-- Checking ends (R109, R278). -/
def State.endCheck (s : State) (sigOk : Bool) : State :=
  match s.loadFail sigOk with
  | some r => s.loadFailed r
  | none =>
    if s.bld.carried.contains 0x03 && s.bld.flipped && decide (s.now < s.bld.flipAt + 100000) then
      s.modBld fun b => { b with deferUntil := b.flipAt + 100000 }
    else s.loadDone

/-! ## APPLY, R112, R113 -/

/-- Hall time is locked, in holdover, or root. -/
def State.hallOk (s : State) : Bool := match s.ht.state with | .locked | .holdover | .root => true | _ => false

/-- R112: the hop-table hold. -/
def State.hopHold (s : State) (t : Nat) : Bool := s.bld.flipped && s.hopChanges && decide (t < s.bld.flipAt + 1000000)

/-- Why an APPLY for tick t is refused. -/
def State.applyRefusal (s : State) (t : Nat) : Option BldResult :=
  if s.bld.dirty && s.wdn.policy.getLsbD 0 then some (oneFail { status := stBlendSignature, index := imgKey s.bld.image })
  else match (if s.bld.dirty then countFails s.blendFails else none) with
  | some r => some r
  | none =>
    if s.boot.step < 10 || !s.hallOk || t < s.now + 10240 then some (oneFail (conflict 0x03 0 0))
    else if !s.bld.applied && s.tin.state ≤ 1 then some (oneFail (conflict 0x11 0 0))
    else if s.hopHold t then some (oneFail (conflict 0x0B 0x03 0))
    else if s.ktl.therm = 2 then some (oneFail (conflict 0x0F 0 0))
    else none

/-- The APPLY command: ARMED for T, or refused with the stage CHECKED. -/
def State.applyCmd (s : State) (requester : Nat) : State :=
  if s.bld.state = .checked && (requester == s.bld.claimant || requester == 0x005) then
    let t := roundUp s.bld.applyTime frameLen
    match s.applyRefusal t with
    | some r => s.refuse r
    | none => s.modBld fun b => { b with state := .armed, armedT := t, result := {} }
  else s.reject

end Sys2Proof.Machine
end

