-- ==== Sys2Proof/Machine/Caddy.lean ====
section
/-!
DEFINITION. Caddy (13_memory_tiers.md R349 to R356): pools of fixed-size buffers whose free lists and headers stand in the
buffers themselves, their queues of requests, ALLOC and FREE. Prefix-engine requests are served here too (R399).
-/

namespace Sys2Proof.Machine

/-! ## Pools, headers and handles, R349 to R351 -/

def State.poolState (s : State) (p : Nat) : PoolState := tget {} s.pools p
def State.modPool (s : State) (p : Nat) (f : PoolState → PoolState) : State := { s with pools := tmod {} s.pools p f }

/-- CDY_POOL_STAT.FREE: buffers free, those above the water mark included. -/
def State.poolFree (s : State) (p : Nat) : Nat := ((s.pool p).count - (s.poolState p).mark) + (s.poolState p).free

/-- Start of buffer `i` of pool `p`. -/
def State.bufAddr (s : State) (p i : Nat) : Nat := (s.pool p).base + i * 2 ^ (s.pool p).log2

/-- The end of a free list. -/
def listEnd : Nat := 0xFFFFFFFF

/-- Table 13-5: a header's 16 bytes. -/
def header (next gen pool state : Nat) : List Byte :=
  let b := leBytes 4 next ++ leBytes 2 gen ++ leBytes 1 pool ++ leBytes 1 state ++ zeros 4
  b ++ leBytes 4 (crc32c b)

/-- STATE of a free and of an allocated buffer. -/
def bufFree : Nat := 0x46
def bufTaken : Nat := 0x41

/-- R351: the handle of a buffer. -/
def handleOf (addr gen : Nat) : Nat := addr % 2 ^ 48 + gen % 2 ^ 16 * 2 ^ 48

/-! ## Taking and returning buffers, R352, R355 -/

/-- R352: takes one buffer, from the free list or from the water mark; the buffer taken, or none where no buffer is free.
A header's NEXT keeps its value, and a buffer never handed out before ends no list. -/
def State.takeBuffer (s : State) (p : Nat) : Option (State × Nat) :=
  let ps := s.poolState p
  match ps.head with
  | some i =>
    let a := s.bufAddr p i
    let next := s.mem.nat a 4
    let s1 := s.store a (header next (s.mem.nat (a + 4) 2) p bufTaken)
    some (s1.modPool p fun x => { x with head := if next < (s.pool p).count then some next else none, free := x.free - 1 }, i)
  | none =>
    if ps.mark < (s.pool p).count then
      let a := s.bufAddr p ps.mark
      some ((s.store a (header listEnd 0 p bufTaken)).modPool p fun x => { x with mark := x.mark + 1 }, ps.mark)
    else none

/-- A free list rebuilt from a head: the buffers pushed in order. -/
def State.relink (s : State) (p : Nat) (base : Option Nat) (bufs : List Nat) : State :=
  let r := bufs.foldl (fun (a : State × Option Nat) i =>
    let at' := a.1.bufAddr p i
    (a.1.store at' (header (a.2.getD listEnd) (a.1.mem.nat (at' + 4) 2) p bufFree), some i)) (s, base)
  r.1.modPool p fun x => { x with head := r.2 }

/-- R352, R355: makes a buffer the head of its free list with this generation; the buffers that reach the pool in one engine cycle
are pushed in ascending requester code, each requester's in handle order. -/
def State.pushBuffer (s : State) (rq p i gen : Nat) : State :=
  let ps := s.poolState p
  let again := ps.freeAt == some s.engCycle
  let base := if again then ps.base else ps.head
  let fresh := insertBy (fun (a b : Nat × Nat) => decide (a.1 ≤ b.1)) (rq, i) (if again then ps.fresh else [])
  ((s.store (s.bufAddr p i) (header listEnd gen p bufFree)).relink p base (fresh.map (·.2))).modPool p fun x =>
    { x with free := x.free + 1, freeAt := some s.engCycle, base, fresh }

/-- R355: buffers that were served go back, the last one first, without a change of GEN. -/
def State.returnBuffers (s : State) (rq p : Nat) (bufs : List Nat) : State :=
  bufs.reverse.foldl (fun s i => s.pushBuffer rq p i (s.mem.nat (s.bufAddr p i + 4) 2)) s

/-- What serving a request comes to: the buffers in the order served, a header that cannot be read (its position), or
no free buffer. -/
inductive Served where
  | ok (bufs : List Nat)
  | bad (pos : Nat)
  | short
  deriving DecidableEq, Repr

/-- The buffer that would be taken next. -/
def State.nextBuffer (s : State) (p : Nat) : Nat := (s.poolState p).head.getD (s.poolState p).mark

/-- Takes `n` buffers whole, or returns in reverse order those it took (R355). -/
def State.takeBuffers (s : State) (rq p : Nat) : Nat → List Nat → State × Served
  | 0, got => (s, .ok got)
  | n + 1, got =>
    if s.hasBad (s.bufAddr p (s.nextBuffer p)) 16 then (s.returnBuffers rq p got, .bad got.length)
    else
      match s.takeBuffer p with
      | some (s1, i) => s1.takeBuffers rq p n (got ++ [i])
      | none => (s.returnBuffers rq p got, .short)

/-- The handles of buffers just served. -/
def State.handles (s : State) (p : Nat) (bufs : List Nat) : List Nat :=
  bufs.map fun i => handleOf (s.bufAddr p i) (s.mem.nat (s.bufAddr p i + 4) 2)

/-! ## Checking and freeing handles, R354 -/

/-- The pool of a job whose region holds an address. -/
def State.poolAt (s : State) (j a : Nat) : Option Nat :=
  (List.range 64).find? fun p =>
    (s.pool p).en && (s.pool p).job == j && decide ((s.pool p).base ≤ a) && decide (a < (s.pool p).base + (s.pool p).len)

/-- Index of the buffer an address of a pool stands in. -/
def State.bufIndex (s : State) (p a : Nat) : Nat := (a - (s.pool p).base) / 2 ^ (s.pool p).log2

/-- R354: the number of the first check a handle fails, with its status. -/
def State.handleFault (s : State) (j h : Nat) : Option (Nat × Nat) :=
  let a := h % 2 ^ 48
  match s.poolAt j a with
  | none => some (stPoolCheck, 1)
  | some p =>
    let b := s.mem.bytes a 16
    if (a - (s.pool p).base) % 2 ^ (s.pool p).log2 != 0 || decide ((s.pool p).count ≤ s.bufIndex p a) then some (stPoolCheck, 2)
    else if s.hasBad a 16 then some (stEccUncorr, 3)
    else if crc32c (slice b 0 12) != leAt b 12 4 then some (stPoolCheck, 3)
    else if leAt b 7 1 = bufFree then some (stPoolCheck, 4)
    else if leAt b 4 2 != h / 2 ^ 48 then some (stPoolCheck, 5)
    else if leAt b 6 1 != p then some (stPoolCheck, 6)
    else none

/-- R354: the first handle that fails, as status and DETAIL. -/
def State.freeCheck (s : State) (j : Nat) (hs : List Nat) : Check :=
  (hs.zip (List.range hs.length)).findSome? fun (h, k) => (s.handleFault j h).map fun x => (x.1, k * 256 + x.2)

/-- R352: a requester frees one handle: GEN + 1, head of the list. -/
def State.freeHandle (s : State) (rq j h : Nat) : State :=
  let a := h % 2 ^ 48
  match s.poolAt j a with
  | none => s
  | some p => s.pushBuffer rq p (s.bufIndex p a) ((s.mem.nat (a + 4) 2 + 1) % 65536)

/-- R354: an engine's own FREE of at most 256 handles: all or none, with the check that failed. -/
def State.freeAll (s : State) (rq j : Nat) (hs : List Nat) : State × Check :=
  match s.freeCheck j hs with
  | some x => (s, some x)
  | none => (hs.foldl (fun s h => s.freeHandle rq j h) s, none)

/-! ## Commands, R353, R356 -/

/-- Ends a Caddy command; CDY_LAST_FAIL names the pool. -/
def State.caddyEnd (s : State) (c : Cmd) (status detail pool : Nat) : State := s.complete c status detail true pool

/-- R353: puts a request in its pool's queue, by tick of arrival and then by requester code. -/
def State.waitPool (s : State) (p : Nat) (w : Waiter) : State :=
  s.modPool p fun x => { x with
    waiters := insertBy (fun a b => decide (a.at' < b.at') || (a.at' == b.at' && decide (a.requester ≤ b.requester)))
      { w with cycle := s.engCycle } x.waiters }

/-- The checks of ALLOC, in order. -/
def State.allocChecks (s : State) (c : Cmd) : List Check :=
  let b := s.params c
  let p := leAt b 0 1
  let n := leAt b 2 2
  let cs := s.checkSlot c 7 [0xA] (fun t => t.exts.length == 1 && decide (2 * n ≤ t.size))
  let q := s.pool p
  [zeroParams b (1 :: offsets 4 7 ++ offsets 16 63), need (1 ≤ n && n ≤ 256) stStructure 7] ++ cs.take 2 ++
    [need (decide (p < 64) && q.en && q.job == c.job && decide (n ≤ q.count)) stBounds p] ++ cs.drop 2

/-- ALLOC (R353, R356). -/
def alloc (s : State) : State :=
  s.withHead 5 0x01 fun s c =>
    let b := s.params c
    let p := leAt b 0 1
    let n := leAt b 2 2
    match firstFail (s.allocChecks c) with
    | some (st, d) => s.caddyEnd c st d (p % 64)
    | none =>
      (s.addLive c true).waitPool p { requester := engCode 5, at' := s.now, count := n, deadline := leAt b 8 8, cmd := some c }

def execAlloc (s : State) : Result := .next (alloc s)

/-- The checks of FREE before those of its handles, in order. -/
def State.freeChecks (s : State) (c : Cmd) : List Check :=
  let b := s.params c
  let n := leAt b 2 2
  [zeroParams b ([0, 1] ++ offsets 4 63), need (1 ≤ n && n ≤ 256) stStructure 0] ++
    s.checkSlot c 0 [0xA] (fun t => t.exts.length == 1 && decide (2 * n ≤ t.size)) ++ s.eccSlots c [0] []

/-- The handles a FREE names: COUNT of them, in its slot 0. -/
def State.freedHandles (s : State) (c : Cmd) : List Nat :=
  (List.range (leAt (s.params c) 2 2)).map fun i => leAt ((s.slotTensor c 0).read s.mem) (8 * i) 8

/-- FREE (R354, R356). -/
def free (s : State) : State :=
  s.withHead 5 0x02 fun s c =>
    let hs := s.freedHandles c
    match firstFail (s.freeChecks c) with
    | some (st, d) => s.caddyEnd c st d 0
    | none =>
      match s.freeCheck c.job hs with
      | some (st, d) =>
        let s1 := if st = stPoolCheck then { s with cdyCheck := s.cdyCheck + 1 } else s
        s1.caddyEnd c st d ((s.poolAt c.job (hs.getD (d / 256) 0 % 2 ^ 48)).getD 0)
      | none => (hs.foldl (fun s h => s.freeHandle (engCode 5) c.job h) s).caddyEnd c stOk 0 0

def execFree (s : State) : Result := .next (free s)

/-! ## Serving, R353 -/

/-- Address of a request record (R391). -/
def State.reqAddr (s : State) (j slot : Nat) : Nat :=
  ssramBase + field (s.st (0x170108 + 0x10 * j)) 18 0 * 4096 + slot * (64 + 8 * field (s.st (0x170100 + 0x10 * j)) 35 24)

/-- PFX_EVT bits: 0 DEADLINE, 1 REFUSED, 2 EVICT, 3 POOL, 4 KEY. -/
def State.pfxEvt (s : State) (b : Nat) : State := s.modEng 9 fun e => { e with evt := e.evt ||| BitVec.ofNat 16 (2 ^ b) }

/-- The prefix engine frees handles of a job's pool, at most 256 at a time (R354, R404): a POOL_CHECK is logged. -/
def State.pfxFree (s : State) (j : Nat) (hs : List Nat) : State :=
  (chunksOf 256 (hs.length + 1) hs).foldl (fun s part =>
    match s.freeAll (engCode 9) j part with
    | (s1, none) => s1
    | (s1, some (st, d)) => if st = stEccUncorr then s1.countUncorr else (s1.jobEvent 3 0x170 0x0020 0x02 d st j).pfxEvt 3) s

/-- R393: LOAD of tenant key k; its entries are freed or orphaned. -/
def State.keyLoad (s : State) (k : Nat) : State :=
  let w i := (tget 0 s.pfx.keyWords (4 * k + i)).toNat
  let mine := s.pfx.table.filter fun e => e.2.valid && e.2.tenant == k
  let kept := s.pfx.table.filterMap fun e =>
    if e.2.valid && e.2.tenant == k then (if e.2.refs = 0 then none else some (e.1, { e.2 with orphan := true })) else some e
  let s1 := { s with pfx := { s.pfx with
    table := kept, keyValid := tset false s.pfx.keyValid k true
    keys := tset [] s.pfx.keys k ((List.range 4).flatMap fun i => leBytes 8 (w i)) } }
  let s2 := (mine.filter fun e => e.2.refs == 0).foldl (fun s e => s.pfxFree e.2.job [e.2.handle.toNat]) s1
  s2.pfxEvt 4

/-- R393: loads that waited take effect once no command runs in the prefix engine. -/
def State.settleLoads (s : State) : State :=
  if s.live.any fun l => l.cmd.engine == 9 then s
  else s.pfx.loads.foldl State.keyLoad { s with pfx := { s.pfx with loads := [] } }

/-- R399: GROW appends the handles, raises NBLK and takes the blocks from RESV. -/
def State.growDone (s : State) (c : Cmd) (hs : List Nat) : State :=
  let a := s.reqAddr c.job (leAt (s.params c) 0 2)
  let nblk := s.mem.nat (a + 22) 2
  ((s.storeAll [(a + 64 + 8 * nblk, hs.flatMap (leBytes 8)), (a + 22, leBytes 2 (nblk + hs.length)),
    (a + 26, leBytes 2 (s.mem.nat (a + 26) 2 - hs.length))]).complete c stOk 0).settleLoads

/-- A request that has been served: ALLOC writes its output (R355), GROW its record (R399), an engine gets its handles. -/
def State.servedTo (s : State) (p : Nat) (w : Waiter) (hs : List Nat) : State :=
  match w.cmd with
  | none => s.emit (.data (hs.flatMap (leBytes 8)))
  | some c =>
    if c.engine = 9 then s.growDone c hs
    else (s.store (localOf (s.slotDesc c 7).base) (hs.flatMap (leBytes 8))).caddyEnd c stOk 0 p

/-- A request that ends without buffers. -/
def State.unserved (s : State) (p : Nat) (w : Waiter) (status detail : Nat) : State :=
  match w.cmd with
  | none => s
  | some c => if c.engine = 9 then (s.complete c status (leAt (s.params c) 0 2)).settleLoads else s.caddyEnd c status detail p

/-- The deadline of a request has passed (R94). -/
def Waiter.expired (w : Waiter) (now : Nat) : Bool := w.deadline != 0 && decide (w.deadline < now)

/-- R355: every free that reached the pool, and the request, belong to an engine cycle that is over. -/
def State.cycleOver (s : State) (p : Nat) (w : Waiter) : Bool := decide (w.cycle < s.engCycle) && (s.poolState p).freeAt != some s.engCycle

/-- ALLOC_SERVE (R353, R355): the head of a pool's queue takes its buffers once they are free; a request that has been served commits. -/
def allocServe (pool : Nat) (s : State) : State :=
  match (s.poolState pool).served with
  | x :: r => (s.modPool pool fun y => { y with served := r }).servedTo pool x.1 (s.handles pool x.2)
  | [] =>
    match (s.poolState pool).waiters with
    | [] => s
    | w :: r =>
      if w.expired s.now || decide (s.poolFree pool < w.count) || !s.cycleOver pool w then s
      else
        let s1 := s.modPool pool fun x => { x with waiters := r }
        match s1.takeBuffers w.requester pool w.count [] with
        | (s2, .ok bufs) => s2.modPool pool fun x => { x with served := [(w, bufs)] }
        | (s2, .bad k) => s2.unserved pool w stEccUncorr (k * 256 + 3)
        | (_, .short) => s

def execAllocServe (pool : Nat) (s : State) : Result :=
  if pool < 64 then .next (allocServe pool s) else noResource "pool" pool

/-- ALLOC_DEADLINE: the first request of a pool's queue whose deadline has passed ends with DEADLINE. -/
def allocDeadline (pool : Nat) (s : State) : State :=
  match (s.poolState pool).waiters.find? (·.expired s.now) with
  | none => s
  | some w => (s.modPool pool fun x => { x with waiters := x.waiters.erase w }).unserved pool w stDeadline pool

def execAllocDeadline (pool : Nat) (s : State) : Result :=
  if pool < 64 then .next (allocDeadline pool s) else noResource "pool" pool

/-- CADDY_ENGINE_REQUEST (R355): an engine frees handles, or asks for `count` buffers of a pool. -/
def caddyEngineRequest (requester pool count deadline : Nat) (handles : List (BitVec 64)) (s : State) : State :=
  let q := s.pool pool
  let s1 := if handles.isEmpty || 256 < handles.length then s else (s.freeAll requester q.job (handles.map (·.toNat))).1
  if q.en && decide (1 ≤ count) && decide (count ≤ min 256 q.count) then
    s1.waitPool pool { requester, at' := s.now, count, deadline, cmd := none }
  else s1

def execCaddyEngineRequest (requester pool count deadline : Nat) (handles : List (BitVec 64)) (s : State) : Result :=
  if pool < 64 then .next (caddyEngineRequest requester pool count deadline handles s) else noResource "pool" pool

end Sys2Proof.Machine
end

