-- ==== Sys2Proof/Machine/Fabric.lean ====
section
/-!
DEFINITION. The fabric's flits (10_fabric.md R273 to R290): receiving, forwarding and delivering a flit, link control
and retry, router errors, ports going down, and congestion reports. A slot is named by its number (R87); an operand
`slot`, `pos` of a received VC1 flit is the slot and position its sender used (R245).
-/

namespace Sys2Proof.Machine

/-! ## Scheduled positions, R237, R245, R286 -/

/-- The owner of a slot position of a port (TTAB), none for the repair slot. -/
def State.slotOwner (s : State) (p slot : Nat) : Option Nat :=
  if slot % 16 = 15 then none
  else
    let j := s.bld.cur.ttab.getD (p * 16 + slot % 16) 0xFF
    if j < 8 then some j else none

/-- R237: the positions 0 to 14 that TTAB gives a job on a port. -/
def State.omega (s : State) (p j : Nat) : List Nat := (List.range 15).filter fun i => s.slotOwner p i == some j

/-- The first slot from `slot` on whose position lies in a set; the set is not empty. -/
def slotFrom (om : List Nat) (slot : Nat) : Nat :=
  ((List.range 16).find? fun i => om.contains ((slot + i) % 16)).elim slot (slot + ·)

/-! ## Link control, Table 10-9 -/

/-- The LCTL a payload spells; a hole's slot number is known modulo 2^20. -/
def parseLctl (b : List Byte) : Lctl :=
  let a := leAt b 0 2
  let n := leAt b 2 2
  { ack := if bitOf a 15 then some (BitVec.ofNat 12 a) else none
    nak := if bitOf n 15 then some (BitVec.ofNat 12 n) else none
    freed := slice b 4 8
    holes := (List.range (min (leAt b 12 1) 16)).map fun i =>
      let w := leAt b (16 + 4 * i) 4
      (field w 26 11 * 16 + field w 3 0, field w 10 4) }

/-- Buffers freed since the last LCTL become credits, counted modulo 256 (R279, R282). -/
def Port.takeCredits (x : Port) (freed : List Byte) : Port :=
  (List.range 8).foldl (fun x v =>
    let now := freed.getD v 0
    let d := (now - tget 0 x.peerFreed v).toNat
    if v = 1 then x
    else { x with credits := tset 0 x.credits v (min (vcBuffers v) (x.credit v + d)), peerFreed := tset 0 x.peerFreed v now }) x

/-- R283: acknowledged flits leave the retry buffer. -/
def Port.takeAck (x : Port) (a : BitVec 12) : Port :=
  match x.unacked.findIdx? fun f => f.seq == a with
  | some i => { x with unacked := x.unacked.drop (i + 1) }
  | none => x

/-- R284: the holes of which the flit is still kept, oldest first. -/
def Port.takeHoles (x : Port) (holes : List (Nat × Nat)) (now : Nat) : Port :=
  let wanted := x.kept.filter fun k =>
    holes.any (fun h => h.1 % 2 ^ 20 == k.slot % 2 ^ 20 && h.2 == k.pos) && decide (now ≤ k.at' + 5120) && !x.retry.contains (k.slot, k.pos)
  { x with retry := sortBy (fun a b => decide (a.1 < b.1) || (a.1 == b.1 && decide (a.2 ≤ b.2)))
             (x.retry ++ wanted.map fun k => (k.slot, k.pos)) }

/-- What an LCTL changes at its receiver (R282 to R284): from a refused LSEQ on, the flits are sent again in order. -/
def State.takeLctl (s : State) (p : Nat) (m : Lctl) : State :=
  s.modPort p fun x =>
    let x1 := x.takeCredits m.freed
    let x2 := m.ack.elim x1 x1.takeAck
    { (x2.takeHoles m.holes s.now) with
      cntRx := x.cntRx + 1, resendAt := m.nak.elim x2.resendAt some }

/-! ## Routing -/

/-- What a device does with a flit it may carry (R275, Table 10-10). -/
inductive HopAction where
  | deliver
  | forward (h : HopEntry)
  | dead
  | misroute
  | stale
  deriving DecidableEq, Repr

/-- R275 to R277. -/
def State.hopAction (s : State) (f : Flit) : HopAction :=
  match s.versionOf f.epoch with
  | none => .stale
  | some t =>
    let k := f.hop.toNat
    if k = 0 || 8 < k then .misroute
    else if k = 8 then .deliver
    else
      let i := routeNibble f.route k
      if i = 12 then .deliver
      else if 12 < i then .misroute
      else
        let h := t.getD i {}
        if h.en && s.portUp h.phys && !s.neighbourOnly then .forward h else .dead

/-- A received arbitrated flit gives its receive buffer back. -/
def State.release (s : State) (p : Nat) (f : Flit) : State := s.modPort p fun x => x.freeBuffer f.vc.toNat

/-- R491: an alarm delivered to its own address is offered as event 0x0060. -/
def State.alarmDelivered (s : State) (f : Flit) : State :=
  let e := f.payload
  let d := leAt e 32 2 + leAt e 10 2 * 2 ^ 16 + leAt e 12 2 * 2 ^ 32
  s.offer { cls := 5, source := 0x050, event := 0x0060, aux := leAt e 8 1 % 8, detail := BitVec.ofNat 64 d
            count := leAt e 16 4 }

/-- R304: arrival order: by engine cycle, within it by physical port. -/
def InReq.before (a b : InReq) : Bool := decide (a.cycle < b.cycle) || (a.cycle == b.cycle && decide (a.port ≤ b.port))

/-- A delivered arbitrated flit: requests wait at the destination, responses at the requester; an alarm is logged;
the contents of the other types arrive by the commands of their chapters. -/
def State.deliver (s : State) (p : Nat) (f : Flit) : State :=
  if f.typ = 0x10 then
    let r : InReq := { src := f.src.toNat, port := p, vc := f.vc.toNat, req := parseReq f.payload, cycle := s.engCycle }
    { s with fab := { s.fab with ingress := insertBy InReq.before r s.fab.ingress } }
  else if f.typ = 0x11 || f.typ = 0x12 then
    let r := { parseRsp p f with at' := s.now }
    { s with fab := { s.fab with responses := s.fab.responses ++ [r] } }
  else if f.typ = 0x1C then (s.alarmDelivered f).release p f
  else s.release p f

/-- R275, R280, R289: an arbitrated flit that passed its check and its type. -/
def State.routeArb (s : State) (p : Nat) (f : Flit) : State :=
  match s.hopAction f with
  | .stale => { s.release p f with fab := { s.fab with cntStale := s.fab.cntStale + 1 } }
  | .dead => ((s.release p f).countDead).oweErr f stRouteDead
  | .misroute => ((s.release p f).countMisroute).oweErr f stRouteDead
  | .deliver =>
    if f.dst != 0xFFFF && f.dst != s.fab.fabId then ((s.release p f).countMisroute).oweErr f stRouteDead
    else s.deliver p f
  | .forward h =>
    match vcBeyond h f.vc with
    | none => (s.release p f).countMisroute
    | some v => s.queueFlit h.phys
        { flit := { f with hop := f.hop + 1, vc := v }, inPort := some p, inVc := f.vc.toNat }

/-- R283: an arbitrated flit arrives with its check passed. -/
def State.receiveArb (s : State) (p : Nat) (f : Flit) : State :=
  let x := s.port p
  if f.seq != x.rxLseq then
    -- a gap is refused, a repetition is not
    s.modPort p fun x =>
      let y := { x with arbSinceLctl := x.arbSinceLctl + 1 }
      if (f.seq - x.rxLseq).toNat < 2048 && x.nak.isNone then { y with nak := some x.rxLseq, lctlNew := true } else y
  else
    let s1 := s.modPort p fun x =>
      { (x.takeBuffer f.vc.toNat) with rxLseq := x.rxLseq + 1, ack := some f.seq, nak := none, seqFails := 0, arbSinceLctl := x.arbSinceLctl + 1 }
    if !(typeVcs f.typ.toNat).contains f.vc.toNat then (s1.release p f).countMisroute
    else if s.neighbourOnly && f.vc != 0 && f.vc != 6 && f.vc != 7 then s1.release p f
    else if f.typ = 0x02 then s1.release p f
    else s1.routeArb p f

/-- The slot and position a VC1 flit counts for: those it was sent in; for a retried flit the oldest hole at its position, and where there
is none, because the device before forwarded the retry and left its position to other traffic, the latest slot at that position (R284;
notes/assumptions/38.md). -/
def Port.vc1Place (x : Port) (f : Flit) (slot pos : Nat) : Nat × Nat :=
  if f.retry then
    let at' := f.seq.toNat / 128
    ((sortBy (fun a b => decide (a.1 ≤ b.1)) (x.holes.filter fun h => h.1 % 16 * 128 + h.2 == f.seq.toNat)).head?).getD
      (slot - (slot % 16 + 16 - at') % 16, f.seq.toNat % 128)
  else (slot, pos)

/-- R245, R286: a VC1 flit arrives with its check passed. -/
def State.receiveVc1 (s : State) (p : Nat) (f : Flit) (slot pos : Nat) : State :=
  let (sl, ps) := (s.port p).vc1Place f slot pos
  let s1 := s.modPort p fun x => { x with holes := x.holes.erase (sl, ps), holeFails := tset 0 x.holeFails (sl * 128 + ps) 0 }
  if f.typ != 0x08 then s1.countMisroute
  else if s1.neighbourOnly then s1
  else match s1.slotOwner p sl, s1.hopAction f with
    | _, .stale => { s1 with fab := { s1.fab with cntStale := s1.fab.cntStale + 1 } }
    | _, .dead => s1.countDead
    | _, .misroute => s1.countMisroute
    | none, _ => s1.countSchedDrop
    | some j, .deliver =>
      if f.dst != 0xFFFF && f.dst != s.fab.fabId then s1.countMisroute
      else { s1 with spt := { s1.spt with rx := s1.spt.rx ++ [{ src := f.src, port := p, job := j, key := sl * 128 + ps, payload := f.payload }] } }
    | some j, .forward h =>
      let out := slotFrom (s1.omega p j) (sl + 1)
      if s1.slotOwner h.phys out = some j then
        let k : KeptFlit := { slot := out, pos := ps, flit := { f with hop := f.hop + 1, retry := false, seq := 0 } }
        s1.modPort h.phys fun y => if f.retry then { y with fwdRetry := y.fwdRetry ++ [k] } else { y with fwd := y.fwd ++ [k] }
      else s1.countSchedDrop

/-- R285: a failed check: counted, and kept among the failures of the last ms. -/
def Port.checkFailed (x : Port) (now : Nat) : Port :=
  { x with cntCheck := x.cntCheck + 1, congCheck := x.congCheck + 1
           failTimes := (now :: x.failTimes.filter fun t => decide (now < t + 1000000)).take 257 }

/-- R285: a failure of a transmission of the flit of a hole. -/
def Port.holeFailed (x : Port) (slot pos : Nat) : Port :=
  let n := tget 0 x.holeFails (slot * 128 + pos) + 1
  { x with holeFails := tset 0 x.holeFails (slot * 128 + pos) n, fourFails := x.fourFails || decide (4 ≤ n) }

/-- R285: a failure of a transmission of the arbitrated flit that is awaited. -/
def Port.seqFailed (x : Port) : Port := { x with seqFails := x.seqFails + 1, fourFails := x.fourFails || decide (4 ≤ x.seqFails + 1) }

/-- R283, R284: a flit fails its check. -/
def State.failCheck (s : State) (p : Nat) (f : Flit) (slot pos : Nat) : State :=
  s.modPort p fun x =>
    let y := x.checkFailed s.boot.sincePwrOk
    if f.vc = 1 then
      let (sl, ps) := y.vc1Place f slot pos
      { y.holeFailed sl ps with holes := if y.holes.contains (sl, ps) then y.holes else y.holes ++ [(sl, ps)], lctlNew := true }
    else if f.typ = 0x00 || f.typ = 0x01 then y
    else if f.seq = y.rxLseq || y.nak.isNone then
      { y.seqFailed with nak := some (y.nak.getD y.rxLseq), lctlNew := true, arbSinceLctl := y.arbSinceLctl + 1 }
    else { y with arbSinceLctl := y.arbSinceLctl + 1 }

/-- The mean path delay of a port in 2^-16 ns: that of its last exchange, else half the sum of the cable's delays and the fused latencies
of both ends (R78; notes/assumptions/38.md). -/
def Port.pathDelay (x : Port) : Nat := if x.meanDelay = 0 then (x.delayOut + x.delayIn + x.fusedDelay) / 2 else x.meanDelay

/-- R245: the slot in which the flit that arrives now was sent, found from the arrival instant less one flit time and the port's mean path
delay: the slot whose position `pos` begins nearest to that instant (notes/assumptions/38.md). -/
def State.sentSlot (s : State) (p pos : Nat) : Nat :=
  (100 * s.now + 8000 - 128 * (pos + 1) - (s.port p).pathDelay * 100 / 65536) / 16000

/-- FLIT_RECEIVE (R271, R273 to R277, R280, R283 to R286, R289, R491): `fecOk` says that its FEC decoded, with `fec` codewords corrected;
`count` numbers its position among those the peer has sent since step 6, `pos` is its position in the sender's slot. -/
def flitReceive (p : Nat) (f : Flit) (fecOk : Bool) (fec count pos : Nat) (s : State) : State :=
  if !s.portUp p then s
  else
    let s0 := s.modPort p fun x => { x with cntFec := x.cntFec + fec, rxPos := max x.rxPos (count + 1) }
    if !(fecOk && (s.port p).verifies f count) then s0.failCheck p f (s.sentSlot p pos) pos
    else
      let s1 := s0.modPort p fun x => { x with lastGood := s.boot.sincePwrOk }
      if f.typ.toNat ≤ 1 && f.vc != 0 then s1.countMisroute
      else if f.typ = 0x00 then s1
      else if f.typ = 0x01 then s1.takeLctl p (parseLctl f.payload)
      else
        let s2 := s1.modPort p fun x => { x with cntRx := x.cntRx + 1 }
        if f.vc = 1 then s2.receiveVc1 p f (s.sentSlot p pos) pos else s2.receiveArb p f

def execFlitReceive (port : Nat) (flit : Flit) (fecOk : Bool) (fec count pos : Nat) (s : State) : Result :=
  if port < 12 then .next (flitReceive port flit fecOk fec count pos s) else noResource "port" port

/-! ## Router errors -/

/-- The flow key of a request or of what answers it: ADDR[63:12] (R303). -/
def flowKey (addr : Nat) : Nat := addr / 4096 % 2 ^ 52

/-- ERR_RSP_SEND (R289): on VC4, by the path table of this device, from 8 ns after the fault; an own request is answered here. -/
def errRspSend (s : State) : State :=
  match s.fab.errRsps with
  | [] => s
  | e :: rest =>
    if s.boot.sincePwrOk < e.foundAt + 8 then s else
    let s1 := { s with fab := { s.fab with errRsps := rest } }
    let body := leBytes 1 e.status ++ padTo 32 e.head
    if e.dst = s.devId then
      let r : InRsp := { err := true, status := e.status, op := leAt e.head 0 1, tag := leAt e.head 6 2 }
      { s1 with fab := { s1.fab with responses := s1.fab.responses ++ [{ r with port := 12, at' := s1.now }] } }
    else if (s1.chooseRoute e.dst 4 (flowKey (leAt e.head 8 8))).isNone then
      { s1 with fab := { s1.fab with cntErrNoPath := s1.fab.cntErrNoPath + 1 } }
    else (s1.inject 4 0x12 e.dst (flowKey (leAt e.head 8 8)) body).getD s1.countDead

def execErrRspSend (s : State) : Result := .next (errRspSend s)

/-! ## Link control and retry -/

/-- LCTL_SEND (R90, R282): an LCTL that is due takes the position. -/
def lctlSend (p : Nat) (s : State) : State :=
  if s.positionOpen p && s.lctlDue p && s.withinLimit p 0 then s.sendLctl p else s

def execLctlSend (port : Nat) (s : State) : Result :=
  if port < 12 then .next (lctlSend port s) else noResource "port" port

/-- LCTL_RECEIVE (R282 to R284): an LCTL that passed its check. -/
def lctlReceive (p : Nat) (m : Lctl) (s : State) : State :=
  if s.portUp p then (s.modPort p fun x => { x with lastGood := s.boot.sincePwrOk }).takeLctl p m else s

def execLctlReceive (port : Nat) (msg : Lctl) (s : State) : Result :=
  if port < 12 then .next (lctlReceive port msg s) else noResource "port" port

/-- Keeps a VC1 flit for 5,120 ns from its latest transmission (R284). -/
def Port.keep (x : Port) (k : KeptFlit) (now : Nat) : Port :=
  { x with kept := (x.kept.filter fun o => decide (now ≤ o.at' + 5120) && !(o.slot == k.slot && o.pos == k.pos)) ++ [{ k with at' := now }] }

/-- The retries a port has to send, its own and those it forwards once their original position has passed, oldest first by original slot
and position. -/
def Port.retries (x : Port) (now : Nat) : List KeptFlit :=
  let own := x.kept.filter fun k => x.retry.contains (k.slot, k.pos) && decide (now ≤ k.at' + 5120)
  let passed := x.fwdRetry.filter fun k => decide (k.slot < now / slotLen)
  sortBy (fun a b => decide (a.slot < b.slot) || (a.slot == b.slot && decide (a.pos ≤ b.pos))) (own ++ passed)

/-- R90, R284: the oldest retry leaves with RETRY 1 and SEQ its position. -/
def State.sendRetry (s : State) (p : Nat) : State :=
  match (s.port p).retries s.now with
  | [] => s
  | k :: _ =>
    let f := { k.flit with retry := true, seq := BitVec.ofNat 12 (k.slot % 16 * 128 + k.pos) }
    ((s.takePosition p 1).modPort p fun x =>
      { (x.keep k s.now) with
        retry := x.retry.filter fun r => !(r.1 == k.slot && r.2 == k.pos)
        fwdRetry := x.fwdRetry.filter fun r => !(r.slot == k.slot && r.pos == k.pos)
        cntTx := x.cntTx + 1, cntRetrySched := x.cntRetrySched + 1, congRetry := x.congRetry + 1 }).emit (s.flitOut p f)

/-- A retry waits on a port that may send it. -/
def State.retryWaits (s : State) (p : Nat) : Bool := s.schedOk && !s.neighbourOnly && !((s.port p).retries s.now).isEmpty

/-- VC1_RETRY_SEND (R90, R91, R284): the oldest retry leaves in a position of the repair slot that orders 1 and 2 of Table 3-2 leave. -/
def vc1RetrySend (p slot pos : Nat) (s : State) : State :=
  if s.positionOpen p && s.nextSource p (s.retryWaits p) = some .vc1Retry &&
      (((s.port p).retries s.now).head?).any fun k => k.slot == slot && k.pos == pos then s.sendRetry p
  else s

def execVc1RetrySend (port slot pos : Nat) (s : State) : Result :=
  if port < 12 then .next (vc1RetrySend port slot pos s) else noResource "port" port

/-! ## Ports going down, congestion -/

/-- R285: a condition holds, the six in the rule's order; the first, R268's loss of lock, is what the PMD reports. -/
def State.downCond (s : State) (p cond : Nat) : Bool :=
  let x := s.port p
  match cond with
  | 1 => true
  | 2 => x.fourFails
  | 3 => decide (256 < x.failTimes.length)
  | 4 => decide (x.lastGood + 10000 ≤ s.boot.sincePwrOk)
  | 5 => !s.portSeated p
  | 6 => tget false s.pwr.cableOff (p / 3)
  | _ => false

/-- PORT_DOWN (R285). -/
def portGoesDown (p cond : Nat) (s : State) : State :=
  if s.portUp p && s.downCond p cond then
    if cond = 5 then (s.portDown p 5 0 0).advance78
    else if cond = 6 then (s.portDown p 6 6 0).advance78
    else s.portDown p cond 1 1
  else s

def execPortDown (port cond : Nat) (s : State) : Result :=
  if port < 12 then .next (portGoesDown port cond s) else noResource "port" port

/-- The part of a CONG flit of one port (Table 10-11). -/
def Port.congBytes (x : Port) : List Byte :=
  leBytes 4 x.congWait ++ leBytes 4 x.congArb ++ leBytes 2 x.congRetry ++ leBytes 2 x.congCheck ++
  ([2, 3, 4, 5, 6, 7].flatMap fun v => leBytes 1 (tget 0 x.peak v))

/-- The counters of a report restart. -/
def Port.congRestart (x : Port) : Port :=
  { x with congWait := 0, congArb := 0, congRetry := 0, congCheck := 0, peak := x.occ }

/-- CONG_REPORT_SEND (R290): at the end of a period the one CONG flit leaves on VC6, or is dropped for want of credit. -/
def congReportSend (s : State) : State :=
  let fm := field (s.st 0x2F0010) 15 0
  let per := field (s.st 0x2F0010) 31 16
  if per != 0 && s.counting && s.now % (per * frameLen) = 0 && s.fab.congAt != some s.now then
    let body := leBytes 8 (s.now / frameLen) ++ leBytes 4 s.fab.congSeq ++ leBytes 4 per ++
      allPorts.flatMap fun p => (s.port p).congBytes
    let s1 := { s with fab := { s.fab with congSeq := s.fab.congSeq + 1, congAt := some s.now } }
    let s2 := allPorts.foldl (fun t p => t.modPort p Port.congRestart) s1
    let drop := { s2 with fab := { s2.fab with cntCongDrop := s2.fab.cntCongDrop + 1 } }
    match s.chooseRoute fm 6 0 with
    | none => drop
    | some r =>
      match s.firstHop r with
      | none => drop
      | some h => if (s.port h.phys).credit 6 = 0 then drop else (s2.inject 6 0x19 fm 0 body).getD drop
  else s

def execCongReportSend (s : State) : Result := .next (congReportSend s)

end Sys2Proof.Machine
end

