-- ==== Sys2Proof/Machine/Sched.lean ====
section
/-!
DEFINITION. Scheduled traffic (03_hall_time.md R87 to R89; 09_spout.md R233 to R237, R244 to R248): route plans, owned
slots, the timetable rule, streams, and the flits that leave and are forwarded in their positions.
-/

namespace Sys2Proof.Machine

/-! ## Groups and plans, R233 to R237 -/

def Plan.d (p : Plan) : Nat := p.dM1 + 1
def Plan.two (p : Plan) : Bool := p.level == 1
/-- Groups of a two-level plan. -/
def Plan.g (p : Plan) : Nat := p.d / 64
/-- Phases of a stage. -/
def Plan.nPhases (p : Plan) (stage : Nat) : Nat := if stage = 2 then (if p.two then p.g - 1 else 0) else if p.two then 63 else p.d - 1
/-- Phases of a stage in order. -/
def Plan.phaseList (p : Plan) (stage : Nat) : List Nat := (List.range (p.nPhases stage)).map (· + 1)

/-- The member that member m sends to in a phase (R233). -/
def Plan.dst (p : Plan) (m stage ph : Nat) : Nat :=
  if stage = 2 then 64 * ((m / 64 + ph) % p.g) + m % 64
  else if p.two then m / 64 * 64 + (m % 64 + ph) % 64
  else (m + ph) % p.d

/-- The member that sends to member m in a phase. -/
def Plan.src (p : Plan) (m stage ph : Nat) : Nat :=
  if stage = 2 then 64 * ((m / 64 + p.g - ph) % p.g) + m % 64
  else if p.two then m / 64 * 64 + (m % 64 + 64 - ph) % 64
  else (m + p.d - ph) % p.d

/-- The phase entry of a phase. -/
def Plan.entry (p : Plan) (stage ph : Nat) : PlanPhase := p.phases.getD ((if stage = 2 then 63 else 0) + ph - 1) {}

/-- R236: the phase whose routes the reverse shift of a phase uses. -/
def Plan.reverse (p : Plan) (stage ph : Nat) : Nat := if stage = 2 then p.g - ph else if p.two then 64 - ph else p.d - ph

/-- Lanes of a phase entry. -/
def PlanPhase.laneList (e : PlanPhase) : List Nat := bitsSet 12 e.lanes.toNat

/-- R233, R234: the plan keeps its rules. -/
def Plan.ok (p : Plan) : Bool :=
  (if p.two then 128 ≤ p.d && p.d ≤ 4096 && p.d % 64 == 0 else p.level == 0 && 2 ≤ p.d && p.d ≤ 64) &&
  1 ≤ p.hmax && p.hmax ≤ 8 && p.members.length == p.d && p.members.eraseDups.length == p.d && !p.members.contains 0xFFFF &&
  p.phases.length == p.nPhases 1 + p.nPhases 2 &&
  p.phases.all fun e => e.laneList.all fun l => routeNibble (e.routes.getD l 0) 0 == l

/-- Plan p of the blend in force. -/
def State.plan (s : State) (p : Nat) : Option Plan := tfind s.bld.cur.plans p

/-- The member index of a device. -/
def Plan.member (p : Plan) (dev : Nat) : Option Nat := p.members.findIdx? (· == dev)

/-- The physical port of a port index. -/
def State.lanePort (s : State) (l : Nat) : Nat := ((s.hopTable s.bld.epoch).getD l {}).phys

/-- The port index is in use and its port is up. -/
def State.laneUp (s : State) (l : Nat) : Bool :=
  ((s.hopTable s.bld.epoch).getD l {}).en && s.portUp (s.lanePort l)

/-- R237: the owned set of a job over the ports of a plan's lanes; empty when it differs among them. -/
def State.planOmega (s : State) (p : Plan) (j : Nat) : List Nat :=
  let ports := ((p.phases.flatMap PlanPhase.laneList).eraseDups).map s.lanePort
  match ports with
  | [] => []
  | x :: xs => if xs.all fun y => s.omega y j == s.omega x j then s.omega x j else []

/-- The lowest port index of a plan's lanes. -/
def Plan.lowLane (p : Plan) : Nat := ((p.phases.flatMap PlanPhase.laneList).min?).getD 0

/-- R83: a command that uses scheduled slots fails while the device is out of tolerance; DETAIL is the lowest port index of its plan. -/
def State.toleranceCheck (s : State) (pl : Plan) : Check := need (s.ht.state != .outOfTolerance) stRouteDead pl.lowLane

/-! ## Owned slots, R244 -/

/-- The first owned slot at or after a tick. -/
def firstOwned (om : List Nat) (t : Nat) : Nat := slotFrom om (ceilDiv t slotLen)

/-- Owned slot k from an owned slot s0. -/
def ownedSlot (om : List Nat) (s0 k : Nat) : Nat :=
  let i := (om.findIdx? (· == s0 % 16)).getD 0 + k
  let n := max 1 om.length
  (s0 / 16 + i / n) * 16 + om.getD (i % n) 0

/-- R244: slot and flit position of a lane position. -/
def lanePlace (om : List Nat) (s0 u : Nat) : Nat × Nat := (ownedSlot om s0 (u / 121), u % 121)

/-- R88: the tick in which a flit position begins. -/
def positionTick (slot pos : Nat) : Nat := slot * slotLen + 128 * pos / 100

/-! ## Timetables, R246, R247 -/

/-- A timetabled phase: lane and start position. -/
structure Placed where
  phase : Nat
  lane : Nat
  start : Nat
  deriving DecidableEq, Repr

/-- The lane with the least position free among those allowed, ties to the lowest. -/
def leastLane (free : List Nat) (allowed : List Nat) : Option Nat :=
  allowed.foldl (fun b l =>
    match b with
    | none => some l
    | some m => if free.getD l 0 < free.getD m 0 then some l else some m) none

/-- R246: places phases (phase, length, lanes allowed); none when a phase with length has no lane. The second result is
the number of lane positions used. -/
def timetable (phases : List (Nat × Nat × List Nat)) : Option (List Placed × Nat) :=
  let order := sortBy (fun (a b : Nat × Nat × List Nat) => decide (b.2.1 < a.2.1) || (a.2.1 == b.2.1 && decide (a.1 ≤ b.1)))
    (phases.filter fun x => x.2.1 != 0)
  let step (acc : Option (List Placed × List Nat)) (x : Nat × Nat × List Nat) : Option (List Placed × List Nat) :=
    match acc with
    | none => none
    | some (ps, free) =>
      match leastLane free x.2.2 with
      | none => none
      | some l => some (ps ++ [⟨x.1, l, free.getD l 0⟩], free.set l (free.getD l 0 + x.2.1))
  (order.foldl step (some ([], List.replicate 12 0))).map fun r => (r.1, r.2.foldl max 0)

/-- R247: the END of a part from its base slot and the number of positions used. -/
def partEnd (om : List Nat) (s0 used hmax : Nat) : Nat :=
  if used = 0 then s0 * slotLen else ownedSlot om s0 ((used - 1) / 121 + hmax + 1) * slotLen

/-! ## Streams, R248 -/

/-- A stream's header payload (Table 9-6). -/
def streamHeader (count seq tag src dst kind stage phase crc : Nat) (rest : List Byte) : List Byte :=
  padTo 240 (leBytes 4 count ++ leBytes 4 seq ++ leBytes 4 tag ++ leBytes 2 src ++ leBytes 2 dst ++ leBytes 1 kind ++
    leBytes 1 stage ++ leBytes 2 phase ++ leBytes 4 crc ++ rest)

/-- A count stream of `n` flits: its header flit and continuation flits (R242). -/
def countFlits (seq tag src dst kind stage phase n : Nat) (payload : List Byte) : List (List Byte) :=
  streamHeader payload.length seq tag src dst kind stage phase 0 (payload.take 216) ::
    (List.range (n - 1)).map fun i => slice payload (216 + 240 * i) 240

/-- Record bytes as the flits of their stream. -/
def recordFlits (seq tag src dst kind stage phase count : Nat) (recs : List (List Byte)) : List (List Byte) :=
  let bs := recs.flatten
  streamHeader count seq tag src dst kind stage phase (if count = 0 then 0 else crc32c bs) [] ::
    chunksOf 240 (bs.length + 1) bs

/-- Adds streams to those waiting for their positions. -/
def State.addStreams (s : State) (os : List OutStream) : State := { s with spt := { s.spt with outs := s.spt.outs ++ os } }

/-- The longest run of flits whose places follow one another in owned slots. -/
def contiguous (om : List Nat) : List RxFlit → List RxFlit
  | [] => []
  | [a] => [a]
  | a :: b :: r =>
    let next := if a.key % 128 < 120 then a.key + 1 else slotFrom om (a.key / 128 + 1) * 128
    if b.key = next then a :: contiguous om (b :: r) else [a]

/-- The flits of a stream that came from a device, sent from slot `since` to before slot `upTo`, in the order in which they were
sent, as far as none is missing; empty until the header, sent at flit position `pos`, has come. -/
def State.streamFrom (s : State) (job src since upTo pos : Nat) (om : List Nat) : List RxFlit :=
  let fs := sortBy (fun a b => decide (a.key ≤ b.key))
    (s.spt.rx.filter fun r => r.job == job && r.src.toNat == src && decide (since * 128 ≤ r.key) && decide (r.key < upTo * 128))
  match fs with
  | [] => []
  | h :: _ => if h.key % 128 = pos then contiguous om fs else []

/-- Takes those flits away. -/
def State.takeStream (s : State) (fs : List RxFlit) : State :=
  { s with spt := { s.spt with rx := s.spt.rx.filter fun r => !fs.contains r } }

/-- Own flits of a context are all sent. -/
def State.allSent (s : State) (engine ctx : Nat) : Bool := s.spt.outs.all fun o => !(o.engine == engine && o.ctx == ctx)

/-- Streams of a context are withdrawn. -/
def State.dropStreams (s : State) (engine ctx : Nat) : State :=
  { s with spt := { s.spt with outs := s.spt.outs.filter fun o => !(o.engine == engine && o.ctx == ctx) } }

/-- R254: no flit of a job waits to be forwarded. -/
def State.allForwarded (s : State) (j : Nat) : Bool :=
  allPorts.all fun p => ((s.port p).fwd ++ (s.port p).fwdRetry).all fun k => s.slotOwner p k.slot != some j

/-! ## Flits in their positions -/

/-- R382: a STREAM of the Infuser ends. -/
def State.infuserEnd (s : State) (o : OutStream) (status detail : Nat) : State :=
  match s.inf.streams.find? fun x => x.cmd.key == o.ctx && o.engine == 6 with
  | some x => State.complete { s with inf := { s.inf with streams := s.inf.streams.filter (· != x) } } x.cmd status detail
  | none => s

/-- First status of a context or collective whose stream cannot start (Table 9-8): ROUTE_DEAD, DETAIL the port index. -/
def State.streamDead (s : State) (o : OutStream) : State :=
  if o.engine = 3 then
    { s with spt := { s.spt with ctx := tmod {} s.spt.ctx o.ctx fun x =>
      if x.status = 0 then { x with status := stRouteDead, detail := o.lane } else x } }
  else if o.engine = 8 then
    { s with col := { s.col with run := s.col.run.map fun r =>
      if r.status = 0 then { r with status := stRouteDead, detail := o.lane } else r } }
  else s.infuserEnd o stRouteDead o.lane

/-- The stream whose next flit goes at a place of a port. -/
def State.streamAt (s : State) (p slot pos : Nat) : Option Nat :=
  s.spt.outs.findIdx? fun o =>
    s.lanePort o.lane == p && lanePlace (s.omega p o.job) o.base (o.start + o.next) == (slot, pos)

/-- A scheduled flit leaves in its position: kept for retry, counted, emitted. -/
def State.sendSched (s : State) (p : Nat) (k : KeptFlit) : State :=
  let s1 := (s.takePosition p 1).modPort p fun x => { (x.keep k s.now) with cntTx := x.cntTx + 1 }
  State.emit { s1 with spt := { s1.spt with cntFlits := s1.spt.cntFlits + 1 } } (s.flitOut p k.flit)

/-- Replaces or removes a stream after its flit. -/
def State.streamNext (s : State) (i : Nat) (o : OutStream) (whole : Bool) : State :=
  { s with spt := { s.spt with outs :=
    if whole || o.next + 1 == o.flits.length then s.spt.outs.eraseIdx i else s.spt.outs.set i { o with next := o.next + 1 } } }

/-- R382: the source bytes of the next flit of a STREAM, a data flit, as base and length. -/
def OutStream.source (o : OutStream) : Option (Nat × Nat) :=
  if o.next = 0 then none else o.src.map fun r => (r.1 + 240 * (o.next - 1), min 240 (r.2 - 240 * (o.next - 1)))

/-- The payload of the next flit of a stream: as it was built, or read as it leaves (R382). -/
def State.nextPayload (s : State) (o : OutStream) : List Byte :=
  match o.source with
  | some r => padTo 240 (s.mem.bytes r.1 r.2)
  | none => o.flits.getD o.next []

/-- SCHED_FLIT_SEND (R244): the flit of a stream whose position begins now. A stream whose first-hop port is down at
its start is not sent; a flit that finds the port down later is lost, and ends a STREAM. A STREAM whose next bytes hold an uncorrectable
line ends (R473). -/
def schedFlitSend (p slot pos : Nat) (s : State) : State :=
  if s.now = positionTick slot pos && s.counting && s.positionFree p then
    match s.streamAt p slot pos with
    | none => s
    | some i =>
      match s.spt.outs[i]? with
      | none => s
      | some o =>
        if o.source.any fun r => s.hasBad r.1 r.2 then (s.streamNext i o true).infuserEnd o stEccUncorr 0
        else if s.laneUp o.lane && s.schedOk && !s.neighbourOnly then
          let s1 := (s.streamNext i o false).sendSched p { slot, pos, flit :=
            { vc := 1, epoch := s.bld.epoch, hop := 1, route := o.route, src := s.fab.fabId, dst := o.dst, typ := 0x08
              payload := s.nextPayload o } }
          if o.next + 1 = o.flits.length then s1.infuserEnd o stOk 0 else s1
        else if o.next = 0 || o.engine = 6 then (s.streamNext i o true).streamDead o
        else s.streamNext i o false
  else s

def execSchedFlitSend (port slot pos : Nat) (s : State) : Result :=
  if port < 12 then .next (schedFlitSend port slot pos s) else noResource "port" port

/-- SCHED_FLIT_FORWARD (R245): the same position of the next owned slot. -/
def schedFlitForward (p slot pos : Nat) (s : State) : State :=
  if s.now = positionTick slot pos && s.positionOpen p && s.schedOk && !s.neighbourOnly then
    match (s.port p).fwd.find? fun k => k.slot == slot && k.pos == pos with
    | none => s
    | some k => (s.modPort p fun x => { x with fwd := x.fwd.erase k }).sendSched p k
  else s

def execSchedFlitForward (port slot pos : Nat) (s : State) : Result :=
  if port < 12 then .next (schedFlitForward port slot pos s) else noResource "port" port

end Sys2Proof.Machine
end

