-- ==== Sys2Proof/Machine/Strainer.lean ====
section
/-!
DEFINITION. Strainer (08_strainer.md R205 to R232): the Expert Directory and its commands, and SELECT.
-/

namespace Sys2Proof.Machine

/-! ## The Expert Directory, Table 8-1 -/

/-- A directory entry's field. -/
def dirField (e : BitVec 256) (hi lo : Nat) : Nat := field e.toNat hi lo

def dirValid (e : BitVec 256) : Bool := e.getLsbD 42
def dirShared (e : BitVec 256) : Bool := e.getLsbD 43
def dirPrivate (e : BitVec 256) : Bool := e.getLsbD 44
def dirHomes (e : BitVec 256) : Nat := dirField e 46 45 + 1
/-- Home k: device ID and address in 64 KiB units. -/
def dirHome (e : BitVec 256) (k : Nat) : Nat × Nat := (dirField e (40 * k + 111) (40 * k + 96), dirField e (40 * k + 135) (40 * k + 112))
/-- R214: the entry serves a layer. -/
def dirServes (e : BitVec 256) (layer : Nat) : Bool := dirValid e && dirField e 23 16 ≤ layer && layer ≤ dirField e 31 24

/-- A directory entry. -/
def State.dirEntry (s : State) (i : Nat) : BitVec 256 := tget 0 s.str.dir i

/-- R205, R208: the job's directory range, of entries the SRAM has. -/
def State.dirRange (s : State) (j : Nat) : Nat × Nat :=
  let w := s.st (0x100100 + 8 * j)
  if bitOf w 33 then (field w 15 0, min (field w 32 16) (65536 - field w 15 0)) else (0, 0)

/-- The first entry of a window outside the job's range. -/
def State.dirOutside (s : State) (j base n : Nat) : Check :=
  let r := s.dirRange j
  ((List.range n).find? fun i => !(r.1 ≤ base + i && base + i < r.1 + r.2)).map fun i => (stBounds, base + i)

/-- R210: an entry that DIR_WRITE accepts. -/
def dirEntryOk (e : BitVec 256) : Bool :=
  if !dirValid e then dirField e 255 16 == 0
  else
    let bias := decodeElem 0x1 (dirField e 95 80)
    dirField e 47 47 == 0 && dirField e 23 16 ≤ dirField e 31 24 && (match bias with | .fin _ _ _ => true | _ => false) &&
    (List.range 4).all fun k =>
      if k < dirHomes e then (dirHome e k).1 != 0xFFFF && (dirHome e k).2 < 0x600000 else dirHome e k == (0, 0)

/-- DIR_BASE and E of a directory command. -/
def dirWindow (p : List Byte) : Nat × Nat := (leAt p 0 2, leAt p 2 2 + 1)

/-- The checks of a list that end with a status, in their order. -/
def byStatus (cs : List Check) (st : Nat) : List Check := cs.filter fun ck => match ck with | some (x, _) => x == st | none => false

/-- R473: the first of a window's entries that holds an uncorrectable error. -/
def State.dirBad (s : State) (base n : Nat) : Check :=
  ((List.range n).find? fun i => s.str.badDir.contains (base + i)).map fun i => (stEccUncorr, base + i)

/-- The checks the three directory commands share, in the order of Table 8-9; `entries` are those of R210 and R211, and `reads` says
that the command reads the entries. -/
def State.dirChecks (s : State) (c : Cmd) (fmt : Nat) (shape : Tensor → Bool) (write reads : Bool) (entries : List Check) : List Check :=
  let p := s.params c
  let (b, n) := dirWindow p
  let slot := s.checkSlot c 0 [fmt] shape
  [zeroParams p (offsets 4 63)] ++ [need (n ≤ 65535) stStructure 0] ++
  byStatus slot stStructure ++ ((List.range 7).map fun i => need (s.slotZero c (i + 1)) stStructure (i + 1)) ++ byStatus slot stAlign ++
  entries ++ [s.dirOutside c.job b n] ++ byStatus slot stBounds ++ (if reads then [s.dirBad b n] else []) ++
  (if write then s.eccSlots c [] [0] else s.eccSlots c [0] [])

/-- Table 8-2: slot 0 of DIR_WRITE and DIR_READ. -/
def dirShape (n : Nat) (t : Tensor) : Bool := t.exts == [8 * n] || t.exts == [8, n]

/-- The end of a Strainer command, with its event bit. -/
def State.strEnd (s : State) (c : Cmd) (status detail : Nat) : State :=
  (if status = 0 then s else s.modEng 2 fun e => { e with evt := e.evt ||| 8 }).complete c status detail

/-- Ends a Strainer command with its first failure, or goes on. -/
def State.strFail (s : State) (c : Cmd) (checks : List Check) (body : State → State) : State :=
  match firstFail checks with
  | some (st, d) => s.strEnd c st d
  | none => body s

/-- The entries slot 0 carries. -/
def State.dirSource (s : State) (c : Cmd) (n : Nat) : List (BitVec 256) :=
  let bs := (s.slotTensor c 0).read s.mem
  (List.range n).map fun i => BitVec.ofNat 256 (leAt bs (32 * i) 32)

/-- Writes entries from an index on, each whole (R473). -/
def State.setDir (s : State) (b : Nat) (es : List (BitVec 256)) : State :=
  { s with str := { s.str with
    badDir := s.str.badDir.filter fun i => !(b ≤ i && i < b + es.length)
    dir := (es.zip (List.range es.length)).foldl (fun d x => tset 0 d (b + x.2) x.1) s.str.dir } }

/-- The checks of DIR_WRITE, in order. -/
def State.dirWriteChecks (s : State) (c : Cmd) : List Check :=
  let (b, n) := dirWindow (s.params c)
  let es := s.dirSource c n
  s.dirChecks c 0xA (dirShape n) false false
    [(es.findIdx? fun e => !dirEntryOk e).map fun i => (stStructure, b + i)]

/-- DIR_WRITE (R209, R210). -/
def dirWrite (s : State) : State :=
  s.withHead 2 0x02 fun s c =>
    let (b, n) := dirWindow (s.params c)
    let es := s.dirSource c n
    s.strFail c (s.dirWriteChecks c) fun s =>
      (s.setDir b es).strEnd c stOk 0

def execDirWrite (s : State) : Result := .next (dirWrite s)

/-- DIR_READ. -/
def dirRead (s : State) : State :=
  s.withHead 2 0x03 fun s c =>
    let (b, n) := dirWindow (s.params c)
    s.strFail c (s.dirChecks c 0xA (dirShape n) true true []) fun s =>
      let bs := (List.range n).flatMap fun i => leBytes 32 (s.dirEntry (b + i)).toNat
      (s.storeAll ((s.slotTensor c 0).place bs)).strEnd c stOk 0

def execDirRead (s : State) : Result := .next (dirRead s)

/-- R211: one bias raised by a delta. -/
def biasPlus (e : BitVec 256) (d : FVal) : BitVec 256 :=
  if !dirValid e then e
  else
    let r := encodeElem 0x1 .rne ((decodeElem 0x1 (dirField e 95 80)).add d)
    -- beyond the finite range: the largest finite value of its sign
    let r := if field r 14 7 = 255 then field r 15 15 * 0x8000 + 0x7F7F else r
    BitVec.ofNat 256 (e.toNat - dirField e 95 80 * 2 ^ 80 + r * 2 ^ 80)

/-- The checks of DIR_BIAS, in order. -/
def State.dirBiasChecks (s : State) (c : Cmd) : List Check :=
  let (b, n) := dirWindow (s.params c)
  let ds := (s.slotTensor c 0).vals s.mem
  s.dirChecks c 0x0 (fun t => t.exts == [n]) false true
    [(ds.findIdx? fun d => match d with | .fin _ _ _ => false | _ => true).map fun i => (stStructure, b + i)]

/-- DIR_BIAS (R209, R211). -/
def dirBias (s : State) : State :=
  s.withHead 2 0x04 fun s c =>
    let (b, n) := dirWindow (s.params c)
    let ds := (s.slotTensor c 0).vals s.mem
    s.strFail c (s.dirBiasChecks c) fun s =>
      (s.setDir b ((ds.zip (List.range n)).map fun (d, i) => biasPlus (s.dirEntry (b + i)) d)).strEnd c stOk 0

def execDirBias (s : State) : Result := .next (dirBias s)

/-! ## SELECT, R212 to R231 -/

/-- The parameter block of SELECT (Table 8-4). -/
structure SelParams where
  base : Nat
  e : Nat
  layer : Nat
  k : Nat
  sigmoid : Bool
  scope : Bool
  norm : Bool
  twoLevel : Bool
  gsum : Bool
  screen : Bool
  groupK : Nat
  t : Nat
  capLimit : Nat
  scale : FVal
  sharedW : Nat
  stride : Nat
  tokenBase : Nat
  variant : Nat
  deriving DecidableEq, Repr

def selParams (p : List Byte) : SelParams :=
  let f := leAt p 6 1
  { base := leAt p 0 2, e := leAt p 2 2 + 1, layer := leAt p 4 1, k := leAt p 5 1, sigmoid := bitOf f 0, scope := bitOf f 1
    norm := bitOf f 2, twoLevel := bitOf f 3, gsum := bitOf f 4, screen := bitOf f 5, groupK := leAt p 7 1, t := leAt p 8 2 + 1
    capLimit := leAt p 10 2, scale := decodeElem 0x0 (leAt p 12 4), sharedW := leAt p 16 4, stride := leAt p 20 4
    tokenBase := leAt p 24 8, variant := leAt p 32 2 }

/-- The window's entries. -/
def State.dirWindowOf (s : State) (p : SelParams) : List (BitVec 256) := (List.range p.e).map fun i => s.dirEntry (p.base + i)

/-- R214: an entry is eligible for a variant tag. -/
def dirEligible (e : BitVec 256) (layer tag : Nat) : Bool :=
  dirServes e layer && (!dirPrivate e || dirField e 79 64 == tag)

/-- R218: a ranks above b: a higher score, or an equal one with the lower index. -/
def rankLe (a b : FVal × Nat) : Bool := b.1.lt a.1 || (!a.1.lt b.1 && decide (a.2 ≤ b.2))

/-- Items in ranking order. -/
def ranked (l : List (FVal × Nat)) : List (FVal × Nat) := sortBy rankLe l

/-- R216: softmax of a list of logits. -/
def softmax (xs : List FVal) : List FVal :=
  let m := xs.foldl (fun a x => if a.lt x then x else a) (.inf true)
  match m with
  | .inf true => xs.map fun _ => fZero
  | _ =>
    let us := match m with
      | .inf _ => xs.map fun x => if x == .inf false then FVal.ofInt 1 else fZero
      | m => xs.map fun x => toFp32 (toFp32 (x.add m.neg)).expNat
    let sum := toFp32 (exactSum us)
    us.map fun u => toFp32 (u.div sum)

/-- R216: sigmoid. -/
def sigmoid (x : FVal) : FVal :=
  match x with
  | .inf n => if n then fZero else FVal.ofInt 1
  | x => toFp32 ((FVal.ofInt 1).div ((FVal.ofInt 1).add x.neg.expNat))

/-- What one token selects: its routed choices in rank order (window index, weight), and its shared assignments. -/
structure TokenSel where
  routed : List (Nat × Nat)
  shared : List Nat
  deriving DecidableEq, Repr

/-- R217: the score of a group from its members' selection scores. -/
def groupScore (gsum : Bool) (sels : List FVal) : FVal :=
  let r := ranked (sels.map fun x => (x, 0))
  match r with
  | [] => .inf true
  | [a] => a.1
  | a :: b :: _ => if gsum then toFp32 (a.1.add b.1) else a.1

/-- R217: the groups ranked, in ascending GROUP. -/
def groupsOf (es : List (BitVec 256)) (layer : Nat) : List Nat :=
  sortBy (fun a b => decide (a ≤ b)) ((es.filter fun e => dirServes e layer && !dirShared e).map fun e => dirField e 41 32).eraseDups

/-- R216 to R220: one token, from its logits by window index and its variant tag. -/
def selectToken (p : SelParams) (es : List (BitVec 256)) (groups : List Nat) (logits : List FVal) (tag : Nat) : TokenSel :=
  let el := (List.range p.e).filter fun e => dirEligible (es.getD e 0) p.layer tag
  let shared := el.filter fun e => dirShared (es.getD e 0)
  let cand := el.filter fun e => !dirShared (es.getD e 0)
  let x e := match logits.getD e .nan with | .nan => FVal.inf true | v => v
  let xs := cand.map x
  let ps := if p.sigmoid then xs.map sigmoid else if p.scope then xs else softmax xs
  let items := (cand.zip ps).map fun (e, v) => (e, v, toFp32 (v.add (decodeElem 0x1 (dirField (es.getD e 0) 95 80))))
  let items := if p.twoLevel then
      let gs := groups.map fun g => (groupScore p.gsum ((items.filter fun i => dirField (es.getD i.1 0) 41 32 == g).map (·.2.2)), g)
      let sel := ((ranked gs).take p.groupK).map (·.2)
      items.filter fun i => sel.contains (dirField (es.getD i.1 0) 41 32)
    else items
  let chosen := ((ranked (items.map fun i => (i.2.2, i.1))).take p.k).map (·.2)
  let pOf e := ((items.find? fun i => i.1 == e).map (·.2.1)).getD fZero
  let ws := chosen.map pOf
  let ws := if !p.sigmoid && p.scope then softmax ws else ws
  let ws := if p.norm then
      let sum := toFp32 (exactSum ws)
      if sum.isZero then ws.map fun _ => fZero else ws.map fun w => toFp32 (w.div sum)
    else ws
  { routed := (chosen.zip ws).map fun (e, w) => (e, encodeElem 0x0 .rne (w.mul p.scale)), shared }

/-- R221: the capacity of a routed expert. -/
def capacity (p : SelParams) (e : BitVec 256) : Nat :=
  let c := dirField e 63 48
  let lim := if c = 0 then p.capLimit else if p.capLimit = 0 then c else min c p.capLimit
  if lim = 0 then p.t else lim

/-- A dispatch record of SELECT before its address is resolved: token, expert, slot, rank, shared. -/
abbrev Pick := Nat × Nat × Nat × Nat × Bool

/-- R222: the slots of one expert, in ascending token index: the picks accepted, and the tokens dropped. -/
def assignSlots (p : SelParams) (es : List (BitVec 256)) (sels : List TokenSel) (e : Nat) : List Pick × List Nat :=
  let ent := es.getD e 0
  let toks := List.range sels.length
  let sel t := sels.getD t ⟨[], []⟩
  if dirShared ent then
    let ts := toks.filter fun t => (sel t).shared.contains e
    ((ts.zip (List.range ts.length)).map fun (t, n) => (t, e, n, 0, true), [])
  else
    let ts := toks.filter fun t => (sel t).routed.any fun r => r.1 == e
    let cap := capacity p ent
    (((ts.zip (List.range ts.length)).take cap).map fun (t, n) => (t, e, n, ((sel t).routed.findIdx? fun r => r.1 == e).getD 0, false), ts.drop cap)

/-- R226: the replica of a global token index. -/
def replicaOf (g homes : Nat) : Nat := (g * 0x9E3779B97F4A7C15 % 2 ^ 64 / 2 ^ 32) % homes

/-- R207: the address of a layer's weights on a home: device and local address. -/
def weightAddr (e : BitVec 256) (k layer stride : Nat) : Nat × Nat :=
  let h := dirHome e k
  (h.1, h.2 * 65536 + (layer - dirField e 23 16) * stride * 65536)

/-- The whole result of SELECT. -/
structure SelResult where
  sels : List TokenSel
  picks : List Pick
  dropped : List (Nat × Nat)
  nans : List (Nat × Nat)
  deriving DecidableEq, Repr

/-- The logits of a SELECT, by token: slot 0, or in SCREEN mode the products of hidden states and router weights (R215). -/
def State.selLogits (s : State) (c : Cmd) (p : SelParams) : List (List FVal) :=
  let a := s.slotTensor c 0
  let split (l : List FVal) (n : Nat) := if n = 0 then [] else chunksOf n (l.length + 1) l
  if p.screen then
    let h := a.exts.headD 0
    let ts := split (a.vals s.mem) h
    let ws := split ((s.slotTensor c 1).vals s.mem) h
    if h = 0 then List.replicate p.t (List.replicate p.e fZero) else ts.map fun t => ws.map fun w => dotBlocks 64 fZero t w
  else split (a.vals s.mem) p.e

/-- SELECT's result from its inputs. -/
def State.select (s : State) (c : Cmd) (p : SelParams) : SelResult :=
  let es := s.dirWindowOf p
  let logits := s.selLogits c p
  let tags := if s.slotZero c 2 then [] else ((s.slotTensor c 2).words s.mem).map (· % 65536)
  let gs := groupsOf es p.layer
  let tag t := tags.getD t p.variant
  let sels := (List.range p.t).map fun t => selectToken p es gs (logits.getD t []) (tag t)
  let slots := (List.range p.e).map (assignSlots p es sels)
  { sels
    picks := slots.flatMap (·.1)
    dropped := ((List.range p.e).zip slots).flatMap fun (e, x) => x.2.map fun t => (t, e)
    nans := (List.range p.t).flatMap fun t => (List.range p.e).filterMap fun e =>
      if dirEligible (es.getD e 0) p.layer (tag t) && ((logits.getD t []).getD e fZero).isNan then some (t, e) else none }

/-- The slot of a choice in its expert's list, 0xFFFF when dropped. -/
def SelResult.slotOf (r : SelResult) (t e : Nat) : Nat :=
  ((r.picks.find? fun x => x.1 == t && x.2.1 == e).map (·.2.2.1)).getD 0xFFFF

/-- R224: the choice records of a token. -/
def SelResult.choices (r : SelResult) (p : SelParams) (sMax t : Nat) : List Byte :=
  let sel := r.sels.getD t ⟨[], []⟩
  let one e w := leBytes 2 e ++ leBytes 2 (r.slotOf t e) ++ leBytes 4 w
  let empty := leBytes 4 0xFFFFFFFF ++ zeros 4
  let rt := sel.routed.map fun (e, w) => one e w
  let sh := sel.shared.map fun e => one e p.sharedW
  (rt ++ List.replicate (p.k - rt.length) empty ++ sh ++ List.replicate (sMax - sh.length) empty).flatten

/-- R225: a dispatch record. -/
def pickBytes (p : SelParams) (es : List (BitVec 256)) (x : Pick) : List Byte :=
  let (t, e, n, rank, sh) := x
  let ent := es.getD e 0
  let k := replicaOf (p.tokenBase + t) (dirHomes ent)
  let (d, a) := weightAddr ent k p.layer p.stride
  leBytes 2 t ++ leBytes 2 e ++ leBytes 2 n ++ leBytes 2 (rank + k * 16 + flagBit sh 6) ++ leBytes 8 (d * 2 ^ 48 + a)

/-- R223: a token without an accepted routed choice. -/
def SelResult.skipped (r : SelResult) (t : Nat) : Bool := !(r.picks.any fun x => x.1 == t && !x.2.2.2.2)

/-- The largest number of shared experts a token can have. -/
def State.selShared (s : State) (p : SelParams) : Nat :=
  ((s.dirWindowOf p).filter fun e => dirServes e p.layer && dirShared e).length

/-- R416: the first output slot of a command that overlaps an input. -/
def State.overlapSlot (s : State) (c : Cmd) : Check :=
  let (i, o) := slotRoles c.engine c.opcode (s.params c)
  let ins := ((i.map (s.slotDesc c)).filter Desc.used).map Desc.range
  (o.find? fun k => (s.slotDesc c k).used && ins.any (overlap (s.slotDesc c k).range)).map fun k => (stOverlap, k)

/-- The checks of SELECT, in the order of Table 8-9. DESIGN CHOICE (notes/assumptions/24.md): R158 accepts INDEX32 in Strainer's outputs and
Table 8-5 gives each as INT32; the table is the narrower of the two, and the outputs are INT32 alone. -/
def State.selChecks (s : State) (c : Cmd) : List Check :=
  let b := s.params c
  let p := selParams b
  let es := s.dirWindowOf p
  let sMax := s.selShared p
  let used i := !s.slotZero c i
  let opt i fmt shape := if used i then s.checkSlot c i fmt shape else []
  let screenIn := (s.slotTensor c 0).exts.headD 0
  let structural : List Check :=
    [need (1 ≤ p.k && p.k ≤ 16 && p.e ≤ 65535 && p.t ≤ 32768 && sMax ≤ 8 &&
       (if p.twoLevel then 1 ≤ p.groupK && p.groupK ≤ 64 && p.groupK ≤ (groupsOf es p.layer).length else p.groupK == 0)) stStructure 0,
     need (if p.screen then inSsram (localOf (s.slotDesc c 1).base) (s.slotDesc c 1).bound else !used 1) stStructure 1]
  let slots : List Check :=
    s.checkSlot c 0 (if p.screen then [8] else [0, 1]) (fun t => t.exts == (if p.screen then [screenIn, p.t] else [p.e, p.t])) ++
    (if p.screen then s.checkSlot c 1 [8] (fun t => t.exts == [screenIn, p.e]) else []) ++
    opt 2 [0xA] (fun t => t.exts == [p.t]) ++
    s.checkSlot c 3 [0xA] (fun t => t.exts == [2 * (p.k + sMax), p.t]) ++
    s.checkSlot c 4 [0xA] (fun t => t.exts.length == 2 && t.exts.headD 0 == 4 && decide (p.t * (p.k + sMax) ≤ t.exts.getD 1 0)) ++
    s.checkSlot c 5 [0xA] (fun t => t.exts.length == 1 && decide (2 * p.e + 1 ≤ t.exts.headD 0)) ++
    s.checkSlot c 6 [0xA] (fun t => t.exts.length == 1 && decide (ceilDiv p.t 32 ≤ t.exts.headD 0)) ++
    opt 7 [0xA] (fun t => t.exts.length == 1 && decide (p.e ≤ t.exts.headD 0))
  let r := s.select c p
  let badAddr : Check := (r.picks.find? fun x =>
    decide (gddrSize ≤ (weightAddr (es.getD x.2.1 0) (replicaOf (p.tokenBase + x.1) (dirHomes (es.getD x.2.1 0))) p.layer p.stride).2)).map
    fun x => (stBounds, p.base + x.2.1)
  [if field (leAt b 6 1) 7 6 != 0 then some (stBadOpcode, 6) else none, zeroParams b (offsets 34 63)] ++ structural ++
    byStatus slots stStructure ++ byStatus slots stAlign ++ [s.dirOutside c.job p.base p.e] ++ byStatus slots stBounds ++
    [badAddr, s.overlapSlot c, s.dirBad p.base p.e] ++
    s.eccSlots c ([0] ++ (if p.screen then [1] else []) ++ if used 2 then [2] else []) ([3, 4, 5, 6] ++ if used 7 then [7] else [])

/-- What SELECT writes: the choices (R223), the dispatch list (R224), the count words, the skip map, the demand. -/
def State.selWrites (s : State) (c : Cmd) (p : SelParams) (r : SelResult) : List (Nat × List Byte) :=
  let es := s.dirWindowOf p
  let sMax := s.selShared p
  let choices := (s.slotTensor c 3).place ((List.range p.t).flatMap (r.choices p sMax))
  let list := Tensor.place { s.slotTensor c 4 with exts := [4, p.t * (p.k + sMax)] } (padTo (16 * (p.t * (p.k + sMax))) (r.picks.flatMap (pickBytes p es)))
  let counts := (List.range p.e).map fun e => (r.picks.filter fun x => x.2.1 == e).length
  let starts := (counts.foldl (fun (x : Nat × List Nat) n => (x.1 + n, x.2 ++ [x.1])) (0, [])).2
  let words := (s.slotTensor c 5).rows.map fun a => (a, (r.picks.length :: (counts ++ starts)).flatMap (leBytes 4))
  let bits := (List.range (ceilDiv p.t 32)).map fun w =>
    (List.range 32).foldl (fun m i => if 32 * w + i < p.t && r.skipped (32 * w + i) then m + 2 ^ i else m) 0
  let map := (s.slotTensor c 6).rows.map fun a => (a, bits.flatMap (leBytes 4))
  let demand := if !s.slotZero c 7 then
      (s.slotTensor c 7).rows.map fun a => (a, ((List.range p.e).map fun e =>
        (r.sels.filter fun x => x.shared.contains e || x.routed.any (fun q => q.1 == e)).length).flatMap (leBytes 4))
    else []
  choices ++ list ++ words ++ map ++ demand

/-- SELECT after its checks: its outputs, its counts, and the entry of the first NaN. -/
def State.selected (s : State) (c : Cmd) (p : SelParams) (r : SelResult) : State :=
  let nDrop := r.dropped.length
  let nSkip := ((List.range p.t).filter r.skipped).length
  let nNan := r.nans.length
  let s1 := s.storeAll (s.selWrites c p r)
  let s2 := { s1 with str := { s1.str with
    lists := tset 0 s1.str.lists (s.slotTensor c 4).base (p.k + 1)
    cntNan := s1.str.cntNan + nNan, cntDrop := s1.str.cntDrop + nDrop, cntSkip := s1.str.cntSkip + nSkip } }
  let bits : BitVec 16 := (if nNan = 0 then 0 else 1) ||| (if nDrop = 0 then 0 else 2) ||| (if nSkip = 0 then 0 else 4)
  let s3 := s2.modEng 2 fun e => { e with evt := e.evt ||| bits }
  let s4 := match r.nans with
    | [] => s3
    | (t, e) :: _ => s3.jobEvent 2 0x100 0x0025 p.layer (t + e * 2 ^ 16 + nNan * 2 ^ 32) 0 c.job
  s4.strEnd c stOk 0

/-- SELECT (R212 to R231). -/
def select (s : State) : State :=
  s.withHead 2 0x01 fun s c =>
    let p := selParams (s.params c)
    s.strFail c (s.selChecks c) fun t => t.selected c p (s.select c p)

def execSelect (s : State) : Result := .next (select s)

end Sys2Proof.Machine
end

