-- ==== Sys2Proof/Machine/Spout.lean ====
section
/-!
DEFINITION. Spout (09_spout.md R238 to R264): DISPATCH and COMBINE, their count rounds and stages, landing, checks of
what arrives, commit and failure. A part of an exchange is numbered 1 round A, 2 round B1, 3 round B2, 4 stage 1,
5 stage 2.
-/

namespace Sys2Proof.Machine

/-! ## Parameters, Table 9-2 -/

structure SpParams where
  ctx : Nat
  prev : Nat
  relative : Bool
  localShared : Bool
  dlb : Bool
  plan : Nat
  lwin : Nat
  rwin : Nat
  e : Nat
  start : Nat
  gapBase : Nat
  gapPerRow : Nat
  rxSlack : Nat
  dirBase : Nat
  fmtOut : Nat
  seq : Nat
  deriving DecidableEq, Repr

def spParams (b : List Byte) : SpParams :=
  let f := leAt b 2 1
  { ctx := leAt b 0 1, prev := leAt b 1 1, relative := bitOf f 0, localShared := bitOf f 1, dlb := bitOf f 2, plan := leAt b 3 1
    lwin := leAt b 4 1, rwin := leAt b 5 1, e := leAt b 6 2 + 1, start := leAt b 8 8, gapBase := leAt b 16 4
    gapPerRow := leAt b 20 4, rxSlack := leAt b 24 4, dirBase := leAt b 28 2, fmtOut := leAt b 30 1, seq := leAt b 32 4 }

/-- R238: reserved bits. -/
def spReserved (b : List Byte) : Check :=
  if 8 ≤ leAt b 2 1 then some (stBadOpcode, 2) else zeroParams b (31 :: offsets 36 63)

def State.spCtx (s : State) (c : Nat) : SpoutCtx := tget {} s.spt.ctx c
def State.modSpCtx (s : State) (c : Nat) (f : SpoutCtx → SpoutCtx) : State :=
  { s with spt := { s.spt with ctx := tmod {} s.spt.ctx c f } }

/-- R257: the gap of a relative start; RBOUND counts as 0 when PREV is another context still counting. -/
def State.spGap (s : State) (p : SpParams) : Nat :=
  let q := s.spCtx p.prev
  p.gapBase + p.gapPerRow * (if p.prev != p.ctx && q.state == 1 then 0 else q.rbound)

/-- R257: the start instant, a frame boundary, as far as PREV's END is known. -/
def State.spBase (s : State) (p : SpParams) : Nat :=
  roundUp (if p.relative then (s.spCtx p.prev).endsAt + s.spGap p else p.start) frameLen

/-- R257: the latest END of a job's exchanges that no context shows any more. -/
def State.spLast (s : State) (j : Nat) : Nat := tget 0 s.spt.lastEnd j

/-- R257: a job's END is at least t from now on, whatever becomes of the contexts. -/
def State.raiseEnd (s : State) (j t : Nat) : State :=
  { s with spt := { s.spt with lastEnd := tset 0 s.spt.lastEnd j (max t (s.spLast j)) } }

/-- R257: the effective start: the start instant, raised to the END of the job's exchanges. -/
def State.spStart (s : State) (p : SpParams) (j : Nat) : Nat :=
  let ends := (List.range 16).filterMap fun c => if (s.spCtx c).job = j then some (s.spCtx c).endsAt else none
  ends.foldl max (max (s.spLast j) (s.spBase p))

/-- An exchange of the job is still counting: the job's next effective start lies after it and is not known yet. -/
def State.jobCounting (s : State) (j : Nat) : Bool :=
  (List.range 16).any fun c => (s.spCtx c).job == j && (s.spCtx c).state == 1

/-- Table 9-9: ticks until a DISPATCH of n records that starts now has built its count vector. -/
def vectorTicks (n : Nat) : Nat := ceilDiv ((120 + ceilDiv n 16) * 10) 9

/-- R258: a command that starts now and needs `work` ticks to be ready is past its effective start. -/
def State.spPast (s : State) (p : SpParams) (j work : Nat) : Bool := !s.jobCounting j && decide (s.spStart p j < s.now + work)

/-! ## Records, Tables 9-6 and 9-7 -/

/-- Flits of a record whose row has `n` bytes (R249). -/
def recFlits (n : Nat) : Nat := ceilDiv (16 + n) 240

/-- The 16-byte header of a record. -/
def SpoutRecord.header (r : SpoutRecord) (members : List Nat) : List Byte :=
  leBytes 2 r.origin ++ leBytes 2 r.token ++ leBytes 2 r.expert ++ leBytes 2 r.slot ++
  leBytes 1 (place 4 0 r.choice + flagBit r.shared 5 + place 7 6 r.home) ++ leBytes 1 r.rsv ++
  leBytes 2 (members.getD r.dest 0xFFFF) ++ leBytes 4 (r.rsv / 256)

/-- A record's flit bytes: header, row, zero padding. -/
def SpoutRecord.bytes (r : SpoutRecord) (members : List Nat) (flits : Nat) : List Byte :=
  padTo (240 * flits) (r.header members ++ r.row)

/-- The record some flit bytes spell, its row `n` bytes long. -/
def parseRecord (b : List Byte) (members : List Nat) (n : Nat) : SpoutRecord :=
  let w := leAt b 8 1
  { origin := leAt b 0 2, token := leAt b 2 2, expert := leAt b 4 2, slot := leAt b 6 2, choice := field w 4 0, shared := bitOf w 5
    home := field w 7 6, dest := (members.findIdx? (· == leAt b 10 2)).getD members.length
    rsv := leAt b 9 1 + 256 * leAt b 12 4, row := slice b 16 n }

/-- The same record, whatever row it carries. -/
def SpoutRecord.sameRec (a b : SpoutRecord) : Bool := { a with row := [] } == { b with row := [] }

/-- One record of Strainer's dispatch list (Table 8-8). -/
structure ListRec where
  token : Nat
  expert : Nat
  slot : Nat
  rank : Nat
  home : Nat
  shared : Bool
  dev : Nat
  deriving DecidableEq, Repr

def listRec (b : List Byte) : ListRec :=
  let w := leAt b 6 2
  { token := leAt b 0 2, expert := leAt b 2 2, slot := leAt b 4 2, rank := field w 3 0, home := field w 5 4, shared := bitOf w 6
    dev := leAt b 14 2 }

/-! ## An exchange under way -/

/-- What a context's rules are stated over: its plan, this member's index, the job's owned set. -/
structure Exch where
  x : SpoutCtx
  p : SpParams
  plan : Plan
  m : Nat
  om : List Nat
  deriving DecidableEq, Repr

def State.exch (s : State) (c : Nat) : Option Exch :=
  let x := s.spCtx c
  match s.plan x.plan with
  | none => none
  | some pl => (pl.member s.devId).map fun m => { x, p := spParams x.params, plan := pl, m, om := s.planOmega pl x.job }

/-- Row bytes of dispatch and of combine, and the flits of their records. -/
def State.rowBytesIn (s : State) (c : Cmd) : Nat := (s.slotTensor c 0).rowLen
def rowBytesOut (h fmtOut : Nat) : Nat := h * (fmtBits fmtOut / 8)

/-- The maxima (R241). -/
def SpoutCtx.nmax (x : SpoutCtx) (stage ph : Nat) : Nat := x.vec.getD (if stage = 2 then 62 + ph else ph - 1) 0
def SpoutCtx.nloc (x : SpoutCtx) : Nat := x.vec.getD 126 0

/-- R243. -/
def Exch.bound (e : Exch) : Nat :=
  e.x.nloc + ((e.plan.phaseList 1).map (e.x.nmax 1)).sum + ((e.plan.phaseList 2).map (e.x.nmax 2)).sum

/-- R251: the first landing row of a region. -/
def Exch.regionRow (e : Exch) (region ph : Nat) : Nat :=
  if region = 0 then 0
  else if region = 1 then e.x.nloc + ((List.range (ph - 1)).map fun i => e.x.nmax 1 (i + 1)).sum
  else e.x.nloc + ((e.plan.phaseList 1).map (e.x.nmax 1)).sum + ((List.range (ph - 1)).map fun i => e.x.nmax 2 (i + 1)).sum

/-- R250: the records of this member's dispatch stream of a phase, in order. -/
def Exch.sent (e : Exch) (stage ph : Nat) : List SpoutRecord :=
  if stage = 2 then
    let g := (e.m / 64 + ph) % e.plan.g
    e.x.recs.filter (fun r => r.dest / 64 == g && r.dest % 64 == e.m % 64) ++
    ((e.x.landed.filter fun l => l.region == 1 && l.recd.dest / 64 == g).map (·.recd))
  else if e.plan.two then
    let l := (e.m % 64 + ph) % 64
    e.x.recs.filter fun r => r.dest % 64 == l
  else e.x.recs.filter fun r => r.dest == e.plan.dst e.m 1 ph

/-- R240, Table 9-4: the count vector from the own records. -/
def Exch.vector (e : Exch) : List Nat :=
  let n f := (e.x.recs.filter f).length
  (List.range 128).map fun i =>
    if i < 63 then
      let ph := i + 1
      if e.plan.two then n fun r => r.dest % 64 == (e.m % 64 + ph) % 64
      else if ph < e.plan.d then n fun r => r.dest == e.plan.dst e.m 1 ph else 0
    else if i < 126 then
      let q := i - 62
      if e.plan.two && q < e.plan.g then n fun r => r.dest == e.plan.dst e.m 2 q else 0
    else if i = 126 then n fun r => r.dest == e.m
    else 0

/-! ## Timetables of the parts, Tables 9-5, R246, R247 -/

/-- Stage of a part. -/
def partStage (part : Nat) : Nat := if part = 3 || part = 5 then 2 else 1

/-- Flits of a record in this direction. -/
def State.spFlits (s : State) (e : Exch) (cmd : Cmd) (combine : Bool) : Nat :=
  if combine then recFlits (rowBytesOut ((s.slotTensor cmd 0).exts.headD 0) e.p.fmtOut) else recFlits (s.rowBytesIn cmd)

/-- The phases of a part, with their lengths and lanes. -/
def Exch.phases (e : Exch) (part flits : Nat) (combine : Bool) : List (Nat × Nat × List Nat) :=
  let st := partStage part
  (e.plan.phaseList st).map fun ph =>
    let lanes := (e.plan.entry st (if combine then e.plan.reverse st ph else ph)).laneList
    let len := if part = 1 then 2 else if part ≤ 3 then 3
      else if e.x.nmax st ph = 0 then 0 else 1 + e.x.nmax st ph * flits
    (ph, len, lanes)

/-- The END of a part from its base slot. -/
def Exch.endOf (e : Exch) (part flits : Nat) (combine : Bool) (s0 : Nat) : Nat :=
  match timetable (e.phases part flits combine) with
  | some (_, used) => partEnd e.om s0 used e.plan.hmax
  | none => s0 * slotLen

/-- A dispatch or combine has both timetables (R246): no phase with length lacks lanes. -/
def Exch.timetablesOk (e : Exch) (fi fo : Nat) : Bool :=
  ([4, 5].all fun part => (timetable (e.phases part fi false)).isSome && (timetable (e.phases part fo true)).isSome)

/-- Table 9-9: the tick at or after the count END plus the compute time. -/
def Exch.afterCompute (e : Exch) (t : Nat) : Nat :=
  t + ceilDiv ((200 + 4 * (e.plan.nPhases 1 + e.plan.nPhases 2)) * 10) 9

/-- The part an exchange begins with. -/
def Exch.first (e : Exch) : Nat := if e.x.state == 4 then (if e.plan.two then 5 else 4) else if e.plan.two then 1 else 2

/-- The exchange has not sent anything yet. -/
def Exch.unbegun (e : Exch) : Bool := (e.x.state == 1 || e.x.state == 4) && e.x.part == e.first && !e.x.partBegun

/-- The instant at or after which the current part starts, before it has begun. -/
def Exch.due (e : Exch) : Nat :=
  if e.x.part = e.first then e.x.effStart
  else if e.x.part = 4 && e.x.state != 4 then e.afterCompute e.x.partEnd
  else e.x.partEnd

/-- The part after a part, if any: count rounds, then stages 1 and 2; a combine runs stage 2, then stage 1. -/
def Exch.nextPart (e : Exch) : Option Nat :=
  if e.x.state = 4 then (if e.x.part = 5 then some 4 else none)
  else match e.x.part with
    | 1 => some 2
    | 2 => some (if e.plan.two then 3 else 4)
    | 3 => some 4
    | 4 => if e.plan.two then some 5 else none
    | _ => none

/-- The part that starts next, and the instant at or after which it does (R241, R247): the current part until it has begun, then
the one after it. Stage 1 of DISPATCH waits for the maxima as well (R243). -/
def Exch.upNext (e : Exch) : Option (Nat × Nat) :=
  if !e.x.partBegun then some (e.x.part, e.due)
  else match e.nextPart with
    | some n => if e.x.state == 1 && n == 4 then none else some (n, e.x.partEnd)
    | none => none

/-- R247: the END of the exchange from the due instant of its first data stage. -/
def Exch.finalEnd (e : Exch) (flits : Nat) (combine : Bool) (due : Nat) : Nat :=
  let order := if !e.plan.two then [4] else if combine then [5, 4] else [4, 5]
  order.foldl (fun t part => e.endOf part flits combine (firstOwned e.om t)) due

/-- The END of an exchange that has not begun, from its effective start: a combine's own, or that of the count rounds. -/
def Exch.endFrom (e : Exch) (eff : Nat) : Nat :=
  if e.x.state = 4 then e.finalEnd e.x.fo true eff
  else (if e.plan.two then [1, 2, 3] else [2]).foldl (fun t part => e.endOf part 0 false (firstOwned e.om t)) eff

/-! ## Effective starts, R257 -/

/-- The END of a context is still open: it counts, or its COMBINE has not begun. -/
def State.endOpen (s : State) (c : Nat) : Bool := (s.spCtx c).state == 1 || (s.exch c).any fun e => e.x.state == 4 && e.unbegun

/-- The context a started command runs in. -/
def State.ctxOf (s : State) (c : Cmd) : Option Nat := (List.range 16).find? fun i => (s.spCtx i).cmd.any c.same

/-- One exchange of the chain: its effective start is raised to the END of the exchange before it. -/
def State.chainOne (acc : State × Nat) (l : Live) : State × Nat :=
  let s := acc.1
  match (s.ctxOf l.cmd).bind fun i => (s.exch i).map fun e => (i, e) with
  | none => acc
  | some (i, e) =>
    if !e.unbegun then (s, max acc.2 e.x.endsAt)
    else
      let base := match e.x.gap with
        | some g => roundUp ((s.spCtx e.p.prev).endsAt + g) frameLen
        | none => e.x.base
      let eff := max base acc.2
      let eff := if firstOwned e.om eff < s.now / slotLen then s.now else eff
      let fin := e.endFrom eff
      (s.modSpCtx i fun x => { x with base, gap := if s.endOpen e.p.prev then x.gap else none, effStart := eff, endsAt := fin }, max acc.2 fin)

/-- R257: the effective starts of a job's exchanges that have not begun, in start order. -/
def State.chainStarts (s : State) (j : Nat) : State :=
  let ended := (List.range 16).filterMap fun c =>
    if (s.spCtx c).job = j && (s.spCtx c).cmd.isNone then some (s.spCtx c).endsAt else none
  ((s.live.filter fun l => l.cmd.engine == 3 && l.cmd.job == j).foldl State.chainOne (s, ended.foldl max (s.spLast j))).1

/-- R257: nothing before the exchange of a context leaves its effective start open. -/
def State.startKnown (s : State) (i : Nat) (j : Nat) : Bool :=
  ((s.live.filter fun l => l.cmd.engine == 3 && l.cmd.job == j).takeWhile fun l => s.ctxOf l.cmd != some i).all fun l =>
    (s.ctxOf l.cmd).all fun k => (s.spCtx k).state != 1

/-! ## Failing and ending -/

/-- SPT_EVT bits of a status. -/
def sptBits (status : Nat) : BitVec 16 := if status = 0x31 then 1 else if status = 0x32 then 2 else if status = 0x33 then 4 else 0

/-- A context after a command that failed (R239): DISPATCH frees it, COMBINE leaves it DISPATCHED. -/
def SpoutCtx.undone (x : SpoutCtx) : SpoutCtx :=
  if x.state = 4 then
    { x with state := 3, cmd := none, params := x.params, part := 0, partBegun := false, expect := [], answers := [], status := 0
             detail := 0 }
  else { job := x.job, endsAt := x.endsAt }

/-- A Spout command ends. -/
def State.spEnd (s : State) (c : Cmd) (ctx status detail : Nat) (bits : BitVec 16) : State :=
  ((s.failOutputs c status).modEng 3 fun e => { e with evt := e.evt ||| sptBits status ||| bits }).complete c status detail true ctx

/-- R263: the command of a context ends with a failure; its streams are withdrawn. -/
def State.spFail (s : State) (ctx status detail : Nat) (bits : BitVec 16) : State :=
  match (s.spCtx ctx).cmd with
  | none => s
  | some c =>
    (((s.dropStreams 3 ctx).modSpCtx ctx SpoutCtx.undone).spEnd c ctx status detail bits).chainStarts c.job

/-- The first failure found of a context (R263). -/
def State.spMark (s : State) (ctx status detail : Nat) : State :=
  s.modSpCtx ctx fun x => if x.status = 0 then { x with status, detail } else x

/-- R258: a late command sends nothing, and one entry is written. -/
def State.spLate (s : State) (c : Cmd) (ctx : Nat) : State :=
  (s.jobEvent 3 0x110 0x0020 c.opcode 0 stRemoteTimeout c.job).spEnd c ctx stRemoteTimeout 0 0x10

/-! ## DISPATCH -/

/-- The landing window a field names (R251, R340). -/
def State.landingWindow (s : State) (j w : Nat) : Option Window :=
  (s.bld.cur.windows[w]?).filter fun x => x.kind == 3 && x.job == (s.job j).jobId

/-- R251, R340: the two windows of an exchange. -/
def State.windowChecks (s : State) (j : Nat) (ws : List Nat) : List Check :=
  [need (ws.all fun w => (s.landingWindow j w).isSome) stBounds 0,
   need (ws.all fun w => (s.landingWindow j w).all fun x => x.mode == 1) stStructure 0]

/-- R234, R237: the plan of a Spout command; SPT_JOB_CFG.PLANS permits it. -/
def State.planChecks (s : State) (j plan : Nat) (permitted : Bool) : List Check :=
  let ok := match s.plan plan with
    | none => false
    | some pl => pl.ok && (pl.member s.devId).isSome && !(s.planOmega pl j).isEmpty
  [need (plan < 16 && permitted && ok) stStructure 0]

/-- R261: the home of least cost among the members that hold one; costs are LOAD plus records given. -/
def leastHome (costs : List (Nat × FVal)) (home : Nat) : Nat :=
  let start := (costs.find? fun x => x.1 == home).orElse fun _ => costs.head?
  match start with
  | none => home
  | some b =>
    let best := costs.foldl (fun b x => if x.2.lt b.2 then x else b) b
    -- a tie goes to Strainer's home, then to the lower one
    if !(best.2.lt b.2) then b.1
    else ((costs.find? fun x => !(best.2.lt x.2) && !(x.2.lt best.2)).getD best).1

/-- What becomes of one record of the dispatch list. -/
structure Assigned where
  recs : List SpoutRecord := []
  given : List Nat := []
  moved : Nat := 0
  fail : Check := none
  deriving DecidableEq, Repr

/-- R249: the index of a record's choice record, as Strainer laid the list out (R224, R225): the rank of a routed choice; of a shared
one, K and its place among the token's shared records. -/
def choiceOf (k : Nat) (recs : List ListRec) (i : Nat) (r : ListRec) : Nat :=
  if r.shared then (k + ((recs.take i).filter fun q => q.shared && q.token == r.token).length) % 32 else r.rank

/-- R249: the K of the SELECT that wrote a dispatch list. Of a list no SELECT of this device has written the room its tensor has for a token
is K + S, and S the shared experts it names (DEDUCED: notes/assumptions/24.md). -/
def State.listK (s : State) (base room tokens : Nat) (recs : List ListRec) : Nat :=
  match tget 0 s.str.lists base with
  | 0 => room / max 1 tokens - (((recs.filter (·.shared)).map (·.expert)).eraseDups).length
  | k + 1 => k

/-- R240, R249, R261: one record of the dispatch list, of the choice record `choice`, joins the exchange. -/
def State.assign (s : State) (pl : Plan) (p : SpParams) (j : Nat) (dlb : Bool) (choice : Nat → ListRec → Nat) (rows : List (List Byte))
    (load : List FVal) (a : Assigned) (x : Nat × ListRec) : Assigned :=
  let (i, r) := x
  if a.fail.isSome || (r.shared && p.localShared) then a
  else
    let ent := s.dirEntry (p.dirBase + r.expert)
    let range := s.dirRange j
    let homes := (List.range (dirHomes ent)).map fun k => (k, pl.member (dirHome ent k).1)
    let given (m : Nat) := (a.given.filter (· == m)).length
    if dlb && !(range.1 ≤ p.dirBase + r.expert && p.dirBase + r.expert < range.1 + range.2) then { a with fail := some (stBounds, i) }
    else
      let pick : Option (Nat × Nat) :=
        if dlb then
          if homes.any fun h => h.2.isNone then none
          else
            let k := leastHome (homes.map fun h => (h.1, (load.getD (h.2.getD 0) fZero).add (FVal.ofInt (given (h.2.getD 0))))) r.home
            ((homes.find? fun h => h.1 == k).bind (·.2)).map fun m => (k, m)
        else (pl.member r.dev).map fun m => (r.home, m)
      match pick with
      | none => { a with fail := some (stStructure, i) }
      | some (k, m) =>
        if rows.length ≤ r.token then { a with fail := some (stStructure, i) }
        else
          { a with
            recs := a.recs ++ [{ origin := s.devId, token := r.token, expert := r.expert, slot := r.slot, choice := choice i r, shared := r.shared
                                 home := k, dest := m, row := rows.getD r.token [] }]
            given := m :: a.given
            moved := a.moved + (if k = r.home then 0 else 1) }

/-- The formats of DISPATCH's rows and of expert outputs. -/
def spInFmts : List Nat := List.range 10
def spOutFmts : List Nat := [0, 1, 2, 3, 4]

/-- The records DISPATCH's list has, by its count word. -/
def State.dispatchCount (s : State) (c : Cmd) : Nat :=
  if (s.slotTensor c 2).size = 0 then 0 else s.mem.nat (localOf (s.slotTensor c 2).base) 4

/-- DLB is set, and SPT_JOB_CFG permits it. -/
def State.dlbOn (s : State) (c : Cmd) : Bool := (spParams (s.params c)).dlb && bitOf (s.st (0x110300 + 8 * c.job)) 1

/-- R263, R322, R473: a row of an input slot that meets an uncorrectable line, or a row of an output slot that would fill a part of one:
ECC_UNCORR, DETAIL the row; a shape word counts with row 0. -/
def State.rowsEcc (s : State) (c : Cmd) (ins outs : List Nat) : Check :=
  let row (bad : Nat → Nat → Bool) (i : Nat) : Check :=
    if (s.badLine (s.slotDesc c i).shapeWords).isSome then some (stEccUncorr, 0)
    else ((s.slotTensor c i).rows.findIdx? fun a => bad a (s.slotTensor c i).rowLen).map fun r => (stEccUncorr, r)
  (ins.findSome? (row s.hasBad)).orElse fun _ => outs.findSome? (row s.partBad)

/-- The checks of DISPATCH, in order. -/
def State.dispatchChecks (s : State) (c : Cmd) : List Check :=
  let b := s.params c
  let p := spParams b
  let pl := (s.plan p.plan).getD {}
  let n := s.dispatchCount c
  [spReserved b, need (p.ctx < 16 && p.prev < 16 && (s.spCtx p.ctx).state == 0) stStructure 0] ++
    s.planChecks c.job p.plan (bitOf (s.st (0x110300 + 8 * c.job)) (2 + p.plan)) ++
    s.checkSlot c 0 spInFmts (fun t => t.exts.length == 2) ++
    s.checkSlot c 1 [0xA] (fun t => t.exts.length == 2 && t.exts.headD 0 == 4 && n ≤ t.rows.length) ++
    s.checkSlot c 2 [0xA] (fun _ => true) ++ s.checkSlot c 3 [0xA] (fun t => 2 * p.e + 1 ≤ t.size) ++
    s.checkSlot c 4 [0xD] (fun _ => true) ++
    (if !s.slotZero c 5 then s.checkSlot c 5 [0x0] (fun t => t.size == pl.d) else [need (!s.dlbOn c) stStructure 5]) ++
    [need (s.slotZero c 6) stStructure 6, need (s.slotZero c 7) stStructure 7, need (spOutFmts.contains p.fmtOut) stStructure 0,
     s.overlapCheck c 0] ++
    s.windowChecks c.job [p.lwin, p.rwin] ++ [s.toleranceCheck pl]

/-- DISPATCH's records, each with its home (R240, R261). -/
def State.assignAll (s : State) (c : Cmd) : Assigned :=
  let p := spParams (s.params c)
  let n := s.dispatchCount c
  let rows := (s.slotTensor c 0).readRows s.mem
  let recs := ((s.slotTensor c 1).readRows s.mem).take n |>.map listRec
  let load := if !s.slotZero c 5 then (s.slotTensor c 5).vals s.mem else []
  let choice := choiceOf (s.listK (s.slotTensor c 1).base (s.slotTensor c 1).rows.length ((s.slotTensor c 0).exts.getD 1 0) recs) recs
  ((List.range n).zip recs).foldl (s.assign ((s.plan p.plan).getD {}) p c.job (s.dlbOn c) choice rows load) {}

/-- DISPATCH (R238 to R240, R251, R258). -/
def dispatch (s : State) : State :=
  s.withHead 3 0x01 fun s c =>
    let b := s.params c
    let p := spParams b
    let pl := (s.plan p.plan).getD {}
    match firstFail (s.dispatchChecks c) with
    | some (st, d) => s.spEnd c p.ctx st d 0
    | none =>
      let a := s.assignAll c
      match a.fail with
      | some (st, d) => s.spEnd c p.ctx st d 0
      | none =>
        let ecc := s.rowsEcc c ([0, 1, 2] ++ if !s.slotZero c 5 then [5] else []) [3, 4]
        let s1 := { s with spt := { s.spt with cntRedirect := s.spt.cntRedirect + a.moved } }
        let s2 := if a.moved = 0 then s1 else s1.modEng 3 fun e => { e with evt := e.evt ||| 0x20 }
        let x : SpoutCtx :=
          { state := 1, job := c.job, plan := p.plan, cmd := some c, params := b, part := if pl.two then 1 else 2
            effStart := s.spStart p c.job, base := s.spBase p
            gap := if p.relative && p.prev != p.ctx && s.endOpen p.prev then some (s.spGap p) else none
            recs := a.recs, fi := recFlits (s.rowBytesIn c)
            fo := recFlits (rowBytesOut ((s.slotTensor c 0).exts.headD 0) p.fmtOut)
            h := (s.slotTensor c 0).exts.headD 0, t := (s.slotTensor c 0).exts.getD 1 0
            status := (ecc.map (·.1)).getD 0, detail := (ecc.map (·.2)).getD 0 }
        let e : Exch := { x, p, plan := pl, m := (pl.member s.devId).getD 0, om := s.planOmega pl c.job }
        let cend := e.endFrom x.effStart
        if s.spPast p c.job (vectorTicks (s.dispatchCount c)) then (s2.raiseEnd c.job cend).spLate c p.ctx
        else
          let o := s.spCtx p.ctx
          (((s2.raiseEnd o.job o.endsAt).modSpCtx p.ctx fun _ =>
            { x with vec := e.vector, endsAt := cend, prevEnd := o.endsAt, prevJob := o.job }).addLive c true).chainStarts c.job

def execDispatch (s : State) : Result := .next (dispatch s)

/-! ## COMBINE and RELEASE -/

/-- R257: the exchange a command that never began would have run: the count rounds of a DISPATCH, or the stages of a COMBINE. -/
def State.lateExch (s : State) (c : Cmd) : Option Exch :=
  let p := spParams (s.params c)
  let o := s.spCtx p.ctx
  match s.plan p.plan with
  | none => none
  | some pl =>
    let x : Option SpoutCtx :=
      if c.opcode = 1 then some { state := 1, job := c.job, plan := p.plan, part := if pl.two then 1 else 2 }
      else if o.state = 3 then some { o with state := 4, part := if pl.two then 5 else 4 }
      else none
    x.map fun x => { x, p, plan := pl, m := (pl.member s.devId).getD 0, om := s.planOmega pl c.job }

/-- R257: a late command raises its job's END as its peers' commands do, which ran. -/
def State.raiseLate (s : State) (c : Cmd) : State :=
  match s.lateExch c with
  | some e => s.raiseEnd c.job (e.endFrom (s.spStart e.p c.job))
  | none => s

/-- The checks of COMBINE, in order. -/
def State.combineChecks (s : State) (c : Cmd) : List Check :=
  let b := s.params c
  let p := spParams b
  let x := s.spCtx p.ctx
  let q := spParams x.params
  let h := (s.slotTensor c 0).exts.headD 0
  let t := x.t
  [spReserved b, need (p.ctx < 16 && p.prev < 16 && x.state == 3 && x.job == c.job) stStructure 0] ++
    s.planChecks c.job p.plan (bitOf (s.st (0x110300 + 8 * c.job)) (2 + p.plan)) ++
    [need (p.plan == x.plan && p.fmtOut == q.fmtOut && p.localShared == q.localShared) stStructure 0] ++
    s.checkSlot c 0 [p.fmtOut] (fun d => d.exts == [x.h, x.rbound]) ++
    s.checkSlot c 1 [0xA] (fun d => d.exts.length == 2 && d.exts.headD 0 % 2 == 0 && d.exts.getD 1 0 == t) ++
    (if p.localShared || !s.slotZero c 2 then
       s.checkSlot c 2 [p.fmtOut] (fun d => d.exts.length == 3 && d.exts.headD 0 == h && d.exts.getD 1 0 == t)
     else []) ++
    s.checkSlot c 3 [0x0, 0x1] (fun d => d.exts == [h, t]) ++
    [need (s.slotZero c 4) stStructure 4, need (s.slotZero c 5) stStructure 5, need (s.slotZero c 6) stStructure 6,
     need (s.slotZero c 7) stStructure 7, s.overlapCheck c 0] ++ s.windowChecks c.job [p.lwin, p.rwin] ++
    [s.toleranceCheck ((s.plan p.plan).getD {})]

/-- COMBINE (R238, R239, R255, R258). -/
def combine (s : State) : State :=
  s.withHead 3 0x02 fun s c =>
    let b := s.params c
    let p := spParams b
    let x := s.spCtx p.ctx
    match firstFail (s.combineChecks c) with
    | some (st, d) => s.spEnd c p.ctx st d 0
    | none =>
      let ecc := s.rowsEcc c ([0, 1] ++ if p.localShared then [2] else []) [3]
      if s.spPast p c.job 0 then (s.raiseLate c).spLate c p.ctx
      else
        let pl := (s.plan p.plan).getD {}
        let y := { x with state := 4, cmd := some c, params := b, part := if pl.two then 5 else 4, partBegun := false
                          effStart := s.spStart p c.job, base := s.spBase p
                          gap := if p.relative && p.prev != p.ctx && s.endOpen p.prev then some (s.spGap p) else none
                          expect := [], answers := [], status := (ecc.map (·.1)).getD 0, detail := (ecc.map (·.2)).getD 0 }
        let e : Exch := { x := y, p, plan := pl, m := (pl.member s.devId).getD 0, om := s.planOmega pl c.job }
        ((s.modSpCtx p.ctx fun o => { y with endsAt := e.endFrom y.effStart, prevEnd := o.endsAt, prevJob := o.job }).addLive c true).chainStarts c.job

def execCombine (s : State) : Result := .next (combine s)

/-- The checks of SPOUT_RELEASE, in order. -/
def State.releaseChecks (s : State) (c : Cmd) : List Check :=
  let b := s.params c
  let p := spParams b
  let x := s.spCtx p.ctx
  [spReserved b, need (p.ctx < 16 && (x.state == 0 || x.state == 3)) stStructure 0]

/-- RELEASE (R239). -/
def spoutRelease (s : State) : State :=
  s.withHead 3 0x03 fun s c =>
    let p := spParams (s.params c)
    match firstFail (s.releaseChecks c) with
    | some (st, d) => s.spEnd c p.ctx st d 0
    | none => (s.modSpCtx p.ctx fun x => { job := x.job, endsAt := x.endsAt }).spEnd c p.ctx stOk 0 0

def execSpoutRelease (s : State) : Result := .next (spoutRelease s)

/-! ## Parts -/

/-- Round A's payload for a receiver of local index l (Table 9-5). -/
def Exch.roundA (e : Exch) (l : Nat) : List Byte :=
  (List.range e.plan.g).flatMap fun g => leBytes 4 (e.x.recs.filter fun r => r.dest == 64 * g + l).length

/-- The output of a landing row: slot 0's row r. -/
def State.outputRow (s : State) (c : Cmd) (r : Nat) : List Byte :=
  let t := s.slotTensor c 0
  (t.rows[r]?).elim (zeros t.rowLen) fun a => s.mem.bytes a t.rowLen

/-- R255: the records of this member's combine stream that answers a dispatch phase. -/
def State.combineRecs (s : State) (e : Exch) (c : Cmd) (stage ph : Nat) : List SpoutRecord :=
  (e.x.landed.filter fun l => l.region == stage && l.phase == ph).map fun l =>
    if l.recd.dest = e.m then { l.recd with row := s.outputRow c l.row }
    else { l.recd with row := ((e.x.answers.find? fun a => a.sameRec l.recd).map (·.row)).getD [] }

/-- The stream of one phase of the current part. -/
def State.partStream (s : State) (ctx : Nat) (e : Exch) (c : Cmd) (s0 : Nat) (pl : Placed) : OutStream :=
  let st := partStage e.x.part
  let combine := e.x.state == 4
  let dm := if combine then e.plan.src e.m st pl.phase else e.plan.dst e.m st pl.phase
  let dst := e.plan.members.getD dm 0xFFFF
  let route := (e.plan.entry st (if combine then e.plan.reverse st pl.phase else pl.phase)).routes.getD pl.lane 0
  let kind := if e.x.part ≤ 3 then e.x.part else if combine then 5 else 4
  let tag := e.plan.tag.toNat
  let flits :=
    if e.x.part = 1 then countFlits e.p.seq tag s.devId dst 1 st pl.phase 2 (e.roundA (dm % 64))
    else if e.x.part ≤ 3 then countFlits e.p.seq tag s.devId dst kind st pl.phase 3 (e.x.vec.flatMap (leBytes 4))
    else
      let recs := if combine then s.combineRecs e c st pl.phase else e.sent st pl.phase
      recordFlits e.p.seq tag s.devId dst kind st pl.phase recs.length
        (recs.map fun r => r.bytes e.plan.members (if combine then e.x.fo else e.x.fi))
  { engine := 3, ctx, kind, stage := st, phase := pl.phase, lane := pl.lane, dst := BitVec.ofNat 16 dst, route, job := e.x.job
    base := s0, start := pl.start, flits }

/-- R253: the streams expected in a part of base slot s0 and END `pend`, with their deadline. -/
def Exch.expected (e : Exch) (places : List Placed) (s0 pend deadline : Nat) : List SpoutExpect :=
  let st := partStage e.x.part
  (sortBy (fun (a b : Placed) => decide (a.phase ≤ b.phase)) places).map fun pl =>
    { part := e.x.part, src := e.plan.members.getD (if e.x.state = 4 then e.plan.dst e.m st pl.phase else e.plan.src e.m st pl.phase) 0xFFFF
      phase := pl.phase, base := s0, upTo := pend / slotLen, pos := pl.start % 121, deadline }

/-- L0: the own records for this member (R251). -/
def Exch.local (e : Exch) : List Landed :=
  let own := e.x.recs.filter fun r => r.dest == e.m
  (own.zip (List.range own.length)).map fun (r, i) => ⟨0, 0, i, r⟩

/-- A stream's start position has not passed. -/
def Exch.inTime (e : Exch) (s0 now : Nat) (pl : Placed) : Bool :=
  let at' := lanePlace e.om s0 pl.start
  decide (now ≤ positionTick at'.1 at'.2)

/-- R241, R247: a part begins at its base slot s0. A stream whose start has passed is not sent, and the command fails
(notes/assumptions/24.md). -/
def State.beginPart (s : State) (ctx : Nat) (e : Exch) (c : Cmd) (s0 : Nat) : State :=
  let combine := e.x.state == 4
  match timetable (e.phases e.x.part (if combine then e.x.fo else e.x.fi) combine) with
  | none => s.spFail ctx stStructure 0 0
  | some (places, used) =>
    let pend := partEnd e.om s0 used e.plan.hmax
    let land := if e.x.part = 4 && !combine then e.local else []
    let deadline := (if e.x.state = 1 then pend else max e.x.endsAt pend) + e.p.rxSlack
    let s1 := s.modSpCtx ctx fun x =>
      { x with part := e.x.part, partBegun := true, partBase := s0, partEnd := pend
               expect := x.expect ++ e.expected places s0 pend deadline, landed := x.landed ++ land, endsAt := max x.endsAt pend }
    let out := places.filter (e.inTime s0 s.now)
    let s2 := (s1.addStreams (out.map (s.partStream ctx e c s0))).noRestart c
    (if out.length = places.length then s2 else s2.spMark ctx stRemoteTimeout 0).chainStarts e.x.job

/-- EXCHANGE_PART_START (R241, R247, R259): the part begins in its first owned slot, whatever has come of the parts before it. -/
def exchangePartStart (ctx : Nat) (s : State) : State :=
  match s.exch ctx, (s.spCtx ctx).cmd with
  | some e, some c =>
    match e.upNext with
    | none => s
    | some (part, due) =>
      let s0 := firstOwned e.om due
      if (e.x.state != 1 && e.x.state != 2 && e.x.state != 4) || decide (s.now / slotLen < s0) ||
         (e.unbegun && !s.startKnown ctx e.x.job) then s
      else s.beginPart ctx { e with x := { e.x with part, partBegun := false } } c s0
  | _, _ => s

def execExchangePartStart (ctx : Nat) (s : State) : Result :=
  if ctx < 16 then .next (exchangePartStart ctx s) else noResource "context" ctx

/-! ## Arrivals -/

/-- R242, R252: a header's own values agree with the receiver's. -/
def headerOk (h : List Byte) (seq tag src dst kind stage phase : Nat) : Bool :=
  leAt h 4 4 == seq && leAt h 8 4 == tag && leAt h 12 2 == src && leAt h 14 2 == dst && leAt h 16 1 == kind &&
  leAt h 17 1 == stage && leAt h 18 2 == phase

/-- R243: the maxima are known: RBOUND, END and the first data stage, or BOUNDS at once, but the first
failure of the command stands (R263). -/
def State.maximaKnown (s : State) (ctx : Nat) (e : Exch) (c : Cmd) : State :=
  let rb := e.bound
  let len w := ((s.landingWindow e.x.job w).map (·.len)).getD 0
  let fits := rb * 240 * e.x.fi ≤ len e.p.lwin && rb * 240 * e.x.fo ≤ len e.p.rwin
  let s1 := s.modSpCtx ctx fun x => { x with rbound := rb }
  let fail (status detail : Nat) (bits : BitVec 16) := if e.x.status = 0 then s1.spFail ctx status detail bits else s1.spFail ctx e.x.status e.x.detail 0
  if !fits || (s.slotTensor c 4).size < rb then fail stBounds (if fits then 4 else 0) 8
  else if !e.timetablesOk e.x.fi e.x.fo then fail stStructure 0 0
  else
    (s1.modSpCtx ctx fun x => { x with state := 2, part := 4, partBegun := false
                                       endsAt := e.finalEnd e.x.fi false (e.afterCompute e.x.partEnd) }).chainStarts e.x.job

/-- A count stream was lost or bad: the maxima cannot be known. -/
def SpoutCtx.noMaxima (x : SpoutCtx) : Bool := x.state == 1 && x.countsLost

/-- When the last count round has begun and every count stream has come, the maxima are known (R243). -/
def State.countsDone (s : State) (ctx : Nat) (c : Cmd) : State :=
  match s.exch ctx with
  | none => s
  | some e =>
    if e.x.state == 1 && e.x.partBegun && e.nextPart == some 4 && e.x.expect.isEmpty && !e.x.noMaxima then s.maximaKnown ctx e c else s

/-- R241: what a count stream adds: round A sums stage-2 words, as long as round B1 has not begun; the rounds B take maxima. -/
def Exch.addCount (e : Exch) (part : Nat) (payload : List Byte) : List Nat :=
  if part = 1 then
    if e.x.part != 1 then e.x.vec
    else (List.range 128).map fun i =>
      let v := e.x.vec.getD i 0
      if 63 ≤ i && i < 126 && i - 62 < e.plan.g then v + leAt payload (4 * ((e.m / 64 + (i - 62)) % e.plan.g)) 4 else v
  else (List.range 128).map fun i => max (e.x.vec.getD i 0) (leAt payload (4 * i) 4)

/-- A stream that has come: what was expected, its header flit and its other flits. -/
structure Came where
  x : SpoutExpect
  head : RxFlit
  body : List RxFlit
  deriving DecidableEq, Repr

/-- COUNT of the stream. -/
def Came.count (a : Came) : Nat := leAt a.head.payload 0 4

/-- R252: COUNT exceeds the maximum of the phase. -/
def Exch.tooMany (e : Exch) (x : SpoutExpect) (count : Nat) : Bool := decide (3 < x.part) && decide (e.x.nmax (partStage x.part) x.phase < count)

/-- R252: an expected stream, if it is complete: its header and the flits its COUNT names have come. -/
def State.came (s : State) (e : Exch) (x : SpoutExpect) : Option Came :=
  match s.streamFrom e.x.job x.src x.base x.upTo x.pos e.om with
  | [] => none
  | hd :: rest =>
    let count := leAt hd.payload 0 4
    let n := if x.part = 1 then 1 else if x.part ≤ 3 then 2 else count * (if e.x.state == 4 then e.x.fo else e.x.fi)
    if !e.tooMany x count && decide (rest.length < n) then none else some ⟨x, hd, rest.take n⟩

/-- R259: a count stream of a context was lost or bad. -/
def State.loseCounts (s : State) (ctx : Nat) (lost : Bool) : State := s.modSpCtx ctx fun x => { x with countsLost := x.countsLost || lost }

/-- R242, R252, R255: a complete stream is checked and taken. -/
def State.takeCame (s : State) (ctx : Nat) (e : Exch) (c : Cmd) (a : Came) : State :=
  let st := partStage a.x.part
  let combine := e.x.state == 4
  let flits := if combine then e.x.fo else e.x.fi
  let kind := if a.x.part ≤ 3 then a.x.part else if combine then 5 else 4
  let h := a.head.payload
  let bytes := (a.body.map (·.payload)).flatten
  let bad := (s.spMark ctx stCheckMismatch (a.x.phase * 65536 + st)).loseCounts ctx (a.x.part ≤ 3)
  if !headerOk h e.p.seq e.plan.tag.toNat a.x.src s.devId kind st a.x.phase then bad
  else if a.x.part ≤ 3 then s.modSpCtx ctx fun x => { x with vec := e.addCount a.x.part (h.drop 24 ++ bytes) }
  else if e.tooMany a.x a.count || leAt h 20 4 != (if a.count = 0 then 0 else crc32c bytes) then bad
  else
    let rowLen := if combine then (s.slotTensor c 0).rowLen else s.rowBytesIn c
    let recs := (chunksOf (240 * flits) (a.count + 1) bytes).map fun b => parseRecord b e.plan.members rowLen
    if combine then
      if recs.map (fun r => { r with row := [] }) != (e.sent st a.x.phase).map (fun r => { r with row := [] }) then bad
      else s.modSpCtx ctx fun x => { x with answers := x.answers ++ recs }
    else
      let base := e.regionRow st a.x.phase
      let new := (recs.zip (List.range recs.length)).map fun (r, i) => (⟨st, a.x.phase, base + i, r⟩ : Landed)
      let le (a b : Landed) := decide (a.row ≤ b.row)
      s.modSpCtx ctx fun x => { x with landed := new.foldl (fun l r => insertBy le r l) x.landed }

/-- SPOUT_STREAM_COMPLETE (R242, R252, R253, R255): an inbound stream whose flits have all come by its deadline is checked and taken. -/
def spoutStreamComplete (ctx src : Nat) (s : State) : State :=
  match s.exch ctx, (s.spCtx ctx).cmd with
  | some e, some c =>
    match (e.x.expect.filter fun x => x.src == src && decide (s.now ≤ x.deadline)).findSome? (s.came e) with
    | none => s
    | some a =>
      let s1 := (s.takeStream (a.head :: a.body)).modSpCtx ctx fun x => { x with expect := x.expect.erase a.x }
      (s1.takeCame ctx e c a).countsDone ctx c
  | _, _ => s

def execSpoutStreamComplete (ctx src : Nat) (s : State) : Result :=
  if ctx < 16 then .next (spoutStreamComplete ctx src s) else noResource "context" ctx

/-! ## Late starts, deadlines, ends -/

/-- The waiting Spout command that names a context at the head of its queue. -/
def State.waitingSpout (s : State) (ctx : Nat) : Option Cmd :=
  (List.range 8).findSome? fun j => ((s.queue 3 j).head?).filter fun c =>
    (c.opcode == 1 || c.opcode == 2) && (spParams (s.params c)).ctx == ctx

/-- SPOUT_LATE_START (R258): a command that has not started by the end of its effective start's tick. -/
def spoutLateStart (ctx : Nat) (s : State) : State :=
  match s.waitingSpout ctx with
  | none => s
  | some c =>
    let p := spParams (s.params c)
    if s.counting && s.spPast p c.job 0 then
      ((s.raiseLate c).setQueue 3 c.job (s.queue 3 c.job).tail).spLate c ctx
    else s

def execSpoutLateStart (ctx : Nat) (s : State) : Result :=
  if ctx < 16 then .next (spoutLateStart ctx s) else noResource "context" ctx

/-- SPOUT_RECEIVE_DEADLINE (R253, R259): streams still incomplete after END + RX_SLACK are no longer expected and the command fails;
it ends once the exchange's own END has passed. -/
def spoutReceiveDeadline (ctx : Nat) (s : State) : State :=
  match (s.spCtx ctx).expect.filter fun x => decide (x.deadline < s.now) with
  | [] => s
  | x :: r =>
    let s0 := (s.spMark ctx stRemoteTimeout (x.phase * 65536 + partStage x.part)).loseCounts ctx ((x :: r).any fun z => z.part ≤ 3)
    let s1 := s0.modSpCtx ctx fun y => { y with expect := y.expect.filter fun z => decide (s.now ≤ z.deadline) }
    let y := s1.spCtx ctx
    if y.endsAt ≤ s.now then s1.spFail ctx y.status y.detail 0 else s1

def execSpoutReceiveDeadline (ctx : Nat) (s : State) : Result :=
  if ctx < 16 then .next (spoutReceiveDeadline ctx s) else noResource "context" ctx

/-- All of an exchange has come and gone: the last part begun, every stream sent and complete, forwarding done. -/
def State.exchangeDone (s : State) (ctx : Nat) (e : Exch) : Bool :=
  e.x.partBegun && e.nextPart.isNone && e.x.expect.isEmpty && e.x.status == 0 && s.allSent 3 ctx && s.allForwarded e.x.job

/-- R254: the receive shape words and the row list. -/
def Exch.receiveLists (e : Exch) : List Nat × List Nat :=
  let here := sortBy (fun (a b : Landed) => decide (a.recd.expert < b.recd.expert) || (a.recd.expert == b.recd.expert && decide (a.row ≤ b.row)))
    (e.x.landed.filter fun l => l.recd.dest == e.m)
  let counts := (List.range e.p.e).map fun k => (here.filter fun l => l.recd.expert == k).length
  let firsts := (List.range e.p.e).map fun k => (here.filter fun l => decide (l.recd.expert < k)).length
  (here.length :: (counts ++ firsts), here.map (·.row))

/-- R251: where a landing row stands. -/
def State.landAt (s : State) (e : Exch) (r : Nat) : Nat :=
  ((s.landingWindow e.x.job e.p.lwin).map (·.base)).getD 0 + r * 240 * e.x.fi

/-- What DISPATCH writes at its commit: the landed records, the receive shape words and the row list (R251, R254). -/
def State.dispatchWrites (s : State) (e : Exch) (c : Cmd) : List (Nat × List Byte) :=
  let put (i : Nat) (ws : List Nat) :=
    let t := s.slotTensor c i
    t.placeWords (ws ++ ((t.words s.mem).drop ws.length))
  (e.x.landed.map fun l => (s.landAt e l.row, l.recd.bytes e.plan.members e.x.fi)) ++ put 3 e.receiveLists.1 ++ put 4 e.receiveLists.2

/-- DISPATCH_COMMIT (R254). -/
def dispatchCommit (ctx : Nat) (s : State) : State :=
  match s.exch ctx, (s.spCtx ctx).cmd with
  | some e, some c =>
    if e.x.state = 2 && s.exchangeDone ctx e then
      let bad := ((e.x.landed.find? fun l => s.partBad (s.landAt e l.row) (240 * e.x.fi)).map (·.row)).orElse fun _ =>
        (s.rowsEcc c [] [3, 4]).map (·.2)
      match bad with
      | some r => s.spFail ctx stEccUncorr r 0
      | none =>
        let strip (l : Landed) := { l with recd := { l.recd with row := [] } }
        let s1 := s.modSpCtx ctx fun x =>
          { x with state := 3, cmd := none, part := 0, partBegun := false, recs := x.recs.map fun r => { r with row := [] }
                   landed := x.landed.map strip }
        State.spEnd { (s1.storeAll (s.dispatchWrites e c)) with spt := { s1.spt with cntExch := s1.spt.cntExch + 1 } }
          c ctx stOk 0 0
    else s
  | _, _ => s

def execDispatchCommit (ctx : Nat) (s : State) : Result :=
  if ctx < 16 then .next (dispatchCommit ctx s) else noResource "context" ctx

/-- One choice record: expert, slot, weight. -/
def choiceAt (row : List Byte) (i : Nat) : Nat × Nat × FVal :=
  (leAt row (8 * i) 2, leAt row (8 * i + 2) 2, decodeElem 0x0 (leAt row (8 * i + 4) 4))

/-- R255: the output of choice j of a token: a shared output of slot 2, a local row of slot 0, or a returned row; none
when it is missing or repeated. -/
def State.choiceOutput (s : State) (e : Exch) (c : Cmd) (t j nk : Nat) : Option (List FVal) :=
  let h := (s.slotTensor c 0).exts.headD 0
  let dec (b : List Byte) := decodeRow e.p.fmtOut h b
  let s2 := s.slotTensor c 2
  let shared := if e.p.localShared then s2.exts.getD 2 0 else 0
  if e.p.localShared && nk ≤ j + shared then
    (s2.rows[(j + shared - nk) * s2.exts.getD 1 0 + t]?).map fun a => dec (s.mem.bytes a s2.rowLen)
  else
    let hit (r : SpoutRecord) := r.origin == s.devId && r.token == t && r.choice == j
    let own := (e.x.landed.filter fun l => l.region == 0 && hit l.recd).map fun l => s.outputRow c l.row
    let back := (e.x.answers.filter hit).map (·.row)
    match own ++ back with
    | [b] => some (dec b)
    | _ => none

/-- The choice records of a token, in order. -/
def State.choices (s : State) (c : Cmd) (t : Nat) : List (Nat × Nat × FVal) :=
  let ct := s.slotTensor c 1
  let row := (ct.rows[t]?).elim [] fun a => s.mem.bytes a ct.rowLen
  (List.range (ct.exts.headD 0 / 2)).map (choiceAt row)

/-- An accepted choice (R256). -/
def accepted (ch : Nat × Nat × FVal) : Bool := ch.1 != 0xFFFF && ch.2.1 != 0xFFFF

/-- R255: the first token and choice without exactly one answer. -/
def State.unanswered (s : State) (e : Exch) (c : Cmd) : Option (Nat × Nat) :=
  (List.range ((s.slotTensor c 3).exts.getD 1 0)).findSome? fun t =>
    let chs := s.choices c t
    ((List.range chs.length).find? fun j => chs[j]?.any accepted && (s.choiceOutput e c t j chs.length).isNone).map fun j => (t, j)

/-- R256: the combined output of a token, whose accepted choices are all answered. -/
def State.combinedRow (s : State) (e : Exch) (c : Cmd) (t : Nat) : List FVal :=
  let chs := s.choices c t
  ((List.range chs.length).zip chs).foldl (fun v x =>
    if !accepted x.2 then v
    else v.zipWith (fun a b => toFp32 (a.add (x.2.2.2.mul b))) ((s.choiceOutput e c t x.1 chs.length).getD []))
    (List.replicate ((s.slotTensor c 0).exts.headD 0) fZero)

/-- R263: phase × 2^16 + stage of the dispatch stream that carried a choice's record; 0 where no stream did. -/
def Exch.wayOf (e : Exch) (dev : Nat) (x : Nat × Nat) : Nat :=
  ([1, 2].findSome? fun st => ((e.plan.phaseList st).find? fun ph =>
    (e.sent st ph).any fun r => r.origin == dev && r.token == x.1 && r.choice == x.2).map fun ph => ph * 65536 + st).getD 0

/-- The return-window row of an answer: the region of the phase that carried it, in the stream's order (R251). -/
def Exch.returnRow (e : Exch) (a : SpoutRecord) : Nat :=
  let find st := (e.plan.phaseList st).findSome? fun ph => ((e.sent st ph).findIdx? fun r => r.sameRec a).map fun i => e.regionRow st ph + i
  ((if e.plan.two then find 2 else none).orElse fun _ => find 1).getD 0

/-- What COMBINE writes at its commit: the rows that came back, in the return window, and the combined rows (R255, R256). -/
def State.combineWrites (s : State) (e : Exch) (c : Cmd) (rows : List (List FVal)) : List (Nat × List Byte) :=
  let base := ((s.landingWindow e.x.job e.p.rwin).map (·.base)).getD 0
  (e.x.answers.map fun a => (base + e.returnRow a * 240 * e.x.fo, a.bytes e.plan.members e.x.fo)) ++
    (s.slotTensor c 3).placeVals .rne rows.flatten

/-- COMBINE_COMMIT (R255, R256): every token in choice-record order; the context becomes FREE. -/
def combineCommit (ctx : Nat) (s : State) : State :=
  match s.exch ctx, (s.spCtx ctx).cmd with
  | some e, some c =>
    if e.x.state = 4 && s.exchangeDone ctx e then
      let base := ((s.landingWindow e.x.job e.p.rwin).map (·.base)).getD 0
      let back := (e.x.answers.map e.returnRow).find? fun r => s.partBad (base + r * 240 * e.x.fo) (240 * e.x.fo)
      match s.unanswered e c, back.orElse fun _ => (s.rowsEcc c [0, 1] [3]).map (·.2) with
      | some x, _ => s.spFail ctx stCheckMismatch (e.wayOf s.devId x) 0
      | none, some r => s.spFail ctx stEccUncorr r 0
      | none, none =>
        let rows := (List.range ((s.slotTensor c 3).exts.getD 1 0)).map (s.combinedRow e c)
        let s1 := s.modSpCtx ctx fun x => { job := x.job, endsAt := x.endsAt }
        State.spEnd { (s1.storeAll (s.combineWrites e c rows)) with spt := { s1.spt with cntExch := s1.spt.cntExch + 1 } }
          c ctx stOk 0 0
    else s
  | _, _ => s

def execCombineCommit (ctx : Nat) (s : State) : Result :=
  if ctx < 16 then .next (combineCommit ctx s) else noResource "context" ctx

/-- EXCHANGE_END (R259): at the END a command that has failed stops and completes with its status. While count streams may still come the
END of the exchange is not known, and it goes on. -/
def exchangeEnd (ctx : Nat) (s : State) : State :=
  let x := s.spCtx ctx
  if x.cmd.isSome && x.status != 0 && x.partBegun && (x.state != 1 || x.countsLost) && x.endsAt ≤ s.now then s.spFail ctx x.status x.detail 0 else s

def execExchangeEnd (ctx : Nat) (s : State) : Result :=
  if ctx < 16 then .next (exchangeEnd ctx s) else noResource "context" ctx

end Sys2Proof.Machine
end

