-- ==== Sys2Proof/Machine/Collective.lean ====
section
/-!
DEFINITION. The collective engine (12_collectives.md R312 to R323): REDUCE_SCATTER and ALL_GATHER. A part is numbered
1 and 2 for the count round in stage 1 and 2, 3 for stage 1, 4 for stage 2. One collective runs at a time.
-/

namespace Sys2Proof.Machine

/-! ## Parameters, Table 12-1 -/

structure ColParams where
  opr : Nat
  plan : Nat
  relative : Bool
  var : Bool
  lwin : Nat
  seq : Nat
  start : Nat
  gap : Nat
  rxSlack : Nat
  shard : Nat
  stageGap : Nat
  deriving DecidableEq, Repr

def colParams (b : List Byte) : ColParams :=
  let f := leAt b 2 1
  { opr := leAt b 0 1, plan := leAt b 1 1, relative := bitOf f 0, var := bitOf f 1, lwin := leAt b 3 1, seq := leAt b 4 4
    start := leAt b 8 8, gap := leAt b 16 4, rxSlack := leAt b 20 4, shard := leAt b 24 4, stageGap := leAt b 28 4 }

/-- R312: reserved bits, and OPR. -/
def colReserved (b : List Byte) (rs : Bool) : Check :=
  if (if rs then 1 else 0) < leAt b 0 1 then some (stBadOpcode, 0)
  else if 4 ≤ leAt b 2 1 then some (stBadOpcode, 2) else zeroParams b (offsets 32 63)

/-! ## A collective under way -/

structure ColX where
  r : ColRun
  p : ColParams
  plan : Plan
  m : Nat
  om : List Nat
  rs : Bool
  deriving DecidableEq, Repr

def State.colOf (s : State) (r : ColRun) : Option ColX :=
  let p := colParams r.params
  match s.plan p.plan with
  | none => none
  | some pl => (pl.member s.devId).map fun m => { r, p, plan := pl, m, om := s.planOmega pl r.cmd.job, rs := r.cmd.opcode == 1 }

def State.colx (s : State) : Option ColX := s.col.run.bind s.colOf

def State.modRun (s : State) (f : ColRun → ColRun) : State := { s with col := { s.col with run := s.col.run.map f } }

/-- The shard sizes by rank: all SHARD, or slot 2 of a REDUCE_SCATTER under VAR. -/
def State.shardSizes (s : State) (x : ColX) : List Nat :=
  if x.p.var then (s.slotTensor x.r.cmd 2).words s.mem else List.replicate x.plan.d x.p.shard

/-- This member's shard as it holds it (R319): the largest entry of slot 2, or the extent of slot 0. -/
def State.ownMax (s : State) (x : ColX) : Nat :=
  if !x.p.var then x.p.shard
  else if x.rs then (s.shardSizes x).foldl max 0
  else (s.slotTensor x.r.cmd 0).exts.headD 0

/-- The format of partials (R315). -/
def wideFmt (f : Nat) : Nat := if f = 0xA then 0xA else 0x0

/-- F(n, f) of R316. -/
def chunkFlits (n f : Nat) : Nat := ceilDiv (16 + rowBytes f n) 240

/-- Chunks of a stream, and the format of its chunks. -/
def ColX.chunkCount (x : ColX) (stage : Nat) : Nat :=
  if stage = 1 then (if x.rs && x.plan.two then x.plan.g else 1) else if x.rs then 1 else 64
def State.chunkFmt (s : State) (x : ColX) (stage : Nat) : Nat :=
  let f := (s.slotTensor x.r.cmd 0).fmt
  if stage = 2 && x.rs then wideFmt f else f

/-- R320: the length of a stream of a stage. -/
def State.colLen (s : State) (x : ColX) (stage : Nat) : Nat :=
  1 + x.chunkCount stage * chunkFlits x.r.smax (s.chunkFmt x stage)

def colStage (part : Nat) : Nat := if part = 2 || part = 4 then 2 else 1

/-- The phases of a part with their lengths and lanes. -/
def State.colPhases (s : State) (x : ColX) (part : Nat) : List (Nat × Nat × List Nat) :=
  let st := colStage part
  (x.plan.phaseList st).map fun ph => (ph, (if part ≤ 2 then 1 else s.colLen x st), (x.plan.entry st ph).laneList)

/-- The END of a part from its base slot. -/
def State.colEnd (s : State) (x : ColX) (part s0 : Nat) : Nat :=
  match timetable (s.colPhases x part) with
  | some (_, used) => partEnd x.om s0 used x.plan.hmax
  | none => s0 * slotLen

/-- R320: the END of the final stage from the due instant of stage 1. -/
def State.colFinal (s : State) (x : ColX) (due : Nat) : Nat :=
  let e1 := s.colEnd x 3 (firstOwned x.om due)
  if x.plan.two then s.colEnd x 4 (firstOwned x.om (e1 + x.p.stageGap)) else e1

/-- The END of the count round from the effective start. -/
def State.countEnd (s : State) (x : ColX) (eff : Nat) : Nat :=
  let e1 := s.colEnd x 1 (firstOwned x.om eff)
  if x.plan.two then s.colEnd x 2 (firstOwned x.om e1) else e1

/-- Table 12-6: the tick at or after the count END plus the timetable time. -/
def ColX.afterCompute (x : ColX) (t : Nat) : Nat :=
  t + ceilDiv ((200 + 4 * (x.plan.nPhases 1 + x.plan.nPhases 2)) * 10) 9

/-- R320: the END of the final stage, with Smax as far as it is known. -/
def State.colFin (s : State) (x : ColX) : Nat :=
  s.colFinal x (if x.p.var then x.afterCompute (s.countEnd x x.r.effStart) else x.r.effStart)

/-- The instant at or after which the current part starts, before it has begun (R320). -/
def ColX.due (x : ColX) : Nat :=
  match x.r.part with
  | 1 => x.r.effStart
  | 2 => x.r.partEnd
  | 3 => if x.p.var then x.afterCompute x.r.partEnd else x.r.effStart
  | _ => x.r.partEnd + x.p.stageGap

/-- The part after a part, if any. -/
def ColX.nextPart (x : ColX) : Option Nat :=
  match x.r.part with
  | 1 => some (if x.plan.two then 2 else 3)
  | 2 => some 3
  | 3 => if x.plan.two then some 4 else none
  | _ => none

/-- The part that starts next, whatever has come of the parts before it (R318, R319); stage 1 after a count round waits for Smax. -/
def ColX.upNext (x : ColX) : Option ColX :=
  if !x.r.partBegun then some x
  else (x.nextPart.filter (· != 3)).map fun n => { x with r := { x.r with part := n, partBegun := false } }

/-- R321: the flits other than headers that the member expects. -/
def State.windowFlits (s : State) (x : ColX) : Nat :=
  let f1 := x.plan.nPhases 1 * (s.colLen x 1 - 1)
  if x.plan.two then f1 + x.plan.nPhases 2 * (s.colLen x 2 - 1) else f1

/-! ## Chunks, Table 12-4 -/

/-- The sealed bytes of a chunk, padded to whole flits. -/
def Chunk.bytes (c : Chunk) (flits : Nat) : List Byte :=
  let h := leBytes 2 c.sealer ++ leBytes 2 c.rank ++ leBytes 2 c.shard ++ leBytes 1 c.fmt ++
    leBytes 1 (flagBit c.isPartial 0 + flagBit c.missing 1) ++ leBytes 4 c.elems
  padTo (240 * flits) (h ++ leBytes 4 (crc32c (h ++ c.data)) ++ c.data)

/-- The flits a chunk takes: a MISSING chunk takes those of the largest shard. -/
def Chunk.flits (c : Chunk) (smax fmt : Nat) : Nat := chunkFlits (if c.missing then smax else c.elems) fmt

/-- The chunk some bytes spell, and whether its seal holds. -/
def parseChunk (b : List Byte) (stage phase src fmt : Nat) : Chunk × Bool :=
  let w := leAt b 7 1
  let n := leAt b 8 4
  let data := slice b 16 (rowBytes fmt n)
  ({ stage, phase, src, sealer := leAt b 0 2, rank := leAt b 2 2, shard := leAt b 4 2, fmt := leAt b 6 1, isPartial := bitOf w 0
     missing := bitOf w 1, elems := n, data }, leAt b 12 4 == crc32c (slice b 0 12 ++ data) && w < 4)

/-- Elements of shard r in a list of sizes: offset and count. -/
def shardSpan (sizes : List Nat) (r : Nat) : Nat × Nat := ((sizes.take r).sum, sizes.getD r 0)

/-- This member's contribution to a shard, or its shard: its bytes and elements. -/
def State.contribution (s : State) (x : ColX) (r : Nat) : List Byte × Nat :=
  let t := s.slotTensor x.r.cmd 0
  if x.rs then
    let (o, n) := shardSpan (s.shardSizes x) r
    (slice (t.read s.mem) (rowBytes t.fmt o) (rowBytes t.fmt n), n)
  else (t.read s.mem, t.exts.headD 0)

/-- R317: a chunk sealed at its origin. -/
def State.ownChunk (s : State) (x : ColX) (shard : Nat) : Chunk :=
  let (b, n) := s.contribution x shard
  { sealer := s.devId, rank := x.m, shard, fmt := (s.slotTensor x.r.cmd 0).fmt, elems := n, data := b }

/-- R315: op of REDUCE_SCATTER on FP32 values or INT32 words, by the format of the data. -/
def reduceOp (opr fmt a b : Nat) : Nat :=
  if fmt = 0xA then
    if opr = 0 then (a + b) % 2 ^ 32 else if signedOf 32 a < signedOf 32 b then b else a
  else
    let x := decodeElem 0x0 a
    let y := decodeElem 0x0 b
    encodeElem 0x0 .rne (if opr = 0 then x.add y else x.maximum y)

/-- A chunk's elements as FP32 encodings, or INT32 words. -/
def wideWords (fmt n : Nat) (data : List Byte) : List Nat :=
  if fmt = 0xA then (List.range n).map fun i => leAt data (4 * i) 4
  else (decodeRow fmt n data).map (encodeElem 0x0 .rne)

/-- R315: contributions taken in order of rank. -/
def reduceAll (opr fmt : Nat) (xs : List (List Nat)) : List Nat :=
  match xs with
  | [] => []
  | x :: r => r.foldl (fun a b => a.zipWith (reduceOp opr fmt) b) x

/-- The contribution of a rank to a shard, received in stage 1 or this member's own; none when it is not held. -/
def State.heldRank (s : State) (x : ColX) (rank shard : Nat) : Option (List Nat) :=
  let f := (s.slotTensor x.r.cmd 0).fmt
  if rank = x.m then
    let (b, n) := s.contribution x shard
    some (wideWords f n b)
  else (x.r.chunks.find? fun c => c.stage == 1 && c.rank == rank && c.shard == shard && !c.missing).map fun c => wideWords f c.elems c.data

/-- Every value of a list, or none. -/
def allSome (l : List (Option α)) : Option (List α) :=
  l.foldr (fun x acc => x.bind fun v => acc.map (v :: ·)) (some [])

/-- R315: the partial of this member's group for a shard. -/
def State.groupPartial (s : State) (x : ColX) (shard : Nat) : Option (List Nat) :=
  let f := (s.slotTensor x.r.cmd 0).fmt
  let ranks := if x.plan.two then (List.range 64).map fun l => x.m / 64 * 64 + l else List.range x.plan.d
  (allSome (ranks.map fun r => s.heldRank x r shard)).map (reduceAll x.p.opr f)

/-- R318: a MISSING chunk for a shard. -/
def State.missingChunk (s : State) (x : ColX) (shard fmt : Nat) (isPartial : Bool) : Chunk :=
  { sealer := s.devId, rank := x.m, shard, fmt, missing := true, isPartial }

/-- Table 12-3: the chunks of this member's stream to a phase peer. -/
def State.streamChunks (s : State) (x : ColX) (stage ph : Nat) : List Chunk :=
  let dm := x.plan.dst x.m stage ph
  if stage = 1 then
    if !x.rs then [s.ownChunk x x.m]
    else if x.plan.two then (List.range x.plan.g).map fun g => s.ownChunk x (64 * g + dm % 64)
    else [s.ownChunk x dm]
  else if x.rs then
    let w := wideFmt (s.slotTensor x.r.cmd 0).fmt
    match s.groupPartial x dm with
    | some ws => [{ sealer := s.devId, rank := x.m, shard := dm, fmt := w, isPartial := true, elems := ws.length, data := ws.flatMap (leBytes 4) }]
    | none => [s.missingChunk x dm w true]
  else
    (List.range 64).map fun l =>
      let r := x.m / 64 * 64 + l
      if r = x.m then s.ownChunk x r
      else (x.r.chunks.find? fun c => c.stage == 1 && c.shard == r && !c.missing).getD
        (s.missingChunk x r (s.slotTensor x.r.cmd 0).fmt false)

/-- Chunks as flits, chunk by chunk. -/
def State.chunkFlitLists (s : State) (x : ColX) (stage : Nat) (cs : List Chunk) : List (List (List Byte)) :=
  let f := s.chunkFmt x stage
  cs.map fun c =>
    let n := c.flits x.r.smax f
    chunksOf 240 (n + 1) (c.bytes n)

/-- KIND of the streams (R316). -/
def ColX.kind (x : ColX) : Nat := if x.r.part ≤ 2 then 6 else if x.rs then 7 else 8

/-- The two words of a count round (R319). -/
def countWords (x : ColX) : List Byte := leBytes 4 x.r.smax ++ leBytes 4 x.r.sizeCrc.toNat

/-- The stream of one phase of the current part. -/
def State.colStream (s : State) (x : ColX) (s0 : Nat) (pl : Placed) : OutStream :=
  let st := colStage x.r.part
  let dst := x.plan.members.getD (x.plan.dst x.m st pl.phase) 0xFFFF
  let cs := if x.r.part ≤ 2 then [] else s.streamChunks x st pl.phase
  let hdr := streamHeader cs.length x.p.seq x.plan.tag.toNat s.devId dst x.kind st pl.phase 0
    (if x.r.part ≤ 2 then countWords x else [])
  { engine := 8, ctx := 0, kind := x.kind, stage := st, phase := pl.phase, lane := pl.lane, dst := BitVec.ofNat 16 dst
    route := (x.plan.entry st pl.phase).routes.getD pl.lane 0, job := x.r.cmd.job, base := s0, start := pl.start
    flits := hdr :: (s.chunkFlitLists x st cs).flatten }

/-- R318: a stage-2 stream takes up chunks that have come since, where none of their flits was due. -/
def refreshChunks (old : List (List Byte)) (new : List (List (List Byte))) (fmt smax next at' : Nat) : Nat → List (List Byte)
  | 0 => []
  | fuel + 1 =>
    match new with
    | [] => []
    | c :: rest =>
      match old with
      | [] => []
      | h :: _ =>
        let (k, _) := parseChunk h 2 0 0 fmt
        let n := max 1 (k.flits smax fmt)
        if at' < next then old.take n ++ refreshChunks (old.drop n) rest fmt smax next (at' + n) fuel
        else c ++ rest.flatten

/-- Stage-2 streams rebuilt with what this member now holds. -/
def State.refreshStreams (s : State) : State :=
  match s.colx with
  | none => s
  | some x =>
    if x.r.part != 4 || !x.r.partBegun then s
    else
      { s with spt := { s.spt with outs := s.spt.outs.map fun o =>
        if o.engine = 8 && o.stage = 2 then
          let new := s.chunkFlitLists x 2 (s.streamChunks x 2 o.phase)
          match o.flits with
          | h :: old => { o with flits := h :: refreshChunks old new (s.chunkFmt x 2) x.r.smax o.next 1 65 }
          | [] => o
        else o } }

/-! ## Ends and failures -/

def colBits (status : Nat) : BitVec 16 := if status = 0x31 then 1 else if status = 0x32 then 2 else 0

/-- A collective ends with a failure. -/
def State.colFail (s : State) (c : Cmd) (status detail deadline : Nat) : State :=
  let s1 := (s.dropStreams 8 0).modEng 8 fun e => { e with evt := e.evt ||| colBits status }
  ((State.checkFailed { s1 with col := { s1.col with run := none } } c.job status deadline).failOutputs c status).complete c status detail

/-- The first failure found. -/
def State.colMark (s : State) (status detail : Nat) : State :=
  s.modRun fun r => if r.status = 0 then { r with status, detail } else r

/-- END of the final stage, or of the count round while the stages are not timetabled. -/
def ColX.finish (x : ColX) : Nat := x.r.deadline - x.p.rxSlack

/-- R320: the effective start. -/
def State.colStart (s : State) (p : ColParams) (j : Nat) : Nat :=
  let prev := tget 0 s.col.lastEnd j
  max prev (roundUp (if p.relative then prev + p.gap else p.start) frameLen)

/-- R321: the landing window is the job's, of MODE 1 still, and large enough. -/
def State.colWindow (s : State) (x : ColX) : Check :=
  firstFail (s.windowChecks x.r.cmd.job [x.p.lwin] ++
    [need ((s.landingWindow x.r.cmd.job x.p.lwin).any fun w => s.windowFlits x * 240 ≤ w.len) stBounds 0])

/-- R322: a late collective sends nothing, and one entry is written. -/
def State.colLate (s : State) (c : Cmd) (deadline : Nat) : State :=
  (s.jobEvent 3 0x160 0x0020 c.opcode 0 stRemoteTimeout c.job).colFail c stRemoteTimeout 0 deadline

/-! ## Commands -/

/-- Table 12-2: the formats of each command. -/
def rsFmts : List Nat := [0, 1, 2, 0xA]
def agFmts : List Nat := [0, 1, 2, 3, 4, 5, 6, 7, 8, 9, 0xA, 0xB, 0xD]

/-- The checks of a collective (R312 to R314, R83). -/
def State.colChecks (s : State) (c : Cmd) (rs : Bool) : List Check :=
  let b := s.params c
  let p := colParams b
  let d := ((s.plan p.plan).getD {}).d
  let t0 := s.slotTensor c 0
  let sizes := if p.var && rs then (s.slotTensor c 2).words s.mem else List.replicate d p.shard
  let m := (((s.plan p.plan).getD {}).member s.devId).getD 0
  let one (n : Nat) (t : Tensor) := t.exts == [n]
  let least (n : Nat) (t : Tensor) := t.exts.length == 1 && decide (n ≤ t.exts.headD 0)
  [colReserved b rs] ++ s.planChecks c.job p.plan (bitOf (s.st (0x160100 + 8 * c.job)) (1 + p.plan)) ++
  (if p.var then s.checkSlot c 2 [0xA] (if rs then one d else least (2 * d + 1)) else [need (s.slotZero c 2) stStructure 2]) ++
  (if rs then s.checkSlot c 0 rsFmts (one sizes.sum) ++
     s.checkSlot c 1 (if t0.fmt = 0xA then [0xA] else [0, 1, 2]) (one (sizes.getD m 0))
   else s.checkSlot c 0 agFmts (if p.var then least 0 else one p.shard) ++
     s.checkSlot c 1 [t0.fmt] (if p.var then least 0 else one (d * p.shard))) ++
  ((List.range 5).map fun i => need (s.slotZero c (3 + i)) stStructure (3 + i)) ++
  -- R340: a landing window whose MODE is not SERVICE
  [need ((s.landingWindow c.job p.lwin).all fun w => w.mode == 1) stStructure 0, s.overlapCheck c 1, s.toleranceCheck ((s.plan p.plan).getD {})]

/-- A collective as it stands when it starts, with its plan. -/
def State.colPlan (s : State) (c : Cmd) : Option ColX :=
  let p := colParams (s.params c)
  (s.colOf { cmd := c, params := s.params c, effStart := s.colStart p c.job, part := if p.var then 1 else 3
             prevEnd := tget 0 s.col.lastEnd c.job }).map fun x =>
    { x with r := { x.r with
        smax := s.ownMax x
        sizeCrc := if p.var && x.rs then BitVec.ofNat 32 (crc32c ((s.slotTensor c 2).read s.mem)) else 0 } }

/-- R330: deadline of a collective that has not started. -/
def State.colDeadline (s : State) (c : Cmd) : Nat := (s.colPlan c).elim s.now fun x => s.colFin x + x.p.rxSlack

/-- R322, Table 12-6: ticks a collective that starts now takes to build its first chunk and, with VAR 0, its timetables. -/
def State.colWork (s : State) (x : ColX) : Nat :=
  let tables := if x.p.var then 0 else 200 + 4 * (x.plan.nPhases 1 + x.plan.nPhases 2)
  let chunk := ((s.streamChunks x 1 1).head?).elim 0 fun c => 16 + c.data.length
  ceilDiv ((120 + tables + ceilDiv chunk 256) * 10) 9

/-- R322: the first failure of a collective that starts: its window, with VAR 0, and uncorrectable errors. It goes on sending. -/
def State.colFirst (s : State) (x : ColX) : Check :=
  let c := x.r.cmd
  let ins := if x.p.var && x.rs then [0, 2] else [0]
  let outs := if x.p.var && !x.rs then [1, 2] else [1]
  (if x.p.var then none else s.colWindow x).orElse fun _ => s.rowsEcc c ins outs

/-- The END of the job's latest collective (R320). -/
def State.setColEnd (s : State) (j t : Nat) : State := { s with col := { s.col with lastEnd := tset 0 s.col.lastEnd j t } }

/-- REDUCE_SCATTER and ALL_GATHER start (R312 to R322). -/
def collectiveStart (op : Nat) (s : State) : State :=
  if s.col.run.isSome then s
  else
    s.withHead 8 op fun s c =>
      let fail st d := (((s.modEng 8 fun e => { e with evt := e.evt ||| colBits st }).checkFailed c.job st (s.colDeadline c)).failOutputs c st).complete c st d
      match firstFail (s.colChecks c (op == 1)), s.colPlan c with
      | some (st, d), _ => fail st d
      | none, none => fail stStructure 0
      | none, some x =>
        if ([1, 2, 3, 4].any fun part => (timetable (s.colPhases x part)).isNone) then fail stStructure 0
        else
          let fin := s.colFin x
          let bad := (s.colFirst x).getD (0, 0)
          let r := { x.r with deadline := fin + x.p.rxSlack, status := bad.1, detail := bad.2 }
          let s1 := s.setColEnd c.job fin
          if r.effStart < s.now + s.colWork x then s1.colLate c r.deadline
          else State.addLive { s1 with col := { s1.col with run := some r } } c true

/-- REDUCE_SCATTER. -/
def execReduceScatter (s : State) : Result := .next (collectiveStart 0x01 s)

/-- ALL_GATHER. -/
def execAllGather (s : State) : Result := .next (collectiveStart 0x02 s)

/-- What the landing window holds after a collective is not stated: its bytes are free (R321). -/
def State.windowUsed (s : State) (x : ColX) : State :=
  match s.landingWindow x.r.cmd.job x.p.lwin with
  | some w => s.leaveUndefined [(w.base, min w.len (s.windowFlits x * 240))]
  | none => s

/-- A stream's start position has not passed. -/
def ColX.inTime (x : ColX) (s0 now : Nat) (pl : Placed) : Bool :=
  let at' := lanePlace x.om s0 pl.start
  decide (now ≤ positionTick at'.1 at'.2)

/-- The streams a part of base slot s0 and END `pend` expects, by phase. -/
def ColX.expected (x : ColX) (places : List Placed) (s0 pend : Nat) : List SpoutExpect :=
  let st := colStage x.r.part
  (sortBy (fun (a b : Placed) => decide (a.phase ≤ b.phase)) places).map fun pl =>
    { part := x.r.part, src := x.plan.members.getD (x.plan.src x.m st pl.phase) 0xFFFF, phase := pl.phase, base := s0
      upTo := pend / slotLen, pos := pl.start % 121, deadline := x.r.deadline }

/-- COLLECTIVE_PART_START (R319 to R321): a count round or stage begins in its first owned slot. A stream whose start has passed is
not sent, and the command fails (notes/assumptions/28.md). -/
def collectivePartStart (s : State) : State :=
  match s.colx.bind ColX.upNext with
  | none => s
  | some x =>
    let s0 := firstOwned x.om x.due
    if s.now / slotLen < s0 then s
    else match timetable (s.colPhases x x.r.part) with
      | none => s
      | some (places, used) =>
        let pend := partEnd x.om s0 used x.plan.hmax
        let s1 := s.modRun fun r =>
          { r with part := x.r.part, partBegun := true, partBase := s0, partEnd := pend, expect := r.expect ++ x.expected places s0 pend }
        let s2 := if x.r.part = 3 then s1.windowUsed x else s1
        let out := places.filter (x.inTime s0 s.now)
        let s3 := (s2.addStreams (out.map (s.colStream x s0))).noRestart x.r.cmd
        match places.find? fun pl => !x.inTime s0 s.now pl with
        | some pl => s3.colMark stRemoteTimeout (pl.phase * 65536 + colStage x.r.part)
        | none => s3

def execCollectivePartStart (s : State) : Result := .next (collectivePartStart s)

/-! ## Arrivals -/

/-- The END and the deadline follow Smax, as far as it is known (R320, R321). -/
def State.settleEnd (s : State) : State :=
  match s.colx with
  | none => s
  | some x =>
    let fin := s.colFin x
    (s.setColEnd x.r.cmd.job fin).modRun fun r =>
      let d := fin + x.p.rxSlack
      { r with deadline := d, expect := r.expect.map fun y => { y with deadline := d } }

/-- R319, R321: the last count round has begun and every header has come: Smax is known, the window is checked, and stage 1 follows. A
member whose command has failed goes on (R322). -/
def State.colAdvance (s : State) : State :=
  match s.colx with
  | none => s
  | some x =>
    if !x.r.partBegun || !x.r.expect.isEmpty || x.nextPart != some 3 then s
    else
      let s1 := match s.colWindow x with
        | some (st, d) => s.colMark st d
        | none => s
      s1.modRun fun r => { r with part := 3, partBegun := false }

/-- The sending member of a device in a stage, with the phase. -/
def ColX.stageOf (x : ColX) (member : Nat) : Nat := if x.plan.two && member / 64 != x.m / 64 then 2 else 1

/-- R317: what chunk `i` of a stream must say: rank, shard, elements if known, partial. -/
def State.chunkWanted (s : State) (x : ColX) (stage member i : Nat) : Nat × Nat × Option Nat × Bool :=
  let size r := if x.rs || !x.p.var then some ((s.shardSizes x).getD r 0) else none
  if x.rs then
    if stage = 2 then (member, x.m, size x.m, true)
    else
      let sh := if x.plan.two then 64 * i + x.m % 64 else x.m
      (member, sh, size sh, false)
  else if stage = 2 then (member / 64 * 64 + i, member / 64 * 64 + i, size (member / 64 * 64 + i), false)
  else (member, member, size member, false)

/-- R317: a chunk agrees with the receiver's own values. -/
def State.chunkOk (s : State) (x : ColX) (stage member i : Nat) (c : Chunk) : Bool :=
  let (rank, shard, size, part) := s.chunkWanted x stage member i
  if c.missing then c.shard == shard && c.elems == 0
  else c.rank == rank && c.shard == shard && c.fmt == s.chunkFmt x stage && c.isPartial == part && c.elems ≤ x.r.smax &&
    c.sealer == x.plan.members.getD rank 0xFFFF && (size.elim true fun n => c.elems == n)

/-- R319: the header of a count round: its size joins Smax, its CRC is compared. -/
def State.takeCount (s : State) (x : ColX) (h : List Byte) (okHead : Bool) (detail : Nat) : State :=
  let s1 := (s.modRun fun r => { r with smax := max r.smax (leAt h 24 4) }).settleEnd
  (if okHead && leAt h 28 4 == x.r.sizeCrc.toNat then s1 else s1.colMark stCheckMismatch detail).colAdvance

/-- CHUNK_RECEIVE (R317 to R319): the next chunk of a stream, or the header of a count round, is checked and taken. A chunk whose
header disagrees is refused with the flits that have come. -/
def chunkReceive (src : Nat) (s : State) : State :=
  match s.colx with
  | none => s
  | some x =>
    let found := (x.r.expect.filter fun y => y.src == src && decide (s.now ≤ y.deadline)).findSome? fun y =>
      match s.streamFrom x.r.cmd.job src y.base y.upTo y.pos x.om with
      | [] => none
      | hd :: rest => some (y, hd, rest)
    match found, x.plan.member src with
    | some (y, hd, rest), some member =>
      let stage := colStage y.part
      let detail := y.phase * 65536 + stage
      let okHead := headerOk hd.payload x.p.seq x.plan.tag.toNat src s.devId (if y.part ≤ 2 then 6 else if x.rs then 7 else 8) stage y.phase
      let gone (t : State) (fs : List RxFlit) := (t.takeStream fs).modRun fun r => { r with expect := r.expect.filter (· != y) }
      if y.part ≤ 2 then (gone s [hd]).takeCount x hd.payload okHead detail
      else
        let count := x.chunkCount stage
        let fmt := s.chunkFmt x stage
        let held := x.r.chunks.filter fun c => c.src == src && c.stage == stage
        -- the flits of the chunks taken so far stand between the header and the next chunk
        let done := (held.map fun c => c.flits x.r.smax fmt).sum
        if !okHead || leAt hd.payload 0 4 != count then (gone s [hd]).colMark stCheckMismatch detail
        else match rest.drop done with
          | [] => s
          | f :: more =>
            let c0 := (parseChunk f.payload stage y.phase src fmt).1
            let n := max 1 (c0.flits x.r.smax fmt)
            let okChunk := s.chunkOk x stage member held.length c0
            if okChunk && decide ((f :: more).length < n) then s
            else
              let (c, sealed) := parseChunk ((f :: more).take n |>.map (·.payload)).flatten stage y.phase src fmt
              let s1 := if sealed then s else { s with col := { s.col with cntSeal := s.col.cntSeal + 1 } }
              if sealed && okChunk then
                let s2 := if held.length + 1 = count then gone s1 (hd :: rest.take (done + n)) else s1
                (s2.modRun fun r => { r with chunks := r.chunks ++ [c] }).refreshStreams
              else (gone s1 (hd :: rest.take (done + n))).colMark stCheckMismatch detail
    | _, _ => s

def execChunkReceive (src : Nat) (s : State) : Result := .next (chunkReceive src s)

/-! ## Late, deadlines, commit, end -/

/-- A late command that never started ends; the running collective, if any, goes on. -/
def State.lateEnd (s : State) (c : Cmd) (deadline : Nat) : State :=
  (((s.modEng 8 fun e => { e with evt := e.evt ||| 1 }).checkFailed c.job stRemoteTimeout deadline).failOutputs c stRemoteTimeout).complete
    c stRemoteTimeout 0

/-- COLLECTIVE_LATE (R322): a collective at the head of its queue that has not started by its effective start. -/
def collectiveLate (s : State) : State :=
  let late := (List.range 8).findSome? fun j => ((s.queue 8 j).head?).filter fun c =>
    (c.opcode == 1 || c.opcode == 2) && s.counting && decide (s.colStart (colParams (s.params c)) j < s.now)
  match late with
  | none => s
  | some c =>
    let s1 := (s.setQueue 8 c.job (s.queue 8 c.job).tail).setColEnd c.job ((s.colPlan c).elim (s.colStart (colParams (s.params c)) c.job) s.colFin)
    (s1.jobEvent 3 0x160 0x0020 c.opcode 0 stRemoteTimeout c.job).lateEnd c (s.colDeadline c)

def execCollectiveLate (s : State) : Result := .next (collectiveLate s)

/-- COLLECTIVE_RECEIVE_DEADLINE (R318, R321): a stream is still incomplete, or a MISSING chunk came, or a part has not
begun. -/
def collectiveReceiveDeadline (s : State) : State :=
  match s.colx with
  | none => s
  | some x =>
    let behind := if x.r.partBegun then x.nextPart else some x.r.part
    let missing := (x.r.expect.map fun y => (y.phase, colStage y.part)) ++ ((x.r.chunks.filter (·.missing)).map fun c => (c.phase, c.stage)) ++
      (behind.toList.map fun n => (1, colStage n))
    match missing with
    | [] => s
    | (ph, st) :: _ =>
      if x.r.deadline < s.now then
        s.colFail x.r.cmd (if x.r.status = 0 then stRemoteTimeout else x.r.status)
          (if x.r.status = 0 then ph * 65536 + st else x.r.detail) x.r.deadline
      else s

def execCollectiveReceiveDeadline (s : State) : Result := .next (collectiveReceiveDeadline s)

/-- The last part of the collective has begun. -/
def ColX.lastPart (x : ColX) : Bool := x.r.partBegun && x.r.part == (if x.plan.two then 4 else 3)

/-- R315: the words of this member's output shard. -/
def State.reducedShard (s : State) (x : ColX) : Option (List Nat) :=
  let f := (s.slotTensor x.r.cmd 0).fmt
  if !x.plan.two then s.groupPartial x x.m
  else
    let part g := if g = x.m / 64 then s.groupPartial x x.m
      else (x.r.chunks.find? fun c => c.stage == 2 && c.rank / 64 == g && c.shard == x.m && !c.missing).map fun c =>
        wideWords (wideFmt f) c.elems c.data
    (allSome ((List.range x.plan.g).map part)).map (reduceAll x.p.opr f)

/-- ALL_GATHER: the shards in rank order, with their elements. -/
def State.gathered (s : State) (x : ColX) : Option (List (Nat × List Byte)) :=
  allSome ((List.range x.plan.d).map fun r =>
    if r = x.m then
      let (b, n) := s.contribution x r
      some (n, b)
    else (x.r.chunks.find? fun c => c.shard == r && !c.missing).map fun c => (c.elems, c.data))

/-- R328 to R330: a collective of a provisional job that commits confirms the start, unless a roll-back is due. -/
def State.confirmStart (s : State) (j : Nat) : State :=
  if (s.slot j).provisional && s.col.rollbackAt.isNone then
    let s1 := s.setSlot j fun x => { x with provisional := false }
    { s1 with col := { s1.col with startState := 4, provJob := none, prior := none, rollbackAt := none } }
  else s

/-- A collective commits. -/
def State.colCommit (s : State) (c : Cmd) (ws : List (Nat × List Byte)) : State :=
  let s1 := s.storeAll ws
  (State.confirmStart { s1 with col := { s1.col with run := none, cntCmd := s1.col.cntCmd + 1 } } c.job).complete c stOk 0

/-- The writes of a REDUCE_SCATTER's output. -/
def State.reduceWrites (s : State) (x : ColX) (ws : List Nat) : List (Nat × List Byte) :=
  let t := s.slotTensor x.r.cmd 1
  if t.fmt = 0xA then t.placeWords ws else t.placeVals .rne (ws.map (decodeElem 0x0))

/-- The writes of an ALL_GATHER's outputs (R313). -/
def State.gatherWrites (s : State) (x : ColX) (gs : List (Nat × List Byte)) : List (Nat × List Byte) :=
  let ns := gs.map (·.1)
  let words := ns.sum :: (ns ++ (List.range ns.length).map fun r => (ns.take r).sum)
  (localOf (s.slotTensor x.r.cmd 1).base, (gs.map (·.2)).flatten) ::
    (if x.p.var then [(localOf (s.slotTensor x.r.cmd 2).base, words.flatMap (leBytes 4))] else [])

/-- R322, R473: an output row that would fill a part of an uncorrectable line keeps a collective from committing. -/
def State.orColEcc (s : State) (x : ColX) (outs : List Nat) (body : State → State) : State :=
  match s.rowsEcc x.r.cmd [] outs with
  | some (st, d) => s.colFail x.r.cmd st d x.r.deadline
  | none => body s

/-- COLLECTIVE_COMMIT (R313, R315, R329): every stream complete, all sent and forwarded. -/
def collectiveCommit (s : State) : State :=
  match s.colx with
  | none => s
  | some x =>
    if x.lastPart && x.r.expect.isEmpty && x.r.status == 0 && (x.r.chunks.all fun c => !c.missing) && s.allSent 8 0 && s.allForwarded x.r.cmd.job then
      if x.rs then
        match s.reducedShard x with
        | some ws => s.orColEcc x [1] fun s => s.colCommit x.r.cmd (s.reduceWrites x ws)
        | none => s
      else match s.gathered x with
        | some gs =>
          if (s.slotTensor x.r.cmd 1).exts.headD 0 < (gs.map (·.1)).sum then s.colFail x.r.cmd stStructure 1 x.r.deadline
          else s.orColEcc x (if x.p.var then [1, 2] else [1]) fun s => s.colCommit x.r.cmd (s.gatherWrites x gs)
        | none => s
    else s

def execCollectiveCommit (s : State) : Result := .next (collectiveCommit s)

/-- COLLECTIVE_END (R322): at the END a collective that has failed stops and completes with its status. -/
def collectiveEnd (s : State) : State :=
  match s.colx with
  | none => s
  | some x => if x.r.status != 0 && x.finish ≤ s.now then s.colFail x.r.cmd x.r.status x.r.detail x.r.deadline else s

def execCollectiveEnd (s : State) : Result := .next (collectiveEnd s)

end Sys2Proof.Machine
end

