-- ==== Sys2Proof/Machine/Power.lean ====
section
/-!
DEFINITION. The power input and the clock root (01_module.md R21 to R40, R47, R48, R497).
-/

namespace Sys2Proof.Machine

/-- R25: PWR_EN held low for 100 ms and then driven high ends the latch; qualification (step 1) begins when PWR_EN is
high, and standby returns when it goes low before rail sequencing. DESIGN CHOICE (notes/assumptions/10.md): the spec does not say
whether a PWR_EN cycle made while 64 V is absent counts as R25's first action; the model keeps the latch, since no power-stage
controller is powered to see it. -/
def pwrEnChange (level : Bool) (heldUs : Nat) (s : State) : State :=
  if !s.pwr.present || s.pwr.pwrEn == level then { s with pwr := { s.pwr with pwrEn := level } }
  else
    let free := level && s.pwr.latched && decide (100000 ≤ heldUs)
    let s1 := { s with pwr := { s.pwr with pwrEn := level, latched := s.pwr.latched && !free } }
    if s1.pwr.running then s1
    else if level && !s1.pwr.latched then ((s1.beginStep 1).noWait)
    else if !level && !s1.boot.hold then (s1.setStep 0).noWait
    else s1

/-- PWR_EN_CHANGE (R23, R25). -/
def execPwrEnChange (level : Bool) (heldUs : Nat) (s : State) : Result := .next (pwrEnChange level heldUs s)

/-- RAIL_SEQUENCING_START (R23, R28): the first row of Table 1-2. -/
def railSequencingStart (vinMv heldUs : Nat) (s : State) : State :=
  if s.pwr.present && s.pwr.pwrEn && !s.pwr.running && !s.pwr.latched && 58000 ≤ vinMv && 10000 ≤ heldUs then
    let s1 := { s with pwr := { s.pwr with running := true, vinMv } }
    (s1.beginStep 2).noWait
  else s

def execRailSequencingStart (vinMv heldUs : Nat) (s : State) : Result := .next (railSequencingStart vinMv heldUs s)

/-- RAIL_REGULATION_TIMEOUT (R47): rails 1 to 6 in their order. -/
def railRegulationTimeout (rail : Nat) (s : State) : State :=
  if s.pwr.running && s.boot.step = 2 && !s.pwr.pwrOk then
    { s with
      pwr := { s.pwr with running := false, pwrOk := false, latched := true, seqFault := some rail }
      boot := { s.boot with hold := true, wait := false, cause := 0x01, status := 0 } }
  else s

def execRailRegulationTimeout (rail : Nat) (s : State) : Result :=
  if 1 ≤ rail ∧ rail ≤ 6 then .next (railRegulationTimeout rail s) else noResource "rail" rail

/-- PWR_OK_RELEASE (R48): the Warden leaves reset. -/
def pwrOkRelease (s : State) : State :=
  if s.pwr.running && s.boot.step = 2 && !s.boot.hold then
    -- R43: the trouble log does not run before step 3
    let s1 := { s with pwr := { s.pwr with pwrOk := true }, boot := { s.boot with sincePwrOk := 0 }, log := { s.log with offered := [] } }
    (s1.beginStep 3).firstEntries
  else s

def execPwrOkRelease (s : State) : Result := .next (pwrOkRelease s)

/-- The rows of Table 1-2 whose condition a sample of a running module meets, with the duration each asks for in ns. -/
def shutdownRows (s : State) (vinMv iinMa : Nat) : List (Nat × Nat) :=
  [(3, 10000001, decide (56000 ≤ vinMv) && decide (vinMv < 58000)),
   (4, 50000, decide (vinMv < 56000)),
   (6, 100000, decide (69000 < vinMv)),
   (7, 20000, decide (50000 < iinMa)),
   (8, 10000, !s.pwr.pwrEn || !s.pwr.internalEnable)].filterMap fun (r, d, ok) => if ok then some (r, d) else none

/-- R24: one bit for each row whose condition held in the sample, rows 2 and 5 among them (rows 2 and 3 share one condition), and
bit 8 for a request of the Warden; bit r - 1 stands for row r (notes/assumptions/10.md). -/
def causeBits (s : State) (vinMv iinMa : Nat) : Nat :=
  let sag := decide (56000 ≤ vinMv) && decide (vinMv < 58000)
  flagBit sag 1 + flagBit sag 2 + flagBit (decide (vinMv < 56000)) 3 +
  flagBit (decide (67000 < vinMv) && decide (vinMv ≤ 69000)) 4 + flagBit (decide (69000 < vinMv)) 5 +
  flagBit (decide (50000 < iinMa)) 6 + flagBit (!s.pwr.pwrEn || !s.pwr.internalEnable) 7 + flagBit (!s.pwr.internalEnable) 8

/-- INPUT_SHUTDOWN (R23, R24, R70). -/
def inputShutdown (vinMv iinMa heldNs : Nat) (s : State) : State :=
  let rows := shutdownRows s vinMv iinMa
  if s.pwr.running && rows.any (fun r => decide (r.2 ≤ heldNs)) then
    State.inputShutdown { s with pwr := { s.pwr with vinMv } } (causeBits s vinMv iinMa)
  else s

def execInputShutdown (vinMv iinMa heldNs : Nat) (s : State) : Result := .next (inputShutdown vinMv iinMa heldNs s)

/-- INPUT_EXCURSION_END (R23): the one entry 0x0003 of an excursion in row 2 (at most 10 ms) or row 5. DESIGN CHOICE
(notes/assumptions/10.md): the spec gives no TIME for an excursion whose first sample lies before PWR_OK release, where the count of
ns since the release would be negative; the model writes 0 there. -/
def inputExcursionEnd (row extremeMv spanNs : Nat) (s : State) : State :=
  if s.pwr.running && 3 ≤ s.boot.step && ((row = 2 && spanNs ≤ 10000000) || row = 5) then
    let e : LogEntry := { time := s.logTime - spanNs, at' := s.boot.sincePwrOk - spanNs, prelock := s.prelock, cls := 2, source := 0x000, event := 0x0003
                          aux := row, span := min spanNs 0xFFFFFFFF, detail := BitVec.ofNat 64 extremeMv }
    { s with log := { s.log with offered := s.log.offered ++ [e] } }
  else s

def execInputExcursionEnd (row extremeMv spanNs : Nat) (s : State) : Result :=
  .next (inputExcursionEnd row extremeMv spanNs s)

/-- POWER_64V_APPLIED (R25, R45, R497). -/
def power64vApplied (vinMv removedMs : Nat) (s : State) : State :=
  if !s.pwr.present && 40000 ≤ vinMv then
    let free := s.pwr.latched && s.pwr.pwrEn && decide (1000 ≤ removedMs)
    let s1 := { s with
      pwr := { s.pwr with present := true, vinMv, latched := s.pwr.latched && !free }
      boot := { s.boot with imgSrc := false, timeRoot := false }
      ht := { s.ht with seed := 0 }
      fab := { s.fab with fabId := 0xFFFF } }
    if s1.pwr.pwrEn && !s1.pwr.latched then (s1.beginStep 1).noWait else (s1.setStep 0).noWait
  else s

def execPower64vApplied (vinMv removedMs : Nat) (s : State) : Result := .next (power64vApplied vinMv removedMs s)

/-- POWER_64V_REMOVED (R497): below 40 V the controller loses its registers; a module still running loses everything
volatile, in the outcome of row 4. DESIGN CHOICE (notes/assumptions/10.md): the spec does not say what the cause word shows when
Vin passes 40 V before row 4's 50 us have run; the model shuts down at once, with the bits of every row that a sample of this voltage
and no input current meets. -/
def power64vRemoved (vinMv : Nat) (s : State) : State :=
  if s.pwr.present && vinMv < 40000 then
    let s1 := if s.pwr.running then s.inputShutdown (causeBits s vinMv 0) else s
    ({ s1 with pwr := { s1.pwr with present := false, vinMv }, host := { s1.host with i3cAddr := none } }.setStep 0).noWait
  else s

def execPower64vRemoved (vinMv : Nat) (s : State) : Result := .next (power64vRemoved vinMv s)

/-- R40: the hall-time alarm entry. -/
def State.htAlarm (s : State) : State := s.event 5 0x020 0x0041 s.ht.state.code s.ht.rootId.toNat

/-- ROOT_SOURCE_LOSS (R40): no edge for 200 ns, or more than 50 ppm from the oscillator, from which the oscillator itself does not
differ. -/
def rootSourceLoss (noEdgeNs driftPpm : Nat) (s : State) : State :=
  if s.pwr.running && !s.clk.holdover && (200 ≤ noEdgeNs || (s.clk.source != .oscillator && 50 < driftPpm)) then
    State.htAlarm { s with clk := { s.clk with holdover := true } }
  else s

def execRootSourceLoss (noEdgeNs driftPpm : Nat) (s : State) : Result := .next (rootSourceLoss noEdgeNs driftPpm s)

/-- ROOT_SOURCE_RETURN (R39, R40): after 10 ms without a break, phase-continuously. -/
def rootSourceReturn (validUs : Nat) (s : State) : State :=
  if s.pwr.running && s.clk.holdover && 10000 ≤ validUs then { s with clk := { s.clk with holdover := false } } else s

def execRootSourceReturn (validUs : Nat) (s : State) : Result := .next (rootSourceReturn validUs s)

end Sys2Proof.Machine
end

