-- ==== Sys2Proof/Machine/Cores.lean ====
section
/-!
DEFINITION. Operations of the cores (05_core_sequencer.md): the logical grid and what a core reaches (R8, R148),
credit windows (R150, R151), the checks on a descriptor (R145), the queues of long-running instructions (R126, R127),
failing a task (R147) and completing an instruction (R124, R149).
-/

namespace Sys2Proof.Machine

/-! ## Reach, R8, R148 -/

/-- The core in a direction (1 north, 2 south, 3 west, 4 east) on the logical grid of its stack. -/
def neighbourOf (c dir : Nat) : Option Nat :=
  match dir with
  | 1 => if 0 < c % 64 / 8 then some (c - 8) else none
  | 2 => if c % 64 / 8 < 7 then some (c + 8) else none
  | 3 => if 0 < c % 8 then some (c - 1) else none
  | 4 => if c % 8 < 7 then some (c + 1) else none
  | _ => none

/-- The direction a neighbour has seen from the other side. -/
def opposite (dir : Nat) : Nat := match dir with | 1 => 2 | 2 => 1 | 3 => 4 | 4 => 3 | _ => 0

/-- The direction in which core p sees core k on the grid; 0 where they are no neighbours. -/
def seenFrom (p k : Nat) : Nat := ([1, 2, 3, 4].find? fun d => neighbourOf p d == some k).getD 0

/-- A neighbour in the same stack, enabled, and of the same job. -/
def State.neighbour (s : State) (c dir : Nat) : Option Nat :=
  (neighbourOf c dir).filter fun n => s.coreEnabled n && s.jobOfCore n == (s.core c).job

/-- The core whose scratchpad holds a whole range. -/
def padCore (a n : Nat) : Option Nat :=
  if padBase ≤ a then
    let p := (a - padBase) / padSize
    if p < 256 && a + n ≤ padBase + (p + 1) * padSize then some p else none
  else none

/-- The direction in which a core reaches another core's scratchpad. -/
def State.dirTo (s : State) (c p : Nat) : Option Nat := [1, 2, 3, 4].find? fun d => s.neighbour c d == some p

/-- R148, R379, R391: a core may address a local range. -/
def State.coreReach (s : State) (k a n : Nat) : Bool :=
  n == 0 || s.inReadable (s.core k).job a n ||
  (padCore a n).any fun p => p == k || (s.dirTo k p).isSome

/-- CORE_CRW_w of a core. -/
def State.window (s : State) (k w : Nat) : CreditWindow := tget {} (s.core k).crw w

/-- The range of a credit window. -/
def CreditWindow.range (c : CreditWindow) (k : Nat) : Nat × Nat := (padBase + k * padSize + c.base * 256, c.len * 256)

/-- R150: a core may write a range it reaches: a neighbour's scratchpad only inside a credit window it holds, unless the
neighbour is in SERVICE mode. -/
def State.writeAllowed (s : State) (k a n : Nat) : Bool :=
  n == 0 || match padCore a n with
    | none => s.inWindows (s.core k).job a n
    | some p =>
      p == k || (s.core p).mode == 1 || (s.dirTo k p).any fun d =>
        (List.range 8).any fun w => (s.window p w).en && (s.window p w).holder == opposite d && inside (a, n) ((s.window p w).range p)

/-! ## Descriptors of a core, R143 to R145 -/

/-- Bytes of the DMEM of a core. -/
def Core.dmemBytes (c : Core) (a n : Nat) : List Byte := (List.range n).map fun i => tget 0 c.dmem (a + i)

/-- Descriptor `n`, at DMEM byte n × 64. -/
def State.coreDesc (s : State) (k n : Nat) : Desc := parseDesc ((s.core k).dmemBytes (64 * n) 64)

/-- How an instruction uses a tensor. -/
inductive Use where
  | read | write | readRemote | writeRemote
  deriving DecidableEq, Repr

/-- A tensor on another device, where the instruction allows one. -/
def State.isRemote (s : State) (d : Desc) : Bool := !s.ownAddr d.base

/-- A shape word of a descriptor holds an uncorrectable error (R145). -/
def State.shapeBad (s : State) (d : Desc) : Bool := (List.range d.rank).any fun i => d.src.testBit i && s.hasBad (d.swbase + 4 * d.exts.getD i 0) 4

/-- The checks of R145 on a descriptor but for the ECC of its data: structure, alignment, bounds and reach, ECC of the shape words. -/
def State.descChecks (s : State) (k : Nat) (d : Desc) (fmts : List Nat) (u : Use) : List Check :=
  let t := d.resolve s.mem
  let swOk := (List.range d.rank).all fun i => !d.src.testBit i || s.coreReach k (d.swbase + 4 * d.exts.getD i 0) 4
  let wr := u == .write || u == .writeRemote
  let rem := s.isRemote d
  [need (d.structOk s.mem fmts) stStructure 0,
   need d.alignOk stAlign 0,
   need swOk stBounds 0,
   need t.inBound stBounds 0,
   need (t.size == 0 || (if rem then (u == .readRemote || u == .writeRemote) && devOf d.base != 0xFFFF
         else t.rows.all fun a => s.coreReach k a t.rowLen && (!wr || s.writeAllowed k a t.rowLen))) stBounds 0,
   need (!s.shapeBad d) stEccUncorr 0]

/-- R145: ECC of rows read, and of the lines that rows written fill in part. -/
def State.eccRows (s : State) (d : Desc) (wr : Bool) (rows : List Nat) : Check :=
  let n := (d.resolve s.mem).rowLen
  need (s.isRemote d || !(rows.any fun a => if wr then s.partBad a n else s.hasBad a n)) stEccUncorr 0

/-- The checks of R145 on a descriptor whose whole tensor is read or written. -/
def State.coreChecks (s : State) (k : Nat) (d : Desc) (fmts : List Nat) (u : Use) : List Check :=
  s.descChecks k d fmts u ++ [s.eccRows d (u == .write || u == .writeRemote) (d.resolve s.mem).rows]

/-! ## Long-running instructions: fields -/

/-- Field [hi:lo] of an instruction's slot. -/
def LongInstr.fld (i : LongInstr) (hi lo : Nat) : Nat := field i.bits.toNat hi lo
def LongInstr.op (i : LongInstr) : Nat := i.fld 7 0
/-- Descriptor index n of the triple. -/
def LongInstr.d (i : LongInstr) (n : Nat) : Nat := i.fld (73 + 10 * n) (64 + 10 * n)

/-- The wait field of a slot of a unit. -/
def waitField (unit bits : Nat) : BitVec 10 :=
  BitVec.ofNat 10 (match unit with | 3 => field bits 44 35 | 4 => field bits 33 24 | _ => field bits 31 22)
/-- The signal field of a slot of a unit. -/
def sigField (unit bits : Nat) : BitVec 8 :=
  BitVec.ofNat 8 (match unit with | 3 => field bits 52 45 | 4 => field bits 41 34 | _ => field bits 39 32)

/-- The queue of a unit. -/
def Core.queue (c : Core) (unit : Nat) : List LongInstr :=
  match unit with | 3 => c.qVec | 4 => c.qMat | 5 => c.qLd | 6 => c.qSt | _ => []

/-- Sets the queue of a unit. -/
def Core.setQueue (c : Core) (unit : Nat) (q : List LongInstr) : Core :=
  match unit with
  | 3 => { c with qVec := q } | 4 => { c with qMat := q } | 5 => { c with qLd := q } | 6 => { c with qSt := q } | _ => c

/-- R122: a met wait takes effect as its instruction starts. -/
def Core.takeWait (c : Core) (w : BitVec 10) : Core :=
  match waitMode w with
  | 2 => { c with tgt := tmod 0 c.tgt (waitIdx w) (· + tget 0 c.stp (waitIdx w)) }
  | 5 => { c with flags := c.flags &&& ~~~(BitVec.ofNat 64 (2 ^ waitIdx w)) }
  | _ => c

/-- A head's wait is met. -/
def Core.waitOf (c : Core) (w : BitVec 10) : Bool := waitMet c.cnt c.tgt c.flags w

/-- R127: the start of one of two heads moves the target, or clears the flag, that the other waits on. -/
def waitsMeet (v w : BitVec 10) : Bool :=
  waitMode v != 0 && waitMode w != 0 && decide (waitMode v ≤ 3) == decide (waitMode w ≤ 3) && waitIdx v == waitIdx w &&
  ([2, 5].contains (waitMode v) || [2, 5].contains (waitMode w))

/-- R127, R302: the wait of a unit's head is met, no fence holds the unit, and every request of its instruction before has been
issued. -/
def State.unitReady (s : State) (k unit : Nat) (i : LongInstr) : Bool :=
  let c := s.core k
  c.waitOf (waitField unit i.bits.toNat) &&
  c.started.all fun x => x.unit != unit || (!x.fence && s.fab.toSend.all fun r => r.requester != 0x100 + k || r.instr != x.id)

/-- R127: the ready head of an earlier unit starts before this head is evaluated, and one of the two starts bears on the other. -/
def State.outranked (s : State) (k unit : Nat) (w : BitVec 10) : Bool :=
  ([3, 4, 5, 6].filter (· < unit)).any fun u =>
    (((s.core k).queue u).head?).any fun i => waitsMeet (waitField u i.bits.toNat) w && s.unitReady k u i

/-- Operand descriptors of a long-running instruction: none for LD.CR and ST.FENCE, two for LD.T and ST.T. -/
def LongInstr.descs (i : LongInstr) : List Nat :=
  match i.unit, i.op with
  | 5, 0x04 => []
  | 6, 0x05 => []
  | 5, 0x02 => [i.d 0, i.d 1]
  | 6, 0x02 => [i.d 0, i.d 1]
  | _, _ => [i.d 0, i.d 1, i.d 2]

/-- The local ranges that an instruction's descriptors name. -/
def State.named (s : State) (k : Nat) (i : LongInstr) : List (Nat × Nat) :=
  ((i.descs.map (s.coreDesc k)).filter fun d => d.used && s.ownAddr d.base).map fun d => (localOf d.base, d.bound)

/-- R127, R302: the head of a unit can start; what has arrived from other devices comes first (R304), and no page of its operands flips
(R433). -/
def State.headReady (s : State) (k unit : Nat) (i : LongInstr) : Bool :=
  s.arrivalsDone && (s.core k).run != .idle && (s.core k).run != .failed && s.unitReady k unit i && !s.outranked k unit (waitField unit i.bits.toNat) && !s.flipWaits (s.named k i)

/-! ## Failing, starting and completing -/

/-- R147: a task fails: issue stops, what has not started is dropped, what has started runs on. -/
def State.failTask (s : State) (k status slot bundle detail : Nat) : State :=
  s.modCore k fun c =>
    if c.run = .idle || c.run = .failed then c
    else { c with run := .failed, wait := none, qVec := [], qMat := [], qLd := [], qSt := []
                  faultStatus := status, faultSlot := slot, faultBundle := bundle, faultDetail := detail }

/-- Starts the head of a unit's queue when it has one of the opcodes; `body` sees the core with the head gone, and the lines of its operands
in host-bias pages claimed (R432). -/
def State.startHead (s : State) (k unit : Nat) (ops : List Nat) (body : State → LongInstr → State) : State :=
  match ((s.core k).queue unit).head? with
  | none => s
  | some i =>
    if ops.contains i.op && s.headReady k unit i then
      body ((s.modCore k fun c => (c.setQueue unit (c.queue unit).tail).takeWait (waitField unit i.bits.toNat)).claim (s.named k i)) i
    else s

/-- Ends the start with its first failed check, or goes on. -/
def State.orFailTask (s : State) (k : Nat) (i : LongInstr) (checks : List Check) (body : State → State) : State :=
  match firstFail checks with
  | some (st, d) => (s.tallyEcc st).failTask k st i.unit i.bundle d
  | none => body s

/-- A started instruction: what it writes when it completes. -/
def State.started (s : State) (k : Nat) (i : LongInstr) (writes : List (Nat × List Byte)) : State :=
  s.modCore k fun c => { c with
    started := c.started ++ [{ unit := i.unit, bits := i.bits, bundle := i.bundle, id := c.nextId, writes }], nextId := c.nextId + 1 }

/-- A started instruction with requests to another device. -/
def State.startedRemote (s : State) (k : Nat) (i : LongInstr) (reqs : List RemReq) : State :=
  let id := (s.core k).nextId
  let s1 := s.modCore k fun c => { c with
    started := c.started ++ [{ unit := i.unit, bits := i.bits, bundle := i.bundle, id, writes := [], remote := reqs.length }]
    nextId := id + 1 }
  s1.requests (reqs.map fun r => { r with
    requester := 0x100 + k, instr := id, jobId := (s.job (s.core k).job).jobId, jobSlot := (s.core k).job })

/-- R151: the windows of a neighbour, held by this core, that a set of writes falls into and whose grant no write on its way consumes. -/
def State.windowsOf (s : State) (k p : Nat) (ws : List (Nat × Nat)) : List (Nat × Nat) :=
  match s.dirTo k p with
  | none => []
  | some d => ((List.range 8).filter fun w =>
      (s.window p w).en && (s.window p w).holder == opposite d && !(s.window p w).used &&
      ws.any fun r => inside r ((s.window p w).range p)).map (p, ·)

/-- A set on a credit window. -/
def State.modWindow (s : State) (k w : Nat) (f : CreditWindow → CreditWindow) : State :=
  s.modCore k fun c => { c with crw := tmod {} c.crw w f }

/-- The ballast that runs from now on, and the arrays it runs in. -/
def State.ballastTo (s : State) (b : Int) (on : BitVec 256) : State :=
  let now := s.boot.sincePwrOk
  { s with ktl := { s.ktl with
    ballast := b, ballastOn := on, ballastMark := now
    ballastNs := s.ktl.ballastNs + s.ktl.ballast * ((now - s.ktl.ballastMark : Nat) : Int) } }

/-- R463: the ballast leaves the array of core k. DESIGN CHOICE (notes/assumptions/34.md): ballast is spread evenly over the arrays it runs
in, which are those free at the sample. -/
def State.takeBallast (s : State) (k : Nat) : State :=
  if s.ktl.ballastOn.getLsbD k then
    s.ballastTo (s.ktl.ballast - s.ktl.ballast / ((bitsSet 256 s.ktl.ballastOn.toNat).length : Int)) (s.ktl.ballastOn &&& ~~~(BitVec.ofNat 256 (2 ^ k)))
  else s

/-- A set on the last started instruction of a core. -/
def State.markLast (s : State) (k : Nat) (f : StartedInstr → StartedInstr) : State :=
  s.modCore k fun c =>
    match c.started.getLast? with
    | some x => { c with started := c.started.dropLast ++ [f x] }
    | none => c

/-- A started MMA or MMA.SCREEN: the core cycles it occupies the array for (R168), from which ballast leaves (R463). -/
def State.startedMat (s : State) (k : Nat) (i : LongInstr) (writes : List (Nat × List Byte)) (busy : Nat) : State :=
  let behind := (s.core k).started.any fun x => x.unit == 4
  ((s.started k i writes).markLast k fun x => { x with busy, backToBack := behind }).takeBallast k

/-- A counter of a core rises by one as its core cycle ends (R125). -/
def State.bumpCore (s : State) (k i : Nat) : State := s.modCore k fun c => { c with incs := bump c.incs i }

/-- A flag of a core is set as its core cycle ends (R125), in this hall tick. -/
def Core.setFlag (c : Core) (i now : Nat) : Core :=
  { c with sets := c.sets ||| BitVec.ofNat 64 (2 ^ i), flagAt := tset 0 c.flagAt i (now + 1) }

/-- R138: the place of a write by a unit of core k among one cycle's writes to the scratchpad of core p. -/
def writeRank (p k unit : Nat) : Nat := (if p = k then 0 else 4 * seenFrom p k) + (unit - 3)

/-- A write by a unit of a core: to a scratchpad with the writes of its core cycle (R138), else at once. -/
def State.unitStore (s : State) (k unit : Nat) (w : Nat × List Byte) : State :=
  match padCore w.1 w.2.length with
  | some p => s.modCore p fun c => { c with padWrites := c.padWrites ++ [{ rank := writeRank p k unit, addr := w.1, bytes := w.2 }] }
  | none => s.store w.1 w.2

/-- R138: one scratchpad's writes of a core cycle apply, the last in the order of ranks winning. -/
def State.flushPad (s : State) (p : Nat) : State :=
  let ws := sortBy (fun a b => decide (a.rank ≤ b.rank)) (s.core p).padWrites
  (s.modCore p fun c => { c with padWrites := [] }).storeAll (ws.map fun w => (w.addr, w.bytes))

/-- R125: the increments of a core cycle are added and the flags set in it are set. -/
def Core.endCycle (c : Core) : Core :=
  { c with cnt := c.incs.foldl (fun t e => tmod 0 t e.1 (· + e.2)) c.cnt, incs := [], flags := c.flags ||| c.sets, sets := 0, clock := c.clock + 1 }

/-- R138: core k has written into the scratchpad of its neighbour p, and p's cycle has not ended since. -/
def State.wroteInto (s : State) (k p : Nat) : Bool := (s.core p).padWrites.any fun w => w.rank / 4 == seenFrom p k

/-- A core's next cycle begins: what it wrote to its neighbours' scratchpads in the cycle before is there (R124, R138). -/
def State.beginCycle (s : State) (k : Nat) : State :=
  (([1, 2, 3, 4].filterMap (neighbourOf k)).filter (s.wroteInto k)).foldl State.flushPad s

/-- A core cycle ends: the writes of the cycle to this scratchpad apply, then the counters move (R124, R125, R138). -/
def State.endCycle (s : State) (k : Nat) : State := (s.flushPad k).modCore k Core.endCycle

/-- R124, R149, R151: a started instruction completes: its writes become visible, it signals, and an arrival raises the
neighbour's counter and consumes its grants. -/
def State.completeInstr (s : State) (k : Nat) (x : StartedInstr) : State :=
  let s1 := x.writes.foldl (fun s w => s.unitStore k x.unit w) (s.modCore k fun c => { c with started := c.started.erase x })
  let s2 := (sigCounter (sigField x.unit x.bits.toNat)).elim s1 (s1.bumpCore k)
  let s3 := x.arrival.elim s2 fun (p, i) => s2.bumpCore p i
  x.credit.foldl (fun s w => s.modWindow w.1 w.2 fun y => { y with holder := 0, free := false, used := false }) s3

/-- The oldest started instruction of a unit completes, unless requests of it are open or it waits for credit. -/
def State.completeOldest (s : State) (k unit : Nat) : State :=
  match (s.core k).started.find? fun x => x.unit == unit with
  | none => s
  | some x => if x.remote != 0 || x.creditWait then s else s.completeInstr k x

end Sys2Proof.Machine
end

