-- ==== Sys2Proof/Machine/Remote.lean ====
section
/-!
DEFINITION. Remote loads, stores and atomics (11_memory_semantics.md R291 to R311): sending a request, applying one
as its destination, the streams of writes and their held STORE_Fs, responses and deadlines.
-/

namespace Sys2Proof.Machine

/-! ## Sending, R294, R296, R300, R307 -/

/-- A request that writes (R296). -/
def RemReq.isWrite (r : RemReq) : Bool := r.op != 0x01

/-- LOAD_TIMEOUT in ns. -/
def State.loadTimeout (s : State) : Nat := field (s.st 0x2F0200) 8 0 * 1000

/-- Outstanding requests of a requester. -/
def State.outstandingOf (s : State) (rq : Nat) : Nat := (s.fab.outstanding.filter fun r => r.requester == rq).length

/-- A handed-over request can go, after the engine cycle of its hand-over (R296): fewer than 256 outstanding of its core, no SYNC
write awaited, and its job not provisional (R294, R300, R328). -/
def State.canSend (s : State) (r : RemReq) : Bool :=
  decide (r.cycle < s.engCycle) && (r.requester < 0x100 || s.outstandingOf r.requester < 256) &&
  (!r.isWrite || (tget 0 s.fab.syncWait (devOf r.addr.toNat) == 0 && !(s.slot r.jobSlot).provisional))

/-- The first request that can go. A request held is held in its unit, where only the requester's later ones of its kind, reads or
writes, and of its job wait behind it (R294, R328). -/
def State.nextSend (s : State) : Option Nat :=
  (List.range s.fab.toSend.length).find? fun i =>
    let r := s.fab.toSend.getD i {}
    s.canSend r && (s.fab.toSend.take i).all fun q =>
      q.requester != r.requester || q.jobSlot != r.jobSlot || q.isWrite != r.isWrite

/-- A tag no outstanding request carries, from the next on. -/
def State.freeTag (s : State) : Nat :=
  ((List.range (s.fab.outstanding.length + 1)).find? fun i =>
    s.fab.outstanding.all fun r => r.tag != (s.fab.nextTag + i) % 65536).elim s.fab.nextTag fun i => (s.fab.nextTag + i) % 65536

/-! ## Ending a request, R308 to R310 -/

/-- FAB_RM_EVT bits of a status. -/
def rmEvtOf (status : Nat) : BitVec 5 :=
  if status = stRemoteTimeout then 1
  else if status = stRouteDead then 2
  else if status = stCheckMismatch then 16
  else 4

/-- R310: the fault record of a request that ended other than OK. -/
def State.remoteFault (s : State) (r : RemReq) (status : Nat) : State :=
  if status = 0 then s
  else
    let s1 := { s with fab := { s.fab with
      rmEvt := s.fab.rmEvt ||| rmEvtOf status
      cntTimeout := s.fab.cntTimeout + (if status = stRemoteTimeout then 1 else 0)
      lastAddr := r.addr, lastStatus := status, lastOp := r.op, lastReq := r.requester, lastTime := s.now % 2 ^ 32 } }
    s1.jobEvent 3 (codeSource r.requester) 0x0023 r.op r.addr.toNat status r.jobSlot

/-- R300: what the end of a write says about its stream. -/
def State.streamEnd (s : State) (r : RemReq) (status : Nat) : State :=
  if !r.isWrite then s
  else
    let d := devOf r.addr.toNat
    let waited := tget 0 s.fab.syncWait d == r.tag + 1 && r.sync
    { s with fab := { s.fab with
        syncWait := if waited then tset 0 s.fab.syncWait d 0 else s.fab.syncWait
        synced := if status = stCheckMismatch then tset false s.fab.synced d false else s.fab.synced } }

/-- The bytes a request's end writes at its requester (R308, R309): data, an old word, or all-ones. -/
def RemReq.result (r : RemReq) (status : Nat) (old : BitVec 64) (data : List Byte) : List Byte :=
  if status != 0 then List.replicate r.len 0xFF
  else if r.op = 0x01 then padTo r.len data
  else leBytes r.len old.toNat

/-- Writes a result where the requester wants it. -/
def State.writeResult (s : State) (r : RemReq) (bs : List Byte) : State := s.storeAll (spread bs r.dest)

/-- One request of a core's started instruction has ended. -/
def State.coreRequestEnd (s : State) (r : RemReq) (status : Nat) : State :=
  if r.requester < 0x100 then s
  else s.modCore (r.requester - 0x100) fun c =>
    { c with
      started := c.started.map fun i => if i.id == r.instr then { i with remote := i.remote - 1 } else i
      remoteStatus := if c.remoteStatus = 0 && c.started.any (fun i => i.id == r.instr) then status else c.remoteStatus }

/-- R308: a request ends. -/
def State.endRequest (s : State) (r : RemReq) (status : Nat) (old : BitVec 64) (data : List Byte) : State :=
  let s1 := { s with fab := { s.fab with outstanding := s.fab.outstanding.erase r } }
  let s2 := if r.op = 0x01 || 0x10 ≤ r.op then s1.writeResult r (r.result status old data) else s1
  (((s2.remoteFault r status).streamEnd r status).coreRequestEnd r status).settleEndings

/-- Table 16-4: a task whose write request has left its core is no longer restartable. -/
def State.leftCore (s : State) (r : RemReq) : State :=
  if r.requester < 0x100 || !r.isWrite then s
  else s.modCore (r.requester - 0x100) fun c => { c with sentRemote := c.sentRemote || c.started.any fun i => i.id == r.instr }

/-- REMOTE_REQUEST_SEND (R287, R291, R294, R296, R300, R307, R308). -/
def remoteRequestSend (s : State) : State :=
  match s.nextSend with
  | none => s
  | some i =>
    let r := s.fab.toSend.getD i {}
    let d := devOf r.addr.toNat
    let tag := s.freeTag
    let sync := r.isWrite && !tget false s.fab.synced d
    let r' := { r with tag, sync, rseq := if r.isWrite then tget 0 s.fab.rseq d else 0, deadline := s.now + s.loadTimeout }
    let s1 := { s with fab := { s.fab with toSend := s.fab.toSend.eraseIdx i } }
    if d = 0xFFFF then s1.endRequest r' stBounds 0 []
    else match s1.inject 2 0x10 d (flowKey r.addr.toNat) r'.payload with
    | none => s1.endRequest r' stRouteDead 0 []
    | some t =>
      State.leftCore { t with fab := { t.fab with
          outstanding := t.fab.outstanding ++ [r'], nextTag := (tag + 1) % 65536
          rseq := if r.isWrite then tset 0 t.fab.rseq d ((r'.rseq + 1) % 65536) else t.fab.rseq
          syncWait := if sync then tset 0 t.fab.syncWait d (tag + 1) else t.fab.syncWait
          synced := if sync then tset false t.fab.synced d true else t.fab.synced } } r'

def execRemoteRequestSend (s : State) : Result := .next (remoteRequestSend s)

/-! ## Applying at the destination, R292, R297, R300, R304 -/

/-- R301: a STORE_F finds the hold full and waits in its receive buffer. -/
def State.holdFull (s : State) : Bool := 1024 ≤ s.fab.held.length

/-- R304: the earliest request of an operation, of an engine cycle that is over, whose channels serve it and that no earlier request of a
shared home channel precedes. -/
def State.nextApply (s : State) (op : Nat) : Option Nat :=
  let l := s.fab.ingress
  (List.range l.length).find? fun i =>
    let q := l.getD i {}
    q.req.op == op && decide (q.cycle < s.engCycle) && !s.channelWaits q.req && (l.take i).all fun e =>
      e.req.channels.all (fun c => !q.req.channels.contains c) || (e.req.op == 0x03 && s.holdFull)

/-- The record of a source. -/
def State.stream (s : State) (src : Nat) : Option StreamRec := tget none s.fab.streams src

/-- A sequence number of a record is accounted for; the next one moves past those ahead. -/
def advanceStream (r : StreamRec) : Nat → StreamRec
  | 0 => r
  | fuel + 1 =>
    if r.ahead.contains r.next then
      advanceStream { next := (r.next + 1) % 65536, ahead := r.ahead.erase r.next } fuel
    else r

/-- Counts a sequence number as applied. -/
def StreamRec.account (r : StreamRec) (n : Nat) : StreamRec :=
  let r1 := { r with ahead := r.ahead ++ [n] }
  advanceStream r1 r1.ahead.length

def State.accountSeq (s : State) (src n : Nat) : State :=
  { s with fab := { s.fab with streams := tmod none s.fab.streams src fun r => r.map fun r => r.account n } }

/-- Table 11-4, R299: the record accepts a write; an unset record takes a SYNC write's number as its next. -/
def State.acceptWrite (s : State) (q : InReq) : Option State :=
  match s.stream q.src with
  | none =>
    if q.req.sync then
      some { s with fab := { s.fab with streams := tset none s.fab.streams q.src (some { next := q.req.rseq }) } }
    else none
  | some r =>
    if (q.req.rseq + 65536 - r.next) % 65536 ≤ 32767 && !r.ahead.contains q.req.rseq then some s else none

/-! ## Landing windows, R338, R339 -/

/-- The landing windows of the request's job that a write request would write into. -/
def State.landings (s : State) (r : RemReq) : List Window :=
  s.bld.cur.windows.filter fun w => w.kind == 3 && w.job == r.jobId &&
    (overlap (localOf r.addr.toNat, r.len) (w.base, w.len) || (r.op == 0x03 && overlap (r.flagAddr, 8) (w.base, w.len)))

/-- R338, R339: a window of an engine takes no remote write; outside SERVICE only the credit's holder writes, and a free
credit is taken by an 8-byte ACAS from 0xFFFF to the requester's device ID. -/
def State.landingOk (s : State) (q : InReq) : Bool :=
  (s.landings q.req).all fun w =>
    (w.arrival == 0 || decide (0x100 ≤ w.arrival)) &&
    (w.mode == 1 || s.mem.nat w.base 8 == q.src ||
      (q.req.op == 0x17 && q.req.len == 8 && localOf q.req.addr.toNat == w.base && q.req.a.toNat == 0xFFFF && q.req.b.toNat == q.src))

/-- R338: an applied write increments the counters of the cores that count arrivals. -/
def State.arrivals (s : State) (r : RemReq) : State :=
  ((s.landings r).filter fun w => decide (0x100 ≤ w.arrival)).foldl (fun s w =>
    s.bumpCore (w.arrival - 0x100) w.arrCnt) s

/-- R292, R294, R338, R339, R473: what refuses a request at its target. -/
def State.targetCheck (s : State) (q : InReq) : Nat :=
  let r := q.req
  let a := localOf r.addr.toNat
  let reach (a n : Nat) : Bool := devOf r.addr.toNat == s.devId && s.inRemote r.jobId a n
  let atomic := decide (0x10 ≤ r.op)
  if !reach a r.len || r.len = 0 || 192 < r.len || (r.op = 0x03 && !reach r.flagAddr 8) then stBounds
  else if (atomic && (!(r.len == 4 || r.len == 8) || a % r.len != 0)) || (r.op = 0x03 && r.flagAddr % 8 != 0) then stAlign
  else if r.op != 0x01 && !s.landingOk q then stBounds
  else if r.op = 0x01 || atomic then (if s.hasBad a r.len then stEccUncorr else 0)
  else if s.partBad a r.len || (r.op = 0x03 && s.partBad r.flagAddr 8) then stEccUncorr
  else 0

/-- Sends the response of a request (Table 11-3) on VC4; one whose requester has no route is not sent. -/
def State.respond (s : State) (q : InReq) (status : Nat) (old : BitVec 64) (data : List Byte) : State :=
  (s.inject 4 0x11 q.src (flowKey q.req.addr.toNat) (rspPayload q.req status old data)).getD s

/-- R300, R299: a refused write. -/
def State.refuseWrite (s : State) (q : InReq) : State :=
  ({ s with fab := { s.fab with rmEvt := s.fab.rmEvt ||| 16 } }).respond q stCheckMismatch 0 []

/-- Takes a request out of its receive buffer to its home channels, which claim its lines from the host (R432). -/
def State.takeIngress (s : State) (i : Nat) : State :=
  let q := s.fab.ingress.getD i {}
  ({ s with fab := { s.fab with ingress := s.fab.ingress.eraseIdx i } }.modPort q.port fun x => x.freeBuffer q.vc).claim q.req.touched

/-- REMOTE_LOAD (R292, R303, R304, R308). -/
def remoteLoad (s : State) : State :=
  match s.nextApply 0x01 with
  | none => s
  | some i =>
    let q := s.fab.ingress.getD i {}
    let s1 := s.takeIngress i
    let st := s1.targetCheck q
    (s1.tallyEcc st).respond q st 0 (if st = 0 then s1.mem.bytes (localOf q.req.addr.toNat) q.req.len else [])

def execRemoteLoad (s : State) : Result := .next (remoteLoad s)

/-- A write that its record accepts: applied when its target allows, and counted either way. -/
def State.applyWrite (s : State) (op : Nat) (apply : State → InReq → State × BitVec 64) : State :=
  match s.nextApply op with
  | none => s
  | some i =>
    let q := s.fab.ingress.getD i {}
    let s1 := s.takeIngress i
    match s1.acceptWrite q with
    | none => s1.refuseWrite q
    | some s2 =>
      let st := s2.targetCheck q
      let (s3, old) := if st = 0 then ((apply s2 q).1.arrivals q.req, (apply s2 q).2) else (s2.tallyEcc st, 0)
      (s3.accountSeq q.src q.req.rseq).respond q st old []

/-- REMOTE_STORE (R297, R300). -/
def remoteStore (s : State) : State :=
  s.applyWrite 0x02 fun s q => (s.store (localOf q.req.addr.toNat) (padTo q.req.len q.req.data), 0)

def execRemoteStore (s : State) : Result := .next (remoteStore s)

/-- R298: the data, and then the flag add. -/
def State.applyStoreF (s : State) (q : InReq) (flag : Bool) : State :=
  let s1 := s.store (localOf q.req.addr.toNat) (padTo q.req.len q.req.data)
  if flag then s1.store q.req.flagAddr (leBytes 8 (s1.mem.nat q.req.flagAddr 8 + 1)) else s1

/-- The gap before a write of a source is closed. -/
def State.gapClosed (s : State) (q : InReq) : Bool := (s.stream q.src).any fun r => r.next == q.req.rseq

/-- A STORE_F whose gap is closed is applied and answered. -/
def State.finishStoreF (s : State) (q : InReq) : State :=
  let st := s.targetCheck q
  let s1 := if st = 0 then (s.applyStoreF q true).arrivals q.req else s.tallyEcc st
  (s1.accountSeq q.src q.req.rseq).respond q st 0 []

/-- REMOTE_STORE_F (R298, R300, R301). -/
def remoteStoreF (s : State) : State :=
  match s.nextApply 0x03 with
  | none => s
  | some i =>
    let q := s.fab.ingress.getD i {}
    match s.acceptWrite q with
    | none => (s.takeIngress i).refuseWrite q
    | some s1 =>
      if s1.gapClosed q then (s1.takeIngress i).finishStoreF q
      else if s1.holdFull then s1
      else
        let s2 := s1.takeIngress i
        let n := s2.fab.held.length + 1
        { s2 with fab := { s2.fab with held := s2.fab.held ++ [{ inreq := q, since := s.now }], heldPeak := max n s2.fab.heldPeak } }

def execRemoteStoreF (s : State) : Result := .next (remoteStoreF s)

/-- STORE_F_RELEASE (R298): a held STORE_F whose gap has closed. -/
def storeFRelease (s : State) : State :=
  match s.fab.held.find? fun h => s.gapClosed h.inreq with
  | none => s
  | some h => ({ s with fab := { s.fab with held := s.fab.held.erase h } }).finishStoreF h.inreq

def execStoreFRelease (s : State) : Result := .next (storeFRelease s)

/-- The numbers before a held STORE_F that are neither applied nor held: the missing ones. -/
def State.missing (s : State) (q : InReq) (r : StreamRec) : List Nat :=
  let heldSeqs := (s.fab.held.filter fun h => h.inreq.src == q.src).map fun h => h.inreq.req.rseq
  ((List.range ((q.req.rseq + 65536 - r.next) % 65536)).map fun i => (r.next + i) % 65536).filter fun n =>
    !r.ahead.contains n && !heldSeqs.contains n

/-- STORE_F_GAP_TIMEOUT (R299): missing numbers are lost, the data is applied, the flag add is not. -/
def storeFGapTimeout (s : State) : State :=
  match s.fab.held.find? fun h => decide (h.since + s.loadTimeout / 2 ≤ s.now) && !s.gapClosed h.inreq with
  | none => s
  | some h =>
    match s.stream h.inreq.src with
    | none => s
    | some r =>
      let lost := s.missing h.inreq r
      let r1 := (lost ++ [h.inreq.req.rseq]).foldl StreamRec.account r
      let s1 := { s with fab := { s.fab with
        held := s.fab.held.erase h, streams := tset none s.fab.streams h.inreq.src (some r1)
        cntGap := s.fab.cntGap + lost.length, rmEvt := s.fab.rmEvt ||| 8 } }
      let s2 := if s1.targetCheck h.inreq = 0 then (s1.applyStoreF h.inreq false).arrivals h.inreq.req else s1.tallyEcc (s1.targetCheck h.inreq)
      s2.respond h.inreq stCheckMismatch 0 []

def execStoreFGapTimeout (s : State) : Result := .next (storeFGapTimeout s)

/-- One atomic (Table 11-1): the word of LEN bytes becomes `f width word`; the old word is answered. -/
def State.atomic (s : State) (op : Nat) (f : Nat → Nat → RemReq → Nat) : State :=
  s.applyWrite op fun s q =>
    let a := localOf q.req.addr.toNat
    let old := s.mem.nat a q.req.len
    (s.store a (leBytes q.req.len (f (8 * q.req.len) old q.req)), BitVec.ofNat 64 old)

/-- AADD: two's complement, wrapping. -/
def execAadd (s : State) : Result := .next (s.atomic 0x10 fun _ w r => w + r.a.toNat)
/-- AMIN: signed minimum. -/
def execAmin (s : State) : Result :=
  .next (s.atomic 0x11 fun n w r => if signedOf n r.a.toNat < signedOf n w then r.a.toNat else w)
/-- AMAX: signed maximum. -/
def execAmax (s : State) : Result :=
  .next (s.atomic 0x12 fun n w r => if signedOf n w < signedOf n r.a.toNat then r.a.toNat else w)
/-- AAND. -/
def execAand (s : State) : Result := .next (s.atomic 0x13 fun _ w r => w &&& r.a.toNat)
/-- AOR. -/
def execAor (s : State) : Result := .next (s.atomic 0x14 fun _ w r => w ||| r.a.toNat)
/-- AXOR. -/
def execAxor (s : State) : Result := .next (s.atomic 0x15 fun _ w r => w ^^^ r.a.toNat)
/-- ASWAP. -/
def execAswap (s : State) : Result := .next (s.atomic 0x16 fun _ _ r => r.a.toNat)
/-- ACAS. -/
def execAcas (s : State) : Result :=
  .next (s.atomic 0x17 fun n w r => if w = r.a.toNat % 2 ^ n then r.b.toNat else w)

/-- FADD (R311): RNE(word + A) as FP32; the home counts it. -/
def fadd (s : State) : State :=
  s.applyWrite 0x18 fun s q =>
    let a := localOf q.req.addr.toNat
    let old := s.mem.nat a q.req.len
    let sum := encodeElem 0x0 .rne ((decodeElem 0x0 old).add (decodeElem 0x0 (q.req.a.toNat % 2 ^ 32)))
    let s1 := s.store a (leBytes q.req.len sum)
    ({ s1 with fab := { s1.fab with cntFpAtomic := s1.fab.cntFpAtomic + 1 } }, BitVec.ofNat 64 old)

def execFadd (s : State) : Result := .next (fadd s)

/-! ## At the requester -/

/-- MEM_RSP_RECEIVE (R289, R295, R307 to R310): the first response or ERR_RSP that waits; one that came after its request's
deadline tick is late (R94). -/
def memRspReceive (s : State) : State :=
  match s.fab.responses with
  | [] => s
  | p :: rest =>
    let s1 := { s with fab := { s.fab with responses := rest } }.modPort p.port fun x => x.freeBuffer p.vc
    match s.fab.outstanding.find? fun r => r.tag == p.tag && decide (p.at' ≤ r.deadline) with
    | none => { s1 with fab := { s1.fab with cntLate := s1.fab.cntLate + 1 } }
    | some r => s1.endRequest r p.status p.old p.data

def execMemRspReceive (s : State) : Result := .next (memRspReceive s)

/-- REMOTE_REQUEST_DEADLINE (R94, R307): no response by the end of the deadline tick. -/
def remoteRequestDeadline (tag : Nat) (s : State) : State :=
  match s.fab.outstanding.find? fun r => r.tag == tag && decide (r.deadline < s.now) &&
      s.fab.responses.all (fun p => p.tag != tag || decide (r.deadline < p.at')) with
  | none => s
  | some r => s.endRequest r stRemoteTimeout 0 []

def execRemoteRequestDeadline (tag : Nat) (s : State) : Result := .next (remoteRequestDeadline tag s)

end Sys2Proof.Machine
end

