-- ==== Sys2Proof/Machine/Ecc.lean ====
section
/-!
DEFINITION. ECC events and self-repair (20_faults_and_log.md R471 to R477). Stores are numbered in the order of Table
20-2: 0 registers, 1 DMEM, 2 IMEM, 3 scratchpad, 4 Stack SRAM, 5 directory, 6 prefix table, 7 GDDR7, 8 Warden SRAM.
-/

namespace Sys2Proof.Machine

/-- R51: how long the write of one copy takes, in ns: 64 bytes of header and the body at 200 MB/s. -/
def copyTime (body : List Byte) : Nat := 5 * (64 + body.length)

/-- R475: the spares a map's body records: the resource in the order of Table 20-4 (0 core, 1 column, 2 row, 3 lane), and which: a physical
core (row × 9 + column) for the first two, a line number, or a port × 8 + lane. DESIGN CHOICE (notes/assumptions/9.md): records of 8 bytes,
the resource plus one in the first, 0 for none. -/
def mapRecords (body : List Byte) : List (Nat × Nat) :=
  (chunksOf 8 body.length body).filterMap fun r => if leAt r 0 1 = 0 then none else some (leAt r 0 1 - 1, leAt r 1 7)

/-- A body that records one spare more. -/
def mapWith (body : List Byte) (resource unit : Nat) : List Byte :=
  padTo (roundUp body.length 8) body ++ leBytes 1 (resource + 1) ++ leBytes 7 unit

/-- The map last written, or the one taken at step 4. -/
def State.lastMap (s : State) : Nat × List Byte := s.boot.repairNext.getD (s.boot.repairSeq, s.boot.repairBody)

/-- Spares of a resource that the last map records, by the unit they stand in for. -/
def State.recorded (s : State) (resource : Nat) : List Nat :=
  ((mapRecords s.lastMap.2).filter fun r => r.1 == resource).map Prod.snd

/-- R51, R476: the Warden writes a new repair map for a spare consumed. Its sequence number is one above the map in use, which is the one
that stands in the copies when its turn comes: maps are written one after another, each copy in full (notes/assumptions/18.md). -/
def State.repairWritten (s : State) (resource unit : Nat) : State :=
  let q := s.lastMap.1 + 1
  let body := mapWith s.lastMap.2 resource unit
  State.event { s with
    boot := { s.boot with
      repairSeqWritten := q, repairNext := some (q, body)
      repairWrites := s.boot.repairWrites ++ [{ seq := q, body, copy := 0, doneAt := s.boot.sincePwrOk + copyTime body }] }
    log := { s.log with evt := s.log.evt ||| 0x40 } } 4 0x040 0x0032 resource q

/-- R476: a fault finds no spare of its resource left. -/
def State.repairExhausted (s : State) (resource : Nat) : State :=
  s.event 5 0x040 0x0032 resource (s.boot.repairSeqWritten + 0xFFFFFFFF * 2 ^ 32)

/-- R475: a physical core takes the spare of its row, if the row has one left. -/
def State.coreSpare (s : State) (c : Nat) : State :=
  if (s.recorded 0).any fun d => d / 9 == c / 9 then s else s.repairWritten 0 c

/-- R475: a failed column of a physical core's array takes one of the array's two spares, if one is left. -/
def State.columnSpare (s : State) (c : Nat) : State :=
  if 2 ≤ ((s.recorded 1).filter (· == c)).length then s else s.repairWritten 1 c

/-- The physical column of a core (R120): the x-th usable column of its row. -/
def State.physCol (s : State) (k : Nat) : Nat :=
  ((List.range 9).filter fun x => (s.boot.usable.getD (k / 8) 0).getLsbD x).getD (k % 8) 0

/-- The physical core of a logical one. -/
def State.physCore (s : State) (k : Nat) : Nat := 9 * (k / 8) + s.physCol k

/-- The key of an address of a store. -/
def eccKey (store addr : Nat) : Nat := store * 2 ^ 48 + addr % 2 ^ 48

/-- R474 to R476: an address is marked once for row repair; a scratchpad or Stack SRAM row takes one of the 16 spares
of its 2 MiB bank, and GDDR7 has no spare rows. -/
def State.markRow (s : State) (store addr : Nat) (corrected : Bool) : State :=
  let key := eccKey store addr
  if store = 7 || s.log.marked.contains key then s
  else
    let s1 := { s with log := { s.log with marked := s.log.marked ++ [key] } }
    let s2 := if corrected then s1.event 2 0x000 0x0030 store addr else s1
    if store = 3 || store = 4 then
      let bank := addr / 0x200000
      let n := tget 0 s.log.rowSpares bank
      if 16 ≤ n then s2.repairExhausted 2
      else State.repairWritten { s2 with log := { s2.log with
        rowSpares := tset 0 s2.log.rowSpares bank (n + 1), spareRows := s2.log.spareRows + 1 } } 2 (addr / 64)
    else s2

/-- A corrected error (R471, R474): counted; the sixteenth at an address marks it. -/
def State.eccCorrected (s : State) (store addr : Nat) : State :=
  let key := eccKey store addr
  let n := tget 0 s.log.corrected key + 1
  let s1 := { s with log := { s.log with cntCorr := s.log.cntCorr + 1, corrected := tset 0 s.log.corrected key n } }
  if n = 16 then s1.markRow store addr true else s1

/-- R477: the Warden quarantines a core at its second uncorrectable error in registers, DMEM, IMEM or array state; the core takes the
spare of its row at the next bring-up, if there is one. -/
def State.coreEcc (s : State) (k : Nat) : State :=
  let c := s.physCore k
  let n := tget 0 s.log.coreErrs c + 1
  let s1 := { s with log := { s.log with coreErrs := tset 0 s.log.coreErrs c n } }
  if n = 2 then
    let free := !(s.recorded 0).any fun d => d / 9 == c / 9
    let s2 := { s1 with log := { s1.log with
      quar := s1.log.quar ||| BitVec.ofNat 256 (2 ^ k), evt := s1.log.evt ||| 0x20
      spareCores := if free then s1.log.spareCores + 1 else s1.log.spareCores } }
    (s2.event 4 (0x400 + k) 0x0033 0 0).coreSpare c
  else s1

/-- An uncorrectable error (R473, R474): counted, logged, its line bad until written whole, its row marked. -/
def State.eccUncorr (s : State) (source store addr : Nat) : State :=
  let mem := store == 3 || store == 4 || store == 7
  let s1 := { s with log := { s.log with
    cntUncorr := s.log.cntUncorr + 1
    badLines := if mem && !s.log.badLines.contains (lineOf addr) then s.log.badLines ++ [lineOf addr] else s.log.badLines }
                     pfx := { s.pfx with bad := if store = 6 then s.pfx.bad ++ [addr / 48] else s.pfx.bad }
                     str := { s.str with badDir := if store = 5 then s.str.badDir ++ [addr / 32] else s.str.badDir } }
  (s1.event 4 source 0x0031 store addr).markRow store addr false

end Sys2Proof.Machine
end

