-- ==== Sys2Proof/Machine/Vector.lean ====
section
/-!
DEFINITION. The vector unit's fixed-latency operations (06_arithmetic.md R170 to R174, Table 6-4) and the scalar
operations (R176, Table 6-5). An integer result outside its format is a value the spec does not state: a free value
(notes/assumptions/17.md).
-/

namespace Sys2Proof.Machine

/-! ## Lanes -/

/-- Lane width of a format held in vector registers, 0 for others. -/
def laneBits (fmt : Nat) : Nat :=
  match fmt with | 0x0 => 32 | 0x1 => 16 | 0x2 => 16 | 0x3 => 8 | 0x4 => 8 | 0x9 => 8 | 0xA => 32 | _ => 0

/-- Lanes of a format. -/
def lanes (fmt : Nat) : Nat := if laneBits fmt = 0 then 0 else 2048 / laneBits fmt

/-- An integer format. -/
def isInt (fmt : Nat) : Bool := fmt == 0x9 || fmt == 0xA || fmt == 0xD || fmt == 0xC

/-- Lane `i` of width `w`. -/
def lane (w v i : Nat) : Nat := v / 2 ^ (w * i) % 2 ^ w

/-- A register from its lanes. -/
def ofLanes (w : Nat) (ls : List Nat) : BitVec 2048 := BitVec.ofNat 2048 (packBits w ls)

/-- The lanes of a register as values. -/
def laneVals (fmt v : Nat) : List FVal := (List.range (lanes fmt)).map fun i => decodeElem fmt (lane (laneBits fmt) v i)

/-- A value is an integer outside a destination integer format of `w` bits. -/
def outOfInt (w : Nat) (v : FVal) : Bool :=
  match v with
  | .fin n m e =>
    let a := if 0 ≤ e then m * 2 ^ e.toNat else m / 2 ^ (-e).toNat
    if n then decide (2 ^ (w - 1) < a) else decide (2 ^ (w - 1) ≤ a)
  | _ => false

/-- Element `i` of a result in a format; `ints` says that every operand was an integer. A result outside an integer format is a value
the spec does not state: it is free, and the same whenever the operation `key` has the same operands (R9). -/
def encodeFree (ints : Bool) (key : List Nat) (i code : Nat) (r : Rnd) (v : FVal) : Nat :=
  if ints && isInt code && outOfInt (fmtBits code) v then (Config.outOfRange key i).toNat % 2 ^ fmtBits code
  else encodeElem code r v

/-! ## Table 6-4, classes 0 to 5 -/

/-- The operands of a VEC operation: registers va, vb, vc, the scalar of SR, and the fields it uses. -/
structure VecIn where
  op : Nat
  fmt : Nat
  rnd : Rnd
  va : Nat
  vb : Nat
  vc : Nat
  sr : Nat
  imm : Nat

/-- Which of VD, VA, VB, VC, SR and IMM an operation names. -/
def vecFields (op : Nat) : Option (Bool × Bool × Bool × Bool × Bool × Bool) :=
  match op with
  | 0x00 => some (false, false, false, false, false, false)
  | 0x01 => some (true, true, false, false, false, false)
  | 0x02 => some (true, false, false, false, true, false)
  | 0x03 => some (true, true, true, true, false, false)
  | 0x04 => some (true, true, true, false, false, false)
  | 0x05 => some (true, true, false, false, false, true)
  | 0x06 => some (true, false, false, false, false, false)
  | 0x20 | 0x21 | 0x22 | 0x23 | 0x24 | 0x25 | 0x26 | 0x29 | 0x2A | 0x2B | 0x40 => some (true, true, true, false, false, false)
  | 0x27 | 0x28 => some (true, true, false, false, false, false)
  | 0x41 | 0x42 => some (true, true, true, true, false, false)
  | 0x43 => some (true, true, false, false, true, false)
  | 0x44 => some (true, true, false, true, true, false)
  | 0x60 => some (true, true, false, true, false, true)
  | 0x80 | 0x81 | 0x82 | 0x83 | 0xA0 | 0xA1 | 0xA2 | 0xA3 => some (true, true, false, false, false, false)
  | _ => none

/-- R170, R172: the formats an operation accepts. -/
def vecFmtOk (op fmt : Nat) : Bool :=
  if op = 0x00 then fmt == 0
  else if 0x29 ≤ op && op ≤ 0x2B then fmt < 14
  else if 0xA0 ≤ op then fmt == 0
  else laneBits fmt != 0

/-- R173: VCVT's source format, the ratio of widths, and its part are allowed. -/
def cvtOk (fmt imm : Nat) : Bool :=
  let ws := laneBits (imm % 16)
  let wd := laneBits fmt
  ws != 0 && wd != 0 && imm / 64 == 0 && decide (imm / 16 % 4 < max ws wd / min ws wd)

/-- The scalar operand of VMULS and VFMAS (R171). -/
def scalarVal (fmt sr : Nat) : FVal := if isInt fmt then decodeElem 0xA sr else decodeElem 0x0 sr

/-- The lanes of a result computed element by element, in the destination format before rounding. -/
def vecArith (x : VecIn) : List FVal :=
  let a := laneVals x.fmt x.va
  let b := laneVals x.fmt x.vb
  let c := laneVals x.fmt x.vc
  let k := scalarVal x.fmt x.sr
  let down := x.rnd == .down
  match x.op with
  | 0x20 => a.zipWith (fun p q => p.add q down) b
  | 0x21 => a.zipWith (fun p q => p.add q.neg down) b
  | 0x22 => a.zipWith FVal.minimum b
  | 0x23 => a.zipWith FVal.maximum b
  | 0x27 => a.map FVal.abs
  | 0x28 => a.map FVal.neg
  | 0x40 => a.zipWith FVal.mul b
  | 0x41 => (a.zipWith FVal.mul b).zipWith (fun p q => p.add q down) c
  | 0x42 => (a.zipWith FVal.mul b).zipWith (fun p q => p.add q.neg down) c
  | 0x43 => a.map (FVal.mul k)
  | 0x44 => (a.map (FVal.mul k)).zipWith (fun p q => p.add q down) c
  | 0xA0 => a.map FVal.exp2
  | 0xA1 => a.map FVal.exp
  | 0xA2 => a.map fun v => FVal.div (FVal.ofInt 1) v
  | 0xA3 => a.map FVal.rsqrt
  | _ => []

/-- The exact operations on bits: moves, permutes, compares, logic. -/
def vecBits (x : VecIn) : List Nat :=
  let w := laneBits x.fmt
  let n := lanes x.fmt
  let idx := List.range n
  let va i := lane w x.va i
  let vb i := lane w x.vb i
  let all := 2 ^ w - 1
  let cmp (f : FVal → FVal → Bool) := (laneVals x.fmt x.va).zipWith (fun p q => if f p q then all else 0) (laneVals x.fmt x.vb)
  match x.op with
  | 0x01 => idx.map va
  | 0x02 => idx.map fun _ => x.sr % 2 ^ w
  | 0x03 => idx.map fun i => if lane w x.vc i != 0 then va i else vb i
  | 0x04 => idx.map fun i => va (vb i % n)
  | 0x05 => idx.map fun i => va ((i + x.imm) % n)
  | 0x06 => idx
  | 0x24 => cmp FVal.eqv
  | 0x25 => cmp FVal.lt
  | 0x26 => cmp fun p q => p.lt q || p.eqv q
  | _ => []

/-- What a free value of an operation may depend on: the operation, and the operands and fields that Table 6-4 names for it (R9). -/
def VecIn.key (x : VecIn) : List Nat :=
  match vecFields x.op with
  | some (_, a, b, c, r, i) =>
    let used (u : Bool) (v : Nat) := if u then v else 0
    [x.op, x.fmt, x.rnd.code, used a x.va, used b x.vb, used (c && (x.op != 0x60 || laneBits x.fmt < laneBits (x.imm % 16))) x.vc, used r x.sr,
      used i x.imm]
  | none => [x.op]

/-- R173: VCVT. -/
def vecCvt (x : VecIn) : BitVec 2048 :=
  let src := x.imm % 16
  let part := x.imm / 16 % 4
  let ws := laneBits src
  let wd := laneBits x.fmt
  let ints := isInt src
  let ns := lanes src
  let q := max ws wd / min ws wd
  if wd < ws then
    -- narrowing: the results fill part PART, the rest comes from vc
    let vs := laneVals src x.va
    let es := (vs.zip (List.range ns)).map fun (v, i) => encodeFree ints x.key i x.fmt x.rnd v
    ofLanes wd ((List.range (lanes x.fmt)).map fun i => if i / ns = part then es.getD (i % ns) 0 else lane wd x.vc i)
  else
    let nd := lanes x.fmt
    let vs := (List.range nd).map fun i => decodeElem src (lane ws x.va ((if q = 1 then 0 else part * nd) + i))
    ofLanes wd ((vs.zip (List.range nd)).map fun (v, i) => encodeFree ints x.key i x.fmt x.rnd v)

/-- R170: an order in which -0 lies below +0 and NaN below everything. -/
def totalLt (a b : FVal) : Bool :=
  if b.isNan then false
  else if a.isNan then true
  else if a.isZero && b.isZero then a.isNeg && !b.isNeg
  else a.lt b

/-- R174: the largest of a list read with NaN as -∞; the lower index wins a tie. -/
def argMax (vs : List FVal) : Nat :=
  let v i := match vs.getD i .nan with | .nan => FVal.inf true | x => x
  (List.range vs.length).foldl (fun b i => if totalLt (v b) (v i) then i else b) 0

/-- A wrapped INT32 sum. -/
def intSum (vs : List Int) : Nat := unsignedOf 32 (vs.foldl (· + ·) 0)

/-- Integer lanes. -/
def laneInts (fmt v : Nat) : List Int := (List.range (lanes fmt)).map fun i => signedOf (laneBits fmt) (lane (laneBits fmt) v i)

/-- R174: reductions into a scalar register. -/
def vecReduce (x : VecIn) : Nat :=
  let vs := laneVals x.fmt x.va
  let out (v : FVal) : Nat := if isInt x.fmt then encodeElem 0xA .rne v else encodeElem 0x0 .rne v
  match x.op with
  | 0x80 => if isInt x.fmt then intSum (laneInts x.fmt x.va) else encodeElem 0x0 x.rnd (exactSum vs)
  | 0x81 => out (vs.tail.foldl FVal.maximum (vs.headD .nan))
  | 0x82 => out (vs.tail.foldl FVal.minimum (vs.headD .nan))
  | _ => argMax vs

/-- The result of an operation of classes 0 to 3 and 5 for vd. -/
def vecResult (x : VecIn) : BitVec 2048 :=
  if x.op = 0x60 then vecCvt x
  else if x.op = 0x29 then BitVec.ofNat 2048 (x.va &&& x.vb)
  else if x.op = 0x2A then BitVec.ofNat 2048 (x.va ||| x.vb)
  else if x.op = 0x2B then BitVec.ofNat 2048 (x.va ^^^ x.vb)
  else if x.op ≤ 0x06 || (0x24 ≤ x.op && x.op ≤ 0x26) then ofLanes (laneBits x.fmt) (vecBits x)
  else
    let vs := vecArith x
    ofLanes (laneBits x.fmt) ((vs.zip (List.range vs.length)).map fun (v, i) => encodeFree (isInt x.fmt) x.key i x.fmt x.rnd v)

/-- Table 5-7: cycles to a visible result. -/
def vecLatency (op : Nat) : Nat :=
  match op / 32 with | 0 => 3 | 1 => 4 | 2 => 6 | 3 => 5 | 4 => 12 | _ => 14

/-! ## Scalar operations, Table 6-5 -/

/-- The result of a class 0 or 1 operation. -/
def scalarAlu (op : Nat) (a b imm : BitVec 32) : Option (BitVec 32) :=
  let sh := b.toNat % 32
  match op with
  | 0x01 => some (a + b) | 0x02 => some (a - b) | 0x03 => some (a &&& b) | 0x04 => some (a ||| b) | 0x05 => some (a ^^^ b)
  | 0x06 => some (a <<< sh) | 0x07 => some (a >>> sh) | 0x08 => some (a.sshiftRight sh)
  | 0x09 => some (if a.toInt < b.toInt then 1 else 0) | 0x0A => some (if a.toNat < b.toNat then 1 else 0)
  | 0x0B => some (a + imm) | 0x0C => some imm | 0x0D => some (a &&& imm) | 0x0E => some (a ||| imm) | 0x0F => some (a ^^^ imm)
  | 0x20 => some (a * b)
  | 0x21 => some (BitVec.ofInt 32 (a.toInt * b.toInt / 2 ^ 32))
  | 0x22 => some (BitVec.ofNat 32 (a.toNat * b.toNat / 2 ^ 32))
  | _ => none

/-- The condition of a branch; none for another operation. -/
def branchTaken (op : Nat) (a b : BitVec 32) (flag : Bool) : Option Bool :=
  match op with
  | 0x60 => some true | 0x61 => some (a == b) | 0x62 => some (a != b)
  | 0x63 => some (decide (a.toInt < b.toInt)) | 0x64 => some (decide (b.toInt ≤ a.toInt))
  | 0x65 => some (decide (a.toNat < b.toNat)) | 0x66 => some (decide (b.toNat ≤ a.toNat))
  | 0x67 => some flag | 0x68 => some (!flag)
  | _ => none

/-- Bytes a DMEM load or store moves; none for another operation. -/
def dmemSize (op : Nat) : Option Nat :=
  match op with
  | 0x40 | 0x41 | 0x48 => some 1 | 0x42 | 0x43 | 0x49 => some 2 | 0x44 | 0x4A => some 4 | _ => none

/-- The word a DMEM load reads: LB and LH extend the sign. -/
def loadExtend (op v : Nat) : BitVec 32 :=
  match op with
  | 0x40 => BitVec.ofNat 32 (unsignedOf 32 (signedOf 8 v))
  | 0x42 => BitVec.ofNat 32 (unsignedOf 32 (signedOf 16 v))
  | _ => BitVec.ofNat 32 v

end Sys2Proof.Machine
end

