-- ==== Sys2Proof/Machine/Sequencer.lean ====
section
/-!
DEFINITION. The sequencer (05_core_sequencer.md R119 to R142): a bundle's fields and their checks, one core cycle of
issue, fixed-latency results, hazard check mode, waits, and the end of a task. One BUNDLE_ISSUE is one core cycle
(notes/assumptions/4.md).
-/

namespace Sys2Proof.Machine

/-! ## Checks of an issued bundle, R122, R128 to R136, R145 -/

/-- R124: the reserved bits of a signal field. -/
def sigOk (g : Nat) : Bool := g / 64 == 0

def syncBad (w : Nat) : Bool :=
  let sop := field w 5 0
  let spec := field w 15 6
  if sop = 0x10 || sop = 0x11 then !waitOk (BitVec.ofNat 10 spec)
  else if ! [0x00, 0x01, 0x02, 0x03, 0x04, 0x05, 0x08, 0x09, 0x0C, 0x3F].contains sop then true
  else spec / 64 != 0 || (1 ≤ sop && sop ≤ 5 && 32 ≤ spec)

/-- Opcodes of Table 6-5. -/
def scalarKnown (op : Nat) : Bool :=
  op ≤ 0x0F || (0x20 ≤ op && op ≤ 0x22) || (0x40 ≤ op && op ≤ 0x44) || (0x48 ≤ op && op ≤ 0x4A) ||
  (0x60 ≤ op && op ≤ 0x68) || (0x80 ≤ op && op ≤ 0x84)

def isBranch (op : Nat) : Bool := 0x60 ≤ op && op ≤ 0x68

def scalarBad (w : Nat) (inDelay : Bool) : Bool :=
  let op := field w 7 0
  field w 31 23 != 0 || !scalarKnown op || (isBranch op && inDelay)

/-- A long-running slot's wait and signal fields. -/
def longOk (unit w : Nat) : Bool := waitOk (waitField unit w) && sigOk (sigField unit w).toNat

def vecBad (w : Nat) : Bool :=
  let op := field w 7 0
  let fmt := field w 11 8
  if field w 34 34 != 0 || field w 63 58 != 0 then true
  else if op / 32 = 6 then
    !(0xC1 ≤ op && op ≤ 0xC5) || !longOk 3 w || field w 95 94 != 0 || field w 16 12 != 0 || field w 31 22 != 0 ||
    field w 57 53 != 0 || (op != 0xC5 && field w 21 17 != 0) || ((op == 0xC1 || op == 0xC4) && field w 93 84 != 0) || (op == 0xC5 && field w 33 32 != 0)
  else
    match vecFields op with
    | none => true
    | some (d, a, b, c, r, i) =>
      field w 52 35 != 0 || !vecFmtOk op fmt || ((op / 32 == 0 || op / 32 == 5) && field w 33 32 != 0) ||
      (!d && field w 16 12 != 0) || (!a && field w 21 17 != 0) || (!b && field w 26 22 != 0) || (!c && field w 31 27 != 0) ||
      (!r && field w 57 53 != 0) || (!i && field w 95 64 != 0) || (op == 0x60 && !cvtOk fmt (field w 95 64))

def matBad (w : Nat) : Bool :=
  w != 0 && (!(field w 7 0 == 1 || field w 7 0 == 2) || 5 ≤ field w 22 20 || field w 63 42 != 0 || !longOk 4 w || field w 95 94 != 0)

def ldBad (w : Nat) : Bool :=
  let op := field w 7 0
  w != 0 && (!(1 ≤ op && op ≤ 4) || field w 63 48 != 0 ||
    (if op = 1 then field w 39 22 != 0 || field w 95 86 != 0 else !longOk 5 w) ||
    (if op = 3 then 2 ≤ field w 47 40 else field w 47 40 != 0) ||
    (if op = 4 then field w 95 86 != 0 || !(1 ≤ field w 66 64 && field w 66 64 ≤ 4) else op != 1 && field w 95 94 != 0))

def stBad (w : Nat) : Bool :=
  let op := field w 7 0
  w != 0 && (!(1 ≤ op && op ≤ 5) || field w 63 50 != 0 ||
    (if op = 1 then field w 39 22 != 0 || field w 95 86 != 0 else !longOk 6 w || field w 95 94 != 0) ||
    (if op = 3 then 2 ≤ field w 49 48 else field w 49 48 != 0) ||
    (if op = 2 || op = 3 then field w 47 47 != 0
     else if op = 4 then field w 47 45 != 0 || 9 ≤ field w 43 40 else field w 47 40 != 0))

/-- The six slots of a bundle (Table 5-2). -/
structure Slots where
  sync : Nat
  scalar : Nat
  vec : Nat
  mat : Nat
  ld : Nat
  st : Nat
  deriving DecidableEq, Repr

def slotsOf (b : BitVec 512) : Slots :=
  let w := b.toNat
  ⟨field w 63 0, field w 127 64, field w 223 128, field w 319 224, field w 415 320, field w 511 416⟩

/-- The first slot with a reserved opcode, mode or field. -/
def Slots.bad (x : Slots) (inDelay : Bool) : Option Nat :=
  if syncBad x.sync then some 1
  else if scalarBad x.scalar inDelay then some 2
  else if vecBad x.vec then some 3
  else if matBad x.mat then some 4
  else if ldBad x.ld then some 5
  else if stBad x.st then some 6
  else none

/-- The long-running instructions of a bundle, by unit. -/
def Slots.long (x : Slots) : List (Nat × Nat) :=
  (if field x.vec 7 0 / 32 = 6 then [(3, x.vec)] else []) ++ (if x.mat != 0 then [(4, x.mat)] else []) ++
  (if 2 ≤ field x.ld 7 0 then [(5, x.ld)] else []) ++ (if 2 ≤ field x.st 7 0 then [(6, x.st)] else [])

/-! ## Registers and hazards, R139 to R142 -/

/-- R118: s0 reads zero. -/
def Core.sreg (c : Core) (r : Nat) : BitVec 32 := if r = 0 then 0 else tget 0 c.s r
def Core.vreg (c : Core) (r : Nat) : BitVec 2048 := tget 0 c.v r

/-- Order number of a result: later bundles above earlier ones, later slots above earlier ones. -/
def PendingReg.order (p : PendingReg) : Nat := p.issued * 8 + p.slot + 1

/-- Records the first event of Table 5-11. -/
def Core.hazardAt (c : Core) (bundle kind file reg cycle : Nat) : Core :=
  if c.hcm && !c.hazardSeen then { c with hazard := { valid := true, bundle, kind, file, reg, cycle }, hazardSeen := true } else c

/-- One result becomes visible. -/
def Core.applyReg (c : Core) (p : PendingReg) (twice : Bool) : Core :=
  let key := p.file * 32 + p.reg
  let last := tget 0 c.lastWritten key
  let c1 := if twice then c.hazardAt p.bundle 1 p.file p.reg p.visibleAt else c
  let c2 := if p.issued * 8 + 8 < last then c1.hazardAt p.bundle 2 p.file p.reg p.visibleAt else c1
  let c3 := { c2 with lastWritten := tset 0 c2.lastWritten key p.order }
  if p.file = 0 then
    (if p.reg = 0 then c3 else { c3 with s := tset 0 c3.s p.reg (BitVec.ofNat 32 p.value.toNat) })
  else { c3 with v := tset 0 c3.v p.reg p.value }

/-- R139, R140: the results due by cycle `t` become visible, in order of cycle, slot and issue. -/
def Core.applyDue (c : Core) (t : Nat) : Core :=
  let due := c.pend.filter fun p => p.visibleAt ≤ t
  let sorted := sortBy (fun a b => decide (a.visibleAt < b.visibleAt) || (a.visibleAt == b.visibleAt &&
    (decide (a.slot < b.slot) || (a.slot == b.slot && decide (a.issued ≤ b.issued))))) due
  let c1 := { c with pend := c.pend.filter fun p => t < p.visibleAt }
  (sorted.zip (List.range sorted.length)).foldl (fun c x =>
    c.applyReg x.1 ((sorted.take x.2).any fun q => q.file == x.1.file && q.reg == x.1.reg && q.visibleAt == x.1.visibleAt)) c1

/-- R141: a read names a result that is not visible yet. -/
def Core.earlyRead (c : Core) (file reg : Nat) : Bool :=
  c.pend.any fun p => p.file == file && p.reg == reg && decide (tget 0 c.lastWritten (file * 32 + reg) < p.order)

/-- The registers a bundle reads: (file, register). -/
def Slots.reads (x : Slots) : List (Nat × Nat) :=
  let op := field x.scalar 7 0
  let s1 := (0, field x.scalar 17 13)
  let s2 := (0, field x.scalar 22 18)
  let sc := if op = 0 || op = 0x0C || op = 0x60 || op = 0x67 || op = 0x68 || 0x80 ≤ op then []
    else if op = 0x0B || (0x0D ≤ op && op ≤ 0x0F) || (0x40 ≤ op && op ≤ 0x44) then [s1] else [s1, s2]
  let v := match vecFields (field x.vec 7 0) with
    | some (_, a, b, c, r, _) =>
      (if a then [(1, field x.vec 21 17)] else []) ++ (if b then [(1, field x.vec 26 22)] else []) ++
      (if c && !(field x.vec 7 0 == 0x60 && laneBits (field x.vec 11 8) ≥ laneBits (field x.vec 67 64)) then [(1, field x.vec 31 27)] else []) ++
      (if r then [(0, field x.vec 57 53)] else [])
    | none => []
  let ld := if field x.ld 7 0 = 1 then [(0, field x.ld 21 17)] else []
  let st := if field x.st 7 0 = 1 then [(0, field x.st 21 17), (1, field x.st 16 12)] else []
  (sc ++ v ++ ld ++ st).filter fun r => !(r.1 == 0 && r.2 == 0)

/-- A result on its way. -/
def Core.push (c : Core) (file reg : Nat) (value : BitVec 2048) (latency slot bundle : Nat) : Core :=
  { c with pend := c.pend ++ [{ file, reg, value, visibleAt := c.cycle + latency, slot, issued := c.cycle, bundle }] }

/-! ## The slots' effects -/

/-- R128, R125: ARM to CINC, flags and CFREE: a CSET counts before the increments of the cycle, and a flag set in the cycle ends it
set. A WAITD whose flag d was set in an earlier tick, and still is, is judged by the counters and flags that tick left and by the target
that stands now (R129; DESIGN CHOICE, notes/assumptions/40.md). -/
def Core.syncOp (c : Core) (w now : Nat) : Core :=
  let i := field w 11 6
  let imm : BitVec 48 := BitVec.ofNat 48 (field w 63 16)
  match field w 5 0 with
  | 0x01 => { c with tgt := tset 0 c.tgt i imm }
  | 0x02 => { c with tgt := tmod 0 c.tgt i (· + imm) }
  | 0x03 => { c with stp := tset 0 c.stp i imm }
  | 0x04 => { c with cnt := tset 0 c.cnt i imm }
  | 0x05 => { c with incs := tmod 0 c.incs i (· + imm) }
  | 0x08 => c.setFlag i now
  | 0x09 => { c with flags := c.flags &&& ~~~(BitVec.ofNat 64 (2 ^ i)) }
  | 0x0C => { c with crw := tmod {} c.crw (imm.toNat % 8) fun x => { x with free := true } }
  | 0x10 =>
    let spec : BitVec 10 := BitVec.ofNat 10 (field w 15 6)
    if c.waitOf spec then c.takeWait spec else { c with run := .heldByWait, wait := some { spec, deadlineFlag := none, resultFlag := 0 } }
  | 0x11 =>
    let spec : BitVec 10 := BitVec.ofNat 10 (field w 15 6)
    let r := field w 27 22
    let d := field w 21 16
    let late := c.flags.getLsbD d && decide (tget 0 c.flagAt d ≤ now)
    let close := tget {} c.flagSnap d
    if (if late then waitMet close.cnt c.tgt close.flags spec else c.waitOf spec) then
      { c.takeWait spec with flags := (c.takeWait spec).flags &&& ~~~(BitVec.ofNat 64 (2 ^ r)) }
    else { c with run := .heldByWait, wait := some { spec, deadlineFlag := some d, resultFlag := r, late } }
  | 0x3F => { c with run := .ending }
  | _ => c

/-- R133, R137: the address checks of a bundle's DMEM access, LD.V and ST.V: slot, status. -/
def Slots.addrCheck (x : Slots) (c : Core) : Option (Nat × Nat) :=
  let chk (slot a n align lim : Nat) : Option (Nat × Nat) :=
    if lim < a + n then some (slot, stBounds) else if a % align != 0 then some (slot, stAlign) else none
  let d := (dmemSize (field x.scalar 7 0)).bind fun n =>
    chk 2 (c.sreg (field x.scalar 17 13) + BitVec.ofNat 32 (field x.scalar 63 32)).toNat n n 65536
  let l := if field x.ld 7 0 = 1 then chk 5 ((c.sreg (field x.ld 21 17)).toNat + field x.ld 85 64) 256 64 padSize else none
  let s := if field x.st 7 0 = 1 then chk 6 ((c.sreg (field x.st 21 17)).toNat + field x.st 85 64) 256 64 padSize else none
  d.orElse fun _ => l.orElse fun _ => s

/-- R131, R132, R176: the scalar slot; reads are of the core `r` before the bundle. -/
def Core.scalarOp (c r : Core) (w k now : Nat) (bundle : Nat) : Core :=
  let op := field w 7 0
  let rd := field w 12 8
  let a := r.sreg (field w 17 13)
  let b := r.sreg (field w 22 18)
  let imm := field w 63 32
  let put (v : BitVec 32) (lat : Nat) := if rd = 0 then c else c.push 0 rd (BitVec.ofNat 2048 v.toNat) lat 2 bundle
  let cnt := (tget 0 r.cnt (imm % 32)).toNat
  match scalarAlu op a b (BitVec.ofNat 32 imm) with
  | some v => put v (if op < 0x20 then 1 else 3)
  | none =>
    match branchTaken op a b (r.flags.getLsbD (field imm 17 12)) with
    | some t => { c with inDelay := 3, delay := if t then 3 else 0, target := imm % 4096 }
    | none =>
      match dmemSize op with
      | some n =>
        let addr := (a + BitVec.ofNat 32 imm).toNat
        if op < 0x48 then put (loadExtend op (leNat (r.dmemBytes addr n))) 3
        else { c with stores := c.stores ++ [{ dmem := true, addr, bytes := leBytes n b.toNat, visibleAt := c.cycle + 1 }] }
      | none =>
        match op with
        | 0x80 => put (BitVec.ofNat 32 cnt) 1
        | 0x81 => put (BitVec.ofNat 32 (cnt / 2 ^ 32)) 1
        | 0x82 => { put (BitVec.ofNat 32 now) 1 with htLatch := BitVec.ofNat 32 (now / 2 ^ 32) }
        | 0x83 => put r.htLatch 1
        | 0x84 => put (BitVec.ofNat 32 k) 1
        | _ => c

/-- R134, R170: the vector slot, classes 0 to 5. -/
def Core.vecOp (c r : Core) (w bundle : Nat) : Core :=
  let op := field w 7 0
  if op = 0 || 6 ≤ op / 32 then c
  else
    let x : VecIn := { op, fmt := field w 11 8, rnd := Rnd.ofCode (field w 33 32), va := (r.vreg (field w 21 17)).toNat
                       vb := (r.vreg (field w 26 22)).toNat, vc := (r.vreg (field w 31 27)).toNat
                       sr := (r.sreg (field w 57 53)).toNat, imm := field w 95 64 }
    let vd := field w 16 12
    if op / 32 = 4 then
      if vd = 0 then c else c.push 0 vd (BitVec.ofNat 2048 (vecReduce x)) (vecLatency op) 3 bundle
    else c.push 1 vd (vecResult x) (vecLatency op) 3 bundle

/-- R136, R137: LD.V and ST.V. -/
def Core.vecMem (c r : Core) (mem : Memory) (x : Slots) (k bundle : Nat) : Core :=
  let base := padBase + k * padSize
  let at' (w : Nat) := (r.sreg (field w 21 17)).toNat + field w 85 64
  let c1 := if field x.ld 7 0 = 1 then
      c.push 1 (field x.ld 16 12) (BitVec.ofNat 2048 (leNat (mem.bytes (base + at' x.ld) 256))) 10 5 bundle
    else c
  if field x.st 7 0 = 1 then
    { c1 with stores := c1.stores ++ [{ dmem := false, addr := base + at' x.st, visibleAt := c1.cycle + 2
                                        bytes := leBytes 256 (r.vreg (field x.st 16 12)).toNat }] }
  else c1

/-- R132: where issue goes after a bundle. -/
def Core.advance (c : Core) : Core :=
  let d := c.inDelay - 1
  if c.delay = 1 then { c with pc := c.target, delay := 0, inDelay := d }
  else { c with pc := c.pc + 1, delay := c.delay - 1, inDelay := d }

/-- R126: the queues of the long-running slots have room. -/
def Core.hasRoom (c : Core) (x : Slots) : Bool := x.long.all fun l => (c.queue l.1).length < 4

/-- What a bundle does to its core when it issues: every slot reads the registers as `r` holds them. -/
def Core.issued (r : Core) (m : Memory) (k now : Nat) (x : Slots) : Core :=
  let b := r.pc
  let early := x.reads.find? fun q => r.earlyRead q.1 q.2
  let c0 := early.elim r fun q => r.hazardAt b 0 q.1 q.2 r.cycle
  let c1 := { c0 with run := .issuing, lastBundle := b }
  let c2 := c1.scalarOp r x.scalar k now b
  let c3 := c2.vecOp r x.vec b
  let c4 := c3.vecMem r m x k b
  let c5 := x.long.foldl (fun c l => c.setQueue l.1 (c.queue l.1 ++ [{ unit := l.1, bits := BitVec.ofNat 96 l.2, bundle := b }])) c4
  (c5.syncOp x.sync now).advance

/-- A bundle that passed every check issues. A taken branch in bundle 4094 or 4095 has delay bundles past the last bundle, which fail the
task with BOUNDS as issue past it does (R132; DESIGN CHOICE, notes/assumptions/40.md). -/
def State.issue (s : State) (k : Nat) (x : Slots) : State :=
  let r := s.core k
  let q := r.issued s.mem k s.now x
  let s1 := s.modCore k fun _ => q
  -- R132: issue passes the last bundle
  if q.pc = 4096 && q.run != .ending then s1.failTask k stBounds 2 r.pc 0 else s1

/-- R496: the slot of an operation without descriptors whose FMT is a reserved code. It is judged before the fields of R128 to R136
(notes/assumptions/40.md). -/
def Slots.reservedFmt (x : Slots) : Option Nat :=
  if field x.vec 7 0 / 32 < 6 && 14 ≤ field x.vec 11 8 then some 3
  else if field x.ld 7 0 = 1 && 14 ≤ field x.ld 11 8 then some 5
  else if field x.st 7 0 = 1 && 14 ≤ field x.st 11 8 then some 6
  else none

/-- R126, R145: one attempt to issue. -/
def State.tryIssue (s : State) (k : Nat) : State :=
  let c := s.core k
  let x := slotsOf (tget 0 c.imem c.pc)
  match x.reservedFmt, x.bad (c.inDelay != 0) with
  | some slot, _ => s.failTask k stStructure slot c.pc 0
  | none, some slot => s.failTask k stBadOpcode slot c.pc 0
  | none, none =>
    if !c.hasRoom x then s.modCore k fun c => { c with run := .stalled }
    else
      match x.addrCheck c with
      | some (slot, st) => s.failTask k st slot c.pc 0
      | none =>
        let base := padBase + k * padSize
        let at' (w : Nat) := base + (c.sreg (field w 21 17)).toNat + field w 85 64
        if (field x.ld 7 0 = 1 && s.hasBad (at' x.ld) 256) then s.countUncorr.failTask k stEccUncorr 5 c.pc 0
        else s.issue k x

/-- The results and DMEM stores due in this core cycle become visible. -/
def State.cycleStart (s : State) (k : Nat) : State :=
  let c := s.core k
  let due := c.stores.filter fun p => p.dmem && decide (p.visibleAt ≤ c.cycle)
  let c1 := { c.applyDue c.cycle with stores := c.stores.filter fun p => !p.dmem || decide (c.cycle < p.visibleAt) }
  s.modCore k fun _ => due.foldl (fun c p => c.writeDmem p.addr p.bytes) c1

/-- The ST.V stores whose bytes the next core cycle sees take their place among this cycle's writes, as the ST unit's (R137, R138). -/
def Core.storesEnd (c : Core) : Core :=
  let due := c.stores.filter fun p => !p.dmem && decide (p.visibleAt ≤ c.cycle + 1)
  { c with
    stores := c.stores.filter fun p => p.dmem || decide (c.cycle + 1 < p.visibleAt)
    padWrites := c.padWrites ++ due.map fun p => { rank := 3, addr := p.addr, bytes := p.bytes } }

/-- The ECC of the core's stores in this cycle. -/
def State.coreCycleEcc (s : State) (k : Nat) (e : EccEvent) : State :=
  match e with
  | .none => s
  | .corrected st a => s.eccCorrected st a
  | .uncorrectable st a =>
    let s1 := s.eccUncorr (0x400 + k) st a
    let s2 := if st ≤ 2 then s1.coreEcc k else s1
    -- the directory, the prefix table and Warden SRAM are read by no core
    if st = 5 || st = 6 || st = 8 then s2 else s2.failTask k stEccUncorr 0 (s.core k).pc 0

/-- BUNDLE_ISSUE (R119 to R142): one core cycle, in which a core that runs a task may issue a bundle. -/
def bundleIssue (k : Nat) (ecc : EccEvent) (s : State) : State :=
  let s := s.beginCycle k
  if (s.core k).run = .idle then s.endCycle k
  else
    let s1 := (s.cycleStart k).coreCycleEcc k ecc
    let c := s1.core k
    let s2 := if c.run = .issuing || c.run = .stalled then s1.tryIssue k else s1
    ((s2.modCore k Core.storesEnd).endCycle k).modCore k fun c => { c with cycle := c.cycle + 1 }

def execBundleIssue (core : Nat) (ecc : EccEvent) (s : State) : Result :=
  if core < 256 then .next (bundleIssue core ecc s) else noResource "core" core

/-! ## Waits, R128, R129 -/

/-- WAIT_SATISFIED: the condition of a holding WAIT or WAITD is met. -/
def waitSatisfied (k : Nat) (s : State) : State :=
  let c := s.core k
  match c.wait with
  | none => s
  | some h =>
    if c.run = .heldByWait && !h.late && c.waitOf h.spec then
      s.modCore k fun c =>
        let c1 := { c.takeWait h.spec with run := .issuing, wait := none }
        if h.deadlineFlag.isSome then { c1 with flags := c1.flags &&& ~~~(BitVec.ofNat 64 (2 ^ h.resultFlag)) } else c1
    else s

def execWaitSatisfied (core : Nat) (s : State) : Result :=
  if core < 256 then .next (waitSatisfied core s) else noResource "core" core

/-- WAITD_DEADLINE: the tick of the deadline has ended with the condition unmet. -/
def waitdDeadline (k : Nat) (s : State) : State :=
  let c := s.core k
  match c.wait with
  | none => s
  | some h =>
    if c.run = .heldByWait && h.late then s.modCore k fun c => Core.setFlag { c with run := .issuing, wait := none } h.resultFlag s.now else s

def execWaitdDeadline (core : Nat) (s : State) : Result :=
  if core < 256 then .next (waitdDeadline core s) else noResource "core" core

/-! ## Tasks, R119, R130, R142, R147 -/

/-- R119: a task starts on a core. What RDHTH reads before the task's first RDHT, and CORE_FAULT while the task runs, are zero (R131, R152
do not say; DESIGN CHOICE, notes/assumptions/40.md). -/
def State.startTask (s : State) (k : Nat) (cmd : Cmd) : State :=
  s.modCore k fun c =>
    let c1 := { c with
      cnt := [], tgt := [], stp := [], flags := 0, incs := [], sets := 0, flagAt := [], flagSnap := [], run := .issuing, pc := field cmd.imm.toNat 43 32, delay := 0, target := 0
      inDelay := 0, lastBundle := 0, cycle := 0, wait := none, pend := [], stores := [], qVec := [], qMat := [], qLd := []
      qSt := [], started := [], htLatch := 0, hcm := (s.job cmd.job).hcm, hazard := { c.hazard with valid := false }, hazardSeen := false
      lastWritten := [], faultStatus := 0, faultSlot := 0, faultBundle := 0, faultDetail := 0, oobRows := 0, matBusy := 0
      matFrozen := 0, job := cmd.job, done := false, sentRemote := false, remoteStatus := 0 }
    c1.writeDmem 0xFFC0 (leBytes 64 cmd.bytes.toNat)

/-- The next task of an idle core starts. -/
def State.nextTask (s : State) (k : Nat) : State :=
  let c := s.core k
  match c.tasks with
  | t :: _ => if c.run = .idle then s.startTask k t else s
  | [] => s

/-- The status of a core's task that has ended: a recorded hazard (R142), its failure, a remote request's, or OK. -/
def Core.taskStatus (c : Core) : Nat :=
  if c.hcm && c.hazardSeen then stHazard
  else if c.run = .failed then c.faultStatus
  else c.remoteStatus

/-- R142: the log entry of a recorded hazard. -/
def State.hazardEvent (s : State) (k : Nat) : State :=
  let c := s.core k
  if c.hcm && c.hazardSeen then
    s.jobEvent 3 (0x400 + k) 0x0022 c.hazard.kind (c.hazard.bundle + c.hazard.file * 2 ^ 12 + c.hazard.reg * 2 ^ 13) stHazard c.job
  else s

/-- TASK_END_DRAINED (R130, R147): nothing is queued and every started instruction has completed. -/
def taskEndDrained (k : Nat) (s : State) : State :=
  let c := s.core k
  let empty := c.qVec.isEmpty && c.qMat.isEmpty && c.qLd.isEmpty && c.qSt.isEmpty && c.started.isEmpty
  let s := s.beginCycle k
  if (c.run = .ending || c.run = .failed) && empty && !c.done then
    -- results and stores still on their way take their places
    let last := c.pend.foldl (fun m p => max m p.visibleAt) (c.stores.foldl (fun m p => max m p.visibleAt) c.cycle)
    let s1 := ((State.cycleStart (s.modCore k fun c => { c with cycle := last }) k).modCore k Core.storesEnd).endCycle k
    let s2 := s1.modCore k fun x => { x with cycle := c.cycle, done := true }
    (s2.modCore k fun x => { x with faultStatus := x.taskStatus }).hazardEvent k
  else s

def execTaskEndDrained (core : Nat) (s : State) : Result :=
  if core < 256 then .next (taskEndDrained core s) else noResource "core" core

/-- CORE_MODE_WRITE (R150, R493): only while the core runs no task; before the first blend MODE stays STARTUP, and an absent core has no
register. -/
def coreModeWrite (k : Nat) (mode : BitVec 2) (s : State) : State :=
  if !s.coreEnabled k then s
  else if (s.core k).run = .idle && s.bld.applied then s.modCore k fun c => { c with mode } else s.writeIgnored (0x400010 + k * 0x1000)

def execCoreModeWrite (core : Nat) (mode : BitVec 2) (s : State) : Result :=
  if core < 256 then .next (coreModeWrite core mode s) else noResource "core" core

end Sys2Proof.Machine
end

