-- ==== Sys2Proof/Machine/Tasks.lean ====
section
/-!
DEFINITION. Commands of engine 1 (16_jobs_and_sharing.md R412): PLOAD, TASK, and the commit of a TASK.
-/

namespace Sys2Proof.Machine

/-- R412, R477: the run is 1 to 256 cores of the job, none of them quarantined. -/
def State.runChecks (s : State) (c : Cmd) : List Check :=
  let n := field c.imm.toNat 24 16
  [need (1 ≤ n && n ≤ 256 && field c.imm.toNat 7 0 + n ≤ 256 && c.cores.all fun k => s.jobOfCore k == c.job) stBounds 0,
   need (c.cores.all fun k => !s.log.quar.getLsbD k) stEngineAbsent 0]

/-- The images of a PLOAD: lengths of IMEM and DMEM bytes. -/
def Cmd.images (c : Cmd) : Nat × Nat := (field c.imm.toNat 47 32 * 64, field c.imm.toNat 63 48 * 64)

/-- A core with an IMEM and a DMEM image. -/
def Core.load (c : Core) (imem dmem : List Byte) : Core :=
  let bs := chunksOf 64 (imem.length + 1) imem
  { (c.writeDmem 0 dmem) with
    imem := (bs.zip (List.range bs.length)).foldl (fun t x => tset 0 t x.2 (BitVec.ofNat 512 (leNat x.1))) c.imem }

/-- The checks of PLOAD, in order. -/
def State.ploadChecks (s : State) (c : Cmd) : List Check :=
  let (i, d) := c.images
  s.runChecks c ++
    [need (i ≤ 0x40000 && d ≤ 0x10000 && (i == 0 || s.inReadable c.job c.arg i) && (d == 0 || s.inReadable c.job c.arg2 d)) stBounds 0,
     need (!s.hasBad c.arg i && !s.hasBad c.arg2 d) stEccUncorr 0]

/-- PLOAD (R412): the images fit IMEM and DMEM and lie in the job's windows. -/
def pload (s : State) : State :=
  s.withHead 1 0x01 fun s c =>
    let (i, d) := c.images
    s.orFail c (s.ploadChecks c) fun s =>
      let im := s.mem.bytes c.arg i
      let dm := s.mem.bytes c.arg2 d
      (c.cores.foldl (fun s k => s.modCore k fun x => x.load im dm) s).complete c stOk 0

def execPload (s : State) : Result := .next (pload s)

/-- The checks of TASK, in order: the run, then its declared list: the header and the entries lie in memory (R492), there are at most 15 of
them, none with a format code 0xE or 0xF (R496), and no line of the list is uncorrectable (R473). -/
def State.taskChecks (s : State) (c : Cmd) : List Check :=
  let n := (s.listCounts c).1 + (s.listCounts c).2
  s.runChecks c ++
    [need (inMain c.arg 64) stBounds 0, need (n ≤ 15) stStructure 0, need (inMain c.arg (64 + 64 * n)) stBounds 0,
     need (!s.hasBad c.arg (64 + 64 * n)) stEccUncorr 0, need ((List.range n).all fun i => decide ((s.listDesc c i).fmt < 14)) stStructure 0]

/-- TASK (R412): each core of the run takes the task after those it has; the declared tensor list has 15 entries at
most. A TASK that fails leaves its declared outputs undefined (R418). -/
def task (s : State) : State :=
  s.withHead 1 0x02 fun s c =>
    match firstFail (s.taskChecks c) with
    | some (st, d) => ((s.failOutputs c st).tallyEcc st).complete c st d
    | none =>
      let s1 := s.addLive c (!c.norerun)
      c.cores.foldl (fun s k => (s.modCore k fun x => { x with tasks := x.tasks ++ [c] }).nextTask k) s1

def execTask (s : State) : Result := .next (task s)

/-- A core leaves the task at its head. -/
def Core.leave (c : Core) : Core := { c with tasks := c.tasks.tail, run := .idle, done := false }

/-- A core whose task is `c` has reached its end. -/
def State.coreDone (s : State) (c : Cmd) (k : Nat) : Bool := (s.core k).done && ((s.core k).tasks.head?).any c.same

/-- TASK_COMMIT (R412, R418): every core of the run has reached END; the status is that of the failing core of lowest
index, and a failed task leaves its declared outputs undefined. -/
def taskCommit (k : Nat) (s : State) : State :=
  match (s.core k).tasks with
  | [] => s
  | c :: _ =>
    if c.cores.all (s.coreDone c) then
      let bad := c.cores.find? fun i => (s.core i).faultStatus != 0
      let st := bad.elim 0 fun i => (s.core i).faultStatus
      let d := bad.elim 0 fun i => (s.core i).faultDetail
      let s1 := c.cores.foldl (fun s i => s.modCore i Core.leave) s
      let s2 := (s1.failOutputs c st).complete c st d
      c.cores.foldl (fun s i => s.nextTask i) s2
    else s

def execTaskCommit (core : Nat) (s : State) : Result :=
  if core < 256 then .next (taskCommit core s) else noResource "core" core

end Sys2Proof.Machine
end

