-- ==== Sys2Proof/Machine/Stop.lean ====
section
/-!
DEFINITION. Stopping commands (16_jobs_and_sharing.md R418 to R420, R423; 03_hall_time.md R83): whether a started command
can be stopped, undoing what it holds, PREEMPT, KILL, and the failure of scheduled commands out of tolerance.
-/

namespace Sys2Proof.Machine

/-- Table 16-4: a started command can still be stopped. A task whose cores have all reached END, and an ACCEPT that has all its shards, have
begun their commit (R419). -/
def State.canStop (s : State) (l : Live) : Bool :=
  l.restartable &&
  (if l.cmd.engine = 1 then
     (l.cmd.cores.all fun k => !(((s.core k).tasks.head?).any l.cmd.same && (s.core k).sentRemote)) && !l.cmd.cores.all (s.coreDone l.cmd)
   else if l.cmd.engine = 6 then
     (List.range 8).all fun i => ((tget ({} : InfSet) s.inf.sets i).accept).all fun a => !(a.cmd.same l.cmd && a.done.length == a.nshards)
   else if l.cmd.engine = 3 then
     (List.range 16).all fun c => !((s.spCtx c).cmd.any l.cmd.same && decide ((s.spCtx c).effStart ≤ s.now))
   else if l.cmd.engine = 8 then s.col.run.all fun r => !(r.cmd.same l.cmd && decide (r.effStart ≤ s.now))
   else true)

/-- A core that drops the task it runs: nothing of it goes on. -/
def Core.drop (c : Core) : Core :=
  { c with run := .idle, done := false, wait := none, pend := [], stores := [], qVec := [], qMat := [], qLd := [], qSt := []
           started := [] }

/-- Requests of a core that have not left are dropped, and what comes back for it is discarded. -/
def State.dropRequests (s : State) (k : Nat) : State :=
  { s with
    fab := { s.fab with
      toSend := s.fab.toSend.filter fun r => r.requester != 0x100 + k
      outstanding := s.fab.outstanding.map fun r => if r.requester = 0x100 + k then { r with dest := [] } else r }
    cores := s.cores.map fun e => (e.1, { e.2 with creditReqs := e.2.creditReqs.filter fun r => r.core != k }) }

/-- A task leaves a core, whether it runs there or waits. -/
def State.stopTask (s : State) (c : Cmd) (k : Nat) : State :=
  let runs := ((s.core k).tasks.head?).any c.same
  let s1 := if runs then (s.dropRequests k).modCore k Core.drop else s
  (s1.modCore k fun x => { x with tasks := x.tasks.filter fun t => !t.same c }).nextTask k

/-- A context whose command is stopped: as before the command (R420). -/
def SpoutCtx.stopped (x : SpoutCtx) : SpoutCtx := { x.undone with endsAt := x.prevEnd, job := x.prevJob }

/-- Undoes what a started command holds. -/
def State.undo (s : State) (c : Cmd) : State :=
  match c.engine with
  | 1 => c.cores.foldl (fun s k => s.stopTask c k) s
  | 3 =>
    ((List.range 16).foldl (fun s i =>
      if (s.spCtx i).cmd.any c.same then (s.dropStreams 3 i).modSpCtx i SpoutCtx.stopped else s) s).chainStarts c.job
  | 5 | 9 =>
    (List.range 64).foldl (fun s p =>
      let mine (w : Waiter) := w.cmd.any c.same
      let back := (s.poolState p).served.filter fun x => mine x.1
      back.foldl (fun s x => s.returnBuffers x.1.requester p x.2) (s.modPool p fun x =>
        { x with waiters := x.waiters.filter fun w => !mine w, served := x.served.filter fun y => !mine y.1 })) s
  | 6 =>
    (List.range 8).foldl (fun s i =>
      let x := tget ({} : InfSet) s.inf.sets i
      if x.accept.any fun a => a.cmd.same c then
        let base := field (s.st (0x140208 + 0x20 * i + (if x.r1 = .shadow then 8 else 0))) 35 0 * 4096
        let len := field (s.st (0x140218 + 0x20 * i)) 35 0 * 4096
        let y := { x with accept := none, r0 := if x.r0 = .shadow then .free else x.r0, r1 := if x.r1 = .shadow then .free else x.r1 }
        State.leaveUndefined { s with inf := { s.inf with sets := tset {} s.inf.sets i y } } [(base, len)]
      else
        match x.swaps.find? fun a => a.cmd.same c with
        | some w =>
          { s with
            inf := { s.inf with sets := tset {} s.inf.sets i { x with swaps := x.swaps.erase w } }
            ht := { s.ht with timers := tmod {} s.ht.timers w.timer fun t => { t with arm := false } } }
        | none => s) s
  | 8 =>
    match s.col.run, s.col.start with
    | some r, st =>
      if r.cmd.same c then
        let s1 := s.dropStreams 8 0
        { s1 with col := { s1.col with run := none, lastEnd := tset 0 s1.col.lastEnd c.job r.prevEnd } }
      else if st.any fun x => x.cmd.same c then { s with col := { s.col with start := none, startState := 0 } }
      else s
    | none, some x => if x.cmd.same c then { s with col := { s.col with start := none, startState := 0 } } else s
    | none, none => s
  | _ => s

/-- Ends a command with KILLED (R420); its declared outputs are undefined (R418). -/
def State.killOne (s : State) (c : Cmd) : State :=
  (((s.undo c).failOutputs c stKilled).complete c stKilled 0).settleLoads

/-- R329: the writes that a provisional job holds end with the job's commands; an instruction that goes on is told KILLED. -/
def State.dropHeld (s : State) (j : Nat) : State :=
  let held r := r.jobSlot == j && RemReq.isWrite r
  ((s.fab.toSend.filter held).foldl (fun (s : State) r => s.coreRequestEnd r stKilled)
    { s with fab := { s.fab with toSend := s.fab.toSend.filter fun r => !held r } }).settleEndings

/-- R420: every restartable running command of a job, and every queued one, ends with KILLED. -/
def State.killJob (s : State) (j : Nat) : State :=
  let running := (s.live.filter fun l => l.cmd.job == j && s.canStop l).map (·.cmd)
  let queued := (List.range 11).flatMap fun e => s.queue e j
  let s1 := (List.range 11).foldl (fun s e => s.setQueue e j []) s
  let s2 := if (s.slot j).provisional then s1.dropHeld j else s1
  queued.foldl (fun s c => (s.failOutputs c stKilled).complete c stKilled 0) (running.foldl State.killOne s2)

/-- R420: a stopped command returns to the head of its queue; its wait has been met. -/
def State.requeue (s : State) (c : Cmd) : State :=
  let s1 := (((s.undo c).dropLive c).settleLoads).raisePass c.engine c.job
  s1.setQueue c.engine c.job ({ c with wait := 0 } :: s1.queue c.engine c.job)

/-- R420, PREEMPT: restartable running commands stop; no command of the job starts. -/
def State.preemptJob (s : State) (j : Nat) : State :=
  let running := (s.live.filter fun l => l.cmd.job == j && s.canStop l).map (·.cmd)
  -- no queued command may start in the meantime
  let s1 := s.setSlot j fun x => { x with state := 2 }
  (running.reverse.foldl State.requeue s1).settlePreempt j

/-- R83: the commands in progress that use scheduled slots end with ROUTE_DEAD. -/
def State.failScheduled (s : State) : State :=
  let s1 := (List.range 16).foldl (fun s i => s.spFail i stRouteDead ((s.exch i).elim 0 fun e => e.plan.lowLane) 0) s
  let s2 := match s1.col.run with
    | some r => s1.colFail r.cmd stRouteDead (((s1.plan (colParams r.params).plan).map Plan.lowLane).getD 0) r.deadline
    | none => s1
  let s3 := s2.inf.streams.foldl (fun s x =>
    State.complete { s with
      inf := { s.inf with streams := s.inf.streams.filter (· != x) }
      spt := { s.spt with outs := s.spt.outs.filter fun o => !(o.engine == 6 && o.ctx == x.cmd.key) } } x.cmd stRouteDead x.lane) s2
  s3

/-- HT_CFG.HOLD_LIMIT in ticks. -/
def State.holdLimit (s : State) : Nat := field (s.st 0x020020) 29 16 * 1000000

/-- HOLD_LIMIT_EXPIRY (R83). -/
def holdLimitExpiry (s : State) : State :=
  if s.ht.state = .holdover && s.ht.holdSince + s.holdLimit ≤ s.ht.count then
    ((State.htEvent { s with ht := { s.ht with state := .outOfTolerance } } 1).htAlarm).failScheduled
  else s

def execHoldLimitExpiry (s : State) : Result := .next (holdLimitExpiry s)

end Sys2Proof.Machine
end

