-- ==== Sys2Proof/Machine/JobControl.lean ====
section
/-!
DEFINITION. Job control (16_jobs_and_sharing.md R411, R420 to R422): the counter commands of engine 0, SAVE and RESTORE,
and JOB_CTL's PREEMPT, RESUME and KILL.
-/

namespace Sys2Proof.Machine

/-! ## Counter commands, R411 -/

/-- The counter and value of a counter command. -/
def Cmd.counter (c : Cmd) : Nat × BitVec 48 := (field c.imm.toNat 53 48, BitVec.ofNat 48 c.imm.toNat)

/-- A counter command: its counter is 0 to 31. -/
def State.counterOp (s : State) (op : Nat) (f : JobSlot → Nat → BitVec 48 → JobSlot) : State :=
  s.withHead 0 op fun s c =>
    let (i, v) := c.counter
    s.orFail c [need (i < 32) stBadOpcode 0] fun s => (s.setSlot c.job fun j => f (j.inCycle s.engCycle) i v).complete c stOk 0

/-- ARM sets a target. -/
def jobArm (s : State) : State := s.counterOp 0x01 fun j i v => { j with tgt := tset 0 j.tgt i v }
/-- ARMADD adds to a target. -/
def jobArmadd (s : State) : State := s.counterOp 0x02 fun j i v => { j with tgt := tmod 0 j.tgt i (· + v) }
/-- STEP sets a step. -/
def jobStep (s : State) : State := s.counterOp 0x03 fun j i v => { j with stp := tset 0 j.stp i v }
/-- CSET sets a counter, ahead of the increments of its engine cycle (R125). -/
def jobCset (s : State) : State := s.counterOp 0x04 fun j i v => { j with csets := tset none j.csets i (some v) }
/-- CINC adds to a counter as its engine cycle ends. -/
def jobCinc (s : State) : State := s.counterOp 0x05 fun j i v => { j with incs := tmod 0 j.incs i (· + v) }

def execJobArm (s : State) : Result := .next (jobArm s)
def execJobArmadd (s : State) : Result := .next (jobArmadd s)
def execJobStep (s : State) : Result := .next (jobStep s)
def execJobCset (s : State) : Result := .next (jobCset s)
def execJobCinc (s : State) : Result := .next (jobCinc s)

/-! ## Context save, R421, R422 -/

/-- The entries of the save list at ARG. -/
def State.saveList (s : State) (c : Cmd) : List (Nat × Nat) :=
  (List.range (min (s.mem.nat c.arg 4) 1024)).map fun i => (s.mem.nat (c.arg + 64 + 16 * i) 8, s.mem.nat (c.arg + 72 + 16 * i) 8)

/-- Places of the entries in the save area, packed in list order. -/
def packed (base : Nat) : List (Nat × Nat) → List Nat
  | [] => []
  | (_, n) :: r => base :: packed (base + n) r

/-- A range lies in the scratchpad of a core of the job, or in its Stack SRAM windows. -/
def State.saveable (s : State) (j a n : Nat) : Bool :=
  ((List.range 256).any fun k => s.jobOfCore k == j && inside (a, n) (padOf k)) || (inSsram a n && s.inWindows j a n)

/-- The checks of SAVE and RESTORE. -/
def State.saveChecks (s : State) (c : Cmd) : List Check :=
  let es := s.saveList c
  let n := s.mem.nat c.arg 4
  let total := (es.map (·.2)).sum
  [need (1 ≤ n && n ≤ 1024) stStructure 0,
   need (es.all fun e => e.1 % 256 == 0 && e.2 % 256 == 0) stAlign 0,
   need (s.inWindows c.job c.arg (64 + 16 * n) && es.all (fun e => s.saveable c.job e.1 e.2) &&
     inGddr c.arg2 total && s.inWindows c.job c.arg2 total) stBounds 0]

/-- What SAVE writes: each listed range at its place in the save area. -/
def State.saveWrites (s : State) (c : Cmd) : List (Nat × List Byte) :=
  ((packed c.arg2 (s.saveList c)).zip (s.saveList c)).map fun (a, e) => (a, s.mem.bytes e.1 e.2)

/-- What RESTORE writes: each listed range from its place in the save area. -/
def State.restoreWrites (s : State) (c : Cmd) : List (Nat × List Byte) :=
  ((packed c.arg2 (s.saveList c)).zip (s.saveList c)).map fun (a, e) => (e.1, s.mem.bytes a e.2)

/-- The ranges that SAVE and RESTORE access: the list, the listed ranges, and the save area. -/
def State.switchRanges (s : State) (c : Cmd) : List (Nat × Nat) :=
  let es := s.saveList c
  (c.arg, 64 + 16 * es.length) :: (c.arg2, (es.map (·.2)).sum) :: es

/-- SAVE copies the listed ranges to the save area. -/
def save (s : State) : State :=
  s.withHead 0 0x10 fun s c =>
    s.orFail c (s.saveChecks c ++ [need ((s.saveList c).all fun e => !s.hasBad e.1 e.2) stEccUncorr 0]) fun s =>
      ((s.claim (s.switchRanges c)).storeAll (s.saveWrites c)).complete c stOk 0

def execSave (s : State) : Result := .next (save s)

/-- RESTORE copies them back. -/
def restore (s : State) : State :=
  s.withHead 0 0x11 fun s c =>
    s.orFail c (s.saveChecks c ++ [need (((packed c.arg2 (s.saveList c)).zip (s.saveList c)).all fun x => !s.hasBad x.1 x.2.2) stEccUncorr 0]) fun s =>
      ((s.claim (s.switchRanges c)).storeAll (s.restoreWrites c)).complete c stOk 0

def execRestore (s : State) : Result := .next (restore s)

/-! ## JOB_CTL, R420 -/

/-- PREEMPT of a running job. -/
def preempt (j : Nat) (s : State) : State := if (s.slot j).state = 1 then s.preemptJob j else s

def execPreempt (job : Nat) (s : State) : Result := if job < 8 then .next (preempt job s) else noResource "job slot" job

/-- RESUME ends a preemption. -/
def resume (j : Nat) (s : State) : State :=
  if (s.slot j).state = 2 || (s.slot j).state = 3 then s.setSlot j fun x => { x with state := 1 } else s

def execResume (job : Nat) (s : State) : Result := if job < 8 then .next (resume job s) else noResource "job slot" job

/-- KILL of the commands present. -/
def kill (j : Nat) (s : State) : State := if s.hasJob j then s.killJob j else s

def execKill (job : Nat) (s : State) : Result := if job < 8 then .next (kill job s) else noResource "job slot" job

end Sys2Proof.Machine
end

