-- ==== Sys2Proof/Machine/Teardown.lean ====
section
/-!
DEFINITION. Teardown and scrub (16_jobs_and_sharing.md R423, R425; 13_memory_tiers.md R348): draining, zeroing of a torn-down
job's resources, scrub fills of GDDR7, and the zeroing of cores.
-/

namespace Sys2Proof.Machine

/-- A fill under R348: at the lender's apply and at teardown. -/
def State.addScrub (s : State) (base len : Nat) (job : Option Nat) : State :=
  if len = 0 then s else { s with scrubs := s.scrubs ++ [{ base, len, job }] }

/-- The windows of a job by their stores: Stack SRAM and GDDR7. -/
def State.jobWindows (s : State) (j : Nat) : List Window :=
  s.bld.cur.windows.filter fun w => 1 ≤ w.kind && w.kind ≤ 3 && w.job == (s.job j).jobId && w.job != 0

/-- Zeroes one range: Stack SRAM at once, GDDR7 by a fill. -/
def State.scrubRange (s : State) (j : Nat) (base len : Nat) : State :=
  if base < ssramBase then s.addScrub base len (some j) else s.zero base len

/-- R423, step 3: windows, pools and Urn regions, a table's spill area with it. -/
def State.scrubMemory (s : State) (j : Nat) : State :=
  let s1 := (s.jobWindows j).foldl (fun t w => t.scrubRange j w.base w.len) s
  let s2 := (List.range 64).foldl (fun t p =>
    let q := s.pool p
    if q.en && q.job = j then { t.scrubRange j q.base q.len with pools := tset {} t.pools p {} } else t) s1
  (List.range 16).foldl (fun t i =>
    let u := s.urnCfg i
    if u.en && u.job = j then ((t.zero u.base u.len).scrubRange j u.spillBase (u.spillLen * u.slotBytes)).setUrn i {} else t) s2

/-- R423, step 3: directory entries in the job's range that no running job's range covers. -/
def State.scrubDirectory (s : State) (j : Nat) : State :=
  let r := s.dirRange j
  let kept (i : Nat) := (List.range 8).any fun k =>
    k != j && (s.slot k).state != 0 && decide ((s.slot k).state < 4) && decide ((s.dirRange k).1 ≤ i) && decide (i < (s.dirRange k).1 + (s.dirRange k).2)
  { s with str := { s.str with dir := s.str.dir.filter fun e => !(r.1 ≤ e.1 && e.1 < r.1 + r.2) || kept e.1 } }

/-- R423, step 3: the job's prefix-table entries are freed. -/
def State.scrubPrefix (s : State) (j : Nat) : State :=
  { s with pfx := { s.pfx with table := s.pfx.table.filter fun e => !(e.2.valid && e.2.job == j)
                               steps := s.pfx.steps.filter fun e => e.2.job != j } }

/-- No command of the job is left and no remote request of it is outstanding (R308). -/
def State.drained (s : State) (j : Nat) : Bool :=
  s.live.all (fun l => l.cmd.job != j) && (List.range 11).all (fun e => (s.queue e j).isEmpty) &&
  (s.fab.toSend ++ s.fab.outstanding).all fun r => r.jobSlot != j || r.jobId != (s.job j).jobId

/-- TEARDOWN_DRAIN_DONE (R423, steps 2 and 3). -/
def teardownDrainDone (j : Nat) (s : State) : State :=
  if (s.slot j).state = 4 && s.drained j then
    (((s.scrubMemory j).scrubDirectory j).scrubPrefix j).setSlot j fun x => { x with state := 5 }
  else s

def execTeardownDrainDone (job : Nat) (s : State) : Result :=
  if job < 8 then .next (teardownDrainDone job s) else noResource "job slot" job

/-- TEARDOWN_SCRUB_DONE (R423, step 4). -/
def teardownScrubDone (j : Nat) (s : State) : State :=
  if (s.slot j).state = 5 && s.scrubs.all (fun x => x.job != some j) then s.setSlot j fun x => { x with state := 6 } else s

def execTeardownScrubDone (job : Nat) (s : State) : Result :=
  if job < 8 then .next (teardownScrubDone job s) else noResource "job slot" job

/-- R423: the apply that first names a job in teardown. -/
def State.beginTeardown (s : State) (j : Nat) : State :=
  (s.killJob j).setSlot j fun x => { x with state := 4, provisional := false }

/-- CORE_SCRUB_DONE (R425): scratchpad, DMEM, IMEM and registers read zero. -/
def coreScrubDone (k : Nat) (s : State) : State :=
  if (s.core k).scrubbing then
    (s.zero (padOf k).1 (padOf k).2).modCore k fun c => { c with scrubbing := false, s := [], v := [], dmem := [], imem := [], padWrites := [] }
  else s

def execCoreScrubDone (core : Nat) (s : State) : Result :=
  if core < 256 then .next (coreScrubDone core s) else noResource "core" core

/-- SCRUB_FILL_DONE (R348): the oldest fill completes. -/
def scrubFillDone (s : State) : State :=
  match s.scrubs with
  | [] => s
  | x :: r => { s.zero x.base x.len with scrubs := r }

def execScrubFillDone (s : State) : Result := .next (scrubFillDone s)

end Sys2Proof.Machine
end

