-- ==== Sys2Proof/Machine/Start.lean ====
section
/-!
DEFINITION. The job-start broadcast (12_collectives.md R324 to R330): START, acknowledgements up tree A, commits and aborts down
both trees, and the ends of a START.
-/

namespace Sys2Proof.Machine

/-! ## Messages, R325 -/

/-- Table 12-8: the payload of a start message of a kind (0x11 ACK, 0x12 COMMIT, 0x13 ABORT). -/
def startPayload (kind : Nat) (m : StartMsg) : List Byte :=
  leBytes 1 kind ++ leBytes 1 (if m.treeB then 1 else 0) ++ leBytes 2 m.root.toNat ++ leBytes 4 m.seq.toNat ++
  leBytes 8 m.blendId.toNat ++ leBytes 4 m.job.toNat ++ leBytes 4 m.count ++ leBytes 8 m.t

/-- A message of a START. -/
def StartRun.msg (r : StartRun) (treeB : Bool) (count t : Nat) : StartMsg :=
  { treeB, root := r.root, seq := r.seq, blendId := r.blendId, job := BitVec.ofNat 32 r.jobId, count, t }

/-- The hop entry of a port index, when its port is in use and up. -/
def State.indexPort (s : State) (i : Nat) : Option Nat :=
  let h := (s.hopTable s.bld.epoch).getD i {}
  if i < 12 && h.en && s.portUp h.phys then some h.phys else none

/-- Sends a start message to a neighbour: route [port index, 12], DST 0xFFFF. -/
def State.sendStart (s : State) (i kind : Nat) (m : StartMsg) : State :=
  match s.indexPort i with
  | some p => s.queueFlit p { flit :=
      { vc := 0, epoch := s.bld.epoch, hop := 1, route := BitVec.ofNat 32 (i + 12 * 16), src := s.fab.fabId, dst := 0xFFFF, typ := 0x05
        payload := padTo 240 (startPayload kind m) } }
  | none => s

/-- Sends a COMMIT or ABORT on every child port of both trees. -/
def State.sendDown (s : State) (r : StartRun) (kind t : Nat) : State :=
  let s1 := (bitsSet 12 r.childA.toNat).foldl (fun s i => s.sendStart i kind (r.msg false 0 t)) (s.noRestart r.cmd)
  (bitsSet 12 r.childB.toNat).foldl (fun s i => s.sendStart i kind (r.msg true 0 t)) s1

/-! ## Ends -/

def State.modCol (s : State) (f : Collective → Collective) : State := { s with col := f s.col }

/-- A START ends without applying: COL_EVT.ABORT, and the engine is idle. -/
def State.startFail (s : State) (r : StartRun) (status : Nat) : State :=
  let s1 := s.modEng 8 fun e => { e with evt := e.evt ||| 4 ||| colBits status }
  (s1.modCol fun c => { c with start := none, startState := 0, ended := some r.seq }).complete r.cmd status 0

/-- R326, R327: APPLY for the commit's T under the collective engine's code; a refusal ends START. -/
def State.commitApply (s : State) (r : StartRun) (t : Nat) : State :=
  let s1 := State.applyCmd (s.modBld fun b => { b with applyTime := t }) 0x005
  if s1.bld.state = .armed && s.bld.state != .armed then
    s1.modCol fun c => { c with start := some { r with committed := true }, startState := 2, startT := t }
  else s1.startFail r stBlendConflict

/-! ## Acknowledging, R326 -/

/-- The stage holds the START's blend, CHECKED. -/
def State.stageReady (s : State) (r : StartRun) : Bool := s.bld.state == .checked && s.bld.stagedId == r.blendId

/-- 1 plus the counts acknowledged. -/
def StartRun.count (r : StartRun) : Nat := 1 + (r.acks.map (·.2)).sum

/-- R326: the start instant the root computes. -/
def State.startInstant (s : State) (r : StartRun) : Nat := max r.tMin (roundUp (s.now + 10240 + r.depth * 2720) frameLen)

/-- What a running START does once its conditions hold: the root commits, another device acknowledges its parent. -/
def State.startAdvance (s : State) : State :=
  match s.col.start with
  | none => s
  | some r =>
    if r.committed || !s.stageReady r then s
    else if r.root == s.fab.fabId then
      if r.count = r.total then
        let t := s.startInstant r
        (s.sendDown r 0x12 t).commitApply r t
      else s
    else if !r.acked && (bitsSet 12 r.childA.toNat).all (fun i => r.acks.any fun a => a.1 == i) then
      State.sendStart ((s.noRestart r.cmd).modCol fun c => { c with start := some { r with acked := true } }) r.parentA 0x11
        (r.msg false r.count 0)
    else s

/-- A message belongs to a START. -/
def StartRun.owns (r : StartRun) (m : StartMsg) : Bool :=
  m.seq == r.seq && m.root == r.root && m.blendId == r.blendId && m.job.toNat == r.jobId

/-- An ACK from a tree-A child, each child once. -/
def State.takeAck (s : State) (r : StartRun) (port : Nat) (m : StartMsg) : State :=
  match (bitsSet 12 r.childA.toNat).find? fun i => s.indexPort i == some port && r.acks.all fun a => a.1 != i with
  | some i => (s.modCol fun c => { c with start := some { r with acks := r.acks ++ [(i, m.count)] } }).startAdvance
  | none => s

/-- R327: the first COMMIT: forwarded at once, then APPLY at T. -/
def State.takeCommit (s : State) (r : StartRun) (m : StartMsg) : State :=
  if r.committed then s
  else ((s.modCol fun c => { c with viaB := m.treeB }).sendDown r 0x12 m.t).commitApply r m.t

/-- R327: an ABORT: forwarded, and START ends. -/
def State.takeAbort (s : State) (r : StartRun) : State :=
  if r.committed then s else (s.sendDown r 0x13 0).startFail r stRemoteTimeout

/-- A start message of a kind: for the START that runs, or kept for one that has not started here; later copies are discarded. -/
def State.startMessage (s : State) (kind port : Nat) (m : StartMsg) : State :=
  match s.col.start with
  | some r =>
    if r.owns m then
      if kind = 0x11 then s.takeAck r port m else if kind = 0x12 then s.takeCommit r m else s.takeAbort r
    else if m.seq == r.seq || s.col.ended == some m.seq then s
    else s.modCol fun c => { c with early := c.early ++ [(kind, port, m)] }
  | none => if s.col.ended == some m.seq then s else s.modCol fun c => { c with early := c.early ++ [(kind, port, m)] }

/-! ## START, R324 -/

/-- Table 12-7. -/
def parseStart (c : Cmd) (b : List Byte) : StartRun :=
  { cmd := c, blendId := BitVec.ofNat 64 (leAt b 0 8), priorId := BitVec.ofNat 64 (leAt b 8 8), jobId := leAt b 16 4
    seq := BitVec.ofNat 32 (leAt b 20 4), root := BitVec.ofNat 16 (leAt b 24 2), depth := leAt b 26 1, parentA := field (leAt b 27 1) 3 0
    childA := BitVec.ofNat 12 (leAt b 28 2), childB := BitVec.ofNat 12 (leAt b 30 2), total := leAt b 32 4
    ackDeadline := leAt b 40 8, tMin := leAt b 48 8 }

/-- R324: what breaks the tree fields: the port index that is none, or stands twice, or is a root's parent; 0 for DEPTH or TOTAL
(Table 12-5). -/
def treeBad (b : List Byte) (isRoot : Bool) : Option Nat :=
  let pa := field (leAt b 27 1) 3 0
  let pb := field (leAt b 27 1) 7 4
  let parents := [pa, pb]
  let ports := (if isRoot then [] else parents) ++ bitsSet 16 (leAt b 28 2) ++ bitsSet 16 (leAt b 30 2)
  let twice := (List.range ports.length).findSome? fun i => (ports[i]?).filter (ports.take i).contains
  ((ports.find? fun p => decide (12 ≤ p)).orElse fun _ => twice).orElse fun _ =>
    (if isRoot then parents.find? (· != 15) else none).orElse fun _ =>
      if leAt b 26 1 = 0 || 64 < leAt b 26 1 || (!isRoot && leAt b 32 4 != 0) then some 0 else none

/-- R324: the blend IDs agree. -/
def State.startIds (s : State) (r : StartRun) : Bool :=
  r.priorId != 0 && r.priorId == s.bld.currentId && (s.bld.state != .checked || s.bld.stagedId == r.blendId)

/-- The checks of START, in order. -/
def State.startChecks (s : State) (c : Cmd) : List Check :=
  let b := s.params c
  let r := parseStart c b
  [zeroParams b (offsets 36 39 ++ offsets 56 63), (treeBad b (r.root == s.fab.fabId)).map fun i => (stStructure, i),
   need (s.startIds r) stStructure 0]

/-- START (R324, R326): one at a time; messages that came before it are taken now. -/
def start (s : State) : State :=
  if s.col.start.isSome then s
  else
    s.withHead 8 0x10 fun s c =>
      let r := parseStart c (s.params c)
      s.orFail c (s.startChecks c) fun s =>
        let early := s.col.early
        let s1 := (s.addLive c true).modCol fun x =>
          { x with start := some r, startState := 1, startSeq := r.seq, viaB := false, early := [] }
        early.foldl (fun s e => s.startMessage e.1 e.2.1 e.2.2) s1.startAdvance

def execStart (s : State) : Result := .next (start s)

/-- START_ACK_RECEIVE (R326). -/
def startAckReceive (port : Nat) (m : StartMsg) (s : State) : State := s.startMessage 0x11 port m
def execStartAckReceive (port : Nat) (msg : StartMsg) (s : State) : Result :=
  if port < 12 then .next (startAckReceive port msg s) else noResource "port" port

/-- START_COMMIT_RECEIVE (R327). -/
def startCommitReceive (port : Nat) (m : StartMsg) (s : State) : State := s.startMessage 0x12 port m
def execStartCommitReceive (port : Nat) (msg : StartMsg) (s : State) : Result :=
  if port < 12 then .next (startCommitReceive port msg s) else noResource "port" port

/-- START_ABORT_RECEIVE (R327). -/
def startAbortReceive (port : Nat) (m : StartMsg) (s : State) : State := s.startMessage 0x13 port m
def execStartAbortReceive (port : Nat) (msg : StartMsg) (s : State) : Result :=
  if port < 12 then .next (startAbortReceive port msg s) else noResource "port" port

/-- ACK_DEADLINE_EXPIRY (R326): at the root, after the deadline tick. -/
def ackDeadlineExpiry (s : State) : State :=
  match s.col.start with
  | some r =>
    if r.root == s.fab.fabId && !r.committed && decide (r.ackDeadline < s.now) then
      (s.sendDown r 0x13 0).startFail r stRemoteTimeout
    else s
  | none => s

def execAckDeadlineExpiry (s : State) : Result := .next (ackDeadlineExpiry s)

/-- START_COMMIT_TIMEOUT (R327). -/
def startCommitTimeout (s : State) : State :=
  match s.col.start with
  | some r =>
    if r.root != s.fab.fabId && !r.committed && decide (r.ackDeadline + r.depth * 2720 < s.now) then s.startFail r stRemoteTimeout else s
  | none => s

def execStartCommitTimeout (s : State) : Result := .next (startCommitTimeout s)

end Sys2Proof.Machine
end

