-- ==== Sys2Proof/Machine/Blend.lean ====
section
/-!
DEFINITION. The blend commands (04_blend.md R104 to R115, R278): CLAIM, LOAD, the end of its check, APPLY, CANCEL, RELEASE and
writes of ST fields.
-/

namespace Sys2Proof.Machine

/-- BLEND_CLAIM. -/
def blendClaim (requester : Nat) (s : State) : State :=
  if !s.bldOpen then s
  else if s.bld.state = .empty then
    -- R456: a MAINT_ENTER of this engine cycle finds the stage not EMPTY
    let w := if s.maintNow then { s.wdn with mode := 1, maintAt := none, wmbStatus := stStructure } else s.wdn
    State.modBld { s with wdn := w } fun b => { b with state := .claimed, claimant := requester }
  else s.reject

def execBlendClaim (requester : Nat) (s : State) : Result := .next (blendClaim requester s)

/-- BLEND_LOAD (R104, R106). -/
def blendLoad (requester : Nat) (s : State) : State :=
  if !s.bldOpen then s
  else if (s.bld.state = .claimed || s.bld.state = .checked) && s.bld.claimant = requester then
    let bad (status : Nat) : State := State.loadFailed (s.modBld fun b => { b with dirty := false }) (oneFail { status })
    if s.bld.src % 256 != 0 then bad stAlign
    else if !inMain s.bld.src s.bld.len then bad stBounds
    else s.loadImage
  else s.reject

def execBlendLoad (requester : Nat) (s : State) : Result := .next (blendLoad requester s)

/-- BLEND_CHECK_DONE (R109): a START that waits for the stage goes on (R326). -/
def blendCheckDone (sigOk : Bool) (s : State) : State :=
  if s.bld.state = .checking && s.bld.deferUntil = 0 then (s.endCheck sigOk).startAdvance else s

def execBlendCheckDone (sigOk : Bool) (s : State) : Result := .next (blendCheckDone sigOk s)

/-- HOP_TABLE_LOAD_DEFER_END (R278). -/
def hopTableLoadDeferEnd (s : State) : State :=
  if s.bld.state = .checking && s.bld.deferUntil != 0 && s.bld.deferUntil ≤ s.now then s.loadDone.startAdvance else s

def execHopTableLoadDeferEnd (s : State) : Result := .next (hopTableLoadDeferEnd s)

/-- BLEND_APPLY (R112). -/
def blendApply (requester : Nat) (s : State) : State := if s.bldOpen then s.applyCmd requester else s

def execBlendApply (requester : Nat) (s : State) : Result := .next (blendApply requester s)

/-- BLEND_CANCEL, until T − 2,560; a START that armed the stage ends with it. -/
def blendCancel (requester : Nat) (s : State) : State :=
  if !s.bldOpen then s
  else if s.bld.state = .armed && s.bld.claimant = requester && s.now + 2560 < s.bld.armedT then
    let s1 := s.modBld fun b => { b with state := .checked }
    match s.col.start with
    | some r => if r.committed then s1.startFail r stBlendConflict else s1
    | none => s1
  else s.reject

def execBlendCancel (requester : Nat) (s : State) : Result := .next (blendCancel requester s)

/-- BLEND_RELEASE. -/
def blendRelease (requester : Nat) (s : State) : State :=
  if !s.bldOpen then s
  else if (s.bld.state = .claimed || s.bld.state = .checked) && s.bld.claimant = requester then
    s.modBld fun b => { b.unstaged .empty with claimant := 0 }
  else s.reject

def execBlendRelease (requester : Nat) (s : State) : Result := .next (blendRelease requester s)

/-- ST_FIELD_WRITE (R104, R107): an offset that is no ST register's changes nothing. -/
def stFieldWrite (off : Nat) (half : Half) (value : BitVec 64) (s : State) : State :=
  match stMask off with
  | none => s
  | some m =>
    if s.bld.state = .armed then s.writeIgnored off
    else
      let v := mergeWrite half m (s.stagedSt off) value.toNat
      s.modBld fun b =>
        { b with
          dirty := true
          stagedSt := setSt b.stagedSt off v
          writtenSt := if b.state = .checking || b.state = .checked then tput b.writtenSt off (BitVec.ofNat 64 v) else b.writtenSt }

def execStFieldWrite (offset : Nat) (half : Half) (value : BitVec 64) (s : State) : Result :=
  .next (served (if offset % 8 = 0 then half else .other) (stFieldWrite offset half value) s)

end Sys2Proof.Machine
end

