-- ==== Sys2Proof/Machine/Infuser.lean ====
section
/-!
DEFINITION. Live weight infusion (14_training_and_infusion.md R378 to R389): STREAM, ACCEPT, SWAP, SEQ_BEGIN, SEQ_END, the
receive side of streams, and the states of a set's two regions. Set words and sequence tables stand in Stack SRAM.
-/

namespace Sys2Proof.Machine

/-! ## Sets, R379 -/

/-- An infusion set as its registers define it. -/
structure SetCfg where
  en : Bool
  tjob : Nat
  nseq : Nat
  words : Nat
  guard : Nat
  r0 : Nat
  r1 : Nat
  len : Nat
  deriving DecidableEq, Repr

/-- Set s from its four registers, read through `reg` by offset. -/
def setCfgOf (reg : Nat → Nat) (i : Nat) : SetCfg :=
  let o := 0x140200 + 0x20 * i
  let c := reg o
  { en := bitOf c 0, tjob := field c 3 1, nseq := field c 16 4, words := ssramBase + field c 35 17 * 4096, guard := field c 55 36
    r0 := field (reg (o + 8)) 35 0 * 4096, r1 := field (reg (o + 16)) 35 0 * 4096, len := field (reg (o + 24)) 35 0 * 4096 }

def State.setCfg (s : State) (i : Nat) : SetCfg := setCfgOf s.st i
def State.infSet (s : State) (i : Nat) : InfSet := tget {} s.inf.sets i
def State.modSet (s : State) (i : Nat) (f : InfSet → InfSet) : State := { s with inf := { s.inf with sets := tmod {} s.inf.sets i f } }

/-- A region of a set by number. -/
def InfSet.region (x : InfSet) (one : Bool) : RegionState := if one then x.r1 else x.r0
def InfSet.setRegion (x : InfSet) (one : Bool) (r : RegionState) : InfSet := if one then { x with r1 := r } else { x with r0 := r }
def SetCfg.base (c : SetCfg) (one : Bool) : Nat := if one then c.r1 else c.r0

/-- The region in a state, if one is; region 1 is `true`. -/
def InfSet.find (x : InfSet) (r : RegionState) : Option Bool := if x.r0 = r then some false else if x.r1 = r then some true else none

/-- Bytes of a set-word area. -/
def SetCfg.areaLen (c : SetCfg) : Nat := 64 + 16 * c.nseq

/-- Address of sequence entry `k`. -/
def SetCfg.seq (c : SetCfg) (k : Nat) : Nat := c.words + 64 + 16 * k

/-- LIVE_VER of a set. -/
def State.liveVer (s : State) (i : Nat) : Nat := s.mem.nat ((s.setCfg i).words + 8) 8

/-- R385: a VALID drain-on-old entry of this region. -/
def State.holds (s : State) (i : Nat) (one : Bool) (k : Nat) : Bool :=
  let f := (s.mem.byte ((s.setCfg i).seq k + 8)).toNat
  bitOf f 0 && bitOf f 1 && bitOf f 2 == one

/-- Entries that hold a region: INF_SET_STATE.HELD for the OLD one. -/
def State.heldBy (s : State) (i : Nat) (one : Bool) : Nat := ((List.range (s.setCfg i).nseq).filter (s.holds i one)).length

/-- The job's set, or STRUCTURE. -/
def State.setCheck (s : State) (c : Cmd) (i : Nat) : Check :=
  need (decide (i < 8) && (s.setCfg i).en && (s.setCfg i).tjob == c.job) stStructure i

/-- The first frame boundary at or after a tick. -/
def frameUp (t : Nat) : Nat := roundUp t frameLen

/-- R388: a region is released: COOLING until the first frame boundary at or after GUARD. -/
def State.cool (s : State) (i : Nat) (one : Bool) : State :=
  let at' := frameUp (s.now + (s.setCfg i).guard * 1000)
  s.modSet i fun x =>
    let y := x.setRegion one .cooling
    if one then { y with coolAt1 := at' } else { y with coolAt0 := at' }

/-- R388: an OLD region that nothing holds any more is released, and OLD_BASE and OLD_VER become 0. -/
def State.releaseOld (s : State) (i : Nat) : State :=
  match (s.infSet i).find .old with
  | some one => if s.heldBy i one = 0 then (s.store ((s.setCfg i).words + 16) (zeros 16)).cool i one else s
  | none => s

/-! ## STREAM, R381, R382 -/

/-- R381: the job slot whose positions carry a job's streams. -/
def State.posJob (s : State) (j : Nat) : Nat := field (s.st (0x140100 + 8 * j)) 3 1

/-- The port index a STREAM leaves by. -/
def streamLane (b : List Byte) : Nat := routeNibble (BitVec.ofNat 32 (leAt b 16 4)) 0

/-- The effective start of a STREAM. -/
def State.streamStart (s : State) (b : List Byte) : Nat :=
  max (frameUp (leAt b 24 8)) (tget 0 s.inf.portFree (s.lanePort (streamLane b)) * slotLen)

/-- R382: the header flit and the data flits. -/
def State.streamFlits (s : State) (b data : List Byte) : List (List Byte) :=
  let n := ceilDiv data.length 240
  streamHeader n (leAt b 8 4) (leAt b 2 2) s.devId (leAt b 4 2) 9 (leAt b 0 1) 0 (crc32c data)
    (leBytes 8 (leAt b 8 8) ++ leBytes 8 (leAt b 32 8) ++ leBytes 8 data.length ++ leBytes 4 (leAt b 40 4)) ::
  (List.range n).map fun i => slice data (240 * i) 240

/-- A STREAM that has not started by its effective start sends nothing. -/
def State.streamLate (s : State) (c : Cmd) : State :=
  let set := leAt (s.params c) 0 1
  (s.jobEvent 3 0x140 0x0020 c.opcode set stRemoteTimeout c.job).complete c stRemoteTimeout set

/-- The checks of INFUSER_STREAM, in order. -/
def State.infuserStreamChecks (s : State) (c : Cmd) : List Check :=
  let b := s.params c
  let lane := streamLane b
  [zeroParams b ([1, 6, 7] ++ offsets 20 23 ++ offsets 44 63)] ++
    s.checkSlot c 0 anyFmt (fun t => t.exts.length == 1) ++ s.eccSlots c [0] [] ++
    [need (s.ht.state != .outOfTolerance) stRouteDead lane]

/-- INFUSER_STREAM (R381, R382). -/
def infuserStream (s : State) : State :=
  s.withHead 6 0x01 fun s c =>
    let b := s.params c
    let lane := streamLane b
    let port := s.lanePort lane
    let om := s.omega port (s.posJob c.job)
    let eff := s.streamStart b
    s.orFail c (s.infuserStreamChecks c) fun s =>
      if decide (eff < s.now) || om.isEmpty then s.streamLate c
      else
        let flits := s.streamFlits b ((s.slotTensor c 0).read s.mem)
        let base := firstOwned om eff
        let s1 := (s.addLive c false).addStreams
          [{ engine := 6, ctx := c.key, kind := 9, stage := 0, phase := 0, lane, dst := BitVec.ofNat 16 (leAt b 4 2)
             route := BitVec.ofNat 32 (leAt b 16 4), job := s.posJob c.job, base, start := 0, flits
             src := some (localOf (s.slotTensor c 0).base, ((s.slotTensor c 0).read s.mem).length) }]
        { s1 with inf := { s1.inf with
            streams := s1.inf.streams ++ [{ cmd := c, effStart := eff, lane }]
            portFree := tset 0 s1.inf.portFree port ((lanePlace om base (flits.length - 1)).1 + 1) } }

def execInfuserStream (s : State) : Result := .next (infuserStream s)

/-- INFUSER_STREAM_LATE (R382): a STREAM at the head of its queue whose effective start has passed. -/
def infuserStreamLate (s : State) : State :=
  let late := (List.range 8).findSome? fun j => ((s.queue 6 j).head?).filter fun c =>
    c.opcode == 1 && s.counting && decide (s.streamStart (s.params c) < s.now)
  match late with
  | none => s
  | some c => (s.setQueue 6 c.job (s.queue 6 c.job).tail).streamLate c

def execInfuserStreamLate (s : State) : Result := .next (infuserStreamLate s)

/-! ## The receive side, R383 -/

/-- The flit lies in the slots of a stream that a Spout context or the collective expects of its source. -/
def State.otherStream (s : State) (h : RxFlit) : Bool :=
  let mine (job : Nat) (l : List SpoutExpect) := job == h.job &&
    l.any fun x => x.src == h.src.toNat && decide (x.base * 128 ≤ h.key) && decide (h.key < x.upTo * 128)
  (List.range 16).any (fun i => mine (s.spCtx i).job (s.spCtx i).expect) || s.col.run.any fun r => mine r.cmd.job r.expect

/-- The key of the last flit of the stream that a header begins. -/
def State.lastKey (s : State) (h : RxFlit) : Nat :=
  let p := lanePlace (s.omega h.port h.job) (h.key / 128) (leAt h.payload 0 4)
  p.1 * 128 + p.2

/-- The headers of KIND 9 that have come from a source, in order: a flit that stands within the stream of an earlier one is none. -/
def State.streamHeaders (s : State) (src : Nat) : List RxFlit :=
  (sortBy (fun a b => decide (a.key ≤ b.key)) (s.spt.rx.filter fun h =>
    h.src.toNat == src && h.key % 128 == 0 && leAt h.payload 16 1 == 9 && !s.otherStream h)).foldl
    (fun hs h => if hs.any fun e => e.port == h.port && e.job == h.job && decide (h.key ≤ s.lastKey e) then hs else hs ++ [h]) []

/-- A header and the flits of its stream, if they have all come. -/
def State.wholeStream (s : State) (h : RxFlit) : Option (List RxFlit) :=
  let fs := (sortBy (fun a b => decide (a.key ≤ b.key)) (s.spt.rx.filter fun r =>
    r.src == h.src && r.port == h.port && r.job == h.job && decide (h.key ≤ r.key)))
  let run := (contiguous (s.omega h.port h.job) fs).take (1 + leAt h.payload 0 4)
  if run.length = 1 + leAt h.payload 0 4 then some run else none

/-- R383: the header agrees with the set's SHADOW region, whose ACCEPT's deadline tick has not passed (R94); the region's base. -/
def State.streamFits (s : State) (h : List Byte) : Option Nat :=
  let i := leAt h 17 1
  let cfg := s.setCfg i
  let x := s.infSet i
  match x.accept, x.find .shadow with
  | some a, some one =>
    let shard := leAt h 8 4
    if i < 8 && cfg.en && leAt h 24 8 == a.version.toNat && leAt h 48 4 == (s.job cfg.tjob).jobId && decide (shard < a.nshards) &&
        !a.done.contains shard && decide (s.now ≤ a.deadline) && decide (leAt h 32 8 + leAt h 40 8 ≤ cfg.len) then some (cfg.base one) else none
  | _, _ => none

/-- INFUSION_STREAM_RECEIVE: a stream of a source, once its last flit has come, is discarded or completes its shard. -/
def infusionStreamReceive (src : Nat) (s : State) : State :=
  match (s.streamHeaders src).findSome? s.wholeStream with
  | none => s
  | some run =>
    let h := (run.headD ⟨0, 0, 0, 0, []⟩).payload
    let s1 := s.takeStream run
    match s.streamFits h with
    | none => { s1 with inf := { s1.inf with cntDiscard := s1.inf.cntDiscard + 1 } }
    | some base =>
      let len := leAt h 40 8
      let data := padTo len ((run.drop 1).flatMap fun f => padTo 240 f.payload)
      let at' := base + leAt h 32 8
      if crc32c data = leAt h 20 4 then
        (s1.store at' data).modSet (leAt h 17 1) fun x =>
          { x with accept := x.accept.map fun a => { a with done := a.done ++ [leAt h 8 4] } }
      else
        State.leaveUndefined { s1 with inf := { s1.inf with cntCrc := s1.inf.cntCrc + 1 } } [(at', len)]

def execInfusionStreamReceive (src : Nat) (s : State) : Result := .next (infusionStreamReceive src s)

/-! ## Taking effect, R385 -/

/-- R385: the changes of a swap to the set words and the sequence table. -/
def State.swapWords (s : State) (i : Nat) (one : Bool) (old : Option Bool) (held : Bool) (ver : BitVec 64) : State :=
  let c := s.setCfg i
  let oldPart :=
    match old with
    | some o => if held then leBytes 8 (c.base o) ++ leBytes 8 (s.liveVer i) else zeros 16
    | none => zeros 16
  let s1 := s.store c.words (leBytes 8 (c.base one) ++ leBytes 8 ver.toNat ++ oldPart ++ leBytes 8 s.now)
  let entry k := (s1.mem.byte (c.seq k + 8)).toNat
  let moved := (List.range c.nseq).filter fun k => bitOf (entry k) 0 && !bitOf (entry k) 1
  s1.storeAll (moved.map fun k => (c.seq k, leBytes 8 ver.toNat ++ leBytes 1 (entry k % 4 + flagBit one 2)))

/-- R385: the READY region becomes LIVE, or SWAP ends with REMOTE_TIMEOUT. -/
def State.swapTakeEffect (s : State) (i : Nat) (w : SwapRun) : State :=
  let s0 := s.modSet i fun x => { x with swaps := x.swaps.erase w }
  let x := s0.infSet i
  match x.find .ready with
  | none => s0.complete w.cmd stRemoteTimeout i
  | some one =>
    let old := x.find .live
    let held := old.any fun o => s0.heldBy i o != 0
    let s1 := (s0.swapWords i one old held x.readyVer).modSet i fun y => y.setRegion one .live
    let s2 :=
      match old with
      | some o => if held then s1.modSet i fun y => y.setRegion o .old else s1.cool i o
      | none => s1
    s2.complete w.cmd stOk 0

/-! ## ACCEPT, R384 -/

/-- R384: an ACCEPT commits: its region becomes READY. A swap whose timer fired in this tick counts it (R385). -/
def State.acceptCommit (s : State) (i : Nat) (a : AcceptRun) : State :=
  let s1 := (s.modSet i fun x =>
    match x.find .shadow with
    | some one => { x.setRegion one .ready with accept := none, readyVer := a.version }
    | none => { x with accept := none }).complete a.cmd stOk 0
  match (s1.infSet i).swaps.find? (·.due) with
  | some w => s1.swapTakeEffect i w
  | none => s1

/-- The checks of ACCEPT, in order. -/
def State.acceptChecks (s : State) (c : Cmd) : List Check :=
  let b := s.params c
  let i := leAt b 0 1
  let x := s.infSet i
  let busy r := r == RegionState.shadow || r == RegionState.ready
  [zeroParams b ([1] ++ offsets 4 7 ++ offsets 24 63), s.setCheck c i,
    need ((x.find .free).isSome && !busy x.r0 && !busy x.r1 && decide (s.liveVer i < leAt b 8 8)) stStructure i]

/-- ACCEPT: a FREE region becomes SHADOW; which one, when both are FREE, is left open. -/
def accept (s : State) : State :=
  s.withHead 6 0x02 fun s c =>
    let b := s.params c
    let i := leAt b 0 1
    let x := s.infSet i
    s.orFail c (s.acceptChecks c) fun s =>
      let both := x.r0 == .free && x.r1 == .free
      let one := if both then Config.freeRegion i else x.r1 == .free
      let a : AcceptRun :=
        { cmd := c, version := BitVec.ofNat 64 (leAt b 8 8), nshards := leAt b 2 2, done := [], deadline := leAt b 16 8 }
      let s2 := (s.addLive c true).modSet i fun x => { x.setRegion one .shadow with accept := some a }
      if a.nshards = 0 then s2.acceptCommit i a else s2

def execAccept (s : State) : Result := .next (accept s)

/-- ACCEPT_COMPLETE: every shard is complete. -/
def acceptComplete (i : Nat) (s : State) : State :=
  match (s.infSet i).accept with
  | some a => if a.done.length = a.nshards then s.acceptCommit i a else s
  | none => s

def execAcceptComplete (set : Nat) (s : State) : Result :=
  if set < 8 then .next (acceptComplete set s) else noResource "infusion set" set

/-- ACCEPT_DEADLINE (R384, R94): the region returns to FREE, its contents undefined. -/
def acceptDeadline (i : Nat) (s : State) : State :=
  match (s.infSet i).accept with
  | some a =>
    if a.deadline < s.now && a.done.length != a.nshards then
      let one := ((s.infSet i).find .shadow).getD false
      ((s.leaveUndefined [((s.setCfg i).base one, (s.setCfg i).len)]).modSet i fun x =>
        { x.setRegion one .free with accept := none }).complete a.cmd stRemoteTimeout i
    else s
  | none => s

def execAcceptDeadline (set : Nat) (s : State) : Result :=
  if set < 8 then .next (acceptDeadline set s) else noResource "infusion set" set

/-! ## SWAP, R385 -/

/-- R385: the instant of a swap named for T by a command that starts now. -/
def State.swapAt (s : State) (t : Nat) : Nat :=
  if frameUp t ≤ s.now + 2560 then frameUp (s.now + 2561) else frameUp t

/-- The checks of SWAP, in order. -/
def State.swapChecks (s : State) (c : Cmd) : List Check :=
  let b := s.params c
  let i := leAt b 0 1
  let n := leAt b 1 1
  [zeroParams b (offsets 2 7 ++ offsets 16 63), s.setCheck c i,
    need (decide (n < 16) && (tget ({} : HtTimer) s.ht.timers n).owner == 0x003) stStructure i]

/-- SWAP: arms its hall timer. -/
def swap (s : State) : State :=
  s.withHead 6 0x03 fun s c =>
    let b := s.params c
    let i := leAt b 0 1
    let n := leAt b 1 1
    s.orFail c (s.swapChecks c) fun s =>
      let t := s.swapAt (leAt b 8 8)
      let s1 := (s.addLive c true).modSet i fun x => { x with swaps := x.swaps ++ [{ cmd := c, timer := n, t }] }
      { s1 with ht := { s1.ht with timers := tmod {} s1.ht.timers n fun x => { x with cmp := t, arm := true, periodic := false } } }

def execSwap (s : State) : Result := .next (swap s)

/-- R385: a swap's timer has fired: it takes effect, or waits to the end of the tick for an ACCEPT that commits. -/
def State.swapFired (s : State) (i : Nat) (w : SwapRun) : State :=
  if ((s.infSet i).find .ready).isSome then s.swapTakeEffect i w
  else s.modSet i fun x => { x with swaps := x.swaps.map fun y => if y = w then { y with due := true } else y }

/-- R93: the Infuser's event of a timer: the swaps that wait for it. -/
def State.swapTimer (s : State) (n : Nat) : State :=
  (List.range 8).foldl (fun s i => ((s.infSet i).swaps.filter fun w => w.timer == n && !w.due).foldl (fun s w => s.swapFired i w) s) s

/-- R385: at the end of the tick the swaps that found no READY region end with REMOTE_TIMEOUT. -/
def State.endSwaps (s : State) : State :=
  (List.range 8).foldl (fun s i => ((s.infSet i).swaps.filter (·.due)).foldl (fun s w => s.swapTakeEffect i w) s) s

/-! ## Sequences, R386 -/

/-- The INT32 words of slot 0. -/
def State.seqWords (s : State) (c : Cmd) : List Nat := (s.slotTensor c 0).words s.mem

/-- The checks of SEQ_BEGIN, in order. -/
def State.seqBeginChecks (s : State) (c : Cmd) : List Check :=
  let b := s.params c
  let i := leAt b 0 1
  let cfg := s.setCfg i
  let ws := s.seqWords c
  let ps := (List.range (ws.length / 2)).map fun k => (ws.getD (2 * k) 0, ws.getD (2 * k + 1) 0)
  let valid k := bitOf (s.mem.byte (cfg.seq k + 8)).toNat 0
  [zeroParams b (offsets 1 63), s.setCheck c i] ++ s.checkSlot c 0 [0xA] (fun t => t.size % 2 == 0) ++
    s.eccSlots c [0] [] ++
    [need (ps.all fun p => decide (p.2 < 2)) stStructure i,
     need (ps.all fun p => !(decide (p.1 < cfg.nseq) && valid p.1)) stStructure i,
     need (ps.all fun p => decide (p.1 < cfg.nseq)) stBounds 0]

/-- SEQ_BEGIN: pairs of sequence slot and policy. -/
def seqBegin (s : State) : State :=
  s.withHead 6 0x04 fun s c =>
    let b := s.params c
    let i := leAt b 0 1
    let cfg := s.setCfg i
    let ws := s.seqWords c
    let ps := (List.range (ws.length / 2)).map fun k => (ws.getD (2 * k) 0, ws.getD (2 * k + 1) 0)
    s.orFail c (s.seqBeginChecks c) fun s =>
      -- with no live region yet, REGION is left open
      let live := (s.infSet i).find .live
      let region := live.getD (Config.freeRegion i)
      let entry p := leBytes 8 (s.liveVer i) ++ leBytes 8 (1 + 2 * (p : Nat × Nat).2 + flagBit region 2)
      (s.storeAll (ps.map fun p => (cfg.seq p.1, entry p))).complete c stOk 0

def execSeqBegin (s : State) : Result := .next (seqBegin s)

/-- The checks of SEQ_END, in order. -/
def State.seqEndChecks (s : State) (c : Cmd) : List Check :=
  let b := s.params c
  let i := leAt b 0 1
  let cfg := s.setCfg i
  let ws := s.seqWords c
  [zeroParams b (offsets 1 63), s.setCheck c i] ++ s.checkSlot c 0 [0xA] (fun _ => true) ++ s.eccSlots c [0] [] ++
    [need (ws.all fun k => decide (k < cfg.nseq)) stBounds 0]

/-- SEQ_END: VALID is cleared; an OLD region nothing holds is released (R388). -/
def seqEnd (s : State) : State :=
  s.withHead 6 0x05 fun s c =>
    let b := s.params c
    let i := leAt b 0 1
    let cfg := s.setCfg i
    let ws := s.seqWords c
    s.orFail c (s.seqEndChecks c) fun s =>
      let clear (s : State) (k : Nat) : State :=
        s.store (cfg.seq k + 8) (leBytes 1 ((s.mem.byte (cfg.seq k + 8)).toNat / 2 * 2))
      ((ws.foldl clear s).releaseOld i).complete c stOk 0

def execSeqEnd (s : State) : Result := .next (seqEnd s)

/-- COOLING_END (R388). -/
def coolingEnd (i region : Nat) (s : State) : State :=
  let one := region == 1
  let x := s.infSet i
  if x.region one = .cooling && decide ((if one then x.coolAt1 else x.coolAt0) ≤ s.now) then
    s.modSet i fun x => x.setRegion one .free
  else s

def execCoolingEnd (set region : Nat) (s : State) : Result :=
  if set < 8 && region < 2 then .next (coolingEnd set region s) else noResource "infusion set" set

/-! ## A change by an apply, R389 -/

/-- R389: clears the set words and the sequence table. -/
def State.clearSet (s : State) (i : Nat) : State :=
  let c := s.setCfg i
  if c.en then s.zero c.words c.areaLen else s

/-- R389, INFUSION_SET_RESET: what an apply that changes a set's registers does, before the new registers hold: the set words and the
sequence table are cleared, here where they stood and after the change where they stand then. -/
def State.endSet (s : State) (i : Nat) : State :=
  let x := s.infSet i
  let s1 := match x.accept with | some a => s.complete a.cmd stKilled i | none => s
  let s2 := x.swaps.foldl (fun s w => State.complete { s with
    ht := { s.ht with timers := tmod {} s.ht.timers w.timer fun t => { t with arm := false } } } w.cmd stKilled i) s1
  (s2.clearSet i).modSet i fun _ => {}

end Sys2Proof.Machine
end

