-- ==== Sys2Proof/Machine/Kettle.lean ====
section
/-!
DEFINITION. Kettle (19_kettle_power.md R461 to R469): the envelope in force, ramps, the control step, overdraw and heat,
envelope messages, telemetry. Power is in µW (a sample is a product of 2 mV and 2 mA units).
-/

namespace Sys2Proof.Machine

/-! ## The envelope in force, R461 -/

/-- The blend's values. -/
def State.envBlend (s : State) : Envelope :=
  let e := s.st 0x030000
  { ceil1ms := field e 11 0, ceil1s := field e 23 12, floor := field e 35 24, slewUp := field e 47 36, slewDn := field e 59 48 }

/-- The values in force. -/
def State.envNow (s : State) : Envelope :=
  let b := s.envBlend
  match s.ktl.msgActive with
  | none => { b with floor := min b.floor b.ceil1s }
  | some m =>
    let c := min b.ceil1s m.ceil1s
    { ceil1ms := min b.ceil1ms m.ceil1ms, ceil1s := c, floor := min m.floor c, slewUp := min b.slewUp m.slewUp
      slewDn := min b.slewDn m.slewDn }

/-- Sets an event bit of KTL_EVT, also for the telemetry period: 0 OVERDRAW, 1 TRIP_KILL, 2 SLEW_EXCESS, 3 FLOOR_SHORT,
4 RAMP_SHORT, 5 ENV_MSG, 6 ENV_LATE, 7 ENV_REJECT, 8 THERM_WARN, 9 THERM_TRIP. -/
def State.ktlEvt (s : State) (b : Nat) : State :=
  { s with ktl := { s.ktl with evt := s.ktl.evt ||| BitVec.ofNat 16 (2 ^ b), evtPeriod := s.ktl.evtPeriod ||| BitVec.ofNat 16 (2 ^ b) } }

/-! ## Ramps, R465, R466 -/

/-- R465, R466: µW that a ramp has moved since its timer fired: what it had moved when its slew limit last changed, and then at its rate,
at most the slew limit of its direction. -/
def RampState.movedBy (r : RampState) (slew now : Nat) : Nat := r.moved + min r.entry.rate slew * 100 * (now - r.movedAt)

/-- The level of an UP ramp at a tick: 0 from UNTIL on. -/
def RampState.level (r : RampState) (slewUp now : Nat) : Nat :=
  if r.firedAt.isNone || r.levelOver || r.entry.until' ≤ now then 0 else min (r.entry.delta * 1000000) (r.movedBy slewUp now)

/-- The hold of a DOWN ramp at a tick. -/
def RampState.holdAt (r : RampState) (slewDn now : Nat) : Nat :=
  if r.levelOver then 0 else if r.firedAt.isNone then r.hold else r.hold - r.movedBy slewDn now

/-- The slew limit of a ramp's direction. -/
def State.rampSlew (s : State) (r : RampState) : Nat := if r.entry.kind = 0 then s.envNow.slewUp else s.envNow.slewDn

/-- The level or hold of a ramp. -/
def State.rampValue (s : State) (r : RampState) : Nat :=
  if r.entry.kind = 0 then r.level s.envNow.slewUp s.now else r.holdAt s.envNow.slewDn s.now

/-- Before the envelope in force changes: what each ramp has moved under the slew limits up to now. -/
def State.markRamps (s : State) : State :=
  { s with ktl := { s.ktl with ramps := s.ktl.ramps.map fun r =>
      if r.firedAt.isSome then { r with moved := r.movedBy (s.rampSlew r) s.now, movedAt := s.now } else r } }

/-- Rup: the sum of the UP levels. -/
def State.rampUp (s : State) : Nat := ((s.ktl.ramps.filter fun r => r.entry.kind == 0).map s.rampValue).sum

/-- Rdn: the largest DOWN hold. -/
def State.rampDown (s : State) : Nat := ((s.ktl.ramps.filter fun r => r.entry.kind != 0).map s.rampValue).foldl max 0

/-- Every level and hold goes to 0 (R466). -/
def State.rampsOver (s : State) : State :=
  { s with ktl := { s.ktl with ramps := s.ktl.ramps.map fun r => { r with levelOver := true } } }

/-- R93, R466: the ramp on a timer starts when the timer fires; a RATE of 0 is inert. -/
def State.rampFire (s : State) (n : Nat) : State :=
  { s with ktl := { s.ktl with ramps := s.ktl.ramps.map fun r =>
      if r.entry.timer = n && r.firedAt.isNone then { r with firedAt := some s.now, moved := 0, movedAt := s.now } else r } }

/-- RAMP_UNTIL (R466). -/
def rampUntil (n : Nat) (s : State) : State :=
  { s with ktl := { s.ktl with ramps := s.ktl.ramps.map fun r =>
      if r.entry.timer = n && r.entry.kind = 0 && r.entry.until' ≤ s.now then { r with levelOver := true } else r } }

def execRampUntil (timer : Nat) (s : State) : Result :=
  if timer < 16 then .next (rampUntil timer s) else noResource "hall timer" timer

/-! ## The control step, R464 -/

/-- The average of the newest `n` draws, in W. -/
def avgWatts (draws : List Nat) (n : Nat) : Nat :=
  let l := draws.take n
  if l.isEmpty then 0 else l.sum / l.length / 1000000

/-- R463: the arrays of enabled cores in which no MMA or MMA.SCREEN is in progress. -/
def State.freeArrays (s : State) : List Nat :=
  (List.range 256).filter fun k => s.coreEnabled k && (s.core k).started.all fun i => i.unit != 4

/-- Ballast available: 1.875 W a free array, none at WARN and above (R463, R468). -/
def State.ballastCap (s : State) : Nat := if s.ktl.therm = 0 then s.freeArrays.length * 1875000 else 0

/-- R464: the ballast applied since the last sample, as its mean. -/
def Kettle.applied (k : Kettle) (now : Nat) : Int :=
  if now ≤ k.sampledAt then k.ballast
  else (k.ballastNs + k.ballast * ((now - k.ballastMark : Nat) : Int)) / ((now - k.sampledAt : Nat) : Int)

/-- R464: the sample's ballast, in the arrays that are free. -/
def State.sampleBallast (s : State) (b : Int) : State :=
  let on := if b = 0 then 0 else s.freeArrays.foldl (fun m k => m ||| BitVec.ofNat 256 (2 ^ k)) 0
  let s1 := s.ballastTo b on
  { s1 with ktl := { s1.ktl with ballastNs := 0, sampledAt := s.boot.sincePwrOk } }

/-- The results of one sample: S, B, whether W rose beyond the slew limit, and the event bit of a shortfall. -/
structure ControlOut where
  s : Int
  b : Int
  excess : Bool
  short : Option Nat
  deriving DecidableEq, Repr

/-- R464's arithmetic in µW: W, Sprev, FLOOR, SLEW_UP, SLEW_DN, LIM, Rup, Rdn, BCAP. -/
def controlStep (w sPrev floor slewUp slewDn lim rup rdn bcap : Int) : ControlOut :=
  let target := max (max floor (sPrev - slewDn)) (max (w + rup) rdn)
  let sNew := max w (min target (min (sPrev + slewUp) lim))
  let short := if bcap < sNew - w then
      (if target = floor then some 3 else if target = sPrev - slewDn then none else some 4) else none
  { s := sNew, b := min (sNew - w) bcap, excess := decide (sPrev + slewUp < w), short }

/-- An overdraw (R467): an average above its ceiling while no ballast runs. -/
def State.overdraw (s : State) (ballast : Int) (vin : Nat) : Bool :=
  let e := s.envNow
  ballast == 0 &&
  (decide (min (e.ceil1ms * 1000000) (90000 * vin) < (s.ktl.draws.take 1000).sum / max 1 (s.ktl.draws.take 1000).length) ||
   decide (e.ceil1s * 1000000 < s.ktl.draws.sum / max 1 s.ktl.draws.length))

/-- The alarm of R467 and R468; AUX is the sensor, or 0xFF. -/
def State.ktlAlarm (s : State) (aux : Nat) : State :=
  s.event 5 0x030 0x0042 aux (avgWatts s.ktl.draws 1000 + avgWatts s.ktl.draws 1000000 * 65536)

/-- KETTLE_CONTROL_STEP (R464, R467): a sample of P1, once per µs, in 2 mV and 2 mA units. -/
def kettleControlStep (vin iin : Nat) (s : State) : State :=
  if s.pwr.pwrOk && s.ktl.stepAt != some (s.boot.sincePwrOk / 1000) then
    let e := s.envNow
    let p := 4 * vin * iin
    let cap := s.ballastCap
    let lim := min (min (e.ceil1ms * 1000000) (e.ceil1s * 1000000)) (90000 * vin)
    let o := controlStep (p - s.ktl.applied s.boot.sincePwrOk) s.ktl.sPrev (e.floor * 1000000) (e.slewUp * 100000) (e.slewDn * 100000) lim
      s.rampUp s.rampDown cap
    let s0 := s.sampleBallast o.b
    let s1 := { s0 with ktl := { s0.ktl with
      stepAt := some (s.boot.sincePwrOk / 1000), vin := BitVec.ofNat 16 vin, iin := BitVec.ofNat 16 iin, sampleTick := s.now
      draws := (p :: s.ktl.draws).take 1000000, sPrev := o.s, bcap := cap, energy := s.ktl.energy + p
      ballastSum := s.ktl.ballastSum + o.b.toNat, ballastCount := s.ktl.ballastCount + 1, vinLow := min s.ktl.vinLow vin
      cntSlew := if o.excess then s.ktl.cntSlew + 1 else s.ktl.cntSlew } }
    let s2 := if o.excess then s1.ktlEvt 2 else s1
    let s3 := match o.short with | some b => if s.ktl.therm != 0 && b = 3 then s2 else s2.ktlEvt b | none => s2
    if s3.overdraw o.b vin then
      if s.ktl.overdrawSince.isSome then s3
      else
        let s4 := s3.ballastTo 0 0
        (State.ktlAlarm { s4 with ktl := { s4.ktl with overdrawSince := some s.boot.sincePwrOk } } 0xFF).ktlEvt 0
    else { s3 with ktl := { s3.ktl with overdrawSince := none } }
  else s

def execKettleControlStep (vin iin : Nat) (s : State) : Result := .next (kettleControlStep vin iin s)

/-! ## Overdraw and heat, R467, R468 -/

/-- Every job on the device is killed; ramps and holds go to 0. -/
def State.killAll (s : State) : State := ((List.range 8).foldl (fun s j => if s.hasJob j then s.killJob j else s) s).rampsOver

/-- OVERDRAW_KILL (R467): the overdraw still holds 1 ms after its first sample. -/
def overdrawKill (s : State) : State :=
  match s.ktl.overdrawSince with
  | some t =>
    if t + 1000000 ≤ s.boot.sincePwrOk then
      let s1 := (s.killAll.ktlAlarm 0xFF).ktlEvt 1
      { s1 with ktl := { s1.ktl with cntKill := s1.ktl.cntKill + 1, overdrawSince := none } }
    else s
  | none => s

def execOverdrawKill (s : State) : Result := .next (overdrawKill s)

/-- Table 19-4: WARN, TRIP and SHUTDOWN of a sensor, in 1/16 °C; 0x7FFF none. -/
def sensorLimits (n : Nat) : Nat × Nat × Nat :=
  if n < 8 then (95 * 16, 105 * 16, 115 * 16)
  else match n with
    | 8 => (90 * 16, 100 * 16, 105 * 16)
    | 9 => (41 * 16, 45 * 16, 0x7FFF)
    | _ => (60 * 16, 68 * 16, 0x7FFF)

/-- The last reading of a sensor. -/
def State.temp (s : State) (n : Nat) : BitVec 16 := tget 0 s.ktl.temps n

/-- The first sensor that reads at or above a level. -/
def State.hot (s : State) (level : Nat × Nat × Nat → Nat) : Option Nat :=
  (List.range 11).find? fun n => level (sensorLimits n) != 0x7FFF && decide ((level (sensorLimits n) : Int) ≤ (s.temp n).toInt)

/-- Every sensor reads at least a margin below its WARN. -/
def State.coolBy (s : State) (margin : Nat) : Bool :=
  (List.range 11).all fun n => decide ((s.temp n).toInt + margin ≤ ((sensorLimits n).1 : Int))

/-- R468: what the readings do; of two levels crossed the higher acts. -/
def State.heat (s : State) : State :=
  match s.hot (·.2.2), s.hot (·.2.1), s.hot (·.1) with
  | some n, _, _ =>
    let s1 := s.ktlAlarm n
    { s1 with pwr := { s1.pwr with internalEnable := false } }
  | none, some n, _ =>
    if s.ktl.therm = 2 then { s with ktl := { s.ktl with belowSince := none } }
    else
      let s1 := (s.killAll.ktlAlarm n).ktlEvt 9
      { s1 with ktl := { s1.ktl with therm := 2, belowSince := none, bcap := 0 } }
  | none, none, some n =>
    if s.ktl.therm = 0 then
      let s1 := (s.ktlAlarm n).ktlEvt 8
      { s1 with ktl := { s1.ktl with therm := 1, bcap := 0 } }
    else { s with ktl := { s.ktl with belowSince := none } }
  | none, none, none =>
    if s.ktl.therm = 2 then
      { s with ktl := { s.ktl with belowSince := some (s.ktl.belowSince.getD s.boot.sincePwrOk) } }
    else if s.ktl.therm = 1 && s.coolBy 48 then { s with ktl := { s.ktl with therm := 0 } }
    else s

/-- THERMAL_SAMPLE (R468): the eleven readings of every 100 µs; a reading not given stays. -/
def thermalSample (readings : List (BitVec 16)) (s : State) : State :=
  if s.pwr.pwrOk && s.ktl.heatAt != some (s.boot.sincePwrOk / 100000) then
    State.heat { s with ktl := { s.ktl with
      heatAt := some (s.boot.sincePwrOk / 100000)
      temps := (List.range (min readings.length 11)).foldl (fun t n => tset 0 t n (readings.getD n 0)) s.ktl.temps } }
  else s

def execThermalSample (readings : List (BitVec 16)) (s : State) : Result := .next (thermalSample readings s)

/-- THERMAL_TRIP_CLEAR (R468): every sensor has read below its WARN for 1 s; WARN goes on until each is 3 °C below. -/
def thermalTripClear (s : State) : State :=
  match s.ktl.belowSince with
  | some t =>
    if s.ktl.therm = 2 && t + 1000000000 ≤ s.boot.sincePwrOk then
      { s with ktl := { s.ktl with therm := if s.coolBy 48 then 0 else 1, belowSince := none } }
    else s
  | none => s

def execThermalTripClear (s : State) : Result := .next (thermalTripClear s)

/-! ## Envelope messages, R462 -/

/-- SEQ is ahead of the last accepted one. -/
def State.seqAhead (s : State) (q : BitVec 32) : Bool :=
  !s.ktl.msgAny || (let d := (q - s.ktl.msgSeq).toNat; 1 ≤ d && decide (d < 2 ^ 31))

/-- Table 19-2: an envelope message from the payload of a CONTROL flit. -/
def parseEnvelope (b : List Byte) : Option EnvMsg :=
  if leAt b 0 1 = 0x21 && leAt b 1 3 = 0 && (b.drop 34).all (· == 0) then
    some { seq := BitVec.ofNat 32 (leAt b 4 4), at' := leAt b 8 8, expiry := leAt b 16 8, ceil1ms := leAt b 24 2, ceil1s := leAt b 26 2
           floor := leAt b 28 2, slewUp := leAt b 30 2, slewDn := leAt b 32 2 }
  else none

/-- An envelope message accepted for its instant, or rejected. -/
def State.takeEnvelope (s : State) (src : BitVec 16) (m : EnvMsg) : State :=
  if src != 0xFFFF && src.toNat = field (s.st 0x030018) 15 0 && s.seqAhead m.seq then
    let at0 := roundUp m.at' frameLen
    let late := decide (at0 < s.now)
    let at1 := if late then (s.now / frameLen + 1) * frameLen else at0
    let s1 := { s with ktl := { s.ktl with msgSeq := m.seq, msgAny := true, msgQueue := s.ktl.msgQueue ++ [{ m with at' := at1 }] } }
    if late then s1.ktlEvt 6 else s1
  else s.ktlEvt 7

/-- ENVELOPE_MESSAGE: the payload of a CONTROL flit with MSG 0x21 from a source; one that is not laid out as Table 19-2 is discarded
(DEDUCED, notes/assumptions/34.md). -/
def envelopeMessage (src : BitVec 16) (payload : List Byte) (s : State) : State :=
  (parseEnvelope payload).elim (s.ktlEvt 7) (s.takeEnvelope src)

def execEnvelopeMessage (src : BitVec 16) (payload : List Byte) (s : State) : Result := .next (envelopeMessage src payload s)

/-- ENVELOPE_IN_FORCE: the latest accepted message whose instant has come; those accepted before it never come into
force again. -/
def envelopeInForce (s : State) : State :=
  let due := (List.range s.ktl.msgQueue.length).filter fun i => decide ((s.ktl.msgQueue.getD i {}).at' ≤ s.now)
  match due.getLast? with
  | some i =>
    if s.counting then
      State.ktlEvt { s.markRamps with ktl := { s.markRamps.ktl with msgActive := s.ktl.msgQueue[i]?, msgQueue := s.ktl.msgQueue.drop (i + 1) } } 5
    else s
  | none => s

def execEnvelopeInForce (s : State) : Result := .next (envelopeInForce s)

/-- ENVELOPE_EXPIRY. -/
def envelopeExpiry (s : State) : State :=
  match s.ktl.msgActive with
  | some m => if m.expiry != 0 && m.expiry ≤ s.now then { s.markRamps with ktl := { s.markRamps.ktl with msgActive := none } } else s
  | none => s

def execEnvelopeExpiry (s : State) : Result := .next (envelopeExpiry s)

/-! ## Telemetry, R469 -/

/-- The report of Table 19-5. -/
def State.telemetry (s : State) : List Byte :=
  leBytes 1 0x4B ++ zeros 7 ++ leBytes 8 (s.now / frameLen) ++ leBytes 2 (avgWatts s.ktl.draws 1000) ++
  leBytes 2 (avgWatts s.ktl.draws 1000000) ++ leBytes 2 (s.ktl.ballastSum / max 1 s.ktl.ballastCount / 1000000) ++
  leBytes 2 (s.ktl.vinLow / 5) ++ leBytes 8 (s.ktl.energy / 1000000000) ++
  (List.range 11).flatMap (fun n => leBytes 2 (s.temp n).toNat) ++ leBytes 2 s.ktl.evtPeriod.toNat

/-- A VC holds a credit for the first hop to a device. -/
def State.creditTo (s : State) (dst vc : Nat) : Bool :=
  ((s.chooseRoute dst vc 0).bind s.firstHop).any fun h => decide (0 < (s.port h.phys).credit vc)

/-- KETTLE_TELEMETRY: at the end of every TEL_PERIOD frames. -/
def kettleTelemetry (s : State) : State :=
  let per := field (s.st 0x030018) 31 16
  let fm := field (s.st 0x2F0010) 15 0
  if per != 0 && s.counting && s.now % (per * frameLen) = 0 && s.ktl.telAt != some s.now then
    let s1 := if s.creditTo fm 6 then (s.inject 6 0x18 fm 0 s.telemetry).getD s
      else { s with ktl := { s.ktl with cntTelDrop := s.ktl.cntTelDrop + 1 } }
    { s1 with ktl := { s1.ktl with telAt := some s.now, evtPeriod := 0, ballastSum := 0, ballastCount := 0, vinLow := 0xFFFF } }
  else s

def execKettleTelemetry (s : State) : Result := .next (kettleTelemetry s)

end Sys2Proof.Machine
end

