-- ==== Sys2Proof/Machine/Timers.lean ====
section
/-!
DEFINITION. Hall timers (03_hall_time.md R92, R93): firing, and writes of CMP and CTL by a timer's owner.
-/

namespace Sys2Proof.Machine

def State.timer (s : State) (n : Nat) : HtTimer := tget {} s.ht.timers n
def State.modTimer (s : State) (n : Nat) (f : HtTimer → HtTimer) : State :=
  { s with ht := { s.ht with timers := tmod {} s.ht.timers n f } }

/-- The engine of an owner code of Table 3-3, for which the spec names a timer event and gives it no use. -/
def timerEngine (owner : Nat) : Option Nat := match owner with | 4 => some 3 | 5 => some 8 | 6 => some 9 | 7 => some 11 | _ => none

/-- R93: the event a firing delivers: a core's flag, Kettle's ramp, the Infuser's swaps, the event of another engine; host software
sees FIRED only. -/
def State.timerEvent (s : State) (n : Nat) (t : HtTimer) : State :=
  if 0x100 ≤ t.owner then s.modCore (t.owner - 0x100) fun c => c.setFlag t.flag.toNat s.now
  else match t.owner with
    | 0x002 => s.rampFire n
    | 0x003 => s.swapTimer n
    | o =>
      match timerEngine o with
      | some u => s.modEng u fun e => { e with timerEvents := e.timerEvents ||| BitVec.ofNat 16 (2 ^ n) }
      | none => s

/-- A timer after it fires. DESIGN CHOICE (notes/assumptions/19.md): the spec names no moment for a periodic timer whose next CMP still lies in
the past after it fired late; it fires again at once, with LATE, until its CMP has caught up. -/
def HtTimer.afterFire (t : HtTimer) (late : Bool) : HtTimer :=
  { t with fired := true, late := t.late || late, arm := t.periodic, cmp := if t.periodic then (t.cmp + t.period) % 2 ^ 64 else t.cmp }

/-- R93: an armed, owned timer fires in this tick: its CMP has come, or lies in the past and the next tick after that was found has
come. -/
def State.timerDue (s : State) (n : Nat) : Bool :=
  let t := s.timer n
  t.arm && t.owner != 0 && s.counting && (t.cmp == s.now || (decide (t.cmp < s.now) && decide (t.lateAt ≤ s.now)))

/-- HALL_TIMER_FIRE: LATE where CMP lies in an earlier tick; timers of one tick fire in ascending number, and after a blend whose T has
come (R114). -/
def hallTimerFire (n : Nat) (s : State) : State :=
  let t := s.timer n
  if s.timerDue n && (List.range n).all (fun m => !s.timerDue m) && !(s.bld.state == .armed && decide (s.bld.armedT ≤ s.now)) then
    (s.modTimer n fun x => x.afterFire (decide (t.cmp < s.now))).timerEvent n t
  else s

def execHallTimerFire (timer : Nat) (s : State) : Result :=
  if timer < 16 then .next (hallTimerFire timer s) else noResource "hall timer" timer

/-- Aperture offsets of CMP and CTL. -/
def tmrCmpOff (n : Nat) : Nat := 0x020200 + 0x10 * n
def tmrCtlOff (n : Nat) : Nat := 0x020208 + 0x10 * n

/-- R92: the requester owns the timer. -/
def State.ownsTimer (s : State) (requester n : Nat) : Bool := requester != 0 && (s.timer n).owner == requester

/-- HT_TMR_CMP_WRITE. -/
def htTmrCmpWrite (requester n : Nat) (half : Half) (value : BitVec 64) (s : State) : State :=
  if s.ownsTimer requester n then
    s.modTimer n fun t => { t with cmp := mergeWrite half (2 ^ 64 - 1) t.cmp value.toNat, lateAt := s.now + 1 }
  else s.writeIgnored (tmrCmpOff n)

def execHtTmrCmpWrite (requester timer : Nat) (half : Half) (value : BitVec 64) (s : State) : Result :=
  if timer < 16 then .next (served half (htTmrCmpWrite requester timer half value) s) else noResource "hall timer" timer

/-- HT_TMR_CTL_n as read. -/
def HtTimer.ctl (t : HtTimer) : Nat :=
  flagBit t.arm 0 ||| flagBit t.periodic 1 ||| flagBit t.fired 2 ||| flagBit t.late 3 ||| place 9 4 t.flag.toNat |||
  place 47 16 t.period ||| place 59 48 t.owner

/-- The RW fields of CTL: ARM, PERIODIC, FLAG, PERIOD. -/
def ctlRw : Nat := 3 + (2 ^ 10 - 2 ^ 4) + (2 ^ 48 - 2 ^ 16)

/-- CTL after a write: RW fields take their bits, FIRED and LATE clear where 1 is written. -/
def HtTimer.writeCtl (t : HtTimer) (half : Half) (value : BitVec 64) : HtTimer :=
  let w := clearBits half 12 (mergeWrite half ctlRw t.ctl value.toNat) value.toNat
  { t with arm := bitOf w 0, periodic := bitOf w 1, fired := bitOf w 2, late := bitOf w 3, flag := BitVec.ofNat 6 (field w 9 4)
           period := field w 47 16 }

/-- HT_TMR_CTL_WRITE: ignored as a whole where PERIODIC would stand with PERIOD below 5. -/
def htTmrCtlWrite (requester n : Nat) (half : Half) (value : BitVec 64) (s : State) : State :=
  let t := (s.timer n).writeCtl half value
  if s.ownsTimer requester n && !(t.periodic && decide (t.period < 5)) then
    s.modTimer n fun x => { t with lateAt := if x.arm then x.lateAt else s.now + 1 }
  else s.writeIgnored (tmrCtlOff n)

def execHtTmrCtlWrite (requester timer : Nat) (half : Half) (value : BitVec 64) (s : State) : Result :=
  if timer < 16 then .next (served half (htTmrCtlWrite requester timer half value) s) else noResource "hall timer" timer

end Sys2Proof.Machine
end

