-- ==== Sys2Proof/Machine/Apply.lean ====
section
/-!
DEFINITION. The apply instant (04_blend.md R100, R107, R112, R114, R115; R69, R150, R276, R328, R339, R348, R349, R389, R423,
R425, R462, R465, R466) and the rollback of a failed start (R330): what a change of the blend in force does to the rest of
the device.
-/

namespace Sys2Proof.Machine

/-! ## Timers and ramps, R114, R465, R466 -/

/-- The owner a blend gives a timer: its TMR claim, or Kettle for a ramp. -/
def Blend.timerOwner (b : Blend) (n : Nat) : Nat :=
  match b.timers.find? fun t => t.timer == n with
  | some t => t.owner
  | none => if b.ramps.any fun r => r.timer == n then 0x002 else 0

/-- R114: OWNER is written; a timer whose owner changes is disarmed and its FIRED and LATE bits are cleared. -/
def State.settleTimers (s : State) : State :=
  (List.range 16).foldl (fun s n =>
    let o := s.bld.cur.timerOwner n
    if (s.timer n).owner = o then s else s.modTimer n fun t => { t with owner := o, arm := false, fired := false, late := false }) s

/-- R465: an entry that was not in force before. -/
def newRamp (old : Blend) (e : RampEntry) : Bool := !old.ramps.contains e

/-- R465, R466: the state of a ramp entry after the apply. S of the last control step is the hold of a DOWN entry whose job the apply names
in teardown; one whose job is not in teardown, or with RATE 0, holds nothing. A timer that fired before lets the hold fall from the apply
on (DEDUCED, notes/assumptions/34.md). -/
def State.rampAfter (s : State) (old : Blend) (e : RampEntry) : RampState :=
  let kept := (s.ktl.ramps.find? fun r => r.entry == e).getD { entry := e }
  let r : RampState := if newRamp old e then { entry := e } else kept
  let j := s.bld.cur.jobAt e.job
  let o := old.jobAt e.job
  if e.kind = 0 then r
  else if e.rate = 0 || !j.teardown then { r with hold := 0 }
  else if newRamp old e || !o.teardown || o.jobId != j.jobId then
    { r with hold := s.ktl.sPrev.toNat, levelOver := false, moved := 0, movedAt := s.now }
  else r

/-- Kettle's ramps after the apply: a new entry's timer takes CMP = AT and is armed. -/
def State.settleRamps (s : State) (old : Blend) : State :=
  let es := s.bld.cur.ramps
  let s1 := { s with ktl := { s.ktl with ramps := es.map (s.rampAfter old) } }
  (es.filter (newRamp old)).foldl (fun s e => s.modTimer e.timer fun t => { t with cmp := e.at', arm := true, periodic := false, lateAt := s.now + 1 }) s1

/-- R462: a change of ENV_SRC lets the first message after it in. -/
def State.settleEnvelope (s : State) (old : Blend) : State :=
  if field (old.stv 0x030018) 15 0 = field (s.st 0x030018) 15 0 then s else { s with ktl := { s.ktl with msgAny := false } }

/-! ## The clock root and T1, R114 -/

/-- R35: the function of T1-002. DESIGN CHOICE (notes/assumptions/9.md): a PIN claim's function code 1 is the epoch marker and 2 the
trace clock; the spec gives no codes. -/
def Blend.auxFunction (b : Blend) : AuxFunction :=
  match (b.pins.find? fun p => p.contact == 2).map (·.function) with
  | some 1 => .epochMarker
  | some 2 => .traceClock
  | _ => .none

/-- Root source and T1-002; a change of source ends a holdover of the former one. -/
def State.settleClock (s : State) : State :=
  let src := s.bld.cur.rootSource
  { s with clk := { s.clk with source := src, holdover := s.clk.holdover && src == s.clk.source, aux := s.bld.cur.auxFunction } }

/-! ## Cores, R150, R425 -/

/-- The job ID a blend gives a core. -/
def Blend.coreJobId (b : Blend) (k : Nat) : Nat := (b.jobAt (b.cores.getD k 0xFF)).jobId

/-- R425: the core is zeroed: scrub mode 2, or 1 with a tenant other than the one it last served, if any (the chapter's example). -/
def State.scrubsCore (s : State) (tenant : Nat) (c : Core) : Bool :=
  match field s.wdn.policy.toNat 2 1 with
  | 2 => true
  | 1 => c.tenant != some tenant
  | _ => false

/-- One core at an apply. -/
def State.settleCore (s : State) (old : Blend) (k : Nat) : State :=
  let id := s.bld.cur.coreJobId k
  let tenant := (s.bld.cur.jobAt (s.bld.cur.cores.getD k 0xFF)).tenant
  if id = 0 then s.modCore k fun c => { c with mode := 0 }
  else if id = old.coreJobId k then s
  else s.modCore k fun c => { c with mode := 1, tenant := some tenant, scrubbing := c.scrubbing || s.scrubsCore tenant c }

/-! ## Jobs, R114, R423 -/

/-- What a slot's former job leaves behind in the engines. -/
def State.clearSlot (s : State) (j : Nat) : State :=
  let s1 := (List.range 16).foldl (fun s c => if (s.spCtx c).job = j then s.modSpCtx c fun _ => {} else s) s
  { s1 with
    jobs := tset {} s1.jobs j {}
    spt := { s1.spt with lastEnd := tset 0 s1.spt.lastEnd j 0 }
    col := { s1.col with lastEnd := tset 0 s1.col.lastEnd j 0 } }

/-- One job slot at an apply at tick t: a job that becomes running has t as its start instant; a job first named in
teardown is killed and drains. -/
def State.settleJob (s : State) (old : Blend) (t j : Nat) : State :=
  let o := old.jobAt j
  let n := s.bld.cur.jobAt j
  if n.jobId = o.jobId then (if n.jobId != 0 && n.teardown && !o.teardown then s.beginTeardown j else s)
  else
    let s1 := s.clearSlot j
    if n.jobId = 0 then s1
    else if n.teardown then s1.beginTeardown j
    else s1.setSlot j fun x => { x with state := 1, startAt := t }

/-! ## Memory, R339, R348, R349 -/

/-- R348: a lent region that the apply removes is filled with zeros. -/
def State.settleLent (s : State) (old : Blend) : State :=
  (old.windows.filter fun w => w.kind == 4 && !s.bld.cur.windows.any fun x => x.kind == 4 && x.job == w.job && x.base == w.base && x.len == w.len).foldl
    (fun s w => s.addScrub w.base w.len none) s

/-- R339: the apply creates the KIND 3 window in a credit mode, or changes it from SERVICE to one. -/
def creditReset (old : Blend) (i : Nat) (w : Window) : Bool :=
  w.kind == 3 && w.mode != 1 &&
  match old.windows[i]? with
  | some o => !(o.kind == 3 && o.job == w.job && o.base == w.base && o.len == w.len) || o.mode == 1
  | none => true

/-- R339: credit words set. -/
def State.settleLanding (s : State) (old : Blend) : State :=
  let ws := s.bld.cur.windows
  ((List.range ws.length).filter fun i => creditReset old i (ws.getD i {})).foldl
    (fun s i => s.store (ws.getD i {}).base (leBytes 8 0xFFFF)) s

/-- R349: a pool defined or changed starts empty. -/
def State.settlePools (s : State) (old : Blend) : State :=
  (List.range 64).foldl (fun s p => if old.pool p = s.bld.cur.pool p then s else { s with pools := tset {} s.pools p {} }) s

/-- R198: the slots of a table's region, all empty. -/
def State.emptySlots (s : State) (u : UrnCfg) : State :=
  if u.en && u.slotBytes ≤ u.len then { s with mem := s.mem.overlay u.base (2 ^ u.b * u.slotBytes) 0 u.slotBytes } else s

/-- A table defined or changed starts empty. -/
def State.settleUrns (s : State) (old : Blend) : State :=
  (List.range 16).foldl (fun s t =>
    if old.urn t = s.bld.cur.urn t then s else (s.setUrn t {}).emptySlots (s.bld.cur.urn t)) s

/-- R389: infusion sets whose registers differ. -/
def setsChanged (a b : Blend) : List Nat :=
  (List.range 8).filter fun i => (List.range 4).any fun k => a.stv (0x140200 + 0x20 * i + 8 * k) != b.stv (0x140200 + 0x20 * i + 8 * k)

/-! ## Ports, R276 -/

/-- The lane map a hop table gives a physical port; the identity where no enabled entry names it. -/
def Blend.portLmap (b : Blend) (p : Nat) : BitVec 24 :=
  match b.hops.find? fun h => h.en && h.phys == p with
  | some h => h.lmap
  | none => BitVec.ofNat 24 ((List.range 8).foldl (fun v j => v + j * 2 ^ (3 * j)) 0)

/-- A port retrains from T: what it queues and keeps is discarded; FPT_EVT.RETRAIN is set. -/
def State.retrainPort (s : State) (p : Nat) : State :=
  ((s.dropQueued p).modPort p fun x => { (x.dropped 1 1) with evt := x.evt ||| 8 }).upstreamDown p

def State.settlePorts (s : State) (old : Blend) : State :=
  allPorts.foldl (fun s p =>
    if old.portLmap p != s.bld.cur.portLmap p && (s.portUp p || (s.port p).tstep != 0) then s.retrainPort p else s) s

/-! ## The whole change -/

/-- What the change from blend `old` to the one now in force does, at tick t. -/
def State.settleChange (s : State) (old : Blend) (t : Nat) : State :=
  let s1 := ((s.settleTimers.settleRamps old).settleEnvelope old).settleClock
  let s2 := (List.range 256).foldl (fun s k => s.settleCore old k) s1
  let s3 := (List.range 8).foldl (fun s j => s.settleJob old t j) s2
  let s4 := (((s3.settleLent old).settleLanding old).settlePools old).settleUrns old
  let s5 := (setsChanged old s.bld.cur).foldl State.clearSet s4
  s5.settlePorts old

/-- R69: the first blend completes bring-up. -/
def State.firstBlend (s : State) : State :=
  if s.bld.applied then s
  else State.stepEvent ((s.modBld fun b => { b with applied := true }).setStep 15).noWait 10 false

/-! ## BLEND_APPLY_AT_T -/

/-- R112: the checks at T: BASE, hall time, the hop-table hold, JOB. -/
def State.failAtT (s : State) : Option BldResult :=
  countFails (s.baseFails ++ (if s.hallOk then [] else [conflict 0x03 0 0]) ++
    (if s.hopHold s.bld.armedT then [conflict 0x0B 0x03 0] else []) ++ s.group5 s.candidate)

/-- The blend unit after the apply (R107, R113, R115). -/
def BlendUnit.afterApply (b : BlendUnit) (new : Blend) (flip : Bool) : BlendUnit :=
  { b with
    state := .empty, cur := new, currentId := b.stagedId, appliedAt := b.armedT, claimant := 0
    modified := b.dirty, signed := b.stagedSigned, measSt := b.writtenSt
    epoch := if flip then !b.epoch else b.epoch, flipAt := if flip then b.armedT else b.flipAt, flipped := b.flipped || flip
    stagedId := 0, baseId := 0, delta := false, image := [], staged := new, carried := [], stagedSt := new.st, writtenSt := []
    stagedSigned := false }

/-- R327, R328: the START that armed the stage completes, and its job is provisional. -/
def State.startApplied (s : State) (before : BlendUnit) : State :=
  match s.col.start with
  | none => s
  | some r =>
    if r.committed then
      let j := s.slotOf r.jobId
      let s1 := match j with | some j => s.setSlot j fun x => { x with provisional := true } | none => s
      (s1.modCol fun c => { c with
        start := none, ended := some r.seq, startState := 3, prior := some before.cur, rollbackStage := before, provJob := j
        rollbackAt := none, checkDone := false }).complete r.cmd stOk 0
    else s

/-- Every staged setting at once. -/
def State.applyStage (s : State) : State :=
  let before := s.bld
  let new := s.candidate
  let s1 := (setsChanged before.cur new).foldl State.endSet s.markRamps
  let s2 := s1.modBld fun b => b.afterApply new s.hopChanges
  ((s2.settleChange before.cur before.armedT).firstBlend).startApplied before

/-- A refusal at T; a START that armed the stage ends with BLEND_CONFLICT. -/
def State.refusedAtT (s : State) (r : BldResult) : State :=
  let s1 := (s.modBld fun b => { b with state := .checked }).refuse r
  match s1.col.start with
  | some x => if x.committed then s1.startFail x stBlendConflict else s1
  | none => s1

def blendApplyAtT (s : State) : State :=
  if s.bld.state = .armed && s.bld.armedT ≤ s.now then
    match s.failAtT with
    | some r => s.refusedAtT r
    | none => s.applyStage
  else s

def execBlendApplyAtT (s : State) : Result := .next (blendApplyAtT s)

/-! ## START_ROLLBACK, R330 -/

/-- R330 1: every command of the job ends with KILLED; held remote writes are discarded. -/
def State.killStarted (s : State) (j : Nat) : State :=
  let s1 := s.killJob j
  ((s1.live.filter fun l => l.cmd.job == j).map (·.cmd)).foldl State.killOne s1

/-- R330 3: the windows the start blend gave the job. -/
def State.scrubStarted (s : State) (j : Nat) : State :=
  (s.jobWindows j).foldl (fun s w => if w.base < ssramBase then s.addScrub w.base w.len none else s.zero w.base w.len) s

/-- R330 2, 4: the blend unit with the prior blend in force and the stage CHECKED, holding the start's blend. -/
def BlendUnit.rolledBack (b before : BlendUnit) (now : Nat) : BlendUnit :=
  let flip := b.epoch != before.epoch
  { before with state := .checked, flipAt := if flip then now else before.flipAt, flipped := b.flipped, result := b.result }

def startRollback (s : State) : State :=
  match s.col.rollbackAt, s.col.prior with
  | some t, some prior =>
    if t ≤ s.now then
      let before := { s.col.rollbackStage with cur := prior }
      let started := s.bld.cur
      let s1 := match s.col.provJob with | some j => (s.markRamps.killStarted j).scrubStarted j | none => s.markRamps
      let s2 := (setsChanged started before.cur).foldl State.endSet s1
      let s3 := (s2.modBld fun b => b.rolledBack before s.now).settleChange started s.now
      (s3.modEng 8 fun e => { e with evt := e.evt ||| 8 }).modCol fun c =>
        { c with startState := 5, cntRollback := c.cntRollback + 1, rollbackAt := none, prior := none, provJob := none, rollbackStage := {} }
    else s
  | _, _ => s

def execStartRollback (s : State) : Result := .next (startRollback s)

end Sys2Proof.Machine
end

