-- ==== Sys2Proof/Machine/Boot.lean ====
section
/-!
DEFINITION. Bring-up, steps 3 to 8 (02_bring_up.md R46 to R65; R452 and R479 inside step 4).
-/

namespace Sys2Proof.Machine

/-! ## Step 3 -/

/-- R447: a bad certificate store. -/
def State.certCheck (s : State) (subjectOk crcOk : Bool) : State :=
  if subjectOk && crcOk then s
  else State.event { s with wdn := { s.wdn with certBad := true } } 4 0x040 0x0012 (if subjectOk then 1 else 0) 0

/-- WARDEN_SELF_TEST_DONE (R48, R445). -/
def wardenSelfTestDone (pass subjectOk storeCrcOk : Bool) (s : State) : State :=
  if s.pwr.pwrOk && s.boot.step = 3 && !s.boot.hold then
    if pass then
      let w := s.wdn.derived
      let s2 := { s with wdn := { w with
        devFprValid := true, nonceCount := w.nonceCount + 1, nonce := Config.nonce w.nonceCount } }
      ((s2.certCheck subjectOk storeCrcOk).beginStep 4).stepEvent 3 false
    else s.holdAt 3 0x02 0
  else s

def execWardenSelfTestDone (pass subjectOk storeCrcOk : Bool) (s : State) : Result :=
  .next (wardenSelfTestDone pass subjectOk storeCrcOk s)

/-! ## Step 4: the repair map -/

/-- R49: sequence number and body of a copy that passes its checks. -/
def mapCopy (b : List Byte) : Option (Nat × List Byte) :=
  let n := leAt b 0x10 4
  if slice b 0 8 == ascii "AZB7RMAP" && leAt b 8 4 == 1 && (slice b 0x14 40).all (· == 0) && decide (n ≤ 0x40000) &&
      decide (64 + n ≤ b.length) && leAt b 0x3C 4 == crc32c (slice b 0 0x3C ++ slice b 64 n) then
    some (leAt b 0x0C 4, slice b 64 n)
  else none

/-- The bytes of a repair-map copy (R49). -/
def mapBytes (seq : Nat) (body : List Byte) : List Byte :=
  let h := ascii "AZB7RMAP" ++ leBytes 4 1 ++ leBytes 4 seq ++ leBytes 4 body.length ++ zeros 40
  h ++ leBytes 4 (crc32c (h ++ body)) ++ body

/-- Table 2-3: the map taken. -/
def voteMap (cs : List (Option (Nat × List Byte))) : Option (Nat × List Byte) :=
  match cs.filterMap id with
  | [a, b, c] => if a == b || a == c then some a else if b == c then some b else none
  | [a, b] =>
    if a == b then some a
    else if a.1 + 1 == b.1 then some a
    else if b.1 + 1 == a.1 then some b
    else none
  | _ => none

/-- R50, R51: copies that differ from the map taken. -/
def differing (cs : List (Option (Nat × List Byte))) (m : Nat × List Byte) : List Nat :=
  (List.range 3).filter fun i => cs.getD i none != some m

/-- R479: enabled cores of a physical row of which `n` are usable; `least` is the fewest in any row. -/
def enabledInRow (fused least n : Nat) : Nat := if 8 ≤ least && fused != 3 then 8 else min n 7

/-- R479: the grade reported. -/
def gradeReported (fused least : Nat) : Nat := if 8 ≤ least then fused else 3

/-- Usable cores of a physical row. -/
def usableIn (r : BitVec 9) : Nat := popCount 9 r.toNat

/-- R5, R8, R479: the enabled-core mask: logical x 0 up in every row. -/
def coreMaskOf (fused : Nat) (rows : List (BitVec 9)) : BitVec 256 :=
  let least := rows.foldl (fun m r => min m (usableIn r)) 9
  BitVec.ofNat 256 <| (List.range 32).foldl (fun w k =>
    w + (2 ^ enabledInRow fused least (usableIn (rows.getD k 0)) - 1) * 2 ^ (8 * k)) 0

/-- Spare cores in use: rows of 8 or more that skip an unusable column (Table 20-4). -/
def sparesUsed (rows : List (BitVec 9)) : Nat :=
  (rows.filter fun r => decide (8 ≤ usableIn r) && decide (usableIn (r &&& 0xFF) < 8)).length

/-- How often a number stands in a list, by number. -/
def tally (xs : List Nat) : Sparse Nat := xs.foldl (fun t x => tset 0 t x (tget 0 t x + 1)) []

/-- R53, R475: the spare rows and lanes that the map taken has in use. -/
def State.mapSpares (s : State) : State :=
  let rows := (s.recorded 2).map fun l => l * 64 / 0x200000
  let lanes := (s.recorded 3).map fun u => u / 8 / 3
  { s with log := { s.log with rowSpares := tally rows, spareRows := rows.length, laneSpares := tally lanes, spareLanes := lanes.length } }

/-- What a read of copy `i` of the repair map gives: what the block wrote there, or a copy that no longer passes its checks; a copy the
block has not written reads as it came. -/
def State.readCopy (s : State) (i : Nat) (read : List Byte) : List Byte :=
  match s.boot.repairCopies.lookup i with
  | some w => if (mapCopy read).isNone then read else w
  | none => read

/-- R53, R479: grade, cores and feature registers. -/
def State.setGrade (s : State) (rows : List (BitVec 9)) : State :=
  let least := rows.foldl (fun m r => min m (usableIn r)) 9
  let below := decide (least < 7)
  let mask := coreMaskOf s.fuse.grade rows
  let s1 := { s with
    boot := { s.boot with
      featuresValid := true, grade := gradeReported s.fuse.grade least, belowGrade := below, coreMask := mask
      coreCount := popCount 256 mask.toNat, updatePresent := s.fuse.grade != 2, usable := rows }
    log := { s.log with spareCores := sparesUsed rows } }
  if below then
    State.event { s1 with log := { s1.log with evt := s1.log.evt ||| 0x80 } } 5 0x050 0x0032 0 s1.boot.repairSeq
  else s1

/-- A 384-byte owner record: sealed right and of this count (R452, R455). -/
def recordOk (key b : List Byte) (count : Nat) : Bool :=
  slice b 0 8 == ascii "AZB7OWNR" && leAt b 8 4 == 1 && leAt b 0x0C 4 == count &&
  slice b 0x140 64 == ownerSeal key (slice b 0 0x140)

/-- An owner record comes into force (R451, R452). -/
def Warden.useRecord (w : Warden) (b : List Byte) (count : Nat) : Warden :=
  { w with
    owned := true, ownerLost := false, policy := BitVec.ofNat 64 (leAt b 0x10 8), keyValid := BitVec.ofNat 4 (leAt b 0x18 4)
    ownerSeq := count, ownerKeys := (List.range 4).map fun k => slice b (0x40 + 64 * k) 64, record := padTo 384 b
    ownerFpr := fingerprint (slice b 0x40 57) }

/-- What a read of copy `i` of the owner record gives: what the block wrote there, or a copy that no longer passes its seal; a copy that
the block has not written reads as it came. -/
def State.readOwner (s : State) (i : Nat) (read : List Byte) : List Byte :=
  match s.wdn.copies.lookup i with
  | some w => if recordOk s.wdn.sealKey read s.fuse.ownerBits then w else read
  | none => read

/-- R452: the owner record of this bring-up, from the three copies read. DEDUCED (notes/assumptions/31.md): a device whose
copies OWNER_RELEASE erased at the present count is unowned (Table 18-6). -/
def State.selectOwner (s : State) (copies : List (List Byte)) : State :=
  let n := s.fuse.ownerBits
  if n = 0 || s.wdn.released = some n then { s with wdn := { s.wdn with owned := false, policy := 2, keyValid := 0, ownerFpr := 0, ownerSeq := n } }
  else
    match ((List.range 3).map fun i => s.readOwner i (copies.getD i [])).find? fun b => recordOk s.wdn.sealKey b n with
    | some b => { s with wdn := { (s.wdn.useRecord b n) with copies := (List.range 3).map fun k => (k, padTo 384 b) } }
    | none =>
      -- SIGNED_BLEND, SCRUB 2, UPGRADE_SIGNED
      { s with wdn := { s.wdn with owned := false, ownerLost := true, policy := 0x15, keyValid := 0, ownerFpr := 0, ownerSeq := n } }

/-- R55: step 5 begins: IMG_SRC is sampled; the mailbox waits for COMMIT. -/
def State.beginStep5 (s : State) : State :=
  if s.boot.imgSrc then
    let s1 := s.setStep 5
    State.waitFor { s1 with boot := { s1.boot with fromMailbox := true } } 0x10
  else
    let s1 := (s.beginStep 5).noWait
    { s1 with boot := { s1.boot with fromMailbox := false } }

/-- R53: Stack SRAM and every scratchpad are zeroed. -/
def State.zeroOnChip (s : State) : State := (s.zero ssramBase ssramSize).zero padBase (256 * padSize)

/-- R475, R479: a usable core passes BIST, has not been replaced by a spare, and has at most two failed columns in its array, those whose
spare the map records and those that BIST found. -/
def State.usableCore (s : State) (bist : List (BitVec 9)) (columns : List Nat) (c : Nat) : Bool :=
  (bist.getD (c / 9) 0).getLsbD (c % 9) && !(s.recorded 0).contains c &&
  decide (((s.recorded 1 ++ columns).filter (· == c)).length ≤ 2)

/-- The usable columns of each physical row. -/
def State.usableRows (s : State) (bist : List (BitVec 9)) (columns : List Nat) : List (BitVec 9) :=
  (List.range 32).map fun y => BitVec.ofNat 9 (((List.range 9).map fun x => flagBit (s.usableCore bist columns (9 * y + x)) x).sum)

/-- R475, R476: what BIST found at bring-up takes spares, for the next bring-up. -/
def State.bistSpares (s : State) (bist : List (BitVec 9)) (columns : List Nat) : State :=
  let failed := (List.range 288).filter fun c => !(bist.getD (c / 9) 0).getLsbD (c % 9) && !(s.recorded 0).contains c
  (columns.filter (· < 288)).foldl State.columnSpare (failed.foldl State.coreSpare s)

/-- REPAIR_MAP_VOTE (R50 to R53, R452, R475, R479): the copies as read, the columns of each physical row whose cores pass BIST, the physical
core of each array column that BIST finds failed, and the owner-record copies. DESIGN CHOICE (notes/assumptions/47.md): "the highest found"
of R52 counts the sequence numbers of copies that pass their checks, and is 0 when none passes. -/
def repairMapVote (copies : List (List Byte)) (bist : List (BitVec 9)) (columns : List Nat) (owners : List (List Byte)) (s : State) : State :=
  if s.boot.step = 4 && s.pwr.pwrOk && !s.boot.hold && !s.boot.rebuilding then
    let cs := (List.range 3).map fun i => mapCopy (s.readCopy i (copies.getD i []))
    let highest := (cs.filterMap id).foldl (fun m c => max m c.1) 0
    match voteMap cs with
    | none => State.holdAt { s with boot := { s.boot with repairHighest := highest } } 4 0x03 stRepairDisagree
    | some m =>
      let ds := differing cs m
      let aux := ds.foldl (fun w i => w + 2 ^ i) 0
      let s1 := { s.zeroOnChip with
        boot := { s.boot with
          repairSeq := m.1, repairBody := m.2, repairHighest := highest, repairNext := none, repairWrites := []
          repairSeqWritten := if ds.isEmpty then s.boot.repairSeqWritten else m.1
          repairCopies := (List.range 3).map fun i => (i, mapBytes m.1 m.2) } }
      let s2 := if ds.isEmpty then s1
        else State.event { s1 with log := { s1.log with evt := s1.log.evt ||| 0x40 } } 2 0x040 0x0011 aux m.1
      let s3 := (s2.mapSpares.setGrade (s2.usableRows bist columns)).selectOwner owners
      (s3.bistSpares bist columns).beginStep5.stepEvent 4 false
  else s

def execRepairMapVote (copies : List (List Byte)) (bist : List (BitVec 9)) (columns : List Nat) (owners : List (List Byte)) (s : State) : Result :=
  .next (repairMapVote copies bist columns owners s)

/-- REPAIR_REBUILD (R44, R52). -/
def repairRebuild (s : State) : State :=
  if s.boot.hold && s.boot.cause = 0x03 then
    { s with boot := { s.boot with rebuilding := true, hold := false, wait := false, cause := 0, status := 0
                                   attempt := satAdd 8 s.boot.attempt 1 } }
  else s

def execRepairRebuild (s : State) : Result := .next (repairRebuild s)

/-- REPAIR_REBUILD_DONE (R52): the new map, one above the highest sequence found, and a restart at step 3. -/
def repairRebuildDone (body : List Byte) (s : State) : State :=
  if s.boot.rebuilding then
    let q := s.boot.repairHighest + 1
    let s1 := { s with
      boot := { s.boot with repairCopies := (List.range 3).map fun i => (i, mapBytes q body), repairSeqWritten := q }
      log := { s.log with evt := s.log.evt ||| 0x40 } }
    s1.restartAt3
  else s

def execRepairRebuildDone (body : List Byte) (s : State) : Result := .next (repairRebuildDone body s)

/-! ## Step 5: the image -/

/-- R55, R56: the mailbox takes writes during the wait for COMMIT and the hold on a failed image. -/
def State.mboxOpen (s : State) : Bool :=
  s.boot.step == 5 && !s.boot.mboxBusy && ((s.boot.wait && s.boot.cause == 0x10) || (s.boot.hold && s.boot.cause == 0x04))

/-- BOOT_MBOX_LENGTH_WRITE (R55): a multiple of 8, at most 8 MiB; resets the data pointer. DESIGN CHOICE (notes/assumptions/47.md):
the spec does not say what a write of another LENGTH does; the model ignores it, with the old LENGTH and data pointer kept. -/
def bootMboxLengthWrite (len : BitVec 24) (s : State) : State :=
  if s.mboxOpen && len.toNat % 8 = 0 && len.toNat ≤ 0x800000 then
    { s with boot := { s.boot with mboxLen := len, mboxPtr := 0 } }
  else s

def execBootMboxLengthWrite (len : BitVec 24) (s : State) : Result := .next (bootMboxLengthWrite len s)

/-- Places bytes at an offset of a sparse byte string. -/
def putBytes (t : Sparse Byte) (i : Nat) (bs : List Byte) : Sparse Byte :=
  match bs with
  | [] => t
  | b :: r => putBytes (tset 0 t i b) (i + 1) r

/-- The first `n` bytes of a sparse byte string. -/
def getBytes (t : Sparse Byte) (i n : Nat) : List Byte := (List.range n).map fun k => tget 0 t (i + k)

/-- R55: where the image is staged in Stack SRAM: at its start (DESIGN CHOICE, notes/assumptions/47.md: the spec gives no place). -/
def stageBase : Nat := ssramBase

/-- The data-pointer rule of R55 and R430: offset and bytes a write places, and the pointer after it. -/
def mailboxWrite (ptr len : Nat) (half : Half) (data : BitVec 64) : Option (Nat × List Byte × Nat) :=
  let d := leBytes 8 data.toNat
  let (off, bs, next) := match half with
    | .whole => (ptr, d, ptr + 8)
    | .low => (ptr, d.take 4, ptr)
    | .high => (ptr + 4, d.drop 4, ptr + 8)
    | .other => (ptr, [], ptr)
  if off + bs.length ≤ len then some (off, bs, next) else none

/-- BOOT_MBOX_DATA_WRITE (R55). -/
def bootMboxDataWrite (half : Half) (data : BitVec 64) (s : State) : State :=
  if s.mboxOpen then
    match mailboxWrite s.boot.mboxPtr s.boot.mboxLen.toNat half data with
    | some (i, bs, p) => State.store { s with boot := { s.boot with mboxPtr := p } } (stageBase + i) bs
    | none => s
  else s

def execBootMboxDataWrite (half : Half) (data : BitVec 64) (s : State) : Result := .next (served half (bootMboxDataWrite half data) s)

/-- BOOT_MBOX_COMMIT (R55, R56): verification of LENGTH bytes starts. -/
def bootMboxCommit (s : State) : State :=
  if s.mboxOpen then
    State.noWait { s with boot := { s.boot with mboxBusy := true, fromMailbox := true, attempt := satAdd 8 s.boot.attempt 1 } }
  else s

def execBootMboxCommit (s : State) : Result := .next (bootMboxCommit s)

/-- R54, R449: the checks of an image, given which key slots accept its signature: the slot that verifies it. -/
def imageKey (s : State) (b : List Byte) (exactLen : Option Nat) (accepts : List Bool) : Option Nat :=
  let n := leAt b 0x10 8
  let ok := slice b 0 8 == ascii "AZB7FWIM" && leAt b 8 4 == 1 && (slice b 0x18 40).all (· == 0) &&
    (slice b 0xF2 14).all (· == 0) && decide (256 + n ≤ 0x800000) && decide (256 + n ≤ b.length) &&
    (match exactLen with | some l => l == 256 + n | none => true) &&
    decide (s.fuse.svnBits ≤ leAt b 0x0C 4) && digest512 (slice b 0x100 n) == slice b 0x40 64
  if ok then (List.range 4).find? fun k => !s.fuse.revoked.getLsbD k && accepts.getD k false else none

/-- R336, R460: a fresh GDDR7 key pair for the 96 controllers. -/
def Warden.drawKey (w : Warden) : Warden := { w with gddrKey := padTo 64 (Config.randomKey w.keyCount), keyCount := w.keyCount + 1 }

/-- R57: the Warden keeps the body digest and starts the firmware, which begins step 6; Tin's mount begins beside it. -/
def State.startFirmware (s : State) : State :=
  let s1 := ((s.beginStep 6).noWait).stepEvent 5 false
  { s1 with
    boot := { s1.boot with fwRunning := true, mboxBusy := false, imageWriting := false }
    wdn := { s1.wdn.drawKey with mode := 1 }
    tin := { s1.tin with state := 1 } }

/-- The image staged in the mailbox. -/
def State.mailboxImage (s : State) : List Byte := s.mem.bytes stageBase s.boot.mboxLen.toNat

/-- IMAGE_VERIFY_DONE (R54, R56, R57): `tinImage` is what the reserved area holds where the block has not written it. -/
def imageVerifyDone (tinImage : List Byte) (accepts : List Bool) (s : State) : State :=
  let fromTin := !s.boot.fromMailbox && !s.boot.mboxBusy
  if s.boot.step = 5 && s.pwr.pwrOk && !s.boot.hold && !s.boot.imageWriting && (s.boot.mboxBusy || fromTin) then
    let img := if fromTin then (if s.boot.reservedImage.isEmpty then tinImage else s.boot.reservedImage) else s.mailboxImage
    match imageKey s img (if fromTin then none else some s.boot.mboxLen.toNat) accepts with
    | some k =>
      let digest := slice img 0x40 64
      let svn := leAt img 0x0C 4
      let s1 := { s with
        boot := { s.boot with fwDigest := digest, imageSvn := svn, fwKeyUsed := k, mboxBusy := false }
        -- R445, R446: the alias key and its certificate
        wdn := { s.wdn with aliasKey := devAliasKey digest svn, aliasCert := some (issueAlias s.wdn.identityKey digest svn) } }
      if fromTin then s1.startFirmware else { s1 with boot := { s1.boot with imageWriting := true } }
    | none => State.holdAt { s with boot := { s.boot with mboxBusy := false } } 5 0x04 stImageVerify
  else s

def execImageVerifyDone (tinImage : List Byte) (accepts : List Bool) (s : State) : Result :=
  .next (imageVerifyDone tinImage accepts s)

/-- RESERVED_IMAGE_WRITE_DONE (R56). -/
def reservedImageWriteDone (s : State) : State :=
  if s.boot.step = 5 && s.boot.imageWriting then
    State.startFirmware { s with boot := { s.boot with reservedImage := s.mailboxImage } }
  else s

def execReservedImageWriteDone (s : State) : Result := .next (reservedImageWriteDone s)

/-! ## Step 6 -/

/-- GDDR_TRAINING_DONE (R58): a third failure holds; the channels that train beside it go on and set their own bits. -/
def gddrTrainingDone (c : Nat) (pass : Bool) (s : State) : State :=
  if s.boot.step = 6 && !s.boot.gddrTrained.getLsbD c && !s.boot.gddrFail.getLsbD c then
    let n := tget 0 s.boot.gddrAttempts c + 1
    let b := { s.boot with gddrAttempts := tset 0 s.boot.gddrAttempts c n }
    if pass then { s with boot := { b with gddrTrained := b.gddrTrained ||| BitVec.ofNat 96 (2 ^ c) } }
    else if n < 3 then { s with boot := { b with attempt := max b.attempt (n + 1) } }
    else
      let s1 := { s with boot := { b with gddrFail := b.gddrFail ||| BitVec.ofNat 96 (2 ^ c) } }
      if s.boot.hold then s1 else s1.holdAt 6 0x05 0
  else s

def execGddrTrainingDone (channel : Nat) (pass : Bool) (s : State) : Result :=
  if channel < 96 then .next (gddrTrainingDone channel pass s) else noResource "channel" channel

/-- GDDR_ZERO_FILL_DONE (R41, R59, R61, R267): step 6 completes, steps 7 and 8 begin together. -/
def gddrZeroFillDone (s : State) : State :=
  if s.boot.step = 6 && !s.boot.hold && s.boot.gddrTrained == BitVec.allOnes 96 then
    let s1 := s.zero 0 gddrSize
    let s2 := ((s1.beginStep 7).noWait).stepEvent 6 false
    (allPorts.foldl (fun t p => if t.portSeated p then t.trainPort p else t) s2).wait78
  else s

def execGddrZeroFillDone (s : State) : Result := .next (gddrZeroFillDone s)

/-- TIN_MOUNT_DONE (R60, R363): a mount without spare blocks is read-only. -/
def tinMountDone (ok : Bool) (capacity spare : Nat) (s : State) : State :=
  if s.tin.state = 1 then
    let s1 := if ok then { s with tin := { s.tin with state := if spare = 0 then 3 else 2, cap := capacity, spare } }
      else State.degrade { s with tin := { s.tin with state := 4 } } s.boot.step
    if s1.boot.step = 10 && s1.boot.cause = 0x15 then s1.waitFor 0x13 else s1
  else s

def execTinMountDone (ok : Bool) (capacity spare : Nat) (s : State) : Result := .next (tinMountDone ok capacity spare s)

/-! ## Step 7 -/

/-- R428: the identity of Function 0: one device ID for every grade, processing accelerator, the silicon stepping. -/
def functionId : FunctionId := { vendor := Config.vendorId, device := 0xA7B0, classCode := 0x120000, revision := Config.stepping }

/-- HOST_LINK_UP (R61, R426, R427): rate 1 below 32 GT/s, 2 at 32, 3 at 64; 32 and 64 GT/s run only as CXL. Function 0 reports its identity
over the link (R428). -/
def hostLinkUp (rate width : Nat) (cxl : Bool) (s : State) : State :=
  let legal := (rate = 1 && !cxl || (rate = 2 || rate = 3) && cxl) && [1, 2, 4, 8, 16].contains width
  if legal && (7 ≤ s.boot.step) && s.boot.hostRate = 0 && !s.pwr.perst then
    let s1 := State.emit { s with boot := { s.boot with hostRate := rate, hostWidth := width, hostCxl := cxl && 8 ≤ width } } (.function0 functionId)
    let s2 := if rate = 3 && width = 16 then s1 else s1.degrade 7
    if s.boot.step = 7 && !s.boot.step7Done then
      (State.stepEvent { s2 with boot := { s2.boot with step7Done := true } } 7 false).advance78
    else s2
  else s

def execHostLinkUp (rate width : Nat) (cxl : Bool) (s : State) : Result := .next (hostLinkUp rate width cxl s)

/-- HOST_LINK_ATTEMPT_TIMEOUT (R61): the fifth attempt without a link completes step 7 degraded. -/
def hostLinkAttemptTimeout (s : State) : State :=
  if s.boot.step = 7 && !s.boot.step7Done && s.boot.hostRate = 0 && !s.pwr.perst then
    let n := s.boot.hostAttempts + 1
    let s1 := { s with boot := { s.boot with hostAttempts := n } }
    if n < 5 then { s1 with boot := { s1.boot with attempt := n + 1 } }
    else
      let s2 := State.degrade { s1 with boot := { s1.boot with step7Done := true } } 7
      (s2.stepEvent 7 false).advance78
  else s

def execHostLinkAttemptTimeout (s : State) : Result := .next (hostLinkAttemptTimeout s)

end Sys2Proof.Machine
end

