-- ==== Sys2Proof/Machine/Ports.lean ====
section
/-!
DEFINITION. Ports: cages and cable power (R34, R267), the training steps of Table 10-4 (R64, R269, R270), lane
substitution (R478) and link keys (R272).
-/

namespace Sys2Proof.Machine

/-- The three ports of a cage (R33). -/
def cagePorts (c : Nat) : List Nat := [3 * c, 3 * c + 1, 3 * c + 2]

/-- A port that is up goes down under R285; one that is not takes the state given. -/
def State.loseCable (s : State) (p cond state : Nat) : State :=
  if s.portUp p then s.portDown p cond state 0 else s.modPort p fun x => x.dropped state 0

/-- CABLE_POWER_OVERLOAD (R34): more than 4.0 W for 1 ms. DESIGN CHOICE (notes/assumptions/47.md): the spec gives the one entry of the
cage no SOURCE and no cable class; the model takes the FPT page and the class of the cage's first port. -/
def cablePowerOverload (cage mw heldUs : Nat) (s : State) : State :=
  if tget false s.pwr.cablePwr cage && 4000 < mw && 1000 ≤ heldUs then
    let s1 := { s with pwr := { s.pwr with
      cablePwr := tset false s.pwr.cablePwr cage false, cableOff := tset false s.pwr.cableOff cage true } }
    let s2 := s1.event 2 (portSource (3 * cage)) 0x0043 (s.port (3 * cage)).cls 0
    ((cagePorts cage).foldl (fun t p => t.loseCable p 6 6) s2).advance78
  else s

def execCablePowerOverload (cage milliwatts heldUs : Nat) (s : State) : Result :=
  if cage < 4 then .next (cablePowerOverload cage milliwatts heldUs s) else noResource "cage" cage

/-- CAGE_PRESENCE_CHANGE (R34, R267, R285): a plug seated after step 8 began trains; a removed plug takes its ports down. DESIGN CHOICE
(notes/assumptions/10.md): the spec does not say whether R34's turn-off of CBL_PWR outlives an input shutdown, nor whether a reseating made
while the module is unpowered ends it; the model keeps the turn-off through power loss, and any change to seated ends it. -/
def cagePresenceChange (cage : Nat) (seated : Bool) (s : State) : State :=
  let s1 := { s with pwr := { s.pwr with
    seated := tset false s.pwr.seated cage seated
    cableOff := if seated then tset false s.pwr.cableOff cage false else s.pwr.cableOff
    memLogged := if seated then s.pwr.memLogged else tset false s.pwr.memLogged cage false
    cablePwr := tset false s.pwr.cablePwr cage false } }
  if seated then
    if 7 ≤ s.boot.step && !tget false s.pwr.seated cage then ((cagePorts cage).foldl (fun t p => t.trainPort p) s1).advance78 else s1
  else ((cagePorts cage).foldl (fun t p => (t.loseCable p 5 0).modPort p fun x => { x with authFails := 0 }) s1).advance78

def execCagePresenceChange (cage : Nat) (seated : Bool) (s : State) : Result :=
  if cage < 4 then .next (cagePresenceChange cage seated s) else noResource "cage" cage

/-- A port whose training step succeeds moves to the next. -/
def State.trainStep (s : State) (p step : Nat) (f : Port → Port) : State :=
  if (s.port p).state ≤ 2 && (s.port p).tstep = step && s.portSeated p then s.modPort p f else s

/-- A training failure: the state of Table 10-4. -/
def State.trainFail (s : State) (p state : Nat) : State :=
  (s.modPort p fun x => { x with state, tstep := 0 }).advance78

/-- A cable memory: class, power in 100 mW, and the two delays of a port slot (Table 10-3). -/
def parseCable (b : List Byte) (j : Nat) : Option (Nat × Nat × Nat × Nat) :=
  if slice b 0 2 == [0x43, 0x42] && leAt b 2 1 == 1 && leAt b 252 4 == crc32c (slice b 0 252) then
    some (leAt b 3 1, leAt b 6 1, leAt b (8 + 8 * j) 4, leAt b (12 + 8 * j) 4)
  else none

/-- The cable part of R78. -/
def State.cablePart (s : State) (p out inn : Nat) : State :=
  let known := out != 0 && inn != 0
  { s with ht := { s.ht with asym := tmod {} s.ht.asym p fun a =>
      { a with cable := if known then (out : Int) - inn else 0, cal := known } } }

/-- R267: the one entry of a cable whose memory cannot be read. -/
def State.memoryUnreadable (s : State) (p : Nat) : State :=
  if tget false s.pwr.memLogged (p / 3) then s
  else State.event { s with pwr := { s.pwr with memLogged := tset false s.pwr.memLogged (p / 3) true } } 2 (portSource p) 0x0043 1 0

/-- R267: a cable that gets no CBL_PWR: the three ports of its cage read 0x6. -/
def State.cableUnpowered (s : State) (cage : Nat) : State :=
  ((cagePorts cage).foldl (fun t q => t.loseCable q 6 6) s).advance78

/-- CABLE_MEMORY_READ (R267): step 1; an unreadable memory counts as class 1 without delay data; a declared power above 4.0 W leaves a
cable of any class without CBL_PWR. -/
def cableMemoryRead (p : Nat) (mem : Option (List Byte)) (s : State) : State :=
  if (s.port p).tstep = 1 && s.portSeated p then
    let cage := p / 3
    match mem.bind fun b => parseCable b (p % 3) with
    | none =>
      let s1 := s.modPort p fun x => { x with cls := 1, tstep := 2, evt := x.evt ||| 4, delayOut := 0, delayIn := 0 }
      (s1.memoryUnreadable p).cablePart p 0 0
    | some (cls, power, out, inn) =>
      let s1 := (s.modPort p fun x => { x with cls, delayOut := out, delayIn := inn }).cablePart p out inn
      if 40 < power || (cls = 2 && tget false s.pwr.cableOff cage) then s1.cableUnpowered cage
      else if cls = 1 then s1.modPort p fun x => { x with tstep := 2 }
      else if cls = 2 then
        { (s1.modPort p fun x => { x with tstep := 2 }) with pwr := { s1.pwr with cablePwr := tset false s1.pwr.cablePwr cage true } }
      else s1.trainFail p 4
  else s

def execCableMemoryRead (port : Nat) (mem : Option (List Byte)) (s : State) : Result :=
  if port < 12 then .next (cableMemoryRead port mem s) else noResource "port" port

/-- PMD_EQUALISATION_DONE (R269): step 2. -/
def execPmdEqualisationDone (port : Nat) (s : State) : Result :=
  if port < 12 then .next (s.trainStep port 2 fun x => { x with tstep := 3 }) else noResource "port" port

/-- FEC_LOCK_DONE (R269): step 3. -/
def execFecLockDone (port : Nat) (s : State) : Result :=
  if port < 12 then .next (s.trainStep port 3 fun x => { x with tstep := 4 }) else noResource "port" port

/-- What this end sends in step 4 (R269): its FAB_ID, its port, and the fused path latencies of R78. -/
def State.exchangeMsg (s : State) (p : Nat) : List Byte :=
  leBytes 2 s.fab.fabId.toNat ++ leBytes 1 p ++ leBytes 4 (tget 0 s.fuse.txLatency p) ++ leBytes 4 (tget 0 s.fuse.rxLatency p)

/-- R78: the device part of the asymmetry of a port: the fused delay from this device to its peer less that from the peer. -/
def State.devicePart (s : State) (p peerTx peerRx : Nat) : Int :=
  ((tget 0 s.fuse.txLatency p : Nat) + (peerRx : Int)) - (peerTx + (tget 0 s.fuse.rxLatency p : Nat))

/-- LINK_LAYER_EXCHANGE_DONE (R78, R269): step 4: the peer's ID, port and latencies, from which the device part of the asymmetry follows. -/
def linkLayerExchangeDone (p : Nat) (peerId : BitVec 16) (peerPort peerTx peerRx : Nat) (s : State) : State :=
  if (s.port p).state = 1 && (s.port p).tstep = 4 then
    let s1 := s.modPort p fun x => { x with
      state := 2, tstep := 5, peerId, peerPort, fusedDelay := tget 0 s.fuse.txLatency p + tget 0 s.fuse.rxLatency p + peerTx + peerRx }
    State.emit { s1 with ht := { s1.ht with asym := tmod {} s1.ht.asym p fun a => { a with device := s.devicePart p peerTx peerRx } } }
      (.train p (s.exchangeMsg p))
  else s

def execLinkLayerExchangeDone (port : Nat) (peerId : BitVec 16) (peerPort peerTx peerRx : Nat) (s : State) : Result :=
  if port < 12 then .next (linkLayerExchangeDone port peerId peerPort peerTx peerRx s) else noResource "port" port

/-- R64, R270: step 5 fails: state 0x5, AUTH_FAIL, one log entry for the failures of a port that follow each other. -/
def State.authFail (s : State) (p : Nat) : State :=
  let s1 := s.modPort p fun x => { x with state := 5, tstep := 0, evt := x.evt ||| 2, authFails := x.authFails + 1 }
  let e : LogEntry := { time := s.logTime, prelock := s.prelock, cls := 3, source := portSource p, event := 0x0044
                        detail := BitVec.ofNat 64 (s.port p).peerId.toNat }
  (if (s.port p).authFails = 0 then s1.offer e else { s1 with log := s1.log.addTo e }).advance78

/-- R270 to R272, R279: step 6: the port comes up with fresh keys and salts and its counters started. Which direction takes the first of
the two keys and salts the spec does not say: here the one from the lower FAB_ID and port (DESIGN CHOICE, notes/assumptions/49.md). -/
def Port.up (x : Port) (secret : List Byte) (first : Bool) (now : Nat) : Port :=
  let key (b : Bool) := slice secret (if b then 0 else 32) 32
  let salt (b : Bool) := slice secret (if b then 64 else 68) 4
  { (x.dropped 3 6) with
    keyed := true, authFails := 0, lastGood := now
    txSecret := key first, rxSecret := key (!first), txSalt := salt first, rxSalt := salt (!first)
    credits := [(0, 16), (2, 64), (3, 64), (4, 64), (5, 64), (6, 32), (7, 8)] }

/-- The end of a link with the lower FAB_ID, then the lower port. -/
def State.lowerEnd (s : State) (p : Nat) : Bool :=
  let x := s.port p
  decide (s.fab.fabId.toNat < x.peerId.toNat) || (s.fab.fabId == x.peerId && decide (p < x.peerPort))

/-- What a peer sends in step 5 of training (R270, R448): its certificate chain, its X448 public key and its OWNER_FPR, zero when unowned;
whether chain and signature verify is the verdict of the check. -/
def helloBytes (h : Hello) : List Byte := h.chain ++ padTo 56 h.key ++ leBytes 16 h.fpr.toNat

/-- What this end sends in step 5: its chain without an alias certificate (R448), the X448 public key of the n-th private key drawn, and
its OWNER_FPR. -/
def State.ownHello (s : State) (n : Nat) : Hello :=
  { chain := s.wdn.certs.flatten, key := Config.x448Public (Config.x448Private n), fpr := if s.wdn.owned then s.wdn.ownerFpr else 0 }

/-- R270: the SHA3-512 digest of the training transcript. DESIGN CHOICE (notes/assumptions/49.md): the transcript is what the ends send in
step 5, the lower end's first. -/
def State.transcript (s : State) (p n : Nat) (peer : Hello) : List Byte :=
  let own := helloBytes (s.ownHello n)
  sha3512 (if s.lowerEnd p then own ++ helloBytes peer else helloBytes peer ++ own)

/-- R270: what this end sends in step 5, with its signature under the identity key over the transcript digest. -/
def State.authMsg (s : State) (p n : Nat) (peer : Hello) : List Byte :=
  helloBytes (s.ownHello n) ++ Config.ed448Sign s.wdn.identityKey (s.transcript p n peer)

/-- R270: the first 72 bytes of SHAKE256 over the X448 shared secret and the transcript digest: keys and salts. -/
def State.linkKeyBytes (s : State) (p n : Nat) (peer : Hello) : List Byte :=
  shake256 72 (Config.x448 (Config.x448Private n) peer.key ++ s.transcript p n peer)

/-- R448: the owner rule on the peer. -/
def State.ownerOk (s : State) (peerFpr : BitVec 128) : Bool :=
  !s.wdn.policy.getLsbD 3 || (peerFpr != 0 && peerFpr == s.wdn.ownerFpr)

/-- R270: a check of this end accepts the peer. -/
def State.acceptsPeer (s : State) (chainOk : Bool) (peerFpr : BitVec 128) : Bool := chainOk && !s.wdn.certBad && s.ownerOk peerFpr

/-- MUTUAL_AUTHENTICATION_DONE (R65, R67, R269, R270, R447, R448): this end has sent its chain, key and signature; a check that refuses
the peer sends a refusal, and either end's refusal fails the step. A private key is drawn for each training. -/
def mutualAuthenticationDone (p : Nat) (peer : Hello) (chainOk peerRefused : Bool) (report : NbrReport) (s : State) : State :=
  if (s.port p).state = 2 && (s.port p).tstep = 5 then
    let s1 := State.emit { s with freeCount := s.freeCount + 1 } (.train p (s.authMsg p s.freeCount peer))
    if !s.acceptsPeer chainOk peer.fpr then (s1.emit (.train p (Config.messageBody 0x270 []))).authFail p
    else if peerRefused then s1.authFail p
    else ((s1.modPort p fun x => x.up (s.linkKeyBytes p s.freeCount peer) (s.lowerEnd p) s.boot.sincePwrOk).noteNbr p report).advance78
  else s

def execMutualAuthenticationDone (port : Nat) (peer : Hello) (chainOk peerRefused : Bool) (report : NbrReport) (s : State) : Result :=
  if port < 12 then .next (mutualAuthenticationDone port peer chainOk peerRefused report s) else noResource "port" port

/-- R478: a lane that fails its loopback takes a spare of the cage. -/
def State.substituteLane (s : State) (p lane : Nat) : State :=
  let n := tget 0 s.log.laneSpares (p / 3)
  let s1 := { s with log := { s.log with laneSpares := tset 0 s.log.laneSpares (p / 3) (n + 1)
                                         spareLanes := s.log.spareLanes + 1 } }
  ((s1.event 4 (portSource p) 0x0034 lane n).repairWritten 3 (8 * p + lane)).modPort p fun x => { x with state := 1, tstep := 2 }

/-- TRAINING_STEP_TIMEOUT (R269, R270, R478). -/
def trainingStepTimeout (p : Nat) (lane : Option Nat) (loopbackFails : Bool) (s : State) : State :=
  let t := (s.port p).tstep
  if (s.port p).state != 1 && (s.port p).state != 2 then s
  else if t = 5 then s.authFail p
  else
    match lane with
    | some l =>
      if (t = 2 || t = 3) && loopbackFails && tget 0 s.log.laneSpares (p / 3) < 2 then s.substituteLane p l
      else s.trainFail p 4
    | none => s.trainFail p 4

def execTrainingStepTimeout (port : Nat) (lane : Option Nat) (loopbackFails : Bool) (s : State) : Result :=
  if port < 12 then .next (trainingStepTimeout port lane loopbackFails s) else noResource "port" port

/-- R64: a port in a failed state with a seated cable starts again at a step of Table 10-4. -/
def State.retrain (s : State) (p state step : Nat) (due : Bool) : State :=
  if (s.port p).state = state && s.portSeated p && due then
    State.advance78 (s.modPort p fun x => { x with state := 1, tstep := step })
  else s

/-- PORT_TRAINING_RETRY (R64, R269): one second after a training failure, for want of cable power among them. -/
def execPortTrainingRetry (port sinceMs : Nat) (s : State) : Result :=
  if port < 12 then .next (s.retrain port (if (s.port port).state = 6 then 6 else 4) 1 (decide (1000 ≤ sinceMs)))
  else noResource "port" port

/-- AUTHENTICATION_RETRY (R64): ten seconds after an authentication failure. -/
def execAuthenticationRetry (port sinceMs : Nat) (s : State) : Result :=
  if port < 12 then .next (s.retrain port 5 1 (decide (10000 ≤ sinceMs))) else noResource "port" port

/-- PEER_TRAINING_DETECTED (R64, R267): step 2 begins at once; a port of a class 0 cable does not train. -/
def execPeerTrainingDetected (port : Nat) (s : State) : Result :=
  if port < 12 then .next (s.retrain port 4 2 ((s.port port).cls == 1 || (s.port port).cls == 2)) else noResource "port" port

/-- R272: the n-th replacement of a direction's key: 32 bytes of SHAKE256 over the old key and the position count, a multiple of 2^32. -/
def nextKey (old : List Byte) (n : Nat) : List Byte := shake256 32 (old ++ leBytes 8 (n * 2 ^ 32))

/-- LINK_KEY_ROLLOVER (R272): the direction's next key, when its position count has reached a multiple of 2^32. -/
def linkKeyRollover (p : Nat) (transmit : Bool) (s : State) : State :=
  let x := s.port p
  if s.portUp p && decide ((if transmit then x.txKey else x.rxKey) < (if transmit then x.txPos else x.rxPos) / 2 ^ 32) then
    s.modPort p fun x =>
      if transmit then { x with txKey := x.txKey + 1, txSecret := nextKey x.txSecret (x.txKey + 1) }
      else { x with rxKey := x.rxKey + 1, rxSecret := nextKey x.rxSecret (x.rxKey + 1) }
  else s

def execLinkKeyRollover (port : Nat) (transmit : Bool) (s : State) : Result :=
  if port < 12 then .next (linkKeyRollover port transmit s) else noResource "port" port

end Sys2Proof.Machine
end

