-- ==== Sys2Proof/Machine/FaultsLog.lean ====
section
/-!
DEFINITION. Patrol, the reissue of GDDR7 writes, and the trouble log's own events (20_faults_and_log.md R472, R473, R485 to
R490).
-/

namespace Sys2Proof.Machine

/-! ## Patrol, R472, R473 -/

/-- The block that reports an error patrol finds: the core of a scratchpad, else the near channel. -/
def patrolSource (store addr : Nat) : Nat := if store = 3 then 0x400 + (addr - padBase) / padSize else 0x180

/-- R472: patrol reads GDDR7 and Stack SRAM, and a scratchpad while its core runs no task. -/
def State.patrolled (s : State) (store addr : Nat) : Bool :=
  if store = 3 then decide (padBase ≤ addr) && decide (addr < padBase + 256 * padSize) && (s.core ((addr - padBase) / padSize)).tasks.isEmpty
  else if store = 4 then inSsram addr 1
  else if store = 7 then inGddr addr 1
  else false

/-- R473: an uncorrectable word of Warden SRAM: an alarm, then an input shutdown as at SHUTDOWN of R468. -/
def State.wardenEcc (s : State) (addr : Nat) : State :=
  let s1 := s.event 5 0x040 0x0031 8 addr
  { s1 with pwr := { s1.pwr with internalEnable := false }
            log := { s1.log with cntUncorr := s1.log.cntUncorr + 1 } }

/-- PATROL_READ: one line, or a word of Warden SRAM that the Warden reads. A corrected line is written back; an uncorrectable one, among
them a line already known as such, is logged and left. -/
def patrolRead (store addr : Nat) (found : EccFound) (s : State) : State :=
  if !s.pwr.pwrOk || !(store = 8 || s.patrolled store addr) then s
  else
    match (if store != 8 && s.log.badLines.contains (lineOf addr) then .uncorrectable else found) with
    | .clean => s
    | .corrected => s.eccCorrected store addr
    | .uncorrectable => if store = 8 then s.wardenEcc addr else s.eccUncorr (patrolSource store addr) store addr

def execPatrolRead (store addr : Nat) (found : EccFound) (s : State) : Result := .next (patrolRead store addr found s)

/-- GDDR_WRITE_REISSUE (R470, R472): the write is sent again in slot position 15 of the next frame; nothing but time
changes. -/
def gddrWriteReissue (_addr : Nat) (s : State) : State := s

def execGddrWriteReissue (addr : Nat) (s : State) : Result :=
  if addr < gddrSize then .next (gddrWriteReissue addr s) else noResource "GDDR7 address" addr

/-! ## Tokens and drops, R485 to R488 -/

/-- LOG_TOKEN_REFILL (R485): a class regains a token, once the time for it is over. -/
def logTokenRefill (c : Nat) (s : State) : State :=
  let x := s.log.cls c
  if x.spent != 0 && decide (x.refillAt + refillTime c ≤ s.boot.sincePwrOk) then
    let y := { x with spent := x.spent - 1, refillAt := x.refillAt + refillTime c }
    (State.reported { s with log := { s.log with classes := tset {} s.log.classes c y } }).onLog fun l => l.flush c s.boot.sincePwrOk 80
  else s

def execLogTokenRefill (cls : Nat) (s : State) : Result :=
  if cls < 6 then .next (logTokenRefill cls s) else noResource "log class" cls

/-- DROP_REPORT (R487). -/
def execDropReport (s : State) : Result := .next s.reported

/-- LOG_RD_WRITE (R488): a lower value is ignored, one above LOG_WR is taken as LOG_WR. -/
def logRdWrite (half : Half) (value : BitVec 64) (s : State) : State :=
  let v := mergeWrite half 0xFFFFFFFFFFFFFFFF s.log.rd value.toNat
  if v < s.log.rd then s else State.flushAll { s with log := { s.log with rd := min v s.log.wr } }

def execLogRdWrite (half : Half) (value : BitVec 64) (s : State) : Result := .next (served half (logRdWrite half value) s)

/-! ## Paths out, R489, R490 -/

/-- Table 20-6. -/
def LogEntry.bytes (e : LogEntry) : List Byte :=
  leBytes 8 e.time ++ leBytes 1 (place 2 0 e.cls + flagBit e.prelock 3 + flagBit e.coalesced 4) ++ leBytes 1 e.status ++
  leBytes 2 e.source ++ leBytes 2 e.event ++ leBytes 1 (match e.job with | some j => place 2 0 j + 8 | none => 0) ++
  leBytes 1 e.aux ++ leBytes 4 e.count ++ leBytes 4 e.span ++ leBytes 8 e.detail.toNat

/-- FAB_FM.FM_ID. -/
def State.fmId (s : State) : Nat := field (s.st 0x2F0010) 15 0

/-- LOG_EXPORT_SEND (R489): 7 entries queued, or 10 µs after the oldest. -/
def logExportSend (s : State) : State :=
  match s.log.exports with
  | [] => s
  | x :: r =>
    if (6 ≤ r.length || x.at' + 10000 ≤ s.boot.sincePwrOk) && s.fmId != 0xFFFF then
      let es := (x :: r).take 7
      let body := leBytes 1 0x4C ++ leBytes 1 es.length ++ zeros 6 ++ leBytes 8 (x.index % 8192) ++ es.flatMap fun e => e.entry.bytes
      match s.inject 6 0x18 s.fmId 0 body with
      | some s1 => { s1 with log := { s1.log with exports := s1.log.exports.drop 7 } }
      | none => s
    else s

def execLogExportSend (s : State) : Result := .next (logExportSend s)

/-- The alarm to send next, and the queue after it: the merge entry comes last. -/
def TroubleLog.nextAlarm (l : TroubleLog) : Option (LogEntry × TroubleLog) :=
  match l.alarms, l.alarmMerge with
  | e :: r, _ => some (e, { l with alarms := r })
  | [], some e => some (e, { l with alarmMerge := none })
  | [], none => none

/-- ALARM_SEND (R490): the oldest queued alarm leaves by route 0; without an FM_ID or a route it waits. -/
def alarmSend (s : State) : State :=
  match s.log.nextAlarm with
  | none => s
  | some (e, l) =>
    if s.fmId != 0xFFFF then
      match State.inject { s with log := l } 7 0x1C s.fmId 0 (e.bytes ++ leBytes 2 s.fab.fabId.toNat) with
      | some s1 => s1
      | none => s
    else s

def execAlarmSend (s : State) : Result := .next (alarmSend s)

end Sys2Proof.Machine
end

