-- ==== Sys2Proof/Machine/HostMem.lean ====
section
/-!
DEFINITION. The host link and host memory accesses (01_module.md R31; 02_bring_up.md R63; 17_host_interface.md R431 to R434,
R439, R441): PERST_N, loss of the link, bias pages, CXL.mem and BAR4.
-/

namespace Sys2Proof.Machine

/-! ## PERST_N and the link, R31, R63, R439 -/

/-- R439: the host commands that run (HOST_READ, HOST_WRITE) end with Table 13-4's status of a link that is down. -/
def State.endHostCommands (s : State) : State :=
  ((s.live.filter fun l => l.cmd.engine == 7 && (l.cmd.opcode == 0x08 || l.cmd.opcode == 0x09)).map (·.cmd)).foldl
    (fun s c => s.complete c stRouteDead 0) s

/-- R439, R460: what the loss of the link does. -/
def State.linkLost (s : State) : State :=
  State.endHostCommands { s with
    boot := { s.boot with hostRate := 0, hostWidth := 0, hostCxl := false }
    rings := (List.range 64).foldl (fun t r => tmod {} t r fun x => { x with en := false }) s.rings
    host := { s.host with
      hostBias := [], biasLeft := 0, waiting := [], session := 0, sessionKeys := 0, ideKeys := 0, linkStream := false, contained := false } }

/-- R63, R44: what steps 7 and 8 wait for. -/
def State.hostWait (s : State) : State := if s.boot.step = 7 || s.boot.step = 8 then s.wait78 else s

/-- PERST_N_ASSERT. DESIGN CHOICE (notes/assumptions/47.md): R61 does not say whether it restarts the count of five consecutive
attempts; the model keeps the count. -/
def perstAssert (s : State) : State :=
  if s.pwr.perst then s
  else
    let s1 := State.linkLost { s with pwr := { s.pwr with perst := true } }
    s1.hostWait

def execPerstAssert (s : State) : Result := .next (perstAssert s)

/-- PERST_N_DEASSERT: a step 7 that waits for it goes on. -/
def perstDeassert (s : State) : State :=
  let s1 := { s with pwr := { s.pwr with perst := false } }
  s1.hostWait

def execPerstDeassert (s : State) : Result := .next (perstDeassert s)

/-- HOST_LINK_DOWN. -/
def hostLinkDown (s : State) : State := if s.boot.hostRate = 0 then s else s.linkLost

def execHostLinkDown (s : State) : Result := .next (hostLinkDown s)

/-- IDE_INTEGRITY_FAILURE (R441): it is reported through AER and the CXL RAS capability, one log entry, whose class, code and DETAIL the spec
does not give, is written, and the link goes down. -/
def ideIntegrityFailure (s : State) : State :=
  if s.linkUp then
    let ep := s.freeCount + 1
    let f i := (Config.freeWord ep i).toNat
    (State.event { s with freeCount := ep, host := { s.host with aer := true, ras := true } } (f 0 % 6) 0x000 (f 1 % 65536) (f 2 % 65536) (f 3)).linkLost
  else s

def execIdeIntegrityFailure (s : State) : Result := .next (ideIntegrityFailure s)

/-! ## Bias pages, R432 to R434 -/

/-- R434: pages of the GDDR7 windows of a job that runs in exclusive mode. -/
def State.pinned (s : State) (page : Nat) : Bool :=
  (List.range 8).any fun j => (s.job j).excl && decide (1 ≤ (s.slot j).state) && decide ((s.slot j).state ≤ 3) &&
    s.bld.cur.windows.any fun w => w.kind == 1 && w.job == (s.job j).jobId && overlap (w.base, w.len) (page * biasPage, biasPage)

/-- A page waits for its flip: accesses to it wait, but for those of the flip command's engine cycle (R433). -/
def State.flipping (s : State) (page : Nat) : Bool :=
  s.host.biasLeft != 0 && s.host.biasNext == page && s.host.biasAt != some s.engCycle

/-- R432, R433: a host access of this engine cycle finds the page in host bias: a flip command of the cycle comes after the access. -/
def State.foundHost (s : State) (page : Nat) : Bool :=
  tget false s.host.hostBias page && !(s.host.biasAt == some s.engCycle && s.host.biasFresh.contains page)

/-- BIAS_FLIP: BIAS_CMD written with GO (R433, R434). -/
def biasFlip (value : BitVec 64) (s : State) : State :=
  let v := value.toNat
  let first := field v 17 0
  let count := field v 35 18
  let toDevice := bitOf v 36
  let s0 := { s with host := { s.host with biasFirst := first, biasCount := count, biasDir := toDevice } }
  let pages := (List.range count).map (first + ·)
  if !bitOf v 37 || s.host.biasLeft != 0 || count = 0 || decide (biasPages < first + count) then s0
  else if pages.any s.pinned then { s0 with host := { s0.host with biasRefused := true } }
  else
    let h := { s0.host with biasAt := some s.engCycle, biasFresh := [] }
    if toDevice then { s0 with host := { h with biasLeft := count, biasNext := first } }
    else { s0 with host := { h with
      biasFresh := pages.filter fun p => !s.foundHost p, hostBias := pages.foldl (fun t p => tset false t p true) h.hostBias } }

def execBiasFlip (value : BitVec 64) (s : State) : Result := .next (biasFlip value s)

/-! ## CXL.mem and BAR4, R431, R432, R473 -/

/-- A plain load or store of the host: a read of an uncorrectable line answers with the poison indication, and a write
of part of one leaves it as it was; either is counted (R474). -/
def State.hostAccess (s : State) (a len : Nat) (write : Option (List Byte)) : State :=
  match write with
  | some bs => if s.partBad a len then s.countUncorr else s.store a (padTo len bs)
  | none => if s.hasBad a len then s.countUncorr.emit .poison else s.emit (.data (s.mem.bytes a len))

/-- The bias pages of a range. -/
def pagesOf (a len : Nat) : List Nat := (List.range ((a + len - 1) / biasPage - a / biasPage + 1)).map (a / biasPage + ·)

/-- R434: the home channels of a range serve the host: always, or, while a job runs in exclusive mode, in their time for it alone. -/
def State.servesHost (s : State) (a len : Nat) : Bool :=
  !s.anyExclusive || (List.range ((a % 64 + len + 63) / 64)).all fun i => s.hostTime (homeChannel (lineOf a + 64 * i))

/-- R432, R434: a CXL.mem access is served: pages in device bias flip to host bias, but for pinned pages. -/
def State.serveCxl (s : State) (addr len : Nat) (write : Option (List Byte)) : State :=
  let flip := (pagesOf addr len).filter fun p => !s.foundHost p && !s.pinned p
  State.hostAccess { s with host := { s.host with
    hostBias := flip.foldl (fun t p => tset false t p true) s.host.hostBias
    biasFresh := s.host.biasFresh.filter fun p => !flip.contains p
    hostFlips := s.host.hostFlips + flip.length } } addr len write

/-- R433, R434: a host access can be served: no page of it flips, its channels serve the host, and it meets none that waits before it. -/
def State.hostReady (s : State) (before : List HostAccess) (x : HostAccess) : Bool :=
  !(inGddr x.addr 1 && (pagesOf x.addr x.len).any s.flipping) && s.servesHost x.addr x.len &&
  before.all fun y => !overlap (x.addr, x.len) (y.addr, y.len)

/-- R432: a host access is served as its page's bias says. -/
def State.serveHost (s : State) (x : HostAccess) : State :=
  if x.cxl then s.serveCxl x.addr x.len x.write else s.hostAccess x.addr x.len x.write

/-- R433, R434: a host access is served at once, or waits. -/
def State.hostArrives (s : State) (x : HostAccess) : State :=
  if x.len = 0 then s
  else if s.hostReady s.host.waiting x then s.serveHost x
  else { s with host := { s.host with waiting := s.host.waiting ++ [x] } }

/-- R433, R434: the host accesses that wait, in the order in which they came: each that can be served now is. -/
def State.serveWaiting (s : State) : State :=
  s.host.waiting.foldl State.hostArrives { s with host := { s.host with waiting := [] } }

/-- BIAS_FLIP_PAGE_DONE: every line of the page that flips to device bias is claimed, and the accesses that waited are served. -/
def biasFlipPageDone (page : Nat) (s : State) : State :=
  if s.host.biasLeft != 0 && s.host.biasNext == page then
    (State.emit { s with host := { s.host with
      hostBias := tset false s.host.hostBias page false, biasLeft := s.host.biasLeft - 1, biasNext := page + 1 } }
      (.claim (page * biasPage) biasPage)).serveWaiting
  else s

def execBiasFlipPageDone (page : Nat) (s : State) : Result :=
  if page < biasPages then .next (biasFlipPageDone page s) else noResource "bias page" page

/-- HOST_CXL_MEM_ACCESS (R432 to R434). -/
def hostCxlMemAccess (addr len : Nat) (write : Option (List Byte)) (s : State) : State :=
  if !(s.linkUp && s.boot.hostCxl) || !inGddr addr len then s else s.hostArrives { cxl := true, addr, len, write }

def execHostCxlMemAccess (addr len : Nat) (write : Option (List Byte)) (s : State) : Result :=
  .next (hostCxlMemAccess addr len write s)

/-- HOST_BAR4_ACCESS (R431): past the memory HOST_WIN selects, Unsupported Request. -/
def hostBar4Access (offset len : Nat) (write : Option (List Byte)) (s : State) : State :=
  let a := s.host.win * 2 ^ 30 + offset
  if !s.linkUp then s
  else if 2 ^ 30 < offset + len || !inMain a len then s.emit .unsupported
  else s.hostArrives { cxl := false, addr := a, len, write }

def execHostBar4Access (offset len : Nat) (write : Option (List Byte)) (s : State) : Result :=
  .next (hostBar4Access offset len write s)

end Sys2Proof.Machine
end

