-- ==== Sys2Proof/Machine/Update.lean ====
section
/-!
DEFINITION. The update engine (14_training_and_infusion.md R365 to R377; 06_arithmetic.md R178): UPDATE with its exact
arithmetic, stochastic rounding and ratio table, and the step counters.
-/

namespace Sys2Proof.Machine

/-! ## Stochastic rounding, R178, R373 -/

/-- R373: the 16-bit draw of an element. -/
def drawOf (seed t e : Nat) : Nat :=
  let w := 2 ^ 64
  let z := (seed + t * 0x9E3779B97F4A7C15 + e * 0xD1B54A32D192ED03) % w
  let z := (z ^^^ (z / 2 ^ 30)) * 0xBF58476D1CE4E5B9 % w
  let z := (z ^^^ (z / 2 ^ 27)) * 0x94D049BB133111EB % w
  (z ^^^ (z / 2 ^ 31)) % 2 ^ 16

/-- R178: the 16 bits below the last place plus the draw round the magnitude up when they carry. -/
def FloatFmt.stochastic (f : FloatFmt) (u : Nat) (v : FVal) : Nat :=
  match v with
  | .fin n m e =>
    if m = 0 then f.round .rne v
    else
      let q := max (e + bitLen m - 1) (1 - (f.bias : Int)) - f.fb
      let k := roundQuot .zero n m e (q - 16)
      f.round .rne (.fin n ((k + u) / 2 ^ 16) q)
  | x => f.round .rne x

/-! ## Parameters and tensors, R366 -/

/-- Power by repeated multiplication, exact. -/
def FVal.pow (v : FVal) (t : Nat) : FVal :=
  match v with
  | .fin n m e => .fin (n && t % 2 == 1) (m ^ t) (e * t)
  | .inf n => if t = 0 then .fin false 1 0 else .inf (n && t % 2 == 1)
  | .nan => if t = 0 then .fin false 1 0 else .nan

def fOne : FVal := .fin false 1 0
def FVal.finite : FVal → Bool | .fin _ _ _ => true | _ => false

/-- a × b + c rounded once to FP32 (R371). -/
def fma (a b c : FVal) : FVal := toFp32 ((a.mul b).add c)

/-- The parameter block of UPDATE (Table 14-1) and its per-command constants (R371). -/
structure UpdParams where
  rule : Nat
  nonfin : Bool
  trustExt : Bool
  mask : Bool
  group : Nat
  layer : Nat
  lr : FVal
  b1 : FVal
  b2 : FVal
  eps : FVal
  wd : FVal
  gscale : FVal
  seed : Nat
  idxBase : Nat
  first : Nat
  deriving DecidableEq, Repr

def updParams (b : List Byte) : UpdParams :=
  let f i := fmtFp32.decode (leAt b i 4)
  let x := leAt b 1 1
  { rule := leAt b 0 1, nonfin := bitOf x 0, trustExt := bitOf x 1, mask := bitOf x 2, group := leAt b 2 2
    layer := leAt b 4 2, lr := f 8, b1 := f 12, b2 := f 16, eps := f 20, wd := f 24, gscale := f 28
    seed := leAt b 32 8, idxBase := leAt b 40 8, first := leAt b 48 4 }

/-- C1 or C2: 1 - B^t, rounded once. -/
def biasCorr (b : FVal) (t : Nat) : FVal := toFp32 (fOne.add (b.pow t).neg)

/-- The pieces of `n` elements from flattened position `i`, as addresses and byte counts, cut at row ends. -/
def Tensor.pieces (t : Tensor) (i n : Nat) : Nat → List (Nat × Nat)
  | 0 => []
  | fuel + 1 =>
    let e0 := t.exts.headD 0
    if n = 0 || e0 = 0 then []
    else
      let k := min n (e0 - i % e0)
      ((t.rows.getD (i / e0) 0) + rowBytes t.fmt (i % e0), rowBytes t.fmt k) :: t.pieces (i + k) (n - k) fuel

/-- The values of `n` elements from flattened position `i`. -/
def Tensor.valsAt (m : Memory) (t : Tensor) (i n : Nat) : List FVal :=
  decodeRow t.fmt n ((t.pieces i n (n + 1)).flatMap fun p => m.bytes p.1 p.2)

/-- A 32-bit word of a tensor by flattened position. -/
def Tensor.wordAt (m : Memory) (t : Tensor) (i : Nat) : Nat :=
  leNat ((t.pieces i 1 2).flatMap fun p => m.bytes p.1 p.2)

/-- The writes of encoded elements from flattened position `i`. -/
def Tensor.writeAt (t : Tensor) (i n : Nat) (bs : List Byte) : List (Nat × List Byte) := spread bs (t.pieces i n (n + 1))

/-! ## Blocks, R369 to R372 -/

/-- The tensors of an UPDATE. -/
structure UpdTensors where
  g : Tensor
  w : Tensor
  m : Tensor
  v : Option Tensor
  work : Option Tensor
  mask : Option Tensor
  ratio : Tensor
  deriving DecidableEq, Repr

/-- Elements of block b. -/
def blockLen (n b : Nat) : Nat := min 64 (n - 64 * b)

/-- R370: block b is frozen. -/
def frozen (mem : Memory) (t : UpdTensors) (b : Nat) : Bool :=
  match t.mask with
  | some m => bitOf (m.wordAt mem (b / 32)) (b % 32)
  | none => false

/-- R371: SQRT(x) + y of FP32 values, to be rounded once. No FP32 rounding boundary less y lies between two multiples of 2^-151. -/
def sqrtPlus (x y : FVal) : FVal :=
  match x with
  | .fin false m e =>
    let z := m * 2 ^ (e + 304).toNat
    let r := isqrt z
    if m = 0 then x.add y else (FVal.fin false (2 * r + (if r * r = z then 0 else 1)) (-153)).add y
  | _ => x.sqrt.add y

/-- One element: the new m, v and W, with wf, u and d (R371). -/
def updElement (p : UpdParams) (lre c1 c2 : FVal) (g0 w m0 v0 : FVal) : FVal × FVal × FVal × FVal × FVal × FVal :=
  let omb1 := toFp32 (fOne.add p.b1.neg)
  let omb2 := toFp32 (fOne.add p.b2.neg)
  let g := toFp32 (g0.mul p.gscale)
  let wf := toFp32 w
  let g := if p.rule = 1 || p.rule = 2 then fma p.wd wf g else g
  let (m, v, u) :=
    if p.rule = 2 then
      let m := fma p.b1 m0 g
      (m, v0, m)
    else
      let m := fma p.b1 m0 (toFp32 (omb1.mul g))
      let v := fma p.b2 v0 (toFp32 (omb2.mul (toFp32 (g.mul g))))
      let u := toFp32 ((toFp32 (m.div c1)).div (toFp32 (sqrtPlus (toFp32 (v.div c2)) p.eps)))
      (m, v, if p.rule = 0 || p.rule = 3 then fma p.wd wf u else u)
  let d := toFp32 ((lre.mul u).neg)
  (m, v, decodeElem 0xB (encodeElem 0xB .rne (w.add d)), wf, u, d)

/-- What a block comes to: its writes, its terms of the three sums, and its non-finite gradients. -/
structure BlockOut where
  writes : List (Nat × List Byte)
  ssw : FVal
  ssu : FVal
  ssd : FVal
  nonfin : Nat
  deriving DecidableEq, Repr

/-- R369, R373: the outputs of block b. -/
def updBlock (mem : Memory) (p : UpdParams) (t : UpdTensors) (step : Nat) (lre c1 c2 : FVal) (b : Nat) : BlockOut :=
  let n := blockLen t.w.size b
  let i := 64 * b
  let gs := t.g.valsAt mem i n
  let ws := t.w.valsAt mem i n
  let ms := t.m.valsAt mem i n
  let vs := match t.v with | some v => v.valsAt mem i n | none => []
  let rs := (List.range n).map fun k =>
    updElement p lre c1 c2 (gs.getD k fZero) (ws.getD k fZero) (ms.getD k fZero) (vs.getD k fZero)
  let work := match t.work with
    | some x =>
      x.writeAt i n (((List.range n).zip rs).flatMap fun (k, r) =>
        match floatFmt x.fmt with
        | some f => leBytes (fmtBits x.fmt / 8) (f.stochastic (drawOf p.seed step (p.idxBase + i + k)) r.2.2.1)
        | none => [])
    | none => []
  let v := match t.v with | some x => x.writeAt i n (encodeRow x.fmt .rne (rs.map (·.2.1))) | none => []
  { writes := t.w.writeAt i n (encodeRow t.w.fmt .rne (rs.map (·.2.2.1))) ++
      t.m.writeAt i n (encodeRow t.m.fmt .rne (rs.map (·.1))) ++ v ++ work
    ssw := exactSum (rs.map fun r => r.2.2.2.1.mul r.2.2.2.1)
    ssu := exactSum (rs.map fun r => r.2.2.2.2.1.mul r.2.2.2.2.1)
    ssd := exactSum (rs.map fun r => r.2.2.2.2.2.mul r.2.2.2.2.2)
    nonfin := (gs.filter fun g => !g.finite).length }

/-- R369: block b meets an uncorrectable line. -/
def State.badBlock (s : State) (t : UpdTensors) (b : Nat) : Bool :=
  let n := blockLen t.w.size b
  let ps (x : Tensor) := x.pieces (64 * b) n (n + 1)
  let rd := ps t.g ++ ps t.w ++ ps t.m ++ (match t.v with | some v => ps v | none => [])
  rd.any (fun p => s.hasBad p.1 p.2) ||
  (match t.work with | some x => (ps x).any fun p => s.partBad p.1 p.2 | none => false)

/-! ## The ratio table, R375, R376 -/

/-- An FP32 value as its 32 bits. -/
def fp32Bits (v : FVal) : Nat := fmtFp32.round .rne v

/-- Table 14-4: the entry written at commit. -/
def ratioEntry (p : UpdParams) (trust0 step elems : Nat) (ssw ssu ssd : FVal) (nonfinite skipped : Bool) : List Byte :=
  let w := toFp32 ssw
  let u := toFp32 ssu
  let d := toFp32 ssd
  let ratio := if w.isZero then fZero else (toFp32 (d.div w)).sqrt
  let trust :=
    if p.trustExt || skipped then trust0
    else if w.finite && !w.isZero && u.finite && !u.isZero then fp32Bits (toFp32 (w.div u)).sqrt
    else 0x3F800000
  (([fp32Bits w, fp32Bits u, fp32Bits d, fp32Bits ratio, trust, step, elems]).flatMap (leBytes 4)) ++
  leBytes 1 (flagBit nonfinite 0 + flagBit skipped 1 + flagBit p.trustExt 2 + flagBit (p.first != 0) 3) ++ zeros 3

/-! ## UPDATE -/

/-- UPD_EVT bits. -/
def State.updEvt (s : State) (b : Nat) : State := s.modEng 11 fun e => { e with evt := e.evt ||| BitVec.ofNat 16 b }

/-- R374: the step counters of a job. -/
def State.stepRange (s : State) (j : Nat) : Nat × Nat :=
  let r := s.st (0x150100 + 8 * j)
  (field r 9 0, field r 20 10)
/-- A group of a job's range. -/
def State.ownsStep (s : State) (j g : Nat) : Bool :=
  decide (g < 1024) && decide ((s.stepRange j).1 ≤ g) && decide (g < (s.stepRange j).1 + (s.stepRange j).2)

/-- The tensors a command's slots describe. -/
def State.updTensors (s : State) (c : Cmd) (p : UpdParams) : UpdTensors :=
  let t := s.slotTensor c
  { g := t 0, w := t 1, m := t 2, v := if p.rule = 2 then none else some (t 3)
    work := if s.slotZero c 4 then none else some (t 4), mask := if p.mask then some (t 5) else none, ratio := t 6 }

/-- R367: no two of the used slots overlap; DETAIL is the later slot of the first pair that does. -/
def State.updOverlap (s : State) (c : Cmd) (slots : List Nat) : Check :=
  let ps := slots.flatMap fun j => (slots.filter (· < j)).map fun i => (i, j)
  (ps.find? fun x => overlap (s.slotDesc c x.1).range (s.slotDesc c x.2).range).map fun x => (stOverlap, x.2)

/-- R366, R368: everything checked before a write. -/
def State.updChecks (s : State) (c : Cmd) (p : UpdParams) : List Check :=
  let b := s.params c
  let n := (s.slotTensor c 1).size
  let sameN (t : Tensor) : Bool := t.size == n
  let step := (tget (0 : BitVec 32) s.upd.steps p.group).toNat
  let work := !s.slotZero c 4
  let used := [0, 1, 2] ++ (if p.rule = 2 then [] else [3]) ++ (if work then [4] else []) ++ (if p.mask then [5] else []) ++ [6]
  let decay (x : FVal) : Bool := !x.isNan && !x.lt fZero && x.lt fOne
  [if 4 ≤ p.rule then some (stBadOpcode, 0) else none, if 8 ≤ leAt b 1 1 then some (stBadOpcode, 1) else none,
   zeroParams b ([6, 7] ++ offsets 52 63)] ++
  s.checkSlot c 0 [0, 1, 2] sameN ++ s.checkSlot c 1 [0xB] (fun _ => true) ++ s.checkSlot c 2 [0, 1] sameN ++
  (if p.rule = 2 then [need (s.slotZero c 3) stStructure 3] else s.checkSlot c 3 [0, 1] sameN) ++
  (if work then s.checkSlot c 4 [0, 1, 2, 3, 4] sameN else []) ++
  (if p.mask then s.checkSlot c 5 [0xA] (fun t => decide (ceilDiv (ceilDiv n 64) 32 ≤ t.size)) else []) ++
  s.checkSlot c 6 [0xA] (fun t => decide (8 * (p.layer + 1) ≤ t.size)) ++
  [need (s.ownsStep c.job p.group) stBounds p.group,
   need (decide (p.first < ceilDiv n 64) && step != 0 && p.lr.finite && p.wd.finite && p.gscale.finite && p.eps.finite &&
      (p.rule == 2 || (decay p.b1 && decay p.b2 && fZero.lt p.eps)) &&
      !(biasCorr p.b1 step).isZero && !(biasCorr p.b2 step).isZero) stStructure 8,
   s.updOverlap c used]

/-- R374: the step counter of a command's group. -/
def State.updStep (s : State) (p : UpdParams) : Nat := (tget (0 : BitVec 32) s.upd.steps p.group).toNat

/-- The TRUST word of a command's layer before it runs. -/
def State.updTrust (s : State) (p : UpdParams) (t : UpdTensors) : Nat := t.ratio.wordAt s.mem (8 * p.layer + 4)

/-- R371: the results of the blocks bs. -/
def State.updOuts (s : State) (p : UpdParams) (t : UpdTensors) (bs : List Nat) : List BlockOut :=
  let step := s.updStep p
  let lre := if p.rule = 3 then toFp32 (p.lr.mul (fmtFp32.decode (s.updTrust p t))) else p.lr
  bs.map (updBlock s.mem p t step lre (biasCorr p.b1 step) (biasCorr p.b2 step))

/-- R369, R370: the blocks from FIRST_BLOCK on, and those of them that are not frozen. -/
def updFrom (p : UpdParams) (t : UpdTensors) : List Nat := (List.range (ceilDiv t.w.size 64)).drop p.first
def State.updLive (s : State) (p : UpdParams) (t : UpdTensors) : List Nat := (updFrom p t).filter fun b => !frozen s.mem t b

/-- The first of a command's blocks that meets an uncorrectable line, R369. -/
def State.updBad (s : State) (p : UpdParams) (t : UpdTensors) : Option Nat := (s.updLive p t).find? (s.badBlock t)

/-- The mask, or the ratio entry, lies on an uncorrectable line. -/
def State.updTablesBad (s : State) (p : UpdParams) (t : UpdTensors) : Bool :=
  (match t.mask with | some x => x.rows.any fun a => s.hasBad a x.rowLen | none => false) ||
  (t.ratio.pieces (8 * p.layer) 8 9).any fun x => s.hasBad x.1 x.2

/-- The gradient of a block lies on an uncorrectable line. -/
def State.gradBad (s : State) (t : UpdTensors) (b : Nat) : Bool :=
  (t.g.pieces (64 * b) (blockLen t.w.size b) 65).any fun x => s.hasBad x.1 x.2

/-- R372: the first block of the scan whose gradient lies on an uncorrectable line. -/
def State.updScanBad (s : State) (t : UpdTensors) : Option Nat :=
  ((List.range (ceilDiv t.w.size 64)).filter fun b => !frozen s.mem t b).find? (s.gradBad t)

/-- R369: where a command stops whose scan met an uncorrectable line in block b: the first bad block, from FIRST_BLOCK on. -/
def State.updStop (s : State) (p : UpdParams) (t : UpdTensors) (b : Nat) : Nat := max ((s.updBad p t).elim b (min b)) p.first

/-- R372: the non-finite gradients of every block that is not frozen and can be read. -/
def State.updScan (s : State) (t : UpdTensors) : Nat :=
  let n := t.w.size
  let seen := (List.range (ceilDiv n 64)).filter fun b => !frozen s.mem t b && !s.gradBad t b
  (seen.map fun b => ((t.g.valsAt s.mem (64 * b) (blockLen n b)).filter fun g => !g.finite).length).foldl (· + ·) 0

/-- The elements of blocks bs of n elements. -/
def blockElems (n : Nat) (bs : List Nat) : Nat := (bs.map (blockLen n)).foldl (· + ·) 0

/-- R376: the writes of a command's ratio entry. -/
def UpdTensors.entry (t : UpdTensors) (p : UpdParams) (e : List Byte) : List (Nat × List Byte) := t.ratio.writeAt (8 * p.layer) 8 e

/-- R376: the entry of a command that ran over all its blocks, whose results are outs. -/
def State.updEntry (s : State) (p : UpdParams) (t : UpdTensors) (outs : List BlockOut) : List (Nat × List Byte) :=
  let sum (f : BlockOut → FVal) := exactSum (outs.map f)
  t.entry p (ratioEntry p (s.updTrust p t) (s.updStep p) (blockElems t.w.size (s.updLive p t)) (sum (·.ssw)) (sum (·.ssu)) (sum (·.ssd))
    (outs.any fun o => o.nonfin != 0) false)

/-- R376: the entry of a skipped command. -/
def State.updSkipEntry (s : State) (p : UpdParams) (t : UpdTensors) : List (Nat × List Byte) :=
  t.entry p (ratioEntry p (s.updTrust p t) (s.updStep p) 0 fZero fZero fZero true true)

/-- The blocks done, their writes made and everything counted; `stop` is the block that ends the run early. -/
def State.updRun (s : State) (p : UpdParams) (t : UpdTensors) (stop : Option Nat) : State :=
  let n := t.w.size
  let before b := match stop with | some x => decide (b < x) | none => true
  let done := (s.updLive p t).filter before
  let outs := s.updOuts p t done
  let nf : Nat := (outs.map fun (o : BlockOut) => o.nonfin).foldl (· + ·) 0
  let s1 := s.storeAll (outs.flatMap (·.writes))
  let s2 : State := { s1 with upd := { s1.upd with
    cntElems := s1.upd.cntElems + blockElems n done
    cntFrozen := s1.upd.cntFrozen + blockElems n ((updFrom p t).filter fun b => frozen s.mem t b && before b)
    cntNonfin := s1.upd.cntNonfin + nf } }
  if nf = 0 then s2 else s2.updEvt 1

/-- UPDATE (R366 to R376). Where the scan of R372 meets an uncorrectable line and finds nothing non-finite elsewhere, the blocks before
the first bad one are updated, so that a reissue from DETAIL ends bit-identical (DEDUCED: notes/assumptions/27.md). -/
def update (s : State) : State :=
  s.withHead 7 0x06 fun s c =>
    let p := updParams (s.params c)
    s.orFail c (s.updChecks c p) fun s =>
      let t := s.updTensors c p
      if s.updTablesBad p t then (s.updEvt 4).complete c stEccUncorr p.first
      else
        match (if p.nonfin then s.updScanBad t else none), p.nonfin && s.updScan t != 0 with
        | some b, true => (s.updEvt 4).complete c stEccUncorr (max b p.first)
        | some b, false => ((s.updRun p t (some (s.updStop p t b))).updEvt 4).complete c stEccUncorr (s.updStop p t b)
        | none, true =>
          -- R372: the command is skipped
          let s1 := s.storeAll (s.updSkipEntry p t)
          (State.updEvt { s1 with upd := { s1.upd with cntNonfin := s1.upd.cntNonfin + s.updScan t } } 3).complete c stOk 0
        | none, false =>
          match s.updBad p t with
          | some b => ((s.updRun p t (some b)).updEvt 4).complete c stEccUncorr b
          | none => ((s.updRun p t none).storeAll (s.updEntry p t (s.updOuts p t (s.updLive p t)))).complete c stOk 0

def execUpdate (s : State) : Result := .next (update s)

/-! ## Step counters, R374 -/

/-- The checks of STEP. -/
def State.stepChecks (s : State) (c : Cmd) : List Check :=
  let b := s.params c
  let first := leAt b 2 2
  let n := leAt b 4 2
  [if 2 ≤ leAt b 0 1 then some (stBadOpcode, 0) else none, zeroParams b ([1, 6, 7] ++ offsets 12 63),
   need (decide (1 ≤ n) && decide (n ≤ 1024)) stStructure 8,
   ((List.range n).find? fun i => !s.ownsStep c.job (first + i)).map fun i => (stBounds, first + i)]

/-- The groups a STEP names. -/
def stepGroups (b : List Byte) : List Nat := (List.range (leAt b 4 2)).map (leAt b 2 2 + ·)

/-- The checks of STEP_ADVANCE, in order. -/
def State.stepAdvanceChecks (s : State) (c : Cmd) : List Check :=
  let gs := stepGroups (s.params c)
  s.stepChecks c ++
    [(gs.find? fun g => tget (0 : BitVec 32) s.upd.steps g == 0xFFFFFFFF).map fun g => (stBounds, g)]

/-- STEP_ADVANCE: one added to each counter of the range, or none changes. An unknown OP ends here. -/
def stepAdvance (s : State) : State :=
  s.withHeadIf 7 0x07 (fun b => leAt b 0 1 != 1) fun s c =>
    let gs := stepGroups (s.params c)
    s.orFail c (s.stepAdvanceChecks c) fun s =>
      State.complete { s with upd := { s.upd with
        steps := gs.foldl (fun t g => tmod 0 t g (· + 1)) s.upd.steps } } c stOk 0

def execStepAdvance (s : State) : Result := .next (stepAdvance s)

/-- STEP_SET: VALUE into each counter of the range. -/
def stepSet (s : State) : State :=
  s.withHeadIf 7 0x07 (fun b => leAt b 0 1 == 1) fun s c =>
    let b := s.params c
    s.orFail c (s.stepChecks c) fun s =>
      State.complete { s with upd := { s.upd with
        steps := (stepGroups b).foldl (fun t g => tset 0 t g (BitVec.ofNat 32 (leAt b 8 4))) s.upd.steps } } c stOk 0

def execStepSet (s : State) : Result := .next (stepSet s)

end Sys2Proof.Machine
end

