-- ==== Sys2Proof/Machine/Prefix.lean ====
section
/-!
DEFINITION. The prefix engine (15_serving.md R390 to R405): prefix hashing, the prefix table, admission, the records of a
job's requests in its Stack SRAM area, steps and retirement.
-/

namespace Sys2Proof.Machine

/-! ## Registers and records, R391 -/

/-- PFX_JOB_CFG fields. -/
def State.pfxTenant (s : State) (j : Nat) : Nat := field (s.st (0x170100 + 0x10 * j)) 4 1
def State.pfxPool (s : State) (j : Nat) : Nat := field (s.st (0x170100 + 0x10 * j)) 10 5
/-- A job slot that is not admitted to the engine has no request record (R391). -/
def State.pfxNreq (s : State) (j : Nat) : Nat :=
  if bitOf (s.st (0x170100 + 0x10 * j)) 0 then field (s.st (0x170100 + 0x10 * j)) 23 11 else 0
def State.pfxMaxBlk (s : State) (j : Nat) : Nat := field (s.st (0x170100 + 0x10 * j)) 35 24

/-- States of a request. -/
def reqFree : Nat := 0
def reqAdmitted : Nat := 1
def reqInStep : Nat := 2
def reqRetired : Nat := 3

/-- A field of Table 15-1: byte `off`, `n` bytes. -/
def State.reqGet (s : State) (j slot off n : Nat) : Nat := s.mem.nat (s.reqAddr j slot + off) n
def State.reqSet (s : State) (j slot off n v : Nat) : State := s.store (s.reqAddr j slot + off) (leBytes n v)

def State.reqState (s : State) (j slot : Nat) : Nat := s.reqGet j slot 18 1
def State.reqDeadline (s : State) (j slot : Nat) : Nat := s.reqGet j slot 8 8
def State.reqFlag (s : State) (j slot bit : Nat) : Bool := bitOf (s.reqGet j slot 19 1) bit

/-- Handle words of a request from `lo` up to `hi`. -/
def State.reqHandles (s : State) (j slot lo hi : Nat) : List Nat :=
  (List.range (hi - lo)).map fun i => s.reqGet j slot (64 + 8 * (lo + i)) 8

/-- PFX_JOB_STAT: blocks reserved over all records, and records not FREE. -/
def State.pfxResv (s : State) (j : Nat) : Nat := (List.range (s.pfxNreq j)).foldl (fun a r => a + s.reqGet j r 26 2) 0
def State.pfxActive (s : State) (j : Nat) : Nat := ((List.range (s.pfxNreq j)).filter fun r => s.reqState j r != reqFree).length

/-- A record can be read (Table 15-6). -/
def State.reqReadable (s : State) (j slot : Nat) : Check :=
  need (!s.hasBad (s.reqAddr j slot) (64 + 8 * s.pfxMaxBlk j)) stEccUncorr slot

/-- Checks of a command that names one request slot in bytes 0 to 1. -/
def State.reqChecks (s : State) (c : Cmd) (slot : Nat) : List Check :=
  [need (decide (slot < s.pfxNreq c.job)) stBounds slot, s.reqReadable c.job slot]

/-! ## Hashing and the table, R392 to R396 -/

/-- R392: the key of a block. -/
def blockKey (key prev block : List Byte) : List Byte := shake256 16 (key ++ prev ++ block)

/-- The chained keys of whole blocks. -/
def blockKeys (key : List Byte) : List Byte → List (List Byte) → List (List Byte)
  | _, [] => []
  | prev, b :: r => let h := blockKey key prev b; h :: blockKeys key h r

/-- R395: the 16 places of a hash, in search order. -/
def places (hash : Nat) : List Nat :=
  let b := hash % 4096
  (List.range 8).map (b * 8 + ·) ++ (List.range 8).map ((b + 1) % 4096 * 8 + ·)

def State.pfxAt (s : State) (i : Nat) : PfxEntry := tget {} s.pfx.table i

/-- R395: an entry hits a hash. -/
def PfxEntry.hits (e : PfxEntry) (hash tenant depth : Nat) : Bool :=
  e.valid && !e.orphan && e.hash.toNat == hash && e.tenant == tenant && e.depth == depth

/-- R395: the entry that a hash hits. -/
def State.pfxHit (s : State) (hash tenant depth : Nat) : Option Nat :=
  (places hash).find? fun i => (s.pfxAt i).hits hash tenant depth

/-- The entries a chain of hashes hits, from depth `d`, up to its first miss. -/
def State.chain (s : State) (tenant : Nat) : Nat → List Nat → List Nat
  | _, [] => []
  | d, h :: r =>
    match s.pfxHit h tenant d with
    | some i => i :: s.chain tenant (d + 1) r
    | none => []

/-- R395: the entries that the lookup of a hash reads: in search order up to the one it hits. -/
def State.searched (s : State) (hash tenant depth : Nat) : List Nat :=
  let miss := (places hash).takeWhile fun i => !(s.pfxAt i).hits hash tenant depth
  miss ++ ((places hash).drop miss.length).take 1

/-- R474: an entry with an uncorrectable error that the lookups of some hashes, from depth `d` on, would read. -/
def State.badEntry (s : State) (tenant : Nat) : Nat → List Nat → Check
  | _, [] => none
  | d, h :: r =>
    match (s.searched h tenant d).find? fun i => s.pfx.bad.contains i with
    | some i => some (stEccUncorr, i)
    | none => s.badEntry tenant (d + 1) r

/-- The 16-byte hashes in a tensor. -/
def hashesOf (bs : List Byte) : List Nat := (List.range (bs.length / 16)).map fun i => leAt bs (16 * i) 16

/-- R393: the tenant key of the job is loaded. -/
def State.keyCheck (s : State) (j : Nat) : Check := need (tget false s.pfx.keyValid (s.pfxTenant j)) stStructure 0

/-- R396: the entry to evict: REFS 0 and oldest LAST_USE, ties to the lower entry. -/
def State.victim (s : State) (hash : Nat) : Option Nat :=
  ((places hash).filter fun i => (s.pfxAt i).refs == 0).foldl (fun best i =>
    match best with
    | none => some i
    | some b =>
      let (x, y) := ((s.pfxAt i).lastUse, (s.pfxAt b).lastUse)
      if x < y || (x == y && decide (i < b)) then some i else some b) none

/-- R396, PREFIX_EVICT: a place for an insert: an empty entry, or the victim, whose block is freed. -/
def State.makePlace (s : State) (hash : Nat) : Option (State × Nat) :=
  match (places hash).find? fun i => !(s.pfxAt i).valid with
  | some i => some (s, i)
  | none =>
    (s.victim hash).map fun i =>
      let e := s.pfxAt i
      let s1 := { s with pfx := { s.pfx with table := tset {} s.pfx.table i {}, cntEvict := s.pfx.cntEvict + 1 } }
      ((s1.pfxFree e.job [e.handle.toNat]).pfxEvt 2, i)

/-- One reference less; an orphan without references is freed (R393, R404). -/
def State.dropRef (s : State) (handle : Nat) : State :=
  match s.pfx.table.find? fun e => e.2.valid && e.2.handle.toNat == handle && e.2.refs != 0 with
  | none => s
  | some (i, e) =>
    if e.refs = 1 && e.orphan then State.pfxFree { s with pfx := { s.pfx with table := tset {} s.pfx.table i {} } } e.job [handle]
    else { s with pfx := { s.pfx with table := tset {} s.pfx.table i { e with refs := e.refs - 1 } } }

/-! ## HASH, LOOKUP, INSERT -/

/-- Writes 32-bit words from the start of slot 7. -/
def State.pfxOut (s : State) (c : Cmd) (ws : List Nat) : State :=
  s.storeAll ((s.slotTensor c 7).writeAt 0 ws.length (ws.flatMap (leBytes 4)))

/-- 64-bit and 128-bit numbers as INT32 words, low first. -/
def words32 (n v : Nat) : List Nat := (List.range n).map fun i => v / 2 ^ (32 * i) % 2 ^ 32

/-- The checks of PREFIX_HASH, in order. -/
def State.prefixHashChecks (s : State) (c : Cmd) : List Check :=
  let b := s.params c
  let t := s.slotTensor c 0
  let n := t.size / 64
  [zeroParams b (offsets 16 63)] ++ s.checkSlot c 0 [0xA] (fun t => t.exts.length == 1) ++
    s.checkSlot c 7 [0xA] (fun o => decide (4 * n ≤ o.size)) ++
    [s.keyCheck c.job, s.overlapCheck c 7] ++ s.eccSlots c [0] [7]

/-- HASH (R392). -/
def prefixHash (s : State) : State :=
  s.withHead 9 0x01 fun s c =>
    let b := s.params c
    let t := s.slotTensor c 0
    let n := t.size / 64
    s.orFail c (s.prefixHashChecks c) fun s =>
      let blocks := (chunksOf 256 (n + 1) (t.read s.mem)).take n
      let hs := blockKeys (tget [] s.pfx.keys (s.pfxTenant c.job)) (slice b 0 16) blocks
      (s.pfxOut c (hs.flatMap fun h => words32 4 (leNat h))).complete c stOk 0

def execPrefixHash (s : State) : Result := .next (prefixHash s)

/-- The checks of PREFIX_LOOKUP, in order. -/
def State.prefixLookupChecks (s : State) (c : Cmd) : List Check :=
  let b := s.params c
  let hs := hashesOf ((s.slotTensor c 1).read s.mem)
  let hit := s.chain (s.pfxTenant c.job) 0 hs
  [zeroParams b (offsets 0 63)] ++ s.checkSlot c 1 [0xA] (fun _ => true) ++
    s.checkSlot c 7 [0xA] (fun o => decide (1 + 2 * hit.length ≤ o.size)) ++
    [s.keyCheck c.job, s.overlapCheck c 7] ++ s.eccSlots c [1] [7] ++ [s.badEntry (s.pfxTenant c.job) 0 (hs.take (hit.length + 1))]

/-- LOOKUP (R395, R398). -/
def prefixLookup (s : State) : State :=
  s.withHead 9 0x02 fun s c =>
    let hs := hashesOf ((s.slotTensor c 1).read s.mem)
    let hit := s.chain (s.pfxTenant c.job) 0 hs
    s.orFail c (s.prefixLookupChecks c) fun s =>
      let s1 := if hit.length < hs.length then { s with pfx := { s.pfx with cntMiss := s.pfx.cntMiss + 1 } } else s
      (s1.pfxOut c (hit.length :: hit.flatMap fun i => words32 2 (s.pfxAt i).handle.toNat)).complete c stOk 0

def execPrefixLookup (s : State) : Result := .next (prefixLookup s)

/-- R398: inserts blocks from `k` on; the count inserted. -/
def State.insertBlocks (s : State) (j slot nshared : Nat) : Nat → List Nat → State × Nat
  | k, [] => (s, k)
  | k, h :: r =>
    let tenant := s.pfxTenant j
    if (s.pfxHit h tenant (nshared + k)).isSome then (s, k)
    else
      match s.makePlace h with
      | none => (s, k)
      | some (s1, i) =>
        let e : PfxEntry :=
          { hash := BitVec.ofNat 128 h, handle := BitVec.ofNat 64 (s.reqGet j slot (64 + 8 * (nshared + k)) 8), depth := nshared + k
            tenant, job := j, valid := true, refs := 1, lastUse := s.now }
        State.insertBlocks { s1 with pfx := { s1.pfx with table := tset {} s1.pfx.table i e } } j slot nshared (k + 1) r

/-- The checks of PREFIX_INSERT, in order. -/
def State.prefixInsertChecks (s : State) (c : Cmd) : List Check :=
  let b := s.params c
  let slot := leAt b 0 2
  let n := leAt b 4 4
  let hs := (hashesOf ((s.slotTensor c 1).read s.mem)).take n
  let nshared := s.reqGet c.job slot 24 2
  [zeroParams b ([2, 3] ++ offsets 8 63)] ++ s.checkSlot c 1 [0xA] (fun t => decide (4 * n ≤ t.size)) ++
    s.checkSlot c 7 [0xA] (fun o => decide (1 ≤ o.size)) ++ [s.keyCheck c.job] ++ s.reqChecks c slot ++
    [need (decide (nshared + n ≤ s.reqGet c.job slot 22 2)) stBounds slot, s.overlapCheck c 7] ++ s.eccSlots c [1] [7] ++
    [s.badEntry (s.pfxTenant c.job) nshared (hs.take ((s.insertBlocks c.job slot nshared 0 hs).2 + 1))]

/-- INSERT (R396, R398). -/
def prefixInsert (s : State) : State :=
  s.withHead 9 0x03 fun s c =>
    let b := s.params c
    let slot := leAt b 0 2
    let n := leAt b 4 4
    let hs := (hashesOf ((s.slotTensor c 1).read s.mem)).take n
    let nshared := s.reqGet c.job slot 24 2
    s.orFail c (s.prefixInsertChecks c) fun s =>
      let (s1, k) := s.insertBlocks c.job slot nshared 0 hs
      ((s1.reqSet c.job slot 24 2 (nshared + k)).pfxOut c [k]).complete c stOk 0

def execPrefixInsert (s : State) : Result := .next (prefixInsert s)

/-! ## ADMIT, R400 -/

/-- A row of Table 15-4. -/
structure AdmitRow where
  bytes : List Byte
  deadline : Nat
  slot : Nat
  prompt : Nat
  maxNew : Nat
  hfirst : Nat
  hcount : Nat
  deriving DecidableEq, Repr

def admitRow (b : List Byte) : AdmitRow :=
  { bytes := b, deadline := leAt b 8 8, slot := leAt b 18 2, prompt := leAt b 20 4, maxNew := leAt b 24 4, hfirst := leAt b 28 4
    hcount := leAt b 32 4 }

/-- What a row comes to: refused with a reason, or admitted with the entries it hits. -/
structure AdmitResult where
  row : AdmitRow
  reason : Nat
  hits : List Nat
  owned : Nat
  missed : Bool
  deriving DecidableEq, Repr

/-- R400: one row, after the rows decided so far. The finish time of a job that grants no prefill tokens is left open. -/
def State.admitOne (s : State) (c : Cmd) (hs : List Nat) (stepNs prefill : Nat) (done : List AdmitResult) (r : AdmitRow) : AdmitResult :=
  let limit := min (r.prompt / 64) r.hcount
  let own := (hs.drop r.hfirst).take limit
  let hits := s.chain (s.pfxTenant c.job) 0 own
  let n := ceilDiv (r.prompt + r.maxNew) 64
  let owned := n - hits.length
  let earlier := ((done.filter fun x => x.reason == 0).map (·.owned)).foldl (· + ·) 0
  let rest := r.prompt - 64 * hits.length
  let chunks := if prefill = 0 then (Config.unboundedChunks rest).toNat else ceilDiv rest prefill
  let finish := s.now + (chunks + r.maxNew) * stepNs
  let taken := s.reqState c.job r.slot != reqFree || done.any fun x => x.reason == 0 && x.row.slot == r.slot
  let reason :=
    if taken then 3
    else if s.pfxMaxBlk c.job < n then 4
    else if s.poolFree (s.pfxPool c.job) < owned + s.pfxResv c.job + earlier then 1
    else if r.deadline < finish then 2
    else 0
  { row := r, reason, hits, owned, missed := decide (hits.length < own.length) }

/-- R400: the record of an admitted row. -/
def State.admitRecord (s : State) (j : Nat) (x : AdmitResult) : State :=
  let a := s.reqAddr j x.row.slot
  let c := x.hits.length
  let hit (s : State) (i : Nat) : State :=
    { s with pfx := { s.pfx with table := tmod {} s.pfx.table i fun e => { e with refs := e.refs + 1, lastUse := s.now } } }
  let pinned := (x.row.bytes.getD 36 0).toNat % 2
  let s1 := s.storeAll [(a, slice x.row.bytes 0 18), (a + 18, leBytes 1 reqAdmitted ++ leBytes 1 pinned ++ [0, 0]),
    (a + 22, leBytes 2 c ++ leBytes 2 c ++ leBytes 2 x.owned ++ leBytes 4 0 ++ leBytes 8 s.now),
    (a + 64, x.hits.flatMap fun i => leBytes 8 (s.pfxAt i).handle.toNat)]
  x.hits.foldl hit s1

/-- R395, R400: the hashes that the lookups of a row come to: its hits and the first miss. -/
def State.admitLooked (s : State) (c : Cmd) (hs : List Nat) (r : AdmitRow) : List Nat :=
  let own := (hs.drop r.hfirst).take (min (r.prompt / 64) r.hcount)
  own.take ((s.chain (s.pfxTenant c.job) 0 own).length + 1)

/-- The checks of ADMIT, in order. -/
def State.admitChecks (s : State) (c : Cmd) : List Check :=
  let b := s.params c
  let rows := (chunksOf 64 257 ((s.slotTensor c 0).read s.mem)).map admitRow
  let hs := hashesOf ((s.slotTensor c 1).read s.mem)
  let idx := List.range rows.length
  let row i := rows.getD i (admitRow [])
  [zeroParams b (offsets 12 63)] ++ s.checkSlot c 0 [0xA] (fun t => t.size % 16 == 0 && decide (t.size / 16 ≤ 256)) ++
    s.checkSlot c 1 [0xA] (fun _ => true) ++ s.checkSlot c 7 [0xA] (fun o => decide (2 * rows.length ≤ o.size)) ++
    (idx.map fun i => ((offsets 37 63).find? fun k => (row i).bytes.getD k 0 != 0).map fun k => (stBadOpcode, 64 * i + k)) ++
    (idx.map fun i => if 2 ≤ leAt (row i).bytes 36 1 then some (stBadOpcode, 64 * i + 36) else none) ++
    [s.keyCheck c.job] ++
    (idx.map fun i => need (decide ((row i).slot < s.pfxNreq c.job) && decide ((row i).hfirst + (row i).hcount ≤ hs.length)) stBounds i) ++
    [s.overlapCheck c 7] ++ s.eccSlots c [0, 1] [7] ++
    (idx.map fun i => s.badEntry (s.pfxTenant c.job) 0 (s.admitLooked c hs (row i))) ++
    idx.map fun i => s.reqReadable c.job (row i).slot

/-- ADMIT (R400). -/
def admitRequest (s : State) : State :=
  s.withHead 9 0x04 fun s c =>
    let b := s.params c
    let rows := (chunksOf 64 257 ((s.slotTensor c 0).read s.mem)).map admitRow
    let hs := hashesOf ((s.slotTensor c 1).read s.mem)
    s.orFail c (s.admitChecks c) fun s =>
      let prefill := leAt b 8 4
      let rs : List AdmitResult := rows.foldl (fun done r => done ++ [s.admitOne c hs (leAt b 0 8) prefill done r]) []
      let s1 := (rs.filter fun x => x.reason == 0).foldl (fun s x => s.admitRecord c.job x) s
      let refused := (rs.filter fun x => x.reason != 0).length
      let s2 := { s1 with pfx := { s1.pfx with
        cntHit := s1.pfx.cntHit + (rs.map fun (x : AdmitResult) => x.hits.length).foldl (· + ·) 0
        cntMiss := s1.pfx.cntMiss + (rs.filter fun (x : AdmitResult) => x.missed).length, cntRefused := s1.pfx.cntRefused + refused } }
      let s3 := if refused = 0 then s2 else s2.pfxEvt 1
      let word x : List Nat := if (x : AdmitResult).reason = 0 then [0, x.hits.length] else [stAdmissionRefused + 256 * x.reason, 0]
      (s3.pfxOut c (rs.flatMap word)).complete c stOk 0

def execAdmitRequest (s : State) : Result := .next (admitRequest s)

/-! ## GROW, R399 -/

/-- The checks of GROW, in order. -/
def State.growChecks (s : State) (c : Cmd) : List Check :=
  let b := s.params c
  let slot := leAt b 0 2
  let n := leAt b 4 4
  let p := s.pfxPool c.job
  let q := s.pool p
  [zeroParams b ([2, 3] ++ offsets 8 63)] ++ s.reqChecks c slot ++
    [need (decide (1 ≤ n) && decide (n ≤ 256) && decide (n ≤ s.reqGet c.job slot 26 2) &&
      decide (s.reqGet c.job slot 22 2 + n ≤ s.pfxMaxBlk c.job) && q.en && q.job == c.job && decide (n ≤ q.count)) stBounds slot]

/-- GROW: one ALLOC of the request's pool, with the request's deadline. -/
def grow (s : State) : State :=
  s.withHead 9 0x05 fun s c =>
    let b := s.params c
    let slot := leAt b 0 2
    let n := leAt b 4 4
    let p := s.pfxPool c.job
    s.orFail c (s.growChecks c) fun s =>
      (s.addLive c true).waitPool p
        { requester := engCode 9, at' := s.now, count := n, deadline := s.reqDeadline c.job slot, cmd := some c }

def execGrow (s : State) : Result := .next (grow s)

/-! ## Retirement, R404 -/

/-- R404: what retirement frees, unless the record is pinned. -/
def State.releaseReq (s : State) (j slot : Nat) : State :=
  let nblk := s.reqGet j slot 22 2
  let nsh := s.reqGet j slot 24 2
  let s1 := s.pfxFree j (s.reqHandles j slot nsh nblk)
  ((s.reqHandles j slot 0 nsh).foldl State.dropRef s1).reqSet j slot 18 1 reqFree

/-- R404: retires a request. -/
def State.retireReq (s : State) (j slot status : Nat) : State :=
  let a := s.reqAddr j slot
  let s1 := s.storeAll [(a + 18, leBytes 1 reqRetired), (a + 20, leBytes 1 status), (a + 26, leBytes 2 0), (a + 40, leBytes 8 s.now)]
  let s2 := if status = stDeadline then State.pfxEvt { s1 with pfx := { s1.pfx with cntDeadline := s1.pfx.cntDeadline + 1 } } 0 else s1
  if s.reqFlag j slot 0 then s2 else s2.releaseReq j slot

/-- The checks of RETIRE, in order. -/
def State.retireChecks (s : State) (c : Cmd) : List Check :=
  let b := s.params c
  let slot := leAt b 0 2
  let st := s.reqState c.job slot
  [zeroParams b (offsets 2 63), need (st != reqInStep && st != reqFree || decide (s.pfxNreq c.job ≤ slot)) stStructure slot] ++
    s.reqChecks c slot

/-- RETIRE (R404): of a request that is not FREE and not in a step. -/
def retire (s : State) : State :=
  s.withHead 9 0x08 fun s c =>
    let b := s.params c
    let slot := leAt b 0 2
    s.orFail c (s.retireChecks c) fun s => (s.retireReq c.job slot 0).complete c stOk 0

def execRetire (s : State) : Result := .next (retire s)

/-- The checks of PIN, in order. -/
def State.pinChecks (s : State) (c : Cmd) : List Check :=
  let b := s.params c
  let slot := leAt b 0 2
  let v := leAt b 2 1
  [if 2 ≤ v then some (stBadOpcode, 2) else none, zeroParams b (offsets 3 63)] ++ s.reqChecks c slot

/-- PIN (R404): a PIN that clears the flag releases a retired request. -/
def pin (s : State) : State :=
  s.withHead 9 0x09 fun s c =>
    let b := s.params c
    let slot := leAt b 0 2
    let v := leAt b 2 1
    s.orFail c (s.pinChecks c) fun s =>
      let s1 := s.reqSet c.job slot 19 1 (s.reqGet c.job slot 19 1 / 2 * 2 + v)
      (if v = 0 && s.reqState c.job slot == reqRetired then s1.releaseReq c.job slot else s1).complete c stOk 0

def execPin (s : State) : Result := .next (pin s)

/-- REQUEST_DEADLINE_RETIRE (R403). -/
def requestDeadlineRetire (j slot : Nat) (s : State) : State :=
  if decide (slot < s.pfxNreq j) && s.reqState j slot == reqAdmitted &&
      decide (s.reqDeadline j slot < s.now) then s.retireReq j slot stDeadline
  else s

def execRequestDeadlineRetire (job request : Nat) (s : State) : Result :=
  if job < 8 then .next (requestDeadlineRetire job request s) else noResource "job slot" job

/-! ## Steps, R401, R402 -/

/-- Fields of a row word. -/
def rowSlot (w : Nat) : Nat := field w 15 0
def rowPrefill (w : Nat) : Nat := field w 30 16
def rowFinal (w : Nat) : Bool := bitOf w 31

def State.stepCtx (s : State) (i : Nat) : StepCtx := tget {} s.pfx.steps i

/-- R401: a named request already RETIRED with DEADLINE. -/
def State.rowVoid (s : State) (j w : Nat) : Bool :=
  s.reqState j (rowSlot w) == reqRetired && s.reqGet j (rowSlot w) 20 1 == stDeadline

/-- R401: the breaches of a list of row words, with the row. -/
def State.stepCheck (s : State) (j budget : Nat) (ws : List Nat) : List Check :=
  let idx := List.range ws.length
  let w i := ws.getD i 0
  let decode i := rowPrefill (w i) == 0
  let gen i := s.reqFlag j (rowSlot (w i)) 1
  let decodes := (idx.filter decode).length
  let sumTo i := ((ws.take (i + 1)).map rowPrefill).foldl (· + ·) 0
  let waiting := (List.range (s.pfxNreq j)).any fun r =>
    s.reqState j r == reqAdmitted && s.reqFlag j r 1 && !(ws.any fun x => rowSlot x == r)
  let bad (f : Nat → Bool) : Check := (idx.find? f).map fun i => (stStructure, i)
  [bad fun i => decode i != gen i,
   bad fun i => !decode i && (idx.drop (i + 1)).any decode,
   -- decode rows alone may exceed the budget
   bad fun i => decide (budget < (if decode i then ((idx.take (i + 1)).filter decode).length else decodes + sumTo i)),
   bad fun i => !decode i && waiting,
   bad fun i => s.reqState j (rowSlot (w i)) == reqFree || s.reqState j (rowSlot (w i)) == reqInStep]

/-- The checks of STEP_BEGIN, in order. -/
def State.stepBeginChecks (s : State) (c : Cmd) : List Check :=
  let b := s.params c
  let x := leAt b 0 1
  let ws := (s.slotTensor c 0).words s.mem
  let idx := List.range ws.length
  [zeroParams b ([1, 2, 3] ++ offsets 8 63)] ++ s.checkSlot c 0 [0xA] (fun _ => true) ++ s.eccSlots c [0] [] ++
    (idx.map fun i => need (decide (rowSlot (ws.getD i 0) < s.pfxNreq c.job)) stBounds i) ++
    [need (decide (x < 16) && !(s.stepCtx x).busy) stStructure 0] ++ s.stepCheck c.job (leAt b 4 4) ws ++
    ws.map fun w => s.reqReadable c.job (rowSlot w)

/-- STEP_BEGIN (R401). -/
def stepBegin (s : State) : State :=
  s.withHead 9 0x06 fun s c =>
    let b := s.params c
    let x := leAt b 0 1
    let ws := (s.slotTensor c 0).words s.mem
    s.orFail c (s.stepBeginChecks c) fun s =>
      let ctx : StepCtx := { busy := true, job := c.job, rows := ws.map (BitVec.ofNat 32), void := ws.map (s.rowVoid c.job) }
      let live := ws.filter fun w => !s.rowVoid c.job w
      let s1 := live.foldl (fun s w => s.reqSet c.job (rowSlot w) 18 1 reqInStep) s
      State.complete { s1 with pfx := { s1.pfx with steps := tset {} s1.pfx.steps x ctx } } c stOk 0

def execStepBegin (s : State) : Result := .next (stepBegin s)

/-- R402: settles one row: the state after it and its two emit words. -/
def State.settleRow (s : State) (j : Nat) (abort void : Bool) (w token : Nat) : State × List Nat :=
  let r := rowSlot w
  let none' := 0xFFFFFFFF
  if void then (s, [none', stDeadline])
  else if s.reqDeadline j r < s.now then (s.retireReq j r stDeadline, [none', stDeadline])
  else
    let s1 := s.reqSet j r 18 1 reqAdmitted
    if !abort && (rowPrefill w == 0 || rowFinal w) then
      ((s1.reqSet j r 28 4 (s.reqGet j r 28 4 + 1)).reqSet j r 19 1 (s.reqGet j r 19 1 ||| 2), [token, 0x100])
    else (s1, [none', 0])

/-- The checks of STEP_COMMIT, in order. -/
def State.stepCommitChecks (s : State) (c : Cmd) : List Check :=
  let b := s.params c
  let x := leAt b 0 1
  let ctx := s.stepCtx x
  let ws := ctx.rows.map (·.toNat)
  [if 2 ≤ leAt b 1 1 then some (stBadOpcode, 1) else none, zeroParams b (offsets 2 63),
     need (decide (x < 16) && ctx.busy && ctx.job == c.job) stStructure 0] ++
    s.checkSlot c 0 [0xA] (fun t => t.size == ws.length) ++ s.checkSlot c 7 [0xA] (fun o => decide (2 * ws.length ≤ o.size)) ++
    [s.overlapCheck c 7] ++ s.eccSlots c [0] [7] ++ ws.map fun w => s.reqReadable c.job (rowSlot w)

/-- STEP_COMMIT (R402). -/
def stepCommit (s : State) : State :=
  s.withHead 9 0x07 fun s c =>
    let b := s.params c
    let x := leAt b 0 1
    let ctx := s.stepCtx x
    let ws := ctx.rows.map (·.toNat)
    let abort := bitOf (leAt b 1 1) 0
    s.orFail c (s.stepCommitChecks c) fun s =>
      let toks := (s.slotTensor c 0).words s.mem
      let (s1, out) := (List.range ws.length).foldl (fun (a : State × List Nat) i =>
        let (s', o) := a.1.settleRow c.job abort (ctx.void.getD i false) (ws.getD i 0) (toks.getD i 0)
        (s', a.2 ++ o)) (s, [])
      State.complete (State.pfxOut { s1 with pfx := { s1.pfx with steps := tset {} s1.pfx.steps x {} } } c out) c stOk 0

def execStepCommit (s : State) : Result := .next (stepCommit s)

/-! ## Tenant keys, R393 -/

/-- TENANT_KEY_LOAD: after the command that runs in the prefix engine has committed. -/
def tenantKeyLoad (k : Nat) (s : State) : State := State.settleLoads { s with pfx := { s.pfx with loads := s.pfx.loads ++ [k] } }

def execTenantKeyLoad (key : Nat) (s : State) : Result :=
  if key < 16 then .next (tenantKeyLoad key s) else noResource "tenant key" key

end Sys2Proof.Machine
end

