-- ==== Sys2Proof/Machine/Tin.lean ====
section
/-!
DEFINITION. Tin (13_memory_tiers.md R357 to R364): the object store, its five commands and the translation layer's background
work. What the flash medium answered (a block that failed, a page whose LDPC decoding failed) is the environment's.
-/

namespace Sys2Proof.Machine

/-! ## Objects and handles, R357 -/

def tinPage : Nat := 4096

/-- R357: a handle's object index, namespace and generation; bits [63:48] are zero. -/
def tinHandle (index ns gen : Nat) : Nat := index % 2 ^ 24 + ns % 256 * 2 ^ 24 + gen % 65536 * 2 ^ 32

/-- The object at a namespace and index, live or deleted. -/
def State.tinAt (s : State) (ns index : Nat) : Option TinObject := s.tin.objects.find? fun o => o.ns == ns && o.index == index

/-- Replaces the object at its place, or adds it. -/
def State.putTin (s : State) (o : TinObject) : State :=
  { s with tin := { s.tin with objects := s.tin.objects.filter (fun x => !(x.ns == o.ns && x.index == o.index)) ++ [o] } }

/-- The namespace of a job slot. -/
def State.tinNs (s : State) (j : Nat) : Nat := field (s.st (0x190100 + 8 * j)) 7 0

/-- R364: what is wrong with a handle and a range of its object. -/
def State.tinRange (s : State) (c : Cmd) (h off len : Nat) : Check :=
  match s.tinAt (field h 31 24) (field h 23 0) with
  | none => some (stBounds, 0)
  | some o =>
    if field h 31 24 != s.tinNs c.job || field h 63 48 != 0 || !o.live then some (stBounds, 0)
    else if o.gen != field h 47 32 then some (stCheckMismatch, 0)
    else need (decide (off + len ≤ o.size)) stBounds 0

/-- The object a checked handle names. -/
def State.tinObject (s : State) (h : Nat) : TinObject :=
  (s.tinAt (field h 31 24) (field h 23 0)).getD ⟨0, 0, 0, false, 0, [], []⟩

/-- R363: no command runs while Tin is not mounted. -/
def State.withTin (s : State) (op : Nat) (body : State → Cmd → State) : State :=
  s.withHead 10 op fun s c =>
    if s.tin.state = 2 || s.tin.state = 3 then body s c else s.complete c stEngineAbsent 0

/-- R363: read-only, or a full capacity. -/
def State.tinWritable (s : State) : Check := need (s.tin.state == 2 && decide (s.tin.used < s.tin.cap)) stBounds 0

/-! ## Flash blocks, R361, R362 -/

/-- R361: bytes of a stripe unit, and the data units of a stripe. -/
def tinUnitBytes : Nat := 16384
def tinLanes : Nat := 15

/-- R361: the channel of a unit. DESIGN CHOICE (notes/assumptions/26.md): the spec does not say which channel holds which unit of a
stripe. -/
def TinUnit.channel (u : TinUnit) : Nat := (u.stripe + u.lane) % 16

/-- The data unit an object's byte lies in. -/
def TinObject.unitAt (o : TinObject) (byte : Nat) : TinUnit :=
  { ns := o.ns, index := o.index, stripe := byte / tinUnitBytes / tinLanes, lane := byte / tinUnitBytes % tinLanes }

/-- The units a range of an object stands in: its data units, then the parity units of their stripes. -/
def TinObject.units (o : TinObject) (off len : Nat) : List TinUnit :=
  if len = 0 then []
  else
    let first := off / tinUnitBytes
    let data := (List.range ((off + len - 1) / tinUnitBytes + 1 - first)).map fun k => o.unitAt ((first + k) * tinUnitBytes)
    data ++ ((data.map (·.stripe)).eraseDups).map fun st => { ns := o.ns, index := o.index, stripe := st, lane := tinLanes }

def Tin.block (t : Tin) (n : Nat) : TinBlock := tget {} t.blocks n
def Tin.modBlock (t : Tin) (n : Nat) (f : TinBlock → TinBlock) : Tin := { t with blocks := tmod {} t.blocks n f }

/-- R362: a block the factory marked, or that is retired, is not used. -/
def Tin.usable (t : Tin) (n : Nat) : Bool := !Config.tinFactoryBad n && !(t.block n).retired

/-- The usable blocks of a channel. -/
def Tin.channelBlocks (t : Tin) (ch : Nat) : List Nat := ((List.range Config.tinBlocks).map fun k => ch + 16 * k).filter t.usable

/-- The usable blocks. -/
def Tin.allBlocks (t : Tin) : List Nat := (List.range 16).flatMap t.channelBlocks

/-- The block of least erase count of some. -/
def Tin.coldest (t : Tin) (ns : List Nat) : Option Nat :=
  ns.foldl (fun b n =>
    match b with
    | none => some n
    | some m => if (t.block n).erases < (t.block m).erases then some n else some m) none

/-- R362: where new data of a channel goes: on in the block being filled, else the free block of lowest erase count. -/
def Tin.target (t : Tin) (ch : Nat) : Option Nat :=
  let ns := t.channelBlocks ch
  (ns.find? fun n => (t.block n).filled != 0 && decide ((t.block n).filled < Config.tinBlockUnits)).orElse fun _ =>
    t.coldest (ns.filter fun n => (t.block n).filled == 0)

/-- An erase: the block is free, and its reads are counted anew. -/
def TinBlock.erase (b : TinBlock) : TinBlock := { b with erases := b.erases + 1, reads := 0, filled := 0, units := [] }

/-- R362, R363: a block that failed is retired; Tin is read-only when the spares run out. -/
def Tin.retire (t : Tin) (n : Nat) : Tin :=
  let left := t.spare - 1
  { t.modBlock n (fun b => { b with retired := true, units := [] }) with
    spare := left, state := if left = 0 && t.state = 2 then 3 else t.state }

/-- A block that failed an erase is retired; another is erased. -/
def Tin.free (t : Tin) (failed : List Nat) (n : Nat) : Tin :=
  if failed.contains n then t.retire n else t.modBlock n TinBlock.erase

/-- The place of a unit is given up; a block that holds no unit any more is erased. -/
def Tin.drop (t : Tin) (failed : List Nat) (u : TinUnit) : Tin :=
  match t.blocks.find? fun b => b.2.units.contains u with
  | none => t
  | some (n, b) =>
    let left := b.units.filter (· != u)
    if left.isEmpty then t.free failed n else t.modBlock n fun x => { x with units := left }

/-- R362: a unit is written; a block that fails the program is retired, and what it held is written again elsewhere. -/
def Tin.put (failed : List Nat) : Nat → Tin → TinUnit → Tin
  | 0, t, _ => t
  | fuel + 1, t, u =>
    match t.target u.channel with
    | none => t
    | some n =>
      if failed.contains n then ((t.block n).units ++ [u]).foldl (Tin.put failed fuel) (t.retire n)
      else t.modBlock n fun b => { b with units := b.units ++ [u], filled := b.filled + 1 }

/-- Units written elsewhere than they stood. -/
def Tin.rewrite (t : Tin) (failed : List Nat) (us : List TinUnit) : Tin :=
  us.foldl (fun t u => (t.drop failed u).put failed (failed.length + 1) u) t

/-- Units whose object has gone; a block that fails its erase is retired (R362). -/
def Tin.forget (t : Tin) (failed : List Nat) (o : TinObject) : Tin := (o.units 0 o.size).foldl (fun t u => t.drop failed u) t

/-- Reads of the blocks that hold some units. -/
def Tin.countReads (t : Tin) (us : List TinUnit) : Tin :=
  { t with blocks := t.blocks.map fun b => (b.1, if b.2.units.any us.contains then { b.2 with reads := b.2.reads + 1 } else b.2) }

/-- R362: a block is moved: what it holds goes elsewhere, and it is erased. -/
def Tin.move (t : Tin) (failed : List Nat) (n : Nat) : Tin :=
  let us := (t.block n).units
  let t1 := t.modBlock n fun b => { b with filled := max b.filled Config.tinBlockUnits, units := [] }
  let t2 := us.foldl (Tin.put failed (failed.length + 1)) t1
  { t2.free failed n with cntMove := t.cntMove + 1 }

/-- TIN_HEALTH.WEAR: the mean erase count in percent of the rated endurance, rounded down (DESIGN CHOICE: notes/assumptions/26.md). -/
def Tin.wear (t : Tin) : Nat :=
  let ns := t.allBlocks
  (ns.map fun n => (t.block n).erases).sum * 100 / max 1 (ns.length * Config.tinEndurance)

/-- The words of a rank-1 INT32 output slot 7. -/
def State.tinOut (s : State) (c : Cmd) (ws : List Nat) : State :=
  s.store (localOf (s.slotDesc c 7).base) (ws.flatMap (leBytes 4))

/-! ## Commands, R358 to R361 -/

/-- A free object index of a namespace: the spec does not say which, so the search starts at a free value. -/
def State.freeIndex (s : State) (ns start : Nat) : Nat :=
  let live := (s.tin.objects.filter fun o => o.ns == ns && o.live).map (·.index)
  ((List.range (live.length + 1)).map fun k => (start + k) % 2 ^ 24).find? (fun i => !live.contains i) |>.getD 0

/-- The checks of CREATE, in order. -/
def State.createChecks (s : State) (c : Cmd) : List Check :=
  let b := s.params c
  let size := leAt b 8 8
  let ns := s.tinNs c.job
  [zeroParams b (offsets 0 7 ++ offsets 16 63), need (size % tinPage == 0) stAlign 0] ++
    s.checkSlot c 7 [0xA] (fun t => t.exts.length == 1 && decide (2 ≤ t.size)) ++
    [need (decide (size ≤ 2 ^ 40)) stBounds 0, s.tinWritable, need (decide (s.tin.used + size ≤ s.tin.cap)) stBounds 0,
     need (decide ((s.tin.objects.filter fun o => o.ns == ns && o.live).length < 2 ^ 24)) stBounds 0]

/-- CREATE. -/
def create (s : State) : State :=
  s.withTin 0x01 fun s c =>
    let b := s.params c
    let size := leAt b 8 8
    let ns := s.tinNs c.job
    s.orFail c (s.createChecks c) fun s =>
      let held := (s.tin.objects.filter fun o => o.ns == ns && o.live).map (·.index)
      let i := s.freeIndex ns ((Config.tinIndex held).toNat % 2 ^ 24)
      let gen := ((s.tinAt ns i).map (·.gen)).getD ((Config.tinGeneration i).toNat % 65536)
      let s1 := State.putTin { s with tin := { s.tin with used := s.tin.used + size } }
        { ns, index := i, gen, live := true, size, data := [] }
      let h := tinHandle i ns gen
      (s1.tinOut c [h % 2 ^ 32, h / 2 ^ 32]).complete c stOk 0

def execCreate (s : State) : Result := .next (create s)

/-- The checks WRITE and READ share. -/
def State.tinMoveChecks (s : State) (c : Cmd) (most : Nat) : List Check :=
  let b := s.params c
  let off := leAt b 8 8
  let len := leAt b 16 8
  [zeroParams b (offsets 24 63), need (off % tinPage == 0 && len % tinPage == 0) stAlign 0] ++
  s.checkSlot c 0 anyFmt (fun t => t.exts.length == 1 && (if t.size = 0 then 0 else t.rowLen) == len) ++
  [need (decide (len ≤ most)) stBounds 0, s.tinRange c (leAt b 0 8) off len]

/-- WRITE (R359, R361, R362): entirely old or entirely new; the blocks `failed` fail a program or an erase. -/
def tinWrite (failed : List Nat) (s : State) : State :=
  s.withTin 0x02 fun s c =>
    let b := s.params c
    let off := leAt b 8 8
    let len := leAt b 16 8
    s.orFail c (s.tinMoveChecks c (2 ^ 30) ++ [s.tinWritable] ++ s.eccSlots c [0] []) fun s =>
      let o := s.tinObject (leAt b 0 8)
      let bs := (s.slotTensor c 0).read s.mem
      let data := (bs.zip (List.range bs.length)).foldl (fun d x => tset 0 d (off + x.2) x.1) o.data
      let o' := { o with data, lost := o.lost.filter fun p => !inside (p * tinPage, tinPage) (off, len) }
      let s1 := s.putTin o'
      State.complete { s1 with tin := s1.tin.rewrite failed (o.units off len) } c stOk 0

def execTinWrite (failed : List Nat) (s : State) : Result := .next (tinWrite failed s)

/-- The pages of a range that cannot be decoded and that a second failed unit of their stripe leaves lost (R361); `failed` names the
pages whose LDPC decoding fails: stripe, lane, page of the unit. -/
def TinObject.pageFails (o : TinObject) (off len : Nat) (failed : List (Nat × Nat × Nat)) : List (Nat × Bool) :=
  ((failed.filter fun f => f.2.1 < tinLanes && f.2.2 < 4).map fun f =>
    ((f.1 * tinLanes + f.2.1) * 4 + f.2.2, failed.any fun g => g.1 == f.1 && g.2.1 != f.2.1)).eraseDups.filter fun x =>
      inside (x.1 * tinPage, tinPage) (off, len) && !o.lost.contains x.1

/-- READ (R360, R361): a page that cannot be decoded is rebuilt from parity and written elsewhere, or lost and marked; the blocks `bad` fail
the programs and erases that this takes (R362). A lost page is no error of a store of R474. -/
def tinRead (failed : List (Nat × Nat × Nat)) (bad : List Nat) (s : State) : State :=
  s.withTin 0x03 fun s c =>
    let b := s.params c
    let off := leAt b 8 8
    let len := leAt b 16 8
    s.orFail c (s.tinMoveChecks c (2 ^ 32) ++ s.eccSlots c [] [0]) fun s =>
      let o := s.tinObject (leAt b 0 8)
      let fails := o.pageFails off len failed
      let gone := (fails.filter (·.2)).map (·.1)
      let built := (fails.filter (!·.2)).map (·.1)
      let o' := { o with lost := o.lost ++ gone }
      let tin := (s.tin.countReads (o.units off len)).rewrite bad ((built.map fun p => o.unitAt (p * tinPage)).eraseDups)
      let s1 := State.putTin { s with tin := { tin with
        cntParity := s.tin.cntParity + built.length, cntLost := s.tin.cntLost + gone.length } } o'
      if o'.lost.any fun p => inside (p * tinPage, tinPage) (off, len) then s1.complete c stEccUncorr 0 true 0 false
      else
        (s1.storeAll ((s.slotTensor c 0).place ((List.range len).map fun i => tget 0 o.data (off + i)))).complete c stOk 0

def execTinRead (failed : List (Nat × Nat × Nat)) (bad : List Nat) (s : State) : Result := .next (tinRead failed bad s)

/-- DELETE (R357): the generation goes up; a block left empty is erased, and the blocks `failed` fail their erase (R362). -/
def tinDelete (failed : List Nat) (s : State) : State :=
  s.withTin 0x04 fun s c =>
    let b := s.params c
    s.orFail c [zeroParams b (offsets 8 63), s.tinRange c (leAt b 0 8) 0 0] fun s =>
      let o := s.tinObject (leAt b 0 8)
      let s1 := s.putTin { o with live := false, gen := (o.gen + 1) % 65536, size := 0, data := [], lost := [] }
      State.complete { s1 with tin := { s1.tin.forget failed o with used := s1.tin.used - o.size } } c stOk 0

def execTinDelete (failed : List Nat) (s : State) : Result := .next (tinDelete failed s)

/-- The checks of TIN_STAT, in order. -/
def State.tinStatChecks (s : State) (c : Cmd) : List Check :=
  let b := s.params c
  [zeroParams b (offsets 8 63)] ++
    s.checkSlot c 7 [0xA] (fun t => t.exts.length == 1 && decide (3 ≤ t.size)) ++ [s.tinRange c (leAt b 0 8) 0 0]

/-- STAT: size as two words, low first, then the generation (notes/assumptions/26.md). -/
def tinStat (s : State) : State :=
  s.withTin 0x05 fun s c =>
    let b := s.params c
    s.orFail c (s.tinStatChecks c) fun s =>
      let o := s.tinObject (leAt b 0 8)
      (s.tinOut c [o.size % 2 ^ 32, o.size / 2 ^ 32, o.gen]).complete c stOk 0

def execTinStat (s : State) : Result := .next (tinStat s)

/-! ## Background work, R362 -/

/-- The translation layer works while Tin is mounted. -/
def State.tinMounted (s : State) : Bool := s.tin.state == 2 || s.tin.state == 3

/-- The spread between the highest and the lowest erase count of usable blocks. -/
def Tin.spread (t : Tin) : Nat :=
  let es := t.allBlocks.map fun n => (t.block n).erases
  es.foldl max 0 - (es.min?).getD 0

/-- WEAR_LEVEL_MOVE: a spread of erase counts above 512 moves the coldest block, of those that hold data. -/
def wearLevelMove (failed : List Nat) (s : State) : State :=
  if s.tinMounted && decide (512 < s.tin.spread) then
    match s.tin.coldest (s.tin.allBlocks.filter fun n => !(s.tin.block n).units.isEmpty) with
    | some n => { s with tin := s.tin.move failed n }
    | none => s
  else s

def execWearLevelMove (failed : List Nat) (s : State) : Result := .next (wearLevelMove failed s)

/-- READ_DISTURB_MOVE: a block read 50,000 times since its last erase. -/
def readDisturbMove (block : Nat) (failed : List Nat) (s : State) : State :=
  if s.tinMounted && decide (50000 ≤ (s.tin.block block).reads) then { s with tin := s.tin.move failed block } else s

def execReadDisturbMove (block : Nat) (failed : List Nat) (s : State) : Result := .next (readDisturbMove block failed s)

/-- Powered time, in ns. -/
def State.poweredTime (s : State) : Nat := s.tin.powered + s.boot.sincePwrOk

/-- Seven days of powered time, in ns. -/
def patrolPeriod : Nat := 7 * 86400 * 1000000000

/-- RETENTION_PATROL: a block's patrol read, due once per seven days. Its units of the positions `weak` hold a page that needs more
than half its correction strength: they are moved, which moves no block. -/
def retentionPatrol (block : Nat) (weak failed : List Nat) (s : State) : State :=
  let b := s.tin.block block
  if s.tinMounted && decide (b.patrolAt + patrolPeriod ≤ s.poweredTime) then
    let us := (weak.eraseDups).filterMap fun k => b.units[k]?
    let t1 := s.tin.modBlock block fun x => { x with patrolAt := s.poweredTime, reads := x.reads + 1 }
    { s with tin := t1.rewrite failed us }
  else s

def execRetentionPatrol (block : Nat) (weak failed : List Nat) (s : State) : Result := .next (retentionPatrol block weak failed s)

end Sys2Proof.Machine
end

