-- ==== Sys2Proof/Machine/Warden.lean ====
section
/-!
DEFINITION. The Warden mailbox and the Warden's requests (18_trust_and_warden.md R449 to R458; 17_host_interface.md
R443). Each request row is a GO of WMB_CTRL whose request carries that row's COMMAND, or a COMMAND that Table 18-6 does not
list; whether the signatures verify is evidence (notes/assumptions/2.md).
-/

namespace Sys2Proof.Machine

/-! ## The mailbox registers, R430, R453 -/

/-- WMB_CTRL_LENGTH_WRITE: at most 0x1000 bytes; resets the data pointer. -/
def wmbCtrlLengthWrite (len : BitVec 16) (s : State) : State :=
  if s.pwr.pwrOk && len.toNat ≤ 0x1000 then { s with wdn := { s.wdn with wmbLen := len, wmbPtr := 0 } } else s

def execWmbCtrlLengthWrite (len : BitVec 16) (s : State) : Result := .next (wmbCtrlLengthWrite len s)

/-- WMB_DATA_WRITE: the packing of R55. -/
def wmbDataWrite (half : Half) (data : BitVec 64) (s : State) : State :=
  if s.pwr.pwrOk then
    match mailboxWrite s.wdn.wmbPtr s.wdn.wmbLen.toNat half data with
    | some (i, bs, p) => { s with wdn := { s.wdn with wmbBytes := putBytes s.wdn.wmbBytes i bs, wmbPtr := p } }
    | none => s
  else s

def execWmbDataWrite (half : Half) (data : BitVec 64) (s : State) : Result := .next (served half (wmbDataWrite half data) s)

/-- WMB_RDATA_READ: eight response bytes; zeros past RLENGTH. -/
def wmbRdataRead (s : State) : State :=
  State.emit { s with wdn := { s.wdn with rptr := s.wdn.rptr + 8 } } (.data (slice s.wdn.rbytes s.wdn.rptr 8))

def execWmbRdataRead (s : State) : Result := .next (wmbRdataRead s)

/-! ## The checks of a request, Table 18-5, R453, Table 18-7 -/

/-- The request in the mailbox. -/
def State.wreq (s : State) : List Byte := getBytes s.wdn.wmbBytes 0 s.wdn.wmbLen.toNat

/-- SIGNER_A, SIGNER_B and the payload. -/
def wreqSigners (r : List Byte) : Nat × Nat := (leAt r 9 1, leAt r 10 1)
def wreqPayload (r : List Byte) : List Byte := slice r 0x40 (leAt r 0x0C 4)

/-- Table 18-6: the command codes. -/
def wreqCodes : List Nat := [0x01, 0x02, 0x10, 0x11, 0x12, 0x20, 0x21, 0x22, 0x23, 0x30, 0x40]

/-- A signature under a code verifies; one of an owner slot needs the slot's key. -/
def Warden.signs (w : Warden) (code : Nat) (verdict : Bool) : Bool :=
  code == 0xFF || (verdict && (decide (4 ≤ code) || w.keyValid.getLsbD code))

/-- The checks every request meets first, in R453's order. -/
def State.wreqChecks (s : State) (r : List Byte) (sig : SigVerdict) : List Check :=
  let (a, b) := wreqSigners r
  let n := (if a = 0xFF then 0 else 1) + (if b = 0xFF then 0 else 1)
  [need (slice r 0 8 == ascii "AZB7WREQ") stStructure 0,
   need (leAt r 0x0B 1 == 0 && leAt r 0x30 16 == 0) stBadOpcode 0,
   need (r.length == 0x40 + leAt r 0x0C 4 + 114 * n) stStructure 0,
   need (leAt r 0x10 16 == (deviceFpr s.wdn.identityKey).toNat && leAt r 0x20 16 == s.wdn.nonce.toNat) stCheckMismatch 0,
   need (s.wdn.signs a sig.a && s.wdn.signs b sig.b) stCheckMismatch 0]

/-- R453: the outcome of a request, and a fresh nonce. -/
def State.wreqEnd (s : State) (status : Nat) : State :=
  { s with wdn := { s.wdn with
    wmbStatus := status, nonce := Config.nonce s.wdn.nonceCount, nonceCount := s.wdn.nonceCount + 1 } }

/-- A request of COMMAND `cmd` with a payload of `plen` bytes: its state, its signers, its own checks, its effect. -/
def State.wardenGo (s : State) (cmd plen : Nat) (sig : SigVerdict) (allowed : Bool) (signers : Nat × Nat → Bool)
    (checks : List Byte → List Check) (effect : State → List Byte → State) : State :=
  let r := s.wreq
  let c := leAt r 8 1
  if s.wdn.wmbBusy || !s.pwr.pwrOk || s.boot.step < 4 || (c != cmd && wreqCodes.contains c) then s
  else
    let s1 := { s with wdn := { s.wdn with rvalid := false, rbytes := [], rptr := 0 } }
    let p := wreqPayload r
    match firstFail (s.wreqChecks r sig ++
        [need (c == cmd) stBadOpcode 0, need (leAt r 0x0C 4 == plen) stStructure 0, need allowed stStructure 0,
         need (signers (wreqSigners r)) stStructure 0] ++ checks p) with
    | some (st, _) => s1.wreqEnd st
    | none => effect (s1.wreqEnd stOk) p

/-! ## Signer rules, Table 18-6 -/

/-- No signer. -/
def noSigner (x : Nat × Nat) : Bool := x.1 == 0xFF && x.2 == 0xFF
/-- One signer whose code meets `f`, in either place. -/
def oneSigner (f : Nat → Bool) (x : Nat × Nat) : Bool := (f x.1 && x.2 == 0xFF) || (x.1 == 0xFF && f x.2)
/-- Two signers, in either order. -/
def twoSigners (f g : Nat → Bool) (x : Nat × Nat) : Bool := (f x.1 && g x.2) || (g x.1 && f x.2)
/-- An owner key. -/
def isOwner (c : Nat) : Bool := decide (c < 4)

/-- R452: the device is unowned. -/
def State.unowned (s : State) : Bool := !s.wdn.owned && !s.wdn.ownerLost
/-- UPGRADE_SIGNED of the policy in force. -/
def State.upgradeSigned (s : State) : Bool := s.wdn.policy.getLsbD 4

/-! ## Maintenance, R456, R457 -/

/-- MAINT_ENTER: every job slot empty, the stage EMPTY. -/
def maintEnter (sig : SigVerdict) (s : State) : State :=
  s.wardenGo 0x01 0 sig
    (s.wdn.mode == 1 && (List.range 8).all (fun j => (s.slot j).state == 0) && s.bld.state == .empty) noSigner (fun _ => [])
    fun s _ => State.dropBeyond { s with wdn := { s.wdn with mode := 2, maintAt := some s.engCycle } }

def execMaintEnter (sig : SigVerdict) (s : State) : Result := .next (maintEnter sig s)

/-- MAINT_EXIT: a restart at step 3. -/
def maintExit (sig : SigVerdict) (s : State) : State :=
  s.wardenGo 0x02 0 sig (s.wdn.mode == 2) noSigner (fun _ => []) fun s _ => s.restartAt3

def execMaintExit (sig : SigVerdict) (s : State) : Result := .next (maintExit sig s)

/-- The image of an FW_UPDATE payload. -/
def State.updateImage (s : State) (p : List Byte) : List Byte := s.mem.bytes (leAt p 0 8) (leAt p 8 8)

/-- FW_UPDATE (R54, R457): the image in GDDR7 is verified; the write to the reserved area starts. -/
def fwUpdate (sig : SigVerdict) (accepts : List Bool) (s : State) : State :=
  let inRange (p : List Byte) := leAt p 0 8 % 256 == 0 && inGddr (leAt p 0 8) (leAt p 8 8) && decide (leAt p 8 8 ≤ 0x800000)
  s.wardenGo 0x10 16 sig (s.wdn.mode == 2) (if s.upgradeSigned then oneSigner isOwner else noSigner)
    (fun p => [need (inRange p) stBounds 0,
      need (!inRange p || (!s.hasBad (leAt p 0 8) (leAt p 8 8) && (imageKey s (s.updateImage p) none accepts).isSome))
        stImageVerify 0])
    fun s p =>
      { s with wdn := { s.wdn with imageWriting := true, wmbBusy := true
                                   newImage := slice (s.updateImage p) 0 (256 + leAt (s.updateImage p) 0x10 8) } }

def execFwUpdate (sig : SigVerdict) (accepts : List Bool) (s : State) : Result := .next (fwUpdate sig accepts s)

/-- FW_IMAGE_WRITE_DONE (R457): the single reserved image is replaced; a restart at step 3. -/
def fwImageWriteDone (s : State) : State :=
  if s.wdn.imageWriting then
    State.restartAt3 { s with boot := { s.boot with reservedImage := s.wdn.newImage } }
  else s

def execFwImageWriteDone (s : State) : Result := .next (fwImageWriteDone s)

/-! ## Versions and firmware keys, R450, R458, Table 18-6 -/

/-- SVN_COMMIT: the target is the running image's version and at least the fused minimum. -/
def svnCommit (sig : SigVerdict) (s : State) : State :=
  s.wardenGo 0x11 2 sig (s.wdn.mode != 0) (if s.wdn.owned then oneSigner isOwner else noSigner)
    (fun p => [need (leAt p 0 2 == s.boot.imageSvn && decide (s.fuse.svnBits ≤ leAt p 0 2) && decide (leAt p 0 2 ≤ 64)) stBounds 0])
    fun s p => { s with fuse := { s.fuse with svnBits := leAt p 0 2 } }

def execSvnCommit (sig : SigVerdict) (s : State) : Result := .next (svnCommit sig s)

/-- FWKEY_REVOKE: refused for the last unrevoked slot and for FWKEY_USED. -/
def fwkeyRevoke (sig : SigVerdict) (s : State) : State :=
  let k := leAt (wreqPayload s.wreq) 0 1
  let fw (c : Nat) : Bool := decide (0x20 ≤ c) && decide (c ≤ 0x23) && c - 0x20 != k && !s.fuse.revoked.getLsbD (c - 0x20)
  s.wardenGo 0x12 1 sig (s.wdn.mode == 2) (if s.upgradeSigned then twoSigners fw isOwner else oneSigner fw)
    (fun _ => [need (decide (k < 4) && k != s.boot.fwKeyUsed &&
      (List.range 4).any (fun i => i != k && !s.fuse.revoked.getLsbD i)) stBounds 0])
    fun s p => { s with fuse := { s.fuse with revoked := s.fuse.revoked ||| BitVec.ofNat 4 (2 ^ leAt p 0 1) } }

def execFwkeyRevoke (sig : SigVerdict) (s : State) : Result := .next (fwkeyRevoke sig s)

/-! ## The owner record, R451, R454, R455 -/

/-- A sealed record (18_trust_and_warden.md, the owner record). -/
def sealRecord (key : List Byte) (seq policy valid : Nat) (keys : List Byte) : List Byte :=
  let b := ascii "AZB7OWNR" ++ leBytes 4 1 ++ leBytes 4 seq ++ leBytes 8 policy ++ leBytes 4 valid ++ zeros 36 ++ padTo 256 keys
  b ++ ownerSeal key b

/-- R451: a policy word without SCRUB 3 and without reserved bits. -/
def policyOk (p : Nat) : Bool := decide (p < 64) && field p 2 1 != 3

/-- The checks of an OWNER_CLAIM or OWNER_SET payload: 256 bytes of key slots, 4 of valid bits, 8 of policy. -/
def State.ownerChecks (s : State) (p : List Byte) : List Check :=
  [need ((List.range 4).all (fun k => (slice p (64 * k + 57) 7).all (· == 0)) && decide (leAt p 256 4 < 16)) stBadOpcode 0,
   need (policyOk (leAt p 260 8) && bitOf (leAt p 256 4) 0) stStructure 0,
   need (decide (s.fuse.ownerBits < 256)) stBounds 0]

/-- Burns one owner bit, seals the record and writes its copies (R454: in force after the restart). -/
def State.writeOwner (s : State) (p : List Byte) : State :=
  let n := s.fuse.ownerBits + 1
  let b := sealRecord s.wdn.sealKey n (leAt p 260 8) (leAt p 256 4) (p.take 256)
  { s with fuse := { s.fuse with ownerBits := n }, wdn := { s.wdn with copies := (List.range 3).map fun k => (k, b) } }

/-- OWNER_CLAIM: signed by slot 0 of the keys it carries. -/
def ownerClaim (sig : SigVerdict) (s : State) : State :=
  s.wardenGo 0x20 268 sig (s.wdn.mode == 2 && s.unowned) (oneSigner (· == 0x11)) s.ownerChecks fun s p => s.writeOwner p

def execOwnerClaim (sig : SigVerdict) (s : State) : Result := .next (ownerClaim sig s)

/-- OWNER_SET: signed by an owner key. -/
def ownerSet (sig : SigVerdict) (s : State) : State :=
  s.wardenGo 0x21 268 sig (s.wdn.mode == 2 && s.wdn.owned) (oneSigner isOwner) s.ownerChecks fun s p => s.writeOwner p

def execOwnerSet (sig : SigVerdict) (s : State) : Result := .next (ownerSet sig s)

/-- OWNER_RELEASE: burns one owner bit and erases the copies. -/
def ownerRelease (sig : SigVerdict) (s : State) : State :=
  s.wardenGo 0x22 0 sig (s.wdn.mode == 2 && s.wdn.owned) (oneSigner isOwner)
    (fun _ => [need (decide (s.fuse.ownerBits < 256)) stBounds 0])
    fun s _ =>
      let n := s.fuse.ownerBits + 1
      { s with fuse := { s.fuse with ownerBits := n }, wdn := { s.wdn with copies := [], released := some n } }

def execOwnerRelease (sig : SigVerdict) (s : State) : Result := .next (ownerRelease sig s)

/-- RECORD_RESTORE (R455): the record is written to the three copies; when OWNER_LOST is set it comes into force. -/
def recordRestore (sig : SigVerdict) (s : State) : State :=
  s.wardenGo 0x23 384 sig (decide (5 ≤ s.boot.step)) noSigner
    (fun p => [need (policyOk (leAt p 0x10 8)) stStructure 0,
      need (recordOk s.wdn.sealKey p s.fuse.ownerBits && (s.wdn.ownerLost || (s.wdn.owned && p == s.wdn.record))) stCheckMismatch 0])
    fun s p =>
      let w := if s.wdn.ownerLost then s.wdn.useRecord p s.fuse.ownerBits else s.wdn
      { s with wdn := { w with copies := (List.range 3).map fun k => (k, p) } }

def execRecordRestore (sig : SigVerdict) (s : State) : Result := .next (recordRestore sig s)

/-- RECORD_READ: the sealed record in force, or nothing. -/
def recordRead (sig : SigVerdict) (s : State) : State :=
  s.wardenGo 0x40 0 sig (decide (5 ≤ s.boot.step)) noSigner (fun _ => [])
    fun s _ => { s with wdn := { s.wdn with rvalid := true, rbytes := if s.wdn.owned then s.wdn.record else [] } }

def execRecordRead (sig : SigVerdict) (s : State) : Result := .next (recordRead sig s)

/-! ## Debug, R443, R460 -/

/-- Level 2: the GDDR7 and Tin keys are erased, the scratchpads and Stack SRAM zeroed; GDDR7 then reads undefined bytes. -/
def State.eraseKeys (s : State) : State :=
  let s1 := (s.leaveUndefined [(0, gddrSize)]).zeroOnChip
  { s1 with tin := { s1.tin with state := 0 }, wdn := { s1.wdn with keysErased := true, gddrKey := [], tinKey := [] } }

/-- DEBUG_AUTH: level 1 or 2 is granted. -/
def debugAuth (sig : SigVerdict) (s : State) : State :=
  let level := leAt (wreqPayload s.wreq) 0 1
  let debug (c : Nat) : Bool := c == 0x10
  let signers := if level = 1 then oneSigner (if s.unowned then debug else isOwner)
    else if s.wdn.owned then twoSigners debug isOwner else oneSigner debug
  s.wardenGo 0x30 1 sig (s.wdn.mode == 2 && (level == 1 || level == 2)) signers
    (fun _ => [need (level == 1 || !s.wdn.policy.getLsbD 5) stStructure 0])
    fun s p =>
      let s1 := if leAt p 0 1 = 2 then s.eraseKeys else s
      { s1 with host := { s1.host with debugLevel := max s1.host.debugLevel (leAt p 0 1) } }

def execDebugAuth (sig : SigVerdict) (s : State) : Result := .next (debugAuth sig s)

end Sys2Proof.Machine
end

