-- ==== Sys2Proof/Machine/ReadRegs.lean ====
section
/-!
DEFINITION. Register reads: the value of every register of the control aperture by its offset (R16, R493 and the register maps of
all chapters). WO fields and offsets without a register read zero; ST fields read their staged value.
-/

namespace Sys2Proof.Machine

/-- Index of an offset in an array of `n` registers at `base` with a stride. -/
def indexIn (base stride n off : Nat) : Option Nat :=
  if inArray base stride n off then some ((off - base) / stride) else none

/-- 64 bits of a wider number. -/
def word64 (w k : Nat) : Nat := w / 2 ^ (64 * k) % 2 ^ 64

/-- A count shown in a field of `w` bits. -/
def shown (w n : Nat) : Nat := min n (2 ^ w - 1)

/-- Commands waiting on an engine. -/
def State.queued (s : State) (e : Nat) : Nat := ((List.range 8).map fun j => (s.queue e j).length).sum

/-- The job of the command an engine runs. -/
def State.runningJob (s : State) (e : Nat) : Option Nat := (s.live.find? fun l => l.cmd.engine == e).map fun l => l.cmd.job

/-- xxx_STATUS of STR, COL, PFX and NCH. -/
def State.engStatus (s : State) (e : Nat) : Nat :=
  let j := s.runningJob e
  flagBit j.isSome 0 + place 3 1 (j.getD 0) + place 11 4 (shown 8 (s.queued e)) + place 19 12 (s.engRegs e).lastStatus

/-- xxx_LAST_FAIL with its unit (context or pool) at a place. -/
def State.engFail (s : State) (e : Nat) (unitAt : Nat) : Nat :=
  let r := s.engRegs e
  r.failStatus % 256 + place 15 8 r.failOpcode + place 18 16 r.failJob + r.failUnit * 2 ^ unitAt + place 63 32 r.failDetail

/-! ## GLB -/

/-- The feature registers (R494). -/
def State.feature (s : State) (off : Nat) : Nat :=
  if !s.boot.featuresValid then 0
  else match off with
  | 0x000 => 0xA7B0 + place 23 16 Config.stepping.toNat + place 31 24 1
  | 0x008 => place 1 0 s.boot.grade + place 3 2 s.fuse.grade + flagBit s.boot.belowGrade 4 + place 16 8 s.boot.coreCount
  | 0x010 => 0x7FF + flagBit s.boot.updatePresent 11
  | 0x018 => 384 + place 31 16 2048 + place 39 32 12 + place 47 40 64 + place 51 48 8
  | _ => word64 s.boot.coreMask.toNat ((off - 0x020) / 8)

/-- RING_BASE to CQ_HEAD of a ring. -/
def Ring.read (r : Ring) (o : Nat) : Nat :=
  match o with
  | 0x00 => r.base.toNat
  | 0x08 => place 4 0 r.log2size + flagBit r.en 5 + flagBit r.cqEn 6 + place 13 7 r.vec + place 21 14 r.coalCnt + place 31 22 r.coalUs
  | 0x10 => place 15 0 r.head + place 31 16 r.tail + flagBit r.fault 32 + place 63 48 r.lost
  | 0x18 => r.cqBase.toNat
  | 0x20 => place 15 0 r.cqHead
  | _ => 0

/-- BIAS_STAT. -/
def State.biasStat (s : State) : Nat :=
  flagBit (s.host.biasLeft != 0) 0 + flagBit s.host.biasRefused 1 + place 19 2 s.host.biasLeft + place 63 20 s.host.hostFlips

/-- JOB_STAT and JOB_ID. -/
def State.jobReg (s : State) (j o : Nat) : Nat :=
  match o with
  | 0x08 => place 2 0 (s.slot j).state + flagBit (s.job j).excl 3 + place 15 8 (s.slot j).lastFail + place 47 16 (s.slot j).fails
  | 0x10 => place 31 0 (s.job j).jobId + place 47 32 (s.job j).tenant
  | _ => 0

/-- WMB_CTRL. -/
def State.wmbCtrl (s : State) : Nat :=
  s.wdn.wmbLen.toNat + flagBit s.wdn.wmbBusy 17 + flagBit s.wdn.rvalid 18 + place 31 24 s.wdn.wmbStatus + place 47 32 s.wdn.rbytes.length

/-- GLB by offset. -/
def State.readGlb (s : State) (o : Nat) : Nat :=
  if inArray 0 8 8 o then s.feature o
  else if 0x4000 ≤ o && o < 0x5000 then (s.ring ((o - 0x4000) / 0x40)).read ((o - 0x4000) % 0x40)
  else if 0x1000 ≤ o && o < 0x2000 && o % 8 == 0 then
    let j := (o - 0x1000) / 0x200
    let i := (o - 0x1000) % 0x200
    (if i < 0x100 then tget 0 (s.jobCnt j) (i / 8) else tget 0 (s.slot j).tgt ((i - 0x100) / 8)).toNat
  else if 0x400 ≤ o && o < 0x500 then s.jobReg ((o - 0x400) / 0x20) ((o - 0x400) % 0x20)
  else match o with
  | 0x200 => s.bootState
  | 0x208 => flagBit s.boot.imgSrc 0 + flagBit s.boot.timeRoot 1
  | 0x210 => s.boot.mboxLen.toNat + flagBit s.boot.mboxBusy 25
  | 0x220 => word64 s.boot.gddrFail.toNat 0
  | 0x228 => word64 s.boot.gddrFail.toNat 1
  | 0x230 => place 1 0 s.boot.hostRate + place 6 2 s.boot.hostWidth + flagBit s.boot.hostCxl 7
  | 0x238 => (allPorts.map fun p => place (4 * p + 3) (4 * p) (s.port p).state).sum
  | 0x240 => place 17 0 s.host.win
  | 0x248 => place 17 0 s.host.biasFirst + place 35 18 s.host.biasCount + flagBit s.host.biasDir 36
  | 0x250 => s.biasStat
  | 0x258 => place 1 0 s.host.debugLevel
  | 0x300 => s.wmbCtrl
  | 0x310 => leAt s.wdn.rbytes s.wdn.rptr 8
  | _ => 0

/-! ## BLD -/

/-- BLD_STATE.STATE. -/
def StageState.code : StageState → Nat
  | .empty => 0 | .claimed => 1 | .checking => 2 | .checked => 3 | .armed => 4

/-- BLD by offset. -/
def State.readBld (s : State) (o : Nat) : Nat :=
  let b := s.bld
  match o with
  | 0x08 => b.state.code + flagBit b.dirty 3 + flagBit b.delta 4 + place 19 8 b.claimant
  | 0x10 => place 47 0 b.src
  | 0x18 => place 24 0 b.len
  | 0x20 => b.applyTime
  | 0x28 => place 7 0 b.result.status + place 15 8 b.result.resource + place 23 16 b.result.secNo + place 31 24 b.result.count +
      place 63 32 b.result.index
  | 0x30 => b.stagedId.toNat
  | 0x38 => b.currentId.toNat
  | 0x40 => b.appliedAt
  | 0x48 => flagBit b.epoch 0
  | 0x50 => b.flipAt
  | 0x58 => flagBit b.modified 0 + flagBit b.signed 1
  | _ => 0

/-! ## HTM -/

/-- HTM by offset, but for the ST registers. DESIGN CHOICE (notes/assumptions/19.md): where the last θ or
delay does not fit 32 bits, HT_OFFSET shows its low 32 bits; the spec says nothing of it. -/
def State.readHtm (s : State) (o : Nat) : Nat :=
  let h := s.ht
  match indexIn 0x100 8 12 o, indexIn 0x200 8 32 o with
  | some p, _ => unsignedOf 32 (s.asymOf p) + flagBit (s.cal p) 32 + flagBit (bitOf (s.asymOvr p) 32) 33
  | none, some i => if i % 2 = 0 then (s.timer (i / 2)).cmp else (s.timer (i / 2)).ctl
  | none, none =>
    match o with
    | 0x00 => s.now
    | 0x08 => h.state.code + flagBit h.far 3 + flagBit (h.upstream.any fun p => !s.cal p) 4 + place 11 8 (h.upstream.getD 0xF) +
        place 31 16 h.rootId.toNat + place 39 32 h.rootGen.toNat + place 47 40 h.hops
    | 0x10 => unsignedOf 32 h.offset + unsignedOf 32 h.delay * 2 ^ 32
    | 0x18 => h.seed
    | 0x28 => s.now / slotLen % 16 + place 56 4 (s.now / frameLen)
    | 0x38 => h.events.toNat
    | _ => 0

/-! ## KTL -/

/-- The values of an envelope as a register. -/
def Envelope.read (e : Envelope) : Nat :=
  place 11 0 e.ceil1ms + place 23 12 e.ceil1s + place 35 24 e.floor + place 47 36 e.slewUp + place 59 48 e.slewDn

/-- KTL by offset, but for the ST registers. -/
def State.readKtl (s : State) (o : Nat) : Nat :=
  let k := s.ktl
  match indexIn 0x100 8 11 o with
  | some n => (s.temp n).toNat + place 31 16 (sensorLimits n).1 + place 47 32 (sensorLimits n).2.1 + place 63 48 (sensorLimits n).2.2
  | none =>
    match o with
    | 0x08 => s.envNow.read
    | 0x10 => k.msgSeq.toNat + flagBit k.msgActive.isSome 32
    | 0x20 => k.vin.toNat + place 31 16 k.iin.toNat + place 63 32 k.sampleTick
    | 0x28 => shown 16 (avgWatts k.draws 1000) + place 31 16 (shown 16 (avgWatts k.draws 1000000)) +
        place 47 32 (shown 16 (k.ballast.toNat / 1000000)) + place 63 48 (shown 16 (k.bcap / 1000000))
    | 0x30 => k.energy / 1000000000 % 2 ^ 64
    | 0x38 => k.evt.toNat
    | 0x40 => place 1 0 k.therm + (k.ramps.foldl (fun m r => if s.rampValue r = 0 then m else m ||| 2 ^ r.entry.timer) 0) * 4 % 2 ^ 18
    | 0x48 => k.cntSlew
    | 0x50 => k.cntKill
    | 0x58 => k.cntTelDrop
    | _ => 0

/-! ## WDN -/

/-- Table 18-8 block 3: the digest of the applied blend, with the ST fields applied after LOAD. -/
def State.blendDigest (s : State) : List Byte :=
  if !s.bld.applied then zeros 64
  else if s.bld.modified then
    digest512 (s.bld.cur.digest ++ s.bld.measSt.flatMap fun e => leBytes 8 e.1 ++ leBytes 8 e.2.toNat)
  else padTo 64 s.bld.cur.digest

/-- WDN by offset. -/
def State.readWdn (s : State) (o : Nat) : Nat :=
  let w := s.wdn
  match o with
  | 0x00 => place 1 0 w.mode + flagBit w.owned 2 + flagBit w.ownerLost 3 + flagBit w.certBad 4 + flagBit w.keysErased 5
  | 0x08 => w.policy.toNat
  | 0x10 => place 15 0 s.fuse.svnBits + place 31 16 s.boot.imageSvn + place 47 32 w.ownerSeq + place 51 48 s.fuse.revoked.toNat +
      place 53 52 s.boot.fwKeyUsed
  | 0x20 => if w.devFprValid then word64 (deviceFpr w.identityKey).toNat 0 else 0
  | 0x28 => if w.devFprValid then word64 (deviceFpr w.identityKey).toNat 1 else 0
  | 0x30 => word64 w.nonce.toNat 0
  | 0x38 => word64 w.nonce.toNat 1
  | 0x40 => word64 w.ownerFpr.toNat 0
  | 0x48 => word64 w.ownerFpr.toNat 1
  | _ =>
    match indexIn 0x100 8 8 o, indexIn 0x140 8 8 o with
    | some i, _ => leAt s.boot.fwDigest (8 * i) 8
    | none, some i => leAt s.blendDigest (8 * i) 8
    | none, none => 0

/-! ## LOG -/

/-- LOG by offset. -/
def State.readLog (s : State) (o : Nat) : Nat :=
  let l := s.log
  match indexIn 0x100 8 6 o, indexIn 0x140 8 6 o with
  | some c, _ => logRate c + place 31 16 (logBurst c) + place 47 32 (logBurst c - (l.cls c).spent) +
      place 55 48 ((l.cls c).coal.length + (if (l.cls c).merge.isSome then 1 else 0))
  | none, some c => (l.cls c).dropped
  | none, none =>
    match o with
    | 0x000 => l.wr
    | 0x008 => l.rd
    | 0x030 => l.evt.toNat
    | 0x038 => flagBit l.expEn 0 + place 3 1 l.minClass
    | 0x170 => l.expDrop
    | 0x178 => l.cntAbsent
    | 0x180 => l.cntCorr
    | 0x188 => l.cntUncorr
    | 0x220 => place 31 0 s.boot.repairSeq + place 63 32 s.boot.repairSeqWritten
    | 0x228 => place 5 0 l.spareCores + place 31 16 l.spareRows + place 35 32 l.spareLanes + flagBit s.boot.belowGrade 36
    | _ =>
      match indexIn 0x010 8 4 o, indexIn 0x200 8 4 o with
      | some w, _ => if l.rd = l.wr then 0 else leAt (tget ({} : LogEntry) l.ring (l.rd % 8192)).bytes (8 * w) 8
      | none, some k => word64 l.quar.toNat k
      | none, none => 0

/-! ## The fabric -/

/-- FPT of a port. -/
def Port.read (x : Port) (o : Nat) : Nat :=
  match o with
  | 0x00 => place 3 0 x.state + place 7 4 x.peerPort + place 23 8 x.peerId.toNat + place 25 24 x.cls + flagBit x.keyed 26
  | 0x08 => x.evt.toNat
  | 0x10 => ((List.range 8).map fun v => if v = 1 then 0 else place (8 * v + 7) (8 * v) (x.credit v)).sum
  | 0x18 => x.cntTx
  | 0x20 => x.cntRx
  | 0x28 => x.cntFec
  | 0x30 => x.cntCheck
  | 0x38 => x.cntRetryArb
  | 0x40 => x.cntRetrySched
  | _ => 0

/-- A hop-table entry as a register. -/
def HopEntry.read (h : HopEntry) : Nat :=
  place 3 0 h.phys + flagBit h.en 4 + flagBit h.dateline 5 + place 31 8 h.lmap.toNat

/-- FAB by offset, but for the ST registers. -/
def State.readFab (s : State) (o : Nat) : Nat :=
  let f := s.fab
  match indexIn 0x100 8 12 o, indexIn 0x160 8 12 o with
  | some i, _ => (s.bld.hop0.getD i {}).read
  | none, some i => (s.bld.hop1.getD i {}).read
  | none, none =>
    match o with
    | 0x000 => f.fabId.toNat
    | 0x018 => f.cntStale
    | 0x020 => f.cntMisroute
    | 0x028 => f.cntRouteDead
    | 0x030 => f.cntSchedDrop
    | 0x038 => f.cntErrNoPath
    | 0x040 => f.cntCongDrop
    | 0x208 => f.rmEvt.toNat
    | 0x210 => f.cntTimeout
    | 0x218 => f.cntGap
    | 0x220 => f.cntLate
    | 0x228 => f.cntFpAtomic
    | 0x230 => f.heldPeak
    | 0x240 => f.lastAddr.toNat
    | 0x248 => place 7 0 f.lastStatus + place 15 8 f.lastOp + place 27 16 f.lastReq + place 63 32 f.lastTime
    | _ => 0

/-! ## The engines -/

/-- STR by offset, but for the ST registers; the other engines follow. -/
def State.readStr (s : State) (o : Nat) : Nat :=
  match o with
  | 0x00 => s.engStatus 2
  | 0x08 => s.engFail 2 0
  | 0x10 => (s.engRegs 2).evt.toNat
  | 0x18 => s.str.cntCmd
  | 0x20 => s.str.cntNan
  | 0x28 => s.str.cntDrop
  | 0x30 => s.str.cntSkip
  | _ => 0

/-- SPT. -/
def State.readSpt (s : State) (o : Nat) : Nat :=
  match indexIn 0x100 8 32 o, indexIn 0x400 8 16 o with
  | some i, _ =>
    let x := tget ({} : SpoutCtx) s.spt.ctx (i / 2)
    if i % 2 = 0 then place 2 0 x.state + place 6 4 x.job + place 11 8 x.plan + place 63 32 x.rbound else x.endsAt
  | none, some p =>
    match tfind s.bld.cur.plans p with
    | some q => 1 + place 1 1 q.level + place 13 2 q.dM1 + place 17 14 q.hmax + place 63 32 q.tag.toNat
    | none => 0
  | none, none =>
    match o with
    | 0x00 => ((List.range 16).filter fun c => (tget ({} : SpoutCtx) s.spt.ctx c).state != 0).length + place 12 5 (shown 8 (s.queued 3)) +
        place 20 13 (s.engRegs 3).lastStatus
    | 0x08 => s.engFail 3 20
    | 0x10 => (s.engRegs 3).evt.toNat
    | 0x18 => s.spt.cntExch
    | 0x20 => s.spt.cntFlits
    | 0x28 => s.spt.cntRedirect
    | _ => 0

/-- URN. -/
def State.readUrn (s : State) (o : Nat) : Nat :=
  match indexIn 0x110 0x20 16 o, indexIn 0x118 0x20 16 o with
  | some t, _ => (s.urnTable t).slots.length + place 63 32 (s.urnTable t).spill.length
  | none, some t => place 31 0 (s.urnTable t).satCount + place 47 32 (shown 16 (s.urnTable t).nanCount) + place 63 48 (s.urnCfg t).b
  | none, none => 0

/-- CDY. -/
def State.readCdy (s : State) (o : Nat) : Nat :=
  match indexIn 0x800 8 64 o with
  | some p => place 31 0 (s.poolFree p) + place 47 32 (s.poolState p).waiters.length
  | none =>
    match o with
    | 0x00 => shown 16 ((List.range 64).map fun p => (s.poolState p).waiters.length).sum + place 23 16 (s.engRegs 5).lastStatus
    | 0x08 =>
      let r := s.engRegs 5
      place 7 0 r.failStatus + place 13 8 r.failUnit + place 16 14 r.failJob + place 63 32 r.failDetail
    | 0x10 => s.cdyCheck
    | _ => 0

/-- A region's state as INF_SET_STATE shows it. -/
def RegionState.code : RegionState → Nat
  | .free => 0 | .shadow => 1 | .ready => 2 | .live => 3 | .old => 4 | .cooling => 5

/-- INF. -/
def State.readInf (s : State) (o : Nat) : Nat :=
  match indexIn 0x800 8 8 o with
  | some i =>
    let x := s.infSet i
    x.r0.code + place 5 3 x.r1.code + place 31 16 ((x.accept.map fun a => a.done.length).getD 0) +
    place 63 32 (((x.find .old).map (s.heldBy i)).getD 0)
  | none =>
    match o with
    | 0x00 => place 7 0 (s.engRegs 6).lastStatus + place 15 8 (shown 8 (s.queued 6))
    | 0x18 => s.inf.cntDiscard
    | 0x20 => s.inf.cntCrc
    | _ => 0

/-- UPD. -/
def State.readUpd (s : State) (o : Nat) : Nat :=
  match indexIn 0x1000 8 1024 o with
  | some g => (tget 0 s.upd.steps g).toNat
  | none =>
    match o with
    | 0x00 => (s.engRegs 11).evt.toNat
    | 0x08 => s.upd.cntElems
    | 0x10 => s.upd.cntFrozen
    | 0x18 => s.upd.cntNonfin
    | _ => 0

/-- COL. -/
def State.readCol (s : State) (o : Nat) : Nat :=
  match o with
  | 0x00 => s.engStatus 8
  | 0x08 => s.engFail 8 0
  | 0x10 => (s.engRegs 8).evt.toNat
  | 0x18 => s.col.cntCmd
  | 0x20 => s.col.cntSeal
  | 0x28 => s.col.cntRollback
  | 0x30 => place 2 0 s.col.startState + flagBit s.col.viaB 3 + place 63 32 s.col.startSeq.toNat
  | 0x38 => s.col.startT
  | _ => 0

/-- PFX. -/
def State.readPfx (s : State) (o : Nat) : Nat :=
  match indexIn 0x200 8 8 o, indexIn 0x300 8 16 o with
  | some j, _ => place 31 0 (s.pfxResv j) + place 47 32 (s.pfxActive j)
  | none, some k => flagBit (tget false s.pfx.keyValid k) 0
  | none, none =>
    match o with
    | 0x00 => s.engStatus 9
    | 0x08 => s.engFail 9 0
    | 0x10 => (s.engRegs 9).evt.toNat
    | 0x18 => s.pfx.cntHit
    | 0x20 => s.pfx.cntMiss
    | 0x28 => s.pfx.cntEvict
    | 0x30 => s.pfx.cntRefused
    | 0x38 => s.pfx.cntDeadline
    | 0x40 => place 15 0 (s.pfx.table.filter fun e => e.2.valid).length +
        place 31 16 (s.pfx.table.filter fun e => e.2.valid && e.2.orphan).length
    | _ => 0

/-- NCH. -/
def State.readNch (s : State) (o : Nat) : Nat :=
  match o with
  | 0x00 => s.engStatus 7
  | 0x08 => s.engFail 7 0
  | 0x10 => place 39 0 ((s.scrubs.map fun x => ceilDiv x.len 4096).sum)
  | _ => 0

/-- TIN. -/
def State.readTin (s : State) (o : Nat) : Nat :=
  match o with
  | 0x00 => place 2 0 s.tin.state + place 15 8 (s.engRegs 10).lastStatus
  | 0x08 => s.tin.cap
  | 0x10 => s.tin.used
  | 0x18 => place 23 0 s.tin.spare + place 31 24 s.tin.wear
  | 0x20 =>
    let r := s.engRegs 10
    place 7 0 r.failStatus + place 15 8 r.failOpcode + place 18 16 r.failJob
  | 0x28 => s.tin.cntMove
  | 0x30 => s.tin.cntParity
  | 0x38 => s.tin.cntLost
  | _ => 0

/-! ## Cores -/

/-- CORE_STATE.RUN. -/
def RunState.code : RunState → Nat
  | .idle => 0 | .issuing => 1 | .heldByWait => 2 | .stalled => 3 | .ending => 4 | .failed => 5

/-- CORE_CRW_w. -/
def CreditWindow.read (w : CreditWindow) : Nat :=
  place 13 0 w.base + place 29 16 w.len + flagBit w.free 30 + flagBit w.en 31 + place 34 32 w.holder

/-- CORE of a core; the page of a core that is not enabled reads zero (R493). -/
def State.readCore (s : State) (k o : Nat) : Nat :=
  if !s.coreEnabled k then 0
  else
    let c := s.core k
    match indexIn 0x100 8 8 o, indexIn 0x200 8 32 o, indexIn 0x300 8 32 o with
    | some w, _, _ => (s.window k w).read
    | none, some n, _ => (tget 0 c.cnt n).toNat
    | none, none, some n => (tget 0 c.tgt n).toNat
    | none, none, none =>
      match o with
      | 0x00 => k + place 9 8 (k / 64) + place 13 10 (s.physCol k) + place 16 14 (k / 8 % 8) +
          ((List.range 4).map fun d => flagBit ((neighbourOf k (d + 1)).any s.coreEnabled) (17 + d)).sum
      | 0x08 => c.run.code + flagBit c.hcm 3 + place 5 4 c.mode.toNat + place 19 8 c.lastBundle + place 22 20 c.job
      | 0x10 => c.mode.toNat
      | 0x18 => place 11 0 c.hazard.bundle + place 13 12 c.hazard.kind + flagBit c.hazard.valid 14 + place 15 15 c.hazard.file +
          place 20 16 c.hazard.reg + place 63 32 c.hazard.cycle
      | 0x20 => place 7 0 c.faultStatus + place 10 8 c.faultSlot + place 23 12 c.faultBundle + place 63 24 (if c.faultSlot = 0 then c.oobRows else c.faultDetail)
      | 0x28 => c.flags.toNat
      | 0x30 => c.cycle
      | 0x38 => place 47 0 c.matBusy
      | 0x40 => place 47 0 c.matFrozen + place 51 48 c.matCause + flagBit c.matDrain 52
      | _ => 0

/-! ## The aperture, Table 21-3 -/

/-- A register's value. -/
def State.readReg (s : State) (off : Nat) : Nat :=
  match stMask off with
  | some _ => s.stagedSt off
  | none =>
    let o := off % 0x10000
    if 0x400000 ≤ off && off < 0x500000 then s.readCore ((off - 0x400000) / 0x1000) (off % 0x1000)
    else if 0x200000 ≤ off && off < 0x2C0000 then (s.port ((off - 0x200000) / 0x10000)).read o
    else match off / 0x10000 with
    | 0x00 => s.readGlb o
    | 0x01 => s.readBld o
    | 0x02 => s.readHtm o
    | 0x03 => s.readKtl o
    | 0x04 => s.readWdn o
    | 0x05 => s.readLog o
    | 0x10 => s.readStr o
    | 0x11 => s.readSpt o
    | 0x12 => s.readUrn o
    | 0x13 => s.readCdy o
    | 0x14 => s.readInf o
    | 0x15 => s.readUpd o
    | 0x16 => s.readCol o
    | 0x17 => s.readPfx o
    | 0x18 => s.readNch o
    | 0x19 => s.readTin o
    | 0x2F => s.readFab o
    | _ => 0

end Sys2Proof.Machine
end

