-- ==== Sys2Proof/Machine/Doe.lean ====
section
/-!
DEFINITION. DOE, SPDM, IDE_KM and CDAT (17_host_interface.md R440, R441; 18_trust_and_warden.md R446, R447, R459, R460). The
message layouts stand in the DMTF, PCIe and CXL documents the spec names: a body the spec does not spell is a free value
(Config.messageBody), and the codes that tell responses apart are PRESUMED from those documents
(notes/assumptions/32.md).
-/

namespace Sys2Proof.Machine

/-! ## Responses -/

/-- Emits a response of a kind: the content the spec gives, then the rest of the message, which is free. -/
def State.reply (s : State) (kind : Nat) (content request : List Byte) : State :=
  State.emit { s with freeCount := s.freeCount + 1 }
    (.doe kind (content ++ Config.messageBody kind (leBytes 8 s.freeCount ++ request)))

/-- An SPDM error response. -/
def State.spdmRefuse (s : State) (kind : Nat) : State := s.emit (.spdmError kind)

/-- DOE is open while the host link is up (R61). -/
def State.doe (s : State) (body : State → State) : State := if s.linkUp then body s else s

/-- R440: the largest data object that the instance accepts has 64 KiB; a larger one is not taken. -/
def State.fits (s : State) (request : List Byte) (body : State → State) : State := if request.length ≤ 65536 then body s else s

/-- An SPDM request that needs a negotiated connection. -/
def State.spdm (s : State) (kind : Nat) (body : State → State) : State :=
  s.doe fun s => if s.host.spdmAlgs then body s else s.spdmRefuse kind

/-- R447: requests that the identity answers are refused with CERT_BAD. -/
def State.identified (s : State) (kind : Nat) (body : State → State) : State :=
  s.spdm kind fun s => if s.wdn.certBad then s.spdmRefuse kind else body s

/-! ## DOE itself -/

/-- R440: the protocols, as vendor and type: Discovery, CMA/SPDM, Secured CMA/SPDM, CXL Table Access. -/
def doeProtocols : List (Nat × Nat) := [(0x0001, 0), (0x0001, 1), (0x0001, 2), (0x1E98, 2)]

/-- DOE_DISCOVERY: entry `index` of the list and the index of the next, 0 after the last. -/
def doeDiscovery (index : BitVec 8) (s : State) : State :=
  s.doe fun s =>
    let i := index.toNat
    let (v, t) := doeProtocols.getD i (0xFFFF, 0)
    s.emit (.doe 0 (leBytes 2 v ++ leBytes 1 t ++ leBytes 1 (if i + 1 < doeProtocols.length then i + 1 else 0)))

def execDoeDiscovery (index : BitVec 8) (s : State) : Result := .next (doeDiscovery index s)

/-- DOE_ABORT: each request row answers whole, so none is in progress between rows. -/
def doeAbort (s : State) : State := s

def execDoeAbort (s : State) : Result := .next (doeAbort s)

/-! ## The connection -/

/-- GET_VERSION: 1.2 and 1.3; a new connection begins. -/
def getVersion (s : State) : State :=
  s.doe fun s =>
    State.emit { s with host := { s.host with spdmVersion := true, spdmCaps := false, spdmAlgs := false, session := 0, sessionKeys := 0 } }
      (.doe 0x04 [0x12, 0x13])

def execGetVersion (s : State) : Result := .next (getVersion s)

/-- GET_CAPABILITIES. -/
def getCapabilities (s : State) : State :=
  s.doe fun s =>
    if s.host.spdmVersion then State.reply { s with host := { s.host with spdmCaps := true } } 0x61 [] [] else s.spdmRefuse 0x61

def execGetCapabilities (s : State) : Result := .next (getCapabilities s)

/-- NEGOTIATE_ALGORITHMS: Ed448, SHA3-512, secp384r1, AES-256-GCM, in this order. -/
def negotiateAlgorithms (s : State) : State :=
  s.doe fun s =>
    if s.host.spdmCaps then
      State.reply { s with host := { s.host with spdmAlgs := true } } 0x63
        (ascii "Ed448" ++ ascii "SHA3-512" ++ ascii "secp384r1" ++ ascii "AES-256-GCM") []
    else s.spdmRefuse 0x63

def execNegotiateAlgorithms (s : State) : Result := .next (negotiateAlgorithms s)

/-! ## Identity, R446, R447, R459 -/

/-- GET_DIGESTS. -/
def getDigests (s : State) : State := s.spdm 0x01 fun s => s.reply 0x01 [] []

def execGetDigests (s : State) : Result := .next (getDigests s)

/-- GET_CERTIFICATE: the chain of slot 0, in R459's order; the device has no other slot. -/
def getCertificate (slot : Nat) (s : State) : State :=
  s.spdm 0x02 fun s => if slot = 0 then s.reply 0x02 s.wdn.chain.flatten [] else s.spdmRefuse 0x02

def execGetCertificate (slot : Nat) (s : State) : Result := .next (getCertificate slot s)

/-- R459: a response signed by the alias key: what the spec does not spell, the signature among it, depends on that key. -/
def State.signedReply (s : State) (kind : Nat) (content request : List Byte) : State := s.reply kind content (s.wdn.aliasKey ++ request)

/-- CHALLENGE: signed by the alias key. -/
def challenge (nonce : List Byte) (s : State) : State := s.fits nonce fun s => s.identified 0x03 fun s => s.signedReply 0x03 [] nonce

def execChallenge (nonce : List Byte) (s : State) : Result := .next (challenge nonce s)

/-- Table 18-8: the content of a measurement block. -/
def State.measurement (s : State) (i : Nat) : List Byte :=
  let reg o := leBytes 8 (s.readReg o)
  match i with
  | 1 => padTo 64 Config.romDigest
  | 2 => padTo 64 s.boot.fwDigest ++ leBytes 4 s.boot.imageSvn ++ leBytes 1 s.boot.fwKeyUsed
  | 3 => if s.bld.applied then s.blendDigest ++ reg 0x010038 ++ reg 0x010058 else zeros 80
  | 4 => digest512 s.boot.repairBody ++ leBytes 4 s.boot.repairSeq
  | 5 => reg 0x008 ++ reg 0x020 ++ reg 0x028 ++ reg 0x030 ++ reg 0x038 ++ reg 0x010
  | 6 => leBytes 16 s.wdn.ownerFpr.toNat ++ leBytes 8 s.wdn.policy.toNat ++ leBytes 4 s.wdn.ownerSeq ++
      leBytes 1 (flagBit s.wdn.ownerLost 0)
  | 7 => leBytes 1 s.host.debugLevel ++ leBytes 2 s.fuse.svnBits ++ leBytes 1 s.fuse.revoked.toNat ++ leBytes 1 (flagBit s.wdn.certBad 0)
  | _ => []

/-- R459: a block in the DMTF measurement format: its index, the format's code, the size of what follows; then the type, whose bit 7 says raw
bit stream, the length of the value, and the value. The places and the type's other bits are PRESUMED (notes/assumptions/32.md). -/
def State.measurementBlock (s : State) (i : Nat) : List Byte :=
  let v := s.measurement i
  leBytes 1 i ++ leBytes 1 1 ++ leBytes 2 (v.length + 3) ++ leBytes 1 (0x80 + [0, 0, 1, 3, 2, 2, 3, 5].getD i 0) ++ leBytes 2 v.length ++ v

/-- A record of measurement blocks: how many, and their length in bytes. -/
def State.measurementRecord (s : State) (is : List Nat) : List Byte :=
  let b := is.flatMap s.measurementBlock
  leBytes 1 is.length ++ leBytes 3 b.length ++ b

/-- GET_MEASUREMENTS: index 0 asks for the count, 0xFF for all blocks. -/
def getMeasurements (index : Nat) (nonce : List Byte) (s : State) : State :=
  s.fits nonce fun s => s.identified 0x60 fun s =>
    if index = 0 then s.signedReply 0x60 [7] nonce
    else if index = 0xFF then s.signedReply 0x60 (s.measurementRecord [1, 2, 3, 4, 5, 6, 7]) nonce
    else if index ≤ 7 then s.signedReply 0x60 (s.measurementRecord [index]) nonce
    else s.spdmRefuse 0x60

def execGetMeasurements (index : Nat) (nonce : List Byte) (s : State) : Result := .next (getMeasurements index nonce s)

/-! ## Sessions, R440, R460 -/

/-- KEY_EXCHANGE: session keys are made; the session is not yet established. -/
def keyExchange (request : List Byte) (s : State) : State :=
  s.fits request fun s => s.identified 0x64 fun s =>
    State.reply { s with host := { s.host with session := 1, sessionKeys := s.host.sessionKeys + 1 } } 0x64 [] request

def execKeyExchange (request : List Byte) (s : State) : Result := .next (keyExchange request s)

/-- FINISH: establishes the session, or ends it where the requester's proof does not verify. -/
def finish (verified : Bool) (s : State) : State :=
  s.spdm 0x65 fun s =>
    if s.host.session != 1 then s.spdmRefuse 0x65
    else if verified then State.reply { s with host := { s.host with session := 2 } } 0x65 [] []
    else State.spdmRefuse { s with host := { s.host with session := 0, sessionKeys := 0 } } 0x65

def execFinish (verified : Bool) (s : State) : Result := .next (finish verified s)

/-- A request inside an established session. -/
def State.inSession (s : State) (kind : Nat) (body : State → State) : State :=
  s.spdm kind fun s => if s.host.session = 2 then body s else s.spdmRefuse kind

/-- HEARTBEAT. -/
def heartbeat (s : State) : State := s.inSession 0x68 fun s => s.reply 0x68 [] []

def execHeartbeat (s : State) : Result := .next (heartbeat s)

/-- KEY_UPDATE: the next generation of session keys. -/
def keyUpdate (s : State) : State :=
  s.inSession 0x69 fun s => State.reply { s with host := { s.host with sessionKeys := s.host.sessionKeys + 1 } } 0x69 [] []

def execKeyUpdate (s : State) : Result := .next (keyUpdate s)

/-- END_SESSION: the session's keys are removed. -/
def endSession (s : State) : State :=
  s.inSession 0x6C fun s => State.reply { s with host := { s.host with session := 0, sessionKeys := 0 } } 0x6C [] []

def execEndSession (s : State) : Result := .next (endSession s)

/-- IDE_KM (R441): a message that programs keys sets the next generation, for the link stream of CXL.io and, on a CXL link, for CXL IDE in
containment mode; traffic goes on. -/
def ideKm (request : List Byte) (program : Bool) (s : State) : State :=
  s.fits request fun s => s.inSession 0x100 fun s =>
    let h := if program then { s.host with ideKeys := s.host.ideKeys + 1, linkStream := true, contained := s.boot.hostCxl } else s.host
    State.reply { s with host := h } 0x100 [] request

def execIdeKm (request : List Byte) (program : Bool) (s : State) : Result := .next (ideKm request program s)

/-- GDDR7's bandwidth in GB/s (Table 0-4). -/
def gddrBandwidth : Nat := 16896

/-- CDAT_READ: an entry of the CDAT, with GDDR7's bandwidth; the spec gives no figure of its latency, nor the entry's layout. -/
def cdatRead (entry : Nat) (s : State) : State := s.doe fun s => s.reply 0x200 (leBytes 4 gddrBandwidth) (leBytes 2 entry)

def execCdatRead (entry : Nat) (s : State) : Result := .next (cdatRead entry s)

end Sys2Proof.Machine
end

