-- ==== Sys2Proof/Machine/HallTime.lean ====
section
/-!
DEFINITION. Hall time (03_hall_time.md R71 to R86, R98): exchanges, steering, relock, root succession, refresh.
Times of exchanges are in 2^-16 ns.
-/

namespace Sys2Proof.Machine

/-- 250 ps, the neighbour-to-neighbour bound of R80. -/
def boundUnits : Int := 16384
/-- 20 ps, the correction of one exchange (R77), in fs. -/
def corrLimit : Int := 20000
/-- A difference of stamps in fs, rounded towards minus infinity (DESIGN CHOICE, notes/assumptions/19.md). -/
def unitsToFs (u : Int) : Int := u * 1000000 / 65536

/-- The multiple of 10,000 at or before a count. -/
def tenMicros (n : Nat) : Nat := n / 10000 * 10000

/-- R75: an exchange is due and has not been started: before the first blend at every 10,000 ns of the own count, afterwards in the first
repair slot that begins at or after a multiple of 10,000. -/
def State.exchangeDue (s : State) : Bool :=
  if s.bld.applied then
    let slot := s.ht.count / slotLen * slotLen
    s.ht.count / slotLen % 16 == 15 && decide (slot - tenMicros slot < frameLen) &&
      !(s.ht.exchangeAt.any fun t => decide (tenMicros slot ≤ t))
  else s.ownCount % 10000 == 0 && s.ht.exchangeAt != some s.ownCount

/-- The bytes of a report (the spec gives the payload of a TIME flit no layout: notes/assumptions/18.md). -/
def reportBytes (r : NbrReport) : List Byte :=
  leBytes 1 r.state ++ leBytes 1 r.hops ++ leBytes 2 r.rootId.toNat ++ leBytes 1 r.gen.toNat ++ leBytes 8 r.seq

/-- A TIME flit to the direct neighbour on a port (R66, R75): route [port, 12] and DST 0xFFFF, as R325 addresses a neighbour. -/
def State.timeFlit (s : State) (p : Nat) (body : List Byte) : Flit :=
  { vc := 0, epoch := s.bld.epoch, hop := 1, route := BitVec.ofNat 32 (p + 12 * 16), src := s.fab.fabId, dst := 0xFFFF, typ := 0x04
    payload := padTo 240 body }

/-- What this device reports of its hall time (R85). -/
def State.ownReport (s : State) : NbrReport :=
  { state := s.ht.state.code, hops := s.ht.hops, rootId := s.ht.rootId, gen := s.ht.rootGen, seq := s.ht.rootSeq }

/-- TIME_EXCHANGE_START (R75): a request is queued on VC0 of the upstream port; an earlier one without response counts (R81). -/
def timeExchangeStart (s : State) : State :=
  match s.ht.upstream with
  | some p =>
    if (s.ht.state == .locked || s.ht.state == .acquiring) && s.exchangeDue then
      State.queueFlit { s with ht := { s.ht with
        exchanging := true, exchangeAt := some s.ownCount, noResponse := if s.ht.exchanging then s.ht.noResponse + 1 else 0 } } p
        { flit := s.timeFlit p (leBytes 1 0 ++ reportBytes s.ownReport) }
    else s
  | none => s

def execTimeExchangeStart (s : State) : Result := .next (timeExchangeStart s)

/-- TIME_EXCHANGE_REQUEST_RECEIVE (R77, R85): a response is queued with t2, the arrival on the own count, the part of a tick of t3, which
the departure completes, and the root's ID, generation and sequence; the operands give the parts of a tick. -/
def timeExchangeRequestReceive (port t2 t3 : Nat) (report : NbrReport) (s : State) : State :=
  if s.portUp port then
    let a := (stampAt s.ownCount t2).toNat
    (s.queueFlit port { flit := s.timeFlit port (leBytes 1 1 ++ leBytes 8 a ++ leBytes 8 (t3 % 65536) ++ reportBytes s.ownReport) }).noteNbr
      port report
  else s

def execTimeExchangeRequestReceive (port t2 t3 : Nat) (report : NbrReport) (s : State) : Result :=
  if port < 12 then .next (timeExchangeRequestReceive port t2 t3 report s) else noResource "port" port

/-- R76: the device locks and loads its counter, which completes step 9. -/
def State.lock (s : State) (count : Nat) : State :=
  let s1 := { s with ht := { s.ht with state := .locked, firstAcquire := false, count, thetas := [], agree := 0
                                       rootSeqAt := count } }
  let s2 := if 8 < s1.ht.hops then s1.event 5 0x020 0x0041 2 s1.ht.rootId.toNat else s1
  if s2.boot.step = 9 then s2.beginStep10 else s2

/-- R76: one exchange while first acquiring: step by whole ticks of -θ, steer the rest, count agreement. -/
def State.acquireExchange (s : State) (theta : Int) : State :=
  let whole := (-theta).tdiv tickUnits
  let prov := ((s.ht.prov : Int) + whole).toNat
  let rest := unitsToFs (theta + whole * tickUnits)
  let agrees := decide (theta.natAbs ≤ boundUnits.natAbs) && !s.ht.firstExchange
  let n := if agrees then s.ht.agree + 1 else 0
  let s1 := { s with ht := { s.ht with prov, corr := rest, agree := n, firstExchange := false } }
  if n = 8 then s1.lock prov else s1

/-- R84: scheduled sending resumes at the next frame boundary after relock; a device that locks beyond 8 hops raises its alarm (R80). -/
def State.relocked (s : State) : State :=
  let s1 := { s with ht := { s.ht with state := .locked, thetas := [], resumeAt := roundUp s.ht.count frameLen } }
  if s1.ht.far then s1.event 5 0x020 0x0041 s1.ht.state.code s1.ht.rootId.toNat else s1

/-- R84: the count steps forward by whole ticks; the timers whose compare values it passes fire in the next tick. The time since the last
increase of the root sequence is none of the step's (R85). -/
def HallTime.stepForward (h : HallTime) (n : Nat) : HallTime :=
  { h with
    count := h.count + n, rootSeqAt := h.rootSeqAt + n, genSeenAt := h.genSeenAt.map (· + n)
    timers := h.timers.map fun e =>
      if e.2.arm && decide (h.count < e.2.cmp) && decide (e.2.cmp < h.count + n) then (e.1, { e.2 with lateAt := h.count + n + 1 }) else e }

/-- R84: one exchange while relocking. DESIGN CHOICE (notes/assumptions/19.md): the correction left from before is given up as the relock
begins, and the part of a tick that a step or a pause leaves of θ is not steered away until the next exchange measures it. -/
def State.relockExchange (s : State) (theta : Int) : State :=
  let ts := (theta :: s.ht.thetas).take 8
  let hi := ts.foldl max theta
  let lo := ts.foldl min theta
  if ts.length = 8 && hi - lo ≤ boundUnits then
    if theta.natAbs ≤ boundUnits.natAbs then
      State.relocked { s with ht := { s.ht with corr := max (-corrLimit) (min (unitsToFs theta) corrLimit) } }
    else if theta < 0 then
      let n := ((-theta + tickUnits / 2) / tickUnits).toNat
      (State.htEvent { s with ht := s.ht.stepForward n } 2).relocked
    else
      let n := ((theta + tickUnits - 1) / tickUnits).toNat
      (State.htEvent { s with ht := { s.ht with pause := n + 1 } } 3).relocked
  else { s with ht := { s.ht with thetas := ts } }

/-- R77: θ and the mean path delay of an exchange. DESIGN CHOICE (notes/assumptions/19.md): the rule only writes '/ 2'; where the sum is
odd in 2^-16 ns the model rounds down. -/
def exchangeTheta (t1 t2 t3 t4 asym : Int) : Int := ((t4 - t3) - (t2 - t1) + asym) / 2
def exchangeDelay (t1 t2 t3 t4 : Int) : Int := ((t2 - t1) + (t4 - t3)) / 2

/-- TIME_EXCHANGE_RESPONSE_RECEIVE (R76, R77, R80, R84 to R86): t1 and t4 lie in the ticks of the own count in which the request left
and the response arrives, of which the operands give the part of a tick; t2 and t3 are the upstream's. -/
def timeExchangeResponseReceive (port : Nat) (t1 t2 t3 t4 : Int) (report : NbrReport) (s : State) : State :=
  if s.ht.upstream = some port && s.ht.exchanging && s.portUp port then
    let a := stampAt s.ht.departedAt t1
    let d := stampAt s.ownCount t4
    let theta := exchangeTheta a t2 t3 d (s.asymOf port)
    let delay := exchangeDelay a t2 t3 d
    let s1 := State.modPort { s with ht := { s.ht with offset := theta, delay, exchanging := false, noResponse := 0 } } port
      fun x => { x with meanDelay := delay.toNat }
    let s2 := s1.noteNbr port report
    -- the neighbour may have been given up
    if s2.ht.upstream != some port || !s2.offers port then s2
    else
      let s3 := s2.follow port
      match s3.ht.state with
      | .locked => { s3 with ht := { s3.ht with corr := max (-corrLimit) (min (unitsToFs theta) corrLimit) } }
      | .acquiring => if s3.ht.firstAcquire then s3.acquireExchange theta else s3.relockExchange theta
      | _ => s3
  else s

def execTimeExchangeResponseReceive (port : Nat) (t1 t2 t3 t4 : Int) (report : NbrReport) (s : State) : Result :=
  if port < 12 then .next (timeExchangeResponseReceive port t1 t2 t3 t4 report s) else noResource "port" port

/-- The device may steer: locked, in steps of at most 0.5 ps at least 250 ns apart (R79); first acquiring, as fast as it needs (R76). It
makes no correction while it relocks (R84), and in holdover it keeps the last one (R83). -/
def State.steers (s : State) (fs sinceNs : Nat) : Bool :=
  (s.ht.state == .locked && fs ≤ 500 && 250 ≤ sinceNs) || (s.ht.state == .acquiring && s.ht.firstAcquire)

/-- ROOT_PHASE_STEP (R76, R77, R79): a step in the direction of the correction still to be made, and no larger, spends it. -/
def rootPhaseStep (fs : Nat) (lengthen : Bool) (sinceNs : Nat) (s : State) : State :=
  let step : Int := if lengthen then fs else -fs
  if s.steers fs sinceNs && decide (fs ≤ s.ht.corr.natAbs) && lengthen == decide (0 < s.ht.corr) then
    { s with clk := { s.clk with phaseFs := s.clk.phaseFs + step }, ht := { s.ht with corr := s.ht.corr - step } }
  else s

def execRootPhaseStep (fs : Nat) (lengthen : Bool) (sinceNs : Nat) (s : State) : Result :=
  .next (rootPhaseStep fs lengthen sinceNs s)

/-- EXCHANGE_NO_RESPONSE (R81): the third consecutive exchange without response loses the upstream. -/
def exchangeNoResponse (s : State) : State :=
  match s.ht.upstream with
  | some p =>
    if s.ht.exchanging && 2 ≤ s.ht.noResponse then
      -- the neighbour no longer qualifies until it reports again
      State.reselect { s with ht := { s.ht with exchanging := false, noResponse := 0, nbr := tset {} s.ht.nbr p {} } }
    else s
  | none => s

def execExchangeNoResponse (s : State) : Result := .next (exchangeNoResponse s)

/-- RELOCK_PAUSE_END (R84): the held ticks have passed; without it the count resumes by itself (Machine/Tick.lean). -/
def relockPauseEnd (s : State) : State := if s.ht.pause = 1 then { s with ht := { s.ht with pause := 0 } } else s

def execRelockPauseEnd (s : State) : Result := .next (relockPauseEnd s)

/-- ROOT_SEQUENCE_INCREMENT (R85): every 10 µs at the root. -/
def rootSequenceIncrement (s : State) : State :=
  if s.ht.state == .root && s.ht.rootSeqAt + 10000 ≤ s.ht.count then
    { s with ht := { s.ht with rootSeq := s.ht.rootSeq + 1, rootSeqAt := s.ht.count } }
  else s

def execRootSequenceIncrement (s : State) : Result := .next (rootSequenceIncrement s)

/-- BACKUP_ROOT_TAKEOVER (R85): backup k, with no increase for (k + 1) × 100 µs and no higher generation seen in that time; its generation
is one above the last it saw. -/
def backupRootTakeover (s : State) : State :=
  match (List.range 4).find? fun k => 1 ≤ k && s.rootListed k == s.devId && s.devId != 0xFFFF with
  | some k =>
    if (s.ht.state == .locked || s.ht.state == .holdover) && s.ht.rootSeqAt + (k + 1) * 100000 ≤ s.ht.count &&
        s.ht.genSeenAt.all (fun t => decide (t + (k + 1) * 100000 ≤ s.ht.count)) then
      (State.htEvent { s with ht := { s.ht with
        state := .root, rootGen := (if s.ht.rootGen.toNat < s.ht.genSeen.toNat then s.ht.genSeen else s.ht.rootGen) + 1, rootId := s.fab.fabId, hops := 0, far := false, rootSeqAt := s.ht.count } }
        4).dropUpstream
    else s
  | none => s

def execBackupRootTakeover (s : State) : Result := .next (backupRootTakeover s)

/-- REFRESH_BATCH (R98): one batch in slot position 15, and one in position 7 when doubled or pinned. -/
def refreshBatch (c : Nat) (s : State) : State :=
  let slot := s.ht.count / slotLen
  let twice := tget false s.ht.doubled c || bitOf (s.st 0x020020) 0
  if s.boot.gddrTrained.getLsbD c && (slot % 16 = 15 || (slot % 16 = 7 && twice)) && tget 0 s.ht.batchAt c != slot + 1 then
    { s with ht := { s.ht with batches := tmod 0 s.ht.batches c (· + 1), batchAt := tset 0 s.ht.batchAt c (slot + 1) } }
  else s

def execRefreshBatch (channel : Nat) (s : State) : Result :=
  if channel < 96 then .next (refreshBatch channel s) else noResource "channel" channel

/-- REFRESH_RATE_CHANGE (R98). -/
def refreshRateChange (c : Nat) (hot : Bool) (s : State) : State :=
  { s with ht := { s.ht with doubled := tset false s.ht.doubled c hot } }

def execRefreshRateChange (channel : Nat) (hot : Bool) (s : State) : Result :=
  if channel < 96 then .next (refreshRateChange channel hot s) else noResource "channel" channel

end Sys2Proof.Machine
end

