-- ==== Sys2Proof/Machine/LoadStore.lean ====
section
/-!
DEFINITION. The LD and ST units (05_core_sequencer.md R136 to R151; 11_memory_semantics.md R293, R294, R302): tensor
copies, gathers, scatters, atomics, fences, credits, and the completion of a long-running instruction.
-/

namespace Sys2Proof.Machine

/-- R158: the formats a core tensor operation takes. -/
def coreFmts : List Nat := [0, 1, 2, 3, 4, 5, 6, 7, 8, 9, 10, 11]

/-- FMT of a LD or ST slot. -/
def LongInstr.fmt (i : LongInstr) : Nat := i.fld 11 8

/-- A condition whose failure is STRUCTURE. -/
def shapeNeed (ok : Bool) : Check := need ok stStructure 0

/-! ## Rows to move -/

/-- Global addresses of a tensor's rows. -/
def Tensor.globalRows (t : Tensor) : List Nat :=
  t.rows.map fun a => devOf t.base * 2 ^ 48 + a

/-- R294: the requests of an instruction in ascending address order. -/
def ascendingRequests (l : List RemReq) : List RemReq := sortBy (fun a b => decide (a.addr.toNat ≤ b.addr.toNat)) l

/-- R294: LOADs of rows of `n` bytes, from global address to local address, ascending. -/
def loadRequests (n : Nat) (pairs : List (Nat × Nat)) : List RemReq :=
  ascendingRequests (pairs.flatMap fun (g, l) => (splitSpan g n (n + 1)).map fun (a, m) =>
    { op := 0x01, len := m, addr := BitVec.ofNat 64 a, dest := [(l + (a - g), m)] })

/-- R293, R294: STOREs of rows to global addresses, ascending; with a flag word the last one is a STORE_F. -/
def rowStores (rows : List (Nat × List Byte)) (flag : Option Nat) : List RemReq :=
  let rs := ascendingRequests (rows.flatMap fun (g, bs) => (splitSpan g bs.length (bs.length + 1)).map fun (a, m) =>
    { op := 0x02, len := m, addr := BitVec.ofNat 64 a, data := slice bs (a - g) m })
  match flag, rs.getLast? with
  | some f, some r => rs.dropLast ++ [{ r with op := 0x03, flagAddr := f }]
  | _, _ => rs

/-- The rows a write would put into memory, at local addresses. -/
def localWrites (rows : List (Nat × List Byte)) : List (Nat × Nat) := rows.map fun w => (w.1, w.2.length)

/-! ## LD.T, LD.G -/

/-- Checks of LD.T. -/
def State.ldTChecks (s : State) (k : Nat) (i : LongInstr) : List Check :=
  let a := (s.coreDesc k (i.d 0)).resolve s.mem
  let b := (s.coreDesc k (i.d 1)).resolve s.mem
  s.coreChecks k (s.coreDesc k (i.d 0)) coreFmts .readRemote ++ s.coreChecks k (s.coreDesc k (i.d 1)) coreFmts .write ++
    [shapeNeed (a.fmt == i.fmt && b.fmt == i.fmt && a.exts == b.exts)]

/-- LD.T (R136, R143 to R148, R293): tensor D0, here or on another device, to tensor D1. -/
def ldT (k : Nat) (s : State) : State :=
  s.startHead k 5 [0x02] fun s i =>
    let d0 := s.coreDesc k (i.d 0)
    let d1 := s.coreDesc k (i.d 1)
    let a := d0.resolve s.mem
    let b := d1.resolve s.mem
    s.orFailTask k i (s.ldTChecks k i) fun s =>
      if s.isRemote d0 then s.startedRemote k i (loadRequests a.rowLen (a.globalRows.zip b.rows))
      else s.started k i (b.place (a.read s.mem))

def execLdT (core : Nat) (s : State) : Result :=
  if core < 256 then .next (ldT core s) else noResource "core" core

/-- One row of a table indexed in its last dimension: extents and strides below it, and the bytes from one index to
the next. -/
structure Table where
  row : Tensor
  step : Int
  count : Nat
  deriving DecidableEq, Repr

/-- R146: a table's rows. -/
def Tensor.table (t : Tensor) : Table :=
  let r := t.exts.length
  if r = 1 then { row := { t with exts := [1], strs := [] }, step := (fmtBits t.fmt / 8 : Nat), count := t.exts.headD 0 }
  else { row := { t with exts := t.exts.dropLast, strs := t.strs.dropLast }, step := t.strs.getLastD 0, count := t.exts.getLastD 0 }

/-- Local addresses of the pieces of row `j` of a table. -/
def Table.rowAt (x : Table) (j : Nat) : List Nat :=
  x.row.rows.map fun (a : Nat) => ((a : Int) + j * x.step).toNat

/-- R146, R196: padding. -/
def padIndex : Nat := 0xFFFFFFFF

/-- The first index out of range, when OOB mode 0 is in force: BOUNDS with its position. -/
def oobCheck (idx : List Nat) (count mode : Nat) : Check :=
  if mode != 0 then none
  else (idx.findIdx? fun j => j != padIndex && decide (count ≤ j)).map fun p => (stBounds, p)

/-- R146: an out-of-range index under mode 0 fails the task and its position is logged. -/
def State.orFailIndex (s : State) (k : Nat) (i : LongInstr) (c : Check) (body : State → State) : State :=
  match c with
  | some (st, p) => (s.failTask k st i.unit i.bundle p).jobEvent 3 (0x400 + k) 0x0020 0x02 p st (s.core k).job
  | none => body s

/-- Counts rows out of range under mode 1 (R146). -/
def State.countOob (s : State) (k : Nat) (idx : List Nat) (count : Nat) : State :=
  let n := (idx.filter fun j => j != padIndex && decide (count ≤ j)).length
  s.modCore k fun c => { c with oobRows := c.oobRows + n }

/-- The shape of gathered rows: the table's lower extents, and one row for each index. -/
def gatherShape (table rows : Tensor) (n : Nat) : Bool :=
  rows.exts.length == table.exts.length && rows.exts.dropLast == table.exts.dropLast && rows.exts.getLastD 0 == n &&
  (decide (1 < table.exts.length) || (!isMx table.fmt && fmtBits table.fmt % 8 == 0))

/-- The local addresses of the table rows that a list of indices names. -/
def Table.named (x : Table) (idx : List Nat) : List Nat := (idx.filter fun j => j != padIndex && decide (j < x.count)).flatMap x.rowAt

/-- R144: an extent of zero of one of the descriptors. -/
def State.emptyOf (s : State) (ds : List Desc) : Bool := ds.any fun d => (d.resolve s.mem).size == 0

/-- Checks of LD.G. -/
def State.ldGChecks (s : State) (k : Nat) (i : LongInstr) : List Check :=
  let a := (s.coreDesc k (i.d 0)).resolve s.mem
  let x := (s.coreDesc k (i.d 1)).resolve s.mem
  let b := (s.coreDesc k (i.d 2)).resolve s.mem
  s.descChecks k (s.coreDesc k (i.d 0)) coreFmts .readRemote ++ s.coreChecks k (s.coreDesc k (i.d 1)) [0xD] .read ++
    s.coreChecks k (s.coreDesc k (i.d 2)) coreFmts .write ++ [shapeNeed (a.fmt == i.fmt && b.fmt == i.fmt && gatherShape a b x.size)]

/-- LD.G (R146): rows of table D0 by index tensor D1 into D2. -/
def ldG (k : Nat) (s : State) : State :=
  s.startHead k 5 [0x03] fun s i =>
    let d0 := s.coreDesc k (i.d 0)
    let d1 := s.coreDesc k (i.d 1)
    let d2 := s.coreDesc k (i.d 2)
    let a := d0.resolve s.mem
    let x := d1.resolve s.mem
    let b := d2.resolve s.mem
    s.orFailTask k i (s.ldGChecks k i) fun s =>
      let idx := x.words s.mem
      let tb := a.table
      if s.emptyOf [d0, d1, d2] then s.started k i []
      else s.orFailIndex k i (oobCheck idx tb.count (i.fld 41 40)) fun s => s.orFailTask k i [s.eccRows d0 false (tb.named idx)] fun s =>
        let s1 := s.countOob k idx tb.count
        let per := tb.row.rows.length
        let ok j := j != padIndex && decide (j < tb.count)
        let dst n := (b.rows.drop (n * per)).take per
        if s.isRemote d0 then
          let dv := devOf a.base * 2 ^ 48
          let pairs := (idx.zip (List.range idx.length)).flatMap fun (j, n) =>
            if ok j then ((tb.rowAt j).map (dv + ·)).zip (dst n) else []
          let zero := (idx.zip (List.range idx.length)).flatMap fun (j, n) => if ok j then [] else (dst n).map fun a => (a, zeros b.rowLen)
          (s1.startedRemote k i (loadRequests a.rowLen pairs)).markLast k fun x => { x with writes := zero }
        else
          s1.started k i ((idx.zip (List.range idx.length)).flatMap fun (j, n) =>
            if ok j then ((tb.rowAt j).zip (dst n)).map fun (p, q) => (q, s.mem.bytes p b.rowLen)
            else (dst n).map fun q => (q, zeros b.rowLen))

def execLdG (core : Nat) (s : State) : Result :=
  if core < 256 then .next (ldG core s) else noResource "core" core

/-! ## Credits, R150, R151 -/

/-- LD.CR: completes at once against a neighbour in SERVICE mode, behind the unit's earlier instructions alone (R124), else waits for
the grant. -/
def ldCr (k : Nat) (s : State) : State :=
  s.startHead k 5 [0x04] fun s i =>
    let dir := i.fld 66 64
    let w := i.fld 69 67
    if 14 ≤ i.fmt then s.failTask k stStructure i.unit i.bundle 0 else
    match s.neighbour k dir with
    | none => s.failTask k stBounds i.unit i.bundle 0
    | some p =>
      if !(s.window p w).en then s.failTask k stBounds i.unit i.bundle 0
      else if (s.core p).mode = 1 then
        let s1 := s.started k i []
        if (s.core k).started.any (fun x => x.unit == 5) then s1
        else ((s1.core k).started.getLast?).elim s1 fun x => s1.completeInstr k x
      else
        let id := (s.core k).nextId
        ((s.started k i []).markLast k fun x => { x with creditWait := true }).modCore p fun c =>
          { c with creditReqs := c.creditReqs ++ [{ window := w, dir := opposite dir, core := k, instr := id, clock := c.clock }] }

def execLdCr (core : Nat) (s : State) : Result :=
  if core < 256 then .next (ldCr core s) else noResource "core" core

/-- R151: of the requests for a window made in earlier core cycles of its owner, the first: by cycle, then north, south, west, east. -/
def Core.nextCredit (c : Core) (w : Nat) : Option CreditReq :=
  (sortBy (fun a b => decide (a.clock < b.clock) || (a.clock == b.clock && decide (a.dir ≤ b.dir)))
    (c.creditReqs.filter fun r => r.window == w && decide (r.clock < c.clock))).head?

/-- CREDIT_GRANT (R151): a grantable window goes to the request made first. -/
def creditGrant (k w : Nat) (s : State) : State :=
  let x := s.window k w
  if x.en && x.holder = 0 && x.free then
    match (s.core k).nextCredit w with
    | none => s
    | some r =>
      let s1 := s.modCore k fun c => { c with
        creditReqs := c.creditReqs.erase r, crw := tmod {} c.crw w fun y => { y with holder := r.dir, used := false } }
      s1.modCore r.core fun c => { c with
        started := c.started.map fun i => if i.id == r.instr && i.creditWait then { i with creditWait := false } else i }
  else s

def execCreditGrant (core window : Nat) (s : State) : Result :=
  if 256 ≤ core then noResource "core" core
  else if 8 ≤ window then noResource "window" window
  else .next (creditGrant core window s)

/-! ## ST.T, ST.S -/

/-- AUX of an ST slot: remote counter, remote EN, FLAG. -/
def LongInstr.remCounter (i : LongInstr) : Nat := i.fld 44 40
def LongInstr.remEn (i : LongInstr) : Bool := bitOf i.bits.toNat 45
def LongInstr.flagBit (i : LongInstr) : Bool := bitOf i.bits.toNat 46

/-- The neighbour whose scratchpad holds every row of a write. -/
def State.oneNeighbour (s : State) (k : Nat) (ws : List (Nat × Nat)) : Option Nat :=
  match ws with
  | [] => none
  | (a, n) :: _ => (padCore a n).filter fun p => p != k && (s.dirTo k p).isSome && ws.all fun w => padCore w.1 w.2 == some p

/-- R144, R149: the neighbour whose counter a store with remote EN raises: the one that holds its rows or, where no row is
written, the one that holds BASE. -/
def State.arrivalAt (s : State) (k : Nat) (dst : Desc) (ws : List (Nat × Nat)) : Option Nat :=
  s.oneNeighbour k (if ws.isEmpty then [(localOf dst.base, 1)] else ws)

/-- R149, R293: the checks of remote EN and FLAG over the rows written. -/
def State.storeChecks (s : State) (k : Nat) (i : LongInstr) (dst flag : Desc) (ws : List (Nat × Nat)) : List Check :=
  let f := flag.resolve s.mem
  [shapeNeed (!(i.flagBit && i.remEn)),
   shapeNeed (!i.flagBit || (s.isRemote dst && flag.structOk s.mem [0xA] && f.exts == [2] && devOf flag.base == devOf dst.base)),
   need (!i.flagBit || flag.base % 8 == 0) stAlign 0,
   need (!i.remEn || (!s.isRemote dst && (s.arrivalAt k dst ws).isSome)) stBounds 0]

/-- Starts a store of rows: local writes with their arrival, or STOREs to another device. -/
def State.startStore (s : State) (k : Nat) (i : LongInstr) (dst flag : Desc) (rows : List (Nat × List Byte)) : State :=
  if s.isRemote dst then
    let dv := devOf dst.base * 2 ^ 48
    s.startedRemote k i (rowStores (rows.map fun w => (dv + w.1, w.2)) (if i.flagBit then some (localOf flag.base) else none))
  else
    let ws := localWrites rows
    let s1 := s.started k i rows
    if i.remEn then
      match s.arrivalAt k dst ws with
      | some p =>
        let cr := s.windowsOf k p ws
        cr.foldl (fun s w => s.modWindow w.1 w.2 fun y => { y with used := true })
          (s1.markLast k fun x => { x with arrival := some (p, i.remCounter), credit := cr })
      | none => s1
    else s1

/-- Checks of ST.T. -/
def State.stTChecks (s : State) (k : Nat) (i : LongInstr) : List Check :=
  let d0 := s.coreDesc k (i.d 0)
  let d1 := s.coreDesc k (i.d 1)
  let a := d0.resolve s.mem
  let b := d1.resolve s.mem
  s.coreChecks k d0 coreFmts .read ++ s.coreChecks k d1 coreFmts .writeRemote ++
    [shapeNeed (a.fmt == i.fmt && b.fmt == i.fmt && a.exts == b.exts)] ++
    s.storeChecks k i d1 (s.coreDesc k (i.d 2)) (localWrites (b.place (a.read s.mem)))

/-- ST.T (R136, R149, R293): tensor D0 to tensor D1; D2 is the flag word under FLAG. -/
def stT (k : Nat) (s : State) : State :=
  s.startHead k 6 [0x02] fun s i =>
    let d0 := s.coreDesc k (i.d 0)
    let d1 := s.coreDesc k (i.d 1)
    let d2 := s.coreDesc k (i.d 2)
    let a := d0.resolve s.mem
    let b := d1.resolve s.mem
    let rows := b.place (a.read s.mem)
    s.orFailTask k i (s.stTChecks k i) fun s =>
      s.startStore k i d1 d2 rows

def execStT (core : Nat) (s : State) : Result :=
  if core < 256 then .next (stT core s) else noResource "core" core

/-- Checks of ST.S on its descriptors. -/
def State.stSChecks (s : State) (k : Nat) (i : LongInstr) : List Check :=
  let a := (s.coreDesc k (i.d 0)).resolve s.mem
  let x := (s.coreDesc k (i.d 1)).resolve s.mem
  let b := (s.coreDesc k (i.d 2)).resolve s.mem
  s.coreChecks k (s.coreDesc k (i.d 0)) coreFmts .read ++ s.coreChecks k (s.coreDesc k (i.d 1)) [0xD] .read ++
    s.descChecks k (s.coreDesc k (i.d 2)) coreFmts .writeRemote ++ [shapeNeed (a.fmt == i.fmt && b.fmt == i.fmt && gatherShape b a x.size)]

/-- The rows that ST.S writes: each kept index's row of D0 at that row of the table. -/
def State.stSRows (s : State) (k : Nat) (i : LongInstr) : List (Nat × List Byte) :=
  let a := (s.coreDesc k (i.d 0)).resolve s.mem
  let idx := ((s.coreDesc k (i.d 1)).resolve s.mem).words s.mem
  let tb := ((s.coreDesc k (i.d 2)).resolve s.mem).table
  let per := tb.row.rows.length
  (idx.zip (List.range idx.length)).flatMap fun (j, n) =>
    if j != padIndex && decide (j < tb.count) then
      (((a.rows.drop (n * per)).take per).zip (tb.rowAt j)).map fun (p, q) => (q, s.mem.bytes p a.rowLen)
    else []

/-- ST.S (R138, R146): rows of D0 by index tensor D1 into table D2; a later index position wins. -/
def stS (k : Nat) (s : State) : State :=
  s.startHead k 6 [0x03] fun s i =>
    let d1 := s.coreDesc k (i.d 1)
    let d2 := s.coreDesc k (i.d 2)
    s.orFailTask k i (s.stSChecks k i) fun s =>
      let idx := (d1.resolve s.mem).words s.mem
      let tb := (d2.resolve s.mem).table
      if s.emptyOf [s.coreDesc k (i.d 0), d1, d2] then s.startStore k i d2 d2 []
      else s.orFailIndex k i (oobCheck idx tb.count (i.fld 49 48)) fun s => s.orFailTask k i [s.eccRows d2 true (tb.named idx)] fun s =>
        let rows := s.stSRows k i
        s.orFailTask k i (s.storeChecks k i d2 d2 (localWrites rows)) fun s =>
          (s.countOob k idx tb.count).startStore k i d2 d2 rows

def execStS (core : Nat) (s : State) : Result :=
  if core < 256 then .next (stS core s) else noResource "core" core

/-! ## ST.A, ST.FENCE -/

/-- Local addresses of the elements of a tensor of 32-bit elements, `w` elements at a time. -/
def Tensor.elems (t : Tensor) (w : Nat) : List Nat :=
  t.rows.flatMap fun a => (List.range (t.exts.headD 0 / w)).map fun i => a + 4 * w * i

/-- Checks of ST.A. -/
def State.stAChecks (s : State) (k : Nat) (i : LongInstr) : List Check :=
  let idx := i.fld 43 40
  let wide := bitOf i.bits.toNat 44
  let d1 := s.coreDesc k (i.d 1)
  let a := (s.coreDesc k (i.d 0)).resolve s.mem
  let b := d1.resolve s.mem
  let c := (s.coreDesc k (i.d 2)).resolve s.mem
  let fmt := if idx = 8 then 0x0 else 0xA
  let w := if wide then 2 else 1
  let shape := (if idx == 7 then a.exts.headD 0 == 2 * b.exts.headD 0 else a.exts.headD 0 == b.exts.headD 0) &&
    a.exts.drop 1 == b.exts.drop 1 && (!wide || b.exts.headD 0 % 2 == 0) && i.fmt == fmt && !(idx == 8 && wide)
  s.coreChecks k (s.coreDesc k (i.d 0)) [fmt] .read ++ s.coreChecks k d1 [fmt] .writeRemote ++
    (if i.d 2 != 0 then s.coreChecks k (s.coreDesc k (i.d 2)) [fmt] .write ++ [shapeNeed (c.exts == b.exts)] else []) ++
    [shapeNeed shape, need (s.isRemote d1) stBounds 0, need ((b.elems w).all fun p => p % (4 * w) == 0) stAlign 0]

/-- The atomic requests of ST.A, in ascending address order (R294). -/
def State.stARequests (s : State) (k : Nat) (i : LongInstr) : List RemReq :=
  let w := if bitOf i.bits.toNat 44 then 2 else 1
  let b := (s.coreDesc k (i.d 1)).resolve s.mem
  let acas := i.fld 43 40 == 7
  let ops := ((s.coreDesc k (i.d 0)).resolve s.mem).elems (if acas then 2 * w else w)
  let olds := ((s.coreDesc k (i.d 2)).resolve s.mem).elems w
  let reqs := ((b.elems w).zip (List.range (b.elems w).length)).map fun (p, n) =>
    let q := ops.getD n 0
    ({ op := 0x10 + i.fld 43 40, len := 4 * w, addr := BitVec.ofNat 64 (devOf b.base * 2 ^ 48 + p), a := BitVec.ofNat 64 (s.mem.nat q (4 * w))
       b := if acas then BitVec.ofNat 64 (s.mem.nat (q + 4 * w) (4 * w)) else 0
       dest := if i.d 2 != 0 then [(olds.getD n 0, 4 * w)] else [] } : RemReq)
  ascendingRequests reqs

/-- ST.A (R293, R294): the atomic of AUX[43:40] with operands D0 on remote tensor D1; old values to D2. -/
def stA (k : Nat) (s : State) : State :=
  s.startHead k 6 [0x04] fun s i => s.orFailTask k i (s.stAChecks k i) fun s => s.startedRemote k i (s.stARequests k i)

def execStA (core : Nat) (s : State) : Result :=
  if core < 256 then .next (stA core s) else noResource "core" core

/-- ST.FENCE (R302): completes after every earlier remote write of the core; the unit's queue waits for it. -/
def stFence (k : Nat) (s : State) : State :=
  s.startHead k 6 [0x05] fun s i => s.orFailTask k i [shapeNeed (decide (i.fmt < 14))] fun s =>
    (s.started k i []).markLast k fun x => { x with fence := true }

def execStFence (core : Nat) (s : State) : Result :=
  if core < 256 then .next (stFence core s) else noResource "core" core

/-! ## Completion -/

/-- LONG_INSTRUCTION_COMPLETE (R124, R127, R149, R168, R169): the oldest started instruction of a unit (3 VEC, 4 MAT, 5 LD,
6 ST) completes; for the array, the cycles it advanced, the cycles it stood frozen, and the last frozen cycle's causes. Its fill
overlaps the 2 cycles of the drain before it when it started behind an instruction still in the array and no freeze stood at the
boundary, which `overlapped` reports. -/
def longInstructionComplete (k unit : Nat) (overlapped : Bool) (frozen cause : Nat) (drain : Bool) (s : State) : State :=
  match (s.core k).started.find? fun x => x.unit == unit with
  | none => s
  | some x =>
    if x.remote != 0 || x.creditWait then s
    else
      let s1 := s.completeOldest k unit
      if unit = 4 then
        s1.modCore k fun c => { c with
          matBusy := c.matBusy + (x.busy - (if overlapped && x.backToBack then 2 else 0)), matFrozen := c.matFrozen + frozen
          matCause := if frozen = 0 then c.matCause else cause % 16, matDrain := if frozen = 0 then c.matDrain else drain }
      else s1

def execLongInstructionComplete (core unit : Nat) (overlapped : Bool) (frozen cause : Nat) (drain : Bool) (s : State) : Result :=
  if core < 256 then .next (longInstructionComplete core unit overlapped frozen cause drain s) else noResource "core" core

end Sys2Proof.Machine
end

