-- ==== Sys2Proof/Machine/TensorOps.lean ====
section
/-!
DEFINITION. The matrix array and the tensor operations of the vector unit: MMA (R163 to R169), its structured operands
(R179 to R187), MMA.SCREEN (R192, R193), TCVT, TADD, TMUL, TRED (R174, R175) and TSPARSE (R188 to R195).
-/

namespace Sys2Proof.Machine

/-! ## Structured patterns, Table 7-1 -/

/-- A pattern: group size, kept per group, metadata bits, multiple of the dense grouped extent. -/
structure Pattern where
  g : Nat
  n : Nat
  bits : Nat
  mult : Nat
  deriving DecidableEq, Repr

def patternOf (spar : Nat) : Pattern :=
  match spar with | 2 => ⟨8, 4, 8, 8⟩ | 3 => ⟨4, 1, 2, 16⟩ | _ => ⟨4, 2, 4, 8⟩

/-- The ratio of dense to compressed extent. -/
def Pattern.r (p : Pattern) : Nat := p.g / p.n

/-- Binomial coefficients. -/
def choose : Nat → Nat → Nat
  | _, 0 => 1
  | 0, _ + 1 => 0
  | n + 1, k + 1 => choose n k + choose n (k + 1)

/-- R181: the kept positions of a 4:8 code, by the largest p with C(p,k) ≤ c for k = 4, 3, 2, 1. -/
def decode48 (c : Nat) : List Nat :=
  ([4, 3, 2, 1].foldl (fun (x : Nat × List Nat) k =>
    let p := ((List.range 8).filter fun p => choose p k ≤ x.1).getLast?.getD 0
    (x.1 - choose p k, p :: x.2)) (c, [])).2

/-- R181: the kept positions a group's metadata names; none when malformed. -/
def keptOf (spar code : Nat) : Option (List Nat) :=
  match spar with
  | 3 => some [code % 4]
  | 2 => if code ≤ 69 then some (decode48 code) else none
  | _ => if code % 4 < code / 4 % 4 then some [code % 4, code / 4 % 4] else none

/-- R181: the metadata of a group that keeps these positions. -/
def codeOf (spar : Nat) (ps : List Nat) : Nat :=
  match spar with
  | 3 => ps.headD 0
  | 2 => ((ps.zip [1, 2, 3, 4]).map fun x => choose x.1 x.2).foldl (· + ·) 0
  | _ => ps.headD 0 + 4 * ps.getD 1 0

/-- Group `g` of a metadata line (R180). -/
def groupCode (line : List Byte) (bits g : Nat) : Nat := leNat line / 2 ^ (bits * g) % 2 ^ bits

/-- The kept positions of every group of a line, or the byte offset in the line of the first malformed group. -/
def lineKept (spar : Nat) (p : Pattern) (line : List Byte) (groups : Nat) : Except Nat (List (List Nat)) :=
  (List.range groups).foldr (fun g acc =>
    match keptOf spar (groupCode line p.bits g) with
    | none => .error (p.bits * g / 8)
    | some ks => match acc with | .ok l => .ok (ks :: l) | .error e => .error e) (.ok [])

/-- R167, R182: a compressed line expanded with exact zeros. -/
def expandLine (p : Pattern) (kept : List (List Nat)) (vals : List FVal) : List FVal :=
  (kept.zip (List.range kept.length)).flatMap fun (ks, g) =>
    (List.range p.g).map fun i =>
      match ks.idxOf? i with
      | some q => vals.getD (g * p.n + q) fZero
      | none => fZero

/-! ## MMA, R163 to R166 -/

/-- Table 6-3: the reduction block of a format pair, none when the array does not accept it. -/
def redBlock (a b : Nat) : Option Nat :=
  let fp8 x := x == 0x3 || x == 0x4
  if fp8 a && fp8 b then some 32
  else if isMx a && isMx b then (if a = 0x8 && b = 0x8 then some 64 else some 32)
  else if (a = 0x1 && b = 0x1) || (a = 0x2 && b = 0x2) then some 32
  else if a = 0x9 && b = 0x9 then some 32
  else none

/-- Table 6-3: the output formats of a pair. -/
def outFmts (a b : Nat) : List Nat :=
  if a = 0x9 && b = 0x9 then [0xA] else if a ≤ 0x2 && b ≤ 0x2 then [0, 1, 2] else [0, 1, 2, 3, 4]

/-- Extents padded with ones to five dimensions. -/
def padExts (e : List Nat) : List Nat := (List.range 5).map fun i => e.getD i 1

/-- The batch extents of a tensor. -/
def Tensor.batch (t : Tensor) : List Nat := (padExts t.exts).drop 2

/-- R163: batch extents agree, B's may be 1. -/
def batchOk (a b c : Tensor) : Bool :=
  a.batch == c.batch && (a.batch.zip b.batch).all fun x => x.1 == x.2 || x.2 == 1

/-- The batch of B that goes with flattened batch `n` of A. -/
def batchOfB (a b : List Nat) (n : Nat) : Nat :=
  ((a.zip b).foldl (fun (x : Nat × Nat × Nat) e =>
    -- x: what is left of n, B's stride, B's index
    let d := x.1 % e.1
    (x.1 / e.1, x.2.1 * e.2, x.2.2 + (if e.2 = 1 then 0 else d) * x.2.1)) (n, 1, 0)).2.2

/-- Table 6-3: Cf, the core cycles of one pass. -/
def passCycles (a b : Nat) : Nat := if (a = 0x1 && b = 0x1) || (a = 0x2 && b = 0x2) then 4 else 1

/-- R168: the core cycles for which an MMA that is never frozen occupies the array, for each batch. -/
def occupancy (kb cf m n kk batch : Nat) (sparse : Bool) : Nat :=
  batch * (ceilDiv n 64 * ceilDiv kk (kb * (if sparse then 2 else 1)) * max m 32 * cf + 34)

/-- R165: INT8 sums wrap modulo 2^32. -/
def dotInt (acc : Int) (a b : List Int) : Int := (a.zipWith (· * ·) b).foldl (· + ·) acc

/-- An integer element as an integer. -/
def FVal.toInt (v : FVal) : Int :=
  match v with | .fin n m e => let x : Int := if 0 ≤ e then m * 2 ^ e.toNat else m / 2 ^ (-e).toNat; if n then -x else x | _ => 0

/-- Rows of K elements of a batch. -/
def rowsOf (vs : List FVal) (k : Nat) : List (List FVal) := if k = 0 then [] else chunksOf k (vs.length + 1) vs

/-- The words of C, as encodings in FMTO, in flattened order: batch, then m, then n. -/
def mmaWords (kb fmto : Nat) (int : Bool) (aRows bRows : List (List FVal)) (m n : Nat) (ab bb : List Nat) (c0 : Option (List FVal)) : List Nat :=
  let nb := ab.foldl (· * ·) 1
  (List.range nb).flatMap fun q =>
    let bq := batchOfB ab bb q
    (List.range m).flatMap fun i =>
      (List.range n).map fun j =>
        let a := aRows.getD (q * m + i) []
        let b := bRows.getD (bq * n + j) []
        let c := (c0.bind fun l => l[(q * m + i) * n + j]?).getD fZero
        if int then unsignedOf 32 (dotInt c.toInt (a.map FVal.toInt) (b.map FVal.toInt))
        else encodeElem fmto .rne (dotBlocks kb (toFp32 c) a b)

/-- Bytes of encodings in a format. -/
def encBytes (fmt : Nat) (ws : List Nat) : List Byte := ws.flatMap (leBytes (fmtBits fmt / 8))

/-- Operand A of a sparse MMA made dense: its rows over all batches, or the failure of Table 7-3. -/
def denseA (m : Memory) (spar mm kk : Nat) (a md : Tensor) (kGrouped : Bool) : Except (Nat × Nat) (List (List FVal)) :=
  let p := patternOf spar
  let lines := md.rows
  let groups := (if kGrouped then kk else mm) / p.g
  let aRows := rowsOf (a.vals m) (a.exts.headD 0)
  let kept := (lines.zip (List.range lines.length)).map fun (addr, l) =>
    match lineKept spar p (m.bytes addr md.rowLen) groups with
    | .error off => Except.error (addr - localOf md.base + off)
    | .ok ks => .ok (expandLine p ks (aRows.getD l []))
  match kept.findSome? fun x => match x with | .error e => some e | .ok _ => none with
  | some off => .error (stStructure, off)
  | none =>
    let dense := kept.map fun x => match x with | .ok l => l | .error _ => []
    if kGrouped then .ok dense
    else
      -- R185: lines run over K; transposed they are the rows of A
      let nb := if kk = 0 then 0 else dense.length / kk
      .ok ((List.range nb).flatMap fun q => (List.range mm).map fun i => (List.range kk).map fun k => (dense.getD (q * kk + k) []).getD i fZero)

/-- R187: the tile rule of transposed-structured metadata: the first breaking tile's DETAIL. -/
def tileCheck (m : Memory) (mm kk : Nat) (md : Tensor) : Option Nat :=
  let p := patternOf 4
  let lines := md.rows.map fun addr => (List.range (kk / 4)).map fun g => (keptOf 4 (groupCode (m.bytes addr md.rowLen) p.bits g)).getD []
  let nb := if mm = 0 then 0 else lines.length / mm
  ((List.range nb).flatMap fun q => (List.range (mm / 4)).flatMap fun t => (List.range (kk / 4)).filterMap fun g =>
    let cnt i := ((List.range 4).filter fun r => (((lines.getD (q * mm + 4 * t + r) []).getD g []).contains i)).length
    if (List.range 4).all fun i => cnt i == 2 then none else some (4 * t * 2 ^ 20 + 4 * g)).head?

/-- R183: extents of a sparse MMA. -/
def sparseShape (spar : Nat) (a b c md : Tensor) (kGrouped : Bool) : Bool :=
  let p := patternOf spar
  let ea := padExts a.exts
  let k := b.exts.headD 0
  let m := (padExts c.exts).getD 1 1
  let dense := if kGrouped then k else m
  let line := if kGrouped then (m, 8) else (k, 32)
  ea.getD 0 0 * p.r == dense && ea.getD 1 1 == (if kGrouped then m else k) && dense % p.mult == 0 &&
  (kGrouped || dense % (if spar = 3 then 64 else 32) == 0) && (spar != 4 || (kGrouped && m % 4 == 0)) &&
  md.exts.headD 0 * line.2 == dense / p.g * p.bits && (padExts md.exts).getD 1 1 == line.1 && md.batch == a.batch

/-- The metadata descriptor, D1 + 1. -/
def State.metaDesc (s : State) (k : Nat) (i : LongInstr) : Desc := s.coreDesc k (i.d 1 + 1)

/-- R163: the range of C overlaps an operand's. -/
def rangeClash (c : Desc) (ds : List Desc) : Bool := ds.any fun d => overlap c.range d.range

/-- Writes encodings into the rows of a tensor. -/
def Tensor.placeEnc (t : Tensor) (ws : List Nat) : List (Nat × List Byte) := t.place (encBytes t.fmt ws)

/-- Checks of MMA. -/
def State.mmaChecks (s : State) (k : Nat) (i : LongInstr) : List Check :=
  let spar := i.fld 22 20
  let d0 := s.coreDesc k (i.d 0)
  let d1 := s.coreDesc k (i.d 1)
  let d2 := s.coreDesc k (i.d 2)
  let dm := s.metaDesc k i
  let a := d0.resolve s.mem
  let b := d1.resolve s.mem
  let c := d2.resolve s.mem
  let md := dm.resolve s.mem
  let kk := b.exts.headD 0
  let n := (padExts b.exts).getD 1 1
  let m := (padExts c.exts).getD 1 1
  let sparse := spar != 0
  let shape := a.fmt == i.fld 11 8 && b.fmt == i.fld 15 12 && c.fmt == i.fld 19 16 && (redBlock a.fmt b.fmt).isSome &&
    (outFmts a.fmt b.fmt).contains c.fmt && c.exts.headD 0 == n && batchOk a b c &&
    (if sparse then sparseShape spar a b c md (md.fmt == 0x9) else a.exts.headD 0 == kk && (padExts a.exts).getD 1 1 == m) &&
    !rangeClash d2 ([d0, d1] ++ if sparse then [dm] else [])
  s.coreChecks k d0 coreFmts .read ++ s.coreChecks k d1 coreFmts .read ++ s.coreChecks k d2 coreFmts .write ++
    (if bitOf i.bits.toNat 23 then [s.eccRows d2 false c.rows] else []) ++
    (if sparse then s.coreChecks k dm [0x9, 0xA] .read else []) ++ [shapeNeed shape]

/-- MMA (R135, R163 to R169, R179 to R187). -/
def mma (k : Nat) (s : State) : State :=
  s.startHead k 4 [0x01] fun s i =>
    let spar := i.fld 22 20
    let d0 := s.coreDesc k (i.d 0)
    let d1 := s.coreDesc k (i.d 1)
    let d2 := s.coreDesc k (i.d 2)
    let dm := s.metaDesc k i
    let a := d0.resolve s.mem
    let b := d1.resolve s.mem
    let c := d2.resolve s.mem
    let md := dm.resolve s.mem
    let kGrouped := md.fmt == 0x9
    let kk := b.exts.headD 0
    let n := (padExts b.exts).getD 1 1
    let m := (padExts c.exts).getD 1 1
    let sparse := spar != 0
    s.orFailTask k i (s.mmaChecks k i) fun s =>
      if a.size = 0 || b.size = 0 || c.size = 0 then s.startedMat k i [] 0
      else
        let rows := if sparse then denseA s.mem spar m kk a md kGrouped else .ok (rowsOf (a.vals s.mem) kk)
        match rows with
        | .error (st, off) => s.failTask k st i.unit i.bundle off
        | .ok aRows =>
          match if spar = 4 then tileCheck s.mem m kk md else none with
          | some d => s.failTask k stStructure i.unit i.bundle d
          | none =>
            let c0 := if bitOf i.bits.toNat 23 then some (c.vals s.mem) else none
            let ws := mmaWords ((redBlock a.fmt b.fmt).getD 32) c.fmt (a.fmt == 0x9) aRows (rowsOf (b.vals s.mem) kk) m n a.batch b.batch c0
            let kb := (redBlock a.fmt b.fmt).getD 32
            s.startedMat k i (c.placeEnc ws) (occupancy kb (passCycles a.fmt b.fmt) m n kk (a.batch.foldl (· * ·) 1) sparse)

def execMma (core : Nat) (s : State) : Result :=
  if core < 256 then .next (mma core s) else noResource "core" core

/-! ## MMA.SCREEN, R192, R193 -/

/-- A counted list in `n` words: the count, the entries, padding. -/
def countedList (l : List Nat) (n : Nat) : List Nat := (l.length :: l) ++ List.replicate (n - 1 - l.length) padIndex

/-- Checks of MMA.SCREEN. -/
def State.mmaScreenChecks (s : State) (k : Nat) (i : LongInstr) : List Check :=
  let d0 := s.coreDesc k (i.d 0)
  let d1 := s.coreDesc k (i.d 1)
  let d2 := s.coreDesc k (i.d 2)
  let dt := s.coreDesc k (i.d 2 + 1)
  let a := d0.resolve s.mem
  let b := d1.resolve s.mem
  let c := d2.resolve s.mem
  let t := dt.resolve s.mem
  let n := (padExts b.exts).getD 1 1
  let shape := i.fld 11 8 == 0x8 && i.fld 15 12 == 0x8 && i.fld 19 16 == 0xA && i.fld 23 20 == 0 && a.fmt == 0x8 && b.fmt == 0x8 &&
    a.exts.headD 0 == b.exts.headD 0 && a.exts.length ≤ 2 && b.exts.length ≤ 2 && t.exts.length == 1 &&
    (t.exts.headD 0 == 1 || t.exts.headD 0 == n) && c.exts.length == 1 && decide (n + 1 ≤ c.exts.headD 0) && !rangeClash d2 [d0, d1]
  s.coreChecks k d0 [0x8] .read ++ s.coreChecks k d1 [0x8] .read ++ s.coreChecks k d2 [0xA] .write ++
    s.coreChecks k dt [0x0] .read ++ [shapeNeed shape]

/-- MMA.SCREEN: the counted list of the channels whose score exceeds its threshold in some row. -/
def mmaScreen (k : Nat) (s : State) : State :=
  s.startHead k 4 [0x02] fun s i =>
    let d0 := s.coreDesc k (i.d 0)
    let d1 := s.coreDesc k (i.d 1)
    let d2 := s.coreDesc k (i.d 2)
    let dt := s.coreDesc k (i.d 2 + 1)
    let a := d0.resolve s.mem
    let b := d1.resolve s.mem
    let c := d2.resolve s.mem
    let t := dt.resolve s.mem
    let kk := b.exts.headD 0
    let n := (padExts b.exts).getD 1 1
    let m := (padExts a.exts).getD 1 1
    s.orFailTask k i (s.mmaScreenChecks k i) fun s =>
      if a.size = 0 || b.size = 0 then s.startedMat k i [] 0
      else
        let aRows := rowsOf (a.vals s.mem) kk
        let bRows := rowsOf (b.vals s.mem) kk
        let tau := t.vals s.mem
        let sel := (List.range n).filter fun j =>
          let th := tau.getD (if t.exts.headD 0 = 1 then 0 else j) fZero
          th == .nan || th == .inf true || (List.range m).any fun r =>
            let v := dotBlocks 64 fZero (aRows.getD r []) (bRows.getD j [])
            v.isNan || th.lt v
        s.startedMat k i (c.placeWords (countedList sel (c.exts.headD 0))) (occupancy 64 1 m n kk 1 false)

def execMmaScreen (core : Nat) (s : State) : Result :=
  if core < 256 then .next (mmaScreen core s) else noResource "core" core

/-! ## TCVT, TADD, TMUL, TRED, R174, R175 -/

/-- The flattened index in a tensor of extents `e` of element `n` of a result of extents `out` (an extent 1 is broadcast). -/
def bcastIndex (out e : List Nat) (n : Nat) : Nat := batchOfB out e n

/-- Extents equal or 1, over the result's. -/
def bcastOk (out e : List Nat) : Bool := ((padExts out).zip (padExts e)).all fun x => x.1 == x.2 || x.2 == 1

/-- Rows of a result, encoded; in integer formats a value out of range is free. -/
def Tensor.placeFree (t : Tensor) (ints : Bool) (key : List Nat) (r : Rnd) (vs : List FVal) : List (Nat × List Byte) :=
  if isMx t.fmt then t.placeVals r vs
  else t.placeEnc ((vs.zip (List.range vs.length)).map fun (v, i) => encodeFree ints key i t.fmt r v)

/-- What a free value of a tensor operation may depend on: the operation, the rounding, and the operands with their extents. -/
def LongInstr.key (i : LongInstr) (m : Memory) (ts : List Tensor) : List Nat :=
  [i.op, i.fld 33 32] ++ ts.flatMap fun t => t.fmt :: leNat (t.read m) :: t.exts

/-- Checks of an elementwise operation. -/
def State.elementwiseChecks (s : State) (k : Nat) (i : LongInstr) (srcs : List Nat) (dst : Nat) : List Check :=
  let ds := srcs.map fun n => s.coreDesc k (i.d n)
  let dd := s.coreDesc k (i.d dst)
  let t := dd.resolve s.mem
  ds.flatMap (fun d => s.coreChecks k d coreFmts .read) ++ s.coreChecks k dd coreFmts .write ++
    [shapeNeed (t.fmt == i.fld 11 8 && (ds.map fun d => d.resolve s.mem).all fun x => bcastOk t.exts x.exts)]

/-- An elementwise operation of the sources `srcs` into descriptor `dst`. -/
def State.elementwise (s : State) (k : Nat) (i : LongInstr) (srcs : List Nat) (dst : Nat) (f : List FVal → FVal) : State :=
  let ds := srcs.map fun n => s.coreDesc k (i.d n)
  let dd := s.coreDesc k (i.d dst)
  let ts := ds.map fun d => d.resolve s.mem
  let t := dd.resolve s.mem
  s.orFailTask k i (s.elementwiseChecks k i srcs dst) fun s =>
    let vals := ts.map fun x => (x, x.vals s.mem)
    let out := (List.range t.size).map fun n =>
      f (vals.map fun x => x.2.getD (bcastIndex (padExts t.exts) (padExts x.1.exts) n) fZero)
    s.started k i (t.placeFree (ts.all fun x => isInt x.fmt) (i.key s.mem ts) (Rnd.ofCode (i.fld 33 32)) out)

/-- TCVT: tensor D0 in the format of D1. -/
def execTcvt (core : Nat) (s : State) : Result :=
  if core < 256 then .next (s.startHead core 3 [0xC1] fun s i => s.elementwise core i [0] 1 fun l => l.headD fZero)
  else noResource "core" core

/-- TADD: D2 = D0 + D1. -/
def execTadd (core : Nat) (s : State) : Result :=
  if core < 256 then .next (s.startHead core 3 [0xC2] fun s i =>
    s.elementwise core i [0, 1] 2 fun l => (l.headD fZero).add (l.getD 1 fZero) (Rnd.ofCode (i.fld 33 32) == .down))
  else noResource "core" core

/-- TMUL: D2 = D0 × D1. -/
def execTmul (core : Nat) (s : State) : Result :=
  if core < 256 then .next (s.startHead core 3 [0xC3] fun s i => s.elementwise core i [0, 1] 2 fun l => (l.headD fZero).mul (l.getD 1 fZero))
  else noResource "core" core

/-- Checks of TRED. -/
def State.tredChecks (s : State) (k : Nat) (i : LongInstr) : List Check :=
  let d0 := s.coreDesc k (i.d 0)
  let d1 := s.coreDesc k (i.d 1)
  let a := d0.resolve s.mem
  let t := d1.resolve s.mem
  let want := a.exts.drop 1
  let shape := t.fmt == i.fld 11 8 && t.fmt == (if isInt a.fmt then 0xA else 0x0) && (t.exts == want || t.exts == 1 :: want)
  s.coreChecks k d0 coreFmts .read ++ s.coreChecks k d1 [0x0, 0xA] .write ++ [shapeNeed shape]

/-- TRED: D1 = the sums over dimension 0 of D0, in FP32, or INT32 for integer formats. -/
def tred (k : Nat) (s : State) : State :=
  s.startHead k 3 [0xC4] fun s i =>
    let d0 := s.coreDesc k (i.d 0)
    let d1 := s.coreDesc k (i.d 1)
    let a := d0.resolve s.mem
    let t := d1.resolve s.mem
    let int := isInt a.fmt
    s.orFailTask k i (s.tredChecks k i) fun s =>
      let rows := rowsOf (a.vals s.mem) (a.exts.headD 0)
      if a.size = 0 then s.started k i []
      else s.started k i (t.placeEnc (rows.map fun r =>
        if int then intSum (r.map FVal.toInt) else encodeElem 0x0 (Rnd.ofCode (i.fld 33 32)) (exactSum r)))

def execTred (core : Nat) (s : State) : Result :=
  if core < 256 then .next (tred core s) else noResource "core" core

/-! ## TSPARSE, R188 to R191, R195 -/

/-- R190: the formats TSPARSE accepts. -/
def sparseFmts : List Nat := [0, 1, 2, 3, 4, 9]

/-- R189: magnitude order with NaN above all; used for PRUNE. -/
def magLt (a b : FVal) : Bool :=
  if a.isNan then false else if b.isNan then true else (a.abs).lt (b.abs)

/-- The `n` positions of a group kept in PRUNE mode: largest magnitude, ties to the lower position. -/
def pruneKept (n : Nat) (vs : List FVal) : List Nat :=
  let order := sortBy (fun i j => !magLt (vs.getD i fZero) (vs.getD j fZero)) (List.range vs.length)
  sortBy (fun i j => decide (i ≤ j)) (order.take n)

/-- The positions kept in STRICT mode: every non-zero one, filled with the lowest zeros; none when over-full. -/
def strictKept (n : Nat) (vs : List FVal) : Option (List Nat) :=
  let nz := (List.range vs.length).filter fun i => !(vs.getD i fZero).isZero
  let z := (List.range vs.length).filter fun i => (vs.getD i fZero).isZero
  if n < nz.length then none else some (sortBy (fun i j => decide (i ≤ j)) (nz ++ z.take (n - nz.length)))

/-- Bytes of metadata groups. -/
def metaBytes (bits len : Nat) (codes : List Nat) : List Byte := leBytes len (packBits bits codes)

/-- Kept elements of a row, copied bit for bit. -/
def keepBytes (w : Nat) (p : Pattern) (row : List Byte) (kept : List (List Nat)) : List Byte :=
  (kept.zip (List.range kept.length)).flatMap fun (ks, g) => ks.flatMap fun q => slice row ((g * p.g + q) * w) w

/-- Checks of STRICT, PRUNE and MASK. -/
def State.tsparseChecks (s : State) (k : Nat) (i : LongInstr) (mode : Nat) (writeMeta : Bool) : List Check :=
  let spar := i.fld 19 17
  let d0 := s.coreDesc k (i.d 0)
  let d1 := s.coreDesc k (i.d 1)
  let d2 := s.coreDesc k (i.d 2)
  let a := d0.resolve s.mem
  let t := d1.resolve s.mem
  let md := d2.resolve s.mem
  let p := patternOf spar
  let e0 := a.exts.headD 0
  let shape := 1 ≤ spar && spar ≤ 4 && (spar != 4 || mode == 0) && t.fmt == i.fld 11 8 && a.fmt == t.fmt && e0 % p.mult == 0 &&
    t.exts == (e0 / p.r) :: a.exts.drop 1 && md.exts.headD 0 * 8 == e0 / p.g * p.bits && md.exts.drop 1 == a.exts.drop 1 &&
    (spar != 4 || (padExts a.exts).getD 1 1 % 4 == 0)
  s.coreChecks k d0 sparseFmts .read ++ s.coreChecks k d1 sparseFmts .write ++
    s.coreChecks k d2 [0x9] (if writeMeta then .write else .read) ++ [shapeNeed shape]

/-- The common part of STRICT, PRUNE and MASK: `choose` gives a row's kept positions or a failure. -/
def State.tsparse (s : State) (k : Nat) (i : LongInstr) (mode : Nat) (writeMeta : Bool)
    (pick : Nat → Pattern → Tensor → Tensor → Nat → Nat → Except (Nat × Nat) (List (List Nat))) : State :=
  let spar := i.fld 19 17
  let d0 := s.coreDesc k (i.d 0)
  let d1 := s.coreDesc k (i.d 1)
  let d2 := s.coreDesc k (i.d 2)
  let a := d0.resolve s.mem
  let t := d1.resolve s.mem
  let md := d2.resolve s.mem
  let p := patternOf spar
  let e0 := a.exts.headD 0
  s.orFailTask k i (s.tsparseChecks k i mode writeMeta) fun s =>
    let rows := (a.rows.zip (List.range a.rows.length)).map fun (addr, r) => (addr, pick spar p a md addr r)
    match rows.findSome? fun x => match x.2 with | .error e => some e | .ok _ => none with
    | some (st, d) => s.failTask k st i.unit i.bundle d
    | none =>
      let kept := rows.map fun x => match x.2 with | .ok l => l | .error _ => []
      let w := fmtBits a.fmt / 8
      let vals := (rows.zip kept).map fun (x, ks) => keepBytes w p (s.mem.bytes x.1 a.rowLen) ks
      let metas := kept.map fun ks => metaBytes p.bits md.rowLen (ks.map (codeOf spar))
      let ws := (t.rows.zip vals) ++ (if writeMeta then md.rows.zip metas else [])
      let tile := if spar = 4 then
          -- R187 on D0: every position of a tile is kept in exactly two of its four rows
          let m := (padExts a.exts).getD 1 1
          ((List.range (kept.length / 4)).flatMap fun q => (List.range (e0 / 4)).filterMap fun g =>
            let cnt j := ((List.range 4).filter fun r => ((kept.getD (4 * q + r) []).getD g []).contains j).length
            if (List.range 4).all fun j => cnt j == 2 then none else some (4 * q % (max m 1) * 2 ^ 20 + 4 * g)).head?
        else none
      match tile with
      | some d => s.failTask k stStructure i.unit i.bundle d
      | none => s.started k i ws

/-- The groups of a row of D0. -/
def rowGroups (m : Memory) (p : Pattern) (a : Tensor) (addr : Nat) : List (List FVal) :=
  chunksOf p.g (a.exts.headD 0 + 1) (decodeRow a.fmt (a.exts.headD 0) (m.bytes addr a.rowLen))

/-- TSPARSE in a mode (VA[4:3]) starts from the head of the VEC queue. -/
def State.startSparse (s : State) (k mode : Nat) (body : State → LongInstr → State) : State :=
  match ((s.core k).qVec).head? with
  | none => s
  | some i => if i.op = 0xC5 && i.fld 21 20 = mode then s.startHead k 3 [0xC5] body else s

/-- TSPARSE.STRICT: an over-full group fails with its first element's offset from the BASE of D0. -/
def tsparseStrict (k : Nat) (s : State) : State :=
  s.startSparse k 0 fun s i => s.tsparse k i 0 true fun _ p a _ addr _ =>
    let gs := rowGroups s.mem p a addr
    match (List.range gs.length).find? fun g => (strictKept p.n (gs.getD g [])).isNone with
    | some g => .error (stStructure, (addr - localOf a.base) * 8 / fmtBits a.fmt + g * p.g)
    | none => .ok (gs.map fun x => (strictKept p.n x).getD [])

def execTsparseStrict (core : Nat) (s : State) : Result :=
  if core < 256 then .next (tsparseStrict core s) else noResource "core" core

/-- TSPARSE.PRUNE. -/
def tsparsePrune (k : Nat) (s : State) : State :=
  s.startSparse k 1 fun s i => s.tsparse k i 1 true fun _ p a _ addr _ => .ok ((rowGroups s.mem p a addr).map (pruneKept p.n))

def execTsparsePrune (core : Nat) (s : State) : Result :=
  if core < 256 then .next (tsparsePrune core s) else noResource "core" core

/-- TSPARSE.MASK: the positions named in D2. -/
def tsparseMask (k : Nat) (s : State) : State :=
  s.startSparse k 2 fun s i => s.tsparse k i 2 false fun spar p a md _ r =>
    let line := (md.rows)[r]?.getD 0
    match lineKept spar p (s.mem.bytes line md.rowLen) (a.exts.headD 0 / p.g) with
    | .error off => .error (stStructure, line - localOf md.base + off)
    | .ok ks => .ok ks

def execTsparseMask (core : Nat) (s : State) : Result :=
  if core < 256 then .next (tsparseMask core s) else noResource "core" core

/-- The positions NZLIST lists: those of dimension 0 at which some element is non-zero. -/
def State.nzPositions (s : State) (k : Nat) (i : LongInstr) : List Nat :=
  let a := (s.coreDesc k (i.d 0)).resolve s.mem
  let rows := rowsOf (a.vals s.mem) (a.exts.headD 0)
  (List.range (a.exts.headD 0)).filter fun p => rows.any fun r => !(r.getD p fZero).isZero

/-- Checks of TSPARSE.NZLIST. -/
def State.nzlistChecks (s : State) (k : Nat) (i : LongInstr) : List Check :=
  let d1 := s.coreDesc k (i.d 1)
  let t := d1.resolve s.mem
  s.coreChecks k (s.coreDesc k (i.d 0)) sparseFmts .read ++ s.coreChecks k d1 [0xA] .write ++
    [shapeNeed (t.fmt == i.fld 11 8 && i.d 2 == 0 && i.fld 19 17 == 0 && t.exts.length == 1),
     need (t.size == 0 || decide ((s.nzPositions k i).length + 1 ≤ t.exts.headD 0)) stBounds 0]

/-- TSPARSE.NZLIST (R195): the counted list of the positions of dimension 0 at which some element is non-zero. -/
def tsparseNzlist (k : Nat) (s : State) : State :=
  s.startSparse k 3 fun s i => s.orFailTask k i (s.nzlistChecks k i) fun s =>
    let t := (s.coreDesc k (i.d 1)).resolve s.mem
    if s.emptyOf [s.coreDesc k (i.d 0), s.coreDesc k (i.d 1)] then s.started k i []
    else s.started k i (t.placeWords (countedList (s.nzPositions k i) (t.exts.headD 0)))

def execTsparseNzlist (core : Nat) (s : State) : Result :=
  if core < 256 then .next (tsparseNzlist core s) else noResource "core" core

end Sys2Proof.Machine
end

