-- ==== Sys2Proof/Machine/NearChannel.lean ====
section
/-!
DEFINITION. The near-channel engines (13_memory_tiers.md R341 to R345; 20_faults_and_log.md R482): COPY, FILL, GATHER, POOL,
REDUCE, the host commands, DIGEST and AUDIT. A command runs whole, from its start to its commit.
-/

namespace Sys2Proof.Machine

/-- Table 13-4: DETAIL of an uncorrectable error is the GDDR7 channel. -/
def nchDetail (line : Nat) : Nat := if inGddr line 64 then gddrChannel line else 0

/-- R473: reads that meet an uncorrectable line, and writes that cover part of one. -/
def State.nchEcc (s : State) (c : Cmd) (ins outs : List Nat) : List Check :=
  ins.map (fun i => (s.badSlot c i).map fun l => (stEccUncorr, nchDetail l)) ++
  outs.map fun i => (s.badOut c i).map fun l => (stEccUncorr, nchDetail l)

/-- R473, Table 13-4: the first bad line of some rows that are read. -/
def State.nchRows (s : State) (n : Nat) (rows : List Nat) : Check :=
  (s.badLine (rows.map fun a => (a, n))).map fun l => (stEccUncorr, nchDetail l)

/-- R473: the shape words of a table, of which only the rows named are read. -/
def State.nchShapes (s : State) (c : Cmd) (i : Nat) : Check := (s.badLine (s.slotDesc c i).shapeWords).map fun l => (stEccUncorr, nchDetail l)

/-- R342, R146: an index out of range under mode 0 ends the command and its position is logged. -/
def State.orIndex (s : State) (c : Cmd) (chk : Check) (body : State → State) : State :=
  match chk with
  | some (st, p) => (s.jobEvent 3 0x180 0x0020 c.opcode p st c.job).complete c st p
  | none => body s

/-- The checks of COPY, in order. -/
def State.copyChecks (s : State) (c : Cmd) : List Check :=
  let a := s.slotTensor c 0
  [zeroParams (s.params c) (offsets 0 63)] ++ s.checkSlot c 0 anyFmt (fun _ => true) ++
    s.checkSlot c 7 [a.fmt] (fun t => t.exts == a.exts) ++ [s.overlapCheck c 7] ++ s.nchEcc c [0] [7]

/-- COPY. -/
def copy (s : State) : State :=
  s.withHead 7 0x01 fun s c =>
    let a := s.slotTensor c 0
    s.orFail c (s.copyChecks c) fun s =>
      (s.storeAll ((s.slotTensor c 7).place (a.read s.mem))).complete c stOk 0

def execCopy (s : State) : Result := .next (copy s)

/-- The checks of FILL, in order. -/
def State.fillChecks (s : State) (c : Cmd) : List Check :=
  [zeroParams (s.params c) (offsets 8 63)] ++ s.checkSlot c 7 anyFmt (fun _ => true) ++ s.nchEcc c [] [7]

/-- FILL: the pattern repeats over the destination's bytes in flattened order. -/
def fill (s : State) : State :=
  s.withHead 7 0x02 fun s c =>
    s.orFail c (s.fillChecks c) fun s =>
      let t := s.slotTensor c 7
      (s.storeAll (t.place ((List.range (t.rows.length * t.rowLen)).map fun i => (s.params c).getD (i % 8) 0))).complete c stOk 0

def execFill (s : State) : Result := .next (fill s)

/-- The checks of GATHER, in order. -/
def State.gatherChecks (s : State) (c : Cmd) : List Check :=
  let b := s.params c
  let a := s.slotTensor c 0
  let x := s.slotTensor c 1
  [if 2 ≤ leAt b 0 1 then some (stBadOpcode, 0) else none, zeroParams b (offsets 1 63)] ++
    s.checkSlot c 0 anyFmt (fun _ => true) ++ s.checkSlot c 1 [0xD] (fun _ => true) ++
    s.checkSlot c 7 [a.fmt] (fun t => gatherShape a t x.size) ++ [s.overlapCheck c 7, s.nchShapes c 0] ++ s.nchEcc c [1] [7]

/-- GATHER's indices. -/
def State.gatherIndices (s : State) (c : Cmd) : List Nat := (s.slotTensor c 1).words s.mem

/-- What GATHER writes: the row of each index, or zeros. -/
def State.gatherRowWrites (s : State) (c : Cmd) : List (Nat × List Byte) :=
  let tb := (s.slotTensor c 0).table
  let o := s.slotTensor c 7
  let row j := if j != padIndex && decide (j < tb.count) then (tb.rowAt j).map fun p => s.mem.bytes p o.rowLen
    else List.replicate tb.row.rows.length (zeros o.rowLen)
  o.rows.zip ((s.gatherIndices c).flatMap row)

/-- GATHER (R342, R146). -/
def gather (s : State) : State :=
  s.withHead 7 0x03 fun s c =>
    s.orFail c (s.gatherChecks c) fun s =>
      s.orIndex c (oobCheck (s.gatherIndices c) (s.slotTensor c 0).table.count (leAt (s.params c) 0 1)) fun s =>
        -- the rows that an index names are read
        s.orFail c [s.nchRows (s.slotTensor c 0).rowLen ((s.slotTensor c 0).table.named (s.gatherIndices c))] fun s =>
          (s.storeAll (s.gatherRowWrites c)).complete c stOk 0

def execGather (s : State) : Result := .next (gather s)

/-- R343: one bag, from the rows of its indices in order; a row is none when its index is padding. -/
def poolBag (kind width : Nat) (rows : List (Option (List FVal) × FVal)) : List FVal :=
  let acc0 := List.replicate width (if kind = 2 then FVal.inf true else fZero)
  let step (a : List FVal × Nat) (r : Option (List FVal) × FVal) :=
    match r.1 with
    | none => a
    | some xs =>
      (if kind = 2 then a.1.zipWith FVal.maximum xs else a.1.zipWith (fun u v => toFp32 (u.add (r.2.mul v))) xs, a.2 + 1)
  let (acc, n) := rows.foldl step (acc0, 0)
  if n = 0 then List.replicate width fZero
  else if kind = 1 then acc.map fun v => toFp32 (v.div (FVal.ofInt n)) else acc

/-- R343: the offsets do not decrease and lie within the index extent. -/
def offsetsOk (offs : List Nat) (n : Nat) : Bool :=
  (offs.zip (offs.drop 1)).all (fun p => p.1 ≤ p.2) && offs.all (· ≤ n)

/-- The checks of POOL, in order. -/
def State.poolChecks (s : State) (c : Cmd) : List Check :=
  let b := s.params c
  let a := s.slotTensor c 0
  let x := s.slotTensor c 1
  let o := s.slotTensor c 7
  let weighted := bitOf (leAt b 2 1) 0
  let w := a.exts.headD 0
  let bags := o.exts.getD 1 0
  let offs := (s.slotTensor c 2).words s.mem
  let ins := if weighted then [1, 2, 3] else [1, 2]
  [if 2 ≤ leAt b 0 1 then some (stBadOpcode, 0) else none, if 3 ≤ leAt b 1 1 then some (stBadOpcode, 1) else none,
     if 2 ≤ leAt b 2 1 then some (stBadOpcode, 2) else none, zeroParams b (offsets 3 63)] ++
    s.checkSlot c 0 (List.range 10) (fun t => t.exts.length == 2) ++ s.checkSlot c 1 [0xD] (fun _ => true) ++
    s.checkSlot c 2 [0xA] (fun t => t.size == bags + 1) ++
    (if weighted then s.checkSlot c 3 [0x0] (fun t => t.size == x.size) else []) ++
    s.checkSlot c 7 [0x0, 0x1] (fun t => t.exts.length == 2 && t.exts.headD 0 == w) ++
    [need (offsetsOk offs x.size) stStructure 2, s.overlapCheck c 7, s.nchShapes c 0] ++ s.nchEcc c ins [7]

/-- The indices of POOL that some bag uses; the others read as padding. -/
def State.poolIndices (s : State) (c : Cmd) : List Nat :=
  let idx := (s.slotTensor c 1).words s.mem
  let offs := (s.slotTensor c 2).words s.mem
  (idx.zip (List.range idx.length)).map fun (j, i) => if decide (offs.headD 0 ≤ i) && decide (i < offs.getLastD 0) then j else padIndex

/-- What POOL writes: its bags, rounded once. -/
def State.poolWrites (s : State) (c : Cmd) : List (Nat × List Byte) :=
  let b := s.params c
  let a := s.slotTensor c 0
  let o := s.slotTensor c 7
  let weighted := bitOf (leAt b 2 1) 0
  let w := a.exts.headD 0
  let offs := (s.slotTensor c 2).words s.mem
  let idx := (s.slotTensor c 1).words s.mem
  let tb := a.table
  let ws := if weighted then (s.slotTensor c 3).vals s.mem else []
  let row i : Option (List FVal) × FVal :=
    let j := idx.getD i padIndex
    let wt := if weighted then ws.getD i fZero else FVal.ofInt 1
    if j = padIndex then (none, wt)
    else if tb.count ≤ j then (some (List.replicate w fZero), wt)
    else (some ((tb.rowAt j).flatMap fun p => decodeRow a.fmt w (s.mem.bytes p a.rowLen)), wt)
  o.placeVals .rne ((List.range (o.exts.getD 1 0)).flatMap fun k =>
    poolBag (leAt b 1 1) w ((List.range (offs.getD (k + 1) 0 - offs.getD k 0)).map fun i => row (offs.getD k 0 + i)))

/-- POOL (R343). -/
def pool (s : State) : State :=
  s.withHead 7 0x04 fun s c =>
    s.orFail c (s.poolChecks c) fun s =>
      s.orIndex c (oobCheck (s.poolIndices c) (s.slotTensor c 0).table.count (leAt (s.params c) 0 1)) fun s =>
        s.orFail c [s.nchRows (s.slotTensor c 0).rowLen ((s.slotTensor c 0).table.named (s.poolIndices c))] fun s =>
          (s.storeAll (s.poolWrites c)).complete c stOk 0

def execPool (s : State) : Result := .next (pool s)

/-- The checks of REDUCE, in order. -/
def State.reduceChecks (s : State) (c : Cmd) : List Check :=
  let b := s.params c
  let n := leAt b 0 1
  let a := s.slotTensor c 0
  let ints := a.fmt == 0xA
  let ins := List.range n
  [if 2 ≤ n && n ≤ 7 then none else some (stBadOpcode, 0), zeroParams b (offsets 1 63)] ++
    (ins.flatMap fun i => s.checkSlot c i (if ints then [0xA] else [0, 1, 2]) (fun t => t.exts == a.exts)) ++
    s.checkSlot c 7 anyFmt (fun t => t.exts == a.exts) ++ [s.overlapCheck c 7] ++ s.nchEcc c ins [7]

/-- What REDUCE writes: inputs in ascending order, FP32 sums rounded once each, INT32 sums wrapping. -/
def State.reduceSumWrites (s : State) (c : Cmd) : List (Nat × List Byte) :=
  let ins := List.range (leAt (s.params c) 0 1)
  let o := s.slotTensor c 7
  if (s.slotTensor c 0).fmt == 0xA then
    let xs := ins.map fun i => (s.slotTensor c i).words s.mem
    let sums := (xs.drop 1).foldl (fun u v => u.zipWith (fun p q => (p + q) % 2 ^ 32) v) (xs.headD [])
    o.placeFree true (c.opcode :: sums) .rne (sums.map fun w => FVal.ofInt (signedOf 32 w))
  else
    let xs := ins.map fun i => (s.slotTensor c i).vals s.mem
    o.placeVals .rne ((xs.drop 1).foldl (fun u v => u.zipWith (fun p q => toFp32 (p.add q)) v) (xs.headD []))

/-- REDUCE (R342). -/
def reduce (s : State) : State :=
  s.withHead 7 0x05 fun s c => s.orFail c (s.reduceChecks c) fun s => (s.storeAll (s.reduceSumWrites c)).complete c stOk 0

def execReduce (s : State) : Result := .next (reduce s)

/-! ## Host commands, R344 -/

/-- The checks of a host command: its tensor has LENGTH bytes, whole lines, and the link is up. -/
def State.hostChecks (s : State) (c : Cmd) (slot : Nat) : List Check :=
  let b := s.params c
  let len := leAt b 16 8
  [zeroParams b (offsets 0 7 ++ offsets 24 63)] ++
  s.checkSlot c slot anyFmt (fun t => (if t.size = 0 then 0 else t.rows.length * t.rowLen) == len) ++
  [need (leAt b 8 8 % 64 == 0 && len % 64 == 0) stAlign 0] ++
  (if slot = 0 then s.nchEcc c [0] [] else s.nchEcc c [] [7]) ++ [need s.linkUp stRouteDead 0]

/-- Table 13-4: the status a host answer that is no success gives. -/
def replyFailure : HostReply → Option Nat
  | .pending => none
  | .data _ => none
  | .done => none
  | .abort => some stBounds
  | .noCompletion => some stRemoteTimeout
  | .poisoned => some stEccUncorr

/-- Table 13-4: DETAIL of poisoned host data, the channel of the first line the command moves. DESIGN CHOICE (notes/assumptions/30.md):
the spec does not say which line's channel it is. -/
def State.hostChannel (s : State) (c : Cmd) (slot : Nat) : Nat := ((s.slotTensor c slot).rows.head?).elim 0 fun a => nchDetail (lineOf a)

/-- The host command with this opcode that runs: its answer has not come. -/
def State.hostRuns (s : State) (op : Nat) : Option Cmd := (s.live.find? fun l => l.cmd.engine == 7 && l.cmd.opcode == op).map (·.cmd)

/-- What the answer of the host to a read that has left does. -/
def State.hostReadEnds (s : State) (c : Cmd) (reply : HostReply) : State :=
  match replyFailure reply, reply with
  | some st, _ => s.complete c st (if st = stEccUncorr then s.hostChannel c 7 else 0) true 0 false
  | none, .pending => s
  | none, .data bs => (s.storeAll ((s.slotTensor c 7).place (padTo (leAt (s.params c) 16 8) bs))).complete c stOk 0
  -- an answer without data is no completion of a read
  | none, _ => s.complete c stRemoteTimeout 0

/-- HOST_READ: host memory into the tensor, when the host answers: at once, or later, until when the command runs. -/
def hostRead (reply : HostReply) (s : State) : State :=
  match s.hostRuns 0x08 with
  | some c => s.hostReadEnds c reply
  | none => s.withHead 7 0x08 fun s c => s.orFail c (s.hostChecks c 7) fun s =>
      let s1 := s.emit (.hostRead s.boot.hostCxl (leAt (s.params c) 8 8) (leAt (s.params c) 16 8))
      (if reply = .pending then s1.addLive c true else s1).hostReadEnds c reply

def execHostRead (reply : HostReply) (s : State) : Result := .next (hostRead reply s)

/-- What the answer of the host to a write that has left does. -/
def State.hostWriteEnds (s : State) (c : Cmd) (reply : HostReply) : State :=
  match replyFailure reply with
  | some st => s.complete c st (if st = stEccUncorr then s.hostChannel c 0 else 0) true 0 false
  | none => if reply = .pending then s else s.complete c stOk 0

/-- HOST_WRITE: the tensor to host memory, visible before the completion record; it runs to its end (R344). -/
def hostWrite (reply : HostReply) (s : State) : State :=
  match s.hostRuns 0x09 with
  | some c => s.hostWriteEnds c reply
  | none => s.withHead 7 0x09 fun s c => s.orFail c (s.hostChecks c 0) fun s =>
      let s1 := s.emit (.hostCmdWrite s.boot.hostCxl (leAt (s.params c) 8 8) ((s.slotTensor c 0).read s.mem))
      (if reply = .pending then s1.addLive c false else s1).hostWriteEnds c reply

def execHostWrite (reply : HostReply) (s : State) : Result := .next (hostWrite reply s)

/-! ## Replica audit, R482 -/

/-- The checks of DIGEST, in order. -/
def State.digestChecks (s : State) (c : Cmd) : List Check :=
  [zeroParams (s.params c) (offsets 0 63)] ++ s.checkSlot c 0 anyFmt (fun _ => true) ++
    s.checkSlot c 7 [0xA] (fun t => t.exts == [16]) ++ [s.overlapCheck c 7] ++ s.nchEcc c [0] [7]

/-- DIGEST: SHAKE256 with 512 bits of output over the tensor's bytes. -/
def digest (s : State) : State :=
  s.withHead 7 0x0A fun s c =>
    s.orFail c (s.digestChecks c) fun s =>
      (s.storeAll ((s.slotTensor c 7).place (digest512 ((s.slotTensor c 0).read s.mem)))).complete c stOk 0

def execDigest (s : State) : Result := .next (digest s)

/-- The checks of AUDIT, in order. -/
def State.auditChecks (s : State) (c : Cmd) : List Check :=
  [zeroParams (s.params c) (offsets 0 63)] ++
    s.checkSlot c 0 [0xA] (fun t => t.size % 16 == 0 && 2 ≤ t.size / 16 && t.size / 16 ≤ 64) ++ s.nchEcc c [0] []

/-- The digests of AUDIT that differ from digest 0. -/
def State.auditBad (s : State) (c : Cmd) : List Nat :=
  let t := s.slotTensor c 0
  let n := t.size / 16
  let ds := chunksOf 64 (n + 1) (t.read s.mem)
  (List.range n).filter fun i => ds.getD i [] != ds.getD 0 []

/-- AUDIT: N digests agree, or CHECK_MISMATCH with the first that differs from digest 0. -/
def audit (s : State) : State :=
  s.withHead 7 0x0B fun s c =>
    s.orFail c (s.auditChecks c) fun s =>
      let bad := s.auditBad c
      match bad with
      | [] => s.complete c stOk 0
      | i :: _ =>
        let s1 := s.jobEvent 4 0x180 0x0035 0 (bad.length + i * 2 ^ 32) stCheckMismatch c.job
        -- LOG_EVT.AUDIT
        State.complete { s1 with log := { s1.log with evt := s1.log.evt ||| 0x100 } } c stCheckMismatch i

def execAudit (s : State) : Result := .next (audit s)

end Sys2Proof.Machine
end

