-- ==== Sys2Proof/Machine/Rings.lean ====
section
/-!
DEFINITION. Command rings (16_jobs_and_sharing.md R408 to R416; 17_host_interface.md R435 to R438): doorbells, descriptor
fetch with the checks a command meets when it is taken from its ring, completion-queue reservations and coalescing.
-/

namespace Sys2Proof.Machine

/-! ## Doorbells, R435 -/

/-- DOORBELL_WRITE: a value outside the ring is ignored and logged. DEDUCED (notes/assumptions/36.md): an index of the ring never moves the
tail backward past HEAD, since one that is not between HEAD and the tail moves it forward, by at most size - 1 entries from HEAD. -/
def doorbellWrite (ring tail : Nat) (s : State) : State :=
  let r := s.ring ring
  if !s.linkUp then s
  else if !r.en || decide (r.size ≤ tail) then
    s.event 2 0x000 0x0026 0 (0x1000 * ring)
  else s.modRing ring fun x => { x with tail }

def execDoorbellWrite (ring tail : Nat) (s : State) : Result :=
  if ring < 64 then .next (doorbellWrite ring tail s) else noResource "ring" ring

/-! ## Fetch, R409, R410, R416, R436 -/

/-- Table 16-2: a descriptor's 64 bytes. -/
def parseCmd (b : BitVec 512) (ring index : Nat) : Cmd :=
  let f hi lo := field b.toNat hi lo
  { opcode := f 7 0, engine := f 15 8, job := f 23 16, norerun := f 24 24 == 1, irq := f 25 25 == 1
    wait := BitVec.ofNat 10 (f 41 32), signal := BitVec.ofNat 8 (f 55 48), arg := f 127 64, arg2 := f 191 128
    compl := BitVec.ofNat 64 (f 255 192), tag := BitVec.ofNat 64 (f 319 256), imm := BitVec.ofNat 64 (f 383 320), live := f 447 384
    ring, index, bytes := b }

/-- R409: the reserved fields are zero. -/
def descClean (b : BitVec 512) : Bool :=
  let z hi lo := field b.toNat hi lo == 0
  z 31 26 && z 47 42 && z 55 54 && z 63 56 && z 511 448

/-- R411: the wait field of a job command: modes 0 to 3, over a counter below 32. -/
def jobWaitOk (w : BitVec 10) : Bool := waitOk w && decide (waitMode w < 4)

/-- R468: a thermal TRIP holds. -/
def State.tripHolds (s : State) : Bool := s.ktl.therm == 2

/-- R416: the first declared output that meets a declared input, by its place among the outputs. -/
def State.selfOverlap (s : State) (c : Cmd) : Check :=
  let (ins, outs) := s.declared c
  let slots := (slotRoles c.engine c.opcode (s.params c)).2.filter fun i => (s.slotDesc c i).used
  (outs.findIdx? fun o => ins.any fun i => overlap o i).map fun k =>
    (stOverlap, if c.engine = 1 then ins.length + k else slots.getD k 0)

/-- The checks of a command when it is taken from its ring, in the order of R410, then R6, R411 and R416. -/
def State.fetchCheck (s : State) (c : Cmd) : Check :=
  firstFail
    [need (descClean c.bytes && decide (c.engine < 11) && jobWaitOk c.wait) stBadOpcode 0,
     need (decide (c.job < 8) && s.bld.cur.ringMap.getD c.ring 0xFF == c.job) stBounds 0,
     need (s.hasJob c.job && !(s.job c.job).teardown && !s.tripHolds) stKilled 0,
     need (!c.isUpdate || s.updateEngine) stEngineAbsent 0,
     need (s.admitted c) stBounds 0,
     s.selfOverlap c]

/-- The end of a command that fails a check at its ring. An OVERLAP stands in the tables of the engines, so their LAST_FAIL and event bits
show it too (R230, R322, R345, R416). -/
def State.refuseFetched (s : State) (c : Cmd) (status detail : Nat) (signals : Bool) : State :=
  let s1 := if status = stOverlap && 2 ≤ c.engine then
      s.modEng c.engine fun e =>
        { e with lastStatus := status, failStatus := status, failOpcode := c.opcode, failJob := c.job, failUnit := 0, failDetail := detail
                 evt := if c.engine = 2 then e.evt ||| 8 else e.evt }
    else s
  s1.completeRefused c status detail signals

/-- R436: the device can reserve a completion-queue entry. -/
def Ring.canFetch (r : Ring) : Bool :=
  r.en && r.head != r.tail && decide (r.unposted + (r.cqTail + r.size - r.cqHead) % r.size < r.size - 1)

/-- R69, R456: before the first blend and in a maintenance stop every job command ends with KILLED, ahead of R410. -/
def State.closed (s : State) : Bool := !s.bld.applied || s.wdn.mode == 2

/-- R435: the descriptor read that a ring makes: over CXL.cache with CXL 1 in HOST_LINK, else by a CXL.io memory read. -/
def State.readDescriptor (s : State) (r : Ring) : State := s.emit (.hostRead s.boot.hostCxl (r.base.toNat + 64 * r.head) 64)

/-- DESCRIPTOR_FETCH: a descriptor read completes, or fails. A ring whose command's queue is full stops (R413). -/
def descriptorFetch (ring : Nat) (bytes : Option (BitVec 512)) (s : State) : State :=
  let r := s.ring ring
  if !s.linkUp || !r.canFetch then s
  else
    match bytes with
    | none => (s.readDescriptor r).modRing ring fun x => { x with fault := true, en := false }
    | some b =>
      let c := parseCmd b ring r.head
      let s1 := (s.readDescriptor r).modRing ring fun x => { x with head := (x.head + 1) % x.size, unposted := x.unposted + 1 }
      if s.closed then s1.completeClosed c
      else match s.fetchCheck c with
      | some (st, d) => s1.refuseFetched c st d (decide (c.job < 8) && s.hasJob c.job)
      | none => if 64 ≤ (s.queue c.engine c.job).length then s else s1.enqueue c

def execDescriptorFetch (ring : Nat) (bytes : Option (BitVec 512)) (s : State) : Result :=
  if ring < 64 then .next (descriptorFetch ring bytes s) else noResource "ring" ring

/-- CQ_HEAD_WRITE (R436). -/
def cqHeadWrite (ring : Nat) (half : Half) (value : BitVec 64) (s : State) : State :=
  if half = .high then s else s.modRing ring fun x => { x with cqHead := field value.toNat 15 0 }

def execCqHeadWrite (ring : Nat) (half : Half) (value : BitVec 64) (s : State) : Result :=
  if ring < 64 then .next (served half (cqHeadWrite ring half value) s) else noResource "ring" ring

/-- INTERRUPT_COALESCE_TIMEOUT (R438): COAL_US is counted in ns since PWR_OK, which no hall time bears on. -/
def interruptCoalesceTimeout (ring : Nat) (s : State) : State :=
  let r := s.ring ring
  if r.coalUs != 0 && r.posts != 0 && decide (r.firstPostAt + r.coalUs * 1000 ≤ s.boot.sincePwrOk) then s.ringInterrupt ring else s

def execInterruptCoalesceTimeout (ring : Nat) (s : State) : Result :=
  if ring < 64 then .next (interruptCoalesceTimeout ring s) else noResource "ring" ring

end Sys2Proof.Machine
end

