-- ==== Sys2Proof/Machine/Registers.lean ====
section
/-!
DEFINITION. Register writes (00_scope.md R16; 17_host_interface.md R430; 21_reference_tables.md R493): RW, W1C and WO fields of
every block. Writes of RO and WD fields and of offsets without a register are ignored. GO of WMB_CTRL stands in the
Warden's own rows, which carry the evidence of its signatures.
-/

namespace Sys2Proof.Machine

/-- The write reaches bits [31:0]. -/
def lowHalf (h : Half) : Bool := h == .whole || h == .low

/-- A write of a W1C register held as a bit vector. -/
def clearEvt (half : Half) (old : BitVec w) (value : BitVec 64) : BitVec w :=
  BitVec.ofNat w (clearBits half (2 ^ w - 1) old.toNat value.toNat)

/-! ## GLB -/

/-- BOOT_CFG (R44, R45, R52). -/
def writeBootCfg (half : Half) (value : BitVec 64) (s : State) : State :=
  if lowHalf half then
    let s1 := { s with boot := { s.boot with imgSrc := bitOf value.toNat 0, timeRoot := bitOf value.toNat 1 } }
    if bitOf value.toNat 8 then repairRebuild s1 else s1
  else s

/-- BOOT_MBOX_CTRL: LENGTH, then COMMIT. -/
def writeMboxCtrl (half : Half) (value : BitVec 64) (s : State) : State :=
  if lowHalf half then
    let s1 := bootMboxLengthWrite (BitVec.ofNat 24 value.toNat) s
    if bitOf value.toNat 24 then bootMboxCommit s1 else s1
  else s

/-- BIAS_CMD: the fields merged with their kept values, GO as written. -/
def writeBiasCmd (half : Half) (value : BitVec 64) (s : State) : State :=
  let old := s.readGlb 0x248
  let v := mergeWrite half (2 ^ 37 - 1) old value.toNat
  biasFlip (BitVec.ofNat 64 (v + flagBit (half != .low && bitOf value.toNat 37) 37)) s

/-- JOB_CTL: PREEMPT, RESUME, KILL, in bit order (R420). -/
def writeJobCtl (j : Nat) (half : Half) (value : BitVec 64) (s : State) : State :=
  if lowHalf half then
    let s1 := if bitOf value.toNat 0 then preempt j s else s
    let s2 := if bitOf value.toNat 1 then resume j s1 else s1
    if bitOf value.toNat 2 then kill j s2 else s2
  else s

/-- RING_CFG: LOG2SIZE is kept while EN is 1; EN does not come on with a LOG2SIZE outside 6 to 16. -/
def Ring.writeCfg (r : Ring) (half : Half) (value : BitVec 64) : Ring :=
  if lowHalf half then
    let v := value.toNat
    let n := if r.en then r.log2size else field v 4 0
    { r with
      log2size := n, en := bitOf v 5 && 6 ≤ n && n ≤ 16, cqEn := bitOf v 6, vec := field v 13 7, coalCnt := field v 21 14
      coalUs := field v 31 22 }
  else r

/-- RING_BASE, RING_CFG, RING_STAT, CQ_BASE of a ring. -/
def Ring.write (r : Ring) (o : Nat) (half : Half) (value : BitVec 64) : Ring :=
  let addr := bitMask 63 12
  match o with
  | 0x00 => { r with base := BitVec.ofNat 64 (mergeWrite half addr r.base.toNat value.toNat) }
  | 0x08 => r.writeCfg half value
  | 0x10 => if half != .low && bitOf value.toNat 32 then { r with fault := false } else r
  | 0x18 => { r with cqBase := BitVec.ofNat 64 (mergeWrite half addr r.cqBase.toNat value.toNat) }
  | _ => r

/-- GLB by offset. -/
def writeGlb (o : Nat) (half : Half) (value : BitVec 64) (s : State) : State :=
  if 0x4000 ≤ o && o < 0x5000 then
    let r := (o - 0x4000) / 0x40
    if (o - 0x4000) % 0x40 = 0x20 then cqHeadWrite r half value s else s.modRing r fun x => x.write ((o - 0x4000) % 0x40) half value
  else if inArray 0x400 0x20 8 o then writeJobCtl ((o - 0x400) / 0x20) half value s
  else match o with
  | 0x208 => writeBootCfg half value s
  | 0x210 => writeMboxCtrl half value s
  | 0x218 => bootMboxDataWrite half value s
  | 0x240 => { s with host := { s.host with win := mergeWrite half (bitMask 17 0) s.host.win value.toNat } }
  | 0x248 => writeBiasCmd half value s
  | 0x250 => if lowHalf half && bitOf value.toNat 1 then { s with host := { s.host with biasRefused := false } } else s
  | 0x300 => if lowHalf half then wmbCtrlLengthWrite (BitVec.ofNat 16 value.toNat) s else s
  | 0x308 => wmbDataWrite half value s
  | _ => s

/-! ## BLD, HTM, KTL, LOG -/

/-- BLD_CMD. -/
def writeBldCmd (requester : Nat) (half : Half) (value : BitVec 64) (s : State) : State :=
  if lowHalf half then
    match field value.toNat 2 0 with
    | 1 => blendClaim requester s
    | 2 => blendLoad requester s
    | 3 => blendApply requester s
    | 4 => blendCancel requester s
    | 5 => blendRelease requester s
    | _ => s
  else s

/-- BLD by offset. -/
def writeBld (requester o : Nat) (half : Half) (value : BitVec 64) (s : State) : State :=
  let v := value.toNat
  match o with
  | 0x00 => writeBldCmd requester half value s
  | 0x10 => s.modBld fun b => { b with src := mergeWrite half (bitMask 47 0) b.src v }
  | 0x18 => s.modBld fun b => { b with len := mergeWrite half (bitMask 24 0) b.len v }
  | 0x20 => s.modBld fun b => { b with applyTime := mergeWrite half (bitMask 63 0) b.applyTime v }
  | _ => s

/-- HTM by offset, but for the ST registers. -/
def writeHtm (requester o : Nat) (half : Half) (value : BitVec 64) (s : State) : State :=
  match indexIn 0x200 8 32 o with
  | some i => if i % 2 = 0 then htTmrCmpWrite requester (i / 2) half value s else htTmrCtlWrite requester (i / 2) half value s
  | none =>
    match o with
    | 0x18 => { s with ht := { s.ht with seed := mergeWrite half (bitMask 63 0) s.ht.seed value.toNat } }
    | 0x38 => { s with ht := { s.ht with events := clearEvt half s.ht.events value } }
    | _ => s

/-- KTL by offset, but for the ST registers. -/
def writeKtl (o : Nat) (half : Half) (value : BitVec 64) (s : State) : State :=
  if o = 0x38 then { s with ktl := { s.ktl with evt := BitVec.ofNat 16 (clearBits half (bitMask 9 0) s.ktl.evt.toNat value.toNat) } } else s

/-- LOG by offset. -/
def writeLog (o : Nat) (half : Half) (value : BitVec 64) (s : State) : State :=
  match o with
  | 0x08 => logRdWrite half value s
  | 0x30 => { s with log := { s.log with evt := clearEvt half s.log.evt value } }
  | 0x38 =>
    if lowHalf half then { s with log := { s.log with expEn := bitOf value.toNat 0, minClass := field value.toNat 3 1 } } else s
  | _ => s

/-! ## Engines, fabric, cores -/

/-- xxx_EVT of an engine unit. -/
def writeEvt (u : Nat) (half : Half) (value : BitVec 64) (s : State) : State :=
  s.modEng u fun e => { e with evt := clearEvt half e.evt value }

/-- PFX by offset, but for the ST registers: PFX_EVT, LOAD of PFX_TKEY_CTL, the key words. -/
def writePfx (o : Nat) (half : Half) (value : BitVec 64) (s : State) : State :=
  match indexIn 0x300 8 16 o, indexIn 0x400 8 64 o with
  | some k, _ => if lowHalf half && bitOf value.toNat 1 then tenantKeyLoad k s else s
  | none, some i =>
    let v := BitVec.ofNat 64 (mergeWrite half (bitMask 63 0) (tget 0 s.pfx.keyWords i).toNat value.toNat)
    { s with pfx := { s.pfx with keyWords := tset 0 s.pfx.keyWords i v } }
  | none, none => if o = 0x10 then writeEvt 9 half value s else s

/-- FAB by offset, but for the ST registers. FAB_ID is ignored after the first blend. -/
def writeFab (o : Nat) (half : Half) (value : BitVec 64) (s : State) : State :=
  match o with
  | 0x000 =>
    if lowHalf half && !s.bld.applied then { s with fab := { s.fab with fabId := BitVec.ofNat 16 value.toNat } } else s
  | 0x208 => { s with fab := { s.fab with rmEvt := clearEvt half s.fab.rmEvt value } }
  | _ => s

/-- CORE of a core: MODE, VALID of CORE_HAZARD, and the RW fields of CORE_CRW_w (R152). R152 says that writes to other fields than MODE and
those are ignored, the register table that VALID is W1C: the write clears it (DESIGN CHOICE, notes/assumptions/40.md). -/
def writeCore (k o : Nat) (half : Half) (value : BitVec 64) (s : State) : State :=
  if !s.coreEnabled k then s
  else
    match indexIn 0x100 8 8 o with
    | some w =>
      if lowHalf half then
        let v := value.toNat
        s.modCore k fun c =>
          { c with crw := tmod {} c.crw w fun x => { x with base := field v 13 0, len := field v 29 16, en := bitOf v 31 } }
      else s
    | none =>
      match o with
      | 0x10 => if lowHalf half then coreModeWrite k (BitVec.ofNat 2 value.toNat) s else s
      | 0x18 =>
        if lowHalf half && bitOf value.toNat 14 then s.modCore k fun c => { c with hazard := { c.hazard with valid := false } } else s
      | _ => s

/-! ## BAR2, Table 17-3 -/

/-- Where REGISTER_WRITE's offset reaches BAR2: it follows the 64 MiB of BAR0 (notes/assumptions/45.md). -/
def bar2Base : Nat := 0x4000000

/-- The MSI-X table, at 0x4_0000 of BAR2. -/
def msixBase : Nat := bar2Base + 0x40000

/-- R429: the CXL component registers, at 0x6_0000 of BAR2. What software writes into them is held as written; their layout stands in the CXL
specification (notes/assumptions/45.md). -/
def componentBase : Nat := bar2Base + 0x60000

/-- A write into a CXL component register. -/
def writeComponent (i : Nat) (half : Half) (value : BitVec 64) (s : State) : State :=
  let v := BitVec.ofNat 64 (mergeWrite half (bitMask 63 0) (tget 0 s.host.component i).toNat value.toNat)
  { s with host := { s.host with component := tset 0 s.host.component i v } }

/-- Vectors of the device: 64 for rings and one for device events (R438). -/
def msixVectors : Nat := 65

/-- R438: writes 8 bytes of an entry of the MSI-X table: first the address, then data and mask; a pending vector that is unmasked
sends its message. -/
def writeVector (v o : Nat) (half : Half) (value : BitVec 64) (s : State) : State :=
  let x := s.vector v
  let y : MsixVector :=
    if o = 0 then { x with addr := BitVec.ofNat 64 (mergeWrite half (bitMask 63 0) x.addr.toNat value.toNat) }
    else { x with
      data := if lowHalf half then BitVec.ofNat 32 value.toNat else x.data
      masked := if half = .low then x.masked else bitOf value.toNat 32 }
  let s1 := { s with irq := { s.irq with vectors := tset {} s.irq.vectors v y } }
  if s1.vectorPending v && !y.masked then (s1.setVectorPending v false).msix v else s1

/-! ## The aperture -/

/-- A register write by its offset. -/
def State.writeReg (s : State) (requester off : Nat) (half : Half) (value : BitVec 64) : State :=
  if (stMask off).isSome then stFieldWrite off half value s
  else if inArray msixBase 16 msixVectors (off - off % 16) then
    -- the table is reached through BAR2 alone, that is by host software
    if requester = 1 then writeVector ((off - msixBase) / 16) (off % 16) half value s else s
  else if inArray componentBase 8 8192 off then (if requester = 1 then writeComponent ((off - componentBase) / 8) half value s else s)
  else if bar2Base ≤ off then s
  else
    let o := off % 0x10000
    if 0x400000 ≤ off && off < 0x500000 then writeCore ((off - 0x400000) / 0x1000) (off % 0x1000) half value s
    else if 0x200000 ≤ off && off < 0x2C0000 then
      if o = 8 then s.modPort ((off - 0x200000) / 0x10000) fun x => { x with evt := clearEvt half x.evt value } else s
    else match off / 0x10000 with
    | 0x00 => writeGlb o half value s
    | 0x01 => writeBld requester o half value s
    | 0x02 => writeHtm requester o half value s
    | 0x03 => writeKtl o half value s
    | 0x05 => writeLog o half value s
    | 0x10 => if o = 0x10 then writeEvt 2 half value s else s
    | 0x11 => if o = 0x10 then writeEvt 3 half value s else s
    | 0x15 => if o = 0x00 then writeEvt 11 half value s else s
    | 0x16 => if o = 0x10 then writeEvt 8 half value s else s
    | 0x17 => writePfx o half value s
    | 0x2F => writeFab o half value s
    | _ => s

/-- R442: BAR0 and the sideband write one register in one engine cycle: the BAR0 write applies first and the sideband's value stands. A value
of BOOT_CFG stands without REPAIR_REBUILD, of BOOT_MBOX_CTRL without COMMIT; BOOT_MBOX_DATA, a port at a data pointer, holds none. -/
def State.sidebandStands (s : State) (off : Nat) : State :=
  match s.host.sbWrite with
  | some (e, o, v) =>
    if e = s.engCycle && o = off && off != 0x218 then
      s.writeReg 1 off .whole (if off = 0x208 then v &&& 3 else if off = 0x210 then v &&& 0xFFFFFF else v)
    else s
  | none => s

/-- REGISTER_WRITE: through BAR0 or BAR2 while the link is up (host software, code 0x001), or from inside. An access of another size or
alignment completes as Unsupported Request without effect (R430). -/
def registerWrite (requester off : Nat) (half : Half) (value : BitVec 64) (s : State) : State :=
  if s.pwr.pwrOk && (requester != 1 || s.linkUp) then
    if off % 8 = 0 && half != .other then (let t := s.writeReg requester off half value; if requester = 1 then t.sidebandStands off else t)
    else if requester = 1 then s.emit .unsupported
    else s
  else s

def execRegisterWrite (requester offset : Nat) (half : Half) (value : BitVec 64) (s : State) : Result :=
  .next (registerWrite requester offset half value s)

end Sys2Proof.Machine
end

