-- ==== Sys2Proof/Machine/Sideband.lean ====
section
/-!
DEFINITION. The I3C sideband (17_host_interface.md R442; 02_bring_up.md R43, R45) and JTAG (R443).
-/

namespace Sys2Proof.Machine

/-! ## I3C -/

/-- I3C_SETDASA: at static address 0x3A, while the target has power. -/
def i3cSetdasa (staticAddr dynamicAddr : BitVec 7) (s : State) : State :=
  if s.pwr.present && staticAddr == 0x3A then { s with host := { s.host with i3cAddr := some dynamicAddr } } else s

def execI3cSetdasa (staticAddr dynamicAddr : BitVec 7) (s : State) : Result := .next (i3cSetdasa staticAddr dynamicAddr s)

/-- R43: before step 3 the power-stage controller answers. -/
def State.controllerAnswers (s : State) : Bool := decide (s.boot.step < 3)

/-- R442: a private write: byte 0 holds 0x02, bytes 1 to 4 the offset, big-endian, bytes 5 to 12 the data, least significant byte first. -/
def parseI3cWrite (b : List Byte) : Option (Nat × BitVec 64) :=
  if b.length = 13 && b.headD 0 == 0x02 then some (leNat (slice b 1 4).reverse, BitVec.ofNat 64 (leAt b 5 8)) else none

/-- R442: the private write that a read of 8 bytes follows: byte 0 holds 0x01, bytes 1 to 4 the offset. -/
def parseI3cRead (b : List Byte) : Option Nat :=
  if b.length = 5 && b.headD 0 == 0x01 then some (leNat (slice b 1 4).reverse) else none

/-- R442: the registers a sideband write reaches. -/
def sidebandWritable (off : Nat) : Bool :=
  [0x208, 0x210, 0x218, 0x020018, 0x2F0000].contains off || inArray 0x400 0x20 8 off

/-- R43: a write to a register the power-stage controller holds. -/
def State.standbyWrite (s : State) (off : Nat) (value : BitVec 64) : State :=
  match off with
  | 0x000208 => { s with boot := { s.boot with imgSrc := value.getLsbD 0, timeRoot := value.getLsbD 1 } }
  | 0x020018 => { s with ht := { s.ht with seed := value.toNat } }
  | 0x2F0000 => { s with fab := { s.fab with fabId := BitVec.ofNat 16 value.toNat } }
  | _ => s

/-- A register write of the sideband: outside its reach a write is ignored, and counted from step 3 on. -/
def i3cRegisterWrite (off : Nat) (value : BitVec 64) (s : State) : State :=
  if !s.pwr.present then s
  else if s.controllerAnswers then s.standbyWrite off value
  else if sidebandWritable off then
    State.writeReg { s with host := { s.host with sbWrite := some (s.engCycle, off, value) } } 1 off .whole value
  else s.writeIgnored off

/-- I3C_REGISTER_WRITE. DESIGN CHOICE (notes/assumptions/46.md): a transfer of another form reaches no register. -/
def execI3cRegisterWrite (bytes : List Byte) (s : State) : Result :=
  .next ((parseI3cWrite bytes).elim s fun x => i3cRegisterWrite x.1 x.2 s)

/-- R442: GLB, HTM, KTL, WDN, LOG and the FPT pages. -/
def sidebandReadable (off : Nat) : Bool :=
  off % 8 == 0 && ([0x00, 0x02, 0x03, 0x04, 0x05].contains (off / 0x10000) || (decide (0x20 ≤ off / 0x10000) && decide (off / 0x10000 < 0x2C)))

/-- R43: what the power-stage controller serves. -/
def State.standbyRead (s : State) (off : Nat) : Nat :=
  match off with
  | 0x000200 => s.readGlb 0x200
  | 0x000208 => s.readGlb 0x208
  | 0x020018 => s.ht.seed
  | 0x2F0000 => s.fab.fabId.toNat
  | _ => 0

/-- A register read of the sideband: eight bytes; a read of WMB_RDATA takes response bytes. -/
def i3cRegisterRead (off : Nat) (s : State) : State :=
  if !s.pwr.present then s
  else if s.controllerAnswers then s.emit (.data (leBytes 8 (s.standbyRead off)))
  else if off = 0x310 then wmbRdataRead s
  else s.emit (.data (leBytes 8 (if sidebandReadable off then s.readReg off else 0)))

/-- I3C_REGISTER_READ. -/
def execI3cRegisterRead (bytes : List Byte) (s : State) : Result := .next ((parseI3cRead bytes).elim s fun x => i3cRegisterRead x s)

/-! ## JTAG, R443 -/

/-- IDCODE: the device ID at [27:12], the manufacturer code at [11:1]; bit 0 is 1 (PRESUMED, IEEE 1149.1). -/
def idcode : BitVec 32 :=
  BitVec.ofNat 32 (Config.idVersion.toNat * 2 ^ 28 + 0xA7B0 * 2 ^ 12 + Config.jedec.toNat * 2 + 1)

/-- The TAP operation is open at the level granted. -/
def State.tapOpen (s : State) (op : JtagOp) : Bool :=
  match op with
  | .internalDebug => 2 ≤ s.host.debugLevel
  | _ => 1 ≤ s.host.debugLevel && s.wdn.mode == 2

/-- JTAG_TAP_ACCESS: held in reset while closed. IDCODE shifts out its word; what the boundary scan register and the
internal debug registers shift out is free, as the spec does not lay them out. -/
def jtagTapAccess (op : JtagOp) (s : State) : State :=
  if s.tapOpen op then
    match op with
    | .bypass => s
    | .idcode => s.emit (.jtag idcode)
    | .samplePreload | .extest | .internalDebug =>
      State.emit { s with freeCount := s.freeCount + 1 } (.jtag (BitVec.ofNat 32 (Config.freeWord (s.freeCount + 1) 0).toNat))
  else s

def execJtagTapAccess (op : JtagOp) (s : State) : Result := .next (jtagTapAccess op s)

end Sys2Proof.Machine
end

