-- ==== Sys2Proof/Machine/Dispatch.lean ====
section
/-!
DEFINITION. The meaning of each command: one arm per constructor of `Instr`, each one call of a meaning.
-/

namespace Sys2Proof.Machine

/-- The effect of a command on everything but the queue. -/
def exec (i : Instr) (s : State) : Host.Outcome State Fault Refusal :=
  match i with
  | .pwrEnChange level heldUs => Sys2Proof.Machine.execPwrEnChange level heldUs s
  | .railSequencingStart vinMv heldUs => Sys2Proof.Machine.execRailSequencingStart vinMv heldUs s
  | .railRegulationTimeout rail => Sys2Proof.Machine.execRailRegulationTimeout rail s
  | .pwrOkRelease => Sys2Proof.Machine.execPwrOkRelease s
  | .inputShutdown vinMv iinMa heldNs => Sys2Proof.Machine.execInputShutdown vinMv iinMa heldNs s
  | .inputExcursionEnd row extremeMv spanNs => Sys2Proof.Machine.execInputExcursionEnd row extremeMv spanNs s
  | .power64vApplied vinMv removedMs => Sys2Proof.Machine.execPower64vApplied vinMv removedMs s
  | .power64vRemoved vinMv => Sys2Proof.Machine.execPower64vRemoved vinMv s
  | .cablePowerOverload cage milliwatts heldUs => Sys2Proof.Machine.execCablePowerOverload cage milliwatts heldUs s
  | .cagePresenceChange cage seated => Sys2Proof.Machine.execCagePresenceChange cage seated s
  | .perstAssert => Sys2Proof.Machine.execPerstAssert s
  | .perstDeassert => Sys2Proof.Machine.execPerstDeassert s
  | .rootSourceLoss noEdgeNs driftPpm => Sys2Proof.Machine.execRootSourceLoss noEdgeNs driftPpm s
  | .rootSourceReturn validUs => Sys2Proof.Machine.execRootSourceReturn validUs s
  | .wardenSelfTestDone pass subjectOk storeCrcOk => Sys2Proof.Machine.execWardenSelfTestDone pass subjectOk storeCrcOk s
  | .repairMapVote copies bist columns owners => Sys2Proof.Machine.execRepairMapVote copies bist columns owners s
  | .repairRebuild => Sys2Proof.Machine.execRepairRebuild s
  | .repairRebuildDone body => Sys2Proof.Machine.execRepairRebuildDone body s
  | .bootMboxLengthWrite len => Sys2Proof.Machine.execBootMboxLengthWrite len s
  | .bootMboxDataWrite half data => Sys2Proof.Machine.execBootMboxDataWrite half data s
  | .bootMboxCommit => Sys2Proof.Machine.execBootMboxCommit s
  | .imageVerifyDone tinImage accepts => Sys2Proof.Machine.execImageVerifyDone tinImage accepts s
  | .reservedImageWriteDone => Sys2Proof.Machine.execReservedImageWriteDone s
  | .gddrTrainingDone channel pass => Sys2Proof.Machine.execGddrTrainingDone channel pass s
  | .gddrZeroFillDone => Sys2Proof.Machine.execGddrZeroFillDone s
  | .tinMountDone ok capacity spare => Sys2Proof.Machine.execTinMountDone ok capacity spare s
  | .hostLinkUp rate width cxl => Sys2Proof.Machine.execHostLinkUp rate width cxl s
  | .hostLinkAttemptTimeout => Sys2Proof.Machine.execHostLinkAttemptTimeout s
  | .timeExchangeStart => Sys2Proof.Machine.execTimeExchangeStart s
  | .timeExchangeRequestReceive port t2 t3 report => Sys2Proof.Machine.execTimeExchangeRequestReceive port t2 t3 report s
  | .timeExchangeResponseReceive port t1 t2 t3 t4 report => Sys2Proof.Machine.execTimeExchangeResponseReceive port t1 t2 t3 t4 report s
  | .rootPhaseStep fs lengthen sinceNs => Sys2Proof.Machine.execRootPhaseStep fs lengthen sinceNs s
  | .exchangeNoResponse => Sys2Proof.Machine.execExchangeNoResponse s
  | .holdLimitExpiry => Sys2Proof.Machine.execHoldLimitExpiry s
  | .relockPauseEnd => Sys2Proof.Machine.execRelockPauseEnd s
  | .rootSequenceIncrement => Sys2Proof.Machine.execRootSequenceIncrement s
  | .backupRootTakeover => Sys2Proof.Machine.execBackupRootTakeover s
  | .hallTimerFire timer => Sys2Proof.Machine.execHallTimerFire timer s
  | .htTmrCmpWrite requester timer half value => Sys2Proof.Machine.execHtTmrCmpWrite requester timer half value s
  | .htTmrCtlWrite requester timer half value => Sys2Proof.Machine.execHtTmrCtlWrite requester timer half value s
  | .refreshBatch channel => Sys2Proof.Machine.execRefreshBatch channel s
  | .refreshRateChange channel hot => Sys2Proof.Machine.execRefreshRateChange channel hot s
  | .blendClaim requester => Sys2Proof.Machine.execBlendClaim requester s
  | .blendLoad requester => Sys2Proof.Machine.execBlendLoad requester s
  | .blendCheckDone sigOk => Sys2Proof.Machine.execBlendCheckDone sigOk s
  | .hopTableLoadDeferEnd => Sys2Proof.Machine.execHopTableLoadDeferEnd s
  | .blendApply requester => Sys2Proof.Machine.execBlendApply requester s
  | .blendCancel requester => Sys2Proof.Machine.execBlendCancel requester s
  | .blendRelease requester => Sys2Proof.Machine.execBlendRelease requester s
  | .stFieldWrite offset half value => Sys2Proof.Machine.execStFieldWrite offset half value s
  | .blendApplyAtT => Sys2Proof.Machine.execBlendApplyAtT s
  | .registerWrite requester offset half value => Sys2Proof.Machine.execRegisterWrite requester offset half value s
  | .bundleIssue core ecc => Sys2Proof.Machine.execBundleIssue core ecc s
  | .waitSatisfied core => Sys2Proof.Machine.execWaitSatisfied core s
  | .waitdDeadline core => Sys2Proof.Machine.execWaitdDeadline core s
  | .taskEndDrained core => Sys2Proof.Machine.execTaskEndDrained core s
  | .ldT core => Sys2Proof.Machine.execLdT core s
  | .ldG core => Sys2Proof.Machine.execLdG core s
  | .ldCr core => Sys2Proof.Machine.execLdCr core s
  | .creditGrant core window => Sys2Proof.Machine.execCreditGrant core window s
  | .stT core => Sys2Proof.Machine.execStT core s
  | .stS core => Sys2Proof.Machine.execStS core s
  | .stA core => Sys2Proof.Machine.execStA core s
  | .stFence core => Sys2Proof.Machine.execStFence core s
  | .mma core => Sys2Proof.Machine.execMma core s
  | .mmaScreen core => Sys2Proof.Machine.execMmaScreen core s
  | .tcvt core => Sys2Proof.Machine.execTcvt core s
  | .tadd core => Sys2Proof.Machine.execTadd core s
  | .tmul core => Sys2Proof.Machine.execTmul core s
  | .tred core => Sys2Proof.Machine.execTred core s
  | .tsparseStrict core => Sys2Proof.Machine.execTsparseStrict core s
  | .tsparsePrune core => Sys2Proof.Machine.execTsparsePrune core s
  | .tsparseMask core => Sys2Proof.Machine.execTsparseMask core s
  | .tsparseNzlist core => Sys2Proof.Machine.execTsparseNzlist core s
  | .longInstructionComplete core unit overlapped frozen cause drain => Sys2Proof.Machine.execLongInstructionComplete core unit overlapped frozen cause drain s
  | .coreModeWrite core mode => Sys2Proof.Machine.execCoreModeWrite core mode s
  | .urnInsert => Sys2Proof.Machine.execUrnInsert s
  | .urnDrain => Sys2Proof.Machine.execUrnDrain s
  | .urnClear => Sys2Proof.Machine.execUrnClear s
  | .select => Sys2Proof.Machine.execSelect s
  | .dirWrite => Sys2Proof.Machine.execDirWrite s
  | .dirRead => Sys2Proof.Machine.execDirRead s
  | .dirBias => Sys2Proof.Machine.execDirBias s
  | .dispatch => Sys2Proof.Machine.execDispatch s
  | .combine => Sys2Proof.Machine.execCombine s
  | .spoutRelease => Sys2Proof.Machine.execSpoutRelease s
  | .exchangePartStart ctx => Sys2Proof.Machine.execExchangePartStart ctx s
  | .schedFlitSend port slot pos => Sys2Proof.Machine.execSchedFlitSend port slot pos s
  | .schedFlitForward port slot pos => Sys2Proof.Machine.execSchedFlitForward port slot pos s
  | .spoutStreamComplete ctx src => Sys2Proof.Machine.execSpoutStreamComplete ctx src s
  | .spoutLateStart ctx => Sys2Proof.Machine.execSpoutLateStart ctx s
  | .spoutReceiveDeadline ctx => Sys2Proof.Machine.execSpoutReceiveDeadline ctx s
  | .dispatchCommit ctx => Sys2Proof.Machine.execDispatchCommit ctx s
  | .combineCommit ctx => Sys2Proof.Machine.execCombineCommit ctx s
  | .cableMemoryRead port mem => Sys2Proof.Machine.execCableMemoryRead port mem s
  | .pmdEqualisationDone port => Sys2Proof.Machine.execPmdEqualisationDone port s
  | .fecLockDone port => Sys2Proof.Machine.execFecLockDone port s
  | .linkLayerExchangeDone port peerId peerPort peerTx peerRx => Sys2Proof.Machine.execLinkLayerExchangeDone port peerId peerPort peerTx peerRx s
  | .mutualAuthenticationDone port peer chainOk peerRefused report => Sys2Proof.Machine.execMutualAuthenticationDone port peer chainOk peerRefused report s
  | .trainingStepTimeout port lane loopbackFails => Sys2Proof.Machine.execTrainingStepTimeout port lane loopbackFails s
  | .portTrainingRetry port sinceMs => Sys2Proof.Machine.execPortTrainingRetry port sinceMs s
  | .authenticationRetry port sinceMs => Sys2Proof.Machine.execAuthenticationRetry port sinceMs s
  | .peerTrainingDetected port => Sys2Proof.Machine.execPeerTrainingDetected port s
  | .linkKeyRollover port transmit => Sys2Proof.Machine.execLinkKeyRollover port transmit s
  | .flitReceive port flit fecOk fec count pos => Sys2Proof.Machine.execFlitReceive port flit fecOk fec count pos s
  | .errRspSend => Sys2Proof.Machine.execErrRspSend s
  | .lctlSend port => Sys2Proof.Machine.execLctlSend port s
  | .lctlReceive port msg => Sys2Proof.Machine.execLctlReceive port msg s
  | .vc1RetrySend port slot pos => Sys2Proof.Machine.execVc1RetrySend port slot pos s
  | .portDown port cond => Sys2Proof.Machine.execPortDown port cond s
  | .congReportSend => Sys2Proof.Machine.execCongReportSend s
  | .remoteRequestSend => Sys2Proof.Machine.execRemoteRequestSend s
  | .remoteLoad => Sys2Proof.Machine.execRemoteLoad s
  | .remoteStore => Sys2Proof.Machine.execRemoteStore s
  | .remoteStoreF => Sys2Proof.Machine.execRemoteStoreF s
  | .storeFRelease => Sys2Proof.Machine.execStoreFRelease s
  | .storeFGapTimeout => Sys2Proof.Machine.execStoreFGapTimeout s
  | .aadd => Sys2Proof.Machine.execAadd s
  | .amin => Sys2Proof.Machine.execAmin s
  | .amax => Sys2Proof.Machine.execAmax s
  | .aand => Sys2Proof.Machine.execAand s
  | .aor => Sys2Proof.Machine.execAor s
  | .axor => Sys2Proof.Machine.execAxor s
  | .aswap => Sys2Proof.Machine.execAswap s
  | .acas => Sys2Proof.Machine.execAcas s
  | .fadd => Sys2Proof.Machine.execFadd s
  | .memRspReceive => Sys2Proof.Machine.execMemRspReceive s
  | .remoteRequestDeadline tag => Sys2Proof.Machine.execRemoteRequestDeadline tag s
  | .reduceScatter => Sys2Proof.Machine.execReduceScatter s
  | .allGather => Sys2Proof.Machine.execAllGather s
  | .collectivePartStart => Sys2Proof.Machine.execCollectivePartStart s
  | .chunkReceive src => Sys2Proof.Machine.execChunkReceive src s
  | .collectiveLate => Sys2Proof.Machine.execCollectiveLate s
  | .collectiveReceiveDeadline => Sys2Proof.Machine.execCollectiveReceiveDeadline s
  | .collectiveCommit => Sys2Proof.Machine.execCollectiveCommit s
  | .start => Sys2Proof.Machine.execStart s
  | .startAckReceive port msg => Sys2Proof.Machine.execStartAckReceive port msg s
  | .ackDeadlineExpiry => Sys2Proof.Machine.execAckDeadlineExpiry s
  | .startCommitReceive port msg => Sys2Proof.Machine.execStartCommitReceive port msg s
  | .startAbortReceive port msg => Sys2Proof.Machine.execStartAbortReceive port msg s
  | .startCommitTimeout => Sys2Proof.Machine.execStartCommitTimeout s
  | .startRollback => Sys2Proof.Machine.execStartRollback s
  | .copy => Sys2Proof.Machine.execCopy s
  | .fill => Sys2Proof.Machine.execFill s
  | .gather => Sys2Proof.Machine.execGather s
  | .pool => Sys2Proof.Machine.execPool s
  | .reduce => Sys2Proof.Machine.execReduce s
  | .hostRead reply => Sys2Proof.Machine.execHostRead reply s
  | .hostWrite reply => Sys2Proof.Machine.execHostWrite reply s
  | .digest => Sys2Proof.Machine.execDigest s
  | .audit => Sys2Proof.Machine.execAudit s
  | .scrubFillDone => Sys2Proof.Machine.execScrubFillDone s
  | .alloc => Sys2Proof.Machine.execAlloc s
  | .allocServe pool => Sys2Proof.Machine.execAllocServe pool s
  | .allocDeadline pool => Sys2Proof.Machine.execAllocDeadline pool s
  | .free => Sys2Proof.Machine.execFree s
  | .caddyEngineRequest requester pool count deadline handles => Sys2Proof.Machine.execCaddyEngineRequest requester pool count deadline handles s
  | .create => Sys2Proof.Machine.execCreate s
  | .tinWrite failed => Sys2Proof.Machine.execTinWrite failed s
  | .tinRead failed bad => Sys2Proof.Machine.execTinRead failed bad s
  | .tinDelete failed => Sys2Proof.Machine.execTinDelete failed s
  | .tinStat => Sys2Proof.Machine.execTinStat s
  | .wearLevelMove failed => Sys2Proof.Machine.execWearLevelMove failed s
  | .readDisturbMove block failed => Sys2Proof.Machine.execReadDisturbMove block failed s
  | .retentionPatrol block weak failed => Sys2Proof.Machine.execRetentionPatrol block weak failed s
  | .update => Sys2Proof.Machine.execUpdate s
  | .stepAdvance => Sys2Proof.Machine.execStepAdvance s
  | .stepSet => Sys2Proof.Machine.execStepSet s
  | .infuserStream => Sys2Proof.Machine.execInfuserStream s
  | .infuserStreamLate => Sys2Proof.Machine.execInfuserStreamLate s
  | .infusionStreamReceive src => Sys2Proof.Machine.execInfusionStreamReceive src s
  | .accept => Sys2Proof.Machine.execAccept s
  | .acceptComplete set => Sys2Proof.Machine.execAcceptComplete set s
  | .acceptDeadline set => Sys2Proof.Machine.execAcceptDeadline set s
  | .swap => Sys2Proof.Machine.execSwap s
  | .seqBegin => Sys2Proof.Machine.execSeqBegin s
  | .seqEnd => Sys2Proof.Machine.execSeqEnd s
  | .coolingEnd set region => Sys2Proof.Machine.execCoolingEnd set region s
  | .prefixHash => Sys2Proof.Machine.execPrefixHash s
  | .prefixLookup => Sys2Proof.Machine.execPrefixLookup s
  | .prefixInsert => Sys2Proof.Machine.execPrefixInsert s
  | .admitRequest => Sys2Proof.Machine.execAdmitRequest s
  | .grow => Sys2Proof.Machine.execGrow s
  | .stepBegin => Sys2Proof.Machine.execStepBegin s
  | .stepCommit => Sys2Proof.Machine.execStepCommit s
  | .retire => Sys2Proof.Machine.execRetire s
  | .pin => Sys2Proof.Machine.execPin s
  | .requestDeadlineRetire job request => Sys2Proof.Machine.execRequestDeadlineRetire job request s
  | .tenantKeyLoad key => Sys2Proof.Machine.execTenantKeyLoad key s
  | .jobArm => Sys2Proof.Machine.execJobArm s
  | .jobArmadd => Sys2Proof.Machine.execJobArmadd s
  | .jobStep => Sys2Proof.Machine.execJobStep s
  | .jobCset => Sys2Proof.Machine.execJobCset s
  | .jobCinc => Sys2Proof.Machine.execJobCinc s
  | .save => Sys2Proof.Machine.execSave s
  | .restore => Sys2Proof.Machine.execRestore s
  | .pload => Sys2Proof.Machine.execPload s
  | .task => Sys2Proof.Machine.execTask s
  | .taskCommit core => Sys2Proof.Machine.execTaskCommit core s
  | .preempt job => Sys2Proof.Machine.execPreempt job s
  | .resume job => Sys2Proof.Machine.execResume job s
  | .kill job => Sys2Proof.Machine.execKill job s
  | .teardownDrainDone job => Sys2Proof.Machine.execTeardownDrainDone job s
  | .teardownScrubDone job => Sys2Proof.Machine.execTeardownScrubDone job s
  | .coreScrubDone core => Sys2Proof.Machine.execCoreScrubDone core s
  | .doorbellWrite ring tail => Sys2Proof.Machine.execDoorbellWrite ring tail s
  | .descriptorFetch ring bytes => Sys2Proof.Machine.execDescriptorFetch ring bytes s
  | .cqHeadWrite ring half value => Sys2Proof.Machine.execCqHeadWrite ring half value s
  | .interruptCoalesceTimeout ring => Sys2Proof.Machine.execInterruptCoalesceTimeout ring s
  | .biasFlip value => Sys2Proof.Machine.execBiasFlip value s
  | .biasFlipPageDone page => Sys2Proof.Machine.execBiasFlipPageDone page s
  | .hostCxlMemAccess addr len write => Sys2Proof.Machine.execHostCxlMemAccess addr len write s
  | .hostBar4Access offset len write => Sys2Proof.Machine.execHostBar4Access offset len write s
  | .hostLinkDown => Sys2Proof.Machine.execHostLinkDown s
  | .ideIntegrityFailure => Sys2Proof.Machine.execIdeIntegrityFailure s
  | .doeDiscovery index => Sys2Proof.Machine.execDoeDiscovery index s
  | .doeAbort => Sys2Proof.Machine.execDoeAbort s
  | .getVersion => Sys2Proof.Machine.execGetVersion s
  | .getCapabilities => Sys2Proof.Machine.execGetCapabilities s
  | .negotiateAlgorithms => Sys2Proof.Machine.execNegotiateAlgorithms s
  | .getDigests => Sys2Proof.Machine.execGetDigests s
  | .getCertificate slot => Sys2Proof.Machine.execGetCertificate slot s
  | .challenge nonce => Sys2Proof.Machine.execChallenge nonce s
  | .getMeasurements index nonce => Sys2Proof.Machine.execGetMeasurements index nonce s
  | .keyExchange request => Sys2Proof.Machine.execKeyExchange request s
  | .finish verified => Sys2Proof.Machine.execFinish verified s
  | .heartbeat => Sys2Proof.Machine.execHeartbeat s
  | .keyUpdate => Sys2Proof.Machine.execKeyUpdate s
  | .endSession => Sys2Proof.Machine.execEndSession s
  | .ideKm request program => Sys2Proof.Machine.execIdeKm request program s
  | .cdatRead entry => Sys2Proof.Machine.execCdatRead entry s
  | .i3cSetdasa staticAddr dynamicAddr => Sys2Proof.Machine.execI3cSetdasa staticAddr dynamicAddr s
  | .i3cRegisterWrite bytes => Sys2Proof.Machine.execI3cRegisterWrite bytes s
  | .i3cRegisterRead bytes => Sys2Proof.Machine.execI3cRegisterRead bytes s
  | .jtagTapAccess op => Sys2Proof.Machine.execJtagTapAccess op s
  | .wmbCtrlLengthWrite len => Sys2Proof.Machine.execWmbCtrlLengthWrite len s
  | .wmbDataWrite half data => Sys2Proof.Machine.execWmbDataWrite half data s
  | .wmbRdataRead => Sys2Proof.Machine.execWmbRdataRead s
  | .maintEnter sig => Sys2Proof.Machine.execMaintEnter sig s
  | .maintExit sig => Sys2Proof.Machine.execMaintExit sig s
  | .fwUpdate sig accepts => Sys2Proof.Machine.execFwUpdate sig accepts s
  | .fwImageWriteDone => Sys2Proof.Machine.execFwImageWriteDone s
  | .svnCommit sig => Sys2Proof.Machine.execSvnCommit sig s
  | .fwkeyRevoke sig => Sys2Proof.Machine.execFwkeyRevoke sig s
  | .ownerClaim sig => Sys2Proof.Machine.execOwnerClaim sig s
  | .ownerSet sig => Sys2Proof.Machine.execOwnerSet sig s
  | .ownerRelease sig => Sys2Proof.Machine.execOwnerRelease sig s
  | .recordRestore sig => Sys2Proof.Machine.execRecordRestore sig s
  | .debugAuth sig => Sys2Proof.Machine.execDebugAuth sig s
  | .recordRead sig => Sys2Proof.Machine.execRecordRead sig s
  | .kettleControlStep vin iin => Sys2Proof.Machine.execKettleControlStep vin iin s
  | .overdrawKill => Sys2Proof.Machine.execOverdrawKill s
  | .thermalSample readings => Sys2Proof.Machine.execThermalSample readings s
  | .thermalTripClear => Sys2Proof.Machine.execThermalTripClear s
  | .envelopeMessage src payload => Sys2Proof.Machine.execEnvelopeMessage src payload s
  | .envelopeInForce => Sys2Proof.Machine.execEnvelopeInForce s
  | .envelopeExpiry => Sys2Proof.Machine.execEnvelopeExpiry s
  | .rampUntil timer => Sys2Proof.Machine.execRampUntil timer s
  | .kettleTelemetry => Sys2Proof.Machine.execKettleTelemetry s
  | .patrolRead store addr found => Sys2Proof.Machine.execPatrolRead store addr found s
  | .gddrWriteReissue addr => Sys2Proof.Machine.execGddrWriteReissue addr s
  | .logTokenRefill cls => Sys2Proof.Machine.execLogTokenRefill cls s
  | .dropReport => Sys2Proof.Machine.execDropReport s
  | .logExportSend => Sys2Proof.Machine.execLogExportSend s
  | .alarmSend => Sys2Proof.Machine.execAlarmSend s
  | .logRdWrite half value => Sys2Proof.Machine.execLogRdWrite half value s
  | .exchangeEnd ctx => Sys2Proof.Machine.execExchangeEnd ctx s
  | .collectiveEnd => Sys2Proof.Machine.execCollectiveEnd s

end Sys2Proof.Machine
end

