-- ==== Sys2Proof/Machine/Tick.lean ====
section
/-!
DEFINITION. One hall tick, which passes when no command waits (notes/assumptions/4.md): swaps that found no READY region end
(R385), the events of the tick are written to the log (R487), a position of a port goes to the flit that is next (R90, R281), and the counters of time advance (R43, R72, R76,
R84, R271, R290).
-/

namespace Sys2Proof.Machine

/-- R271, R290: a position passes on a port that is up; a queued flit that holds no credit has waited. -/
def Port.tick (x : Port) : Port :=
  if x.state = 3 then
    { x with
      txPos := x.txPos + 1
      congWait := if x.txq.any (fun q => x.credit q.flit.vc.toNat == 0) then x.congWait + 1 else x.congWait }
  else x

/-- R90, R281: a position of a port that nothing has taken goes to the first ready source; IDLE leaves nothing. -/
def State.fillPosition (s : State) (p : Nat) : State :=
  if s.positionOpen p then
    match s.nextSource p (s.retryWaits p) with
    | some .lctl => s.sendLctl p
    | some (.queued i) => s.sendOne p i
    | some .vc1Retry => s.sendRetry p
    | some .again => s.sendAgain p
    | none => s
  else s

/-- The positions that begin in this tick, which pass once. -/
def State.positions (s : State) : State :=
  if positionBegins s.lineTick && s.fab.lineAt != some s.line then
    let s1 := allPorts.foldl State.fillPosition s
    { s1 with ports := s1.ports.map fun e => (e.1, e.2.tick), fab := { s1.fab with lineAt := some s.line } }
  else s

/-- The count in one tick: held while a relock pause runs, in whose last tick it resumes (R84). -/
def HallTime.tick (h : HallTime) (counting : Bool) : HallTime :=
  if h.state = .acquiring && h.firstAcquire then { h with prov := h.prov + 1 }
  else if !counting then h
  else if h.pause ≤ 1 then { h with count := h.count + 1, pause := 0 }
  else { h with pause := h.pause - 1 }

/-- R51: the first of the maps to write begins its write of a copy. -/
def beginWrite (ws : List RepairWrite) (now : Nat) : List RepairWrite :=
  match ws with
  | w :: r => { w with doneAt := now + copyTime w.body } :: r
  | [] => []

/-- R51: the copy being written is done when its time has come, and the next one begins, of the same map or of the map after it. -/
def Boot.tick (b : Boot) : Boot :=
  match b.repairWrites with
  | w :: r =>
    if w.doneAt ≤ b.sincePwrOk then
      { b with
        repairCopies := tset [] b.repairCopies w.copy (mapBytes w.seq w.body)
        repairWrites := beginWrite (if w.copy < 2 then { w with copy := w.copy + 1 } :: r else r) b.sincePwrOk }
    else b
  | [] => b

/-- R129: the counters and flags that a hall tick leaves are kept with each flag set in it. -/
def Core.keepTick (c : Core) (now : Nat) : Core :=
  { c with flagSnap := (c.flagAt.filter fun e => e.2 == now + 1).foldl (fun t e => tset {} t e.1 { cnt := c.cnt, flags := c.flags }) c.flagSnap }

/-- R129: a hall tick ends; one in which the flag of a WAITD became set ends with its condition unmet. -/
def Core.tick (c : Core) (now : Nat) : Core :=
  let c := c.keepTick now
  match c.wait with
  | some h =>
    match h.deadlineFlag with
    | some d => if tget 0 c.flagAt d = now + 1 && !c.waitOf h.spec then { c with wait := some { h with late := true } } else c
    | none => c
  | none => c

/-- One hall tick; host accesses whose channels serve them now are served (R434). -/
def State.tick (s : State) : State :=
  let s1 := s.endSwaps.logTick
  let s2 := if s1.host.waiting.isEmpty then s1.positions else s1.positions.serveWaiting
  { s2 with
    ht := s2.ht.tick s2.counting
    cores := if (s2.ht.tick s2.counting).count = s2.ht.count then s2.cores else s2.cores.map fun e => (e.1, e.2.tick s.now)
    boot := { s2.boot.tick with sincePwrOk := if s2.pwr.pwrOk then s2.boot.sincePwrOk + 1 else s2.boot.sincePwrOk } }

end Sys2Proof.Machine
end

