-- ==== Sys2Proof/WellFormed.lean ====
section
/-!
DEFINITION. Well-formed commands: an operand that names a port, cage, core, timer, ring, channel, pool, context, set or other
resource names one the module has (Tables 1-4 to 1-7, R8, R33, R47, R92, R329, R349, R378, R391, R435, R485).
-/

namespace Sys2Proof

/-- Every resource a command names exists. -/
def Instr.wellFormed (i : Instr) : Bool :=
  match i with
  | .pwrEnChange _ _ => true
  | .railSequencingStart _ _ => true
  | .railRegulationTimeout rail => decide (1 ≤ rail) && decide (rail ≤ 6)
  | .pwrOkRelease => true
  | .inputShutdown _ _ _ => true
  | .inputExcursionEnd _ _ _ => true
  | .power64vApplied _ _ => true
  | .power64vRemoved _ => true
  | .cablePowerOverload cage _ _ => decide (cage < 4)
  | .cagePresenceChange cage _ => decide (cage < 4)
  | .perstAssert => true
  | .perstDeassert => true
  | .rootSourceLoss _ _ => true
  | .rootSourceReturn _ => true
  | .wardenSelfTestDone _ _ _ => true
  | .repairMapVote _ _ _ _ => true
  | .repairRebuild => true
  | .repairRebuildDone _ => true
  | .bootMboxLengthWrite _ => true
  | .bootMboxDataWrite _ _ => true
  | .bootMboxCommit => true
  | .imageVerifyDone _ _ => true
  | .reservedImageWriteDone => true
  | .gddrTrainingDone channel _ => decide (channel < 96)
  | .gddrZeroFillDone => true
  | .tinMountDone _ _ _ => true
  | .hostLinkUp _ _ _ => true
  | .hostLinkAttemptTimeout => true
  | .timeExchangeStart => true
  | .timeExchangeRequestReceive port _ _ _ => decide (port < 12)
  | .timeExchangeResponseReceive port _ _ _ _ _ => decide (port < 12)
  | .rootPhaseStep _ _ _ => true
  | .exchangeNoResponse => true
  | .holdLimitExpiry => true
  | .relockPauseEnd => true
  | .rootSequenceIncrement => true
  | .backupRootTakeover => true
  | .hallTimerFire timer => decide (timer < 16)
  | .htTmrCmpWrite _ timer _ _ => decide (timer < 16)
  | .htTmrCtlWrite _ timer _ _ => decide (timer < 16)
  | .refreshBatch channel => decide (channel < 96)
  | .refreshRateChange channel _ => decide (channel < 96)
  | .blendClaim _ => true
  | .blendLoad _ => true
  | .blendCheckDone _ => true
  | .hopTableLoadDeferEnd => true
  | .blendApply _ => true
  | .blendCancel _ => true
  | .blendRelease _ => true
  | .stFieldWrite _ _ _ => true
  | .blendApplyAtT => true
  | .registerWrite _ _ _ _ => true
  | .bundleIssue core _ => decide (core < 256)
  | .waitSatisfied core => decide (core < 256)
  | .waitdDeadline core => decide (core < 256)
  | .taskEndDrained core => decide (core < 256)
  | .ldT core => decide (core < 256)
  | .ldG core => decide (core < 256)
  | .ldCr core => decide (core < 256)
  | .creditGrant core window => decide (core < 256) && decide (window < 8)
  | .stT core => decide (core < 256)
  | .stS core => decide (core < 256)
  | .stA core => decide (core < 256)
  | .stFence core => decide (core < 256)
  | .mma core => decide (core < 256)
  | .mmaScreen core => decide (core < 256)
  | .tcvt core => decide (core < 256)
  | .tadd core => decide (core < 256)
  | .tmul core => decide (core < 256)
  | .tred core => decide (core < 256)
  | .tsparseStrict core => decide (core < 256)
  | .tsparsePrune core => decide (core < 256)
  | .tsparseMask core => decide (core < 256)
  | .tsparseNzlist core => decide (core < 256)
  | .longInstructionComplete core _ _ _ _ _ => decide (core < 256)
  | .coreModeWrite core _ => decide (core < 256)
  | .urnInsert => true
  | .urnDrain => true
  | .urnClear => true
  | .select => true
  | .dirWrite => true
  | .dirRead => true
  | .dirBias => true
  | .dispatch => true
  | .combine => true
  | .spoutRelease => true
  | .exchangePartStart ctx => decide (ctx < 16)
  | .schedFlitSend port _ _ => decide (port < 12)
  | .schedFlitForward port _ _ => decide (port < 12)
  | .spoutStreamComplete ctx _ => decide (ctx < 16)
  | .spoutLateStart ctx => decide (ctx < 16)
  | .spoutReceiveDeadline ctx => decide (ctx < 16)
  | .dispatchCommit ctx => decide (ctx < 16)
  | .combineCommit ctx => decide (ctx < 16)
  | .cableMemoryRead port _ => decide (port < 12)
  | .pmdEqualisationDone port => decide (port < 12)
  | .fecLockDone port => decide (port < 12)
  | .linkLayerExchangeDone port _ _ _ _ => decide (port < 12)
  | .mutualAuthenticationDone port _ _ _ _ => decide (port < 12)
  | .trainingStepTimeout port _ _ => decide (port < 12)
  | .portTrainingRetry port _ => decide (port < 12)
  | .authenticationRetry port _ => decide (port < 12)
  | .peerTrainingDetected port => decide (port < 12)
  | .linkKeyRollover port _ => decide (port < 12)
  | .flitReceive port _ _ _ _ _ => decide (port < 12)
  | .errRspSend => true
  | .lctlSend port => decide (port < 12)
  | .lctlReceive port _ => decide (port < 12)
  | .vc1RetrySend port _ _ => decide (port < 12)
  | .portDown port _ => decide (port < 12)
  | .congReportSend => true
  | .remoteRequestSend => true
  | .remoteLoad => true
  | .remoteStore => true
  | .remoteStoreF => true
  | .storeFRelease => true
  | .storeFGapTimeout => true
  | .aadd => true
  | .amin => true
  | .amax => true
  | .aand => true
  | .aor => true
  | .axor => true
  | .aswap => true
  | .acas => true
  | .fadd => true
  | .memRspReceive => true
  | .remoteRequestDeadline _ => true
  | .reduceScatter => true
  | .allGather => true
  | .collectivePartStart => true
  | .chunkReceive _ => true
  | .collectiveLate => true
  | .collectiveReceiveDeadline => true
  | .collectiveCommit => true
  | .start => true
  | .startAckReceive port _ => decide (port < 12)
  | .ackDeadlineExpiry => true
  | .startCommitReceive port _ => decide (port < 12)
  | .startAbortReceive port _ => decide (port < 12)
  | .startCommitTimeout => true
  | .startRollback => true
  | .copy => true
  | .fill => true
  | .gather => true
  | .pool => true
  | .reduce => true
  | .hostRead _ => true
  | .hostWrite _ => true
  | .digest => true
  | .audit => true
  | .scrubFillDone => true
  | .alloc => true
  | .allocServe p => decide (p < 64)
  | .allocDeadline p => decide (p < 64)
  | .free => true
  | .caddyEngineRequest _ p _ _ _ => decide (p < 64)
  | .create => true
  | .tinWrite _ => true
  | .tinRead _ _ => true
  | .tinDelete _ => true
  | .tinStat => true
  | .wearLevelMove _ => true
  | .readDisturbMove _ _ => true
  | .retentionPatrol _ _ _ => true
  | .update => true
  | .stepAdvance => true
  | .stepSet => true
  | .infuserStream => true
  | .infuserStreamLate => true
  | .infusionStreamReceive _ => true
  | .accept => true
  | .acceptComplete set => decide (set < 8)
  | .acceptDeadline set => decide (set < 8)
  | .swap => true
  | .seqBegin => true
  | .seqEnd => true
  | .coolingEnd set region => decide (set < 8) && decide (region < 2)
  | .prefixHash => true
  | .prefixLookup => true
  | .prefixInsert => true
  | .admitRequest => true
  | .grow => true
  | .stepBegin => true
  | .stepCommit => true
  | .retire => true
  | .pin => true
  | .requestDeadlineRetire job _ => decide (job < 8)
  | .tenantKeyLoad key => decide (key < 16)
  | .jobArm => true
  | .jobArmadd => true
  | .jobStep => true
  | .jobCset => true
  | .jobCinc => true
  | .save => true
  | .restore => true
  | .pload => true
  | .task => true
  | .taskCommit core => decide (core < 256)
  | .preempt job => decide (job < 8)
  | .resume job => decide (job < 8)
  | .kill job => decide (job < 8)
  | .teardownDrainDone job => decide (job < 8)
  | .teardownScrubDone job => decide (job < 8)
  | .coreScrubDone core => decide (core < 256)
  | .doorbellWrite ring _ => decide (ring < 64)
  | .descriptorFetch ring _ => decide (ring < 64)
  | .cqHeadWrite ring _ _ => decide (ring < 64)
  | .interruptCoalesceTimeout ring => decide (ring < 64)
  | .biasFlip _ => true
  | .biasFlipPageDone page => decide (page < 196608)
  | .hostCxlMemAccess _ _ _ => true
  | .hostBar4Access _ _ _ => true
  | .hostLinkDown => true
  | .ideIntegrityFailure => true
  | .doeDiscovery _ => true
  | .doeAbort => true
  | .getVersion => true
  | .getCapabilities => true
  | .negotiateAlgorithms => true
  | .getDigests => true
  | .getCertificate _ => true
  | .challenge _ => true
  | .getMeasurements _ _ => true
  | .keyExchange _ => true
  | .finish _ => true
  | .heartbeat => true
  | .keyUpdate => true
  | .endSession => true
  | .ideKm _ _ => true
  | .cdatRead _ => true
  | .i3cSetdasa _ _ => true
  | .i3cRegisterWrite _ => true
  | .i3cRegisterRead _ => true
  | .jtagTapAccess _ => true
  | .wmbCtrlLengthWrite _ => true
  | .wmbDataWrite _ _ => true
  | .wmbRdataRead => true
  | .maintEnter _ => true
  | .maintExit _ => true
  | .fwUpdate _ _ => true
  | .fwImageWriteDone => true
  | .svnCommit _ => true
  | .fwkeyRevoke _ => true
  | .ownerClaim _ => true
  | .ownerSet _ => true
  | .ownerRelease _ => true
  | .recordRestore _ => true
  | .debugAuth _ => true
  | .recordRead _ => true
  | .kettleControlStep _ _ => true
  | .overdrawKill => true
  | .thermalSample _ => true
  | .thermalTripClear => true
  | .envelopeMessage _ payload => decide (payload.length = 240)
  | .envelopeInForce => true
  | .envelopeExpiry => true
  | .rampUntil timer => decide (timer < 16)
  | .kettleTelemetry => true
  | .patrolRead _ _ _ => true
  | .gddrWriteReissue addr => decide (addr < 0x6000000000)
  | .logTokenRefill cls => decide (cls < 6)
  | .dropReport => true
  | .logExportSend => true
  | .alarmSend => true
  | .logRdWrite _ _ => true
  | .exchangeEnd ctx => decide (ctx < 16)
  | .collectiveEnd => true

end Sys2Proof
end

