-- ==== Sys2Proof/Safety.lean ====
section
/-!
DEFINITION. What a sound state is, in the terms the statements use.
-/

namespace Sys2Proof.Machine

/-- The invariant of memory: the canonical form. -/
def State.MemOk (s : State) : Prop := s.mem.wf

/-- Every command of an engine waits in the queue of its own engine and job slot (R413). -/
abbrev State.QueuesOwn (s : State) : Prop := ∀ p ∈ s.queues, ∀ c ∈ p.2, c.engine * 8 + c.job = p.1 ∧ c.job < 8

/-- A command that neither stops nor is refused. -/
def Completes (i : Instr) (s : State) : Prop := ∃ t, exec i s = .next t

/-- The command of engine e that its arbiter starts next, when it has opcode op and its argument block can be read and its COMPL written
(R473, R492): the state once it has left its queue, and the command as started (R414). -/
def State.begins (s : State) (e op : Nat) : Option (State × Cmd) :=
  match s.pick e with
  | some h => if h.engine = e ∧ h.opcode = op ∧ s.argCheck h = none then some (s.startCmd h) else none
  | none => none

/-- The head of a unit's queue of core k, when it has the opcode and can start: the state with the head gone, its wait taken and
the lines of its operands in host-bias pages claimed, and the instruction (R122, R127, R432). -/
def State.starts (s : State) (k unit op : Nat) : Option (State × LongInstr) :=
  match ((s.core k).queue unit).head? with
  | some i =>
    if i.op = op ∧ s.headReady k unit i = true then
      some ((s.modCore k fun c => (c.setQueue unit (c.queue unit).tail).takeWait (waitField unit i.bits.toNat)).claim (s.named k i), i)
    else none
  | none => none

/-- No write of this core cycle waits for the scratchpad of core k (R138). -/
abbrev State.Quiet (s : State) (k : Nat) : Prop := (s.core k).padWrites = []

/-- From u to t, core k's instruction i has started: it will write ws when it completes, and occupies the array for some core cycles
(R168), from which ballast leaves (R463); nothing else has changed. -/
def State.Begun (u t : State) (k : Nat) (i : LongInstr) (ws : List (Nat × List Byte)) (busy : Nat := 0) : Prop :=
  (t.core k).started = (u.core k).started ++
    [{ unit := i.unit, bits := i.bits, bundle := i.bundle, id := (u.core k).nextId, writes := ws, busy
       backToBack := i.unit == 4 && (u.core k).started.any fun x => x.unit == 4 }] ∧
  (t.core k).nextId = (u.core k).nextId + 1 ∧ (∀ j, j ≠ k → t.core j = u.core j) ∧
  t = { u with cores := t.cores, freeCount := t.freeCount, ktl := if i.unit = 4 then (u.takeBallast k).ktl else u.ktl }

/-- R187: in tile q of four rows, every position of group g is kept in exactly two of the rows. -/
def twiceKept (kept : List (List (List Nat))) (q g : Nat) : Bool :=
  (List.range 4).all fun j => ((List.range 4).filter fun r => ((kept.getD (4 * q + r) []).getD g []).contains j).length == 2

/-- Core k's task in t has failed with a status, slot, bundle and detail (R147): nothing of it is queued any more. -/
abbrev State.TaskFailed (t : State) (k status : Nat) (i : LongInstr) (detail : Nat) : Prop :=
  (t.core k).run = .failed ∧ (t.core k).faultStatus = status ∧ (t.core k).faultSlot = i.unit ∧ (t.core k).faultBundle = i.bundle ∧
  (t.core k).faultDetail = detail ∧ (t.core k).qVec = [] ∧ (t.core k).qMat = [] ∧ (t.core k).qLd = [] ∧ (t.core k).qSt = []

/-- No HOST_READ or HOST_WRITE runs (R439). -/
abbrev State.noHostCommand (s : State) : Prop := ∀ l ∈ s.live, ¬(l.cmd.engine = 7 ∧ (l.cmd.opcode = 8 ∨ l.cmd.opcode = 9))

/-- An address outside a command's completion record (R437). -/
abbrev Cmd.spares (c : Cmd) (a : Nat) : Prop :=
  c.compl.toNat = 0 ∨ a < localOf c.compl.toNat ∨ localOf c.compl.toNat + 64 ≤ a

/-- An address that the failed end of a command leaves as it is: outside its record, and outside the declared outputs it writes in place
(R418). -/
abbrev State.leaves (s : State) (c : Cmd) (a : Nat) : Prop :=
  c.spares a ∧ ∀ r ∈ s.undefinedOuts c, a < localOf r.1 ∨ localOf r.1 + r.2 ≤ a

/-- From s to t, nothing but what starting and ending commands touches has changed: queues, completion records and outputs left undefined,
counters, rings, logs, and requests to other devices. -/
abbrev OnlyCommands (s t : State) : Prop :=
  t = { s with mem := t.mem, jobs := t.jobs, queues := t.queues, pass := t.pass, live := t.live, eng := t.eng, rings := t.rings,
               fab := { s.fab with toSend := t.fab.toSend, endings := t.fab.endings, lastEnding := t.fab.lastEnding }, log := t.log, irq := t.irq, out := t.out
               freeCount := t.freeCount }

/-- The request of an operation that this device applies next as destination: the state once it has left its receive buffer, and the
request (R304). -/
def State.arrives (s : State) (op : Nat) : Option (State × InReq) :=
  (s.nextApply op).map fun i => (s.takeIngress i, s.fab.ingress.getD i {})

/-- From s to v, a request's arrival has changed nothing but memory, receive buffers, stream records, arrival counters and, in host-bias
pages, the claims of its lines. -/
abbrev AppliedOnly (s v : State) : Prop :=
  v = { s with mem := v.mem, cores := v.cores, ports := v.ports, log := v.log, out := v.out
               fab := { s.fab with ingress := v.fab.ingress, streams := v.fab.streams } }

/-- From u to v, the stream records count q's number as applied, and no other (R300). -/
abbrev Accounted (u v : State) (q : InReq) : Prop :=
  v.stream q.src = (u.stream q.src).map (fun r => r.account q.req.rseq) ∧ ∀ d, d ≠ q.src → v.stream d = u.stream d

/-- A GO reaches the Warden and is not another row's: it is idle from step 4 on, and COMMAND is this one or is not listed (R453). -/
abbrev State.Asked (s : State) (cmd : Nat) : Prop :=
  s.wdn.wmbBusy = false ∧ s.pwr.pwrOk = true ∧ 4 ≤ s.boot.step ∧ (leAt s.wreq 8 1 = cmd ∨ wreqCodes.contains (leAt s.wreq 8 1) = false)

/-- The request in the mailbox is COMMAND `cmd` with a payload of `n` bytes, and meets every check of Table 18-5 (R453). -/
abbrev State.Passes (s : State) (cmd n : Nat) (sig : SigVerdict) : Prop :=
  s.wdn.wmbBusy = false ∧ s.pwr.pwrOk = true ∧ 4 ≤ s.boot.step ∧ leAt s.wreq 8 1 = cmd ∧ leAt s.wreq 0x0C 4 = n ∧
  firstFail (s.wreqChecks s.wreq sig) = none

/-- The state once a request has ended with a status: no response waits, and the nonce is a fresh one (R453). -/
def State.answered (s : State) (status : Nat) : State :=
  { s with wdn := { s.wdn with rvalid := false, rbytes := [], rptr := 0, wmbStatus := status
                               nonce := Config.nonce s.wdn.nonceCount, nonceCount := s.wdn.nonceCount + 1 } }

end Sys2Proof.Machine
end

