-- ==== Sys2Proof/Certificates/Slice0/Obligations.lean ====
section
/-!
DEFINITION. The statements for the provers, in the order of the chapters of spec/.
-/

open Sys2Proof Sys2Proof.Machine

/-- R25: after an input shutdown the module stays off until PWR_EN is held low for 100 ms and then driven high, or 64 V is removed for 1 s and
restored with PWR_EN high; the shutdown releases the internal enable. -/
def Obligations.RestartNeedsAction : Prop :=
  (∀ (s : State) (v held : Nat), s.pwr.latched = true → exec (.railSequencingStart v held) s = .next s) ∧
  (∀ (s : State) (held : Nat), s.pwr.present = true → s.pwr.pwrEn = false → s.pwr.latched = true → s.pwr.running = false →
    ∃ t, exec (.pwrEnChange true held) s = .next t ∧
      t.pwr = { s.pwr with pwrEn := true, latched := decide (held < 100000) } ∧
      t.boot.step = (if held < 100000 then s.boot.step else 1) ∧ t = { s with pwr := t.pwr, boot := t.boot, irq := t.irq, out := t.out }) ∧
  (∀ (s : State) (v ms : Nat), s.pwr.present = false → s.pwr.latched = true → 40000 ≤ v →
    ∃ t, exec (.power64vApplied v ms) s = .next t ∧
      t.pwr = { s.pwr with present := true, vinMv := v, latched := !(s.pwr.pwrEn && decide (1000 ≤ ms)) } ∧
      t.boot.step = (if s.pwr.pwrEn && decide (1000 ≤ ms) then 1 else 0)) ∧
  (∀ (s : State) (v i ns : Nat), s.pwr.running = true → v < 56000 → 50000 ≤ ns →
    ∃ t, exec (.inputShutdown v i ns) s = .next t ∧ t.pwr.running = false ∧ t.pwr.internalEnable = true ∧ t.pwr.latched = true)

/-- R23, R24, R497: the conditions of Table 1-2 that end in an input shutdown, what is lost, and the cause word; an input in range changes
nothing. The numbers of the cause word's bits, and that a supply below 40 V shuts the module down at once, are the model's choice
(notes/assumptions/10.md). R23, R47, R48: rail sequencing begins at 58 V with PWR_EN high for 10 ms; a rail out of regulation holds step 2
with its number recorded; PWR_OK's release starts step 3, and the Warden writes the cause and sequencing-fault words and the entries of
steps 1 and 2 ahead of any other. That a step begins with attempt 1 is the model's choice (notes/assumptions/47.md). -/
def Obligations.InputAndRails : Prop :=
  (∀ (s : State) (v i ns : Nat), s.pwr.running = true →
    (v < 56000 ∧ 50000 ≤ ns) ∨ (56000 ≤ v ∧ v < 58000 ∧ 10000000 < ns) ∨ (69000 < v ∧ 100000 ≤ ns) ∨
      (50000 < i ∧ 20000 ≤ ns) ∨ (s.pwr.pwrEn = false ∧ 10000 ≤ ns) →
    ∃ t, exec (.inputShutdown v i ns) s = .next t ∧
      t.pwr.pwrOk = false ∧ t.pwr.running = false ∧ t.pwr.latched = true ∧ t.mem = {} ∧ t.cores = [] ∧ t.log = {} ∧
      t.live = [] ∧ t.queues = [] ∧ t.rings = [] ∧ t.bld = {} ∧ t.ports = [] ∧ t.fuse = s.fuse ∧ t.tin.objects = s.tin.objects ∧
      t.ht.seed = s.ht.seed ∧ t.fab.fabId = s.fab.fabId ∧
      (v < 56000 → i ≤ 50000 → s.pwr.pwrEn = true → s.pwr.internalEnable = true → t.pwr.causeWord = some 8) ∧
      (58000 ≤ v → v ≤ 69000 → i ≤ 50000 → s.pwr.internalEnable = false →
        t.pwr.causeWord = some (if 67000 < v then 0x190 else 0x180))) ∧
  (∀ (s : State) (v i ns : Nat), 58000 ≤ v → v ≤ 69000 → i ≤ 50000 → s.pwr.pwrEn = true → s.pwr.internalEnable = true →
    exec (.inputShutdown v i ns) s = .next s) ∧
  (∀ (s : State) (v : Nat), s.pwr.present = true → s.pwr.running = true → v < 40000 →
    ∃ t, exec (.power64vRemoved v) s = .next t ∧ t.pwr.present = false ∧ t.pwr.running = false ∧ t.mem = {} ∧
      t.boot.step = 0 ∧ t.pwr.causeWord = some (8 + (if s.pwr.pwrEn && s.pwr.internalEnable then 0 else 0x80) +
        (if s.pwr.internalEnable then 0 else 0x100))) ∧
  (∀ (s : State) (row mv ns : Nat), s.pwr.running = true → 3 ≤ s.boot.step → (row = 2 ∧ ns ≤ 10000000) ∨ row = 5 →
    ∃ e : LogEntry, exec (.inputExcursionEnd row mv ns) s =
        .next { s with log := { s.log with offered := s.log.offered ++ [e] } } ∧
      e.event = 0x0003 ∧ e.aux = row ∧ e.span = min ns 0xFFFFFFFF ∧ e.detail = BitVec.ofNat 64 mv ∧ e.time = s.logTime - ns) ∧
  (∀ (s : State) (v held : Nat), s.pwr.present = true → s.pwr.pwrEn = true → s.pwr.running = false → s.pwr.latched = false →
    58000 ≤ v → 10000 ≤ held →
    ∃ t, exec (.railSequencingStart v held) s = .next t ∧ t.pwr = { s.pwr with running := true, vinMv := v } ∧
      t.boot.step = 2 ∧ t.boot.attempt = 1 ∧ t = { s with pwr := t.pwr, boot := t.boot, irq := t.irq, out := t.out }) ∧
  (∀ (s : State) (v held : Nat), v < 58000 → exec (.railSequencingStart v held) s = .next s) ∧
  (∀ (s : State) (rail : Nat), s.pwr.running = true → s.boot.step = 2 → s.pwr.pwrOk = false → 1 ≤ rail → rail ≤ 6 →
    exec (.railRegulationTimeout rail) s = .next { s with
      pwr := { s.pwr with running := false, latched := true, seqFault := some rail },
      boot := { s.boot with hold := true, wait := false, cause := 0x01, status := 0 } }) ∧
  (∀ s : State, s.pwr.running = true → s.boot.step = 2 → s.boot.hold = false →
    ∃ t, exec .pwrOkRelease s = .next t ∧ t.pwr = { s.pwr with pwrOk := true, causeWord := none, seqFault := none } ∧ t.boot.step = 3 ∧
      t.boot.sincePwrOk = 0 ∧
      t.log.offered.map (fun e => (e.event, e.aux)) =
        (if s.pwr.causeWord = none then [] else [(0x0001, 0)]) ++ (s.pwr.seqFault.toList.map fun r => (0x0002, r)) ++
          [(0x0010, 1), (0x0010, 2)] ∧
      t = { s with pwr := t.pwr, boot := t.boot, irq := t.irq, out := t.out, log := { s.log with offered := t.log.offered } })

/-- R50, Table 2-3: the repair map is taken from two passing copies that agree or, where exactly two pass with sequence numbers one apart,
from the lower; in every other case the device holds at step 4 with REPAIR_DISAGREE and applies nothing. -/
def Obligations.RepairMapVote : Prop :=
  ∀ (s : State) (copies : List (List Byte)) (bist : List (BitVec 9)) (columns : List Nat) (owners : List (List Byte)),
    s.boot.step = 4 → s.pwr.pwrOk = true → s.boot.hold = false → s.boot.rebuilding = false →
    let c : Nat → Option (Nat × List Byte) := fun i => mapCopy (s.readCopy i (copies.getD i []))
    let agree : Prop := ∃ i j m, i < j ∧ j < 3 ∧ c i = some m ∧ c j = some m
    let oneApart : Prop := ∃ i j k n a b, [i, j, k].Perm [0, 1, 2] ∧ c i = some (n, a) ∧ c j = some (n + 1, b) ∧ c k = none
    (∀ i j m, i < j → j < 3 → c i = some m → c j = some m →
      ∃ t, exec (.repairMapVote copies bist columns owners) s = .next t ∧ t.boot.repairSeq = m.1 ∧ t.boot.repairBody = m.2 ∧
        t.boot.step = 5 ∧ t.boot.hold = false) ∧
    (∀ i j k n a b, [i, j, k].Perm [0, 1, 2] → c i = some (n, a) → c j = some (n + 1, b) → c k = none →
      ∃ t, exec (.repairMapVote copies bist columns owners) s = .next t ∧ t.boot.repairSeq = n ∧ t.boot.repairBody = a ∧
        t.boot.step = 5 ∧ t.boot.hold = false) ∧
    (¬agree → ¬oneApart →
      ∃ t, exec (.repairMapVote copies bist columns owners) s = .next t ∧ t.boot.hold = true ∧ t.boot.wait = false ∧
        t.boot.cause = 0x03 ∧ t.boot.status = 0x71 ∧ t.boot.step = 4 ∧ t.boot.repairSeq = s.boot.repairSeq ∧
        t.boot.repairBody = s.boot.repairBody ∧ t.mem = s.mem ∧ t.wdn = s.wdn)

/-- R44, R48, R52, R445: the Warden's self-test derives the device's keys and starts step 4, or holds step 3 for good; REPAIR_REBUILD leaves
the hold of CAUSE 0x03, and the rebuilt map, one above the highest sequence number found, restarts bring-up at step 3. R55, R56: while the
mailbox is open LENGTH resets the data pointer, a write of DATA stages its bytes at the pointer, in Stack SRAM (from
notes/assumptions/47.md's stageBase on, the model's choice), and moves it, nothing lands at or beyond LENGTH, COMMIT starts verification;
at every other time the writes are ignored. An access of another size completes as Unsupported Request (R430). -/
def Obligations.WardenStartAndMailbox : Prop :=
  (∀ (s : State) (a b : Bool), s.pwr.pwrOk = true → s.boot.step = 3 → s.boot.hold = false →
    ∃ t, exec (.wardenSelfTestDone true a b) s = .next t ∧ t.boot.step = 4 ∧ t.boot.hold = false ∧ t.wdn.devFprValid = true ∧
      t.wdn.certBad = (s.wdn.certBad || !a || !b) ∧ t.wdn.nonce = Config.nonce s.wdn.nonceCount ∧
      t.wdn.identityKey = devIdentityKey ∧ t.wdn.tinKey = devTinKey ∧ t.wdn.sealKey = devSealKey ∧ t.wdn.certs = storeChain ∧
      t.pwr = s.pwr ∧ t.mem = s.mem) ∧
  (∀ (s : State) (a b : Bool), s.pwr.pwrOk = true → s.boot.step = 3 → s.boot.hold = false →
    ∃ t, exec (.wardenSelfTestDone false a b) s = .next t ∧ t.boot.step = 3 ∧ t.boot.hold = true ∧ t.boot.cause = 0x02 ∧
      t.wdn = s.wdn ∧ t.mem = s.mem) ∧
  (∀ s : State, s.boot.hold = true → s.boot.cause = 0x03 →
    ∃ t, exec .repairRebuild s = .next t ∧ t.boot.rebuilding = true ∧ t.boot.hold = false ∧ t.boot.wait = false ∧
      t.boot.cause = 0 ∧ t = { s with boot := t.boot }) ∧
  (∀ s : State, s.boot.cause ≠ 0x03 → exec .repairRebuild s = .next s) ∧
  (∀ (s : State) (body : List Byte), s.boot.rebuilding = true →
    ∃ t, exec (.repairRebuildDone body) s = .next t ∧ t.boot.step = 3 ∧ t.boot.rebuilding = false ∧
      (∀ i, i < 3 → tget [] t.boot.repairCopies i = mapBytes (s.boot.repairHighest + 1) body) ∧ t.pwr.pwrOk = s.pwr.pwrOk) ∧
  (∀ (s : State) (len : BitVec 24), s.mboxOpen = true → len.toNat % 8 = 0 → len.toNat ≤ 0x800000 →
    exec (.bootMboxLengthWrite len) s = .next { s with boot := { s.boot with mboxLen := len, mboxPtr := 0 } }) ∧
  (∀ (s : State) (d : BitVec 64), s.mboxOpen = true → s.boot.mboxPtr + 8 ≤ s.boot.mboxLen.toNat →
    ∃ t, exec (.bootMboxDataWrite .whole d) s = .next t ∧ t.boot.mboxPtr = s.boot.mboxPtr + 8 ∧
      (∀ i, i < 8 → t.mem.byte (stageBase + s.boot.mboxPtr + i) = (leBytes 8 d.toNat).getD i 0) ∧
      (∀ a, a < stageBase + s.boot.mboxPtr ∨ stageBase + s.boot.mboxPtr + 8 ≤ a → t.mem.byte a = s.mem.byte a) ∧
      t = { s with boot := { s.boot with mboxPtr := t.boot.mboxPtr }, mem := t.mem, log := { s.log with badLines := t.log.badLines } }) ∧
  (∀ (s : State) (h : Half) (d : BitVec 64), h ≠ .other → s.boot.mboxLen.toNat ≤ s.boot.mboxPtr → exec (.bootMboxDataWrite h d) s = .next s) ∧
  (∀ s : State, s.mboxOpen = true →
    ∃ t, exec .bootMboxCommit s = .next t ∧ t.boot.mboxBusy = true ∧ t.boot.hold = false ∧ t.boot.wait = false ∧ t.boot.cause = 0 ∧
      t = { s with boot := t.boot }) ∧
  (∀ (s : State) (len : BitVec 24) (h : Half) (d : BitVec 64), h ≠ .other → s.mboxOpen = false →
    exec (.bootMboxLengthWrite len) s = .next s ∧ exec (.bootMboxDataWrite h d) s = .next s ∧ exec .bootMboxCommit s = .next s) ∧
  (∀ (s : State) (d : BitVec 64), s.linkUp = true →
    exec (.bootMboxDataWrite .other d) s = .next { s with out := s.out ++ [.unsupported] })

/-- R54, R56, R57, R445, R446: an image no key verifies holds step 5 with IMAGE_VERIFY; one that verifies starts the firmware and step 6, at
once from Tin, and from the mailbox when the reserved area holds it. Whether a signature verifies is an operand (the model's choice:
notes/assumptions/2.md). R58 to R60: a channel trains; its third failure sets its GDDR_FAIL bit and holds with CAUSE 0x05; with all
channels trained the fill makes every byte of GDDR7 read zero and starts step 7; Tin's mount ends. That a channel's fill is one command,
and Tin's outcome, are operands of the model's (notes/assumptions/2.md). -/
def Obligations.ImagesAndMedia : Prop :=
  (∀ (s : State) (img : List Byte) (acc : List Bool), s.boot.step = 5 → s.pwr.pwrOk = true → s.boot.hold = false →
    s.boot.imageWriting = false → s.boot.mboxBusy = false → s.boot.fromMailbox = false → s.boot.reservedImage = [] →
    imageKey s img none acc = none →
    ∃ t, exec (.imageVerifyDone img acc) s = .next t ∧ t.boot.step = 5 ∧ t.boot.hold = true ∧ t.boot.cause = 0x04 ∧
      t.boot.status = 0x72 ∧ t.boot.fwRunning = s.boot.fwRunning ∧ t.wdn = s.wdn ∧ t.mem = s.mem) ∧
  (∀ (s : State) (img : List Byte) (acc : List Bool) (k : Nat), s.boot.step = 5 → s.pwr.pwrOk = true → s.boot.hold = false →
    s.boot.imageWriting = false → s.boot.mboxBusy = false → s.boot.fromMailbox = false → s.boot.reservedImage = [] →
    imageKey s img none acc = some k →
    ∃ t, exec (.imageVerifyDone img acc) s = .next t ∧ t.boot.step = 6 ∧ t.boot.hold = false ∧ t.boot.fwRunning = true ∧
      t.boot.fwDigest = slice img 0x40 64 ∧ t.wdn.aliasKey = devAliasKey (slice img 0x40 64) (leAt img 0x0C 4) ∧
      t.wdn.aliasCert = some (issueAlias s.wdn.identityKey (slice img 0x40 64) (leAt img 0x0C 4)) ∧
      t.wdn.mode = 1 ∧ t.tin.state = 1 ∧ t.mem = s.mem) ∧
  (∀ (s : State) (img : List Byte) (acc : List Bool) (k : Nat), s.boot.step = 5 → s.pwr.pwrOk = true → s.boot.hold = false →
    s.boot.imageWriting = false → s.boot.mboxBusy = true → imageKey s s.mailboxImage (some s.boot.mboxLen.toNat) acc = some k →
    ∃ t, exec (.imageVerifyDone img acc) s = .next t ∧ t.boot.step = 5 ∧ t.boot.imageWriting = true ∧ t.boot.mboxBusy = false ∧
      t = { s with boot := t.boot, wdn := t.wdn }) ∧
  (∀ s : State, s.boot.step = 5 → s.boot.imageWriting = true →
    ∃ t, exec .reservedImageWriteDone s = .next t ∧ t.boot.step = 6 ∧ t.boot.fwRunning = true ∧ t.boot.imageWriting = false ∧
      t.boot.reservedImage = s.mailboxImage ∧ t.mem = s.mem) ∧
  (∀ (s : State) (c : Nat), c < 96 → s.boot.step = 6 → s.boot.gddrTrained.getLsbD c = false → s.boot.gddrFail.getLsbD c = false →
    ∃ t, exec (.gddrTrainingDone c true) s = .next t ∧ t.boot.gddrTrained.getLsbD c = true ∧ t = { s with boot := t.boot }) ∧
  (∀ (s : State) (c : Nat), c < 96 → s.boot.step = 6 → s.boot.gddrTrained.getLsbD c = false → s.boot.gddrFail.getLsbD c = false →
    tget 0 s.boot.gddrAttempts c = 2 →
    ∃ t, exec (.gddrTrainingDone c false) s = .next t ∧ t.boot.gddrFail.getLsbD c = true ∧ t.boot.hold = true ∧
      (s.boot.hold = false → t.boot.cause = 0x05) ∧ t.boot.step = 6 ∧ t.mem = s.mem) ∧
  (∀ s : State, s.boot.step = 6 → s.boot.hold = false → s.boot.gddrTrained = BitVec.allOnes 96 →
    ∃ t, exec .gddrZeroFillDone s = .next t ∧ t.boot.step = 7 ∧ (∀ a, a < gddrSize → t.mem.byte a = 0) ∧
      (∀ a, gddrSize ≤ a → t.mem.byte a = s.mem.byte a)) ∧
  (∀ (s : State) (cap spare : Nat), s.tin.state = 1 → s.boot.step ≠ 10 →
    exec (.tinMountDone true cap spare) s =
      .next { s with tin := { s.tin with state := if spare = 0 then 3 else 2, cap := cap, spare := spare } }) ∧
  (∀ (s : State) (cap spare : Nat), s.tin.state = 1 → s.boot.step = 10 → s.boot.cause = 0x15 →
    ∃ t, exec (.tinMountDone false cap spare) s = .next t ∧ t.tin.state = 4 ∧ t.boot.degraded = true ∧ t.boot.cause = 0x13)

/-- R61, R426 to R428: a legal link completes step 7 with its rate and width, degraded below 64 GT/s or below x16 and, at 64 GT/s x16, as it
was; Function 0 then reports its identity; the fifth attempt without a link completes the step with RATE 0; CXL runs on 8 lanes or more.
R31, R439, R441: the loss of the link disables every ring, ends the session and its keys, and returns every page to device bias; a
HOST_READ or HOST_WRITE that runs ends with ROUTE_DEAD, and with none running nothing else moves; PERST_N and an IDE integrity failure
take the link down, the latter reported through AER, the CXL RAS capability and one log entry. -/
def Obligations.HostLinkUpAndDown : Prop :=
  (functionId.device = 0xA7B0 ∧ functionId.classCode = 0x120000 ∧ functionId.revision = Config.stepping ∧ functionId.vendor = Config.vendorId) ∧
  (∀ (s : State) (rate width : Nat), s.boot.step = 10 → s.boot.hostRate = 0 → s.pwr.perst = false →
    (rate = 2 ∨ rate = 3) → (width = 1 ∨ width = 2 ∨ width = 4 ∨ width = 8 ∨ width = 16) →
    ∃ t, exec (.hostLinkUp rate width true) s = .next t ∧ t.boot.hostRate = rate ∧ t.boot.hostWidth = width ∧
      t.boot.hostCxl = decide (8 ≤ width) ∧ t.boot.step = 10 ∧ (rate = 2 ∨ width < 16 → t.boot.degraded = true) ∧
      (rate = 3 → width = 16 → t.boot.degraded = s.boot.degraded ∧ t = { s with boot := t.boot, out := s.out ++ [.function0 functionId] })) ∧
  (∀ (s : State) (rate width : Nat), s.boot.step = 7 → s.boot.step7Done = false → s.boot.hostRate = 0 → s.pwr.perst = false →
    (rate = 2 ∨ rate = 3) → (width = 1 ∨ width = 2 ∨ width = 4 ∨ width = 8 ∨ width = 16) →
    ∃ t, exec (.hostLinkUp rate width true) s = .next t ∧ t.boot.hostRate = rate ∧ t.boot.hostWidth = width ∧
      t.boot.hostCxl = decide (8 ≤ width) ∧ t.boot.step7Done = true ∧ t.boot.step ≠ 7 ∧
      (rate = 2 ∨ width < 16 → t.boot.degraded = true) ∧ (rate = 3 → width = 16 → (∀ p ∈ allPorts, s.portSeated p = true → s.portUp p = true) → t.boot.degraded = s.boot.degraded) ∧ t.linkUp = true ∧
      .function0 functionId ∈ t.out ∧ t.mem = s.mem) ∧
  (∀ (s : State) (width : Nat), 7 ≤ s.boot.step → s.boot.hostRate = 0 → s.pwr.perst = false → (width = 1 ∨ width = 2 ∨ width = 4 ∨ width = 8 ∨ width = 16) →
    ∃ t, exec (.hostLinkUp 1 width false) s = .next t ∧ t.boot.hostRate = 1 ∧ t.boot.hostWidth = width ∧ t.boot.hostCxl = false ∧
      t.boot.degraded = true ∧ t.linkUp = true ∧ t.mem = s.mem) ∧
  (∀ (s : State) (rate width : Nat), s.pwr.perst = true → exec (.hostLinkUp rate width true) s = .next s) ∧
  (∀ s : State, s.boot.step = 7 → s.boot.step7Done = false → s.boot.hostRate = 0 → s.pwr.perst = false → s.boot.hostAttempts < 4 →
    exec .hostLinkAttemptTimeout s = .next { s with boot := { s.boot with
      hostAttempts := s.boot.hostAttempts + 1, attempt := s.boot.hostAttempts + 2 } }) ∧
  (∀ s : State, s.boot.step = 7 → s.boot.step7Done = false → s.boot.hostRate = 0 → s.pwr.perst = false → s.boot.hostAttempts = 4 →
    ∃ t, exec .hostLinkAttemptTimeout s = .next t ∧ t.boot.step7Done = true ∧ t.boot.degraded = true ∧ t.boot.hostRate = 0 ∧
      t.mem = s.mem) ∧
  (∀ s : State, s.pwr.perst = false →
    ∃ t, exec .perstAssert s = .next t ∧ t.pwr = { s.pwr with perst := true } ∧ t.linkUp = false ∧ t.boot.hostRate = 0 ∧
      (∀ r, r < 64 → (t.ring r).en = false ∧ (t.ring r).head = (s.ring r).head ∧ (t.ring r).base = (s.ring r).base) ∧ t.host.hostBias = [] ∧
      t.host.session = 0 ∧ t.host.sessionKeys = 0 ∧ t.host.ideKeys = 0 ∧
      (s.noHostCommand → t = { s with pwr := t.pwr, boot := t.boot, rings := t.rings, host := t.host })) ∧
  (∀ s : State, s.pwr.perst = true → exec .perstAssert s = .next s) ∧
  (∀ s : State,
    ∃ t, exec .perstDeassert s = .next t ∧ t.pwr = { s.pwr with perst := false } ∧
      (s.boot.step ≠ 7 → s.boot.step ≠ 8 → t.boot = s.boot) ∧
      (s.boot.step = 7 → s.boot.step7Done = false → allPorts.any s.portUp = true → t.boot.wait = false) ∧
      t = { s with pwr := t.pwr, boot := t.boot }) ∧
  (∀ s : State, s.pwr.perst = false → s.boot.step = 7 → s.boot.step7Done = false →
    ∃ t, exec .perstAssert s = .next t ∧ t.boot.wait = true ∧ t.boot.cause = 0x11) ∧
  (∀ s : State, s.boot.hostRate ≠ 0 →
    ∃ t, exec .hostLinkDown s = .next t ∧ t.boot.hostRate = 0 ∧ (∀ r, r < 64 → (t.ring r).en = false) ∧ t.host.session = 0 ∧
      (s.noHostCommand → t = { s with boot := t.boot, rings := t.rings, host := t.host })) ∧
  (∀ (s : State) (l : Live), s.boot.hostRate ≠ 0 → s.live = [l] → l.cmd.engine = 7 → l.cmd.opcode = 8 ∨ l.cmd.opcode = 9 →
    ∃ t, exec .hostLinkDown s = .next t ∧ t.boot.hostRate = 0 ∧ (t.engRegs 7).failStatus = 0x33 ∧
      (∀ a, l.cmd.spares a → t.mem.byte a = s.mem.byte a)) ∧
  (∀ s : State, s.boot.hostRate = 0 → exec .hostLinkDown s = .next s) ∧
  (∀ s : State, s.linkUp = true →
    ∃ t, exec .ideIntegrityFailure s = .next t ∧ t.linkUp = false ∧ t.host.aer = true ∧ t.host.ras = true ∧ t.host.ideKeys = 0 ∧
      (s.noHostCommand → t.log.offered.length = s.log.offered.length + 1 ∧ t.mem = s.mem)) ∧
  (∀ s : State, s.linkUp = false → exec .ideIntegrityFailure s = .next s)

/-- R34, R267, R285: a cable that draws more than 4.0 W for 1 ms loses its power and its three ports, and no other cage's power changes; a
plug seated from step 7 on trains its ports, a plug removed takes them down. -/
def Obligations.CageCablePower : Prop :=
  (∀ (s : State) (cage mw us : Nat), cage < 4 → tget false s.pwr.cablePwr cage = true → 4000 < mw → 1000 ≤ us →
    ∃ t, exec (.cablePowerOverload cage mw us) s = .next t ∧ tget false t.pwr.cablePwr cage = false ∧
      tget false t.pwr.cableOff cage = true ∧ (∀ p ∈ cagePorts cage, (t.port p).state = 6 ∧ (t.port p).txq = []) ∧
      (∀ c, c ≠ cage → tget false t.pwr.cablePwr c = tget false s.pwr.cablePwr c) ∧ t.mem = s.mem) ∧
  (∀ (s : State) (cage mw us : Nat), cage < 4 → mw ≤ 4000 ∨ us < 1000 → exec (.cablePowerOverload cage mw us) s = .next s) ∧
  (∀ (s : State) (cage : Nat), cage < 4 → 7 ≤ s.boot.step → tget false s.pwr.seated cage = false →
    ∃ t, exec (.cagePresenceChange cage true) s = .next t ∧ tget false t.pwr.seated cage = true ∧
      tget false t.pwr.cableOff cage = false ∧ (∀ p ∈ cagePorts cage, (t.port p).state = 1 ∧ (t.port p).tstep = 1) ∧ t.mem = s.mem) ∧
  (∀ (s : State) (cage : Nat), cage < 4 →
    ∃ t, exec (.cagePresenceChange cage false) s = .next t ∧ tget false t.pwr.seated cage = false ∧
      (∀ p ∈ cagePorts cage, (t.port p).state = 0) ∧ t.mem = s.mem)

/-- R64, R267, R269, Table 10-4: each training step that succeeds begins the next; an unreadable cable memory counts as class 1 and sets
FPT_EVT; a failed step leaves the port failed. R270, R271, R279, R447, R448: this end sends its chain, a fresh X448 key and a signature by
its identity key over the transcript digest; a peer that authenticates brings the port up with two keys of SHAKE256 over the shared secret
and the transcript digest and the credits of Table 10-7; one that does not leaves it in the authentication-failed state and counts. What
the transcript holds in which order, and which direction takes the first key, is the model's choice (notes/assumptions/49.md). R64, R272:
a failed port retries after 1 s, or 10 s after an authentication failure, or at once at step 2 when its peer trains; each direction of a
link moves to its next key alone, when its position count has reached a multiple of 2^32. -/
def Obligations.PortsTrainAndAuthenticate : Prop :=
  (∀ (s : State) (p : Nat), p < 12 → (s.port p).tstep = 1 → s.portSeated p = true →
    ∃ t, exec (.cableMemoryRead p none) s = .next t ∧ (t.port p).tstep = 2 ∧ (t.port p).cls = 1 ∧
      (t.port p).evt = (s.port p).evt ||| 4 ∧ (tget ({} : Asym) t.ht.asym p).cable = 0 ∧
      (tget ({} : Asym) t.ht.asym p).cal = false ∧ (∀ q, q ≠ p → t.port q = s.port q) ∧ t.mem = s.mem) ∧
  (∀ (s : State) (p : Nat), p < 12 → (s.port p).state ≤ 2 → (s.port p).tstep = 2 → s.portSeated p = true →
    exec (.pmdEqualisationDone p) s = .next (s.modPort p fun x => { x with tstep := 3 })) ∧
  (∀ (s : State) (p : Nat), p < 12 → (s.port p).state ≤ 2 → (s.port p).tstep = 3 → s.portSeated p = true →
    exec (.fecLockDone p) s = .next (s.modPort p fun x => { x with tstep := 4 })) ∧
  (∀ (s : State) (p : Nat) (id : BitVec 16) (peer a b : Nat), p < 12 → (s.port p).state = 1 → (s.port p).tstep = 4 →
    ∃ t, exec (.linkLayerExchangeDone p id peer a b) s = .next t ∧ (t.port p).state = 2 ∧ (t.port p).tstep = 5 ∧
      (t.port p).peerId = id ∧ (t.port p).peerPort = peer ∧
      (tget ({} : Asym) t.ht.asym p).device =
        ((tget 0 s.fuse.txLatency p : Nat) + (b : Int)) - (a + (tget 0 s.fuse.rxLatency p : Nat)) ∧
      t = { s with ports := t.ports, ht := t.ht, out := s.out ++ [.train p (s.exchangeMsg p)] }) ∧
  (∀ (s : State) (p : Nat) (f : Bool), p < 12 → (s.port p).state = 1 → (s.port p).tstep = 4 →
    ∃ t, exec (.trainingStepTimeout p none f) s = .next t ∧ (t.port p).state = 4 ∧ (t.port p).tstep = 0 ∧ t.mem = s.mem) ∧
  (∀ (s : State) (p l : Nat), p < 12 → (s.port p).state = 1 → (s.port p).tstep = 3 → tget 0 s.log.laneSpares (p / 3) < 2 →
    ∃ t, exec (.trainingStepTimeout p (some l) true) s = .next t ∧ (t.port p).state = 1 ∧ (t.port p).tstep = 2 ∧
      tget 0 t.log.laneSpares (p / 3) = tget 0 s.log.laneSpares (p / 3) + 1 ∧ t.mem = s.mem) ∧
  (∀ (s : State) (p : Nat) (h : Hello) (r : NbrReport), p < 12 → (s.port p).state = 2 → (s.port p).tstep = 5 →
    s.wdn.certBad = false → s.ownerOk h.fpr = true →
    ∃ t, exec (.mutualAuthenticationDone p h true false r) s = .next t ∧ (t.port p).state = 3 ∧ (t.port p).keyed = true ∧
      (t.port p).txKey = 0 ∧ (t.port p).rxKey = 0 ∧ (t.port p).txSecret = slice (s.linkKeyBytes p s.freeCount h) (if s.lowerEnd p then 0 else 32) 32 ∧
      (t.port p).rxSecret = slice (s.linkKeyBytes p s.freeCount h) (if s.lowerEnd p then 32 else 0) 32 ∧ (∀ v, v < 8 → (t.port p).credit v = vcBuffers v) ∧
      .train p (s.authMsg p s.freeCount h) ∈ t.out ∧ (∀ q, q ≠ p → t.port q = s.port q) ∧ t.mem = s.mem) ∧
  (∀ (s : State) (p : Nat) (h : Hello) (chainOk refused : Bool) (r : NbrReport), p < 12 → (s.port p).state = 2 →
    (s.port p).tstep = 5 → (chainOk = false ∨ refused = true ∨ s.wdn.certBad = true ∨ s.ownerOk h.fpr = false) →
    ∃ t, exec (.mutualAuthenticationDone p h chainOk refused r) s = .next t ∧ (t.port p).state = 5 ∧
      (t.port p).authFails = (s.port p).authFails + 1 ∧ (t.port p).keyed = (s.port p).keyed ∧
      (∀ q, q ≠ p → t.port q = s.port q) ∧ t.mem = s.mem) ∧
  (∀ (s : State) (p ms : Nat), p < 12 → ((s.port p).state = 4 ∨ (s.port p).state = 6) → s.portSeated p = true → 1000 ≤ ms →
    ∃ t, exec (.portTrainingRetry p ms) s = .next t ∧ t.port p = { s.port p with state := 1, tstep := 1 } ∧
      (∀ q, q ≠ p → t.port q = s.port q) ∧ t = { s with ports := t.ports, boot := t.boot, irq := t.irq, out := t.out, ht := t.ht, log := t.log }) ∧
  (∀ (s : State) (p ms : Nat), p < 12 → (s.port p).state = 5 → s.portSeated p = true → 10000 ≤ ms →
    ∃ t, exec (.authenticationRetry p ms) s = .next t ∧ t.port p = { s.port p with state := 1, tstep := 1 } ∧
      (∀ q, q ≠ p → t.port q = s.port q) ∧ t = { s with ports := t.ports, boot := t.boot, irq := t.irq, out := t.out, ht := t.ht, log := t.log }) ∧
  (∀ (s : State) (p : Nat), p < 12 → (s.port p).state = 4 → s.portSeated p = true → ((s.port p).cls = 1 ∨ (s.port p).cls = 2) →
    ∃ t, exec (.peerTrainingDetected p) s = .next t ∧ t.port p = { s.port p with state := 1, tstep := 2 } ∧
      (∀ q, q ≠ p → t.port q = s.port q) ∧ t = { s with ports := t.ports, boot := t.boot, irq := t.irq, out := t.out, ht := t.ht, log := t.log }) ∧
  (∀ (s : State) (p : Nat), p < 12 → (s.port p).cls = 0 → exec (.peerTrainingDetected p) s = .next s) ∧
  (∀ (s : State) (p ms : Nat), p < 12 → ms < 1000 →
    exec (.portTrainingRetry p ms) s = .next s ∧ exec (.authenticationRetry p ms) s = .next s) ∧
  (∀ (s : State) (p : Nat), p < 12 → s.portUp p = true → (s.port p).txKey < (s.port p).txPos / 2 ^ 32 →
    exec (.linkKeyRollover p true) s = .next (s.modPort p fun x => { x with
      txKey := x.txKey + 1, txSecret := shake256 32 (x.txSecret ++ leBytes 8 ((x.txKey + 1) * 2 ^ 32)) })) ∧
  (∀ (s : State) (p : Nat), p < 12 → s.portUp p = true → (s.port p).rxKey < (s.port p).rxPos / 2 ^ 32 →
    exec (.linkKeyRollover p false) s = .next (s.modPort p fun x => { x with
      rxKey := x.rxKey + 1, rxSecret := shake256 32 (x.rxSecret ++ leBytes 8 ((x.rxKey + 1) * 2 ^ 32)) })) ∧
  (∀ (s : State) (p : Nat), p < 12 → (s.port p).txPos / 2 ^ 32 ≤ (s.port p).txKey → exec (.linkKeyRollover p true) s = .next s)

/-- R39, R40: the selected root source is lost after 200 ns without an edge or beyond 50 ppm, which enters holdover and raises an alarm; after
10 ms without a break it is taken back. R76, R77, R79, R81 to R84: a locked device's phase moves by at most 0.5 ps at least 250 ns apart,
one that first acquires as fast as it needs, each towards the correction still to be made and no further, and no device that relocks or
holds over; the third exchange without response takes the upstream, and without another the device enters holdover; a relock pause ends. -/
def Obligations.RootSourceAndHoldover : Prop :=
  (∀ (s : State) (ns ppm : Nat), s.pwr.running = true → s.clk.holdover = false →
    200 ≤ ns ∨ (s.clk.source ≠ .oscillator ∧ 50 < ppm) →
    exec (.rootSourceLoss ns ppm) s =
      .next (State.event { s with clk := { s.clk with holdover := true } } 5 0x020 0x0041 s.ht.state.code s.ht.rootId.toNat)) ∧
  (∀ (s : State) (ns ppm : Nat), ns < 200 → ppm ≤ 50 → exec (.rootSourceLoss ns ppm) s = .next s) ∧
  (∀ (s : State) (us : Nat), s.pwr.running = true → s.clk.holdover = true → 10000 ≤ us →
    exec (.rootSourceReturn us) s = .next { s with clk := { s.clk with holdover := false } }) ∧
  (∀ (s : State) (us : Nat), us < 10000 → exec (.rootSourceReturn us) s = .next s) ∧
  (∀ (s : State) (fs ns : Nat) (l : Bool),
    (s.ht.state = .locked ∧ fs ≤ 500 ∧ 250 ≤ ns) ∨ (s.ht.state = .acquiring ∧ s.ht.firstAcquire = true) →
    fs ≤ s.ht.corr.natAbs → l = decide (0 < s.ht.corr) →
    exec (.rootPhaseStep fs l ns) s = .next { s with
      clk := { s.clk with phaseFs := s.clk.phaseFs + (if l then (fs : Int) else -fs) }
      ht := { s.ht with corr := s.ht.corr - (if l then (fs : Int) else -fs) } }) ∧
  (∀ (s : State) (fs ns : Nat) (l : Bool), ((500 < fs ∨ ns < 250) ∧ s.ht.firstAcquire = false) ∨ s.ht.corr.natAbs < fs ∨ l ≠ decide (0 < s.ht.corr) ∨
    (s.ht.state = .acquiring ∧ s.ht.firstAcquire = false) ∨ s.ht.state = .holdover →
    exec (.rootPhaseStep fs l ns) s = .next s) ∧
  (∀ (s : State) (p : Nat), s.ht.upstream = some p → s.ht.exchanging = true → 2 ≤ s.ht.noResponse → s.ht.state = .locked →
    (∀ q, q ≠ p → s.offers q = false) →
    ∃ t, exec .exchangeNoResponse s = .next t ∧ t.ht.state = .holdover ∧ t.ht.upstream = none ∧ t.ht.holdSince = s.ht.count ∧
      t.ht.count = s.ht.count ∧ t.ht.events.getLsbD 0 = true ∧ t = { s with ht := t.ht, irq := t.irq, out := t.out }) ∧
  (∀ s : State, s.ht.noResponse < 2 → exec .exchangeNoResponse s = .next s) ∧
  (∀ s : State, s.ht.pause = 1 → exec .relockPauseEnd s = .next { s with ht := { s.ht with pause := 0 } })

/-- R75 to R77, R80: a device paces its exchanges on its upstream; every device answers a neighbour's request with the arrival on its own
count and what it knows of the root; the estimate of an exchange steers a locked device by at most 20 ps; the eighth agreeing exchange
locks an acquiring one, at the provisional count moved by whole ticks. The bytes of a TIME flit's payload (notes/assumptions/18.md) and
the rounding of θ, of the delay and of the correction (notes/assumptions/19.md) are the model's choice. R83, R85: a device in holdover for
HOLD_LIMIT is out of tolerance; the root's sequence number rises every 10 µs; backup k takes the root role, one generation above the last
it saw, after (k + 1) × 100 µs without a rise of it or a higher generation, keeping its count. -/
def Obligations.TimeExchangeAndSuccession : Prop :=
  (∀ (s : State) (p : Nat), s.ht.upstream = some p → s.ht.state = .locked → s.exchangeDue = true →
    ∃ t, exec .timeExchangeStart s = .next t ∧ t.ht.exchanging = true ∧ t.ht.exchangeAt = some s.ht.count ∧
      t.ht.noResponse = (if s.ht.exchanging then s.ht.noResponse + 1 else 0) ∧
      (t.port p).txq = (s.port p).txq ++ [{ flit := s.timeFlit p (leBytes 1 0 ++ reportBytes s.ownReport) }] ∧
      (∀ q, q ≠ p → t.port q = s.port q) ∧ t.exchangeDue = false ∧ t = { s with ht := t.ht, ports := t.ports }) ∧
  (∀ s : State, s.exchangeDue = false → exec .timeExchangeStart s = .next s) ∧
  (∀ (s : State) (p t2 t3 : Nat) (r : NbrReport), p < 12 → s.portUp p = true →
    ∃ t, exec (.timeExchangeRequestReceive p t2 t3 r) s = .next t ∧
      (t.port p).txq = (s.port p).txq ++ [{ flit := s.timeFlit p (leBytes 1 1 ++ leBytes 8 (stampAt s.ownCount t2).toNat ++
        leBytes 8 (t3 % 65536) ++ reportBytes s.ownReport) }] ∧ (∀ q, q ≠ p → t.port q = s.port q) ∧ t.nbr p = r ∧ t.ht.count = s.ht.count ∧
      (s.ht.state = .root → r.state ≠ 2 → r.state ≠ 5 → t.ht.state = .root ∧ t.ht.rootGen = s.ht.rootGen) ∧ t.mem = s.mem) ∧
  (∀ (s : State) (p : Nat) (t1 t2 t3 t4 : Int) (r : NbrReport), p < 12 → s.ht.upstream = some p → s.ht.exchanging = true →
    s.portUp p = true → s.ht.state = .locked → r.state = 2 → r.rootId = s.ht.rootId → r.gen = s.ht.rootGen →
    ∃ t, exec (.timeExchangeResponseReceive p t1 t2 t3 t4 r) s = .next t ∧
      t.ht.offset = exchangeTheta (stampAt s.ht.departedAt t1) t2 t3 (stampAt s.ht.count t4) (s.asymOf p) ∧
      t.ht.delay = exchangeDelay (stampAt s.ht.departedAt t1) t2 t3 (stampAt s.ht.count t4) ∧
      t.ht.corr = max (-corrLimit) (min (unitsToFs t.ht.offset) corrLimit) ∧ t.ht.state = .locked ∧ t.ht.count = s.ht.count ∧
      t.ht.exchanging = false ∧ t.ht.noResponse = 0 ∧ t.ht.hops = min (r.hops + 1) 255 ∧ t.ht.rootSeq = r.seq ∧ t.mem = s.mem) ∧
  (∀ (s : State) (p : Nat) (t1 t2 t3 t4 : Int) (r : NbrReport), p < 12 → s.ht.upstream = some p → s.ht.exchanging = true →
    s.portUp p = true → s.ht.state = .acquiring → s.ht.firstAcquire = true → s.ht.firstExchange = false → s.ht.agree = 7 →
    r.state = 2 → r.rootId = s.ht.rootId → r.gen = s.ht.rootGen →
    (exchangeTheta (stampAt s.ht.departedAt t1) t2 t3 (stampAt s.ht.prov t4) (s.asymOf p)).natAbs ≤ 16384 → s.boot.step = 9 →
    ∃ t, exec (.timeExchangeResponseReceive p t1 t2 t3 t4 r) s = .next t ∧ t.ht.state = .locked ∧ t.ht.count = s.ht.prov ∧
      t.ht.corr = unitsToFs t.ht.offset ∧ t.boot.step = 10 ∧ t.mem = s.mem) ∧
  (∀ (s : State) (p : Nat) (t1 t2 t3 t4 : Int) (r : NbrReport), p < 12 → s.ht.exchanging = false ∨ s.ht.upstream ≠ some p →
    exec (.timeExchangeResponseReceive p t1 t2 t3 t4 r) s = .next s) ∧
  (∀ s : State, s.ht.state = .holdover → s.ht.holdSince + s.holdLimit ≤ s.ht.count →
    ∃ t, exec .holdLimitExpiry s = .next t ∧ t.ht.state = .outOfTolerance ∧ t.ht.events.getLsbD 1 = true ∧ t.ht.count = s.ht.count) ∧
  (∀ s : State, s.ht.state ≠ .holdover → exec .holdLimitExpiry s = .next s) ∧
  (∀ s : State, s.ht.state = .root → s.ht.rootSeqAt + 10000 ≤ s.ht.count →
    exec .rootSequenceIncrement s =
      .next { s with ht := { s.ht with rootSeq := s.ht.rootSeq + 1, rootSeqAt := s.ht.count } }) ∧
  (∀ s : State, s.ht.state ≠ .root → exec .rootSequenceIncrement s = .next s) ∧
  (∀ (s : State) (k : Nat), 1 ≤ k → k < 4 → (s.ht.state = .locked ∨ s.ht.state = .holdover) → s.devId ≠ 0xFFFF → s.rootListed k = s.devId →
    (∀ m, 1 ≤ m → m < k → s.rootListed m ≠ s.devId) → s.ht.rootSeqAt + (k + 1) * 100000 ≤ s.ht.count →
    (∀ a, s.ht.genSeenAt = some a → a + (k + 1) * 100000 ≤ s.ht.count) →
    ∃ t, exec .backupRootTakeover s = .next t ∧ t.ht.state = .root ∧
      t.ht.rootGen = (if s.ht.rootGen.toNat < s.ht.genSeen.toNat then s.ht.genSeen else s.ht.rootGen) + 1 ∧ t.ht.rootId = s.fab.fabId ∧
      t.ht.hops = 0 ∧ t.ht.count = s.ht.count ∧ t = { s with ht := t.ht, irq := t.irq, out := t.out }) ∧
  (∀ s : State, (∀ k, 1 ≤ k → k < 4 → s.rootListed k ≠ s.devId) → exec .backupRootTakeover s = .next s)

/-- R98: a trained channel issues its refresh batch once at slot position 15, and at position 7 when its rate is doubled. R92, R93: an armed,
owned timer fires at its compare value, a periodic one again one PERIOD later, and raises its flag at the owning core, after the due
timers of lower number and an apply whose T has come; only the owner writes CMP and CTL, and a write that would leave PERIODIC with a
PERIOD below 5 is ignored and logged. That an engine's event stands in a register of its own is the model's choice
(notes/assumptions/19.md). -/
def Obligations.RefreshAndTimers : Prop :=
  (∀ (s : State) (c : Nat), c < 96 → s.boot.gddrTrained.getLsbD c = true → s.ht.count / slotLen % 16 = 15 →
    tget 0 s.ht.batchAt c ≠ s.ht.count / slotLen + 1 →
    ∃ t, exec (.refreshBatch c) s = .next t ∧ tget 0 t.ht.batches c = tget 0 s.ht.batches c + 1 ∧
      tget 0 t.ht.batchAt c = s.ht.count / slotLen + 1 ∧ (∀ d, d ≠ c → tget 0 t.ht.batches d = tget 0 s.ht.batches d) ∧
      t = { s with ht := { s.ht with batches := t.ht.batches, batchAt := t.ht.batchAt } }) ∧
  (∀ (s : State) (c : Nat), c < 96 → tget 0 s.ht.batchAt c = s.ht.count / slotLen + 1 → exec (.refreshBatch c) s = .next s) ∧
  (∀ (s : State) (c : Nat), c < 96 → s.ht.count / slotLen % 16 = 7 → tget false s.ht.doubled c = false →
    bitOf (s.st 0x020020) 0 = false → exec (.refreshBatch c) s = .next s) ∧
  (∀ (s : State) (c : Nat), c < 96 → s.boot.gddrTrained.getLsbD c = true → s.ht.count / slotLen % 16 = 7 →
    tget false s.ht.doubled c = true → tget 0 s.ht.batchAt c ≠ s.ht.count / slotLen + 1 →
    ∃ t, exec (.refreshBatch c) s = .next t ∧ tget 0 t.ht.batches c = tget 0 s.ht.batches c + 1) ∧
  (∀ (s : State) (c : Nat) (hot : Bool), c < 96 →
    ∃ t, exec (.refreshRateChange c hot) s = .next t ∧ tget false t.ht.doubled c = hot ∧
      (∀ d, d ≠ c → tget false t.ht.doubled d = tget false s.ht.doubled d) ∧
      t = { s with ht := { s.ht with doubled := t.ht.doubled } }) ∧
  (∀ (s : State) (n k : Nat), n < 16 → k < 256 → s.timerDue n = true → (s.timer n).owner = 0x100 + k →
    (∀ m, m < n → s.timerDue m = false) → s.bld.state ≠ .armed ∨ s.now < s.bld.armedT →
    ∃ t, exec (.hallTimerFire n) s = .next t ∧ (t.timer n).fired = true ∧ (t.timer n).arm = (s.timer n).periodic ∧
      (t.timer n).late = ((s.timer n).late || decide ((s.timer n).cmp < s.now)) ∧
      (t.timer n).cmp = (if (s.timer n).periodic then ((s.timer n).cmp + (s.timer n).period) % 2 ^ 64 else (s.timer n).cmp) ∧
      (t.core k).sets.getLsbD (s.timer n).flag.toNat = true ∧ tget 0 (t.core k).flagAt (s.timer n).flag.toNat = s.now + 1 ∧ (∀ m, m ≠ n → t.timer m = s.timer m) ∧
      (∀ j, j ≠ k → t.core j = s.core j) ∧ t = { s with ht := { s.ht with timers := t.ht.timers }, cores := t.cores }) ∧
  (∀ (s : State) (n : Nat), n < 16 → (s.timer n).arm = true → (s.timer n).owner ≠ 0 → s.counting = true → (s.timer n).cmp = s.now →
    s.timerDue n = true) ∧
  (∀ (s : State) (n m : Nat), n < 16 → m < n → s.timerDue m = true → exec (.hallTimerFire n) s = .next s) ∧
  (∀ (s : State) (n u : Nat), n < 16 → s.timerDue n = true → timerEngine (s.timer n).owner = some u →
    (∀ m, m < n → s.timerDue m = false) → s.bld.state ≠ .armed ∨ s.now < s.bld.armedT →
    ∃ t, exec (.hallTimerFire n) s = .next t ∧ (t.timer n).fired = true ∧
      (t.engRegs u).timerEvents = (s.engRegs u).timerEvents ||| BitVec.ofNat 16 (2 ^ n) ∧
      t = { s with ht := { s.ht with timers := t.ht.timers }, eng := t.eng }) ∧
  (∀ (s : State) (n : Nat), n < 16 → (s.timer n).arm = false ∨ s.now < (s.timer n).cmp ∨ (s.timer n).owner = 0 →
    exec (.hallTimerFire n) s = .next s) ∧
  (∀ (s : State) (r n : Nat) (v : BitVec 64), n < 16 → r ≠ 0 → (s.timer n).owner = r →
    ∃ t, exec (.htTmrCmpWrite r n .whole v) s = .next t ∧ t.timer n = { s.timer n with cmp := v.toNat, lateAt := s.now + 1 } ∧
      (∀ m, m ≠ n → t.timer m = s.timer m) ∧ t = { s with ht := { s.ht with timers := t.ht.timers } }) ∧
  (∀ (s : State) (r n : Nat) (v : BitVec 64), n < 16 → r ≠ 0 → (s.timer n).owner = r → v.getLsbD 1 = true → 5 ≤ field v.toNat 47 16 →
    ∃ t, exec (.htTmrCtlWrite r n .whole v) s = .next t ∧ (t.timer n).arm = v.getLsbD 0 ∧ (t.timer n).periodic = true ∧
      (t.timer n).period = field v.toNat 47 16 ∧ (t.timer n).owner = r ∧ (t.timer n).cmp = (s.timer n).cmp ∧
      (t.timer n).fired = ((s.timer n).fired && !v.getLsbD 2) ∧ (t.timer n).late = ((s.timer n).late && !v.getLsbD 3) ∧
      t = { s with ht := { s.ht with timers := t.ht.timers } }) ∧
  (∀ (s : State) (r n : Nat) (v : BitVec 64), n < 16 → r ≠ 0 → (s.timer n).owner = r → v.getLsbD 1 = true → field v.toNat 47 16 < 5 →
    exec (.htTmrCtlWrite r n .whole v) s = .next (s.writeIgnored (tmrCtlOff n))) ∧
  (∀ (s : State) (r n : Nat) (h : Half) (v : BitVec 64), n < 16 → h ≠ .other → r = 0 ∨ (s.timer n).owner ≠ r →
    exec (.htTmrCmpWrite r n h v) s = .next (s.writeIgnored (tmrCmpOff n)) ∧
    exec (.htTmrCtlWrite r n h v) s = .next (s.writeIgnored (tmrCtlOff n)))

/-- R105, R111, R456: CLAIM (which comes before a MAINT_ENTER of its engine cycle), RELEASE and CANCEL in the states of Table 4-4; a command
in any other state changes BLD_RESULT alone, which reads BLEND_CONFLICT, resource STAGE, and offers one log entry. R104, R107: a write of
an ST field changes its staged value and sets DIRTY, and no value in force; while the stage is ARMED it is ignored, with one entry of
event 0x0026; an access of another size or alignment completes as Unsupported Request (R430). -/
def Obligations.StageCommandsAndFields : Prop :=
  (∀ (s : State) (r : Nat), s.bldOpen = true → s.maintNow = false → s.bld.state = .empty →
    exec (.blendClaim r) s = .next { s with bld := { s.bld with state := .claimed, claimant := r } }) ∧
  (∀ (s : State) (r : Nat), s.bldOpen = true → s.maintNow = true → s.bld.state = .empty →
    ∃ t, exec (.blendClaim r) s = .next t ∧ t.bld = { s.bld with state := .claimed, claimant := r } ∧ t.wdn.mode = 1 ∧
      t.wdn.wmbStatus = 0x22 ∧ t = { s with bld := t.bld, wdn := t.wdn }) ∧
  (∀ (s : State) (r : Nat), s.bldOpen = true → s.bld.state ≠ .empty →
    ∃ t, exec (.blendClaim r) s = .next t ∧ t.bld = { s.bld with result := { status := 0x61, resource := 0x11, count := 1 } } ∧
      t.log.offered.length = s.log.offered.length + 1 ∧ (∀ e ∈ t.log.offered.getLast?, e.event = 0x0024 ∧ e.cls = 3 ∧ e.aux = 0x11) ∧
      t = { s with bld := t.bld, log := { s.log with offered := t.log.offered } }) ∧
  (∀ (s : State) (r : Nat), s.bldOpen = true → s.bld.state = .claimed ∨ s.bld.state = .checked → s.bld.claimant = r →
    ∃ t, exec (.blendRelease r) s = .next t ∧ t.bld.state = .empty ∧ t.bld.claimant = 0 ∧ t.bld.stagedId = 0 ∧
      t.bld.stagedSt = s.bld.cur.st ∧ t.bld.cur = s.bld.cur ∧ t = { s with bld := t.bld }) ∧
  (∀ (s : State) (r : Nat), s.bldOpen = true → s.bld.claimant ≠ r →
    ∃ t, exec (.blendRelease r) s = .next t ∧ t.bld = { s.bld with result := { status := 0x61, resource := 0x11, count := 1 } }) ∧
  (∀ (s : State) (r : Nat), s.bldOpen = true → s.bld.state = .armed → s.bld.claimant = r → s.now + 2560 < s.bld.armedT →
    s.col.start = none → exec (.blendCancel r) s = .next { s with bld := { s.bld with state := .checked } }) ∧
  (∀ (s : State) (r : Nat), s.bldOpen = true → s.bld.armedT ≤ s.now + 2560 →
    ∃ t, exec (.blendCancel r) s = .next t ∧ t.bld.state = s.bld.state ∧ t.bld.result.status = 0x61) ∧
  (∀ (s : State) (off m : Nat) (h : Half) (v : BitVec 64), off % 8 = 0 → h ≠ .other → stMask off = some m → s.bld.state ≠ .armed →
    ∃ t, exec (.stFieldWrite off h v) s = .next t ∧ t.stagedSt off = mergeWrite h m (s.stagedSt off) v.toNat % 2 ^ 64 ∧
      t.bld.dirty = true ∧ (∀ o, o ≠ off → t.stagedSt o = s.stagedSt o) ∧ t.bld.cur = s.bld.cur ∧ t = { s with bld := t.bld }) ∧
  (∀ (s : State) (off m : Nat) (h : Half) (v : BitVec 64), off % 8 = 0 → h ≠ .other → stMask off = some m → s.bld.state = .armed →
    ∃ e : LogEntry, exec (.stFieldWrite off h v) s = .next { s with log := { s.log with offered := s.log.offered ++ [e] } } ∧
      e.event = 0x0026 ∧ e.cls = 2 ∧ e.detail = BitVec.ofNat 64 off ∧ e.source = off / 0x1000) ∧
  (∀ (s : State) (off : Nat) (h : Half) (v : BitVec 64), off % 8 = 0 → h ≠ .other → stMask off = none → exec (.stFieldWrite off h v) s = .next s) ∧
  (∀ (s : State) (off : Nat) (h : Half) (v : BitVec 64), off % 8 ≠ 0 ∨ h = .other → s.linkUp = true →
    exec (.stFieldWrite off h v) s = .next { s with out := s.out ++ [.unsupported] })

/-- R104, R106, R109, R278: LOAD copies the source once and goes to CHECKING; a misaligned or outside source fails with ALIGN or BOUNDS and
leaves the stage CLAIMED; the end of the check goes to CHECKED, or back to CLAIMED with every staged value in force; within 100,000 ticks
of a flip a new hop table waits. -/
def Obligations.StageLoadAndCheck : Prop :=
  (∀ (s : State) (r : Nat), s.bldOpen = true → s.bld.state = .claimed ∨ s.bld.state = .checked → s.bld.claimant = r →
    s.bld.src % 256 = 0 → inMain s.bld.src s.bld.len = true → s.hasBad s.bld.src s.bld.len = false →
    ∃ t, exec (.blendLoad r) s = .next t ∧ t.bld.state = .checking ∧ t.bld.dirty = false ∧
      t.bld.image = s.mem.bytes s.bld.src s.bld.len ∧ t.bld.verdict = imageCheck t.bld.image s.bld.len s.devId ∧
      t.bld.cur = s.bld.cur ∧ t.bld.claimant = s.bld.claimant ∧
      t = { s with bld := t.bld }) ∧
  (∀ (s : State) (r : Nat), s.bldOpen = true → s.bld.state = .claimed ∨ s.bld.state = .checked → s.bld.claimant = r →
    s.bld.src % 256 ≠ 0 ∨ inMain s.bld.src s.bld.len = false →
    ∃ t, exec (.blendLoad r) s = .next t ∧ t.bld.state = .claimed ∧
      t.bld.result.status = (if s.bld.src % 256 ≠ 0 then 0x23 else 0x21) ∧ t.bld.stagedSt = s.bld.cur.st ∧ t.bld.cur = s.bld.cur) ∧
  (∀ (s : State) (ok : Bool) (f : BldResult), s.bld.state = .checking → s.bld.deferUntil = 0 → s.loadFail ok = some f →
    s.col.start = none →
    ∃ t, exec (.blendCheckDone ok) s = .next t ∧ t.bld.state = .claimed ∧ t.bld.result = f ∧ t.bld.stagedSt = s.bld.cur.st ∧
      t.bld.stagedId = 0 ∧ t.bld.cur = s.bld.cur) ∧
  (∀ (s : State) (ok : Bool), s.bld.state = .checking → s.bld.deferUntil = 0 → s.loadFail ok = none → s.bld.flipped = false →
    s.col.start = none →
    ∃ t, exec (.blendCheckDone ok) s = .next t ∧ t.bld.state = .checked ∧ t.bld.result = {} ∧ t.bld.staged = s.bld.staged ∧
      t.bld.cur = s.bld.cur ∧ t = { s with bld := t.bld }) ∧
  (∀ (s : State), s.bld.state = .checking → s.bld.deferUntil ≠ 0 → s.bld.deferUntil ≤ s.now → s.col.start = none →
    ∃ t, exec .hopTableLoadDeferEnd s = .next t ∧ t.bld.state = .checked ∧ t.bld.deferUntil = 0 ∧
      (s.hopChanges = true → (if s.bld.epoch then t.bld.hop0 else t.bld.hop1) = s.bld.staged.hops) ∧ t = { s with bld := t.bld }) ∧
  (∀ s : State, s.now < s.bld.deferUntil → exec .hopTableLoadDeferEnd s = .next s)

/-- R112, R113, R60: APPLY arms the stage for the frame boundary at or after BLD_APPLY_TIME, the first blend's too; it is refused, with the
stage CHECKED, before step 10 or without locked time or less than four frames ahead (HTM), while step 10 waits for Tin (STAGE), within
1,000,000 ticks of a flip with another hop table (HOPTAB), and with DIRTY set under a policy that requires signatures. Where two refusals
apply, the order in which they are found is the model's choice (notes/assumptions/21.md). R107, R112, R114: at T the staged blend becomes
the blend in force, BLD_CURRENT_ID its ID, and the stage EMPTY; the first blend completes bring-up; a check that fails at T, the hold of
the hop table among them, leaves the blend in force and the stage CHECKED; before T nothing happens. R330: at the rollback instant the
prior blend is in force again, the stage holds the start's blend CHECKED, COL_EVT.ROLLBACK is set and the rollback is counted. -/
def Obligations.ApplyAndRollback : Prop :=
  (∀ (s : State) (r : Nat), s.bldOpen = true → s.bld.state = .checked → r = s.bld.claimant → s.bld.dirty = false → 10 ≤ s.boot.step →
    s.ht.state = .locked ∨ s.ht.state = .holdover ∨ s.ht.state = .root →
    s.now + 10240 ≤ roundUp s.bld.applyTime 2560 → (s.bld.applied = true ∨ 2 ≤ s.tin.state) →
    (s.bld.flipped = false ∨ s.hopChanges = false ∨ s.bld.flipAt + 1000000 ≤ roundUp s.bld.applyTime 2560) → s.ktl.therm ≠ 2 →
    exec (.blendApply r) s =
      .next { s with bld := { s.bld with state := .armed, armedT := roundUp s.bld.applyTime 2560, result := {} } }) ∧
  (∀ (s : State) (r : Nat), s.bldOpen = true → s.bld.state = .checked → r = s.bld.claimant → s.bld.dirty = false →
    s.boot.step < 10 ∨ (s.ht.state ≠ .locked ∧ s.ht.state ≠ .holdover ∧ s.ht.state ≠ .root) ∨ roundUp s.bld.applyTime 2560 < s.now + 10240 →
    ∃ t, exec (.blendApply r) s = .next t ∧ t.bld = { s.bld with result := { status := 0x61, resource := 0x03, count := 1 } }) ∧
  (∀ (s : State) (r : Nat), s.bldOpen = true → s.bld.state = .checked → r = s.bld.claimant → s.bld.dirty = false → 10 ≤ s.boot.step →
    s.ht.state = .locked ∨ s.ht.state = .holdover ∨ s.ht.state = .root →
    s.now + 10240 ≤ roundUp s.bld.applyTime 2560 → s.bld.applied = false → s.tin.state ≤ 1 →
    ∃ t, exec (.blendApply r) s = .next t ∧ t.bld = { s.bld with result := { status := 0x61, resource := 0x11, count := 1 } }) ∧
  (∀ (s : State) (r : Nat), s.bldOpen = true → s.bld.state = .checked → r = s.bld.claimant → s.bld.dirty = false → 10 ≤ s.boot.step →
    s.ht.state = .locked ∨ s.ht.state = .holdover ∨ s.ht.state = .root →
    s.now + 10240 ≤ roundUp s.bld.applyTime 2560 → s.bld.applied = true → s.bld.flipped = true → s.hopChanges = true →
    roundUp s.bld.applyTime 2560 < s.bld.flipAt + 1000000 →
    ∃ t, exec (.blendApply r) s = .next t ∧ t.bld.state = .checked ∧ t.bld.result.status = 0x61 ∧ t.bld.result.resource = 0x0B ∧
      t.bld.cur = s.bld.cur) ∧
  (∀ (s : State) (r : Nat), s.bldOpen = true → s.bld.state = .checked → r = s.bld.claimant → s.bld.dirty = true →
    s.wdn.policy.getLsbD 0 = true →
    ∃ t, exec (.blendApply r) s = .next t ∧ t.bld.state = .checked ∧ t.bld.result.status = 0x62) ∧
  (∀ (s : State) (r : Nat), s.bldOpen = false → exec (.blendApply r) s = .next s) ∧
  (∀ n : Nat, roundUp n 2560 % 2560 = 0 ∧ n ≤ roundUp n 2560 ∧ roundUp n 2560 < n + 2560) ∧
  (∀ s : State, s.bld.state = .armed → s.bld.armedT ≤ s.now → s.failAtT = none →
    ∃ t, exec .blendApplyAtT s = .next t ∧ t.bld.cur = s.candidate ∧ t.bld.currentId = s.bld.stagedId ∧ t.bld.state = .empty ∧
      t.bld.claimant = 0 ∧ t.bld.stagedId = 0 ∧ t.bld.appliedAt = s.bld.armedT ∧ t.bld.modified = s.bld.dirty ∧ t.bld.applied = true ∧
      (s.bld.applied = false → t.boot.step = 15)) ∧
  (∀ s : State, s.bld.state = .armed → s.hopChanges = true → s.bld.flipped = true → s.bld.armedT < s.bld.flipAt + 1000000 →
    s.failAtT ≠ none) ∧
  (∀ (s : State) (f : BldResult), s.bld.state = .armed → s.bld.armedT ≤ s.now → s.failAtT = some f → s.col.start = none →
    ∃ t, exec .blendApplyAtT s = .next t ∧ t.bld = { s.bld with state := .checked, result := f } ∧
      t = { s with bld := t.bld, log := { s.log with offered := t.log.offered } }) ∧
  (∀ s : State, s.now < s.bld.armedT → exec .blendApplyAtT s = .next s) ∧
  (∀ (s : State) (at' : Nat) (b : Blend), s.col.rollbackAt = some at' → s.col.prior = some b → at' ≤ s.now →
    ∃ t, exec .startRollback s = .next t ∧ t.bld.cur = b ∧ t.bld.stagedId = s.col.rollbackStage.stagedId ∧
      t.bld.state = .checked ∧ t.col.cntRollback = s.col.cntRollback + 1 ∧ t.col.startState = 5 ∧ t.col.rollbackAt = none ∧
      t.col.prior = none ∧ t.col.provJob = none ∧ (t.engRegs 8).evt.getLsbD 3 = true) ∧
  (∀ s : State, s.col.rollbackAt = none → exec .startRollback s = .next s)

/-- R16, R430: a register write reaches the register of its offset under its access kind: RW fields take the written bits, W1C fields clear
where 1 is written, RO registers keep; a host's access that is not aligned, or is neither a whole register nor an aligned half, completes
as Unsupported Request without effect (no other requester can make one, and the model then changes nothing); nothing reaches a device that
is off, nor a host's write while the link is down; of a host's and a sideband's write of FAB_ID in one engine cycle the sideband's stands
(R442). -/
def Obligations.RegisterWrites : Prop :=
  (∀ (s : State) (r : Nat) (v : BitVec 64), s.pwr.pwrOk = true → r ≠ 1 ∨ s.linkUp = true → s.bld.applied = false →
    s.host.sbWrite = none ∨ s.host.sbWrite.any (fun x => x.1 == s.engCycle) = false →
    exec (.registerWrite r 0x2F0000 .low v) s = .next { s with fab := { s.fab with fabId := BitVec.ofNat 16 v.toNat } }) ∧
  (∀ (s : State) (v w : BitVec 64), s.pwr.pwrOk = true → s.linkUp = true → s.bld.applied = false →
    s.host.sbWrite = some (s.engCycle, 0x2F0000, w) →
    exec (.registerWrite 1 0x2F0000 .low v) s = .next { s with fab := { s.fab with fabId := BitVec.ofNat 16 w.toNat } }) ∧
  (∀ (s : State) (r : Nat) (v : BitVec 64), s.pwr.pwrOk = true → r ≠ 1 ∨ s.linkUp = true → s.bld.applied = true →
    exec (.registerWrite r 0x2F0000 .low v) s = .next s) ∧
  (∀ (s : State) (r : Nat) (v : BitVec 64), s.pwr.pwrOk = true → r ≠ 1 ∨ s.linkUp = true →
    ∃ t, exec (.registerWrite r 0x030038 .low v) s = .next t ∧
      (∀ b, b < 16 → t.ktl.evt.getLsbD b = (s.ktl.evt.getLsbD b && !(decide (b < 10) && v.getLsbD b))) ∧
      t = { s with ktl := { s.ktl with evt := t.ktl.evt } }) ∧
  (∀ (s : State) (r : Nat) (v : BitVec 64), s.pwr.pwrOk = true → r ≠ 1 ∨ s.linkUp = true →
    exec (.registerWrite r 0x010010 .whole v) s = .next { s with bld := { s.bld with src := v.toNat % 2 ^ 48 } }) ∧
  (∀ (s : State) (r : Nat) (h : Half) (v : BitVec 64), exec (.registerWrite r 0x010048 h v) s = .next s) ∧
  (∀ (s : State) (off : Nat) (h : Half) (v : BitVec 64), s.pwr.pwrOk = true → s.linkUp = true → off % 8 ≠ 0 ∨ h = .other →
    exec (.registerWrite 1 off h v) s = .next { s with out := s.out ++ [.unsupported] }) ∧
  (∀ (s : State) (r off : Nat) (h : Half) (v : BitVec 64), r ≠ 1 → off % 8 ≠ 0 ∨ h = .other → exec (.registerWrite r off h v) s = .next s) ∧
  (∀ (s : State) (r off : Nat) (h : Half) (v : BitVec 64), s.pwr.pwrOk = false ∨ (r = 1 ∧ s.linkUp = false) →
    exec (.registerWrite r off h v) s = .next s) ∧
  (∀ (s : State) (r off : Nat) (h : Half) (v : BitVec 64), s.pwr.pwrOk = true → r ≠ 1 ∨ s.linkUp = true → off % 8 = 0 → h ≠ .other →
    (stMask off).isSome = true → exec (.registerWrite r off h v) s = exec (.stFieldWrite off h v) s)

/-- R435, R436, R438: a doorbell moves TAIL within the ring; a CQ_HEAD write moves CQ_HEAD; a vector is raised COAL_US after the first
uncounted post. The model's choices: a ring number of 64 or more is the fault noSuchResource (notes/assumptions/5.md), and every index of
the ring is a tail moved forward (notes/assumptions/36.md). R438: a masked vector that is raised sets its pending bit and sends nothing;
host software writes the MSI-X table in BAR2, and a pending vector that it unmasks sends its message (the table's layout and the masks at
reset are PCIe's: notes/assumptions/45.md). R410, R413, R416, R436: a fetched descriptor that passes its checks joins the queue of its
engine and job, behind those of earlier engine cycles and of lower rings; one that fails ends with the check's status, and no register of
an engine moves, but for a command refused for overlapping itself, which its engine's LAST_FAIL shows; before the first blend and in a
maintenance stop it ends with KILLED and no other effect (R69, R456); a failed descriptor read stops the ring. -/
def Obligations.RingsAndDescriptors : Prop :=
  (∀ (s : State) (r tail : Nat), r < 64 → s.linkUp = true → (s.ring r).en = true → tail < (s.ring r).size →
    ∃ t, exec (.doorbellWrite r tail) s = .next t ∧ t.ring r = { s.ring r with tail := tail } ∧
      (∀ q, q ≠ r → t.ring q = s.ring q) ∧ t = { s with rings := t.rings }) ∧
  (∀ (s : State) (r tail : Nat), r < 64 → s.linkUp = true → (s.ring r).en = false ∨ (s.ring r).size ≤ tail →
    ∃ t, exec (.doorbellWrite r tail) s = .next t ∧ (∀ e ∈ t.log.offered.getLast?, e.event = 0x0026) ∧
      t.log.offered.length = s.log.offered.length + 1 ∧ t = { s with log := { s.log with offered := t.log.offered } }) ∧
  (∀ (s : State) (r tail : Nat), 64 ≤ r → exec (.doorbellWrite r tail) s = .fault (.noSuchResource "ring" r)) ∧
  (∀ (s : State) (r : Nat) (v : BitVec 64), r < 64 → s.linkUp = true →
    exec (.cqHeadWrite r .other v) s = .next { s with out := s.out ++ [.unsupported] }) ∧
  (∀ (s : State) (r : Nat) (v : BitVec 64), r < 64 →
    ∃ t, exec (.cqHeadWrite r .low v) s = .next t ∧ t.ring r = { s.ring r with cqHead := v.toNat % 65536 } ∧
      (∀ q, q ≠ r → t.ring q = s.ring q) ∧ t = { s with rings := t.rings }) ∧
  (∀ (s : State) (r : Nat) (x : MsixVector), r < 64 → s.linkUp = true → (s.ring r).coalUs ≠ 0 → (s.ring r).posts ≠ 0 →
    (s.ring r).firstPostAt + (s.ring r).coalUs * 1000 ≤ s.boot.sincePwrOk → s.vector (s.ring r).vec = x → x.masked = false →
    ∃ t, exec (.interruptCoalesceTimeout r) s = .next t ∧ t.ring r = { s.ring r with posts := 0 } ∧
      t.out = s.out ++ [.msix (s.ring r).vec x.addr x.data] ∧ t = { s with rings := t.rings, out := t.out }) ∧
  (∀ (s : State) (r : Nat), r < 64 → s.boot.sincePwrOk < (s.ring r).firstPostAt + (s.ring r).coalUs * 1000 →
    exec (.interruptCoalesceTimeout r) s = .next s) ∧
  (∀ (s : State) (r : Nat), r < 64 → s.linkUp = true → (s.ring r).coalUs ≠ 0 → (s.ring r).posts ≠ 0 →
    (s.ring r).firstPostAt + (s.ring r).coalUs * 1000 ≤ s.boot.sincePwrOk → (s.vector (s.ring r).vec).masked = true →
    ∃ t, exec (.interruptCoalesceTimeout r) s = .next t ∧ t.ring r = { s.ring r with posts := 0 } ∧
      t.vectorPending (s.ring r).vec = true ∧ (∀ v, v ≠ (s.ring r).vec → t.vectorPending v = s.vectorPending v) ∧
      t = { s with rings := t.rings, irq := { s.irq with pendingBits := t.irq.pendingBits } }) ∧
  (∀ (s : State) (v : Nat) (w : BitVec 64), v < 65 → s.pwr.pwrOk = true → s.linkUp = true → s.vectorPending v = false →
    ∃ t, exec (.registerWrite 1 (0x4040000 + 16 * v) .whole w) s = .next t ∧ t.vector v = { s.vector v with addr := w } ∧
      (∀ u, u ≠ v → t.vector u = s.vector u) ∧ t = { s with irq := { s.irq with vectors := t.irq.vectors } }) ∧
  (∀ (s : State) (v : Nat) (w : BitVec 64), v < 65 → s.pwr.pwrOk = true → s.linkUp = true → s.vectorPending v = true →
    w.getLsbD 32 = false →
    ∃ t, exec (.registerWrite 1 (0x4040008 + 16 * v) .whole w) s = .next t ∧
      t.vector v = { s.vector v with data := w.truncate 32, masked := false } ∧ t.vectorPending v = false ∧
      t.out = s.out ++ [.msix v (s.vector v).addr (w.truncate 32)] ∧ t = { s with irq := t.irq, out := t.out }) ∧
  (∀ (s : State) (r v : Nat) (h : Half) (w : BitVec 64), v < 130 → r ≠ 1 → exec (.registerWrite r (0x4040000 + 8 * v) h w) s = .next s) ∧
  (∀ (s : State) (r : Nat) (b : BitVec 512) (c : Cmd), r < 64 → s.linkUp = true → (s.ring r).canFetch = true → s.closed = false →
    parseCmd b r (s.ring r).head = c → c.job < 8 → s.fetchCheck c = none → (s.queue c.engine c.job).length < 64 →
    ((s.queue c.engine c.job).all fun q => q.before { c with cycle := some s.engCycle }) = true →
    ∃ t, exec (.descriptorFetch r (some b)) s = .next t ∧
      t.queue c.engine c.job = s.queue c.engine c.job ++ [{ c with cycle := some s.engCycle }] ∧
      (t.ring r).head = ((s.ring r).head + 1) % (s.ring r).size ∧ (t.ring r).unposted = (s.ring r).unposted + 1 ∧
      (∀ e j, j < 8 → (e, j) ≠ (c.engine, c.job) → t.queue e j = s.queue e j) ∧
      t.out = s.out ++ [.hostRead s.boot.hostCxl ((s.ring r).base.toNat + 64 * (s.ring r).head) 64] ∧
      t = { s with rings := t.rings, queues := t.queues, pass := t.pass, out := t.out }) ∧
  (∀ (s : State) (r : Nat) (b : BitVec 512) (c : Cmd), r < 64 → s.linkUp = true → (s.ring r).canFetch = true → s.closed = false →
    parseCmd b r (s.ring r).head = c → c.job < 8 → s.fetchCheck c = none → (s.queue c.engine c.job).length < 64 →
    ∃ t, exec (.descriptorFetch r (some b)) s = .next t ∧
      t.queue c.engine c.job = insertBy Cmd.before { c with cycle := some s.engCycle } (s.queue c.engine c.job)) ∧
  (∀ (s : State) (r : Nat) (b : BitVec 512) (c : Cmd) (st d : Nat), r < 64 → s.linkUp = true → (s.ring r).canFetch = true →
    s.closed = false → parseCmd b r (s.ring r).head = c → s.fetchCheck c = some (st, d) →
    ∃ t, exec (.descriptorFetch r (some b)) s = .next t ∧ (st ≠ 0x25 ∨ c.engine < 2 → t.eng = s.eng) ∧
      (st = 0x25 → 3 ≤ c.engine → c.engine < 11 → (t.engRegs c.engine).failStatus = 0x25 ∧ (t.engRegs c.engine).failDetail = d) ∧
      t.queues = s.queues ∧ t.live = s.live ∧
      t = ((s.readDescriptor (s.ring r)).modRing r fun x => { x with head := (x.head + 1) % x.size, unposted := x.unposted + 1 }).refuseFetched
        c st d (decide (c.job < 8) && s.hasJob c.job)) ∧
  (∀ (s : State) (r : Nat) (b : BitVec 512), r < 64 → s.linkUp = true → (s.ring r).canFetch = true → s.bld.applied = false ∨ s.wdn.mode = 2 →
    ∃ t, exec (.descriptorFetch r (some b)) s = .next t ∧ t.queues = s.queues ∧ t.jobs = s.jobs ∧ t.eng = s.eng ∧ t.log.offered = s.log.offered ∧
      t = ((s.readDescriptor (s.ring r)).modRing r fun x => { x with head := (x.head + 1) % x.size, unposted := x.unposted + 1 }).completeClosed
        (parseCmd b r (s.ring r).head)) ∧
  (∀ (s : State) (r : Nat), r < 64 → s.linkUp = true → (s.ring r).canFetch = true →
    ∃ t, exec (.descriptorFetch r none) s = .next t ∧ t.ring r = { s.ring r with fault := true, en := false } ∧
      t.out = s.out ++ [.hostRead s.boot.hostCxl ((s.ring r).base.toNat + 64 * (s.ring r).head) 64] ∧
      t = { s with rings := t.rings, out := t.out })

/-- R353, R356: a checked ALLOC waits in its pool's queue, behind the requests that came before it; a FREE frees every handle or none, and
CDY_CNT_CHECK counts a failed check. Duplicate handles of one FREE are freed twice by the model's reading (notes/assumptions/30.md). R352,
R353, R355, R399: the head of a pool's queue is served from the head of the free list, or from the water mark, with the header of an
allocated buffer, in a later engine cycle than it and the pool's last free; the request served then gets its handles, and an ALLOC
commits; its deadline ends a waiting request with DEADLINE. That serving and committing are two commands, the first in a later engine
cycle, and where a served header's NEXT points, is the model's reading (notes/assumptions/30.md). -/
def Obligations.CaddyBuffers : Prop :=
  (∀ (s u : State) (c : Cmd), s.begins 5 1 = some (u, c) → firstFail (u.allocChecks c) = none →
    (u.poolState (leAt (u.params c) 0 1)).waiters = [] →
    ∃ t, exec .alloc s = .next t ∧
      (t.poolState (leAt (u.params c) 0 1)).waiters =
        [{ requester := 0, at' := u.now, count := leAt (u.params c) 2 2, deadline := leAt (u.params c) 8 8, cmd := some c, cycle := u.engCycle }] ∧
      t.live.length = u.live.length + 1 ∧ t = { u with live := t.live, pools := t.pools }) ∧
  (∀ (s u : State) (c : Cmd) (st d : Nat), s.begins 5 1 = some (u, c) → firstFail (u.allocChecks c) = some (st, d) →
    ∃ t, exec .alloc s = .next t ∧ t.pools = s.pools ∧ (t.engRegs c.engine).lastStatus = st ∧
      OnlyCommands s t) ∧
  (∀ (s u : State) (c : Cmd), s.begins 5 2 = some (u, c) → firstFail (u.freeChecks c) = none →
    u.freeCheck c.job (u.freedHandles c) = none →
    exec .free s = .next (((u.freedHandles c).foldl (fun s h => s.freeHandle 0 c.job h) u).complete c 0 0)) ∧
  (∀ (s u : State) (c : Cmd) (st d : Nat), s.begins 5 2 = some (u, c) → firstFail (u.freeChecks c) = none →
    u.freeCheck c.job (u.freedHandles c) = some (st, d) → st = 0x24 ∨ st = 0x41 →
    ∃ t, exec .free s = .next t ∧ t.pools = s.pools ∧ t.cdyCheck = s.cdyCheck + (if st = 0x24 then 1 else 0) ∧
      (t.engRegs c.engine).failStatus = st ∧ (t.engRegs c.engine).failDetail = d ∧ (∀ a, c.spares a → t.mem.byte a = s.mem.byte a)) ∧
  (∀ (s : State) (p : Nat) (w : Waiter) (r : List Waiter), p < 64 → (s.poolState p).served = [] → (s.poolState p).waiters = w :: r →
    w.count = 1 → w.expired s.now = false → s.cycleOver p w = true → (s.poolState p).head = none →
    (s.poolState p).mark < (s.pool p).count → s.hasBad (s.bufAddr p (s.poolState p).mark) 16 = false →
    ∃ t, exec (.allocServe p) s = .next t ∧ (t.poolState p).waiters = r ∧ (t.poolState p).mark = (s.poolState p).mark + 1 ∧
      (t.poolState p).served = [(w, [(s.poolState p).mark])] ∧
      t.mem = s.mem.write (s.bufAddr p (s.poolState p).mark) (header 0xFFFFFFFF 0 p 0x41) ∧
      t = { s with mem := t.mem, pools := t.pools, log := { s.log with badLines := t.log.badLines } }) ∧
  (∀ (s : State) (p i : Nat) (w : Waiter) (r : List Waiter), p < 64 → (s.poolState p).served = [] → (s.poolState p).waiters = w :: r →
    w.count = 1 → w.expired s.now = false → s.cycleOver p w = true → (s.poolState p).head = some i → 1 ≤ (s.poolState p).free →
    s.hasBad (s.bufAddr p i) 16 = false →
    ∃ t, exec (.allocServe p) s = .next t ∧ (t.poolState p).waiters = r ∧ (t.poolState p).mark = (s.poolState p).mark ∧
      (t.poolState p).served = [(w, [i])] ∧
      (t.poolState p).head = (if s.mem.nat (s.bufAddr p i) 4 < (s.pool p).count then some (s.mem.nat (s.bufAddr p i) 4) else none) ∧
      t.mem = s.mem.write (s.bufAddr p i) (header (s.mem.nat (s.bufAddr p i) 4) (s.mem.nat (s.bufAddr p i + 4) 2) p 0x41)) ∧
  (∀ (s : State) (p : Nat) (w : Waiter) (bufs : List Nat) (r : List (Waiter × List Nat)), p < 64 →
    (s.poolState p).served = (w, bufs) :: r → w.cmd = none →
    ∃ t, exec (.allocServe p) s = .next t ∧ (t.poolState p).served = r ∧
      t.out = s.out ++ [.data ((s.handles p bufs).flatMap (leBytes 8))] ∧ t = { s with pools := t.pools, out := t.out }) ∧
  (∀ (s : State) (p : Nat) (w : Waiter) (bufs : List Nat) (r : List (Waiter × List Nat)) (c : Cmd), p < 64 →
    (s.poolState p).served = (w, bufs) :: r → w.cmd = some c → c.engine = 5 →
    ∃ t, exec (.allocServe p) s = .next t ∧ (t.poolState p).served = r ∧ (t.engRegs 5).lastStatus = 0 ∧
      t = ((s.modPool p fun y => { y with served := r }).store (localOf (s.slotDesc c 7).base)
        ((s.handles p bufs).flatMap (leBytes 8))).complete c 0 0 true p) ∧
  (∀ (s : State) (p : Nat) (w : Waiter) (r : List Waiter), p < 64 → (s.poolState p).served = [] → (s.poolState p).waiters = w :: r →
    s.poolFree p < w.count ∨ s.cycleOver p w = false → exec (.allocServe p) s = .next s) ∧
  (∀ (s : State) (p : Nat) (w : Waiter) (r : List Waiter) (c : Cmd), p < 64 → (s.poolState p).waiters = w :: r → w.cmd = some c →
    c.engine = 5 → w.deadline ≠ 0 → w.deadline < s.now →
    ∃ t, exec (.allocDeadline p) s = .next t ∧ (t.poolState p).waiters = r ∧ (t.engRegs 5).failStatus = 0x52 ∧
      (t.poolState p).mark = (s.poolState p).mark ∧ (∀ a, c.spares a → t.mem.byte a = s.mem.byte a)) ∧
  (∀ (s : State) (p : Nat), p < 64 → (∀ w ∈ (s.poolState p).waiters, w.deadline = 0) → exec (.allocDeadline p) s = .next s) ∧
  (∀ (s : State) (q p n d : Nat), p < 64 → (s.pool p).en = true → 1 ≤ n → n ≤ 256 → n ≤ (s.pool p).count →
    (s.poolState p).waiters = [] →
    ∃ t, exec (.caddyEngineRequest q p n d []) s = .next t ∧
      (t.poolState p).waiters = [{ requester := q, at' := s.now, count := n, deadline := d, cmd := none, cycle := s.engCycle }] ∧
      t = { s with pools := t.pools })

/-- R324, R326: a checked START waits for its stage and its messages; a START whose fields are out of order ends with STRUCTURE; an ACK of a
child port is taken once, and the root commits when the counts reach TOTAL: its stage is ARMED under code 0x005. That an ACK counts once,
and only from a child port, is the model's reading (notes/assumptions/22.md). R326, R327: the first COMMIT arms the stage for its T and
remembers its tree; an ABORT, the root's expired ACK deadline and a COMMIT that has not come in time end START with REMOTE_TIMEOUT and
apply nothing. A deadline is met by what has come by the end of its tick, by the model's reading (notes/assumptions/22.md). -/
def Obligations.BroadcastStart : Prop :=
  (∀ (s u : State) (c : Cmd), s.col.start = none → s.begins 8 0x10 = some (u, c) → firstFail (u.startChecks c) = none →
    u.stageReady (parseStart c (u.params c)) = false → u.col.early = [] →
    ∃ t, exec .start s = .next t ∧ t.col.start = some (parseStart c (u.params c)) ∧ t.col.startState = 1 ∧
      t.col.startSeq = (parseStart c (u.params c)).seq ∧ t.live.length = u.live.length + 1 ∧ t = { u with live := t.live, col := t.col }) ∧
  (∀ (s u : State) (c : Cmd) (st d : Nat), s.col.start = none → s.begins 8 0x10 = some (u, c) →
    firstFail (u.startChecks c) = some (st, d) →
    ∃ t, exec .start s = .next t ∧ t.col = s.col ∧ t.bld = s.bld ∧ (t.engRegs c.engine).lastStatus = st ∧ OnlyCommands s t) ∧
  (∀ (s : State) (p i : Nat) (r : StartRun) (m : StartMsg), p < 12 → s.col.start = some r → r.owns m = true → r.committed = false →
    (bitsSet 12 r.childA.toNat).find? (fun i => s.indexPort i == some p && r.acks.all fun a => a.1 != i) = some i →
    s.stageReady r = false →
    ∃ t, exec (.startAckReceive p m) s = .next t ∧ t.col.start = some { r with acks := r.acks ++ [(i, m.count)] } ∧
      t = { s with col := t.col }) ∧
  (∀ (s : State) (p i : Nat) (r : StartRun) (m : StartMsg), p < 12 → s.col.start = some r → r.owns m = true → r.committed = false →
    (bitsSet 12 r.childA.toNat).find? (fun i => s.indexPort i == some p && r.acks.all fun a => a.1 != i) = some i →
    s.stageReady r = true → r.root = s.fab.fabId → r.count + m.count = r.total →
    s.bld.dirty = false → 10 ≤ s.boot.step → s.ht.state = .locked ∨ s.ht.state = .root → s.bld.applied = true → s.bld.flipped = false →
    s.ktl.therm ≠ 2 →
    ∃ t, exec (.startAckReceive p m) s = .next t ∧ t.bld.state = .armed ∧ t.bld.armedT = roundUp (s.startInstant r) 2560 ∧
      t.col.startState = 2 ∧ t.col.startT = s.startInstant r ∧ t.mem = s.mem) ∧
  (∀ (s : State) (p : Nat) (m : StartMsg), p < 12 → s.col.start = none → s.col.ended = some m.seq →
    exec (.startAckReceive p m) s = .next s ∧ exec (.startCommitReceive p m) s = .next s ∧ exec (.startAbortReceive p m) s = .next s) ∧
  (∀ (s : State) (p : Nat) (r : StartRun) (m : StartMsg), p < 12 → s.col.start = some r → r.owns m = true → r.committed = false →
    s.bld.state = .checked → s.bld.dirty = false → 10 ≤ s.boot.step → s.ht.state = .locked → s.bld.applied = true →
    s.bld.flipped = false → s.ktl.therm ≠ 2 → s.now + 10240 ≤ m.t →
    ∃ t, exec (.startCommitReceive p m) s = .next t ∧ t.bld.state = .armed ∧ t.bld.armedT = roundUp m.t 2560 ∧
      t.col.start = some { r with committed := true } ∧ t.col.viaB = m.treeB ∧ t.col.startT = m.t ∧ t.bld.cur = s.bld.cur) ∧
  (∀ (s : State) (p : Nat) (r : StartRun) (m : StartMsg), p < 12 → s.col.start = some r → r.owns m = true → r.committed = false →
    ∃ t, exec (.startAbortReceive p m) s = .next t ∧ t.col.start = none ∧ t.col.ended = some r.seq ∧ t.col.startState = 0 ∧
      (t.engRegs r.cmd.engine).lastStatus = 0x31 ∧ (t.engRegs 8).evt.getLsbD 2 = true ∧ t.bld = s.bld) ∧
  (∀ (s : State) (r : StartRun), s.col.start = some r → r.root = s.fab.fabId → r.committed = false → r.ackDeadline < s.now →
    ∃ t, exec .ackDeadlineExpiry s = .next t ∧ t.col.start = none ∧ t.col.startState = 0 ∧
      (t.engRegs r.cmd.engine).lastStatus = 0x31 ∧ t.bld = s.bld) ∧
  (∀ s : State, s.col.start = none → exec .ackDeadlineExpiry s = .next s ∧ exec .startCommitTimeout s = .next s) ∧
  (∀ (s : State) (r : StartRun), s.col.start = some r → r.root ≠ s.fab.fabId → r.committed = false →
    r.ackDeadline + r.depth * 2720 < s.now →
    ∃ t, exec .startCommitTimeout s = .next t ∧ t.col.start = none ∧ t.col.ended = some r.seq ∧
      (t.engRegs r.cmd.engine).lastStatus = 0x31 ∧ t.bld = s.bld)

/-- R313, R320 to R322: a collective that passes its checks runs from its effective start, and the job's previous END becomes the END of its
final stage; an uncorrectable error or a window that does not hold it marks it, and it goes on; past its effective start, less the time
its first chunk takes, it sends nothing and ends with REMOTE_TIMEOUT. The slots' roles, which failures only mark the command, and the
cycles that make it late are the model's reading (notes/assumptions/23.md). -/
def Obligations.CollectivesStart : Prop :=
  (∀ (s u : State) (c : Cmd) (x : ColX), s.col.run = none → s.begins 8 1 = some (u, c) →
    firstFail (u.colChecks c true) = none → u.colPlan c = some x → ([1, 2, 3, 4].all fun part => (timetable (u.colPhases x part)).isSome) = true →
    u.now + u.colWork x ≤ x.r.effStart →
    ∃ t, exec .reduceScatter s = .next t ∧
      t.col = { s.col with
        run := some { x.r with deadline := u.colFin x + x.p.rxSlack, status := ((u.colFirst x).getD (0, 0)).1, detail := ((u.colFirst x).getD (0, 0)).2 }
        lastEnd := tset 0 s.col.lastEnd c.job (u.colFin x) } ∧
      t.live.length = u.live.length + 1 ∧ t = { u with live := t.live, col := t.col }) ∧
  (∀ (s u : State) (c : Cmd) (x : ColX), s.col.run = none → s.begins 8 2 = some (u, c) →
    firstFail (u.colChecks c false) = none → u.colPlan c = some x → ([1, 2, 3, 4].all fun part => (timetable (u.colPhases x part)).isSome) = true →
    u.now + u.colWork x ≤ x.r.effStart →
    ∃ t, exec .allGather s = .next t ∧
      t.col = { s.col with
        run := some { x.r with deadline := u.colFin x + x.p.rxSlack, status := ((u.colFirst x).getD (0, 0)).1, detail := ((u.colFirst x).getD (0, 0)).2 }
        lastEnd := tset 0 s.col.lastEnd c.job (u.colFin x) } ∧
      t.live.length = u.live.length + 1 ∧ t = { u with live := t.live, col := t.col }) ∧
  (∀ (s u : State) (c : Cmd) (x : ColX), s.col.run = none → s.begins 8 2 = some (u, c) →
    firstFail (u.colChecks c false) = none → u.colPlan c = some x → ([1, 2, 3, 4].all fun part => (timetable (u.colPhases x part)).isSome) = true →
    x.r.effStart < u.now + u.colWork x →
    ∃ t, exec .allGather s = .next t ∧ t.col.run = none ∧ (t.engRegs c.engine).lastStatus = 0x31 ∧
      (t.engRegs 8).evt.getLsbD 0 = true ∧ tget 0 t.col.lastEnd c.job = u.colFin x ∧ t.spt.outs.length ≤ s.spt.outs.length) ∧
  (∀ (s u : State) (c : Cmd) (st d : Nat), s.col.run = none → s.begins 8 1 = some (u, c) →
    firstFail (u.colChecks c true) = some (st, d) → (u.slot c.job).provisional = false →
    ∃ t, exec .reduceScatter s = .next t ∧ t.col = s.col ∧ (t.engRegs c.engine).lastStatus = st ∧ OnlyCommands s t ∧
      (∀ a, u.leaves c a → t.mem.byte a = s.mem.byte a)) ∧
  (∀ (s : State) (c : Cmd), (s.queue 8 0).head? = some c → c.opcode = 1 ∨ c.opcode = 2 → s.counting = true →
    s.colStart (colParams (s.params c)) 0 < s.now →
    ∃ t, exec .collectiveLate s = .next t ∧ (c.engine = 8 → c.job = 0 → t.queue 8 0 = (s.queue 8 0).tail) ∧
      (t.engRegs c.engine).lastStatus = 0x31 ∧ t.col.run = s.col.run) ∧
  (∀ s : State, (∀ j, j < 8 → s.queue 8 j = []) → exec .collectiveLate s = .next s)

/-- R316 to R320: a part begins in its first owned slot, or as soon after it as it can, with one outgoing stream per timetabled phase whose
start is to come and one stream expected per phase; a count header that agrees raises Smax; a chunk that agrees is taken. When a part
whose slot has passed begins, and that a stream whose start has passed is not sent, is the model's choice (notes/assumptions/23.md). R313,
R315, R318, R321, R322, R329, R418: a collective whose streams are complete writes its output and ends OK; a stream still incomplete after
the deadline, or a part not begun, or a failure at the END, ends it with that status, its output left undefined (R418). That a part not
begun gives REMOTE_TIMEOUT with phase 1, and that a landing window is undefined afterwards, is the model's choice
(notes/assumptions/23.md). -/
def Obligations.CollectivePartsAndEnds : Prop :=
  (∀ (s : State) (x : ColX) (s0 : Nat) (places : List Placed) (used : Nat), s.colx.bind ColX.upNext = some x → x.r.part ≠ 3 →
    firstOwned x.om x.due = s0 → s0 ≤ s.now / 160 → timetable (s.colPhases x x.r.part) = some (places, used) →
    (places.all (x.inTime s0 s.now)) = true →
    ∃ t, exec .collectivePartStart s = .next t ∧ t.spt.outs = s.spt.outs ++ places.map (s.colStream x s0) ∧
      t.col.run = (s.col.run.map fun r => { r with
        part := x.r.part, partBegun := true, partBase := s0, partEnd := partEnd x.om s0 used x.plan.hmax
        expect := r.expect ++ x.expected places s0 (partEnd x.om s0 used x.plan.hmax) }) ∧
      t = { s with spt := t.spt, col := t.col, live := t.live }) ∧
  (∀ (s : State) (x : ColX) (s0 : Nat) (places : List Placed) (used : Nat), s.colx.bind ColX.upNext = some x → x.r.part = 3 →
    firstOwned x.om x.due = s0 → s0 ≤ s.now / 160 → timetable (s.colPhases x x.r.part) = some (places, used) →
    (places.all (x.inTime s0 s.now)) = true →
    ∃ t, exec .collectivePartStart s = .next t ∧ t.spt.outs.length = s.spt.outs.length + places.length ∧
      t.col.run.map (·.partBegun) = some true ∧ t.col.run.map (·.part) = some 3 ∧
      (∀ w ∈ s.landingWindow x.r.cmd.job x.p.lwin, w.base < 2 ^ 48 → ∀ a, a < w.base ∨ w.base + s.windowFlits x * 240 ≤ a →
        t.mem.byte a = s.mem.byte a)) ∧
  (∀ (s : State) (x : ColX) (places : List Placed) (used : Nat) (pl : Placed), s.colx.bind ColX.upNext = some x → x.r.part ≠ 3 → x.r.status = 0 →
    firstOwned x.om x.due ≤ s.now / 160 → timetable (s.colPhases x x.r.part) = some (places, used) →
    (places.find? fun q => !x.inTime (firstOwned x.om x.due) s.now q) = some pl →
    ∃ t, exec .collectivePartStart s = .next t ∧ t.col.run.map (·.status) = some 0x31 ∧
      t.col.run.map (·.detail) = some (pl.phase * 65536 + colStage x.r.part) ∧ t.col.run.map (·.partBegun) = some true ∧ t.mem = s.mem) ∧
  (∀ (s : State) (x : ColX), s.colx.bind ColX.upNext = some x → s.now / 160 < firstOwned x.om x.due →
    exec .collectivePartStart s = .next s) ∧
  (∀ (s : State) (x : ColX) (src mem' : Nat) (y : SpoutExpect) (es : List SpoutExpect) (hd : RxFlit) (rest : List RxFlit), s.colx = some x →
    x.r.expect = y :: es → y.src = src → y.part = 1 → s.now ≤ y.deadline → x.plan.member src = some mem' →
    s.streamFrom x.r.cmd.job src y.base y.upTo y.pos x.om = hd :: rest →
    headerOk hd.payload x.p.seq x.plan.tag.toNat src s.devId 6 1 y.phase = true → leAt hd.payload 28 4 = x.r.sizeCrc.toNat →
    es.filter (· != y) ≠ [] →
    ∃ t, exec (.chunkReceive src) s = .next t ∧ t.col.run.map (·.smax) = some (max x.r.smax (leAt hd.payload 24 4)) ∧
      t.col.run.map (fun r => (r.part, r.status, r.chunks)) = some (x.r.part, x.r.status, x.r.chunks) ∧
      t.col.run.map (fun r => r.expect.map fun z => (z.part, z.src, z.phase, z.base, z.upTo, z.pos)) =
        some ((es.filter (· != y)).map fun z => (z.part, z.src, z.phase, z.base, z.upTo, z.pos)) ∧
      t.spt.rx = s.spt.rx.filter (fun r => ! [hd].contains r) ∧ t.mem = s.mem) ∧
  (∀ (s : State) (x : ColX) (src mem' n : Nat) (y : SpoutExpect) (es : List SpoutExpect) (hd f : RxFlit) (more : List RxFlit) (c : Chunk), s.colx = some x →
    x.r.expect = y :: es → y.src = src → 3 ≤ y.part → s.now ≤ y.deadline → x.plan.member src = some mem' →
    s.streamFrom x.r.cmd.job src y.base y.upTo y.pos x.om = hd :: f :: more →
    headerOk hd.payload x.p.seq x.plan.tag.toNat src s.devId (if x.rs then 7 else 8) (colStage y.part) y.phase = true →
    leAt hd.payload 0 4 = x.chunkCount (colStage y.part) → (x.r.chunks.filter fun c => c.src == src && c.stage == colStage y.part) = [] →
    max 1 ((parseChunk f.payload (colStage y.part) y.phase src (s.chunkFmt x (colStage y.part))).1.flits x.r.smax (s.chunkFmt x (colStage y.part))) = n →
    n ≤ more.length + 1 →
    s.chunkOk x (colStage y.part) mem' 0 (parseChunk f.payload (colStage y.part) y.phase src (s.chunkFmt x (colStage y.part))).1 = true →
    parseChunk (((f :: more).take n).map (·.payload)).flatten (colStage y.part) y.phase src (s.chunkFmt x (colStage y.part)) = (c, true) →
    ∃ t, exec (.chunkReceive src) s = .next t ∧ t.col.run.map (·.chunks) = some (x.r.chunks ++ [c]) ∧
      t.col.run.map (fun r => (r.part, r.status, r.smax)) = some (x.r.part, x.r.status, x.r.smax) ∧ t.col.cntSeal = s.col.cntSeal ∧ t.mem = s.mem) ∧
  (∀ (s : State) (src : Nat), s.col.run = none → exec (.chunkReceive src) s = .next s) ∧
  (∀ (s : State) (x : ColX) (ws : List Nat), s.colx = some x → x.rs = true → x.lastPart = true → x.r.expect = [] → x.r.status = 0 →
    (∀ c ∈ x.r.chunks, c.missing = false) → s.allSent 8 0 = true → s.allForwarded x.r.cmd.job = true → s.reducedShard x = some ws →
    s.rowsEcc x.r.cmd [] [1] = none →
    ∃ t, exec .collectiveCommit s = .next t ∧ t.col.run = none ∧ t.col.cntCmd = s.col.cntCmd + 1 ∧
      (t.engRegs x.r.cmd.engine).lastStatus = 0 ∧
      (∀ a, x.r.cmd.spares a → t.mem.byte a = (s.storeAll (s.reduceWrites x ws)).mem.byte a)) ∧
  (∀ (s : State) (x : ColX) (gs : List (Nat × List Byte)), s.colx = some x → x.rs = false → x.lastPart = true → x.r.expect = [] →
    x.r.status = 0 → (∀ c ∈ x.r.chunks, c.missing = false) → s.allSent 8 0 = true → s.allForwarded x.r.cmd.job = true →
    s.gathered x = some gs → (gs.map (·.1)).sum ≤ (s.slotTensor x.r.cmd 1).exts.headD 0 →
    s.rowsEcc x.r.cmd [] (if x.p.var then [1, 2] else [1]) = none →
    ∃ t, exec .collectiveCommit s = .next t ∧ t.col.run = none ∧ t.col.cntCmd = s.col.cntCmd + 1 ∧
      (∀ a, x.r.cmd.spares a → t.mem.byte a = (s.storeAll (s.gatherWrites x gs)).mem.byte a)) ∧
  (∀ (s : State) (x : ColX) (y : SpoutExpect) (r : List SpoutExpect), s.colx = some x → x.r.expect = y :: r → x.r.status = 0 →
    x.r.deadline < s.now →
    ∃ t, exec .collectiveReceiveDeadline s = .next t ∧ t.col.run = none ∧ (t.engRegs x.r.cmd.engine).failStatus = 0x31 ∧
      (t.engRegs x.r.cmd.engine).failDetail = y.phase * 65536 + colStage y.part ∧
      (∀ a, s.leaves x.r.cmd a → t.mem.byte a = s.mem.byte a)) ∧
  (∀ (s : State) (x : ColX), s.colx = some x → x.r.expect = [] → (x.r.chunks.filter (·.missing)) = [] → x.r.partBegun = false →
    x.r.status = 0 → x.r.deadline < s.now →
    ∃ t, exec .collectiveReceiveDeadline s = .next t ∧ t.col.run = none ∧ (t.engRegs x.r.cmd.engine).failStatus = 0x31 ∧
      (t.engRegs x.r.cmd.engine).failDetail = 65536 + colStage x.r.part ∧ (∀ a, s.leaves x.r.cmd a → t.mem.byte a = s.mem.byte a)) ∧
  (∀ (s : State) (x : ColX), s.colx = some x → x.r.status ≠ 0 → x.finish ≤ s.now →
    ∃ t, exec .collectiveEnd s = .next t ∧ t.col.run = none ∧ (t.engRegs x.r.cmd.engine).failStatus = x.r.status ∧
      (t.engRegs x.r.cmd.engine).failDetail = x.r.detail ∧ (∀ a, s.leaves x.r.cmd a → t.mem.byte a = s.mem.byte a)) ∧
  (∀ (s : State) (x : ColX), s.colx = some x → x.r.status = 0 → exec .collectiveEnd s = .next s)

/-- R239, R240, R257: a checked DISPATCH puts its context into COUNTING with its records, a COMBINE puts a DISPATCHED one into COMBINING, and
RELEASE frees it; a command that starts after its effective start, less the time its count vector takes, sends nothing, ends with
REMOTE_TIMEOUT (R258) and raises its job's END as its peers' commands do. How many cycles a count vector takes before the start is the
model's reading (notes/assumptions/24.md). -/
def Obligations.SpoutCommands : Prop :=
  (∀ (s u : State) (c : Cmd) (p : SpParams), s.begins 3 1 = some (u, c) → firstFail (u.dispatchChecks c) = none →
    (u.assignAll c).fail = none → spParams (u.params c) = p → u.spPast p c.job (vectorTicks (u.dispatchCount c)) = false →
    ∃ t, exec .dispatch s = .next t ∧ (t.spCtx p.ctx).state = 1 ∧ (t.spCtx p.ctx).recs = (u.assignAll c).recs ∧
      (t.spCtx p.ctx).job = c.job ∧ (t.spCtx p.ctx).cmd = some c ∧ (∀ i, i ≠ p.ctx →
        t.spCtx i = { s.spCtx i with base := (t.spCtx i).base, gap := (t.spCtx i).gap, effStart := (t.spCtx i).effStart, endsAt := (t.spCtx i).endsAt }) ∧
      t.live.length = u.live.length + 1 ∧ t.spt.cntRedirect = s.spt.cntRedirect + (u.assignAll c).moved ∧
      tget 0 t.spt.lastEnd (s.spCtx p.ctx).job = max (s.spCtx p.ctx).endsAt (tget 0 s.spt.lastEnd (s.spCtx p.ctx).job) ∧
      t = { u with live := t.live, spt := t.spt, eng := t.eng }) ∧
  (∀ (s u : State) (c : Cmd) (p : SpParams), s.begins 3 2 = some (u, c) → firstFail (u.combineChecks c) = none →
    spParams (u.params c) = p → u.spPast p c.job 0 = false →
    ∃ t, exec .combine s = .next t ∧ (t.spCtx p.ctx).state = 4 ∧ (t.spCtx p.ctx).landed = (s.spCtx p.ctx).landed ∧
      (t.spCtx p.ctx).cmd = some c ∧ (∀ i, i ≠ p.ctx →
        t.spCtx i = { s.spCtx i with base := (t.spCtx i).base, gap := (t.spCtx i).gap, effStart := (t.spCtx i).effStart, endsAt := (t.spCtx i).endsAt }) ∧ t.live.length = u.live.length + 1 ∧
      t = { u with live := t.live, spt := t.spt }) ∧
  (∀ (s u : State) (c : Cmd), s.begins 3 3 = some (u, c) → firstFail (u.releaseChecks c) = none →
    ∃ t, exec .spoutRelease s = .next t ∧ (t.spCtx (spParams (u.params c)).ctx).state = 0 ∧
      (t.spCtx (spParams (u.params c)).ctx).endsAt = (s.spCtx (spParams (u.params c)).ctx).endsAt ∧
      (t.engRegs c.engine).lastStatus = 0 ∧ (∀ a, c.spares a → t.mem.byte a = s.mem.byte a)) ∧
  (∀ (s u : State) (c : Cmd) (st d : Nat), s.begins 3 1 = some (u, c) → firstFail (u.dispatchChecks c) = some (st, d) →
    ∃ t, exec .dispatch s = .next t ∧ t.spt = s.spt ∧ (t.engRegs c.engine).lastStatus = st ∧ OnlyCommands s t) ∧
  (∀ (s u : State) (c : Cmd) (p : SpParams), s.begins 3 2 = some (u, c) → firstFail (u.combineChecks c) = none →
    spParams (u.params c) = p → u.spPast p c.job 0 = true →
    ∃ t, exec .combine s = .next t ∧ t.spt.ctx = s.spt.ctx ∧ t.spt.outs = s.spt.outs ∧ t.spt = (u.raiseLate c).spt ∧
      (t.engRegs c.engine).lastStatus = 0x31 ∧ (t.engRegs 3).evt.getLsbD 4 = true) ∧
  (∀ (s u : State) (c : Cmd) (p : SpParams), s.begins 3 1 = some (u, c) → firstFail (u.dispatchChecks c) = none →
    (u.assignAll c).fail = none → spParams (u.params c) = p → u.spPast p c.job (vectorTicks (u.dispatchCount c)) = true →
    ∃ t, exec .dispatch s = .next t ∧ t.spt.ctx = s.spt.ctx ∧ t.spt.outs = s.spt.outs ∧
      ((u.lateExch c).all fun e => tget 0 t.spt.lastEnd c.job ==
        max (e.endFrom (u.spStart e.p c.job)) (tget 0 s.spt.lastEnd c.job)) = true ∧
      (t.engRegs c.engine).lastStatus = 0x31 ∧ (t.engRegs 3).evt.getLsbD 4 = true)

/-- R241, R244, R247, R252, R253: a part of an exchange begins in its first owned slot, or as soon after it as it can, with its timetabled
streams, whatever has come of the parts before it; a stream that has come whole by its deadline is taken: a count stream joins the count
vector, a record stream lands in its region in order; a header that disagrees marks CHECK_MISMATCH with phase and stage. When a part
begins, and that a stream whose start has passed is not sent, is the model's choice (notes/assumptions/24.md). R253, R257, R258, R259: a
command still at the head of its queue after its effective start ends with REMOTE_TIMEOUT and sends nothing, its job's END raised as if it
had run; a stream missing after END + RX_SLACK marks REMOTE_TIMEOUT; a failed exchange ends at its END and releases its streams, the END
of one still counting being known only once a count stream is lost or bad. The DETAILs, and that the first failure is kept, are the
model's reading (notes/assumptions/24.md). R254, R255, R256: a DISPATCH with every stream complete writes its landed records, the receive
shape words and the row list, and its context is DISPATCHED; a COMBINE writes the combined rows and frees its context; a missing answer
ends it with CHECK_MISMATCH. How an answer is identified, and the DETAIL of one that is missing, is the model's reading
(notes/assumptions/24.md). -/
def Obligations.SpoutExchanges : Prop :=
  (∀ (s : State) (i part due s0 : Nat) (e e' : Exch) (c : Cmd) (places : List Placed) (used : Nat), i < 16 → s.exch i = some e →
    (s.spCtx i).cmd = some c → (e.x.state = 1 ∨ e.x.state = 2 ∨ e.x.state = 4) → e.upNext = some (part, due) → firstOwned e.om due = s0 →
    s0 ≤ s.now / 160 → (e.unbegun = false ∨ s.startKnown i e.x.job = true) → { e with x := { e.x with part := part, partBegun := false } } = e' →
    timetable (e'.phases part (if e.x.state == 4 then e.x.fo else e.x.fi) (e.x.state == 4)) = some (places, used) →
    (places.all (e'.inTime s0 s.now)) = true →
    ∃ t, exec (.exchangePartStart i) s = .next t ∧ (t.spCtx i).part = part ∧ (t.spCtx i).partBegun = true ∧ (t.spCtx i).partBase = s0 ∧
      (t.spCtx i).partEnd = partEnd e.om s0 used e.plan.hmax ∧ (t.spCtx i).expect.length = e.x.expect.length + places.length ∧
      t.spt.outs = s.spt.outs ++ places.map (s.partStream i e' c s0) ∧ t = { s with spt := t.spt, live := t.live }) ∧
  (∀ (s : State) (i part due : Nat) (e : Exch), i < 16 → s.exch i = some e → e.upNext = some (part, due) → s.now / 160 < firstOwned e.om due →
    exec (.exchangePartStart i) s = .next s) ∧
  (∀ (s : State) (i src : Nat) (e : Exch) (c : Cmd) (y : SpoutExpect) (es : List SpoutExpect) (a : Came), i < 16 → s.exch i = some e →
    (s.spCtx i).cmd = some c → e.x.expect = y :: es → y.src = src → s.now ≤ y.deadline → s.came e y = some a →
    headerOk a.head.payload e.p.seq e.plan.tag.toNat src s.devId (if y.part ≤ 3 then y.part else if e.x.state == 4 then 5 else 4)
      (partStage y.part) y.phase = false → e.x.status = 0 → es ≠ [] →
    ∃ t, exec (.spoutStreamComplete i src) s = .next t ∧ (t.spCtx i).status = 0x32 ∧
      (t.spCtx i).detail = y.phase * 65536 + partStage y.part ∧ (t.spCtx i).expect = es ∧ (t.spCtx i).vec = e.x.vec ∧
      (t.spCtx i).landed = e.x.landed ∧ t = { s with spt := t.spt }) ∧
  (∀ (s : State) (i src : Nat) (e : Exch) (c : Cmd) (y : SpoutExpect) (es : List SpoutExpect) (a : Came), i < 16 → s.exch i = some e →
    (s.spCtx i).cmd = some c → e.x.expect = y :: es → y.src = src → s.now ≤ y.deadline → s.came e y = some a → y.part ≤ 3 →
    headerOk a.head.payload e.p.seq e.plan.tag.toNat src s.devId y.part (partStage y.part) y.phase = true → es ≠ [] →
    ∃ t, exec (.spoutStreamComplete i src) s = .next t ∧
      (t.spCtx i).vec = e.addCount y.part (a.head.payload.drop 24 ++ (a.body.map (·.payload)).flatten) ∧
      (t.spCtx i).status = e.x.status ∧ (t.spCtx i).expect = es ∧
      t.spt.rx = s.spt.rx.filter (fun r => ! (a.head :: a.body).contains r) ∧ t = { s with spt := t.spt }) ∧
  (∀ (s : State) (i src : Nat) (e : Exch) (c : Cmd) (y : SpoutExpect) (es : List SpoutExpect) (a : Came) (recs : List SpoutRecord), i < 16 →
    s.exch i = some e → (s.spCtx i).cmd = some c → e.x.expect = y :: es → y.src = src → s.now ≤ y.deadline → s.came e y = some a →
    3 < y.part → e.x.state = 2 → headerOk a.head.payload e.p.seq e.plan.tag.toNat src s.devId 4 (partStage y.part) y.phase = true →
    a.count ≤ e.x.nmax (partStage y.part) y.phase →
    leAt a.head.payload 20 4 = (if a.count = 0 then 0 else crc32c (a.body.map (·.payload)).flatten) →
    (chunksOf (240 * e.x.fi) (a.count + 1) (a.body.map (·.payload)).flatten).map (fun b => parseRecord b e.plan.members (s.rowBytesIn c)) = recs →
    ∃ t, exec (.spoutStreamComplete i src) s = .next t ∧
      (t.spCtx i).landed = ((recs.zip (List.range recs.length)).map fun x =>
        (⟨partStage y.part, y.phase, e.regionRow (partStage y.part) y.phase + x.2, x.1⟩ : Landed)).foldl
          (fun l r => insertBy (fun a b => decide (a.row ≤ b.row)) r l) e.x.landed ∧
      (t.spCtx i).status = e.x.status ∧ (t.spCtx i).expect = es ∧ t = { s with spt := t.spt }) ∧
  (∀ (s : State) (i src : Nat), i < 16 → (∀ y ∈ (s.spCtx i).expect, y.deadline < s.now) → exec (.spoutStreamComplete i src) s = .next s) ∧
  (∀ (s : State) (i : Nat) (c : Cmd), i < 16 → s.waitingSpout i = some c → s.counting = true →
    s.spPast (spParams (s.params c)) c.job 0 = true →
    ∃ t, exec (.spoutLateStart i) s = .next t ∧ t.queue 3 c.job = (s.queue 3 c.job).tail ∧ (t.engRegs c.engine).lastStatus = 0x31 ∧
      t.spt.ctx = s.spt.ctx ∧ t.spt.outs = s.spt.outs ∧ t.spt = (s.raiseLate c).spt) ∧
  (∀ (s : State) (i : Nat), i < 16 → s.waitingSpout i = none → exec (.spoutLateStart i) s = .next s) ∧
  (∀ (s : State) (i : Nat) (y : SpoutExpect) (r : List SpoutExpect), i < 16 → (s.spCtx i).expect = y :: r → y.deadline < s.now →
    (s.spCtx i).status = 0 → s.now < (s.spCtx i).endsAt →
    ∃ t, exec (.spoutReceiveDeadline i) s = .next t ∧
      t.spCtx i = { s.spCtx i with status := 0x31, detail := y.phase * 65536 + partStage y.part, countsLost := (s.spCtx i).countsLost || ((y :: r).any fun z => decide (z.part ≤ 3)), expect := r.filter fun z => decide (s.now ≤ z.deadline) } ∧
      t = { s with spt := t.spt }) ∧
  (∀ (s : State) (i : Nat), i < 16 → (∀ y ∈ (s.spCtx i).expect, s.now ≤ y.deadline) → exec (.spoutReceiveDeadline i) s = .next s) ∧
  (∀ (s : State) (i : Nat) (c : Cmd), i < 16 → (s.spCtx i).cmd = some c → (s.spCtx i).status ≠ 0 → (s.spCtx i).partBegun = true →
    (s.spCtx i).state ≠ 1 ∨ (s.spCtx i).countsLost = true → (s.spCtx i).endsAt ≤ s.now →
    ∃ t, exec (.exchangeEnd i) s = .next t ∧ (t.spCtx i).cmd = none ∧
      (t.spCtx i).state = (if (s.spCtx i).state = 4 then 3 else 0) ∧ (t.engRegs c.engine).failStatus = (s.spCtx i).status ∧
      (∀ o ∈ t.spt.outs, ¬(o.engine = 3 ∧ o.ctx = i))) ∧
  (∀ (s : State) (i : Nat), i < 16 → (s.spCtx i).status = 0 → exec (.exchangeEnd i) s = .next s) ∧
  (∀ (s : State) (i : Nat) (e : Exch) (c : Cmd), i < 16 → s.exch i = some e → (s.spCtx i).cmd = some c → e.x.state = 2 →
    s.exchangeDone i e = true → (∀ l ∈ e.x.landed, s.partBad (s.landAt e l.row) (240 * e.x.fi) = false) →
    s.rowsEcc c [] [3, 4] = none →
    ∃ t, exec (.dispatchCommit i) s = .next t ∧ (t.spCtx i).state = 3 ∧ (t.spCtx i).cmd = none ∧ t.spt.cntExch = s.spt.cntExch + 1 ∧
      (t.engRegs c.engine).lastStatus = 0 ∧
      (∀ a, c.spares a → t.mem.byte a = (s.storeAll (s.dispatchWrites e c)).mem.byte a)) ∧
  (∀ (s : State) (i : Nat) (e : Exch), i < 16 → s.exch i = some e → s.exchangeDone i e = false →
    exec (.dispatchCommit i) s = .next s ∧ exec (.combineCommit i) s = .next s) ∧
  (∀ (s : State) (i : Nat) (e : Exch) (c : Cmd) (rows : List (List FVal)), i < 16 → s.exch i = some e → (s.spCtx i).cmd = some c →
    e.x.state = 4 → s.exchangeDone i e = true → s.unanswered e c = none → s.rowsEcc c [0, 1] [3] = none →
    (∀ a ∈ e.x.answers, s.partBad (((s.landingWindow e.x.job e.p.rwin).map (·.base)).getD 0 + e.returnRow a * 240 * e.x.fo) (240 * e.x.fo) = false) →
    (List.range ((s.slotTensor c 3).exts.getD 1 0)).map (s.combinedRow e c) = rows →
    ∃ t, exec (.combineCommit i) s = .next t ∧ (t.spCtx i).state = 0 ∧ t.spt.cntExch = s.spt.cntExch + 1 ∧
      (t.engRegs c.engine).lastStatus = 0 ∧
      (∀ a, c.spares a → t.mem.byte a = (s.storeAll (s.combineWrites e c rows)).mem.byte a)) ∧
  (∀ (s : State) (i : Nat) (e : Exch) (c : Cmd) (x : Nat × Nat), i < 16 → s.exch i = some e → (s.spCtx i).cmd = some c → e.x.state = 4 →
    s.exchangeDone i e = true → s.unanswered e c = some x →
    ∃ t, exec (.combineCommit i) s = .next t ∧ (t.spCtx i).state = 3 ∧ (t.engRegs c.engine).failStatus = 0x32 ∧
      (t.engRegs c.engine).failDetail = e.wayOf s.devId x ∧ (∀ a, s.leaves c a → t.mem.byte a = s.mem.byte a))

/-- R88, R244, R245, R263, R284: a scheduled flit leaves exactly in its owned position, over VC 1 with hop 1, and is kept for retry; a flit to
forward leaves in the same position of its slot, and is kept too; a Spout stream whose first-hop port is down at its start is not sent,
and marks its exchange ROUTE_DEAD with the port's index. -/
def Obligations.ScheduledFlits : Prop :=
  (∀ (s : State) (p slot pos i : Nat) (o : OutStream), p < 12 → s.now = positionTick slot pos → s.counting = true →
    s.streamAt p slot pos = some i → s.spt.outs[i]? = some o → s.laneUp o.lane = true → s.schedOk = true → s.neighbourOnly = false →
    s.positionFree p = true → o.engine ≠ 6 → o.next + 1 < o.flits.length → (o.source.any fun r => s.hasBad r.1 r.2) = false →
    ∃ t, exec (.schedFlitSend p slot pos) s = .next t ∧ t.spt.outs = s.spt.outs.set i { o with next := o.next + 1 } ∧
      t.out = s.out ++ [s.flitOut p { vc := 1, epoch := s.bld.epoch, hop := 1, route := o.route, src := s.fab.fabId, dst := o.dst, typ := 0x08,
                                      payload := s.nextPayload o }] ∧
      (t.port p).kept.getLast? = some { slot, pos, at' := s.now, flit :=
        { vc := 1, epoch := s.bld.epoch, hop := 1, route := o.route, src := s.fab.fabId, dst := o.dst, typ := 0x08, payload := s.nextPayload o } } ∧
      t.spt.cntFlits = s.spt.cntFlits + 1 ∧ (t.port p).cntTx = (s.port p).cntTx + 1 ∧ (∀ q, q ≠ p → t.port q = s.port q) ∧
      t = { s with spt := t.spt, ports := t.ports, out := t.out }) ∧
  (∀ (s : State) (p slot pos : Nat), p < 12 → s.now ≠ positionTick slot pos →
    exec (.schedFlitSend p slot pos) s = .next s ∧ exec (.schedFlitForward p slot pos) s = .next s) ∧
  (∀ (s : State) (p slot pos : Nat) (k : KeptFlit), p < 12 → s.now = positionTick slot pos → s.positionOpen p = true → s.schedOk = true → s.neighbourOnly = false →
    (s.port p).fwd.find? (fun k => k.slot == slot && k.pos == pos) = some k →
    ∃ t, exec (.schedFlitForward p slot pos) s = .next t ∧ (t.port p).fwd = (s.port p).fwd.erase k ∧
      (t.port p).kept.getLast? = some { k with at' := s.now } ∧
      t.out = s.out ++ [s.flitOut p k.flit] ∧ (∀ q, q ≠ p → t.port q = s.port q) ∧
      t = { s with spt := { s.spt with cntFlits := s.spt.cntFlits + 1 }, ports := t.ports, out := t.out }) ∧
  (∀ (s : State) (p slot pos i : Nat) (o : OutStream), p < 12 → s.now = positionTick slot pos → s.counting = true →
    s.streamAt p slot pos = some i → s.spt.outs[i]? = some o → s.laneUp o.lane = false → o.next = 0 → o.engine = 3 → s.positionFree p = true →
    (s.spCtx o.ctx).status = 0 →
    ∃ t, exec (.schedFlitSend p slot pos) s = .next t ∧ t.spt.outs = s.spt.outs.eraseIdx i ∧ (t.spCtx o.ctx).status = 0x33 ∧
      (t.spCtx o.ctx).detail = o.lane ∧ t.out = s.out ∧ t = { s with spt := t.spt })

/-- R61, R440, R446, R447, R459, R460: DOE answers while the host link is up; an SPDM request out of order, and one the identity answers while
CERT_BAD is set, is refused; a session is made by KEY_EXCHANGE and FINISH, and ends with its keys; a request of more than 64 KiB is not
taken. The model's choices (notes/assumptions/32.md): DOE's and SPDM's message codes and layouts, the measurement block's among them, are
PRESUMED, and what the spec does not spell of a response is a free value. -/
def Obligations.SpdmSessions : Prop :=
  (∀ (s : State) (i : BitVec 8), s.linkUp = true → i.toNat < 4 →
    ∃ t, exec (.doeDiscovery i) s = .next t ∧
      t.out = s.out ++ [.doe 0 (leBytes 2 (if i = 3 then 0x1E98 else 1) ++ leBytes 1 (if i = 3 then 2 else i.toNat) ++
        leBytes 1 (if i = 3 then 0 else i.toNat + 1))] ∧ t = { s with out := t.out }) ∧
  (∀ s : State, exec .doeAbort s = .next s) ∧
  (∀ s : State, s.linkUp = true →
    ∃ t, exec .getVersion s = .next t ∧ t.out = s.out ++ [.doe 0x04 [0x12, 0x13]] ∧
      t = { s with host := { s.host with spdmVersion := true, spdmCaps := false, spdmAlgs := false, session := 0, sessionKeys := 0 }, out := t.out }) ∧
  (∀ s : State, s.linkUp = true → s.host.spdmVersion = true →
    ∃ t, exec .getCapabilities s = .next t ∧ t = { s with host := { s.host with spdmCaps := true }, out := t.out, freeCount := t.freeCount }) ∧
  (∀ s : State, s.linkUp = true → s.host.spdmCaps = true →
    ∃ t, exec .negotiateAlgorithms s = .next t ∧
      t = { s with host := { s.host with spdmAlgs := true }, out := t.out, freeCount := t.freeCount }) ∧
  (∀ (s : State) (n : List Byte), s.linkUp = true → s.host.spdmAlgs = false → n.length ≤ 65536 →
    exec .getDigests s = .next { s with out := s.out ++ [.spdmError 0x01] } ∧
    exec (.challenge n) s = .next { s with out := s.out ++ [.spdmError 0x03] }) ∧
  (∀ (s : State) (i : Nat) (n b : List Byte), s.linkUp = true → s.host.spdmAlgs = true → s.wdn.certBad = true →
    b.length ≤ 65536 → n.length ≤ 65536 →
    exec (.challenge n) s = .next { s with out := s.out ++ [.spdmError 0x03] } ∧
    exec (.getMeasurements i n) s = .next { s with out := s.out ++ [.spdmError 0x60] } ∧
    exec (.keyExchange b) s = .next { s with out := s.out ++ [.spdmError 0x64] }) ∧
  (∀ (s : State) (k : Nat) (n : List Byte), s.linkUp = true → s.host.spdmAlgs = true → s.wdn.certBad = false → n.length ≤ 65536 →
    ∃ t u v w, exec .getDigests s = .next t ∧ exec (.getCertificate k) s = .next u ∧ exec (.challenge n) s = .next v ∧
      exec (.getMeasurements 0 n) s = .next w ∧ t = { s with out := t.out, freeCount := t.freeCount } ∧
      t.out.length = s.out.length + 1 ∧ u.out.length = s.out.length + 1 ∧ v.out.length = s.out.length + 1 ∧
      w.out = s.out ++ [.doe 0x60 ([7] ++ Config.messageBody 0x60 (leBytes 8 s.freeCount ++ (s.wdn.aliasKey ++ n)))] ∧
      (k = 0 → u.out = s.out ++ [.doe 0x02 (s.wdn.chain.flatten ++ Config.messageBody 0x02 (leBytes 8 s.freeCount))]) ∧ (k ≠ 0 → u.out = s.out ++ [.spdmError 0x02])) ∧
  (∀ (s : State) (k : Nat) (n : List Byte), s.linkUp = true → s.host.spdmAlgs = true → s.wdn.certBad = false → n.length ≤ 65536 → 1 ≤ k → k ≤ 7 →
    ∃ t, exec (.getMeasurements k n) s = .next t ∧
      t.out = s.out ++ [.doe 0x60 (leBytes 1 1 ++ leBytes 3 (s.measurementBlock k).length ++ s.measurementBlock k ++
        Config.messageBody 0x60 (leBytes 8 s.freeCount ++ (s.wdn.aliasKey ++ n)))]) ∧
  (∀ (s : State) (b : List Byte), s.linkUp = true → s.host.spdmAlgs = true → s.wdn.certBad = false → b.length ≤ 65536 →
    ∃ t, exec (.keyExchange b) s = .next t ∧ t.host = { s.host with session := 1, sessionKeys := s.host.sessionKeys + 1 }) ∧
  (∀ (s : State) (ok : Bool), s.linkUp = true → s.host.spdmAlgs = true → s.host.session = 1 →
    ∃ t, exec (.finish ok) s = .next t ∧
      t.host = (if ok then { s.host with session := 2 } else { s.host with session := 0, sessionKeys := 0 })) ∧
  (∀ (s : State) (b : List Byte), s.linkUp = true → s.host.spdmAlgs = true → s.host.session = 2 → b.length ≤ 65536 →
    ∃ t u v w, exec .heartbeat s = .next t ∧ t.host = s.host ∧ exec .keyUpdate s = .next u ∧
      u.host = { s.host with sessionKeys := s.host.sessionKeys + 1 } ∧ exec .endSession s = .next v ∧
      v.host = { s.host with session := 0, sessionKeys := 0 } ∧ exec (.ideKm b true) s = .next w ∧
      w.host = { s.host with ideKeys := s.host.ideKeys + 1, linkStream := true, contained := s.boot.hostCxl }) ∧
  (∀ (s : State) (b : List Byte) (p : Bool), s.linkUp = true → s.host.spdmAlgs = true → s.host.session ≠ 2 → b.length ≤ 65536 →
    exec (.ideKm b p) s = .next { s with out := s.out ++ [.spdmError 0x100] }) ∧
  (∀ (s : State) (b : List Byte) (p : Bool) (k : Nat), 65536 < b.length → exec (.keyExchange b) s = .next s ∧ exec (.ideKm b p) s = .next s ∧
    exec (.challenge b) s = .next s ∧ exec (.getMeasurements k b) s = .next s) ∧
  (∀ (s : State) (e : Nat), s.linkUp = true →
    ∃ t, exec (.cdatRead e) s = .next t ∧ t = { s with out := t.out, freeCount := t.freeCount } ∧
      t.out = s.out ++ [.doe 0x200 (leBytes 4 16896 ++ Config.messageBody 0x200 (leBytes 8 s.freeCount ++ leBytes 2 e))])

/-- R431 to R434, R473, R474: BIAS_CMD.GO starts a flip of its range unless one runs or a page is pinned, and a page that has flipped is in
device bias, its lines claimed; a host access reads and writes GDDR7 as it stands, flips device-bias pages to host bias, waits while its
page flips or exclusive jobs leave the channel no time for it, and is served then; a read that meets an uncorrectable line is poisoned and
counted, and past HOST_WIN an access is Unsupported Request. -/
def Obligations.HostMemory : Prop :=
  (∀ (s : State) (v : BitVec 64) (first count : Nat), v.toNat = first + count * 2 ^ 18 + 2 ^ 36 + 2 ^ 37 → 1 ≤ count →
    first + count ≤ 196608 → s.host.biasLeft = 0 → (∀ i, i < count → s.pinned (first + i) = false) →
    exec (.biasFlip v) s = .next { s with host := { s.host with
      biasFirst := first, biasCount := count, biasDir := true, biasLeft := count, biasNext := first,
      biasAt := some s.engCycle, biasFresh := [] } }) ∧
  (∀ (s : State) (v : BitVec 64) (first count i : Nat), v.toNat = first + count * 2 ^ 18 + 2 ^ 36 + 2 ^ 37 → first + count ≤ 196608 →
    s.host.biasLeft = 0 → i < count → s.pinned (first + i) = true →
    ∃ t, exec (.biasFlip v) s = .next t ∧ t.host.biasRefused = true ∧ t.host.biasLeft = 0 ∧ t.host.hostBias = s.host.hostBias) ∧
  (∀ (s : State) (p : Nat), p < 196608 → s.host.biasLeft ≠ 0 → s.host.biasNext = p → s.host.waiting = [] →
    ∃ t, exec (.biasFlipPageDone p) s = .next t ∧ tget false t.host.hostBias p = false ∧ t.host.biasLeft = s.host.biasLeft - 1 ∧
      t.host.biasNext = p + 1 ∧ (∀ q, q ≠ p → tget false t.host.hostBias q = tget false s.host.hostBias q) ∧ t.out = s.out ++ [.claim (p * 2097152) 2097152] ∧
      t = { s with host := t.host, out := t.out }) ∧
  (∀ (s : State) (p a n : Nat), p < 196608 → s.host.biasLeft = 1 → s.host.biasNext = p → s.host.waiting = [{ cxl := false, addr := a, len := n, write := none }] →
    1 ≤ n → s.servesHost a n = true → s.hasBad a n = false →
    ∃ t, exec (.biasFlipPageDone p) s = .next t ∧ t.host.waiting = [] ∧ t.mem = s.mem ∧
      t.out = s.out ++ [.claim (p * 2097152) 2097152, .data (s.mem.bytes a n)]) ∧
  (∀ (s : State) (a n : Nat), s.linkUp = true → s.boot.hostCxl = true → 1 ≤ n → a + n ≤ 0x6000000000 →
    (∀ p ∈ pagesOf a n, s.flipping p = false ∧ s.pinned p = false) → s.servesHost a n = true → s.host.waiting = [] → s.hasBad a n = false →
    ∃ t, exec (.hostCxlMemAccess a n none) s = .next t ∧ t.out = s.out ++ [.data (s.mem.bytes a n)] ∧ t.mem = s.mem ∧
      (∀ p ∈ pagesOf a n, tget false t.host.hostBias p = true) ∧ t = { s with host := t.host, out := t.out }) ∧
  (∀ (s : State) (a n : Nat) (bs : List Byte), s.linkUp = true → s.boot.hostCxl = true → 1 ≤ n → a + n ≤ 0x6000000000 →
    (∀ p ∈ pagesOf a n, s.flipping p = false) → s.servesHost a n = true → s.host.waiting = [] → s.partBad a n = false → bs.length = n →
    ∃ t, exec (.hostCxlMemAccess a n (some bs)) s = .next t ∧ t.mem = s.mem.write a bs ∧ t.out = s.out) ∧
  (∀ (s : State) (a n : Nat) (w : Option (List Byte)), s.linkUp = true → s.boot.hostCxl = true → 1 ≤ n → a + n ≤ 0x6000000000 →
    s.servesHost a n = false ∨ (∃ p ∈ pagesOf a n, s.flipping p = true) →
    exec (.hostCxlMemAccess a n w) s = .next { s with host := { s.host with
      waiting := s.host.waiting ++ [{ cxl := true, addr := a, len := n, write := w }] } }) ∧
  (∀ (s : State) (o n : Nat) (w : Option (List Byte)), s.linkUp = true → 2 ^ 30 < o + n ∨ inMain (s.host.win * 2 ^ 30 + o) n = false →
    exec (.hostBar4Access o n w) s = .next { s with out := s.out ++ [.unsupported] }) ∧
  (∀ (s : State) (o n : Nat), s.linkUp = true → o + n ≤ 2 ^ 30 → inMain (s.host.win * 2 ^ 30 + o) n = true → s.host.biasLeft = 0 →
    s.servesHost (s.host.win * 2 ^ 30 + o) n = true → s.host.waiting = [] → 1 ≤ n →
    ∃ t, exec (.hostBar4Access o n none) s = .next t ∧
      t.out = s.out ++ [if s.hasBad (s.host.win * 2 ^ 30 + o) n then .poison else .data (s.mem.bytes (s.host.win * 2 ^ 30 + o) n)] ∧
      t.log.cntUncorr = s.log.cntUncorr + (if s.hasBad (s.host.win * 2 ^ 30 + o) n then 1 else 0) ∧
      t = { s with log := { s.log with cntUncorr := t.log.cntUncorr }, out := t.out })

/-- R43, R442, R443: the sideband takes its address at 0x3A, reaches the registers of its list and reads eight bytes, its transfers as R442
lays them out; before step 3 the power-stage controller answers; JTAG is held in reset below its level. A transfer of another form reaches
no register (the model's choice: notes/assumptions/46.md). -/
def Obligations.SidebandAndJtag : Prop :=
  (∀ (s : State) (d : BitVec 7), s.pwr.present = true →
    exec (.i3cSetdasa 0x3A d) s = .next { s with host := { s.host with i3cAddr := some d } }) ∧
  (∀ (s : State) (a d : BitVec 7), a ≠ 0x3A → exec (.i3cSetdasa a d) s = .next s) ∧
  (∀ (s : State) (v : BitVec 64), s.pwr.present = true → s.boot.step < 3 →
    exec (.i3cRegisterWrite ([0x02, 0, 0x2F, 0, 0] ++ leBytes 8 v.toNat)) s = .next { s with fab := { s.fab with fabId := BitVec.ofNat 16 v.toNat } } ∧
    exec (.i3cRegisterRead [0x01, 0, 0x02, 0, 0x18]) s = .next { s with out := s.out ++ [.data (leBytes 8 s.ht.seed)] }) ∧
  (∀ (s : State) (v : BitVec 64), s.pwr.present = true → 3 ≤ s.boot.step →
    exec (.i3cRegisterWrite ([0x02, 0, 0x02, 0, 0x18] ++ leBytes 8 v.toNat)) s = .next { s with
      ht := { s.ht with seed := v.toNat }
      host := { s.host with sbWrite := some (s.engCycle, 0x020018, v) } } ∧
    exec (.i3cRegisterRead [0x01, 0, 0x02, 0, 0x18]) s = .next { s with out := s.out ++ [.data (leBytes 8 s.ht.seed)] }) ∧
  (∀ (s : State) (off : Nat) (v : BitVec 64), s.pwr.present = true → 3 ≤ s.boot.step → off < 2 ^ 32 → sidebandWritable off = false →
    ∃ t, exec (.i3cRegisterWrite ([0x02] ++ (leBytes 4 off).reverse ++ leBytes 8 v.toNat)) s = .next t ∧ (∀ e ∈ t.log.offered.getLast?, e.event = 0x0026) ∧
      t.log.offered.length = s.log.offered.length + 1 ∧ t = { s with log := { s.log with offered := t.log.offered } }) ∧
  (∀ (s : State) (b : List Byte), s.pwr.present = false → exec (.i3cRegisterWrite b) s = .next s ∧ exec (.i3cRegisterRead b) s = .next s) ∧
  (∀ (s : State) (b : List Byte), b.length ≠ 13 ∨ b.headD 0 ≠ 0x02 → exec (.i3cRegisterWrite b) s = .next s) ∧
  (∀ (s : State) (b : List Byte), b.length ≠ 5 ∨ b.headD 0 ≠ 0x01 → exec (.i3cRegisterRead b) s = .next s) ∧
  (∀ s : State, 1 ≤ s.host.debugLevel → s.wdn.mode = 2 →
    exec (.jtagTapAccess .idcode) s = .next { s with out := s.out ++ [.jtag idcode] }) ∧
  (∀ (s : State) (op : JtagOp), s.host.debugLevel = 0 → exec (.jtagTapAccess op) s = .next s)

/-- R119, R126, R132, R138, R496: a bundle that passes every check issues: the next one follows, or the target of a taken branch three bundles
on; its long-running instructions join their queues; nothing outside the core changes but what the writes of its core cycle put into
scratchpads as the cycle ends. A core that runs no task ends its core cycle all the same, and what a core wrote to a neighbour's
scratchpad is there as its next cycle begins. The model's choices: where a core's cycles end, and that a cycle's reads see what stood
before it (notes/assumptions/13.md); that a reserved FMT comes before BAD_OPCODE, and the first taken branch's place
(notes/assumptions/40.md). -/
def Obligations.BundlesIssue : Prop :=
  (∀ (s u : State) (k : Nat) (x : Slots), k < 256 → (s.core k).run ≠ .idle → (s.beginCycle k).cycleStart k = u → (u.core k).run = .issuing →
    slotsOf (tget 0 (u.core k).imem (u.core k).pc) = x → x.reservedFmt = none → x.bad ((u.core k).inDelay != 0) = none → (u.core k).hasRoom x = true →
    x.addrCheck (u.core k) = none → isBranch (field x.scalar 7 0) = false → (u.core k).pc < 4095 → (u.core k).target < 4096 →
    u.Quiet k → (∀ p ∈ (u.core k).stores, p.dmem = true ∨ (u.core k).cycle + 1 < p.visibleAt) →
    (field x.ld 7 0 = 1 → u.hasBad (padBase + k * padSize + ((u.core k).sreg (field x.ld 21 17)).toNat + field x.ld 85 64) 256 = false) →
    ∃ t, exec (.bundleIssue k .none) s = .next t ∧
      (t.core k).pc = (if (u.core k).delay = 1 then (u.core k).target else (u.core k).pc + 1) ∧
      (t.core k).lastBundle = (u.core k).pc ∧ (t.core k).cycle = (u.core k).cycle + 1 ∧ (t.core k).clock = (u.core k).clock + 1 ∧
      (∀ n ∈ [3, 4, 5, 6], (t.core k).queue n = (u.core k).queue n ++ ((x.long.filter fun l => l.1 == n).map fun l =>
        ({ unit := l.1, bits := BitVec.ofNat 96 l.2, bundle := (u.core k).pc } : LongInstr))) ∧
      (∀ j, j ≠ k → t.core j = u.core j) ∧ t.mem = u.mem ∧ t = { u with cores := t.cores, freeCount := t.freeCount }) ∧
  (∀ (s u : State) (k : Nat) (x : Slots) (b : Bool), k < 256 → (s.core k).run ≠ .idle → (s.beginCycle k).cycleStart k = u → (u.core k).run = .issuing →
    slotsOf (tget 0 (u.core k).imem (u.core k).pc) = x → x.reservedFmt = none → x.bad ((u.core k).inDelay != 0) = none → (u.core k).hasRoom x = true →
    x.addrCheck (u.core k) = none → field x.ld 7 0 ≠ 1 → (u.core k).delay = 0 →
    branchTaken (field x.scalar 7 0) ((u.core k).sreg (field x.scalar 17 13)) ((u.core k).sreg (field x.scalar 22 18))
      ((u.core k).flags.getLsbD (field (field x.scalar 63 32) 17 12)) = some b → (u.core k).pc < 4095 →
    u.Quiet k → (∀ p ∈ (u.core k).stores, p.dmem = true ∨ (u.core k).cycle + 1 < p.visibleAt) →
    ∃ t, exec (.bundleIssue k .none) s = .next t ∧ (t.core k).pc = (u.core k).pc + 1 ∧ (t.core k).delay = (if b then 2 else 0) ∧
      (t.core k).inDelay = 2 ∧ (t.core k).target = field x.scalar 63 32 % 4096 ∧ t.mem = u.mem) ∧
  (∀ (s u : State) (k slot : Nat) (x : Slots), k < 256 → (s.core k).run ≠ .idle → (s.beginCycle k).cycleStart k = u → (u.core k).run = .issuing →
    slotsOf (tget 0 (u.core k).imem (u.core k).pc) = x → x.reservedFmt = none → x.bad ((u.core k).inDelay != 0) = some slot →
    u.Quiet k → (∀ p ∈ (u.core k).stores, p.dmem = true ∨ (u.core k).cycle + 1 < p.visibleAt) →
    ∃ t, exec (.bundleIssue k .none) s = .next t ∧ (t.core k).run = .failed ∧ (t.core k).faultStatus = stBadOpcode ∧
      (t.core k).faultSlot = slot ∧ (t.core k).faultBundle = (u.core k).pc ∧ (t.core k).pc = (u.core k).pc ∧ t.mem = u.mem) ∧
  (∀ (s u : State) (k : Nat) (x : Slots), k < 256 → (s.core k).run ≠ .idle → (s.beginCycle k).cycleStart k = u → (u.core k).run = .issuing →
    slotsOf (tget 0 (u.core k).imem (u.core k).pc) = x → x.reservedFmt = none → x.bad ((u.core k).inDelay != 0) = none → (u.core k).hasRoom x = false →
    u.Quiet k → (∀ p ∈ (u.core k).stores, p.dmem = true ∨ (u.core k).cycle + 1 < p.visibleAt) →
    ∃ t, exec (.bundleIssue k .none) s = .next t ∧
      t.core k = { Core.endCycle { u.core k with run := .stalled } with cycle := (u.core k).cycle + 1 } ∧
      t = { u with cores := t.cores }) ∧
  (∀ (s : State) (k : Nat) (e : EccEvent), k < 256 → (s.core k).run = .idle → exec (.bundleIssue k e) s = .next ((s.beginCycle k).endCycle k)) ∧
  (∀ (s u : State) (k slot : Nat) (x : Slots), k < 256 → (s.core k).run ≠ .idle → (s.beginCycle k).cycleStart k = u → (u.core k).run = .issuing →
    slotsOf (tget 0 (u.core k).imem (u.core k).pc) = x → x.reservedFmt = some slot →
    u.Quiet k → (∀ p ∈ (u.core k).stores, p.dmem = true ∨ (u.core k).cycle + 1 < p.visibleAt) →
    ∃ t, exec (.bundleIssue k .none) s = .next t ∧ (t.core k).run = .failed ∧ (t.core k).faultStatus = stStructure ∧
      (t.core k).faultSlot = slot ∧ (t.core k).faultBundle = (u.core k).pc ∧ t.mem = u.mem) ∧
  (∀ (s u : State) (k st a : Nat), k < 256 → (s.core k).run ≠ .idle → (s.beginCycle k).cycleStart k = u → (u.core k).run ≠ .failed → st ≠ 5 → st ≠ 6 →
    st ≠ 8 → ∃ t, exec (.bundleIssue k (.uncorrectable st a)) s = .next t ∧ (t.core k).run = .failed ∧
      (t.core k).faultStatus = stEccUncorr)

/-- R125, R128, R131, R138 to R140: a scalar result stands in its register when its latency has passed, and s0 stays zero; a store's bytes are
there in the core cycle after its latency; of the writes of one core cycle the one that comes last in the order of units and neighbours
wins, and what a core wrote into a neighbour's scratchpad is there as its next cycle begins; the synchronization slot sets targets and
counters, and what it adds to a counter or sets of a flag is there as the cycle ends. Where a core's cycles end, and what a read of the
cycle sees, is the model's reading (notes/assumptions/13.md). -/
def Obligations.BundleResults : Prop :=
  (∀ (s u : State) (k : Nat) (x : Slots) (v : BitVec 32), k < 256 → (s.core k).run ≠ .idle → (s.beginCycle k).cycleStart k = u →
    (u.core k).run = .issuing → slotsOf (tget 0 (u.core k).imem (u.core k).pc) = x → x.reservedFmt = none → x.bad ((u.core k).inDelay != 0) = none →
    (u.core k).hasRoom x = true → x.addrCheck (u.core k) = none → field x.ld 7 0 ≠ 1 → field x.vec 7 0 = 0 → (u.core k).pc < 4095 →
    scalarAlu (field x.scalar 7 0) ((u.core k).sreg (field x.scalar 17 13)) ((u.core k).sreg (field x.scalar 22 18))
      (BitVec.ofNat 32 (field x.scalar 63 32)) = some v → field x.scalar 12 8 ≠ 0 →
    ∃ t, exec (.bundleIssue k .none) s = .next t ∧ (t.core k).pend = (u.core k).pend ++
      [{ file := 0, reg := field x.scalar 12 8, value := BitVec.ofNat 2048 v.toNat,
         visibleAt := (u.core k).cycle + (if field x.scalar 7 0 < 0x20 then 1 else 3), slot := 2, issued := (u.core k).cycle,
         bundle := (u.core k).pc }]) ∧
  (∀ (s u : State) (k r n : Nat) (p : PendingReg), k < 256 → s.beginCycle k = u → (s.core k).run = .heldByWait → (s.core k).pend = [p] → p.file = 0 → p.reg = r →
    p.visibleAt = n → (s.core k).stores = [] → s.Quiet k →
    ∃ t, exec (.bundleIssue k .none) s = .next t ∧ (t.core k).cycle = (s.core k).cycle + 1 ∧ t.mem = u.mem ∧
      (n ≤ (s.core k).cycle → (t.core k).pend = [] ∧
        (t.core k).sreg r = if r = 0 then 0 else BitVec.ofNat 32 p.value.toNat) ∧
      ((s.core k).cycle < n → (t.core k).pend = [p] ∧ (t.core k).sreg r = (s.core k).sreg r)) ∧
  (∀ (s u : State) (k a n : Nat) (bs : List Byte), k < 256 → s.beginCycle k = u → (s.core k).run = .heldByWait → (s.core k).pend = [] →
    (s.core k).stores = [{ dmem := false, addr := a, bytes := bs, visibleAt := n }] → n ≤ (s.core k).cycle + 1 → s.Quiet k →
    ∃ t, exec (.bundleIssue k .none) s = .next t ∧ t.mem = u.mem.write a bs ∧ (t.core k).stores = []) ∧
  (∀ (s : State) (k : Nat) (a b : PadWrite), k < 256 → (s.core k).run = .idle → (s.core k).padWrites = [b, a] → a.rank < b.rank →
    ([1, 2, 3, 4].filterMap (neighbourOf k)).filter (s.wroteInto k) = [] →
    ∃ t, exec (.bundleIssue k .none) s = .next t ∧ t.mem = (s.mem.write a.addr a.bytes).write b.addr b.bytes) ∧
  (∀ (s : State) (k p : Nat) (a : PadWrite), k < 256 → (s.core k).run = .idle → (s.core k).padWrites = [] →
    ([1, 2, 3, 4].filterMap (neighbourOf k)).filter (s.wroteInto k) = [p] → p ≠ k → (s.core p).padWrites = [a] →
    ∃ t, exec (.bundleIssue k .none) s = .next t ∧ t.mem = s.mem.write a.addr a.bytes ∧ (t.core p).padWrites = []) ∧
  (∀ (c d : Core) (w now i : Nat) (imm : BitVec 48), c.syncOp w now = d → field w 11 6 = i → BitVec.ofNat 48 (field w 63 16) = imm →
    (field w 5 0 = 1 → tget 0 d.tgt i = imm ∧ d = { c with tgt := d.tgt }) ∧
    (field w 5 0 = 2 → tget 0 d.tgt i = tget 0 c.tgt i + imm ∧ d = { c with tgt := d.tgt }) ∧
    (field w 5 0 = 3 → tget 0 d.stp i = imm ∧ d = { c with stp := d.stp }) ∧
    (field w 5 0 = 4 → tget 0 d.cnt i = imm ∧ d = { c with cnt := d.cnt }) ∧
    (field w 5 0 = 5 → tget 0 d.incs i = tget 0 c.incs i + imm ∧ d = { c with incs := d.incs }) ∧
    (field w 5 0 = 8 → d.sets.getLsbD i = true ∧ d = { c with sets := d.sets, flagAt := d.flagAt }) ∧
    (field w 5 0 = 9 → d.flags.getLsbD i = false ∧ d = { c with flags := d.flags })) ∧
  (∀ (c : Core) (i : Nat) (n : BitVec 48), c.incs = [(i, n)] → tget 0 c.endCycle.cnt i = tget 0 c.cnt i + n ∧
    c.endCycle.flags = c.flags ||| c.sets ∧
    c.endCycle = { c with cnt := c.endCycle.cnt, flags := c.endCycle.flags, incs := [], sets := 0, clock := c.clock + 1 })

/-- R122, R128 to R130, R142, R150: a met WAIT lets issue go on and takes its event; the tick in which the flag of a WAITD was set ends it,
with its result flag set, where its condition is still unmet; a task is done when nothing of it is queued or in flight; a core's mode is
written only while it runs no task, and not before the first blend. -/
def Obligations.WaitsAndTaskEnds : Prop :=
  (∀ (s : State) (k : Nat) (h : WaitHold), k < 256 → (s.core k).wait = some h → (s.core k).run = .heldByWait → h.deadlineFlag = none →
    h.late = false → (s.core k).waitOf h.spec = true →
    ∃ t, exec (.waitSatisfied k) s = .next t ∧ t.core k = { (s.core k).takeWait h.spec with run := .issuing, wait := none } ∧
      t = { s with cores := t.cores }) ∧
  (∀ (s : State) (k d : Nat) (h : WaitHold), k < 256 → (s.core k).wait = some h → (s.core k).run = .heldByWait → h.deadlineFlag = some d →
    h.late = false → (s.core k).waitOf h.spec = true →
    ∃ t, exec (.waitSatisfied k) s = .next t ∧ (t.core k).run = .issuing ∧ (t.core k).flags.getLsbD h.resultFlag = false ∧
      t = { s with cores := t.cores }) ∧
  (∀ (s : State) (k : Nat) (h : WaitHold), k < 256 → (s.core k).wait = some h → (s.core k).run = .heldByWait → h.late = true →
    exec (.waitSatisfied k) s = .next s ∧
    ∃ t, exec (.waitdDeadline k) s = .next t ∧ t.core k = Core.setFlag { s.core k with run := .issuing, wait := none } h.resultFlag s.now ∧
      t = { s with cores := t.cores }) ∧
  (∀ (s : State) (k : Nat) (h : WaitHold), k < 256 → (s.core k).wait = some h → h.late = false → exec (.waitdDeadline k) s = .next s) ∧
  (∀ (c : Core) (h : WaitHold) (d now : Nat), c.wait = some h → h.deadlineFlag = some d →
    (c.tick now).wait = some (if tget 0 c.flagAt d = now + 1 ∧ c.waitOf h.spec = false then { h with late := true } else h)) ∧
  (∀ (s : State) (k : Nat), k < 256 → (s.core k).wait = none → exec (.waitSatisfied k) s = .next s ∧ exec (.waitdDeadline k) s = .next s) ∧
  (∀ (s u : State) (k : Nat), k < 256 → s.beginCycle k = u → (s.core k).run = .ending → (s.core k).done = false → (s.core k).started = [] →
    (∀ n ∈ [3, 4, 5, 6], (s.core k).queue n = []) → (s.core k).pend = [] → (s.core k).stores = [] → s.Quiet k → (s.core k).hcm = false →
    ∃ t, exec (.taskEndDrained k) s = .next t ∧ (t.core k).done = true ∧ (t.core k).faultStatus = (s.core k).remoteStatus ∧
      t.mem = u.mem ∧ t = { u with cores := t.cores }) ∧
  (∀ (s : State) (k : Nat), k < 256 → (s.core k).started ≠ [] → s.beginCycle k = s → exec (.taskEndDrained k) s = .next s) ∧
  (∀ (s : State) (k : Nat) (m : BitVec 2), k < 256 → s.coreEnabled k = true → s.bld.applied = true → (s.core k).run = .idle →
    ∃ t, exec (.coreModeWrite k m) s = .next t ∧ t.core k = { s.core k with mode := m } ∧ t = { s with cores := t.cores }) ∧
  (∀ (s : State) (k : Nat) (m : BitVec 2), k < 256 → (s.core k).run ≠ .idle ∨ s.bld.applied = false ∨ s.coreEnabled k = false →
    ∃ t, exec (.coreModeWrite k m) s = .next t ∧ t.cores = s.cores)

/-- R124, R136 to R138, R143 to R146, R150, R293, R302, R496: the head of the LD and ST queues starts when its wait is met, with what it will
write or the requests it sends; memory does not change yet; a failed check fails the task, a reserved FMT with STRUCTURE. That the
operands are read as the instruction starts is the model's choice (notes/assumptions/13.md). The model's reading: equal extents of a move,
padding indices, and an LD.CR of a SERVICE window that completes as it starts (notes/assumptions/41.md); which D is flag and data, and
local or device-0xFFFF targets (notes/assumptions/39.md). -/
def Obligations.MovesStart : Prop :=
  (∀ (s u : State) (k : Nat) (i : LongInstr), k < 256 → s.starts k 5 2 = some (u, i) → firstFail (u.ldTChecks k i) = none →
    u.isRemote (u.coreDesc k (i.d 0)) = false →
    ∃ t, exec (.ldT k) s = .next t ∧
      u.Begun t k i (((u.coreDesc k (i.d 1)).resolve u.mem).place (((u.coreDesc k (i.d 0)).resolve u.mem).read u.mem))) ∧
  (∀ (s u : State) (k : Nat) (i : LongInstr) (st d : Nat), k < 256 → s.starts k 5 2 = some (u, i) →
    firstFail (u.ldTChecks k i) = some (st, d) →
    ∃ t, exec (.ldT k) s = .next t ∧ t.TaskFailed k st i d ∧
      t = { u with cores := t.cores, log := (u.tallyEcc st).log }) ∧
  (∀ (s u : State) (k p : Nat) (i : LongInstr), k < 256 → s.starts k 5 3 = some (u, i) → firstFail (u.ldGChecks k i) = none →
    u.emptyOf [u.coreDesc k (i.d 0), u.coreDesc k (i.d 1), u.coreDesc k (i.d 2)] = false →
    oobCheck (((u.coreDesc k (i.d 1)).resolve u.mem).words u.mem) ((u.coreDesc k (i.d 0)).resolve u.mem).table.count (i.fld 41 40) =
      some (stBounds, p) →
    ∃ t, exec (.ldG k) s = .next t ∧ t.TaskFailed k stBounds i p ∧ t.mem = u.mem) ∧
  (∀ (s u : State) (k : Nat) (i : LongInstr), k < 256 → s.starts k 5 3 = some (u, i) → firstFail (u.ldGChecks k i) = none →
    u.emptyOf [u.coreDesc k (i.d 0), u.coreDesc k (i.d 1), u.coreDesc k (i.d 2)] = false →
    oobCheck (((u.coreDesc k (i.d 1)).resolve u.mem).words u.mem) ((u.coreDesc k (i.d 0)).resolve u.mem).table.count (i.fld 41 40) = none →
    u.eccRows (u.coreDesc k (i.d 0)) false (((u.coreDesc k (i.d 0)).resolve u.mem).table.named
      (((u.coreDesc k (i.d 1)).resolve u.mem).words u.mem)) = none →
    ∃ t, exec (.ldG k) s = .next t ∧ (t.core k).started.length = (u.core k).started.length + 1 ∧ (t.core k).nextId = (u.core k).nextId + 1 ∧
      t.mem = u.mem ∧ (∀ j, j ≠ k → t.core j = u.core j) ∧
      (t.core k).oobRows = (u.core k).oobRows + ((((u.coreDesc k (i.d 1)).resolve u.mem).words u.mem).filter fun j =>
        j != padIndex && decide (((u.coreDesc k (i.d 0)).resolve u.mem).table.count ≤ j)).length ∧
      t = { u with cores := t.cores, fab := { u.fab with toSend := t.fab.toSend } }) ∧
  (∀ (s u : State) (k p : Nat) (i : LongInstr), k < 256 → s.starts k 5 4 = some (u, i) → u.neighbour k (i.fld 66 64) = some p →
    i.fmt < 14 → (u.core p).mode ≠ 1 → (u.window p (i.fld 69 67)).en = true →
    ∃ t, exec (.ldCr k) s = .next t ∧ (t.core p).creditReqs = (u.core p).creditReqs ++
        [{ window := i.fld 69 67, dir := opposite (i.fld 66 64), core := k, instr := (u.core k).nextId,
           clock := (u.core p).clock }] ∧
      (t.core k).started = (u.core k).started ++
        [{ unit := i.unit, bits := i.bits, bundle := i.bundle, id := (u.core k).nextId, writes := [], creditWait := true }] ∧
      t = { u with cores := t.cores }) ∧
  (∀ (s u : State) (k p : Nat) (i : LongInstr), k < 256 → s.starts k 5 4 = some (u, i) → u.neighbour k (i.fld 66 64) = some p →
    i.fmt < 14 → (u.core p).mode = 1 → (u.window p (i.fld 69 67)).en = true → (∀ x ∈ (u.core k).started, x.unit ≠ 5) →
    ∃ t, exec (.ldCr k) s = .next t ∧ (t.core k).started.length = (u.core k).started.length ∧ (t.core p).crw = (u.core p).crw ∧
      (t.core k).incs = (match sigCounter (sigField i.unit i.bits.toNat) with | some j => bump (u.core k).incs j | none => (u.core k).incs) ∧
      t = { u with cores := t.cores }) ∧
  (∀ (s u : State) (k p : Nat) (i : LongInstr) (x : StartedInstr), k < 256 → s.starts k 5 4 = some (u, i) → u.neighbour k (i.fld 66 64) = some p →
    i.fmt < 14 → (u.core p).mode = 1 → (u.window p (i.fld 69 67)).en = true → x ∈ (u.core k).started → x.unit = 5 →
    ∃ t, exec (.ldCr k) s = .next t ∧ u.Begun t k i []) ∧
  (∀ (s u : State) (k : Nat) (i : LongInstr), k < 256 → 14 ≤ i.fmt →
    (s.starts k 5 4 = some (u, i) → ∃ t, exec (.ldCr k) s = .next t ∧ t.TaskFailed k 0x22 i 0 ∧ t = { u with cores := t.cores }) ∧
    (s.starts k 6 5 = some (u, i) → ∃ t, exec (.stFence k) s = .next t ∧ t.TaskFailed k 0x22 i 0 ∧ t = { u with cores := t.cores })) ∧
  (∀ (s u : State) (k : Nat) (i : LongInstr), k < 256 → s.starts k 6 2 = some (u, i) → firstFail (u.stTChecks k i) = none →
    u.isRemote (u.coreDesc k (i.d 1)) = false → i.remEn = false →
    ∃ t, exec (.stT k) s = .next t ∧
      u.Begun t k i (((u.coreDesc k (i.d 1)).resolve u.mem).place (((u.coreDesc k (i.d 0)).resolve u.mem).read u.mem))) ∧
  (∀ (s u : State) (k : Nat) (i : LongInstr), k < 256 → s.starts k 6 3 = some (u, i) → firstFail (u.stSChecks k i) = none →
    u.emptyOf [u.coreDesc k (i.d 0), u.coreDesc k (i.d 1), u.coreDesc k (i.d 2)] = false →
    u.eccRows (u.coreDesc k (i.d 2)) true (((u.coreDesc k (i.d 2)).resolve u.mem).table.named
      (((u.coreDesc k (i.d 1)).resolve u.mem).words u.mem)) = none →
    oobCheck (((u.coreDesc k (i.d 1)).resolve u.mem).words u.mem) ((u.coreDesc k (i.d 2)).resolve u.mem).table.count (i.fld 49 48) = none →
    firstFail (u.storeChecks k i (u.coreDesc k (i.d 2)) (u.coreDesc k (i.d 2)) (localWrites (u.stSRows k i))) = none →
    u.isRemote (u.coreDesc k (i.d 2)) = false → i.remEn = false →
    ∃ t, exec (.stS k) s = .next t ∧ (t.core k).started = (u.core k).started ++
        [{ unit := i.unit, bits := i.bits, bundle := i.bundle, id := (u.core k).nextId, writes := u.stSRows k i }] ∧
      t = { u with cores := t.cores }) ∧
  (∀ (s u : State) (k : Nat) (i : LongInstr), k < 256 → s.starts k 6 4 = some (u, i) → firstFail (u.stAChecks k i) = none →
    ∃ t, exec (.stA k) s = .next t ∧ t.fab.toSend = (u.requests ((u.stARequests k i).map fun r => { r with
        requester := 0x100 + k, instr := (u.core k).nextId, jobId := (u.job (u.core k).job).jobId, jobSlot := (u.core k).job })).fab.toSend ∧
      (t.core k).started = (u.core k).started ++ [{ unit := i.unit, bits := i.bits, bundle := i.bundle, id := (u.core k).nextId, writes := [],
                                                    remote := (u.stARequests k i).length }] ∧
      t = { u with cores := t.cores, fab := t.fab }) ∧
  (∀ (s u : State) (k : Nat) (i : LongInstr), k < 256 → s.starts k 6 5 = some (u, i) → i.fmt < 14 →
    ∃ t, exec (.stFence k) s = .next t ∧ (t.core k).started = (u.core k).started ++
        [{ unit := i.unit, bits := i.bits, bundle := i.bundle, id := (u.core k).nextId, writes := [], fence := true }] ∧
      t = { u with cores := t.cores }) ∧
  (∀ (s : State) (k : Nat), k < 256 → (s.core k).qLd = [] → (s.core k).qSt = [] →
    exec (.ldT k) s = .next s ∧ exec (.ldG k) s = .next s ∧ exec (.ldCr k) s = .next s ∧ exec (.stT k) s = .next s ∧
    exec (.stS k) s = .next s ∧ exec (.stA k) s = .next s ∧ exec (.stFence k) s = .next s)

/-- R124, R125, R138, R149, R151, R168: the oldest started instruction of a unit completes: what it wrote to memory is there, what it wrote to
a scratchpad takes its place among the core cycle's writes, its counter and its neighbour's rise as the core cycle ends, and it leaves;
one that waits for answers or a grant does not; the array has advanced as many cycles as R168 gives; a free window goes to the request
made first. When an instruction completes is the environment's to say (the model's choice: notes/assumptions/13.md). The order of credit
requests of one cycle is the model's reading (notes/assumptions/41.md). -/
def Obligations.InstructionsComplete : Prop :=
  (∀ (s : State) (k n f c : Nat) (o d : Bool) (x : StartedInstr), k < 256 → (s.core k).started.find? (fun x => x.unit == n) = some x →
    x.remote = 0 → x.creditWait = false → x.arrival = none → x.credit = [] → n ≠ 4 →
    (∀ w ∈ x.writes, padCore w.1 w.2.length = none) →
    ∃ t, exec (.longInstructionComplete k n o f c d) s = .next t ∧ (t.core k).started = (s.core k).started.erase x ∧
      t.mem = s.mem.writeAll x.writes ∧
      (t.core k).incs = (match sigCounter (sigField n x.bits.toNat) with | some j => bump (s.core k).incs j | none => (s.core k).incs) ∧
      (∀ j, j ≠ k → t.core j = s.core j)) ∧
  (∀ (s : State) (k n p f c : Nat) (o d : Bool) (x : StartedInstr), k < 256 → (s.core k).started.find? (fun x => x.unit == n) = some x →
    x.remote = 0 → x.creditWait = false → x.arrival = none → x.credit = [] → n ≠ 4 →
    (∀ w ∈ x.writes, padCore w.1 w.2.length = some p) →
    ∃ t, exec (.longInstructionComplete k n o f c d) s = .next t ∧ (t.core k).started = (s.core k).started.erase x ∧ t.mem = s.mem ∧
      (t.core p).padWrites = (s.core p).padWrites ++ x.writes.map (fun w => ⟨writeRank p k n, w.1, w.2⟩) ∧
      (∀ j, j ≠ k → j ≠ p → t.core j = s.core j)) ∧
  (∀ (s : State) (k n p w i f c : Nat) (o d : Bool) (x : StartedInstr), k < 256 → p ≠ k →
    (s.core k).started.find? (fun x => x.unit == n) = some x → x.remote = 0 → x.creditWait = false → x.writes = [] →
    x.arrival = some (p, i) → x.credit = [(p, w)] →
    ∃ t, exec (.longInstructionComplete k n o f c d) s = .next t ∧ t.mem = s.mem ∧ (t.core p).incs = bump (s.core p).incs i ∧
      (t.core p).cnt = (s.core p).cnt ∧ t.window p w = { s.window p w with holder := 0, free := false, used := false }) ∧
  (∀ (s : State) (k f c : Nat) (o d : Bool) (x : StartedInstr), k < 256 → (s.core k).started.find? (fun x => x.unit == 4) = some x →
    x.remote = 0 → x.creditWait = false → x.arrival = none → x.credit = [] → f ≠ 0 →
    (∀ w ∈ x.writes, padCore w.1 w.2.length = some k) →
    ∃ t, exec (.longInstructionComplete k 4 o f c d) s = .next t ∧ t.mem = s.mem ∧
      (t.core k).padWrites = (s.core k).padWrites ++ x.writes.map (fun w => ⟨1, w.1, w.2⟩) ∧
      (t.core k).matBusy = (s.core k).matBusy + (x.busy - if o && x.backToBack then 2 else 0) ∧ (t.core k).matFrozen = (s.core k).matFrozen + f ∧
      (t.core k).matCause = c % 16 ∧ (t.core k).matDrain = d) ∧
  (∀ (s : State) (k n f c : Nat) (o d : Bool) (x : StartedInstr), k < 256 → (s.core k).started.find? (fun x => x.unit == n) = some x →
    x.remote ≠ 0 ∨ x.creditWait = true → exec (.longInstructionComplete k n o f c d) s = .next s) ∧
  (∀ (s : State) (k n f c : Nat) (o d : Bool), k < 256 → (s.core k).started.find? (fun x => x.unit == n) = none →
    exec (.longInstructionComplete k n o f c d) s = .next s) ∧
  (∀ (s : State) (k w : Nat) (r : CreditReq), k < 256 → w < 8 → (s.window k w).en = true → (s.window k w).holder = 0 →
    (s.window k w).free = true → (s.core k).nextCredit w = some r → r.core ≠ k →
    ∃ t, exec (.creditGrant k w) s = .next t ∧ (t.window k w).holder = r.dir ∧ (t.core k).creditReqs = (s.core k).creditReqs.erase r ∧
      (∀ i ∈ (t.core r.core).started, i.id = r.instr → i.creditWait = false) ∧ t = { s with cores := t.cores }) ∧
  (∀ (c : Core) (w : Nat) (r q : CreditReq), c.nextCredit w = some r → q ∈ c.creditReqs → q.window = w → q.clock < c.clock →
    r ∈ c.creditReqs ∧ r.window = w ∧ r.clock < c.clock ∧ (r.clock < q.clock ∨ (r.clock = q.clock ∧ r.dir ≤ q.dir))) ∧
  (∀ (s : State) (k w : Nat), k < 256 → w < 8 → (s.window k w).holder ≠ 0 ∨ (s.core k).nextCredit w = none →
    exec (.creditGrant k w) s = .next s)

/-- R163 to R175, R180 to R195: the head of the MAT and VEC queues starts with the encodings it will write, computed over the operands as they
stand; nothing is written before it completes. The model's choices: the operands are read as it starts (notes/assumptions/13.md); an
integer result outside its format is a free value (notes/assumptions/17.md); broadcasts, the reduced dimension, over-full groups and the
padding of lists and blocks are read by inference (notes/assumptions/42.md). -/
def Obligations.TensorOpsStart : Prop :=
  (∀ (s u : State) (k : Nat) (i : LongInstr) (a b c : Tensor), k < 256 → s.starts k 4 1 = some (u, i) → firstFail (u.mmaChecks k i) = none →
    (u.coreDesc k (i.d 0)).resolve u.mem = a → (u.coreDesc k (i.d 1)).resolve u.mem = b → (u.coreDesc k (i.d 2)).resolve u.mem = c →
    i.fld 22 20 = 0 → a.size ≠ 0 → b.size ≠ 0 → c.size ≠ 0 →
    ∃ t, exec (.mma k) s = .next t ∧ u.Begun t k i (c.placeEnc (mmaWords ((redBlock a.fmt b.fmt).getD 32) c.fmt (a.fmt == 0x9)
      (rowsOf (a.vals u.mem) (b.exts.headD 0)) (rowsOf (b.vals u.mem) (b.exts.headD 0)) ((padExts c.exts).getD 1 1)
      ((padExts b.exts).getD 1 1) a.batch b.batch (if bitOf i.bits.toNat 23 then some (c.vals u.mem) else none)))
      (occupancy ((redBlock a.fmt b.fmt).getD 32) (passCycles a.fmt b.fmt) ((padExts c.exts).getD 1 1) ((padExts b.exts).getD 1 1)
        (b.exts.headD 0) (a.batch.foldl (· * ·) 1) false)) ∧
  (∀ (s u : State) (k : Nat) (i : LongInstr) (st d : Nat), k < 256 → s.starts k 4 1 = some (u, i) →
    firstFail (u.mmaChecks k i) = some (st, d) →
    ∃ t, exec (.mma k) s = .next t ∧ t.TaskFailed k st i d ∧ t = { u with cores := t.cores, log := (u.tallyEcc st).log }) ∧
  (∀ (s u : State) (k : Nat) (i : LongInstr) (a b c md : Tensor) (rs : List (List FVal)), k < 256 → s.starts k 4 1 = some (u, i) →
    firstFail (u.mmaChecks k i) = none →
    (u.coreDesc k (i.d 0)).resolve u.mem = a → (u.coreDesc k (i.d 1)).resolve u.mem = b → (u.coreDesc k (i.d 2)).resolve u.mem = c →
    (u.coreDesc k (i.d 1 + 1)).resolve u.mem = md → i.fld 22 20 ≠ 0 → a.size ≠ 0 → b.size ≠ 0 → c.size ≠ 0 →
    (denseA u.mem (i.fld 22 20) ((padExts c.exts).getD 1 1) (b.exts.headD 0) a md (md.fmt == 0x9)).toOption = some rs →
    (i.fld 22 20 = 4 → tileCheck u.mem ((padExts c.exts).getD 1 1) (b.exts.headD 0) md = none) →
    ∃ t, exec (.mma k) s = .next t ∧ u.Begun t k i (c.placeEnc (mmaWords ((redBlock a.fmt b.fmt).getD 32) c.fmt (a.fmt == 0x9)
      rs (rowsOf (b.vals u.mem) (b.exts.headD 0)) ((padExts c.exts).getD 1 1)
      ((padExts b.exts).getD 1 1) a.batch b.batch (if bitOf i.bits.toNat 23 then some (c.vals u.mem) else none)))
      (occupancy ((redBlock a.fmt b.fmt).getD 32) (passCycles a.fmt b.fmt) ((padExts c.exts).getD 1 1) ((padExts b.exts).getD 1 1)
        (b.exts.headD 0) (a.batch.foldl (· * ·) 1) true)) ∧
  (∀ (s u : State) (k : Nat) (i : LongInstr) (a b c th : Tensor), k < 256 → s.starts k 4 2 = some (u, i) →
    firstFail (u.mmaScreenChecks k i) = none →
    (u.coreDesc k (i.d 0)).resolve u.mem = a → (u.coreDesc k (i.d 1)).resolve u.mem = b → (u.coreDesc k (i.d 2)).resolve u.mem = c →
    (u.coreDesc k (i.d 2 + 1)).resolve u.mem = th → a.size ≠ 0 → b.size ≠ 0 →
    ∃ t, exec (.mmaScreen k) s = .next t ∧ u.Begun t k i (c.placeWords (countedList ((List.range ((padExts b.exts).getD 1 1)).filter fun j =>
      (th.vals u.mem).getD (if th.exts.headD 0 = 1 then 0 else j) fZero == .nan ||
      (th.vals u.mem).getD (if th.exts.headD 0 = 1 then 0 else j) fZero == .inf true ||
      (List.range ((padExts a.exts).getD 1 1)).any fun r =>
        (dotBlocks 64 fZero ((rowsOf (a.vals u.mem) (b.exts.headD 0)).getD r []) ((rowsOf (b.vals u.mem) (b.exts.headD 0)).getD j [])).isNan ||
        ((th.vals u.mem).getD (if th.exts.headD 0 = 1 then 0 else j) fZero).lt
          (dotBlocks 64 fZero ((rowsOf (a.vals u.mem) (b.exts.headD 0)).getD r []) ((rowsOf (b.vals u.mem) (b.exts.headD 0)).getD j [])))
      (c.exts.headD 0)))
      (occupancy 64 1 ((padExts a.exts).getD 1 1) ((padExts b.exts).getD 1 1) (b.exts.headD 0) 1 false)) ∧
  (∀ (s u : State) (k : Nat) (i : LongInstr) (a b : Tensor), k < 256 → s.starts k 3 0xC1 = some (u, i) →
    firstFail (u.elementwiseChecks k i [0] 1) = none →
    (u.coreDesc k (i.d 0)).resolve u.mem = a → (u.coreDesc k (i.d 1)).resolve u.mem = b →
    ∃ t, exec (.tcvt k) s = .next t ∧ u.Begun t k i (b.placeFree (isInt a.fmt) (i.key u.mem [a]) (Rnd.ofCode (i.fld 33 32))
      ((List.range b.size).map fun n => (a.vals u.mem).getD (bcastIndex (padExts b.exts) (padExts a.exts) n) fZero))) ∧
  (∀ (s u : State) (k : Nat) (i : LongInstr) (a b c : Tensor), k < 256 → s.starts k 3 0xC2 = some (u, i) →
    firstFail (u.elementwiseChecks k i [0, 1] 2) = none → (u.coreDesc k (i.d 0)).resolve u.mem = a →
    (u.coreDesc k (i.d 1)).resolve u.mem = b → (u.coreDesc k (i.d 2)).resolve u.mem = c →
    ∃ t, exec (.tadd k) s = .next t ∧ u.Begun t k i (c.placeFree (isInt a.fmt && isInt b.fmt) (i.key u.mem [a, b]) (Rnd.ofCode (i.fld 33 32))
      ((List.range c.size).map fun n =>
        ((a.vals u.mem).getD (bcastIndex (padExts c.exts) (padExts a.exts) n) fZero).add
          ((b.vals u.mem).getD (bcastIndex (padExts c.exts) (padExts b.exts) n) fZero) (Rnd.ofCode (i.fld 33 32) == .down)))) ∧
  (∀ (s u : State) (k : Nat) (i : LongInstr) (a b c : Tensor), k < 256 → s.starts k 3 0xC3 = some (u, i) →
    firstFail (u.elementwiseChecks k i [0, 1] 2) = none → (u.coreDesc k (i.d 0)).resolve u.mem = a →
    (u.coreDesc k (i.d 1)).resolve u.mem = b → (u.coreDesc k (i.d 2)).resolve u.mem = c →
    ∃ t, exec (.tmul k) s = .next t ∧ u.Begun t k i (c.placeFree (isInt a.fmt && isInt b.fmt) (i.key u.mem [a, b]) (Rnd.ofCode (i.fld 33 32))
      ((List.range c.size).map fun n =>
        ((a.vals u.mem).getD (bcastIndex (padExts c.exts) (padExts a.exts) n) fZero).mul
          ((b.vals u.mem).getD (bcastIndex (padExts c.exts) (padExts b.exts) n) fZero)))) ∧
  (∀ (s u : State) (k : Nat) (i : LongInstr) (a b : Tensor), k < 256 → s.starts k 3 0xC4 = some (u, i) →
    firstFail (u.tredChecks k i) = none → (u.coreDesc k (i.d 0)).resolve u.mem = a → (u.coreDesc k (i.d 1)).resolve u.mem = b →
    a.size ≠ 0 →
    ∃ t, exec (.tred k) s = .next t ∧ u.Begun t k i (b.placeEnc ((rowsOf (a.vals u.mem) (a.exts.headD 0)).map fun r =>
      if isInt a.fmt then intSum (r.map FVal.toInt) else encodeElem 0x0 (Rnd.ofCode (i.fld 33 32)) (exactSum r)))) ∧
  (∀ (s u : State) (k : Nat) (i : LongInstr) (a b md : Tensor), k < 256 → s.starts k 3 0xC5 = some (u, i) →
    (u.coreDesc k (i.d 0)).resolve u.mem = a → (u.coreDesc k (i.d 1)).resolve u.mem = b → (u.coreDesc k (i.d 2)).resolve u.mem = md →
    i.fld 19 17 ≠ 4 → i.fld 21 20 = 1 → firstFail (u.tsparseChecks k i 1 true) = none →
    ∃ t, exec (.tsparsePrune k) s = .next t ∧ u.Begun t k i
      (b.rows.zip (a.rows.map fun r => keepBytes (fmtBits a.fmt / 8) (patternOf (i.fld 19 17)) (u.mem.bytes r a.rowLen)
          ((rowGroups u.mem (patternOf (i.fld 19 17)) a r).map (pruneKept (patternOf (i.fld 19 17)).n))) ++
        md.rows.zip (a.rows.map fun r => metaBytes (patternOf (i.fld 19 17)).bits md.rowLen
          ((rowGroups u.mem (patternOf (i.fld 19 17)) a r).map fun g => codeOf (i.fld 19 17) (pruneKept (patternOf (i.fld 19 17)).n g))))) ∧
  (∀ (s u : State) (k r g : Nat) (i : LongInstr) (a : Tensor), k < 256 → s.starts k 3 0xC5 = some (u, i) → i.fld 21 20 = 0 →
    (u.coreDesc k (i.d 0)).resolve u.mem = a → firstFail (u.tsparseChecks k i 0 true) = none → a.rows = [r] →
    (List.range (rowGroups u.mem (patternOf (i.fld 19 17)) a r).length).find? (fun g =>
      (strictKept (patternOf (i.fld 19 17)).n ((rowGroups u.mem (patternOf (i.fld 19 17)) a r).getD g [])).isNone) = some g →
    ∃ t, exec (.tsparseStrict k) s = .next t ∧
      t.TaskFailed k stStructure i ((r - localOf a.base) * 8 / fmtBits a.fmt + g * (patternOf (i.fld 19 17)).g) ∧ t.mem = u.mem) ∧
  (∀ (s u : State) (k : Nat) (i : LongInstr) (a b md : Tensor), k < 256 → s.starts k 3 0xC5 = some (u, i) →
    (u.coreDesc k (i.d 0)).resolve u.mem = a → (u.coreDesc k (i.d 1)).resolve u.mem = b → (u.coreDesc k (i.d 2)).resolve u.mem = md →
    i.fld 19 17 ≠ 4 → i.fld 21 20 = 0 → firstFail (u.tsparseChecks k i 0 true) = none →
    (∀ r ∈ a.rows, ∀ g ∈ rowGroups u.mem (patternOf (i.fld 19 17)) a r, (strictKept (patternOf (i.fld 19 17)).n g).isSome) →
    ∃ t, exec (.tsparseStrict k) s = .next t ∧ u.Begun t k i
      (b.rows.zip (a.rows.map fun r => keepBytes (fmtBits a.fmt / 8) (patternOf (i.fld 19 17)) (u.mem.bytes r a.rowLen)
          ((rowGroups u.mem (patternOf (i.fld 19 17)) a r).map fun g => (strictKept (patternOf (i.fld 19 17)).n g).getD [])) ++
        md.rows.zip (a.rows.map fun r => metaBytes (patternOf (i.fld 19 17)).bits md.rowLen
          ((rowGroups u.mem (patternOf (i.fld 19 17)) a r).map fun g =>
            codeOf (i.fld 19 17) ((strictKept (patternOf (i.fld 19 17)).n g).getD []))))) ∧
  (∀ (s u : State) (k : Nat) (i : LongInstr) (a b md : Tensor) (kept : List (List (List Nat))), k < 256 → s.starts k 3 0xC5 = some (u, i) →
    (u.coreDesc k (i.d 0)).resolve u.mem = a → (u.coreDesc k (i.d 1)).resolve u.mem = b → (u.coreDesc k (i.d 2)).resolve u.mem = md →
    i.fld 19 17 = 4 → i.fld 21 20 = 0 → firstFail (u.tsparseChecks k i 0 true) = none →
    (∀ r ∈ a.rows, ∀ g ∈ rowGroups u.mem (patternOf 4) a r, (strictKept (patternOf 4).n g).isSome) →
    (a.rows.map fun r => (rowGroups u.mem (patternOf 4) a r).map fun g => (strictKept (patternOf 4).n g).getD []) = kept →
    (∀ q ∈ List.range (a.rows.length / 4), ∀ g ∈ List.range (a.exts.headD 0 / 4), twiceKept kept q g = true) →
    ∃ t, exec (.tsparseStrict k) s = .next t ∧ u.Begun t k i
      (b.rows.zip ((a.rows.zip kept).map fun x => keepBytes (fmtBits a.fmt / 8) (patternOf 4) (u.mem.bytes x.1 a.rowLen) x.2) ++
        md.rows.zip (kept.map fun gs => metaBytes (patternOf 4).bits md.rowLen (gs.map (codeOf 4))))) ∧
  (∀ (s u : State) (k g : Nat) (i : LongInstr) (a : Tensor) (kept : List (List (List Nat))), k < 256 → s.starts k 3 0xC5 = some (u, i) →
    (u.coreDesc k (i.d 0)).resolve u.mem = a → i.fld 19 17 = 4 → i.fld 21 20 = 0 → firstFail (u.tsparseChecks k i 0 true) = none →
    (∀ r ∈ a.rows, ∀ g ∈ rowGroups u.mem (patternOf 4) a r, (strictKept (patternOf 4).n g).isSome) →
    (a.rows.map fun r => (rowGroups u.mem (patternOf 4) a r).map fun g => (strictKept (patternOf 4).n g).getD []) = kept →
    a.rows.length = 4 → (List.range (a.exts.headD 0 / 4)).find? (fun g => !twiceKept kept 0 g) = some g →
    ∃ t, exec (.tsparseStrict k) s = .next t ∧ t.TaskFailed k stStructure i (4 * g) ∧ t.mem = u.mem) ∧
  (∀ (s u : State) (k r : Nat) (i : LongInstr) (a b md : Tensor) (ks : List (List Nat)), k < 256 → s.starts k 3 0xC5 = some (u, i) →
    (u.coreDesc k (i.d 0)).resolve u.mem = a → (u.coreDesc k (i.d 1)).resolve u.mem = b → (u.coreDesc k (i.d 2)).resolve u.mem = md →
    i.fld 21 20 = 2 → firstFail (u.tsparseChecks k i 2 false) = none → a.rows = [r] →
    (lineKept (i.fld 19 17) (patternOf (i.fld 19 17)) (u.mem.bytes ((md.rows)[0]?.getD 0) md.rowLen)
      (a.exts.headD 0 / (patternOf (i.fld 19 17)).g)).toOption = some ks →
    ∃ t, exec (.tsparseMask k) s = .next t ∧ u.Begun t k i
      (b.rows.zip [keepBytes (fmtBits a.fmt / 8) (patternOf (i.fld 19 17)) (u.mem.bytes r a.rowLen) ks])) ∧
  (∀ (s u : State) (k : Nat) (i : LongInstr) (b : Tensor), k < 256 → s.starts k 3 0xC5 = some (u, i) → i.fld 21 20 = 3 →
    (u.coreDesc k (i.d 1)).resolve u.mem = b → firstFail (u.nzlistChecks k i) = none →
    u.emptyOf [u.coreDesc k (i.d 0), u.coreDesc k (i.d 1)] = false →
    ∃ t, exec (.tsparseNzlist k) s = .next t ∧ u.Begun t k i (b.placeWords (countedList (u.nzPositions k i) (b.exts.headD 0)))) ∧
  (∀ (s : State) (k : Nat), k < 256 → (s.core k).qVec = [] → (s.core k).qMat = [] →
    exec (.mma k) s = .next s ∧ exec (.mmaScreen k) s = .next s ∧ exec (.tcvt k) s = .next s ∧ exec (.tadd k) s = .next s ∧
    exec (.tmul k) s = .next s ∧ exec (.tred k) s = .next s ∧ exec (.tsparseStrict k) s = .next s ∧ exec (.tsparsePrune k) s = .next s ∧
    exec (.tsparseMask k) s = .next s ∧ exec (.tsparseNzlist k) s = .next s)

/-- R412, R419: a checked PLOAD loads its images into every core of the run; a checked TASK waits behind the tasks each core has, and an idle
core starts it at its bundle with cleared counters; the commit, once every core is done, ends it with the status of its failing core of
lowest index, and leaves the outputs of a task that failed undefined (R418). That a reading of the list or the images beyond their bounds
ends as it does, and that outputs are undefined only after a failure, is the model's reading (notes/assumptions/43.md). -/
def Obligations.TasksOnCores : Prop :=
  (∀ (s u : State) (c : Cmd), s.begins 1 1 = some (u, c) → firstFail (u.ploadChecks c) = none →
    ∃ t, exec .pload s = .next t ∧
      (∀ k ∈ c.cores, t.core k = (u.core k).load (u.mem.bytes c.arg c.images.1) (u.mem.bytes c.arg2 c.images.2)) ∧
      (∀ k, k ∉ c.cores → t.core k = s.core k) ∧ (t.engRegs c.engine).lastStatus = 0 ∧ (∀ a, c.spares a → t.mem.byte a = s.mem.byte a)) ∧
  (∀ (s u : State) (c : Cmd) (st d : Nat), s.begins 1 1 = some (u, c) → firstFail (u.ploadChecks c) = some (st, d) →
    ∃ t, exec .pload s = .next t ∧ t.cores = s.cores ∧ (t.engRegs c.engine).lastStatus = st ∧ OnlyCommands s t) ∧
  (∀ (s u : State) (c : Cmd), s.begins 1 2 = some (u, c) → firstFail (u.taskChecks c) = none →
    ∃ t, exec .task s = .next t ∧ (∀ k ∈ c.cores, (t.core k).tasks = (s.core k).tasks ++ [c]) ∧
      (∀ k ∈ c.cores, (s.core k).run = .idle → (s.core k).tasks = [] → (t.core k).run = .issuing ∧
        (t.core k).pc = field c.imm.toNat 43 32 ∧ (t.core k).cnt = [] ∧ (t.core k).flags = 0 ∧ (t.core k).job = c.job) ∧
      (∀ k ∈ c.cores, (s.core k).run ≠ .idle → t.core k = { s.core k with tasks := (t.core k).tasks }) ∧
      (∀ k, k ∉ c.cores → t.core k = s.core k) ∧ t.live.length = u.live.length + 1 ∧ t = { u with cores := t.cores, live := t.live }) ∧
  (∀ (s u : State) (c : Cmd) (st d : Nat), s.begins 1 2 = some (u, c) → firstFail (u.taskChecks c) = some (st, d) →
    ∃ t, exec .task s = .next t ∧ t.cores = s.cores ∧ (t.engRegs c.engine).lastStatus = st ∧ OnlyCommands s t ∧
      (∀ a, u.leaves c a → t.mem.byte a = s.mem.byte a)) ∧
  (∀ (s : State) (k : Nat) (c : Cmd) (r : List Cmd), k < 256 → (s.core k).tasks = c :: r → c.cores.all (s.coreDone c) = true →
    c.cores.find? (fun i => (s.core i).faultStatus != 0) = none →
    ∃ t, exec (.taskCommit k) s = .next t ∧ (∀ i ∈ c.cores, (t.core i).tasks = (s.core i).tasks.tail) ∧
      (t.engRegs c.engine).lastStatus = 0 ∧ (∀ a, c.spares a → t.mem.byte a = s.mem.byte a)) ∧
  (∀ (s : State) (k i : Nat) (c : Cmd) (r : List Cmd), k < 256 → (s.core k).tasks = c :: r → c.cores.all (s.coreDone c) = true →
    c.cores.find? (fun i => (s.core i).faultStatus != 0) = some i →
    ∃ t, exec (.taskCommit k) s = .next t ∧ (t.engRegs c.engine).failStatus = (s.core i).faultStatus ∧
      (t.engRegs c.engine).failDetail = (s.core i).faultDetail ∧
      (∀ a, s.leaves c a → t.mem.byte a = s.mem.byte a)) ∧
  (∀ (s : State) (k : Nat), k < 256 → (s.core k).tasks = [] → exec (.taskCommit k) s = .next s)

/-- R410, R411, R125: the counter commands of engine 0 set or add to a target, a step or a counter of their own job slot, modulo 2^48; a
counter set in an engine cycle is set before that cycle's increments, and reads in the cycle return what it was before; an index of 32 or
more ends with BAD_OPCODE and changes nothing; the signal of a command whose record goes to another device is not among them yet (R437).
That an index of 32 or more is BAD_OPCODE, and that CSETs come before increments, is the model's reading (notes/assumptions/43.md). R420
to R422: SAVE and RESTORE copy the listed ranges and touch no other byte; PREEMPT, RESUME and KILL do to a job's queued and running
commands what R420 says. The model's reading: the status of a SAVE that fails and the cleared wait of a requeued command
(notes/assumptions/43.md), and the commands that run while a job is preempted (notes/assumptions/36.md). -/
def Obligations.CountersAndPreemption : Prop :=
  (∀ (s u : State) (c : Cmd) (i : Nat) (v : BitVec 48), s.begins 0 1 = some (u, c) → c.counter = (i, v) → i < 32 →
    ∃ t, exec .jobArm s = .next t ∧ (t.slot c.job).tgt = tset 0 (u.slot c.job).tgt i v ∧ tget 0 (t.slot c.job).tgt i = v ∧
      (∀ j, j ≠ c.job → t.slot j = s.slot j) ∧ (t.engRegs c.engine).lastStatus = 0 ∧ OnlyCommands s t) ∧
  (∀ (s u : State) (c : Cmd) (i : Nat) (v : BitVec 48), s.begins 0 2 = some (u, c) → c.counter = (i, v) → i < 32 →
    ∃ t, exec .jobArmadd s = .next t ∧ tget 0 (t.slot c.job).tgt i = tget 0 (u.slot c.job).tgt i + v ∧
      (∀ n, n ≠ i → tget 0 (t.slot c.job).tgt n = tget 0 (u.slot c.job).tgt n) ∧ (t.engRegs c.engine).lastStatus = 0 ∧ OnlyCommands s t) ∧
  (∀ (s u : State) (c : Cmd) (i : Nat) (v : BitVec 48), s.begins 0 3 = some (u, c) → c.counter = (i, v) → i < 32 →
    ∃ t, exec .jobStep s = .next t ∧ (t.slot c.job).stp = tset 0 (s.slot c.job).stp i v ∧ tget 0 (t.slot c.job).stp i = v ∧
      (t.engRegs c.engine).lastStatus = 0 ∧ OnlyCommands s t) ∧
  (∀ (s u : State) (c : Cmd) (i : Nat) (v : BitVec 48) (x : JobSlot), s.begins 0 4 = some (u, c) → c.counter = (i, v) → i < 32 →
    (s.slot c.job).inCycle s.engCycle = x →
    ∃ t, exec .jobCset s = .next t ∧ (t.slot c.job).csets = tset none x.csets i (some v) ∧
      (t.slot c.job).incs = (match (if u.remoteCompl c then none else sigCounter c.signal) with | some k => bump x.incs k | none => x.incs) ∧ (t.slot c.job).cnt = x.cnt ∧
      (t.slot c.job).cntAt = s.engCycle ∧ (t.engRegs c.engine).lastStatus = 0 ∧ OnlyCommands s t) ∧
  (∀ (s u : State) (c : Cmd) (i : Nat) (v : BitVec 48) (x : JobSlot), s.begins 0 5 = some (u, c) → c.counter = (i, v) → i < 32 →
    (s.slot c.job).inCycle s.engCycle = x →
    ∃ t, exec .jobCinc s = .next t ∧ (t.slot c.job).incs = (match (if u.remoteCompl c then none else sigCounter c.signal) with
        | some k => bump (tmod 0 x.incs i (· + v)) k | none => tmod 0 x.incs i (· + v)) ∧ (t.slot c.job).csets = x.csets ∧
      (t.slot c.job).cnt = x.cnt ∧ (t.slot c.job).cntAt = s.engCycle ∧ (t.engRegs c.engine).lastStatus = 0 ∧ OnlyCommands s t) ∧
  (∀ (x : JobSlot) (i e : Nat) (v n : BitVec 48), x.csets = [(i, some v)] → x.incs = [(i, n)] → x.cntAt = e →
    x.cntIn e = x.cnt ∧ tget 0 (x.cntIn (e + 1)) i = v + n ∧ (x.inCycle (e + 1)).cnt = x.cntIn (e + 1) ∧
      (∀ k, k ≠ i → tget 0 (x.cntIn (e + 1)) k = tget 0 x.cnt k)) ∧
  (∀ (s u : State) (c : Cmd), s.begins 0 4 = some (u, c) → 32 ≤ c.counter.1 →
    ∃ t, exec .jobCset s = .next t ∧ (t.slot c.job).tgt = (u.slot c.job).tgt ∧ (t.engRegs c.engine).lastStatus = stBadOpcode ∧
      OnlyCommands s t) ∧
  (∀ (s u : State) (c : Cmd), s.begins 0 0x10 = some (u, c) →
    firstFail (u.saveChecks c ++ [need ((u.saveList c).all fun e => !u.hasBad e.1 e.2) stEccUncorr 0]) = none →
    ∃ t, exec .save s = .next t ∧ (t.engRegs c.engine).lastStatus = 0 ∧
      (∀ a, c.spares a → t.mem.byte a = (u.storeAll (u.saveWrites c)).mem.byte a) ∧
      (∀ a, c.spares a → (∀ w ∈ u.saveWrites c, a < w.1 ∨ w.1 + w.2.length ≤ a) → t.mem.byte a = s.mem.byte a)) ∧
  (∀ (s u : State) (c : Cmd), s.begins 0 0x11 = some (u, c) →
    firstFail (u.saveChecks c ++ [need (((packed c.arg2 (u.saveList c)).zip (u.saveList c)).all fun x => !u.hasBad x.1 x.2.2) stEccUncorr 0]) = none →
    ∃ t, exec .restore s = .next t ∧ (t.engRegs c.engine).lastStatus = 0 ∧
      (∀ a, c.spares a → t.mem.byte a = (u.storeAll (u.restoreWrites c)).mem.byte a) ∧
      (∀ a, c.spares a → (∀ w ∈ u.restoreWrites c, a < w.1 ∨ w.1 + w.2.length ≤ a) → t.mem.byte a = s.mem.byte a)) ∧
  (∀ (s u : State) (c : Cmd) (st d : Nat), s.begins 0 0x10 = some (u, c) → firstFail (u.saveChecks c) = some (st, d) →
    ∃ t, exec .save s = .next t ∧ (t.engRegs c.engine).lastStatus = st ∧ (∀ a, c.spares a → t.mem.byte a = s.mem.byte a)) ∧
  (∀ (s : State) (j : Nat), j < 8 → (s.slot j).state = 1 → (∀ l ∈ s.live, l.cmd.job ≠ j) → s.pfx.loads = [] →
    ∃ t, exec (.preempt j) s = .next t ∧ (t.slot j).state = 3 ∧ (∀ i, i ≠ j → t.slot i = s.slot i) ∧ t = { s with jobs := t.jobs }) ∧
  (∀ (s : State) (j : Nat) (l : Live), j < 8 → (s.slot j).state = 1 → s.live = [l] → l.cmd.job = j → l.cmd.engine = 7 →
    l.restartable = true → s.pfx.loads = [] →
    ∃ t, exec (.preempt j) s = .next t ∧ (t.slot j).state = 3 ∧ t.queue 7 j = { l.cmd with wait := 0 } :: s.queue 7 j ∧ t.live = [] ∧
      t = { s with jobs := t.jobs, queues := t.queues, pass := t.pass, live := t.live }) ∧
  (∀ (s : State) (j : Nat) (l : Live), j < 8 → (s.slot j).state = 1 → s.live = [l] → l.cmd.job = j → l.restartable = false →
    ∃ t, exec (.preempt j) s = .next t ∧ (t.slot j).state = 2 ∧ t = { s with jobs := t.jobs }) ∧
  (∀ (s : State) (j : Nat), j < 8 → (s.slot j).state = 2 ∨ (s.slot j).state = 3 →
    ∃ t, exec (.resume j) s = .next t ∧ (t.slot j).state = 1 ∧ t = { s with jobs := t.jobs }) ∧
  (∀ (s : State) (j : Nat) (c : Cmd), j < 8 → s.hasJob j = true → (∀ l ∈ s.live, l.cmd.job ≠ j) → c.job = j →
    ((List.range 11).flatMap fun e => s.queue e j) = [c] →
    ∃ t, exec (.kill j) s = .next t ∧ (∀ e, e < 11 → t.queue e j = []) ∧ (t.engRegs c.engine).lastStatus = stKilled ∧
      (t.slot j).lastFail = stKilled ∧ (t.slot j).fails = satAdd 32 (s.slot j).fails 1 ∧
      (s.remoteCompl c = false → ∀ r ∈ t.fab.toSend, (s.slot j).provisional = true → r ∈ s.fab.toSend → r.isWrite = true → r.jobSlot ≠ j) ∧
      ((s.slot j).provisional = false → t.cores = s.cores) ∧ OnlyCommands { s with cores := t.cores, str := { s.str with cntCmd := t.str.cntCmd } } t) ∧
  (∀ (s : State) (j : Nat), j < 8 → (s.slot j).state = 0 → s.hasJob j = false →
    exec (.preempt j) s = .next s ∧ exec (.resume j) s = .next s ∧ exec (.kill j) s = .next s)

/-- R348, R423, R425: a drained job in teardown has its windows zeroed or given to a fill, and its directory and prefix entries freed; it is
torn down when its fills are done; a scrubbed core reads zero, and a completed fill reads zero and leaves every other byte. Which windows
are zeroed when is the model's reading (notes/assumptions/43.md). -/
def Obligations.Teardown : Prop :=
  (∀ (s : State) (j : Nat), j < 8 → (s.slot j).state = 4 → s.drained j = true →
    ∃ t, exec (.teardownDrainDone j) s = .next t ∧ (t.slot j).state = 5 ∧
      (∀ w ∈ s.jobWindows j, ssramBase ≤ w.base → ∀ a, w.base ≤ a → a < w.base + w.len → t.mem.byte a = 0) ∧
      (∀ w ∈ s.jobWindows j, w.base < ssramBase → w.len ≠ 0 → { base := w.base, len := w.len, job := some j } ∈ t.scrubs) ∧
      (∀ e ∈ t.pfx.table, ¬(e.2.valid = true ∧ e.2.job = j)) ∧
      t = { s with mem := t.mem, scrubs := t.scrubs, pools := t.pools, urn := t.urn, str := t.str, pfx := t.pfx, jobs := t.jobs, log := t.log }) ∧
  (∀ (s : State) (j : Nat), j < 8 → (s.slot j).state = 4 → s.drained j = false → exec (.teardownDrainDone j) s = .next s) ∧
  (∀ (s : State) (j : Nat), j < 8 → (s.slot j).state = 5 → s.scrubs.all (fun x => x.job != some j) = true →
    ∃ t, exec (.teardownScrubDone j) s = .next t ∧ (t.slot j).state = 6 ∧ (∀ i, i ≠ j → t.slot i = s.slot i) ∧ t = { s with jobs := t.jobs }) ∧
  (∀ (s : State) (j : Nat), j < 8 → (s.slot j).state ≠ 5 → exec (.teardownScrubDone j) s = .next s) ∧
  (∀ (s : State) (k : Nat), k < 256 → (s.core k).scrubbing = true →
    ∃ t, exec (.coreScrubDone k) s = .next t ∧ (∀ r, (t.core k).sreg r = 0) ∧ (∀ r, (t.core k).vreg r = 0) ∧
      (∀ a, a < padSize → t.mem.byte (padBase + k * padSize + a) = 0) ∧
      (∀ a, a < padBase + k * padSize ∨ padBase + (k + 1) * padSize ≤ a → t.mem.byte a = s.mem.byte a) ∧
      t.core k = { s.core k with scrubbing := false, s := [], v := [], dmem := [], imem := [], padWrites := [] } ∧
      t = { s with mem := t.mem, cores := t.cores, log := t.log }) ∧
  (∀ (s : State) (k : Nat), k < 256 → (s.core k).scrubbing = false → exec (.coreScrubDone k) s = .next s) ∧
  (∀ (s : State) (x : Scrub) (r : List Scrub), s.scrubs = x :: r →
    ∃ t, exec .scrubFillDone s = .next t ∧ t.scrubs = r ∧ (∀ a, x.base ≤ a → a < x.base + x.len → t.mem.byte a = 0) ∧
      (∀ a, a < x.base ∨ x.base + x.len ≤ a → t.mem.byte a = s.mem.byte a) ∧
      t = { s with mem := t.mem, scrubs := t.scrubs, log := t.log }) ∧
  (∀ s : State, s.scrubs = [] → exec .scrubFillDone s = .next s)

/-- R271, R275, R279, R283 to R286: a flit passes its check when its FEC decodes and its tag is that of its direction's key and position. An
arbitrated flit in sequence is acknowledged, and a request for this device waits at its destination; a gap and a failed check are refused,
a failed VC1 flit leaves a hole at the slot it was sent in, and a stream flit for this device is kept for its job; a VC that the type does
not allow is counted. The slot a VC1 flit counts for is the model's reading (notes/assumptions/38.md). -/
def Obligations.FlitsReceived : Prop :=
  (∀ (s : State) (p n m ps : Nat) (f : Flit), p < 12 → s.portUp p = true → (s.port p).verifies f m = true → f.typ = 0x10 → f.vc = 2 ∨ f.vc = 3 →
    f.seq = (s.port p).rxLseq → s.neighbourOnly = false → s.hopAction f = .deliver → f.dst = 0xFFFF ∨ f.dst = s.fab.fabId →
    ∃ t, exec (.flitReceive p f true n m ps) s = .next t ∧ (t.port p).rxLseq = (s.port p).rxLseq + 1 ∧ (t.port p).ack = some f.seq ∧
      (t.port p).rxPos = max (s.port p).rxPos (m + 1) ∧
      (t.port p).nak = none ∧ (t.port p).cntRx = (s.port p).cntRx + 1 ∧
      (t.port p).cntFec = (s.port p).cntFec + n ∧ tget 0 (t.port p).occ f.vc.toNat = tget 0 (s.port p).occ f.vc.toNat + 1 ∧
      t.fab = { s.fab with ingress := t.fab.ingress } ∧ t.fab.ingress = insertBy InReq.before
        ({ src := f.src.toNat, port := p, vc := f.vc.toNat, req := parseReq f.payload, cycle := s.engCycle } : InReq) s.fab.ingress ∧
      (∀ q, q ≠ p → t.port q = s.port q) ∧ t = { s with ports := t.ports, fab := t.fab }) ∧
  (∀ (s : State) (p n m ps : Nat) (f : Flit), p < 12 → s.portUp p = true → (s.port p).verifies f m = true → f.typ ≠ 0 → f.typ ≠ 1 → f.vc ≠ 1 →
    f.seq ≠ (s.port p).rxLseq → (f.seq - (s.port p).rxLseq).toNat < 2048 → (s.port p).nak = none →
    ∃ t, exec (.flitReceive p f true n m ps) s = .next t ∧ (t.port p).nak = some (s.port p).rxLseq ∧
      (t.port p).lctlNew = true ∧ (t.port p).rxLseq = (s.port p).rxLseq ∧ t = { s with ports := t.ports }) ∧
  (∀ (s : State) (p n m ps : Nat) (f : Flit) (ok : Bool), p < 12 → s.portUp p = true → (ok && (s.port p).verifies f m) = false → f.typ ≠ 0 →
    f.typ ≠ 1 → f.vc ≠ 1 → (s.port p).nak = none →
    ∃ t, exec (.flitReceive p f ok n m ps) s = .next t ∧ (t.port p).nak = some (s.port p).rxLseq ∧
      (t.port p).lctlNew = true ∧ (t.port p).cntCheck = (s.port p).cntCheck + 1 ∧ (t.port p).seqFails = (s.port p).seqFails + 1 ∧
      ((s.port p).seqFails = 3 → (t.port p).fourFails = true) ∧ t = { s with ports := t.ports }) ∧
  (∀ (s : State) (p n m ps : Nat) (f : Flit) (ok : Bool) (h : Nat × Nat), p < 12 → s.portUp p = true → (ok && (s.port p).verifies f m) = false →
    f.vc = 1 → (s.port p).vc1Place f (s.sentSlot p ps) ps = h → (f.retry = false → h = (s.sentSlot p ps, ps)) → h ∉ (s.port p).holes →
    ∃ t, exec (.flitReceive p f ok n m ps) s = .next t ∧ (t.port p).holes = (s.port p).holes ++ [h] ∧ (t.port p).lctlNew = true ∧
      (t.port p).cntCheck = (s.port p).cntCheck + 1 ∧ (t.port p).nak = (s.port p).nak ∧ t = { s with ports := t.ports }) ∧
  (∀ (s : State) (p n m sl ps at' j : Nat) (f : Flit), p < 12 → s.portUp p = true → (s.port p).verifies f m = true → f.vc = 1 → f.typ = 8 →
    (s.port p).vc1Place f (s.sentSlot p ps) ps = (sl, at') → (f.retry = false → sl = s.sentSlot p ps ∧ at' = ps) → s.slotOwner p sl = some j → s.neighbourOnly = false → s.hopAction f = .deliver → f.dst = 0xFFFF ∨ f.dst = s.fab.fabId →
    ∃ t, exec (.flitReceive p f true n m ps) s = .next t ∧
      t.spt.rx = s.spt.rx ++ [{ src := f.src, port := p, job := j, key := sl * 128 + at', payload := f.payload }] ∧
      t.fab = s.fab ∧ t = { s with ports := t.ports, spt := t.spt }) ∧
  (∀ (s : State) (p n m ps : Nat) (f : Flit), p < 12 → s.portUp p = true → (s.port p).verifies f m = true → f.typ = 0x10 → f.vc = 2 ∨ f.vc = 3 →
    f.seq = (s.port p).rxLseq → s.neighbourOnly = false → s.hopAction f = .dead →
    ∃ t, exec (.flitReceive p f true n m ps) s = .next t ∧ t.fab.cntRouteDead = s.fab.cntRouteDead + 1 ∧
      t.fab.errRsps = s.fab.errRsps ++ [{ status := stRouteDead, dst := f.src.toNat, head := f.payload.take 32, foundAt := s.boot.sincePwrOk }] ∧
      t.fab.ingress = s.fab.ingress ∧ t = { s with ports := t.ports, fab := t.fab }) ∧
  (∀ (s : State) (p n m ps : Nat) (f : Flit) (ok : Bool), p < 12 → s.portUp p = false → exec (.flitReceive p f ok n m ps) s = .next s) ∧
  (∀ (s : State) (p n m ps : Nat) (f : Flit), p < 12 → s.portUp p = true → (s.port p).verifies f m = true → f.typ.toNat ≤ 1 → f.vc ≠ 0 →
    ∃ t, exec (.flitReceive p f true n m ps) s = .next t ∧ t.fab = { s.fab with cntMisroute := s.fab.cntMisroute + 1 } ∧
      (t.port p).credits = (s.port p).credits ∧ (t.port p).unacked = (s.port p).unacked ∧ t = { s with ports := t.ports, fab := t.fab })

/-- R279, R282 to R285, R289: an LCTL that is due takes a position and carries the acknowledgement, the refusal, the buffers freed and up to
16 holes; at its receiver it frees acknowledged flits, adds credits and names the flit from which refused ones leave again, one in a
position; a retry leaves in a position of the repair slot; a port that goes down holds and queues nothing. How holes and retries of VC1
lie in an LCTL is the model's reading (notes/assumptions/38.md). R289, R290: an ERR_RSP, from 8 ns after its fault, for this device is its
response, one without a route is counted; a congestion report restarts the counters of every port and is dropped, and counted, where no
route or credit is there; one leaves in a period. -/
def Obligations.LinkControlAndReports : Prop :=
  (∀ (s : State) (p : Nat), p < 12 → s.positionOpen p = true → s.lctlDue p = true → s.withinLimit p 0 = true →
    ∃ t, exec (.lctlSend p) s = .next t ∧ t.out = s.out ++ [s.flitOut p { s.lctlFlit p with
        payload := padTo 240 (lctlBytes ⟨(s.port p).ack, (s.port p).nak,
          (List.range 8).map (fun v => if v = 1 then 0 else tget 0 (s.port p).freed v),
          ((s.port p).holes.take 16).map fun h => (h.1 % 2 ^ 20, h.2)⟩) }] ∧
      (s.lctlFlit p).typ = 0x01 ∧ (s.lctlFlit p).vc = 0 ∧
      (t.port p).cntTx = (s.port p).cntTx + 1 ∧ (t.port p).arbSinceLctl = 0 ∧ (t.port p).lctlNew = false ∧ t.positionOpen p = false ∧ t = { s with ports := t.ports, out := t.out }) ∧
  (∀ (s : State) (p : Nat), p < 12 → s.lctlDue p = false → exec (.lctlSend p) s = .next s) ∧
  (∀ (s : State) (p i : Nat) (m : Lctl) (a : BitVec 12), p < 12 → s.portUp p = true → m.ack = some a → m.nak = none →
    (s.port p).unacked.findIdx? (fun f => f.seq == a) = some i →
    ∃ t, exec (.lctlReceive p m) s = .next t ∧ (t.port p).unacked = (s.port p).unacked.drop (i + 1) ∧
      (∀ v, v < 8 → v ≠ 1 → (t.port p).credit v =
        min (vcBuffers v) ((s.port p).credit v + (m.freed.getD v 0 - tget 0 (s.port p).peerFreed v).toNat)) ∧
      (t.port p).cntRx = (s.port p).cntRx + 1 ∧ (t.port p).lastGood = s.boot.sincePwrOk ∧ t = { s with ports := t.ports }) ∧
  (∀ (s : State) (p : Nat) (m : Lctl) (n : BitVec 12), p < 12 → s.portUp p = true → m.ack = none → m.nak = some n →
    ∃ t, exec (.lctlReceive p m) s = .next t ∧ (t.port p).resendAt = some n ∧ (t.port p).unacked = (s.port p).unacked ∧
      t = { s with ports := t.ports }) ∧
  (∀ (s : State) (p i : Nat) (n : BitVec 12) (f : Flit), p < 12 → s.positionOpen p = true → s.nextSource p (s.retryWaits p) = some .again →
    (s.port p).resendAt = some n → (s.port p).unacked.findIdx? (fun f => f.seq == n) = some i → (s.port p).unacked[i]? = some f → f.typ ≠ 0x04 →
    (s.fillPosition p).out = s.out ++ [s.flitOut p f] ∧ ((s.fillPosition p).port p).unacked = (s.port p).unacked ∧
      ((s.fillPosition p).port p).resendAt = ((s.port p).unacked[i + 1]?).map (·.seq) ∧
      ((s.fillPosition p).port p).cntRetryArb = (s.port p).cntRetryArb + 1 ∧
      s.fillPosition p = { s with ports := (s.fillPosition p).ports, out := (s.fillPosition p).out }) ∧
  (∀ (s : State) (p : Nat) (k : KeptFlit) (r : List KeptFlit), p < 12 → s.positionOpen p = true →
    s.nextSource p (s.retryWaits p) = some .vc1Retry → (s.port p).retries s.now = k :: r →
    ∃ t, exec (.vc1RetrySend p k.slot k.pos) s = .next t ∧ t.out = s.out ++
        [s.flitOut p { k.flit with retry := true, seq := BitVec.ofNat 12 (k.slot % 16 * 128 + k.pos) }] ∧
      (k.slot, k.pos) ∉ (t.port p).retry ∧ (t.port p).cntRetrySched = (s.port p).cntRetrySched + 1 ∧
      t = { s with ports := t.ports, out := t.out }) ∧
  (∀ (s : State) (p sl ps : Nat), p < 12 → s.now / slotLen % 16 ≠ 15 → exec (.vc1RetrySend p sl ps) s = .next s) ∧
  (∀ (s : State) (p c : Nat), p < 12 → s.portUp p = true → 1 ≤ c → c ≤ 4 → s.downCond p c = true →
    ∃ t, exec (.portDown p c) s = .next t ∧ (t.port p).state = 1 ∧ (t.port p).tstep = 1 ∧ (t.port p).txq = [] ∧
      (t.port p).unacked = [] ∧ (t.port p).kept = [] ∧ (t.port p).evt.getLsbD 0 = true ∧ t.mem = s.mem ∧ t.jobs = s.jobs) ∧
  (∀ (s : State) (p : Nat) (m : Lctl) (c : Nat), p < 12 → s.portUp p = false →
    exec (.lctlSend p) s = .next s ∧ exec (.lctlReceive p m) s = .next s ∧ exec (.portDown p c) s = .next s) ∧
  (∀ (s : State) (p : Nat), p < 12 → s.portUp p = true → s.portSeated p = false →
    ∃ t, exec (.portDown p 5) s = .next t ∧ (t.port p).state = 0 ∧ (t.port p).txq = [] ∧ (t.port p).unacked = [] ∧
      (t.port p).evt.getLsbD 0 = true ∧ t.mem = s.mem) ∧
  (∀ (s : State) (p c : Nat), p < 12 → s.downCond p c = false → exec (.portDown p c) s = .next s) ∧
  (∀ (s : State) (p : Nat), p < 12 → (s.downCond p 2 = (s.port p).fourFails) ∧
    (s.downCond p 3 = decide (256 < (s.port p).failTimes.length)) ∧
    (s.downCond p 4 = decide ((s.port p).lastGood + 10000 ≤ s.boot.sincePwrOk)) ∧ (s.downCond p 5 = !s.portSeated p) ∧
    (s.downCond p 6 = tget false s.pwr.cableOff (p / 3))) ∧
  (∀ (s : State) (e : ErrRsp) (r : List ErrRsp), s.fab.errRsps = e :: r → e.foundAt + 8 ≤ s.boot.sincePwrOk → e.dst = s.devId →
    ∃ t, exec .errRspSend s = .next t ∧ t.fab.errRsps = r ∧ t.fab.responses.length = s.fab.responses.length + 1 ∧
      (∃ x, t.fab.responses.getLast? = some x ∧ x.err = true ∧ x.status = e.status ∧ x.tag = leAt e.head 6 2) ∧
      t = { s with fab := t.fab }) ∧
  (∀ (s : State) (e : ErrRsp) (r : List ErrRsp), s.fab.errRsps = e :: r → e.foundAt + 8 ≤ s.boot.sincePwrOk → e.dst ≠ s.devId →
    s.chooseRoute e.dst 4 (flowKey (leAt e.head 8 8)) = none →
    ∃ t, exec .errRspSend s = .next t ∧ t = { s with fab := { s.fab with errRsps := r, cntErrNoPath := s.fab.cntErrNoPath + 1 } }) ∧
  (∀ (s : State) (e : ErrRsp) (r : List ErrRsp), s.fab.errRsps = e :: r → s.boot.sincePwrOk < e.foundAt + 8 →
    exec .errRspSend s = .next s) ∧
  (∀ s : State, s.fab.errRsps = [] → exec .errRspSend s = .next s) ∧
  (∀ (s : State) (n : Nat), field (s.st 0x2F0010) 31 16 = n → n ≠ 0 → s.counting = true → s.now % (n * frameLen) = 0 → s.fab.congAt ≠ some s.now →
    s.chooseRoute (field (s.st 0x2F0010) 15 0) 6 0 = none →
    ∃ t, exec .congReportSend s = .next t ∧ t.fab = { s.fab with congAt := some s.now, congSeq := s.fab.congSeq + 1, cntCongDrop := s.fab.cntCongDrop + 1 } ∧
      (∀ p, p < 12 → t.port p = (s.port p).congRestart) ∧ t = { s with ports := t.ports, fab := t.fab }) ∧
  (∀ (s : State) (n : Nat) (r : BitVec 32) (h : HopEntry), field (s.st 0x2F0010) 31 16 = n → n ≠ 0 → s.counting = true →
    s.now % (n * frameLen) = 0 → s.fab.congAt ≠ some s.now → s.chooseRoute (field (s.st 0x2F0010) 15 0) 6 0 = some r → s.routeAllowed r 6 = true → s.firstHop r = some h →
    (s.port h.phys).credit 6 ≠ 0 →
    ∃ t, exec .congReportSend s = .next t ∧ t.fab = { s.fab with congAt := some s.now, congSeq := s.fab.congSeq + 1 } ∧
      t = { s with ports := t.ports, fab := t.fab }) ∧
  (∀ s : State, field (s.st 0x2F0010) 31 16 = 0 ∨ s.fab.congAt = some s.now → exec .congReportSend s = .next s)

/-- R464: a sample, one in a µs, takes its power into the averages and the energy, and S and B are those of the control law over W, the draw
less the ballast applied since the last sample; R467: a draw above a ceiling with no ballast begins an overdraw; R466: a ramp whose UNTIL
has come is over. How ballast is spread over the arrays is the model's choice (notes/assumptions/34.md). R420, R467, R468: an overdraw
that has held for 1 ms kills every job and counts, and a reading at TRIP kills them: a queued command of a job ends with KILLED, and so
does a running one that can be stopped; at SHUTDOWN a reading opens the input, at WARN it takes the ballast away; TRIP clears one second
after the last sensor fell below its WARN. -/
def Obligations.KettleControlAndHeat : Prop :=
  (∀ (s : State) (v i : Nat) (o : ControlOut), s.pwr.pwrOk = true → s.ktl.stepAt ≠ some (s.boot.sincePwrOk / 1000) →
    controlStep (4 * v * i - s.ktl.applied s.boot.sincePwrOk) s.ktl.sPrev (s.envNow.floor * 1000000) (s.envNow.slewUp * 100000) (s.envNow.slewDn * 100000)
      ((min (min (s.envNow.ceil1ms * 1000000) (s.envNow.ceil1s * 1000000)) (90000 * v) : Nat) : Int) s.rampUp s.rampDown s.ballastCap = o →
    o.b ≠ 0 →
    ∃ t, exec (.kettleControlStep v i) s = .next t ∧ t.ktl.sPrev = o.s ∧ t.ktl.ballast = o.b ∧
      t.ktl.stepAt = some (s.boot.sincePwrOk / 1000) ∧ t.ktl.draws = (4 * v * i :: s.ktl.draws).take 1000000 ∧ t.ktl.energy = s.ktl.energy + 4 * v * i ∧ t.ktl.sampleTick = s.now ∧
      t.ktl.overdrawSince = none ∧ t.ktl.cntSlew = s.ktl.cntSlew + (if o.excess then 1 else 0) ∧
      (o.excess = true → t.ktl.evt.getLsbD 2 = true) ∧ t = { s with ktl := t.ktl }) ∧
  (∀ (s : State) (v i : Nat), s.pwr.pwrOk = true → s.ktl.stepAt ≠ some (s.boot.sincePwrOk / 1000) → s.ballastCap = 0 → s.ktl.draws = [] →
    s.ktl.overdrawSince = none → min (s.envNow.ceil1ms * 1000000) (90000 * v) < 4 * v * i →
    ∃ t, exec (.kettleControlStep v i) s = .next t ∧ t.ktl.ballast = 0 ∧ t.ktl.overdrawSince = some s.boot.sincePwrOk ∧
      t.ktl.evt.getLsbD 0 = true ∧ t.mem = s.mem ∧ t.jobs = s.jobs) ∧
  (∀ w p f u d l a b c : Int, 0 ≤ c →
    w ≤ (controlStep w p f u d l a b c).s ∧ (controlStep w p f u d l a b c).b ≤ c ∧
    (l < w → (controlStep w p f u d l a b c).s = w ∧ (controlStep w p f u d l a b c).b = 0) ∧
    (w ≤ l → w ≤ p + u → (controlStep w p f u d l a b c).s ≤ min l (p + u))) ∧
  (∀ (s : State) (v i : Nat), s.pwr.pwrOk = false ∨ s.ktl.stepAt = some (s.boot.sincePwrOk / 1000) → exec (.kettleControlStep v i) s = .next s) ∧
  (∀ (s : State) (n : Nat), n < 16 →
    ∃ t, exec (.rampUntil n) s = .next t ∧
      t.ktl.ramps = s.ktl.ramps.map (fun r => if r.entry.timer = n ∧ r.entry.kind = 0 ∧ r.entry.until' ≤ s.now then { r with levelOver := true } else r) ∧
      t = { s with ktl := t.ktl }) ∧
  (∀ (s : State) (n : Nat), s.ktl.overdrawSince = some n → n + 1000000 ≤ s.boot.sincePwrOk → (∀ j, j < 8 → s.hasJob j = false) →
    ∃ t, exec .overdrawKill s = .next t ∧ t.ktl.cntKill = s.ktl.cntKill + 1 ∧ t.ktl.overdrawSince = none ∧ t.ktl.evt.getLsbD 1 = true ∧
      (∀ r ∈ t.ktl.ramps, r.levelOver = true) ∧ t.log.offered.length = s.log.offered.length + 1 ∧
      t = { s with ktl := t.ktl, log := t.log, out := t.out }) ∧
  (∀ (s : State) (n j : Nat) (c : Cmd), s.ktl.overdrawSince = some n → n + 1000000 ≤ s.boot.sincePwrOk → j < 8 → s.hasJob j = true →
    (∀ i, i < 8 → i ≠ j → s.hasJob i = false) → s.live = [] → c.job = j → ((List.range 11).flatMap fun e => s.queue e j) = [c] →
    (∀ i, i < 8 → i ≠ j → ∀ e, e < 11 → s.queue e i = []) →
    ∃ t, exec .overdrawKill s = .next t ∧ (∀ e, e < 11 → t.queue e j = []) ∧ (t.engRegs c.engine).lastStatus = 0x51 ∧
      (t.slot j).lastFail = 0x51 ∧ (t.slot j).fails = satAdd 32 (s.slot j).fails 1 ∧ t.ktl.cntKill = s.ktl.cntKill + 1 ∧
      t.ktl.overdrawSince = none ∧ t.ktl.evt.getLsbD 1 = true ∧ (∀ r ∈ t.ktl.ramps, r.levelOver = true) ∧
      (∀ a, s.leaves c a → t.mem.byte a = s.mem.byte a)) ∧
  (∀ (s : State) (n j : Nat) (l : Live), s.ktl.overdrawSince = some n → n + 1000000 ≤ s.boot.sincePwrOk → j < 8 → s.hasJob j = true →
    (∀ i, i < 8 → i ≠ j → s.hasJob i = false) → s.live = [l] → l.cmd.job = j → l.cmd.engine = 1 → s.canStop l = true →
    (∀ e, e < 11 → s.queue e j = []) → s.pfx.loads = [] →
    ∃ t, exec .overdrawKill s = .next t ∧ t.live = [] ∧ (t.engRegs 1).lastStatus = 0x51 ∧ (t.slot j).lastFail = 0x51 ∧
      (∀ k ∈ l.cmd.cores, ∀ x ∈ (t.core k).tasks, x.same l.cmd = false) ∧ t.ktl.cntKill = s.ktl.cntKill + 1 ∧ t.ktl.overdrawSince = none) ∧
  (∀ (s : State) (n : Nat), s.ktl.overdrawSince = some n → s.boot.sincePwrOk < n + 1000000 → exec .overdrawKill s = .next s) ∧
  (∀ s : State, s.ktl.overdrawSince = none → exec .overdrawKill s = .next s) ∧
  (∀ (s u : State) (rs : List (BitVec 16)) (n : Nat), s.pwr.pwrOk = true → s.ktl.heatAt ≠ some (s.boot.sincePwrOk / 100000) →
    { s with ktl := { s.ktl with heatAt := some (s.boot.sincePwrOk / 100000), temps := (List.range (min rs.length 11)).foldl (fun t n => tset 0 t n (rs.getD n 0)) s.ktl.temps } } = u →
    u.hot (·.2.2) = some n →
    ∃ t, exec (.thermalSample rs) s = .next t ∧ t.pwr = { s.pwr with internalEnable := false } ∧
      t = { u with pwr := t.pwr, log := t.log, out := t.out }) ∧
  (∀ (s u : State) (rs : List (BitVec 16)) (n : Nat), s.pwr.pwrOk = true → s.ktl.heatAt ≠ some (s.boot.sincePwrOk / 100000) →
    { s with ktl := { s.ktl with heatAt := some (s.boot.sincePwrOk / 100000), temps := (List.range (min rs.length 11)).foldl (fun t n => tset 0 t n (rs.getD n 0)) s.ktl.temps } } = u →
    u.hot (·.2.2) = none → u.hot (·.2.1) = some n → s.ktl.therm ≠ 2 → (∀ j, j < 8 → s.hasJob j = false) →
    ∃ t, exec (.thermalSample rs) s = .next t ∧ t.ktl.therm = 2 ∧ t.ktl.bcap = 0 ∧ t.ktl.belowSince = none ∧ t.ktl.evt.getLsbD 9 = true ∧
      (∀ r ∈ t.ktl.ramps, r.levelOver = true) ∧ t = { u with ktl := t.ktl, log := t.log, out := t.out }) ∧
  (∀ (s u : State) (rs : List (BitVec 16)) (n j : Nat) (c : Cmd), s.pwr.pwrOk = true → s.ktl.heatAt ≠ some (s.boot.sincePwrOk / 100000) →
    { s with ktl := { s.ktl with heatAt := some (s.boot.sincePwrOk / 100000), temps := (List.range (min rs.length 11)).foldl (fun t n => tset 0 t n (rs.getD n 0)) s.ktl.temps } } = u →
    u.hot (·.2.2) = none → u.hot (·.2.1) = some n → s.ktl.therm ≠ 2 → j < 8 → s.hasJob j = true →
    (∀ i, i < 8 → i ≠ j → s.hasJob i = false) → s.live = [] → c.job = j → ((List.range 11).flatMap fun e => s.queue e j) = [c] →
    ∃ t, exec (.thermalSample rs) s = .next t ∧ (∀ e, e < 11 → t.queue e j = []) ∧ (t.engRegs c.engine).lastStatus = 0x51 ∧
      (t.slot j).lastFail = 0x51 ∧ t.ktl.therm = 2 ∧ t.ktl.bcap = 0 ∧ t.ktl.belowSince = none ∧ t.ktl.evt.getLsbD 9 = true) ∧
  (∀ (s u : State) (rs : List (BitVec 16)) (n : Nat), s.pwr.pwrOk = true → s.ktl.heatAt ≠ some (s.boot.sincePwrOk / 100000) →
    { s with ktl := { s.ktl with heatAt := some (s.boot.sincePwrOk / 100000), temps := (List.range (min rs.length 11)).foldl (fun t n => tset 0 t n (rs.getD n 0)) s.ktl.temps } } = u →
    u.hot (·.2.2) = none → u.hot (·.2.1) = none → u.hot (·.1) = some n → s.ktl.therm = 0 →
    ∃ t, exec (.thermalSample rs) s = .next t ∧ t.ktl.therm = 1 ∧ t.ktl.bcap = 0 ∧ t.ktl.evt.getLsbD 8 = true ∧
      t = { u with ktl := t.ktl, log := t.log, out := t.out }) ∧
  (∀ (s : State) (rs : List (BitVec 16)), s.pwr.pwrOk = false ∨ s.ktl.heatAt = some (s.boot.sincePwrOk / 100000) →
    exec (.thermalSample rs) s = .next s) ∧
  (∀ (s : State) (n : Nat), s.ktl.belowSince = some n → s.ktl.therm = 2 → n + 1000000000 ≤ s.boot.sincePwrOk →
    ∃ t, exec .thermalTripClear s = .next t ∧ t.ktl = { s.ktl with therm := (if s.coolBy 48 then 0 else 1), belowSince := none } ∧
      t = { s with ktl := t.ktl }) ∧
  (∀ s : State, s.ktl.belowSince = none → exec .thermalTripClear s = .next s)

/-- R461, R462, R469: an envelope message, laid out as Table 19-2 says, from FM_ID with a SEQ ahead is queued for its frame, any other is
rejected, one of another layout too (the model's choice: notes/assumptions/34.md); its values come into force at their instant and expire;
telemetry leaves for FM_ID, or without a credit is dropped and counted, and starts a new period. -/
def Obligations.EnvelopeMessages : Prop :=
  (∀ m : EnvMsg, m.at' < 2 ^ 64 → m.expiry < 2 ^ 64 → m.ceil1ms < 65536 → m.ceil1s < 65536 → m.floor < 65536 → m.slewUp < 65536 → m.slewDn < 65536 →
    parseEnvelope ([0x21, 0, 0, 0] ++ leBytes 4 m.seq.toNat ++ leBytes 8 m.at' ++ leBytes 8 m.expiry ++ leBytes 2 m.ceil1ms ++
      leBytes 2 m.ceil1s ++ leBytes 2 m.floor ++ leBytes 2 m.slewUp ++ leBytes 2 m.slewDn ++ zeros 206) = some m) ∧
  (∀ (s : State) (f : BitVec 16) (b : List Byte), parseEnvelope b = none →
    ∃ t, exec (.envelopeMessage f b) s = .next t ∧ t.ktl.msgQueue = s.ktl.msgQueue ∧ t.ktl.evt.getLsbD 7 = true ∧ t = { s with ktl := t.ktl }) ∧
  (∀ (s : State) (f : BitVec 16) (b : List Byte) (m : EnvMsg), parseEnvelope b = some m → f ≠ 0xFFFF → f.toNat = field (s.st 0x030018) 15 0 → s.seqAhead m.seq = true →
    s.now ≤ roundUp m.at' frameLen →
    ∃ t, exec (.envelopeMessage f b) s = .next t ∧ t = { s with ktl := { s.ktl with
      msgSeq := m.seq, msgAny := true, msgQueue := s.ktl.msgQueue ++ [{ m with at' := roundUp m.at' frameLen }] } }) ∧
  (∀ (s : State) (f : BitVec 16) (b : List Byte) (m : EnvMsg), parseEnvelope b = some m → f ≠ 0xFFFF → f.toNat = field (s.st 0x030018) 15 0 → s.seqAhead m.seq = true →
    roundUp m.at' frameLen < s.now →
    ∃ t, exec (.envelopeMessage f b) s = .next t ∧
      t.ktl.msgQueue = s.ktl.msgQueue ++ [{ m with at' := (s.now / frameLen + 1) * frameLen }] ∧ t.ktl.evt.getLsbD 6 = true ∧
      t = { s with ktl := t.ktl }) ∧
  (∀ (s : State) (f : BitVec 16) (b : List Byte) (m : EnvMsg), parseEnvelope b = some m → f.toNat ≠ field (s.st 0x030018) 15 0 ∨ s.seqAhead m.seq = false →
    ∃ t, exec (.envelopeMessage f b) s = .next t ∧ t.ktl.msgQueue = s.ktl.msgQueue ∧ t.ktl.msgSeq = s.ktl.msgSeq ∧
      t.ktl.evt.getLsbD 7 = true ∧ t = { s with ktl := t.ktl }) ∧
  (∀ (s : State) (m : EnvMsg) (r : List EnvMsg), s.ktl.msgQueue = m :: r → m.at' ≤ s.now → s.counting = true → (∀ x ∈ r, s.now < x.at') →
    ∃ t, exec .envelopeInForce s = .next t ∧ t.ktl.msgActive = some m ∧ t.ktl.msgQueue = r ∧ t.ktl.ramps = s.markRamps.ktl.ramps ∧ t.ktl.evt.getLsbD 5 = true ∧
      t = { s with ktl := t.ktl } ∧
      t.envNow.ceil1ms = min s.envBlend.ceil1ms m.ceil1ms ∧ t.envNow.ceil1s = min s.envBlend.ceil1s m.ceil1s) ∧
  (∀ s : State, s.ktl.msgQueue = [] → exec .envelopeInForce s = .next s) ∧
  (∀ (s : State) (m : EnvMsg), s.ktl.msgActive = some m → m.expiry ≠ 0 → m.expiry ≤ s.now →
    ∃ t, exec .envelopeExpiry s = .next t ∧ t = { s with ktl := { s.markRamps.ktl with msgActive := none } } ∧ t.envNow.ceil1ms = s.envBlend.ceil1ms) ∧
  (∀ (s : State) (m : EnvMsg), s.ktl.msgActive = some m → m.expiry = 0 → exec .envelopeExpiry s = .next s) ∧
  (∀ (s : State) (n : Nat), field (s.st 0x030018) 31 16 = n → n ≠ 0 → s.counting = true → s.now % (n * frameLen) = 0 →
    s.ktl.telAt ≠ some s.now → s.creditTo (field (s.st 0x2F0010) 15 0) 6 = false →
    ∃ t, exec .kettleTelemetry s = .next t ∧ t = { s with ktl := { s.ktl with
      cntTelDrop := s.ktl.cntTelDrop + 1, telAt := some s.now, evtPeriod := 0, ballastSum := 0, ballastCount := 0, vinLow := 0xFFFF } }) ∧
  (∀ (s u : State) (n : Nat), field (s.st 0x030018) 31 16 = n → n ≠ 0 → s.counting = true → s.now % (n * frameLen) = 0 →
    s.ktl.telAt ≠ some s.now → s.creditTo (field (s.st 0x2F0010) 15 0) 6 = true →
    s.inject 6 0x18 (field (s.st 0x2F0010) 15 0) 0 s.telemetry = some u →
    ∃ t, exec .kettleTelemetry s = .next t ∧ t = { u with ktl := { u.ktl with
      telAt := some s.now, evtPeriod := 0, ballastSum := 0, ballastCount := 0, vinLow := 0xFFFF } }) ∧
  (∀ s : State, s.ktl.telAt = some s.now → exec .kettleTelemetry s = .next s) ∧
  (∀ s : State, field (s.st 0x030018) 31 16 = 0 → exec .kettleTelemetry s = .next s)

/-- R472, R473, R485 to R490: a line patrol corrects or finds uncorrectable is counted, the latter logged; a class regains a token each 1/RATE
ms; a drop report, which comes before what the counters hold, and a LOG_RD write do what their rules say; exports and alarms wait without
an FM_ID and leave with their entries. Sources of patrol entries and the wait of an export are the model's reading
(notes/assumptions/35.md). -/
def Obligations.TroubleLogRows : Prop :=
  (∀ (s : State) (st a : Nat), s.pwr.pwrOk = true → s.patrolled st a = true → s.log.badLines.contains (lineOf a) = false →
    tget 0 s.log.corrected (eccKey st a) + 1 ≠ 16 →
    ∃ t, exec (.patrolRead st a .corrected) s = .next t ∧ t.log.cntCorr = s.log.cntCorr + 1 ∧ t.mem = s.mem ∧ t = { s with log := t.log }) ∧
  (∀ (s : State) (st a : Nat) (e : EccFound), s.pwr.pwrOk = true → st ≠ 8 → s.patrolled st a = true →
    e = .uncorrectable ∨ s.log.badLines.contains (lineOf a) = true →
    ∃ t, exec (.patrolRead st a e) s = .next t ∧ t.log.cntUncorr = s.log.cntUncorr + 1 ∧ lineOf a ∈ t.log.badLines ∧
      t.mem = s.mem ∧ t.cores = s.cores) ∧
  (∀ (s : State) (a : Nat), s.pwr.pwrOk = true →
    ∃ t, exec (.patrolRead 8 a .uncorrectable) s = .next t ∧ t.pwr = { s.pwr with internalEnable := false } ∧
      t.log.cntUncorr = s.log.cntUncorr + 1 ∧ t = { s with pwr := t.pwr, log := t.log }) ∧
  (∀ (s : State) (a : Nat), a < gddrSize → exec (.gddrWriteReissue a) s = .next s) ∧
  (∀ (s : State) (c : Nat) (x : LogClass), c < 6 → tget {} s.log.classes c = x → x.coal = [] → x.merge = none → x.spent ≠ 0 → s.log.dropPending = false →
    x.refillAt + refillTime c ≤ s.boot.sincePwrOk →
    ∃ t, exec (.logTokenRefill c) s = .next t ∧
      tget {} t.log.classes c = { x with spent := x.spent - 1, refillAt := x.refillAt + refillTime c } ∧ t.log.wr = s.log.wr ∧
      t = { s with log := t.log }) ∧
  (∀ (s : State) (c : Nat) (x : LogClass), c < 6 → tget {} s.log.classes c = x → s.log.dropPending = false →
    x.spent = 0 ∨ s.boot.sincePwrOk < x.refillAt + refillTime c → exec (.logTokenRefill c) s = .next s) ∧
  (∀ s : State, s.log.dropPending = true → s.log.unread < 6144 → (∀ n, s.log.lastReport = some n → n + 1000000 ≤ s.boot.sincePwrOk) →
    ∃ t, exec .dropReport s = .next t ∧ t.log.wr = s.log.wr + 1 ∧ tget {} t.log.ring (s.log.wr % 8192) = {
        time := s.logTime, at' := s.boot.sincePwrOk, prelock := s.prelock, cls := 4, source := 0x050, event := 0x0070
        detail := BitVec.ofNat 64 (leNat ((List.range 4).flatMap fun c => leBytes 2 (min (s.log.dropCounts.getD c 0) 0xFFFF))) } ∧
      t.log.dropPending = false ∧ t.log.dropCounts = [0, 0, 0, 0] ∧ t.log.lastReport = some s.boot.sincePwrOk ∧ t.log.classes = s.log.classes) ∧
  (∀ s : State, s.log.dropPending = false → exec .dropReport s = .next s) ∧
  (∀ (s : State) (v : BitVec 64), s.log.rd ≤ v.toNat → v.toNat ≤ s.log.wr → s.log.classes = [] → s.log.dropPending = false →
    ∃ t, exec (.logRdWrite .whole v) s = .next t ∧ t = { s with log := { s.log with rd := v.toNat } }) ∧
  (∀ (s : State) (v : BitVec 64), v.toNat < s.log.rd → exec (.logRdWrite .whole v) s = .next s) ∧
  (∀ (s u : State) (x : Export) (r : List Export), s.log.exports = x :: r → 6 ≤ r.length → s.fmId ≠ 0xFFFF →
    s.inject 6 0x18 s.fmId 0 (leBytes 1 0x4C ++ leBytes 1 7 ++ zeros 6 ++ leBytes 8 (x.index % 8192) ++
      ((x :: r).take 7).flatMap fun e => e.entry.bytes) = some u →
    ∃ t, exec .logExportSend s = .next t ∧ t = { u with log := { u.log with exports := (x :: r).drop 7 } }) ∧
  (∀ (s : State) (x : Export), s.log.exports = [x] → s.boot.sincePwrOk < x.at' + 10000 → exec .logExportSend s = .next s) ∧
  (∀ (s u : State) (e : LogEntry) (r : List LogEntry), s.log.alarms = e :: r → s.fmId ≠ 0xFFFF →
    State.inject { s with log := { s.log with alarms := r } } 7 0x1C s.fmId 0 (e.bytes ++ leBytes 2 s.fab.fabId.toNat) = some u →
    exec .alarmSend s = .next u) ∧
  (∀ (s u : State) (e : LogEntry), s.log.alarms = [] → s.log.alarmMerge = some e → s.fmId ≠ 0xFFFF →
    State.inject { s with log := { s.log with alarmMerge := none } } 7 0x1C s.fmId 0 (e.bytes ++ leBytes 2 s.fab.fabId.toNat) = some u →
    exec .alarmSend s = .next u) ∧
  (∀ s : State, s.fmId = 0xFFFF → exec .alarmSend s = .next s ∧ exec .logExportSend s = .next s)

/-- R381 to R383: a STREAM goes out from its effective start over the positions of its job, its data read from its source as they leave; one
that has not started by then sends nothing; a stream that has come whole stores its shard if its checksum agrees, else its bytes are
undefined and no other changes. That a receiver acts on a stream once it has come whole, and that a late part is not sent, is the model's
choice (notes/assumptions/28.md). -/
def Obligations.InfusionStreams : Prop :=
  (∀ (s u : State) (c : Cmd) (b : List Byte) (om : List Nat), s.begins 6 1 = some (u, c) → firstFail (u.infuserStreamChecks c) = none →
    u.params c = b → u.omega (u.lanePort (streamLane b)) (u.posJob c.job) = om → om ≠ [] → u.now ≤ u.streamStart b →
    ∃ t, exec .infuserStream s = .next t ∧ t.inf.streams = s.inf.streams ++ [{ cmd := c, effStart := u.streamStart b, lane := streamLane b }] ∧
      t.spt.outs = s.spt.outs ++ [{ engine := 6, ctx := c.key, kind := 9, stage := 0, phase := 0, lane := streamLane b, dst := BitVec.ofNat 16 (leAt b 4 2), route := BitVec.ofNat 32 (leAt b 16 4), job := u.posJob c.job, base := firstOwned om (u.streamStart b), start := 0, flits := u.streamFlits b ((u.slotTensor c 0).read u.mem), src := some (localOf (u.slotTensor c 0).base, ((u.slotTensor c 0).read u.mem).length) }] ∧
      t.live.length = u.live.length + 1 ∧ t = { u with live := t.live, spt := t.spt, inf := t.inf }) ∧
  (∀ (s u : State) (c : Cmd) (b : List Byte), s.begins 6 1 = some (u, c) → firstFail (u.infuserStreamChecks c) = none →
    u.params c = b → u.streamStart b < u.now →
    ∃ t, exec .infuserStream s = .next t ∧ t.inf = s.inf ∧ t.spt = s.spt ∧ (t.engRegs c.engine).lastStatus = 0x31 ∧ OnlyCommands s t) ∧
  (∀ (s : State) (j : Nat) (c : Cmd) (r : List Cmd), j < 8 → s.queue 6 j = c :: r → c.opcode = 1 → c.job = j → s.counting = true →
    s.streamStart (s.params c) < s.now → (∀ i, i < j → s.queue 6 i = []) →
    ∃ t, exec .infuserStreamLate s = .next t ∧ t.queue 6 j = r ∧ (t.engRegs c.engine).lastStatus = 0x31 ∧ t.spt = s.spt ∧ OnlyCommands s t) ∧
  (∀ s : State, (∀ j, j < 8 → s.queue 6 j = []) → exec .infuserStreamLate s = .next s) ∧
  (∀ (s : State) (n base : Nat) (h : RxFlit) (fs : List RxFlit),
    (s.streamHeaders n).findSome? s.wholeStream = some (h :: fs) → (s.takeStream (h :: fs)).streamFits h.payload = some base →
    crc32c (padTo (leAt h.payload 40 8) (fs.flatMap fun f => padTo 240 f.payload)) = leAt h.payload 20 4 →
    ∃ t, exec (.infusionStreamReceive n) s = .next t ∧
      t.mem = s.mem.write (base + leAt h.payload 32 8) (padTo (leAt h.payload 40 8) (fs.flatMap fun f => padTo 240 f.payload)) ∧
      (t.infSet (leAt h.payload 17 1)).accept =
        (s.infSet (leAt h.payload 17 1)).accept.map (fun a => { a with done := a.done ++ [leAt h.payload 8 4] }) ∧
      t = { s with mem := t.mem, spt := t.spt, inf := t.inf, log := t.log }) ∧
  (∀ (s : State) (n base : Nat) (h : RxFlit) (fs : List RxFlit),
    (s.streamHeaders n).findSome? s.wholeStream = some (h :: fs) → (s.takeStream (h :: fs)).streamFits h.payload = some base →
    crc32c (padTo (leAt h.payload 40 8) (fs.flatMap fun f => padTo 240 f.payload)) ≠ leAt h.payload 20 4 →
    ∃ t, exec (.infusionStreamReceive n) s = .next t ∧ t.inf.cntCrc = s.inf.cntCrc + 1 ∧ t.inf.sets = s.inf.sets ∧
      (∀ a, a < localOf (base + leAt h.payload 32 8) ∨ localOf (base + leAt h.payload 32 8) + leAt h.payload 40 8 ≤ a → t.mem.byte a = s.mem.byte a) ∧
      t = { s with mem := t.mem, spt := t.spt, inf := t.inf, freeCount := t.freeCount }) ∧
  (∀ (s : State) (n : Nat) (h : RxFlit) (fs : List RxFlit),
    (s.streamHeaders n).findSome? s.wholeStream = some (h :: fs) → (s.takeStream (h :: fs)).streamFits h.payload = none →
    ∃ t, exec (.infusionStreamReceive n) s = .next t ∧ t.inf = { s.inf with cntDiscard := s.inf.cntDiscard + 1 } ∧
      t = { s with spt := t.spt, inf := t.inf }) ∧
  (∀ (s : State) (n : Nat), s.spt.rx = [] → exec (.infusionStreamReceive n) s = .next s)

/-- R380, R384 to R388: ACCEPT makes a FREE region SHADOW, its last shard makes it READY, or LIVE at once where a swap of the same tick waits
for it; its deadline makes it FREE again; SWAP arms its timer; SEQ_BEGIN and SEQ_END set and clear entries of the sequence table; a
COOLING region becomes FREE at its frame. Which FREE region ACCEPT takes is a free value, and DETAILs no rule names are the model's
reading (notes/assumptions/28.md). -/
def Obligations.InfusionSets : Prop :=
  (∀ (s u : State) (c : Cmd) (i : Nat) (b : List Byte), s.begins 6 2 = some (u, c) → firstFail (u.acceptChecks c) = none →
    u.params c = b → leAt b 0 1 = i → leAt b 2 2 ≠ 0 → (u.infSet i).r0 = .free → (u.infSet i).r1 ≠ .free →
    ∃ t, exec .accept s = .next t ∧ t.infSet i = { u.infSet i with r0 := .shadow, accept := some { cmd := c, version := BitVec.ofNat 64 (leAt b 8 8), nshards := leAt b 2 2, done := [], deadline := leAt b 16 8 } } ∧
      (∀ n, n ≠ i → t.infSet n = s.infSet n) ∧ t.live.length = u.live.length + 1 ∧ t = { u with live := t.live, inf := t.inf }) ∧
  (∀ (s u : State) (c : Cmd) (i : Nat) (b : List Byte), s.begins 6 2 = some (u, c) → firstFail (u.acceptChecks c) = none →
    u.params c = b → leAt b 0 1 = i → leAt b 2 2 ≠ 0 → (u.infSet i).r0 = .free → (u.infSet i).r1 = .free →
    ∃ t, exec .accept s = .next t ∧ (((t.infSet i).r0 = .shadow ∧ (t.infSet i).r1 = .free) ∨ ((t.infSet i).r0 = .free ∧ (t.infSet i).r1 = .shadow)) ∧
      t = { u with live := t.live, inf := t.inf }) ∧
  (∀ (s u : State) (c : Cmd) (st d : Nat), s.begins 6 2 = some (u, c) → firstFail (u.acceptChecks c) = some (st, d) →
    ∃ t, exec .accept s = .next t ∧ t.inf = s.inf ∧ (t.engRegs c.engine).lastStatus = st ∧ OnlyCommands s t) ∧
  (∀ (s : State) (i : Nat) (a : AcceptRun) (one : Bool), i < 8 → (s.infSet i).accept = some a → a.done.length = a.nshards →
    (s.infSet i).find .shadow = some one → (∀ w ∈ (s.infSet i).swaps, w.due = false) →
    ∃ t, exec (.acceptComplete i) s = .next t ∧ (t.infSet i).region one = .ready ∧ (t.infSet i).readyVer = a.version ∧
      (t.infSet i).accept = none ∧ (t.engRegs a.cmd.engine).lastStatus = 0 ∧ (∀ x, a.cmd.spares x → t.mem.byte x = s.mem.byte x)) ∧
  (∀ (s : State) (i : Nat) (a : AcceptRun) (w : SwapRun), i < 8 → (s.infSet i).accept = some a → a.done.length = a.nshards →
    (s.infSet i).r0 = .shadow → (s.infSet i).r1 ≠ .ready → (s.infSet i).r1 ≠ .live → (s.infSet i).swaps = [w] → w.due = true →
    ∃ t, exec (.acceptComplete i) s = .next t ∧ (t.infSet i).r0 = .live ∧ (t.infSet i).r1 = (s.infSet i).r1 ∧
      (t.infSet i).accept = none ∧ (t.infSet i).swaps = [] ∧ (t.engRegs w.cmd.engine).lastStatus = 0) ∧
  (∀ (s : State) (i : Nat) (a : AcceptRun) (one : Bool), i < 8 → (s.infSet i).accept = some a → a.done.length ≠ a.nshards →
    a.deadline < s.now → (s.infSet i).find .shadow = some one →
    ∃ t, exec (.acceptDeadline i) s = .next t ∧ (t.infSet i).region one = .free ∧ (t.infSet i).accept = none ∧
      (t.engRegs a.cmd.engine).lastStatus = 0x31 ∧
      (∀ x, a.cmd.spares x → x < localOf ((s.setCfg i).base one) ∨ localOf ((s.setCfg i).base one) + (s.setCfg i).len ≤ x →
        t.mem.byte x = s.mem.byte x)) ∧
  (∀ (s : State) (i : Nat), i < 8 → (s.infSet i).accept = none → exec (.acceptComplete i) s = .next s ∧ exec (.acceptDeadline i) s = .next s) ∧
  (∀ (s u : State) (c : Cmd) (i n : Nat) (b : List Byte), s.begins 6 3 = some (u, c) → firstFail (u.swapChecks c) = none →
    u.params c = b → leAt b 0 1 = i → leAt b 1 1 = n →
    ∃ t, exec .swap s = .next t ∧ (t.infSet i).swaps = (s.infSet i).swaps ++ [{ cmd := c, timer := n, t := u.swapAt (leAt b 8 8) }] ∧
      tget ({} : HtTimer) t.ht.timers n = { tget ({} : HtTimer) s.ht.timers n with cmp := u.swapAt (leAt b 8 8), arm := true, periodic := false } ∧
      (∀ k, k ≠ n → tget ({} : HtTimer) t.ht.timers k = tget ({} : HtTimer) s.ht.timers k) ∧
      t = { u with live := t.live, inf := t.inf, ht := { u.ht with timers := t.ht.timers } }) ∧
  (∀ (s u : State) (c : Cmd) (i : Nat) (live : Bool), s.begins 6 4 = some (u, c) → firstFail (u.seqBeginChecks c) = none →
    leAt (u.params c) 0 1 = i → (u.infSet i).find .live = some live →
    ∃ t, exec .seqBegin s = .next t ∧ (t.engRegs c.engine).lastStatus = 0 ∧ t.inf = s.inf ∧
      (∀ a, c.spares a → t.mem.byte a = (u.storeAll ((List.range ((u.seqWords c).length / 2)).map fun k =>
        ((u.setCfg i).seq ((u.seqWords c).getD (2 * k) 0), leBytes 8 (u.liveVer i) ++
          leBytes 8 (1 + 2 * (u.seqWords c).getD (2 * k + 1) 0 + flagBit live 2)))).mem.byte a)) ∧
  (∀ (s u : State) (c : Cmd) (i : Nat), s.begins 6 5 = some (u, c) → firstFail (u.seqEndChecks c) = none →
    leAt (u.params c) 0 1 = i → (u.infSet i).find .old = none →
    ∃ t, exec .seqEnd s = .next t ∧ (t.engRegs c.engine).lastStatus = 0 ∧ t.inf = s.inf ∧
      (∀ k ∈ u.seqWords c, c.spares ((u.setCfg i).seq k + 8) →
        t.mem.byte ((u.setCfg i).seq k + 8) = BitVec.ofNat 8 ((s.mem.byte ((u.setCfg i).seq k + 8)).toNat / 2 * 2)) ∧
      (∀ a, c.spares a → (∀ k ∈ u.seqWords c, a ≠ (u.setCfg i).seq k + 8) → t.mem.byte a = s.mem.byte a)) ∧
  (∀ (s : State) (i r : Nat), i < 8 → r < 2 → (s.infSet i).region (r == 1) = .cooling →
    (if r = 1 then (s.infSet i).coolAt1 else (s.infSet i).coolAt0) ≤ s.now →
    ∃ t, exec (.coolingEnd i r) s = .next t ∧ t.infSet i = (s.infSet i).setRegion (r == 1) .free ∧ t = { s with inf := t.inf }) ∧
  (∀ (s : State) (i r : Nat), i < 8 → r < 2 → (s.infSet i).region (r == 1) ≠ .cooling → exec (.coolingEnd i r) s = .next s)

/-- R392, R393, R395, R396, R398: HASH, LOOKUP and INSERT write their words into slot 7 and nothing else; LOOKUP leaves the table as it is;
INSERT raises NSHARED by the blocks it inserted; a loaded tenant key is valid, and waits while the engine runs a command. DETAILs and
statuses that no rule names are the model's reading (notes/assumptions/29.md). R401, R402: STEP_BEGIN takes a free context for its rows
and puts their requests into the step; STEP_COMMIT frees it, and a row whose request has not passed its deadline is ADMITTED again with
its token. A context above 15 is STRUCTURE, and a finish that no rule bounds is a free value: the model's choice
(notes/assumptions/29.md). -/
def Obligations.PrefixTableAndSteps : Prop :=
  (∀ (s u : State) (c : Cmd), s.begins 9 1 = some (u, c) → firstFail (u.prefixHashChecks c) = none →
    ∃ t, exec .prefixHash s = .next t ∧ (t.engRegs c.engine).lastStatus = 0 ∧ t.pfx = s.pfx ∧
      (∀ a, c.spares a → t.mem.byte a = (u.pfxOut c ((blockKeys (tget [] u.pfx.keys (u.pfxTenant c.job)) (slice (u.params c) 0 16)
        ((chunksOf 256 ((u.slotTensor c 0).size / 64 + 1) ((u.slotTensor c 0).read u.mem)).take ((u.slotTensor c 0).size / 64))).flatMap
          fun h => words32 4 (leNat h))).mem.byte a)) ∧
  (∀ (s u : State) (c : Cmd) (hs hit : List Nat), s.begins 9 2 = some (u, c) → firstFail (u.prefixLookupChecks c) = none →
    hashesOf ((u.slotTensor c 1).read u.mem) = hs → u.chain (u.pfxTenant c.job) 0 hs = hit →
    ∃ t, exec .prefixLookup s = .next t ∧ (t.engRegs c.engine).lastStatus = 0 ∧ t.pfx.table = s.pfx.table ∧
      t.pfx.cntMiss = s.pfx.cntMiss + (if hit.length < hs.length then 1 else 0) ∧
      (∀ a, c.spares a → t.mem.byte a = (u.pfxOut c (hit.length :: hit.flatMap fun i => words32 2 (u.pfxAt i).handle.toNat)).mem.byte a)) ∧
  (∀ (s u v : State) (c : Cmd) (slot k : Nat), s.begins 9 3 = some (u, c) → firstFail (u.prefixInsertChecks c) = none →
    leAt (u.params c) 0 2 = slot →
    u.insertBlocks c.job slot (u.reqGet c.job slot 24 2) 0 ((hashesOf ((u.slotTensor c 1).read u.mem)).take (leAt (u.params c) 4 4)) = (v, k) →
    ∃ t, exec .prefixInsert s = .next t ∧ (t.engRegs c.engine).lastStatus = 0 ∧ t.pfx.table = v.pfx.table ∧
      (∀ a, c.spares a → t.mem.byte a = ((v.reqSet c.job slot 24 2 (u.reqGet c.job slot 24 2 + k)).pfxOut c [k]).mem.byte a)) ∧
  (∀ (s u : State) (c : Cmd) (st d : Nat), s.begins 9 3 = some (u, c) → firstFail (u.prefixInsertChecks c) = some (st, d) →
    ∃ t, exec .prefixInsert s = .next t ∧ t.pfx = s.pfx ∧ (t.engRegs c.engine).lastStatus = st ∧ OnlyCommands s t) ∧
  (∀ (s : State) (k : Nat), k < 16 → (s.live.any fun l => l.cmd.engine == 9) = true →
    ∃ t, exec (.tenantKeyLoad k) s = .next t ∧ t = { s with pfx := { s.pfx with loads := s.pfx.loads ++ [k] } }) ∧
  (∀ (s : State) (k : Nat), k < 16 → (s.live.any fun l => l.cmd.engine == 9) = false → s.pfx.loads = [] →
    (∀ e ∈ s.pfx.table, ¬(e.2.valid = true ∧ e.2.tenant = k)) →
    ∃ t, exec (.tenantKeyLoad k) s = .next t ∧ tget false t.pfx.keyValid k = true ∧ t.pfx.table = s.pfx.table ∧
      tget [] t.pfx.keys k = (List.range 4).flatMap (fun i => leBytes 8 (tget 0 s.pfx.keyWords (4 * k + i)).toNat) ∧
      (∀ i, i ≠ k → tget [] t.pfx.keys i = tget [] s.pfx.keys i) ∧ (t.engRegs 9).evt.getLsbD 4 = true ∧
      t = { s with pfx := t.pfx, eng := t.eng }) ∧
  (∀ (s u : State) (c : Cmd) (w : Nat), s.begins 9 6 = some (u, c) → firstFail (u.stepBeginChecks c) = none →
    (u.slotTensor c 0).words u.mem = [w] → u.rowVoid c.job w = false →
    ∃ t, exec .stepBegin s = .next t ∧ (t.engRegs c.engine).lastStatus = 0 ∧
      t.stepCtx (leAt (u.params c) 0 1) = { busy := true, job := c.job, rows := [BitVec.ofNat 32 w], void := [false] } ∧
      (∀ i, i ≠ leAt (u.params c) 0 1 → t.stepCtx i = s.stepCtx i) ∧
      (c.spares (u.reqAddr c.job (rowSlot w) + 18) → t.reqState c.job (rowSlot w) = reqInStep) ∧
      (∀ a, c.spares a → a ≠ u.reqAddr c.job (rowSlot w) + 18 → t.mem.byte a = s.mem.byte a)) ∧
  (∀ (s u : State) (c : Cmd) (st d : Nat), s.begins 9 6 = some (u, c) → firstFail (u.stepBeginChecks c) = some (st, d) →
    ∃ t, exec .stepBegin s = .next t ∧ t.pfx = s.pfx ∧ (t.engRegs c.engine).lastStatus = st ∧ OnlyCommands s t) ∧
  (∀ (s u : State) (c : Cmd) (w : BitVec 32), s.begins 9 7 = some (u, c) → firstFail (u.stepCommitChecks c) = none →
    (u.stepCtx (leAt (u.params c) 0 1)).rows = [w] → (u.stepCtx (leAt (u.params c) 0 1)).void = [false] →
    bitOf (leAt (u.params c) 1 1) 0 = false → rowPrefill w.toNat = 0 → u.now ≤ u.reqDeadline c.job (rowSlot w.toNat) →
    ∃ t, exec .stepCommit s = .next t ∧ (t.engRegs c.engine).lastStatus = 0 ∧ (t.stepCtx (leAt (u.params c) 0 1)).busy = false ∧
      (∀ a, c.spares a → t.mem.byte a = ((((u.reqSet c.job (rowSlot w.toNat) 18 1 reqAdmitted).reqSet c.job (rowSlot w.toNat) 28 4
          (u.reqGet c.job (rowSlot w.toNat) 28 4 + 1)).reqSet c.job (rowSlot w.toNat) 19 1 (u.reqGet c.job (rowSlot w.toNat) 19 1 ||| 2)).pfxOut
        c [((u.slotTensor c 0).words u.mem).getD 0 0, 0x100]).mem.byte a)) ∧
  (∀ (s u : State) (c : Cmd) (st d : Nat), s.begins 9 7 = some (u, c) → firstFail (u.stepCommitChecks c) = some (st, d) →
    ∃ t, exec .stepCommit s = .next t ∧ t.pfx = s.pfx ∧ (t.engRegs c.engine).lastStatus = st ∧ OnlyCommands s t)

/-- R399, R400, R403, R404: an admitted row has its record and its hits referenced, a refused one is counted and leaves the table; GROW waits
on its pool; a retired, unpinned request is FREE, a pinned one stays RETIRED; PIN sets its flag. DETAILs and statuses that no rule names
are the model's reading (notes/assumptions/29.md). -/
def Obligations.Requests : Prop :=
  (∀ (s u : State) (c : Cmd) (row : List Byte) (x : AdmitResult), s.begins 9 4 = some (u, c) → firstFail (u.admitChecks c) = none →
    chunksOf 64 257 ((u.slotTensor c 0).read u.mem) = [row] → leAt (u.params c) 8 4 ≠ 0 →
    u.admitOne c (hashesOf ((u.slotTensor c 1).read u.mem)) (leAt (u.params c) 0 8) (leAt (u.params c) 8 4) [] (admitRow row) = x →
    x.reason = 0 →
    ∃ t, exec .admitRequest s = .next t ∧ (t.engRegs c.engine).lastStatus = 0 ∧ t.pfx.table = (u.admitRecord c.job x).pfx.table ∧
      t.pfx.cntHit = s.pfx.cntHit + x.hits.length ∧ t.pfx.cntRefused = s.pfx.cntRefused ∧
      (∀ a, c.spares a → t.mem.byte a = ((u.admitRecord c.job x).pfxOut c [0, x.hits.length]).mem.byte a)) ∧
  (∀ (s u : State) (c : Cmd) (row : List Byte) (x : AdmitResult), s.begins 9 4 = some (u, c) → firstFail (u.admitChecks c) = none →
    chunksOf 64 257 ((u.slotTensor c 0).read u.mem) = [row] → leAt (u.params c) 8 4 ≠ 0 →
    u.admitOne c (hashesOf ((u.slotTensor c 1).read u.mem)) (leAt (u.params c) 0 8) (leAt (u.params c) 8 4) [] (admitRow row) = x →
    x.reason ≠ 0 →
    ∃ t, exec .admitRequest s = .next t ∧ (t.engRegs c.engine).lastStatus = 0 ∧ t.pfx.table = s.pfx.table ∧
      t.pfx.cntRefused = s.pfx.cntRefused + 1 ∧ (t.engRegs 9).evt.getLsbD 1 = true ∧
      (∀ a, c.spares a → t.mem.byte a = (u.pfxOut c [stAdmissionRefused + 256 * x.reason, 0]).mem.byte a)) ∧
  (∀ (s u : State) (c : Cmd), s.begins 9 5 = some (u, c) → firstFail (u.growChecks c) = none →
    ∃ t, exec .grow s = .next t ∧ (t.poolState (u.pfxPool c.job)).waiters.length = (s.poolState (u.pfxPool c.job)).waiters.length + 1 ∧
      t.live.length = u.live.length + 1 ∧ t.mem = s.mem ∧ t = { u with live := t.live, pools := t.pools }) ∧
  (∀ (s u : State) (c : Cmd) (slot : Nat), s.begins 9 8 = some (u, c) → firstFail (u.retireChecks c) = none →
    leAt (u.params c) 0 2 = slot → u.reqFlag c.job slot 0 = true →
    ∃ t, exec .retire s = .next t ∧ (t.engRegs c.engine).lastStatus = 0 ∧ t.pfx = s.pfx ∧
      (∀ a, c.spares a → t.mem.byte a = (u.storeAll [(u.reqAddr c.job slot + 18, [3]), (u.reqAddr c.job slot + 20, [0]),
        (u.reqAddr c.job slot + 26, [0, 0]), (u.reqAddr c.job slot + 40, leBytes 8 s.now)]).mem.byte a)) ∧
  (∀ (s u : State) (c : Cmd) (slot : Nat), s.begins 9 8 = some (u, c) → firstFail (u.retireChecks c) = none →
    leAt (u.params c) 0 2 = slot → u.reqFlag c.job slot 0 = false → u.reqGet c.job slot 22 2 = 0 → u.reqGet c.job slot 24 2 = 0 →
    c.spares (u.reqAddr c.job slot + 18) →
    ∃ t, exec .retire s = .next t ∧ (t.engRegs c.engine).lastStatus = 0 ∧ t.reqState c.job slot = reqFree) ∧
  (∀ (s u : State) (c : Cmd) (st d : Nat), s.begins 9 8 = some (u, c) → firstFail (u.retireChecks c) = some (st, d) →
    ∃ t, exec .retire s = .next t ∧ t.pfx = s.pfx ∧ (t.engRegs c.engine).lastStatus = st ∧ OnlyCommands s t) ∧
  (∀ (s u : State) (c : Cmd) (slot v : Nat), s.begins 9 9 = some (u, c) → firstFail (u.pinChecks c) = none →
    leAt (u.params c) 0 2 = slot → leAt (u.params c) 2 1 = v → v = 1 ∨ u.reqState c.job slot ≠ reqRetired →
    ∃ t, exec .pin s = .next t ∧ (t.engRegs c.engine).lastStatus = 0 ∧ t.pfx = s.pfx ∧
      (∀ a, c.spares a → a ≠ u.reqAddr c.job slot + 19 → t.mem.byte a = s.mem.byte a) ∧
      (c.spares (u.reqAddr c.job slot + 19) → t.reqFlag c.job slot 0 = decide (v = 1) ∧ t.reqFlag c.job slot 1 = u.reqFlag c.job slot 1)) ∧
  (∀ (s : State) (j r : Nat), j < 8 → bitOf (s.st (0x170100 + 0x10 * j)) 0 = true → r < s.pfxNreq j → s.reqState j r = reqAdmitted →
    s.reqDeadline j r < s.now → s.reqFlag j r 0 = true →
    ∃ t, exec (.requestDeadlineRetire j r) s = .next t ∧ t.reqState j r = reqRetired ∧ t.reqGet j r 20 1 = stDeadline ∧
      t.reqGet j r 26 2 = 0 ∧ t.pfx.cntDeadline = s.pfx.cntDeadline + 1 ∧ (t.engRegs 9).evt.getLsbD 0 = true ∧
      (∀ a, a < s.reqAddr j r ∨ s.reqAddr j r + 64 ≤ a → t.mem.byte a = s.mem.byte a) ∧
      t = { s with mem := t.mem, pfx := t.pfx, eng := t.eng, log := t.log }) ∧
  (∀ (s : State) (j r : Nat), j < 8 → s.reqState j r ≠ reqAdmitted → exec (.requestDeadlineRetire j r) s = .next s)

/-- R341 to R345, R482: each near-channel command whose checks pass writes its result over the rows of slot 7, all at its commit, and no other
byte; a host command reads or writes host memory once, and runs until the host has answered; AUDIT names the first digest that differs.
That a command runs whole in its row is the model's (notes/assumptions/46.md). -/
def Obligations.NearChannel : Prop :=
  (∀ (s u : State) (c : Cmd), s.begins 7 1 = some (u, c) → firstFail (u.copyChecks c) = none →
    ∃ t, exec .copy s = .next t ∧ (t.engRegs c.engine).lastStatus = 0 ∧
      (∀ a, c.spares a → t.mem.byte a = (u.storeAll ((u.slotTensor c 7).place ((u.slotTensor c 0).read u.mem))).mem.byte a) ∧ OnlyCommands s t) ∧
  (∀ (s u : State) (c : Cmd), s.begins 7 2 = some (u, c) → firstFail (u.fillChecks c) = none →
    ∃ t, exec .fill s = .next t ∧ (t.engRegs c.engine).lastStatus = 0 ∧
      (∀ a, c.spares a → t.mem.byte a = (u.storeAll ((u.slotTensor c 7).place
        ((List.range ((u.slotTensor c 7).rows.length * (u.slotTensor c 7).rowLen)).map fun i => (u.params c).getD (i % 8) 0))).mem.byte a) ∧
      OnlyCommands s t) ∧
  (∀ (s u : State) (c : Cmd), s.begins 7 3 = some (u, c) → firstFail (u.gatherChecks c) = none →
    oobCheck (u.gatherIndices c) (u.slotTensor c 0).table.count (leAt (u.params c) 0 1) = none →
    u.nchRows (u.slotTensor c 0).rowLen ((u.slotTensor c 0).table.named (u.gatherIndices c)) = none →
    ∃ t, exec .gather s = .next t ∧ (t.engRegs c.engine).lastStatus = 0 ∧
      (∀ a, c.spares a → t.mem.byte a = (u.storeAll (u.gatherRowWrites c)).mem.byte a) ∧ OnlyCommands s t) ∧
  (∀ (s u : State) (c : Cmd) (p : Nat), s.begins 7 3 = some (u, c) → firstFail (u.gatherChecks c) = none →
    oobCheck (u.gatherIndices c) (u.slotTensor c 0).table.count (leAt (u.params c) 0 1) = some (stBounds, p) →
    ∃ t, exec .gather s = .next t ∧ (t.engRegs c.engine).failStatus = stBounds ∧ (t.engRegs c.engine).failDetail = p ∧
      (∀ a, c.spares a → t.mem.byte a = s.mem.byte a) ∧ OnlyCommands s t) ∧
  (∀ (s u : State) (c : Cmd), s.begins 7 4 = some (u, c) → firstFail (u.poolChecks c) = none →
    oobCheck (u.poolIndices c) (u.slotTensor c 0).table.count (leAt (u.params c) 0 1) = none →
    u.nchRows (u.slotTensor c 0).rowLen ((u.slotTensor c 0).table.named (u.poolIndices c)) = none →
    ∃ t, exec .pool s = .next t ∧ (t.engRegs c.engine).lastStatus = 0 ∧
      (∀ a, c.spares a → t.mem.byte a = (u.storeAll (u.poolWrites c)).mem.byte a) ∧ OnlyCommands s t) ∧
  (∀ (s u : State) (c : Cmd) (st d : Nat), s.begins 7 3 = some (u, c) → firstFail (u.gatherChecks c) = none →
    oobCheck (u.gatherIndices c) (u.slotTensor c 0).table.count (leAt (u.params c) 0 1) = none →
    u.nchRows (u.slotTensor c 0).rowLen ((u.slotTensor c 0).table.named (u.gatherIndices c)) = some (st, d) →
    ∃ t, exec .gather s = .next t ∧ (t.engRegs c.engine).failStatus = st ∧ (t.engRegs c.engine).failDetail = d ∧
      (∀ a, c.spares a → t.mem.byte a = s.mem.byte a) ∧ OnlyCommands s t) ∧
  (∀ (s u : State) (c : Cmd), s.begins 7 5 = some (u, c) → firstFail (u.reduceChecks c) = none →
    ∃ t, exec .reduce s = .next t ∧ (t.engRegs c.engine).lastStatus = 0 ∧
      (∀ a, c.spares a → t.mem.byte a = (u.storeAll (u.reduceSumWrites c)).mem.byte a) ∧ OnlyCommands s t) ∧
  (∀ (s u : State) (c : Cmd) (bs : List Byte), s.hostRuns 8 = none → s.begins 7 8 = some (u, c) → firstFail (u.hostChecks c 7) = none →
    ∃ t, exec (.hostRead (.data bs)) s = .next t ∧ (t.engRegs c.engine).lastStatus = 0 ∧
      .hostRead u.boot.hostCxl (leAt (u.params c) 8 8) (leAt (u.params c) 16 8) ∈ t.out ∧
      (∀ a, c.spares a → t.mem.byte a = (u.storeAll ((u.slotTensor c 7).place (padTo (leAt (u.params c) 16 8) bs))).mem.byte a) ∧ OnlyCommands s t) ∧
  (∀ (s u : State) (c : Cmd) (r : HostReply) (st : Nat), s.hostRuns 8 = none → s.begins 7 8 = some (u, c) → firstFail (u.hostChecks c 7) = none →
    replyFailure r = some st →
    ∃ t, exec (.hostRead r) s = .next t ∧ (t.engRegs c.engine).lastStatus = st ∧ (∀ a, c.spares a → t.mem.byte a = s.mem.byte a) ∧
      OnlyCommands s t) ∧
  (∀ (s u : State) (c : Cmd), s.hostRuns 9 = none → s.begins 7 9 = some (u, c) → firstFail (u.hostChecks c 0) = none →
    ∃ t, exec (.hostWrite .done) s = .next t ∧ (t.engRegs c.engine).lastStatus = 0 ∧
      .hostCmdWrite u.boot.hostCxl (leAt (u.params c) 8 8) ((u.slotTensor c 0).read u.mem) ∈ t.out ∧
      (∀ a, c.spares a → t.mem.byte a = s.mem.byte a) ∧ OnlyCommands s t) ∧
  (∀ (s u : State) (c : Cmd), s.begins 7 0xA = some (u, c) → firstFail (u.digestChecks c) = none →
    ∃ t, exec .digest s = .next t ∧ (t.engRegs c.engine).lastStatus = 0 ∧
      (∀ a, c.spares a → t.mem.byte a = (u.storeAll ((u.slotTensor c 7).place (digest512 ((u.slotTensor c 0).read u.mem)))).mem.byte a) ∧
      OnlyCommands s t) ∧
  (∀ (s u : State) (c : Cmd), s.begins 7 0xB = some (u, c) → firstFail (u.auditChecks c) = none → u.auditBad c = [] →
    ∃ t, exec .audit s = .next t ∧ (t.engRegs c.engine).lastStatus = 0 ∧ (∀ a, c.spares a → t.mem.byte a = s.mem.byte a) ∧ OnlyCommands s t) ∧
  (∀ (s u : State) (c : Cmd) (i : Nat) (r : List Nat), s.begins 7 0xB = some (u, c) → firstFail (u.auditChecks c) = none →
    u.auditBad c = i :: r →
    ∃ t, exec .audit s = .next t ∧ (t.engRegs c.engine).failStatus = 0x32 ∧ (t.engRegs c.engine).failDetail = i ∧ t.log.evt.getLsbD 8 = true ∧
      (∀ a, c.spares a → t.mem.byte a = s.mem.byte a) ∧ OnlyCommands s t) ∧
  (∀ (s u : State) (c : Cmd) (st d : Nat), s.begins 7 1 = some (u, c) → firstFail (u.copyChecks c) = some (st, d) →
    ∃ t, exec .copy s = .next t ∧ (t.engRegs c.engine).failStatus = st ∧ (t.engRegs c.engine).failDetail = d ∧
      (∀ a, c.spares a → t.mem.byte a = s.mem.byte a) ∧ OnlyCommands s t) ∧
  (∀ (s u : State) (c : Cmd), s.hostRuns 8 = none → s.begins 7 8 = some (u, c) → firstFail (u.hostChecks c 7) = none →
    ∃ t, exec (.hostRead .pending) s = .next t ∧ (∃ l ∈ t.live, l.cmd = c) ∧
      .hostRead u.boot.hostCxl (leAt (u.params c) 8 8) (leAt (u.params c) 16 8) ∈ t.out ∧ t.mem = s.mem ∧ OnlyCommands s t) ∧
  (∀ (s : State) (c : Cmd) (bs : List Byte), s.hostRuns 8 = some c →
    ∃ t, exec (.hostRead (.data bs)) s = .next t ∧ (t.engRegs c.engine).lastStatus = 0 ∧
      (∀ a, c.spares a → t.mem.byte a = (s.storeAll ((s.slotTensor c 7).place (padTo (leAt (s.params c) 16 8) bs))).mem.byte a) ∧ OnlyCommands s t) ∧
  (∀ (s : State) (c : Cmd), s.hostRuns 9 = some c →
    ∃ t, exec (.hostWrite .done) s = .next t ∧ (t.engRegs c.engine).lastStatus = 0 ∧ (∀ a, c.spares a → t.mem.byte a = s.mem.byte a) ∧
      OnlyCommands s t)

/-- R209 to R211, R212 to R231: DIR_WRITE replaces its window, DIR_BIAS raises the biases of its window, DIR_READ writes it to slot 0, SELECT
writes its outputs and counts what it dropped and skipped; a command that fails changes no entry. The order of failures inside one row of
Table 8-9, by token then choice, is the model's reading (notes/assumptions/25.md). -/
def Obligations.StrainerCommands : Prop :=
  (∀ (s u : State) (c : Cmd) (b n : Nat), s.begins 2 2 = some (u, c) → firstFail (u.dirWriteChecks c) = none → dirWindow (u.params c) = (b, n) →
    ∃ t, exec .dirWrite s = .next t ∧ (∀ i, i < (u.dirSource c n).length → t.dirEntry (b + i) = (u.dirSource c n).getD i 0) ∧
      (∀ i, i < b ∨ b + (u.dirSource c n).length ≤ i → t.dirEntry i = s.dirEntry i) ∧ t.str.cntCmd = s.str.cntCmd + 1 ∧
      (t.engRegs c.engine).lastStatus = 0 ∧ (∀ a, c.spares a → t.mem.byte a = s.mem.byte a)) ∧
  (∀ (s u : State) (c : Cmd) (st d : Nat), s.begins 2 2 = some (u, c) → firstFail (u.dirWriteChecks c) = some (st, d) →
    ∃ t, exec .dirWrite s = .next t ∧ t.str = { s.str with cntCmd := s.str.cntCmd + 1 } ∧ (t.engRegs c.engine).failStatus = st ∧
      (t.engRegs 2).evt.getLsbD 3 = true ∧ (∀ a, c.spares a → t.mem.byte a = s.mem.byte a)) ∧
  (∀ (s u : State) (c : Cmd) (b n : Nat), s.begins 2 3 = some (u, c) → firstFail (u.dirChecks c 0xA (dirShape n) true true []) = none →
    dirWindow (u.params c) = (b, n) →
    ∃ t, exec .dirRead s = .next t ∧ t.str.dir = s.str.dir ∧ (t.engRegs c.engine).lastStatus = 0 ∧
      (∀ a, c.spares a → t.mem.byte a = (u.storeAll ((u.slotTensor c 0).place
        ((List.range n).flatMap fun i => leBytes 32 (u.dirEntry (b + i)).toNat))).mem.byte a)) ∧
  (∀ (s u : State) (c : Cmd) (b n : Nat), s.begins 2 4 = some (u, c) → firstFail (u.dirBiasChecks c) = none → dirWindow (u.params c) = (b, n) →
    ((u.slotTensor c 0).vals u.mem).length = n →
    ∃ t, exec .dirBias s = .next t ∧ (t.engRegs c.engine).lastStatus = 0 ∧
      (∀ i, i < n → t.dirEntry (b + i) = biasPlus (s.dirEntry (b + i)) (((u.slotTensor c 0).vals u.mem).getD i fZero)) ∧
      (∀ i, i < b ∨ b + n ≤ i → t.dirEntry i = s.dirEntry i) ∧ (∀ a, c.spares a → t.mem.byte a = s.mem.byte a)) ∧
  (∀ (s u : State) (c : Cmd) (r : SelResult), s.begins 2 1 = some (u, c) → firstFail (u.selChecks c) = none →
    u.select c (selParams (u.params c)) = r →
    ∃ t, exec .select s = .next t ∧ t.str = { s.str with cntCmd := s.str.cntCmd + 1, lists := tset 0 s.str.lists (u.slotTensor c 4).base ((selParams (u.params c)).k + 1), cntNan := s.str.cntNan + r.nans.length, cntDrop := s.str.cntDrop + r.dropped.length, cntSkip := s.str.cntSkip + ((List.range (selParams (u.params c)).t).filter r.skipped).length } ∧
      (t.engRegs c.engine).lastStatus = 0 ∧
      (∀ a, c.spares a → t.mem.byte a = (u.storeAll (u.selWrites c (selParams (u.params c)) r)).mem.byte a)) ∧
  (∀ (s u : State) (c : Cmd) (st d : Nat), s.begins 2 1 = some (u, c) → firstFail (u.selChecks c) = some (st, d) →
    ∃ t, exec .select s = .next t ∧ t.str = { s.str with cntCmd := s.str.cntCmd + 1 } ∧ (t.engRegs c.engine).failStatus = st ∧
      (∀ a, c.spares a → t.mem.byte a = s.mem.byte a))

/-- R199 to R204: INSERT folds its records into the job's table, or fails with BOUNDS and changes nothing; DRAIN writes the merged table to
its slots and empties it; CLEAR empties it; a table of another job is out of bounds. Which slot is which, and that bytes after the table
number are not checked, is the model's reading (notes/assumptions/9.md, 25.md). -/
def Obligations.UrnCommands : Prop :=
  (∀ (s u : State) (c : Cmd) (n : Nat) (x : UrnTable), s.begins 4 1 = some (u, c) → firstFail (u.urnInsertChecks c) = none → u.urnTableOf c = n →
    (u.urnRecords c (u.urnCfg n)).foldl (fun (o : Option UrnTable) r => o.bind fun t => t.insert (u.urnCfg n) r) (some (u.urnTable n)) = some x →
    ∃ t, exec .urnInsert s = .next t ∧ t.urnTable n = x ∧ (∀ i, i ≠ n → t.urnTable i = s.urnTable i) ∧ (t.engRegs c.engine).lastStatus = 0 ∧
      (∀ a, c.spares a → t.mem.byte a = (u.storeAll (x.image (u.urnCfg n))).mem.byte a)) ∧
  (∀ (s u : State) (c : Cmd) (n : Nat), s.begins 4 1 = some (u, c) → firstFail (u.urnInsertChecks c) = none → u.urnTableOf c = n →
    (u.urnRecords c (u.urnCfg n)).foldl (fun (o : Option UrnTable) r => o.bind fun t => t.insert (u.urnCfg n) r) (some (u.urnTable n)) = none →
    ∃ t, exec .urnInsert s = .next t ∧ t.urn = s.urn ∧ (t.engRegs c.engine).failStatus = stBounds ∧ OnlyCommands s t) ∧
  (∀ (s u : State) (c : Cmd) (n : Nat), s.begins 4 2 = some (u, c) → firstFail (u.urnDrainChecks c) = none → u.urnTableOf c = n →
    ∃ t, exec .urnDrain s = .next t ∧ t.urnTable n = {} ∧ (∀ i, i ≠ n → t.urnTable i = s.urnTable i) ∧ (t.engRegs c.engine).lastStatus = 0 ∧
      (∀ a, c.spares a → t.mem.byte a = ((u.storeAll ((u.urnTable n).cleared (u.urnCfg n))).storeAll (u.urnDrainWrites c)).mem.byte a)) ∧
  (∀ (s u : State) (c : Cmd) (n : Nat), s.begins 4 3 = some (u, c) → firstFail [u.urnOwned c n] = none → u.urnTableOf c = n →
    ∃ t, exec .urnClear s = .next t ∧ t.urnTable n = {} ∧ (∀ i, i ≠ n → t.urnTable i = s.urnTable i) ∧ (t.engRegs c.engine).lastStatus = 0 ∧
      (∀ a, c.spares a → t.mem.byte a = (u.storeAll ((u.urnTable n).cleared (u.urnCfg n))).mem.byte a)) ∧
  (∀ (s u : State) (c : Cmd) (n : Nat), s.begins 4 3 = some (u, c) → u.urnTableOf c = n → (u.urnCfg n).job ≠ c.job →
    ∃ t, exec .urnClear s = .next t ∧ t.urn = s.urn ∧ (t.engRegs c.engine).failStatus = stBounds ∧ (t.engRegs c.engine).failDetail = 0 ∧
      OnlyCommands s t)

/-- R357 to R364: CREATE makes one object at an index that was free; a write changes its range and a read answers the object; a lost page
makes the read fail; a deleted object's handle is stale; a block that failed is retired, and the last spare gone makes Tin read-only;
background work moves blocks and changes no object, and an unmounted Tin does nothing. How many blocks the flash has is the
implementation's, so the coldest block is named and not computed. Which blocks hold which unit, the index and the first generation of an
object and STAT's three words are the model's (notes/assumptions/26.md). -/
def Obligations.TinObjects : Prop :=
  (∀ (s u : State) (c : Cmd), s.begins 10 1 = some (u, c) → u.tinMounted = true → firstFail (u.createChecks c) = none →
    ∃ t i gen, exec .create s = .next t ∧ (t.engRegs c.engine).lastStatus = 0 ∧
      (s.tin.objects.all fun o => !(o.ns == u.tinNs c.job && o.index == i && o.live)) = true ∧
      t.tinAt (u.tinNs c.job) i = some { ns := u.tinNs c.job, index := i, gen, live := true, size := leAt (u.params c) 8 8, data := [] } ∧
      (∀ n j, n ≠ u.tinNs c.job ∨ j ≠ i → t.tinAt n j = s.tinAt n j) ∧ t.tin.used = s.tin.used + leAt (u.params c) 8 8 ∧
      (∀ a, c.spares a → t.mem.byte a =
        (u.tinOut c [tinHandle i (u.tinNs c.job) gen % 2 ^ 32, tinHandle i (u.tinNs c.job) gen / 2 ^ 32]).mem.byte a) ∧
      OnlyCommands { s with tin := t.tin, freeCount := t.freeCount } t) ∧
  (∀ (s u : State) (c : Cmd) (h : Nat) (failed : List Nat), s.begins 10 2 = some (u, c) → u.tinMounted = true →
    firstFail (u.tinMoveChecks c (2 ^ 30) ++ [u.tinWritable] ++ u.eccSlots c [0] []) = none → leAt (u.params c) 0 8 = h →
    ∃ t, exec (.tinWrite failed) s = .next t ∧ (t.engRegs c.engine).lastStatus = 0 ∧
      (∀ k, k < ((u.slotTensor c 0).read u.mem).length →
        tget 0 (t.tinObject h).data (leAt (u.params c) 8 8 + k) = ((u.slotTensor c 0).read u.mem).getD k 0) ∧
      (∀ k, k < leAt (u.params c) 8 8 ∨ leAt (u.params c) 8 8 + ((u.slotTensor c 0).read u.mem).length ≤ k →
        tget 0 (t.tinObject h).data k = tget 0 (s.tinObject h).data k) ∧
      (∀ p ∈ (t.tinObject h).lost, p ∈ (s.tinObject h).lost ∧ inside (p * tinPage, tinPage) (leAt (u.params c) 8 8, leAt (u.params c) 16 8) = false) ∧
      (∀ m j, m ≠ field h 31 24 ∨ j ≠ field h 23 0 → t.tinAt m j = s.tinAt m j) ∧ t.tin.spare ≤ s.tin.spare ∧
      (t.tin.state = 2 ∨ t.tin.state = 3 ∧ t.tin.spare = 0) ∧
      (∀ n, (t.tin.block n).retired = true → (s.tin.block n).retired = true ∨ n ∈ failed) ∧ (∀ a, c.spares a → t.mem.byte a = s.mem.byte a) ∧ OnlyCommands { s with tin := t.tin } t) ∧
  (∀ (s u : State) (c : Cmd) (ps : List (Nat × Nat × Nat)) (bad : List Nat) (h : Nat), s.begins 10 3 = some (u, c) → u.tinMounted = true →
    firstFail (u.tinMoveChecks c (2 ^ 32) ++ u.eccSlots c [] [0]) = none → leAt (u.params c) 0 8 = h →
    (∀ x ∈ (u.tinObject h).pageFails (leAt (u.params c) 8 8) (leAt (u.params c) 16 8) ps, x.2 = false) →
    ((u.tinObject h).lost.any fun p => inside (p * tinPage, tinPage) (leAt (u.params c) 8 8, leAt (u.params c) 16 8)) = false →
    ∃ t, exec (.tinRead ps bad) s = .next t ∧ (t.engRegs c.engine).lastStatus = 0 ∧ t.tinObject h = s.tinObject h ∧
      t.tin.cntParity = s.tin.cntParity + ((u.tinObject h).pageFails (leAt (u.params c) 8 8) (leAt (u.params c) 16 8) ps).length ∧ t.tin.cntLost = s.tin.cntLost ∧
      (∀ n, (t.tin.block n).retired = true → (s.tin.block n).retired = true ∨ n ∈ bad) ∧
      (∀ a, c.spares a → t.mem.byte a = (u.storeAll ((u.slotTensor c 0).place ((List.range (leAt (u.params c) 16 8)).map fun i =>
        tget 0 (s.tinObject h).data (leAt (u.params c) 8 8 + i)))).mem.byte a) ∧ OnlyCommands { s with tin := t.tin } t) ∧
  (∀ (s u : State) (c : Cmd) (ps : List (Nat × Nat × Nat)) (bad : List Nat) (p h : Nat), s.begins 10 3 = some (u, c) → u.tinMounted = true →
    firstFail (u.tinMoveChecks c (2 ^ 32) ++ u.eccSlots c [] [0]) = none → leAt (u.params c) 0 8 = h →
    ((p, true) ∈ (u.tinObject h).pageFails (leAt (u.params c) 8 8) (leAt (u.params c) 16 8) ps ∨ p ∈ (u.tinObject h).lost) → inside (p * tinPage, tinPage) (leAt (u.params c) 8 8, leAt (u.params c) 16 8) = true →
    ∃ t, exec (.tinRead ps bad) s = .next t ∧ (t.engRegs c.engine).failStatus = stEccUncorr ∧ p ∈ (t.tinObject h).lost ∧
      (∀ a, c.spares a → t.mem.byte a = s.mem.byte a) ∧ OnlyCommands { s with tin := t.tin } t) ∧
  (∀ (s u : State) (c : Cmd) (failed : List Nat) (h : Nat), s.begins 10 4 = some (u, c) → u.tinMounted = true → leAt (u.params c) 0 8 = h →
    firstFail [zeroParams (u.params c) (offsets 8 63), u.tinRange c h 0 0] = none →
    ∃ t, exec (.tinDelete failed) s = .next t ∧ (t.engRegs c.engine).lastStatus = 0 ∧ (t.tinObject h).live = false ∧
      (t.tinObject h).gen = ((s.tinObject h).gen + 1) % 65536 ∧ t.tin.used = s.tin.used - (s.tinObject h).size ∧
      (∀ n, (t.tin.block n).retired = true → (s.tin.block n).retired = true ∨ n ∈ failed) ∧ t.tin.spare ≤ s.tin.spare ∧
      (∀ m j, m ≠ field h 31 24 ∨ j ≠ field h 23 0 → t.tinAt m j = s.tinAt m j) ∧
      (∀ a, c.spares a → t.mem.byte a = s.mem.byte a) ∧ OnlyCommands { s with tin := t.tin } t) ∧
  (∀ (s u : State) (c : Cmd) (o : TinObject), s.begins 10 5 = some (u, c) → u.tinMounted = true → firstFail (u.tinStatChecks c) = none →
    s.tinObject (leAt (u.params c) 0 8) = o →
    ∃ t, exec .tinStat s = .next t ∧ (t.engRegs c.engine).lastStatus = 0 ∧
      (∀ a, c.spares a → t.mem.byte a = (u.tinOut c [o.size % 2 ^ 32, o.size / 2 ^ 32, o.gen]).mem.byte a) ∧ OnlyCommands s t) ∧
  (∀ (s u : State) (c : Cmd) (i : Instr) (op : Nat) (n : List Nat) (ps : List (Nat × Nat × Nat)), s.begins 10 op = some (u, c) → u.tinMounted = false →
    (i, op) ∈ [(Instr.create, 1), (.tinWrite n, 2), (.tinRead ps n, 3), (.tinDelete n, 4), (.tinStat, 5)] →
    ∃ t, exec i s = .next t ∧ (t.engRegs c.engine).failStatus = stEngineAbsent ∧ (∀ a, c.spares a → t.mem.byte a = s.mem.byte a) ∧
      OnlyCommands s t) ∧
  (∀ (s u : State) (c : Cmd) (n : List Nat) (st d : Nat), s.begins 10 2 = some (u, c) → u.tinMounted = true →
    firstFail (u.tinMoveChecks c (2 ^ 30) ++ [u.tinWritable] ++ u.eccSlots c [0] []) = some (st, d) →
    ∃ t, exec (.tinWrite n) s = .next t ∧ (t.engRegs c.engine).failStatus = st ∧ (∀ a, c.spares a → t.mem.byte a = s.mem.byte a) ∧
      OnlyCommands s t) ∧
  (∀ (s : State) (failed : List Nat),
    ∃ t, exec (.wearLevelMove failed) s = .next t ∧ t.tin.objects = s.tin.objects ∧
      (∀ n, s.tinMounted = true → 512 < s.tin.spread → s.tin.coldest (s.tin.allBlocks.filter fun m => !(s.tin.block m).units.isEmpty) = some n →
        t = { s with tin := s.tin.move failed n } ∧ t.tin.cntMove = s.tin.cntMove + 1) ∧
      (s.tinMounted = false ∨ s.tin.spread ≤ 512 → t = s)) ∧
  (∀ (s : State) (b : Nat) (failed : List Nat), s.tinMounted = true → 50000 ≤ (s.tin.block b).reads →
    ∃ t, exec (.readDisturbMove b failed) s = .next t ∧ t = { s with tin := s.tin.move failed b } ∧ t.tin.cntMove = s.tin.cntMove + 1 ∧
      t.tin.objects = s.tin.objects ∧ t.tin.spare ≤ s.tin.spare) ∧
  (∀ (s : State) (b : Nat), s.tinMounted = true → 50000 ≤ (s.tin.block b).reads → (s.tin.block b).units = [] →
    ∃ t, exec (.readDisturbMove b [b]) s = .next t ∧ (t.tin.block b).retired = true ∧ t.tin.spare = s.tin.spare - 1 ∧
      (s.tin.spare ≤ 1 → t.tin.state = 3) ∧ (1 < s.tin.spare → t.tin.state = s.tin.state)) ∧
  (∀ (s : State) (b : Nat), s.tinMounted = true → 50000 ≤ (s.tin.block b).reads → (s.tin.block b).units = [] →
    ∃ t, exec (.readDisturbMove b []) s = .next t ∧ (t.tin.block b).retired = (s.tin.block b).retired ∧
      (t.tin.block b).erases = (s.tin.block b).erases + 1 ∧ (t.tin.block b).reads = 0 ∧ t.tin.spare = s.tin.spare) ∧
  (∀ (s : State) (b : Nat) (weak failed : List Nat), s.tinMounted = true → (s.tin.block b).patrolAt + patrolPeriod ≤ s.poweredTime →
    ∃ t, exec (.retentionPatrol b weak failed) s = .next t ∧ (t.tin.block b).patrolAt = s.poweredTime ∧ t.tin.cntMove = s.tin.cntMove ∧
      t.tin.objects = s.tin.objects ∧ t = { s with tin := t.tin } ∧
      (weak = [] → (t.tin.block b).reads = (s.tin.block b).reads + 1 ∧ (∀ n, n ≠ b → t.tin.block n = s.tin.block n))) ∧
  (∀ (s : State) (b : Nat) (weak failed : List Nat), s.tinMounted = false ∨ s.poweredTime < (s.tin.block b).patrolAt + patrolPeriod →
    exec (.retentionPatrol b weak failed) s = .next s)

/-- R366 to R376: UPDATE writes the blocks that are not frozen and one ratio entry; a line that fails ends it before its block, and a scan
that meets one beside a non-finite gradient before any; a skipped command changes its entry alone; a command that fails a check writes
nothing. The DETAIL of a bad line of the mask or the ratio entry is the model's (notes/assumptions/27.md). R374: STEP advances or sets
each counter of its range and no other; past its job's range, or at the highest value, none changes. -/
def Obligations.UpdatesAndStepCounters : Prop :=
  (∀ (s u : State) (c : Cmd) (p : UpdParams) (x : UpdTensors), s.begins 7 6 = some (u, c) → updParams (u.params c) = p →
    firstFail (u.updChecks c p) = none → u.updTensors c p = x → u.updTablesBad p x = false →
    (p.nonfin = true → u.updScanBad x = none ∧ u.updScan x = 0) → u.updBad p x = none →
    ∃ t, exec .update s = .next t ∧ (t.engRegs c.engine).lastStatus = 0 ∧
      (∀ a, c.spares a → t.mem.byte a =
        ((u.storeAll ((u.updOuts p x (u.updLive p x)).flatMap (·.writes))).storeAll (u.updEntry p x (u.updOuts p x (u.updLive p x)))).mem.byte a) ∧
      t.upd.cntElems = s.upd.cntElems + blockElems x.w.size (u.updLive p x) ∧ t.upd.steps = s.upd.steps ∧
      OnlyCommands { s with upd := t.upd } t) ∧
  (∀ (s u : State) (c : Cmd) (p : UpdParams) (x : UpdTensors) (b : Nat), s.begins 7 6 = some (u, c) → updParams (u.params c) = p →
    firstFail (u.updChecks c p) = none → u.updTensors c p = x → u.updTablesBad p x = false →
    (p.nonfin = true → u.updScanBad x = none ∧ u.updScan x = 0) → u.updBad p x = some b →
    ∃ t, exec .update s = .next t ∧ (t.engRegs c.engine).failStatus = stEccUncorr ∧ (t.engRegs c.engine).failDetail = b ∧
      (∀ a, c.spares a → t.mem.byte a =
        (u.storeAll ((u.updOuts p x ((u.updLive p x).filter fun x => decide (x < b))).flatMap (·.writes))).mem.byte a) ∧
      (t.engRegs 11).evt.getLsbD 2 = true ∧ OnlyCommands { s with upd := t.upd } t) ∧
  (∀ (s u : State) (c : Cmd) (p : UpdParams) (x : UpdTensors), s.begins 7 6 = some (u, c) → updParams (u.params c) = p →
    firstFail (u.updChecks c p) = none → u.updTensors c p = x → u.updTablesBad p x = false → p.nonfin = true → u.updScanBad x = none →
    u.updScan x ≠ 0 →
    ∃ t, exec .update s = .next t ∧ (t.engRegs c.engine).lastStatus = 0 ∧
      (∀ a, c.spares a → t.mem.byte a = (u.storeAll (u.updSkipEntry p x)).mem.byte a) ∧
      t.upd = { s.upd with cntNonfin := s.upd.cntNonfin + u.updScan x } ∧ (t.engRegs 11).evt.getLsbD 0 = true ∧
      (t.engRegs 11).evt.getLsbD 1 = true ∧ OnlyCommands { s with upd := t.upd } t) ∧
  (∀ (s u : State) (c : Cmd) (p : UpdParams) (x : UpdTensors) (b : Nat), s.begins 7 6 = some (u, c) → updParams (u.params c) = p →
    firstFail (u.updChecks c p) = none → u.updTensors c p = x → u.updTablesBad p x = false → p.nonfin = true → u.updScanBad x = some b →
    u.updScan x ≠ 0 →
    ∃ t, exec .update s = .next t ∧ (t.engRegs c.engine).failStatus = stEccUncorr ∧ (t.engRegs c.engine).failDetail = max b p.first ∧
      (∀ a, c.spares a → t.mem.byte a = s.mem.byte a) ∧ (t.engRegs 11).evt.getLsbD 2 = true ∧ t.upd = s.upd ∧ OnlyCommands s t) ∧
  (∀ (s u : State) (c : Cmd) (p : UpdParams) (x : UpdTensors) (b : Nat), s.begins 7 6 = some (u, c) → updParams (u.params c) = p →
    firstFail (u.updChecks c p) = none → u.updTensors c p = x → u.updTablesBad p x = false → p.nonfin = true → u.updScanBad x = some b →
    u.updScan x = 0 →
    ∃ t, exec .update s = .next t ∧ (t.engRegs c.engine).failStatus = stEccUncorr ∧ (t.engRegs c.engine).failDetail = u.updStop p x b ∧
      (∀ a, c.spares a → t.mem.byte a =
        (u.storeAll ((u.updOuts p x ((u.updLive p x).filter fun y => decide (y < u.updStop p x b))).flatMap (·.writes))).mem.byte a) ∧
      (t.engRegs 11).evt.getLsbD 2 = true ∧ OnlyCommands { s with upd := t.upd } t) ∧
  (∀ (s u : State) (c : Cmd) (st d : Nat), s.begins 7 6 = some (u, c) → firstFail (u.updChecks c (updParams (u.params c))) = some (st, d) →
    ∃ t, exec .update s = .next t ∧ (t.engRegs c.engine).failStatus = st ∧ (t.engRegs c.engine).failDetail = d ∧
      (∀ a, c.spares a → t.mem.byte a = s.mem.byte a) ∧ OnlyCommands s t) ∧
  (∀ (s u : State) (c : Cmd), s.begins 7 7 = some (u, c) → leAt (u.params c) 0 1 = 0 → firstFail (u.stepAdvanceChecks c) = none →
    ∃ t, exec .stepAdvance s = .next t ∧ (t.engRegs c.engine).lastStatus = 0 ∧
      (∀ g, g ∈ stepGroups (u.params c) → tget 0 t.upd.steps g = tget 0 s.upd.steps g + 1) ∧
      (∀ g, g ∉ stepGroups (u.params c) → tget 0 t.upd.steps g = tget 0 s.upd.steps g) ∧ (∀ a, c.spares a → t.mem.byte a = s.mem.byte a) ∧
      OnlyCommands { s with upd := { s.upd with steps := t.upd.steps } } t) ∧
  (∀ (s u : State) (c : Cmd) (st d : Nat), s.begins 7 7 = some (u, c) → leAt (u.params c) 0 1 ≠ 1 → firstFail (u.stepAdvanceChecks c) = some (st, d) →
    ∃ t, exec .stepAdvance s = .next t ∧ (t.engRegs c.engine).failStatus = st ∧ (t.engRegs c.engine).failDetail = d ∧
      (∀ a, c.spares a → t.mem.byte a = s.mem.byte a) ∧ OnlyCommands s t) ∧
  (∀ (s u : State) (c : Cmd), s.begins 7 7 = some (u, c) → leAt (u.params c) 0 1 = 1 → firstFail (u.stepChecks c) = none →
    ∃ t, exec .stepSet s = .next t ∧ (t.engRegs c.engine).lastStatus = 0 ∧
      (∀ g, g ∈ stepGroups (u.params c) → tget 0 t.upd.steps g = BitVec.ofNat 32 (leAt (u.params c) 8 4)) ∧
      (∀ g, g ∉ stepGroups (u.params c) → tget 0 t.upd.steps g = tget 0 s.upd.steps g) ∧ (∀ a, c.spares a → t.mem.byte a = s.mem.byte a) ∧
      OnlyCommands { s with upd := { s.upd with steps := t.upd.steps } } t)

/-- R292, R297 to R301, R304, R311: a write that its stream's record accepts and its target allows changes the bytes it names, once, and its
answer carries the old word of an atomic; a STORE_F raises its flag after its data, and waits while a gap is open. That a held STORE_F
which its target refuses counts as applied is the model's reading (notes/assumptions/39.md). -/
def Obligations.RemoteWrites : Prop :=
  (∀ (s u w : State) (q : InReq) (i : Instr) (op old x : Nat), s.arrives op = some (u, q) → u.acceptWrite q = some w → w.targetCheck q = 0 →
    w.mem.nat (localOf q.req.addr.toNat) q.req.len = old →
    (i, op, x) ∈ [(Instr.aadd, 0x10, old + q.req.a.toNat), (.aand, 0x13, old &&& q.req.a.toNat), (.aor, 0x14, old ||| q.req.a.toNat),
      (.axor, 0x15, old ^^^ q.req.a.toNat), (.aswap, 0x16, q.req.a.toNat),
      (.amin, 0x11, if signedOf (8 * q.req.len) q.req.a.toNat < signedOf (8 * q.req.len) old then q.req.a.toNat else old),
      (.amax, 0x12, if signedOf (8 * q.req.len) old < signedOf (8 * q.req.len) q.req.a.toNat then q.req.a.toNat else old),
      (.acas, 0x17, if old = q.req.a.toNat % 2 ^ (8 * q.req.len) then q.req.b.toNat else old)] →
    ∃ v, exec i s = .next (v.respond q 0 (BitVec.ofNat 64 old) []) ∧
      (∀ a, v.mem.byte a = (s.mem.write (localOf q.req.addr.toNat) (leBytes q.req.len x)).byte a) ∧ Accounted w v q ∧
      (w.landings q.req = [] → v.cores = s.cores) ∧ v.fab.ingress = u.fab.ingress ∧ AppliedOnly s v) ∧
  (∀ (s u w : State) (q : InReq) (old : Nat), s.arrives 0x18 = some (u, q) → u.acceptWrite q = some w → w.targetCheck q = 0 →
    w.mem.nat (localOf q.req.addr.toNat) q.req.len = old →
    ∃ v, exec .fadd s = .next (v.respond q 0 (BitVec.ofNat 64 old) []) ∧
      (∀ a, v.mem.byte a = (s.mem.write (localOf q.req.addr.toNat) (leBytes q.req.len
        (encodeElem 0 .rne ((decodeElem 0 old).add (decodeElem 0 (q.req.a.toNat % 2 ^ 32)))))).byte a) ∧ Accounted w v q ∧
      (w.landings q.req = [] → v.cores = s.cores) ∧ v.fab.ingress = u.fab.ingress ∧ v.fab.cntFpAtomic = s.fab.cntFpAtomic + 1 ∧
      AppliedOnly { s with fab := { s.fab with cntFpAtomic := v.fab.cntFpAtomic } } v) ∧
  (∀ (s u w : State) (q : InReq), s.arrives 2 = some (u, q) → u.acceptWrite q = some w → w.targetCheck q = 0 →
    ∃ v, exec .remoteStore s = .next (v.respond q 0 0 []) ∧
      (∀ a, v.mem.byte a = (s.mem.write (localOf q.req.addr.toNat) (padTo q.req.len q.req.data)).byte a) ∧ Accounted w v q ∧
      (w.landings q.req = [] → v.cores = s.cores) ∧ v.fab.ingress = u.fab.ingress ∧ AppliedOnly s v) ∧
  (∀ (s u w : State) (q : InReq), s.arrives 3 = some (u, q) → u.acceptWrite q = some w → w.gapClosed q = true → w.targetCheck q = 0 →
    ∃ v, exec .remoteStoreF s = .next (v.respond q 0 0 []) ∧
      (∀ a, v.mem.byte a = ((s.mem.write (localOf q.req.addr.toNat) (padTo q.req.len q.req.data)).write q.req.flagAddr
        (leBytes 8 ((s.mem.write (localOf q.req.addr.toNat) (padTo q.req.len q.req.data)).nat q.req.flagAddr 8 + 1))).byte a) ∧ Accounted w v q ∧
      (w.landings q.req = [] → v.cores = s.cores) ∧ v.fab.ingress = u.fab.ingress ∧ AppliedOnly s v) ∧
  (∀ (s u w : State) (q : InReq), s.arrives 3 = some (u, q) → u.acceptWrite q = some w → w.gapClosed q = false → s.fab.held.length < 1024 →
    ∃ t, exec .remoteStoreF s = .next t ∧ t.fab.held = s.fab.held ++ [{ inreq := q, since := s.now }] ∧
      s.fab.heldPeak ≤ t.fab.heldPeak ∧ t.fab.held.length ≤ t.fab.heldPeak ∧ t.fab.ingress = u.fab.ingress ∧ t.mem = s.mem ∧
      t = { s with ports := t.ports, out := t.out, fab := { s.fab with ingress := t.fab.ingress, held := t.fab.held, heldPeak := t.fab.heldPeak } }) ∧
  (∀ (s u w : State) (q : InReq), s.arrives 3 = some (u, q) → u.acceptWrite q = some w → w.gapClosed q = false → 1024 ≤ s.fab.held.length →
    exec .remoteStoreF s = .next s) ∧
  (∀ (s : State) (h : HeldStore) (q : InReq), (s.fab.held.find? fun h => s.gapClosed h.inreq) = some h → h.inreq = q → s.targetCheck q = 0 →
    ∃ v, exec .storeFRelease s = .next (v.respond q 0 0 []) ∧ v.fab.held = s.fab.held.erase h ∧
      (∀ a, v.mem.byte a = ((s.mem.write (localOf q.req.addr.toNat) (padTo q.req.len q.req.data)).write q.req.flagAddr
        (leBytes 8 ((s.mem.write (localOf q.req.addr.toNat) (padTo q.req.len q.req.data)).nat q.req.flagAddr 8 + 1))).byte a) ∧ Accounted s v q ∧
      (s.landings q.req = [] → v.cores = s.cores) ∧ AppliedOnly { s with fab := { s.fab with held := v.fab.held } } v) ∧
  (∀ (s : State) (h : HeldStore) (q : InReq) (r : StreamRec),
    (s.fab.held.find? fun h => decide (h.since + s.loadTimeout / 2 ≤ s.now) && !s.gapClosed h.inreq) = some h → h.inreq = q →
    s.stream q.src = some r → s.targetCheck q = 0 →
    ∃ v, exec .storeFGapTimeout s = .next (v.respond q stCheckMismatch 0 []) ∧ v.fab.held = s.fab.held.erase h ∧
      (∀ a, v.mem.byte a = (s.mem.write (localOf q.req.addr.toNat) (padTo q.req.len q.req.data)).byte a) ∧
      v.fab.cntGap = s.fab.cntGap + (s.missing q r).length ∧ v.fab.rmEvt = s.fab.rmEvt ||| 8 ∧
      v.stream q.src = some ((s.missing q r ++ [q.req.rseq]).foldl StreamRec.account r) ∧
      (s.landings q.req = [] → v.cores = s.cores) ∧
      AppliedOnly { s with fab := { s.fab with held := v.fab.held, cntGap := v.fab.cntGap, rmEvt := v.fab.rmEvt } } v)

/-- R292, R300, R308: a write its record refuses, or its target, changes no byte of memory, and its answer says why; a LOAD answers the bytes
it names and changes none. R294, R296, R307 to R310: a request leaves with a tag that none outstanding carries and a deadline; its
response writes what it brings at the requester, and an end other than OK leaves all-ones and a fault record; one to device 0xFFFF, or
without a route, ends at issue. A response of the deadline tick wins over the deadline. That a SYNC goes with the first write whatever its
end, and that a write not sent takes no RSEQ, is the model's reading (notes/assumptions/39.md). -/
def Obligations.RemoteAnswers : Prop :=
  (∀ (s u : State) (q : InReq) (i : Instr) (op : Nat), s.arrives op = some (u, q) → u.acceptWrite q = none →
    (i, op) ∈ [(Instr.remoteStore, 2), (.remoteStoreF, 3), (.aadd, 0x10), (.amin, 0x11), (.amax, 0x12), (.aand, 0x13), (.aor, 0x14),
      (.axor, 0x15), (.aswap, 0x16), (.acas, 0x17), (.fadd, 0x18)] →
    ∃ v, exec i s = .next (v.respond q stCheckMismatch 0 []) ∧ v = { u with fab := { u.fab with rmEvt := s.fab.rmEvt ||| 16 } } ∧
      v.mem = s.mem ∧ v.fab.streams = s.fab.streams) ∧
  (∀ (s u w : State) (q : InReq) (i : Instr) (op st : Nat), s.arrives op = some (u, q) → u.acceptWrite q = some w → w.targetCheck q = st →
    st ≠ 0 →
    (i, op) ∈ [(Instr.remoteStore, 2), (.aadd, 0x10), (.amin, 0x11), (.amax, 0x12), (.aand, 0x13), (.aor, 0x14),
      (.axor, 0x15), (.aswap, 0x16), (.acas, 0x17), (.fadd, 0x18)] →
    ∃ v, exec i s = .next (v.respond q st 0 []) ∧ v.mem = s.mem ∧ v.cores = s.cores ∧ Accounted w v q ∧ v.fab.ingress = u.fab.ingress ∧
      AppliedOnly s v) ∧
  (∀ (s u : State) (q : InReq), s.arrives 1 = some (u, q) → u.targetCheck q = 0 →
    ∃ v, exec .remoteLoad s = .next (v.respond q 0 0 (s.mem.bytes (localOf q.req.addr.toNat) q.req.len)) ∧ v = u ∧ v.mem = s.mem ∧
      v.fab.streams = s.fab.streams) ∧
  (∀ (s u : State) (q : InReq) (st : Nat), s.arrives 1 = some (u, q) → u.targetCheck q = st → st ≠ 0 →
    ∃ v, exec .remoteLoad s = .next (v.respond q st 0 []) ∧ v = u.tallyEcc st ∧ v.mem = s.mem) ∧
  (∀ (s u : State) (i : Nat) (r r' : RemReq), s.nextSend = some i → s.fab.toSend.getD i {} = r → s.fab.outstanding.length < 65536 →
    devOf r.addr.toNat ≠ 0xFFFF →
    { r with tag := s.freeTag, sync := r.isWrite && !tget false s.fab.synced (devOf r.addr.toNat), rseq := if r.isWrite then tget 0 s.fab.rseq (devOf r.addr.toNat) else 0, deadline := s.now + s.loadTimeout } = r' →
    State.inject { s with fab := { s.fab with toSend := s.fab.toSend.eraseIdx i } } 2 0x10 (devOf r.addr.toNat) (flowKey r.addr.toNat)
      (RemReq.payload r') = some u →
    ∃ t, exec .remoteRequestSend s = .next t ∧ t.fab.outstanding = s.fab.outstanding ++ [r'] ∧ (∀ x ∈ s.fab.outstanding, x.tag ≠ r'.tag) ∧
      t.fab.toSend = s.fab.toSend.eraseIdx i ∧ t.fab.nextTag = (r'.tag + 1) % 65536 ∧
      (r.isWrite = true → tget 0 t.fab.rseq (devOf r.addr.toNat) = (tget 0 s.fab.rseq (devOf r.addr.toNat) + 1) % 65536) ∧
      (r.isWrite = false → t.fab.rseq = s.fab.rseq) ∧
      (r'.sync = true → tget 0 t.fab.syncWait (devOf r.addr.toNat) = r'.tag + 1 ∧ tget false t.fab.synced (devOf r.addr.toNat) = true) ∧
      (r'.sync = false → t.fab.syncWait = s.fab.syncWait ∧ t.fab.synced = s.fab.synced) ∧ t.mem = s.mem ∧
      (r.requester < 0x100 ∨ r.isWrite = false → t.cores = s.cores) ∧
      t = { u with cores := t.cores
                   fab := { u.fab with outstanding := t.fab.outstanding, nextTag := t.fab.nextTag, rseq := t.fab.rseq, syncWait := t.fab.syncWait, synced := t.fab.synced } }) ∧
  (∀ (s : State) (i st : Nat) (r r' : RemReq), s.nextSend = some i → s.fab.toSend.getD i {} = r →
    { r with tag := s.freeTag, sync := r.isWrite && !tget false s.fab.synced (devOf r.addr.toNat), rseq := if r.isWrite then tget 0 s.fab.rseq (devOf r.addr.toNat) else 0, deadline := s.now + s.loadTimeout } = r' →
    (devOf r.addr.toNat = 0xFFFF ∧ st = stBounds ∨ devOf r.addr.toNat ≠ 0xFFFF ∧ st = stRouteDead ∧
      State.inject { s with fab := { s.fab with toSend := s.fab.toSend.eraseIdx i } } 2 0x10 (devOf r.addr.toNat) (flowKey r.addr.toNat)
        (RemReq.payload r') = none) →
    ∃ t, exec .remoteRequestSend s = .next t ∧ t.fab.toSend = s.fab.toSend.eraseIdx i ∧ t.fab.lastStatus = st ∧ t.fab.lastAddr = r.addr ∧
      t.fab.lastOp = r.op ∧ t.fab.lastReq = r.requester ∧ t.fab.outstanding = s.fab.outstanding.erase r' ∧ t.fab.rseq = s.fab.rseq ∧
      t.mem = (s.storeAll (if r.op = 1 ∨ 0x10 ≤ r.op then spread (List.replicate r.len 0xFF) r.dest else [])).mem) ∧
  (∀ (s : State) (i : Nat) (r : RemReq), s.nextSend = some i → s.fab.toSend.getD i {} = r →
    i < s.fab.toSend.length ∧ r.cycle < s.engCycle ∧ (0x100 ≤ r.requester → s.outstandingOf r.requester < 256) ∧
      (r.isWrite = true → tget 0 s.fab.syncWait (devOf r.addr.toNat) = 0 ∧ (s.slot r.jobSlot).provisional = false) ∧
      ∀ q ∈ s.fab.toSend.take i, q.requester ≠ r.requester ∨ q.jobSlot ≠ r.jobSlot ∨ q.isWrite ≠ r.isWrite) ∧
  (∀ (s : State), s.nextSend = none → exec .remoteRequestSend s = .next s) ∧
  (∀ (s : State) (p : InRsp) (ps : List InRsp) (r : RemReq), s.fab.responses = p :: ps → (s.fab.outstanding.find? fun r => r.tag == p.tag && decide (p.at' ≤ r.deadline)) = some r →
    p.status = 0 →
    ∃ t, exec .memRspReceive s = .next t ∧ t.fab.responses = ps ∧ t.fab.outstanding = s.fab.outstanding.erase r ∧
      t.mem = (s.storeAll (if r.op = 1 then spread (padTo r.len p.data) r.dest else if 0x10 ≤ r.op then spread (leBytes r.len p.old.toNat) r.dest else [])).mem ∧
      t.fab.lastStatus = s.fab.lastStatus ∧ t.fab.rmEvt = s.fab.rmEvt) ∧
  (∀ (s : State) (p : InRsp) (ps : List InRsp) (r : RemReq), s.fab.responses = p :: ps → (s.fab.outstanding.find? fun r => r.tag == p.tag && decide (p.at' ≤ r.deadline)) = some r →
    p.status ≠ 0 →
    ∃ t, exec .memRspReceive s = .next t ∧ t.fab.responses = ps ∧ t.fab.outstanding = s.fab.outstanding.erase r ∧
      t.mem = (s.storeAll (if r.op = 1 ∨ 0x10 ≤ r.op then spread (List.replicate r.len 0xFF) r.dest else [])).mem ∧
      t.fab.lastStatus = p.status ∧ t.fab.lastAddr = r.addr ∧ t.fab.lastOp = r.op ∧ t.fab.lastReq = r.requester) ∧
  (∀ (s : State) (p : InRsp) (ps : List InRsp), s.fab.responses = p :: ps → (∀ r ∈ s.fab.outstanding, r.tag = p.tag → r.deadline < p.at') →
    ∃ t, exec .memRspReceive s = .next t ∧
      t = { s with ports := t.ports, fab := { s.fab with responses := ps, cntLate := s.fab.cntLate + 1 } }) ∧
  (∀ (s : State) (n : Nat) (r : RemReq), (s.fab.outstanding.find? fun r => r.tag == n && decide (r.deadline < s.now) &&
      s.fab.responses.all (fun p => p.tag != n || decide (r.deadline < p.at'))) = some r →
    ∃ t, exec (.remoteRequestDeadline n) s = .next t ∧ t.fab.outstanding = s.fab.outstanding.erase r ∧
      t.fab.cntTimeout = s.fab.cntTimeout + 1 ∧ t.fab.lastStatus = stRemoteTimeout ∧ t.fab.rmEvt = s.fab.rmEvt ||| 1 ∧
      t.mem = (s.storeAll (if r.op = 1 ∨ 0x10 ≤ r.op then spread (List.replicate r.len 0xFF) r.dest else [])).mem) ∧
  (∀ (s : State) (n : Nat), (∀ r ∈ s.fab.outstanding, r.tag = n → s.now ≤ r.deadline ∨ ∃ p ∈ s.fab.responses, p.tag = n ∧ p.at' ≤ r.deadline) →
    exec (.remoteRequestDeadline n) s = .next s)

/-- R430, R453: the mailbox registers; a request that fails a check has no effect but its status and a fresh nonce; a GO while the Warden is
busy is ignored. The row of each COMMAND, and the order in which the checks of Table 18-5 fail, are the model's (notes/assumptions/33.md,
36.md). -/
def Obligations.WardenMailbox : Prop :=
  (∀ (s : State) (len : BitVec 16), s.pwr.pwrOk = true → len.toNat ≤ 0x1000 →
    exec (.wmbCtrlLengthWrite len) s = .next { s with wdn := { s.wdn with wmbLen := len, wmbPtr := 0 } }) ∧
  (∀ (s : State) (len : BitVec 16), s.pwr.pwrOk = false ∨ 0x1000 < len.toNat → exec (.wmbCtrlLengthWrite len) s = .next s) ∧
  (∀ (s : State) (half : Half) (d : BitVec 64) (i p : Nat) (bs : List Byte), s.pwr.pwrOk = true → half ≠ .other →
    mailboxWrite s.wdn.wmbPtr s.wdn.wmbLen.toNat half d = some (i, bs, p) →
    ∃ t, exec (.wmbDataWrite half d) s = .next t ∧ getBytes t.wdn.wmbBytes i bs.length = bs ∧
      (∀ k, k < i ∨ i + bs.length ≤ k → tget 0 t.wdn.wmbBytes k = tget 0 s.wdn.wmbBytes k) ∧ t.wdn.wmbPtr = p ∧
      t = { s with wdn := { s.wdn with wmbBytes := t.wdn.wmbBytes, wmbPtr := t.wdn.wmbPtr } }) ∧
  (∀ (s : State) (half : Half) (d : BitVec 64), half ≠ .other → mailboxWrite s.wdn.wmbPtr s.wdn.wmbLen.toNat half d = none →
    exec (.wmbDataWrite half d) s = .next s) ∧
  (∀ (s : State) (d : BitVec 64), s.linkUp = true →
    exec (.wmbDataWrite .other d) s = .next { s with out := s.out ++ [.unsupported] }) ∧
  (∀ (s : State), ∃ t, exec .wmbRdataRead s = .next t ∧ t.wdn.rptr = s.wdn.rptr + 8 ∧
    t = { s with wdn := { s.wdn with rptr := s.wdn.rptr + 8 }, out := s.out ++ [.data (slice s.wdn.rbytes s.wdn.rptr 8)] }) ∧
  (∀ (s : State) (sig : SigVerdict) (acc : List Bool) (i : Instr) (cmd st d : Nat), s.Asked cmd → firstFail (s.wreqChecks s.wreq sig) = some (st, d) →
    (i, cmd) ∈ [(Instr.maintEnter sig, 0x01), (.maintExit sig, 0x02), (.fwUpdate sig acc, 0x10), (.svnCommit sig, 0x11), (.fwkeyRevoke sig, 0x12),
      (.ownerClaim sig, 0x20), (.ownerSet sig, 0x21), (.ownerRelease sig, 0x22), (.recordRestore sig, 0x23), (.debugAuth sig, 0x30),
      (.recordRead sig, 0x40)] →
    exec i s = .next (s.answered st)) ∧
  (∀ (s : State) (sig : SigVerdict) (acc : List Bool) (i : Instr) (cmd : Nat), s.Asked cmd → firstFail (s.wreqChecks s.wreq sig) = none →
    leAt s.wreq 8 1 ≠ cmd →
    (i, cmd) ∈ [(Instr.maintEnter sig, 0x01), (.maintExit sig, 0x02), (.fwUpdate sig acc, 0x10), (.svnCommit sig, 0x11), (.fwkeyRevoke sig, 0x12),
      (.ownerClaim sig, 0x20), (.ownerSet sig, 0x21), (.ownerRelease sig, 0x22), (.recordRestore sig, 0x23), (.debugAuth sig, 0x30),
      (.recordRead sig, 0x40)] →
    exec i s = .next (s.answered stBadOpcode)) ∧
  (∀ (s : State) (sig : SigVerdict) (acc : List Bool) (i : Instr), s.wdn.wmbBusy = true ∨ s.pwr.pwrOk = false ∨ s.boot.step < 4 →
    i ∈ [Instr.maintEnter sig, .maintExit sig, .fwUpdate sig acc, .svnCommit sig, .fwkeyRevoke sig, .ownerClaim sig, .ownerSet sig,
      .ownerRelease sig, .recordRestore sig, .debugAuth sig, .recordRead sig] →
    exec i s = .next s)

/-- R443, R453 to R458, Table 18-6: each request whose checks pass, in the state and with the signers it needs, has its effect; MAINT_ENTER
with a job present, an SVN_COMMIT to another version and the revocation of the last firmware key are refused. The status of a refusal that
no rule names, that DEBUG_AUTH keeps the higher level and that level 2 leaves Tin unmounted are the model's (notes/assumptions/33.md), as
are the owner that a release leaves (notes/assumptions/31.md) and the flits for devices beyond the neighbours that a maintenance stop
drops (notes/assumptions/38.md). -/
def Obligations.WardenRequests : Prop :=
  (∀ (s : State) (sig : SigVerdict), s.Passes 0x01 0 sig → wreqSigners s.wreq = (0xFF, 0xFF) → s.wdn.mode = 1 → s.bld.state = .empty →
    (∀ j, j < 8 → (s.slot j).state = 0) →
    ∃ t, exec (.maintEnter sig) s = .next t ∧ (∀ p, ∀ q ∈ (t.port p).txq, t.flitAllowed q.flit = true) ∧
      t = { s.answered 0 with ports := t.ports, wdn := { (s.answered 0).wdn with mode := 2, maintAt := some s.engCycle } }) ∧
  (∀ (s : State) (sig : SigVerdict) (j : Nat), s.Passes 0x01 0 sig → j < 8 → (s.slot j).state ≠ 0 →
    exec (.maintEnter sig) s = .next (s.answered stStructure)) ∧
  (∀ (s : State) (sig : SigVerdict), s.Passes 0x02 0 sig → wreqSigners s.wreq = (0xFF, 0xFF) → s.wdn.mode = 2 →
    ∃ t, exec (.maintExit sig) s = .next t ∧ t = (s.answered 0).restartAt3 ∧ t.boot.step = 3 ∧ t.fuse = s.fuse) ∧
  (∀ (s : State) (sig : SigVerdict) (acc : List Bool) (p img : List Byte) (k : Nat), s.Passes 0x10 16 sig → wreqPayload s.wreq = p →
    s.updateImage p = img → s.wdn.mode = 2 →
    (if s.upgradeSigned then oneSigner isOwner else noSigner) (wreqSigners s.wreq) = true → leAt p 0 8 % 256 = 0 →
    inGddr (leAt p 0 8) (leAt p 8 8) = true → leAt p 8 8 ≤ 0x800000 → s.hasBad (leAt p 0 8) (leAt p 8 8) = false →
    imageKey s img none acc = some k →
    exec (.fwUpdate sig acc) s = .next { s.answered 0 with wdn := { (s.answered 0).wdn with imageWriting := true, wmbBusy := true, newImage := slice img 0 (256 + leAt img 0x10 8) } }) ∧
  (∀ (s : State) (sig : SigVerdict) (acc : List Bool) (p : List Byte), s.Passes 0x10 16 sig → wreqPayload s.wreq = p → s.wdn.mode = 2 →
    (if s.upgradeSigned then oneSigner isOwner else noSigner) (wreqSigners s.wreq) = true → leAt p 0 8 % 256 = 0 →
    inGddr (leAt p 0 8) (leAt p 8 8) = true → leAt p 8 8 ≤ 0x800000 → imageKey s (s.updateImage p) none acc = none →
    exec (.fwUpdate sig acc) s = .next (s.answered stImageVerify)) ∧
  (∀ (s : State), s.wdn.imageWriting = true →
    ∃ t, exec .fwImageWriteDone s = .next t ∧ t.boot.reservedImage = s.wdn.newImage ∧ t.boot.step = 3 ∧ t.fuse = s.fuse) ∧
  (∀ (s : State) (sig : SigVerdict) (v : Nat), s.Passes 0x11 2 sig → s.wdn.mode ≠ 0 →
    (if s.wdn.owned then oneSigner isOwner else noSigner) (wreqSigners s.wreq) = true → leAt (wreqPayload s.wreq) 0 2 = v →
    v = s.boot.imageSvn → s.fuse.svnBits ≤ v → v ≤ 64 →
    exec (.svnCommit sig) s = .next { s.answered 0 with fuse := { s.fuse with svnBits := v } }) ∧
  (∀ (s : State) (sig : SigVerdict) (v : Nat), s.Passes 0x11 2 sig → s.wdn.mode ≠ 0 →
    (if s.wdn.owned then oneSigner isOwner else noSigner) (wreqSigners s.wreq) = true → leAt (wreqPayload s.wreq) 0 2 = v →
    v ≠ s.boot.imageSvn ∨ v < s.fuse.svnBits → exec (.svnCommit sig) s = .next (s.answered stBounds)) ∧
  (∀ (s : State) (sig : SigVerdict) (k c : Nat), s.Passes 0x12 1 sig → s.wdn.mode = 2 → s.upgradeSigned = false → k < 4 → c < 4 → c ≠ k →
    leAt (wreqPayload s.wreq) 0 1 = k → wreqSigners s.wreq = (0x20 + c, 0xFF) → s.fuse.revoked.getLsbD c = false → k ≠ s.boot.fwKeyUsed →
    exec (.fwkeyRevoke sig) s = .next { s.answered 0 with fuse := { s.fuse with revoked := s.fuse.revoked ||| BitVec.ofNat 4 (2 ^ k) } }) ∧
  (∀ (s : State) (sig : SigVerdict) (k : Nat), s.Passes 0x12 1 sig → s.wdn.mode = 2 → k < 4 → leAt (wreqPayload s.wreq) 0 1 = k →
    (∀ i, i < 4 → i ≠ k → s.fuse.revoked.getLsbD i = true) →
    ∃ st, st ≠ 0 ∧ exec (.fwkeyRevoke sig) s = .next (s.answered st)) ∧
  (∀ (s : State) (sig : SigVerdict) (p b : List Byte), s.Passes 0x20 268 sig → wreqPayload s.wreq = p → s.wdn.mode = 2 → s.wdn.owned = false →
    s.wdn.ownerLost = false → wreqSigners s.wreq = (0x11, 0xFF) → firstFail (s.ownerChecks p) = none →
    sealRecord s.wdn.sealKey (s.fuse.ownerBits + 1) (leAt p 260 8) (leAt p 256 4) (p.take 256) = b →
    exec (.ownerClaim sig) s = .next { s.answered 0 with fuse := { s.fuse with ownerBits := s.fuse.ownerBits + 1 }, wdn := { (s.answered 0).wdn with copies := (List.range 3).map fun k => (k, b) } }) ∧
  (∀ (s : State) (sig : SigVerdict) (p b : List Byte), s.Passes 0x21 268 sig → wreqPayload s.wreq = p → s.wdn.mode = 2 → s.wdn.owned = true →
    oneSigner isOwner (wreqSigners s.wreq) = true → firstFail (s.ownerChecks p) = none →
    sealRecord s.wdn.sealKey (s.fuse.ownerBits + 1) (leAt p 260 8) (leAt p 256 4) (p.take 256) = b →
    exec (.ownerSet sig) s = .next { s.answered 0 with fuse := { s.fuse with ownerBits := s.fuse.ownerBits + 1 }, wdn := { (s.answered 0).wdn with copies := (List.range 3).map fun k => (k, b) } }) ∧
  (∀ (s : State) (sig : SigVerdict), s.Passes 0x22 0 sig → s.wdn.mode = 2 → s.wdn.owned = true → oneSigner isOwner (wreqSigners s.wreq) = true →
    s.fuse.ownerBits < 256 →
    exec (.ownerRelease sig) s = .next { s.answered 0 with fuse := { s.fuse with ownerBits := s.fuse.ownerBits + 1 }, wdn := { (s.answered 0).wdn with copies := [], released := some (s.fuse.ownerBits + 1) } }) ∧
  (∀ (s : State) (sig : SigVerdict) (p : List Byte), s.Passes 0x23 384 sig → wreqPayload s.wreq = p → 5 ≤ s.boot.step →
    wreqSigners s.wreq = (0xFF, 0xFF) → policyOk (leAt p 0x10 8) = true → recordOk s.wdn.sealKey p s.fuse.ownerBits = true →
    s.wdn.ownerLost = true →
    ∃ t, exec (.recordRestore sig) s = .next t ∧ t.wdn.copies = [(0, p), (1, p), (2, p)] ∧ t.wdn.ownerLost = false ∧ t.wdn.owned = true ∧
      t.wdn.policy.toNat = leAt p 0x10 8 ∧ t.wdn.wmbStatus = 0 ∧ t = { s with wdn := t.wdn }) ∧
  (∀ (s : State) (sig : SigVerdict) (p : List Byte), s.Passes 0x23 384 sig → wreqPayload s.wreq = p → 5 ≤ s.boot.step →
    wreqSigners s.wreq = (0xFF, 0xFF) → policyOk (leAt p 0x10 8) = true → s.wdn.ownerLost = false → p ≠ s.wdn.record →
    exec (.recordRestore sig) s = .next (s.answered stCheckMismatch)) ∧
  (∀ (s : State) (sig : SigVerdict) (p : List Byte), s.Passes 0x23 384 sig → wreqPayload s.wreq = p → 5 ≤ s.boot.step →
    wreqSigners s.wreq = (0xFF, 0xFF) → policyOk (leAt p 0x10 8) = false →
    exec (.recordRestore sig) s = .next (s.answered stStructure)) ∧
  (∀ (s : State) (sig : SigVerdict), s.Passes 0x40 0 sig → 5 ≤ s.boot.step → wreqSigners s.wreq = (0xFF, 0xFF) →
    exec (.recordRead sig) s = .next { s.answered 0 with wdn := { (s.answered 0).wdn with rvalid := true, rbytes := if s.wdn.owned then s.wdn.record else [] } }) ∧
  (∀ (s : State) (sig : SigVerdict), s.Passes 0x30 1 sig → s.wdn.mode = 2 → leAt (wreqPayload s.wreq) 0 1 = 1 →
    oneSigner (if s.unowned then (fun c => c == 0x10) else isOwner) (wreqSigners s.wreq) = true →
    exec (.debugAuth sig) s = .next { s.answered 0 with host := { s.host with debugLevel := max s.host.debugLevel 1 } }) ∧
  (∀ (s : State) (sig : SigVerdict), s.Passes 0x30 1 sig → s.wdn.mode = 2 → leAt (wreqPayload s.wreq) 0 1 = 2 → s.wdn.policy.getLsbD 5 = false →
    (if s.wdn.owned then twoSigners (fun c => c == 0x10) isOwner else oneSigner (fun c => c == 0x10)) (wreqSigners s.wreq) = true →
    ∃ t, exec (.debugAuth sig) s = .next t ∧ t.host.debugLevel = max s.host.debugLevel 2 ∧ t.tin.state = 0 ∧ t.wdn.keysErased = true ∧ t.wdn.gddrKey = [] ∧ t.wdn.tinKey = [] ∧
      (∀ a, ssramBase ≤ a → a < ssramBase + ssramSize → t.mem.byte a = 0) ∧ t.wdn.wmbStatus = 0) ∧
  (∀ (s : State) (sig : SigVerdict), s.Passes 0x30 1 sig → leAt (wreqPayload s.wreq) 0 1 = 2 → s.wdn.policy.getLsbD 5 = true →
    ∃ st, st ≠ 0 ∧ exec (.debugAuth sig) s = .next (s.answered st))

/-- R437, R480, R69, R410: a command that ends leaves its record at its COMPL and its status in its engine's registers, an absent engine's end
is counted, and nothing but queues, counters, rings and logs changes with it; with a COMPL on another device it is posted once its
record's STOREs have ended; one that ends before an engine has taken it leaves no engine register changed. That the record of a local
COMPL goes only into GDDR7 and Stack SRAM, and whose STOREs a remote one is, are the model's (notes/assumptions/39.md, 44.md). -/
def Obligations.CommandEnds : Prop :=
  (∀ (s : State) (c : Cmd) (st d : Nat), c.compl.toNat ≠ 0 → s.ownAddr c.compl.toNat = true → inMain (localOf c.compl.toNat) 64 = true →
    s.partBad (localOf c.compl.toNat) 64 = false →
    ∃ t, s.complete c st d = t ∧ (∀ i, i < 64 → t.mem.byte (localOf c.compl.toNat + i) = (c.record st d s.now).getD i 0) ∧
      (∀ a, c.spares a → t.mem.byte a = s.mem.byte a) ∧ t.fab = s.fab ∧ OnlyCommands { s with str := t.str } t) ∧
  (∀ (s : State) (c : Cmd) (st d : Nat), c.compl.toNat ≠ 0 → s.ownAddr c.compl.toNat = true →
    inMain (localOf c.compl.toNat) 64 = false ∨ s.partBad (localOf c.compl.toNat) 64 = true →
    ∃ t, s.complete c st d = t ∧ t.mem = s.mem ∧ t.fab = s.fab ∧ OnlyCommands { s with str := t.str } t) ∧
  (∀ (s : State) (c : Cmd) (st d : Nat), c.compl.toNat ≠ 0 → s.ownAddr c.compl.toNat = false →
    ∃ t, s.complete c st d = t ∧ t.mem = s.mem ∧
      t.fab.endings = s.fab.endings ++ [{ id := s.fab.lastEnding + 1, cmd := c, jobId := (s.job c.job).jobId, record := c.record st d s.now, signals := true }] ∧
      t.fab.toSend = (s.requests ((storeRequests c.compl.toNat (c.record st d s.now) (engCode c.unit) (s.job c.job).jobId c.job).map fun r =>
        { r with endId := s.fab.lastEnding + 1 })).fab.toSend ∧ t.rings = s.rings ∧
      OnlyCommands { s with str := t.str } t) ∧
  (∀ (s : State) (p : InRsp) (ps : List InRsp) (r : RemReq) (e : Ending), s.fab.responses = p :: ps →
    (s.fab.outstanding.find? fun r => r.tag == p.tag && decide (p.at' ≤ r.deadline)) = some r → p.status = 0 → r.op = 2 → s.fab.endings = [e] →
    (∀ x ∈ s.fab.toSend ++ s.fab.outstanding.erase r, x.endId ≠ e.id) →
    ∃ t, exec .memRspReceive s = .next t ∧ t.fab.endings = [] ∧ (t.ring e.cmd.ring).unposted = (s.ring e.cmd.ring).unposted - 1 ∧ t.mem = s.mem) ∧
  (∀ (s : State) (c : Cmd) (st d : Nat), c.compl.toNat = 0 →
    ∃ t, s.complete c st d = t ∧ t.mem = s.mem ∧ t.fab = s.fab ∧ (t.engRegs c.engine).lastStatus = st ∧
      (st ≠ 0 → (t.engRegs c.engine).failStatus = st ∧ (t.engRegs c.engine).failOpcode = c.opcode ∧ (t.engRegs c.engine).failDetail = d) ∧
      (st = stEngineAbsent → t.log.cntAbsent = s.log.cntAbsent + 1) ∧ (∀ e, e ≠ c.engine → t.engRegs e = s.engRegs e) ∧
      t.str = { s.str with cntCmd := if c.engine = 2 then s.str.cntCmd + 1 else s.str.cntCmd } ∧ OnlyCommands { s with str := t.str } t) ∧
  (∀ (s : State) (c : Cmd) (st d : Nat) (signals : Bool), c.compl.toNat = 0 →
    ∃ t, s.completeRefused c st d signals = t ∧ t.mem = s.mem ∧ (∀ e, t.engRegs e = s.engRegs e) ∧ OnlyCommands s t) ∧
  (∀ (s : State) (c : Cmd), c.compl.toNat = 0 →
    ∃ t, s.completeClosed c = t ∧ t.eng = s.eng ∧ t.jobs = s.jobs ∧ t.log = s.log ∧ OnlyCommands s t)

/-- A step runs the command at the front of the queue on the queue's rest, and with no command waiting one hall tick passes (the queue and the
tick are the model's: notes/assumptions/4.md). -/
def Obligations.StepRunsTheFrontCommand : Prop :=
  (∀ (s : State) (c : Instr), step { s with pending := c :: s.pending } = exec c s) ∧
  (∀ (s : State), s.pending = [] → step s = .next s.tick)

/-- R43, R51, R72, R76, R84: in a tick the hall count goes up by one while the device counts and no pause runs, and is held for a relock's
pause; the provisional count of a first acquisition and the time since power go up; a copy of the repair map whose time has come is
written and the next begins, of the same map or of the map after it; with no swap to end and no host access waiting, nothing but the log,
what new alarms raise, hall time, the ports, the waits past their deadline while the count goes on, the repair map and the time since
power changes (that an empty queue lets a tick pass is the model's: notes/assumptions/4.md). -/
def Obligations.TickAdvancesTime : Prop :=
  (∀ (s : State), s.counting = true → s.ht.pause ≤ 1 → s.tick.ht.count = s.ht.count + 1 ∧ s.tick.ht.pause = 0) ∧
  (∀ (s : State), s.counting = true → 1 < s.ht.pause → s.tick.ht.count = s.ht.count ∧ s.tick.ht.pause = s.ht.pause - 1) ∧
  (∀ (s : State), s.ht.state = .acquiring → s.ht.firstAcquire = true → s.tick.ht.prov = s.ht.prov + 1 ∧ s.tick.ht.count = s.ht.count) ∧
  (∀ (s : State), s.ht.state = .invalid → { s.tick.ht with departedAt := s.ht.departedAt } = s.ht) ∧
  (∀ (s : State), s.tick.boot.sincePwrOk = if s.pwr.pwrOk then s.boot.sincePwrOk + 1 else s.boot.sincePwrOk) ∧
  (∀ (s : State) (w : RepairWrite) (r : List RepairWrite), s.boot.repairWrites = w :: r → w.doneAt ≤ s.boot.sincePwrOk →
    tget [] s.tick.boot.repairCopies w.copy = mapBytes w.seq w.body ∧
      (∀ k, k ≠ w.copy → tget [] s.tick.boot.repairCopies k = tget [] s.boot.repairCopies k) ∧
      (w.copy < 2 → s.tick.boot.repairWrites = { w with copy := w.copy + 1, doneAt := s.boot.sincePwrOk + copyTime w.body } :: r) ∧
      (2 ≤ w.copy → r = [] → s.tick.boot.repairWrites = [])) ∧
  (∀ (s : State) (w v : RepairWrite) (r : List RepairWrite), s.boot.repairWrites = w :: v :: r → w.doneAt ≤ s.boot.sincePwrOk → 2 ≤ w.copy →
    s.tick.boot.repairWrites = { v with doneAt := s.boot.sincePwrOk + copyTime v.body } :: r) ∧
  (∀ (s : State) (w : RepairWrite) (r : List RepairWrite), s.boot.repairWrites = w :: r → s.boot.sincePwrOk < w.doneAt →
    s.tick.boot.repairCopies = s.boot.repairCopies ∧ s.tick.boot.repairWrites = w :: r) ∧
  (∀ (s : State), (∀ i, i < 8 → ∀ w ∈ (s.infSet i).swaps, w.due = false) → s.host.waiting = [] →
    (s.counting = true → s.ht.pause ≤ 1 → ∀ k, s.tick.core k = (s.core k).tick s.now) ∧
    (s.counting = false ∨ 1 < s.ht.pause → s.tick.cores = s.cores) ∧
    s.tick = { s with log := s.tick.log, ports := s.tick.ports, ht := s.tick.ht, irq := s.tick.irq, out := s.tick.out, cores := s.tick.cores, fab := { s.fab with lineAt := s.tick.fab.lineAt }, boot := { s.boot with repairCopies := s.tick.boot.repairCopies, repairWrites := s.tick.boot.repairWrites, sincePwrOk := s.tick.boot.sincePwrOk } })

/-- R43, R46, R76, R374: at reset no command waits, no device ID is held, hall time is invalid, no blend is staged, every job slot is empty,
Tin is unmounted, every step counter is zero, the Warden boots and every memory byte reads 0 (what an unwritten byte reads as, and values
no rule states, are the model's: notes/assumptions/1.md, 7.md). -/
def Obligations.ResetState : Prop :=
  State.reset.pending = [] ∧ State.reset.fab.fabId = 0xFFFF ∧ State.reset.ht.state = .invalid ∧ State.reset.bld.state = .empty ∧
  (∀ j, (State.reset.slot j).state = 0) ∧ State.reset.tin.state = 0 ∧ (∀ g, tget 0 State.reset.upd.steps g = 0) ∧ State.reset.wdn.mode = 0 ∧
  State.reset.wdn.wmbBusy = false ∧ State.reset.fab.rmEvt = 0 ∧ (∀ a, State.reset.mem.byte a = 0) ∧ State.reset.MemOk ∧
  State.reset.QueuesOwn

/-- Every step keeps the canonical form of memory, from every state that has it (the form is the model's: notes/assumptions/7.md). -/
def Obligations.EveryStepKeepsMemoryForm : Prop :=
  (∀ (s t : State), s.MemOk → step s = .next t → t.MemOk)

/-- R413: a command changes the queue of waiting commands by leaving it: no command adds, removes or reorders another; and every command of an
engine waits in the queue of its own engine and job slot, whatever happens (the queue of waiting commands is the model's:
notes/assumptions/4.md). -/
def Obligations.EveryStepTakesOneCommand : Prop :=
  (∀ (s t : State), step s = .next t → t.pending = s.pending.tail) ∧
  (∀ (s t : State), s.QueuesOwn → step s = .next t → t.QueuesOwn)

/-- A command whose resources the module has completes in every state; one that names a resource the module does not have faults (that a
command of the block never stops, and what it faults on, is the model's: notes/assumptions/5.md). -/
def Obligations.WellFormedCommandsComplete : Prop :=
  (∀ (i : Instr) (s : State), i.wellFormed = true → Completes i s) ∧
  (∀ (i : Instr) (s : State), i.wellFormed = false → ∃ f, exec i s = .fault f)
end

