-- ==== Sys2Proof/Laws/Memory.lean ====
section
/-!
SUPPORT. Laws of memory: every operation keeps the canonical form, a read after a write gives the value written, and a
write leaves every other byte as it was.
-/

namespace Sys2Proof.Machine

/-! ## Sparse tables -/

/-- A key below every key of a rising table is not listed. -/
theorem tfind_eq_none_of_lt {t : Sparse α} {k : Nat} (h : ∀ e ∈ t, k < e.1) : tfind t k = none := by
  induction t with
  | nil => rfl
  | cons e r ih =>
    have h1 : e.1 ≠ k := Nat.ne_of_gt (h e List.mem_cons_self)
    simp only [tfind, if_neg h1]
    exact ih fun x hx => h x (List.mem_cons_of_mem _ hx)

/-- The entries of a table after a value is listed. -/
theorem mem_tput {t : Sparse α} {k : Nat} {v : α} {e : Nat × α} (h : e ∈ tput t k v) : e = (k, v) ∨ e ∈ t := by
  induction t with
  | nil => left; simpa [tput] using h
  | cons x r ih =>
    obtain ⟨j, y⟩ := x
    simp only [tput] at h
    split at h
    · simpa using h
    · split at h
      · rcases List.mem_cons.1 h with h | h
        · exact .inl h
        · exact .inr (List.mem_cons_of_mem _ h)
      · rcases List.mem_cons.1 h with h | h
        · exact .inr (h ▸ List.mem_cons_self)
        · rcases ih h with h | h
          · exact .inl h
          · exact .inr (List.mem_cons_of_mem _ h)

/-- Listing a value keeps the keys rising. -/
theorem tput_rising {t : Sparse α} {k : Nat} {v : α} (h : List.Pairwise (fun a b => a.1 < b.1) t) :
    List.Pairwise (fun a b => a.1 < b.1) (tput t k v) := by
  induction t with
  | nil => simp [tput]
  | cons x r ih =>
    obtain ⟨j, y⟩ := x
    rw [List.pairwise_cons] at h
    simp only [tput]
    split
    · rename_i hk
      refine List.pairwise_cons.2 ⟨fun e he => ?_, List.pairwise_cons.2 h⟩
      rcases List.mem_cons.1 he with rfl | he
      · exact hk
      · exact Nat.lt_trans hk (h.1 e he)
    · split
      · rename_i _ hk
        subst hk
        exact List.pairwise_cons.2 ⟨h.1, h.2⟩
      · rename_i h1 h2
        refine List.pairwise_cons.2 ⟨fun e he => ?_, ih h.2⟩
        rcases mem_tput he with rfl | he
        · exact Nat.lt_of_le_of_ne (Nat.le_of_not_lt h1) (Ne.symm h2)
        · exact h.1 e he

/-- Unlisting a key keeps the keys rising. -/
theorem tdel_rising {t : Sparse α} {k : Nat} (h : List.Pairwise (fun a b => a.1 < b.1) t) :
    List.Pairwise (fun a b => a.1 < b.1) (tdel t k) := h.filter _

/-- Reading a key just listed. -/
theorem tfind_tput_self {t : Sparse α} {k : Nat} {v : α} : tfind (tput t k v) k = some v := by
  induction t with
  | nil => simp [tput, tfind]
  | cons x r ih =>
    obtain ⟨j, y⟩ := x
    simp only [tput]
    split
    · simp [tfind]
    · split
      · simp [tfind]
      · rename_i _ h
        simp only [tfind, if_neg (Ne.symm h)]
        exact ih

/-- Listing a value leaves every other key. -/
theorem tfind_tput_ne {t : Sparse α} {k j : Nat} {v : α} (h : j ≠ k) : tfind (tput t k v) j = tfind t j := by
  induction t with
  | nil => simp [tput, tfind, Ne.symm h]
  | cons x r ih =>
    obtain ⟨i, y⟩ := x
    simp only [tput]
    split
    · simp [tfind, Ne.symm h]
    · split
      · rename_i _ hk; subst hk; simp [tfind, Ne.symm h]
      · simp only [tfind]; split
        · rfl
        · exact ih

/-- Reading a key just unlisted. -/
theorem tfind_tdel_self {t : Sparse α} {k : Nat} : tfind (tdel t k) k = none := by
  induction t with
  | nil => rfl
  | cons x r ih =>
    obtain ⟨j, y⟩ := x
    by_cases h : j = k
    · subst h; simpa [tdel] using ih
    · simp only [tdel] at ih
      simp [tdel, tfind, h, ih]

/-- Unlisting a key leaves every other key. -/
theorem tfind_tdel_ne {t : Sparse α} {k j : Nat} (h : j ≠ k) : tfind (tdel t k) j = tfind t j := by
  induction t with
  | nil => rfl
  | cons x r ih =>
    obtain ⟨i, y⟩ := x
    simp only [tdel] at ih
    by_cases hk : i = k
    · subst hk; simp [tdel, tfind, Ne.symm h, ih]
    · simp only [tdel, List.filter_cons, bne_iff_ne, ne_eq, hk, not_false_eq_true, if_true, tfind]
      split
      · rfl
      · exact ih

/-- Reading a key just set gives the value set. -/
@[simp] theorem tget_tset_self [DecidableEq α] {d : α} {t : Sparse α} {k : Nat} {v : α} :
    tget d (tset d t k v) k = v := by
  unfold tset tget
  split
  · rename_i h; simp [tfind_tdel_self, h]
  · simp [tfind_tput_self]

/-- Setting a key leaves every other key. -/
theorem tget_tset_ne [DecidableEq α] {d : α} {t : Sparse α} {k j : Nat} {v : α} (h : j ≠ k) :
    tget d (tset d t k v) j = tget d t j := by
  unfold tset tget
  split
  · rw [tfind_tdel_ne h]
  · rw [tfind_tput_ne h]

/-- Reading a key just changed. -/
@[simp] theorem tget_tmod_self [DecidableEq α] {d : α} {t : Sparse α} {k : Nat} {f : α → α} :
    tget d (tmod d t k f) k = f (tget d t k) := tget_tset_self

/-- Changing a key leaves every other key. -/
theorem tget_tmod_ne [DecidableEq α] {d : α} {t : Sparse α} {k j : Nat} {f : α → α} (h : j ≠ k) :
    tget d (tmod d t k f) j = tget d t j := tget_tset_ne h

/-- Setting a key keeps the canonical form. -/
theorem tset_keeps_form [DecidableEq α] {d : α} {t : Sparse α} {k : Nat} {v : α} (h : Twf d t) : Twf d (tset d t k v) := by
  unfold tset
  split
  · exact ⟨tdel_rising h.1, fun e he => h.2 e (List.mem_filter.1 he).1⟩
  · rename_i hv
    refine ⟨tput_rising h.1, fun e he => ?_⟩
    rcases mem_tput he with rfl | he
    · exact hv
    · exact h.2 e he

/-! ## Memory -/

/-- Writing one byte keeps the canonical form. -/
theorem Memory.setByte_wf {m : Memory} {a : Nat} {b : Byte} (h : m.wf) : (m.setByte a b).wf := by
  unfold Memory.setByte
  split
  · exact ⟨tdel_rising h.1, fun e he => h.2 e (List.mem_filter.1 he).1⟩
  · rename_i hb
    refine ⟨tput_rising h.1, fun e he => ?_⟩
    rcases mem_tput he with rfl | he
    · exact hb
    · exact h.2 e he

/-- A write does not change what an unlisted address reads as. -/
@[simp] theorem Memory.setByte_undef {m : Memory} {a : Nat} {b : Byte} : (m.setByte a b).undef = m.undef := rfl

/-- A byte just written reads as the value written. -/
@[simp] theorem Memory.byte_setByte_self {m : Memory} {a : Nat} {b : Byte} : (m.setByte a b).byte a = b := by
  unfold Memory.byte Memory.setByte Memory.unlisted
  dsimp only
  split
  · rename_i h; simp [tget, tfind_tdel_self, h]
  · simp [tget, tfind_tput_self]

/-- A write of one byte leaves every other byte. -/
theorem Memory.byte_setByte_ne {m : Memory} {a c : Nat} {b : Byte} (h : c ≠ a) : (m.setByte a b).byte c = m.byte c := by
  unfold Memory.byte Memory.setByte Memory.unlisted
  dsimp only
  split
  · simp only [tget, tfind_tdel_ne h]
  · simp only [tget, tfind_tput_ne h]

/-- Writing bytes keeps the canonical form. -/
theorem Memory.write_wf {m : Memory} {a : Nat} {bs : List Byte} (h : m.wf) : (m.write a bs).wf := by
  induction bs generalizing m a with
  | nil => exact h
  | cons b r ih => exact ih (Memory.setByte_wf h)

/-- Writing bytes leaves every byte outside them. -/
theorem Memory.byte_write_outside {m : Memory} {a c : Nat} {bs : List Byte} (h : c < a ∨ a + bs.length ≤ c) :
    (m.write a bs).byte c = m.byte c := by
  induction bs generalizing m a with
  | nil => rfl
  | cons b r ih =>
    rw [List.length_cons] at h
    rw [Memory.write, ih (by omega), Memory.byte_setByte_ne (by omega)]

/-- The bytes written read back. -/
theorem Memory.byte_write_inside {m : Memory} {a i : Nat} {bs : List Byte} (h : i < bs.length) :
    (m.write a bs).byte (a + i) = bs[i] := by
  induction bs generalizing m a i with
  | nil => simp at h
  | cons b r ih =>
    cases i with
    | zero =>
      rw [Memory.write, Memory.byte_write_outside (by omega), Nat.add_zero, Memory.byte_setByte_self]
      rfl
    | succ j =>
      have : a + (j + 1) = (a + 1) + j := by omega
      rw [Memory.write, this, ih (by simpa using h)]
      rfl

/-- The undefined ranges stand through a write. -/
@[simp] theorem Memory.write_undef {m : Memory} {a : Nat} {bs : List Byte} : (m.write a bs).undef = m.undef := by
  induction bs generalizing m a with
  | nil => rfl
  | cons b r ih => rw [Memory.write, ih, Memory.setByte_undef]

/-- Writing several byte strings keeps the canonical form. -/
theorem Memory.writeAll_wf {m : Memory} {ws : List (Nat × List Byte)} (h : m.wf) : (m.writeAll ws).wf := by
  induction ws generalizing m with
  | nil => exact h
  | cons w r ih => exact ih (m := m.write w.1 w.2) (Memory.write_wf h)

/-- Outside a new overlay an unlisted address reads as before. -/
theorem Memory.overlay_unlisted_outside {m : Memory} {base len epoch slot c : Nat}
    (h : (base ≤ c && c < base + len) = false) : (m.overlay base len epoch slot).unlisted c = m.unlisted c := by
  simp [Memory.overlay, Memory.unlisted, overlayByte, UndefRange.covers, h]

/-- An overlay keeps the canonical form. -/
theorem Memory.overlay_wf {m : Memory} {base len epoch slot : Nat} (h : m.wf) : (m.overlay base len epoch slot).wf := by
  refine ⟨h.1.filter _, fun e he => ?_⟩
  have hc := List.mem_filter.1 he
  rw [Memory.overlay_unlisted_outside (by simpa only [Bool.not_eq_true'] using hc.2)]
  exact h.2 e hc.1

/-- A zero fill keeps the canonical form. -/
theorem Memory.zeroFill_wf {m : Memory} {base len : Nat} (h : m.wf) : (m.zeroFill base len).wf := by
  unfold Memory.zeroFill
  split
  · exact ⟨h.1.filter _, fun e he => h.2 e (List.mem_filter.1 he).1⟩
  · exact Memory.overlay_wf h

/-- Empty memory has the canonical form. -/
theorem Memory.empty_wf : ({} : Memory).wf := by
  refine ⟨List.Pairwise.nil, fun e he => ?_⟩
  cases he

end Sys2Proof.Machine
end

