-- ==== Sys2Proof/Laws/Keeps.lean ====
section
/-!
SUPPORT. What no command does: the queue of waiting commands stands, memory keeps its canonical form, and every command of an
engine waits in its own queue. `Keeps s t` says so of two states; each later file under Laws/Keeps states it of every operation of one file of Machine/.
-/

namespace Sys2Proof.Machine

/-- From s to t the queue stands, memory keeps its canonical form, and commands stay in their own queues. -/
structure Keeps (s t : State) : Prop where
  pending : t.pending = s.pending
  wf : s.mem.wf → t.mem.wf
  own : s.QueuesOwn → t.QueuesOwn

theorem Keeps.refl (s : State) : Keeps s s := ⟨rfl, id, id⟩

/-- A state that shares queues and memory with one that keeps them. -/
theorem Keeps.mk_iff {s u : State} {x0 x1 x2 x3 x4 x5 x6 x7 x8 x9 x10 x11 x12 x13 x14 x15 x16 x17 x18 x19 x20 x21 x22 x23 x24 x25 x26 x27 x28 x29 x30 x31} :
    Keeps s ⟨u.pending, x0, x1, x2, x3, x4, x5, u.mem, x6, u.queues, x7, x8, x9, x10, x11, x12, x13, x14, x15, x16, x17, x18, x19, x20, x21, x22, x23, x24, x25, x26, x27, x28, x29, x30, x31⟩ ↔ Keeps s u :=
  ⟨fun h => ⟨h.pending, h.wf, h.own⟩, fun h => ⟨h.pending, h.wf, h.own⟩⟩

/-- A state that shares the queues with one that keeps them, with a memory in canonical form. -/
theorem Keeps.mkMem {s u : State} {x0 x1 x2 x3 x4 x5 x6 x7 x8 x9 x10 x11 x12 x13 x14 x15 x16 x17 x18 x19 x20 x21 x22 x23 x24 x25 x26 x27 x28 x29 x30 x31} {m : Memory}
    (h : Keeps s u) (hm : u.mem.wf → m.wf) :
    Keeps s ⟨u.pending, x0, x1, x2, x3, x4, x5, m, x6, u.queues, x7, x8, x9, x10, x11, x12, x13, x14, x15, x16, x17, x18, x19, x20, x21, x22, x23, x24, x25, x26, x27, x28, x29, x30, x31⟩ :=
  ⟨h.pending, fun w => hm (h.wf w), h.own⟩

theorem Keeps.foldl {s u : State} {f : State → α → State} {l : List α} (h : Keeps s u)
    (hf : ∀ v x, Keeps s v → Keeps s (f v x)) : Keeps s (l.foldl f u) := by
  induction l generalizing u with
  | nil => exact h
  | cons x r ih => exact ih (hf u x h)

theorem Keeps.foldlFst {s : State} {p : State × β} {f : State × β → α → State × β} {l : List α} (h : Keeps s p.1)
    (hf : ∀ q x, Keeps s q.1 → Keeps s (f q x).1) : Keeps s (l.foldl f p).1 := by
  induction l generalizing p with
  | nil => exact h
  | cons x r ih => exact ih (hf p x h)

theorem Keeps.elim {s u : State} {f : α → State} {o : Option α} (h : Keeps s u) (hf : ∀ x, Keeps s (f x)) :
    Keeps s (o.elim u f) := by
  cases o with
  | none => exact h
  | some x => exact hf x

theorem Keeps.getD {s d : State} {o : Option State} (h : Keeps s d) (hf : ∀ t, o = some t → Keeps s t) :
    Keeps s (o.getD d) := by
  cases o with
  | none => exact h
  | some x => exact hf x rfl

theorem Keeps.ite {s u v : State} {c : Prop} [Decidable c] (h : Keeps s u) (h' : Keeps s v) :
    Keeps s (if c then u else v) := by
  split
  · exact h
  · exact h'

theorem mem_of_tfind {t : Sparse α} {k : Nat} {v : α} (h : tfind t k = some v) : (k, v) ∈ t := by
  induction t with
  | nil => cases h
  | cons x r ih =>
    unfold tfind at h
    split at h
    next e => cases e; cases h; exact List.mem_cons_self
    next => exact List.mem_cons_of_mem _ (ih h)

theorem mem_insertBy {le : α → α → Bool} {x c : α} {l : List α} (h : c ∈ insertBy le x l) : c = x ∨ c ∈ l := by
  induction l with
  | nil => simpa [insertBy] using h
  | cons y ys ih =>
    unfold insertBy at h
    split at h
    · rcases List.mem_cons.1 h with rfl | h
      · exact .inr List.mem_cons_self
      · exact (ih h).imp_right (List.mem_cons_of_mem _)
    · exact List.mem_cons.1 h

/-- R413: a command in the queue of engine e and job j is theirs. -/
theorem State.QueuesOwn.mem {s : State} {e j : Nat} {c : Cmd} (w : s.QueuesOwn) (m : c ∈ s.queue e j) :
    c.engine * 8 + c.job = e * 8 + j ∧ c.job < 8 := by
  unfold State.queue tget at m
  cases h : tfind s.queues (e * 8 + j) with
  | none => rw [h] at m; cases m
  | some q => rw [h] at m; exact w _ (mem_of_tfind h) c m

theorem State.QueuesOwn.head {s : State} {e j : Nat} {c : Cmd} (w : s.QueuesOwn) (m : (s.queue e j).head? = some c) :
    c.engine * 8 + c.job = e * 8 + j ∧ c.job < 8 := w.mem (List.mem_of_head? m)

/-- Queues change by a queue whose commands are its own. -/
theorem State.setQueue_keeps {s0 s : State} {e j : Nat} {q : List Cmd} (h : Keeps s0 s)
    (hq : s0.QueuesOwn → ∀ c ∈ q, c.engine * 8 + c.job = e * 8 + j ∧ c.job < 8) : Keeps s0 (s.setQueue e j q) := by
  refine ⟨h.pending, h.wf, fun w p m => ?_⟩
  change p ∈ tset [] s.queues (e * 8 + j) q at m
  unfold tset at m
  split at m
  · exact h.own w p (List.mem_of_mem_filter m)
  · rcases mem_tput m with rfl | m
    · exact hq w
    · exact h.own w p m

end Sys2Proof.Machine
end

