-- ==== Sys2Proof/Laws/KeepsFlags.lean ====
section
/-!
SUPPORT. Every operation of Machine/Flags.lean keeps the queue, and memory in its canonical form.
-/

set_option linter.unusedSimpArgs false
set_option linter.unreachableTactic false
set_option linter.unusedTactic false

namespace Sys2Proof.Machine

theorem State.emit_keeps {s0 s : State} {x1} (h : Keeps s0 s) :
    Keeps s0 (State.emit s x1) := by
  unfold State.emit
  try dsimp only
  repeat' first | with_reducible assumption | simp only [Keeps.mk_iff]

theorem State.setVectorPending_keeps {s0 s : State} {x1 x2} (h : Keeps s0 s) :
    Keeps s0 (State.setVectorPending s x1 x2) := by
  unfold State.setVectorPending
  try dsimp only
  repeat' first | with_reducible assumption | simp only [Keeps.mk_iff]

theorem State.msix_keeps {s0 s : State} {x1} (h : Keeps s0 s) :
    Keeps s0 (State.msix s x1) := by
  unfold State.msix
  try dsimp only
  repeat' first | with_reducible assumption | split | with_reducible apply State.setVectorPending_keeps | with_reducible apply State.emit_keeps | with_reducible apply Keeps.ite

theorem State.deviceEvent_keeps {s0 s : State} (h : Keeps s0 s) :
    Keeps s0 (State.deviceEvent s) := by
  unfold State.deviceEvent
  try dsimp only
  repeat' first | with_reducible assumption | with_reducible apply State.msix_keeps

theorem State.htEvent_keeps {s0 s : State} {x1} (h : Keeps s0 s) :
    Keeps s0 (State.htEvent s x1) := by
  unfold State.htEvent
  try dsimp only
  repeat' first | with_reducible assumption | simp only [Keeps.mk_iff] | with_reducible apply State.deviceEvent_keeps

theorem State.setStep_keeps {s0 s : State} {x1} (h : Keeps s0 s) :
    Keeps s0 (State.setStep s x1) := by
  unfold State.setStep
  try dsimp only
  repeat' first | with_reducible assumption | simp only [Keeps.mk_iff] | split | with_reducible apply State.deviceEvent_keeps | with_reducible apply Keeps.ite

theorem State.alarmsRaised_keeps {s0 s : State} {x1} (h : Keeps s0 s) :
    Keeps s0 (State.alarmsRaised s x1) := by
  unfold State.alarmsRaised
  try dsimp only
  repeat' first | with_reducible assumption | intro _ | with_reducible apply State.emit_keeps | with_reducible apply State.deviceEvent_keeps | with_reducible apply Keeps.foldl | with_reducible apply Keeps.foldlFst

theorem State.onLog_keeps {s0 s : State} {x1} (h : Keeps s0 s) :
    Keeps s0 (State.onLog s x1) := by
  unfold State.onLog
  try dsimp only
  repeat' first | with_reducible assumption | simp only [Keeps.mk_iff] | with_reducible apply State.alarmsRaised_keeps

theorem State.reported_keeps {s0 s : State} (h : Keeps s0 s) :
    Keeps s0 (State.reported s) := by
  unfold State.reported
  try dsimp only
  repeat' first | with_reducible assumption | intro _ | with_reducible apply State.onLog_keeps

theorem State.flushAll_keeps {s0 s : State} (h : Keeps s0 s) :
    Keeps s0 (State.flushAll s) := by
  unfold State.flushAll
  try dsimp only
  repeat' first | with_reducible assumption | intro _ | with_reducible apply State.onLog_keeps | with_reducible apply State.reported_keeps | with_reducible apply Keeps.foldl | with_reducible apply Keeps.foldlFst

theorem State.logTick_keeps {s0 s : State} (h : Keeps s0 s) :
    Keeps s0 (State.logTick s) := by
  unfold State.logTick
  try dsimp only
  repeat' first | with_reducible assumption | simp only [Keeps.mk_iff] | split | intro _ | with_reducible apply State.onLog_keeps | with_reducible apply State.reported_keeps | with_reducible apply Keeps.ite

theorem State.offer_keeps {s0 s : State} {x1} (h : Keeps s0 s) :
    Keeps s0 (State.offer s x1) := by
  unfold State.offer
  try dsimp only
  repeat' first | with_reducible assumption | simp only [Keeps.mk_iff]

theorem State.event_keeps {s0 s : State} {x1 x2 x3 x4 x5 x6} (h : Keeps s0 s) :
    Keeps s0 (State.event s x1 x2 x3 x4 x5 x6) := by
  unfold State.event
  try dsimp only
  repeat' first | with_reducible assumption | simp only [Keeps.mk_iff] | with_reducible apply State.offer_keeps

theorem State.jobEvent_keeps {s0 s : State} {x1 x2 x3 x4 x5 x6 x7} (h : Keeps s0 s) :
    Keeps s0 (State.jobEvent s x1 x2 x3 x4 x5 x6 x7) := by
  unfold State.jobEvent
  try dsimp only
  repeat' first | with_reducible assumption | simp only [Keeps.mk_iff] | with_reducible apply State.offer_keeps

theorem State.writeIgnored_keeps {s0 s : State} {x1} (h : Keeps s0 s) :
    Keeps s0 (State.writeIgnored s x1) := by
  unfold State.writeIgnored
  try dsimp only
  repeat' first | with_reducible assumption | with_reducible apply State.event_keeps

theorem State.stepEvent_keeps {s0 s : State} {x1 x2 x3} (h : Keeps s0 s) :
    Keeps s0 (State.stepEvent s x1 x2 x3) := by
  unfold State.stepEvent
  try dsimp only
  repeat' first | with_reducible assumption | split | with_reducible apply State.event_keeps | with_reducible apply Keeps.ite

theorem State.holdAt_keeps {s0 s : State} {x1 x2 x3} (h : Keeps s0 s) :
    Keeps s0 (State.holdAt s x1 x2 x3) := by
  unfold State.holdAt
  try dsimp only
  repeat' first | with_reducible assumption | simp only [Keeps.mk_iff] | with_reducible apply State.stepEvent_keeps | with_reducible apply State.setStep_keeps

theorem State.waitFor_keeps {s0 s : State} {x1} (h : Keeps s0 s) :
    Keeps s0 (State.waitFor s x1) := by
  unfold State.waitFor
  try dsimp only
  repeat' first | with_reducible assumption | simp only [Keeps.mk_iff]

theorem State.noWait_keeps {s0 s : State} (h : Keeps s0 s) :
    Keeps s0 (State.noWait s) := by
  unfold State.noWait
  try dsimp only
  repeat' first | with_reducible assumption | simp only [Keeps.mk_iff]

end Sys2Proof.Machine
end

