-- ==== Sys2Proof/Laws/KeepsOperands.lean ====
section
/-!
SUPPORT. Every operation of Machine/Operands.lean keeps the queue, and memory in its canonical form.
-/

set_option linter.unusedSimpArgs false
set_option linter.unreachableTactic false
set_option linter.unusedTactic false

namespace Sys2Proof.Machine

theorem State.setSlot_keeps {s0 s : State} {x1 x2} (h : Keeps s0 s) :
    Keeps s0 (State.setSlot s x1 x2) := by
  unfold State.setSlot
  try dsimp only
  repeat' first | with_reducible assumption | simp only [Keeps.mk_iff]

theorem State.store_keeps {s0 s : State} {a bs} (h : Keeps s0 s) : Keeps s0 (s.store a bs) :=
  Keeps.mkMem h fun w => Memory.write_wf w

theorem State.storeAll_keeps {s0 s : State} {x1} (h : Keeps s0 s) :
    Keeps s0 (State.storeAll s x1) := by
  unfold State.storeAll
  try dsimp only
  repeat' first | with_reducible assumption | intro _ | with_reducible apply State.store_keeps | with_reducible apply Keeps.foldl | with_reducible apply Keeps.foldlFst

theorem State.countUncorr_keeps {s0 s : State} (h : Keeps s0 s) :
    Keeps s0 (State.countUncorr s) := by
  unfold State.countUncorr
  try dsimp only
  repeat' first | with_reducible assumption | simp only [Keeps.mk_iff]

theorem State.tallyEcc_keeps {s0 s : State} {x1} (h : Keeps s0 s) :
    Keeps s0 (State.tallyEcc s x1) := by
  unfold State.tallyEcc
  try dsimp only
  repeat' first | with_reducible assumption | split | with_reducible apply State.countUncorr_keeps | with_reducible apply Keeps.ite

theorem State.zero_keeps {s0 s : State} {a n} (h : Keeps s0 s) : Keeps s0 (s.zero a n) :=
  Keeps.mkMem h fun w => Memory.zeroFill_wf w

end Sys2Proof.Machine
end

