-- ==== Sys2Proof/Laws/KeepsOps.lean ====
section
/-!
SUPPORT. Every operation of Machine/Ops.lean keeps the queue, and memory in its canonical form.
-/

set_option linter.unusedSimpArgs false
set_option linter.unreachableTactic false
set_option linter.unusedTactic false

namespace Sys2Proof.Machine

theorem State.modEng_keeps {s0 s : State} {x1 x2} (h : Keeps s0 s) :
    Keeps s0 (State.modEng s x1 x2) := by
  unfold State.modEng
  try dsimp only
  repeat' first | with_reducible assumption | simp only [Keeps.mk_iff]

theorem State.claim_keeps {s0 s : State} {x1} (h : Keeps s0 s) :
    Keeps s0 (State.claim s x1) := by
  unfold State.claim
  try dsimp only
  repeat' first | with_reducible assumption | simp only [Keeps.mk_iff] | intro _



theorem State.raisePass_keeps {s0 s : State} {x1 x2} (h : Keeps s0 s) :
    Keeps s0 (State.raisePass s x1 x2) := by
  unfold State.raisePass
  try dsimp only
  repeat' first | with_reducible assumption | simp only [Keeps.mk_iff] | split | intro _ | with_reducible apply Keeps.foldl | with_reducible apply Keeps.foldlFst | with_reducible apply Keeps.ite

theorem State.enqueue_keeps {s0 s : State} {c} (h : Keeps s0 s) (hc : c.job < 8) : Keeps s0 (State.enqueue s c) := by
  refine State.setQueue_keeps (State.raisePass_keeps h) fun w x m => ?_
  rcases mem_insertBy m with rfl | m
  · exact ⟨rfl, hc⟩
  · exact ((State.raisePass_keeps h).own w).mem m

theorem State.startCmd_keeps {s0 s : State} {x1} (h : Keeps s0 s) :
    Keeps s0 (State.startCmd s x1).1 := by
  unfold State.startCmd
  try dsimp only
  repeat' first | with_reducible assumption | simp only [Keeps.mk_iff] | split | with_reducible apply State.setSlot_keeps | with_reducible apply State.claim_keeps | exact State.setQueue_keeps h fun w _ m => (h.own w).mem (List.mem_of_mem_erase m)

theorem State.startCmd_out {s0 s t : State} {y} {x1} (h : Keeps s0 s) (e : State.startCmd s x1 = (t, y)) :
    Keeps s0 t := by
  have k := State.startCmd_keeps h (x1 := x1)
  rw [e] at k
  exact k

theorem State.addLive_keeps {s0 s : State} {x1 x2} (h : Keeps s0 s) :
    Keeps s0 (State.addLive s x1 x2) := by
  unfold State.addLive
  try dsimp only
  repeat' first | with_reducible assumption | simp only [Keeps.mk_iff] | split | with_reducible apply Keeps.ite

theorem State.noRestart_keeps {s0 s : State} {x1} (h : Keeps s0 s) :
    Keeps s0 (State.noRestart s x1) := by
  unfold State.noRestart
  try dsimp only
  repeat' first | with_reducible assumption | simp only [Keeps.mk_iff] | split | intro _ | with_reducible apply Keeps.ite

theorem State.dropLive_keeps {s0 s : State} {x1} (h : Keeps s0 s) :
    Keeps s0 (State.dropLive s x1) := by
  unfold State.dropLive
  try dsimp only
  repeat' first | with_reducible assumption | simp only [Keeps.mk_iff] | intro _

theorem State.modCore_keeps {s0 s : State} {x1 x2} (h : Keeps s0 s) :
    Keeps s0 (State.modCore s x1 x2) := by
  unfold State.modCore
  try dsimp only
  repeat' first | with_reducible assumption | simp only [Keeps.mk_iff]

theorem State.signal_keeps {s0 s : State} {x1 x2} (h : Keeps s0 s) :
    Keeps s0 (State.signal s x1 x2) := by
  unfold State.signal
  try dsimp only
  repeat' first | with_reducible assumption | simp only [Keeps.mk_iff] | split | intro _ | with_reducible apply State.setSlot_keeps | with_reducible apply Keeps.ite

theorem State.modRing_keeps {s0 s : State} {x1 x2} (h : Keeps s0 s) :
    Keeps s0 (State.modRing s x1 x2) := by
  unfold State.modRing
  try dsimp only
  repeat' first | with_reducible assumption | simp only [Keeps.mk_iff]

theorem State.ringInterrupt_keeps {s0 s : State} {x1} (h : Keeps s0 s) :
    Keeps s0 (State.ringInterrupt s x1) := by
  unfold State.ringInterrupt
  try dsimp only
  repeat' first | with_reducible assumption | simp only [Keeps.mk_iff] | split | intro _ | with_reducible apply State.msix_keeps | with_reducible apply State.modRing_keeps | with_reducible apply Keeps.ite

theorem State.post_keeps {s0 s : State} {x1 x2} (h : Keeps s0 s) :
    Keeps s0 (State.post s x1 x2) := by
  unfold State.post
  try dsimp only
  repeat' first | with_reducible assumption | simp only [Keeps.mk_iff] | split | intro _ | with_reducible apply State.modRing_keeps | with_reducible apply State.emit_keeps | with_reducible apply State.ringInterrupt_keeps | with_reducible apply Keeps.ite

theorem State.requests_keeps {s0 s : State} {x1} (h : Keeps s0 s) :
    Keeps s0 (State.requests s x1) := by
  unfold State.requests
  try dsimp only
  repeat' first | with_reducible assumption | simp only [Keeps.mk_iff] | intro _ | with_reducible apply Keeps.foldl | with_reducible apply Keeps.foldlFst

theorem State.writeCompl_keeps {s0 s : State} {x1 x2 x3} (h : Keeps s0 s) :
    Keeps s0 (State.writeCompl s x1 x2 x3) := by
  unfold State.writeCompl
  try dsimp only
  repeat' first | with_reducible assumption | simp only [Keeps.mk_iff] | split | intro _ | with_reducible apply State.store_keeps | with_reducible apply State.claim_keeps | with_reducible apply State.requests_keeps | with_reducible apply Keeps.ite

theorem State.conclude_keeps {s0 s : State} {x1 x2 x3} (h : Keeps s0 s) :
    Keeps s0 (State.conclude s x1 x2 x3) := by
  unfold State.conclude
  try dsimp only
  repeat' first | with_reducible assumption | split | with_reducible apply State.post_keeps | with_reducible apply State.signal_keeps | with_reducible apply Keeps.ite

theorem State.finish_keeps {s0 s : State} {x1 x2 x3} (h : Keeps s0 s) :
    Keeps s0 (State.finish s x1 x2 x3) := by
  unfold State.finish
  try dsimp only
  repeat' first | with_reducible assumption | split | with_reducible apply State.writeCompl_keeps | with_reducible apply State.conclude_keeps | with_reducible apply Keeps.ite

theorem State.settleEndings_keeps {s0 s : State} (h : Keeps s0 s) :
    Keeps s0 (State.settleEndings s) := by
  unfold State.settleEndings
  try dsimp only
  repeat' first | with_reducible assumption | simp only [Keeps.mk_iff] | intro _ | with_reducible apply State.conclude_keeps | with_reducible apply Keeps.foldl | with_reducible apply Keeps.foldlFst

theorem State.account_keeps {s0 s : State} {x1 x2} (h : Keeps s0 s) :
    Keeps s0 (State.account s x1 x2) := by
  unfold State.account
  try dsimp only
  repeat' first | with_reducible assumption | simp only [Keeps.mk_iff] | split | intro _ | with_reducible apply State.setSlot_keeps | with_reducible apply Keeps.ite

theorem State.trace_keeps {s0 s : State} {x1 x2} (h : Keeps s0 s) :
    Keeps s0 (State.trace s x1 x2) := by
  unfold State.trace
  try dsimp only
  repeat' first | with_reducible assumption | split | intro _ | with_reducible apply State.jobEvent_keeps | with_reducible apply Keeps.ite | with_reducible apply Keeps.getD

theorem State.absent_keeps {s0 s : State} {x1 x2} (h : Keeps s0 s) :
    Keeps s0 (State.absent s x1 x2) := by
  unfold State.absent
  try dsimp only
  repeat' first | with_reducible assumption | simp only [Keeps.mk_iff] | split | with_reducible apply State.jobEvent_keeps | with_reducible apply Keeps.ite

theorem State.engineEnd_keeps {s0 s : State} {x1 x2 x3 x4} (h : Keeps s0 s) :
    Keeps s0 (State.engineEnd s x1 x2 x3 x4) := by
  unfold State.engineEnd
  try dsimp only
  repeat' first | with_reducible assumption | simp only [Keeps.mk_iff] | split | intro _ | with_reducible apply State.modEng_keeps | with_reducible apply Keeps.ite

theorem State.settlePreempt_keeps {s0 s : State} {x1} (h : Keeps s0 s) :
    Keeps s0 (State.settlePreempt s x1) := by
  unfold State.settlePreempt
  try dsimp only
  repeat' first | with_reducible assumption | simp only [Keeps.mk_iff] | split | intro _ | with_reducible apply State.setSlot_keeps | with_reducible apply Keeps.ite

theorem State.complete_keeps {s0 s : State} {x1 x2 x3 x4 x5 x6} (h : Keeps s0 s) :
    Keeps s0 (State.complete s x1 x2 x3 x4 x5 x6) := by
  unfold State.complete
  try dsimp only
  repeat' first | with_reducible assumption | split | with_reducible apply State.tallyEcc_keeps | with_reducible apply State.trace_keeps | with_reducible apply State.absent_keeps | with_reducible apply State.engineEnd_keeps | with_reducible apply State.settlePreempt_keeps | with_reducible apply State.dropLive_keeps | with_reducible apply State.finish_keeps | with_reducible apply State.account_keeps | with_reducible apply Keeps.ite

theorem State.completeRefused_keeps {s0 s : State} {x1 x2 x3 x4} (h : Keeps s0 s) :
    Keeps s0 (State.completeRefused s x1 x2 x3 x4) := by
  unfold State.completeRefused
  try dsimp only
  repeat' first | with_reducible assumption | split | with_reducible apply State.trace_keeps | with_reducible apply State.absent_keeps | with_reducible apply State.finish_keeps | with_reducible apply State.account_keeps | with_reducible apply Keeps.ite

theorem State.completeClosed_keeps {s0 s : State} {x1} (h : Keeps s0 s) :
    Keeps s0 (State.completeClosed s x1) := by
  unfold State.completeClosed
  try dsimp only
  repeat' first | with_reducible assumption | with_reducible apply State.finish_keeps

theorem State.orFail_keeps {s0 s : State} {x1 x2 x3} (h : Keeps s0 s)
    (hf3 : ∀ y0, Keeps s0 y0 → Keeps s0 (x3 y0)) :
    Keeps s0 (State.orFail s x1 x2 x3) := by
  unfold State.orFail
  try dsimp only
  repeat' first | with_reducible assumption | split | with_reducible apply hf3 | with_reducible apply State.complete_keeps | with_reducible apply Keeps.ite

theorem State.leaveUndefined_keeps {s0 s : State} {rs} (h : Keeps s0 s) : Keeps s0 (s.leaveUndefined rs) := by
  unfold State.leaveUndefined
  split
  · exact h
  · refine Keeps.mkMem h fun w => ?_
    generalize s.freeCount + 1 = e
    generalize s.mem = m at w
    induction rs generalizing m with
    | nil => exact w
    | cons r t ih =>
      rw [List.foldl_cons]
      cases t with
      | nil =>
        dsimp only [List.foldl_nil]; split
        · exact w
        · exact Memory.overlay_wf w
      | cons r2 t2 =>
        refine ih (by simp) _ ?_
        split
        · exact w
        · exact Memory.overlay_wf w

theorem State.failOutputs_keeps {s0 s : State} {x1 x2} (h : Keeps s0 s) :
    Keeps s0 (State.failOutputs s x1 x2) := by
  unfold State.failOutputs
  try dsimp only
  repeat' first | with_reducible assumption | split | with_reducible apply State.leaveUndefined_keeps | with_reducible apply Keeps.ite

theorem State.checkFailed_keeps {s0 s : State} {x1 x2 x3} (h : Keeps s0 s) :
    Keeps s0 (State.checkFailed s x1 x2 x3) := by
  unfold State.checkFailed
  try dsimp only
  repeat' first | with_reducible assumption | simp only [Keeps.mk_iff] | split | with_reducible apply Keeps.ite

theorem State.badOpcode_keeps {s0 s : State} {x1} (h : Keeps s0 s) :
    Keeps s0 (State.badOpcode s x1) := by
  unfold State.badOpcode
  try dsimp only
  repeat' first | with_reducible assumption | simp only [Keeps.mk_iff] | split | intro _ | with_reducible apply State.modEng_keeps | with_reducible apply State.complete_keeps | with_reducible apply Keeps.ite

theorem State.refuseStart_keeps {s0 s : State} {x1 x2 x3} (h : Keeps s0 s) :
    Keeps s0 (State.refuseStart s x1 x2 x3) := by
  unfold State.refuseStart
  try dsimp only
  repeat' first | with_reducible assumption | simp only [Keeps.mk_iff] | split | intro _ | with_reducible apply State.modEng_keeps | with_reducible apply State.checkFailed_keeps | with_reducible apply State.complete_keeps | with_reducible apply State.failOutputs_keeps | with_reducible apply Keeps.ite

theorem State.withHeadIf_keeps {s0 s : State} {x1 x2 x3 x4} (h : Keeps s0 s)
    (hf4 : ∀ y0 y1, Keeps s0 y0 → Keeps s0 (x4 y0 y1)) :
    Keeps s0 (State.withHeadIf s x1 x2 x3 x4) := by
  unfold State.withHeadIf
  try dsimp only
  repeat' first | with_reducible assumption | split | with_reducible apply hf4 | with_reducible apply State.badOpcode_keeps | with_reducible refine State.startCmd_out ?_ ‹_› | with_reducible apply State.startCmd_keeps | with_reducible apply State.refuseStart_keeps | with_reducible apply Keeps.ite

theorem State.withHead_keeps {s0 s : State} {x1 x2 x3} (h : Keeps s0 s)
    (hf3 : ∀ y0 y1, Keeps s0 y0 → Keeps s0 (x3 y0 y1)) :
    Keeps s0 (State.withHead s x1 x2 x3) := by
  unfold State.withHead
  try dsimp only
  repeat' first | with_reducible assumption | intro _ | with_reducible apply hf3 | with_reducible apply State.withHeadIf_keeps

end Sys2Proof.Machine
end

