-- ==== Sys2Proof/Laws/KeepsAccess.lean ====
section
/-!
SUPPORT. Every operation of Machine/Access.lean keeps the queue, and memory in its canonical form.
-/

set_option linter.unusedSimpArgs false
set_option linter.unreachableTactic false
set_option linter.unusedTactic false

namespace Sys2Proof.Machine

theorem served_keeps {s0 s : State} {x0 x1} (h : Keeps s0 s)
    (hf1 : ∀ y0, Keeps s0 y0 → Keeps s0 (x1 y0)) :
    Keeps s0 (served x0 x1 s) := by
  unfold served
  try dsimp only
  repeat' first | with_reducible assumption | split | with_reducible apply hf1 | with_reducible apply State.emit_keeps | with_reducible apply Keeps.ite

end Sys2Proof.Machine
end

