-- ==== Sys2Proof/Laws/KeepsBringup.lean ====
section
/-!
SUPPORT. Every operation of Machine/Bringup.lean keeps the queue, and memory in its canonical form.
-/

set_option linter.unusedSimpArgs false
set_option linter.unreachableTactic false
set_option linter.unusedTactic false

namespace Sys2Proof.Machine

theorem State.modPort_keeps {s0 s : State} {x1 x2} (h : Keeps s0 s) :
    Keeps s0 (State.modPort s x1 x2) := by
  unfold State.modPort
  try dsimp only
  repeat' first | with_reducible assumption | simp only [Keeps.mk_iff]

theorem State.volatileLost_keeps {s0 s : State} (h : Keeps s0 s) : Keeps s0 s.volatileLost :=
  ⟨h.pending, fun _ => Memory.empty_wf, fun _ _ m => nomatch m⟩

theorem State.inputShutdown_keeps {s0 s : State} {x1} (h : Keeps s0 s) :
    Keeps s0 (State.inputShutdown s x1) := by
  unfold State.inputShutdown
  try dsimp only
  repeat' first | with_reducible assumption | simp only [Keeps.mk_iff] | split | with_reducible apply State.volatileLost_keeps | with_reducible apply Keeps.ite

theorem State.restartAt3_keeps {s0 s : State} (h : Keeps s0 s) :
    Keeps s0 (State.restartAt3 s) := by
  unfold State.restartAt3
  try dsimp only
  repeat' first | with_reducible assumption | simp only [Keeps.mk_iff] | with_reducible apply State.volatileLost_keeps

theorem State.firstEntries_keeps {s0 s : State} (h : Keeps s0 s) :
    Keeps s0 (State.firstEntries s) := by
  unfold State.firstEntries
  try dsimp only
  repeat' first | with_reducible assumption | simp only [Keeps.mk_iff] | split | with_reducible apply State.event_keeps | with_reducible apply Keeps.ite

theorem State.beginStep_keeps {s0 s : State} {x1} (h : Keeps s0 s) :
    Keeps s0 (State.beginStep s x1) := by
  unfold State.beginStep
  try dsimp only
  repeat' first | with_reducible assumption | simp only [Keeps.mk_iff] | with_reducible apply State.setStep_keeps

theorem State.degrade_keeps {s0 s : State} {x1} (h : Keeps s0 s) :
    Keeps s0 (State.degrade s x1) := by
  unfold State.degrade
  try dsimp only
  repeat' first | with_reducible assumption | simp only [Keeps.mk_iff] | with_reducible apply State.stepEvent_keeps

theorem State.dropUpstream_keeps {s0 s : State} (h : Keeps s0 s) :
    Keeps s0 (State.dropUpstream s) := by
  unfold State.dropUpstream
  try dsimp only
  repeat' first | with_reducible assumption | simp only [Keeps.mk_iff] | split | with_reducible apply State.htEvent_keeps | with_reducible apply Keeps.ite

theorem State.setHops_keeps {s0 s : State} {x1} (h : Keeps s0 s) :
    Keeps s0 (State.setHops s x1) := by
  unfold State.setHops
  try dsimp only
  repeat' first | with_reducible assumption | simp only [Keeps.mk_iff] | split | with_reducible apply State.event_keeps | with_reducible apply Keeps.ite

theorem State.follow_keeps {s0 s : State} {x1} (h : Keeps s0 s) :
    Keeps s0 (State.follow s x1) := by
  unfold State.follow
  try dsimp only
  repeat' first | with_reducible assumption | simp only [Keeps.mk_iff] | split | with_reducible apply State.setHops_keeps | with_reducible apply State.htEvent_keeps | with_reducible apply Keeps.ite

theorem State.takeUpstream_keeps {s0 s : State} {x1} (h : Keeps s0 s) :
    Keeps s0 (State.takeUpstream s x1) := by
  unfold State.takeUpstream
  try dsimp only
  repeat' first | with_reducible assumption | simp only [Keeps.mk_iff] | split | with_reducible apply State.follow_keeps | with_reducible apply State.htEvent_keeps | with_reducible apply Keeps.ite

theorem State.enterHoldover_keeps {s0 s : State} (h : Keeps s0 s) :
    Keeps s0 (State.enterHoldover s) := by
  unfold State.enterHoldover
  try dsimp only
  repeat' first | with_reducible assumption | simp only [Keeps.mk_iff] | with_reducible apply State.dropUpstream_keeps | with_reducible apply State.htEvent_keeps

theorem State.beginAcquire_keeps {s0 s : State} {x1} (h : Keeps s0 s) :
    Keeps s0 (State.beginAcquire s x1) := by
  unfold State.beginAcquire
  try dsimp only
  repeat' first | with_reducible assumption | simp only [Keeps.mk_iff] | with_reducible apply State.takeUpstream_keeps

theorem State.beginRelock_keeps {s0 s : State} {x1} (h : Keeps s0 s) :
    Keeps s0 (State.beginRelock s x1) := by
  unfold State.beginRelock
  try dsimp only
  repeat' first | with_reducible assumption | simp only [Keeps.mk_iff] | with_reducible apply State.takeUpstream_keeps

theorem State.reselect_keeps {s0 s : State} (h : Keeps s0 s) :
    Keeps s0 (State.reselect s) := by
  unfold State.reselect
  try dsimp only
  repeat' first | with_reducible assumption | simp only [Keeps.mk_iff] | split | with_reducible apply State.noWait_keeps | with_reducible apply State.beginAcquire_keeps | with_reducible apply State.takeUpstream_keeps | with_reducible apply State.dropUpstream_keeps | with_reducible apply State.waitFor_keeps | with_reducible apply State.htEvent_keeps | with_reducible apply State.enterHoldover_keeps | with_reducible apply State.beginRelock_keeps | with_reducible apply Keeps.ite

theorem State.noteNbr_keeps {s0 s : State} {x1 x2} (h : Keeps s0 s) :
    Keeps s0 (State.noteNbr s x1 x2) := by
  unfold State.noteNbr
  try dsimp only
  repeat' first | with_reducible assumption | simp only [Keeps.mk_iff] | split | with_reducible apply State.beginRelock_keeps | with_reducible apply State.reselect_keeps | with_reducible apply Keeps.ite

theorem State.upstreamDown_keeps {s0 s : State} {x1} (h : Keeps s0 s) :
    Keeps s0 (State.upstreamDown s x1) := by
  unfold State.upstreamDown
  try dsimp only
  repeat' first | with_reducible assumption | simp only [Keeps.mk_iff] | split | with_reducible apply State.reselect_keeps | with_reducible apply Keeps.ite

theorem State.beginStep10_keeps {s0 s : State} (h : Keeps s0 s) :
    Keeps s0 (State.beginStep10 s) := by
  unfold State.beginStep10
  try dsimp only
  repeat' first | with_reducible assumption | split | with_reducible apply State.setStep_keeps | with_reducible apply State.stepEvent_keeps | with_reducible apply State.waitFor_keeps | with_reducible apply Keeps.ite

theorem State.startRoot_keeps {s0 s : State} (h : Keeps s0 s) :
    Keeps s0 (State.startRoot s) := by
  unfold State.startRoot
  try dsimp only
  repeat' first | with_reducible assumption | simp only [Keeps.mk_iff] | with_reducible apply State.htEvent_keeps

theorem State.beginStep9_keeps {s0 s : State} (h : Keeps s0 s) :
    Keeps s0 (State.beginStep9 s) := by
  unfold State.beginStep9
  try dsimp only
  repeat' first | with_reducible assumption | split | with_reducible apply State.noWait_keeps | with_reducible apply State.setStep_keeps | with_reducible apply State.beginStep10_keeps | with_reducible apply State.startRoot_keeps | with_reducible apply State.beginAcquire_keeps | with_reducible apply State.waitFor_keeps | with_reducible apply Keeps.ite

theorem State.wait78_keeps {s0 s : State} (h : Keeps s0 s) :
    Keeps s0 (State.wait78 s) := by
  unfold State.wait78
  try dsimp only
  repeat' first | with_reducible assumption | split | intro _ | with_reducible apply State.waitFor_keeps | with_reducible apply State.noWait_keeps | with_reducible apply Keeps.ite

theorem State.advance78_keeps {s0 s : State} (h : Keeps s0 s) :
    Keeps s0 (State.advance78 s) := by
  unfold State.advance78
  try dsimp only
  repeat' first | with_reducible assumption | simp only [Keeps.mk_iff] | split | intro _ | with_reducible apply State.stepEvent_keeps | with_reducible apply State.degrade_keeps | with_reducible apply State.setStep_keeps | with_reducible apply State.beginStep9_keeps | with_reducible apply State.wait78_keeps | with_reducible apply Keeps.ite

theorem State.trainPort_keeps {s0 s : State} {x1} (h : Keeps s0 s) :
    Keeps s0 (State.trainPort s x1) := by
  unfold State.trainPort
  try dsimp only
  repeat' first | with_reducible assumption | simp only [Keeps.mk_iff] | intro _ | with_reducible apply State.modPort_keeps

end Sys2Proof.Machine
end

