-- ==== Sys2Proof/Laws/KeepsLinks.lean ====
section
/-!
SUPPORT. Every operation of Machine/Links.lean keeps the queue, and memory in its canonical form.
-/

set_option linter.unusedSimpArgs false
set_option linter.unreachableTactic false
set_option linter.unusedTactic false

namespace Sys2Proof.Machine

theorem State.takePosition_keeps {s0 s : State} {x1 x2} (h : Keeps s0 s) :
    Keeps s0 (State.takePosition s x1 x2) := by
  unfold State.takePosition
  try dsimp only
  repeat' first | with_reducible assumption | simp only [Keeps.mk_iff] | split | intro _ | with_reducible apply State.modPort_keeps | with_reducible apply Keeps.ite

theorem State.dropBeyond_keeps {s0 s : State} (h : Keeps s0 s) :
    Keeps s0 (State.dropBeyond s) := by
  unfold State.dropBeyond
  try dsimp only
  repeat' first | with_reducible assumption | simp only [Keeps.mk_iff] | split | intro _ | with_reducible apply State.modPort_keeps | with_reducible apply Keeps.foldl | with_reducible apply Keeps.foldlFst | with_reducible apply Keeps.ite

theorem State.departs_keeps {s0 s : State} {x1} (h : Keeps s0 s) :
    Keeps s0 (State.departs s x1) := by
  unfold State.departs
  try dsimp only
  repeat' first | with_reducible assumption | simp only [Keeps.mk_iff] | split | with_reducible apply Keeps.ite

theorem State.sendOne_keeps {s0 s : State} {x1 x2} (h : Keeps s0 s) :
    Keeps s0 (State.sendOne s x1 x2) := by
  unfold State.sendOne
  try dsimp only
  repeat' first | with_reducible assumption | simp only [Keeps.mk_iff] | split | intro _ | with_reducible apply State.modPort_keeps | with_reducible apply State.takePosition_keeps | with_reducible apply State.emit_keeps | with_reducible apply State.departs_keeps | with_reducible apply Keeps.ite

theorem State.sendAgain_keeps {s0 s : State} {x1} (h : Keeps s0 s) :
    Keeps s0 (State.sendAgain s x1) := by
  unfold State.sendAgain
  try dsimp only
  repeat' first | with_reducible assumption | simp only [Keeps.mk_iff] | split | intro _ | with_reducible apply State.emit_keeps | with_reducible apply State.departs_keeps | with_reducible apply State.modPort_keeps | with_reducible apply State.takePosition_keeps | with_reducible apply Keeps.ite | with_reducible apply Keeps.getD

theorem State.sendLctl_keeps {s0 s : State} {x1} (h : Keeps s0 s) :
    Keeps s0 (State.sendLctl s x1) := by
  unfold State.sendLctl
  try dsimp only
  repeat' first | with_reducible assumption | simp only [Keeps.mk_iff] | split | intro _ | with_reducible apply State.emit_keeps | with_reducible apply State.modPort_keeps | with_reducible apply State.takePosition_keeps | with_reducible apply Keeps.ite

theorem State.queueFlit_keeps {s0 s : State} {x1 x2} (h : Keeps s0 s) :
    Keeps s0 (State.queueFlit s x1 x2) := by
  unfold State.queueFlit
  try dsimp only
  repeat' first | with_reducible assumption | simp only [Keeps.mk_iff] | intro _ | with_reducible apply State.modPort_keeps

theorem State.inject_keeps {s0 s : State} {x1 x2 x3 x4 x5} {t} (ht : State.inject s x1 x2 x3 x4 x5 = some t) (h : Keeps s0 s) :
    Keeps s0 t := by
  unfold State.inject at ht
  try dsimp only at ht
  repeat' first | (split at ht) | (cases ht)
  all_goals repeat' first | with_reducible assumption | simp only [Keeps.mk_iff] | split | intro _ | with_reducible apply State.queueFlit_keeps | with_reducible apply Keeps.ite

theorem State.inject_out {s0 s t : State} {x1 x2 x3 x4 x5} (h : Keeps s0 s) (e : State.inject s x1 x2 x3 x4 x5 = some t) :
    Keeps s0 t := State.inject_keeps e h

theorem State.oweErr_keeps {s0 s : State} {x1 x2} (h : Keeps s0 s) :
    Keeps s0 (State.oweErr s x1 x2) := by
  unfold State.oweErr
  try dsimp only
  repeat' first | with_reducible assumption | simp only [Keeps.mk_iff] | split | with_reducible apply Keeps.ite

theorem State.countDead_keeps {s0 s : State} (h : Keeps s0 s) :
    Keeps s0 (State.countDead s) := by
  unfold State.countDead
  try dsimp only
  repeat' first | with_reducible assumption | simp only [Keeps.mk_iff]

theorem State.countMisroute_keeps {s0 s : State} (h : Keeps s0 s) :
    Keeps s0 (State.countMisroute s) := by
  unfold State.countMisroute
  try dsimp only
  repeat' first | with_reducible assumption | simp only [Keeps.mk_iff]

theorem State.countSchedDrop_keeps {s0 s : State} (h : Keeps s0 s) :
    Keeps s0 (State.countSchedDrop s) := by
  unfold State.countSchedDrop
  try dsimp only
  repeat' first | with_reducible assumption | simp only [Keeps.mk_iff]

theorem State.answerDropped_keeps {s0 s : State} {x1} (h : Keeps s0 s) :
    Keeps s0 (State.answerDropped s x1) := by
  unfold State.answerDropped
  try dsimp only
  repeat' first | with_reducible assumption | intro _ | with_reducible apply State.oweErr_keeps | with_reducible apply Keeps.foldl | with_reducible apply Keeps.foldlFst

theorem State.dropQueued_keeps {s0 s : State} {x1} (h : Keeps s0 s) :
    Keeps s0 (State.dropQueued s x1) := by
  unfold State.dropQueued
  try dsimp only
  repeat' first | with_reducible assumption | intro _ | with_reducible apply State.modPort_keeps | with_reducible apply State.answerDropped_keeps | with_reducible apply Keeps.foldl | with_reducible apply Keeps.foldlFst

theorem State.portDown_keeps {s0 s : State} {x1 x2 x3 x4} (h : Keeps s0 s) :
    Keeps s0 (State.portDown s x1 x2 x3 x4) := by
  unfold State.portDown
  try dsimp only
  repeat' first | with_reducible assumption | simp only [Keeps.mk_iff] | intro _ | with_reducible apply State.modPort_keeps | with_reducible apply State.dropQueued_keeps | with_reducible apply State.upstreamDown_keeps | with_reducible apply State.deviceEvent_keeps | with_reducible apply State.event_keeps

end Sys2Proof.Machine
end

