-- ==== Sys2Proof/Laws/KeepsUrn.lean ====
section
/-!
SUPPORT. Every operation of Machine/Urn.lean keeps the queue, and memory in its canonical form.
-/

set_option linter.unusedSimpArgs false
set_option linter.unreachableTactic false
set_option linter.unusedTactic false

namespace Sys2Proof.Machine

theorem State.setUrn_keeps {s0 s : State} {x1 x2} (h : Keeps s0 s) :
    Keeps s0 (State.setUrn s x1 x2) := by
  unfold State.setUrn
  try dsimp only
  repeat' first | with_reducible assumption | simp only [Keeps.mk_iff]

theorem urnInsert_keeps {s0 s : State} (h : Keeps s0 s) :
    Keeps s0 (urnInsert s) := by
  unfold urnInsert
  try dsimp only
  repeat' first | with_reducible assumption | split | intro _ | with_reducible apply State.withHead_keeps | with_reducible apply State.orFail_keeps | with_reducible apply State.complete_keeps | with_reducible apply State.storeAll_keeps | with_reducible apply State.setUrn_keeps | with_reducible apply Keeps.foldl | with_reducible apply Keeps.foldlFst | with_reducible apply Keeps.ite

theorem urnDrain_keeps {s0 s : State} (h : Keeps s0 s) :
    Keeps s0 (urnDrain s) := by
  unfold urnDrain
  try dsimp only
  repeat' first | with_reducible assumption | simp only [Keeps.mk_iff] | intro _ | with_reducible apply State.withHead_keeps | with_reducible apply State.orFail_keeps | with_reducible apply State.complete_keeps | with_reducible apply State.storeAll_keeps | with_reducible apply State.setUrn_keeps

theorem urnClear_keeps {s0 s : State} (h : Keeps s0 s) :
    Keeps s0 (urnClear s) := by
  unfold urnClear
  try dsimp only
  repeat' first | with_reducible assumption | simp only [Keeps.mk_iff] | intro _ | with_reducible apply State.withHead_keeps | with_reducible apply State.orFail_keeps | with_reducible apply State.complete_keeps | with_reducible apply State.storeAll_keeps | with_reducible apply State.setUrn_keeps

end Sys2Proof.Machine
end

