-- ==== Sys2Proof/Laws/KeepsStage.lean ====
section
/-!
SUPPORT. Every operation of Machine/Stage.lean keeps the queue, and memory in its canonical form.
-/

set_option linter.unusedSimpArgs false
set_option linter.unreachableTactic false
set_option linter.unusedTactic false

namespace Sys2Proof.Machine

theorem State.modBld_keeps {s0 s : State} {x1} (h : Keeps s0 s) :
    Keeps s0 (State.modBld s x1) := by
  unfold State.modBld
  try dsimp only
  repeat' first | with_reducible assumption | simp only [Keeps.mk_iff]

theorem State.refuse_keeps {s0 s : State} {x1} (h : Keeps s0 s) :
    Keeps s0 (State.refuse s x1) := by
  unfold State.refuse
  try dsimp only
  repeat' first | with_reducible assumption | simp only [Keeps.mk_iff] | intro _ | with_reducible apply State.event_keeps | with_reducible apply State.modBld_keeps

theorem State.reject_keeps {s0 s : State} (h : Keeps s0 s) :
    Keeps s0 (State.reject s) := by
  unfold State.reject
  try dsimp only
  repeat' first | with_reducible assumption | with_reducible apply State.refuse_keeps

theorem State.loadImage_keeps {s0 s : State} (h : Keeps s0 s) :
    Keeps s0 (State.loadImage s) := by
  unfold State.loadImage
  try dsimp only
  repeat' first | with_reducible assumption | simp only [Keeps.mk_iff] | split | intro _ | with_reducible apply State.modBld_keeps | with_reducible apply Keeps.ite

theorem State.loadFailed_keeps {s0 s : State} {x1} (h : Keeps s0 s) :
    Keeps s0 (State.loadFailed s x1) := by
  unfold State.loadFailed
  try dsimp only
  repeat' first | with_reducible assumption | intro _ | with_reducible apply State.refuse_keeps | with_reducible apply State.modBld_keeps

theorem State.loadDone_keeps {s0 s : State} (h : Keeps s0 s) :
    Keeps s0 (State.loadDone s) := by
  unfold State.loadDone
  try dsimp only
  repeat' first | with_reducible assumption | simp only [Keeps.mk_iff] | split | intro _ | with_reducible apply State.modBld_keeps | with_reducible apply Keeps.ite

theorem State.endCheck_keeps {s0 s : State} {x1} (h : Keeps s0 s) :
    Keeps s0 (State.endCheck s x1) := by
  unfold State.endCheck
  try dsimp only
  repeat' first | with_reducible assumption | simp only [Keeps.mk_iff] | split | intro _ | with_reducible apply State.loadFailed_keeps | with_reducible apply State.modBld_keeps | with_reducible apply State.loadDone_keeps | with_reducible apply Keeps.ite

theorem State.applyCmd_keeps {s0 s : State} {x1} (h : Keeps s0 s) :
    Keeps s0 (State.applyCmd s x1) := by
  unfold State.applyCmd
  try dsimp only
  repeat' first | with_reducible assumption | simp only [Keeps.mk_iff] | split | intro _ | with_reducible apply State.refuse_keeps | with_reducible apply State.modBld_keeps | with_reducible apply State.reject_keeps | with_reducible apply Keeps.ite

end Sys2Proof.Machine
end

