-- ==== Sys2Proof/Laws/KeepsCaddy.lean ====
section
/-!
SUPPORT. Every operation of Machine/Caddy.lean keeps the queue, and memory in its canonical form.
-/

set_option linter.unusedSimpArgs false
set_option linter.unreachableTactic false
set_option linter.unusedTactic false

namespace Sys2Proof.Machine

theorem State.modPool_keeps {s0 s : State} {x1 x2} (h : Keeps s0 s) :
    Keeps s0 (State.modPool s x1 x2) := by
  unfold State.modPool
  try dsimp only
  repeat' first | with_reducible assumption | simp only [Keeps.mk_iff]

theorem State.takeBuffer_keeps {s0 s : State} {x1} {t} (ht : State.takeBuffer s x1 = some t) (h : Keeps s0 s) :
    Keeps s0 t.1 := by
  unfold State.takeBuffer at ht
  try dsimp only at ht
  repeat' first | (split at ht) | (cases ht)
  all_goals repeat' first | with_reducible assumption | simp only [Keeps.mk_iff] | split | intro _ | with_reducible apply State.store_keeps | with_reducible apply State.modPool_keeps | with_reducible apply Keeps.ite

theorem State.takeBuffer_out {s0 s t : State} {y} {x1} (h : Keeps s0 s) (e : State.takeBuffer s x1 = some (t, y)) :
    Keeps s0 t := State.takeBuffer_keeps e h

theorem State.relink_keeps {s0 s : State} {x1 x2 x3} (h : Keeps s0 s) :
    Keeps s0 (State.relink s x1 x2 x3) := by
  unfold State.relink
  try dsimp only
  repeat' first | with_reducible assumption | simp only [Keeps.mk_iff] | intro _ | with_reducible apply State.store_keeps | with_reducible apply State.modPool_keeps | with_reducible apply Keeps.foldl | with_reducible apply Keeps.foldlFst | with_reducible apply Keeps.getD

theorem State.pushBuffer_keeps {s0 s : State} {x1 x2 x3 x4} (h : Keeps s0 s) :
    Keeps s0 (State.pushBuffer s x1 x2 x3 x4) := by
  unfold State.pushBuffer
  try dsimp only
  repeat' first | with_reducible assumption | simp only [Keeps.mk_iff] | split | intro _ | with_reducible apply State.modPool_keeps | with_reducible apply State.relink_keeps | with_reducible apply State.store_keeps | with_reducible apply Keeps.ite

theorem State.returnBuffers_keeps {s0 s : State} {x1 x2 x3} (h : Keeps s0 s) :
    Keeps s0 (State.returnBuffers s x1 x2 x3) := by
  unfold State.returnBuffers
  try dsimp only
  repeat' first | with_reducible assumption | intro _ | with_reducible apply State.pushBuffer_keeps | with_reducible apply Keeps.foldl | with_reducible apply Keeps.foldlFst

theorem State.takeBuffers_keeps {s0 s : State} {rq p n got} (h : Keeps s0 s) :
    Keeps s0 (State.takeBuffers s rq p n got).1 := by
  induction n generalizing s got with
  | zero => exact h
  | succ n ih =>
    unfold State.takeBuffers
    split
    · exact State.returnBuffers_keeps h
    · split
      · exact ih (State.takeBuffer_out h ‹_›)
      · exact State.returnBuffers_keeps h

theorem State.takeBuffers_out {s0 s t : State} {y rq p n got} (h : Keeps s0 s)
    (e : State.takeBuffers s rq p n got = (t, y)) : Keeps s0 t := by
  have k := State.takeBuffers_keeps h (rq := rq) (p := p) (n := n) (got := got)
  rw [e] at k
  exact k

theorem State.freeHandle_keeps {s0 s : State} {x1 x2 x3} (h : Keeps s0 s) :
    Keeps s0 (State.freeHandle s x1 x2 x3) := by
  unfold State.freeHandle
  try dsimp only
  repeat' first | with_reducible assumption | split | with_reducible apply State.pushBuffer_keeps | with_reducible apply Keeps.ite

theorem State.freeAll_keeps {s0 s : State} {x1 x2 x3} (h : Keeps s0 s) :
    Keeps s0 (State.freeAll s x1 x2 x3).1 := by
  unfold State.freeAll
  try dsimp only
  repeat' first | with_reducible assumption | split | intro _ | with_reducible apply State.freeHandle_keeps | with_reducible apply Keeps.foldl | with_reducible apply Keeps.foldlFst | with_reducible apply Keeps.ite

theorem State.freeAll_out {s0 s t : State} {y} {x1 x2 x3} (h : Keeps s0 s) (e : State.freeAll s x1 x2 x3 = (t, y)) :
    Keeps s0 t := by
  have k := State.freeAll_keeps h (x1 := x1) (x2 := x2) (x3 := x3)
  rw [e] at k
  exact k

theorem State.caddyEnd_keeps {s0 s : State} {x1 x2 x3 x4} (h : Keeps s0 s) :
    Keeps s0 (State.caddyEnd s x1 x2 x3 x4) := by
  unfold State.caddyEnd
  try dsimp only
  repeat' first | with_reducible assumption | with_reducible apply State.complete_keeps

theorem State.waitPool_keeps {s0 s : State} {x1 x2} (h : Keeps s0 s) :
    Keeps s0 (State.waitPool s x1 x2) := by
  unfold State.waitPool
  try dsimp only
  repeat' first | with_reducible assumption | simp only [Keeps.mk_iff] | intro _ | with_reducible apply State.modPool_keeps

theorem alloc_keeps {s0 s : State} (h : Keeps s0 s) :
    Keeps s0 (alloc s) := by
  unfold alloc
  try dsimp only
  repeat' first | with_reducible assumption | simp only [Keeps.mk_iff] | split | intro _ | with_reducible apply State.withHead_keeps | with_reducible apply State.caddyEnd_keeps | with_reducible apply State.waitPool_keeps | with_reducible apply State.addLive_keeps | with_reducible apply Keeps.ite

theorem free_keeps {s0 s : State} (h : Keeps s0 s) :
    Keeps s0 (free s) := by
  unfold free
  try dsimp only
  repeat' first | with_reducible assumption | simp only [Keeps.mk_iff] | split | intro _ | with_reducible apply State.withHead_keeps | with_reducible apply State.caddyEnd_keeps | with_reducible apply State.freeHandle_keeps | with_reducible apply Keeps.foldl | with_reducible apply Keeps.foldlFst | with_reducible apply Keeps.ite | with_reducible apply Keeps.getD

theorem State.pfxEvt_keeps {s0 s : State} {x1} (h : Keeps s0 s) :
    Keeps s0 (State.pfxEvt s x1) := by
  unfold State.pfxEvt
  try dsimp only
  repeat' first | with_reducible assumption | simp only [Keeps.mk_iff] | intro _ | with_reducible apply State.modEng_keeps

theorem State.pfxFree_keeps {s0 s : State} {x1 x2} (h : Keeps s0 s) :
    Keeps s0 (State.pfxFree s x1 x2) := by
  unfold State.pfxFree
  try dsimp only
  repeat' first | with_reducible assumption | split | intro _ | with_reducible refine State.freeAll_out ?_ ‹_› | with_reducible apply State.freeAll_keeps | with_reducible apply State.countUncorr_keeps | with_reducible apply State.pfxEvt_keeps | with_reducible apply State.jobEvent_keeps | with_reducible apply Keeps.foldl | with_reducible apply Keeps.foldlFst | with_reducible apply Keeps.ite

theorem State.keyLoad_keeps {s0 s : State} {x1} (h : Keeps s0 s) :
    Keeps s0 (State.keyLoad s x1) := by
  unfold State.keyLoad
  try dsimp only
  repeat' first | with_reducible assumption | simp only [Keeps.mk_iff] | split | intro _ | with_reducible apply State.pfxFree_keeps | with_reducible apply State.pfxEvt_keeps | with_reducible apply Keeps.foldl | with_reducible apply Keeps.foldlFst | with_reducible apply Keeps.ite

theorem State.settleLoads_keeps {s0 s : State} (h : Keeps s0 s) :
    Keeps s0 (State.settleLoads s) := by
  unfold State.settleLoads
  try dsimp only
  repeat' first | with_reducible assumption | simp only [Keeps.mk_iff] | split | intro _ | with_reducible apply State.keyLoad_keeps | with_reducible apply Keeps.foldl | with_reducible apply Keeps.foldlFst | with_reducible apply Keeps.ite

theorem State.growDone_keeps {s0 s : State} {x1 x2} (h : Keeps s0 s) :
    Keeps s0 (State.growDone s x1 x2) := by
  unfold State.growDone
  try dsimp only
  repeat' first | with_reducible assumption | with_reducible apply State.settleLoads_keeps | with_reducible apply State.complete_keeps | with_reducible apply State.storeAll_keeps

theorem State.servedTo_keeps {s0 s : State} {x1 x2 x3} (h : Keeps s0 s) :
    Keeps s0 (State.servedTo s x1 x2 x3) := by
  unfold State.servedTo
  try dsimp only
  repeat' first | with_reducible assumption | split | with_reducible apply State.emit_keeps | with_reducible apply State.growDone_keeps | with_reducible apply State.caddyEnd_keeps | with_reducible apply State.store_keeps | with_reducible apply Keeps.ite

theorem State.unserved_keeps {s0 s : State} {x1 x2 x3 x4} (h : Keeps s0 s) :
    Keeps s0 (State.unserved s x1 x2 x3 x4) := by
  unfold State.unserved
  try dsimp only
  repeat' first | with_reducible assumption | split | with_reducible apply State.settleLoads_keeps | with_reducible apply State.complete_keeps | with_reducible apply State.caddyEnd_keeps | with_reducible apply Keeps.ite

theorem allocServe_keeps {s0 s : State} {x0} (h : Keeps s0 s) :
    Keeps s0 (allocServe x0 s) := by
  unfold allocServe
  try dsimp only
  repeat' first | with_reducible assumption | simp only [Keeps.mk_iff] | split | intro _ | with_reducible apply State.servedTo_keeps | with_reducible apply State.modPool_keeps | with_reducible refine State.takeBuffers_out ?_ ‹_› | with_reducible apply State.takeBuffers_keeps | with_reducible apply State.unserved_keeps | with_reducible apply Keeps.ite

theorem allocDeadline_keeps {s0 s : State} {x0} (h : Keeps s0 s) :
    Keeps s0 (allocDeadline x0 s) := by
  unfold allocDeadline
  try dsimp only
  repeat' first | with_reducible assumption | simp only [Keeps.mk_iff] | split | intro _ | with_reducible apply State.unserved_keeps | with_reducible apply State.modPool_keeps | with_reducible apply Keeps.ite

theorem caddyEngineRequest_keeps {s0 s : State} {x0 x1 x2 x3 x4} (h : Keeps s0 s) :
    Keeps s0 (caddyEngineRequest x0 x1 x2 x3 x4 s) := by
  unfold caddyEngineRequest
  try dsimp only
  repeat' first | with_reducible assumption | simp only [Keeps.mk_iff] | split | with_reducible refine State.freeAll_out ?_ ‹_› | with_reducible apply State.freeAll_keeps | with_reducible apply State.waitPool_keeps | with_reducible apply Keeps.ite

end Sys2Proof.Machine
end

