-- ==== Sys2Proof/Laws/KeepsFabric.lean ====
section
/-!
SUPPORT. Every operation of Machine/Fabric.lean keeps the queue, and memory in its canonical form.
-/

set_option linter.unusedSimpArgs false
set_option linter.unreachableTactic false
set_option linter.unusedTactic false

namespace Sys2Proof.Machine

theorem State.takeLctl_keeps {s0 s : State} {x1 x2} (h : Keeps s0 s) :
    Keeps s0 (State.takeLctl s x1 x2) := by
  unfold State.takeLctl
  try dsimp only
  repeat' first | with_reducible assumption | simp only [Keeps.mk_iff] | intro _ | with_reducible apply State.modPort_keeps | with_reducible apply Keeps.elim

theorem State.release_keeps {s0 s : State} {x1 x2} (h : Keeps s0 s) :
    Keeps s0 (State.release s x1 x2) := by
  unfold State.release
  try dsimp only
  repeat' first | with_reducible assumption | intro _ | with_reducible apply State.modPort_keeps

theorem State.alarmDelivered_keeps {s0 s : State} {x1} (h : Keeps s0 s) :
    Keeps s0 (State.alarmDelivered s x1) := by
  unfold State.alarmDelivered
  try dsimp only
  repeat' first | with_reducible assumption | simp only [Keeps.mk_iff] | with_reducible apply State.offer_keeps

theorem State.deliver_keeps {s0 s : State} {x1 x2} (h : Keeps s0 s) :
    Keeps s0 (State.deliver s x1 x2) := by
  unfold State.deliver
  try dsimp only
  repeat' first | with_reducible assumption | simp only [Keeps.mk_iff] | split | with_reducible apply State.release_keeps | with_reducible apply State.alarmDelivered_keeps | with_reducible apply Keeps.ite

theorem State.routeArb_keeps {s0 s : State} {x1 x2} (h : Keeps s0 s) :
    Keeps s0 (State.routeArb s x1 x2) := by
  unfold State.routeArb
  try dsimp only
  repeat' first | with_reducible assumption | simp only [Keeps.mk_iff] | split | with_reducible apply State.release_keeps | with_reducible apply State.oweErr_keeps | with_reducible apply State.countDead_keeps | with_reducible apply State.countMisroute_keeps | with_reducible apply State.deliver_keeps | with_reducible apply State.queueFlit_keeps | with_reducible apply Keeps.ite

theorem State.receiveArb_keeps {s0 s : State} {x1 x2} (h : Keeps s0 s) :
    Keeps s0 (State.receiveArb s x1 x2) := by
  unfold State.receiveArb
  try dsimp only
  repeat' first | with_reducible assumption | simp only [Keeps.mk_iff] | split | intro _ | with_reducible apply State.modPort_keeps | with_reducible apply State.countMisroute_keeps | with_reducible apply State.release_keeps | with_reducible apply State.routeArb_keeps | with_reducible apply Keeps.ite

theorem State.receiveVc1_keeps {s0 s : State} {x1 x2 x3 x4} (h : Keeps s0 s) :
    Keeps s0 (State.receiveVc1 s x1 x2 x3 x4) := by
  unfold State.receiveVc1
  try dsimp only
  repeat' first | with_reducible assumption | simp only [Keeps.mk_iff] | split | intro _ | with_reducible apply State.modPort_keeps | with_reducible apply State.countMisroute_keeps | with_reducible apply State.countDead_keeps | with_reducible apply State.countSchedDrop_keeps | with_reducible apply Keeps.ite

theorem State.failCheck_keeps {s0 s : State} {x1 x2 x3 x4} (h : Keeps s0 s) :
    Keeps s0 (State.failCheck s x1 x2 x3 x4) := by
  unfold State.failCheck
  try dsimp only
  repeat' first | with_reducible assumption | simp only [Keeps.mk_iff] | split | intro _ | with_reducible apply State.modPort_keeps | with_reducible apply Keeps.ite | with_reducible apply Keeps.getD

theorem flitReceive_keeps {s0 s : State} {x0 x1 x2 x3 x4 x5} (h : Keeps s0 s) :
    Keeps s0 (flitReceive x0 x1 x2 x3 x4 x5 s) := by
  unfold flitReceive
  try dsimp only
  repeat' first | with_reducible assumption | simp only [Keeps.mk_iff] | split | intro _ | with_reducible apply State.modPort_keeps | with_reducible apply State.failCheck_keeps | with_reducible apply State.countMisroute_keeps | with_reducible apply State.takeLctl_keeps | with_reducible apply State.receiveVc1_keeps | with_reducible apply State.receiveArb_keeps | with_reducible apply Keeps.ite

theorem errRspSend_keeps {s0 s : State} (h : Keeps s0 s) :
    Keeps s0 (errRspSend s) := by
  unfold errRspSend
  try dsimp only
  repeat' first | with_reducible assumption | simp only [Keeps.mk_iff] | split | intro _ | with_reducible refine State.inject_out ?_ ‹_› | with_reducible apply State.countDead_keeps | with_reducible apply Keeps.ite | with_reducible apply Keeps.getD

theorem lctlSend_keeps {s0 s : State} {x0} (h : Keeps s0 s) :
    Keeps s0 (lctlSend x0 s) := by
  unfold lctlSend
  try dsimp only
  repeat' first | with_reducible assumption | split | with_reducible apply State.sendLctl_keeps | with_reducible apply Keeps.ite

theorem lctlReceive_keeps {s0 s : State} {x0 x1} (h : Keeps s0 s) :
    Keeps s0 (lctlReceive x0 x1 s) := by
  unfold lctlReceive
  try dsimp only
  repeat' first | with_reducible assumption | simp only [Keeps.mk_iff] | split | intro _ | with_reducible apply State.takeLctl_keeps | with_reducible apply State.modPort_keeps | with_reducible apply Keeps.ite

theorem State.sendRetry_keeps {s0 s : State} {x1} (h : Keeps s0 s) :
    Keeps s0 (State.sendRetry s x1) := by
  unfold State.sendRetry
  try dsimp only
  repeat' first | with_reducible assumption | simp only [Keeps.mk_iff] | split | intro _ | with_reducible apply State.emit_keeps | with_reducible apply State.modPort_keeps | with_reducible apply State.takePosition_keeps | with_reducible apply Keeps.ite

theorem vc1RetrySend_keeps {s0 s : State} {x0 x1 x2} (h : Keeps s0 s) :
    Keeps s0 (vc1RetrySend x0 x1 x2 s) := by
  unfold vc1RetrySend
  try dsimp only
  repeat' first | with_reducible assumption | split | intro _ | with_reducible apply State.sendRetry_keeps | with_reducible apply Keeps.ite

theorem portGoesDown_keeps {s0 s : State} {x0 x1} (h : Keeps s0 s) :
    Keeps s0 (portGoesDown x0 x1 s) := by
  unfold portGoesDown
  try dsimp only
  repeat' first | with_reducible assumption | split | with_reducible apply State.advance78_keeps | with_reducible apply State.portDown_keeps | with_reducible apply Keeps.ite

theorem congReportSend_keeps {s0 s : State} (h : Keeps s0 s) :
    Keeps s0 (congReportSend s) := by
  unfold congReportSend
  try dsimp only
  repeat' first | with_reducible assumption | simp only [Keeps.mk_iff] | split | intro _ | with_reducible apply State.modPort_keeps | with_reducible refine State.inject_out ?_ ‹_› | with_reducible apply Keeps.foldl | with_reducible apply Keeps.foldlFst | with_reducible apply Keeps.ite | with_reducible apply Keeps.getD

end Sys2Proof.Machine
end

