-- ==== Sys2Proof/Laws/KeepsSched.lean ====
section
/-!
SUPPORT. Every operation of Machine/Sched.lean keeps the queue, and memory in its canonical form.
-/

set_option linter.unusedSimpArgs false
set_option linter.unreachableTactic false
set_option linter.unusedTactic false

namespace Sys2Proof.Machine

theorem State.addStreams_keeps {s0 s : State} {x1} (h : Keeps s0 s) :
    Keeps s0 (State.addStreams s x1) := by
  unfold State.addStreams
  try dsimp only
  repeat' first | with_reducible assumption | simp only [Keeps.mk_iff]

theorem State.takeStream_keeps {s0 s : State} {x1} (h : Keeps s0 s) :
    Keeps s0 (State.takeStream s x1) := by
  unfold State.takeStream
  try dsimp only
  repeat' first | with_reducible assumption | simp only [Keeps.mk_iff] | intro _

theorem State.dropStreams_keeps {s0 s : State} {x1 x2} (h : Keeps s0 s) :
    Keeps s0 (State.dropStreams s x1 x2) := by
  unfold State.dropStreams
  try dsimp only
  repeat' first | with_reducible assumption | simp only [Keeps.mk_iff] | intro _

theorem State.infuserEnd_keeps {s0 s : State} {x1 x2 x3} (h : Keeps s0 s) :
    Keeps s0 (State.infuserEnd s x1 x2 x3) := by
  unfold State.infuserEnd
  try dsimp only
  repeat' first | with_reducible assumption | simp only [Keeps.mk_iff] | split | intro _ | with_reducible apply State.complete_keeps | with_reducible apply Keeps.ite

theorem State.streamDead_keeps {s0 s : State} {x1} (h : Keeps s0 s) :
    Keeps s0 (State.streamDead s x1) := by
  unfold State.streamDead
  try dsimp only
  repeat' first | with_reducible assumption | simp only [Keeps.mk_iff] | split | intro _ | with_reducible apply State.infuserEnd_keeps | with_reducible apply Keeps.ite

theorem State.sendSched_keeps {s0 s : State} {x1 x2} (h : Keeps s0 s) :
    Keeps s0 (State.sendSched s x1 x2) := by
  unfold State.sendSched
  try dsimp only
  repeat' first | with_reducible assumption | simp only [Keeps.mk_iff] | intro _ | with_reducible apply State.modPort_keeps | with_reducible apply State.takePosition_keeps | with_reducible apply State.emit_keeps

theorem State.streamNext_keeps {s0 s : State} {x1 x2 x3} (h : Keeps s0 s) :
    Keeps s0 (State.streamNext s x1 x2 x3) := by
  unfold State.streamNext
  try dsimp only
  repeat' first | with_reducible assumption | simp only [Keeps.mk_iff] | split | with_reducible apply Keeps.ite

theorem schedFlitSend_keeps {s0 s : State} {x0 x1 x2} (h : Keeps s0 s) :
    Keeps s0 (schedFlitSend x0 x1 x2 s) := by
  unfold schedFlitSend
  try dsimp only
  repeat' first | with_reducible assumption | simp only [Keeps.mk_iff] | split | intro _ | with_reducible apply State.infuserEnd_keeps | with_reducible apply State.streamNext_keeps | with_reducible apply State.sendSched_keeps | with_reducible apply State.streamDead_keeps | with_reducible apply Keeps.ite

theorem schedFlitForward_keeps {s0 s : State} {x0 x1 x2} (h : Keeps s0 s) :
    Keeps s0 (schedFlitForward x0 x1 x2 s) := by
  unfold schedFlitForward
  try dsimp only
  repeat' first | with_reducible assumption | simp only [Keeps.mk_iff] | split | intro _ | with_reducible apply State.sendSched_keeps | with_reducible apply State.modPort_keeps | with_reducible apply Keeps.ite

end Sys2Proof.Machine
end

