-- ==== Sys2Proof/Laws/KeepsStrainer.lean ====
section
/-!
SUPPORT. Every operation of Machine/Strainer.lean keeps the queue, and memory in its canonical form.
-/

set_option linter.unusedSimpArgs false
set_option linter.unreachableTactic false
set_option linter.unusedTactic false

namespace Sys2Proof.Machine

theorem State.strEnd_keeps {s0 s : State} {x1 x2 x3} (h : Keeps s0 s) :
    Keeps s0 (State.strEnd s x1 x2 x3) := by
  unfold State.strEnd
  try dsimp only
  repeat' first | with_reducible assumption | simp only [Keeps.mk_iff] | split | intro _ | with_reducible apply State.complete_keeps | with_reducible apply State.modEng_keeps | with_reducible apply Keeps.ite

theorem State.strFail_keeps {s0 s : State} {x1 x2 x3} (h : Keeps s0 s)
    (hf3 : ∀ y0, Keeps s0 y0 → Keeps s0 (x3 y0)) :
    Keeps s0 (State.strFail s x1 x2 x3) := by
  unfold State.strFail
  try dsimp only
  repeat' first | with_reducible assumption | split | with_reducible apply hf3 | with_reducible apply State.strEnd_keeps | with_reducible apply Keeps.ite

theorem State.setDir_keeps {s0 s : State} {x1 x2} (h : Keeps s0 s) :
    Keeps s0 (State.setDir s x1 x2) := by
  unfold State.setDir
  try dsimp only
  repeat' first | with_reducible assumption | simp only [Keeps.mk_iff] | intro _ | with_reducible apply Keeps.foldl | with_reducible apply Keeps.foldlFst

theorem dirWrite_keeps {s0 s : State} (h : Keeps s0 s) :
    Keeps s0 (dirWrite s) := by
  unfold dirWrite
  try dsimp only
  repeat' first | with_reducible assumption | split | intro _ | with_reducible apply State.withHead_keeps | with_reducible apply State.strFail_keeps | with_reducible apply State.strEnd_keeps | with_reducible apply State.setDir_keeps | with_reducible apply Keeps.ite

theorem dirRead_keeps {s0 s : State} (h : Keeps s0 s) :
    Keeps s0 (dirRead s) := by
  unfold dirRead
  try dsimp only
  repeat' first | with_reducible assumption | split | intro _ | with_reducible apply State.withHead_keeps | with_reducible apply State.strFail_keeps | with_reducible apply State.strEnd_keeps | with_reducible apply State.storeAll_keeps | with_reducible apply Keeps.ite

theorem dirBias_keeps {s0 s : State} (h : Keeps s0 s) :
    Keeps s0 (dirBias s) := by
  unfold dirBias
  try dsimp only
  repeat' first | with_reducible assumption | split | intro _ | with_reducible apply State.withHead_keeps | with_reducible apply State.strFail_keeps | with_reducible apply State.strEnd_keeps | with_reducible apply State.setDir_keeps | with_reducible apply Keeps.ite

theorem State.selected_keeps {s0 s : State} {x1 x2 x3} (h : Keeps s0 s) :
    Keeps s0 (State.selected s x1 x2 x3) := by
  unfold State.selected
  try dsimp only
  repeat' first | with_reducible assumption | simp only [Keeps.mk_iff] | split | intro _ | with_reducible apply State.storeAll_keeps | with_reducible apply State.modEng_keeps | with_reducible apply State.jobEvent_keeps | with_reducible apply State.strEnd_keeps | with_reducible apply Keeps.ite

theorem select_keeps {s0 s : State} (h : Keeps s0 s) :
    Keeps s0 (select s) := by
  unfold select
  try dsimp only
  repeat' first | with_reducible assumption | intro _ | with_reducible apply State.withHead_keeps | with_reducible apply State.strFail_keeps | with_reducible apply State.selected_keeps

end Sys2Proof.Machine
end

