-- ==== Sys2Proof/Laws/KeepsSpout.lean ====
section
/-!
SUPPORT. Every operation of Machine/Spout.lean keeps the queue, and memory in its canonical form.
-/

set_option linter.unusedSimpArgs false
set_option linter.unreachableTactic false
set_option linter.unusedTactic false

namespace Sys2Proof.Machine

theorem State.modSpCtx_keeps {s0 s : State} {x1 x2} (h : Keeps s0 s) :
    Keeps s0 (State.modSpCtx s x1 x2) := by
  unfold State.modSpCtx
  try dsimp only
  repeat' first | with_reducible assumption | simp only [Keeps.mk_iff]

theorem State.raiseEnd_keeps {s0 s : State} {x1 x2} (h : Keeps s0 s) :
    Keeps s0 (State.raiseEnd s x1 x2) := by
  unfold State.raiseEnd
  try dsimp only
  repeat' first | with_reducible assumption | simp only [Keeps.mk_iff]

theorem State.chainOne_keeps {s0 : State} {p l} (h : Keeps s0 p.1) : Keeps s0 (State.chainOne p l).1 := by
  unfold State.chainOne
  dsimp only
  repeat' first | exact h | split | with_reducible apply State.modSpCtx_keeps

theorem State.chainStarts_keeps {s0 s : State} {x1} (h : Keeps s0 s) :
    Keeps s0 (State.chainStarts s x1) := by
  unfold State.chainStarts
  try dsimp only
  repeat' first | with_reducible assumption | split | intro _ | with_reducible refine State.chainOne_out ?_ ‹_› | with_reducible apply State.chainOne_keeps | with_reducible apply Keeps.foldl | with_reducible apply Keeps.foldlFst | with_reducible apply Keeps.ite

theorem State.spEnd_keeps {s0 s : State} {x1 x2 x3 x4 x5} (h : Keeps s0 s) :
    Keeps s0 (State.spEnd s x1 x2 x3 x4 x5) := by
  unfold State.spEnd
  try dsimp only
  repeat' first | with_reducible assumption | simp only [Keeps.mk_iff] | intro _ | with_reducible apply State.complete_keeps | with_reducible apply State.modEng_keeps | with_reducible apply State.failOutputs_keeps

theorem State.spFail_keeps {s0 s : State} {x1 x2 x3 x4} (h : Keeps s0 s) :
    Keeps s0 (State.spFail s x1 x2 x3 x4) := by
  unfold State.spFail
  try dsimp only
  repeat' first | with_reducible assumption | split | with_reducible apply State.chainStarts_keeps | with_reducible apply State.spEnd_keeps | with_reducible apply State.modSpCtx_keeps | with_reducible apply State.dropStreams_keeps | with_reducible apply Keeps.ite

theorem State.spMark_keeps {s0 s : State} {x1 x2 x3} (h : Keeps s0 s) :
    Keeps s0 (State.spMark s x1 x2 x3) := by
  unfold State.spMark
  try dsimp only
  repeat' first | with_reducible assumption | simp only [Keeps.mk_iff] | split | intro _ | with_reducible apply State.modSpCtx_keeps | with_reducible apply Keeps.ite

theorem State.spLate_keeps {s0 s : State} {x1 x2} (h : Keeps s0 s) :
    Keeps s0 (State.spLate s x1 x2) := by
  unfold State.spLate
  try dsimp only
  repeat' first | with_reducible assumption | with_reducible apply State.spEnd_keeps | with_reducible apply State.jobEvent_keeps

theorem dispatch_keeps {s0 s : State} (h : Keeps s0 s) :
    Keeps s0 (dispatch s) := by
  unfold dispatch
  try dsimp only
  repeat' first | with_reducible assumption | simp only [Keeps.mk_iff] | split | intro _ | with_reducible apply State.withHead_keeps | with_reducible apply State.spEnd_keeps | with_reducible apply State.modEng_keeps | with_reducible apply State.spLate_keeps | with_reducible apply State.raiseEnd_keeps | with_reducible apply State.chainStarts_keeps | with_reducible apply State.addLive_keeps | with_reducible apply State.modSpCtx_keeps | with_reducible apply Keeps.ite | with_reducible apply Keeps.getD

theorem State.raiseLate_keeps {s0 s : State} {x1} (h : Keeps s0 s) :
    Keeps s0 (State.raiseLate s x1) := by
  unfold State.raiseLate
  try dsimp only
  repeat' first | with_reducible assumption | split | with_reducible apply State.raiseEnd_keeps | with_reducible apply Keeps.ite

theorem combine_keeps {s0 s : State} (h : Keeps s0 s) :
    Keeps s0 (combine s) := by
  unfold combine
  try dsimp only
  repeat' first | with_reducible assumption | simp only [Keeps.mk_iff] | split | intro _ | with_reducible apply State.withHead_keeps | with_reducible apply State.spEnd_keeps | with_reducible apply State.spLate_keeps | with_reducible apply State.raiseLate_keeps | with_reducible apply State.chainStarts_keeps | with_reducible apply State.addLive_keeps | with_reducible apply State.modSpCtx_keeps | with_reducible apply Keeps.ite | with_reducible apply Keeps.getD

theorem spoutRelease_keeps {s0 s : State} (h : Keeps s0 s) :
    Keeps s0 (spoutRelease s) := by
  unfold spoutRelease
  try dsimp only
  repeat' first | with_reducible assumption | simp only [Keeps.mk_iff] | split | intro _ | with_reducible apply State.withHead_keeps | with_reducible apply State.spEnd_keeps | with_reducible apply State.modSpCtx_keeps | with_reducible apply Keeps.ite

theorem State.beginPart_keeps {s0 s : State} {x1 x2 x3 x4} (h : Keeps s0 s) :
    Keeps s0 (State.beginPart s x1 x2 x3 x4) := by
  unfold State.beginPart
  try dsimp only
  repeat' first | with_reducible assumption | simp only [Keeps.mk_iff] | split | intro _ | with_reducible apply State.spFail_keeps | with_reducible apply State.modSpCtx_keeps | with_reducible apply State.noRestart_keeps | with_reducible apply State.addStreams_keeps | with_reducible apply State.chainStarts_keeps | with_reducible apply State.spMark_keeps | with_reducible apply Keeps.ite

theorem exchangePartStart_keeps {s0 s : State} {x0} (h : Keeps s0 s) :
    Keeps s0 (exchangePartStart x0 s) := by
  unfold exchangePartStart
  try dsimp only
  repeat' first | with_reducible assumption | simp only [Keeps.mk_iff] | split | with_reducible apply State.beginPart_keeps | with_reducible apply Keeps.ite

theorem State.maximaKnown_keeps {s0 s : State} {x1 x2 x3} (h : Keeps s0 s) :
    Keeps s0 (State.maximaKnown s x1 x2 x3) := by
  unfold State.maximaKnown
  try dsimp only
  repeat' first | with_reducible assumption | simp only [Keeps.mk_iff] | split | intro _ | with_reducible apply State.modSpCtx_keeps | with_reducible apply State.spFail_keeps | with_reducible apply State.chainStarts_keeps | with_reducible apply Keeps.ite | with_reducible apply Keeps.getD

theorem State.countsDone_keeps {s0 s : State} {x1 x2} (h : Keeps s0 s) :
    Keeps s0 (State.countsDone s x1 x2) := by
  unfold State.countsDone
  try dsimp only
  repeat' first | with_reducible assumption | split | with_reducible apply State.maximaKnown_keeps | with_reducible apply Keeps.ite

theorem State.loseCounts_keeps {s0 s : State} {x1 x2} (h : Keeps s0 s) :
    Keeps s0 (State.loseCounts s x1 x2) := by
  unfold State.loseCounts
  try dsimp only
  repeat' first | with_reducible assumption | simp only [Keeps.mk_iff] | intro _ | with_reducible apply State.modSpCtx_keeps

theorem State.takeCame_keeps {s0 s : State} {x1 x2 x3 x4} (h : Keeps s0 s) :
    Keeps s0 (State.takeCame s x1 x2 x3 x4) := by
  unfold State.takeCame
  try dsimp only
  repeat' first | with_reducible assumption | simp only [Keeps.mk_iff] | split | intro _ | with_reducible apply State.loseCounts_keeps | with_reducible apply State.spMark_keeps | with_reducible apply State.modSpCtx_keeps | with_reducible apply Keeps.foldl | with_reducible apply Keeps.foldlFst | with_reducible apply Keeps.ite

theorem spoutStreamComplete_keeps {s0 s : State} {x0 x1} (h : Keeps s0 s) :
    Keeps s0 (spoutStreamComplete x0 x1 s) := by
  unfold spoutStreamComplete
  try dsimp only
  repeat' first | with_reducible assumption | simp only [Keeps.mk_iff] | split | intro _ | with_reducible apply State.modSpCtx_keeps | with_reducible apply State.takeStream_keeps | with_reducible apply State.countsDone_keeps | with_reducible apply State.takeCame_keeps | with_reducible apply Keeps.ite

theorem spoutLateStart_keeps {s0 s : State} {x0} (h : Keeps s0 s) : Keeps s0 (spoutLateStart x0 s) := by
  unfold spoutLateStart
  try dsimp only
  repeat' first | with_reducible assumption | split | with_reducible apply State.spLate_keeps | with_reducible refine State.setQueue_keeps (State.raiseLate_keeps h) fun w x mx => (h.own w).mem (List.mem_of_mem_tail mx)

theorem spoutReceiveDeadline_keeps {s0 s : State} {x0} (h : Keeps s0 s) :
    Keeps s0 (spoutReceiveDeadline x0 s) := by
  unfold spoutReceiveDeadline
  try dsimp only
  repeat' first | with_reducible assumption | simp only [Keeps.mk_iff] | split | intro _ | with_reducible apply State.loseCounts_keeps | with_reducible apply State.spMark_keeps | with_reducible apply State.modSpCtx_keeps | with_reducible apply State.spFail_keeps | with_reducible apply Keeps.ite

theorem dispatchCommit_keeps {s0 s : State} {x0} (h : Keeps s0 s) :
    Keeps s0 (dispatchCommit x0 s) := by
  unfold dispatchCommit
  try dsimp only
  repeat' first | with_reducible assumption | simp only [Keeps.mk_iff] | split | intro _ | with_reducible apply State.spFail_keeps | with_reducible apply State.modSpCtx_keeps | with_reducible apply State.spEnd_keeps | with_reducible apply State.storeAll_keeps | with_reducible apply Keeps.ite

theorem combineCommit_keeps {s0 s : State} {x0} (h : Keeps s0 s) :
    Keeps s0 (combineCommit x0 s) := by
  unfold combineCommit
  try dsimp only
  repeat' first | with_reducible assumption | simp only [Keeps.mk_iff] | split | intro _ | with_reducible apply State.spFail_keeps | with_reducible apply State.modSpCtx_keeps | with_reducible apply State.spEnd_keeps | with_reducible apply State.storeAll_keeps | with_reducible apply Keeps.ite | with_reducible apply Keeps.getD

theorem exchangeEnd_keeps {s0 s : State} {x0} (h : Keeps s0 s) :
    Keeps s0 (exchangeEnd x0 s) := by
  unfold exchangeEnd
  try dsimp only
  repeat' first | with_reducible assumption | split | with_reducible apply State.spFail_keeps | with_reducible apply Keeps.ite

end Sys2Proof.Machine
end

