-- ==== Sys2Proof/Laws/KeepsCollective.lean ====
section
/-!
SUPPORT. Every operation of Machine/Collective.lean keeps the queue, and memory in its canonical form.
-/

set_option linter.unusedSimpArgs false
set_option linter.unreachableTactic false
set_option linter.unusedTactic false

namespace Sys2Proof.Machine

theorem State.modRun_keeps {s0 s : State} {x1} (h : Keeps s0 s) :
    Keeps s0 (State.modRun s x1) := by
  unfold State.modRun
  try dsimp only
  repeat' first | with_reducible assumption | simp only [Keeps.mk_iff]

theorem State.refreshStreams_keeps {s0 s : State} (h : Keeps s0 s) :
    Keeps s0 (State.refreshStreams s) := by
  unfold State.refreshStreams
  try dsimp only
  repeat' first | with_reducible assumption | simp only [Keeps.mk_iff] | split | intro _ | with_reducible apply Keeps.ite

theorem State.colFail_keeps {s0 s : State} {x1 x2 x3 x4} (h : Keeps s0 s) :
    Keeps s0 (State.colFail s x1 x2 x3 x4) := by
  unfold State.colFail
  try dsimp only
  repeat' first | with_reducible assumption | simp only [Keeps.mk_iff] | intro _ | with_reducible apply State.modEng_keeps | with_reducible apply State.dropStreams_keeps | with_reducible apply State.complete_keeps | with_reducible apply State.failOutputs_keeps | with_reducible apply State.checkFailed_keeps

theorem State.colMark_keeps {s0 s : State} {x1 x2} (h : Keeps s0 s) :
    Keeps s0 (State.colMark s x1 x2) := by
  unfold State.colMark
  try dsimp only
  repeat' first | with_reducible assumption | simp only [Keeps.mk_iff] | split | intro _ | with_reducible apply State.modRun_keeps | with_reducible apply Keeps.ite

theorem State.colLate_keeps {s0 s : State} {x1 x2} (h : Keeps s0 s) :
    Keeps s0 (State.colLate s x1 x2) := by
  unfold State.colLate
  try dsimp only
  repeat' first | with_reducible assumption | with_reducible apply State.colFail_keeps | with_reducible apply State.jobEvent_keeps

theorem State.setColEnd_keeps {s0 s : State} {x1 x2} (h : Keeps s0 s) :
    Keeps s0 (State.setColEnd s x1 x2) := by
  unfold State.setColEnd
  try dsimp only
  repeat' first | with_reducible assumption | simp only [Keeps.mk_iff]

theorem collectiveStart_keeps {s0 s : State} {x0} (h : Keeps s0 s) :
    Keeps s0 (collectiveStart x0 s) := by
  unfold collectiveStart
  try dsimp only
  repeat' first | with_reducible assumption | simp only [Keeps.mk_iff] | split | intro _ | with_reducible apply State.withHead_keeps | with_reducible apply State.complete_keeps | with_reducible apply State.failOutputs_keeps | with_reducible apply State.checkFailed_keeps | with_reducible apply State.modEng_keeps | with_reducible apply State.setColEnd_keeps | with_reducible apply State.colLate_keeps | with_reducible apply State.addLive_keeps | with_reducible apply Keeps.ite | with_reducible apply Keeps.getD

theorem State.windowUsed_keeps {s0 s : State} {x1} (h : Keeps s0 s) :
    Keeps s0 (State.windowUsed s x1) := by
  unfold State.windowUsed
  try dsimp only
  repeat' first | with_reducible assumption | split | with_reducible apply State.leaveUndefined_keeps | with_reducible apply Keeps.ite

theorem collectivePartStart_keeps {s0 s : State} (h : Keeps s0 s) :
    Keeps s0 (collectivePartStart s) := by
  unfold collectivePartStart
  try dsimp only
  repeat' first | with_reducible assumption | simp only [Keeps.mk_iff] | split | intro _ | with_reducible apply State.modRun_keeps | with_reducible apply State.windowUsed_keeps | with_reducible apply State.noRestart_keeps | with_reducible apply State.addStreams_keeps | with_reducible apply State.colMark_keeps | with_reducible apply Keeps.ite

theorem State.settleEnd_keeps {s0 s : State} (h : Keeps s0 s) :
    Keeps s0 (State.settleEnd s) := by
  unfold State.settleEnd
  try dsimp only
  repeat' first | with_reducible assumption | simp only [Keeps.mk_iff] | split | intro _ | with_reducible apply State.modRun_keeps | with_reducible apply State.setColEnd_keeps | with_reducible apply Keeps.ite

theorem State.colAdvance_keeps {s0 s : State} (h : Keeps s0 s) :
    Keeps s0 (State.colAdvance s) := by
  unfold State.colAdvance
  try dsimp only
  repeat' first | with_reducible assumption | simp only [Keeps.mk_iff] | split | intro _ | with_reducible apply State.colMark_keeps | with_reducible apply State.modRun_keeps | with_reducible apply Keeps.ite

theorem State.takeCount_keeps {s0 s : State} {x1 x2 x3 x4} (h : Keeps s0 s) :
    Keeps s0 (State.takeCount s x1 x2 x3 x4) := by
  unfold State.takeCount
  try dsimp only
  repeat' first | with_reducible assumption | simp only [Keeps.mk_iff] | split | intro _ | with_reducible apply State.settleEnd_keeps | with_reducible apply State.modRun_keeps | with_reducible apply State.colAdvance_keeps | with_reducible apply State.colMark_keeps | with_reducible apply Keeps.ite

theorem chunkReceive_keeps {s0 s : State} {x0} (h : Keeps s0 s) :
    Keeps s0 (chunkReceive x0 s) := by
  unfold chunkReceive
  try dsimp only
  repeat' first | with_reducible assumption | simp only [Keeps.mk_iff] | split | intro _ | with_reducible apply State.modRun_keeps | with_reducible apply State.takeStream_keeps | with_reducible apply State.takeCount_keeps | with_reducible apply State.colMark_keeps | with_reducible apply State.refreshStreams_keeps | with_reducible apply Keeps.ite

theorem State.lateEnd_keeps {s0 s : State} {x1 x2} (h : Keeps s0 s) :
    Keeps s0 (State.lateEnd s x1 x2) := by
  unfold State.lateEnd
  try dsimp only
  repeat' first | with_reducible assumption | simp only [Keeps.mk_iff] | intro _ | with_reducible apply State.complete_keeps | with_reducible apply State.failOutputs_keeps | with_reducible apply State.checkFailed_keeps | with_reducible apply State.modEng_keeps

theorem collectiveLate_keeps {s0 s : State} (h : Keeps s0 s) : Keeps s0 (collectiveLate s) := by
  unfold collectiveLate
  try dsimp only
  split
  · exact h
  next c _ =>
    refine State.lateEnd_keeps (State.jobEvent_keeps (State.setColEnd_keeps (State.setQueue_keeps h fun w x mx => ?_)))
    exact (h.own w).mem (List.mem_of_mem_tail mx)

theorem collectiveReceiveDeadline_keeps {s0 s : State} (h : Keeps s0 s) :
    Keeps s0 (collectiveReceiveDeadline s) := by
  unfold collectiveReceiveDeadline
  try dsimp only
  repeat' first | with_reducible assumption | split | intro _ | with_reducible apply State.colFail_keeps | with_reducible apply Keeps.ite

theorem State.confirmStart_keeps {s0 s : State} {x1} (h : Keeps s0 s) :
    Keeps s0 (State.confirmStart s x1) := by
  unfold State.confirmStart
  try dsimp only
  repeat' first | with_reducible assumption | simp only [Keeps.mk_iff] | split | intro _ | with_reducible apply State.setSlot_keeps | with_reducible apply Keeps.ite

theorem State.colCommit_keeps {s0 s : State} {x1 x2} (h : Keeps s0 s) :
    Keeps s0 (State.colCommit s x1 x2) := by
  unfold State.colCommit
  try dsimp only
  repeat' first | with_reducible assumption | simp only [Keeps.mk_iff] | with_reducible apply State.storeAll_keeps | with_reducible apply State.complete_keeps | with_reducible apply State.confirmStart_keeps

theorem State.orColEcc_keeps {s0 s : State} {x1 x2 x3} (h : Keeps s0 s)
    (hf3 : ∀ y0, Keeps s0 y0 → Keeps s0 (x3 y0)) :
    Keeps s0 (State.orColEcc s x1 x2 x3) := by
  unfold State.orColEcc
  try dsimp only
  repeat' first | with_reducible assumption | split | with_reducible apply hf3 | with_reducible apply State.colFail_keeps | with_reducible apply Keeps.ite

theorem collectiveCommit_keeps {s0 s : State} (h : Keeps s0 s) :
    Keeps s0 (collectiveCommit s) := by
  unfold collectiveCommit
  try dsimp only
  repeat' first | with_reducible assumption | split | intro _ | with_reducible apply State.orColEcc_keeps | with_reducible apply State.colCommit_keeps | with_reducible apply State.colFail_keeps | with_reducible apply Keeps.ite

theorem collectiveEnd_keeps {s0 s : State} (h : Keeps s0 s) :
    Keeps s0 (collectiveEnd s) := by
  unfold collectiveEnd
  try dsimp only
  repeat' first | with_reducible assumption | split | with_reducible apply State.colFail_keeps | with_reducible apply Keeps.ite

end Sys2Proof.Machine
end

