-- ==== Sys2Proof/Laws/KeepsPower.lean ====
section
/-!
SUPPORT. Every operation of Machine/Power.lean keeps the queue, and memory in its canonical form.
-/

set_option linter.unusedSimpArgs false
set_option linter.unreachableTactic false
set_option linter.unusedTactic false

namespace Sys2Proof.Machine

theorem pwrEnChange_keeps {s0 s : State} {x0 x1} (h : Keeps s0 s) :
    Keeps s0 (pwrEnChange x0 x1 s) := by
  unfold pwrEnChange
  try dsimp only
  repeat' first | with_reducible assumption | simp only [Keeps.mk_iff] | split | with_reducible apply State.noWait_keeps | with_reducible apply State.beginStep_keeps | with_reducible apply State.setStep_keeps | with_reducible apply Keeps.ite

theorem railSequencingStart_keeps {s0 s : State} {x0 x1} (h : Keeps s0 s) :
    Keeps s0 (railSequencingStart x0 x1 s) := by
  unfold railSequencingStart
  try dsimp only
  repeat' first | with_reducible assumption | simp only [Keeps.mk_iff] | split | with_reducible apply State.noWait_keeps | with_reducible apply State.beginStep_keeps | with_reducible apply Keeps.ite

theorem railRegulationTimeout_keeps {s0 s : State} {x0} (h : Keeps s0 s) :
    Keeps s0 (railRegulationTimeout x0 s) := by
  unfold railRegulationTimeout
  try dsimp only
  repeat' first | with_reducible assumption | simp only [Keeps.mk_iff] | split | with_reducible apply Keeps.ite

theorem pwrOkRelease_keeps {s0 s : State} (h : Keeps s0 s) :
    Keeps s0 (pwrOkRelease s) := by
  unfold pwrOkRelease
  try dsimp only
  repeat' first | with_reducible assumption | simp only [Keeps.mk_iff] | split | with_reducible apply State.firstEntries_keeps | with_reducible apply State.beginStep_keeps | with_reducible apply Keeps.ite

theorem inputShutdown_keeps {s0 s : State} {x0 x1 x2} (h : Keeps s0 s) :
    Keeps s0 (inputShutdown x0 x1 x2 s) := by
  unfold inputShutdown
  try dsimp only
  repeat' first | with_reducible assumption | simp only [Keeps.mk_iff] | split | intro _ | with_reducible apply State.inputShutdown_keeps | with_reducible apply Keeps.ite

theorem inputExcursionEnd_keeps {s0 s : State} {x0 x1 x2} (h : Keeps s0 s) :
    Keeps s0 (inputExcursionEnd x0 x1 x2 s) := by
  unfold inputExcursionEnd
  try dsimp only
  repeat' first | with_reducible assumption | simp only [Keeps.mk_iff] | split | with_reducible apply Keeps.ite

theorem power64vApplied_keeps {s0 s : State} {x0 x1} (h : Keeps s0 s) :
    Keeps s0 (power64vApplied x0 x1 s) := by
  unfold power64vApplied
  try dsimp only
  repeat' first | with_reducible assumption | simp only [Keeps.mk_iff] | split | with_reducible apply State.noWait_keeps | with_reducible apply State.beginStep_keeps | with_reducible apply State.setStep_keeps | with_reducible apply Keeps.ite

theorem power64vRemoved_keeps {s0 s : State} {x0} (h : Keeps s0 s) :
    Keeps s0 (power64vRemoved x0 s) := by
  unfold power64vRemoved
  try dsimp only
  repeat' first | with_reducible assumption | simp only [Keeps.mk_iff] | split | with_reducible apply State.inputShutdown_keeps | with_reducible apply State.noWait_keeps | with_reducible apply State.setStep_keeps | with_reducible apply Keeps.ite

theorem State.htAlarm_keeps {s0 s : State} (h : Keeps s0 s) :
    Keeps s0 (State.htAlarm s) := by
  unfold State.htAlarm
  try dsimp only
  repeat' first | with_reducible assumption | with_reducible apply State.event_keeps

theorem rootSourceLoss_keeps {s0 s : State} {x0 x1} (h : Keeps s0 s) :
    Keeps s0 (rootSourceLoss x0 x1 s) := by
  unfold rootSourceLoss
  try dsimp only
  repeat' first | with_reducible assumption | simp only [Keeps.mk_iff] | split | with_reducible apply State.htAlarm_keeps | with_reducible apply Keeps.ite

theorem rootSourceReturn_keeps {s0 s : State} {x0} (h : Keeps s0 s) :
    Keeps s0 (rootSourceReturn x0 s) := by
  unfold rootSourceReturn
  try dsimp only
  repeat' first | with_reducible assumption | simp only [Keeps.mk_iff] | split | with_reducible apply Keeps.ite

end Sys2Proof.Machine
end

