-- ==== Sys2Proof/Laws/KeepsCores.lean ====
section
/-!
SUPPORT. Every operation of Machine/Cores.lean keeps the queue, and memory in its canonical form.
-/

set_option linter.unusedSimpArgs false
set_option linter.unreachableTactic false
set_option linter.unusedTactic false

namespace Sys2Proof.Machine

theorem State.failTask_keeps {s0 s : State} {x1 x2 x3 x4 x5} (h : Keeps s0 s) :
    Keeps s0 (State.failTask s x1 x2 x3 x4 x5) := by
  unfold State.failTask
  try dsimp only
  repeat' first | with_reducible assumption | simp only [Keeps.mk_iff] | split | intro _ | with_reducible apply State.modCore_keeps | with_reducible apply Keeps.ite

theorem State.startHead_keeps {s0 s : State} {x1 x2 x3 x4} (h : Keeps s0 s)
    (hf4 : ∀ y0 y1, Keeps s0 y0 → Keeps s0 (x4 y0 y1)) :
    Keeps s0 (State.startHead s x1 x2 x3 x4) := by
  unfold State.startHead
  try dsimp only
  repeat' first | with_reducible assumption | split | intro _ | with_reducible apply hf4 | with_reducible apply State.claim_keeps | with_reducible apply State.modCore_keeps | with_reducible apply Keeps.ite

theorem State.orFailTask_keeps {s0 s : State} {x1 x2 x3 x4} (h : Keeps s0 s)
    (hf4 : ∀ y0, Keeps s0 y0 → Keeps s0 (x4 y0)) :
    Keeps s0 (State.orFailTask s x1 x2 x3 x4) := by
  unfold State.orFailTask
  try dsimp only
  repeat' first | with_reducible assumption | split | with_reducible apply hf4 | with_reducible apply State.failTask_keeps | with_reducible apply State.tallyEcc_keeps | with_reducible apply Keeps.ite

theorem State.started_keeps {s0 s : State} {x1 x2 x3} (h : Keeps s0 s) :
    Keeps s0 (State.started s x1 x2 x3) := by
  unfold State.started
  try dsimp only
  repeat' first | with_reducible assumption | simp only [Keeps.mk_iff] | intro _ | with_reducible apply State.modCore_keeps

theorem State.startedRemote_keeps {s0 s : State} {x1 x2 x3} (h : Keeps s0 s) :
    Keeps s0 (State.startedRemote s x1 x2 x3) := by
  unfold State.startedRemote
  try dsimp only
  repeat' first | with_reducible assumption | simp only [Keeps.mk_iff] | intro _ | with_reducible apply State.modCore_keeps | with_reducible apply State.requests_keeps

theorem State.modWindow_keeps {s0 s : State} {x1 x2 x3} (h : Keeps s0 s) :
    Keeps s0 (State.modWindow s x1 x2 x3) := by
  unfold State.modWindow
  try dsimp only
  repeat' first | with_reducible assumption | simp only [Keeps.mk_iff] | intro _ | with_reducible apply State.modCore_keeps

theorem State.ballastTo_keeps {s0 s : State} {x1 x2} (h : Keeps s0 s) :
    Keeps s0 (State.ballastTo s x1 x2) := by
  unfold State.ballastTo
  try dsimp only
  repeat' first | with_reducible assumption | simp only [Keeps.mk_iff]

theorem State.takeBallast_keeps {s0 s : State} {x1} (h : Keeps s0 s) :
    Keeps s0 (State.takeBallast s x1) := by
  unfold State.takeBallast
  try dsimp only
  repeat' first | with_reducible assumption | split | with_reducible apply State.ballastTo_keeps | with_reducible apply Keeps.ite

theorem State.markLast_keeps {s0 s : State} {x1 x2} (h : Keeps s0 s) :
    Keeps s0 (State.markLast s x1 x2) := by
  unfold State.markLast
  try dsimp only
  repeat' first | with_reducible assumption | simp only [Keeps.mk_iff] | split | intro _ | with_reducible apply State.modCore_keeps | with_reducible apply Keeps.ite

theorem State.startedMat_keeps {s0 s : State} {x1 x2 x3 x4} (h : Keeps s0 s) :
    Keeps s0 (State.startedMat s x1 x2 x3 x4) := by
  unfold State.startedMat
  try dsimp only
  repeat' first | with_reducible assumption | simp only [Keeps.mk_iff] | intro _ | with_reducible apply State.takeBallast_keeps | with_reducible apply State.markLast_keeps | with_reducible apply State.started_keeps

theorem State.bumpCore_keeps {s0 s : State} {x1 x2} (h : Keeps s0 s) :
    Keeps s0 (State.bumpCore s x1 x2) := by
  unfold State.bumpCore
  try dsimp only
  repeat' first | with_reducible assumption | simp only [Keeps.mk_iff] | intro _ | with_reducible apply State.modCore_keeps

theorem State.unitStore_keeps {s0 s : State} {x1 x2 x3} (h : Keeps s0 s) :
    Keeps s0 (State.unitStore s x1 x2 x3) := by
  unfold State.unitStore
  try dsimp only
  repeat' first | with_reducible assumption | simp only [Keeps.mk_iff] | split | intro _ | with_reducible apply State.modCore_keeps | with_reducible apply State.store_keeps | with_reducible apply Keeps.ite

theorem State.flushPad_keeps {s0 s : State} {x1} (h : Keeps s0 s) :
    Keeps s0 (State.flushPad s x1) := by
  unfold State.flushPad
  try dsimp only
  repeat' first | with_reducible assumption | simp only [Keeps.mk_iff] | intro _ | with_reducible apply State.storeAll_keeps | with_reducible apply State.modCore_keeps

theorem State.beginCycle_keeps {s0 s : State} {x1} (h : Keeps s0 s) :
    Keeps s0 (State.beginCycle s x1) := by
  unfold State.beginCycle
  try dsimp only
  repeat' first | with_reducible assumption | intro _ | with_reducible apply State.flushPad_keeps | with_reducible apply Keeps.foldl | with_reducible apply Keeps.foldlFst

theorem State.endCycle_keeps {s0 s : State} {x1} (h : Keeps s0 s) :
    Keeps s0 (State.endCycle s x1) := by
  unfold State.endCycle
  try dsimp only
  repeat' first | with_reducible assumption | with_reducible apply State.modCore_keeps | with_reducible apply State.flushPad_keeps

theorem State.completeInstr_keeps {s0 s : State} {x1 x2} (h : Keeps s0 s) :
    Keeps s0 (State.completeInstr s x1 x2) := by
  unfold State.completeInstr
  try dsimp only
  repeat' first | with_reducible assumption | simp only [Keeps.mk_iff] | intro _ | with_reducible apply State.unitStore_keeps | with_reducible apply State.modCore_keeps | with_reducible apply State.bumpCore_keeps | with_reducible apply State.modWindow_keeps | with_reducible apply Keeps.foldl | with_reducible apply Keeps.foldlFst | with_reducible apply Keeps.elim

theorem State.completeOldest_keeps {s0 s : State} {x1 x2} (h : Keeps s0 s) :
    Keeps s0 (State.completeOldest s x1 x2) := by
  unfold State.completeOldest
  try dsimp only
  repeat' first | with_reducible assumption | split | intro _ | with_reducible apply State.completeInstr_keeps | with_reducible apply Keeps.ite

end Sys2Proof.Machine
end

