-- ==== Sys2Proof/Laws/KeepsRemote.lean ====
section
/-!
SUPPORT. Every operation of Machine/Remote.lean keeps the queue, and memory in its canonical form.
-/

set_option linter.unusedSimpArgs false
set_option linter.unreachableTactic false
set_option linter.unusedTactic false

namespace Sys2Proof.Machine

theorem State.remoteFault_keeps {s0 s : State} {x1 x2} (h : Keeps s0 s) :
    Keeps s0 (State.remoteFault s x1 x2) := by
  unfold State.remoteFault
  try dsimp only
  repeat' first | with_reducible assumption | simp only [Keeps.mk_iff] | split | with_reducible apply State.jobEvent_keeps | with_reducible apply Keeps.ite

theorem State.streamEnd_keeps {s0 s : State} {x1 x2} (h : Keeps s0 s) :
    Keeps s0 (State.streamEnd s x1 x2) := by
  unfold State.streamEnd
  try dsimp only
  repeat' first | with_reducible assumption | simp only [Keeps.mk_iff] | split | with_reducible apply Keeps.ite

theorem State.writeResult_keeps {s0 s : State} {x1 x2} (h : Keeps s0 s) :
    Keeps s0 (State.writeResult s x1 x2) := by
  unfold State.writeResult
  try dsimp only
  repeat' first | with_reducible assumption | with_reducible apply State.storeAll_keeps

theorem State.coreRequestEnd_keeps {s0 s : State} {x1 x2} (h : Keeps s0 s) :
    Keeps s0 (State.coreRequestEnd s x1 x2) := by
  unfold State.coreRequestEnd
  try dsimp only
  repeat' first | with_reducible assumption | simp only [Keeps.mk_iff] | split | intro _ | with_reducible apply State.modCore_keeps | with_reducible apply Keeps.ite

theorem State.endRequest_keeps {s0 s : State} {x1 x2 x3 x4} (h : Keeps s0 s) :
    Keeps s0 (State.endRequest s x1 x2 x3 x4) := by
  unfold State.endRequest
  try dsimp only
  repeat' first | with_reducible assumption | simp only [Keeps.mk_iff] | split | with_reducible apply State.writeResult_keeps | with_reducible apply State.settleEndings_keeps | with_reducible apply State.coreRequestEnd_keeps | with_reducible apply State.streamEnd_keeps | with_reducible apply State.remoteFault_keeps | with_reducible apply Keeps.ite

theorem State.leftCore_keeps {s0 s : State} {x1} (h : Keeps s0 s) :
    Keeps s0 (State.leftCore s x1) := by
  unfold State.leftCore
  try dsimp only
  repeat' first | with_reducible assumption | simp only [Keeps.mk_iff] | split | intro _ | with_reducible apply State.modCore_keeps | with_reducible apply Keeps.ite

theorem remoteRequestSend_keeps {s0 s : State} (h : Keeps s0 s) :
    Keeps s0 (remoteRequestSend s) := by
  unfold remoteRequestSend
  try dsimp only
  repeat' first | with_reducible assumption | simp only [Keeps.mk_iff] | split | intro _ | with_reducible apply State.endRequest_keeps | with_reducible refine State.inject_out ?_ ‹_› | with_reducible apply State.leftCore_keeps | with_reducible apply Keeps.ite | with_reducible apply Keeps.getD

theorem State.accountSeq_keeps {s0 s : State} {x1 x2} (h : Keeps s0 s) :
    Keeps s0 (State.accountSeq s x1 x2) := by
  unfold State.accountSeq
  try dsimp only
  repeat' first | with_reducible assumption | simp only [Keeps.mk_iff] | intro _

theorem State.acceptWrite_keeps {s0 s : State} {x1} {t} (ht : State.acceptWrite s x1 = some t) (h : Keeps s0 s) :
    Keeps s0 t := by
  unfold State.acceptWrite at ht
  try dsimp only at ht
  repeat' first | (split at ht) | (cases ht)
  all_goals repeat' first | with_reducible assumption | simp only [Keeps.mk_iff] | split | with_reducible apply Keeps.ite

theorem State.acceptWrite_out {s0 s t : State} {x1} (h : Keeps s0 s) (e : State.acceptWrite s x1 = some t) :
    Keeps s0 t := State.acceptWrite_keeps e h

theorem State.arrivals_keeps {s0 s : State} {x1} (h : Keeps s0 s) :
    Keeps s0 (State.arrivals s x1) := by
  unfold State.arrivals
  try dsimp only
  repeat' first | with_reducible assumption | intro _ | with_reducible apply State.bumpCore_keeps | with_reducible apply Keeps.foldl | with_reducible apply Keeps.foldlFst

theorem State.respond_keeps {s0 s : State} {x1 x2 x3 x4} (h : Keeps s0 s) :
    Keeps s0 (State.respond s x1 x2 x3 x4) := by
  unfold State.respond
  try dsimp only
  repeat' first | with_reducible assumption | intro _ | with_reducible refine State.inject_out ?_ ‹_› | with_reducible apply Keeps.getD

theorem State.refuseWrite_keeps {s0 s : State} {x1} (h : Keeps s0 s) :
    Keeps s0 (State.refuseWrite s x1) := by
  unfold State.refuseWrite
  try dsimp only
  repeat' first | with_reducible assumption | simp only [Keeps.mk_iff] | with_reducible apply State.respond_keeps

theorem State.takeIngress_keeps {s0 s : State} {x1} (h : Keeps s0 s) :
    Keeps s0 (State.takeIngress s x1) := by
  unfold State.takeIngress
  try dsimp only
  repeat' first | with_reducible assumption | simp only [Keeps.mk_iff] | intro _ | with_reducible apply State.claim_keeps | with_reducible apply State.modPort_keeps | with_reducible apply Keeps.getD

theorem remoteLoad_keeps {s0 s : State} (h : Keeps s0 s) :
    Keeps s0 (remoteLoad s) := by
  unfold remoteLoad
  try dsimp only
  repeat' first | with_reducible assumption | simp only [Keeps.mk_iff] | split | intro _ | with_reducible apply State.takeIngress_keeps | with_reducible apply State.respond_keeps | with_reducible apply State.tallyEcc_keeps | with_reducible apply Keeps.ite | with_reducible apply Keeps.getD

theorem State.applyWrite_keeps {s0 s : State} {x1 x2} (h : Keeps s0 s)
    (hf2 : ∀ y0 y1, Keeps s0 y0 → Keeps s0 (x2 y0 y1).1) :
    Keeps s0 (State.applyWrite s x1 x2) := by
  unfold State.applyWrite
  try dsimp only
  repeat' first | with_reducible assumption | simp only [Keeps.mk_iff] | split | intro _ | with_reducible apply hf2 | with_reducible apply State.takeIngress_keeps | with_reducible refine State.acceptWrite_out ?_ ‹_› | with_reducible apply State.refuseWrite_keeps | with_reducible apply State.arrivals_keeps | with_reducible apply State.tallyEcc_keeps | with_reducible apply State.respond_keeps | with_reducible apply State.accountSeq_keeps | with_reducible apply Keeps.ite | with_reducible apply Keeps.getD

theorem remoteStore_keeps {s0 s : State} (h : Keeps s0 s) :
    Keeps s0 (remoteStore s) := by
  unfold remoteStore
  try dsimp only
  repeat' first | with_reducible assumption | intro _ | with_reducible apply State.applyWrite_keeps | with_reducible apply State.store_keeps

theorem State.applyStoreF_keeps {s0 s : State} {x1 x2} (h : Keeps s0 s) :
    Keeps s0 (State.applyStoreF s x1 x2) := by
  unfold State.applyStoreF
  try dsimp only
  repeat' first | with_reducible assumption | split | with_reducible apply State.store_keeps | with_reducible apply Keeps.ite

theorem State.finishStoreF_keeps {s0 s : State} {x1} (h : Keeps s0 s) :
    Keeps s0 (State.finishStoreF s x1) := by
  unfold State.finishStoreF
  try dsimp only
  repeat' first | with_reducible assumption | split | with_reducible apply State.arrivals_keeps | with_reducible apply State.applyStoreF_keeps | with_reducible apply State.tallyEcc_keeps | with_reducible apply State.respond_keeps | with_reducible apply State.accountSeq_keeps | with_reducible apply Keeps.ite

theorem remoteStoreF_keeps {s0 s : State} (h : Keeps s0 s) :
    Keeps s0 (remoteStoreF s) := by
  unfold remoteStoreF
  try dsimp only
  repeat' first | with_reducible assumption | simp only [Keeps.mk_iff] | split | intro _ | with_reducible refine State.acceptWrite_out ?_ ‹_› | with_reducible apply State.refuseWrite_keeps | with_reducible apply State.takeIngress_keeps | with_reducible apply State.finishStoreF_keeps | with_reducible apply Keeps.ite | with_reducible apply Keeps.getD

theorem storeFRelease_keeps {s0 s : State} (h : Keeps s0 s) :
    Keeps s0 (storeFRelease s) := by
  unfold storeFRelease
  try dsimp only
  repeat' first | with_reducible assumption | simp only [Keeps.mk_iff] | split | intro _ | with_reducible apply State.finishStoreF_keeps | with_reducible apply Keeps.ite

theorem storeFGapTimeout_keeps {s0 s : State} (h : Keeps s0 s) :
    Keeps s0 (storeFGapTimeout s) := by
  unfold storeFGapTimeout
  try dsimp only
  repeat' first | with_reducible assumption | simp only [Keeps.mk_iff] | split | intro _ | with_reducible apply State.arrivals_keeps | with_reducible apply State.applyStoreF_keeps | with_reducible apply State.tallyEcc_keeps | with_reducible apply State.respond_keeps | with_reducible apply Keeps.foldl | with_reducible apply Keeps.foldlFst | with_reducible apply Keeps.ite

theorem State.atomic_keeps {s0 s : State} {x1 x2} (h : Keeps s0 s) :
    Keeps s0 (State.atomic s x1 x2) := by
  unfold State.atomic
  try dsimp only
  repeat' first | with_reducible assumption | intro _ | with_reducible apply State.applyWrite_keeps | with_reducible apply State.store_keeps

theorem fadd_keeps {s0 s : State} (h : Keeps s0 s) :
    Keeps s0 (fadd s) := by
  unfold fadd
  try dsimp only
  repeat' first | with_reducible assumption | simp only [Keeps.mk_iff] | intro _ | with_reducible apply State.applyWrite_keeps | with_reducible apply State.store_keeps

theorem memRspReceive_keeps {s0 s : State} (h : Keeps s0 s) :
    Keeps s0 (memRspReceive s) := by
  unfold memRspReceive
  try dsimp only
  repeat' first | with_reducible assumption | simp only [Keeps.mk_iff] | split | intro _ | with_reducible apply State.modPort_keeps | with_reducible apply State.endRequest_keeps | with_reducible apply Keeps.ite

theorem remoteRequestDeadline_keeps {s0 s : State} {x0} (h : Keeps s0 s) :
    Keeps s0 (remoteRequestDeadline x0 s) := by
  unfold remoteRequestDeadline
  try dsimp only
  repeat' first | with_reducible assumption | split | intro _ | with_reducible apply State.endRequest_keeps | with_reducible apply Keeps.ite

end Sys2Proof.Machine
end

