-- ==== Sys2Proof/Laws/KeepsEcc.lean ====
section
/-!
SUPPORT. Every operation of Machine/Ecc.lean keeps the queue, and memory in its canonical form.
-/

set_option linter.unusedSimpArgs false
set_option linter.unreachableTactic false
set_option linter.unusedTactic false

namespace Sys2Proof.Machine

theorem State.repairWritten_keeps {s0 s : State} {x1 x2} (h : Keeps s0 s) :
    Keeps s0 (State.repairWritten s x1 x2) := by
  unfold State.repairWritten
  try dsimp only
  repeat' first | with_reducible assumption | simp only [Keeps.mk_iff] | with_reducible apply State.event_keeps

theorem State.repairExhausted_keeps {s0 s : State} {x1} (h : Keeps s0 s) :
    Keeps s0 (State.repairExhausted s x1) := by
  unfold State.repairExhausted
  try dsimp only
  repeat' first | with_reducible assumption | with_reducible apply State.event_keeps

theorem State.coreSpare_keeps {s0 s : State} {x1} (h : Keeps s0 s) :
    Keeps s0 (State.coreSpare s x1) := by
  unfold State.coreSpare
  try dsimp only
  repeat' first | with_reducible assumption | split | intro _ | with_reducible apply State.repairWritten_keeps | with_reducible apply Keeps.ite

theorem State.columnSpare_keeps {s0 s : State} {x1} (h : Keeps s0 s) :
    Keeps s0 (State.columnSpare s x1) := by
  unfold State.columnSpare
  try dsimp only
  repeat' first | with_reducible assumption | split | with_reducible apply State.repairWritten_keeps | with_reducible apply Keeps.ite

theorem State.markRow_keeps {s0 s : State} {x1 x2 x3} (h : Keeps s0 s) :
    Keeps s0 (State.markRow s x1 x2 x3) := by
  unfold State.markRow
  try dsimp only
  repeat' first | with_reducible assumption | simp only [Keeps.mk_iff] | split | with_reducible apply State.event_keeps | with_reducible apply State.repairExhausted_keeps | with_reducible apply State.repairWritten_keeps | with_reducible apply Keeps.ite

theorem State.eccCorrected_keeps {s0 s : State} {x1 x2} (h : Keeps s0 s) :
    Keeps s0 (State.eccCorrected s x1 x2) := by
  unfold State.eccCorrected
  try dsimp only
  repeat' first | with_reducible assumption | simp only [Keeps.mk_iff] | split | with_reducible apply State.markRow_keeps | with_reducible apply Keeps.ite

theorem State.coreEcc_keeps {s0 s : State} {x1} (h : Keeps s0 s) :
    Keeps s0 (State.coreEcc s x1) := by
  unfold State.coreEcc
  try dsimp only
  repeat' first | with_reducible assumption | simp only [Keeps.mk_iff] | split | intro _ | with_reducible apply State.coreSpare_keeps | with_reducible apply State.event_keeps | with_reducible apply Keeps.ite

theorem State.eccUncorr_keeps {s0 s : State} {x1 x2 x3} (h : Keeps s0 s) :
    Keeps s0 (State.eccUncorr s x1 x2 x3) := by
  unfold State.eccUncorr
  try dsimp only
  repeat' first | with_reducible assumption | simp only [Keeps.mk_iff] | split | with_reducible apply State.markRow_keeps | with_reducible apply State.event_keeps | with_reducible apply Keeps.ite

end Sys2Proof.Machine
end

