-- ==== Sys2Proof/Laws/KeepsSequencer.lean ====
section
/-!
SUPPORT. Every operation of Machine/Sequencer.lean keeps the queue, and memory in its canonical form.
-/

set_option linter.unusedSimpArgs false
set_option linter.unreachableTactic false
set_option linter.unusedTactic false

namespace Sys2Proof.Machine

theorem State.issue_keeps {s0 s : State} {x1 x2} (h : Keeps s0 s) :
    Keeps s0 (State.issue s x1 x2) := by
  unfold State.issue
  try dsimp only
  repeat' first | with_reducible assumption | split | intro _ | with_reducible apply State.modCore_keeps | with_reducible apply State.failTask_keeps | with_reducible apply Keeps.ite

theorem State.tryIssue_keeps {s0 s : State} {x1} (h : Keeps s0 s) :
    Keeps s0 (State.tryIssue s x1) := by
  unfold State.tryIssue
  try dsimp only
  repeat' first | with_reducible assumption | simp only [Keeps.mk_iff] | split | intro _ | with_reducible apply State.failTask_keeps | with_reducible apply State.modCore_keeps | with_reducible apply State.countUncorr_keeps | with_reducible apply State.issue_keeps | with_reducible apply Keeps.ite

theorem State.cycleStart_keeps {s0 s : State} {x1} (h : Keeps s0 s) :
    Keeps s0 (State.cycleStart s x1) := by
  unfold State.cycleStart
  try dsimp only
  repeat' first | with_reducible assumption | simp only [Keeps.mk_iff] | intro _ | with_reducible apply State.modCore_keeps | with_reducible apply Keeps.foldl | with_reducible apply Keeps.foldlFst

theorem State.coreCycleEcc_keeps {s0 s : State} {x1 x2} (h : Keeps s0 s) :
    Keeps s0 (State.coreCycleEcc s x1 x2) := by
  unfold State.coreCycleEcc
  try dsimp only
  repeat' first | with_reducible assumption | split | with_reducible apply State.eccCorrected_keeps | with_reducible apply State.eccUncorr_keeps | with_reducible apply State.coreEcc_keeps | with_reducible apply State.failTask_keeps | with_reducible apply Keeps.ite

theorem bundleIssue_keeps {s0 s : State} {x0 x1} (h : Keeps s0 s) :
    Keeps s0 (bundleIssue x0 x1 s) := by
  unfold bundleIssue
  try dsimp only
  repeat' first | with_reducible assumption | simp only [Keeps.mk_iff] | split | intro _ | with_reducible apply State.beginCycle_keeps | with_reducible apply State.endCycle_keeps | with_reducible apply State.coreCycleEcc_keeps | with_reducible apply State.cycleStart_keeps | with_reducible apply State.tryIssue_keeps | with_reducible apply State.modCore_keeps | with_reducible apply Keeps.ite

theorem waitSatisfied_keeps {s0 s : State} {x0} (h : Keeps s0 s) :
    Keeps s0 (waitSatisfied x0 s) := by
  unfold waitSatisfied
  try dsimp only
  repeat' first | with_reducible assumption | simp only [Keeps.mk_iff] | split | intro _ | with_reducible apply State.modCore_keeps | with_reducible apply Keeps.ite

theorem waitdDeadline_keeps {s0 s : State} {x0} (h : Keeps s0 s) :
    Keeps s0 (waitdDeadline x0 s) := by
  unfold waitdDeadline
  try dsimp only
  repeat' first | with_reducible assumption | simp only [Keeps.mk_iff] | split | intro _ | with_reducible apply State.modCore_keeps | with_reducible apply Keeps.ite

theorem State.startTask_keeps {s0 s : State} {x1 x2} (h : Keeps s0 s) :
    Keeps s0 (State.startTask s x1 x2) := by
  unfold State.startTask
  try dsimp only
  repeat' first | with_reducible assumption | simp only [Keeps.mk_iff] | intro _ | with_reducible apply State.modCore_keeps

theorem State.nextTask_keeps {s0 s : State} {x1} (h : Keeps s0 s) :
    Keeps s0 (State.nextTask s x1) := by
  unfold State.nextTask
  try dsimp only
  repeat' first | with_reducible assumption | split | with_reducible apply State.startTask_keeps | with_reducible apply Keeps.ite

theorem State.hazardEvent_keeps {s0 s : State} {x1} (h : Keeps s0 s) :
    Keeps s0 (State.hazardEvent s x1) := by
  unfold State.hazardEvent
  try dsimp only
  repeat' first | with_reducible assumption | split | with_reducible apply State.jobEvent_keeps | with_reducible apply Keeps.ite

theorem taskEndDrained_keeps {s0 s : State} {x0} (h : Keeps s0 s) :
    Keeps s0 (taskEndDrained x0 s) := by
  unfold taskEndDrained
  try dsimp only
  repeat' first | with_reducible assumption | simp only [Keeps.mk_iff] | split | intro _ | with_reducible apply State.beginCycle_keeps | with_reducible apply State.endCycle_keeps | with_reducible apply State.modCore_keeps | with_reducible apply State.cycleStart_keeps | with_reducible apply State.hazardEvent_keeps | with_reducible apply Keeps.foldl | with_reducible apply Keeps.foldlFst | with_reducible apply Keeps.ite

theorem coreModeWrite_keeps {s0 s : State} {x0 x1} (h : Keeps s0 s) :
    Keeps s0 (coreModeWrite x0 x1 s) := by
  unfold coreModeWrite
  try dsimp only
  repeat' first | with_reducible assumption | simp only [Keeps.mk_iff] | split | intro _ | with_reducible apply State.modCore_keeps | with_reducible apply State.writeIgnored_keeps | with_reducible apply Keeps.ite

end Sys2Proof.Machine
end

