-- ==== Sys2Proof/Laws/KeepsTasks.lean ====
section
/-!
SUPPORT. Every operation of Machine/Tasks.lean keeps the queue, and memory in its canonical form.
-/

set_option linter.unusedSimpArgs false
set_option linter.unreachableTactic false
set_option linter.unusedTactic false

namespace Sys2Proof.Machine

theorem pload_keeps {s0 s : State} (h : Keeps s0 s) :
    Keeps s0 (pload s) := by
  unfold pload
  try dsimp only
  repeat' first | with_reducible assumption | split | intro _ | with_reducible apply State.withHead_keeps | with_reducible apply State.orFail_keeps | with_reducible apply State.complete_keeps | with_reducible apply State.modCore_keeps | with_reducible apply Keeps.foldl | with_reducible apply Keeps.foldlFst | with_reducible apply Keeps.ite

theorem task_keeps {s0 s : State} (h : Keeps s0 s) :
    Keeps s0 (task s) := by
  unfold task
  try dsimp only
  repeat' first | with_reducible assumption | simp only [Keeps.mk_iff] | split | intro _ | with_reducible apply State.withHead_keeps | with_reducible apply State.complete_keeps | with_reducible apply State.tallyEcc_keeps | with_reducible apply State.failOutputs_keeps | with_reducible apply State.addLive_keeps | with_reducible apply State.nextTask_keeps | with_reducible apply State.modCore_keeps | with_reducible apply Keeps.foldl | with_reducible apply Keeps.foldlFst | with_reducible apply Keeps.ite

theorem taskCommit_keeps {s0 s : State} {x0} (h : Keeps s0 s) :
    Keeps s0 (taskCommit x0 s) := by
  unfold taskCommit
  try dsimp only
  repeat' first | with_reducible assumption | split | intro _ | with_reducible apply State.modCore_keeps | with_reducible apply State.complete_keeps | with_reducible apply State.failOutputs_keeps | with_reducible apply State.nextTask_keeps | with_reducible apply Keeps.foldl | with_reducible apply Keeps.foldlFst | with_reducible apply Keeps.ite | with_reducible apply Keeps.elim

end Sys2Proof.Machine
end

