-- ==== Sys2Proof/Laws/KeepsStop.lean ====
section
/-!
SUPPORT. Every operation of Machine/Stop.lean keeps the queue, and memory in its canonical form.
-/

set_option linter.unusedSimpArgs false
set_option linter.unreachableTactic false
set_option linter.unusedTactic false

namespace Sys2Proof.Machine

theorem State.dropRequests_keeps {s0 s : State} {x1} (h : Keeps s0 s) :
    Keeps s0 (State.dropRequests s x1) := by
  unfold State.dropRequests
  try dsimp only
  repeat' first | with_reducible assumption | simp only [Keeps.mk_iff] | split | intro _ | with_reducible apply Keeps.ite

theorem State.stopTask_keeps {s0 s : State} {x1 x2} (h : Keeps s0 s) :
    Keeps s0 (State.stopTask s x1 x2) := by
  unfold State.stopTask
  try dsimp only
  repeat' first | with_reducible assumption | simp only [Keeps.mk_iff] | split | intro _ | with_reducible apply State.modCore_keeps | with_reducible apply State.dropRequests_keeps | with_reducible apply State.nextTask_keeps | with_reducible apply Keeps.ite

theorem State.undo_keeps {s0 s : State} {x1} (h : Keeps s0 s) :
    Keeps s0 (State.undo s x1) := by
  unfold State.undo
  try dsimp only
  repeat' first | with_reducible assumption | simp only [Keeps.mk_iff] | split | intro _ | with_reducible apply State.stopTask_keeps | with_reducible apply State.chainStarts_keeps | with_reducible apply State.modSpCtx_keeps | with_reducible apply State.dropStreams_keeps | with_reducible apply State.returnBuffers_keeps | with_reducible apply State.modPool_keeps | with_reducible apply State.leaveUndefined_keeps | with_reducible apply Keeps.foldl | with_reducible apply Keeps.foldlFst | with_reducible apply Keeps.ite

theorem State.killOne_keeps {s0 s : State} {x1} (h : Keeps s0 s) :
    Keeps s0 (State.killOne s x1) := by
  unfold State.killOne
  try dsimp only
  repeat' first | with_reducible assumption | with_reducible apply State.settleLoads_keeps | with_reducible apply State.complete_keeps | with_reducible apply State.failOutputs_keeps | with_reducible apply State.undo_keeps

theorem State.dropHeld_keeps {s0 s : State} {x1} (h : Keeps s0 s) :
    Keeps s0 (State.dropHeld s x1) := by
  unfold State.dropHeld
  try dsimp only
  repeat' first | with_reducible assumption | simp only [Keeps.mk_iff] | intro _ | with_reducible apply State.settleEndings_keeps | with_reducible apply State.coreRequestEnd_keeps | with_reducible apply Keeps.foldl | with_reducible apply Keeps.foldlFst

theorem State.killJob_keeps {s0 s : State} {x1} (h : Keeps s0 s) :
    Keeps s0 (State.killJob s x1) := by
  unfold State.killJob
  try dsimp only
  repeat' first | with_reducible assumption | split | intro _ | with_reducible refine State.setQueue_keeps ?_ (fun _ _ m => absurd m List.not_mem_nil) | with_reducible apply State.dropHeld_keeps | with_reducible apply State.complete_keeps | with_reducible apply State.failOutputs_keeps | with_reducible apply State.killOne_keeps | with_reducible apply Keeps.foldl

theorem State.requeue_keeps {s0 s : State} {c} (h : Keeps s0 s) (hc : c.job < 8) : Keeps s0 (State.requeue s c) := by
  have k := State.raisePass_keeps (State.settleLoads_keeps (State.dropLive_keeps (State.undo_keeps h (x1 := c)) (x1 := c))) (x1 := c.engine) (x2 := c.job)
  refine State.setQueue_keeps k fun w x m => ?_
  rcases List.mem_cons.1 m with rfl | m
  · exact ⟨rfl, hc⟩
  · exact (k.own w).mem m

theorem State.preemptJob_keeps {s0 s : State} {j} (h : Keeps s0 s) (hj : j < 8) : Keeps s0 (State.preemptJob s j) := by
  unfold State.preemptJob
  dsimp only
  refine State.settlePreempt_keeps ?_
  have own : ∀ c ∈ ((s.live.filter fun l => l.cmd.job == j && s.canStop l).map (·.cmd)).reverse, c.job < 8 := by
    intro c m
    rw [List.mem_reverse, List.mem_map] at m
    obtain ⟨l, m, rfl⟩ := m
    have k := (List.mem_filter.1 m).2
    rw [Bool.and_eq_true, beq_iff_eq] at k
    rw [k.1]; exact hj
  have h1 : Keeps s0 (s.setSlot j fun x => { x with state := 2 }) := State.setSlot_keeps h
  revert own h1
  generalize ((s.live.filter fun l => l.cmd.job == j && s.canStop l).map (·.cmd)).reverse = l
  generalize (s.setSlot j fun x => { x with state := 2 }) = u
  intro own h1
  induction l generalizing u with
  | nil => exact h1
  | cons c r ih =>
    exact ih _ (fun d m => own d (List.mem_cons_of_mem _ m)) (State.requeue_keeps h1 (own c List.mem_cons_self))

theorem State.failScheduled_keeps {s0 s : State} (h : Keeps s0 s) :
    Keeps s0 (State.failScheduled s) := by
  unfold State.failScheduled
  try dsimp only
  repeat' first | with_reducible assumption | simp only [Keeps.mk_iff] | split | intro _ | with_reducible apply State.spFail_keeps | with_reducible apply State.colFail_keeps | with_reducible apply State.complete_keeps | with_reducible apply Keeps.foldl | with_reducible apply Keeps.foldlFst | with_reducible apply Keeps.ite | with_reducible apply Keeps.elim | with_reducible apply Keeps.getD

theorem holdLimitExpiry_keeps {s0 s : State} (h : Keeps s0 s) :
    Keeps s0 (holdLimitExpiry s) := by
  unfold holdLimitExpiry
  try dsimp only
  repeat' first | with_reducible assumption | simp only [Keeps.mk_iff] | split | with_reducible apply State.failScheduled_keeps | with_reducible apply State.htAlarm_keeps | with_reducible apply State.htEvent_keeps | with_reducible apply Keeps.ite

end Sys2Proof.Machine
end

