-- ==== Sys2Proof/Laws/KeepsJobControl.lean ====
section
/-!
SUPPORT. Every operation of Machine/JobControl.lean keeps the queue, and memory in its canonical form.
-/

set_option linter.unusedSimpArgs false
set_option linter.unreachableTactic false
set_option linter.unusedTactic false

namespace Sys2Proof.Machine

theorem State.counterOp_keeps {s0 s : State} {x1 x2} (h : Keeps s0 s) :
    Keeps s0 (State.counterOp s x1 x2) := by
  unfold State.counterOp
  try dsimp only
  repeat' first | with_reducible assumption | split | intro _ | with_reducible apply State.withHead_keeps | with_reducible apply State.orFail_keeps | with_reducible apply State.complete_keeps | with_reducible apply State.setSlot_keeps | with_reducible apply Keeps.ite

theorem jobArm_keeps {s0 s : State} (h : Keeps s0 s) :
    Keeps s0 (jobArm s) := by
  unfold jobArm
  try dsimp only
  repeat' first | with_reducible assumption | simp only [Keeps.mk_iff] | intro _ | with_reducible apply State.counterOp_keeps

theorem jobArmadd_keeps {s0 s : State} (h : Keeps s0 s) :
    Keeps s0 (jobArmadd s) := by
  unfold jobArmadd
  try dsimp only
  repeat' first | with_reducible assumption | simp only [Keeps.mk_iff] | intro _ | with_reducible apply State.counterOp_keeps

theorem jobStep_keeps {s0 s : State} (h : Keeps s0 s) :
    Keeps s0 (jobStep s) := by
  unfold jobStep
  try dsimp only
  repeat' first | with_reducible assumption | simp only [Keeps.mk_iff] | intro _ | with_reducible apply State.counterOp_keeps

theorem jobCset_keeps {s0 s : State} (h : Keeps s0 s) :
    Keeps s0 (jobCset s) := by
  unfold jobCset
  try dsimp only
  repeat' first | with_reducible assumption | simp only [Keeps.mk_iff] | intro _ | with_reducible apply State.counterOp_keeps

theorem jobCinc_keeps {s0 s : State} (h : Keeps s0 s) :
    Keeps s0 (jobCinc s) := by
  unfold jobCinc
  try dsimp only
  repeat' first | with_reducible assumption | simp only [Keeps.mk_iff] | intro _ | with_reducible apply State.counterOp_keeps

theorem save_keeps {s0 s : State} (h : Keeps s0 s) :
    Keeps s0 (save s) := by
  unfold save
  try dsimp only
  repeat' first | with_reducible assumption | intro _ | with_reducible apply State.withHead_keeps | with_reducible apply State.orFail_keeps | with_reducible apply State.complete_keeps | with_reducible apply State.storeAll_keeps | with_reducible apply State.claim_keeps

theorem restore_keeps {s0 s : State} (h : Keeps s0 s) :
    Keeps s0 (restore s) := by
  unfold restore
  try dsimp only
  repeat' first | with_reducible assumption | intro _ | with_reducible apply State.withHead_keeps | with_reducible apply State.orFail_keeps | with_reducible apply State.complete_keeps | with_reducible apply State.storeAll_keeps | with_reducible apply State.claim_keeps

theorem preempt_keeps {s0 s : State} {j} (h : Keeps s0 s) (hj : j < 8) : Keeps s0 (preempt j s) := by
  unfold preempt
  split
  · exact State.preemptJob_keeps h hj
  · exact h

theorem resume_keeps {s0 s : State} {x0} (h : Keeps s0 s) :
    Keeps s0 (resume x0 s) := by
  unfold resume
  try dsimp only
  repeat' first | with_reducible assumption | simp only [Keeps.mk_iff] | split | intro _ | with_reducible apply State.setSlot_keeps | with_reducible apply Keeps.ite

theorem kill_keeps {s0 s : State} {x0} (h : Keeps s0 s) :
    Keeps s0 (kill x0 s) := by
  unfold kill
  try dsimp only
  repeat' first | with_reducible assumption | split | with_reducible apply State.killJob_keeps | with_reducible apply Keeps.ite

end Sys2Proof.Machine
end

