-- ==== Sys2Proof/Laws/KeepsTeardown.lean ====
section
/-!
SUPPORT. Every operation of Machine/Teardown.lean keeps the queue, and memory in its canonical form.
-/

set_option linter.unusedSimpArgs false
set_option linter.unreachableTactic false
set_option linter.unusedTactic false

namespace Sys2Proof.Machine

theorem State.addScrub_keeps {s0 s : State} {x1 x2 x3} (h : Keeps s0 s) :
    Keeps s0 (State.addScrub s x1 x2 x3) := by
  unfold State.addScrub
  try dsimp only
  repeat' first | with_reducible assumption | simp only [Keeps.mk_iff] | split | with_reducible apply Keeps.ite

theorem State.scrubRange_keeps {s0 s : State} {x1 x2 x3} (h : Keeps s0 s) :
    Keeps s0 (State.scrubRange s x1 x2 x3) := by
  unfold State.scrubRange
  try dsimp only
  repeat' first | with_reducible assumption | split | with_reducible apply State.addScrub_keeps | with_reducible apply State.zero_keeps | with_reducible apply Keeps.ite

theorem State.scrubMemory_keeps {s0 s : State} {x1} (h : Keeps s0 s) :
    Keeps s0 (State.scrubMemory s x1) := by
  unfold State.scrubMemory
  try dsimp only
  repeat' first | with_reducible assumption | simp only [Keeps.mk_iff] | split | intro _ | with_reducible apply State.scrubRange_keeps | with_reducible apply State.setUrn_keeps | with_reducible apply State.zero_keeps | with_reducible apply Keeps.foldl | with_reducible apply Keeps.foldlFst | with_reducible apply Keeps.ite

theorem State.scrubDirectory_keeps {s0 s : State} {x1} (h : Keeps s0 s) :
    Keeps s0 (State.scrubDirectory s x1) := by
  unfold State.scrubDirectory
  try dsimp only
  repeat' first | with_reducible assumption | simp only [Keeps.mk_iff] | intro _

theorem State.scrubPrefix_keeps {s0 s : State} {x1} (h : Keeps s0 s) :
    Keeps s0 (State.scrubPrefix s x1) := by
  unfold State.scrubPrefix
  try dsimp only
  repeat' first | with_reducible assumption | simp only [Keeps.mk_iff] | intro _

theorem teardownDrainDone_keeps {s0 s : State} {x0} (h : Keeps s0 s) :
    Keeps s0 (teardownDrainDone x0 s) := by
  unfold teardownDrainDone
  try dsimp only
  repeat' first | with_reducible assumption | simp only [Keeps.mk_iff] | split | intro _ | with_reducible apply State.setSlot_keeps | with_reducible apply State.scrubPrefix_keeps | with_reducible apply State.scrubDirectory_keeps | with_reducible apply State.scrubMemory_keeps | with_reducible apply Keeps.ite

theorem teardownScrubDone_keeps {s0 s : State} {x0} (h : Keeps s0 s) :
    Keeps s0 (teardownScrubDone x0 s) := by
  unfold teardownScrubDone
  try dsimp only
  repeat' first | with_reducible assumption | simp only [Keeps.mk_iff] | split | intro _ | with_reducible apply State.setSlot_keeps | with_reducible apply Keeps.ite

theorem State.beginTeardown_keeps {s0 s : State} {x1} (h : Keeps s0 s) :
    Keeps s0 (State.beginTeardown s x1) := by
  unfold State.beginTeardown
  try dsimp only
  repeat' first | with_reducible assumption | simp only [Keeps.mk_iff] | intro _ | with_reducible apply State.setSlot_keeps | with_reducible apply State.killJob_keeps

theorem coreScrubDone_keeps {s0 s : State} {x0} (h : Keeps s0 s) :
    Keeps s0 (coreScrubDone x0 s) := by
  unfold coreScrubDone
  try dsimp only
  repeat' first | with_reducible assumption | simp only [Keeps.mk_iff] | split | intro _ | with_reducible apply State.modCore_keeps | with_reducible apply State.zero_keeps | with_reducible apply Keeps.ite

theorem scrubFillDone_keeps {s0 s : State} (h : Keeps s0 s) :
    Keeps s0 (scrubFillDone s) := by
  unfold scrubFillDone
  try dsimp only
  repeat' first | with_reducible assumption | simp only [Keeps.mk_iff] | split | with_reducible apply State.zero_keeps | with_reducible apply Keeps.ite

end Sys2Proof.Machine
end

