-- ==== Sys2Proof/Laws/KeepsStart.lean ====
section
/-!
SUPPORT. Every operation of Machine/Start.lean keeps the queue, and memory in its canonical form.
-/

set_option linter.unusedSimpArgs false
set_option linter.unreachableTactic false
set_option linter.unusedTactic false

namespace Sys2Proof.Machine

theorem State.sendStart_keeps {s0 s : State} {x1 x2 x3} (h : Keeps s0 s) :
    Keeps s0 (State.sendStart s x1 x2 x3) := by
  unfold State.sendStart
  try dsimp only
  repeat' first | with_reducible assumption | simp only [Keeps.mk_iff] | split | with_reducible apply State.queueFlit_keeps | with_reducible apply Keeps.ite

theorem State.sendDown_keeps {s0 s : State} {x1 x2 x3} (h : Keeps s0 s) :
    Keeps s0 (State.sendDown s x1 x2 x3) := by
  unfold State.sendDown
  try dsimp only
  repeat' first | with_reducible assumption | intro _ | with_reducible apply State.sendStart_keeps | with_reducible apply State.noRestart_keeps | with_reducible apply Keeps.foldl | with_reducible apply Keeps.foldlFst

theorem State.modCol_keeps {s0 s : State} {x1} (h : Keeps s0 s) :
    Keeps s0 (State.modCol s x1) := by
  unfold State.modCol
  try dsimp only
  repeat' first | with_reducible assumption | simp only [Keeps.mk_iff]

theorem State.startFail_keeps {s0 s : State} {x1 x2} (h : Keeps s0 s) :
    Keeps s0 (State.startFail s x1 x2) := by
  unfold State.startFail
  try dsimp only
  repeat' first | with_reducible assumption | simp only [Keeps.mk_iff] | intro _ | with_reducible apply State.modEng_keeps | with_reducible apply State.complete_keeps | with_reducible apply State.modCol_keeps

theorem State.commitApply_keeps {s0 s : State} {x1 x2} (h : Keeps s0 s) :
    Keeps s0 (State.commitApply s x1 x2) := by
  unfold State.commitApply
  try dsimp only
  repeat' first | with_reducible assumption | simp only [Keeps.mk_iff] | split | intro _ | with_reducible apply State.applyCmd_keeps | with_reducible apply State.modBld_keeps | with_reducible apply State.modCol_keeps | with_reducible apply State.startFail_keeps | with_reducible apply Keeps.ite

theorem State.startAdvance_keeps {s0 s : State} (h : Keeps s0 s) :
    Keeps s0 (State.startAdvance s) := by
  unfold State.startAdvance
  try dsimp only
  repeat' first | with_reducible assumption | simp only [Keeps.mk_iff] | split | intro _ | with_reducible apply State.commitApply_keeps | with_reducible apply State.sendDown_keeps | with_reducible apply State.sendStart_keeps | with_reducible apply State.modCol_keeps | with_reducible apply State.noRestart_keeps | with_reducible apply Keeps.ite

theorem State.takeAck_keeps {s0 s : State} {x1 x2 x3} (h : Keeps s0 s) :
    Keeps s0 (State.takeAck s x1 x2 x3) := by
  unfold State.takeAck
  try dsimp only
  repeat' first | with_reducible assumption | simp only [Keeps.mk_iff] | split | intro _ | with_reducible apply State.startAdvance_keeps | with_reducible apply State.modCol_keeps | with_reducible apply Keeps.ite

theorem State.takeCommit_keeps {s0 s : State} {x1 x2} (h : Keeps s0 s) :
    Keeps s0 (State.takeCommit s x1 x2) := by
  unfold State.takeCommit
  try dsimp only
  repeat' first | with_reducible assumption | simp only [Keeps.mk_iff] | split | intro _ | with_reducible apply State.commitApply_keeps | with_reducible apply State.sendDown_keeps | with_reducible apply State.modCol_keeps | with_reducible apply Keeps.ite

theorem State.takeAbort_keeps {s0 s : State} {x1} (h : Keeps s0 s) :
    Keeps s0 (State.takeAbort s x1) := by
  unfold State.takeAbort
  try dsimp only
  repeat' first | with_reducible assumption | split | with_reducible apply State.startFail_keeps | with_reducible apply State.sendDown_keeps | with_reducible apply Keeps.ite

theorem State.startMessage_keeps {s0 s : State} {x1 x2 x3} (h : Keeps s0 s) :
    Keeps s0 (State.startMessage s x1 x2 x3) := by
  unfold State.startMessage
  try dsimp only
  repeat' first | with_reducible assumption | simp only [Keeps.mk_iff] | split | intro _ | with_reducible apply State.takeAck_keeps | with_reducible apply State.takeCommit_keeps | with_reducible apply State.takeAbort_keeps | with_reducible apply State.modCol_keeps | with_reducible apply Keeps.ite

theorem start_keeps {s0 s : State} (h : Keeps s0 s) :
    Keeps s0 (start s) := by
  unfold start
  try dsimp only
  repeat' first | with_reducible assumption | simp only [Keeps.mk_iff] | split | intro _ | with_reducible apply State.withHead_keeps | with_reducible apply State.orFail_keeps | with_reducible apply State.modCol_keeps | with_reducible apply State.addLive_keeps | with_reducible apply State.startMessage_keeps | with_reducible apply State.startAdvance_keeps | with_reducible apply Keeps.foldl | with_reducible apply Keeps.foldlFst | with_reducible apply Keeps.ite

theorem startAckReceive_keeps {s0 s : State} {x0 x1} (h : Keeps s0 s) :
    Keeps s0 (startAckReceive x0 x1 s) := by
  unfold startAckReceive
  try dsimp only
  repeat' first | with_reducible assumption | with_reducible apply State.startMessage_keeps

theorem startCommitReceive_keeps {s0 s : State} {x0 x1} (h : Keeps s0 s) :
    Keeps s0 (startCommitReceive x0 x1 s) := by
  unfold startCommitReceive
  try dsimp only
  repeat' first | with_reducible assumption | with_reducible apply State.startMessage_keeps

theorem startAbortReceive_keeps {s0 s : State} {x0 x1} (h : Keeps s0 s) :
    Keeps s0 (startAbortReceive x0 x1 s) := by
  unfold startAbortReceive
  try dsimp only
  repeat' first | with_reducible assumption | with_reducible apply State.startMessage_keeps

theorem ackDeadlineExpiry_keeps {s0 s : State} (h : Keeps s0 s) :
    Keeps s0 (ackDeadlineExpiry s) := by
  unfold ackDeadlineExpiry
  try dsimp only
  repeat' first | with_reducible assumption | split | with_reducible apply State.startFail_keeps | with_reducible apply State.sendDown_keeps | with_reducible apply Keeps.ite

theorem startCommitTimeout_keeps {s0 s : State} (h : Keeps s0 s) :
    Keeps s0 (startCommitTimeout s) := by
  unfold startCommitTimeout
  try dsimp only
  repeat' first | with_reducible assumption | split | with_reducible apply State.startFail_keeps | with_reducible apply Keeps.ite

end Sys2Proof.Machine
end

