-- ==== Sys2Proof/Laws/KeepsBlend.lean ====
section
/-!
SUPPORT. Every operation of Machine/Blend.lean keeps the queue, and memory in its canonical form.
-/

set_option linter.unusedSimpArgs false
set_option linter.unreachableTactic false
set_option linter.unusedTactic false

namespace Sys2Proof.Machine

theorem blendClaim_keeps {s0 s : State} {x0} (h : Keeps s0 s) :
    Keeps s0 (blendClaim x0 s) := by
  unfold blendClaim
  try dsimp only
  repeat' first | with_reducible assumption | simp only [Keeps.mk_iff] | split | intro _ | with_reducible apply State.modBld_keeps | with_reducible apply State.reject_keeps | with_reducible apply Keeps.ite

theorem blendLoad_keeps {s0 s : State} {x0} (h : Keeps s0 s) :
    Keeps s0 (blendLoad x0 s) := by
  unfold blendLoad
  try dsimp only
  repeat' first | with_reducible assumption | simp only [Keeps.mk_iff] | split | intro _ | with_reducible apply State.loadFailed_keeps | with_reducible apply State.modBld_keeps | with_reducible apply State.loadImage_keeps | with_reducible apply State.reject_keeps | with_reducible apply Keeps.ite

theorem blendCheckDone_keeps {s0 s : State} {x0} (h : Keeps s0 s) :
    Keeps s0 (blendCheckDone x0 s) := by
  unfold blendCheckDone
  try dsimp only
  repeat' first | with_reducible assumption | split | with_reducible apply State.startAdvance_keeps | with_reducible apply State.endCheck_keeps | with_reducible apply Keeps.ite

theorem hopTableLoadDeferEnd_keeps {s0 s : State} (h : Keeps s0 s) :
    Keeps s0 (hopTableLoadDeferEnd s) := by
  unfold hopTableLoadDeferEnd
  try dsimp only
  repeat' first | with_reducible assumption | split | with_reducible apply State.startAdvance_keeps | with_reducible apply State.loadDone_keeps | with_reducible apply Keeps.ite

theorem blendApply_keeps {s0 s : State} {x0} (h : Keeps s0 s) :
    Keeps s0 (blendApply x0 s) := by
  unfold blendApply
  try dsimp only
  repeat' first | with_reducible assumption | split | with_reducible apply State.applyCmd_keeps | with_reducible apply Keeps.ite

theorem blendCancel_keeps {s0 s : State} {x0} (h : Keeps s0 s) :
    Keeps s0 (blendCancel x0 s) := by
  unfold blendCancel
  try dsimp only
  repeat' first | with_reducible assumption | simp only [Keeps.mk_iff] | split | intro _ | with_reducible apply State.modBld_keeps | with_reducible apply State.startFail_keeps | with_reducible apply State.reject_keeps | with_reducible apply Keeps.ite

theorem blendRelease_keeps {s0 s : State} {x0} (h : Keeps s0 s) :
    Keeps s0 (blendRelease x0 s) := by
  unfold blendRelease
  try dsimp only
  repeat' first | with_reducible assumption | simp only [Keeps.mk_iff] | split | intro _ | with_reducible apply State.modBld_keeps | with_reducible apply State.reject_keeps | with_reducible apply Keeps.ite

theorem stFieldWrite_keeps {s0 s : State} {x0 x1 x2} (h : Keeps s0 s) :
    Keeps s0 (stFieldWrite x0 x1 x2 s) := by
  unfold stFieldWrite
  try dsimp only
  repeat' first | with_reducible assumption | simp only [Keeps.mk_iff] | split | intro _ | with_reducible apply State.writeIgnored_keeps | with_reducible apply State.modBld_keeps | with_reducible apply Keeps.ite

end Sys2Proof.Machine
end

