-- ==== Sys2Proof/Laws/KeepsInfuser.lean ====
section
/-!
SUPPORT. Every operation of Machine/Infuser.lean keeps the queue, and memory in its canonical form.
-/

set_option linter.unusedSimpArgs false
set_option linter.unreachableTactic false
set_option linter.unusedTactic false

namespace Sys2Proof.Machine

theorem State.modSet_keeps {s0 s : State} {x1 x2} (h : Keeps s0 s) :
    Keeps s0 (State.modSet s x1 x2) := by
  unfold State.modSet
  try dsimp only
  repeat' first | with_reducible assumption | simp only [Keeps.mk_iff]

theorem State.cool_keeps {s0 s : State} {x1 x2} (h : Keeps s0 s) :
    Keeps s0 (State.cool s x1 x2) := by
  unfold State.cool
  try dsimp only
  repeat' first | with_reducible assumption | simp only [Keeps.mk_iff] | split | intro _ | with_reducible apply State.modSet_keeps | with_reducible apply Keeps.ite

theorem State.releaseOld_keeps {s0 s : State} {x1} (h : Keeps s0 s) :
    Keeps s0 (State.releaseOld s x1) := by
  unfold State.releaseOld
  try dsimp only
  repeat' first | with_reducible assumption | split | with_reducible apply State.cool_keeps | with_reducible apply State.store_keeps | with_reducible apply Keeps.ite

theorem State.streamLate_keeps {s0 s : State} {x1} (h : Keeps s0 s) :
    Keeps s0 (State.streamLate s x1) := by
  unfold State.streamLate
  try dsimp only
  repeat' first | with_reducible assumption | with_reducible apply State.complete_keeps | with_reducible apply State.jobEvent_keeps

theorem infuserStream_keeps {s0 s : State} (h : Keeps s0 s) :
    Keeps s0 (infuserStream s) := by
  unfold infuserStream
  try dsimp only
  repeat' first | with_reducible assumption | simp only [Keeps.mk_iff] | split | intro _ | with_reducible apply State.withHead_keeps | with_reducible apply State.orFail_keeps | with_reducible apply State.streamLate_keeps | with_reducible apply State.addStreams_keeps | with_reducible apply State.addLive_keeps | with_reducible apply Keeps.ite

theorem infuserStreamLate_keeps {s0 s : State} (h : Keeps s0 s) : Keeps s0 (infuserStreamLate s) := by
  unfold infuserStreamLate
  try dsimp only
  split
  · exact h
  · exact State.streamLate_keeps (State.setQueue_keeps h fun w x mx => (h.own w).mem (List.mem_of_mem_tail mx))

theorem infusionStreamReceive_keeps {s0 s : State} {x0} (h : Keeps s0 s) :
    Keeps s0 (infusionStreamReceive x0 s) := by
  unfold infusionStreamReceive
  try dsimp only
  repeat' first | with_reducible assumption | simp only [Keeps.mk_iff] | split | intro _ | with_reducible apply State.takeStream_keeps | with_reducible apply State.modSet_keeps | with_reducible apply State.store_keeps | with_reducible apply State.leaveUndefined_keeps | with_reducible apply Keeps.ite

theorem State.swapWords_keeps {s0 s : State} {x1 x2 x3 x4 x5} (h : Keeps s0 s) :
    Keeps s0 (State.swapWords s x1 x2 x3 x4 x5) := by
  unfold State.swapWords
  try dsimp only
  repeat' first | with_reducible assumption | split | intro _ | with_reducible apply State.store_keeps | with_reducible apply State.storeAll_keeps | with_reducible apply Keeps.ite

theorem State.swapTakeEffect_keeps {s0 s : State} {x1 x2} (h : Keeps s0 s) :
    Keeps s0 (State.swapTakeEffect s x1 x2) := by
  unfold State.swapTakeEffect
  try dsimp only
  repeat' first | with_reducible assumption | simp only [Keeps.mk_iff] | split | intro _ | with_reducible apply State.modSet_keeps | with_reducible apply State.complete_keeps | with_reducible apply State.swapWords_keeps | with_reducible apply State.cool_keeps | with_reducible apply Keeps.ite

theorem State.acceptCommit_keeps {s0 s : State} {x1 x2} (h : Keeps s0 s) :
    Keeps s0 (State.acceptCommit s x1 x2) := by
  unfold State.acceptCommit
  try dsimp only
  repeat' first | with_reducible assumption | simp only [Keeps.mk_iff] | split | intro _ | with_reducible apply State.complete_keeps | with_reducible apply State.modSet_keeps | with_reducible apply State.swapTakeEffect_keeps | with_reducible apply Keeps.ite

theorem accept_keeps {s0 s : State} (h : Keeps s0 s) :
    Keeps s0 (accept s) := by
  unfold accept
  try dsimp only
  repeat' first | with_reducible assumption | simp only [Keeps.mk_iff] | split | intro _ | with_reducible apply State.withHead_keeps | with_reducible apply State.orFail_keeps | with_reducible apply State.modSet_keeps | with_reducible apply State.addLive_keeps | with_reducible apply State.acceptCommit_keeps | with_reducible apply Keeps.ite

theorem acceptComplete_keeps {s0 s : State} {x0} (h : Keeps s0 s) :
    Keeps s0 (acceptComplete x0 s) := by
  unfold acceptComplete
  try dsimp only
  repeat' first | with_reducible assumption | split | with_reducible apply State.acceptCommit_keeps | with_reducible apply Keeps.ite

theorem acceptDeadline_keeps {s0 s : State} {x0} (h : Keeps s0 s) :
    Keeps s0 (acceptDeadline x0 s) := by
  unfold acceptDeadline
  try dsimp only
  repeat' first | with_reducible assumption | simp only [Keeps.mk_iff] | split | intro _ | with_reducible apply State.complete_keeps | with_reducible apply State.modSet_keeps | with_reducible apply State.leaveUndefined_keeps | with_reducible apply Keeps.ite | with_reducible apply Keeps.getD

theorem swap_keeps {s0 s : State} (h : Keeps s0 s) :
    Keeps s0 (swap s) := by
  unfold swap
  try dsimp only
  repeat' first | with_reducible assumption | simp only [Keeps.mk_iff] | intro _ | with_reducible apply State.withHead_keeps | with_reducible apply State.orFail_keeps | with_reducible apply State.modSet_keeps | with_reducible apply State.addLive_keeps

theorem State.swapFired_keeps {s0 s : State} {x1 x2} (h : Keeps s0 s) :
    Keeps s0 (State.swapFired s x1 x2) := by
  unfold State.swapFired
  try dsimp only
  repeat' first | with_reducible assumption | simp only [Keeps.mk_iff] | split | intro _ | with_reducible apply State.swapTakeEffect_keeps | with_reducible apply State.modSet_keeps | with_reducible apply Keeps.ite

theorem State.swapTimer_keeps {s0 s : State} {x1} (h : Keeps s0 s) :
    Keeps s0 (State.swapTimer s x1) := by
  unfold State.swapTimer
  try dsimp only
  repeat' first | with_reducible assumption | intro _ | with_reducible apply State.swapFired_keeps | with_reducible apply Keeps.foldl | with_reducible apply Keeps.foldlFst

theorem State.endSwaps_keeps {s0 s : State} (h : Keeps s0 s) :
    Keeps s0 (State.endSwaps s) := by
  unfold State.endSwaps
  try dsimp only
  repeat' first | with_reducible assumption | intro _ | with_reducible apply State.swapTakeEffect_keeps | with_reducible apply Keeps.foldl | with_reducible apply Keeps.foldlFst

theorem seqBegin_keeps {s0 s : State} (h : Keeps s0 s) :
    Keeps s0 (seqBegin s) := by
  unfold seqBegin
  try dsimp only
  repeat' first | with_reducible assumption | intro _ | with_reducible apply State.withHead_keeps | with_reducible apply State.orFail_keeps | with_reducible apply State.complete_keeps | with_reducible apply State.storeAll_keeps | with_reducible apply Keeps.getD

theorem seqEnd_keeps {s0 s : State} (h : Keeps s0 s) :
    Keeps s0 (seqEnd s) := by
  unfold seqEnd
  try dsimp only
  repeat' first | with_reducible assumption | intro _ | with_reducible apply State.withHead_keeps | with_reducible apply State.orFail_keeps | with_reducible apply State.store_keeps | with_reducible apply State.complete_keeps | with_reducible apply State.releaseOld_keeps | with_reducible apply Keeps.foldl | with_reducible apply Keeps.foldlFst

theorem coolingEnd_keeps {s0 s : State} {x0 x1} (h : Keeps s0 s) :
    Keeps s0 (coolingEnd x0 x1 s) := by
  unfold coolingEnd
  try dsimp only
  repeat' first | with_reducible assumption | split | intro _ | with_reducible apply State.modSet_keeps | with_reducible apply Keeps.ite

theorem State.clearSet_keeps {s0 s : State} {x1} (h : Keeps s0 s) :
    Keeps s0 (State.clearSet s x1) := by
  unfold State.clearSet
  try dsimp only
  repeat' first | with_reducible assumption | split | with_reducible apply State.zero_keeps | with_reducible apply Keeps.ite

theorem State.endSet_keeps {s0 s : State} {x1} (h : Keeps s0 s) :
    Keeps s0 (State.endSet s x1) := by
  unfold State.endSet
  try dsimp only
  repeat' first | with_reducible assumption | simp only [Keeps.mk_iff] | split | intro _ | with_reducible apply State.complete_keeps | with_reducible apply State.modSet_keeps | with_reducible apply State.clearSet_keeps | with_reducible apply Keeps.foldl | with_reducible apply Keeps.foldlFst | with_reducible apply Keeps.ite

end Sys2Proof.Machine
end

