-- ==== Sys2Proof/Laws/KeepsKettle.lean ====
section
/-!
SUPPORT. Every operation of Machine/Kettle.lean keeps the queue, and memory in its canonical form.
-/

set_option linter.unusedSimpArgs false
set_option linter.unreachableTactic false
set_option linter.unusedTactic false

namespace Sys2Proof.Machine

theorem State.ktlEvt_keeps {s0 s : State} {x1} (h : Keeps s0 s) :
    Keeps s0 (State.ktlEvt s x1) := by
  unfold State.ktlEvt
  try dsimp only
  repeat' first | with_reducible assumption | simp only [Keeps.mk_iff]

theorem State.markRamps_keeps {s0 s : State} (h : Keeps s0 s) :
    Keeps s0 (State.markRamps s) := by
  unfold State.markRamps
  try dsimp only
  repeat' first | with_reducible assumption | simp only [Keeps.mk_iff] | split | intro _ | with_reducible apply Keeps.ite

theorem State.rampsOver_keeps {s0 s : State} (h : Keeps s0 s) :
    Keeps s0 (State.rampsOver s) := by
  unfold State.rampsOver
  try dsimp only
  repeat' first | with_reducible assumption | simp only [Keeps.mk_iff] | intro _

theorem State.rampFire_keeps {s0 s : State} {x1} (h : Keeps s0 s) :
    Keeps s0 (State.rampFire s x1) := by
  unfold State.rampFire
  try dsimp only
  repeat' first | with_reducible assumption | simp only [Keeps.mk_iff] | split | intro _ | with_reducible apply Keeps.ite

theorem rampUntil_keeps {s0 s : State} {x0} (h : Keeps s0 s) :
    Keeps s0 (rampUntil x0 s) := by
  unfold rampUntil
  try dsimp only
  repeat' first | with_reducible assumption | simp only [Keeps.mk_iff] | split | intro _ | with_reducible apply Keeps.ite

theorem State.sampleBallast_keeps {s0 s : State} {x1} (h : Keeps s0 s) :
    Keeps s0 (State.sampleBallast s x1) := by
  unfold State.sampleBallast
  try dsimp only
  repeat' first | with_reducible assumption | simp only [Keeps.mk_iff] | split | intro _ | with_reducible apply State.ballastTo_keeps | with_reducible apply Keeps.foldl | with_reducible apply Keeps.foldlFst | with_reducible apply Keeps.ite

theorem State.ktlAlarm_keeps {s0 s : State} {x1} (h : Keeps s0 s) :
    Keeps s0 (State.ktlAlarm s x1) := by
  unfold State.ktlAlarm
  try dsimp only
  repeat' first | with_reducible assumption | with_reducible apply State.event_keeps

theorem kettleControlStep_keeps {s0 s : State} {x0 x1} (h : Keeps s0 s) :
    Keeps s0 (kettleControlStep x0 x1 s) := by
  unfold kettleControlStep
  try dsimp only
  repeat' first | with_reducible assumption | simp only [Keeps.mk_iff] | split | with_reducible apply State.sampleBallast_keeps | with_reducible apply State.ktlEvt_keeps | with_reducible apply State.ballastTo_keeps | with_reducible apply State.ktlAlarm_keeps | with_reducible apply Keeps.ite

theorem State.killAll_keeps {s0 s : State} (h : Keeps s0 s) :
    Keeps s0 (State.killAll s) := by
  unfold State.killAll
  try dsimp only
  repeat' first | with_reducible assumption | split | intro _ | with_reducible apply State.rampsOver_keeps | with_reducible apply State.killJob_keeps | with_reducible apply Keeps.foldl | with_reducible apply Keeps.foldlFst | with_reducible apply Keeps.ite

theorem overdrawKill_keeps {s0 s : State} (h : Keeps s0 s) :
    Keeps s0 (overdrawKill s) := by
  unfold overdrawKill
  try dsimp only
  repeat' first | with_reducible assumption | simp only [Keeps.mk_iff] | split | with_reducible apply State.ktlEvt_keeps | with_reducible apply State.ktlAlarm_keeps | with_reducible apply State.killAll_keeps | with_reducible apply Keeps.ite

theorem State.heat_keeps {s0 s : State} (h : Keeps s0 s) :
    Keeps s0 (State.heat s) := by
  unfold State.heat
  try dsimp only
  repeat' first | with_reducible assumption | simp only [Keeps.mk_iff] | split | intro _ | with_reducible apply State.ktlAlarm_keeps | with_reducible apply State.ktlEvt_keeps | with_reducible apply State.killAll_keeps | with_reducible apply Keeps.ite | with_reducible apply Keeps.getD

theorem thermalSample_keeps {s0 s : State} {x0} (h : Keeps s0 s) :
    Keeps s0 (thermalSample x0 s) := by
  unfold thermalSample
  try dsimp only
  repeat' first | with_reducible assumption | simp only [Keeps.mk_iff] | split | intro _ | with_reducible apply State.heat_keeps | with_reducible apply Keeps.foldl | with_reducible apply Keeps.foldlFst | with_reducible apply Keeps.ite | with_reducible apply Keeps.getD

theorem thermalTripClear_keeps {s0 s : State} (h : Keeps s0 s) :
    Keeps s0 (thermalTripClear s) := by
  unfold thermalTripClear
  try dsimp only
  repeat' first | with_reducible assumption | simp only [Keeps.mk_iff] | split | with_reducible apply Keeps.ite

theorem State.takeEnvelope_keeps {s0 s : State} {x1 x2} (h : Keeps s0 s) :
    Keeps s0 (State.takeEnvelope s x1 x2) := by
  unfold State.takeEnvelope
  try dsimp only
  repeat' first | with_reducible assumption | simp only [Keeps.mk_iff] | split | with_reducible apply State.ktlEvt_keeps | with_reducible apply Keeps.ite

theorem envelopeMessage_keeps {s0 s : State} {x0 x1} (h : Keeps s0 s) :
    Keeps s0 (envelopeMessage x0 x1 s) := by
  unfold envelopeMessage
  try dsimp only
  repeat' first | with_reducible assumption | intro _ | with_reducible apply State.ktlEvt_keeps | with_reducible apply State.takeEnvelope_keeps | with_reducible apply Keeps.elim

theorem envelopeInForce_keeps {s0 s : State} (h : Keeps s0 s) :
    Keeps s0 (envelopeInForce s) := by
  unfold envelopeInForce
  try dsimp only
  repeat' first | with_reducible assumption | simp only [Keeps.mk_iff] | split | intro _ | with_reducible apply State.ktlEvt_keeps | with_reducible apply State.markRamps_keeps | with_reducible apply Keeps.ite | with_reducible apply Keeps.getD

theorem envelopeExpiry_keeps {s0 s : State} (h : Keeps s0 s) :
    Keeps s0 (envelopeExpiry s) := by
  unfold envelopeExpiry
  try dsimp only
  repeat' first | with_reducible assumption | simp only [Keeps.mk_iff] | split | with_reducible apply State.markRamps_keeps | with_reducible apply Keeps.ite

theorem kettleTelemetry_keeps {s0 s : State} (h : Keeps s0 s) :
    Keeps s0 (kettleTelemetry s) := by
  unfold kettleTelemetry
  try dsimp only
  repeat' first | with_reducible assumption | simp only [Keeps.mk_iff] | split | intro _ | with_reducible refine State.inject_out ?_ ‹_› | with_reducible apply Keeps.ite | with_reducible apply Keeps.getD

end Sys2Proof.Machine
end

