-- ==== Sys2Proof/Laws/KeepsTimers.lean ====
section
/-!
SUPPORT. Every operation of Machine/Timers.lean keeps the queue, and memory in its canonical form.
-/

set_option linter.unusedSimpArgs false
set_option linter.unreachableTactic false
set_option linter.unusedTactic false

namespace Sys2Proof.Machine

theorem State.modTimer_keeps {s0 s : State} {x1 x2} (h : Keeps s0 s) :
    Keeps s0 (State.modTimer s x1 x2) := by
  unfold State.modTimer
  try dsimp only
  repeat' first | with_reducible assumption | simp only [Keeps.mk_iff]

theorem State.timerEvent_keeps {s0 s : State} {x1 x2} (h : Keeps s0 s) :
    Keeps s0 (State.timerEvent s x1 x2) := by
  unfold State.timerEvent
  try dsimp only
  repeat' first | with_reducible assumption | simp only [Keeps.mk_iff] | split | intro _ | with_reducible apply State.modCore_keeps | with_reducible apply State.rampFire_keeps | with_reducible apply State.swapTimer_keeps | with_reducible apply State.modEng_keeps | with_reducible apply Keeps.ite

theorem hallTimerFire_keeps {s0 s : State} {x0} (h : Keeps s0 s) :
    Keeps s0 (hallTimerFire x0 s) := by
  unfold hallTimerFire
  try dsimp only
  repeat' first | with_reducible assumption | split | intro _ | with_reducible apply State.timerEvent_keeps | with_reducible apply State.modTimer_keeps | with_reducible apply Keeps.ite

theorem htTmrCmpWrite_keeps {s0 s : State} {x0 x1 x2 x3} (h : Keeps s0 s) :
    Keeps s0 (htTmrCmpWrite x0 x1 x2 x3 s) := by
  unfold htTmrCmpWrite
  try dsimp only
  repeat' first | with_reducible assumption | simp only [Keeps.mk_iff] | split | intro _ | with_reducible apply State.modTimer_keeps | with_reducible apply State.writeIgnored_keeps | with_reducible apply Keeps.ite

theorem htTmrCtlWrite_keeps {s0 s : State} {x0 x1 x2 x3} (h : Keeps s0 s) :
    Keeps s0 (htTmrCtlWrite x0 x1 x2 x3 s) := by
  unfold htTmrCtlWrite
  try dsimp only
  repeat' first | with_reducible assumption | simp only [Keeps.mk_iff] | split | intro _ | with_reducible apply State.modTimer_keeps | with_reducible apply State.writeIgnored_keeps | with_reducible apply Keeps.ite

end Sys2Proof.Machine
end

