-- ==== Sys2Proof/Laws/KeepsApply.lean ====
section
/-!
SUPPORT. Every operation of Machine/Apply.lean keeps the queue, and memory in its canonical form.
-/

set_option linter.unusedSimpArgs false
set_option linter.unreachableTactic false
set_option linter.unusedTactic false

namespace Sys2Proof.Machine

theorem State.settleTimers_keeps {s0 s : State} (h : Keeps s0 s) :
    Keeps s0 (State.settleTimers s) := by
  unfold State.settleTimers
  try dsimp only
  repeat' first | with_reducible assumption | simp only [Keeps.mk_iff] | split | intro _ | with_reducible apply State.modTimer_keeps | with_reducible apply Keeps.foldl | with_reducible apply Keeps.foldlFst | with_reducible apply Keeps.ite

theorem State.settleRamps_keeps {s0 s : State} {x1} (h : Keeps s0 s) :
    Keeps s0 (State.settleRamps s x1) := by
  unfold State.settleRamps
  try dsimp only
  repeat' first | with_reducible assumption | simp only [Keeps.mk_iff] | intro _ | with_reducible apply State.modTimer_keeps | with_reducible apply Keeps.foldl | with_reducible apply Keeps.foldlFst

theorem State.settleEnvelope_keeps {s0 s : State} {x1} (h : Keeps s0 s) :
    Keeps s0 (State.settleEnvelope s x1) := by
  unfold State.settleEnvelope
  try dsimp only
  repeat' first | with_reducible assumption | simp only [Keeps.mk_iff] | split | with_reducible apply Keeps.ite

theorem State.settleClock_keeps {s0 s : State} (h : Keeps s0 s) :
    Keeps s0 (State.settleClock s) := by
  unfold State.settleClock
  try dsimp only
  repeat' first | with_reducible assumption | simp only [Keeps.mk_iff]

theorem State.settleCore_keeps {s0 s : State} {x1 x2} (h : Keeps s0 s) :
    Keeps s0 (State.settleCore s x1 x2) := by
  unfold State.settleCore
  try dsimp only
  repeat' first | with_reducible assumption | simp only [Keeps.mk_iff] | split | intro _ | with_reducible apply State.modCore_keeps | with_reducible apply Keeps.ite | with_reducible apply Keeps.getD

theorem State.clearSlot_keeps {s0 s : State} {x1} (h : Keeps s0 s) :
    Keeps s0 (State.clearSlot s x1) := by
  unfold State.clearSlot
  try dsimp only
  repeat' first | with_reducible assumption | simp only [Keeps.mk_iff] | split | intro _ | with_reducible apply State.modSpCtx_keeps | with_reducible apply Keeps.foldl | with_reducible apply Keeps.foldlFst | with_reducible apply Keeps.ite

theorem State.settleJob_keeps {s0 s : State} {x1 x2 x3} (h : Keeps s0 s) :
    Keeps s0 (State.settleJob s x1 x2 x3) := by
  unfold State.settleJob
  try dsimp only
  repeat' first | with_reducible assumption | simp only [Keeps.mk_iff] | split | intro _ | with_reducible apply State.beginTeardown_keeps | with_reducible apply State.clearSlot_keeps | with_reducible apply State.setSlot_keeps | with_reducible apply Keeps.ite

theorem State.settleLent_keeps {s0 s : State} {x1} (h : Keeps s0 s) :
    Keeps s0 (State.settleLent s x1) := by
  unfold State.settleLent
  try dsimp only
  repeat' first | with_reducible assumption | intro _ | with_reducible apply State.addScrub_keeps | with_reducible apply Keeps.foldl | with_reducible apply Keeps.foldlFst

theorem State.settleLanding_keeps {s0 s : State} {x1} (h : Keeps s0 s) :
    Keeps s0 (State.settleLanding s x1) := by
  unfold State.settleLanding
  try dsimp only
  repeat' first | with_reducible assumption | simp only [Keeps.mk_iff] | intro _ | with_reducible apply State.store_keeps | with_reducible apply Keeps.foldl | with_reducible apply Keeps.foldlFst | with_reducible apply Keeps.getD

theorem State.settlePools_keeps {s0 s : State} {x1} (h : Keeps s0 s) :
    Keeps s0 (State.settlePools s x1) := by
  unfold State.settlePools
  try dsimp only
  repeat' first | with_reducible assumption | simp only [Keeps.mk_iff] | split | intro _ | with_reducible apply Keeps.foldl | with_reducible apply Keeps.foldlFst | with_reducible apply Keeps.ite

theorem State.emptySlots_keeps {s0 s : State} {u} (h : Keeps s0 s) : Keeps s0 (s.emptySlots u) := by
  unfold State.emptySlots
  split
  · exact Keeps.mkMem h fun w => Memory.overlay_wf w
  · exact h

theorem State.settleUrns_keeps {s0 s : State} {x1} (h : Keeps s0 s) :
    Keeps s0 (State.settleUrns s x1) := by
  unfold State.settleUrns
  try dsimp only
  repeat' first | with_reducible assumption | simp only [Keeps.mk_iff] | split | intro _ | with_reducible apply State.emptySlots_keeps | with_reducible apply State.setUrn_keeps | with_reducible apply Keeps.foldl | with_reducible apply Keeps.foldlFst | with_reducible apply Keeps.ite

theorem State.retrainPort_keeps {s0 s : State} {x1} (h : Keeps s0 s) :
    Keeps s0 (State.retrainPort s x1) := by
  unfold State.retrainPort
  try dsimp only
  repeat' first | with_reducible assumption | simp only [Keeps.mk_iff] | intro _ | with_reducible apply State.upstreamDown_keeps | with_reducible apply State.modPort_keeps | with_reducible apply State.dropQueued_keeps

theorem State.settlePorts_keeps {s0 s : State} {x1} (h : Keeps s0 s) :
    Keeps s0 (State.settlePorts s x1) := by
  unfold State.settlePorts
  try dsimp only
  repeat' first | with_reducible assumption | split | intro _ | with_reducible apply State.retrainPort_keeps | with_reducible apply Keeps.foldl | with_reducible apply Keeps.foldlFst | with_reducible apply Keeps.ite

theorem State.settleChange_keeps {s0 s : State} {x1 x2} (h : Keeps s0 s) :
    Keeps s0 (State.settleChange s x1 x2) := by
  unfold State.settleChange
  try dsimp only
  repeat' first | with_reducible assumption | intro _ | with_reducible apply State.settleClock_keeps | with_reducible apply State.settleEnvelope_keeps | with_reducible apply State.settleRamps_keeps | with_reducible apply State.settleTimers_keeps | with_reducible apply State.settleCore_keeps | with_reducible apply State.settleJob_keeps | with_reducible apply State.settleUrns_keeps | with_reducible apply State.settlePools_keeps | with_reducible apply State.settleLanding_keeps | with_reducible apply State.settleLent_keeps | with_reducible apply State.clearSet_keeps | with_reducible apply State.settlePorts_keeps | with_reducible apply Keeps.foldl | with_reducible apply Keeps.foldlFst

theorem State.firstBlend_keeps {s0 s : State} (h : Keeps s0 s) :
    Keeps s0 (State.firstBlend s) := by
  unfold State.firstBlend
  try dsimp only
  repeat' first | with_reducible assumption | simp only [Keeps.mk_iff] | split | intro _ | with_reducible apply State.stepEvent_keeps | with_reducible apply State.noWait_keeps | with_reducible apply State.setStep_keeps | with_reducible apply State.modBld_keeps | with_reducible apply Keeps.ite

theorem State.startApplied_keeps {s0 s : State} {x1} (h : Keeps s0 s) :
    Keeps s0 (State.startApplied s x1) := by
  unfold State.startApplied
  try dsimp only
  repeat' first | with_reducible assumption | simp only [Keeps.mk_iff] | split | intro _ | with_reducible apply State.setSlot_keeps | with_reducible apply State.complete_keeps | with_reducible apply State.modCol_keeps | with_reducible apply Keeps.ite

theorem State.applyStage_keeps {s0 s : State} (h : Keeps s0 s) :
    Keeps s0 (State.applyStage s) := by
  unfold State.applyStage
  try dsimp only
  repeat' first | with_reducible assumption | intro _ | with_reducible apply State.endSet_keeps | with_reducible apply State.markRamps_keeps | with_reducible apply State.modBld_keeps | with_reducible apply State.startApplied_keeps | with_reducible apply State.firstBlend_keeps | with_reducible apply State.settleChange_keeps | with_reducible apply Keeps.foldl | with_reducible apply Keeps.foldlFst

theorem State.refusedAtT_keeps {s0 s : State} {x1} (h : Keeps s0 s) :
    Keeps s0 (State.refusedAtT s x1) := by
  unfold State.refusedAtT
  try dsimp only
  repeat' first | with_reducible assumption | simp only [Keeps.mk_iff] | split | intro _ | with_reducible apply State.refuse_keeps | with_reducible apply State.modBld_keeps | with_reducible apply State.startFail_keeps | with_reducible apply Keeps.ite

theorem blendApplyAtT_keeps {s0 s : State} (h : Keeps s0 s) :
    Keeps s0 (blendApplyAtT s) := by
  unfold blendApplyAtT
  try dsimp only
  repeat' first | with_reducible assumption | split | with_reducible apply State.refusedAtT_keeps | with_reducible apply State.applyStage_keeps | with_reducible apply Keeps.ite

theorem State.killStarted_keeps {s0 s : State} {x1} (h : Keeps s0 s) :
    Keeps s0 (State.killStarted s x1) := by
  unfold State.killStarted
  try dsimp only
  repeat' first | with_reducible assumption | intro _ | with_reducible apply State.killJob_keeps | with_reducible apply State.killOne_keeps | with_reducible apply Keeps.foldl | with_reducible apply Keeps.foldlFst

theorem State.scrubStarted_keeps {s0 s : State} {x1} (h : Keeps s0 s) :
    Keeps s0 (State.scrubStarted s x1) := by
  unfold State.scrubStarted
  try dsimp only
  repeat' first | with_reducible assumption | split | intro _ | with_reducible apply State.addScrub_keeps | with_reducible apply State.zero_keeps | with_reducible apply Keeps.foldl | with_reducible apply Keeps.foldlFst | with_reducible apply Keeps.ite

theorem startRollback_keeps {s0 s : State} (h : Keeps s0 s) :
    Keeps s0 (startRollback s) := by
  unfold startRollback
  try dsimp only
  repeat' first | with_reducible assumption | simp only [Keeps.mk_iff] | split | intro _ | with_reducible apply State.scrubStarted_keeps | with_reducible apply State.killStarted_keeps | with_reducible apply State.markRamps_keeps | with_reducible apply State.endSet_keeps | with_reducible apply State.settleChange_keeps | with_reducible apply State.modBld_keeps | with_reducible apply State.modCol_keeps | with_reducible apply State.modEng_keeps | with_reducible apply Keeps.foldl | with_reducible apply Keeps.foldlFst | with_reducible apply Keeps.ite

end Sys2Proof.Machine
end

