-- ==== Sys2Proof/Laws/KeepsBoot.lean ====
section
/-!
SUPPORT. Every operation of Machine/Boot.lean keeps the queue, and memory in its canonical form.
-/

set_option linter.unusedSimpArgs false
set_option linter.unreachableTactic false
set_option linter.unusedTactic false

namespace Sys2Proof.Machine

theorem State.certCheck_keeps {s0 s : State} {x1 x2} (h : Keeps s0 s) :
    Keeps s0 (State.certCheck s x1 x2) := by
  unfold State.certCheck
  try dsimp only
  repeat' first | with_reducible assumption | simp only [Keeps.mk_iff] | split | with_reducible apply State.event_keeps | with_reducible apply Keeps.ite

theorem wardenSelfTestDone_keeps {s0 s : State} {x0 x1 x2} (h : Keeps s0 s) :
    Keeps s0 (wardenSelfTestDone x0 x1 x2 s) := by
  unfold wardenSelfTestDone
  try dsimp only
  repeat' first | with_reducible assumption | simp only [Keeps.mk_iff] | split | with_reducible apply State.stepEvent_keeps | with_reducible apply State.beginStep_keeps | with_reducible apply State.certCheck_keeps | with_reducible apply State.holdAt_keeps | with_reducible apply Keeps.ite

theorem State.mapSpares_keeps {s0 s : State} (h : Keeps s0 s) :
    Keeps s0 (State.mapSpares s) := by
  unfold State.mapSpares
  try dsimp only
  repeat' first | with_reducible assumption | simp only [Keeps.mk_iff] | intro _

theorem State.setGrade_keeps {s0 s : State} {x1} (h : Keeps s0 s) :
    Keeps s0 (State.setGrade s x1) := by
  unfold State.setGrade
  try dsimp only
  repeat' first | with_reducible assumption | simp only [Keeps.mk_iff] | split | intro _ | with_reducible apply State.event_keeps | with_reducible apply Keeps.foldl | with_reducible apply Keeps.foldlFst | with_reducible apply Keeps.ite

theorem State.selectOwner_keeps {s0 s : State} {x1} (h : Keeps s0 s) :
    Keeps s0 (State.selectOwner s x1) := by
  unfold State.selectOwner
  try dsimp only
  repeat' first | with_reducible assumption | simp only [Keeps.mk_iff] | split | intro _ | with_reducible apply Keeps.ite | with_reducible apply Keeps.getD

theorem State.beginStep5_keeps {s0 s : State} (h : Keeps s0 s) :
    Keeps s0 (State.beginStep5 s) := by
  unfold State.beginStep5
  try dsimp only
  repeat' first | with_reducible assumption | simp only [Keeps.mk_iff] | split | with_reducible apply State.setStep_keeps | with_reducible apply State.waitFor_keeps | with_reducible apply State.noWait_keeps | with_reducible apply State.beginStep_keeps | with_reducible apply Keeps.ite

theorem State.zeroOnChip_keeps {s0 s : State} (h : Keeps s0 s) :
    Keeps s0 (State.zeroOnChip s) := by
  unfold State.zeroOnChip
  try dsimp only
  repeat' first | with_reducible assumption | with_reducible apply State.zero_keeps

theorem State.bistSpares_keeps {s0 s : State} {x1 x2} (h : Keeps s0 s) :
    Keeps s0 (State.bistSpares s x1 x2) := by
  unfold State.bistSpares
  try dsimp only
  repeat' first | with_reducible assumption | intro _ | with_reducible apply State.columnSpare_keeps | with_reducible apply State.coreSpare_keeps | with_reducible apply Keeps.foldl | with_reducible apply Keeps.foldlFst | with_reducible apply Keeps.getD

theorem repairMapVote_keeps {s0 s : State} {x0 x1 x2 x3} (h : Keeps s0 s) :
    Keeps s0 (repairMapVote x0 x1 x2 x3 s) := by
  unfold repairMapVote
  try dsimp only
  repeat' first | with_reducible assumption | simp only [Keeps.mk_iff] | split | intro _ | with_reducible apply State.holdAt_keeps | with_reducible apply State.zeroOnChip_keeps | with_reducible apply State.event_keeps | with_reducible apply State.selectOwner_keeps | with_reducible apply State.setGrade_keeps | with_reducible apply State.mapSpares_keeps | with_reducible apply State.stepEvent_keeps | with_reducible apply State.beginStep5_keeps | with_reducible apply State.bistSpares_keeps | with_reducible apply Keeps.foldl | with_reducible apply Keeps.foldlFst | with_reducible apply Keeps.ite | with_reducible apply Keeps.getD

theorem repairRebuild_keeps {s0 s : State} (h : Keeps s0 s) :
    Keeps s0 (repairRebuild s) := by
  unfold repairRebuild
  try dsimp only
  repeat' first | with_reducible assumption | simp only [Keeps.mk_iff] | split | with_reducible apply Keeps.ite

theorem repairRebuildDone_keeps {s0 s : State} {x0} (h : Keeps s0 s) :
    Keeps s0 (repairRebuildDone x0 s) := by
  unfold repairRebuildDone
  try dsimp only
  repeat' first | with_reducible assumption | simp only [Keeps.mk_iff] | split | intro _ | with_reducible apply State.restartAt3_keeps | with_reducible apply Keeps.ite

theorem bootMboxLengthWrite_keeps {s0 s : State} {x0} (h : Keeps s0 s) :
    Keeps s0 (bootMboxLengthWrite x0 s) := by
  unfold bootMboxLengthWrite
  try dsimp only
  repeat' first | with_reducible assumption | simp only [Keeps.mk_iff] | split | with_reducible apply Keeps.ite

theorem bootMboxDataWrite_keeps {s0 s : State} {x0 x1} (h : Keeps s0 s) :
    Keeps s0 (bootMboxDataWrite x0 x1 s) := by
  unfold bootMboxDataWrite
  try dsimp only
  repeat' first | with_reducible assumption | simp only [Keeps.mk_iff] | split | with_reducible apply State.store_keeps | with_reducible apply Keeps.ite

theorem bootMboxCommit_keeps {s0 s : State} (h : Keeps s0 s) :
    Keeps s0 (bootMboxCommit s) := by
  unfold bootMboxCommit
  try dsimp only
  repeat' first | with_reducible assumption | simp only [Keeps.mk_iff] | split | with_reducible apply State.noWait_keeps | with_reducible apply Keeps.ite

theorem State.startFirmware_keeps {s0 s : State} (h : Keeps s0 s) :
    Keeps s0 (State.startFirmware s) := by
  unfold State.startFirmware
  try dsimp only
  repeat' first | with_reducible assumption | simp only [Keeps.mk_iff] | with_reducible apply State.stepEvent_keeps | with_reducible apply State.noWait_keeps | with_reducible apply State.beginStep_keeps

theorem imageVerifyDone_keeps {s0 s : State} {x0 x1} (h : Keeps s0 s) :
    Keeps s0 (imageVerifyDone x0 x1 s) := by
  unfold imageVerifyDone
  try dsimp only
  repeat' first | with_reducible assumption | simp only [Keeps.mk_iff] | split | with_reducible apply State.startFirmware_keeps | with_reducible apply State.holdAt_keeps | with_reducible apply Keeps.ite

theorem reservedImageWriteDone_keeps {s0 s : State} (h : Keeps s0 s) :
    Keeps s0 (reservedImageWriteDone s) := by
  unfold reservedImageWriteDone
  try dsimp only
  repeat' first | with_reducible assumption | simp only [Keeps.mk_iff] | split | with_reducible apply State.startFirmware_keeps | with_reducible apply Keeps.ite

theorem gddrTrainingDone_keeps {s0 s : State} {x0 x1} (h : Keeps s0 s) :
    Keeps s0 (gddrTrainingDone x0 x1 s) := by
  unfold gddrTrainingDone
  try dsimp only
  repeat' first | with_reducible assumption | simp only [Keeps.mk_iff] | split | with_reducible apply State.holdAt_keeps | with_reducible apply Keeps.ite

theorem gddrZeroFillDone_keeps {s0 s : State} (h : Keeps s0 s) :
    Keeps s0 (gddrZeroFillDone s) := by
  unfold gddrZeroFillDone
  try dsimp only
  repeat' first | with_reducible assumption | split | intro _ | with_reducible apply State.zero_keeps | with_reducible apply State.stepEvent_keeps | with_reducible apply State.noWait_keeps | with_reducible apply State.beginStep_keeps | with_reducible apply State.wait78_keeps | with_reducible apply State.trainPort_keeps | with_reducible apply Keeps.foldl | with_reducible apply Keeps.foldlFst | with_reducible apply Keeps.ite

theorem tinMountDone_keeps {s0 s : State} {x0 x1 x2} (h : Keeps s0 s) :
    Keeps s0 (tinMountDone x0 x1 x2 s) := by
  unfold tinMountDone
  try dsimp only
  repeat' first | with_reducible assumption | simp only [Keeps.mk_iff] | split | with_reducible apply State.degrade_keeps | with_reducible apply State.waitFor_keeps | with_reducible apply Keeps.ite

theorem hostLinkUp_keeps {s0 s : State} {x0 x1 x2} (h : Keeps s0 s) :
    Keeps s0 (hostLinkUp x0 x1 x2 s) := by
  unfold hostLinkUp
  try dsimp only
  repeat' first | with_reducible assumption | simp only [Keeps.mk_iff] | split | intro _ | with_reducible apply State.emit_keeps | with_reducible apply State.degrade_keeps | with_reducible apply State.advance78_keeps | with_reducible apply State.stepEvent_keeps | with_reducible apply Keeps.ite

theorem hostLinkAttemptTimeout_keeps {s0 s : State} (h : Keeps s0 s) :
    Keeps s0 (hostLinkAttemptTimeout s) := by
  unfold hostLinkAttemptTimeout
  try dsimp only
  repeat' first | with_reducible assumption | simp only [Keeps.mk_iff] | split | with_reducible apply State.degrade_keeps | with_reducible apply State.advance78_keeps | with_reducible apply State.stepEvent_keeps | with_reducible apply Keeps.ite

end Sys2Proof.Machine
end

