-- ==== Sys2Proof/Laws/KeepsPorts.lean ====
section
/-!
SUPPORT. Every operation of Machine/Ports.lean keeps the queue, and memory in its canonical form.
-/

set_option linter.unusedSimpArgs false
set_option linter.unreachableTactic false
set_option linter.unusedTactic false

namespace Sys2Proof.Machine

theorem State.loseCable_keeps {s0 s : State} {x1 x2 x3} (h : Keeps s0 s) :
    Keeps s0 (State.loseCable s x1 x2 x3) := by
  unfold State.loseCable
  try dsimp only
  repeat' first | with_reducible assumption | split | intro _ | with_reducible apply State.portDown_keeps | with_reducible apply State.modPort_keeps | with_reducible apply Keeps.ite

theorem cablePowerOverload_keeps {s0 s : State} {x0 x1 x2} (h : Keeps s0 s) :
    Keeps s0 (cablePowerOverload x0 x1 x2 s) := by
  unfold cablePowerOverload
  try dsimp only
  repeat' first | with_reducible assumption | simp only [Keeps.mk_iff] | split | intro _ | with_reducible apply State.event_keeps | with_reducible apply State.advance78_keeps | with_reducible apply State.loseCable_keeps | with_reducible apply Keeps.foldl | with_reducible apply Keeps.foldlFst | with_reducible apply Keeps.ite

theorem cagePresenceChange_keeps {s0 s : State} {x0 x1} (h : Keeps s0 s) :
    Keeps s0 (cagePresenceChange x0 x1 s) := by
  unfold cagePresenceChange
  try dsimp only
  repeat' first | with_reducible assumption | simp only [Keeps.mk_iff] | split | intro _ | with_reducible apply State.advance78_keeps | with_reducible apply State.trainPort_keeps | with_reducible apply State.modPort_keeps | with_reducible apply State.loseCable_keeps | with_reducible apply Keeps.foldl | with_reducible apply Keeps.foldlFst | with_reducible apply Keeps.ite

theorem State.trainStep_keeps {s0 s : State} {x1 x2 x3} (h : Keeps s0 s) :
    Keeps s0 (State.trainStep s x1 x2 x3) := by
  unfold State.trainStep
  try dsimp only
  repeat' first | with_reducible assumption | split | with_reducible apply State.modPort_keeps | with_reducible apply Keeps.ite

theorem State.trainFail_keeps {s0 s : State} {x1 x2} (h : Keeps s0 s) :
    Keeps s0 (State.trainFail s x1 x2) := by
  unfold State.trainFail
  try dsimp only
  repeat' first | with_reducible assumption | simp only [Keeps.mk_iff] | intro _ | with_reducible apply State.advance78_keeps | with_reducible apply State.modPort_keeps

theorem State.cablePart_keeps {s0 s : State} {x1 x2 x3} (h : Keeps s0 s) :
    Keeps s0 (State.cablePart s x1 x2 x3) := by
  unfold State.cablePart
  try dsimp only
  repeat' first | with_reducible assumption | simp only [Keeps.mk_iff] | split | intro _ | with_reducible apply Keeps.ite

theorem State.memoryUnreadable_keeps {s0 s : State} {x1} (h : Keeps s0 s) :
    Keeps s0 (State.memoryUnreadable s x1) := by
  unfold State.memoryUnreadable
  try dsimp only
  repeat' first | with_reducible assumption | simp only [Keeps.mk_iff] | split | with_reducible apply State.event_keeps | with_reducible apply Keeps.ite

theorem State.cableUnpowered_keeps {s0 s : State} {x1} (h : Keeps s0 s) :
    Keeps s0 (State.cableUnpowered s x1) := by
  unfold State.cableUnpowered
  try dsimp only
  repeat' first | with_reducible assumption | intro _ | with_reducible apply State.advance78_keeps | with_reducible apply State.loseCable_keeps | with_reducible apply Keeps.foldl | with_reducible apply Keeps.foldlFst

theorem cableMemoryRead_keeps {s0 s : State} {x0 x1} (h : Keeps s0 s) :
    Keeps s0 (cableMemoryRead x0 x1 s) := by
  unfold cableMemoryRead
  try dsimp only
  repeat' first | with_reducible assumption | simp only [Keeps.mk_iff] | split | intro _ | with_reducible apply State.modPort_keeps | with_reducible apply State.cablePart_keeps | with_reducible apply State.memoryUnreadable_keeps | with_reducible apply State.cableUnpowered_keeps | with_reducible apply State.trainFail_keeps | with_reducible apply Keeps.ite

theorem linkLayerExchangeDone_keeps {s0 s : State} {x0 x1 x2 x3 x4} (h : Keeps s0 s) :
    Keeps s0 (linkLayerExchangeDone x0 x1 x2 x3 x4 s) := by
  unfold linkLayerExchangeDone
  try dsimp only
  repeat' first | with_reducible assumption | simp only [Keeps.mk_iff] | split | intro _ | with_reducible apply State.modPort_keeps | with_reducible apply State.emit_keeps | with_reducible apply Keeps.ite

theorem State.authFail_keeps {s0 s : State} {x1} (h : Keeps s0 s) :
    Keeps s0 (State.authFail s x1) := by
  unfold State.authFail
  try dsimp only
  repeat' first | with_reducible assumption | simp only [Keeps.mk_iff] | split | intro _ | with_reducible apply State.modPort_keeps | with_reducible apply State.advance78_keeps | with_reducible apply State.offer_keeps | with_reducible apply Keeps.ite

theorem mutualAuthenticationDone_keeps {s0 s : State} {x0 x1 x2 x3 x4} (h : Keeps s0 s) :
    Keeps s0 (mutualAuthenticationDone x0 x1 x2 x3 x4 s) := by
  unfold mutualAuthenticationDone
  try dsimp only
  repeat' first | with_reducible assumption | simp only [Keeps.mk_iff] | split | intro _ | with_reducible apply State.emit_keeps | with_reducible apply State.authFail_keeps | with_reducible apply State.advance78_keeps | with_reducible apply State.noteNbr_keeps | with_reducible apply State.modPort_keeps | with_reducible apply Keeps.ite

theorem State.substituteLane_keeps {s0 s : State} {x1 x2} (h : Keeps s0 s) :
    Keeps s0 (State.substituteLane s x1 x2) := by
  unfold State.substituteLane
  try dsimp only
  repeat' first | with_reducible assumption | simp only [Keeps.mk_iff] | intro _ | with_reducible apply State.modPort_keeps | with_reducible apply State.repairWritten_keeps | with_reducible apply State.event_keeps

theorem trainingStepTimeout_keeps {s0 s : State} {x0 x1 x2} (h : Keeps s0 s) :
    Keeps s0 (trainingStepTimeout x0 x1 x2 s) := by
  unfold trainingStepTimeout
  try dsimp only
  repeat' first | with_reducible assumption | split | with_reducible apply State.authFail_keeps | with_reducible apply State.substituteLane_keeps | with_reducible apply State.trainFail_keeps | with_reducible apply Keeps.ite

theorem State.retrain_keeps {s0 s : State} {x1 x2 x3 x4} (h : Keeps s0 s) :
    Keeps s0 (State.retrain s x1 x2 x3 x4) := by
  unfold State.retrain
  try dsimp only
  repeat' first | with_reducible assumption | simp only [Keeps.mk_iff] | split | intro _ | with_reducible apply State.advance78_keeps | with_reducible apply State.modPort_keeps | with_reducible apply Keeps.ite

theorem linkKeyRollover_keeps {s0 s : State} {x0 x1} (h : Keeps s0 s) :
    Keeps s0 (linkKeyRollover x0 x1 s) := by
  unfold linkKeyRollover
  try dsimp only
  repeat' first | with_reducible assumption | simp only [Keeps.mk_iff] | split | intro _ | with_reducible apply State.modPort_keeps | with_reducible apply Keeps.ite

end Sys2Proof.Machine
end

