-- ==== Sys2Proof/Laws/KeepsFaultsLog.lean ====
section
/-!
SUPPORT. Every operation of Machine/FaultsLog.lean keeps the queue, and memory in its canonical form.
-/

set_option linter.unusedSimpArgs false
set_option linter.unreachableTactic false
set_option linter.unusedTactic false

namespace Sys2Proof.Machine

theorem State.wardenEcc_keeps {s0 s : State} {x1} (h : Keeps s0 s) :
    Keeps s0 (State.wardenEcc s x1) := by
  unfold State.wardenEcc
  try dsimp only
  repeat' first | with_reducible assumption | simp only [Keeps.mk_iff] | with_reducible apply State.event_keeps

theorem patrolRead_keeps {s0 s : State} {x0 x1 x2} (h : Keeps s0 s) :
    Keeps s0 (patrolRead x0 x1 x2 s) := by
  unfold patrolRead
  try dsimp only
  repeat' first | with_reducible assumption | split | with_reducible apply State.eccCorrected_keeps | with_reducible apply State.wardenEcc_keeps | with_reducible apply State.eccUncorr_keeps | with_reducible apply Keeps.ite

theorem gddrWriteReissue_keeps {s0 s : State} {x0} (h : Keeps s0 s) :
    Keeps s0 (gddrWriteReissue x0 s) := by
  unfold gddrWriteReissue
  try dsimp only
  repeat' first | with_reducible assumption

theorem logTokenRefill_keeps {s0 s : State} {x0} (h : Keeps s0 s) :
    Keeps s0 (logTokenRefill x0 s) := by
  unfold logTokenRefill
  try dsimp only
  repeat' first | with_reducible assumption | simp only [Keeps.mk_iff] | split | intro _ | with_reducible apply State.onLog_keeps | with_reducible apply State.reported_keeps | with_reducible apply Keeps.ite

theorem logRdWrite_keeps {s0 s : State} {x0 x1} (h : Keeps s0 s) :
    Keeps s0 (logRdWrite x0 x1 s) := by
  unfold logRdWrite
  try dsimp only
  repeat' first | with_reducible assumption | simp only [Keeps.mk_iff] | split | with_reducible apply State.flushAll_keeps | with_reducible apply Keeps.ite

theorem logExportSend_keeps {s0 s : State} (h : Keeps s0 s) :
    Keeps s0 (logExportSend s) := by
  unfold logExportSend
  try dsimp only
  repeat' first | with_reducible assumption | simp only [Keeps.mk_iff] | split | intro _ | with_reducible refine State.inject_out ?_ ‹_› | with_reducible apply Keeps.ite

theorem alarmSend_keeps {s0 s : State} (h : Keeps s0 s) :
    Keeps s0 (alarmSend s) := by
  unfold alarmSend
  try dsimp only
  repeat' first | with_reducible assumption | simp only [Keeps.mk_iff] | split | with_reducible refine State.inject_out ?_ ‹_› | with_reducible apply Keeps.ite

end Sys2Proof.Machine
end

