-- ==== Sys2Proof/Laws/KeepsHostMem.lean ====
section
/-!
SUPPORT. Every operation of Machine/HostMem.lean keeps the queue, and memory in its canonical form.
-/

set_option linter.unusedSimpArgs false
set_option linter.unreachableTactic false
set_option linter.unusedTactic false

namespace Sys2Proof.Machine

theorem State.endHostCommands_keeps {s0 s : State} (h : Keeps s0 s) :
    Keeps s0 (State.endHostCommands s) := by
  unfold State.endHostCommands
  try dsimp only
  repeat' first | with_reducible assumption | intro _ | with_reducible apply State.complete_keeps | with_reducible apply Keeps.foldl | with_reducible apply Keeps.foldlFst

theorem State.linkLost_keeps {s0 s : State} (h : Keeps s0 s) :
    Keeps s0 (State.linkLost s) := by
  unfold State.linkLost
  try dsimp only
  repeat' first | with_reducible assumption | simp only [Keeps.mk_iff] | intro _ | with_reducible apply State.endHostCommands_keeps | with_reducible apply Keeps.foldl | with_reducible apply Keeps.foldlFst

theorem State.hostWait_keeps {s0 s : State} (h : Keeps s0 s) :
    Keeps s0 (State.hostWait s) := by
  unfold State.hostWait
  try dsimp only
  repeat' first | with_reducible assumption | split | with_reducible apply State.wait78_keeps | with_reducible apply Keeps.ite

theorem perstAssert_keeps {s0 s : State} (h : Keeps s0 s) :
    Keeps s0 (perstAssert s) := by
  unfold perstAssert
  try dsimp only
  repeat' first | with_reducible assumption | simp only [Keeps.mk_iff] | split | with_reducible apply State.linkLost_keeps | with_reducible apply State.hostWait_keeps | with_reducible apply Keeps.ite

theorem perstDeassert_keeps {s0 s : State} (h : Keeps s0 s) :
    Keeps s0 (perstDeassert s) := by
  unfold perstDeassert
  try dsimp only
  repeat' first | with_reducible assumption | simp only [Keeps.mk_iff] | with_reducible apply State.hostWait_keeps

theorem hostLinkDown_keeps {s0 s : State} (h : Keeps s0 s) :
    Keeps s0 (hostLinkDown s) := by
  unfold hostLinkDown
  try dsimp only
  repeat' first | with_reducible assumption | split | with_reducible apply State.linkLost_keeps | with_reducible apply Keeps.ite

theorem ideIntegrityFailure_keeps {s0 s : State} (h : Keeps s0 s) :
    Keeps s0 (ideIntegrityFailure s) := by
  unfold ideIntegrityFailure
  try dsimp only
  repeat' first | with_reducible assumption | simp only [Keeps.mk_iff] | split | with_reducible apply State.linkLost_keeps | with_reducible apply State.event_keeps | with_reducible apply Keeps.ite

theorem biasFlip_keeps {s0 s : State} {x0} (h : Keeps s0 s) :
    Keeps s0 (biasFlip x0 s) := by
  unfold biasFlip
  try dsimp only
  repeat' first | with_reducible assumption | simp only [Keeps.mk_iff] | split | intro _ | with_reducible apply Keeps.foldl | with_reducible apply Keeps.foldlFst | with_reducible apply Keeps.ite

theorem State.hostAccess_keeps {s0 s : State} {x1 x2 x3} (h : Keeps s0 s) :
    Keeps s0 (State.hostAccess s x1 x2 x3) := by
  unfold State.hostAccess
  try dsimp only
  repeat' first | with_reducible assumption | split | with_reducible apply State.countUncorr_keeps | with_reducible apply State.store_keeps | with_reducible apply State.emit_keeps | with_reducible apply Keeps.ite

theorem State.serveCxl_keeps {s0 s : State} {x1 x2 x3} (h : Keeps s0 s) :
    Keeps s0 (State.serveCxl s x1 x2 x3) := by
  unfold State.serveCxl
  try dsimp only
  repeat' first | with_reducible assumption | simp only [Keeps.mk_iff] | intro _ | with_reducible apply State.hostAccess_keeps | with_reducible apply Keeps.foldl | with_reducible apply Keeps.foldlFst

theorem State.serveHost_keeps {s0 s : State} {x1} (h : Keeps s0 s) :
    Keeps s0 (State.serveHost s x1) := by
  unfold State.serveHost
  try dsimp only
  repeat' first | with_reducible assumption | split | with_reducible apply State.serveCxl_keeps | with_reducible apply State.hostAccess_keeps | with_reducible apply Keeps.ite

theorem State.hostArrives_keeps {s0 s : State} {x1} (h : Keeps s0 s) :
    Keeps s0 (State.hostArrives s x1) := by
  unfold State.hostArrives
  try dsimp only
  repeat' first | with_reducible assumption | simp only [Keeps.mk_iff] | split | with_reducible apply State.serveHost_keeps | with_reducible apply Keeps.ite

theorem State.serveWaiting_keeps {s0 s : State} (h : Keeps s0 s) :
    Keeps s0 (State.serveWaiting s) := by
  unfold State.serveWaiting
  try dsimp only
  repeat' first | with_reducible assumption | simp only [Keeps.mk_iff] | intro _ | with_reducible apply State.hostArrives_keeps | with_reducible apply Keeps.foldl | with_reducible apply Keeps.foldlFst

theorem biasFlipPageDone_keeps {s0 s : State} {x0} (h : Keeps s0 s) :
    Keeps s0 (biasFlipPageDone x0 s) := by
  unfold biasFlipPageDone
  try dsimp only
  repeat' first | with_reducible assumption | simp only [Keeps.mk_iff] | split | with_reducible apply State.serveWaiting_keeps | with_reducible apply State.emit_keeps | with_reducible apply Keeps.ite

theorem hostCxlMemAccess_keeps {s0 s : State} {x0 x1 x2} (h : Keeps s0 s) :
    Keeps s0 (hostCxlMemAccess x0 x1 x2 s) := by
  unfold hostCxlMemAccess
  try dsimp only
  repeat' first | with_reducible assumption | simp only [Keeps.mk_iff] | split | with_reducible apply State.hostArrives_keeps | with_reducible apply Keeps.ite

theorem hostBar4Access_keeps {s0 s : State} {x0 x1 x2} (h : Keeps s0 s) :
    Keeps s0 (hostBar4Access x0 x1 x2 s) := by
  unfold hostBar4Access
  try dsimp only
  repeat' first | with_reducible assumption | simp only [Keeps.mk_iff] | split | with_reducible apply State.emit_keeps | with_reducible apply State.hostArrives_keeps | with_reducible apply Keeps.ite

end Sys2Proof.Machine
end

