-- ==== Sys2Proof/Laws/KeepsUpdate.lean ====
section
/-!
SUPPORT. Every operation of Machine/Update.lean keeps the queue, and memory in its canonical form.
-/

set_option linter.unusedSimpArgs false
set_option linter.unreachableTactic false
set_option linter.unusedTactic false

namespace Sys2Proof.Machine

theorem State.updEvt_keeps {s0 s : State} {x1} (h : Keeps s0 s) :
    Keeps s0 (State.updEvt s x1) := by
  unfold State.updEvt
  try dsimp only
  repeat' first | with_reducible assumption | simp only [Keeps.mk_iff] | intro _ | with_reducible apply State.modEng_keeps

theorem State.updRun_keeps {s0 s : State} {x1 x2 x3} (h : Keeps s0 s) :
    Keeps s0 (State.updRun s x1 x2 x3) := by
  unfold State.updRun
  try dsimp only
  repeat' first | with_reducible assumption | simp only [Keeps.mk_iff] | split | intro _ | with_reducible apply State.storeAll_keeps | with_reducible apply State.updEvt_keeps | with_reducible apply Keeps.foldl | with_reducible apply Keeps.foldlFst | with_reducible apply Keeps.ite

theorem update_keeps {s0 s : State} (h : Keeps s0 s) :
    Keeps s0 (update s) := by
  unfold update
  try dsimp only
  repeat' first | with_reducible assumption | simp only [Keeps.mk_iff] | split | intro _ | with_reducible apply State.withHead_keeps | with_reducible apply State.orFail_keeps | with_reducible apply State.complete_keeps | with_reducible apply State.updEvt_keeps | with_reducible apply State.updRun_keeps | with_reducible apply State.storeAll_keeps | with_reducible apply Keeps.ite

theorem stepAdvance_keeps {s0 s : State} (h : Keeps s0 s) :
    Keeps s0 (stepAdvance s) := by
  unfold stepAdvance
  try dsimp only
  repeat' first | with_reducible assumption | simp only [Keeps.mk_iff] | intro _ | with_reducible apply State.withHeadIf_keeps | with_reducible apply State.orFail_keeps | with_reducible apply State.complete_keeps | with_reducible apply Keeps.foldl | with_reducible apply Keeps.foldlFst

theorem stepSet_keeps {s0 s : State} (h : Keeps s0 s) :
    Keeps s0 (stepSet s) := by
  unfold stepSet
  try dsimp only
  repeat' first | with_reducible assumption | simp only [Keeps.mk_iff] | intro _ | with_reducible apply State.withHeadIf_keeps | with_reducible apply State.orFail_keeps | with_reducible apply State.complete_keeps | with_reducible apply Keeps.foldl | with_reducible apply Keeps.foldlFst

end Sys2Proof.Machine
end

