-- ==== Sys2Proof/Laws/KeepsPrefix.lean ====
section
/-!
SUPPORT. Every operation of Machine/Prefix.lean keeps the queue, and memory in its canonical form.
-/

set_option linter.unusedSimpArgs false
set_option linter.unreachableTactic false
set_option linter.unusedTactic false

namespace Sys2Proof.Machine

theorem State.reqSet_keeps {s0 s : State} {x1 x2 x3 x4 x5} (h : Keeps s0 s) :
    Keeps s0 (State.reqSet s x1 x2 x3 x4 x5) := by
  unfold State.reqSet
  try dsimp only
  repeat' first | with_reducible assumption | with_reducible apply State.store_keeps

theorem State.makePlace_out {s0 s t : State} {x1 y} (h : Keeps s0 s) (e : s.makePlace x1 = some (t, y)) :
    Keeps s0 t := by
  unfold State.makePlace at e
  split at e
  · cases e; exact h
  · rw [Option.map_eq_some_iff] at e
    obtain ⟨i, -, e⟩ := e
    cases e
    exact State.pfxEvt_keeps (State.pfxFree_keeps (Keeps.mk_iff.2 h))

theorem State.makePlace_keeps {s0 s : State} {x1 t} (e : s.makePlace x1 = some t) (h : Keeps s0 s) : Keeps s0 t.1 :=
  State.makePlace_out h e

theorem State.dropRef_keeps {s0 s : State} {x1} (h : Keeps s0 s) :
    Keeps s0 (State.dropRef s x1) := by
  unfold State.dropRef
  try dsimp only
  repeat' first | with_reducible assumption | simp only [Keeps.mk_iff] | split | intro _ | with_reducible apply State.pfxFree_keeps | with_reducible apply Keeps.ite

theorem State.pfxOut_keeps {s0 s : State} {x1 x2} (h : Keeps s0 s) :
    Keeps s0 (State.pfxOut s x1 x2) := by
  unfold State.pfxOut
  try dsimp only
  repeat' first | with_reducible assumption | with_reducible apply State.storeAll_keeps

theorem prefixHash_keeps {s0 s : State} (h : Keeps s0 s) :
    Keeps s0 (prefixHash s) := by
  unfold prefixHash
  try dsimp only
  repeat' first | with_reducible assumption | intro _ | with_reducible apply State.withHead_keeps | with_reducible apply State.orFail_keeps | with_reducible apply State.complete_keeps | with_reducible apply State.pfxOut_keeps

theorem prefixLookup_keeps {s0 s : State} (h : Keeps s0 s) :
    Keeps s0 (prefixLookup s) := by
  unfold prefixLookup
  try dsimp only
  repeat' first | with_reducible assumption | simp only [Keeps.mk_iff] | split | intro _ | with_reducible apply State.withHead_keeps | with_reducible apply State.orFail_keeps | with_reducible apply State.complete_keeps | with_reducible apply State.pfxOut_keeps | with_reducible apply Keeps.ite

theorem State.insertBlocks_keeps {s0 s : State} {j slot n k l} (h : Keeps s0 s) :
    Keeps s0 (State.insertBlocks s j slot n k l).1 := by
  induction l generalizing s k with
  | nil => exact h
  | cons x r ih =>
    unfold State.insertBlocks
    dsimp only
    split
    · exact h
    · split
      · exact h
      · exact ih (Keeps.mk_iff.2 (State.makePlace_out h ‹_›))

theorem State.insertBlocks_out {s0 s t : State} {y j slot n k l} (h : Keeps s0 s)
    (e : State.insertBlocks s j slot n k l = (t, y)) : Keeps s0 t := by
  have q := State.insertBlocks_keeps h (j := j) (slot := slot) (n := n) (k := k) (l := l)
  rw [e] at q
  exact q

theorem prefixInsert_keeps {s0 s : State} (h : Keeps s0 s) :
    Keeps s0 (prefixInsert s) := by
  unfold prefixInsert
  try dsimp only
  repeat' first | with_reducible assumption | split | intro _ | with_reducible apply State.withHead_keeps | with_reducible apply State.orFail_keeps | with_reducible refine State.insertBlocks_out ?_ ‹_› | with_reducible apply State.insertBlocks_keeps | with_reducible apply State.complete_keeps | with_reducible apply State.pfxOut_keeps | with_reducible apply State.reqSet_keeps | with_reducible apply Keeps.ite

theorem State.admitRecord_keeps {s0 s : State} {x1 x2} (h : Keeps s0 s) :
    Keeps s0 (State.admitRecord s x1 x2) := by
  unfold State.admitRecord
  try dsimp only
  repeat' first | with_reducible assumption | simp only [Keeps.mk_iff] | intro _ | with_reducible apply State.storeAll_keeps | with_reducible apply Keeps.foldl | with_reducible apply Keeps.foldlFst | with_reducible apply Keeps.getD

theorem admitRequest_keeps {s0 s : State} (h : Keeps s0 s) :
    Keeps s0 (admitRequest s) := by
  unfold admitRequest
  try dsimp only
  repeat' first | with_reducible assumption | simp only [Keeps.mk_iff] | split | intro _ | with_reducible apply State.withHead_keeps | with_reducible apply State.orFail_keeps | with_reducible apply State.admitRecord_keeps | with_reducible apply State.pfxEvt_keeps | with_reducible apply State.complete_keeps | with_reducible apply State.pfxOut_keeps | with_reducible apply Keeps.foldl | with_reducible apply Keeps.foldlFst | with_reducible apply Keeps.ite

theorem grow_keeps {s0 s : State} (h : Keeps s0 s) :
    Keeps s0 (grow s) := by
  unfold grow
  try dsimp only
  repeat' first | with_reducible assumption | simp only [Keeps.mk_iff] | intro _ | with_reducible apply State.withHead_keeps | with_reducible apply State.orFail_keeps | with_reducible apply State.waitPool_keeps | with_reducible apply State.addLive_keeps

theorem State.releaseReq_keeps {s0 s : State} {x1 x2} (h : Keeps s0 s) :
    Keeps s0 (State.releaseReq s x1 x2) := by
  unfold State.releaseReq
  try dsimp only
  repeat' first | with_reducible assumption | intro _ | with_reducible apply State.pfxFree_keeps | with_reducible apply State.reqSet_keeps | with_reducible apply State.dropRef_keeps | with_reducible apply Keeps.foldl | with_reducible apply Keeps.foldlFst

theorem State.retireReq_keeps {s0 s : State} {x1 x2 x3} (h : Keeps s0 s) :
    Keeps s0 (State.retireReq s x1 x2 x3) := by
  unfold State.retireReq
  try dsimp only
  repeat' first | with_reducible assumption | simp only [Keeps.mk_iff] | split | with_reducible apply State.storeAll_keeps | with_reducible apply State.pfxEvt_keeps | with_reducible apply State.releaseReq_keeps | with_reducible apply Keeps.ite

theorem retire_keeps {s0 s : State} (h : Keeps s0 s) :
    Keeps s0 (retire s) := by
  unfold retire
  try dsimp only
  repeat' first | with_reducible assumption | intro _ | with_reducible apply State.withHead_keeps | with_reducible apply State.orFail_keeps | with_reducible apply State.complete_keeps | with_reducible apply State.retireReq_keeps

theorem pin_keeps {s0 s : State} (h : Keeps s0 s) :
    Keeps s0 (pin s) := by
  unfold pin
  try dsimp only
  repeat' first | with_reducible assumption | split | intro _ | with_reducible apply State.withHead_keeps | with_reducible apply State.orFail_keeps | with_reducible apply State.reqSet_keeps | with_reducible apply State.complete_keeps | with_reducible apply State.releaseReq_keeps | with_reducible apply Keeps.ite

theorem requestDeadlineRetire_keeps {s0 s : State} {x0 x1} (h : Keeps s0 s) :
    Keeps s0 (requestDeadlineRetire x0 x1 s) := by
  unfold requestDeadlineRetire
  try dsimp only
  repeat' first | with_reducible assumption | split | with_reducible apply State.retireReq_keeps | with_reducible apply Keeps.ite

theorem stepBegin_keeps {s0 s : State} (h : Keeps s0 s) :
    Keeps s0 (stepBegin s) := by
  unfold stepBegin
  try dsimp only
  repeat' first | with_reducible assumption | simp only [Keeps.mk_iff] | intro _ | with_reducible apply State.withHead_keeps | with_reducible apply State.orFail_keeps | with_reducible apply State.reqSet_keeps | with_reducible apply State.complete_keeps | with_reducible apply Keeps.foldl | with_reducible apply Keeps.foldlFst

theorem State.settleRow_keeps {s0 s : State} {x1 x2 x3 x4 x5} (h : Keeps s0 s) :
    Keeps s0 (State.settleRow s x1 x2 x3 x4 x5).1 := by
  unfold State.settleRow
  try dsimp only
  repeat' first | with_reducible assumption | split | with_reducible apply State.retireReq_keeps | with_reducible apply State.reqSet_keeps | with_reducible apply Keeps.ite

theorem State.settleRow_out {s0 s t : State} {y} {x1 x2 x3 x4 x5} (h : Keeps s0 s) (e : State.settleRow s x1 x2 x3 x4 x5 = (t, y)) :
    Keeps s0 t := by
  have k := State.settleRow_keeps h (x1 := x1) (x2 := x2) (x3 := x3) (x4 := x4) (x5 := x5)
  rw [e] at k
  exact k

theorem stepCommit_keeps {s0 s : State} (h : Keeps s0 s) :
    Keeps s0 (stepCommit s) := by
  unfold stepCommit
  try dsimp only
  repeat' first | with_reducible assumption | simp only [Keeps.mk_iff] | split | intro _ | with_reducible apply State.withHead_keeps | with_reducible apply State.orFail_keeps | with_reducible refine State.settleRow_out ?_ ‹_› | with_reducible apply State.settleRow_keeps | with_reducible apply State.complete_keeps | with_reducible apply State.pfxOut_keeps | with_reducible apply Keeps.foldl | with_reducible apply Keeps.foldlFst | with_reducible apply Keeps.ite | with_reducible apply Keeps.getD

theorem tenantKeyLoad_keeps {s0 s : State} {x0} (h : Keeps s0 s) :
    Keeps s0 (tenantKeyLoad x0 s) := by
  unfold tenantKeyLoad
  try dsimp only
  repeat' first | with_reducible assumption | simp only [Keeps.mk_iff] | with_reducible apply State.settleLoads_keeps

end Sys2Proof.Machine
end

