-- ==== Sys2Proof/Laws/KeepsTin.lean ====
section
/-!
SUPPORT. Every operation of Machine/Tin.lean keeps the queue, and memory in its canonical form.
-/

set_option linter.unusedSimpArgs false
set_option linter.unreachableTactic false
set_option linter.unusedTactic false

namespace Sys2Proof.Machine

theorem State.putTin_keeps {s0 s : State} {x1} (h : Keeps s0 s) :
    Keeps s0 (State.putTin s x1) := by
  unfold State.putTin
  try dsimp only
  repeat' first | with_reducible assumption | simp only [Keeps.mk_iff] | intro _

theorem State.withTin_keeps {s0 s : State} {x1 x2} (h : Keeps s0 s)
    (hf2 : ∀ y0 y1, Keeps s0 y0 → Keeps s0 (x2 y0 y1)) :
    Keeps s0 (State.withTin s x1 x2) := by
  unfold State.withTin
  try dsimp only
  repeat' first | with_reducible assumption | split | intro _ | with_reducible apply hf2 | with_reducible apply State.withHead_keeps | with_reducible apply State.complete_keeps | with_reducible apply Keeps.ite

theorem State.tinOut_keeps {s0 s : State} {x1 x2} (h : Keeps s0 s) :
    Keeps s0 (State.tinOut s x1 x2) := by
  unfold State.tinOut
  try dsimp only
  repeat' first | with_reducible assumption | with_reducible apply State.store_keeps

theorem create_keeps {s0 s : State} (h : Keeps s0 s) :
    Keeps s0 (create s) := by
  unfold create
  try dsimp only
  repeat' first | with_reducible assumption | simp only [Keeps.mk_iff] | intro _ | with_reducible apply State.withTin_keeps | with_reducible apply State.orFail_keeps | with_reducible apply State.putTin_keeps | with_reducible apply State.complete_keeps | with_reducible apply State.tinOut_keeps | with_reducible apply Keeps.getD

theorem tinWrite_keeps {s0 s : State} {x0} (h : Keeps s0 s) :
    Keeps s0 (tinWrite x0 s) := by
  unfold tinWrite
  try dsimp only
  repeat' first | with_reducible assumption | simp only [Keeps.mk_iff] | intro _ | with_reducible apply State.withTin_keeps | with_reducible apply State.orFail_keeps | with_reducible apply State.putTin_keeps | with_reducible apply State.complete_keeps | with_reducible apply Keeps.foldl | with_reducible apply Keeps.foldlFst

theorem tinRead_keeps {s0 s : State} {x0 x1} (h : Keeps s0 s) :
    Keeps s0 (tinRead x0 x1 s) := by
  unfold tinRead
  try dsimp only
  repeat' first | with_reducible assumption | simp only [Keeps.mk_iff] | split | intro _ | with_reducible apply State.withTin_keeps | with_reducible apply State.orFail_keeps | with_reducible apply State.putTin_keeps | with_reducible apply State.complete_keeps | with_reducible apply State.storeAll_keeps | with_reducible apply Keeps.ite

theorem tinDelete_keeps {s0 s : State} {x0} (h : Keeps s0 s) :
    Keeps s0 (tinDelete x0 s) := by
  unfold tinDelete
  try dsimp only
  repeat' first | with_reducible assumption | simp only [Keeps.mk_iff] | intro _ | with_reducible apply State.withTin_keeps | with_reducible apply State.orFail_keeps | with_reducible apply State.putTin_keeps | with_reducible apply State.complete_keeps

theorem tinStat_keeps {s0 s : State} (h : Keeps s0 s) :
    Keeps s0 (tinStat s) := by
  unfold tinStat
  try dsimp only
  repeat' first | with_reducible assumption | intro _ | with_reducible apply State.withTin_keeps | with_reducible apply State.orFail_keeps | with_reducible apply State.complete_keeps | with_reducible apply State.tinOut_keeps

theorem wearLevelMove_keeps {s0 s : State} {x0} (h : Keeps s0 s) :
    Keeps s0 (wearLevelMove x0 s) := by
  unfold wearLevelMove
  try dsimp only
  repeat' first | with_reducible assumption | simp only [Keeps.mk_iff] | split | intro _ | with_reducible apply Keeps.ite

theorem readDisturbMove_keeps {s0 s : State} {x0 x1} (h : Keeps s0 s) :
    Keeps s0 (readDisturbMove x0 x1 s) := by
  unfold readDisturbMove
  try dsimp only
  repeat' first | with_reducible assumption | simp only [Keeps.mk_iff] | split | with_reducible apply Keeps.ite

theorem retentionPatrol_keeps {s0 s : State} {x0 x1 x2} (h : Keeps s0 s) :
    Keeps s0 (retentionPatrol x0 x1 x2 s) := by
  unfold retentionPatrol
  try dsimp only
  repeat' first | with_reducible assumption | simp only [Keeps.mk_iff] | split | intro _ | with_reducible apply Keeps.ite

end Sys2Proof.Machine
end

