-- ==== Sys2Proof/Laws/KeepsWarden.lean ====
section
/-!
SUPPORT. Every operation of Machine/Warden.lean keeps the queue, and memory in its canonical form.
-/

set_option linter.unusedSimpArgs false
set_option linter.unreachableTactic false
set_option linter.unusedTactic false

namespace Sys2Proof.Machine

theorem wmbCtrlLengthWrite_keeps {s0 s : State} {x0} (h : Keeps s0 s) :
    Keeps s0 (wmbCtrlLengthWrite x0 s) := by
  unfold wmbCtrlLengthWrite
  try dsimp only
  repeat' first | with_reducible assumption | simp only [Keeps.mk_iff] | split | with_reducible apply Keeps.ite

theorem wmbDataWrite_keeps {s0 s : State} {x0 x1} (h : Keeps s0 s) :
    Keeps s0 (wmbDataWrite x0 x1 s) := by
  unfold wmbDataWrite
  try dsimp only
  repeat' first | with_reducible assumption | simp only [Keeps.mk_iff] | split | with_reducible apply Keeps.ite

theorem wmbRdataRead_keeps {s0 s : State} (h : Keeps s0 s) :
    Keeps s0 (wmbRdataRead s) := by
  unfold wmbRdataRead
  try dsimp only
  repeat' first | with_reducible assumption | simp only [Keeps.mk_iff] | with_reducible apply State.emit_keeps

theorem State.wreqEnd_keeps {s0 s : State} {x1} (h : Keeps s0 s) :
    Keeps s0 (State.wreqEnd s x1) := by
  unfold State.wreqEnd
  try dsimp only
  repeat' first | with_reducible assumption | simp only [Keeps.mk_iff]

theorem State.wardenGo_keeps {s0 s : State} {x1 x2 x3 x4 x5 x6 x7} (h : Keeps s0 s)
    (hf7 : ∀ y0 y1, Keeps s0 y0 → Keeps s0 (x7 y0 y1)) :
    Keeps s0 (State.wardenGo s x1 x2 x3 x4 x5 x6 x7) := by
  unfold State.wardenGo
  try dsimp only
  repeat' first | with_reducible assumption | simp only [Keeps.mk_iff] | split | with_reducible apply hf7 | with_reducible apply State.wreqEnd_keeps | with_reducible apply Keeps.ite

theorem maintEnter_keeps {s0 s : State} {x0} (h : Keeps s0 s) :
    Keeps s0 (maintEnter x0 s) := by
  unfold maintEnter
  try dsimp only
  repeat' first | with_reducible assumption | simp only [Keeps.mk_iff] | intro _ | with_reducible apply State.wardenGo_keeps | with_reducible apply State.dropBeyond_keeps

theorem maintExit_keeps {s0 s : State} {x0} (h : Keeps s0 s) :
    Keeps s0 (maintExit x0 s) := by
  unfold maintExit
  try dsimp only
  repeat' first | with_reducible assumption | intro _ | with_reducible apply State.wardenGo_keeps | with_reducible apply State.restartAt3_keeps

theorem fwUpdate_keeps {s0 s : State} {x0 x1} (h : Keeps s0 s) :
    Keeps s0 (fwUpdate x0 x1 s) := by
  unfold fwUpdate
  try dsimp only
  repeat' first | with_reducible assumption | simp only [Keeps.mk_iff] | split | intro _ | with_reducible apply State.wardenGo_keeps | with_reducible apply Keeps.ite

theorem fwImageWriteDone_keeps {s0 s : State} (h : Keeps s0 s) :
    Keeps s0 (fwImageWriteDone s) := by
  unfold fwImageWriteDone
  try dsimp only
  repeat' first | with_reducible assumption | simp only [Keeps.mk_iff] | split | with_reducible apply State.restartAt3_keeps | with_reducible apply Keeps.ite

theorem svnCommit_keeps {s0 s : State} {x0} (h : Keeps s0 s) :
    Keeps s0 (svnCommit x0 s) := by
  unfold svnCommit
  try dsimp only
  repeat' first | with_reducible assumption | simp only [Keeps.mk_iff] | split | intro _ | with_reducible apply State.wardenGo_keeps | with_reducible apply Keeps.ite

theorem fwkeyRevoke_keeps {s0 s : State} {x0} (h : Keeps s0 s) :
    Keeps s0 (fwkeyRevoke x0 s) := by
  unfold fwkeyRevoke
  try dsimp only
  repeat' first | with_reducible assumption | simp only [Keeps.mk_iff] | split | intro _ | with_reducible apply State.wardenGo_keeps | with_reducible apply Keeps.ite

theorem State.writeOwner_keeps {s0 s : State} {x1} (h : Keeps s0 s) :
    Keeps s0 (State.writeOwner s x1) := by
  unfold State.writeOwner
  try dsimp only
  repeat' first | with_reducible assumption | simp only [Keeps.mk_iff] | intro _

theorem ownerClaim_keeps {s0 s : State} {x0} (h : Keeps s0 s) :
    Keeps s0 (ownerClaim x0 s) := by
  unfold ownerClaim
  try dsimp only
  repeat' first | with_reducible assumption | intro _ | with_reducible apply State.wardenGo_keeps | with_reducible apply State.writeOwner_keeps

theorem ownerSet_keeps {s0 s : State} {x0} (h : Keeps s0 s) :
    Keeps s0 (ownerSet x0 s) := by
  unfold ownerSet
  try dsimp only
  repeat' first | with_reducible assumption | intro _ | with_reducible apply State.wardenGo_keeps | with_reducible apply State.writeOwner_keeps

theorem ownerRelease_keeps {s0 s : State} {x0} (h : Keeps s0 s) :
    Keeps s0 (ownerRelease x0 s) := by
  unfold ownerRelease
  try dsimp only
  repeat' first | with_reducible assumption | simp only [Keeps.mk_iff] | intro _ | with_reducible apply State.wardenGo_keeps

theorem recordRestore_keeps {s0 s : State} {x0} (h : Keeps s0 s) :
    Keeps s0 (recordRestore x0 s) := by
  unfold recordRestore
  try dsimp only
  repeat' first | with_reducible assumption | simp only [Keeps.mk_iff] | split | intro _ | with_reducible apply State.wardenGo_keeps | with_reducible apply Keeps.ite

theorem recordRead_keeps {s0 s : State} {x0} (h : Keeps s0 s) :
    Keeps s0 (recordRead x0 s) := by
  unfold recordRead
  try dsimp only
  repeat' first | with_reducible assumption | simp only [Keeps.mk_iff] | split | intro _ | with_reducible apply State.wardenGo_keeps | with_reducible apply Keeps.ite

theorem State.eraseKeys_keeps {s0 s : State} (h : Keeps s0 s) :
    Keeps s0 (State.eraseKeys s) := by
  unfold State.eraseKeys
  try dsimp only
  repeat' first | with_reducible assumption | simp only [Keeps.mk_iff] | with_reducible apply State.zeroOnChip_keeps | with_reducible apply State.leaveUndefined_keeps

theorem debugAuth_keeps {s0 s : State} {x0} (h : Keeps s0 s) :
    Keeps s0 (debugAuth x0 s) := by
  unfold debugAuth
  try dsimp only
  repeat' first | with_reducible assumption | simp only [Keeps.mk_iff] | split | intro _ | with_reducible apply State.wardenGo_keeps | with_reducible apply State.eraseKeys_keeps | with_reducible apply Keeps.ite

end Sys2Proof.Machine
end

