-- ==== Sys2Proof/Laws/KeepsDoe.lean ====
section
/-!
SUPPORT. Every operation of Machine/Doe.lean keeps the queue, and memory in its canonical form.
-/

set_option linter.unusedSimpArgs false
set_option linter.unreachableTactic false
set_option linter.unusedTactic false

namespace Sys2Proof.Machine

theorem State.reply_keeps {s0 s : State} {x1 x2 x3} (h : Keeps s0 s) :
    Keeps s0 (State.reply s x1 x2 x3) := by
  unfold State.reply
  try dsimp only
  repeat' first | with_reducible assumption | simp only [Keeps.mk_iff] | with_reducible apply State.emit_keeps

theorem State.spdmRefuse_keeps {s0 s : State} {x1} (h : Keeps s0 s) :
    Keeps s0 (State.spdmRefuse s x1) := by
  unfold State.spdmRefuse
  try dsimp only
  repeat' first | with_reducible assumption | with_reducible apply State.emit_keeps

theorem State.doe_keeps {s0 s : State} {x1} (h : Keeps s0 s)
    (hf1 : ∀ y0, Keeps s0 y0 → Keeps s0 (x1 y0)) :
    Keeps s0 (State.doe s x1) := by
  unfold State.doe
  try dsimp only
  repeat' first | with_reducible assumption | split | with_reducible apply hf1 | with_reducible apply Keeps.ite

theorem State.fits_keeps {s0 s : State} {x1 x2} (h : Keeps s0 s)
    (hf2 : ∀ y0, Keeps s0 y0 → Keeps s0 (x2 y0)) :
    Keeps s0 (State.fits s x1 x2) := by
  unfold State.fits
  try dsimp only
  repeat' first | with_reducible assumption | split | with_reducible apply hf2 | with_reducible apply Keeps.ite

theorem State.spdm_keeps {s0 s : State} {x1 x2} (h : Keeps s0 s)
    (hf2 : ∀ y0, Keeps s0 y0 → Keeps s0 (x2 y0)) :
    Keeps s0 (State.spdm s x1 x2) := by
  unfold State.spdm
  try dsimp only
  repeat' first | with_reducible assumption | split | intro _ | with_reducible apply hf2 | with_reducible apply State.doe_keeps | with_reducible apply State.spdmRefuse_keeps | with_reducible apply Keeps.ite

theorem State.identified_keeps {s0 s : State} {x1 x2} (h : Keeps s0 s)
    (hf2 : ∀ y0, Keeps s0 y0 → Keeps s0 (x2 y0)) :
    Keeps s0 (State.identified s x1 x2) := by
  unfold State.identified
  try dsimp only
  repeat' first | with_reducible assumption | split | intro _ | with_reducible apply hf2 | with_reducible apply State.spdm_keeps | with_reducible apply State.spdmRefuse_keeps | with_reducible apply Keeps.ite

theorem doeDiscovery_keeps {s0 s : State} {x0} (h : Keeps s0 s) :
    Keeps s0 (doeDiscovery x0 s) := by
  unfold doeDiscovery
  try dsimp only
  repeat' first | with_reducible assumption | split | intro _ | with_reducible apply State.doe_keeps | with_reducible apply State.emit_keeps | with_reducible apply Keeps.ite | with_reducible apply Keeps.getD

theorem doeAbort_keeps {s0 s : State} (h : Keeps s0 s) :
    Keeps s0 (doeAbort s) := by
  unfold doeAbort
  try dsimp only
  repeat' first | with_reducible assumption

theorem getVersion_keeps {s0 s : State} (h : Keeps s0 s) :
    Keeps s0 (getVersion s) := by
  unfold getVersion
  try dsimp only
  repeat' first | with_reducible assumption | simp only [Keeps.mk_iff] | intro _ | with_reducible apply State.doe_keeps | with_reducible apply State.emit_keeps

theorem getCapabilities_keeps {s0 s : State} (h : Keeps s0 s) :
    Keeps s0 (getCapabilities s) := by
  unfold getCapabilities
  try dsimp only
  repeat' first | with_reducible assumption | simp only [Keeps.mk_iff] | split | intro _ | with_reducible apply State.doe_keeps | with_reducible apply State.reply_keeps | with_reducible apply State.spdmRefuse_keeps | with_reducible apply Keeps.ite

theorem negotiateAlgorithms_keeps {s0 s : State} (h : Keeps s0 s) :
    Keeps s0 (negotiateAlgorithms s) := by
  unfold negotiateAlgorithms
  try dsimp only
  repeat' first | with_reducible assumption | simp only [Keeps.mk_iff] | split | intro _ | with_reducible apply State.doe_keeps | with_reducible apply State.reply_keeps | with_reducible apply State.spdmRefuse_keeps | with_reducible apply Keeps.ite

theorem getDigests_keeps {s0 s : State} (h : Keeps s0 s) :
    Keeps s0 (getDigests s) := by
  unfold getDigests
  try dsimp only
  repeat' first | with_reducible assumption | intro _ | with_reducible apply State.spdm_keeps | with_reducible apply State.reply_keeps | with_reducible apply Keeps.getD

theorem getCertificate_keeps {s0 s : State} {x0} (h : Keeps s0 s) :
    Keeps s0 (getCertificate x0 s) := by
  unfold getCertificate
  try dsimp only
  repeat' first | with_reducible assumption | split | intro _ | with_reducible apply State.spdm_keeps | with_reducible apply State.reply_keeps | with_reducible apply State.spdmRefuse_keeps | with_reducible apply Keeps.ite

theorem State.signedReply_keeps {s0 s : State} {x1 x2 x3} (h : Keeps s0 s) :
    Keeps s0 (State.signedReply s x1 x2 x3) := by
  unfold State.signedReply
  try dsimp only
  repeat' first | with_reducible assumption | with_reducible apply State.reply_keeps

theorem challenge_keeps {s0 s : State} {x0} (h : Keeps s0 s) :
    Keeps s0 (challenge x0 s) := by
  unfold challenge
  try dsimp only
  repeat' first | with_reducible assumption | intro _ | with_reducible apply State.fits_keeps | with_reducible apply State.identified_keeps | with_reducible apply State.signedReply_keeps

theorem getMeasurements_keeps {s0 s : State} {x0 x1} (h : Keeps s0 s) :
    Keeps s0 (getMeasurements x0 x1 s) := by
  unfold getMeasurements
  try dsimp only
  repeat' first | with_reducible assumption | split | intro _ | with_reducible apply State.fits_keeps | with_reducible apply State.identified_keeps | with_reducible apply State.signedReply_keeps | with_reducible apply State.spdmRefuse_keeps | with_reducible apply Keeps.ite

theorem keyExchange_keeps {s0 s : State} {x0} (h : Keeps s0 s) :
    Keeps s0 (keyExchange x0 s) := by
  unfold keyExchange
  try dsimp only
  repeat' first | with_reducible assumption | simp only [Keeps.mk_iff] | intro _ | with_reducible apply State.fits_keeps | with_reducible apply State.identified_keeps | with_reducible apply State.reply_keeps

theorem finish_keeps {s0 s : State} {x0} (h : Keeps s0 s) :
    Keeps s0 (finish x0 s) := by
  unfold finish
  try dsimp only
  repeat' first | with_reducible assumption | simp only [Keeps.mk_iff] | split | intro _ | with_reducible apply State.spdm_keeps | with_reducible apply State.spdmRefuse_keeps | with_reducible apply State.reply_keeps | with_reducible apply Keeps.ite

theorem State.inSession_keeps {s0 s : State} {x1 x2} (h : Keeps s0 s)
    (hf2 : ∀ y0, Keeps s0 y0 → Keeps s0 (x2 y0)) :
    Keeps s0 (State.inSession s x1 x2) := by
  unfold State.inSession
  try dsimp only
  repeat' first | with_reducible assumption | split | intro _ | with_reducible apply hf2 | with_reducible apply State.spdm_keeps | with_reducible apply State.spdmRefuse_keeps | with_reducible apply Keeps.ite

theorem heartbeat_keeps {s0 s : State} (h : Keeps s0 s) :
    Keeps s0 (heartbeat s) := by
  unfold heartbeat
  try dsimp only
  repeat' first | with_reducible assumption | intro _ | with_reducible apply State.inSession_keeps | with_reducible apply State.reply_keeps

theorem keyUpdate_keeps {s0 s : State} (h : Keeps s0 s) :
    Keeps s0 (keyUpdate s) := by
  unfold keyUpdate
  try dsimp only
  repeat' first | with_reducible assumption | simp only [Keeps.mk_iff] | intro _ | with_reducible apply State.inSession_keeps | with_reducible apply State.reply_keeps

theorem endSession_keeps {s0 s : State} (h : Keeps s0 s) :
    Keeps s0 (endSession s) := by
  unfold endSession
  try dsimp only
  repeat' first | with_reducible assumption | simp only [Keeps.mk_iff] | intro _ | with_reducible apply State.inSession_keeps | with_reducible apply State.reply_keeps

theorem ideKm_keeps {s0 s : State} {x0 x1} (h : Keeps s0 s) :
    Keeps s0 (ideKm x0 x1 s) := by
  unfold ideKm
  try dsimp only
  repeat' first | with_reducible assumption | simp only [Keeps.mk_iff] | split | intro _ | with_reducible apply State.fits_keeps | with_reducible apply State.inSession_keeps | with_reducible apply State.reply_keeps | with_reducible apply Keeps.ite

theorem cdatRead_keeps {s0 s : State} {x0} (h : Keeps s0 s) :
    Keeps s0 (cdatRead x0 s) := by
  unfold cdatRead
  try dsimp only
  repeat' first | with_reducible assumption | intro _ | with_reducible apply State.doe_keeps | with_reducible apply State.reply_keeps

end Sys2Proof.Machine
end

