-- ==== Sys2Proof/Laws/KeepsHallTime.lean ====
section
/-!
SUPPORT. Every operation of Machine/HallTime.lean keeps the queue, and memory in its canonical form.
-/

set_option linter.unusedSimpArgs false
set_option linter.unreachableTactic false
set_option linter.unusedTactic false

namespace Sys2Proof.Machine

theorem timeExchangeStart_keeps {s0 s : State} (h : Keeps s0 s) :
    Keeps s0 (timeExchangeStart s) := by
  unfold timeExchangeStart
  try dsimp only
  repeat' first | with_reducible assumption | simp only [Keeps.mk_iff] | split | with_reducible apply State.queueFlit_keeps | with_reducible apply Keeps.ite

theorem timeExchangeRequestReceive_keeps {s0 s : State} {x0 x1 x2 x3} (h : Keeps s0 s) :
    Keeps s0 (timeExchangeRequestReceive x0 x1 x2 x3 s) := by
  unfold timeExchangeRequestReceive
  try dsimp only
  repeat' first | with_reducible assumption | simp only [Keeps.mk_iff] | split | with_reducible apply State.noteNbr_keeps | with_reducible apply State.queueFlit_keeps | with_reducible apply Keeps.ite

theorem State.lock_keeps {s0 s : State} {x1} (h : Keeps s0 s) :
    Keeps s0 (State.lock s x1) := by
  unfold State.lock
  try dsimp only
  repeat' first | with_reducible assumption | simp only [Keeps.mk_iff] | split | with_reducible apply State.event_keeps | with_reducible apply State.beginStep10_keeps | with_reducible apply Keeps.ite

theorem State.acquireExchange_keeps {s0 s : State} {x1} (h : Keeps s0 s) :
    Keeps s0 (State.acquireExchange s x1) := by
  unfold State.acquireExchange
  try dsimp only
  repeat' first | with_reducible assumption | simp only [Keeps.mk_iff] | split | with_reducible apply State.lock_keeps | with_reducible apply Keeps.ite

theorem State.relocked_keeps {s0 s : State} (h : Keeps s0 s) :
    Keeps s0 (State.relocked s) := by
  unfold State.relocked
  try dsimp only
  repeat' first | with_reducible assumption | simp only [Keeps.mk_iff] | split | with_reducible apply State.event_keeps | with_reducible apply Keeps.ite

theorem State.relockExchange_keeps {s0 s : State} {x1} (h : Keeps s0 s) :
    Keeps s0 (State.relockExchange s x1) := by
  unfold State.relockExchange
  try dsimp only
  repeat' first | with_reducible assumption | simp only [Keeps.mk_iff] | split | intro _ | with_reducible apply State.relocked_keeps | with_reducible apply State.htEvent_keeps | with_reducible apply Keeps.foldl | with_reducible apply Keeps.foldlFst | with_reducible apply Keeps.ite

theorem timeExchangeResponseReceive_keeps {s0 s : State} {x0 x1 x2 x3 x4 x5} (h : Keeps s0 s) :
    Keeps s0 (timeExchangeResponseReceive x0 x1 x2 x3 x4 x5 s) := by
  unfold timeExchangeResponseReceive
  try dsimp only
  repeat' first | with_reducible assumption | simp only [Keeps.mk_iff] | split | intro _ | with_reducible apply State.modPort_keeps | with_reducible apply State.noteNbr_keeps | with_reducible apply State.follow_keeps | with_reducible apply State.acquireExchange_keeps | with_reducible apply State.relockExchange_keeps | with_reducible apply Keeps.ite

theorem rootPhaseStep_keeps {s0 s : State} {x0 x1 x2} (h : Keeps s0 s) :
    Keeps s0 (rootPhaseStep x0 x1 x2 s) := by
  unfold rootPhaseStep
  try dsimp only
  repeat' first | with_reducible assumption | simp only [Keeps.mk_iff] | split | with_reducible apply Keeps.ite

theorem exchangeNoResponse_keeps {s0 s : State} (h : Keeps s0 s) :
    Keeps s0 (exchangeNoResponse s) := by
  unfold exchangeNoResponse
  try dsimp only
  repeat' first | with_reducible assumption | simp only [Keeps.mk_iff] | split | with_reducible apply State.reselect_keeps | with_reducible apply Keeps.ite

theorem relockPauseEnd_keeps {s0 s : State} (h : Keeps s0 s) :
    Keeps s0 (relockPauseEnd s) := by
  unfold relockPauseEnd
  try dsimp only
  repeat' first | with_reducible assumption | simp only [Keeps.mk_iff] | split | with_reducible apply Keeps.ite

theorem rootSequenceIncrement_keeps {s0 s : State} (h : Keeps s0 s) :
    Keeps s0 (rootSequenceIncrement s) := by
  unfold rootSequenceIncrement
  try dsimp only
  repeat' first | with_reducible assumption | simp only [Keeps.mk_iff] | split | with_reducible apply Keeps.ite

theorem backupRootTakeover_keeps {s0 s : State} (h : Keeps s0 s) :
    Keeps s0 (backupRootTakeover s) := by
  unfold backupRootTakeover
  try dsimp only
  repeat' first | with_reducible assumption | simp only [Keeps.mk_iff] | split | intro _ | with_reducible apply State.dropUpstream_keeps | with_reducible apply State.htEvent_keeps | with_reducible apply Keeps.ite

theorem refreshBatch_keeps {s0 s : State} {x0} (h : Keeps s0 s) :
    Keeps s0 (refreshBatch x0 s) := by
  unfold refreshBatch
  try dsimp only
  repeat' first | with_reducible assumption | simp only [Keeps.mk_iff] | split | with_reducible apply Keeps.ite

theorem refreshRateChange_keeps {s0 s : State} {x0 x1} (h : Keeps s0 s) :
    Keeps s0 (refreshRateChange x0 x1 s) := by
  unfold refreshRateChange
  try dsimp only
  repeat' first | with_reducible assumption | simp only [Keeps.mk_iff]

end Sys2Proof.Machine
end

