-- ==== Sys2Proof/Laws/KeepsLoadStore.lean ====
section
/-!
SUPPORT. Every operation of Machine/LoadStore.lean keeps the queue, and memory in its canonical form.
-/

set_option linter.unusedSimpArgs false
set_option linter.unreachableTactic false
set_option linter.unusedTactic false

namespace Sys2Proof.Machine

theorem ldT_keeps {s0 s : State} {x0} (h : Keeps s0 s) :
    Keeps s0 (ldT x0 s) := by
  unfold ldT
  try dsimp only
  repeat' first | with_reducible assumption | split | intro _ | with_reducible apply State.startHead_keeps | with_reducible apply State.orFailTask_keeps | with_reducible apply State.startedRemote_keeps | with_reducible apply State.started_keeps | with_reducible apply Keeps.ite

theorem State.orFailIndex_keeps {s0 s : State} {x1 x2 x3 x4} (h : Keeps s0 s)
    (hf4 : ∀ y0, Keeps s0 y0 → Keeps s0 (x4 y0)) :
    Keeps s0 (State.orFailIndex s x1 x2 x3 x4) := by
  unfold State.orFailIndex
  try dsimp only
  repeat' first | with_reducible assumption | split | with_reducible apply hf4 | with_reducible apply State.jobEvent_keeps | with_reducible apply State.failTask_keeps | with_reducible apply Keeps.ite

theorem State.countOob_keeps {s0 s : State} {x1 x2 x3} (h : Keeps s0 s) :
    Keeps s0 (State.countOob s x1 x2 x3) := by
  unfold State.countOob
  try dsimp only
  repeat' first | with_reducible assumption | simp only [Keeps.mk_iff] | intro _ | with_reducible apply State.modCore_keeps

theorem ldG_keeps {s0 s : State} {x0} (h : Keeps s0 s) :
    Keeps s0 (ldG x0 s) := by
  unfold ldG
  try dsimp only
  repeat' first | with_reducible assumption | simp only [Keeps.mk_iff] | split | intro _ | with_reducible apply State.startHead_keeps | with_reducible apply State.orFailTask_keeps | with_reducible apply State.started_keeps | with_reducible apply State.orFailIndex_keeps | with_reducible apply State.countOob_keeps | with_reducible apply State.markLast_keeps | with_reducible apply State.startedRemote_keeps | with_reducible apply Keeps.ite

theorem ldCr_keeps {s0 s : State} {x0} (h : Keeps s0 s) :
    Keeps s0 (ldCr x0 s) := by
  unfold ldCr
  try dsimp only
  repeat' first | with_reducible assumption | simp only [Keeps.mk_iff] | split | intro _ | with_reducible apply State.startHead_keeps | with_reducible apply State.failTask_keeps | with_reducible apply State.started_keeps | with_reducible apply State.completeInstr_keeps | with_reducible apply State.modCore_keeps | with_reducible apply State.markLast_keeps | with_reducible apply Keeps.ite | with_reducible apply Keeps.elim

theorem creditGrant_keeps {s0 s : State} {x0 x1} (h : Keeps s0 s) :
    Keeps s0 (creditGrant x0 x1 s) := by
  unfold creditGrant
  try dsimp only
  repeat' first | with_reducible assumption | simp only [Keeps.mk_iff] | split | intro _ | with_reducible apply State.modCore_keeps | with_reducible apply Keeps.ite

theorem State.startStore_keeps {s0 s : State} {x1 x2 x3 x4 x5} (h : Keeps s0 s) :
    Keeps s0 (State.startStore s x1 x2 x3 x4 x5) := by
  unfold State.startStore
  try dsimp only
  repeat' first | with_reducible assumption | simp only [Keeps.mk_iff] | split | intro _ | with_reducible apply State.startedRemote_keeps | with_reducible apply State.started_keeps | with_reducible apply State.modWindow_keeps | with_reducible apply State.markLast_keeps | with_reducible apply Keeps.foldl | with_reducible apply Keeps.foldlFst | with_reducible apply Keeps.ite

theorem stT_keeps {s0 s : State} {x0} (h : Keeps s0 s) :
    Keeps s0 (stT x0 s) := by
  unfold stT
  try dsimp only
  repeat' first | with_reducible assumption | intro _ | with_reducible apply State.startHead_keeps | with_reducible apply State.orFailTask_keeps | with_reducible apply State.startStore_keeps

theorem stS_keeps {s0 s : State} {x0} (h : Keeps s0 s) :
    Keeps s0 (stS x0 s) := by
  unfold stS
  try dsimp only
  repeat' first | with_reducible assumption | split | intro _ | with_reducible apply State.startHead_keeps | with_reducible apply State.orFailTask_keeps | with_reducible apply State.startStore_keeps | with_reducible apply State.orFailIndex_keeps | with_reducible apply State.countOob_keeps | with_reducible apply Keeps.ite

theorem stA_keeps {s0 s : State} {x0} (h : Keeps s0 s) :
    Keeps s0 (stA x0 s) := by
  unfold stA
  try dsimp only
  repeat' first | with_reducible assumption | intro _ | with_reducible apply State.startHead_keeps | with_reducible apply State.orFailTask_keeps | with_reducible apply State.startedRemote_keeps

theorem stFence_keeps {s0 s : State} {x0} (h : Keeps s0 s) :
    Keeps s0 (stFence x0 s) := by
  unfold stFence
  try dsimp only
  repeat' first | with_reducible assumption | simp only [Keeps.mk_iff] | intro _ | with_reducible apply State.startHead_keeps | with_reducible apply State.orFailTask_keeps | with_reducible apply State.markLast_keeps | with_reducible apply State.started_keeps

theorem longInstructionComplete_keeps {s0 s : State} {x0 x1 x2 x3 x4 x5} (h : Keeps s0 s) :
    Keeps s0 (longInstructionComplete x0 x1 x2 x3 x4 x5 s) := by
  unfold longInstructionComplete
  try dsimp only
  repeat' first | with_reducible assumption | simp only [Keeps.mk_iff] | split | intro _ | with_reducible apply State.completeOldest_keeps | with_reducible apply State.modCore_keeps | with_reducible apply Keeps.ite

end Sys2Proof.Machine
end

