-- ==== Sys2Proof/Laws/KeepsTensorOps.lean ====
section
/-!
SUPPORT. Every operation of Machine/TensorOps.lean keeps the queue, and memory in its canonical form.
-/

set_option linter.unusedSimpArgs false
set_option linter.unreachableTactic false
set_option linter.unusedTactic false

namespace Sys2Proof.Machine

theorem mma_keeps {s0 s : State} {x0} (h : Keeps s0 s) :
    Keeps s0 (mma x0 s) := by
  unfold mma
  try dsimp only
  repeat' first | with_reducible assumption | split | intro _ | with_reducible apply State.startHead_keeps | with_reducible apply State.orFailTask_keeps | with_reducible apply State.startedMat_keeps | with_reducible apply State.failTask_keeps | with_reducible apply Keeps.foldl | with_reducible apply Keeps.foldlFst | with_reducible apply Keeps.ite | with_reducible apply Keeps.getD

theorem mmaScreen_keeps {s0 s : State} {x0} (h : Keeps s0 s) :
    Keeps s0 (mmaScreen x0 s) := by
  unfold mmaScreen
  try dsimp only
  repeat' first | with_reducible assumption | split | intro _ | with_reducible apply State.startHead_keeps | with_reducible apply State.orFailTask_keeps | with_reducible apply State.startedMat_keeps | with_reducible apply Keeps.ite | with_reducible apply Keeps.getD

theorem State.elementwise_keeps {s0 s : State} {x1 x2 x3 x4 x5} (h : Keeps s0 s) :
    Keeps s0 (State.elementwise s x1 x2 x3 x4 x5) := by
  unfold State.elementwise
  try dsimp only
  repeat' first | with_reducible assumption | intro _ | with_reducible apply State.orFailTask_keeps | with_reducible apply State.started_keeps | with_reducible apply Keeps.getD

theorem tred_keeps {s0 s : State} {x0} (h : Keeps s0 s) :
    Keeps s0 (tred x0 s) := by
  unfold tred
  try dsimp only
  repeat' first | with_reducible assumption | split | intro _ | with_reducible apply State.startHead_keeps | with_reducible apply State.orFailTask_keeps | with_reducible apply State.started_keeps | with_reducible apply Keeps.ite

theorem State.tsparse_keeps {s0 s : State} {x1 x2 x3 x4 x5} (h : Keeps s0 s) :
    Keeps s0 (State.tsparse s x1 x2 x3 x4 x5) := by
  unfold State.tsparse
  try dsimp only
  repeat' first | with_reducible assumption | split | intro _ | with_reducible apply State.orFailTask_keeps | with_reducible apply State.failTask_keeps | with_reducible apply State.started_keeps | with_reducible apply Keeps.ite | with_reducible apply Keeps.getD

theorem State.startSparse_keeps {s0 s : State} {x1 x2 x3} (h : Keeps s0 s)
    (hf3 : ∀ y0 y1, Keeps s0 y0 → Keeps s0 (x3 y0 y1)) :
    Keeps s0 (State.startSparse s x1 x2 x3) := by
  unfold State.startSparse
  try dsimp only
  repeat' first | with_reducible assumption | split | with_reducible apply hf3 | with_reducible apply State.startHead_keeps | with_reducible apply Keeps.ite

theorem tsparseStrict_keeps {s0 s : State} {x0} (h : Keeps s0 s) :
    Keeps s0 (tsparseStrict x0 s) := by
  unfold tsparseStrict
  try dsimp only
  repeat' first | with_reducible assumption | split | intro _ | with_reducible apply State.startSparse_keeps | with_reducible apply State.tsparse_keeps | with_reducible apply Keeps.ite | with_reducible apply Keeps.getD

theorem tsparsePrune_keeps {s0 s : State} {x0} (h : Keeps s0 s) :
    Keeps s0 (tsparsePrune x0 s) := by
  unfold tsparsePrune
  try dsimp only
  repeat' first | with_reducible assumption | intro _ | with_reducible apply State.startSparse_keeps | with_reducible apply State.tsparse_keeps

theorem tsparseMask_keeps {s0 s : State} {x0} (h : Keeps s0 s) :
    Keeps s0 (tsparseMask x0 s) := by
  unfold tsparseMask
  try dsimp only
  repeat' first | with_reducible assumption | split | intro _ | with_reducible apply State.startSparse_keeps | with_reducible apply State.tsparse_keeps | with_reducible apply Keeps.ite | with_reducible apply Keeps.getD

theorem tsparseNzlist_keeps {s0 s : State} {x0} (h : Keeps s0 s) :
    Keeps s0 (tsparseNzlist x0 s) := by
  unfold tsparseNzlist
  try dsimp only
  repeat' first | with_reducible assumption | split | intro _ | with_reducible apply State.startSparse_keeps | with_reducible apply State.orFailTask_keeps | with_reducible apply State.started_keeps | with_reducible apply Keeps.ite

end Sys2Proof.Machine
end

