-- ==== Sys2Proof/Laws/KeepsNearChannel.lean ====
section
/-!
SUPPORT. Every operation of Machine/NearChannel.lean keeps the queue, and memory in its canonical form.
-/

set_option linter.unusedSimpArgs false
set_option linter.unreachableTactic false
set_option linter.unusedTactic false

namespace Sys2Proof.Machine

theorem State.orIndex_keeps {s0 s : State} {x1 x2 x3} (h : Keeps s0 s)
    (hf3 : ∀ y0, Keeps s0 y0 → Keeps s0 (x3 y0)) :
    Keeps s0 (State.orIndex s x1 x2 x3) := by
  unfold State.orIndex
  try dsimp only
  repeat' first | with_reducible assumption | split | with_reducible apply hf3 | with_reducible apply State.complete_keeps | with_reducible apply State.jobEvent_keeps | with_reducible apply Keeps.ite

theorem copy_keeps {s0 s : State} (h : Keeps s0 s) :
    Keeps s0 (copy s) := by
  unfold copy
  try dsimp only
  repeat' first | with_reducible assumption | intro _ | with_reducible apply State.withHead_keeps | with_reducible apply State.orFail_keeps | with_reducible apply State.complete_keeps | with_reducible apply State.storeAll_keeps

theorem fill_keeps {s0 s : State} (h : Keeps s0 s) :
    Keeps s0 (fill s) := by
  unfold fill
  try dsimp only
  repeat' first | with_reducible assumption | intro _ | with_reducible apply State.withHead_keeps | with_reducible apply State.orFail_keeps | with_reducible apply State.complete_keeps | with_reducible apply State.storeAll_keeps | with_reducible apply Keeps.getD

theorem gather_keeps {s0 s : State} (h : Keeps s0 s) :
    Keeps s0 (gather s) := by
  unfold gather
  try dsimp only
  repeat' first | with_reducible assumption | intro _ | with_reducible apply State.withHead_keeps | with_reducible apply State.orFail_keeps | with_reducible apply State.orIndex_keeps | with_reducible apply State.complete_keeps | with_reducible apply State.storeAll_keeps

theorem pool_keeps {s0 s : State} (h : Keeps s0 s) :
    Keeps s0 (pool s) := by
  unfold pool
  try dsimp only
  repeat' first | with_reducible assumption | intro _ | with_reducible apply State.withHead_keeps | with_reducible apply State.orFail_keeps | with_reducible apply State.orIndex_keeps | with_reducible apply State.complete_keeps | with_reducible apply State.storeAll_keeps

theorem reduce_keeps {s0 s : State} (h : Keeps s0 s) :
    Keeps s0 (reduce s) := by
  unfold reduce
  try dsimp only
  repeat' first | with_reducible assumption | intro _ | with_reducible apply State.withHead_keeps | with_reducible apply State.orFail_keeps | with_reducible apply State.complete_keeps | with_reducible apply State.storeAll_keeps

theorem State.hostReadEnds_keeps {s0 s : State} {x1 x2} (h : Keeps s0 s) :
    Keeps s0 (State.hostReadEnds s x1 x2) := by
  unfold State.hostReadEnds
  try dsimp only
  repeat' first | with_reducible assumption | split | with_reducible apply State.complete_keeps | with_reducible apply State.storeAll_keeps | with_reducible apply Keeps.ite

theorem hostRead_keeps {s0 s : State} {x0} (h : Keeps s0 s) :
    Keeps s0 (hostRead x0 s) := by
  unfold hostRead
  try dsimp only
  repeat' first | with_reducible assumption | split | intro _ | with_reducible apply State.hostReadEnds_keeps | with_reducible apply State.withHead_keeps | with_reducible apply State.orFail_keeps | with_reducible apply State.emit_keeps | with_reducible apply State.addLive_keeps | with_reducible apply Keeps.ite

theorem State.hostWriteEnds_keeps {s0 s : State} {x1 x2} (h : Keeps s0 s) :
    Keeps s0 (State.hostWriteEnds s x1 x2) := by
  unfold State.hostWriteEnds
  try dsimp only
  repeat' first | with_reducible assumption | split | with_reducible apply State.complete_keeps | with_reducible apply Keeps.ite

theorem hostWrite_keeps {s0 s : State} {x0} (h : Keeps s0 s) :
    Keeps s0 (hostWrite x0 s) := by
  unfold hostWrite
  try dsimp only
  repeat' first | with_reducible assumption | split | intro _ | with_reducible apply State.hostWriteEnds_keeps | with_reducible apply State.withHead_keeps | with_reducible apply State.orFail_keeps | with_reducible apply State.emit_keeps | with_reducible apply State.addLive_keeps | with_reducible apply Keeps.ite

theorem digest_keeps {s0 s : State} (h : Keeps s0 s) :
    Keeps s0 (digest s) := by
  unfold digest
  try dsimp only
  repeat' first | with_reducible assumption | intro _ | with_reducible apply State.withHead_keeps | with_reducible apply State.orFail_keeps | with_reducible apply State.complete_keeps | with_reducible apply State.storeAll_keeps

theorem audit_keeps {s0 s : State} (h : Keeps s0 s) :
    Keeps s0 (audit s) := by
  unfold audit
  try dsimp only
  repeat' first | with_reducible assumption | simp only [Keeps.mk_iff] | split | intro _ | with_reducible apply State.withHead_keeps | with_reducible apply State.orFail_keeps | with_reducible apply State.complete_keeps | with_reducible apply State.jobEvent_keeps | with_reducible apply Keeps.ite

end Sys2Proof.Machine
end

