-- ==== Sys2Proof/Laws/KeepsRings.lean ====
section
/-!
SUPPORT. Every operation of Machine/Rings.lean keeps the queue, and memory in its canonical form.
-/

set_option linter.unusedSimpArgs false
set_option linter.unreachableTactic false
set_option linter.unusedTactic false

namespace Sys2Proof.Machine

theorem doorbellWrite_keeps {s0 s : State} {x0 x1} (h : Keeps s0 s) :
    Keeps s0 (doorbellWrite x0 x1 s) := by
  unfold doorbellWrite
  try dsimp only
  repeat' first | with_reducible assumption | simp only [Keeps.mk_iff] | split | intro _ | with_reducible apply State.event_keeps | with_reducible apply State.modRing_keeps | with_reducible apply Keeps.ite

theorem State.refuseFetched_keeps {s0 s : State} {x1 x2 x3 x4} (h : Keeps s0 s) :
    Keeps s0 (State.refuseFetched s x1 x2 x3 x4) := by
  unfold State.refuseFetched
  try dsimp only
  repeat' first | with_reducible assumption | simp only [Keeps.mk_iff] | split | intro _ | with_reducible apply State.modEng_keeps | with_reducible apply State.completeRefused_keeps | with_reducible apply Keeps.ite

theorem State.readDescriptor_keeps {s0 s : State} {x1} (h : Keeps s0 s) :
    Keeps s0 (State.readDescriptor s x1) := by
  unfold State.readDescriptor
  try dsimp only
  repeat' first | with_reducible assumption | with_reducible apply State.emit_keeps

theorem State.fetchCheck_job {s : State} {c} (h : s.fetchCheck c = none) : c.job < 8 := by
  simp only [State.fetchCheck, firstFail, List.findSome?_eq_none_iff] at h
  have k := h _ (List.mem_cons_of_mem _ List.mem_cons_self)
  simp only [id, need] at k
  split at k
  next e => simp only [Bool.and_eq_true, decide_eq_true_eq] at e; exact e.1
  next => cases k

theorem descriptorFetch_keeps {s0 s : State} {x0 x1} (h : Keeps s0 s) :
    Keeps s0 (descriptorFetch x0 x1 s) := by
  unfold descriptorFetch
  try dsimp only
  repeat' first | with_reducible assumption | split | with_reducible apply State.modRing_keeps | with_reducible apply State.readDescriptor_keeps | with_reducible apply State.completeClosed_keeps | with_reducible apply State.refuseFetched_keeps | with_reducible refine State.enqueue_keeps ?_ (State.fetchCheck_job ‹_›)

theorem cqHeadWrite_keeps {s0 s : State} {x0 x1 x2} (h : Keeps s0 s) :
    Keeps s0 (cqHeadWrite x0 x1 x2 s) := by
  unfold cqHeadWrite
  try dsimp only
  repeat' first | with_reducible assumption | simp only [Keeps.mk_iff] | split | intro _ | with_reducible apply State.modRing_keeps | with_reducible apply Keeps.ite

theorem interruptCoalesceTimeout_keeps {s0 s : State} {x0} (h : Keeps s0 s) :
    Keeps s0 (interruptCoalesceTimeout x0 s) := by
  unfold interruptCoalesceTimeout
  try dsimp only
  repeat' first | with_reducible assumption | split | with_reducible apply State.ringInterrupt_keeps | with_reducible apply Keeps.ite

end Sys2Proof.Machine
end

