-- ==== Sys2Proof/Laws/KeepsRegisters.lean ====
section
/-!
SUPPORT. Every operation of Machine/Registers.lean keeps the queue, and memory in its canonical form.
-/

set_option linter.unusedSimpArgs false
set_option linter.unreachableTactic false
set_option linter.unusedTactic false

namespace Sys2Proof.Machine

theorem writeBootCfg_keeps {s0 s : State} {x0 x1} (h : Keeps s0 s) :
    Keeps s0 (writeBootCfg x0 x1 s) := by
  unfold writeBootCfg
  try dsimp only
  repeat' first | with_reducible assumption | simp only [Keeps.mk_iff] | split | with_reducible apply repairRebuild_keeps | with_reducible apply Keeps.ite

theorem writeMboxCtrl_keeps {s0 s : State} {x0 x1} (h : Keeps s0 s) :
    Keeps s0 (writeMboxCtrl x0 x1 s) := by
  unfold writeMboxCtrl
  try dsimp only
  repeat' first | with_reducible assumption | split | with_reducible apply bootMboxLengthWrite_keeps | with_reducible apply bootMboxCommit_keeps | with_reducible apply Keeps.ite

theorem writeBiasCmd_keeps {s0 s : State} {x0 x1} (h : Keeps s0 s) :
    Keeps s0 (writeBiasCmd x0 x1 s) := by
  unfold writeBiasCmd
  try dsimp only
  repeat' first | with_reducible assumption | with_reducible apply biasFlip_keeps

theorem writeJobCtl_keeps {s0 s : State} {j x1 x2} (h : Keeps s0 s) (hj : j < 8) : Keeps s0 (writeJobCtl j x1 x2 s) := by
  unfold writeJobCtl
  try dsimp only
  repeat' first | with_reducible assumption | split | with_reducible apply kill_keeps | with_reducible apply resume_keeps | with_reducible refine preempt_keeps ?_ hj

theorem writeGlb_keeps {s0 s : State} {x0 x1 x2} (h : Keeps s0 s) :
    Keeps s0 (writeGlb x0 x1 x2 s) := by
  unfold writeGlb
  dsimp only
  split
  · split
    · exact cqHeadWrite_keeps h
    · exact State.modRing_keeps h
  · split
    next e =>
      simp only [inArray, Bool.and_eq_true, decide_eq_true_eq] at e
      exact writeJobCtl_keeps h (by omega)
    next =>
      repeat' first | with_reducible assumption | simp only [Keeps.mk_iff] | split | with_reducible apply writeBootCfg_keeps | with_reducible apply writeMboxCtrl_keeps | with_reducible apply bootMboxDataWrite_keeps | with_reducible apply writeBiasCmd_keeps | with_reducible apply wmbCtrlLengthWrite_keeps | with_reducible apply wmbDataWrite_keeps

theorem writeBldCmd_keeps {s0 s : State} {x0 x1 x2} (h : Keeps s0 s) :
    Keeps s0 (writeBldCmd x0 x1 x2 s) := by
  unfold writeBldCmd
  try dsimp only
  repeat' first | with_reducible assumption | split | with_reducible apply blendClaim_keeps | with_reducible apply blendLoad_keeps | with_reducible apply blendApply_keeps | with_reducible apply blendCancel_keeps | with_reducible apply blendRelease_keeps | with_reducible apply Keeps.ite

theorem writeBld_keeps {s0 s : State} {x0 x1 x2 x3} (h : Keeps s0 s) :
    Keeps s0 (writeBld x0 x1 x2 x3 s) := by
  unfold writeBld
  try dsimp only
  repeat' first | with_reducible assumption | simp only [Keeps.mk_iff] | split | intro _ | with_reducible apply writeBldCmd_keeps | with_reducible apply State.modBld_keeps | with_reducible apply Keeps.ite

theorem writeHtm_keeps {s0 s : State} {x0 x1 x2 x3} (h : Keeps s0 s) :
    Keeps s0 (writeHtm x0 x1 x2 x3 s) := by
  unfold writeHtm
  try dsimp only
  repeat' first | with_reducible assumption | simp only [Keeps.mk_iff] | split | with_reducible apply htTmrCmpWrite_keeps | with_reducible apply htTmrCtlWrite_keeps | with_reducible apply Keeps.ite

theorem writeKtl_keeps {s0 s : State} {x0 x1 x2} (h : Keeps s0 s) :
    Keeps s0 (writeKtl x0 x1 x2 s) := by
  unfold writeKtl
  try dsimp only
  repeat' first | with_reducible assumption | simp only [Keeps.mk_iff] | split | with_reducible apply Keeps.ite

theorem writeLog_keeps {s0 s : State} {x0 x1 x2} (h : Keeps s0 s) :
    Keeps s0 (writeLog x0 x1 x2 s) := by
  unfold writeLog
  try dsimp only
  repeat' first | with_reducible assumption | simp only [Keeps.mk_iff] | split | with_reducible apply logRdWrite_keeps | with_reducible apply Keeps.ite

theorem writeEvt_keeps {s0 s : State} {x0 x1 x2} (h : Keeps s0 s) :
    Keeps s0 (writeEvt x0 x1 x2 s) := by
  unfold writeEvt
  try dsimp only
  repeat' first | with_reducible assumption | simp only [Keeps.mk_iff] | intro _ | with_reducible apply State.modEng_keeps

theorem writePfx_keeps {s0 s : State} {x0 x1 x2} (h : Keeps s0 s) :
    Keeps s0 (writePfx x0 x1 x2 s) := by
  unfold writePfx
  try dsimp only
  repeat' first | with_reducible assumption | simp only [Keeps.mk_iff] | split | with_reducible apply tenantKeyLoad_keeps | with_reducible apply writeEvt_keeps | with_reducible apply Keeps.ite

theorem writeFab_keeps {s0 s : State} {x0 x1 x2} (h : Keeps s0 s) :
    Keeps s0 (writeFab x0 x1 x2 s) := by
  unfold writeFab
  try dsimp only
  repeat' first | with_reducible assumption | simp only [Keeps.mk_iff] | split | with_reducible apply Keeps.ite

theorem writeCore_keeps {s0 s : State} {x0 x1 x2 x3} (h : Keeps s0 s) :
    Keeps s0 (writeCore x0 x1 x2 x3 s) := by
  unfold writeCore
  try dsimp only
  repeat' first | with_reducible assumption | simp only [Keeps.mk_iff] | split | intro _ | with_reducible apply State.modCore_keeps | with_reducible apply coreModeWrite_keeps | with_reducible apply Keeps.ite

theorem writeComponent_keeps {s0 s : State} {x0 x1 x2} (h : Keeps s0 s) :
    Keeps s0 (writeComponent x0 x1 x2 s) := by
  unfold writeComponent
  try dsimp only
  repeat' first | with_reducible assumption | simp only [Keeps.mk_iff]

theorem writeVector_keeps {s0 s : State} {x0 x1 x2 x3} (h : Keeps s0 s) :
    Keeps s0 (writeVector x0 x1 x2 x3 s) := by
  unfold writeVector
  try dsimp only
  repeat' first | with_reducible assumption | simp only [Keeps.mk_iff] | split | with_reducible apply State.msix_keeps | with_reducible apply State.setVectorPending_keeps | with_reducible apply Keeps.ite

theorem State.writeReg_keeps {s0 s : State} {x1 x2 x3 x4} (h : Keeps s0 s) :
    Keeps s0 (State.writeReg s x1 x2 x3 x4) := by
  unfold State.writeReg
  try dsimp only
  repeat' first | with_reducible assumption | simp only [Keeps.mk_iff] | split | intro _ | with_reducible apply stFieldWrite_keeps | with_reducible apply writeVector_keeps | with_reducible apply writeComponent_keeps | with_reducible apply writeCore_keeps | with_reducible apply State.modPort_keeps | with_reducible apply writeGlb_keeps | with_reducible apply writeBld_keeps | with_reducible apply writeHtm_keeps | with_reducible apply writeKtl_keeps | with_reducible apply writeLog_keeps | with_reducible apply writeEvt_keeps | with_reducible apply writePfx_keeps | with_reducible apply writeFab_keeps | with_reducible apply Keeps.ite

theorem State.sidebandStands_keeps {s0 s : State} {x1} (h : Keeps s0 s) :
    Keeps s0 (State.sidebandStands s x1) := by
  unfold State.sidebandStands
  try dsimp only
  repeat' first | with_reducible assumption | split | with_reducible apply State.writeReg_keeps | with_reducible apply Keeps.ite

theorem registerWrite_keeps {s0 s : State} {x0 x1 x2 x3} (h : Keeps s0 s) :
    Keeps s0 (registerWrite x0 x1 x2 x3 s) := by
  unfold registerWrite
  try dsimp only
  repeat' first | with_reducible assumption | split | with_reducible apply State.writeReg_keeps | with_reducible apply State.sidebandStands_keeps | with_reducible apply State.emit_keeps | with_reducible apply Keeps.ite

end Sys2Proof.Machine
end

