-- ==== Sys2Proof/Laws/KeepsSideband.lean ====
section
/-!
SUPPORT. Every operation of Machine/Sideband.lean keeps the queue, and memory in its canonical form.
-/

set_option linter.unusedSimpArgs false
set_option linter.unreachableTactic false
set_option linter.unusedTactic false

namespace Sys2Proof.Machine

theorem i3cSetdasa_keeps {s0 s : State} {x0 x1} (h : Keeps s0 s) :
    Keeps s0 (i3cSetdasa x0 x1 s) := by
  unfold i3cSetdasa
  try dsimp only
  repeat' first | with_reducible assumption | simp only [Keeps.mk_iff] | split | with_reducible apply Keeps.ite

theorem State.standbyWrite_keeps {s0 s : State} {x1 x2} (h : Keeps s0 s) :
    Keeps s0 (State.standbyWrite s x1 x2) := by
  unfold State.standbyWrite
  try dsimp only
  repeat' first | with_reducible assumption | simp only [Keeps.mk_iff] | split | with_reducible apply Keeps.ite

theorem i3cRegisterWrite_keeps {s0 s : State} {x0 x1} (h : Keeps s0 s) :
    Keeps s0 (i3cRegisterWrite x0 x1 s) := by
  unfold i3cRegisterWrite
  try dsimp only
  repeat' first | with_reducible assumption | simp only [Keeps.mk_iff] | split | with_reducible apply State.standbyWrite_keeps | with_reducible apply State.writeReg_keeps | with_reducible apply State.writeIgnored_keeps | with_reducible apply Keeps.ite

theorem i3cRegisterRead_keeps {s0 s : State} {x0} (h : Keeps s0 s) :
    Keeps s0 (i3cRegisterRead x0 s) := by
  unfold i3cRegisterRead
  try dsimp only
  repeat' first | with_reducible assumption | split | with_reducible apply State.emit_keeps | with_reducible apply wmbRdataRead_keeps | with_reducible apply Keeps.ite

theorem jtagTapAccess_keeps {s0 s : State} {x0} (h : Keeps s0 s) :
    Keeps s0 (jtagTapAccess x0 s) := by
  unfold jtagTapAccess
  try dsimp only
  repeat' first | with_reducible assumption | simp only [Keeps.mk_iff] | split | with_reducible apply State.emit_keeps | with_reducible apply Keeps.ite

end Sys2Proof.Machine
end

