-- ==== Sys2Proof/Laws/KeepsTick.lean ====
section
/-!
SUPPORT. Every operation of Machine/Tick.lean keeps the queue, and memory in its canonical form.
-/

set_option linter.unusedSimpArgs false
set_option linter.unreachableTactic false
set_option linter.unusedTactic false

namespace Sys2Proof.Machine

theorem State.fillPosition_keeps {s0 s : State} {x1} (h : Keeps s0 s) :
    Keeps s0 (State.fillPosition s x1) := by
  unfold State.fillPosition
  try dsimp only
  repeat' first | with_reducible assumption | split | with_reducible apply State.sendLctl_keeps | with_reducible apply State.sendOne_keeps | with_reducible apply State.sendRetry_keeps | with_reducible apply State.sendAgain_keeps | with_reducible apply Keeps.ite

theorem State.positions_keeps {s0 s : State} (h : Keeps s0 s) :
    Keeps s0 (State.positions s) := by
  unfold State.positions
  try dsimp only
  repeat' first | with_reducible assumption | simp only [Keeps.mk_iff] | split | intro _ | with_reducible apply State.fillPosition_keeps | with_reducible apply Keeps.foldl | with_reducible apply Keeps.foldlFst | with_reducible apply Keeps.ite

theorem State.tick_keeps {s0 s : State} (h : Keeps s0 s) :
    Keeps s0 (State.tick s) := by
  unfold State.tick
  try dsimp only
  repeat' first | with_reducible assumption | simp only [Keeps.mk_iff] | split | intro _ | with_reducible apply State.logTick_keeps | with_reducible apply State.endSwaps_keeps | with_reducible apply State.positions_keeps | with_reducible apply State.serveWaiting_keeps | with_reducible apply Keeps.ite

end Sys2Proof.Machine
end

