-- ==== Sys2Proof/Laws/State.lean ====
section
/-!
SUPPORT. The fields of the state: one lemma for each field that an update of Machine/ leaves as it was, so that no proof
unfolds a record update; and what the updates write.
-/

namespace Sys2Proof.Machine

variable {s : State}

/-! ### emit -/

@[simp] theorem State.emit_pending {o : Output} : (s.emit o).pending = s.pending := rfl
@[simp] theorem State.emit_pwr {o : Output} : (s.emit o).pwr = s.pwr := rfl
@[simp] theorem State.emit_clk {o : Output} : (s.emit o).clk = s.clk := rfl
@[simp] theorem State.emit_fuse {o : Output} : (s.emit o).fuse = s.fuse := rfl
@[simp] theorem State.emit_boot {o : Output} : (s.emit o).boot = s.boot := rfl
@[simp] theorem State.emit_ht {o : Output} : (s.emit o).ht = s.ht := rfl
@[simp] theorem State.emit_bld {o : Output} : (s.emit o).bld = s.bld := rfl
@[simp] theorem State.emit_mem {o : Output} : (s.emit o).mem = s.mem := rfl
@[simp] theorem State.emit_jobs {o : Output} : (s.emit o).jobs = s.jobs := rfl
@[simp] theorem State.emit_queues {o : Output} : (s.emit o).queues = s.queues := rfl
@[simp] theorem State.emit_pass {o : Output} : (s.emit o).pass = s.pass := rfl
@[simp] theorem State.emit_live {o : Output} : (s.emit o).live = s.live := rfl
@[simp] theorem State.emit_eng {o : Output} : (s.emit o).eng = s.eng := rfl
@[simp] theorem State.emit_rings {o : Output} : (s.emit o).rings = s.rings := rfl
@[simp] theorem State.emit_cores {o : Output} : (s.emit o).cores = s.cores := rfl
@[simp] theorem State.emit_urn {o : Output} : (s.emit o).urn = s.urn := rfl
@[simp] theorem State.emit_str {o : Output} : (s.emit o).str = s.str := rfl
@[simp] theorem State.emit_spt {o : Output} : (s.emit o).spt = s.spt := rfl
@[simp] theorem State.emit_ports {o : Output} : (s.emit o).ports = s.ports := rfl
@[simp] theorem State.emit_fab {o : Output} : (s.emit o).fab = s.fab := rfl
@[simp] theorem State.emit_col {o : Output} : (s.emit o).col = s.col := rfl
@[simp] theorem State.emit_scrubs {o : Output} : (s.emit o).scrubs = s.scrubs := rfl
@[simp] theorem State.emit_pools {o : Output} : (s.emit o).pools = s.pools := rfl
@[simp] theorem State.emit_cdyCheck {o : Output} : (s.emit o).cdyCheck = s.cdyCheck := rfl
@[simp] theorem State.emit_tin {o : Output} : (s.emit o).tin = s.tin := rfl
@[simp] theorem State.emit_upd {o : Output} : (s.emit o).upd = s.upd := rfl
@[simp] theorem State.emit_inf {o : Output} : (s.emit o).inf = s.inf := rfl
@[simp] theorem State.emit_pfx {o : Output} : (s.emit o).pfx = s.pfx := rfl
@[simp] theorem State.emit_host {o : Output} : (s.emit o).host = s.host := rfl
@[simp] theorem State.emit_irq {o : Output} : (s.emit o).irq = s.irq := rfl
@[simp] theorem State.emit_wdn {o : Output} : (s.emit o).wdn = s.wdn := rfl
@[simp] theorem State.emit_ktl {o : Output} : (s.emit o).ktl = s.ktl := rfl
@[simp] theorem State.emit_log {o : Output} : (s.emit o).log = s.log := rfl
@[simp] theorem State.emit_freeCount {o : Output} : (s.emit o).freeCount = s.freeCount := rfl

/-! ### setVectorPending -/

@[simp] theorem State.setVectorPending_pending {v : Nat} {b : Bool} : (s.setVectorPending v b).pending = s.pending := rfl
@[simp] theorem State.setVectorPending_pwr {v : Nat} {b : Bool} : (s.setVectorPending v b).pwr = s.pwr := rfl
@[simp] theorem State.setVectorPending_clk {v : Nat} {b : Bool} : (s.setVectorPending v b).clk = s.clk := rfl
@[simp] theorem State.setVectorPending_fuse {v : Nat} {b : Bool} : (s.setVectorPending v b).fuse = s.fuse := rfl
@[simp] theorem State.setVectorPending_boot {v : Nat} {b : Bool} : (s.setVectorPending v b).boot = s.boot := rfl
@[simp] theorem State.setVectorPending_ht {v : Nat} {b : Bool} : (s.setVectorPending v b).ht = s.ht := rfl
@[simp] theorem State.setVectorPending_bld {v : Nat} {b : Bool} : (s.setVectorPending v b).bld = s.bld := rfl
@[simp] theorem State.setVectorPending_mem {v : Nat} {b : Bool} : (s.setVectorPending v b).mem = s.mem := rfl
@[simp] theorem State.setVectorPending_jobs {v : Nat} {b : Bool} : (s.setVectorPending v b).jobs = s.jobs := rfl
@[simp] theorem State.setVectorPending_queues {v : Nat} {b : Bool} : (s.setVectorPending v b).queues = s.queues := rfl
@[simp] theorem State.setVectorPending_pass {v : Nat} {b : Bool} : (s.setVectorPending v b).pass = s.pass := rfl
@[simp] theorem State.setVectorPending_live {v : Nat} {b : Bool} : (s.setVectorPending v b).live = s.live := rfl
@[simp] theorem State.setVectorPending_eng {v : Nat} {b : Bool} : (s.setVectorPending v b).eng = s.eng := rfl
@[simp] theorem State.setVectorPending_rings {v : Nat} {b : Bool} : (s.setVectorPending v b).rings = s.rings := rfl
@[simp] theorem State.setVectorPending_cores {v : Nat} {b : Bool} : (s.setVectorPending v b).cores = s.cores := rfl
@[simp] theorem State.setVectorPending_urn {v : Nat} {b : Bool} : (s.setVectorPending v b).urn = s.urn := rfl
@[simp] theorem State.setVectorPending_str {v : Nat} {b : Bool} : (s.setVectorPending v b).str = s.str := rfl
@[simp] theorem State.setVectorPending_spt {v : Nat} {b : Bool} : (s.setVectorPending v b).spt = s.spt := rfl
@[simp] theorem State.setVectorPending_ports {v : Nat} {b : Bool} : (s.setVectorPending v b).ports = s.ports := rfl
@[simp] theorem State.setVectorPending_fab {v : Nat} {b : Bool} : (s.setVectorPending v b).fab = s.fab := rfl
@[simp] theorem State.setVectorPending_col {v : Nat} {b : Bool} : (s.setVectorPending v b).col = s.col := rfl
@[simp] theorem State.setVectorPending_scrubs {v : Nat} {b : Bool} : (s.setVectorPending v b).scrubs = s.scrubs := rfl
@[simp] theorem State.setVectorPending_pools {v : Nat} {b : Bool} : (s.setVectorPending v b).pools = s.pools := rfl
@[simp] theorem State.setVectorPending_cdyCheck {v : Nat} {b : Bool} : (s.setVectorPending v b).cdyCheck = s.cdyCheck := rfl
@[simp] theorem State.setVectorPending_tin {v : Nat} {b : Bool} : (s.setVectorPending v b).tin = s.tin := rfl
@[simp] theorem State.setVectorPending_upd {v : Nat} {b : Bool} : (s.setVectorPending v b).upd = s.upd := rfl
@[simp] theorem State.setVectorPending_inf {v : Nat} {b : Bool} : (s.setVectorPending v b).inf = s.inf := rfl
@[simp] theorem State.setVectorPending_pfx {v : Nat} {b : Bool} : (s.setVectorPending v b).pfx = s.pfx := rfl
@[simp] theorem State.setVectorPending_host {v : Nat} {b : Bool} : (s.setVectorPending v b).host = s.host := rfl
@[simp] theorem State.setVectorPending_wdn {v : Nat} {b : Bool} : (s.setVectorPending v b).wdn = s.wdn := rfl
@[simp] theorem State.setVectorPending_ktl {v : Nat} {b : Bool} : (s.setVectorPending v b).ktl = s.ktl := rfl
@[simp] theorem State.setVectorPending_log {v : Nat} {b : Bool} : (s.setVectorPending v b).log = s.log := rfl
@[simp] theorem State.setVectorPending_freeCount {v : Nat} {b : Bool} : (s.setVectorPending v b).freeCount = s.freeCount := rfl
@[simp] theorem State.setVectorPending_out {v : Nat} {b : Bool} : (s.setVectorPending v b).out = s.out := rfl

/-! ### msix -/

@[simp] theorem State.msix_pending {v : Nat} : (s.msix v).pending = s.pending := by
  unfold State.msix; repeat' split
  all_goals simp
@[simp] theorem State.msix_pwr {v : Nat} : (s.msix v).pwr = s.pwr := by
  unfold State.msix; repeat' split
  all_goals simp
@[simp] theorem State.msix_clk {v : Nat} : (s.msix v).clk = s.clk := by
  unfold State.msix; repeat' split
  all_goals simp
@[simp] theorem State.msix_fuse {v : Nat} : (s.msix v).fuse = s.fuse := by
  unfold State.msix; repeat' split
  all_goals simp
@[simp] theorem State.msix_boot {v : Nat} : (s.msix v).boot = s.boot := by
  unfold State.msix; repeat' split
  all_goals simp
@[simp] theorem State.msix_ht {v : Nat} : (s.msix v).ht = s.ht := by
  unfold State.msix; repeat' split
  all_goals simp
@[simp] theorem State.msix_bld {v : Nat} : (s.msix v).bld = s.bld := by
  unfold State.msix; repeat' split
  all_goals simp
@[simp] theorem State.msix_mem {v : Nat} : (s.msix v).mem = s.mem := by
  unfold State.msix; repeat' split
  all_goals simp
@[simp] theorem State.msix_jobs {v : Nat} : (s.msix v).jobs = s.jobs := by
  unfold State.msix; repeat' split
  all_goals simp
@[simp] theorem State.msix_queues {v : Nat} : (s.msix v).queues = s.queues := by
  unfold State.msix; repeat' split
  all_goals simp
@[simp] theorem State.msix_pass {v : Nat} : (s.msix v).pass = s.pass := by
  unfold State.msix; repeat' split
  all_goals simp
@[simp] theorem State.msix_live {v : Nat} : (s.msix v).live = s.live := by
  unfold State.msix; repeat' split
  all_goals simp
@[simp] theorem State.msix_eng {v : Nat} : (s.msix v).eng = s.eng := by
  unfold State.msix; repeat' split
  all_goals simp
@[simp] theorem State.msix_rings {v : Nat} : (s.msix v).rings = s.rings := by
  unfold State.msix; repeat' split
  all_goals simp
@[simp] theorem State.msix_cores {v : Nat} : (s.msix v).cores = s.cores := by
  unfold State.msix; repeat' split
  all_goals simp
@[simp] theorem State.msix_urn {v : Nat} : (s.msix v).urn = s.urn := by
  unfold State.msix; repeat' split
  all_goals simp
@[simp] theorem State.msix_str {v : Nat} : (s.msix v).str = s.str := by
  unfold State.msix; repeat' split
  all_goals simp
@[simp] theorem State.msix_spt {v : Nat} : (s.msix v).spt = s.spt := by
  unfold State.msix; repeat' split
  all_goals simp
@[simp] theorem State.msix_ports {v : Nat} : (s.msix v).ports = s.ports := by
  unfold State.msix; repeat' split
  all_goals simp
@[simp] theorem State.msix_fab {v : Nat} : (s.msix v).fab = s.fab := by
  unfold State.msix; repeat' split
  all_goals simp
@[simp] theorem State.msix_col {v : Nat} : (s.msix v).col = s.col := by
  unfold State.msix; repeat' split
  all_goals simp
@[simp] theorem State.msix_scrubs {v : Nat} : (s.msix v).scrubs = s.scrubs := by
  unfold State.msix; repeat' split
  all_goals simp
@[simp] theorem State.msix_pools {v : Nat} : (s.msix v).pools = s.pools := by
  unfold State.msix; repeat' split
  all_goals simp
@[simp] theorem State.msix_cdyCheck {v : Nat} : (s.msix v).cdyCheck = s.cdyCheck := by
  unfold State.msix; repeat' split
  all_goals simp
@[simp] theorem State.msix_tin {v : Nat} : (s.msix v).tin = s.tin := by
  unfold State.msix; repeat' split
  all_goals simp
@[simp] theorem State.msix_upd {v : Nat} : (s.msix v).upd = s.upd := by
  unfold State.msix; repeat' split
  all_goals simp
@[simp] theorem State.msix_inf {v : Nat} : (s.msix v).inf = s.inf := by
  unfold State.msix; repeat' split
  all_goals simp
@[simp] theorem State.msix_pfx {v : Nat} : (s.msix v).pfx = s.pfx := by
  unfold State.msix; repeat' split
  all_goals simp
@[simp] theorem State.msix_host {v : Nat} : (s.msix v).host = s.host := by
  unfold State.msix; repeat' split
  all_goals simp
@[simp] theorem State.msix_wdn {v : Nat} : (s.msix v).wdn = s.wdn := by
  unfold State.msix; repeat' split
  all_goals simp
@[simp] theorem State.msix_ktl {v : Nat} : (s.msix v).ktl = s.ktl := by
  unfold State.msix; repeat' split
  all_goals simp
@[simp] theorem State.msix_log {v : Nat} : (s.msix v).log = s.log := by
  unfold State.msix; repeat' split
  all_goals simp
@[simp] theorem State.msix_freeCount {v : Nat} : (s.msix v).freeCount = s.freeCount := by
  unfold State.msix; repeat' split
  all_goals simp

/-! ### deviceEvent -/

@[simp] theorem State.deviceEvent_pending : (s.deviceEvent).pending = s.pending := by simp [State.deviceEvent]
@[simp] theorem State.deviceEvent_pwr : (s.deviceEvent).pwr = s.pwr := by simp [State.deviceEvent]
@[simp] theorem State.deviceEvent_clk : (s.deviceEvent).clk = s.clk := by simp [State.deviceEvent]
@[simp] theorem State.deviceEvent_fuse : (s.deviceEvent).fuse = s.fuse := by simp [State.deviceEvent]
@[simp] theorem State.deviceEvent_boot : (s.deviceEvent).boot = s.boot := by simp [State.deviceEvent]
@[simp] theorem State.deviceEvent_ht : (s.deviceEvent).ht = s.ht := by simp [State.deviceEvent]
@[simp] theorem State.deviceEvent_bld : (s.deviceEvent).bld = s.bld := by simp [State.deviceEvent]
@[simp] theorem State.deviceEvent_mem : (s.deviceEvent).mem = s.mem := by simp [State.deviceEvent]
@[simp] theorem State.deviceEvent_jobs : (s.deviceEvent).jobs = s.jobs := by simp [State.deviceEvent]
@[simp] theorem State.deviceEvent_queues : (s.deviceEvent).queues = s.queues := by simp [State.deviceEvent]
@[simp] theorem State.deviceEvent_pass : (s.deviceEvent).pass = s.pass := by simp [State.deviceEvent]
@[simp] theorem State.deviceEvent_live : (s.deviceEvent).live = s.live := by simp [State.deviceEvent]
@[simp] theorem State.deviceEvent_eng : (s.deviceEvent).eng = s.eng := by simp [State.deviceEvent]
@[simp] theorem State.deviceEvent_rings : (s.deviceEvent).rings = s.rings := by simp [State.deviceEvent]
@[simp] theorem State.deviceEvent_cores : (s.deviceEvent).cores = s.cores := by simp [State.deviceEvent]
@[simp] theorem State.deviceEvent_urn : (s.deviceEvent).urn = s.urn := by simp [State.deviceEvent]
@[simp] theorem State.deviceEvent_str : (s.deviceEvent).str = s.str := by simp [State.deviceEvent]
@[simp] theorem State.deviceEvent_spt : (s.deviceEvent).spt = s.spt := by simp [State.deviceEvent]
@[simp] theorem State.deviceEvent_ports : (s.deviceEvent).ports = s.ports := by simp [State.deviceEvent]
@[simp] theorem State.deviceEvent_fab : (s.deviceEvent).fab = s.fab := by simp [State.deviceEvent]
@[simp] theorem State.deviceEvent_col : (s.deviceEvent).col = s.col := by simp [State.deviceEvent]
@[simp] theorem State.deviceEvent_scrubs : (s.deviceEvent).scrubs = s.scrubs := by simp [State.deviceEvent]
@[simp] theorem State.deviceEvent_pools : (s.deviceEvent).pools = s.pools := by simp [State.deviceEvent]
@[simp] theorem State.deviceEvent_cdyCheck : (s.deviceEvent).cdyCheck = s.cdyCheck := by simp [State.deviceEvent]
@[simp] theorem State.deviceEvent_tin : (s.deviceEvent).tin = s.tin := by simp [State.deviceEvent]
@[simp] theorem State.deviceEvent_upd : (s.deviceEvent).upd = s.upd := by simp [State.deviceEvent]
@[simp] theorem State.deviceEvent_inf : (s.deviceEvent).inf = s.inf := by simp [State.deviceEvent]
@[simp] theorem State.deviceEvent_pfx : (s.deviceEvent).pfx = s.pfx := by simp [State.deviceEvent]
@[simp] theorem State.deviceEvent_host : (s.deviceEvent).host = s.host := by simp [State.deviceEvent]
@[simp] theorem State.deviceEvent_wdn : (s.deviceEvent).wdn = s.wdn := by simp [State.deviceEvent]
@[simp] theorem State.deviceEvent_ktl : (s.deviceEvent).ktl = s.ktl := by simp [State.deviceEvent]
@[simp] theorem State.deviceEvent_log : (s.deviceEvent).log = s.log := by simp [State.deviceEvent]
@[simp] theorem State.deviceEvent_freeCount : (s.deviceEvent).freeCount = s.freeCount := by simp [State.deviceEvent]

/-! ### htEvent -/

@[simp] theorem State.htEvent_pending {b : Nat} : (s.htEvent b).pending = s.pending := by simp [State.htEvent]
@[simp] theorem State.htEvent_pwr {b : Nat} : (s.htEvent b).pwr = s.pwr := by simp [State.htEvent]
@[simp] theorem State.htEvent_clk {b : Nat} : (s.htEvent b).clk = s.clk := by simp [State.htEvent]
@[simp] theorem State.htEvent_fuse {b : Nat} : (s.htEvent b).fuse = s.fuse := by simp [State.htEvent]
@[simp] theorem State.htEvent_boot {b : Nat} : (s.htEvent b).boot = s.boot := by simp [State.htEvent]
@[simp] theorem State.htEvent_bld {b : Nat} : (s.htEvent b).bld = s.bld := by simp [State.htEvent]
@[simp] theorem State.htEvent_mem {b : Nat} : (s.htEvent b).mem = s.mem := by simp [State.htEvent]
@[simp] theorem State.htEvent_jobs {b : Nat} : (s.htEvent b).jobs = s.jobs := by simp [State.htEvent]
@[simp] theorem State.htEvent_queues {b : Nat} : (s.htEvent b).queues = s.queues := by simp [State.htEvent]
@[simp] theorem State.htEvent_pass {b : Nat} : (s.htEvent b).pass = s.pass := by simp [State.htEvent]
@[simp] theorem State.htEvent_live {b : Nat} : (s.htEvent b).live = s.live := by simp [State.htEvent]
@[simp] theorem State.htEvent_eng {b : Nat} : (s.htEvent b).eng = s.eng := by simp [State.htEvent]
@[simp] theorem State.htEvent_rings {b : Nat} : (s.htEvent b).rings = s.rings := by simp [State.htEvent]
@[simp] theorem State.htEvent_cores {b : Nat} : (s.htEvent b).cores = s.cores := by simp [State.htEvent]
@[simp] theorem State.htEvent_urn {b : Nat} : (s.htEvent b).urn = s.urn := by simp [State.htEvent]
@[simp] theorem State.htEvent_str {b : Nat} : (s.htEvent b).str = s.str := by simp [State.htEvent]
@[simp] theorem State.htEvent_spt {b : Nat} : (s.htEvent b).spt = s.spt := by simp [State.htEvent]
@[simp] theorem State.htEvent_ports {b : Nat} : (s.htEvent b).ports = s.ports := by simp [State.htEvent]
@[simp] theorem State.htEvent_fab {b : Nat} : (s.htEvent b).fab = s.fab := by simp [State.htEvent]
@[simp] theorem State.htEvent_col {b : Nat} : (s.htEvent b).col = s.col := by simp [State.htEvent]
@[simp] theorem State.htEvent_scrubs {b : Nat} : (s.htEvent b).scrubs = s.scrubs := by simp [State.htEvent]
@[simp] theorem State.htEvent_pools {b : Nat} : (s.htEvent b).pools = s.pools := by simp [State.htEvent]
@[simp] theorem State.htEvent_cdyCheck {b : Nat} : (s.htEvent b).cdyCheck = s.cdyCheck := by simp [State.htEvent]
@[simp] theorem State.htEvent_tin {b : Nat} : (s.htEvent b).tin = s.tin := by simp [State.htEvent]
@[simp] theorem State.htEvent_upd {b : Nat} : (s.htEvent b).upd = s.upd := by simp [State.htEvent]
@[simp] theorem State.htEvent_inf {b : Nat} : (s.htEvent b).inf = s.inf := by simp [State.htEvent]
@[simp] theorem State.htEvent_pfx {b : Nat} : (s.htEvent b).pfx = s.pfx := by simp [State.htEvent]
@[simp] theorem State.htEvent_host {b : Nat} : (s.htEvent b).host = s.host := by simp [State.htEvent]
@[simp] theorem State.htEvent_wdn {b : Nat} : (s.htEvent b).wdn = s.wdn := by simp [State.htEvent]
@[simp] theorem State.htEvent_ktl {b : Nat} : (s.htEvent b).ktl = s.ktl := by simp [State.htEvent]
@[simp] theorem State.htEvent_log {b : Nat} : (s.htEvent b).log = s.log := by simp [State.htEvent]
@[simp] theorem State.htEvent_freeCount {b : Nat} : (s.htEvent b).freeCount = s.freeCount := by simp [State.htEvent]

/-! ### setStep -/

@[simp] theorem State.setStep_pending {n : Nat} : (s.setStep n).pending = s.pending := by unfold State.setStep; split <;> simp
@[simp] theorem State.setStep_pwr {n : Nat} : (s.setStep n).pwr = s.pwr := by unfold State.setStep; split <;> simp
@[simp] theorem State.setStep_clk {n : Nat} : (s.setStep n).clk = s.clk := by unfold State.setStep; split <;> simp
@[simp] theorem State.setStep_fuse {n : Nat} : (s.setStep n).fuse = s.fuse := by unfold State.setStep; split <;> simp
@[simp] theorem State.setStep_ht {n : Nat} : (s.setStep n).ht = s.ht := by unfold State.setStep; split <;> simp
@[simp] theorem State.setStep_bld {n : Nat} : (s.setStep n).bld = s.bld := by unfold State.setStep; split <;> simp
@[simp] theorem State.setStep_mem {n : Nat} : (s.setStep n).mem = s.mem := by unfold State.setStep; split <;> simp
@[simp] theorem State.setStep_jobs {n : Nat} : (s.setStep n).jobs = s.jobs := by unfold State.setStep; split <;> simp
@[simp] theorem State.setStep_queues {n : Nat} : (s.setStep n).queues = s.queues := by unfold State.setStep; split <;> simp
@[simp] theorem State.setStep_pass {n : Nat} : (s.setStep n).pass = s.pass := by unfold State.setStep; split <;> simp
@[simp] theorem State.setStep_live {n : Nat} : (s.setStep n).live = s.live := by unfold State.setStep; split <;> simp
@[simp] theorem State.setStep_eng {n : Nat} : (s.setStep n).eng = s.eng := by unfold State.setStep; split <;> simp
@[simp] theorem State.setStep_rings {n : Nat} : (s.setStep n).rings = s.rings := by unfold State.setStep; split <;> simp
@[simp] theorem State.setStep_cores {n : Nat} : (s.setStep n).cores = s.cores := by unfold State.setStep; split <;> simp
@[simp] theorem State.setStep_urn {n : Nat} : (s.setStep n).urn = s.urn := by unfold State.setStep; split <;> simp
@[simp] theorem State.setStep_str {n : Nat} : (s.setStep n).str = s.str := by unfold State.setStep; split <;> simp
@[simp] theorem State.setStep_spt {n : Nat} : (s.setStep n).spt = s.spt := by unfold State.setStep; split <;> simp
@[simp] theorem State.setStep_ports {n : Nat} : (s.setStep n).ports = s.ports := by unfold State.setStep; split <;> simp
@[simp] theorem State.setStep_fab {n : Nat} : (s.setStep n).fab = s.fab := by unfold State.setStep; split <;> simp
@[simp] theorem State.setStep_col {n : Nat} : (s.setStep n).col = s.col := by unfold State.setStep; split <;> simp
@[simp] theorem State.setStep_scrubs {n : Nat} : (s.setStep n).scrubs = s.scrubs := by unfold State.setStep; split <;> simp
@[simp] theorem State.setStep_pools {n : Nat} : (s.setStep n).pools = s.pools := by unfold State.setStep; split <;> simp
@[simp] theorem State.setStep_cdyCheck {n : Nat} : (s.setStep n).cdyCheck = s.cdyCheck := by unfold State.setStep; split <;> simp
@[simp] theorem State.setStep_tin {n : Nat} : (s.setStep n).tin = s.tin := by unfold State.setStep; split <;> simp
@[simp] theorem State.setStep_upd {n : Nat} : (s.setStep n).upd = s.upd := by unfold State.setStep; split <;> simp
@[simp] theorem State.setStep_inf {n : Nat} : (s.setStep n).inf = s.inf := by unfold State.setStep; split <;> simp
@[simp] theorem State.setStep_pfx {n : Nat} : (s.setStep n).pfx = s.pfx := by unfold State.setStep; split <;> simp
@[simp] theorem State.setStep_host {n : Nat} : (s.setStep n).host = s.host := by unfold State.setStep; split <;> simp
@[simp] theorem State.setStep_wdn {n : Nat} : (s.setStep n).wdn = s.wdn := by unfold State.setStep; split <;> simp
@[simp] theorem State.setStep_ktl {n : Nat} : (s.setStep n).ktl = s.ktl := by unfold State.setStep; split <;> simp
@[simp] theorem State.setStep_log {n : Nat} : (s.setStep n).log = s.log := by unfold State.setStep; split <;> simp
@[simp] theorem State.setStep_freeCount {n : Nat} : (s.setStep n).freeCount = s.freeCount := by unfold State.setStep; split <;> simp

/-! ### setSlot -/

@[simp] theorem State.setSlot_pending {j : Nat} {f : JobSlot → JobSlot} : (s.setSlot j f).pending = s.pending := rfl
@[simp] theorem State.setSlot_pwr {j : Nat} {f : JobSlot → JobSlot} : (s.setSlot j f).pwr = s.pwr := rfl
@[simp] theorem State.setSlot_clk {j : Nat} {f : JobSlot → JobSlot} : (s.setSlot j f).clk = s.clk := rfl
@[simp] theorem State.setSlot_fuse {j : Nat} {f : JobSlot → JobSlot} : (s.setSlot j f).fuse = s.fuse := rfl
@[simp] theorem State.setSlot_boot {j : Nat} {f : JobSlot → JobSlot} : (s.setSlot j f).boot = s.boot := rfl
@[simp] theorem State.setSlot_ht {j : Nat} {f : JobSlot → JobSlot} : (s.setSlot j f).ht = s.ht := rfl
@[simp] theorem State.setSlot_bld {j : Nat} {f : JobSlot → JobSlot} : (s.setSlot j f).bld = s.bld := rfl
@[simp] theorem State.setSlot_mem {j : Nat} {f : JobSlot → JobSlot} : (s.setSlot j f).mem = s.mem := rfl
@[simp] theorem State.setSlot_queues {j : Nat} {f : JobSlot → JobSlot} : (s.setSlot j f).queues = s.queues := rfl
@[simp] theorem State.setSlot_pass {j : Nat} {f : JobSlot → JobSlot} : (s.setSlot j f).pass = s.pass := rfl
@[simp] theorem State.setSlot_live {j : Nat} {f : JobSlot → JobSlot} : (s.setSlot j f).live = s.live := rfl
@[simp] theorem State.setSlot_eng {j : Nat} {f : JobSlot → JobSlot} : (s.setSlot j f).eng = s.eng := rfl
@[simp] theorem State.setSlot_rings {j : Nat} {f : JobSlot → JobSlot} : (s.setSlot j f).rings = s.rings := rfl
@[simp] theorem State.setSlot_cores {j : Nat} {f : JobSlot → JobSlot} : (s.setSlot j f).cores = s.cores := rfl
@[simp] theorem State.setSlot_urn {j : Nat} {f : JobSlot → JobSlot} : (s.setSlot j f).urn = s.urn := rfl
@[simp] theorem State.setSlot_str {j : Nat} {f : JobSlot → JobSlot} : (s.setSlot j f).str = s.str := rfl
@[simp] theorem State.setSlot_spt {j : Nat} {f : JobSlot → JobSlot} : (s.setSlot j f).spt = s.spt := rfl
@[simp] theorem State.setSlot_ports {j : Nat} {f : JobSlot → JobSlot} : (s.setSlot j f).ports = s.ports := rfl
@[simp] theorem State.setSlot_fab {j : Nat} {f : JobSlot → JobSlot} : (s.setSlot j f).fab = s.fab := rfl
@[simp] theorem State.setSlot_col {j : Nat} {f : JobSlot → JobSlot} : (s.setSlot j f).col = s.col := rfl
@[simp] theorem State.setSlot_scrubs {j : Nat} {f : JobSlot → JobSlot} : (s.setSlot j f).scrubs = s.scrubs := rfl
@[simp] theorem State.setSlot_pools {j : Nat} {f : JobSlot → JobSlot} : (s.setSlot j f).pools = s.pools := rfl
@[simp] theorem State.setSlot_cdyCheck {j : Nat} {f : JobSlot → JobSlot} : (s.setSlot j f).cdyCheck = s.cdyCheck := rfl
@[simp] theorem State.setSlot_tin {j : Nat} {f : JobSlot → JobSlot} : (s.setSlot j f).tin = s.tin := rfl
@[simp] theorem State.setSlot_upd {j : Nat} {f : JobSlot → JobSlot} : (s.setSlot j f).upd = s.upd := rfl
@[simp] theorem State.setSlot_inf {j : Nat} {f : JobSlot → JobSlot} : (s.setSlot j f).inf = s.inf := rfl
@[simp] theorem State.setSlot_pfx {j : Nat} {f : JobSlot → JobSlot} : (s.setSlot j f).pfx = s.pfx := rfl
@[simp] theorem State.setSlot_host {j : Nat} {f : JobSlot → JobSlot} : (s.setSlot j f).host = s.host := rfl
@[simp] theorem State.setSlot_irq {j : Nat} {f : JobSlot → JobSlot} : (s.setSlot j f).irq = s.irq := rfl
@[simp] theorem State.setSlot_wdn {j : Nat} {f : JobSlot → JobSlot} : (s.setSlot j f).wdn = s.wdn := rfl
@[simp] theorem State.setSlot_ktl {j : Nat} {f : JobSlot → JobSlot} : (s.setSlot j f).ktl = s.ktl := rfl
@[simp] theorem State.setSlot_log {j : Nat} {f : JobSlot → JobSlot} : (s.setSlot j f).log = s.log := rfl
@[simp] theorem State.setSlot_freeCount {j : Nat} {f : JobSlot → JobSlot} : (s.setSlot j f).freeCount = s.freeCount := rfl
@[simp] theorem State.setSlot_out {j : Nat} {f : JobSlot → JobSlot} : (s.setSlot j f).out = s.out := rfl

/-! ### modEng -/

@[simp] theorem State.modEng_pending {u : Nat} {f : EngRegs → EngRegs} : (s.modEng u f).pending = s.pending := rfl
@[simp] theorem State.modEng_pwr {u : Nat} {f : EngRegs → EngRegs} : (s.modEng u f).pwr = s.pwr := rfl
@[simp] theorem State.modEng_clk {u : Nat} {f : EngRegs → EngRegs} : (s.modEng u f).clk = s.clk := rfl
@[simp] theorem State.modEng_fuse {u : Nat} {f : EngRegs → EngRegs} : (s.modEng u f).fuse = s.fuse := rfl
@[simp] theorem State.modEng_boot {u : Nat} {f : EngRegs → EngRegs} : (s.modEng u f).boot = s.boot := rfl
@[simp] theorem State.modEng_ht {u : Nat} {f : EngRegs → EngRegs} : (s.modEng u f).ht = s.ht := rfl
@[simp] theorem State.modEng_bld {u : Nat} {f : EngRegs → EngRegs} : (s.modEng u f).bld = s.bld := rfl
@[simp] theorem State.modEng_mem {u : Nat} {f : EngRegs → EngRegs} : (s.modEng u f).mem = s.mem := rfl
@[simp] theorem State.modEng_jobs {u : Nat} {f : EngRegs → EngRegs} : (s.modEng u f).jobs = s.jobs := rfl
@[simp] theorem State.modEng_queues {u : Nat} {f : EngRegs → EngRegs} : (s.modEng u f).queues = s.queues := rfl
@[simp] theorem State.modEng_pass {u : Nat} {f : EngRegs → EngRegs} : (s.modEng u f).pass = s.pass := rfl
@[simp] theorem State.modEng_live {u : Nat} {f : EngRegs → EngRegs} : (s.modEng u f).live = s.live := rfl
@[simp] theorem State.modEng_rings {u : Nat} {f : EngRegs → EngRegs} : (s.modEng u f).rings = s.rings := rfl
@[simp] theorem State.modEng_cores {u : Nat} {f : EngRegs → EngRegs} : (s.modEng u f).cores = s.cores := rfl
@[simp] theorem State.modEng_urn {u : Nat} {f : EngRegs → EngRegs} : (s.modEng u f).urn = s.urn := rfl
@[simp] theorem State.modEng_str {u : Nat} {f : EngRegs → EngRegs} : (s.modEng u f).str = s.str := rfl
@[simp] theorem State.modEng_spt {u : Nat} {f : EngRegs → EngRegs} : (s.modEng u f).spt = s.spt := rfl
@[simp] theorem State.modEng_ports {u : Nat} {f : EngRegs → EngRegs} : (s.modEng u f).ports = s.ports := rfl
@[simp] theorem State.modEng_fab {u : Nat} {f : EngRegs → EngRegs} : (s.modEng u f).fab = s.fab := rfl
@[simp] theorem State.modEng_col {u : Nat} {f : EngRegs → EngRegs} : (s.modEng u f).col = s.col := rfl
@[simp] theorem State.modEng_scrubs {u : Nat} {f : EngRegs → EngRegs} : (s.modEng u f).scrubs = s.scrubs := rfl
@[simp] theorem State.modEng_pools {u : Nat} {f : EngRegs → EngRegs} : (s.modEng u f).pools = s.pools := rfl
@[simp] theorem State.modEng_cdyCheck {u : Nat} {f : EngRegs → EngRegs} : (s.modEng u f).cdyCheck = s.cdyCheck := rfl
@[simp] theorem State.modEng_tin {u : Nat} {f : EngRegs → EngRegs} : (s.modEng u f).tin = s.tin := rfl
@[simp] theorem State.modEng_upd {u : Nat} {f : EngRegs → EngRegs} : (s.modEng u f).upd = s.upd := rfl
@[simp] theorem State.modEng_inf {u : Nat} {f : EngRegs → EngRegs} : (s.modEng u f).inf = s.inf := rfl
@[simp] theorem State.modEng_pfx {u : Nat} {f : EngRegs → EngRegs} : (s.modEng u f).pfx = s.pfx := rfl
@[simp] theorem State.modEng_host {u : Nat} {f : EngRegs → EngRegs} : (s.modEng u f).host = s.host := rfl
@[simp] theorem State.modEng_irq {u : Nat} {f : EngRegs → EngRegs} : (s.modEng u f).irq = s.irq := rfl
@[simp] theorem State.modEng_wdn {u : Nat} {f : EngRegs → EngRegs} : (s.modEng u f).wdn = s.wdn := rfl
@[simp] theorem State.modEng_ktl {u : Nat} {f : EngRegs → EngRegs} : (s.modEng u f).ktl = s.ktl := rfl
@[simp] theorem State.modEng_log {u : Nat} {f : EngRegs → EngRegs} : (s.modEng u f).log = s.log := rfl
@[simp] theorem State.modEng_freeCount {u : Nat} {f : EngRegs → EngRegs} : (s.modEng u f).freeCount = s.freeCount := rfl
@[simp] theorem State.modEng_out {u : Nat} {f : EngRegs → EngRegs} : (s.modEng u f).out = s.out := rfl

/-! ### setQueue -/

@[simp] theorem State.setQueue_pending {e j : Nat} {q : List Cmd} : (s.setQueue e j q).pending = s.pending := rfl
@[simp] theorem State.setQueue_pwr {e j : Nat} {q : List Cmd} : (s.setQueue e j q).pwr = s.pwr := rfl
@[simp] theorem State.setQueue_clk {e j : Nat} {q : List Cmd} : (s.setQueue e j q).clk = s.clk := rfl
@[simp] theorem State.setQueue_fuse {e j : Nat} {q : List Cmd} : (s.setQueue e j q).fuse = s.fuse := rfl
@[simp] theorem State.setQueue_boot {e j : Nat} {q : List Cmd} : (s.setQueue e j q).boot = s.boot := rfl
@[simp] theorem State.setQueue_ht {e j : Nat} {q : List Cmd} : (s.setQueue e j q).ht = s.ht := rfl
@[simp] theorem State.setQueue_bld {e j : Nat} {q : List Cmd} : (s.setQueue e j q).bld = s.bld := rfl
@[simp] theorem State.setQueue_mem {e j : Nat} {q : List Cmd} : (s.setQueue e j q).mem = s.mem := rfl
@[simp] theorem State.setQueue_jobs {e j : Nat} {q : List Cmd} : (s.setQueue e j q).jobs = s.jobs := rfl
@[simp] theorem State.setQueue_pass {e j : Nat} {q : List Cmd} : (s.setQueue e j q).pass = s.pass := rfl
@[simp] theorem State.setQueue_live {e j : Nat} {q : List Cmd} : (s.setQueue e j q).live = s.live := rfl
@[simp] theorem State.setQueue_eng {e j : Nat} {q : List Cmd} : (s.setQueue e j q).eng = s.eng := rfl
@[simp] theorem State.setQueue_rings {e j : Nat} {q : List Cmd} : (s.setQueue e j q).rings = s.rings := rfl
@[simp] theorem State.setQueue_cores {e j : Nat} {q : List Cmd} : (s.setQueue e j q).cores = s.cores := rfl
@[simp] theorem State.setQueue_urn {e j : Nat} {q : List Cmd} : (s.setQueue e j q).urn = s.urn := rfl
@[simp] theorem State.setQueue_str {e j : Nat} {q : List Cmd} : (s.setQueue e j q).str = s.str := rfl
@[simp] theorem State.setQueue_spt {e j : Nat} {q : List Cmd} : (s.setQueue e j q).spt = s.spt := rfl
@[simp] theorem State.setQueue_ports {e j : Nat} {q : List Cmd} : (s.setQueue e j q).ports = s.ports := rfl
@[simp] theorem State.setQueue_fab {e j : Nat} {q : List Cmd} : (s.setQueue e j q).fab = s.fab := rfl
@[simp] theorem State.setQueue_col {e j : Nat} {q : List Cmd} : (s.setQueue e j q).col = s.col := rfl
@[simp] theorem State.setQueue_scrubs {e j : Nat} {q : List Cmd} : (s.setQueue e j q).scrubs = s.scrubs := rfl
@[simp] theorem State.setQueue_pools {e j : Nat} {q : List Cmd} : (s.setQueue e j q).pools = s.pools := rfl
@[simp] theorem State.setQueue_cdyCheck {e j : Nat} {q : List Cmd} : (s.setQueue e j q).cdyCheck = s.cdyCheck := rfl
@[simp] theorem State.setQueue_tin {e j : Nat} {q : List Cmd} : (s.setQueue e j q).tin = s.tin := rfl
@[simp] theorem State.setQueue_upd {e j : Nat} {q : List Cmd} : (s.setQueue e j q).upd = s.upd := rfl
@[simp] theorem State.setQueue_inf {e j : Nat} {q : List Cmd} : (s.setQueue e j q).inf = s.inf := rfl
@[simp] theorem State.setQueue_pfx {e j : Nat} {q : List Cmd} : (s.setQueue e j q).pfx = s.pfx := rfl
@[simp] theorem State.setQueue_host {e j : Nat} {q : List Cmd} : (s.setQueue e j q).host = s.host := rfl
@[simp] theorem State.setQueue_irq {e j : Nat} {q : List Cmd} : (s.setQueue e j q).irq = s.irq := rfl
@[simp] theorem State.setQueue_wdn {e j : Nat} {q : List Cmd} : (s.setQueue e j q).wdn = s.wdn := rfl
@[simp] theorem State.setQueue_ktl {e j : Nat} {q : List Cmd} : (s.setQueue e j q).ktl = s.ktl := rfl
@[simp] theorem State.setQueue_log {e j : Nat} {q : List Cmd} : (s.setQueue e j q).log = s.log := rfl
@[simp] theorem State.setQueue_freeCount {e j : Nat} {q : List Cmd} : (s.setQueue e j q).freeCount = s.freeCount := rfl
@[simp] theorem State.setQueue_out {e j : Nat} {q : List Cmd} : (s.setQueue e j q).out = s.out := rfl

/-! ### modCore -/

@[simp] theorem State.modCore_pending {k : Nat} {f : Core → Core} : (s.modCore k f).pending = s.pending := rfl
@[simp] theorem State.modCore_pwr {k : Nat} {f : Core → Core} : (s.modCore k f).pwr = s.pwr := rfl
@[simp] theorem State.modCore_clk {k : Nat} {f : Core → Core} : (s.modCore k f).clk = s.clk := rfl
@[simp] theorem State.modCore_fuse {k : Nat} {f : Core → Core} : (s.modCore k f).fuse = s.fuse := rfl
@[simp] theorem State.modCore_boot {k : Nat} {f : Core → Core} : (s.modCore k f).boot = s.boot := rfl
@[simp] theorem State.modCore_ht {k : Nat} {f : Core → Core} : (s.modCore k f).ht = s.ht := rfl
@[simp] theorem State.modCore_bld {k : Nat} {f : Core → Core} : (s.modCore k f).bld = s.bld := rfl
@[simp] theorem State.modCore_mem {k : Nat} {f : Core → Core} : (s.modCore k f).mem = s.mem := rfl
@[simp] theorem State.modCore_jobs {k : Nat} {f : Core → Core} : (s.modCore k f).jobs = s.jobs := rfl
@[simp] theorem State.modCore_queues {k : Nat} {f : Core → Core} : (s.modCore k f).queues = s.queues := rfl
@[simp] theorem State.modCore_pass {k : Nat} {f : Core → Core} : (s.modCore k f).pass = s.pass := rfl
@[simp] theorem State.modCore_live {k : Nat} {f : Core → Core} : (s.modCore k f).live = s.live := rfl
@[simp] theorem State.modCore_eng {k : Nat} {f : Core → Core} : (s.modCore k f).eng = s.eng := rfl
@[simp] theorem State.modCore_rings {k : Nat} {f : Core → Core} : (s.modCore k f).rings = s.rings := rfl
@[simp] theorem State.modCore_urn {k : Nat} {f : Core → Core} : (s.modCore k f).urn = s.urn := rfl
@[simp] theorem State.modCore_str {k : Nat} {f : Core → Core} : (s.modCore k f).str = s.str := rfl
@[simp] theorem State.modCore_spt {k : Nat} {f : Core → Core} : (s.modCore k f).spt = s.spt := rfl
@[simp] theorem State.modCore_ports {k : Nat} {f : Core → Core} : (s.modCore k f).ports = s.ports := rfl
@[simp] theorem State.modCore_fab {k : Nat} {f : Core → Core} : (s.modCore k f).fab = s.fab := rfl
@[simp] theorem State.modCore_col {k : Nat} {f : Core → Core} : (s.modCore k f).col = s.col := rfl
@[simp] theorem State.modCore_scrubs {k : Nat} {f : Core → Core} : (s.modCore k f).scrubs = s.scrubs := rfl
@[simp] theorem State.modCore_pools {k : Nat} {f : Core → Core} : (s.modCore k f).pools = s.pools := rfl
@[simp] theorem State.modCore_cdyCheck {k : Nat} {f : Core → Core} : (s.modCore k f).cdyCheck = s.cdyCheck := rfl
@[simp] theorem State.modCore_tin {k : Nat} {f : Core → Core} : (s.modCore k f).tin = s.tin := rfl
@[simp] theorem State.modCore_upd {k : Nat} {f : Core → Core} : (s.modCore k f).upd = s.upd := rfl
@[simp] theorem State.modCore_inf {k : Nat} {f : Core → Core} : (s.modCore k f).inf = s.inf := rfl
@[simp] theorem State.modCore_pfx {k : Nat} {f : Core → Core} : (s.modCore k f).pfx = s.pfx := rfl
@[simp] theorem State.modCore_host {k : Nat} {f : Core → Core} : (s.modCore k f).host = s.host := rfl
@[simp] theorem State.modCore_irq {k : Nat} {f : Core → Core} : (s.modCore k f).irq = s.irq := rfl
@[simp] theorem State.modCore_wdn {k : Nat} {f : Core → Core} : (s.modCore k f).wdn = s.wdn := rfl
@[simp] theorem State.modCore_ktl {k : Nat} {f : Core → Core} : (s.modCore k f).ktl = s.ktl := rfl
@[simp] theorem State.modCore_log {k : Nat} {f : Core → Core} : (s.modCore k f).log = s.log := rfl
@[simp] theorem State.modCore_freeCount {k : Nat} {f : Core → Core} : (s.modCore k f).freeCount = s.freeCount := rfl
@[simp] theorem State.modCore_out {k : Nat} {f : Core → Core} : (s.modCore k f).out = s.out := rfl

/-! ### modRing -/

@[simp] theorem State.modRing_pending {r : Nat} {f : Ring → Ring} : (s.modRing r f).pending = s.pending := rfl
@[simp] theorem State.modRing_pwr {r : Nat} {f : Ring → Ring} : (s.modRing r f).pwr = s.pwr := rfl
@[simp] theorem State.modRing_clk {r : Nat} {f : Ring → Ring} : (s.modRing r f).clk = s.clk := rfl
@[simp] theorem State.modRing_fuse {r : Nat} {f : Ring → Ring} : (s.modRing r f).fuse = s.fuse := rfl
@[simp] theorem State.modRing_boot {r : Nat} {f : Ring → Ring} : (s.modRing r f).boot = s.boot := rfl
@[simp] theorem State.modRing_ht {r : Nat} {f : Ring → Ring} : (s.modRing r f).ht = s.ht := rfl
@[simp] theorem State.modRing_bld {r : Nat} {f : Ring → Ring} : (s.modRing r f).bld = s.bld := rfl
@[simp] theorem State.modRing_mem {r : Nat} {f : Ring → Ring} : (s.modRing r f).mem = s.mem := rfl
@[simp] theorem State.modRing_jobs {r : Nat} {f : Ring → Ring} : (s.modRing r f).jobs = s.jobs := rfl
@[simp] theorem State.modRing_queues {r : Nat} {f : Ring → Ring} : (s.modRing r f).queues = s.queues := rfl
@[simp] theorem State.modRing_pass {r : Nat} {f : Ring → Ring} : (s.modRing r f).pass = s.pass := rfl
@[simp] theorem State.modRing_live {r : Nat} {f : Ring → Ring} : (s.modRing r f).live = s.live := rfl
@[simp] theorem State.modRing_eng {r : Nat} {f : Ring → Ring} : (s.modRing r f).eng = s.eng := rfl
@[simp] theorem State.modRing_cores {r : Nat} {f : Ring → Ring} : (s.modRing r f).cores = s.cores := rfl
@[simp] theorem State.modRing_urn {r : Nat} {f : Ring → Ring} : (s.modRing r f).urn = s.urn := rfl
@[simp] theorem State.modRing_str {r : Nat} {f : Ring → Ring} : (s.modRing r f).str = s.str := rfl
@[simp] theorem State.modRing_spt {r : Nat} {f : Ring → Ring} : (s.modRing r f).spt = s.spt := rfl
@[simp] theorem State.modRing_ports {r : Nat} {f : Ring → Ring} : (s.modRing r f).ports = s.ports := rfl
@[simp] theorem State.modRing_fab {r : Nat} {f : Ring → Ring} : (s.modRing r f).fab = s.fab := rfl
@[simp] theorem State.modRing_col {r : Nat} {f : Ring → Ring} : (s.modRing r f).col = s.col := rfl
@[simp] theorem State.modRing_scrubs {r : Nat} {f : Ring → Ring} : (s.modRing r f).scrubs = s.scrubs := rfl
@[simp] theorem State.modRing_pools {r : Nat} {f : Ring → Ring} : (s.modRing r f).pools = s.pools := rfl
@[simp] theorem State.modRing_cdyCheck {r : Nat} {f : Ring → Ring} : (s.modRing r f).cdyCheck = s.cdyCheck := rfl
@[simp] theorem State.modRing_tin {r : Nat} {f : Ring → Ring} : (s.modRing r f).tin = s.tin := rfl
@[simp] theorem State.modRing_upd {r : Nat} {f : Ring → Ring} : (s.modRing r f).upd = s.upd := rfl
@[simp] theorem State.modRing_inf {r : Nat} {f : Ring → Ring} : (s.modRing r f).inf = s.inf := rfl
@[simp] theorem State.modRing_pfx {r : Nat} {f : Ring → Ring} : (s.modRing r f).pfx = s.pfx := rfl
@[simp] theorem State.modRing_host {r : Nat} {f : Ring → Ring} : (s.modRing r f).host = s.host := rfl
@[simp] theorem State.modRing_irq {r : Nat} {f : Ring → Ring} : (s.modRing r f).irq = s.irq := rfl
@[simp] theorem State.modRing_wdn {r : Nat} {f : Ring → Ring} : (s.modRing r f).wdn = s.wdn := rfl
@[simp] theorem State.modRing_ktl {r : Nat} {f : Ring → Ring} : (s.modRing r f).ktl = s.ktl := rfl
@[simp] theorem State.modRing_log {r : Nat} {f : Ring → Ring} : (s.modRing r f).log = s.log := rfl
@[simp] theorem State.modRing_freeCount {r : Nat} {f : Ring → Ring} : (s.modRing r f).freeCount = s.freeCount := rfl
@[simp] theorem State.modRing_out {r : Nat} {f : Ring → Ring} : (s.modRing r f).out = s.out := rfl

/-! ### requests -/

@[simp] theorem State.requests_pending {rs : List RemReq} : (s.requests rs).pending = s.pending := rfl
@[simp] theorem State.requests_pwr {rs : List RemReq} : (s.requests rs).pwr = s.pwr := rfl
@[simp] theorem State.requests_clk {rs : List RemReq} : (s.requests rs).clk = s.clk := rfl
@[simp] theorem State.requests_fuse {rs : List RemReq} : (s.requests rs).fuse = s.fuse := rfl
@[simp] theorem State.requests_boot {rs : List RemReq} : (s.requests rs).boot = s.boot := rfl
@[simp] theorem State.requests_ht {rs : List RemReq} : (s.requests rs).ht = s.ht := rfl
@[simp] theorem State.requests_bld {rs : List RemReq} : (s.requests rs).bld = s.bld := rfl
@[simp] theorem State.requests_mem {rs : List RemReq} : (s.requests rs).mem = s.mem := rfl
@[simp] theorem State.requests_jobs {rs : List RemReq} : (s.requests rs).jobs = s.jobs := rfl
@[simp] theorem State.requests_queues {rs : List RemReq} : (s.requests rs).queues = s.queues := rfl
@[simp] theorem State.requests_pass {rs : List RemReq} : (s.requests rs).pass = s.pass := rfl
@[simp] theorem State.requests_live {rs : List RemReq} : (s.requests rs).live = s.live := rfl
@[simp] theorem State.requests_eng {rs : List RemReq} : (s.requests rs).eng = s.eng := rfl
@[simp] theorem State.requests_rings {rs : List RemReq} : (s.requests rs).rings = s.rings := rfl
@[simp] theorem State.requests_cores {rs : List RemReq} : (s.requests rs).cores = s.cores := rfl
@[simp] theorem State.requests_urn {rs : List RemReq} : (s.requests rs).urn = s.urn := rfl
@[simp] theorem State.requests_str {rs : List RemReq} : (s.requests rs).str = s.str := rfl
@[simp] theorem State.requests_spt {rs : List RemReq} : (s.requests rs).spt = s.spt := rfl
@[simp] theorem State.requests_ports {rs : List RemReq} : (s.requests rs).ports = s.ports := rfl
@[simp] theorem State.requests_col {rs : List RemReq} : (s.requests rs).col = s.col := rfl
@[simp] theorem State.requests_scrubs {rs : List RemReq} : (s.requests rs).scrubs = s.scrubs := rfl
@[simp] theorem State.requests_pools {rs : List RemReq} : (s.requests rs).pools = s.pools := rfl
@[simp] theorem State.requests_cdyCheck {rs : List RemReq} : (s.requests rs).cdyCheck = s.cdyCheck := rfl
@[simp] theorem State.requests_tin {rs : List RemReq} : (s.requests rs).tin = s.tin := rfl
@[simp] theorem State.requests_upd {rs : List RemReq} : (s.requests rs).upd = s.upd := rfl
@[simp] theorem State.requests_inf {rs : List RemReq} : (s.requests rs).inf = s.inf := rfl
@[simp] theorem State.requests_pfx {rs : List RemReq} : (s.requests rs).pfx = s.pfx := rfl
@[simp] theorem State.requests_host {rs : List RemReq} : (s.requests rs).host = s.host := rfl
@[simp] theorem State.requests_irq {rs : List RemReq} : (s.requests rs).irq = s.irq := rfl
@[simp] theorem State.requests_wdn {rs : List RemReq} : (s.requests rs).wdn = s.wdn := rfl
@[simp] theorem State.requests_ktl {rs : List RemReq} : (s.requests rs).ktl = s.ktl := rfl
@[simp] theorem State.requests_log {rs : List RemReq} : (s.requests rs).log = s.log := rfl
@[simp] theorem State.requests_freeCount {rs : List RemReq} : (s.requests rs).freeCount = s.freeCount := rfl
@[simp] theorem State.requests_out {rs : List RemReq} : (s.requests rs).out = s.out := rfl

/-! ### addLive -/

@[simp] theorem State.addLive_pending {c : Cmd} {b : Bool} : (s.addLive c b).pending = s.pending := rfl
@[simp] theorem State.addLive_pwr {c : Cmd} {b : Bool} : (s.addLive c b).pwr = s.pwr := rfl
@[simp] theorem State.addLive_clk {c : Cmd} {b : Bool} : (s.addLive c b).clk = s.clk := rfl
@[simp] theorem State.addLive_fuse {c : Cmd} {b : Bool} : (s.addLive c b).fuse = s.fuse := rfl
@[simp] theorem State.addLive_boot {c : Cmd} {b : Bool} : (s.addLive c b).boot = s.boot := rfl
@[simp] theorem State.addLive_ht {c : Cmd} {b : Bool} : (s.addLive c b).ht = s.ht := rfl
@[simp] theorem State.addLive_bld {c : Cmd} {b : Bool} : (s.addLive c b).bld = s.bld := rfl
@[simp] theorem State.addLive_mem {c : Cmd} {b : Bool} : (s.addLive c b).mem = s.mem := rfl
@[simp] theorem State.addLive_jobs {c : Cmd} {b : Bool} : (s.addLive c b).jobs = s.jobs := rfl
@[simp] theorem State.addLive_queues {c : Cmd} {b : Bool} : (s.addLive c b).queues = s.queues := rfl
@[simp] theorem State.addLive_pass {c : Cmd} {b : Bool} : (s.addLive c b).pass = s.pass := rfl
@[simp] theorem State.addLive_eng {c : Cmd} {b : Bool} : (s.addLive c b).eng = s.eng := rfl
@[simp] theorem State.addLive_rings {c : Cmd} {b : Bool} : (s.addLive c b).rings = s.rings := rfl
@[simp] theorem State.addLive_cores {c : Cmd} {b : Bool} : (s.addLive c b).cores = s.cores := rfl
@[simp] theorem State.addLive_urn {c : Cmd} {b : Bool} : (s.addLive c b).urn = s.urn := rfl
@[simp] theorem State.addLive_str {c : Cmd} {b : Bool} : (s.addLive c b).str = s.str := rfl
@[simp] theorem State.addLive_spt {c : Cmd} {b : Bool} : (s.addLive c b).spt = s.spt := rfl
@[simp] theorem State.addLive_ports {c : Cmd} {b : Bool} : (s.addLive c b).ports = s.ports := rfl
@[simp] theorem State.addLive_fab {c : Cmd} {b : Bool} : (s.addLive c b).fab = s.fab := rfl
@[simp] theorem State.addLive_col {c : Cmd} {b : Bool} : (s.addLive c b).col = s.col := rfl
@[simp] theorem State.addLive_scrubs {c : Cmd} {b : Bool} : (s.addLive c b).scrubs = s.scrubs := rfl
@[simp] theorem State.addLive_pools {c : Cmd} {b : Bool} : (s.addLive c b).pools = s.pools := rfl
@[simp] theorem State.addLive_cdyCheck {c : Cmd} {b : Bool} : (s.addLive c b).cdyCheck = s.cdyCheck := rfl
@[simp] theorem State.addLive_tin {c : Cmd} {b : Bool} : (s.addLive c b).tin = s.tin := rfl
@[simp] theorem State.addLive_upd {c : Cmd} {b : Bool} : (s.addLive c b).upd = s.upd := rfl
@[simp] theorem State.addLive_inf {c : Cmd} {b : Bool} : (s.addLive c b).inf = s.inf := rfl
@[simp] theorem State.addLive_pfx {c : Cmd} {b : Bool} : (s.addLive c b).pfx = s.pfx := rfl
@[simp] theorem State.addLive_host {c : Cmd} {b : Bool} : (s.addLive c b).host = s.host := rfl
@[simp] theorem State.addLive_irq {c : Cmd} {b : Bool} : (s.addLive c b).irq = s.irq := rfl
@[simp] theorem State.addLive_wdn {c : Cmd} {b : Bool} : (s.addLive c b).wdn = s.wdn := rfl
@[simp] theorem State.addLive_ktl {c : Cmd} {b : Bool} : (s.addLive c b).ktl = s.ktl := rfl
@[simp] theorem State.addLive_log {c : Cmd} {b : Bool} : (s.addLive c b).log = s.log := rfl
@[simp] theorem State.addLive_freeCount {c : Cmd} {b : Bool} : (s.addLive c b).freeCount = s.freeCount := rfl
@[simp] theorem State.addLive_out {c : Cmd} {b : Bool} : (s.addLive c b).out = s.out := rfl

/-! ### noRestart -/

@[simp] theorem State.noRestart_pending {c : Cmd} : (s.noRestart c).pending = s.pending := rfl
@[simp] theorem State.noRestart_pwr {c : Cmd} : (s.noRestart c).pwr = s.pwr := rfl
@[simp] theorem State.noRestart_clk {c : Cmd} : (s.noRestart c).clk = s.clk := rfl
@[simp] theorem State.noRestart_fuse {c : Cmd} : (s.noRestart c).fuse = s.fuse := rfl
@[simp] theorem State.noRestart_boot {c : Cmd} : (s.noRestart c).boot = s.boot := rfl
@[simp] theorem State.noRestart_ht {c : Cmd} : (s.noRestart c).ht = s.ht := rfl
@[simp] theorem State.noRestart_bld {c : Cmd} : (s.noRestart c).bld = s.bld := rfl
@[simp] theorem State.noRestart_mem {c : Cmd} : (s.noRestart c).mem = s.mem := rfl
@[simp] theorem State.noRestart_jobs {c : Cmd} : (s.noRestart c).jobs = s.jobs := rfl
@[simp] theorem State.noRestart_queues {c : Cmd} : (s.noRestart c).queues = s.queues := rfl
@[simp] theorem State.noRestart_pass {c : Cmd} : (s.noRestart c).pass = s.pass := rfl
@[simp] theorem State.noRestart_eng {c : Cmd} : (s.noRestart c).eng = s.eng := rfl
@[simp] theorem State.noRestart_rings {c : Cmd} : (s.noRestart c).rings = s.rings := rfl
@[simp] theorem State.noRestart_cores {c : Cmd} : (s.noRestart c).cores = s.cores := rfl
@[simp] theorem State.noRestart_urn {c : Cmd} : (s.noRestart c).urn = s.urn := rfl
@[simp] theorem State.noRestart_str {c : Cmd} : (s.noRestart c).str = s.str := rfl
@[simp] theorem State.noRestart_spt {c : Cmd} : (s.noRestart c).spt = s.spt := rfl
@[simp] theorem State.noRestart_ports {c : Cmd} : (s.noRestart c).ports = s.ports := rfl
@[simp] theorem State.noRestart_fab {c : Cmd} : (s.noRestart c).fab = s.fab := rfl
@[simp] theorem State.noRestart_col {c : Cmd} : (s.noRestart c).col = s.col := rfl
@[simp] theorem State.noRestart_scrubs {c : Cmd} : (s.noRestart c).scrubs = s.scrubs := rfl
@[simp] theorem State.noRestart_pools {c : Cmd} : (s.noRestart c).pools = s.pools := rfl
@[simp] theorem State.noRestart_cdyCheck {c : Cmd} : (s.noRestart c).cdyCheck = s.cdyCheck := rfl
@[simp] theorem State.noRestart_tin {c : Cmd} : (s.noRestart c).tin = s.tin := rfl
@[simp] theorem State.noRestart_upd {c : Cmd} : (s.noRestart c).upd = s.upd := rfl
@[simp] theorem State.noRestart_inf {c : Cmd} : (s.noRestart c).inf = s.inf := rfl
@[simp] theorem State.noRestart_pfx {c : Cmd} : (s.noRestart c).pfx = s.pfx := rfl
@[simp] theorem State.noRestart_host {c : Cmd} : (s.noRestart c).host = s.host := rfl
@[simp] theorem State.noRestart_irq {c : Cmd} : (s.noRestart c).irq = s.irq := rfl
@[simp] theorem State.noRestart_wdn {c : Cmd} : (s.noRestart c).wdn = s.wdn := rfl
@[simp] theorem State.noRestart_ktl {c : Cmd} : (s.noRestart c).ktl = s.ktl := rfl
@[simp] theorem State.noRestart_log {c : Cmd} : (s.noRestart c).log = s.log := rfl
@[simp] theorem State.noRestart_freeCount {c : Cmd} : (s.noRestart c).freeCount = s.freeCount := rfl
@[simp] theorem State.noRestart_out {c : Cmd} : (s.noRestart c).out = s.out := rfl

/-! ### dropLive -/

@[simp] theorem State.dropLive_pending {c : Cmd} : (s.dropLive c).pending = s.pending := rfl
@[simp] theorem State.dropLive_pwr {c : Cmd} : (s.dropLive c).pwr = s.pwr := rfl
@[simp] theorem State.dropLive_clk {c : Cmd} : (s.dropLive c).clk = s.clk := rfl
@[simp] theorem State.dropLive_fuse {c : Cmd} : (s.dropLive c).fuse = s.fuse := rfl
@[simp] theorem State.dropLive_boot {c : Cmd} : (s.dropLive c).boot = s.boot := rfl
@[simp] theorem State.dropLive_ht {c : Cmd} : (s.dropLive c).ht = s.ht := rfl
@[simp] theorem State.dropLive_bld {c : Cmd} : (s.dropLive c).bld = s.bld := rfl
@[simp] theorem State.dropLive_mem {c : Cmd} : (s.dropLive c).mem = s.mem := rfl
@[simp] theorem State.dropLive_jobs {c : Cmd} : (s.dropLive c).jobs = s.jobs := rfl
@[simp] theorem State.dropLive_queues {c : Cmd} : (s.dropLive c).queues = s.queues := rfl
@[simp] theorem State.dropLive_pass {c : Cmd} : (s.dropLive c).pass = s.pass := rfl
@[simp] theorem State.dropLive_eng {c : Cmd} : (s.dropLive c).eng = s.eng := rfl
@[simp] theorem State.dropLive_rings {c : Cmd} : (s.dropLive c).rings = s.rings := rfl
@[simp] theorem State.dropLive_cores {c : Cmd} : (s.dropLive c).cores = s.cores := rfl
@[simp] theorem State.dropLive_urn {c : Cmd} : (s.dropLive c).urn = s.urn := rfl
@[simp] theorem State.dropLive_str {c : Cmd} : (s.dropLive c).str = s.str := rfl
@[simp] theorem State.dropLive_spt {c : Cmd} : (s.dropLive c).spt = s.spt := rfl
@[simp] theorem State.dropLive_ports {c : Cmd} : (s.dropLive c).ports = s.ports := rfl
@[simp] theorem State.dropLive_fab {c : Cmd} : (s.dropLive c).fab = s.fab := rfl
@[simp] theorem State.dropLive_col {c : Cmd} : (s.dropLive c).col = s.col := rfl
@[simp] theorem State.dropLive_scrubs {c : Cmd} : (s.dropLive c).scrubs = s.scrubs := rfl
@[simp] theorem State.dropLive_pools {c : Cmd} : (s.dropLive c).pools = s.pools := rfl
@[simp] theorem State.dropLive_cdyCheck {c : Cmd} : (s.dropLive c).cdyCheck = s.cdyCheck := rfl
@[simp] theorem State.dropLive_tin {c : Cmd} : (s.dropLive c).tin = s.tin := rfl
@[simp] theorem State.dropLive_upd {c : Cmd} : (s.dropLive c).upd = s.upd := rfl
@[simp] theorem State.dropLive_inf {c : Cmd} : (s.dropLive c).inf = s.inf := rfl
@[simp] theorem State.dropLive_pfx {c : Cmd} : (s.dropLive c).pfx = s.pfx := rfl
@[simp] theorem State.dropLive_host {c : Cmd} : (s.dropLive c).host = s.host := rfl
@[simp] theorem State.dropLive_irq {c : Cmd} : (s.dropLive c).irq = s.irq := rfl
@[simp] theorem State.dropLive_wdn {c : Cmd} : (s.dropLive c).wdn = s.wdn := rfl
@[simp] theorem State.dropLive_ktl {c : Cmd} : (s.dropLive c).ktl = s.ktl := rfl
@[simp] theorem State.dropLive_log {c : Cmd} : (s.dropLive c).log = s.log := rfl
@[simp] theorem State.dropLive_freeCount {c : Cmd} : (s.dropLive c).freeCount = s.freeCount := rfl
@[simp] theorem State.dropLive_out {c : Cmd} : (s.dropLive c).out = s.out := rfl

/-! ### store -/

@[simp] theorem State.store_pending {a : Nat} {bs : List Byte} : (s.store a bs).pending = s.pending := rfl
@[simp] theorem State.store_pwr {a : Nat} {bs : List Byte} : (s.store a bs).pwr = s.pwr := rfl
@[simp] theorem State.store_clk {a : Nat} {bs : List Byte} : (s.store a bs).clk = s.clk := rfl
@[simp] theorem State.store_fuse {a : Nat} {bs : List Byte} : (s.store a bs).fuse = s.fuse := rfl
@[simp] theorem State.store_boot {a : Nat} {bs : List Byte} : (s.store a bs).boot = s.boot := rfl
@[simp] theorem State.store_ht {a : Nat} {bs : List Byte} : (s.store a bs).ht = s.ht := rfl
@[simp] theorem State.store_bld {a : Nat} {bs : List Byte} : (s.store a bs).bld = s.bld := rfl
@[simp] theorem State.store_jobs {a : Nat} {bs : List Byte} : (s.store a bs).jobs = s.jobs := rfl
@[simp] theorem State.store_queues {a : Nat} {bs : List Byte} : (s.store a bs).queues = s.queues := rfl
@[simp] theorem State.store_pass {a : Nat} {bs : List Byte} : (s.store a bs).pass = s.pass := rfl
@[simp] theorem State.store_live {a : Nat} {bs : List Byte} : (s.store a bs).live = s.live := rfl
@[simp] theorem State.store_eng {a : Nat} {bs : List Byte} : (s.store a bs).eng = s.eng := rfl
@[simp] theorem State.store_rings {a : Nat} {bs : List Byte} : (s.store a bs).rings = s.rings := rfl
@[simp] theorem State.store_cores {a : Nat} {bs : List Byte} : (s.store a bs).cores = s.cores := rfl
@[simp] theorem State.store_urn {a : Nat} {bs : List Byte} : (s.store a bs).urn = s.urn := rfl
@[simp] theorem State.store_str {a : Nat} {bs : List Byte} : (s.store a bs).str = s.str := rfl
@[simp] theorem State.store_spt {a : Nat} {bs : List Byte} : (s.store a bs).spt = s.spt := rfl
@[simp] theorem State.store_ports {a : Nat} {bs : List Byte} : (s.store a bs).ports = s.ports := rfl
@[simp] theorem State.store_fab {a : Nat} {bs : List Byte} : (s.store a bs).fab = s.fab := rfl
@[simp] theorem State.store_col {a : Nat} {bs : List Byte} : (s.store a bs).col = s.col := rfl
@[simp] theorem State.store_scrubs {a : Nat} {bs : List Byte} : (s.store a bs).scrubs = s.scrubs := rfl
@[simp] theorem State.store_pools {a : Nat} {bs : List Byte} : (s.store a bs).pools = s.pools := rfl
@[simp] theorem State.store_cdyCheck {a : Nat} {bs : List Byte} : (s.store a bs).cdyCheck = s.cdyCheck := rfl
@[simp] theorem State.store_tin {a : Nat} {bs : List Byte} : (s.store a bs).tin = s.tin := rfl
@[simp] theorem State.store_upd {a : Nat} {bs : List Byte} : (s.store a bs).upd = s.upd := rfl
@[simp] theorem State.store_inf {a : Nat} {bs : List Byte} : (s.store a bs).inf = s.inf := rfl
@[simp] theorem State.store_pfx {a : Nat} {bs : List Byte} : (s.store a bs).pfx = s.pfx := rfl
@[simp] theorem State.store_host {a : Nat} {bs : List Byte} : (s.store a bs).host = s.host := rfl
@[simp] theorem State.store_irq {a : Nat} {bs : List Byte} : (s.store a bs).irq = s.irq := rfl
@[simp] theorem State.store_wdn {a : Nat} {bs : List Byte} : (s.store a bs).wdn = s.wdn := rfl
@[simp] theorem State.store_ktl {a : Nat} {bs : List Byte} : (s.store a bs).ktl = s.ktl := rfl
@[simp] theorem State.store_freeCount {a : Nat} {bs : List Byte} : (s.store a bs).freeCount = s.freeCount := rfl
@[simp] theorem State.store_out {a : Nat} {bs : List Byte} : (s.store a bs).out = s.out := rfl

/-! ### storeAll -/

@[simp] theorem State.storeAll_pending {ws : List (Nat × List Byte)} : (s.storeAll ws).pending = s.pending := by
  unfold State.storeAll; induction ws generalizing s with
  | nil => rfl
  | cons w r ih => rw [List.foldl_cons, ih]; simp
@[simp] theorem State.storeAll_pwr {ws : List (Nat × List Byte)} : (s.storeAll ws).pwr = s.pwr := by
  unfold State.storeAll; induction ws generalizing s with
  | nil => rfl
  | cons w r ih => rw [List.foldl_cons, ih]; simp
@[simp] theorem State.storeAll_clk {ws : List (Nat × List Byte)} : (s.storeAll ws).clk = s.clk := by
  unfold State.storeAll; induction ws generalizing s with
  | nil => rfl
  | cons w r ih => rw [List.foldl_cons, ih]; simp
@[simp] theorem State.storeAll_fuse {ws : List (Nat × List Byte)} : (s.storeAll ws).fuse = s.fuse := by
  unfold State.storeAll; induction ws generalizing s with
  | nil => rfl
  | cons w r ih => rw [List.foldl_cons, ih]; simp
@[simp] theorem State.storeAll_boot {ws : List (Nat × List Byte)} : (s.storeAll ws).boot = s.boot := by
  unfold State.storeAll; induction ws generalizing s with
  | nil => rfl
  | cons w r ih => rw [List.foldl_cons, ih]; simp
@[simp] theorem State.storeAll_ht {ws : List (Nat × List Byte)} : (s.storeAll ws).ht = s.ht := by
  unfold State.storeAll; induction ws generalizing s with
  | nil => rfl
  | cons w r ih => rw [List.foldl_cons, ih]; simp
@[simp] theorem State.storeAll_bld {ws : List (Nat × List Byte)} : (s.storeAll ws).bld = s.bld := by
  unfold State.storeAll; induction ws generalizing s with
  | nil => rfl
  | cons w r ih => rw [List.foldl_cons, ih]; simp
@[simp] theorem State.storeAll_jobs {ws : List (Nat × List Byte)} : (s.storeAll ws).jobs = s.jobs := by
  unfold State.storeAll; induction ws generalizing s with
  | nil => rfl
  | cons w r ih => rw [List.foldl_cons, ih]; simp
@[simp] theorem State.storeAll_queues {ws : List (Nat × List Byte)} : (s.storeAll ws).queues = s.queues := by
  unfold State.storeAll; induction ws generalizing s with
  | nil => rfl
  | cons w r ih => rw [List.foldl_cons, ih]; simp
@[simp] theorem State.storeAll_pass {ws : List (Nat × List Byte)} : (s.storeAll ws).pass = s.pass := by
  unfold State.storeAll; induction ws generalizing s with
  | nil => rfl
  | cons w r ih => rw [List.foldl_cons, ih]; simp
@[simp] theorem State.storeAll_live {ws : List (Nat × List Byte)} : (s.storeAll ws).live = s.live := by
  unfold State.storeAll; induction ws generalizing s with
  | nil => rfl
  | cons w r ih => rw [List.foldl_cons, ih]; simp
@[simp] theorem State.storeAll_eng {ws : List (Nat × List Byte)} : (s.storeAll ws).eng = s.eng := by
  unfold State.storeAll; induction ws generalizing s with
  | nil => rfl
  | cons w r ih => rw [List.foldl_cons, ih]; simp
@[simp] theorem State.storeAll_rings {ws : List (Nat × List Byte)} : (s.storeAll ws).rings = s.rings := by
  unfold State.storeAll; induction ws generalizing s with
  | nil => rfl
  | cons w r ih => rw [List.foldl_cons, ih]; simp
@[simp] theorem State.storeAll_cores {ws : List (Nat × List Byte)} : (s.storeAll ws).cores = s.cores := by
  unfold State.storeAll; induction ws generalizing s with
  | nil => rfl
  | cons w r ih => rw [List.foldl_cons, ih]; simp
@[simp] theorem State.storeAll_urn {ws : List (Nat × List Byte)} : (s.storeAll ws).urn = s.urn := by
  unfold State.storeAll; induction ws generalizing s with
  | nil => rfl
  | cons w r ih => rw [List.foldl_cons, ih]; simp
@[simp] theorem State.storeAll_str {ws : List (Nat × List Byte)} : (s.storeAll ws).str = s.str := by
  unfold State.storeAll; induction ws generalizing s with
  | nil => rfl
  | cons w r ih => rw [List.foldl_cons, ih]; simp
@[simp] theorem State.storeAll_spt {ws : List (Nat × List Byte)} : (s.storeAll ws).spt = s.spt := by
  unfold State.storeAll; induction ws generalizing s with
  | nil => rfl
  | cons w r ih => rw [List.foldl_cons, ih]; simp
@[simp] theorem State.storeAll_ports {ws : List (Nat × List Byte)} : (s.storeAll ws).ports = s.ports := by
  unfold State.storeAll; induction ws generalizing s with
  | nil => rfl
  | cons w r ih => rw [List.foldl_cons, ih]; simp
@[simp] theorem State.storeAll_fab {ws : List (Nat × List Byte)} : (s.storeAll ws).fab = s.fab := by
  unfold State.storeAll; induction ws generalizing s with
  | nil => rfl
  | cons w r ih => rw [List.foldl_cons, ih]; simp
@[simp] theorem State.storeAll_col {ws : List (Nat × List Byte)} : (s.storeAll ws).col = s.col := by
  unfold State.storeAll; induction ws generalizing s with
  | nil => rfl
  | cons w r ih => rw [List.foldl_cons, ih]; simp
@[simp] theorem State.storeAll_scrubs {ws : List (Nat × List Byte)} : (s.storeAll ws).scrubs = s.scrubs := by
  unfold State.storeAll; induction ws generalizing s with
  | nil => rfl
  | cons w r ih => rw [List.foldl_cons, ih]; simp
@[simp] theorem State.storeAll_pools {ws : List (Nat × List Byte)} : (s.storeAll ws).pools = s.pools := by
  unfold State.storeAll; induction ws generalizing s with
  | nil => rfl
  | cons w r ih => rw [List.foldl_cons, ih]; simp
@[simp] theorem State.storeAll_cdyCheck {ws : List (Nat × List Byte)} : (s.storeAll ws).cdyCheck = s.cdyCheck := by
  unfold State.storeAll; induction ws generalizing s with
  | nil => rfl
  | cons w r ih => rw [List.foldl_cons, ih]; simp
@[simp] theorem State.storeAll_tin {ws : List (Nat × List Byte)} : (s.storeAll ws).tin = s.tin := by
  unfold State.storeAll; induction ws generalizing s with
  | nil => rfl
  | cons w r ih => rw [List.foldl_cons, ih]; simp
@[simp] theorem State.storeAll_upd {ws : List (Nat × List Byte)} : (s.storeAll ws).upd = s.upd := by
  unfold State.storeAll; induction ws generalizing s with
  | nil => rfl
  | cons w r ih => rw [List.foldl_cons, ih]; simp
@[simp] theorem State.storeAll_inf {ws : List (Nat × List Byte)} : (s.storeAll ws).inf = s.inf := by
  unfold State.storeAll; induction ws generalizing s with
  | nil => rfl
  | cons w r ih => rw [List.foldl_cons, ih]; simp
@[simp] theorem State.storeAll_pfx {ws : List (Nat × List Byte)} : (s.storeAll ws).pfx = s.pfx := by
  unfold State.storeAll; induction ws generalizing s with
  | nil => rfl
  | cons w r ih => rw [List.foldl_cons, ih]; simp
@[simp] theorem State.storeAll_host {ws : List (Nat × List Byte)} : (s.storeAll ws).host = s.host := by
  unfold State.storeAll; induction ws generalizing s with
  | nil => rfl
  | cons w r ih => rw [List.foldl_cons, ih]; simp
@[simp] theorem State.storeAll_irq {ws : List (Nat × List Byte)} : (s.storeAll ws).irq = s.irq := by
  unfold State.storeAll; induction ws generalizing s with
  | nil => rfl
  | cons w r ih => rw [List.foldl_cons, ih]; simp
@[simp] theorem State.storeAll_wdn {ws : List (Nat × List Byte)} : (s.storeAll ws).wdn = s.wdn := by
  unfold State.storeAll; induction ws generalizing s with
  | nil => rfl
  | cons w r ih => rw [List.foldl_cons, ih]; simp
@[simp] theorem State.storeAll_ktl {ws : List (Nat × List Byte)} : (s.storeAll ws).ktl = s.ktl := by
  unfold State.storeAll; induction ws generalizing s with
  | nil => rfl
  | cons w r ih => rw [List.foldl_cons, ih]; simp
@[simp] theorem State.storeAll_freeCount {ws : List (Nat × List Byte)} : (s.storeAll ws).freeCount = s.freeCount := by
  unfold State.storeAll; induction ws generalizing s with
  | nil => rfl
  | cons w r ih => rw [List.foldl_cons, ih]; simp
@[simp] theorem State.storeAll_out {ws : List (Nat × List Byte)} : (s.storeAll ws).out = s.out := by
  unfold State.storeAll; induction ws generalizing s with
  | nil => rfl
  | cons w r ih => rw [List.foldl_cons, ih]; simp

/-! ### zero -/

@[simp] theorem State.zero_pending {a n : Nat} : (s.zero a n).pending = s.pending := rfl
@[simp] theorem State.zero_pwr {a n : Nat} : (s.zero a n).pwr = s.pwr := rfl
@[simp] theorem State.zero_clk {a n : Nat} : (s.zero a n).clk = s.clk := rfl
@[simp] theorem State.zero_fuse {a n : Nat} : (s.zero a n).fuse = s.fuse := rfl
@[simp] theorem State.zero_boot {a n : Nat} : (s.zero a n).boot = s.boot := rfl
@[simp] theorem State.zero_ht {a n : Nat} : (s.zero a n).ht = s.ht := rfl
@[simp] theorem State.zero_bld {a n : Nat} : (s.zero a n).bld = s.bld := rfl
@[simp] theorem State.zero_jobs {a n : Nat} : (s.zero a n).jobs = s.jobs := rfl
@[simp] theorem State.zero_queues {a n : Nat} : (s.zero a n).queues = s.queues := rfl
@[simp] theorem State.zero_pass {a n : Nat} : (s.zero a n).pass = s.pass := rfl
@[simp] theorem State.zero_live {a n : Nat} : (s.zero a n).live = s.live := rfl
@[simp] theorem State.zero_eng {a n : Nat} : (s.zero a n).eng = s.eng := rfl
@[simp] theorem State.zero_rings {a n : Nat} : (s.zero a n).rings = s.rings := rfl
@[simp] theorem State.zero_cores {a n : Nat} : (s.zero a n).cores = s.cores := rfl
@[simp] theorem State.zero_urn {a n : Nat} : (s.zero a n).urn = s.urn := rfl
@[simp] theorem State.zero_str {a n : Nat} : (s.zero a n).str = s.str := rfl
@[simp] theorem State.zero_spt {a n : Nat} : (s.zero a n).spt = s.spt := rfl
@[simp] theorem State.zero_ports {a n : Nat} : (s.zero a n).ports = s.ports := rfl
@[simp] theorem State.zero_fab {a n : Nat} : (s.zero a n).fab = s.fab := rfl
@[simp] theorem State.zero_col {a n : Nat} : (s.zero a n).col = s.col := rfl
@[simp] theorem State.zero_scrubs {a n : Nat} : (s.zero a n).scrubs = s.scrubs := rfl
@[simp] theorem State.zero_pools {a n : Nat} : (s.zero a n).pools = s.pools := rfl
@[simp] theorem State.zero_cdyCheck {a n : Nat} : (s.zero a n).cdyCheck = s.cdyCheck := rfl
@[simp] theorem State.zero_tin {a n : Nat} : (s.zero a n).tin = s.tin := rfl
@[simp] theorem State.zero_upd {a n : Nat} : (s.zero a n).upd = s.upd := rfl
@[simp] theorem State.zero_inf {a n : Nat} : (s.zero a n).inf = s.inf := rfl
@[simp] theorem State.zero_pfx {a n : Nat} : (s.zero a n).pfx = s.pfx := rfl
@[simp] theorem State.zero_host {a n : Nat} : (s.zero a n).host = s.host := rfl
@[simp] theorem State.zero_irq {a n : Nat} : (s.zero a n).irq = s.irq := rfl
@[simp] theorem State.zero_wdn {a n : Nat} : (s.zero a n).wdn = s.wdn := rfl
@[simp] theorem State.zero_ktl {a n : Nat} : (s.zero a n).ktl = s.ktl := rfl
@[simp] theorem State.zero_freeCount {a n : Nat} : (s.zero a n).freeCount = s.freeCount := rfl
@[simp] theorem State.zero_out {a n : Nat} : (s.zero a n).out = s.out := rfl

/-! ### claim -/

@[simp] theorem State.claim_pending {rs : List (Nat × Nat)} : (s.claim rs).pending = s.pending := rfl
@[simp] theorem State.claim_pwr {rs : List (Nat × Nat)} : (s.claim rs).pwr = s.pwr := rfl
@[simp] theorem State.claim_clk {rs : List (Nat × Nat)} : (s.claim rs).clk = s.clk := rfl
@[simp] theorem State.claim_fuse {rs : List (Nat × Nat)} : (s.claim rs).fuse = s.fuse := rfl
@[simp] theorem State.claim_boot {rs : List (Nat × Nat)} : (s.claim rs).boot = s.boot := rfl
@[simp] theorem State.claim_ht {rs : List (Nat × Nat)} : (s.claim rs).ht = s.ht := rfl
@[simp] theorem State.claim_bld {rs : List (Nat × Nat)} : (s.claim rs).bld = s.bld := rfl
@[simp] theorem State.claim_mem {rs : List (Nat × Nat)} : (s.claim rs).mem = s.mem := rfl
@[simp] theorem State.claim_jobs {rs : List (Nat × Nat)} : (s.claim rs).jobs = s.jobs := rfl
@[simp] theorem State.claim_queues {rs : List (Nat × Nat)} : (s.claim rs).queues = s.queues := rfl
@[simp] theorem State.claim_pass {rs : List (Nat × Nat)} : (s.claim rs).pass = s.pass := rfl
@[simp] theorem State.claim_live {rs : List (Nat × Nat)} : (s.claim rs).live = s.live := rfl
@[simp] theorem State.claim_eng {rs : List (Nat × Nat)} : (s.claim rs).eng = s.eng := rfl
@[simp] theorem State.claim_rings {rs : List (Nat × Nat)} : (s.claim rs).rings = s.rings := rfl
@[simp] theorem State.claim_cores {rs : List (Nat × Nat)} : (s.claim rs).cores = s.cores := rfl
@[simp] theorem State.claim_urn {rs : List (Nat × Nat)} : (s.claim rs).urn = s.urn := rfl
@[simp] theorem State.claim_str {rs : List (Nat × Nat)} : (s.claim rs).str = s.str := rfl
@[simp] theorem State.claim_spt {rs : List (Nat × Nat)} : (s.claim rs).spt = s.spt := rfl
@[simp] theorem State.claim_ports {rs : List (Nat × Nat)} : (s.claim rs).ports = s.ports := rfl
@[simp] theorem State.claim_fab {rs : List (Nat × Nat)} : (s.claim rs).fab = s.fab := rfl
@[simp] theorem State.claim_col {rs : List (Nat × Nat)} : (s.claim rs).col = s.col := rfl
@[simp] theorem State.claim_scrubs {rs : List (Nat × Nat)} : (s.claim rs).scrubs = s.scrubs := rfl
@[simp] theorem State.claim_pools {rs : List (Nat × Nat)} : (s.claim rs).pools = s.pools := rfl
@[simp] theorem State.claim_cdyCheck {rs : List (Nat × Nat)} : (s.claim rs).cdyCheck = s.cdyCheck := rfl
@[simp] theorem State.claim_tin {rs : List (Nat × Nat)} : (s.claim rs).tin = s.tin := rfl
@[simp] theorem State.claim_upd {rs : List (Nat × Nat)} : (s.claim rs).upd = s.upd := rfl
@[simp] theorem State.claim_inf {rs : List (Nat × Nat)} : (s.claim rs).inf = s.inf := rfl
@[simp] theorem State.claim_pfx {rs : List (Nat × Nat)} : (s.claim rs).pfx = s.pfx := rfl
@[simp] theorem State.claim_host {rs : List (Nat × Nat)} : (s.claim rs).host = s.host := rfl
@[simp] theorem State.claim_irq {rs : List (Nat × Nat)} : (s.claim rs).irq = s.irq := rfl
@[simp] theorem State.claim_wdn {rs : List (Nat × Nat)} : (s.claim rs).wdn = s.wdn := rfl
@[simp] theorem State.claim_ktl {rs : List (Nat × Nat)} : (s.claim rs).ktl = s.ktl := rfl
@[simp] theorem State.claim_log {rs : List (Nat × Nat)} : (s.claim rs).log = s.log := rfl
@[simp] theorem State.claim_freeCount {rs : List (Nat × Nat)} : (s.claim rs).freeCount = s.freeCount := rfl

/-! ### countUncorr -/

@[simp] theorem State.countUncorr_pending : (s.countUncorr).pending = s.pending := rfl
@[simp] theorem State.countUncorr_pwr : (s.countUncorr).pwr = s.pwr := rfl
@[simp] theorem State.countUncorr_clk : (s.countUncorr).clk = s.clk := rfl
@[simp] theorem State.countUncorr_fuse : (s.countUncorr).fuse = s.fuse := rfl
@[simp] theorem State.countUncorr_boot : (s.countUncorr).boot = s.boot := rfl
@[simp] theorem State.countUncorr_ht : (s.countUncorr).ht = s.ht := rfl
@[simp] theorem State.countUncorr_bld : (s.countUncorr).bld = s.bld := rfl
@[simp] theorem State.countUncorr_mem : (s.countUncorr).mem = s.mem := rfl
@[simp] theorem State.countUncorr_jobs : (s.countUncorr).jobs = s.jobs := rfl
@[simp] theorem State.countUncorr_queues : (s.countUncorr).queues = s.queues := rfl
@[simp] theorem State.countUncorr_pass : (s.countUncorr).pass = s.pass := rfl
@[simp] theorem State.countUncorr_live : (s.countUncorr).live = s.live := rfl
@[simp] theorem State.countUncorr_eng : (s.countUncorr).eng = s.eng := rfl
@[simp] theorem State.countUncorr_rings : (s.countUncorr).rings = s.rings := rfl
@[simp] theorem State.countUncorr_cores : (s.countUncorr).cores = s.cores := rfl
@[simp] theorem State.countUncorr_urn : (s.countUncorr).urn = s.urn := rfl
@[simp] theorem State.countUncorr_str : (s.countUncorr).str = s.str := rfl
@[simp] theorem State.countUncorr_spt : (s.countUncorr).spt = s.spt := rfl
@[simp] theorem State.countUncorr_ports : (s.countUncorr).ports = s.ports := rfl
@[simp] theorem State.countUncorr_fab : (s.countUncorr).fab = s.fab := rfl
@[simp] theorem State.countUncorr_col : (s.countUncorr).col = s.col := rfl
@[simp] theorem State.countUncorr_scrubs : (s.countUncorr).scrubs = s.scrubs := rfl
@[simp] theorem State.countUncorr_pools : (s.countUncorr).pools = s.pools := rfl
@[simp] theorem State.countUncorr_cdyCheck : (s.countUncorr).cdyCheck = s.cdyCheck := rfl
@[simp] theorem State.countUncorr_tin : (s.countUncorr).tin = s.tin := rfl
@[simp] theorem State.countUncorr_upd : (s.countUncorr).upd = s.upd := rfl
@[simp] theorem State.countUncorr_inf : (s.countUncorr).inf = s.inf := rfl
@[simp] theorem State.countUncorr_pfx : (s.countUncorr).pfx = s.pfx := rfl
@[simp] theorem State.countUncorr_host : (s.countUncorr).host = s.host := rfl
@[simp] theorem State.countUncorr_irq : (s.countUncorr).irq = s.irq := rfl
@[simp] theorem State.countUncorr_wdn : (s.countUncorr).wdn = s.wdn := rfl
@[simp] theorem State.countUncorr_ktl : (s.countUncorr).ktl = s.ktl := rfl
@[simp] theorem State.countUncorr_freeCount : (s.countUncorr).freeCount = s.freeCount := rfl
@[simp] theorem State.countUncorr_out : (s.countUncorr).out = s.out := rfl

/-! ### tallyEcc -/

@[simp] theorem State.tallyEcc_pending {n : Nat} : (s.tallyEcc n).pending = s.pending := by unfold State.tallyEcc; split <;> rfl
@[simp] theorem State.tallyEcc_pwr {n : Nat} : (s.tallyEcc n).pwr = s.pwr := by unfold State.tallyEcc; split <;> rfl
@[simp] theorem State.tallyEcc_clk {n : Nat} : (s.tallyEcc n).clk = s.clk := by unfold State.tallyEcc; split <;> rfl
@[simp] theorem State.tallyEcc_fuse {n : Nat} : (s.tallyEcc n).fuse = s.fuse := by unfold State.tallyEcc; split <;> rfl
@[simp] theorem State.tallyEcc_boot {n : Nat} : (s.tallyEcc n).boot = s.boot := by unfold State.tallyEcc; split <;> rfl
@[simp] theorem State.tallyEcc_ht {n : Nat} : (s.tallyEcc n).ht = s.ht := by unfold State.tallyEcc; split <;> rfl
@[simp] theorem State.tallyEcc_bld {n : Nat} : (s.tallyEcc n).bld = s.bld := by unfold State.tallyEcc; split <;> rfl
@[simp] theorem State.tallyEcc_mem {n : Nat} : (s.tallyEcc n).mem = s.mem := by unfold State.tallyEcc; split <;> rfl
@[simp] theorem State.tallyEcc_jobs {n : Nat} : (s.tallyEcc n).jobs = s.jobs := by unfold State.tallyEcc; split <;> rfl
@[simp] theorem State.tallyEcc_queues {n : Nat} : (s.tallyEcc n).queues = s.queues := by unfold State.tallyEcc; split <;> rfl
@[simp] theorem State.tallyEcc_pass {n : Nat} : (s.tallyEcc n).pass = s.pass := by unfold State.tallyEcc; split <;> rfl
@[simp] theorem State.tallyEcc_live {n : Nat} : (s.tallyEcc n).live = s.live := by unfold State.tallyEcc; split <;> rfl
@[simp] theorem State.tallyEcc_eng {n : Nat} : (s.tallyEcc n).eng = s.eng := by unfold State.tallyEcc; split <;> rfl
@[simp] theorem State.tallyEcc_rings {n : Nat} : (s.tallyEcc n).rings = s.rings := by unfold State.tallyEcc; split <;> rfl
@[simp] theorem State.tallyEcc_cores {n : Nat} : (s.tallyEcc n).cores = s.cores := by unfold State.tallyEcc; split <;> rfl
@[simp] theorem State.tallyEcc_urn {n : Nat} : (s.tallyEcc n).urn = s.urn := by unfold State.tallyEcc; split <;> rfl
@[simp] theorem State.tallyEcc_str {n : Nat} : (s.tallyEcc n).str = s.str := by unfold State.tallyEcc; split <;> rfl
@[simp] theorem State.tallyEcc_spt {n : Nat} : (s.tallyEcc n).spt = s.spt := by unfold State.tallyEcc; split <;> rfl
@[simp] theorem State.tallyEcc_ports {n : Nat} : (s.tallyEcc n).ports = s.ports := by unfold State.tallyEcc; split <;> rfl
@[simp] theorem State.tallyEcc_fab {n : Nat} : (s.tallyEcc n).fab = s.fab := by unfold State.tallyEcc; split <;> rfl
@[simp] theorem State.tallyEcc_col {n : Nat} : (s.tallyEcc n).col = s.col := by unfold State.tallyEcc; split <;> rfl
@[simp] theorem State.tallyEcc_scrubs {n : Nat} : (s.tallyEcc n).scrubs = s.scrubs := by unfold State.tallyEcc; split <;> rfl
@[simp] theorem State.tallyEcc_pools {n : Nat} : (s.tallyEcc n).pools = s.pools := by unfold State.tallyEcc; split <;> rfl
@[simp] theorem State.tallyEcc_cdyCheck {n : Nat} : (s.tallyEcc n).cdyCheck = s.cdyCheck := by unfold State.tallyEcc; split <;> rfl
@[simp] theorem State.tallyEcc_tin {n : Nat} : (s.tallyEcc n).tin = s.tin := by unfold State.tallyEcc; split <;> rfl
@[simp] theorem State.tallyEcc_upd {n : Nat} : (s.tallyEcc n).upd = s.upd := by unfold State.tallyEcc; split <;> rfl
@[simp] theorem State.tallyEcc_inf {n : Nat} : (s.tallyEcc n).inf = s.inf := by unfold State.tallyEcc; split <;> rfl
@[simp] theorem State.tallyEcc_pfx {n : Nat} : (s.tallyEcc n).pfx = s.pfx := by unfold State.tallyEcc; split <;> rfl
@[simp] theorem State.tallyEcc_host {n : Nat} : (s.tallyEcc n).host = s.host := by unfold State.tallyEcc; split <;> rfl
@[simp] theorem State.tallyEcc_irq {n : Nat} : (s.tallyEcc n).irq = s.irq := by unfold State.tallyEcc; split <;> rfl
@[simp] theorem State.tallyEcc_wdn {n : Nat} : (s.tallyEcc n).wdn = s.wdn := by unfold State.tallyEcc; split <;> rfl
@[simp] theorem State.tallyEcc_ktl {n : Nat} : (s.tallyEcc n).ktl = s.ktl := by unfold State.tallyEcc; split <;> rfl
@[simp] theorem State.tallyEcc_freeCount {n : Nat} : (s.tallyEcc n).freeCount = s.freeCount := by unfold State.tallyEcc; split <;> rfl
@[simp] theorem State.tallyEcc_out {n : Nat} : (s.tallyEcc n).out = s.out := by unfold State.tallyEcc; split <;> rfl

/-! ### leaveUndefined -/

@[simp] theorem State.leaveUndefined_pending {rs : List (Nat × Nat)} : (s.leaveUndefined rs).pending = s.pending := by unfold State.leaveUndefined; split <;> rfl
@[simp] theorem State.leaveUndefined_pwr {rs : List (Nat × Nat)} : (s.leaveUndefined rs).pwr = s.pwr := by unfold State.leaveUndefined; split <;> rfl
@[simp] theorem State.leaveUndefined_clk {rs : List (Nat × Nat)} : (s.leaveUndefined rs).clk = s.clk := by unfold State.leaveUndefined; split <;> rfl
@[simp] theorem State.leaveUndefined_fuse {rs : List (Nat × Nat)} : (s.leaveUndefined rs).fuse = s.fuse := by unfold State.leaveUndefined; split <;> rfl
@[simp] theorem State.leaveUndefined_boot {rs : List (Nat × Nat)} : (s.leaveUndefined rs).boot = s.boot := by unfold State.leaveUndefined; split <;> rfl
@[simp] theorem State.leaveUndefined_ht {rs : List (Nat × Nat)} : (s.leaveUndefined rs).ht = s.ht := by unfold State.leaveUndefined; split <;> rfl
@[simp] theorem State.leaveUndefined_bld {rs : List (Nat × Nat)} : (s.leaveUndefined rs).bld = s.bld := by unfold State.leaveUndefined; split <;> rfl
@[simp] theorem State.leaveUndefined_jobs {rs : List (Nat × Nat)} : (s.leaveUndefined rs).jobs = s.jobs := by unfold State.leaveUndefined; split <;> rfl
@[simp] theorem State.leaveUndefined_queues {rs : List (Nat × Nat)} : (s.leaveUndefined rs).queues = s.queues := by unfold State.leaveUndefined; split <;> rfl
@[simp] theorem State.leaveUndefined_pass {rs : List (Nat × Nat)} : (s.leaveUndefined rs).pass = s.pass := by unfold State.leaveUndefined; split <;> rfl
@[simp] theorem State.leaveUndefined_live {rs : List (Nat × Nat)} : (s.leaveUndefined rs).live = s.live := by unfold State.leaveUndefined; split <;> rfl
@[simp] theorem State.leaveUndefined_eng {rs : List (Nat × Nat)} : (s.leaveUndefined rs).eng = s.eng := by unfold State.leaveUndefined; split <;> rfl
@[simp] theorem State.leaveUndefined_rings {rs : List (Nat × Nat)} : (s.leaveUndefined rs).rings = s.rings := by unfold State.leaveUndefined; split <;> rfl
@[simp] theorem State.leaveUndefined_cores {rs : List (Nat × Nat)} : (s.leaveUndefined rs).cores = s.cores := by unfold State.leaveUndefined; split <;> rfl
@[simp] theorem State.leaveUndefined_urn {rs : List (Nat × Nat)} : (s.leaveUndefined rs).urn = s.urn := by unfold State.leaveUndefined; split <;> rfl
@[simp] theorem State.leaveUndefined_str {rs : List (Nat × Nat)} : (s.leaveUndefined rs).str = s.str := by unfold State.leaveUndefined; split <;> rfl
@[simp] theorem State.leaveUndefined_spt {rs : List (Nat × Nat)} : (s.leaveUndefined rs).spt = s.spt := by unfold State.leaveUndefined; split <;> rfl
@[simp] theorem State.leaveUndefined_ports {rs : List (Nat × Nat)} : (s.leaveUndefined rs).ports = s.ports := by unfold State.leaveUndefined; split <;> rfl
@[simp] theorem State.leaveUndefined_fab {rs : List (Nat × Nat)} : (s.leaveUndefined rs).fab = s.fab := by unfold State.leaveUndefined; split <;> rfl
@[simp] theorem State.leaveUndefined_col {rs : List (Nat × Nat)} : (s.leaveUndefined rs).col = s.col := by unfold State.leaveUndefined; split <;> rfl
@[simp] theorem State.leaveUndefined_scrubs {rs : List (Nat × Nat)} : (s.leaveUndefined rs).scrubs = s.scrubs := by unfold State.leaveUndefined; split <;> rfl
@[simp] theorem State.leaveUndefined_pools {rs : List (Nat × Nat)} : (s.leaveUndefined rs).pools = s.pools := by unfold State.leaveUndefined; split <;> rfl
@[simp] theorem State.leaveUndefined_cdyCheck {rs : List (Nat × Nat)} : (s.leaveUndefined rs).cdyCheck = s.cdyCheck := by unfold State.leaveUndefined; split <;> rfl
@[simp] theorem State.leaveUndefined_tin {rs : List (Nat × Nat)} : (s.leaveUndefined rs).tin = s.tin := by unfold State.leaveUndefined; split <;> rfl
@[simp] theorem State.leaveUndefined_upd {rs : List (Nat × Nat)} : (s.leaveUndefined rs).upd = s.upd := by unfold State.leaveUndefined; split <;> rfl
@[simp] theorem State.leaveUndefined_inf {rs : List (Nat × Nat)} : (s.leaveUndefined rs).inf = s.inf := by unfold State.leaveUndefined; split <;> rfl
@[simp] theorem State.leaveUndefined_pfx {rs : List (Nat × Nat)} : (s.leaveUndefined rs).pfx = s.pfx := by unfold State.leaveUndefined; split <;> rfl
@[simp] theorem State.leaveUndefined_host {rs : List (Nat × Nat)} : (s.leaveUndefined rs).host = s.host := by unfold State.leaveUndefined; split <;> rfl
@[simp] theorem State.leaveUndefined_irq {rs : List (Nat × Nat)} : (s.leaveUndefined rs).irq = s.irq := by unfold State.leaveUndefined; split <;> rfl
@[simp] theorem State.leaveUndefined_wdn {rs : List (Nat × Nat)} : (s.leaveUndefined rs).wdn = s.wdn := by unfold State.leaveUndefined; split <;> rfl
@[simp] theorem State.leaveUndefined_ktl {rs : List (Nat × Nat)} : (s.leaveUndefined rs).ktl = s.ktl := by unfold State.leaveUndefined; split <;> rfl
@[simp] theorem State.leaveUndefined_log {rs : List (Nat × Nat)} : (s.leaveUndefined rs).log = s.log := by unfold State.leaveUndefined; split <;> rfl
@[simp] theorem State.leaveUndefined_out {rs : List (Nat × Nat)} : (s.leaveUndefined rs).out = s.out := by unfold State.leaveUndefined; split <;> rfl

/-! ### alarmsRaised -/

@[simp] theorem State.alarmsRaised_pending {n : Nat} : (s.alarmsRaised n).pending = s.pending := by
  unfold State.alarmsRaised; generalize List.range n = l; induction l generalizing s with
  | nil => rfl
  | cons x r ih => rw [List.foldl_cons, ih]; simp
@[simp] theorem State.alarmsRaised_pwr {n : Nat} : (s.alarmsRaised n).pwr = s.pwr := by
  unfold State.alarmsRaised; generalize List.range n = l; induction l generalizing s with
  | nil => rfl
  | cons x r ih => rw [List.foldl_cons, ih]; simp
@[simp] theorem State.alarmsRaised_clk {n : Nat} : (s.alarmsRaised n).clk = s.clk := by
  unfold State.alarmsRaised; generalize List.range n = l; induction l generalizing s with
  | nil => rfl
  | cons x r ih => rw [List.foldl_cons, ih]; simp
@[simp] theorem State.alarmsRaised_fuse {n : Nat} : (s.alarmsRaised n).fuse = s.fuse := by
  unfold State.alarmsRaised; generalize List.range n = l; induction l generalizing s with
  | nil => rfl
  | cons x r ih => rw [List.foldl_cons, ih]; simp
@[simp] theorem State.alarmsRaised_boot {n : Nat} : (s.alarmsRaised n).boot = s.boot := by
  unfold State.alarmsRaised; generalize List.range n = l; induction l generalizing s with
  | nil => rfl
  | cons x r ih => rw [List.foldl_cons, ih]; simp
@[simp] theorem State.alarmsRaised_ht {n : Nat} : (s.alarmsRaised n).ht = s.ht := by
  unfold State.alarmsRaised; generalize List.range n = l; induction l generalizing s with
  | nil => rfl
  | cons x r ih => rw [List.foldl_cons, ih]; simp
@[simp] theorem State.alarmsRaised_bld {n : Nat} : (s.alarmsRaised n).bld = s.bld := by
  unfold State.alarmsRaised; generalize List.range n = l; induction l generalizing s with
  | nil => rfl
  | cons x r ih => rw [List.foldl_cons, ih]; simp
@[simp] theorem State.alarmsRaised_mem {n : Nat} : (s.alarmsRaised n).mem = s.mem := by
  unfold State.alarmsRaised; generalize List.range n = l; induction l generalizing s with
  | nil => rfl
  | cons x r ih => rw [List.foldl_cons, ih]; simp
@[simp] theorem State.alarmsRaised_jobs {n : Nat} : (s.alarmsRaised n).jobs = s.jobs := by
  unfold State.alarmsRaised; generalize List.range n = l; induction l generalizing s with
  | nil => rfl
  | cons x r ih => rw [List.foldl_cons, ih]; simp
@[simp] theorem State.alarmsRaised_queues {n : Nat} : (s.alarmsRaised n).queues = s.queues := by
  unfold State.alarmsRaised; generalize List.range n = l; induction l generalizing s with
  | nil => rfl
  | cons x r ih => rw [List.foldl_cons, ih]; simp
@[simp] theorem State.alarmsRaised_pass {n : Nat} : (s.alarmsRaised n).pass = s.pass := by
  unfold State.alarmsRaised; generalize List.range n = l; induction l generalizing s with
  | nil => rfl
  | cons x r ih => rw [List.foldl_cons, ih]; simp
@[simp] theorem State.alarmsRaised_live {n : Nat} : (s.alarmsRaised n).live = s.live := by
  unfold State.alarmsRaised; generalize List.range n = l; induction l generalizing s with
  | nil => rfl
  | cons x r ih => rw [List.foldl_cons, ih]; simp
@[simp] theorem State.alarmsRaised_eng {n : Nat} : (s.alarmsRaised n).eng = s.eng := by
  unfold State.alarmsRaised; generalize List.range n = l; induction l generalizing s with
  | nil => rfl
  | cons x r ih => rw [List.foldl_cons, ih]; simp
@[simp] theorem State.alarmsRaised_rings {n : Nat} : (s.alarmsRaised n).rings = s.rings := by
  unfold State.alarmsRaised; generalize List.range n = l; induction l generalizing s with
  | nil => rfl
  | cons x r ih => rw [List.foldl_cons, ih]; simp
@[simp] theorem State.alarmsRaised_cores {n : Nat} : (s.alarmsRaised n).cores = s.cores := by
  unfold State.alarmsRaised; generalize List.range n = l; induction l generalizing s with
  | nil => rfl
  | cons x r ih => rw [List.foldl_cons, ih]; simp
@[simp] theorem State.alarmsRaised_urn {n : Nat} : (s.alarmsRaised n).urn = s.urn := by
  unfold State.alarmsRaised; generalize List.range n = l; induction l generalizing s with
  | nil => rfl
  | cons x r ih => rw [List.foldl_cons, ih]; simp
@[simp] theorem State.alarmsRaised_str {n : Nat} : (s.alarmsRaised n).str = s.str := by
  unfold State.alarmsRaised; generalize List.range n = l; induction l generalizing s with
  | nil => rfl
  | cons x r ih => rw [List.foldl_cons, ih]; simp
@[simp] theorem State.alarmsRaised_spt {n : Nat} : (s.alarmsRaised n).spt = s.spt := by
  unfold State.alarmsRaised; generalize List.range n = l; induction l generalizing s with
  | nil => rfl
  | cons x r ih => rw [List.foldl_cons, ih]; simp
@[simp] theorem State.alarmsRaised_ports {n : Nat} : (s.alarmsRaised n).ports = s.ports := by
  unfold State.alarmsRaised; generalize List.range n = l; induction l generalizing s with
  | nil => rfl
  | cons x r ih => rw [List.foldl_cons, ih]; simp
@[simp] theorem State.alarmsRaised_fab {n : Nat} : (s.alarmsRaised n).fab = s.fab := by
  unfold State.alarmsRaised; generalize List.range n = l; induction l generalizing s with
  | nil => rfl
  | cons x r ih => rw [List.foldl_cons, ih]; simp
@[simp] theorem State.alarmsRaised_col {n : Nat} : (s.alarmsRaised n).col = s.col := by
  unfold State.alarmsRaised; generalize List.range n = l; induction l generalizing s with
  | nil => rfl
  | cons x r ih => rw [List.foldl_cons, ih]; simp
@[simp] theorem State.alarmsRaised_scrubs {n : Nat} : (s.alarmsRaised n).scrubs = s.scrubs := by
  unfold State.alarmsRaised; generalize List.range n = l; induction l generalizing s with
  | nil => rfl
  | cons x r ih => rw [List.foldl_cons, ih]; simp
@[simp] theorem State.alarmsRaised_pools {n : Nat} : (s.alarmsRaised n).pools = s.pools := by
  unfold State.alarmsRaised; generalize List.range n = l; induction l generalizing s with
  | nil => rfl
  | cons x r ih => rw [List.foldl_cons, ih]; simp
@[simp] theorem State.alarmsRaised_cdyCheck {n : Nat} : (s.alarmsRaised n).cdyCheck = s.cdyCheck := by
  unfold State.alarmsRaised; generalize List.range n = l; induction l generalizing s with
  | nil => rfl
  | cons x r ih => rw [List.foldl_cons, ih]; simp
@[simp] theorem State.alarmsRaised_tin {n : Nat} : (s.alarmsRaised n).tin = s.tin := by
  unfold State.alarmsRaised; generalize List.range n = l; induction l generalizing s with
  | nil => rfl
  | cons x r ih => rw [List.foldl_cons, ih]; simp
@[simp] theorem State.alarmsRaised_upd {n : Nat} : (s.alarmsRaised n).upd = s.upd := by
  unfold State.alarmsRaised; generalize List.range n = l; induction l generalizing s with
  | nil => rfl
  | cons x r ih => rw [List.foldl_cons, ih]; simp
@[simp] theorem State.alarmsRaised_inf {n : Nat} : (s.alarmsRaised n).inf = s.inf := by
  unfold State.alarmsRaised; generalize List.range n = l; induction l generalizing s with
  | nil => rfl
  | cons x r ih => rw [List.foldl_cons, ih]; simp
@[simp] theorem State.alarmsRaised_pfx {n : Nat} : (s.alarmsRaised n).pfx = s.pfx := by
  unfold State.alarmsRaised; generalize List.range n = l; induction l generalizing s with
  | nil => rfl
  | cons x r ih => rw [List.foldl_cons, ih]; simp
@[simp] theorem State.alarmsRaised_host {n : Nat} : (s.alarmsRaised n).host = s.host := by
  unfold State.alarmsRaised; generalize List.range n = l; induction l generalizing s with
  | nil => rfl
  | cons x r ih => rw [List.foldl_cons, ih]; simp
@[simp] theorem State.alarmsRaised_wdn {n : Nat} : (s.alarmsRaised n).wdn = s.wdn := by
  unfold State.alarmsRaised; generalize List.range n = l; induction l generalizing s with
  | nil => rfl
  | cons x r ih => rw [List.foldl_cons, ih]; simp
@[simp] theorem State.alarmsRaised_ktl {n : Nat} : (s.alarmsRaised n).ktl = s.ktl := by
  unfold State.alarmsRaised; generalize List.range n = l; induction l generalizing s with
  | nil => rfl
  | cons x r ih => rw [List.foldl_cons, ih]; simp
@[simp] theorem State.alarmsRaised_log {n : Nat} : (s.alarmsRaised n).log = s.log := by
  unfold State.alarmsRaised; generalize List.range n = l; induction l generalizing s with
  | nil => rfl
  | cons x r ih => rw [List.foldl_cons, ih]; simp
@[simp] theorem State.alarmsRaised_freeCount {n : Nat} : (s.alarmsRaised n).freeCount = s.freeCount := by
  unfold State.alarmsRaised; generalize List.range n = l; induction l generalizing s with
  | nil => rfl
  | cons x r ih => rw [List.foldl_cons, ih]; simp

/-! ### onLog -/


/-! ### offer -/

@[simp] theorem State.offer_pending {e : LogEntry} : (s.offer e).pending = s.pending := by simp [State.offer]
@[simp] theorem State.offer_pwr {e : LogEntry} : (s.offer e).pwr = s.pwr := by simp [State.offer]
@[simp] theorem State.offer_clk {e : LogEntry} : (s.offer e).clk = s.clk := by simp [State.offer]
@[simp] theorem State.offer_fuse {e : LogEntry} : (s.offer e).fuse = s.fuse := by simp [State.offer]
@[simp] theorem State.offer_boot {e : LogEntry} : (s.offer e).boot = s.boot := by simp [State.offer]
@[simp] theorem State.offer_ht {e : LogEntry} : (s.offer e).ht = s.ht := by simp [State.offer]
@[simp] theorem State.offer_bld {e : LogEntry} : (s.offer e).bld = s.bld := by simp [State.offer]
@[simp] theorem State.offer_mem {e : LogEntry} : (s.offer e).mem = s.mem := by simp [State.offer]
@[simp] theorem State.offer_jobs {e : LogEntry} : (s.offer e).jobs = s.jobs := by simp [State.offer]
@[simp] theorem State.offer_queues {e : LogEntry} : (s.offer e).queues = s.queues := by simp [State.offer]
@[simp] theorem State.offer_pass {e : LogEntry} : (s.offer e).pass = s.pass := by simp [State.offer]
@[simp] theorem State.offer_live {e : LogEntry} : (s.offer e).live = s.live := by simp [State.offer]
@[simp] theorem State.offer_eng {e : LogEntry} : (s.offer e).eng = s.eng := by simp [State.offer]
@[simp] theorem State.offer_rings {e : LogEntry} : (s.offer e).rings = s.rings := by simp [State.offer]
@[simp] theorem State.offer_cores {e : LogEntry} : (s.offer e).cores = s.cores := by simp [State.offer]
@[simp] theorem State.offer_urn {e : LogEntry} : (s.offer e).urn = s.urn := by simp [State.offer]
@[simp] theorem State.offer_str {e : LogEntry} : (s.offer e).str = s.str := by simp [State.offer]
@[simp] theorem State.offer_spt {e : LogEntry} : (s.offer e).spt = s.spt := by simp [State.offer]
@[simp] theorem State.offer_ports {e : LogEntry} : (s.offer e).ports = s.ports := by simp [State.offer]
@[simp] theorem State.offer_fab {e : LogEntry} : (s.offer e).fab = s.fab := by simp [State.offer]
@[simp] theorem State.offer_col {e : LogEntry} : (s.offer e).col = s.col := by simp [State.offer]
@[simp] theorem State.offer_scrubs {e : LogEntry} : (s.offer e).scrubs = s.scrubs := by simp [State.offer]
@[simp] theorem State.offer_pools {e : LogEntry} : (s.offer e).pools = s.pools := by simp [State.offer]
@[simp] theorem State.offer_cdyCheck {e : LogEntry} : (s.offer e).cdyCheck = s.cdyCheck := by simp [State.offer]
@[simp] theorem State.offer_tin {e : LogEntry} : (s.offer e).tin = s.tin := by simp [State.offer]
@[simp] theorem State.offer_upd {e : LogEntry} : (s.offer e).upd = s.upd := by simp [State.offer]
@[simp] theorem State.offer_inf {e : LogEntry} : (s.offer e).inf = s.inf := by simp [State.offer]
@[simp] theorem State.offer_pfx {e : LogEntry} : (s.offer e).pfx = s.pfx := by simp [State.offer]
@[simp] theorem State.offer_host {e : LogEntry} : (s.offer e).host = s.host := by simp [State.offer]
@[simp] theorem State.offer_irq {e : LogEntry} : (s.offer e).irq = s.irq := by simp [State.offer]
@[simp] theorem State.offer_wdn {e : LogEntry} : (s.offer e).wdn = s.wdn := by simp [State.offer]
@[simp] theorem State.offer_ktl {e : LogEntry} : (s.offer e).ktl = s.ktl := by simp [State.offer]
@[simp] theorem State.offer_freeCount {e : LogEntry} : (s.offer e).freeCount = s.freeCount := by simp [State.offer]
@[simp] theorem State.offer_out {e : LogEntry} : (s.offer e).out = s.out := by simp [State.offer]

/-! ### event -/

@[simp] theorem State.event_pending {a b c d e f : Nat} : (s.event a b c d e f).pending = s.pending := by simp [State.event]
@[simp] theorem State.event_pwr {a b c d e f : Nat} : (s.event a b c d e f).pwr = s.pwr := by simp [State.event]
@[simp] theorem State.event_clk {a b c d e f : Nat} : (s.event a b c d e f).clk = s.clk := by simp [State.event]
@[simp] theorem State.event_fuse {a b c d e f : Nat} : (s.event a b c d e f).fuse = s.fuse := by simp [State.event]
@[simp] theorem State.event_boot {a b c d e f : Nat} : (s.event a b c d e f).boot = s.boot := by simp [State.event]
@[simp] theorem State.event_ht {a b c d e f : Nat} : (s.event a b c d e f).ht = s.ht := by simp [State.event]
@[simp] theorem State.event_bld {a b c d e f : Nat} : (s.event a b c d e f).bld = s.bld := by simp [State.event]
@[simp] theorem State.event_mem {a b c d e f : Nat} : (s.event a b c d e f).mem = s.mem := by simp [State.event]
@[simp] theorem State.event_jobs {a b c d e f : Nat} : (s.event a b c d e f).jobs = s.jobs := by simp [State.event]
@[simp] theorem State.event_queues {a b c d e f : Nat} : (s.event a b c d e f).queues = s.queues := by simp [State.event]
@[simp] theorem State.event_pass {a b c d e f : Nat} : (s.event a b c d e f).pass = s.pass := by simp [State.event]
@[simp] theorem State.event_live {a b c d e f : Nat} : (s.event a b c d e f).live = s.live := by simp [State.event]
@[simp] theorem State.event_eng {a b c d e f : Nat} : (s.event a b c d e f).eng = s.eng := by simp [State.event]
@[simp] theorem State.event_rings {a b c d e f : Nat} : (s.event a b c d e f).rings = s.rings := by simp [State.event]
@[simp] theorem State.event_cores {a b c d e f : Nat} : (s.event a b c d e f).cores = s.cores := by simp [State.event]
@[simp] theorem State.event_urn {a b c d e f : Nat} : (s.event a b c d e f).urn = s.urn := by simp [State.event]
@[simp] theorem State.event_str {a b c d e f : Nat} : (s.event a b c d e f).str = s.str := by simp [State.event]
@[simp] theorem State.event_spt {a b c d e f : Nat} : (s.event a b c d e f).spt = s.spt := by simp [State.event]
@[simp] theorem State.event_ports {a b c d e f : Nat} : (s.event a b c d e f).ports = s.ports := by simp [State.event]
@[simp] theorem State.event_fab {a b c d e f : Nat} : (s.event a b c d e f).fab = s.fab := by simp [State.event]
@[simp] theorem State.event_col {a b c d e f : Nat} : (s.event a b c d e f).col = s.col := by simp [State.event]
@[simp] theorem State.event_scrubs {a b c d e f : Nat} : (s.event a b c d e f).scrubs = s.scrubs := by simp [State.event]
@[simp] theorem State.event_pools {a b c d e f : Nat} : (s.event a b c d e f).pools = s.pools := by simp [State.event]
@[simp] theorem State.event_cdyCheck {a b c d e f : Nat} : (s.event a b c d e f).cdyCheck = s.cdyCheck := by simp [State.event]
@[simp] theorem State.event_tin {a b c d e f : Nat} : (s.event a b c d e f).tin = s.tin := by simp [State.event]
@[simp] theorem State.event_upd {a b c d e f : Nat} : (s.event a b c d e f).upd = s.upd := by simp [State.event]
@[simp] theorem State.event_inf {a b c d e f : Nat} : (s.event a b c d e f).inf = s.inf := by simp [State.event]
@[simp] theorem State.event_pfx {a b c d e f : Nat} : (s.event a b c d e f).pfx = s.pfx := by simp [State.event]
@[simp] theorem State.event_host {a b c d e f : Nat} : (s.event a b c d e f).host = s.host := by simp [State.event]
@[simp] theorem State.event_irq {a b c d e f : Nat} : (s.event a b c d e f).irq = s.irq := by simp [State.event]
@[simp] theorem State.event_wdn {a b c d e f : Nat} : (s.event a b c d e f).wdn = s.wdn := by simp [State.event]
@[simp] theorem State.event_ktl {a b c d e f : Nat} : (s.event a b c d e f).ktl = s.ktl := by simp [State.event]
@[simp] theorem State.event_freeCount {a b c d e f : Nat} : (s.event a b c d e f).freeCount = s.freeCount := by simp [State.event]
@[simp] theorem State.event_out {a b c d e f : Nat} : (s.event a b c d e f).out = s.out := by simp [State.event]

/-! ### jobEvent -/

@[simp] theorem State.jobEvent_pending {a b c d e f g : Nat} : (s.jobEvent a b c d e f g).pending = s.pending := by simp [State.jobEvent]
@[simp] theorem State.jobEvent_pwr {a b c d e f g : Nat} : (s.jobEvent a b c d e f g).pwr = s.pwr := by simp [State.jobEvent]
@[simp] theorem State.jobEvent_clk {a b c d e f g : Nat} : (s.jobEvent a b c d e f g).clk = s.clk := by simp [State.jobEvent]
@[simp] theorem State.jobEvent_fuse {a b c d e f g : Nat} : (s.jobEvent a b c d e f g).fuse = s.fuse := by simp [State.jobEvent]
@[simp] theorem State.jobEvent_boot {a b c d e f g : Nat} : (s.jobEvent a b c d e f g).boot = s.boot := by simp [State.jobEvent]
@[simp] theorem State.jobEvent_ht {a b c d e f g : Nat} : (s.jobEvent a b c d e f g).ht = s.ht := by simp [State.jobEvent]
@[simp] theorem State.jobEvent_bld {a b c d e f g : Nat} : (s.jobEvent a b c d e f g).bld = s.bld := by simp [State.jobEvent]
@[simp] theorem State.jobEvent_mem {a b c d e f g : Nat} : (s.jobEvent a b c d e f g).mem = s.mem := by simp [State.jobEvent]
@[simp] theorem State.jobEvent_jobs {a b c d e f g : Nat} : (s.jobEvent a b c d e f g).jobs = s.jobs := by simp [State.jobEvent]
@[simp] theorem State.jobEvent_queues {a b c d e f g : Nat} : (s.jobEvent a b c d e f g).queues = s.queues := by simp [State.jobEvent]
@[simp] theorem State.jobEvent_pass {a b c d e f g : Nat} : (s.jobEvent a b c d e f g).pass = s.pass := by simp [State.jobEvent]
@[simp] theorem State.jobEvent_live {a b c d e f g : Nat} : (s.jobEvent a b c d e f g).live = s.live := by simp [State.jobEvent]
@[simp] theorem State.jobEvent_eng {a b c d e f g : Nat} : (s.jobEvent a b c d e f g).eng = s.eng := by simp [State.jobEvent]
@[simp] theorem State.jobEvent_rings {a b c d e f g : Nat} : (s.jobEvent a b c d e f g).rings = s.rings := by simp [State.jobEvent]
@[simp] theorem State.jobEvent_cores {a b c d e f g : Nat} : (s.jobEvent a b c d e f g).cores = s.cores := by simp [State.jobEvent]
@[simp] theorem State.jobEvent_urn {a b c d e f g : Nat} : (s.jobEvent a b c d e f g).urn = s.urn := by simp [State.jobEvent]
@[simp] theorem State.jobEvent_str {a b c d e f g : Nat} : (s.jobEvent a b c d e f g).str = s.str := by simp [State.jobEvent]
@[simp] theorem State.jobEvent_spt {a b c d e f g : Nat} : (s.jobEvent a b c d e f g).spt = s.spt := by simp [State.jobEvent]
@[simp] theorem State.jobEvent_ports {a b c d e f g : Nat} : (s.jobEvent a b c d e f g).ports = s.ports := by simp [State.jobEvent]
@[simp] theorem State.jobEvent_fab {a b c d e f g : Nat} : (s.jobEvent a b c d e f g).fab = s.fab := by simp [State.jobEvent]
@[simp] theorem State.jobEvent_col {a b c d e f g : Nat} : (s.jobEvent a b c d e f g).col = s.col := by simp [State.jobEvent]
@[simp] theorem State.jobEvent_scrubs {a b c d e f g : Nat} : (s.jobEvent a b c d e f g).scrubs = s.scrubs := by simp [State.jobEvent]
@[simp] theorem State.jobEvent_pools {a b c d e f g : Nat} : (s.jobEvent a b c d e f g).pools = s.pools := by simp [State.jobEvent]
@[simp] theorem State.jobEvent_cdyCheck {a b c d e f g : Nat} : (s.jobEvent a b c d e f g).cdyCheck = s.cdyCheck := by simp [State.jobEvent]
@[simp] theorem State.jobEvent_tin {a b c d e f g : Nat} : (s.jobEvent a b c d e f g).tin = s.tin := by simp [State.jobEvent]
@[simp] theorem State.jobEvent_upd {a b c d e f g : Nat} : (s.jobEvent a b c d e f g).upd = s.upd := by simp [State.jobEvent]
@[simp] theorem State.jobEvent_inf {a b c d e f g : Nat} : (s.jobEvent a b c d e f g).inf = s.inf := by simp [State.jobEvent]
@[simp] theorem State.jobEvent_pfx {a b c d e f g : Nat} : (s.jobEvent a b c d e f g).pfx = s.pfx := by simp [State.jobEvent]
@[simp] theorem State.jobEvent_host {a b c d e f g : Nat} : (s.jobEvent a b c d e f g).host = s.host := by simp [State.jobEvent]
@[simp] theorem State.jobEvent_irq {a b c d e f g : Nat} : (s.jobEvent a b c d e f g).irq = s.irq := by simp [State.jobEvent]
@[simp] theorem State.jobEvent_wdn {a b c d e f g : Nat} : (s.jobEvent a b c d e f g).wdn = s.wdn := by simp [State.jobEvent]
@[simp] theorem State.jobEvent_ktl {a b c d e f g : Nat} : (s.jobEvent a b c d e f g).ktl = s.ktl := by simp [State.jobEvent]
@[simp] theorem State.jobEvent_freeCount {a b c d e f g : Nat} : (s.jobEvent a b c d e f g).freeCount = s.freeCount := by simp [State.jobEvent]
@[simp] theorem State.jobEvent_out {a b c d e f g : Nat} : (s.jobEvent a b c d e f g).out = s.out := by simp [State.jobEvent]

/-! ### signal -/

@[simp] theorem State.signal_pending {j : Nat} {g : BitVec 8} : (s.signal j g).pending = s.pending := by unfold State.signal; split <;> simp
@[simp] theorem State.signal_pwr {j : Nat} {g : BitVec 8} : (s.signal j g).pwr = s.pwr := by unfold State.signal; split <;> simp
@[simp] theorem State.signal_clk {j : Nat} {g : BitVec 8} : (s.signal j g).clk = s.clk := by unfold State.signal; split <;> simp
@[simp] theorem State.signal_fuse {j : Nat} {g : BitVec 8} : (s.signal j g).fuse = s.fuse := by unfold State.signal; split <;> simp
@[simp] theorem State.signal_boot {j : Nat} {g : BitVec 8} : (s.signal j g).boot = s.boot := by unfold State.signal; split <;> simp
@[simp] theorem State.signal_ht {j : Nat} {g : BitVec 8} : (s.signal j g).ht = s.ht := by unfold State.signal; split <;> simp
@[simp] theorem State.signal_bld {j : Nat} {g : BitVec 8} : (s.signal j g).bld = s.bld := by unfold State.signal; split <;> simp
@[simp] theorem State.signal_mem {j : Nat} {g : BitVec 8} : (s.signal j g).mem = s.mem := by unfold State.signal; split <;> simp
@[simp] theorem State.signal_queues {j : Nat} {g : BitVec 8} : (s.signal j g).queues = s.queues := by unfold State.signal; split <;> simp
@[simp] theorem State.signal_pass {j : Nat} {g : BitVec 8} : (s.signal j g).pass = s.pass := by unfold State.signal; split <;> simp
@[simp] theorem State.signal_live {j : Nat} {g : BitVec 8} : (s.signal j g).live = s.live := by unfold State.signal; split <;> simp
@[simp] theorem State.signal_eng {j : Nat} {g : BitVec 8} : (s.signal j g).eng = s.eng := by unfold State.signal; split <;> simp
@[simp] theorem State.signal_rings {j : Nat} {g : BitVec 8} : (s.signal j g).rings = s.rings := by unfold State.signal; split <;> simp
@[simp] theorem State.signal_cores {j : Nat} {g : BitVec 8} : (s.signal j g).cores = s.cores := by unfold State.signal; split <;> simp
@[simp] theorem State.signal_urn {j : Nat} {g : BitVec 8} : (s.signal j g).urn = s.urn := by unfold State.signal; split <;> simp
@[simp] theorem State.signal_str {j : Nat} {g : BitVec 8} : (s.signal j g).str = s.str := by unfold State.signal; split <;> simp
@[simp] theorem State.signal_spt {j : Nat} {g : BitVec 8} : (s.signal j g).spt = s.spt := by unfold State.signal; split <;> simp
@[simp] theorem State.signal_ports {j : Nat} {g : BitVec 8} : (s.signal j g).ports = s.ports := by unfold State.signal; split <;> simp
@[simp] theorem State.signal_fab {j : Nat} {g : BitVec 8} : (s.signal j g).fab = s.fab := by unfold State.signal; split <;> simp
@[simp] theorem State.signal_col {j : Nat} {g : BitVec 8} : (s.signal j g).col = s.col := by unfold State.signal; split <;> simp
@[simp] theorem State.signal_scrubs {j : Nat} {g : BitVec 8} : (s.signal j g).scrubs = s.scrubs := by unfold State.signal; split <;> simp
@[simp] theorem State.signal_pools {j : Nat} {g : BitVec 8} : (s.signal j g).pools = s.pools := by unfold State.signal; split <;> simp
@[simp] theorem State.signal_cdyCheck {j : Nat} {g : BitVec 8} : (s.signal j g).cdyCheck = s.cdyCheck := by unfold State.signal; split <;> simp
@[simp] theorem State.signal_tin {j : Nat} {g : BitVec 8} : (s.signal j g).tin = s.tin := by unfold State.signal; split <;> simp
@[simp] theorem State.signal_upd {j : Nat} {g : BitVec 8} : (s.signal j g).upd = s.upd := by unfold State.signal; split <;> simp
@[simp] theorem State.signal_inf {j : Nat} {g : BitVec 8} : (s.signal j g).inf = s.inf := by unfold State.signal; split <;> simp
@[simp] theorem State.signal_pfx {j : Nat} {g : BitVec 8} : (s.signal j g).pfx = s.pfx := by unfold State.signal; split <;> simp
@[simp] theorem State.signal_host {j : Nat} {g : BitVec 8} : (s.signal j g).host = s.host := by unfold State.signal; split <;> simp
@[simp] theorem State.signal_irq {j : Nat} {g : BitVec 8} : (s.signal j g).irq = s.irq := by unfold State.signal; split <;> simp
@[simp] theorem State.signal_wdn {j : Nat} {g : BitVec 8} : (s.signal j g).wdn = s.wdn := by unfold State.signal; split <;> simp
@[simp] theorem State.signal_ktl {j : Nat} {g : BitVec 8} : (s.signal j g).ktl = s.ktl := by unfold State.signal; split <;> simp
@[simp] theorem State.signal_log {j : Nat} {g : BitVec 8} : (s.signal j g).log = s.log := by unfold State.signal; split <;> simp
@[simp] theorem State.signal_freeCount {j : Nat} {g : BitVec 8} : (s.signal j g).freeCount = s.freeCount := by unfold State.signal; split <;> simp
@[simp] theorem State.signal_out {j : Nat} {g : BitVec 8} : (s.signal j g).out = s.out := by unfold State.signal; split <;> simp

/-! ### ringInterrupt -/

@[simp] theorem State.ringInterrupt_pending {r : Nat} : (s.ringInterrupt r).pending = s.pending := by simp [State.ringInterrupt]
@[simp] theorem State.ringInterrupt_pwr {r : Nat} : (s.ringInterrupt r).pwr = s.pwr := by simp [State.ringInterrupt]
@[simp] theorem State.ringInterrupt_clk {r : Nat} : (s.ringInterrupt r).clk = s.clk := by simp [State.ringInterrupt]
@[simp] theorem State.ringInterrupt_fuse {r : Nat} : (s.ringInterrupt r).fuse = s.fuse := by simp [State.ringInterrupt]
@[simp] theorem State.ringInterrupt_boot {r : Nat} : (s.ringInterrupt r).boot = s.boot := by simp [State.ringInterrupt]
@[simp] theorem State.ringInterrupt_ht {r : Nat} : (s.ringInterrupt r).ht = s.ht := by simp [State.ringInterrupt]
@[simp] theorem State.ringInterrupt_bld {r : Nat} : (s.ringInterrupt r).bld = s.bld := by simp [State.ringInterrupt]
@[simp] theorem State.ringInterrupt_mem {r : Nat} : (s.ringInterrupt r).mem = s.mem := by simp [State.ringInterrupt]
@[simp] theorem State.ringInterrupt_jobs {r : Nat} : (s.ringInterrupt r).jobs = s.jobs := by simp [State.ringInterrupt]
@[simp] theorem State.ringInterrupt_queues {r : Nat} : (s.ringInterrupt r).queues = s.queues := by simp [State.ringInterrupt]
@[simp] theorem State.ringInterrupt_pass {r : Nat} : (s.ringInterrupt r).pass = s.pass := by simp [State.ringInterrupt]
@[simp] theorem State.ringInterrupt_live {r : Nat} : (s.ringInterrupt r).live = s.live := by simp [State.ringInterrupt]
@[simp] theorem State.ringInterrupt_eng {r : Nat} : (s.ringInterrupt r).eng = s.eng := by simp [State.ringInterrupt]
@[simp] theorem State.ringInterrupt_cores {r : Nat} : (s.ringInterrupt r).cores = s.cores := by simp [State.ringInterrupt]
@[simp] theorem State.ringInterrupt_urn {r : Nat} : (s.ringInterrupt r).urn = s.urn := by simp [State.ringInterrupt]
@[simp] theorem State.ringInterrupt_str {r : Nat} : (s.ringInterrupt r).str = s.str := by simp [State.ringInterrupt]
@[simp] theorem State.ringInterrupt_spt {r : Nat} : (s.ringInterrupt r).spt = s.spt := by simp [State.ringInterrupt]
@[simp] theorem State.ringInterrupt_ports {r : Nat} : (s.ringInterrupt r).ports = s.ports := by simp [State.ringInterrupt]
@[simp] theorem State.ringInterrupt_fab {r : Nat} : (s.ringInterrupt r).fab = s.fab := by simp [State.ringInterrupt]
@[simp] theorem State.ringInterrupt_col {r : Nat} : (s.ringInterrupt r).col = s.col := by simp [State.ringInterrupt]
@[simp] theorem State.ringInterrupt_scrubs {r : Nat} : (s.ringInterrupt r).scrubs = s.scrubs := by simp [State.ringInterrupt]
@[simp] theorem State.ringInterrupt_pools {r : Nat} : (s.ringInterrupt r).pools = s.pools := by simp [State.ringInterrupt]
@[simp] theorem State.ringInterrupt_cdyCheck {r : Nat} : (s.ringInterrupt r).cdyCheck = s.cdyCheck := by simp [State.ringInterrupt]
@[simp] theorem State.ringInterrupt_tin {r : Nat} : (s.ringInterrupt r).tin = s.tin := by simp [State.ringInterrupt]
@[simp] theorem State.ringInterrupt_upd {r : Nat} : (s.ringInterrupt r).upd = s.upd := by simp [State.ringInterrupt]
@[simp] theorem State.ringInterrupt_inf {r : Nat} : (s.ringInterrupt r).inf = s.inf := by simp [State.ringInterrupt]
@[simp] theorem State.ringInterrupt_pfx {r : Nat} : (s.ringInterrupt r).pfx = s.pfx := by simp [State.ringInterrupt]
@[simp] theorem State.ringInterrupt_host {r : Nat} : (s.ringInterrupt r).host = s.host := by simp [State.ringInterrupt]
@[simp] theorem State.ringInterrupt_wdn {r : Nat} : (s.ringInterrupt r).wdn = s.wdn := by simp [State.ringInterrupt]
@[simp] theorem State.ringInterrupt_ktl {r : Nat} : (s.ringInterrupt r).ktl = s.ktl := by simp [State.ringInterrupt]
@[simp] theorem State.ringInterrupt_log {r : Nat} : (s.ringInterrupt r).log = s.log := by simp [State.ringInterrupt]
@[simp] theorem State.ringInterrupt_freeCount {r : Nat} : (s.ringInterrupt r).freeCount = s.freeCount := by simp [State.ringInterrupt]

/-! ### post -/

@[simp] theorem State.post_pending {c : Cmd} {b : List Byte} : (s.post c b).pending = s.pending := by
  unfold State.post; dsimp only; repeat' split
  all_goals simp
@[simp] theorem State.post_pwr {c : Cmd} {b : List Byte} : (s.post c b).pwr = s.pwr := by
  unfold State.post; dsimp only; repeat' split
  all_goals simp
@[simp] theorem State.post_clk {c : Cmd} {b : List Byte} : (s.post c b).clk = s.clk := by
  unfold State.post; dsimp only; repeat' split
  all_goals simp
@[simp] theorem State.post_fuse {c : Cmd} {b : List Byte} : (s.post c b).fuse = s.fuse := by
  unfold State.post; dsimp only; repeat' split
  all_goals simp
@[simp] theorem State.post_boot {c : Cmd} {b : List Byte} : (s.post c b).boot = s.boot := by
  unfold State.post; dsimp only; repeat' split
  all_goals simp
@[simp] theorem State.post_ht {c : Cmd} {b : List Byte} : (s.post c b).ht = s.ht := by
  unfold State.post; dsimp only; repeat' split
  all_goals simp
@[simp] theorem State.post_bld {c : Cmd} {b : List Byte} : (s.post c b).bld = s.bld := by
  unfold State.post; dsimp only; repeat' split
  all_goals simp
@[simp] theorem State.post_mem {c : Cmd} {b : List Byte} : (s.post c b).mem = s.mem := by
  unfold State.post; dsimp only; repeat' split
  all_goals simp
@[simp] theorem State.post_jobs {c : Cmd} {b : List Byte} : (s.post c b).jobs = s.jobs := by
  unfold State.post; dsimp only; repeat' split
  all_goals simp
@[simp] theorem State.post_queues {c : Cmd} {b : List Byte} : (s.post c b).queues = s.queues := by
  unfold State.post; dsimp only; repeat' split
  all_goals simp
@[simp] theorem State.post_pass {c : Cmd} {b : List Byte} : (s.post c b).pass = s.pass := by
  unfold State.post; dsimp only; repeat' split
  all_goals simp
@[simp] theorem State.post_live {c : Cmd} {b : List Byte} : (s.post c b).live = s.live := by
  unfold State.post; dsimp only; repeat' split
  all_goals simp
@[simp] theorem State.post_eng {c : Cmd} {b : List Byte} : (s.post c b).eng = s.eng := by
  unfold State.post; dsimp only; repeat' split
  all_goals simp
@[simp] theorem State.post_cores {c : Cmd} {b : List Byte} : (s.post c b).cores = s.cores := by
  unfold State.post; dsimp only; repeat' split
  all_goals simp
@[simp] theorem State.post_urn {c : Cmd} {b : List Byte} : (s.post c b).urn = s.urn := by
  unfold State.post; dsimp only; repeat' split
  all_goals simp
@[simp] theorem State.post_str {c : Cmd} {b : List Byte} : (s.post c b).str = s.str := by
  unfold State.post; dsimp only; repeat' split
  all_goals simp
@[simp] theorem State.post_spt {c : Cmd} {b : List Byte} : (s.post c b).spt = s.spt := by
  unfold State.post; dsimp only; repeat' split
  all_goals simp
@[simp] theorem State.post_ports {c : Cmd} {b : List Byte} : (s.post c b).ports = s.ports := by
  unfold State.post; dsimp only; repeat' split
  all_goals simp
@[simp] theorem State.post_fab {c : Cmd} {b : List Byte} : (s.post c b).fab = s.fab := by
  unfold State.post; dsimp only; repeat' split
  all_goals simp
@[simp] theorem State.post_col {c : Cmd} {b : List Byte} : (s.post c b).col = s.col := by
  unfold State.post; dsimp only; repeat' split
  all_goals simp
@[simp] theorem State.post_scrubs {c : Cmd} {b : List Byte} : (s.post c b).scrubs = s.scrubs := by
  unfold State.post; dsimp only; repeat' split
  all_goals simp
@[simp] theorem State.post_pools {c : Cmd} {b : List Byte} : (s.post c b).pools = s.pools := by
  unfold State.post; dsimp only; repeat' split
  all_goals simp
@[simp] theorem State.post_cdyCheck {c : Cmd} {b : List Byte} : (s.post c b).cdyCheck = s.cdyCheck := by
  unfold State.post; dsimp only; repeat' split
  all_goals simp
@[simp] theorem State.post_tin {c : Cmd} {b : List Byte} : (s.post c b).tin = s.tin := by
  unfold State.post; dsimp only; repeat' split
  all_goals simp
@[simp] theorem State.post_upd {c : Cmd} {b : List Byte} : (s.post c b).upd = s.upd := by
  unfold State.post; dsimp only; repeat' split
  all_goals simp
@[simp] theorem State.post_inf {c : Cmd} {b : List Byte} : (s.post c b).inf = s.inf := by
  unfold State.post; dsimp only; repeat' split
  all_goals simp
@[simp] theorem State.post_pfx {c : Cmd} {b : List Byte} : (s.post c b).pfx = s.pfx := by
  unfold State.post; dsimp only; repeat' split
  all_goals simp
@[simp] theorem State.post_host {c : Cmd} {b : List Byte} : (s.post c b).host = s.host := by
  unfold State.post; dsimp only; repeat' split
  all_goals simp
@[simp] theorem State.post_wdn {c : Cmd} {b : List Byte} : (s.post c b).wdn = s.wdn := by
  unfold State.post; dsimp only; repeat' split
  all_goals simp
@[simp] theorem State.post_ktl {c : Cmd} {b : List Byte} : (s.post c b).ktl = s.ktl := by
  unfold State.post; dsimp only; repeat' split
  all_goals simp
@[simp] theorem State.post_log {c : Cmd} {b : List Byte} : (s.post c b).log = s.log := by
  unfold State.post; dsimp only; repeat' split
  all_goals simp
@[simp] theorem State.post_freeCount {c : Cmd} {b : List Byte} : (s.post c b).freeCount = s.freeCount := by
  unfold State.post; dsimp only; repeat' split
  all_goals simp

/-! ### writeCompl -/

@[simp] theorem State.writeCompl_pending {c : Cmd} {b : List Byte} {g : Bool} : (s.writeCompl c b g).pending = s.pending := by
  unfold State.writeCompl; dsimp only; repeat' split
  all_goals simp
@[simp] theorem State.writeCompl_pwr {c : Cmd} {b : List Byte} {g : Bool} : (s.writeCompl c b g).pwr = s.pwr := by
  unfold State.writeCompl; dsimp only; repeat' split
  all_goals simp
@[simp] theorem State.writeCompl_clk {c : Cmd} {b : List Byte} {g : Bool} : (s.writeCompl c b g).clk = s.clk := by
  unfold State.writeCompl; dsimp only; repeat' split
  all_goals simp
@[simp] theorem State.writeCompl_fuse {c : Cmd} {b : List Byte} {g : Bool} : (s.writeCompl c b g).fuse = s.fuse := by
  unfold State.writeCompl; dsimp only; repeat' split
  all_goals simp
@[simp] theorem State.writeCompl_boot {c : Cmd} {b : List Byte} {g : Bool} : (s.writeCompl c b g).boot = s.boot := by
  unfold State.writeCompl; dsimp only; repeat' split
  all_goals simp
@[simp] theorem State.writeCompl_ht {c : Cmd} {b : List Byte} {g : Bool} : (s.writeCompl c b g).ht = s.ht := by
  unfold State.writeCompl; dsimp only; repeat' split
  all_goals simp
@[simp] theorem State.writeCompl_bld {c : Cmd} {b : List Byte} {g : Bool} : (s.writeCompl c b g).bld = s.bld := by
  unfold State.writeCompl; dsimp only; repeat' split
  all_goals simp
@[simp] theorem State.writeCompl_jobs {c : Cmd} {b : List Byte} {g : Bool} : (s.writeCompl c b g).jobs = s.jobs := by
  unfold State.writeCompl; dsimp only; repeat' split
  all_goals simp
@[simp] theorem State.writeCompl_queues {c : Cmd} {b : List Byte} {g : Bool} : (s.writeCompl c b g).queues = s.queues := by
  unfold State.writeCompl; dsimp only; repeat' split
  all_goals simp
@[simp] theorem State.writeCompl_pass {c : Cmd} {b : List Byte} {g : Bool} : (s.writeCompl c b g).pass = s.pass := by
  unfold State.writeCompl; dsimp only; repeat' split
  all_goals simp
@[simp] theorem State.writeCompl_live {c : Cmd} {b : List Byte} {g : Bool} : (s.writeCompl c b g).live = s.live := by
  unfold State.writeCompl; dsimp only; repeat' split
  all_goals simp
@[simp] theorem State.writeCompl_eng {c : Cmd} {b : List Byte} {g : Bool} : (s.writeCompl c b g).eng = s.eng := by
  unfold State.writeCompl; dsimp only; repeat' split
  all_goals simp
@[simp] theorem State.writeCompl_rings {c : Cmd} {b : List Byte} {g : Bool} : (s.writeCompl c b g).rings = s.rings := by
  unfold State.writeCompl; dsimp only; repeat' split
  all_goals simp
@[simp] theorem State.writeCompl_cores {c : Cmd} {b : List Byte} {g : Bool} : (s.writeCompl c b g).cores = s.cores := by
  unfold State.writeCompl; dsimp only; repeat' split
  all_goals simp
@[simp] theorem State.writeCompl_urn {c : Cmd} {b : List Byte} {g : Bool} : (s.writeCompl c b g).urn = s.urn := by
  unfold State.writeCompl; dsimp only; repeat' split
  all_goals simp
@[simp] theorem State.writeCompl_str {c : Cmd} {b : List Byte} {g : Bool} : (s.writeCompl c b g).str = s.str := by
  unfold State.writeCompl; dsimp only; repeat' split
  all_goals simp
@[simp] theorem State.writeCompl_spt {c : Cmd} {b : List Byte} {g : Bool} : (s.writeCompl c b g).spt = s.spt := by
  unfold State.writeCompl; dsimp only; repeat' split
  all_goals simp
@[simp] theorem State.writeCompl_ports {c : Cmd} {b : List Byte} {g : Bool} : (s.writeCompl c b g).ports = s.ports := by
  unfold State.writeCompl; dsimp only; repeat' split
  all_goals simp
@[simp] theorem State.writeCompl_col {c : Cmd} {b : List Byte} {g : Bool} : (s.writeCompl c b g).col = s.col := by
  unfold State.writeCompl; dsimp only; repeat' split
  all_goals simp
@[simp] theorem State.writeCompl_scrubs {c : Cmd} {b : List Byte} {g : Bool} : (s.writeCompl c b g).scrubs = s.scrubs := by
  unfold State.writeCompl; dsimp only; repeat' split
  all_goals simp
@[simp] theorem State.writeCompl_pools {c : Cmd} {b : List Byte} {g : Bool} : (s.writeCompl c b g).pools = s.pools := by
  unfold State.writeCompl; dsimp only; repeat' split
  all_goals simp
@[simp] theorem State.writeCompl_cdyCheck {c : Cmd} {b : List Byte} {g : Bool} : (s.writeCompl c b g).cdyCheck = s.cdyCheck := by
  unfold State.writeCompl; dsimp only; repeat' split
  all_goals simp
@[simp] theorem State.writeCompl_tin {c : Cmd} {b : List Byte} {g : Bool} : (s.writeCompl c b g).tin = s.tin := by
  unfold State.writeCompl; dsimp only; repeat' split
  all_goals simp
@[simp] theorem State.writeCompl_upd {c : Cmd} {b : List Byte} {g : Bool} : (s.writeCompl c b g).upd = s.upd := by
  unfold State.writeCompl; dsimp only; repeat' split
  all_goals simp
@[simp] theorem State.writeCompl_inf {c : Cmd} {b : List Byte} {g : Bool} : (s.writeCompl c b g).inf = s.inf := by
  unfold State.writeCompl; dsimp only; repeat' split
  all_goals simp
@[simp] theorem State.writeCompl_pfx {c : Cmd} {b : List Byte} {g : Bool} : (s.writeCompl c b g).pfx = s.pfx := by
  unfold State.writeCompl; dsimp only; repeat' split
  all_goals simp
@[simp] theorem State.writeCompl_host {c : Cmd} {b : List Byte} {g : Bool} : (s.writeCompl c b g).host = s.host := by
  unfold State.writeCompl; dsimp only; repeat' split
  all_goals simp
@[simp] theorem State.writeCompl_irq {c : Cmd} {b : List Byte} {g : Bool} : (s.writeCompl c b g).irq = s.irq := by
  unfold State.writeCompl; dsimp only; repeat' split
  all_goals simp
@[simp] theorem State.writeCompl_wdn {c : Cmd} {b : List Byte} {g : Bool} : (s.writeCompl c b g).wdn = s.wdn := by
  unfold State.writeCompl; dsimp only; repeat' split
  all_goals simp
@[simp] theorem State.writeCompl_ktl {c : Cmd} {b : List Byte} {g : Bool} : (s.writeCompl c b g).ktl = s.ktl := by
  unfold State.writeCompl; dsimp only; repeat' split
  all_goals simp
@[simp] theorem State.writeCompl_freeCount {c : Cmd} {b : List Byte} {g : Bool} : (s.writeCompl c b g).freeCount = s.freeCount := by
  unfold State.writeCompl; dsimp only; repeat' split
  all_goals simp

/-! ### conclude -/

@[simp] theorem State.conclude_pending {c : Cmd} {b : List Byte} {g : Bool} : (s.conclude c b g).pending = s.pending := by unfold State.conclude; split <;> simp
@[simp] theorem State.conclude_pwr {c : Cmd} {b : List Byte} {g : Bool} : (s.conclude c b g).pwr = s.pwr := by unfold State.conclude; split <;> simp
@[simp] theorem State.conclude_clk {c : Cmd} {b : List Byte} {g : Bool} : (s.conclude c b g).clk = s.clk := by unfold State.conclude; split <;> simp
@[simp] theorem State.conclude_fuse {c : Cmd} {b : List Byte} {g : Bool} : (s.conclude c b g).fuse = s.fuse := by unfold State.conclude; split <;> simp
@[simp] theorem State.conclude_boot {c : Cmd} {b : List Byte} {g : Bool} : (s.conclude c b g).boot = s.boot := by unfold State.conclude; split <;> simp
@[simp] theorem State.conclude_ht {c : Cmd} {b : List Byte} {g : Bool} : (s.conclude c b g).ht = s.ht := by unfold State.conclude; split <;> simp
@[simp] theorem State.conclude_bld {c : Cmd} {b : List Byte} {g : Bool} : (s.conclude c b g).bld = s.bld := by unfold State.conclude; split <;> simp
@[simp] theorem State.conclude_mem {c : Cmd} {b : List Byte} {g : Bool} : (s.conclude c b g).mem = s.mem := by unfold State.conclude; split <;> simp
@[simp] theorem State.conclude_queues {c : Cmd} {b : List Byte} {g : Bool} : (s.conclude c b g).queues = s.queues := by unfold State.conclude; split <;> simp
@[simp] theorem State.conclude_pass {c : Cmd} {b : List Byte} {g : Bool} : (s.conclude c b g).pass = s.pass := by unfold State.conclude; split <;> simp
@[simp] theorem State.conclude_live {c : Cmd} {b : List Byte} {g : Bool} : (s.conclude c b g).live = s.live := by unfold State.conclude; split <;> simp
@[simp] theorem State.conclude_eng {c : Cmd} {b : List Byte} {g : Bool} : (s.conclude c b g).eng = s.eng := by unfold State.conclude; split <;> simp
@[simp] theorem State.conclude_cores {c : Cmd} {b : List Byte} {g : Bool} : (s.conclude c b g).cores = s.cores := by unfold State.conclude; split <;> simp
@[simp] theorem State.conclude_urn {c : Cmd} {b : List Byte} {g : Bool} : (s.conclude c b g).urn = s.urn := by unfold State.conclude; split <;> simp
@[simp] theorem State.conclude_str {c : Cmd} {b : List Byte} {g : Bool} : (s.conclude c b g).str = s.str := by unfold State.conclude; split <;> simp
@[simp] theorem State.conclude_spt {c : Cmd} {b : List Byte} {g : Bool} : (s.conclude c b g).spt = s.spt := by unfold State.conclude; split <;> simp
@[simp] theorem State.conclude_ports {c : Cmd} {b : List Byte} {g : Bool} : (s.conclude c b g).ports = s.ports := by unfold State.conclude; split <;> simp
@[simp] theorem State.conclude_fab {c : Cmd} {b : List Byte} {g : Bool} : (s.conclude c b g).fab = s.fab := by unfold State.conclude; split <;> simp
@[simp] theorem State.conclude_col {c : Cmd} {b : List Byte} {g : Bool} : (s.conclude c b g).col = s.col := by unfold State.conclude; split <;> simp
@[simp] theorem State.conclude_scrubs {c : Cmd} {b : List Byte} {g : Bool} : (s.conclude c b g).scrubs = s.scrubs := by unfold State.conclude; split <;> simp
@[simp] theorem State.conclude_pools {c : Cmd} {b : List Byte} {g : Bool} : (s.conclude c b g).pools = s.pools := by unfold State.conclude; split <;> simp
@[simp] theorem State.conclude_cdyCheck {c : Cmd} {b : List Byte} {g : Bool} : (s.conclude c b g).cdyCheck = s.cdyCheck := by unfold State.conclude; split <;> simp
@[simp] theorem State.conclude_tin {c : Cmd} {b : List Byte} {g : Bool} : (s.conclude c b g).tin = s.tin := by unfold State.conclude; split <;> simp
@[simp] theorem State.conclude_upd {c : Cmd} {b : List Byte} {g : Bool} : (s.conclude c b g).upd = s.upd := by unfold State.conclude; split <;> simp
@[simp] theorem State.conclude_inf {c : Cmd} {b : List Byte} {g : Bool} : (s.conclude c b g).inf = s.inf := by unfold State.conclude; split <;> simp
@[simp] theorem State.conclude_pfx {c : Cmd} {b : List Byte} {g : Bool} : (s.conclude c b g).pfx = s.pfx := by unfold State.conclude; split <;> simp
@[simp] theorem State.conclude_host {c : Cmd} {b : List Byte} {g : Bool} : (s.conclude c b g).host = s.host := by unfold State.conclude; split <;> simp
@[simp] theorem State.conclude_wdn {c : Cmd} {b : List Byte} {g : Bool} : (s.conclude c b g).wdn = s.wdn := by unfold State.conclude; split <;> simp
@[simp] theorem State.conclude_ktl {c : Cmd} {b : List Byte} {g : Bool} : (s.conclude c b g).ktl = s.ktl := by unfold State.conclude; split <;> simp
@[simp] theorem State.conclude_log {c : Cmd} {b : List Byte} {g : Bool} : (s.conclude c b g).log = s.log := by unfold State.conclude; split <;> simp
@[simp] theorem State.conclude_freeCount {c : Cmd} {b : List Byte} {g : Bool} : (s.conclude c b g).freeCount = s.freeCount := by unfold State.conclude; split <;> simp

/-! ### finish -/

@[simp] theorem State.finish_pending {c : Cmd} {b : List Byte} {g : Bool} : (s.finish c b g).pending = s.pending := by unfold State.finish; split <;> simp
@[simp] theorem State.finish_pwr {c : Cmd} {b : List Byte} {g : Bool} : (s.finish c b g).pwr = s.pwr := by unfold State.finish; split <;> simp
@[simp] theorem State.finish_clk {c : Cmd} {b : List Byte} {g : Bool} : (s.finish c b g).clk = s.clk := by unfold State.finish; split <;> simp
@[simp] theorem State.finish_fuse {c : Cmd} {b : List Byte} {g : Bool} : (s.finish c b g).fuse = s.fuse := by unfold State.finish; split <;> simp
@[simp] theorem State.finish_boot {c : Cmd} {b : List Byte} {g : Bool} : (s.finish c b g).boot = s.boot := by unfold State.finish; split <;> simp
@[simp] theorem State.finish_ht {c : Cmd} {b : List Byte} {g : Bool} : (s.finish c b g).ht = s.ht := by unfold State.finish; split <;> simp
@[simp] theorem State.finish_bld {c : Cmd} {b : List Byte} {g : Bool} : (s.finish c b g).bld = s.bld := by unfold State.finish; split <;> simp
@[simp] theorem State.finish_queues {c : Cmd} {b : List Byte} {g : Bool} : (s.finish c b g).queues = s.queues := by unfold State.finish; split <;> simp
@[simp] theorem State.finish_pass {c : Cmd} {b : List Byte} {g : Bool} : (s.finish c b g).pass = s.pass := by unfold State.finish; split <;> simp
@[simp] theorem State.finish_live {c : Cmd} {b : List Byte} {g : Bool} : (s.finish c b g).live = s.live := by unfold State.finish; split <;> simp
@[simp] theorem State.finish_eng {c : Cmd} {b : List Byte} {g : Bool} : (s.finish c b g).eng = s.eng := by unfold State.finish; split <;> simp
@[simp] theorem State.finish_cores {c : Cmd} {b : List Byte} {g : Bool} : (s.finish c b g).cores = s.cores := by unfold State.finish; split <;> simp
@[simp] theorem State.finish_urn {c : Cmd} {b : List Byte} {g : Bool} : (s.finish c b g).urn = s.urn := by unfold State.finish; split <;> simp
@[simp] theorem State.finish_str {c : Cmd} {b : List Byte} {g : Bool} : (s.finish c b g).str = s.str := by unfold State.finish; split <;> simp
@[simp] theorem State.finish_spt {c : Cmd} {b : List Byte} {g : Bool} : (s.finish c b g).spt = s.spt := by unfold State.finish; split <;> simp
@[simp] theorem State.finish_ports {c : Cmd} {b : List Byte} {g : Bool} : (s.finish c b g).ports = s.ports := by unfold State.finish; split <;> simp
@[simp] theorem State.finish_col {c : Cmd} {b : List Byte} {g : Bool} : (s.finish c b g).col = s.col := by unfold State.finish; split <;> simp
@[simp] theorem State.finish_scrubs {c : Cmd} {b : List Byte} {g : Bool} : (s.finish c b g).scrubs = s.scrubs := by unfold State.finish; split <;> simp
@[simp] theorem State.finish_pools {c : Cmd} {b : List Byte} {g : Bool} : (s.finish c b g).pools = s.pools := by unfold State.finish; split <;> simp
@[simp] theorem State.finish_cdyCheck {c : Cmd} {b : List Byte} {g : Bool} : (s.finish c b g).cdyCheck = s.cdyCheck := by unfold State.finish; split <;> simp
@[simp] theorem State.finish_tin {c : Cmd} {b : List Byte} {g : Bool} : (s.finish c b g).tin = s.tin := by unfold State.finish; split <;> simp
@[simp] theorem State.finish_upd {c : Cmd} {b : List Byte} {g : Bool} : (s.finish c b g).upd = s.upd := by unfold State.finish; split <;> simp
@[simp] theorem State.finish_inf {c : Cmd} {b : List Byte} {g : Bool} : (s.finish c b g).inf = s.inf := by unfold State.finish; split <;> simp
@[simp] theorem State.finish_pfx {c : Cmd} {b : List Byte} {g : Bool} : (s.finish c b g).pfx = s.pfx := by unfold State.finish; split <;> simp
@[simp] theorem State.finish_host {c : Cmd} {b : List Byte} {g : Bool} : (s.finish c b g).host = s.host := by unfold State.finish; split <;> simp
@[simp] theorem State.finish_wdn {c : Cmd} {b : List Byte} {g : Bool} : (s.finish c b g).wdn = s.wdn := by unfold State.finish; split <;> simp
@[simp] theorem State.finish_ktl {c : Cmd} {b : List Byte} {g : Bool} : (s.finish c b g).ktl = s.ktl := by unfold State.finish; split <;> simp
@[simp] theorem State.finish_freeCount {c : Cmd} {b : List Byte} {g : Bool} : (s.finish c b g).freeCount = s.freeCount := by unfold State.finish; split <;> simp

/-! ### account -/

@[simp] theorem State.account_pending {c : Cmd} {n : Nat} : (s.account c n).pending = s.pending := by unfold State.account; split <;> simp
@[simp] theorem State.account_pwr {c : Cmd} {n : Nat} : (s.account c n).pwr = s.pwr := by unfold State.account; split <;> simp
@[simp] theorem State.account_clk {c : Cmd} {n : Nat} : (s.account c n).clk = s.clk := by unfold State.account; split <;> simp
@[simp] theorem State.account_fuse {c : Cmd} {n : Nat} : (s.account c n).fuse = s.fuse := by unfold State.account; split <;> simp
@[simp] theorem State.account_boot {c : Cmd} {n : Nat} : (s.account c n).boot = s.boot := by unfold State.account; split <;> simp
@[simp] theorem State.account_ht {c : Cmd} {n : Nat} : (s.account c n).ht = s.ht := by unfold State.account; split <;> simp
@[simp] theorem State.account_bld {c : Cmd} {n : Nat} : (s.account c n).bld = s.bld := by unfold State.account; split <;> simp
@[simp] theorem State.account_mem {c : Cmd} {n : Nat} : (s.account c n).mem = s.mem := by unfold State.account; split <;> simp
@[simp] theorem State.account_queues {c : Cmd} {n : Nat} : (s.account c n).queues = s.queues := by unfold State.account; split <;> simp
@[simp] theorem State.account_pass {c : Cmd} {n : Nat} : (s.account c n).pass = s.pass := by unfold State.account; split <;> simp
@[simp] theorem State.account_live {c : Cmd} {n : Nat} : (s.account c n).live = s.live := by unfold State.account; split <;> simp
@[simp] theorem State.account_eng {c : Cmd} {n : Nat} : (s.account c n).eng = s.eng := by unfold State.account; split <;> simp
@[simp] theorem State.account_rings {c : Cmd} {n : Nat} : (s.account c n).rings = s.rings := by unfold State.account; split <;> simp
@[simp] theorem State.account_cores {c : Cmd} {n : Nat} : (s.account c n).cores = s.cores := by unfold State.account; split <;> simp
@[simp] theorem State.account_urn {c : Cmd} {n : Nat} : (s.account c n).urn = s.urn := by unfold State.account; split <;> simp
@[simp] theorem State.account_str {c : Cmd} {n : Nat} : (s.account c n).str = s.str := by unfold State.account; split <;> simp
@[simp] theorem State.account_spt {c : Cmd} {n : Nat} : (s.account c n).spt = s.spt := by unfold State.account; split <;> simp
@[simp] theorem State.account_ports {c : Cmd} {n : Nat} : (s.account c n).ports = s.ports := by unfold State.account; split <;> simp
@[simp] theorem State.account_fab {c : Cmd} {n : Nat} : (s.account c n).fab = s.fab := by unfold State.account; split <;> simp
@[simp] theorem State.account_col {c : Cmd} {n : Nat} : (s.account c n).col = s.col := by unfold State.account; split <;> simp
@[simp] theorem State.account_scrubs {c : Cmd} {n : Nat} : (s.account c n).scrubs = s.scrubs := by unfold State.account; split <;> simp
@[simp] theorem State.account_pools {c : Cmd} {n : Nat} : (s.account c n).pools = s.pools := by unfold State.account; split <;> simp
@[simp] theorem State.account_cdyCheck {c : Cmd} {n : Nat} : (s.account c n).cdyCheck = s.cdyCheck := by unfold State.account; split <;> simp
@[simp] theorem State.account_tin {c : Cmd} {n : Nat} : (s.account c n).tin = s.tin := by unfold State.account; split <;> simp
@[simp] theorem State.account_upd {c : Cmd} {n : Nat} : (s.account c n).upd = s.upd := by unfold State.account; split <;> simp
@[simp] theorem State.account_inf {c : Cmd} {n : Nat} : (s.account c n).inf = s.inf := by unfold State.account; split <;> simp
@[simp] theorem State.account_pfx {c : Cmd} {n : Nat} : (s.account c n).pfx = s.pfx := by unfold State.account; split <;> simp
@[simp] theorem State.account_host {c : Cmd} {n : Nat} : (s.account c n).host = s.host := by unfold State.account; split <;> simp
@[simp] theorem State.account_irq {c : Cmd} {n : Nat} : (s.account c n).irq = s.irq := by unfold State.account; split <;> simp
@[simp] theorem State.account_wdn {c : Cmd} {n : Nat} : (s.account c n).wdn = s.wdn := by unfold State.account; split <;> simp
@[simp] theorem State.account_ktl {c : Cmd} {n : Nat} : (s.account c n).ktl = s.ktl := by unfold State.account; split <;> simp
@[simp] theorem State.account_log {c : Cmd} {n : Nat} : (s.account c n).log = s.log := by unfold State.account; split <;> simp
@[simp] theorem State.account_freeCount {c : Cmd} {n : Nat} : (s.account c n).freeCount = s.freeCount := by unfold State.account; split <;> simp
@[simp] theorem State.account_out {c : Cmd} {n : Nat} : (s.account c n).out = s.out := by unfold State.account; split <;> simp

/-! ### trace -/

@[simp] theorem State.trace_pending {c : Cmd} {n : Nat} : (s.trace c n).pending = s.pending := by unfold State.trace; split <;> simp
@[simp] theorem State.trace_pwr {c : Cmd} {n : Nat} : (s.trace c n).pwr = s.pwr := by unfold State.trace; split <;> simp
@[simp] theorem State.trace_clk {c : Cmd} {n : Nat} : (s.trace c n).clk = s.clk := by unfold State.trace; split <;> simp
@[simp] theorem State.trace_fuse {c : Cmd} {n : Nat} : (s.trace c n).fuse = s.fuse := by unfold State.trace; split <;> simp
@[simp] theorem State.trace_boot {c : Cmd} {n : Nat} : (s.trace c n).boot = s.boot := by unfold State.trace; split <;> simp
@[simp] theorem State.trace_ht {c : Cmd} {n : Nat} : (s.trace c n).ht = s.ht := by unfold State.trace; split <;> simp
@[simp] theorem State.trace_bld {c : Cmd} {n : Nat} : (s.trace c n).bld = s.bld := by unfold State.trace; split <;> simp
@[simp] theorem State.trace_mem {c : Cmd} {n : Nat} : (s.trace c n).mem = s.mem := by unfold State.trace; split <;> simp
@[simp] theorem State.trace_jobs {c : Cmd} {n : Nat} : (s.trace c n).jobs = s.jobs := by unfold State.trace; split <;> simp
@[simp] theorem State.trace_queues {c : Cmd} {n : Nat} : (s.trace c n).queues = s.queues := by unfold State.trace; split <;> simp
@[simp] theorem State.trace_pass {c : Cmd} {n : Nat} : (s.trace c n).pass = s.pass := by unfold State.trace; split <;> simp
@[simp] theorem State.trace_live {c : Cmd} {n : Nat} : (s.trace c n).live = s.live := by unfold State.trace; split <;> simp
@[simp] theorem State.trace_eng {c : Cmd} {n : Nat} : (s.trace c n).eng = s.eng := by unfold State.trace; split <;> simp
@[simp] theorem State.trace_rings {c : Cmd} {n : Nat} : (s.trace c n).rings = s.rings := by unfold State.trace; split <;> simp
@[simp] theorem State.trace_cores {c : Cmd} {n : Nat} : (s.trace c n).cores = s.cores := by unfold State.trace; split <;> simp
@[simp] theorem State.trace_urn {c : Cmd} {n : Nat} : (s.trace c n).urn = s.urn := by unfold State.trace; split <;> simp
@[simp] theorem State.trace_str {c : Cmd} {n : Nat} : (s.trace c n).str = s.str := by unfold State.trace; split <;> simp
@[simp] theorem State.trace_spt {c : Cmd} {n : Nat} : (s.trace c n).spt = s.spt := by unfold State.trace; split <;> simp
@[simp] theorem State.trace_ports {c : Cmd} {n : Nat} : (s.trace c n).ports = s.ports := by unfold State.trace; split <;> simp
@[simp] theorem State.trace_fab {c : Cmd} {n : Nat} : (s.trace c n).fab = s.fab := by unfold State.trace; split <;> simp
@[simp] theorem State.trace_col {c : Cmd} {n : Nat} : (s.trace c n).col = s.col := by unfold State.trace; split <;> simp
@[simp] theorem State.trace_scrubs {c : Cmd} {n : Nat} : (s.trace c n).scrubs = s.scrubs := by unfold State.trace; split <;> simp
@[simp] theorem State.trace_pools {c : Cmd} {n : Nat} : (s.trace c n).pools = s.pools := by unfold State.trace; split <;> simp
@[simp] theorem State.trace_cdyCheck {c : Cmd} {n : Nat} : (s.trace c n).cdyCheck = s.cdyCheck := by unfold State.trace; split <;> simp
@[simp] theorem State.trace_tin {c : Cmd} {n : Nat} : (s.trace c n).tin = s.tin := by unfold State.trace; split <;> simp
@[simp] theorem State.trace_upd {c : Cmd} {n : Nat} : (s.trace c n).upd = s.upd := by unfold State.trace; split <;> simp
@[simp] theorem State.trace_inf {c : Cmd} {n : Nat} : (s.trace c n).inf = s.inf := by unfold State.trace; split <;> simp
@[simp] theorem State.trace_pfx {c : Cmd} {n : Nat} : (s.trace c n).pfx = s.pfx := by unfold State.trace; split <;> simp
@[simp] theorem State.trace_host {c : Cmd} {n : Nat} : (s.trace c n).host = s.host := by unfold State.trace; split <;> simp
@[simp] theorem State.trace_irq {c : Cmd} {n : Nat} : (s.trace c n).irq = s.irq := by unfold State.trace; split <;> simp
@[simp] theorem State.trace_wdn {c : Cmd} {n : Nat} : (s.trace c n).wdn = s.wdn := by unfold State.trace; split <;> simp
@[simp] theorem State.trace_ktl {c : Cmd} {n : Nat} : (s.trace c n).ktl = s.ktl := by unfold State.trace; split <;> simp
@[simp] theorem State.trace_freeCount {c : Cmd} {n : Nat} : (s.trace c n).freeCount = s.freeCount := by unfold State.trace; split <;> simp
@[simp] theorem State.trace_out {c : Cmd} {n : Nat} : (s.trace c n).out = s.out := by unfold State.trace; split <;> simp

/-! ### absent -/

@[simp] theorem State.absent_pending {c : Cmd} {n : Nat} : (s.absent c n).pending = s.pending := by unfold State.absent; split <;> simp
@[simp] theorem State.absent_pwr {c : Cmd} {n : Nat} : (s.absent c n).pwr = s.pwr := by unfold State.absent; split <;> simp
@[simp] theorem State.absent_clk {c : Cmd} {n : Nat} : (s.absent c n).clk = s.clk := by unfold State.absent; split <;> simp
@[simp] theorem State.absent_fuse {c : Cmd} {n : Nat} : (s.absent c n).fuse = s.fuse := by unfold State.absent; split <;> simp
@[simp] theorem State.absent_boot {c : Cmd} {n : Nat} : (s.absent c n).boot = s.boot := by unfold State.absent; split <;> simp
@[simp] theorem State.absent_ht {c : Cmd} {n : Nat} : (s.absent c n).ht = s.ht := by unfold State.absent; split <;> simp
@[simp] theorem State.absent_bld {c : Cmd} {n : Nat} : (s.absent c n).bld = s.bld := by unfold State.absent; split <;> simp
@[simp] theorem State.absent_mem {c : Cmd} {n : Nat} : (s.absent c n).mem = s.mem := by unfold State.absent; split <;> simp
@[simp] theorem State.absent_jobs {c : Cmd} {n : Nat} : (s.absent c n).jobs = s.jobs := by unfold State.absent; split <;> simp
@[simp] theorem State.absent_queues {c : Cmd} {n : Nat} : (s.absent c n).queues = s.queues := by unfold State.absent; split <;> simp
@[simp] theorem State.absent_pass {c : Cmd} {n : Nat} : (s.absent c n).pass = s.pass := by unfold State.absent; split <;> simp
@[simp] theorem State.absent_live {c : Cmd} {n : Nat} : (s.absent c n).live = s.live := by unfold State.absent; split <;> simp
@[simp] theorem State.absent_eng {c : Cmd} {n : Nat} : (s.absent c n).eng = s.eng := by unfold State.absent; split <;> simp
@[simp] theorem State.absent_rings {c : Cmd} {n : Nat} : (s.absent c n).rings = s.rings := by unfold State.absent; split <;> simp
@[simp] theorem State.absent_cores {c : Cmd} {n : Nat} : (s.absent c n).cores = s.cores := by unfold State.absent; split <;> simp
@[simp] theorem State.absent_urn {c : Cmd} {n : Nat} : (s.absent c n).urn = s.urn := by unfold State.absent; split <;> simp
@[simp] theorem State.absent_str {c : Cmd} {n : Nat} : (s.absent c n).str = s.str := by unfold State.absent; split <;> simp
@[simp] theorem State.absent_spt {c : Cmd} {n : Nat} : (s.absent c n).spt = s.spt := by unfold State.absent; split <;> simp
@[simp] theorem State.absent_ports {c : Cmd} {n : Nat} : (s.absent c n).ports = s.ports := by unfold State.absent; split <;> simp
@[simp] theorem State.absent_fab {c : Cmd} {n : Nat} : (s.absent c n).fab = s.fab := by unfold State.absent; split <;> simp
@[simp] theorem State.absent_col {c : Cmd} {n : Nat} : (s.absent c n).col = s.col := by unfold State.absent; split <;> simp
@[simp] theorem State.absent_scrubs {c : Cmd} {n : Nat} : (s.absent c n).scrubs = s.scrubs := by unfold State.absent; split <;> simp
@[simp] theorem State.absent_pools {c : Cmd} {n : Nat} : (s.absent c n).pools = s.pools := by unfold State.absent; split <;> simp
@[simp] theorem State.absent_cdyCheck {c : Cmd} {n : Nat} : (s.absent c n).cdyCheck = s.cdyCheck := by unfold State.absent; split <;> simp
@[simp] theorem State.absent_tin {c : Cmd} {n : Nat} : (s.absent c n).tin = s.tin := by unfold State.absent; split <;> simp
@[simp] theorem State.absent_upd {c : Cmd} {n : Nat} : (s.absent c n).upd = s.upd := by unfold State.absent; split <;> simp
@[simp] theorem State.absent_inf {c : Cmd} {n : Nat} : (s.absent c n).inf = s.inf := by unfold State.absent; split <;> simp
@[simp] theorem State.absent_pfx {c : Cmd} {n : Nat} : (s.absent c n).pfx = s.pfx := by unfold State.absent; split <;> simp
@[simp] theorem State.absent_host {c : Cmd} {n : Nat} : (s.absent c n).host = s.host := by unfold State.absent; split <;> simp
@[simp] theorem State.absent_irq {c : Cmd} {n : Nat} : (s.absent c n).irq = s.irq := by unfold State.absent; split <;> simp
@[simp] theorem State.absent_wdn {c : Cmd} {n : Nat} : (s.absent c n).wdn = s.wdn := by unfold State.absent; split <;> simp
@[simp] theorem State.absent_ktl {c : Cmd} {n : Nat} : (s.absent c n).ktl = s.ktl := by unfold State.absent; split <;> simp
@[simp] theorem State.absent_freeCount {c : Cmd} {n : Nat} : (s.absent c n).freeCount = s.freeCount := by unfold State.absent; split <;> simp
@[simp] theorem State.absent_out {c : Cmd} {n : Nat} : (s.absent c n).out = s.out := by unfold State.absent; split <;> simp

/-! ### engineEnd -/

@[simp] theorem State.engineEnd_pending {c : Cmd} {a b d : Nat} : (s.engineEnd c a b d).pending = s.pending := by simp [State.engineEnd]
@[simp] theorem State.engineEnd_pwr {c : Cmd} {a b d : Nat} : (s.engineEnd c a b d).pwr = s.pwr := by simp [State.engineEnd]
@[simp] theorem State.engineEnd_clk {c : Cmd} {a b d : Nat} : (s.engineEnd c a b d).clk = s.clk := by simp [State.engineEnd]
@[simp] theorem State.engineEnd_fuse {c : Cmd} {a b d : Nat} : (s.engineEnd c a b d).fuse = s.fuse := by simp [State.engineEnd]
@[simp] theorem State.engineEnd_boot {c : Cmd} {a b d : Nat} : (s.engineEnd c a b d).boot = s.boot := by simp [State.engineEnd]
@[simp] theorem State.engineEnd_ht {c : Cmd} {a b d : Nat} : (s.engineEnd c a b d).ht = s.ht := by simp [State.engineEnd]
@[simp] theorem State.engineEnd_bld {c : Cmd} {a b d : Nat} : (s.engineEnd c a b d).bld = s.bld := by simp [State.engineEnd]
@[simp] theorem State.engineEnd_mem {c : Cmd} {a b d : Nat} : (s.engineEnd c a b d).mem = s.mem := by simp [State.engineEnd]
@[simp] theorem State.engineEnd_jobs {c : Cmd} {a b d : Nat} : (s.engineEnd c a b d).jobs = s.jobs := by simp [State.engineEnd]
@[simp] theorem State.engineEnd_queues {c : Cmd} {a b d : Nat} : (s.engineEnd c a b d).queues = s.queues := by simp [State.engineEnd]
@[simp] theorem State.engineEnd_pass {c : Cmd} {a b d : Nat} : (s.engineEnd c a b d).pass = s.pass := by simp [State.engineEnd]
@[simp] theorem State.engineEnd_live {c : Cmd} {a b d : Nat} : (s.engineEnd c a b d).live = s.live := by simp [State.engineEnd]
@[simp] theorem State.engineEnd_rings {c : Cmd} {a b d : Nat} : (s.engineEnd c a b d).rings = s.rings := by simp [State.engineEnd]
@[simp] theorem State.engineEnd_cores {c : Cmd} {a b d : Nat} : (s.engineEnd c a b d).cores = s.cores := by simp [State.engineEnd]
@[simp] theorem State.engineEnd_urn {c : Cmd} {a b d : Nat} : (s.engineEnd c a b d).urn = s.urn := by simp [State.engineEnd]
@[simp] theorem State.engineEnd_spt {c : Cmd} {a b d : Nat} : (s.engineEnd c a b d).spt = s.spt := by simp [State.engineEnd]
@[simp] theorem State.engineEnd_ports {c : Cmd} {a b d : Nat} : (s.engineEnd c a b d).ports = s.ports := by simp [State.engineEnd]
@[simp] theorem State.engineEnd_fab {c : Cmd} {a b d : Nat} : (s.engineEnd c a b d).fab = s.fab := by simp [State.engineEnd]
@[simp] theorem State.engineEnd_col {c : Cmd} {a b d : Nat} : (s.engineEnd c a b d).col = s.col := by simp [State.engineEnd]
@[simp] theorem State.engineEnd_scrubs {c : Cmd} {a b d : Nat} : (s.engineEnd c a b d).scrubs = s.scrubs := by simp [State.engineEnd]
@[simp] theorem State.engineEnd_pools {c : Cmd} {a b d : Nat} : (s.engineEnd c a b d).pools = s.pools := by simp [State.engineEnd]
@[simp] theorem State.engineEnd_cdyCheck {c : Cmd} {a b d : Nat} : (s.engineEnd c a b d).cdyCheck = s.cdyCheck := by simp [State.engineEnd]
@[simp] theorem State.engineEnd_tin {c : Cmd} {a b d : Nat} : (s.engineEnd c a b d).tin = s.tin := by simp [State.engineEnd]
@[simp] theorem State.engineEnd_upd {c : Cmd} {a b d : Nat} : (s.engineEnd c a b d).upd = s.upd := by simp [State.engineEnd]
@[simp] theorem State.engineEnd_inf {c : Cmd} {a b d : Nat} : (s.engineEnd c a b d).inf = s.inf := by simp [State.engineEnd]
@[simp] theorem State.engineEnd_pfx {c : Cmd} {a b d : Nat} : (s.engineEnd c a b d).pfx = s.pfx := by simp [State.engineEnd]
@[simp] theorem State.engineEnd_host {c : Cmd} {a b d : Nat} : (s.engineEnd c a b d).host = s.host := by simp [State.engineEnd]
@[simp] theorem State.engineEnd_irq {c : Cmd} {a b d : Nat} : (s.engineEnd c a b d).irq = s.irq := by simp [State.engineEnd]
@[simp] theorem State.engineEnd_wdn {c : Cmd} {a b d : Nat} : (s.engineEnd c a b d).wdn = s.wdn := by simp [State.engineEnd]
@[simp] theorem State.engineEnd_ktl {c : Cmd} {a b d : Nat} : (s.engineEnd c a b d).ktl = s.ktl := by simp [State.engineEnd]
@[simp] theorem State.engineEnd_log {c : Cmd} {a b d : Nat} : (s.engineEnd c a b d).log = s.log := by simp [State.engineEnd]
@[simp] theorem State.engineEnd_freeCount {c : Cmd} {a b d : Nat} : (s.engineEnd c a b d).freeCount = s.freeCount := by simp [State.engineEnd]
@[simp] theorem State.engineEnd_out {c : Cmd} {a b d : Nat} : (s.engineEnd c a b d).out = s.out := by simp [State.engineEnd]

/-! ### settlePreempt -/

@[simp] theorem State.settlePreempt_pending {j : Nat} : (s.settlePreempt j).pending = s.pending := by unfold State.settlePreempt; split <;> simp
@[simp] theorem State.settlePreempt_pwr {j : Nat} : (s.settlePreempt j).pwr = s.pwr := by unfold State.settlePreempt; split <;> simp
@[simp] theorem State.settlePreempt_clk {j : Nat} : (s.settlePreempt j).clk = s.clk := by unfold State.settlePreempt; split <;> simp
@[simp] theorem State.settlePreempt_fuse {j : Nat} : (s.settlePreempt j).fuse = s.fuse := by unfold State.settlePreempt; split <;> simp
@[simp] theorem State.settlePreempt_boot {j : Nat} : (s.settlePreempt j).boot = s.boot := by unfold State.settlePreempt; split <;> simp
@[simp] theorem State.settlePreempt_ht {j : Nat} : (s.settlePreempt j).ht = s.ht := by unfold State.settlePreempt; split <;> simp
@[simp] theorem State.settlePreempt_bld {j : Nat} : (s.settlePreempt j).bld = s.bld := by unfold State.settlePreempt; split <;> simp
@[simp] theorem State.settlePreempt_mem {j : Nat} : (s.settlePreempt j).mem = s.mem := by unfold State.settlePreempt; split <;> simp
@[simp] theorem State.settlePreempt_queues {j : Nat} : (s.settlePreempt j).queues = s.queues := by unfold State.settlePreempt; split <;> simp
@[simp] theorem State.settlePreempt_pass {j : Nat} : (s.settlePreempt j).pass = s.pass := by unfold State.settlePreempt; split <;> simp
@[simp] theorem State.settlePreempt_live {j : Nat} : (s.settlePreempt j).live = s.live := by unfold State.settlePreempt; split <;> simp
@[simp] theorem State.settlePreempt_eng {j : Nat} : (s.settlePreempt j).eng = s.eng := by unfold State.settlePreempt; split <;> simp
@[simp] theorem State.settlePreempt_rings {j : Nat} : (s.settlePreempt j).rings = s.rings := by unfold State.settlePreempt; split <;> simp
@[simp] theorem State.settlePreempt_cores {j : Nat} : (s.settlePreempt j).cores = s.cores := by unfold State.settlePreempt; split <;> simp
@[simp] theorem State.settlePreempt_urn {j : Nat} : (s.settlePreempt j).urn = s.urn := by unfold State.settlePreempt; split <;> simp
@[simp] theorem State.settlePreempt_str {j : Nat} : (s.settlePreempt j).str = s.str := by unfold State.settlePreempt; split <;> simp
@[simp] theorem State.settlePreempt_spt {j : Nat} : (s.settlePreempt j).spt = s.spt := by unfold State.settlePreempt; split <;> simp
@[simp] theorem State.settlePreempt_ports {j : Nat} : (s.settlePreempt j).ports = s.ports := by unfold State.settlePreempt; split <;> simp
@[simp] theorem State.settlePreempt_fab {j : Nat} : (s.settlePreempt j).fab = s.fab := by unfold State.settlePreempt; split <;> simp
@[simp] theorem State.settlePreempt_col {j : Nat} : (s.settlePreempt j).col = s.col := by unfold State.settlePreempt; split <;> simp
@[simp] theorem State.settlePreempt_scrubs {j : Nat} : (s.settlePreempt j).scrubs = s.scrubs := by unfold State.settlePreempt; split <;> simp
@[simp] theorem State.settlePreempt_pools {j : Nat} : (s.settlePreempt j).pools = s.pools := by unfold State.settlePreempt; split <;> simp
@[simp] theorem State.settlePreempt_cdyCheck {j : Nat} : (s.settlePreempt j).cdyCheck = s.cdyCheck := by unfold State.settlePreempt; split <;> simp
@[simp] theorem State.settlePreempt_tin {j : Nat} : (s.settlePreempt j).tin = s.tin := by unfold State.settlePreempt; split <;> simp
@[simp] theorem State.settlePreempt_upd {j : Nat} : (s.settlePreempt j).upd = s.upd := by unfold State.settlePreempt; split <;> simp
@[simp] theorem State.settlePreempt_inf {j : Nat} : (s.settlePreempt j).inf = s.inf := by unfold State.settlePreempt; split <;> simp
@[simp] theorem State.settlePreempt_pfx {j : Nat} : (s.settlePreempt j).pfx = s.pfx := by unfold State.settlePreempt; split <;> simp
@[simp] theorem State.settlePreempt_host {j : Nat} : (s.settlePreempt j).host = s.host := by unfold State.settlePreempt; split <;> simp
@[simp] theorem State.settlePreempt_irq {j : Nat} : (s.settlePreempt j).irq = s.irq := by unfold State.settlePreempt; split <;> simp
@[simp] theorem State.settlePreempt_wdn {j : Nat} : (s.settlePreempt j).wdn = s.wdn := by unfold State.settlePreempt; split <;> simp
@[simp] theorem State.settlePreempt_ktl {j : Nat} : (s.settlePreempt j).ktl = s.ktl := by unfold State.settlePreempt; split <;> simp
@[simp] theorem State.settlePreempt_log {j : Nat} : (s.settlePreempt j).log = s.log := by unfold State.settlePreempt; split <;> simp
@[simp] theorem State.settlePreempt_freeCount {j : Nat} : (s.settlePreempt j).freeCount = s.freeCount := by unfold State.settlePreempt; split <;> simp
@[simp] theorem State.settlePreempt_out {j : Nat} : (s.settlePreempt j).out = s.out := by unfold State.settlePreempt; split <;> simp

/-! ### complete -/

@[simp] theorem State.complete_pending {c : Cmd} {a d u : Nat} {g v : Bool} : (s.complete c a d g u v).pending = s.pending := by
  unfold State.complete; dsimp only; repeat' split
  all_goals simp
@[simp] theorem State.complete_pwr {c : Cmd} {a d u : Nat} {g v : Bool} : (s.complete c a d g u v).pwr = s.pwr := by
  unfold State.complete; dsimp only; repeat' split
  all_goals simp
@[simp] theorem State.complete_clk {c : Cmd} {a d u : Nat} {g v : Bool} : (s.complete c a d g u v).clk = s.clk := by
  unfold State.complete; dsimp only; repeat' split
  all_goals simp
@[simp] theorem State.complete_fuse {c : Cmd} {a d u : Nat} {g v : Bool} : (s.complete c a d g u v).fuse = s.fuse := by
  unfold State.complete; dsimp only; repeat' split
  all_goals simp
@[simp] theorem State.complete_boot {c : Cmd} {a d u : Nat} {g v : Bool} : (s.complete c a d g u v).boot = s.boot := by
  unfold State.complete; dsimp only; repeat' split
  all_goals simp
@[simp] theorem State.complete_ht {c : Cmd} {a d u : Nat} {g v : Bool} : (s.complete c a d g u v).ht = s.ht := by
  unfold State.complete; dsimp only; repeat' split
  all_goals simp
@[simp] theorem State.complete_bld {c : Cmd} {a d u : Nat} {g v : Bool} : (s.complete c a d g u v).bld = s.bld := by
  unfold State.complete; dsimp only; repeat' split
  all_goals simp
@[simp] theorem State.complete_queues {c : Cmd} {a d u : Nat} {g v : Bool} : (s.complete c a d g u v).queues = s.queues := by
  unfold State.complete; dsimp only; repeat' split
  all_goals simp
@[simp] theorem State.complete_pass {c : Cmd} {a d u : Nat} {g v : Bool} : (s.complete c a d g u v).pass = s.pass := by
  unfold State.complete; dsimp only; repeat' split
  all_goals simp
@[simp] theorem State.complete_cores {c : Cmd} {a d u : Nat} {g v : Bool} : (s.complete c a d g u v).cores = s.cores := by
  unfold State.complete; dsimp only; repeat' split
  all_goals simp
@[simp] theorem State.complete_urn {c : Cmd} {a d u : Nat} {g v : Bool} : (s.complete c a d g u v).urn = s.urn := by
  unfold State.complete; dsimp only; repeat' split
  all_goals simp
@[simp] theorem State.complete_spt {c : Cmd} {a d u : Nat} {g v : Bool} : (s.complete c a d g u v).spt = s.spt := by
  unfold State.complete; dsimp only; repeat' split
  all_goals simp
@[simp] theorem State.complete_ports {c : Cmd} {a d u : Nat} {g v : Bool} : (s.complete c a d g u v).ports = s.ports := by
  unfold State.complete; dsimp only; repeat' split
  all_goals simp
@[simp] theorem State.complete_col {c : Cmd} {a d u : Nat} {g v : Bool} : (s.complete c a d g u v).col = s.col := by
  unfold State.complete; dsimp only; repeat' split
  all_goals simp
@[simp] theorem State.complete_scrubs {c : Cmd} {a d u : Nat} {g v : Bool} : (s.complete c a d g u v).scrubs = s.scrubs := by
  unfold State.complete; dsimp only; repeat' split
  all_goals simp
@[simp] theorem State.complete_pools {c : Cmd} {a d u : Nat} {g v : Bool} : (s.complete c a d g u v).pools = s.pools := by
  unfold State.complete; dsimp only; repeat' split
  all_goals simp
@[simp] theorem State.complete_cdyCheck {c : Cmd} {a d u : Nat} {g v : Bool} : (s.complete c a d g u v).cdyCheck = s.cdyCheck := by
  unfold State.complete; dsimp only; repeat' split
  all_goals simp
@[simp] theorem State.complete_tin {c : Cmd} {a d u : Nat} {g v : Bool} : (s.complete c a d g u v).tin = s.tin := by
  unfold State.complete; dsimp only; repeat' split
  all_goals simp
@[simp] theorem State.complete_upd {c : Cmd} {a d u : Nat} {g v : Bool} : (s.complete c a d g u v).upd = s.upd := by
  unfold State.complete; dsimp only; repeat' split
  all_goals simp
@[simp] theorem State.complete_inf {c : Cmd} {a d u : Nat} {g v : Bool} : (s.complete c a d g u v).inf = s.inf := by
  unfold State.complete; dsimp only; repeat' split
  all_goals simp
@[simp] theorem State.complete_pfx {c : Cmd} {a d u : Nat} {g v : Bool} : (s.complete c a d g u v).pfx = s.pfx := by
  unfold State.complete; dsimp only; repeat' split
  all_goals simp
@[simp] theorem State.complete_host {c : Cmd} {a d u : Nat} {g v : Bool} : (s.complete c a d g u v).host = s.host := by
  unfold State.complete; dsimp only; repeat' split
  all_goals simp
@[simp] theorem State.complete_wdn {c : Cmd} {a d u : Nat} {g v : Bool} : (s.complete c a d g u v).wdn = s.wdn := by
  unfold State.complete; dsimp only; repeat' split
  all_goals simp
@[simp] theorem State.complete_ktl {c : Cmd} {a d u : Nat} {g v : Bool} : (s.complete c a d g u v).ktl = s.ktl := by
  unfold State.complete; dsimp only; repeat' split
  all_goals simp
@[simp] theorem State.complete_freeCount {c : Cmd} {a d u : Nat} {g v : Bool} : (s.complete c a d g u v).freeCount = s.freeCount := by
  unfold State.complete; dsimp only; repeat' split
  all_goals simp

/-! ### raisePass -/

@[simp] theorem State.raisePass_pending {e j : Nat} : (s.raisePass e j).pending = s.pending := by unfold State.raisePass; dsimp only; split <;> simp
@[simp] theorem State.raisePass_pwr {e j : Nat} : (s.raisePass e j).pwr = s.pwr := by unfold State.raisePass; dsimp only; split <;> simp
@[simp] theorem State.raisePass_clk {e j : Nat} : (s.raisePass e j).clk = s.clk := by unfold State.raisePass; dsimp only; split <;> simp
@[simp] theorem State.raisePass_fuse {e j : Nat} : (s.raisePass e j).fuse = s.fuse := by unfold State.raisePass; dsimp only; split <;> simp
@[simp] theorem State.raisePass_boot {e j : Nat} : (s.raisePass e j).boot = s.boot := by unfold State.raisePass; dsimp only; split <;> simp
@[simp] theorem State.raisePass_ht {e j : Nat} : (s.raisePass e j).ht = s.ht := by unfold State.raisePass; dsimp only; split <;> simp
@[simp] theorem State.raisePass_bld {e j : Nat} : (s.raisePass e j).bld = s.bld := by unfold State.raisePass; dsimp only; split <;> simp
@[simp] theorem State.raisePass_mem {e j : Nat} : (s.raisePass e j).mem = s.mem := by unfold State.raisePass; dsimp only; split <;> simp
@[simp] theorem State.raisePass_jobs {e j : Nat} : (s.raisePass e j).jobs = s.jobs := by unfold State.raisePass; dsimp only; split <;> simp
@[simp] theorem State.raisePass_queues {e j : Nat} : (s.raisePass e j).queues = s.queues := by unfold State.raisePass; dsimp only; split <;> simp
@[simp] theorem State.raisePass_live {e j : Nat} : (s.raisePass e j).live = s.live := by unfold State.raisePass; dsimp only; split <;> simp
@[simp] theorem State.raisePass_eng {e j : Nat} : (s.raisePass e j).eng = s.eng := by unfold State.raisePass; dsimp only; split <;> simp
@[simp] theorem State.raisePass_rings {e j : Nat} : (s.raisePass e j).rings = s.rings := by unfold State.raisePass; dsimp only; split <;> simp
@[simp] theorem State.raisePass_cores {e j : Nat} : (s.raisePass e j).cores = s.cores := by unfold State.raisePass; dsimp only; split <;> simp
@[simp] theorem State.raisePass_urn {e j : Nat} : (s.raisePass e j).urn = s.urn := by unfold State.raisePass; dsimp only; split <;> simp
@[simp] theorem State.raisePass_str {e j : Nat} : (s.raisePass e j).str = s.str := by unfold State.raisePass; dsimp only; split <;> simp
@[simp] theorem State.raisePass_spt {e j : Nat} : (s.raisePass e j).spt = s.spt := by unfold State.raisePass; dsimp only; split <;> simp
@[simp] theorem State.raisePass_ports {e j : Nat} : (s.raisePass e j).ports = s.ports := by unfold State.raisePass; dsimp only; split <;> simp
@[simp] theorem State.raisePass_fab {e j : Nat} : (s.raisePass e j).fab = s.fab := by unfold State.raisePass; dsimp only; split <;> simp
@[simp] theorem State.raisePass_col {e j : Nat} : (s.raisePass e j).col = s.col := by unfold State.raisePass; dsimp only; split <;> simp
@[simp] theorem State.raisePass_scrubs {e j : Nat} : (s.raisePass e j).scrubs = s.scrubs := by unfold State.raisePass; dsimp only; split <;> simp
@[simp] theorem State.raisePass_pools {e j : Nat} : (s.raisePass e j).pools = s.pools := by unfold State.raisePass; dsimp only; split <;> simp
@[simp] theorem State.raisePass_cdyCheck {e j : Nat} : (s.raisePass e j).cdyCheck = s.cdyCheck := by unfold State.raisePass; dsimp only; split <;> simp
@[simp] theorem State.raisePass_tin {e j : Nat} : (s.raisePass e j).tin = s.tin := by unfold State.raisePass; dsimp only; split <;> simp
@[simp] theorem State.raisePass_upd {e j : Nat} : (s.raisePass e j).upd = s.upd := by unfold State.raisePass; dsimp only; split <;> simp
@[simp] theorem State.raisePass_inf {e j : Nat} : (s.raisePass e j).inf = s.inf := by unfold State.raisePass; dsimp only; split <;> simp
@[simp] theorem State.raisePass_pfx {e j : Nat} : (s.raisePass e j).pfx = s.pfx := by unfold State.raisePass; dsimp only; split <;> simp
@[simp] theorem State.raisePass_host {e j : Nat} : (s.raisePass e j).host = s.host := by unfold State.raisePass; dsimp only; split <;> simp
@[simp] theorem State.raisePass_irq {e j : Nat} : (s.raisePass e j).irq = s.irq := by unfold State.raisePass; dsimp only; split <;> simp
@[simp] theorem State.raisePass_wdn {e j : Nat} : (s.raisePass e j).wdn = s.wdn := by unfold State.raisePass; dsimp only; split <;> simp
@[simp] theorem State.raisePass_ktl {e j : Nat} : (s.raisePass e j).ktl = s.ktl := by unfold State.raisePass; dsimp only; split <;> simp
@[simp] theorem State.raisePass_log {e j : Nat} : (s.raisePass e j).log = s.log := by unfold State.raisePass; dsimp only; split <;> simp
@[simp] theorem State.raisePass_freeCount {e j : Nat} : (s.raisePass e j).freeCount = s.freeCount := by unfold State.raisePass; dsimp only; split <;> simp
@[simp] theorem State.raisePass_out {e j : Nat} : (s.raisePass e j).out = s.out := by unfold State.raisePass; dsimp only; split <;> simp

/-! ### enqueue -/

@[simp] theorem State.enqueue_pending {c : Cmd} : (s.enqueue c).pending = s.pending := by unfold State.enqueue; simp
@[simp] theorem State.enqueue_pwr {c : Cmd} : (s.enqueue c).pwr = s.pwr := by unfold State.enqueue; simp
@[simp] theorem State.enqueue_clk {c : Cmd} : (s.enqueue c).clk = s.clk := by unfold State.enqueue; simp
@[simp] theorem State.enqueue_fuse {c : Cmd} : (s.enqueue c).fuse = s.fuse := by unfold State.enqueue; simp
@[simp] theorem State.enqueue_boot {c : Cmd} : (s.enqueue c).boot = s.boot := by unfold State.enqueue; simp
@[simp] theorem State.enqueue_ht {c : Cmd} : (s.enqueue c).ht = s.ht := by unfold State.enqueue; simp
@[simp] theorem State.enqueue_bld {c : Cmd} : (s.enqueue c).bld = s.bld := by unfold State.enqueue; simp
@[simp] theorem State.enqueue_mem {c : Cmd} : (s.enqueue c).mem = s.mem := by unfold State.enqueue; simp
@[simp] theorem State.enqueue_jobs {c : Cmd} : (s.enqueue c).jobs = s.jobs := by unfold State.enqueue; simp
@[simp] theorem State.enqueue_live {c : Cmd} : (s.enqueue c).live = s.live := by unfold State.enqueue; simp
@[simp] theorem State.enqueue_eng {c : Cmd} : (s.enqueue c).eng = s.eng := by unfold State.enqueue; simp
@[simp] theorem State.enqueue_rings {c : Cmd} : (s.enqueue c).rings = s.rings := by unfold State.enqueue; simp
@[simp] theorem State.enqueue_cores {c : Cmd} : (s.enqueue c).cores = s.cores := by unfold State.enqueue; simp
@[simp] theorem State.enqueue_urn {c : Cmd} : (s.enqueue c).urn = s.urn := by unfold State.enqueue; simp
@[simp] theorem State.enqueue_str {c : Cmd} : (s.enqueue c).str = s.str := by unfold State.enqueue; simp
@[simp] theorem State.enqueue_spt {c : Cmd} : (s.enqueue c).spt = s.spt := by unfold State.enqueue; simp
@[simp] theorem State.enqueue_ports {c : Cmd} : (s.enqueue c).ports = s.ports := by unfold State.enqueue; simp
@[simp] theorem State.enqueue_fab {c : Cmd} : (s.enqueue c).fab = s.fab := by unfold State.enqueue; simp
@[simp] theorem State.enqueue_col {c : Cmd} : (s.enqueue c).col = s.col := by unfold State.enqueue; simp
@[simp] theorem State.enqueue_scrubs {c : Cmd} : (s.enqueue c).scrubs = s.scrubs := by unfold State.enqueue; simp
@[simp] theorem State.enqueue_pools {c : Cmd} : (s.enqueue c).pools = s.pools := by unfold State.enqueue; simp
@[simp] theorem State.enqueue_cdyCheck {c : Cmd} : (s.enqueue c).cdyCheck = s.cdyCheck := by unfold State.enqueue; simp
@[simp] theorem State.enqueue_tin {c : Cmd} : (s.enqueue c).tin = s.tin := by unfold State.enqueue; simp
@[simp] theorem State.enqueue_upd {c : Cmd} : (s.enqueue c).upd = s.upd := by unfold State.enqueue; simp
@[simp] theorem State.enqueue_inf {c : Cmd} : (s.enqueue c).inf = s.inf := by unfold State.enqueue; simp
@[simp] theorem State.enqueue_pfx {c : Cmd} : (s.enqueue c).pfx = s.pfx := by unfold State.enqueue; simp
@[simp] theorem State.enqueue_host {c : Cmd} : (s.enqueue c).host = s.host := by unfold State.enqueue; simp
@[simp] theorem State.enqueue_irq {c : Cmd} : (s.enqueue c).irq = s.irq := by unfold State.enqueue; simp
@[simp] theorem State.enqueue_wdn {c : Cmd} : (s.enqueue c).wdn = s.wdn := by unfold State.enqueue; simp
@[simp] theorem State.enqueue_ktl {c : Cmd} : (s.enqueue c).ktl = s.ktl := by unfold State.enqueue; simp
@[simp] theorem State.enqueue_log {c : Cmd} : (s.enqueue c).log = s.log := by unfold State.enqueue; simp
@[simp] theorem State.enqueue_freeCount {c : Cmd} : (s.enqueue c).freeCount = s.freeCount := by unfold State.enqueue; simp
@[simp] theorem State.enqueue_out {c : Cmd} : (s.enqueue c).out = s.out := by unfold State.enqueue; simp

/-! ### completeRefused -/

@[simp] theorem State.completeRefused_pending {c : Cmd} {a d : Nat} {g : Bool} : (s.completeRefused c a d g).pending = s.pending := by
  unfold State.completeRefused; dsimp only; repeat' split
  all_goals simp
@[simp] theorem State.completeRefused_pwr {c : Cmd} {a d : Nat} {g : Bool} : (s.completeRefused c a d g).pwr = s.pwr := by
  unfold State.completeRefused; dsimp only; repeat' split
  all_goals simp
@[simp] theorem State.completeRefused_clk {c : Cmd} {a d : Nat} {g : Bool} : (s.completeRefused c a d g).clk = s.clk := by
  unfold State.completeRefused; dsimp only; repeat' split
  all_goals simp
@[simp] theorem State.completeRefused_fuse {c : Cmd} {a d : Nat} {g : Bool} : (s.completeRefused c a d g).fuse = s.fuse := by
  unfold State.completeRefused; dsimp only; repeat' split
  all_goals simp
@[simp] theorem State.completeRefused_boot {c : Cmd} {a d : Nat} {g : Bool} : (s.completeRefused c a d g).boot = s.boot := by
  unfold State.completeRefused; dsimp only; repeat' split
  all_goals simp
@[simp] theorem State.completeRefused_ht {c : Cmd} {a d : Nat} {g : Bool} : (s.completeRefused c a d g).ht = s.ht := by
  unfold State.completeRefused; dsimp only; repeat' split
  all_goals simp
@[simp] theorem State.completeRefused_bld {c : Cmd} {a d : Nat} {g : Bool} : (s.completeRefused c a d g).bld = s.bld := by
  unfold State.completeRefused; dsimp only; repeat' split
  all_goals simp
@[simp] theorem State.completeRefused_queues {c : Cmd} {a d : Nat} {g : Bool} : (s.completeRefused c a d g).queues = s.queues := by
  unfold State.completeRefused; dsimp only; repeat' split
  all_goals simp
@[simp] theorem State.completeRefused_pass {c : Cmd} {a d : Nat} {g : Bool} : (s.completeRefused c a d g).pass = s.pass := by
  unfold State.completeRefused; dsimp only; repeat' split
  all_goals simp
@[simp] theorem State.completeRefused_live {c : Cmd} {a d : Nat} {g : Bool} : (s.completeRefused c a d g).live = s.live := by
  unfold State.completeRefused; dsimp only; repeat' split
  all_goals simp
@[simp] theorem State.completeRefused_eng {c : Cmd} {a d : Nat} {g : Bool} : (s.completeRefused c a d g).eng = s.eng := by
  unfold State.completeRefused; dsimp only; repeat' split
  all_goals simp
@[simp] theorem State.completeRefused_cores {c : Cmd} {a d : Nat} {g : Bool} : (s.completeRefused c a d g).cores = s.cores := by
  unfold State.completeRefused; dsimp only; repeat' split
  all_goals simp
@[simp] theorem State.completeRefused_urn {c : Cmd} {a d : Nat} {g : Bool} : (s.completeRefused c a d g).urn = s.urn := by
  unfold State.completeRefused; dsimp only; repeat' split
  all_goals simp
@[simp] theorem State.completeRefused_str {c : Cmd} {a d : Nat} {g : Bool} : (s.completeRefused c a d g).str = s.str := by
  unfold State.completeRefused; dsimp only; repeat' split
  all_goals simp
@[simp] theorem State.completeRefused_spt {c : Cmd} {a d : Nat} {g : Bool} : (s.completeRefused c a d g).spt = s.spt := by
  unfold State.completeRefused; dsimp only; repeat' split
  all_goals simp
@[simp] theorem State.completeRefused_ports {c : Cmd} {a d : Nat} {g : Bool} : (s.completeRefused c a d g).ports = s.ports := by
  unfold State.completeRefused; dsimp only; repeat' split
  all_goals simp
@[simp] theorem State.completeRefused_col {c : Cmd} {a d : Nat} {g : Bool} : (s.completeRefused c a d g).col = s.col := by
  unfold State.completeRefused; dsimp only; repeat' split
  all_goals simp
@[simp] theorem State.completeRefused_scrubs {c : Cmd} {a d : Nat} {g : Bool} : (s.completeRefused c a d g).scrubs = s.scrubs := by
  unfold State.completeRefused; dsimp only; repeat' split
  all_goals simp
@[simp] theorem State.completeRefused_pools {c : Cmd} {a d : Nat} {g : Bool} : (s.completeRefused c a d g).pools = s.pools := by
  unfold State.completeRefused; dsimp only; repeat' split
  all_goals simp
@[simp] theorem State.completeRefused_cdyCheck {c : Cmd} {a d : Nat} {g : Bool} : (s.completeRefused c a d g).cdyCheck = s.cdyCheck := by
  unfold State.completeRefused; dsimp only; repeat' split
  all_goals simp
@[simp] theorem State.completeRefused_tin {c : Cmd} {a d : Nat} {g : Bool} : (s.completeRefused c a d g).tin = s.tin := by
  unfold State.completeRefused; dsimp only; repeat' split
  all_goals simp
@[simp] theorem State.completeRefused_upd {c : Cmd} {a d : Nat} {g : Bool} : (s.completeRefused c a d g).upd = s.upd := by
  unfold State.completeRefused; dsimp only; repeat' split
  all_goals simp
@[simp] theorem State.completeRefused_inf {c : Cmd} {a d : Nat} {g : Bool} : (s.completeRefused c a d g).inf = s.inf := by
  unfold State.completeRefused; dsimp only; repeat' split
  all_goals simp
@[simp] theorem State.completeRefused_pfx {c : Cmd} {a d : Nat} {g : Bool} : (s.completeRefused c a d g).pfx = s.pfx := by
  unfold State.completeRefused; dsimp only; repeat' split
  all_goals simp
@[simp] theorem State.completeRefused_host {c : Cmd} {a d : Nat} {g : Bool} : (s.completeRefused c a d g).host = s.host := by
  unfold State.completeRefused; dsimp only; repeat' split
  all_goals simp
@[simp] theorem State.completeRefused_wdn {c : Cmd} {a d : Nat} {g : Bool} : (s.completeRefused c a d g).wdn = s.wdn := by
  unfold State.completeRefused; dsimp only; repeat' split
  all_goals simp
@[simp] theorem State.completeRefused_ktl {c : Cmd} {a d : Nat} {g : Bool} : (s.completeRefused c a d g).ktl = s.ktl := by
  unfold State.completeRefused; dsimp only; repeat' split
  all_goals simp
@[simp] theorem State.completeRefused_freeCount {c : Cmd} {a d : Nat} {g : Bool} : (s.completeRefused c a d g).freeCount = s.freeCount := by
  unfold State.completeRefused; dsimp only; repeat' split
  all_goals simp

/-! ### completeClosed -/

@[simp] theorem State.completeClosed_pending {c : Cmd} : (s.completeClosed c).pending = s.pending := by unfold State.completeClosed; simp
@[simp] theorem State.completeClosed_pwr {c : Cmd} : (s.completeClosed c).pwr = s.pwr := by unfold State.completeClosed; simp
@[simp] theorem State.completeClosed_clk {c : Cmd} : (s.completeClosed c).clk = s.clk := by unfold State.completeClosed; simp
@[simp] theorem State.completeClosed_fuse {c : Cmd} : (s.completeClosed c).fuse = s.fuse := by unfold State.completeClosed; simp
@[simp] theorem State.completeClosed_boot {c : Cmd} : (s.completeClosed c).boot = s.boot := by unfold State.completeClosed; simp
@[simp] theorem State.completeClosed_ht {c : Cmd} : (s.completeClosed c).ht = s.ht := by unfold State.completeClosed; simp
@[simp] theorem State.completeClosed_bld {c : Cmd} : (s.completeClosed c).bld = s.bld := by unfold State.completeClosed; simp
@[simp] theorem State.completeClosed_queues {c : Cmd} : (s.completeClosed c).queues = s.queues := by unfold State.completeClosed; simp
@[simp] theorem State.completeClosed_pass {c : Cmd} : (s.completeClosed c).pass = s.pass := by unfold State.completeClosed; simp
@[simp] theorem State.completeClosed_live {c : Cmd} : (s.completeClosed c).live = s.live := by unfold State.completeClosed; simp
@[simp] theorem State.completeClosed_eng {c : Cmd} : (s.completeClosed c).eng = s.eng := by unfold State.completeClosed; simp
@[simp] theorem State.completeClosed_cores {c : Cmd} : (s.completeClosed c).cores = s.cores := by unfold State.completeClosed; simp
@[simp] theorem State.completeClosed_urn {c : Cmd} : (s.completeClosed c).urn = s.urn := by unfold State.completeClosed; simp
@[simp] theorem State.completeClosed_str {c : Cmd} : (s.completeClosed c).str = s.str := by unfold State.completeClosed; simp
@[simp] theorem State.completeClosed_spt {c : Cmd} : (s.completeClosed c).spt = s.spt := by unfold State.completeClosed; simp
@[simp] theorem State.completeClosed_ports {c : Cmd} : (s.completeClosed c).ports = s.ports := by unfold State.completeClosed; simp
@[simp] theorem State.completeClosed_col {c : Cmd} : (s.completeClosed c).col = s.col := by unfold State.completeClosed; simp
@[simp] theorem State.completeClosed_scrubs {c : Cmd} : (s.completeClosed c).scrubs = s.scrubs := by unfold State.completeClosed; simp
@[simp] theorem State.completeClosed_pools {c : Cmd} : (s.completeClosed c).pools = s.pools := by unfold State.completeClosed; simp
@[simp] theorem State.completeClosed_cdyCheck {c : Cmd} : (s.completeClosed c).cdyCheck = s.cdyCheck := by unfold State.completeClosed; simp
@[simp] theorem State.completeClosed_tin {c : Cmd} : (s.completeClosed c).tin = s.tin := by unfold State.completeClosed; simp
@[simp] theorem State.completeClosed_upd {c : Cmd} : (s.completeClosed c).upd = s.upd := by unfold State.completeClosed; simp
@[simp] theorem State.completeClosed_inf {c : Cmd} : (s.completeClosed c).inf = s.inf := by unfold State.completeClosed; simp
@[simp] theorem State.completeClosed_pfx {c : Cmd} : (s.completeClosed c).pfx = s.pfx := by unfold State.completeClosed; simp
@[simp] theorem State.completeClosed_host {c : Cmd} : (s.completeClosed c).host = s.host := by unfold State.completeClosed; simp
@[simp] theorem State.completeClosed_wdn {c : Cmd} : (s.completeClosed c).wdn = s.wdn := by unfold State.completeClosed; simp
@[simp] theorem State.completeClosed_ktl {c : Cmd} : (s.completeClosed c).ktl = s.ktl := by unfold State.completeClosed; simp
@[simp] theorem State.completeClosed_freeCount {c : Cmd} : (s.completeClosed c).freeCount = s.freeCount := by unfold State.completeClosed; simp

/-! ### startCmd -/

@[simp] theorem State.startCmd_pending {c : Cmd} : ((s.startCmd c).1).pending = s.pending := by unfold State.startCmd; dsimp only; split <;> simp
@[simp] theorem State.startCmd_pwr {c : Cmd} : ((s.startCmd c).1).pwr = s.pwr := by unfold State.startCmd; dsimp only; split <;> simp
@[simp] theorem State.startCmd_clk {c : Cmd} : ((s.startCmd c).1).clk = s.clk := by unfold State.startCmd; dsimp only; split <;> simp
@[simp] theorem State.startCmd_fuse {c : Cmd} : ((s.startCmd c).1).fuse = s.fuse := by unfold State.startCmd; dsimp only; split <;> simp
@[simp] theorem State.startCmd_boot {c : Cmd} : ((s.startCmd c).1).boot = s.boot := by unfold State.startCmd; dsimp only; split <;> simp
@[simp] theorem State.startCmd_ht {c : Cmd} : ((s.startCmd c).1).ht = s.ht := by unfold State.startCmd; dsimp only; split <;> simp
@[simp] theorem State.startCmd_bld {c : Cmd} : ((s.startCmd c).1).bld = s.bld := by unfold State.startCmd; dsimp only; split <;> simp
@[simp] theorem State.startCmd_mem {c : Cmd} : ((s.startCmd c).1).mem = s.mem := by unfold State.startCmd; dsimp only; split <;> simp
@[simp] theorem State.startCmd_live {c : Cmd} : ((s.startCmd c).1).live = s.live := by unfold State.startCmd; dsimp only; split <;> simp
@[simp] theorem State.startCmd_eng {c : Cmd} : ((s.startCmd c).1).eng = s.eng := by unfold State.startCmd; dsimp only; split <;> simp
@[simp] theorem State.startCmd_rings {c : Cmd} : ((s.startCmd c).1).rings = s.rings := by unfold State.startCmd; dsimp only; split <;> simp
@[simp] theorem State.startCmd_cores {c : Cmd} : ((s.startCmd c).1).cores = s.cores := by unfold State.startCmd; dsimp only; split <;> simp
@[simp] theorem State.startCmd_urn {c : Cmd} : ((s.startCmd c).1).urn = s.urn := by unfold State.startCmd; dsimp only; split <;> simp
@[simp] theorem State.startCmd_str {c : Cmd} : ((s.startCmd c).1).str = s.str := by unfold State.startCmd; dsimp only; split <;> simp
@[simp] theorem State.startCmd_spt {c : Cmd} : ((s.startCmd c).1).spt = s.spt := by unfold State.startCmd; dsimp only; split <;> simp
@[simp] theorem State.startCmd_ports {c : Cmd} : ((s.startCmd c).1).ports = s.ports := by unfold State.startCmd; dsimp only; split <;> simp
@[simp] theorem State.startCmd_fab {c : Cmd} : ((s.startCmd c).1).fab = s.fab := by unfold State.startCmd; dsimp only; split <;> simp
@[simp] theorem State.startCmd_col {c : Cmd} : ((s.startCmd c).1).col = s.col := by unfold State.startCmd; dsimp only; split <;> simp
@[simp] theorem State.startCmd_scrubs {c : Cmd} : ((s.startCmd c).1).scrubs = s.scrubs := by unfold State.startCmd; dsimp only; split <;> simp
@[simp] theorem State.startCmd_pools {c : Cmd} : ((s.startCmd c).1).pools = s.pools := by unfold State.startCmd; dsimp only; split <;> simp
@[simp] theorem State.startCmd_cdyCheck {c : Cmd} : ((s.startCmd c).1).cdyCheck = s.cdyCheck := by unfold State.startCmd; dsimp only; split <;> simp
@[simp] theorem State.startCmd_tin {c : Cmd} : ((s.startCmd c).1).tin = s.tin := by unfold State.startCmd; dsimp only; split <;> simp
@[simp] theorem State.startCmd_upd {c : Cmd} : ((s.startCmd c).1).upd = s.upd := by unfold State.startCmd; dsimp only; split <;> simp
@[simp] theorem State.startCmd_inf {c : Cmd} : ((s.startCmd c).1).inf = s.inf := by unfold State.startCmd; dsimp only; split <;> simp
@[simp] theorem State.startCmd_pfx {c : Cmd} : ((s.startCmd c).1).pfx = s.pfx := by unfold State.startCmd; dsimp only; split <;> simp
@[simp] theorem State.startCmd_host {c : Cmd} : ((s.startCmd c).1).host = s.host := by unfold State.startCmd; dsimp only; split <;> simp
@[simp] theorem State.startCmd_irq {c : Cmd} : ((s.startCmd c).1).irq = s.irq := by unfold State.startCmd; dsimp only; split <;> simp
@[simp] theorem State.startCmd_wdn {c : Cmd} : ((s.startCmd c).1).wdn = s.wdn := by unfold State.startCmd; dsimp only; split <;> simp
@[simp] theorem State.startCmd_ktl {c : Cmd} : ((s.startCmd c).1).ktl = s.ktl := by unfold State.startCmd; dsimp only; split <;> simp
@[simp] theorem State.startCmd_log {c : Cmd} : ((s.startCmd c).1).log = s.log := by unfold State.startCmd; dsimp only; split <;> simp
@[simp] theorem State.startCmd_freeCount {c : Cmd} : ((s.startCmd c).1).freeCount = s.freeCount := by unfold State.startCmd; dsimp only; split <;> simp

/-! ### failOutputs -/

@[simp] theorem State.failOutputs_pending {c : Cmd} {n : Nat} : (s.failOutputs c n).pending = s.pending := by unfold State.failOutputs; split <;> simp
@[simp] theorem State.failOutputs_pwr {c : Cmd} {n : Nat} : (s.failOutputs c n).pwr = s.pwr := by unfold State.failOutputs; split <;> simp
@[simp] theorem State.failOutputs_clk {c : Cmd} {n : Nat} : (s.failOutputs c n).clk = s.clk := by unfold State.failOutputs; split <;> simp
@[simp] theorem State.failOutputs_fuse {c : Cmd} {n : Nat} : (s.failOutputs c n).fuse = s.fuse := by unfold State.failOutputs; split <;> simp
@[simp] theorem State.failOutputs_boot {c : Cmd} {n : Nat} : (s.failOutputs c n).boot = s.boot := by unfold State.failOutputs; split <;> simp
@[simp] theorem State.failOutputs_ht {c : Cmd} {n : Nat} : (s.failOutputs c n).ht = s.ht := by unfold State.failOutputs; split <;> simp
@[simp] theorem State.failOutputs_bld {c : Cmd} {n : Nat} : (s.failOutputs c n).bld = s.bld := by unfold State.failOutputs; split <;> simp
@[simp] theorem State.failOutputs_jobs {c : Cmd} {n : Nat} : (s.failOutputs c n).jobs = s.jobs := by unfold State.failOutputs; split <;> simp
@[simp] theorem State.failOutputs_queues {c : Cmd} {n : Nat} : (s.failOutputs c n).queues = s.queues := by unfold State.failOutputs; split <;> simp
@[simp] theorem State.failOutputs_pass {c : Cmd} {n : Nat} : (s.failOutputs c n).pass = s.pass := by unfold State.failOutputs; split <;> simp
@[simp] theorem State.failOutputs_live {c : Cmd} {n : Nat} : (s.failOutputs c n).live = s.live := by unfold State.failOutputs; split <;> simp
@[simp] theorem State.failOutputs_eng {c : Cmd} {n : Nat} : (s.failOutputs c n).eng = s.eng := by unfold State.failOutputs; split <;> simp
@[simp] theorem State.failOutputs_rings {c : Cmd} {n : Nat} : (s.failOutputs c n).rings = s.rings := by unfold State.failOutputs; split <;> simp
@[simp] theorem State.failOutputs_cores {c : Cmd} {n : Nat} : (s.failOutputs c n).cores = s.cores := by unfold State.failOutputs; split <;> simp
@[simp] theorem State.failOutputs_urn {c : Cmd} {n : Nat} : (s.failOutputs c n).urn = s.urn := by unfold State.failOutputs; split <;> simp
@[simp] theorem State.failOutputs_str {c : Cmd} {n : Nat} : (s.failOutputs c n).str = s.str := by unfold State.failOutputs; split <;> simp
@[simp] theorem State.failOutputs_spt {c : Cmd} {n : Nat} : (s.failOutputs c n).spt = s.spt := by unfold State.failOutputs; split <;> simp
@[simp] theorem State.failOutputs_ports {c : Cmd} {n : Nat} : (s.failOutputs c n).ports = s.ports := by unfold State.failOutputs; split <;> simp
@[simp] theorem State.failOutputs_fab {c : Cmd} {n : Nat} : (s.failOutputs c n).fab = s.fab := by unfold State.failOutputs; split <;> simp
@[simp] theorem State.failOutputs_col {c : Cmd} {n : Nat} : (s.failOutputs c n).col = s.col := by unfold State.failOutputs; split <;> simp
@[simp] theorem State.failOutputs_scrubs {c : Cmd} {n : Nat} : (s.failOutputs c n).scrubs = s.scrubs := by unfold State.failOutputs; split <;> simp
@[simp] theorem State.failOutputs_pools {c : Cmd} {n : Nat} : (s.failOutputs c n).pools = s.pools := by unfold State.failOutputs; split <;> simp
@[simp] theorem State.failOutputs_cdyCheck {c : Cmd} {n : Nat} : (s.failOutputs c n).cdyCheck = s.cdyCheck := by unfold State.failOutputs; split <;> simp
@[simp] theorem State.failOutputs_tin {c : Cmd} {n : Nat} : (s.failOutputs c n).tin = s.tin := by unfold State.failOutputs; split <;> simp
@[simp] theorem State.failOutputs_upd {c : Cmd} {n : Nat} : (s.failOutputs c n).upd = s.upd := by unfold State.failOutputs; split <;> simp
@[simp] theorem State.failOutputs_inf {c : Cmd} {n : Nat} : (s.failOutputs c n).inf = s.inf := by unfold State.failOutputs; split <;> simp
@[simp] theorem State.failOutputs_pfx {c : Cmd} {n : Nat} : (s.failOutputs c n).pfx = s.pfx := by unfold State.failOutputs; split <;> simp
@[simp] theorem State.failOutputs_host {c : Cmd} {n : Nat} : (s.failOutputs c n).host = s.host := by unfold State.failOutputs; split <;> simp
@[simp] theorem State.failOutputs_irq {c : Cmd} {n : Nat} : (s.failOutputs c n).irq = s.irq := by unfold State.failOutputs; split <;> simp
@[simp] theorem State.failOutputs_wdn {c : Cmd} {n : Nat} : (s.failOutputs c n).wdn = s.wdn := by unfold State.failOutputs; split <;> simp
@[simp] theorem State.failOutputs_ktl {c : Cmd} {n : Nat} : (s.failOutputs c n).ktl = s.ktl := by unfold State.failOutputs; split <;> simp
@[simp] theorem State.failOutputs_log {c : Cmd} {n : Nat} : (s.failOutputs c n).log = s.log := by unfold State.failOutputs; split <;> simp
@[simp] theorem State.failOutputs_out {c : Cmd} {n : Nat} : (s.failOutputs c n).out = s.out := by unfold State.failOutputs; split <;> simp

/-! ### What the updates write -/

@[simp] theorem State.emit_out {o : Output} : (s.emit o).out = s.out ++ [o] := rfl

/-- R43: the step a change of BOOT_STATE.STEP leaves. -/
@[simp] theorem State.setStep_boot {n : Nat} :
    (s.setStep n).boot = { s.boot with step := n, attempt := if s.boot.step = n then s.boot.attempt else 0 } := by
  unfold State.setStep
  split
  · rename_i h; subst h; rfl
  · simp

@[simp] theorem State.slot_setSlot {j : Nat} {f : JobSlot → JobSlot} : (s.setSlot j f).slot j = f (s.slot j) := tget_tmod_self

theorem State.slot_setSlot_ne {i j : Nat} {f : JobSlot → JobSlot} (h : i ≠ j) : (s.setSlot j f).slot i = s.slot i :=
  tget_tmod_ne h

@[simp] theorem State.core_modCore {k : Nat} {f : Core → Core} : (s.modCore k f).core k = f (s.core k) := tget_tmod_self

theorem State.core_modCore_ne {i k : Nat} {f : Core → Core} (h : i ≠ k) : (s.modCore k f).core i = s.core i :=
  tget_tmod_ne h

@[simp] theorem State.ring_modRing {r : Nat} {f : Ring → Ring} : (s.modRing r f).ring r = f (s.ring r) := tget_tmod_self

theorem State.ring_modRing_ne {i r : Nat} {f : Ring → Ring} (h : i ≠ r) : (s.modRing r f).ring i = s.ring i :=
  tget_tmod_ne h

@[simp] theorem State.engRegs_modEng {u : Nat} {f : EngRegs → EngRegs} : (s.modEng u f).engRegs u = f (s.engRegs u) :=
  tget_tmod_self

theorem State.engRegs_modEng_ne {i u : Nat} {f : EngRegs → EngRegs} (h : i ≠ u) : (s.modEng u f).engRegs i = s.engRegs i :=
  tget_tmod_ne h

@[simp] theorem State.queue_setQueue {e j : Nat} {q : List Cmd} : (s.setQueue e j q).queue e j = q := tget_tset_self

/-- A store reads back. -/
theorem State.store_byte_inside {a i : Nat} {bs : List Byte} (h : i < bs.length) :
    (s.store a bs).mem.byte (a + i) = bs[i] := Memory.byte_write_inside h

/-- A store leaves every byte outside it. -/
theorem State.store_byte_outside {a c : Nat} {bs : List Byte} (h : c < a ∨ a + bs.length ≤ c) :
    (s.store a bs).mem.byte c = s.mem.byte c := Memory.byte_write_outside h

/-- Several stores leave every byte outside all of them. -/
theorem State.storeAll_byte_outside {c : Nat} {ws : List (Nat × List Byte)}
    (h : ∀ w ∈ ws, c < w.1 ∨ w.1 + w.2.length ≤ c) : (s.storeAll ws).mem.byte c = s.mem.byte c := by
  unfold State.storeAll
  induction ws generalizing s with
  | nil => rfl
  | cons w r ih =>
    rw [List.foldl_cons, ih fun x hx => h x (List.mem_cons_of_mem _ hx)]
    exact State.store_byte_outside (h w List.mem_cons_self)

theorem leBytes_length {n v : Nat} : (leBytes n v).length = n := by
  induction n generalizing v with
  | zero => rfl
  | succ n ih => simp [leBytes, ih]

/-- The record of Table 17-5 has 64 bytes. -/
@[simp] theorem Cmd.record_length {c : Cmd} {a d e : Nat} : (c.record a d e).length = 64 := by
  simp [Cmd.record, leBytes_length, zeros]

/-- R437: the only memory a command's end writes is its completion record. -/
theorem State.complete_byte {c : Cmd} {a d u x : Nat} {g v : Bool}
    (h : x < localOf c.compl.toNat ∨ localOf c.compl.toNat + 64 ≤ x) : (s.complete c a d g u v).mem.byte x = s.mem.byte x := by
  have w : ∀ t : State, (t.finish c (c.record a d s.now) g).mem.byte x = t.mem.byte x := by
    intro t
    have k : (t.writeCompl c (c.record a d s.now) g).mem.byte x = t.mem.byte x := by
      unfold State.writeCompl
      dsimp only
      split
      · rfl
      · split
        · split
          · exact State.store_byte_outside (by simpa using h)
          · rfl
        · simp
    unfold State.finish
    split <;> simp [k]
  unfold State.complete
  dsimp only
  repeat' split
  all_goals simp [w]

/-- A message of an unmasked vector leaves at once. -/
theorem State.msix_sent {v : Nat} (hl : s.linkUp = true) (hm : (s.vector v).masked = false) :
    s.msix v = s.emit (.msix v (s.vector v).addr (s.vector v).data) := by
  simp [State.msix, hl, hm]

/-- A masked vector that is raised sets its pending bit. -/
theorem State.msix_held {v : Nat} (hl : s.linkUp = true) (hm : (s.vector v).masked = true) :
    s.msix v = s.setVectorPending v true := by
  simp [State.msix, hl, hm]

/-- No vector is raised while the link is down. -/
theorem State.msix_linkDown {v : Nat} (hl : s.linkUp = false) : s.msix v = s := by
  simp [State.msix, hl]


end Sys2Proof.Machine
end

