-- ==== Sys2Proof/Machine/Bars.lean ====
section
/-!
DEFINITION. What host software reads through the BARs of Function 0 (17_host_interface.md R429, R430; Table 17-3). The table of commands has
no row for a read, which but for WMB_RDATA changes nothing: a read is a function of the state.
-/

namespace Sys2Proof.Machine

/-- The 8-byte word at an offset of BAR2: the MSI-X table and its pending bits; the component registers, whose layout stands in the CXL
specification, show what the block holds for them; the reserved range reads zero. DESIGN CHOICE (notes/assumptions/45.md): what a doorbell
reads is not said, and free. -/
def State.bar2Word (s : State) (o : Nat) : Nat :=
  if o < 0x40000 then (Config.barWord o []).toNat
  else if inArray 0x40000 8 (2 * msixVectors) o then
    let v := s.vector ((o - 0x40000) / 16)
    if o % 16 = 0 then v.addr.toNat else v.data.toNat + flagBit v.masked 32
  else if inArray 0x50000 8 2 o then
    ((List.range 64).map fun i => flagBit (decide ((o - 0x50000) * 8 + i < msixVectors) && s.vectorPending ((o - 0x50000) * 8 + i)) i).sum
  else if inArray 0x60000 8 8192 o then
    (Config.barWord o [(tget 0 s.host.component ((o - 0x60000) / 8)).toNat, flagBit s.host.ras 0, s.host.ideKeys, flagBit s.host.linkStream 0,
      flagBit s.host.contained 0]).toNat
  else 0

/-- The bytes of a read of `size` bytes from a word. -/
def readBytes (w off size : Nat) : List Byte := (leBytes 8 w).drop (off % 8) |>.take size

/-- A read of `size` bytes at an offset of BAR0 or BAR2: 4 or 8 bytes, naturally aligned; any other completes as Unsupported Request. -/
def State.barRead (s : State) (bar off size : Nat) : Output :=
  let w := if bar = 0 then s.readReg (off / 8 * 8) else s.bar2Word (off / 8 * 8)
  if (size = 4 || size = 8) && off % size = 0 then .data (readBytes w off size) else .unsupported

end Sys2Proof.Machine
end

