-- ==== Sys2Proof/Tests/Slice0.lean ====
section
/-!
SUPPORT. Tests: for each clause of a statement with hypotheses a state and operands that meet them (`meets_<statement>_<clause>`),
ill-formed commands that WellFormed refuses, and values of the spec's own tables and examples.
-/

open Sys2Proof Sys2Proof.Machine

namespace Sys2Proof.Tests

set_option Elab.async false

/-- The descriptor of a vector of n elements at `base`. -/
def vecDesc (base fmt n bytes : Nat) : List Byte :=
  leBytes 8 base ++ leBytes 1 (fmt + 16) ++ [0, 0] ++ leBytes 5 bytes ++ leBytes 4 n ++ zeros 44

/-- The descriptor of a matrix of n × m elements at `base`, its rows `stride` bytes apart. -/
def matDesc (base fmt n m stride bytes : Nat) : List Byte :=
  leBytes 8 base ++ leBytes 1 (fmt + 32) ++ [0, 0] ++ leBytes 5 bytes ++ leBytes 4 n ++ leBytes 4 m ++ zeros 12 ++ leBytes 4 stride ++ zeros 24

/-- A device with ID 0 and one job, 7, in slot 0, whose windows are the first MiB of GDDR7 and of Stack SRAM; the command at the head
of its queue of engine e has its argument block at 0x1000. -/
def engineState (e op : Nat) (params : List Byte) (slots : List (Nat × List Byte) := []) (data : List (Nat × List Byte) := [])
    (imm : BitVec 64 := 0) (arg : Nat := 0x1000) (st : Sparse Word := []) : State :=
  { queues := [(8 * e, [{ engine := e, opcode := op, arg, imm }])]
    mem := Memory.writeAll {} ((arg, params) :: (slots.map fun x => (arg + 64 * (x.1 + 1), x.2)) ++ data)
    fab := { fabId := 0 }
    bld := { cur := { jobs := [{ jobId := 7 }], windows := [{ kind := 1, job := 7, base := 0, len := 0x100000 },
      { kind := 1, job := 7, base := ssramBase, len := 0x100000 }], st } } }

/-- The state and the command once a command of engine e has started. -/
def begunState (s : State) (e op : Nat) : State := ((s.begins e op).getD (s, {})).1

def begunCmd (s : State) (e op : Nat) : Cmd := ((s.begins e op).getD (s, {})).2

/-- A plan of two members, devices 0 and 1, over port index 0, in slot position 0 of job slot 0; its window is window 2. -/
def planBlend : Blend :=
  { jobs := [{ jobId := 7 }], ttab := [0]
    plans := [(0, { tag := 1, dM1 := 1, hmax := 1, members := [0, 1], phases := [{ lanes := 1, routes := [0xC0] }] })]
    windows := [{ kind := 1, job := 7, base := 0, len := 0x100000 }, { kind := 1, job := 7, base := ssramBase, len := 0x100000 },
      { kind := 3, mode := 1, job := 7, base := 0x100000, len := 0x100000 }, { kind := 3, mode := 1, job := 7, base := 0x200000, len := 0x100000 }]
    st := [(0x110300, 0x7), (0x160100, 0x2)] }

/-- A device that runs that plan, with a command waiting. -/
def planState (e op : Nat) (params : List Byte) (slots : List (Nat × List Byte)) (data : List (Nat × List Byte) := []) : State :=
  { engineState e op params slots data with
    bld := { cur := planBlend, hop0 := [{ phys := 0, en := true }] }, ht := { state := .locked }, ports := [(0, { state := 3 })] }

theorem meets_RestartNeedsAction_1 : ∃ (s : State), s.pwr.latched = true :=
  ⟨{ pwr := { latched := true } }, by decide⟩

theorem meets_RestartNeedsAction_2 : ∃ (s : State), s.pwr.present = true ∧ s.pwr.pwrEn = false ∧ s.pwr.latched = true ∧ s.pwr.running = false :=
  ⟨{ pwr := { present := true, latched := true } }, by decide⟩

theorem meets_RestartNeedsAction_3 : ∃ (s : State) (v : Nat), s.pwr.present = false ∧ s.pwr.latched = true ∧ 40000 ≤ v :=
  ⟨{ pwr := { latched := true } }, 40000, by decide⟩

theorem meets_RestartNeedsAction_4 : ∃ (s : State) (v : Nat) (ns : Nat), s.pwr.running = true ∧ v < 56000 ∧ 50000 ≤ ns :=
  ⟨{ pwr := { running := true } }, 55999, 50000, by decide⟩

theorem meets_InputAndRails_1 : ∃ (s : State) (v : Nat) (i : Nat) (ns : Nat), s.pwr.running = true ∧ ((v < 56000 ∧ 50000 ≤ ns) ∨ (56000 ≤ v ∧ v < 58000 ∧ 10000000 < ns) ∨ (69000 < v ∧ 100000 ≤ ns) ∨ (50000 < i ∧ 20000 ≤ ns) ∨ (s.pwr.pwrEn = false ∧ 10000 ≤ ns)) :=
  ⟨{ pwr := { running := true } }, 58000, 0, 10000, by decide⟩

theorem meets_InputAndRails_2 : ∃ (s : State) (v : Nat) (i : Nat), 58000 ≤ v ∧ v ≤ 69000 ∧ i ≤ 50000 ∧ s.pwr.pwrEn = true ∧ s.pwr.internalEnable = true :=
  ⟨{ pwr := { pwrEn := true } }, 69000, 50000, by decide⟩

theorem meets_InputAndRails_3 : ∃ (s : State) (v : Nat), s.pwr.present = true ∧ s.pwr.running = true ∧ v < 40000 :=
  ⟨{ pwr := { present := true, running := true } }, 39999, by decide⟩

theorem meets_InputAndRails_4 : ∃ (s : State) (row : Nat) (ns : Nat), s.pwr.running = true ∧ 3 ≤ s.boot.step ∧ ((row = 2 ∧ ns ≤ 10000000) ∨ row = 5) :=
  ⟨{ pwr := { running := true }, boot := { step := 3 } }, 2, 10000000, by decide⟩

theorem meets_InputAndRails_5 : ∃ (s : State) (v : Nat) (held : Nat), s.pwr.present = true ∧ s.pwr.pwrEn = true ∧ s.pwr.running = false ∧ s.pwr.latched = false ∧ 58000 ≤ v ∧ 10000 ≤ held :=
  ⟨{ pwr := { present := true, pwrEn := true } }, 58000, 10000, by decide⟩

theorem meets_InputAndRails_6 : ∃ (v : Nat), v < 58000 :=
  ⟨57999, by decide⟩

theorem meets_InputAndRails_7 : ∃ (s : State) (rail : Nat), s.pwr.running = true ∧ s.boot.step = 2 ∧ s.pwr.pwrOk = false ∧ 1 ≤ rail ∧ rail ≤ 6 :=
  ⟨{ pwr := { running := true }, boot := { step := 2 } }, 6, by decide⟩

theorem meets_InputAndRails_8 : ∃ (s : State), s.pwr.running = true ∧ s.boot.step = 2 ∧ s.boot.hold = false :=
  ⟨{ pwr := { running := true }, boot := { step := 2 } }, by decide⟩

theorem meets_RootSourceAndHoldover_1 : ∃ (s : State) (ns : Nat) (ppm : Nat), s.pwr.running = true ∧ s.clk.holdover = false ∧ (200 ≤ ns ∨ (s.clk.source ≠ .oscillator ∧ 50 < ppm)) :=
  ⟨{ pwr := { running := true }, clk := { source := .hallRef } }, 200, 0, by decide⟩

theorem meets_RootSourceAndHoldover_2 : ∃ (ns : Nat) (ppm : Nat), ns < 200 ∧ ppm ≤ 50 :=
  ⟨199, 50, by decide⟩

theorem meets_RootSourceAndHoldover_3 : ∃ (s : State) (us : Nat), s.pwr.running = true ∧ s.clk.holdover = true ∧ 10000 ≤ us :=
  ⟨{ pwr := { running := true }, clk := { holdover := true } }, 10000, by decide⟩

theorem meets_RootSourceAndHoldover_4 : ∃ (us : Nat), us < 10000 :=
  ⟨9999, by decide⟩

/-- A firmware image with an empty body that passes every check of R54. -/
def goodImage : List Byte :=
  ascii "AZB7FWIM" ++ leBytes 4 1 ++ leBytes 4 0 ++ leBytes 8 0 ++ zeros 40 ++ digest512 [] ++ zeros 128

/-- Three copies of a repair map that agree; two whose sequence numbers are one apart; one alone. -/
theorem meets_RepairMapVote_1 : mapCopy (mapBytes 7 []) = some (7, []) := by decide +kernel

theorem meets_RepairMapVote_2 : [mapCopy (mapBytes 8 []), mapCopy [], mapCopy (mapBytes 7 [])] = [some (8, []), none, some (7, [])] := by
  decide +kernel

theorem meets_RepairMapVote_3 : ∃ s : State, s.boot.step = 4 ∧ s.pwr.pwrOk = true ∧ s.boot.hold = false ∧ s.boot.rebuilding = false :=
  ⟨{ pwr := { pwrOk := true }, boot := { step := 4 } }, by decide⟩

theorem meets_WardenStartAndMailbox_1 : ∃ (s : State), s.pwr.pwrOk = true ∧ s.boot.step = 3 ∧ s.boot.hold = false :=
  ⟨{ pwr := { pwrOk := true }, boot := { step := 3 } }, by decide⟩

theorem meets_WardenStartAndMailbox_2 : ∃ (s : State), s.pwr.pwrOk = true ∧ s.boot.step = 3 ∧ s.boot.hold = false :=
  ⟨{ pwr := { pwrOk := true }, boot := { step := 3 } }, by decide⟩

theorem meets_WardenStartAndMailbox_3 : ∃ (s : State), s.boot.hold = true ∧ s.boot.cause = 0x03 :=
  ⟨{ boot := { hold := true, cause := 3 } }, by decide⟩

theorem meets_WardenStartAndMailbox_4 : ∃ (s : State), s.boot.cause ≠ 0x03 :=
  ⟨{}, by decide⟩

theorem meets_WardenStartAndMailbox_5 : ∃ (s : State), s.boot.rebuilding = true :=
  ⟨{ boot := { rebuilding := true } }, by decide⟩

theorem meets_WardenStartAndMailbox_6 : ∃ (s : State) (len : BitVec 24), s.mboxOpen = true ∧ len.toNat % 8 = 0 ∧ len.toNat ≤ 0x800000 :=
  ⟨{ boot := { step := 5, wait := true, cause := 0x10 } }, 0x800000, by decide⟩

theorem meets_WardenStartAndMailbox_7 : ∃ (s : State), s.mboxOpen = true ∧ s.boot.mboxPtr + 8 ≤ s.boot.mboxLen.toNat :=
  ⟨{ boot := { step := 5, wait := true, cause := 0x10, mboxLen := 16, mboxPtr := 8 } }, by decide⟩

theorem meets_WardenStartAndMailbox_8 : ∃ (s : State) (h : Half), h ≠ .other ∧ s.boot.mboxLen.toNat ≤ s.boot.mboxPtr :=
  ⟨{ boot := { mboxLen := 16, mboxPtr := 16 } }, .whole, by decide⟩

theorem meets_WardenStartAndMailbox_9 : ∃ (s : State), s.mboxOpen = true :=
  ⟨{ boot := { step := 5, hold := true, cause := 0x04 } }, by decide⟩

theorem meets_WardenStartAndMailbox_10 : ∃ (s : State) (h : Half), h ≠ .other ∧ s.mboxOpen = false :=
  ⟨{}, .whole, by decide⟩

theorem meets_WardenStartAndMailbox_11 : ∃ (s : State), s.linkUp = true :=
  ⟨{ boot := { hostRate := 1 }, pwr := { perst := false } }, by decide⟩

theorem meets_ImagesAndMedia_1 : ∃ (s : State) (img : List Byte) (acc : List Bool), s.boot.step = 5 ∧ s.pwr.pwrOk = true ∧ s.boot.hold = false ∧ s.boot.imageWriting = false ∧ s.boot.mboxBusy = false ∧ s.boot.fromMailbox = false ∧ s.boot.reservedImage = [] ∧ imageKey s img none acc = none :=
  ⟨{ pwr := { pwrOk := true }, boot := { step := 5 } }, [], [], by decide⟩

theorem meets_ImagesAndMedia_2 : ∃ (s : State) (img : List Byte) (acc : List Bool) (k : Nat), s.boot.step = 5 ∧ s.pwr.pwrOk = true ∧ s.boot.hold = false ∧ s.boot.imageWriting = false ∧ s.boot.mboxBusy = false ∧ s.boot.fromMailbox = false ∧ s.boot.reservedImage = [] ∧ imageKey s img none acc = some k :=
  ⟨{ pwr := { pwrOk := true }, boot := { step := 5 } }, goodImage, [true], 0, by decide +kernel⟩

theorem meets_ImagesAndMedia_3 : ∃ (s : State) (acc : List Bool) (k : Nat), s.boot.step = 5 ∧ s.pwr.pwrOk = true ∧ s.boot.hold = false ∧ s.boot.imageWriting = false ∧ s.boot.mboxBusy = true ∧ imageKey s s.mailboxImage (some s.boot.mboxLen.toNat) acc = some k :=
  ⟨{ pwr := { pwrOk := true }, boot := { step := 5, mboxBusy := true, mboxLen := 256 }, mem := ({} : Memory).write stageBase goodImage }, [true], 0, by decide +kernel⟩

theorem meets_ImagesAndMedia_4 : ∃ (s : State), s.boot.step = 5 ∧ s.boot.imageWriting = true :=
  ⟨{ boot := { step := 5, imageWriting := true } }, by decide⟩

theorem meets_ImagesAndMedia_5 : ∃ (s : State) (c : Nat), c < 96 ∧ s.boot.step = 6 ∧ s.boot.gddrTrained.getLsbD c = false ∧ s.boot.gddrFail.getLsbD c = false :=
  ⟨{ boot := { step := 6 } }, 95, by decide⟩

theorem meets_ImagesAndMedia_6 : ∃ (s : State) (c : Nat), c < 96 ∧ s.boot.step = 6 ∧ s.boot.gddrTrained.getLsbD c = false ∧ s.boot.gddrFail.getLsbD c = false ∧ tget 0 s.boot.gddrAttempts c = 2 :=
  ⟨{ boot := { step := 6, gddrAttempts := [(95, 2)] } }, 95, by decide⟩

theorem meets_ImagesAndMedia_7 : ∃ (s : State), s.boot.step = 6 ∧ s.boot.hold = false ∧ s.boot.gddrTrained = BitVec.allOnes 96 :=
  ⟨{ boot := { step := 6, gddrTrained := BitVec.allOnes 96 } }, by decide⟩

theorem meets_ImagesAndMedia_8 : ∃ (s : State), s.tin.state = 1 ∧ s.boot.step ≠ 10 :=
  ⟨{ tin := { state := 1 } }, by decide⟩

theorem meets_ImagesAndMedia_9 : ∃ (s : State), s.tin.state = 1 ∧ s.boot.step = 10 ∧ s.boot.cause = 0x15 :=
  ⟨{ tin := { state := 1 }, boot := { step := 10, cause := 0x15 } }, by decide⟩

theorem meets_HostLinkUpAndDown_2 : ∃ (s : State) (rate : Nat) (width : Nat), s.boot.step = 10 ∧ s.boot.hostRate = 0 ∧ s.pwr.perst = false ∧ ((rate = 2 ∨ rate = 3)) ∧ ((width = 1 ∨ width = 2 ∨ width = 4 ∨ width = 8 ∨ width = 16)) :=
  ⟨{ boot := { step := 10 }, pwr := { perst := false } }, 2, 8, by decide⟩

theorem meets_HostLinkUpAndDown_3 : ∃ (s : State) (rate : Nat) (width : Nat), s.boot.step = 7 ∧ s.boot.step7Done = false ∧ s.boot.hostRate = 0 ∧ s.pwr.perst = false ∧ ((rate = 2 ∨ rate = 3)) ∧ ((width = 1 ∨ width = 2 ∨ width = 4 ∨ width = 8 ∨ width = 16)) :=
  ⟨{ boot := { step := 7 }, pwr := { perst := false } }, 2, 16, by decide⟩

theorem meets_HostLinkUpAndDown_4 : ∃ (s : State) (width : Nat), 7 ≤ s.boot.step ∧ s.boot.hostRate = 0 ∧ s.pwr.perst = false ∧ ((width = 1 ∨ width = 2 ∨ width = 4 ∨ width = 8 ∨ width = 16)) :=
  ⟨{ boot := { step := 8 }, pwr := { perst := false } }, 16, by decide⟩

theorem meets_HostLinkUpAndDown_5 : ∃ (s : State), s.pwr.perst = true :=
  ⟨{}, by decide⟩

theorem meets_HostLinkUpAndDown_6 : ∃ (s : State), s.boot.step = 7 ∧ s.boot.step7Done = false ∧ s.boot.hostRate = 0 ∧ s.pwr.perst = false ∧ s.boot.hostAttempts < 4 :=
  ⟨{ boot := { step := 7, hostAttempts := 3 }, pwr := { perst := false } }, by decide⟩

theorem meets_HostLinkUpAndDown_7 : ∃ (s : State), s.boot.step = 7 ∧ s.boot.step7Done = false ∧ s.boot.hostRate = 0 ∧ s.pwr.perst = false ∧ s.boot.hostAttempts = 4 :=
  ⟨{ boot := { step := 7, hostAttempts := 4 }, pwr := { perst := false } }, by decide⟩

theorem meets_CageCablePower_1 : ∃ (s : State) (cage : Nat) (mw : Nat) (us : Nat), cage < 4 ∧ tget false s.pwr.cablePwr cage = true ∧ 4000 < mw ∧ 1000 ≤ us :=
  ⟨{ pwr := { cablePwr := [(3, true)] } }, 3, 4001, 1000, by decide⟩

theorem meets_CageCablePower_2 : ∃ (cage : Nat) (mw : Nat) (us : Nat), cage < 4 ∧ (mw ≤ 4000 ∨ us < 1000) :=
  ⟨3, 4000, 1000, by decide⟩

theorem meets_CageCablePower_3 : ∃ (s : State) (cage : Nat), cage < 4 ∧ 7 ≤ s.boot.step ∧ tget false s.pwr.seated cage = false :=
  ⟨{ boot := { step := 7 } }, 3, by decide⟩

theorem meets_CageCablePower_4 : ∃ (cage : Nat), cage < 4 :=
  ⟨3, by decide⟩

theorem meets_PortsTrainAndAuthenticate_1 : ∃ (s : State) (p : Nat), p < 12 ∧ (s.port p).tstep = 1 ∧ s.portSeated p = true :=
  ⟨{ pwr := { seated := [(3, true)] }, ports := [(11, { state := 1, tstep := 1 })] }, 11, by decide⟩

theorem meets_PortsTrainAndAuthenticate_2 : ∃ (s : State) (p : Nat), p < 12 ∧ (s.port p).state ≤ 2 ∧ (s.port p).tstep = 2 ∧ s.portSeated p = true :=
  ⟨{ pwr := { seated := [(3, true)] }, ports := [(11, { state := 1, tstep := 2 })] }, 11, by decide⟩

theorem meets_PortsTrainAndAuthenticate_3 : ∃ (s : State) (p : Nat), p < 12 ∧ (s.port p).state ≤ 2 ∧ (s.port p).tstep = 3 ∧ s.portSeated p = true :=
  ⟨{ pwr := { seated := [(3, true)] }, ports := [(11, { state := 1, tstep := 3 })] }, 11, by decide⟩

theorem meets_PortsTrainAndAuthenticate_4 : ∃ (s : State) (p : Nat), p < 12 ∧ (s.port p).state = 1 ∧ (s.port p).tstep = 4 :=
  ⟨{ ports := [(11, { state := 1, tstep := 4 })] }, 11, by decide⟩

theorem meets_PortsTrainAndAuthenticate_5 : ∃ (s : State) (p : Nat), p < 12 ∧ (s.port p).state = 1 ∧ (s.port p).tstep = 4 :=
  ⟨{ ports := [(11, { state := 1, tstep := 4 })] }, 11, by decide⟩

theorem meets_PortsTrainAndAuthenticate_6 : ∃ (s : State) (p : Nat), p < 12 ∧ (s.port p).state = 1 ∧ (s.port p).tstep = 3 ∧ tget 0 s.log.laneSpares (p / 3) < 2 :=
  ⟨{ ports := [(11, { state := 1, tstep := 3 })], log := { laneSpares := [(3, 1)] } }, 11, by decide⟩

theorem meets_PortsTrainAndAuthenticate_7 : ∃ (s : State) (p : Nat) (h : Hello), p < 12 ∧ (s.port p).state = 2 ∧ (s.port p).tstep = 5 ∧ s.wdn.certBad = false ∧ s.ownerOk h.fpr = true :=
  ⟨{ ports := [(11, { state := 2, tstep := 5 })] }, 11, {}, by decide⟩

theorem meets_PortsTrainAndAuthenticate_8 : ∃ (s : State) (p : Nat) (h : Hello) (chainOk : Bool) (refused : Bool), p < 12 ∧ (s.port p).state = 2 ∧ (s.port p).tstep = 5 ∧ ((chainOk = false ∨ refused = true ∨ s.wdn.certBad = true ∨ s.ownerOk h.fpr = false)) :=
  ⟨{ ports := [(11, { state := 2, tstep := 5 })] }, 11, {}, false, false, by decide⟩

theorem meets_PortsTrainAndAuthenticate_9 : ∃ (s : State) (p : Nat) (ms : Nat), p < 12 ∧ (((s.port p).state = 4 ∨ (s.port p).state = 6)) ∧ s.portSeated p = true ∧ 1000 ≤ ms :=
  ⟨{ pwr := { seated := [(3, true)] }, ports := [(11, { state := 4 })] }, 11, 1000, by decide⟩

theorem meets_PortsTrainAndAuthenticate_10 : ∃ (s : State) (p : Nat) (ms : Nat), p < 12 ∧ (s.port p).state = 5 ∧ s.portSeated p = true ∧ 10000 ≤ ms :=
  ⟨{ pwr := { seated := [(3, true)] }, ports := [(11, { state := 5 })] }, 11, 10000, by decide⟩

theorem meets_PortsTrainAndAuthenticate_11 : ∃ (s : State) (p : Nat), p < 12 ∧ (s.port p).state = 4 ∧ s.portSeated p = true ∧ (((s.port p).cls = 1 ∨ (s.port p).cls = 2)) :=
  ⟨{ pwr := { seated := [(3, true)] }, ports := [(11, { state := 4, cls := 2 })] }, 11, by decide⟩

theorem meets_PortsTrainAndAuthenticate_12 : ∃ (s : State) (p : Nat), p < 12 ∧ (s.port p).cls = 0 :=
  ⟨{}, 11, by decide⟩

theorem meets_PortsTrainAndAuthenticate_13 : ∃ (p : Nat) (ms : Nat), p < 12 ∧ ms < 1000 :=
  ⟨11, 999, by decide⟩

theorem meets_PortsTrainAndAuthenticate_14 : ∃ (s : State) (p : Nat), p < 12 ∧ s.portUp p = true ∧ (s.port p).txKey < (s.port p).txPos / 2 ^ 32 :=
  ⟨{ ports := [(11, { state := 3, txPos := 4294967296 })] }, 11, by decide⟩

theorem meets_PortsTrainAndAuthenticate_15 : ∃ (s : State) (p : Nat), p < 12 ∧ s.portUp p = true ∧ (s.port p).rxKey < (s.port p).rxPos / 2 ^ 32 :=
  ⟨{ ports := [(11, { state := 3, rxPos := 4294967296 })] }, 11, by decide⟩

theorem meets_PortsTrainAndAuthenticate_16 : ∃ (s : State) (p : Nat), p < 12 ∧ (s.port p).txPos / 2 ^ 32 ≤ (s.port p).txKey :=
  ⟨{}, 11, by decide⟩

theorem meets_RootSourceAndHoldover_5 : ∃ (s : State) (fs : Nat) (ns : Nat) (l : Bool), ((s.ht.state = .locked ∧ fs ≤ 500 ∧ 250 ≤ ns) ∨ (s.ht.state = .acquiring ∧ s.ht.firstAcquire = true)) ∧ fs ≤ s.ht.corr.natAbs ∧ l = decide (0 < s.ht.corr) :=
  ⟨{ ht := { state := .locked, corr := 500 } }, 500, 250, true, by decide⟩

theorem meets_RootSourceAndHoldover_6 : ∃ (s : State) (fs : Nat) (ns : Nat) (l : Bool), (((500 < fs ∨ ns < 250) ∧ s.ht.firstAcquire = false) ∨ s.ht.corr.natAbs < fs ∨ l ≠ decide (0 < s.ht.corr) ∨ (s.ht.state = .acquiring ∧ s.ht.firstAcquire = false) ∨ s.ht.state = .holdover) :=
  ⟨{}, 501, 0, false, by decide⟩

theorem meets_RootSourceAndHoldover_7 : ∃ (s : State) (p : Nat), s.ht.upstream = some p ∧ s.ht.exchanging = true ∧ 2 ≤ s.ht.noResponse ∧ s.ht.state = .locked ∧ ((∀ q, q ≠ p → s.offers q = false)) :=
  ⟨{ ht := { upstream := some 11, state := .locked, exchanging := true, noResponse := 2 } }, 11, by decide, by decide, by decide, by decide, fun _ _ => rfl⟩

theorem meets_RootSourceAndHoldover_8 : ∃ (s : State), s.ht.noResponse < 2 :=
  ⟨{}, by decide⟩

theorem meets_RootSourceAndHoldover_9 : ∃ (s : State), s.ht.pause = 1 :=
  ⟨{ ht := { pause := 1 } }, by decide⟩

theorem meets_TimeExchangeAndSuccession_1 : ∃ (s : State) (p : Nat), s.ht.upstream = some p ∧ s.ht.state = .locked ∧ s.exchangeDue = true :=
  ⟨{ ht := { upstream := some 11, state := .locked, count := 20000 } }, 11, by decide⟩

theorem meets_TimeExchangeAndSuccession_2 : ∃ (s : State), s.exchangeDue = false :=
  ⟨{ bld := { applied := true } }, by decide⟩

theorem meets_TimeExchangeAndSuccession_3 : ∃ (s : State) (p : Nat), p < 12 ∧ s.portUp p = true :=
  ⟨{ ht := { state := .root }, ports := [(11, { state := 3 })] }, 11, by decide⟩

theorem meets_TimeExchangeAndSuccession_4 : ∃ (s : State) (p : Nat) (r : NbrReport), p < 12 ∧ s.ht.upstream = some p ∧ s.ht.exchanging = true ∧ s.portUp p = true ∧ s.ht.state = .locked ∧ r.state = 2 ∧ r.rootId = s.ht.rootId ∧ r.gen = s.ht.rootGen :=
  ⟨{ ht := { upstream := some 11, state := .locked, exchanging := true }, ports := [(11, { state := 3 })] }, 11, { state := 2 }, by decide⟩

theorem meets_TimeExchangeAndSuccession_5 : ∃ (s : State) (p : Nat) (t1 : Int) (t2 : Int) (t3 : Int) (t4 : Int) (r : NbrReport), p < 12 ∧ s.ht.upstream = some p ∧ s.ht.exchanging = true ∧ s.portUp p = true ∧ s.ht.state = .acquiring ∧ s.ht.firstAcquire = true ∧ s.ht.firstExchange = false ∧ s.ht.agree = 7 ∧ r.state = 2 ∧ r.rootId = s.ht.rootId ∧ r.gen = s.ht.rootGen ∧ (exchangeTheta (stampAt s.ht.departedAt t1) t2 t3 (stampAt s.ht.prov t4) (s.asymOf p)).natAbs ≤ 16384 ∧ s.boot.step = 9 :=
  ⟨{ ht := { upstream := some 11, state := .acquiring, firstAcquire := true, firstExchange := false, agree := 7, exchanging := true }, ports := [(11, { state := 3 })], boot := { step := 9 } }, 11, 0, 0, 0, 32767, { state := 2 }, by decide⟩

theorem meets_TimeExchangeAndSuccession_6 : ∃ (s : State) (p : Nat), p < 12 ∧ (s.ht.exchanging = false ∨ s.ht.upstream ≠ some p) :=
  ⟨{}, 11, by decide⟩

theorem meets_TimeExchangeAndSuccession_7 : ∃ (s : State), s.ht.state = .holdover ∧ s.ht.holdSince + s.holdLimit ≤ s.ht.count :=
  ⟨{ ht := { state := .holdover, count := 10000000000 } }, by decide⟩

theorem meets_TimeExchangeAndSuccession_8 : ∃ (s : State), s.ht.state ≠ .holdover :=
  ⟨{}, by decide⟩

theorem meets_TimeExchangeAndSuccession_9 : ∃ (s : State), s.ht.state = .root ∧ s.ht.rootSeqAt + 10000 ≤ s.ht.count :=
  ⟨{ ht := { state := .root, count := 10000 } }, by decide⟩

theorem meets_TimeExchangeAndSuccession_10 : ∃ (s : State), s.ht.state ≠ .root :=
  ⟨{}, by decide⟩

theorem meets_TimeExchangeAndSuccession_11 : ∃ (s : State) (k : Nat), 1 ≤ k ∧ k < 4 ∧ ((s.ht.state = .locked ∨ s.ht.state = .holdover)) ∧ s.devId ≠ 0xFFFF ∧ s.rootListed k = s.devId ∧ ((∀ m, 1 ≤ m → m < k → s.rootListed m ≠ s.devId)) ∧ s.ht.rootSeqAt + (k + 1) * 100000 ≤ s.ht.count ∧ ((∀ a, s.ht.genSeenAt = some a → a + (k + 1) * 100000 ≤ s.ht.count)) :=
  ⟨{ ht := { state := .holdover, count := 300000 }, fab := { fabId := 5 }, bld := { cur := { st := [(0x020030, 0xFFFF000500040001)] } } }, 2, by decide⟩

theorem meets_TimeExchangeAndSuccession_12 : ∃ (s : State), ((∀ k, 1 ≤ k → k < 4 → s.rootListed k ≠ s.devId)) :=
  ⟨{ fab := { fabId := 5 } }, by decide⟩

theorem meets_RefreshAndTimers_1 : ∃ (s : State) (c : Nat), c < 96 ∧ s.boot.gddrTrained.getLsbD c = true ∧ s.ht.count / slotLen % 16 = 15 ∧ tget 0 s.ht.batchAt c ≠ s.ht.count / slotLen + 1 :=
  ⟨{ boot := { gddrTrained := BitVec.allOnes 96 }, ht := { count := 2400 } }, 95, by decide⟩

theorem meets_RefreshAndTimers_2 : ∃ (s : State) (c : Nat), c < 96 ∧ tget 0 s.ht.batchAt c = s.ht.count / slotLen + 1 :=
  ⟨{ ht := { count := 2400, batchAt := [(95, 16)] } }, 95, by decide⟩

theorem meets_RefreshAndTimers_3 : ∃ (s : State) (c : Nat), c < 96 ∧ s.ht.count / slotLen % 16 = 7 ∧ tget false s.ht.doubled c = false ∧ bitOf (s.st 0x020020) 0 = false :=
  ⟨{ ht := { count := 1120 } }, 95, by decide⟩

theorem meets_RefreshAndTimers_4 : ∃ (s : State) (c : Nat), c < 96 ∧ s.boot.gddrTrained.getLsbD c = true ∧ s.ht.count / slotLen % 16 = 7 ∧ tget false s.ht.doubled c = true ∧ tget 0 s.ht.batchAt c ≠ s.ht.count / slotLen + 1 :=
  ⟨{ boot := { gddrTrained := BitVec.allOnes 96 }, ht := { count := 1120, doubled := [(95, true)] } }, 95, by decide⟩

theorem meets_RefreshAndTimers_5 : ∃ (c : Nat), c < 96 :=
  ⟨95, by decide⟩

theorem meets_RefreshAndTimers_6 : ∃ (s : State) (n : Nat) (k : Nat), n < 16 ∧ k < 256 ∧ s.timerDue n = true ∧ (s.timer n).owner = 0x100 + k ∧ ((∀ m, m < n → s.timerDue m = false)) ∧ (s.bld.state ≠ .armed ∨ s.now < s.bld.armedT) :=
  ⟨{ ht := { state := .locked, count := 7, timers := [(15, { cmp := 7, arm := true, owner := 0x1FF })] } }, 15, 255, by decide⟩

theorem meets_RefreshAndTimers_7 : ∃ (s : State) (n : Nat), n < 16 ∧ (s.timer n).arm = true ∧ (s.timer n).owner ≠ 0 ∧ s.counting = true ∧ (s.timer n).cmp = s.now :=
  ⟨{ ht := { state := .locked, count := 7, timers := [(15, { cmp := 7, arm := true, owner := 0x1FF })] } }, 15, by decide⟩

theorem meets_RefreshAndTimers_8 : ∃ (s : State) (n : Nat) (m : Nat), n < 16 ∧ m < n ∧ s.timerDue m = true :=
  ⟨{ ht := { state := .locked, count := 7, timers := [(14, { cmp := 7, arm := true, owner := 0x1FF })] } }, 15, 14, by decide⟩

theorem meets_RefreshAndTimers_9 : ∃ (s : State) (n : Nat) (u : Nat), n < 16 ∧ s.timerDue n = true ∧ timerEngine (s.timer n).owner = some u ∧ ((∀ m, m < n → s.timerDue m = false)) ∧ (s.bld.state ≠ .armed ∨ s.now < s.bld.armedT) :=
  ⟨{ ht := { state := .locked, count := 7, timers := [(15, { cmp := 7, arm := true, owner := 7 })] } }, 15, 11, by decide⟩

theorem meets_RefreshAndTimers_10 : ∃ (s : State) (n : Nat), n < 16 ∧ ((s.timer n).arm = false ∨ s.now < (s.timer n).cmp ∨ (s.timer n).owner = 0) :=
  ⟨{}, 15, by decide⟩

theorem meets_RefreshAndTimers_11 : ∃ (s : State) (r : Nat) (n : Nat), n < 16 ∧ r ≠ 0 ∧ (s.timer n).owner = r :=
  ⟨{ ht := { timers := [(15, { owner := 2 })] } }, 2, 15, by decide⟩

theorem meets_RefreshAndTimers_12 : ∃ (s : State) (r : Nat) (n : Nat) (v : BitVec 64), n < 16 ∧ r ≠ 0 ∧ (s.timer n).owner = r ∧ v.getLsbD 1 = true ∧ 5 ≤ field v.toNat 47 16 :=
  ⟨{ ht := { timers := [(15, { owner := 2 })] } }, 2, 15, 0x50003, by decide⟩

theorem meets_RefreshAndTimers_13 : ∃ (s : State) (r : Nat) (n : Nat) (v : BitVec 64), n < 16 ∧ r ≠ 0 ∧ (s.timer n).owner = r ∧ v.getLsbD 1 = true ∧ field v.toNat 47 16 < 5 :=
  ⟨{ ht := { timers := [(15, { owner := 2 })] } }, 2, 15, 0x40003, by decide⟩

theorem meets_RefreshAndTimers_14 : ∃ (s : State) (r : Nat) (n : Nat) (h : Half), n < 16 ∧ h ≠ .other ∧ (r = 0 ∨ (s.timer n).owner ≠ r) :=
  ⟨{}, 0, 15, .whole, by decide⟩

/-- A delta image of 768 bytes with one CORE section in which no core is given to a job. -/
def deltaImage : List Byte :=
  let dir := leBytes 2 7 ++ leBytes 2 1 ++ zeros 4 ++ leBytes 4 512 ++ leBytes 4 256 ++ zeros 240
  let body := dir ++ zeros 256
  ascii "AZB7BLND" ++ leBytes 4 1 ++ leBytes 4 1 ++ leBytes 8 5 ++ leBytes 8 4 ++ leBytes 8 768 ++ leBytes 4 1 ++ leBytes 2 0xFFFF ++ zeros 18 ++
    digest512 body ++ zeros 128 ++ body

/-- A stage that has loaded the delta image over the blend with ID 4. -/
def loadedStage : State :=
  { bld := { state := .checking, image := deltaImage, len := 768, delta := true, baseId := 4, currentId := 4, stagedId := 5
             applied := true }, fab := { fabId := 0 }, wdn := { policy := 0 } }

theorem meets_StageCommandsAndFields_1 : ∃ (s : State), s.bldOpen = true ∧ s.maintNow = false ∧ s.bld.state = .empty :=
  ⟨{ boot := { step7Done := true } }, by decide⟩

theorem meets_StageCommandsAndFields_2 : ∃ (s : State), s.bldOpen = true ∧ s.maintNow = true ∧ s.bld.state = .empty :=
  ⟨{ boot := { step7Done := true, sincePwrOk := 1 }, wdn := { mode := 2, maintAt := some 0 } }, by decide⟩

theorem meets_StageCommandsAndFields_3 : ∃ (s : State), s.bldOpen = true ∧ s.bld.state ≠ .empty :=
  ⟨{ boot := { step7Done := true }, bld := { state := .claimed } }, by decide⟩

theorem meets_StageCommandsAndFields_4 : ∃ (s : State) (r : Nat), s.bldOpen = true ∧ (s.bld.state = .claimed ∨ s.bld.state = .checked) ∧ s.bld.claimant = r :=
  ⟨{ boot := { step7Done := true }, bld := { state := .checked, claimant := 1 } }, 1, by decide⟩

theorem meets_StageCommandsAndFields_5 : ∃ (s : State) (r : Nat), s.bldOpen = true ∧ s.bld.claimant ≠ r :=
  ⟨{ boot := { step7Done := true }, bld := { state := .checked, claimant := 1 } }, 2, by decide⟩

theorem meets_StageCommandsAndFields_6 : ∃ (s : State) (r : Nat), s.bldOpen = true ∧ s.bld.state = .armed ∧ s.bld.claimant = r ∧ s.now + 2560 < s.bld.armedT ∧ s.col.start = none :=
  ⟨{ boot := { step7Done := true }, bld := { state := .armed, claimant := 1, armedT := 2561 } }, 1, by decide⟩

theorem meets_StageCommandsAndFields_7 : ∃ (s : State), s.bldOpen = true ∧ s.bld.armedT ≤ s.now + 2560 :=
  ⟨{ boot := { step7Done := true }, bld := { state := .armed, claimant := 1, armedT := 2560 } }, by decide⟩

theorem meets_StageCommandsAndFields_8 : ∃ (s : State) (off : Nat) (m : Nat) (h : Half), off % 8 = 0 ∧ h ≠ .other ∧ stMask off = some m ∧ s.bld.state ≠ .armed :=
  ⟨{}, 0x020020, 0x3FFF0001, .whole, by decide⟩

theorem meets_StageCommandsAndFields_9 : ∃ (s : State) (off : Nat) (m : Nat) (h : Half), off % 8 = 0 ∧ h ≠ .other ∧ stMask off = some m ∧ s.bld.state = .armed :=
  ⟨{ bld := { state := .armed } }, 0x2F0200, 0x1FF, .whole, by decide⟩

theorem meets_StageCommandsAndFields_10 : ∃ (off : Nat) (h : Half), off % 8 = 0 ∧ h ≠ .other ∧ stMask off = none :=
  ⟨0x020000, .whole, by decide⟩

theorem meets_StageCommandsAndFields_11 : ∃ (s : State) (off : Nat) (h : Half), (off % 8 ≠ 0 ∨ h = .other) ∧ s.linkUp = true :=
  ⟨{ boot := { hostRate := 1 }, pwr := { perst := false } }, 0x020024, .whole, by decide⟩

theorem meets_StageLoadAndCheck_1 : ∃ (s : State) (r : Nat), s.bldOpen = true ∧ (s.bld.state = .claimed ∨ s.bld.state = .checked) ∧ s.bld.claimant = r ∧ s.bld.src % 256 = 0 ∧ inMain s.bld.src s.bld.len = true ∧ s.hasBad s.bld.src s.bld.len = false :=
  ⟨{ boot := { step7Done := true }, bld := { state := .claimed, claimant := 1, src := 256, len := 768 } }, 1, by decide⟩

theorem meets_StageLoadAndCheck_2 : ∃ (s : State) (r : Nat), s.bldOpen = true ∧ (s.bld.state = .claimed ∨ s.bld.state = .checked) ∧ s.bld.claimant = r ∧ (s.bld.src % 256 ≠ 0 ∨ inMain s.bld.src s.bld.len = false) :=
  ⟨{ boot := { step7Done := true }, bld := { state := .claimed, claimant := 1, src := 255, len := 768 } }, 1, by decide⟩

theorem meets_StageLoadAndCheck_3 : ∃ (s : State) (ok : Bool) (f : BldResult), s.bld.state = .checking ∧ s.bld.deferUntil = 0 ∧ s.loadFail ok = some f ∧ s.col.start = none :=
  ⟨{ bld := { state := .checking, verdict := some { status := 0x61, resource := 1 } } }, true, { status := 0x61, resource := 1, count := 1 }, by decide⟩

theorem meets_StageLoadAndCheck_4 : ∃ (s : State) (ok : Bool), s.bld.state = .checking ∧ s.bld.deferUntil = 0 ∧ s.loadFail ok = none ∧ s.bld.flipped = false ∧ s.col.start = none :=
  ⟨loadedStage, false, by decide +kernel⟩

theorem meets_StageLoadAndCheck_5 : ∃ (s : State), s.bld.state = .checking ∧ s.bld.deferUntil ≠ 0 ∧ s.bld.deferUntil ≤ s.now ∧ s.col.start = none :=
  ⟨{ ht := { state := .locked, count := 100001 }, bld := { state := .checking, deferUntil := 100001, carried := [3], staged := { hop := [{ en := true }] } } }, by decide⟩

theorem meets_StageLoadAndCheck_6 : ∃ (s : State), s.now < s.bld.deferUntil :=
  ⟨{ bld := { deferUntil := 1 } }, by decide⟩

theorem meets_ApplyAndRollback_1 : ∃ (s : State) (r : Nat), s.bldOpen = true ∧ s.bld.state = .checked ∧ r = s.bld.claimant ∧ s.bld.dirty = false ∧ 10 ≤ s.boot.step ∧ (s.ht.state = .locked ∨ s.ht.state = .holdover ∨ s.ht.state = .root) ∧ s.now + 10240 ≤ roundUp s.bld.applyTime 2560 ∧ ((s.bld.applied = true ∨ 2 ≤ s.tin.state)) ∧ ((s.bld.flipped = false ∨ s.hopChanges = false ∨ s.bld.flipAt + 1000000 ≤ roundUp s.bld.applyTime 2560)) ∧ s.ktl.therm ≠ 2 :=
  ⟨{ boot := { step7Done := true, step := 15 }, ht := { state := .locked }, bld := { state := .checked, claimant := 1, applyTime := 10240, applied := true } }, 1, by decide⟩

theorem meets_ApplyAndRollback_2 : ∃ (s : State) (r : Nat), s.bldOpen = true ∧ s.bld.state = .checked ∧ r = s.bld.claimant ∧ s.bld.dirty = false ∧ (s.boot.step < 10 ∨ (s.ht.state ≠ .locked ∧ s.ht.state ≠ .holdover ∧ s.ht.state ≠ .root) ∨ roundUp s.bld.applyTime 2560 < s.now + 10240) :=
  ⟨{ boot := { step7Done := true, step := 15 }, ht := { state := .locked }, bld := { state := .checked, claimant := 1, applyTime := 7680, applied := true } }, 1, by decide⟩

theorem meets_ApplyAndRollback_3 : ∃ (s : State) (r : Nat), s.bldOpen = true ∧ s.bld.state = .checked ∧ r = s.bld.claimant ∧ s.bld.dirty = false ∧ 10 ≤ s.boot.step ∧ (s.ht.state = .locked ∨ s.ht.state = .holdover ∨ s.ht.state = .root) ∧ s.now + 10240 ≤ roundUp s.bld.applyTime 2560 ∧ s.bld.applied = false ∧ s.tin.state ≤ 1 :=
  ⟨{ boot := { step7Done := true, step := 10 }, ht := { state := .locked }, bld := { state := .checked, claimant := 1, applyTime := 10240 }, tin := { state := 1 } }, 1, by decide⟩

theorem meets_ApplyAndRollback_4 : ∃ (s : State) (r : Nat), s.bldOpen = true ∧ s.bld.state = .checked ∧ r = s.bld.claimant ∧ s.bld.dirty = false ∧ 10 ≤ s.boot.step ∧ (s.ht.state = .locked ∨ s.ht.state = .holdover ∨ s.ht.state = .root) ∧ s.now + 10240 ≤ roundUp s.bld.applyTime 2560 ∧ s.bld.applied = true ∧ s.bld.flipped = true ∧ s.hopChanges = true ∧ roundUp s.bld.applyTime 2560 < s.bld.flipAt + 1000000 :=
  ⟨{ boot := { step7Done := true, step := 15 }, ht := { state := .root }, bld := { state := .checked, claimant := 1, applyTime := 10240, applied := true, flipped := true, carried := [3], staged := { hop := [{ en := true }] } } }, 1, by decide +kernel⟩

theorem meets_ApplyAndRollback_5 : ∃ (s : State) (r : Nat), s.bldOpen = true ∧ s.bld.state = .checked ∧ r = s.bld.claimant ∧ s.bld.dirty = true ∧ s.wdn.policy.getLsbD 0 = true :=
  ⟨{ boot := { step7Done := true }, wdn := { policy := 1 }, bld := { state := .checked, claimant := 1, dirty := true } }, 1, by decide⟩

theorem meets_ApplyAndRollback_6 : ∃ (s : State), s.bldOpen = false :=
  ⟨{}, by decide⟩

theorem meets_ApplyAndRollback_8 : ∃ (s : State), s.bld.state = .armed ∧ s.bld.armedT ≤ s.now ∧ s.failAtT = none :=
  ⟨{ ht := { state := .locked, count := 2560 }, bld := { state := .armed, armedT := 2560, applied := true } }, by decide +kernel⟩

theorem meets_ApplyAndRollback_9 : ∃ (s : State), s.bld.state = .armed ∧ s.hopChanges = true ∧ s.bld.flipped = true ∧ s.bld.armedT < s.bld.flipAt + 1000000 :=
  ⟨{ bld := { state := .armed, flipped := true, carried := [3], staged := { hop := [{ en := true }] } } }, by decide +kernel⟩

theorem meets_ApplyAndRollback_10 : ∃ (s : State) (f : BldResult), s.bld.state = .armed ∧ s.bld.armedT ≤ s.now ∧ s.failAtT = some f ∧ s.col.start = none :=
  ⟨{ ht := { count := 2560 }, bld := { state := .armed } }, { status := 0x61, resource := 3, count := 1 }, by decide +kernel⟩

theorem meets_ApplyAndRollback_11 : ∃ (s : State), s.now < s.bld.armedT :=
  ⟨{ bld := { armedT := 1 } }, by decide⟩

theorem meets_ApplyAndRollback_12 : ∃ (s : State) (at' : Nat) (b : Blend), s.col.rollbackAt = some at' ∧ s.col.prior = some b ∧ at' ≤ s.now :=
  ⟨{ ht := { state := .locked, count := 2560 }, col := { rollbackAt := some 2560, prior := some {} } }, 2560, {}, by decide⟩

theorem meets_ApplyAndRollback_13 : ∃ (s : State), s.col.rollbackAt = none :=
  ⟨{}, by decide⟩

/-- A host link that is up, and ring 0 enabled with 64 entries and one descriptor waiting, after a first blend. -/
def ringState : State :=
  { boot := { hostRate := 6 }, pwr := { pwrOk := true, perst := false }, rings := [(0, { en := true, log2size := 6, tail := 1 })]
    bld := { applied := true, cur := { jobs := [{ jobId := 7 }], ringMap := [0] } } }

/-- A CINC on counter 1, and a descriptor whose engine does not exist. -/
def cincDesc : BitVec 512 := 0x05

def badDesc : BitVec 512 := 0xFF05

/-- Pool 0 of job slot 0: 16 buffers of 4 KiB at the start of GDDR7. -/
def poolSt : Sparse Word := [(0x130100, 0x10C000000000), (0x130108, 0x10)]

def poolBlend : Blend := { jobs := [{ jobId := 7 }], st := poolSt }

def allocState : State := engineState 5 1 (leBytes 1 0 ++ [0] ++ leBytes 2 1 ++ zeros 60) [(7, vecDesc 0x20000 10 2 8)] [] 0 0x40000 poolSt

def freeState (h : Nat) : State :=
  engineState 5 2 ([0, 0] ++ leBytes 2 1 ++ zeros 60) [(0, vecDesc 0x80000 10 2 8)]
    [(0x80000, leBytes 8 h), (0x1000, header 0xFFFFFFFF 5 0 0x41)] 0 0x40000 poolSt

def waitState (w : Waiter) (p : PoolState) : State :=
  { boot := { sincePwrOk := 10 }, ht := { state := .locked, count := 9 }, bld := { cur := poolBlend }, pools := [(0, { p with waiters := [w] })] }

theorem meets_RegisterWrites_1 : ∃ (s : State) (r : Nat), s.pwr.pwrOk = true ∧ (r ≠ 1 ∨ s.linkUp = true) ∧ s.bld.applied = false ∧ (s.host.sbWrite = none ∨ s.host.sbWrite.any (fun x => x.1 == s.engCycle) = false) :=
  ⟨{ pwr := { pwrOk := true } }, 8, by decide⟩

theorem meets_RegisterWrites_2 : ∃ (s : State) (w : BitVec 64), s.pwr.pwrOk = true ∧ s.linkUp = true ∧ s.bld.applied = false ∧ s.host.sbWrite = some (s.engCycle, 0x2F0000, w) :=
  ⟨{ ringState with bld := {}, host := { sbWrite := some (0, 0x2F0000, 5) } }, 5, by decide⟩

theorem meets_RegisterWrites_3 : ∃ (s : State) (r : Nat), s.pwr.pwrOk = true ∧ (r ≠ 1 ∨ s.linkUp = true) ∧ s.bld.applied = true :=
  ⟨ringState, 1, by decide⟩

theorem meets_RegisterWrites_4 : ∃ (s : State) (r : Nat), s.pwr.pwrOk = true ∧ (r ≠ 1 ∨ s.linkUp = true) :=
  ⟨{ pwr := { pwrOk := true }, ktl := { evt := 0xFFFF } }, 8, by decide⟩

theorem meets_RegisterWrites_5 : ∃ (s : State) (r : Nat), s.pwr.pwrOk = true ∧ (r ≠ 1 ∨ s.linkUp = true) :=
  ⟨{ pwr := { pwrOk := true } }, 8, by decide⟩

theorem meets_RegisterWrites_7 : ∃ (s : State) (off : Nat) (h : Half), s.pwr.pwrOk = true ∧ s.linkUp = true ∧ (off % 8 ≠ 0 ∨ h = .other) :=
  ⟨ringState, 4, .whole, by decide⟩

theorem meets_RegisterWrites_8 : ∃ (r : Nat) (off : Nat) (h : Half), r ≠ 1 ∧ (off % 8 ≠ 0 ∨ h = .other) :=
  ⟨8, 4, .whole, by decide⟩

theorem meets_RegisterWrites_9 : ∃ (s : State) (r : Nat), (s.pwr.pwrOk = false ∨ (r = 1 ∧ s.linkUp = false)) :=
  ⟨{}, 1, by decide⟩

theorem meets_RegisterWrites_10 : ∃ (s : State) (r : Nat) (off : Nat) (h : Half), s.pwr.pwrOk = true ∧ (r ≠ 1 ∨ s.linkUp = true) ∧ off % 8 = 0 ∧ h ≠ .other ∧ (stMask off).isSome = true :=
  ⟨{ pwr := { pwrOk := true } }, 8, 0x2F0200, .whole, by decide⟩

theorem meets_RingsAndDescriptors_1 : ∃ (s : State) (r : Nat) (tail : Nat), r < 64 ∧ s.linkUp = true ∧ (s.ring r).en = true ∧ tail < (s.ring r).size :=
  ⟨ringState, 0, 63, by decide⟩

theorem meets_RingsAndDescriptors_2 : ∃ (s : State) (r : Nat) (tail : Nat), r < 64 ∧ s.linkUp = true ∧ ((s.ring r).en = false ∨ (s.ring r).size ≤ tail) :=
  ⟨ringState, 0, 64, by decide⟩

theorem meets_RingsAndDescriptors_3 : ∃ (r : Nat), 64 ≤ r :=
  ⟨64, by decide⟩

theorem meets_RingsAndDescriptors_4 : ∃ (s : State) (r : Nat), r < 64 ∧ s.linkUp = true :=
  ⟨ringState, 63, by decide⟩

theorem meets_RingsAndDescriptors_5 : ∃ (r : Nat), r < 64 :=
  ⟨63, by decide⟩

theorem meets_RingsAndDescriptors_6 : ∃ (s : State) (r : Nat) (x : MsixVector), r < 64 ∧ s.linkUp = true ∧ (s.ring r).coalUs ≠ 0 ∧ (s.ring r).posts ≠ 0 ∧ (s.ring r).firstPostAt + (s.ring r).coalUs * 1000 ≤ s.boot.sincePwrOk ∧ s.vector (s.ring r).vec = x ∧ x.masked = false :=
  ⟨{ ringState with boot := { ringState.boot with sincePwrOk := 1000 }, rings := [(63, { coalUs := 1, posts := 1 })], irq := { vectors := [(0, { masked := false })] } }, 63, { masked := false }, by decide⟩

theorem meets_RingsAndDescriptors_7 : ∃ (s : State) (r : Nat), r < 64 ∧ s.boot.sincePwrOk < (s.ring r).firstPostAt + (s.ring r).coalUs * 1000 :=
  ⟨{ rings := [(63, { coalUs := 1, posts := 1 })] }, 63, by decide⟩

theorem meets_RingsAndDescriptors_8 : ∃ (s : State) (r : Nat), r < 64 ∧ s.linkUp = true ∧ (s.ring r).coalUs ≠ 0 ∧ (s.ring r).posts ≠ 0 ∧ (s.ring r).firstPostAt + (s.ring r).coalUs * 1000 ≤ s.boot.sincePwrOk ∧ (s.vector (s.ring r).vec).masked = true :=
  ⟨{ ringState with boot := { ringState.boot with sincePwrOk := 1000 }, rings := [(63, { coalUs := 1, posts := 1, vec := 63 })] }, 63, by decide⟩

theorem meets_RingsAndDescriptors_9 : ∃ (s : State) (v : Nat), v < 65 ∧ s.pwr.pwrOk = true ∧ s.linkUp = true ∧ s.vectorPending v = false :=
  ⟨ringState, 64, by decide⟩

theorem meets_RingsAndDescriptors_10 : ∃ (s : State) (v : Nat) (w : BitVec 64), v < 65 ∧ s.pwr.pwrOk = true ∧ s.linkUp = true ∧ s.vectorPending v = true ∧ w.getLsbD 32 = false :=
  ⟨{ ringState with irq := { vectors := [(64, { addr := 0xFEE00000 })], pendingBits := [(64, true)] } }, 64, 0x45, by decide⟩

theorem meets_RingsAndDescriptors_11 : ∃ (r : Nat) (v : Nat), v < 130 ∧ r ≠ 1 :=
  ⟨2, 129, by decide⟩

theorem meets_RingsAndDescriptors_12 : ∃ (s : State) (r : Nat) (b : BitVec 512) (c : Cmd), r < 64 ∧ s.linkUp = true ∧ (s.ring r).canFetch = true ∧ s.closed = false ∧ parseCmd b r (s.ring r).head = c ∧ c.job < 8 ∧ s.fetchCheck c = none ∧ (s.queue c.engine c.job).length < 64 ∧ ((s.queue c.engine c.job).all fun q => q.before { c with cycle := some s.engCycle }) = true :=
  ⟨ringState, 0, cincDesc, parseCmd cincDesc 0 0, by decide +kernel⟩

theorem meets_RingsAndDescriptors_13 : ∃ (s : State) (r : Nat) (b : BitVec 512) (c : Cmd), r < 64 ∧ s.linkUp = true ∧ (s.ring r).canFetch = true ∧ s.closed = false ∧ parseCmd b r (s.ring r).head = c ∧ c.job < 8 ∧ s.fetchCheck c = none ∧ (s.queue c.engine c.job).length < 64 :=
  ⟨ringState, 0, cincDesc, parseCmd cincDesc 0 0, by decide +kernel⟩

theorem meets_RingsAndDescriptors_14 : ∃ (s : State) (r : Nat) (b : BitVec 512) (c : Cmd) (st : Nat) (d : Nat), r < 64 ∧ s.linkUp = true ∧ (s.ring r).canFetch = true ∧ s.closed = false ∧ parseCmd b r (s.ring r).head = c ∧ s.fetchCheck c = some (st, d) :=
  ⟨ringState, 0, badDesc, parseCmd badDesc 0 0, 0x12, 0, by decide +kernel⟩

theorem meets_RingsAndDescriptors_15 : ∃ (s : State) (r : Nat), r < 64 ∧ s.linkUp = true ∧ (s.ring r).canFetch = true ∧ (s.bld.applied = false ∨ s.wdn.mode = 2) :=
  ⟨{ ringState with bld := {} }, 0, by decide +kernel⟩

theorem meets_RingsAndDescriptors_16 : ∃ (s : State) (r : Nat), r < 64 ∧ s.linkUp = true ∧ (s.ring r).canFetch = true :=
  ⟨ringState, 0, by decide⟩

theorem meets_CaddyBuffers_1 : ∃ (s : State) (u : State) (c : Cmd), s.begins 5 1 = some (u, c) ∧ firstFail (u.allocChecks c) = none ∧ (u.poolState (leAt (u.params c) 0 1)).waiters = [] :=
  ⟨allocState, begunState allocState 5 1, begunCmd allocState 5 1, by rfl, by decide +kernel⟩

theorem meets_CaddyBuffers_2 : ∃ (s : State) (u : State) (c : Cmd) (st : Nat) (d : Nat), s.begins 5 1 = some (u, c) ∧ firstFail (u.allocChecks c) = some (st, d) :=
  ⟨{ allocState with bld := {} }, begunState { allocState with bld := {} } 5 1, begunCmd { allocState with bld := {} } 5 1, 0x21, 0, by rfl, by decide +kernel⟩

theorem meets_CaddyBuffers_3 : ∃ (s : State) (u : State) (c : Cmd), s.begins 5 2 = some (u, c) ∧ firstFail (u.freeChecks c) = none ∧ u.freeCheck c.job (u.freedHandles c) = none :=
  ⟨freeState 0x0005000000001000, begunState (freeState 0x0005000000001000) 5 2, begunCmd (freeState 0x0005000000001000) 5 2, by rfl, by decide +kernel⟩

theorem meets_CaddyBuffers_4 : ∃ (s : State) (u : State) (c : Cmd) (st : Nat) (d : Nat), s.begins 5 2 = some (u, c) ∧ firstFail (u.freeChecks c) = none ∧ u.freeCheck c.job (u.freedHandles c) = some (st, d) ∧ (st = 0x24 ∨ st = 0x41) :=
  ⟨freeState 0x0004000000001000, begunState (freeState 0x0004000000001000) 5 2, begunCmd (freeState 0x0004000000001000) 5 2, 0x24, 5, by rfl, by decide +kernel⟩

theorem meets_CaddyBuffers_5 : ∃ (s : State) (p : Nat) (w : Waiter) (r : List Waiter), p < 64 ∧ (s.poolState p).served = [] ∧ (s.poolState p).waiters = w :: r ∧ w.count = 1 ∧ w.expired s.now = false ∧ s.cycleOver p w = true ∧ (s.poolState p).head = none ∧ (s.poolState p).mark < (s.pool p).count ∧ s.hasBad (s.bufAddr p (s.poolState p).mark) 16 = false :=
  ⟨waitState { requester := 6, at' := 0, count := 1, deadline := 9, cmd := none } { mark := 15 }, 0, { requester := 6, at' := 0, count := 1, deadline := 9, cmd := none }, [], by decide⟩

theorem meets_CaddyBuffers_6 : ∃ (s : State) (p : Nat) (i : Nat) (w : Waiter) (r : List Waiter), p < 64 ∧ (s.poolState p).served = [] ∧ (s.poolState p).waiters = w :: r ∧ w.count = 1 ∧ w.expired s.now = false ∧ s.cycleOver p w = true ∧ (s.poolState p).head = some i ∧ 1 ≤ (s.poolState p).free ∧ s.hasBad (s.bufAddr p i) 16 = false :=
  ⟨waitState { requester := 6, at' := 0, count := 1, deadline := 9, cmd := none } { mark := 16, free := 1, head := some 15 }, 0, 15, { requester := 6, at' := 0, count := 1, deadline := 9, cmd := none }, [], by decide⟩

theorem meets_CaddyBuffers_7 : ∃ (s : State) (p : Nat) (w : Waiter) (bufs : List Nat) (r : List (Waiter × List Nat)), p < 64 ∧ (s.poolState p).served = (w, bufs) :: r ∧ w.cmd = none :=
  ⟨waitState { requester := 6, at' := 0, count := 1, deadline := 9, cmd := none } { served := [({ requester := 6, at' := 0, count := 1, deadline := 9, cmd := none }, [15])] }, 0, { requester := 6, at' := 0, count := 1, deadline := 9, cmd := none }, [15], [], by decide⟩

theorem meets_CaddyBuffers_8 : ∃ (s : State) (p : Nat) (w : Waiter) (bufs : List Nat) (r : List (Waiter × List Nat)) (c : Cmd), p < 64 ∧ (s.poolState p).served = (w, bufs) :: r ∧ w.cmd = some c ∧ c.engine = 5 :=
  ⟨waitState { requester := 6, at' := 0, count := 1, deadline := 9, cmd := none } { served := [({ requester := 0, at' := 0, count := 1, deadline := 9, cmd := some { engine := 5 } }, [15])] }, 0, { requester := 0, at' := 0, count := 1, deadline := 9, cmd := some { engine := 5 } }, [15], [], { engine := 5 }, by decide +kernel⟩

theorem meets_CaddyBuffers_9 : ∃ (s : State) (p : Nat) (w : Waiter) (r : List Waiter), p < 64 ∧ (s.poolState p).served = [] ∧ (s.poolState p).waiters = w :: r ∧ (s.poolFree p < w.count ∨ s.cycleOver p w = false) :=
  ⟨waitState { requester := 6, at' := 0, count := 2, deadline := 9, cmd := none } { mark := 15 }, 0, { requester := 6, at' := 0, count := 2, deadline := 9, cmd := none }, [], by decide⟩

theorem meets_CaddyBuffers_10 : ∃ (s : State) (p : Nat) (w : Waiter) (r : List Waiter) (c : Cmd), p < 64 ∧ (s.poolState p).waiters = w :: r ∧ w.cmd = some c ∧ c.engine = 5 ∧ w.deadline ≠ 0 ∧ w.deadline < s.now :=
  ⟨waitState { requester := 0, at' := 0, count := 1, deadline := 8, cmd := some { engine := 5 } } {}, 0, { requester := 0, at' := 0, count := 1, deadline := 8, cmd := some { engine := 5 } }, [], { engine := 5 }, by decide +kernel⟩

theorem meets_CaddyBuffers_11 : ∃ (s : State) (p : Nat), p < 64 ∧ ((∀ w ∈ (s.poolState p).waiters, w.deadline = 0)) :=
  ⟨{}, 63, by decide⟩

theorem meets_CaddyBuffers_12 : ∃ (s : State) (p : Nat) (n : Nat), p < 64 ∧ (s.pool p).en = true ∧ 1 ≤ n ∧ n ≤ 256 ∧ n ≤ (s.pool p).count ∧ (s.poolState p).waiters = [] :=
  ⟨{ bld := { cur := poolBlend } }, 0, 16, by decide⟩

/-- Parameters of a collective with shards of four elements, under VAR or not. -/
def colBlock (var : Nat) (at' : Nat := 0) : List Byte :=
  [0, 0] ++ leBytes 1 (2 * var) ++ [2] ++ leBytes 4 9 ++ leBytes 8 at' ++ leBytes 4 0 ++ leBytes 4 100 ++ leBytes 4 4 ++ zeros 36

def scatterState : State := planState 8 1 (colBlock 0 25600) [(0, vecDesc 0x20000 0 8 32), (1, vecDesc 0x20100 0 4 16)]

def gatherFrom (at' : Nat) : State := planState 8 2 (colBlock 0 at') [(0, vecDesc 0x20000 0 4 16), (1, vecDesc 0x20100 0 8 32)]

def gatherState : State := gatherFrom 25600

def lateGather : State := { gatherFrom 0 with ht := { state := .locked, count := 1 } }

def entryOf (s : State) (op : Nat) : ColX :=
  ((begunState s 8 op).colPlan (begunCmd s 8 op)).getD ⟨{}, colParams [], {}, 0, [], false⟩

/-- The collective after its command has started, its run changed by f. -/
def runningCol (s : State) (op : Nat) (f : ColRun → ColRun) : State :=
  let t := begunState s 8 op
  { t with col := { t.col with run := some (f (entryOf s op).r) } }

def colXOf (s : State) : ColX := s.colx.getD ⟨{}, colParams [], {}, 0, [], false⟩

/-- A plan of three members in a count round that still expects members 1 and 2. -/
def countRun : State :=
  let s := runningCol gatherState 2 id
  let b := { s.bld.cur with plans := [(0, { tag := 1, dM1 := 2, hmax := 1, members := [0, 1, 2], phases := [{ lanes := 1, routes := [0xC0] }, { lanes := 1, routes := [0xC0] }] })] }
  let h := streamHeader 0 9 1 1 0 6 1 2 0 (leBytes 4 4 ++ leBytes 4 0)
  { s with bld := { s.bld with cur := b }, spt := { rx := [⟨1, 0, 0, 0, h⟩] }
           col := { s.col with run := s.col.run.map fun r => { r with part := 1, expect := [⟨1, 1, 2, 0, 1, 0, 999⟩, ⟨1, 2, 1, 0, 1, 0, 999⟩] } } }

def countHd : RxFlit := ⟨1, 0, 0, 0, streamHeader 0 9 1 1 0 6 1 2 0 (leBytes 4 4 ++ leBytes 4 0)⟩

def doneRun (r : ColRun) : ColRun :=
  { r with partBegun := true, chunks := [{ src := 1, rank := 1, shard := if r.cmd.opcode = 1 then 0 else 1, elems := 4, data := zeros 16 }] }

/-- A START of the root device 5, with one child on port index 3 and two devices in all. -/
def startRun : StartRun := { root := 5, seq := 6, total := 2, childA := 8, depth := 1, ackDeadline := 100 }

def startState (fab : BitVec 16) (st : StageState) : State :=
  { fab := { fabId := fab }, ht := { state := .locked, count := 0 }, boot := { step := 15 }, bld := { state := st, applied := true, hop0 := [{}, {}, {}, { phys := 3, en := true }] }
    ports := [(3, { state := 3 })], col := { start := some startRun } }

def startMsg : StartMsg := { root := 5, seq := 6, count := 1, t := 10240 }

def startCmdState : State :=
  { engineState 8 0x10 (zeros 8 ++ leBytes 8 4 ++ zeros 8 ++ leBytes 2 5 ++ [1, 0x10, 8] ++ zeros 35) with bld := { currentId := 4 } }

/-- A member's chunk of four elements of ALL_GATHER has come behind its header. -/
def chunkBytes : List Byte := (Chunk.bytes { sealer := 1, rank := 1, shard := 1, fmt := 0, elems := 4, data := zeros 16 } 1)

def chunkHd : RxFlit := ⟨1, 0, 0, 0, streamHeader 1 9 1 1 0 8 1 1 0 []⟩

def chunkFl : RxFlit := ⟨1, 0, 0, 1, chunkBytes⟩

def chunkRun : State :=
  let s := runningCol (gatherFrom 0) 2 fun r => { r with partBegun := true, expect := [⟨3, 1, 1, 0, 1, 0, 999⟩] }
  { s with spt := { rx := [chunkHd, chunkFl] } }

theorem meets_BroadcastStart_1 : ∃ (s : State) (u : State) (c : Cmd), s.col.start = none ∧ s.begins 8 0x10 = some (u, c) ∧ firstFail (u.startChecks c) = none ∧ u.stageReady (parseStart c (u.params c)) = false ∧ u.col.early = [] :=
  ⟨startCmdState, begunState startCmdState 8 16, begunCmd startCmdState 8 16, by decide, by rfl, by decide +kernel⟩

theorem meets_BroadcastStart_2 : ∃ (s : State) (u : State) (c : Cmd) (st : Nat) (d : Nat), s.col.start = none ∧ s.begins 8 0x10 = some (u, c) ∧ firstFail (u.startChecks c) = some (st, d) :=
  ⟨engineState 8 0x10 [], begunState (engineState 8 0x10 []) 8 16, begunCmd (engineState 8 0x10 []) 8 16, 0x22, 0, by decide, by rfl, by decide +kernel⟩

theorem meets_BroadcastStart_3 : ∃ (s : State) (p : Nat) (i : Nat) (r : StartRun) (m : StartMsg), p < 12 ∧ s.col.start = some r ∧ r.owns m = true ∧ r.committed = false ∧ (bitsSet 12 r.childA.toNat).find? (fun i => s.indexPort i == some p && r.acks.all fun a => a.1 != i) = some i ∧ s.stageReady r = false :=
  ⟨startState 5 .claimed, 3, 3, startRun, startMsg, by decide +kernel⟩

theorem meets_BroadcastStart_4 : ∃ (s : State) (p : Nat) (i : Nat) (r : StartRun) (m : StartMsg), p < 12 ∧ s.col.start = some r ∧ r.owns m = true ∧ r.committed = false ∧ (bitsSet 12 r.childA.toNat).find? (fun i => s.indexPort i == some p && r.acks.all fun a => a.1 != i) = some i ∧ s.stageReady r = true ∧ r.root = s.fab.fabId ∧ r.count + m.count = r.total ∧ s.bld.dirty = false ∧ 10 ≤ s.boot.step ∧ (s.ht.state = .locked ∨ s.ht.state = .root) ∧ s.bld.applied = true ∧ s.bld.flipped = false ∧ s.ktl.therm ≠ 2 :=
  ⟨startState 5 .checked, 3, 3, startRun, startMsg, by decide +kernel⟩

theorem meets_BroadcastStart_5 : ∃ (s : State) (p : Nat) (m : StartMsg), p < 12 ∧ s.col.start = none ∧ s.col.ended = some m.seq :=
  ⟨{ col := { ended := some 6 } }, 0, startMsg, by decide⟩

theorem meets_BroadcastStart_6 : ∃ (s : State) (p : Nat) (r : StartRun) (m : StartMsg), p < 12 ∧ s.col.start = some r ∧ r.owns m = true ∧ r.committed = false ∧ s.bld.state = .checked ∧ s.bld.dirty = false ∧ 10 ≤ s.boot.step ∧ s.ht.state = .locked ∧ s.bld.applied = true ∧ s.bld.flipped = false ∧ s.ktl.therm ≠ 2 ∧ s.now + 10240 ≤ m.t :=
  ⟨startState 4 .checked, 11, startRun, startMsg, by decide +kernel⟩

theorem meets_BroadcastStart_7 : ∃ (s : State) (p : Nat) (r : StartRun) (m : StartMsg), p < 12 ∧ s.col.start = some r ∧ r.owns m = true ∧ r.committed = false :=
  ⟨startState 4 .claimed, 11, startRun, startMsg, by decide +kernel⟩

theorem meets_BroadcastStart_8 : ∃ (s : State) (r : StartRun), s.col.start = some r ∧ r.root = s.fab.fabId ∧ r.committed = false ∧ r.ackDeadline < s.now :=
  ⟨{ startState 5 .claimed with ht := { state := .locked, count := 101 } }, startRun, by decide +kernel⟩

theorem meets_BroadcastStart_9 : ∃ (s : State), s.col.start = none :=
  ⟨{}, by decide⟩

theorem meets_BroadcastStart_10 : ∃ (s : State) (r : StartRun), s.col.start = some r ∧ r.root ≠ s.fab.fabId ∧ r.committed = false ∧ r.ackDeadline + r.depth * 2720 < s.now :=
  ⟨{ startState 4 .claimed with ht := { state := .locked, count := 2821 } }, startRun, by decide +kernel⟩

theorem meets_CollectivesStart_1 : ∃ (s : State) (u : State) (c : Cmd) (x : ColX), s.col.run = none ∧ s.begins 8 1 = some (u, c) ∧ firstFail (u.colChecks c true) = none ∧ u.colPlan c = some x ∧ ([1, 2, 3, 4].all fun part => (timetable (u.colPhases x part)).isSome) = true ∧ u.now + u.colWork x ≤ x.r.effStart :=
  ⟨scatterState, begunState scatterState 8 1, begunCmd scatterState 8 1, entryOf scatterState 1, by decide, by rfl, by decide +kernel, by decide +kernel, by decide +kernel, by decide +kernel⟩

theorem meets_CollectivesStart_2 : ∃ (s : State) (u : State) (c : Cmd) (x : ColX), s.col.run = none ∧ s.begins 8 2 = some (u, c) ∧ firstFail (u.colChecks c false) = none ∧ u.colPlan c = some x ∧ ([1, 2, 3, 4].all fun part => (timetable (u.colPhases x part)).isSome) = true ∧ u.now + u.colWork x ≤ x.r.effStart :=
  ⟨gatherState, begunState gatherState 8 2, begunCmd gatherState 8 2, entryOf gatherState 2, by decide, by rfl, by decide +kernel, by decide +kernel, by decide +kernel, by decide +kernel⟩

theorem meets_CollectivesStart_3 : ∃ (s : State) (u : State) (c : Cmd) (x : ColX), s.col.run = none ∧ s.begins 8 2 = some (u, c) ∧ firstFail (u.colChecks c false) = none ∧ u.colPlan c = some x ∧ ([1, 2, 3, 4].all fun part => (timetable (u.colPhases x part)).isSome) = true ∧ x.r.effStart < u.now + u.colWork x :=
  ⟨lateGather, begunState lateGather 8 2, begunCmd lateGather 8 2, entryOf lateGather 2, by decide, by rfl, by decide +kernel, by decide +kernel, by decide +kernel, by decide +kernel⟩

theorem meets_CollectivesStart_4 : ∃ (s : State) (u : State) (c : Cmd) (st : Nat) (d : Nat), s.col.run = none ∧ s.begins 8 1 = some (u, c) ∧ firstFail (u.colChecks c true) = some (st, d) ∧ (u.slot c.job).provisional = false :=
  ⟨engineState 8 1 [2], begunState (engineState 8 1 [2]) 8 1, begunCmd (engineState 8 1 [2]) 8 1, 0x12, 0, by decide, by rfl, by decide +kernel⟩

theorem meets_CollectivesStart_5 : ∃ (s : State) (c : Cmd), (s.queue 8 0).head? = some c ∧ (c.opcode = 1 ∨ c.opcode = 2) ∧ s.counting = true ∧ s.colStart (colParams (s.params c)) 0 < s.now :=
  ⟨lateGather, { engine := 8, opcode := 2, arg := 0x1000 }, by decide +kernel⟩

theorem meets_CollectivesStart_6 : ∃ (s : State), ((∀ j, j < 8 → s.queue 8 j = [])) :=
  ⟨{}, by decide +kernel⟩

theorem meets_CollectivePartsAndEnds_1 : ∃ (s : State) (x : ColX) (s0 : Nat) (places : List Placed) (used : Nat), s.colx.bind ColX.upNext = some x ∧ x.r.part ≠ 3 ∧ firstOwned x.om x.due = s0 ∧ s0 ≤ s.now / 160 ∧ timetable (s.colPhases x x.r.part) = some (places, used) ∧ (places.all (x.inTime s0 s.now)) = true :=
  ⟨runningCol (gatherFrom 0) 2 (fun r => { r with part := 1 }), ((runningCol (gatherFrom 0) 2 (fun r => { r with part := 1 })).colx.bind ColX.upNext).getD ⟨{}, colParams [], {}, 0, [], false⟩, 0, [⟨1, 0, 0⟩], 1, by decide +kernel⟩

theorem meets_CollectivePartsAndEnds_2 : ∃ (s : State) (x : ColX) (s0 : Nat) (places : List Placed) (used : Nat), s.colx.bind ColX.upNext = some x ∧ x.r.part = 3 ∧ firstOwned x.om x.due = s0 ∧ s0 ≤ s.now / 160 ∧ timetable (s.colPhases x x.r.part) = some (places, used) ∧ (places.all (x.inTime s0 s.now)) = true :=
  ⟨runningCol (gatherFrom 0) 2 (id), ((runningCol (gatherFrom 0) 2 (id)).colx.bind ColX.upNext).getD ⟨{}, colParams [], {}, 0, [], false⟩, 0, [⟨1, 0, 0⟩], 2, by decide +kernel⟩

theorem meets_CollectivePartsAndEnds_3 : ∃ (s : State) (x : ColX) (places : List Placed) (used : Nat) (pl : Placed), s.colx.bind ColX.upNext = some x ∧ x.r.part ≠ 3 ∧ x.r.status = 0 ∧ firstOwned x.om x.due ≤ s.now / 160 ∧ timetable (s.colPhases x x.r.part) = some (places, used) ∧ (places.find? fun q => !x.inTime (firstOwned x.om x.due) s.now q) = some pl :=
  ⟨runningCol lateGather 2 (fun r => { r with part := 1 }), ((runningCol lateGather 2 (fun r => { r with part := 1 })).colx.bind ColX.upNext).getD ⟨{}, colParams [], {}, 0, [], false⟩, [⟨1, 0, 0⟩], 1, ⟨1, 0, 0⟩, by decide +kernel⟩

theorem meets_CollectivePartsAndEnds_4 : ∃ (s : State) (x : ColX), s.colx.bind ColX.upNext = some x ∧ s.now / 160 < firstOwned x.om x.due :=
  ⟨runningCol lateGather 2 (fun r => { r with effStart := 2560 }), ((runningCol lateGather 2 (fun r => { r with effStart := 2560 })).colx.bind ColX.upNext).getD ⟨{}, colParams [], {}, 0, [], false⟩, by decide +kernel⟩

theorem meets_CollectivePartsAndEnds_5 : ∃ (s : State) (x : ColX) (src : Nat) (mem' : Nat) (y : SpoutExpect) (es : List SpoutExpect) (hd : RxFlit) (rest : List RxFlit), s.colx = some x ∧ x.r.expect = y :: es ∧ y.src = src ∧ y.part = 1 ∧ s.now ≤ y.deadline ∧ x.plan.member src = some mem' ∧ s.streamFrom x.r.cmd.job src y.base y.upTo y.pos x.om = hd :: rest ∧ headerOk hd.payload x.p.seq x.plan.tag.toNat src s.devId 6 1 y.phase = true ∧ leAt hd.payload 28 4 = x.r.sizeCrc.toNat ∧ es.filter (· != y) ≠ [] :=
  ⟨countRun, colXOf countRun, 1, 1, ⟨1, 1, 2, 0, 1, 0, 999⟩, [⟨1, 2, 1, 0, 1, 0, 999⟩], countHd, [], by decide +kernel⟩

theorem meets_CollectivePartsAndEnds_6 : ∃ (s : State) (x : ColX) (src : Nat) (mem' : Nat) (n : Nat) (y : SpoutExpect) (es : List SpoutExpect) (hd : RxFlit) (f : RxFlit) (more : List RxFlit) (c : Chunk), s.colx = some x ∧ x.r.expect = y :: es ∧ y.src = src ∧ 3 ≤ y.part ∧ s.now ≤ y.deadline ∧ x.plan.member src = some mem' ∧ s.streamFrom x.r.cmd.job src y.base y.upTo y.pos x.om = hd :: f :: more ∧ headerOk hd.payload x.p.seq x.plan.tag.toNat src s.devId (if x.rs then 7 else 8) (colStage y.part) y.phase = true ∧ leAt hd.payload 0 4 = x.chunkCount (colStage y.part) ∧ (x.r.chunks.filter fun c => c.src == src && c.stage == colStage y.part) = [] ∧ max 1 ((parseChunk f.payload (colStage y.part) y.phase src (s.chunkFmt x (colStage y.part))).1.flits x.r.smax (s.chunkFmt x (colStage y.part))) = n ∧ n ≤ more.length + 1 ∧ s.chunkOk x (colStage y.part) mem' 0 (parseChunk f.payload (colStage y.part) y.phase src (s.chunkFmt x (colStage y.part))).1 = true ∧ parseChunk (((f :: more).take n).map (·.payload)).flatten (colStage y.part) y.phase src (s.chunkFmt x (colStage y.part)) = (c, true) :=
  ⟨chunkRun, colXOf chunkRun, 1, 1, 1, ⟨3, 1, 1, 0, 1, 0, 999⟩, [], chunkHd, chunkFl, [], (parseChunk chunkBytes 1 1 1 0).1, by decide +kernel⟩

theorem meets_CollectivePartsAndEnds_7 : ∃ (s : State), s.col.run = none :=
  ⟨{}, by decide⟩

theorem meets_CollectivePartsAndEnds_8 : ∃ (s : State) (x : ColX) (ws : List Nat), s.colx = some x ∧ x.rs = true ∧ x.lastPart = true ∧ x.r.expect = [] ∧ x.r.status = 0 ∧ ((∀ c ∈ x.r.chunks, c.missing = false)) ∧ s.allSent 8 0 = true ∧ s.allForwarded x.r.cmd.job = true ∧ s.reducedShard x = some ws ∧ s.rowsEcc x.r.cmd [] [1] = none :=
  ⟨runningCol scatterState 1 (doneRun), colXOf (runningCol scatterState 1 (doneRun)), [0, 0, 0, 0], by decide +kernel⟩

theorem meets_CollectivePartsAndEnds_9 : ∃ (s : State) (x : ColX) (gs : List (Nat × List Byte)), s.colx = some x ∧ x.rs = false ∧ x.lastPart = true ∧ x.r.expect = [] ∧ x.r.status = 0 ∧ ((∀ c ∈ x.r.chunks, c.missing = false)) ∧ s.allSent 8 0 = true ∧ s.allForwarded x.r.cmd.job = true ∧ s.gathered x = some gs ∧ (gs.map (·.1)).sum ≤ (s.slotTensor x.r.cmd 1).exts.headD 0 ∧ s.rowsEcc x.r.cmd [] (if x.p.var then [1, 2] else [1]) = none :=
  ⟨runningCol gatherState 2 (doneRun), colXOf (runningCol gatherState 2 (doneRun)), [(4, zeros 16), (4, zeros 16)], by decide +kernel⟩

theorem meets_CollectivePartsAndEnds_10 : ∃ (s : State) (x : ColX) (y : SpoutExpect) (r : List SpoutExpect), s.colx = some x ∧ x.r.expect = y :: r ∧ x.r.status = 0 ∧ x.r.deadline < s.now :=
  ⟨runningCol { gatherState with ht := { state := .locked, count := 100000 } } 2 (fun r => { r with partBegun := true, expect := [⟨3, 1, 1, 0, 1, 0, 99999⟩], deadline := 99999 }), colXOf (runningCol { gatherState with ht := { state := .locked, count := 100000 } } 2 (fun r => { r with partBegun := true, expect := [⟨3, 1, 1, 0, 1, 0, 99999⟩], deadline := 99999 })), ⟨3, 1, 1, 0, 1, 0, 99999⟩, [], by decide +kernel⟩

theorem meets_CollectivePartsAndEnds_11 : ∃ (s : State) (x : ColX), s.colx = some x ∧ x.r.expect = [] ∧ (x.r.chunks.filter (·.missing)) = [] ∧ x.r.partBegun = false ∧ x.r.status = 0 ∧ x.r.deadline < s.now :=
  ⟨runningCol { gatherState with ht := { state := .locked, count := 100000 } } 2 (fun r => { r with deadline := 99999 }), colXOf (runningCol { gatherState with ht := { state := .locked, count := 100000 } } 2 (fun r => { r with deadline := 99999 })), by decide +kernel⟩

theorem meets_CollectivePartsAndEnds_12 : ∃ (s : State) (x : ColX), s.colx = some x ∧ x.r.status ≠ 0 ∧ x.finish ≤ s.now :=
  ⟨runningCol lateGather 2 (fun r => { r with partBegun := true, status := 0x32, detail := 5, deadline := 101 }), colXOf (runningCol lateGather 2 (fun r => { r with partBegun := true, status := 0x32, detail := 5, deadline := 101 })), by decide +kernel⟩

theorem meets_CollectivePartsAndEnds_13 : ∃ (s : State) (x : ColX), s.colx = some x ∧ x.r.status = 0 :=
  ⟨runningCol gatherState 2 (id), colXOf (runningCol gatherState 2 (id)), by decide +kernel⟩

/-- DISPATCH of no records over the plan, at the frame boundary at. -/
def spBlock (at' : Nat := 0) : List Byte := [0, 0, 0, 0, 2, 3] ++ leBytes 2 0 ++ leBytes 8 at' ++ zeros 16 ++ leBytes 4 9 ++ zeros 28

def dispatchSlots : List (Nat × List Byte) :=
  [(0, matDesc 0x20000 1 4 1 8 8), (1, matDesc 0x20100 10 4 1 16 16), (2, vecDesc 0x20200 10 1 4), (3, vecDesc 0x20300 10 3 12), (4, vecDesc 0x20400 13 1 4)]

def dispatchState : State := planState 3 1 (spBlock 0) dispatchSlots

def dispatchAhead : State := planState 3 1 (spBlock 2560) dispatchSlots

def combineState (now : Nat := 0) : State :=
  { planState 3 2 (spBlock 0) [(0, matDesc 0x20000 0 4 1 16 16), (1, matDesc 0x20100 10 2 1 8 8), (3, matDesc 0x20200 0 4 1 16 16)] with
    ht := { state := .locked, count := now }
    spt := { ctx := [(0, { state := 3, fo := 1, h := 4, t := 1, rbound := 1, params := spBlock 0 })] } }

/-- An exchange of context 0 in a state and part. -/
def exchState (f : SpoutCtx → SpoutCtx) (now : Nat := 0) (choices : List Byte := zeros 8) : State :=
  { planState 3 1 [] [(0, matDesc 0x20000 0 4 1 16 16), (1, matDesc 0x20100 10 2 1 8 8), (3, matDesc 0x20200 0 4 1 16 16)] [(0x20100, choices)] with
    queues := [], ht := { state := .locked, count := now }
    spt := { ctx := [(0, f { state := 2, part := 4, params := spBlock 0, cmd := some { engine := 3, opcode := 1, arg := 0x1000 }, fi := 1, fo := 1 })] } }

def exchOf (s : State) : Exch := (s.exch 0).getD ⟨{}, spParams [], {}, 0, []⟩

def spCmd : Cmd := { engine := 3, opcode := 1, arg := 0x1000 }

def badRest (h : RxFlit) : List RxFlit := [h, { h with key := 4 }, { h with key := 5 }]

/-- Round B of three members, from two of which a stream is expected; that of device 1 has come with a wrong sequence number. -/
def badRound : State :=
  let s := exchState fun x => { x with state := 1, part := 2, partBegun := true, expect := [⟨2, 1, 2, 0, 1, 3, 999⟩, ⟨2, 2, 1, 0, 1, 3, 999⟩], vec := List.replicate 128 0 }
  let b := { s.bld.cur with plans := [(0, { tag := 1, dM1 := 2, hmax := 1, members := [0, 1, 2], phases := [{ lanes := 1, routes := [0xC0] }, { lanes := 1, routes := [0xC0] }] })] }
  { s with bld := { s.bld with cur := b }, spt := { s.spt with rx := badRest ⟨1, 0, 0, 3, zeros 240⟩ } }

def sendState (up : Nat) (o : OutStream) : State :=
  { exchState (fun x => x) 3 with bld := { cur := planBlend, hop0 := [{ phys := 0, en := true }], applied := true }, ports := [(0, { state := up })], spt := { (exchState (fun x => x) 3).spt with outs := [o] } }

def outStream : OutStream :=
  { engine := 3, ctx := 0, kind := 4, stage := 1, phase := 1, lane := 0, dst := 1, route := 0xC0, job := 0, base := 0, start := 3, flits := [[1], [2]] }

def heldFlit : KeptFlit := { slot := 0, pos := 3, flit := { vc := 1 } }

def goodHd : RxFlit := ⟨1, 0, 0, 3, streamHeader 0 9 1 1 0 2 1 2 0 []⟩

def goodRound : State := { badRound with spt := { badRound.spt with rx := [goodHd, ⟨1, 0, 0, 4, zeros 240⟩, ⟨1, 0, 0, 5, zeros 240⟩] } }

/-- A dispatch stream of one record has come from member 1. -/
def landRec : RxFlit := ⟨1, 0, 0, 4, SpoutRecord.bytes { origin := 1, dest := 0, row := zeros 16 } [0, 1] 1⟩

def landHd : RxFlit := ⟨1, 0, 0, 3, streamHeader 1 9 1 1 0 4 1 1 (crc32c landRec.payload) []⟩

def landState : State :=
  let s := exchState fun x => { x with partBegun := true, vec := List.replicate 128 1, expect := [⟨4, 1, 1, 0, 1, 3, 999⟩] }
  { s with spt := { s.spt with rx := [landHd, landRec] } }

theorem meets_SpoutCommands_1 : ∃ (s : State) (u : State) (c : Cmd) (p : SpParams), s.begins 3 1 = some (u, c) ∧ firstFail (u.dispatchChecks c) = none ∧ (u.assignAll c).fail = none ∧ spParams (u.params c) = p ∧ u.spPast p c.job (vectorTicks (u.dispatchCount c)) = false :=
  ⟨dispatchAhead, begunState dispatchAhead 3 1, begunCmd dispatchAhead 3 1, spParams (spBlock 2560), by rfl, by decide +kernel⟩

theorem meets_SpoutCommands_2 : ∃ (s : State) (u : State) (c : Cmd) (p : SpParams), s.begins 3 2 = some (u, c) ∧ firstFail (u.combineChecks c) = none ∧ spParams (u.params c) = p ∧ u.spPast p c.job 0 = false :=
  ⟨combineState, begunState combineState 3 2, begunCmd combineState 3 2, spParams (spBlock 0), by rfl, by decide +kernel⟩

theorem meets_SpoutCommands_3 : ∃ (s : State) (u : State) (c : Cmd), s.begins 3 3 = some (u, c) ∧ firstFail (u.releaseChecks c) = none :=
  ⟨engineState 3 3 [], begunState (engineState 3 3 []) 3 3, begunCmd (engineState 3 3 []) 3 3, by rfl, by decide +kernel⟩

theorem meets_SpoutCommands_4 : ∃ (s : State) (u : State) (c : Cmd) (st : Nat) (d : Nat), s.begins 3 1 = some (u, c) ∧ firstFail (u.dispatchChecks c) = some (st, d) :=
  ⟨engineState 3 1 [], begunState (engineState 3 1 []) 3 1, begunCmd (engineState 3 1 []) 3 1, 0x22, 0, by rfl, by decide +kernel⟩

theorem meets_SpoutCommands_5 : ∃ (s : State) (u : State) (c : Cmd) (p : SpParams), s.begins 3 2 = some (u, c) ∧ firstFail (u.combineChecks c) = none ∧ spParams (u.params c) = p ∧ u.spPast p c.job 0 = true :=
  ⟨combineState 1, begunState (combineState 1) 3 2, begunCmd (combineState 1) 3 2, spParams (spBlock 0), by rfl, by decide +kernel⟩

theorem meets_SpoutCommands_6 : ∃ (s : State) (u : State) (c : Cmd) (p : SpParams), s.begins 3 1 = some (u, c) ∧ firstFail (u.dispatchChecks c) = none ∧ (u.assignAll c).fail = none ∧ spParams (u.params c) = p ∧ u.spPast p c.job (vectorTicks (u.dispatchCount c)) = true :=
  ⟨dispatchState, begunState dispatchState 3 1, begunCmd dispatchState 3 1, spParams (spBlock 0), by rfl, by decide +kernel⟩

theorem meets_SpoutExchanges_1 : ∃ (s : State) (i : Nat) (part : Nat) (due : Nat) (s0 : Nat) (e : Exch) (e' : Exch) (c : Cmd) (places : List Placed) (used : Nat), i < 16 ∧ s.exch i = some e ∧ (s.spCtx i).cmd = some c ∧ ((e.x.state = 1 ∨ e.x.state = 2 ∨ e.x.state = 4)) ∧ e.upNext = some (part, due) ∧ firstOwned e.om due = s0 ∧ s0 ≤ s.now / 160 ∧ ((e.unbegun = false ∨ s.startKnown i e.x.job = true)) ∧ { e with x := { e.x with part := part, partBegun := false } } = e' ∧ timetable (e'.phases part (if e.x.state == 4 then e.x.fo else e.x.fi) (e.x.state == 4)) = some (places, used) ∧ (places.all (e'.inTime s0 s.now)) = true :=
  ⟨exchState (fun x => { x with vec := List.replicate 128 1 }) 2560, 0, 4, (exchOf (exchState (fun x => { x with vec := List.replicate 128 1 }) 2560)).due, 16, exchOf (exchState (fun x => { x with vec := List.replicate 128 1 }) 2560), exchOf (exchState (fun x => { x with vec := List.replicate 128 1 }) 2560), spCmd, [⟨1, 0, 0⟩], 2, by decide +kernel⟩

theorem meets_SpoutExchanges_2 : ∃ (s : State) (i : Nat) (part : Nat) (due : Nat) (e : Exch), i < 16 ∧ s.exch i = some e ∧ e.upNext = some (part, due) ∧ s.now / 160 < firstOwned e.om due :=
  ⟨exchState fun x => { x with partEnd := 1 }, 0, 4, (exchOf (exchState fun x => { x with partEnd := 1 })).due, exchOf (exchState fun x => { x with partEnd := 1 }), by decide +kernel⟩

theorem meets_SpoutExchanges_3 : ∃ (s : State) (i : Nat) (src : Nat) (e : Exch) (c : Cmd) (y : SpoutExpect) (es : List SpoutExpect) (a : Came), i < 16 ∧ s.exch i = some e ∧ (s.spCtx i).cmd = some c ∧ e.x.expect = y :: es ∧ y.src = src ∧ s.now ≤ y.deadline ∧ s.came e y = some a ∧ headerOk a.head.payload e.p.seq e.plan.tag.toNat src s.devId (if y.part ≤ 3 then y.part else if e.x.state == 4 then 5 else 4) (partStage y.part) y.phase = false ∧ e.x.status = 0 ∧ es ≠ [] :=
  ⟨badRound, 0, 1, exchOf badRound, spCmd, ⟨2, 1, 2, 0, 1, 3, 999⟩, [⟨2, 2, 1, 0, 1, 3, 999⟩], ⟨⟨2, 1, 2, 0, 1, 3, 999⟩, ⟨1, 0, 0, 3, zeros 240⟩, [⟨1, 0, 0, 4, zeros 240⟩, ⟨1, 0, 0, 5, zeros 240⟩]⟩, by decide +kernel⟩

theorem meets_SpoutExchanges_4 : ∃ (s : State) (i : Nat) (src : Nat) (e : Exch) (c : Cmd) (y : SpoutExpect) (es : List SpoutExpect) (a : Came), i < 16 ∧ s.exch i = some e ∧ (s.spCtx i).cmd = some c ∧ e.x.expect = y :: es ∧ y.src = src ∧ s.now ≤ y.deadline ∧ s.came e y = some a ∧ y.part ≤ 3 ∧ headerOk a.head.payload e.p.seq e.plan.tag.toNat src s.devId y.part (partStage y.part) y.phase = true ∧ es ≠ [] :=
  ⟨goodRound, 0, 1, exchOf goodRound, spCmd, ⟨2, 1, 2, 0, 1, 3, 999⟩, [⟨2, 2, 1, 0, 1, 3, 999⟩], ⟨⟨2, 1, 2, 0, 1, 3, 999⟩, goodHd, [⟨1, 0, 0, 4, zeros 240⟩, ⟨1, 0, 0, 5, zeros 240⟩]⟩, by decide +kernel⟩

theorem meets_SpoutExchanges_5 : ∃ (s : State) (i : Nat) (src : Nat) (e : Exch) (c : Cmd) (y : SpoutExpect) (es : List SpoutExpect) (a : Came) (recs : List SpoutRecord), i < 16 ∧ s.exch i = some e ∧ (s.spCtx i).cmd = some c ∧ e.x.expect = y :: es ∧ y.src = src ∧ s.now ≤ y.deadline ∧ s.came e y = some a ∧ 3 < y.part ∧ e.x.state = 2 ∧ headerOk a.head.payload e.p.seq e.plan.tag.toNat src s.devId 4 (partStage y.part) y.phase = true ∧ a.count ≤ e.x.nmax (partStage y.part) y.phase ∧ leAt a.head.payload 20 4 = (if a.count = 0 then 0 else crc32c (a.body.map (·.payload)).flatten) ∧ (chunksOf (240 * e.x.fi) (a.count + 1) (a.body.map (·.payload)).flatten).map (fun b => parseRecord b e.plan.members (s.rowBytesIn c)) = recs :=
  ⟨landState, 0, 1, exchOf landState, spCmd, ⟨4, 1, 1, 0, 1, 3, 999⟩, [], ⟨⟨4, 1, 1, 0, 1, 3, 999⟩, landHd, [landRec]⟩, [parseRecord landRec.payload [0, 1] 16], by decide +kernel⟩

theorem meets_SpoutExchanges_6 : ∃ (s : State) (i : Nat), i < 16 ∧ ((∀ y ∈ (s.spCtx i).expect, y.deadline < s.now)) :=
  ⟨{}, 15, by decide⟩

theorem meets_SpoutExchanges_7 : ∃ (s : State) (i : Nat) (c : Cmd), i < 16 ∧ s.waitingSpout i = some c ∧ s.counting = true ∧ s.spPast (spParams (s.params c)) c.job 0 = true :=
  ⟨combineState 1, 0, { engine := 3, opcode := 2, arg := 0x1000 }, by decide +kernel⟩

theorem meets_SpoutExchanges_8 : ∃ (s : State) (i : Nat), i < 16 ∧ s.waitingSpout i = none :=
  ⟨{}, 15, by decide +kernel⟩

theorem meets_SpoutExchanges_9 : ∃ (s : State) (i : Nat) (y : SpoutExpect) (r : List SpoutExpect), i < 16 ∧ (s.spCtx i).expect = y :: r ∧ y.deadline < s.now ∧ (s.spCtx i).status = 0 ∧ s.now < (s.spCtx i).endsAt :=
  ⟨exchState (fun x => { x with partBegun := true, expect := [⟨4, 1, 1, 0, 1, 0, 0⟩], endsAt := 2 }) 1, 0, ⟨4, 1, 1, 0, 1, 0, 0⟩, [], by decide +kernel⟩

theorem meets_SpoutExchanges_10 : ∃ (s : State) (i : Nat), i < 16 ∧ ((∀ y ∈ (s.spCtx i).expect, s.now ≤ y.deadline)) :=
  ⟨{}, 15, by decide⟩

theorem meets_SpoutExchanges_11 : ∃ (s : State) (i : Nat) (c : Cmd), i < 16 ∧ (s.spCtx i).cmd = some c ∧ (s.spCtx i).status ≠ 0 ∧ (s.spCtx i).partBegun = true ∧ ((s.spCtx i).state ≠ 1 ∨ (s.spCtx i).countsLost = true) ∧ (s.spCtx i).endsAt ≤ s.now :=
  ⟨exchState (fun x => { x with partBegun := true, status := 0x32, endsAt := 1 }) 1, 0, spCmd, by decide +kernel⟩

theorem meets_SpoutExchanges_12 : ∃ (s : State) (i : Nat), i < 16 ∧ (s.spCtx i).status = 0 :=
  ⟨{}, 15, by decide⟩

theorem meets_SpoutExchanges_13 : ∃ (s : State) (i : Nat) (e : Exch) (c : Cmd), i < 16 ∧ s.exch i = some e ∧ (s.spCtx i).cmd = some c ∧ e.x.state = 2 ∧ s.exchangeDone i e = true ∧ ((∀ l ∈ e.x.landed, s.partBad (s.landAt e l.row) (240 * e.x.fi) = false)) ∧ s.rowsEcc c [] [3, 4] = none :=
  ⟨exchState fun x => { x with partBegun := true }, 0, exchOf (exchState fun x => { x with partBegun := true }), spCmd, by decide +kernel⟩

theorem meets_SpoutExchanges_14 : ∃ (s : State) (i : Nat) (e : Exch), i < 16 ∧ s.exch i = some e ∧ s.exchangeDone i e = false :=
  ⟨exchState fun x => x, 0, exchOf (exchState fun x => x), by decide +kernel⟩

theorem meets_SpoutExchanges_15 : ∃ (s : State) (i : Nat) (e : Exch) (c : Cmd) (rows : List (List FVal)), i < 16 ∧ s.exch i = some e ∧ (s.spCtx i).cmd = some c ∧ e.x.state = 4 ∧ s.exchangeDone i e = true ∧ s.unanswered e c = none ∧ s.rowsEcc c [0, 1] [3] = none ∧ ((∀ a ∈ e.x.answers, s.partBad (((s.landingWindow e.x.job e.p.rwin).map (·.base)).getD 0 + e.returnRow a * 240 * e.x.fo) (240 * e.x.fo) = false)) ∧ (List.range ((s.slotTensor c 3).exts.getD 1 0)).map (s.combinedRow e c) = rows :=
  ⟨exchState (fun x => { x with state := 4, partBegun := true }) 0 (leBytes 2 0xFFFF ++ zeros 6), 0, exchOf (exchState (fun x => { x with state := 4, partBegun := true }) 0 (leBytes 2 0xFFFF ++ zeros 6)), spCmd, [List.replicate 4 fZero], by decide +kernel⟩

theorem meets_SpoutExchanges_16 : ∃ (s : State) (i : Nat) (e : Exch) (c : Cmd) (x : Nat × Nat), i < 16 ∧ s.exch i = some e ∧ (s.spCtx i).cmd = some c ∧ e.x.state = 4 ∧ s.exchangeDone i e = true ∧ s.unanswered e c = some x :=
  ⟨exchState fun x => { x with state := 4, partBegun := true }, 0, exchOf (exchState fun x => { x with state := 4, partBegun := true }), spCmd, (0, 0), by decide +kernel⟩

theorem meets_ScheduledFlits_1 : ∃ (s : State) (p : Nat) (slot : Nat) (pos : Nat) (i : Nat) (o : OutStream), p < 12 ∧ s.now = positionTick slot pos ∧ s.counting = true ∧ s.streamAt p slot pos = some i ∧ s.spt.outs[i]? = some o ∧ s.laneUp o.lane = true ∧ s.schedOk = true ∧ s.neighbourOnly = false ∧ s.positionFree p = true ∧ o.engine ≠ 6 ∧ o.next + 1 < o.flits.length ∧ (o.source.any fun r => s.hasBad r.1 r.2) = false :=
  ⟨sendState 3 outStream, 0, 0, 3, 0, outStream, by decide +kernel⟩

theorem meets_ScheduledFlits_2 : ∃ (s : State) (p : Nat) (slot : Nat) (pos : Nat), p < 12 ∧ s.now ≠ positionTick slot pos :=
  ⟨{}, 0, 1, 0, by decide⟩

theorem meets_ScheduledFlits_3 : ∃ (s : State) (p : Nat) (slot : Nat) (pos : Nat) (k : KeptFlit), p < 12 ∧ s.now = positionTick slot pos ∧ s.positionOpen p = true ∧ s.schedOk = true ∧ s.neighbourOnly = false ∧ (s.port p).fwd.find? (fun k => k.slot == slot && k.pos == pos) = some k :=
  ⟨{ ht := { state := .locked, count := 3 }, bld := { applied := true }, ports := [(11, { state := 3, fwd := [heldFlit] })] }, 11, 0, 3, heldFlit, by decide +kernel⟩

theorem meets_ScheduledFlits_4 : ∃ (s : State) (p : Nat) (slot : Nat) (pos : Nat) (i : Nat) (o : OutStream), p < 12 ∧ s.now = positionTick slot pos ∧ s.counting = true ∧ s.streamAt p slot pos = some i ∧ s.spt.outs[i]? = some o ∧ s.laneUp o.lane = false ∧ o.next = 0 ∧ o.engine = 3 ∧ s.positionFree p = true ∧ (s.spCtx o.ctx).status = 0 :=
  ⟨sendState 0 outStream, 0, 0, 3, 0, outStream, by decide +kernel⟩

def linkState : State := { boot := { hostRate := 6, hostCxl := true, step := 15 }, pwr := { perst := false, present := true } }

def spdmState (session : Nat := 0) (bad : Bool := false) : State :=
  { linkState with host := { spdmVersion := true, spdmCaps := true, spdmAlgs := true, session := session }, wdn := { certBad := bad } }

theorem meets_HostLinkUpAndDown_8 : ∃ (s : State), s.pwr.perst = false :=
  ⟨{ linkState with rings := [(63, { en := true, head := 5 })] }, by decide⟩

theorem meets_HostLinkUpAndDown_9 : ∃ (s : State), s.pwr.perst = true :=
  ⟨{}, by decide⟩

theorem meets_HostLinkUpAndDown_11 : ∃ (s : State), s.pwr.perst = false ∧ s.boot.step = 7 ∧ s.boot.step7Done = false :=
  ⟨{ boot := { step := 7 }, pwr := { perst := false } }, by decide⟩

theorem meets_HostLinkUpAndDown_12 : ∃ (s : State), s.boot.hostRate ≠ 0 :=
  ⟨linkState, by decide⟩

theorem meets_HostLinkUpAndDown_13 : ∃ (s : State) (l : Live), s.boot.hostRate ≠ 0 ∧ s.live = [l] ∧ l.cmd.engine = 7 ∧ (l.cmd.opcode = 8 ∨ l.cmd.opcode = 9) :=
  ⟨{ linkState with live := [{ cmd := { engine := 7, opcode := 8 } }] }, { cmd := { engine := 7, opcode := 8 } }, by decide, rfl, by decide⟩

theorem meets_HostLinkUpAndDown_14 : ∃ (s : State), s.boot.hostRate = 0 :=
  ⟨{}, by decide⟩

theorem meets_HostLinkUpAndDown_15 : ∃ (s : State), s.linkUp = true :=
  ⟨linkState, by decide⟩

theorem meets_HostLinkUpAndDown_16 : ∃ (s : State), s.linkUp = false :=
  ⟨{}, by decide⟩

theorem meets_SpdmSessions_1 : ∃ (s : State) (i : BitVec 8), s.linkUp = true ∧ i.toNat < 4 :=
  ⟨linkState, 3, by decide⟩

theorem meets_SpdmSessions_3 : ∃ (s : State), s.linkUp = true :=
  ⟨linkState, by decide⟩

theorem meets_SpdmSessions_4 : ∃ (s : State), s.linkUp = true ∧ s.host.spdmVersion = true :=
  ⟨spdmState, by decide⟩

theorem meets_SpdmSessions_5 : ∃ (s : State), s.linkUp = true ∧ s.host.spdmCaps = true :=
  ⟨spdmState, by decide⟩

theorem meets_SpdmSessions_6 : ∃ (s : State) (n : List Byte), s.linkUp = true ∧ s.host.spdmAlgs = false ∧ n.length ≤ 65536 :=
  ⟨linkState, [], by decide⟩

theorem meets_SpdmSessions_7 : ∃ (s : State) (n : List Byte) (b : List Byte), s.linkUp = true ∧ s.host.spdmAlgs = true ∧ s.wdn.certBad = true ∧ b.length ≤ 65536 ∧ n.length ≤ 65536 :=
  ⟨spdmState 0 true, [], [], by decide⟩

theorem meets_SpdmSessions_8 : ∃ (s : State) (n : List Byte), s.linkUp = true ∧ s.host.spdmAlgs = true ∧ s.wdn.certBad = false ∧ n.length ≤ 65536 :=
  ⟨spdmState, [], by decide⟩

theorem meets_SpdmSessions_9 : ∃ (s : State) (k : Nat) (n : List Byte), s.linkUp = true ∧ s.host.spdmAlgs = true ∧ s.wdn.certBad = false ∧ n.length ≤ 65536 ∧ 1 ≤ k ∧ k ≤ 7 :=
  ⟨spdmState, 7, [], by decide⟩

theorem meets_SpdmSessions_10 : ∃ (s : State) (b : List Byte), s.linkUp = true ∧ s.host.spdmAlgs = true ∧ s.wdn.certBad = false ∧ b.length ≤ 65536 :=
  ⟨spdmState, [], by decide⟩

theorem meets_SpdmSessions_11 : ∃ (s : State), s.linkUp = true ∧ s.host.spdmAlgs = true ∧ s.host.session = 1 :=
  ⟨spdmState 1, by decide⟩

theorem meets_SpdmSessions_12 : ∃ (s : State) (b : List Byte), s.linkUp = true ∧ s.host.spdmAlgs = true ∧ s.host.session = 2 ∧ b.length ≤ 65536 :=
  ⟨spdmState 2, [], by decide⟩

theorem meets_SpdmSessions_13 : ∃ (s : State) (b : List Byte), s.linkUp = true ∧ s.host.spdmAlgs = true ∧ s.host.session ≠ 2 ∧ b.length ≤ 65536 :=
  ⟨spdmState 1, [], by decide⟩

theorem meets_SpdmSessions_14 : ∃ (b : List Byte), 65536 < b.length :=
  ⟨List.replicate 65537 0, by rw [List.length_replicate]; decide⟩

theorem meets_SpdmSessions_15 : ∃ (s : State), s.linkUp = true :=
  ⟨linkState, by decide⟩

theorem meets_HostMemory_1 : ∃ (s : State) (v : BitVec 64) (first : Nat) (count : Nat), v.toNat = first + count * 2 ^ 18 + 2 ^ 36 + 2 ^ 37 ∧ 1 ≤ count ∧ first + count ≤ 196608 ∧ s.host.biasLeft = 0 ∧ ((∀ i, i < count → s.pinned (first + i) = false)) :=
  ⟨{}, 206159151102, 196606, 2, by decide⟩

theorem meets_HostMemory_2 : ∃ (s : State) (v : BitVec 64) (first : Nat) (count : Nat) (i : Nat), v.toNat = first + count * 2 ^ 18 + 2 ^ 36 + 2 ^ 37 ∧ first + count ≤ 196608 ∧ s.host.biasLeft = 0 ∧ i < count ∧ s.pinned (first + i) = true :=
  ⟨{ bld := { cur := { jobs := [{ jobId := 7, excl := true }], windows := [{ kind := 1, job := 7, base := 0x200000, len := 1 }] } }, jobs := [(0, { state := 1 })] }, 206158954496, 0, 2, 1, by decide⟩

theorem meets_HostMemory_3 : ∃ (s : State) (p : Nat), p < 196608 ∧ s.host.biasLeft ≠ 0 ∧ s.host.biasNext = p ∧ s.host.waiting = [] :=
  ⟨{ host := { biasLeft := 1, biasNext := 196607, hostBias := [(196607, true)] } }, 196607, by decide⟩

theorem meets_HostMemory_4 : ∃ (s : State) (p : Nat) (a : Nat) (n : Nat), p < 196608 ∧ s.host.biasLeft = 1 ∧ s.host.biasNext = p ∧ s.host.waiting = [{ cxl := false, addr := a, len := n, write := none }] ∧ 1 ≤ n ∧ s.servesHost a n = true ∧ s.hasBad a n = false :=
  ⟨{ linkState with host := { biasLeft := 1, waiting := [{ cxl := false, addr := 0, len := 8, write := none }] } }, 0, 0, 8, by decide⟩

theorem meets_HostMemory_5 : ∃ (s : State) (a : Nat) (n : Nat), s.linkUp = true ∧ s.boot.hostCxl = true ∧ 1 ≤ n ∧ a + n ≤ 0x6000000000 ∧ ((∀ p ∈ pagesOf a n, s.flipping p = false ∧ s.pinned p = false)) ∧ s.servesHost a n = true ∧ s.host.waiting = [] ∧ s.hasBad a n = false :=
  ⟨linkState, 0x5FFFFFFFC0, 64, by decide⟩

theorem meets_HostMemory_6 : ∃ (s : State) (a : Nat) (n : Nat) (bs : List Byte), s.linkUp = true ∧ s.boot.hostCxl = true ∧ 1 ≤ n ∧ a + n ≤ 0x6000000000 ∧ ((∀ p ∈ pagesOf a n, s.flipping p = false)) ∧ s.servesHost a n = true ∧ s.host.waiting = [] ∧ s.partBad a n = false ∧ bs.length = n :=
  ⟨linkState, 0x5FFFFFFFC0, 64, zeros 64, by decide⟩

theorem meets_HostMemory_7 : ∃ (s : State) (a : Nat) (n : Nat), s.linkUp = true ∧ s.boot.hostCxl = true ∧ 1 ≤ n ∧ a + n ≤ 0x6000000000 ∧ (s.servesHost a n = false ∨ (∃ p ∈ pagesOf a n, s.flipping p = true)) :=
  ⟨{ linkState with bld := { cur := { jobs := [{ jobId := 7, excl := true }] } }, jobs := [(0, { state := 1 })] }, 0, 64, by decide⟩

theorem meets_HostMemory_8 : ∃ (s : State) (o : Nat) (n : Nat), s.linkUp = true ∧ (2 ^ 30 < o + n ∨ inMain (s.host.win * 2 ^ 30 + o) n = false) :=
  ⟨linkState, 0x3FFFFFC1, 64, by decide⟩

theorem meets_HostMemory_9 : ∃ (s : State) (o : Nat) (n : Nat), s.linkUp = true ∧ o + n ≤ 2 ^ 30 ∧ inMain (s.host.win * 2 ^ 30 + o) n = true ∧ s.host.biasLeft = 0 ∧ s.servesHost (s.host.win * 2 ^ 30 + o) n = true ∧ s.host.waiting = [] ∧ 1 ≤ n :=
  ⟨linkState, 0x3FFFFFC0, 64, by decide⟩

theorem meets_SidebandAndJtag_1 : ∃ (s : State), s.pwr.present = true :=
  ⟨linkState, by decide⟩

theorem meets_SidebandAndJtag_2 : ∃ (a : BitVec 7), a ≠ 0x3A :=
  ⟨0x3B, by decide⟩

theorem meets_SidebandAndJtag_3 : ∃ (s : State), s.pwr.present = true ∧ s.boot.step < 3 :=
  ⟨{ pwr := { present := true }, boot := { step := 2 } }, by decide⟩

theorem meets_SidebandAndJtag_4 : ∃ (s : State), s.pwr.present = true ∧ 3 ≤ s.boot.step :=
  ⟨linkState, by decide⟩

theorem meets_SidebandAndJtag_5 : ∃ (s : State) (off : Nat), s.pwr.present = true ∧ 3 ≤ s.boot.step ∧ off < 2 ^ 32 ∧ sidebandWritable off = false :=
  ⟨linkState, 0x10, by decide⟩

theorem meets_SidebandAndJtag_6 : ∃ (s : State), s.pwr.present = false :=
  ⟨{}, by decide⟩

theorem meets_SidebandAndJtag_7 : ∃ (b : List Byte), (b.length ≠ 13 ∨ b.headD 0 ≠ 0x02) :=
  ⟨[2], by decide⟩

theorem meets_SidebandAndJtag_8 : ∃ (b : List Byte), (b.length ≠ 5 ∨ b.headD 0 ≠ 0x01) :=
  ⟨[2], by decide⟩

theorem meets_SidebandAndJtag_9 : ∃ (s : State), 1 ≤ s.host.debugLevel ∧ s.wdn.mode = 2 :=
  ⟨{ host := { debugLevel := 1 }, wdn := { mode := 2 } }, by decide⟩

theorem meets_SidebandAndJtag_10 : ∃ (s : State), s.host.debugLevel = 0 :=
  ⟨{ wdn := { mode := 2 } }, by decide⟩

/-- A core of job slot 0 that runs a task, its DMEM image, and an instruction in the queue of a unit. -/
def longInstr (unit op extra : Nat) : LongInstr :=
  { unit, bits := BitVec.ofNat 96 (op + extra + (1 + 2 * 2 ^ 10 + 3 * 2 ^ 20) * 2 ^ 64), bundle := 5 }

def coreState (i : LongInstr) (ds : List (List Byte)) (data : List (Nat × List Byte) := []) : State :=
  { fab := { fabId := 0 }, mem := Memory.writeAll {} (data.map fun x => (padBase + x.1, x.2))
    cores := [(0, (Core.writeDmem { run := .issuing } 64 ds.flatten).setQueue i.unit [i])] }

def startedState (i : LongInstr) (ds : List (List Byte)) (data : List (Nat × List Byte) := []) : State :=
  (((coreState i ds data).starts 0 i.unit i.op).getD ({}, i)).1

/-- A core about to issue one bundle. -/
def issueState (w : Nat) (f : Core → Core := id) : State :=
  { cores := [(0, f { run := .issuing, imem := [(0, BitVec.ofNat 512 w)], pend := [] })] }

def padVec (at' fmt n bytes : Nat) : List Byte := vecDesc (padBase + at') fmt n bytes

def moveDs : List (List Byte) := [padVec 0 0 4 16, padVec 256 0 4 16, zeros 64]

def ldTInstr : LongInstr := longInstr 5 2 0

/-- A table of four FP32 rows, an index list and the rows gathered. -/
def gatherDs : List (List Byte) := [padVec 0 0 4 16, padVec 256 0xD 2 8, padVec 512 0 2 8]

def scatterDs : List (List Byte) := [padVec 512 0 2 8, padVec 256 0xD 2 8, padVec 0 0 4 16]

def atomicDs : List (List Byte) := [padVec 0 0xA 2 8, vecDesc (2 ^ 48 + 256) 0xA 2 8, padVec 512 0xA 2 8]

def mmaDs : List (List Byte) := [padVec 0 1 2 4, padVec 256 1 2 4, padVec 512 0 1 4]

def mmaInstr : LongInstr := longInstr 4 1 (0x100 + 0x1000)

def screenDs : List (List Byte) := [padVec 0 8 32 17, padVec 256 8 32 17, padVec 512 0xA 4 16, padVec 768 0 1 4]

def screenInstr : LongInstr := longInstr 4 2 (0x800 + 0x8000 + 0xA0000)

def addDs : List (List Byte) := [padVec 0 0 4 16, padVec 256 0 4 16, padVec 512 0 4 16]

def redDs : List (List Byte) := [padVec 0 0 4 16, padVec 256 0 1 4, zeros 64]

def sparseDs : List (List Byte) := [padVec 0 0 8 32, padVec 256 0 4 16, padVec 512 9 1 1]

def nzDs : List (List Byte) := [padVec 0 0 8 32, padVec 256 0xA 12 48, zeros 64]

def sparseInstr (mode : Nat) : LongInstr := longInstr 3 0xC5 (mode * 2 ^ 20 + 2 ^ 17)

def nzInstr : LongInstr := { unit := 3, bits := BitVec.ofNat 96 (0xC5 + 0xA00 + 3 * 2 ^ 20 + (1 + 2 * 2 ^ 10) * 2 ^ 64), bundle := 5 }

def doneInstr : StartedInstr := { unit := 5, bits := BitVec.ofNat 96 (2 + 0x8000000000 + 0x300000000), bundle := 5, id := 0, writes := [(padBase, [7])] }

def creditInstr : LongInstr := { unit := 5, bits := BitVec.ofNat 96 (4 + (4 + 3 * 8) * 2 ^ 64), bundle := 5 }

/-- Core 1, east of core 0, has window 3 open. -/
def creditState : State :=
  { bld := { cur := { jobs := [{ jobId := 7 }], cores := [0, 0] } }, boot := { coreMask := 3 }
    cores := [(0, { run := .issuing, qLd := [creditInstr] }), (1, { crw := [(3, { en := true })] })] }

def creditStart : State := ((creditState.starts 0 5 4).getD ({}, creditInstr)).1

def serviceState : State := { creditState with cores := [(0, { run := .issuing, qLd := [creditInstr] }), (1, { mode := 1, crw := [(3, { en := true })] })] }

def serviceStart : State := ((serviceState.starts 0 5 4).getD ({}, creditInstr)).1

def sentInstr : StartedInstr := { unit := 6, bits := 0, bundle := 5, id := 0, writes := [], arrival := some (1, 2), credit := [(1, 3)] }

/-- Core 0 with an older LD instruction in flight, beside a neighbour in SERVICE mode. -/
def olderState : State := { serviceState with cores := [(0, { run := .issuing, qLd := [creditInstr], started := [doneInstr] }), (1, { mode := 1, crw := [(3, { en := true })] })] }

def olderStart : State := ((olderState.starts 0 5 4).getD ({}, creditInstr)).1

def badFmtInstr : LongInstr := longInstr 5 4 0xE00

def sparseMma : LongInstr := { unit := 4, bits := BitVec.ofNat 96 (1 + 0x100 + 0x1000 + 2 ^ 20 + (1 + 2 * 2 ^ 10 + 4 * 2 ^ 20) * 2 ^ 64), bundle := 5 }

def sparseMmaDs : List (List Byte) := [padVec 0 1 4 8, padVec 256 1 8 16, padVec 768 9 1 1, padVec 512 0 1 4]

/-- STRICT over one tile of pattern 4. -/
def tileInstr : LongInstr := longInstr 3 0xC5 (4 * 2 ^ 17)

def tileDs : List (List Byte) := [matDesc padBase 0 8 4 32 128, matDesc (padBase + 256) 0 4 4 16 64, matDesc (padBase + 512) 9 1 4 1 4]

def tileRow : List Byte := zeros 8 ++ leBytes 4 0x3F800000 ++ leBytes 4 0x3F800000

def tileData : List (Nat × List Byte) := [(64, tileRow ++ tileRow), (96, tileRow ++ tileRow)]

theorem meets_BundlesIssue_1 : ∃ (s : State) (u : State) (k : Nat) (x : Slots), k < 256 ∧ (s.core k).run ≠ .idle ∧ (s.beginCycle k).cycleStart k = u ∧ (u.core k).run = .issuing ∧ slotsOf (tget 0 (u.core k).imem (u.core k).pc) = x ∧ x.reservedFmt = none ∧ x.bad ((u.core k).inDelay != 0) = none ∧ (u.core k).hasRoom x = true ∧ x.addrCheck (u.core k) = none ∧ isBranch (field x.scalar 7 0) = false ∧ (u.core k).pc < 4095 ∧ (u.core k).target < 4096 ∧ u.Quiet k ∧ ((∀ p ∈ (u.core k).stores, p.dmem = true ∨ (u.core k).cycle + 1 < p.visibleAt)) ∧ ((field x.ld 7 0 = 1 → u.hasBad (padBase + k * padSize + ((u.core k).sreg (field x.ld 21 17)).toNat + field x.ld 85 64) 256 = false)) :=
  ⟨issueState (field 0 0 0), issueState 0, 0, slotsOf 0, by decide +kernel⟩

theorem meets_BundlesIssue_2 : ∃ (s : State) (u : State) (k : Nat) (x : Slots) (b : Bool), k < 256 ∧ (s.core k).run ≠ .idle ∧ (s.beginCycle k).cycleStart k = u ∧ (u.core k).run = .issuing ∧ slotsOf (tget 0 (u.core k).imem (u.core k).pc) = x ∧ x.reservedFmt = none ∧ x.bad ((u.core k).inDelay != 0) = none ∧ (u.core k).hasRoom x = true ∧ x.addrCheck (u.core k) = none ∧ field x.ld 7 0 ≠ 1 ∧ (u.core k).delay = 0 ∧ branchTaken (field x.scalar 7 0) ((u.core k).sreg (field x.scalar 17 13)) ((u.core k).sreg (field x.scalar 22 18)) ((u.core k).flags.getLsbD (field (field x.scalar 63 32) 17 12)) = some b ∧ (u.core k).pc < 4095 ∧ u.Quiet k ∧ ((∀ p ∈ (u.core k).stores, p.dmem = true ∨ (u.core k).cycle + 1 < p.visibleAt)) :=
  ⟨issueState (0x60 * 2 ^ 64 + 7 * 2 ^ 96), issueState (0x60 * 2 ^ 64 + 7 * 2 ^ 96), 0, slotsOf (BitVec.ofNat 512 (0x60 * 2 ^ 64 + 7 * 2 ^ 96)), true, by decide +kernel⟩

theorem meets_BundlesIssue_3 : ∃ (s : State) (u : State) (k : Nat) (slot : Nat) (x : Slots), k < 256 ∧ (s.core k).run ≠ .idle ∧ (s.beginCycle k).cycleStart k = u ∧ (u.core k).run = .issuing ∧ slotsOf (tget 0 (u.core k).imem (u.core k).pc) = x ∧ x.reservedFmt = none ∧ x.bad ((u.core k).inDelay != 0) = some slot ∧ u.Quiet k ∧ ((∀ p ∈ (u.core k).stores, p.dmem = true ∨ (u.core k).cycle + 1 < p.visibleAt)) :=
  ⟨issueState (0x3E), issueState 0x3E, 0, 1, slotsOf 0x3E, by decide +kernel⟩

theorem meets_BundlesIssue_4 : ∃ (s : State) (u : State) (k : Nat) (x : Slots), k < 256 ∧ (s.core k).run ≠ .idle ∧ (s.beginCycle k).cycleStart k = u ∧ (u.core k).run = .issuing ∧ slotsOf (tget 0 (u.core k).imem (u.core k).pc) = x ∧ x.reservedFmt = none ∧ x.bad ((u.core k).inDelay != 0) = none ∧ (u.core k).hasRoom x = false ∧ u.Quiet k ∧ ((∀ p ∈ (u.core k).stores, p.dmem = true ∨ (u.core k).cycle + 1 < p.visibleAt)) :=
  ⟨issueState (2 ^ 320 * 2) fun c => { c with qLd := List.replicate 4 ldTInstr }, issueState (2 ^ 320 * 2) fun c => { c with qLd := List.replicate 4 ldTInstr }, 0, slotsOf (BitVec.ofNat 512 (2 ^ 320 * 2)), by decide +kernel⟩

theorem meets_BundlesIssue_5 : ∃ (s : State) (k : Nat), k < 256 ∧ (s.core k).run = .idle :=
  ⟨{}, 0, by decide⟩

theorem meets_BundlesIssue_6 : ∃ (s : State) (u : State) (k : Nat) (slot : Nat) (x : Slots), k < 256 ∧ (s.core k).run ≠ .idle ∧ (s.beginCycle k).cycleStart k = u ∧ (u.core k).run = .issuing ∧ slotsOf (tget 0 (u.core k).imem (u.core k).pc) = x ∧ x.reservedFmt = some slot ∧ u.Quiet k ∧ ((∀ p ∈ (u.core k).stores, p.dmem = true ∨ (u.core k).cycle + 1 < p.visibleAt)) :=
  ⟨issueState (2 ^ 416 * 0xE01), issueState (2 ^ 416 * 0xE01), 0, 6, slotsOf (BitVec.ofNat 512 (2 ^ 416 * 0xE01)), by decide +kernel⟩

theorem meets_BundlesIssue_7 : ∃ (s : State) (u : State) (k : Nat) (st : Nat), k < 256 ∧ (s.core k).run ≠ .idle ∧ (s.beginCycle k).cycleStart k = u ∧ (u.core k).run ≠ .failed ∧ st ≠ 5 ∧ st ≠ 6 ∧ st ≠ 8 :=
  ⟨issueState 0, issueState 0, 0, 0, by decide +kernel⟩

theorem meets_BundleResults_1 : ∃ (s : State) (u : State) (k : Nat) (x : Slots) (v : BitVec 32), k < 256 ∧ (s.core k).run ≠ .idle ∧ (s.beginCycle k).cycleStart k = u ∧ (u.core k).run = .issuing ∧ slotsOf (tget 0 (u.core k).imem (u.core k).pc) = x ∧ x.reservedFmt = none ∧ x.bad ((u.core k).inDelay != 0) = none ∧ (u.core k).hasRoom x = true ∧ x.addrCheck (u.core k) = none ∧ field x.ld 7 0 ≠ 1 ∧ field x.vec 7 0 = 0 ∧ (u.core k).pc < 4095 ∧ scalarAlu (field x.scalar 7 0) ((u.core k).sreg (field x.scalar 17 13)) ((u.core k).sreg (field x.scalar 22 18)) (BitVec.ofNat 32 (field x.scalar 63 32)) = some v ∧ field x.scalar 12 8 ≠ 0 :=
  ⟨issueState ((0x01 + 5 * 2 ^ 8) * 2 ^ 64), issueState ((0x01 + 5 * 2 ^ 8) * 2 ^ 64), 0, slotsOf (BitVec.ofNat 512 ((0x01 + 5 * 2 ^ 8) * 2 ^ 64)), 0, by decide +kernel⟩

theorem meets_BundleResults_2 : ∃ (s : State) (u : State) (k : Nat) (r : Nat) (n : Nat) (p : PendingReg), k < 256 ∧ s.beginCycle k = u ∧ (s.core k).run = .heldByWait ∧ (s.core k).pend = [p] ∧ p.file = 0 ∧ p.reg = r ∧ p.visibleAt = n ∧ (s.core k).stores = [] ∧ s.Quiet k :=
  ⟨issueState 0 fun c => { c with run := .heldByWait, pend := [⟨0, 5, 9, 0, 2, 0, 0⟩] }, issueState 0 fun c => { c with run := .heldByWait, pend := [⟨0, 5, 9, 0, 2, 0, 0⟩] }, 0, 5, 0, ⟨0, 5, 9, 0, 2, 0, 0⟩, by decide +kernel⟩

theorem meets_BundleResults_3 : ∃ (s : State) (u : State) (k : Nat) (a : Nat) (n : Nat) (bs : List Byte), k < 256 ∧ s.beginCycle k = u ∧ (s.core k).run = .heldByWait ∧ (s.core k).pend = [] ∧ (s.core k).stores = [{ dmem := false, addr := a, bytes := bs, visibleAt := n }] ∧ n ≤ (s.core k).cycle + 1 ∧ s.Quiet k :=
  ⟨issueState 0 fun c => { c with run := .heldByWait, stores := [⟨false, 0, [7], 0⟩] }, issueState 0 fun c => { c with run := .heldByWait, stores := [⟨false, 0, [7], 0⟩] }, 0, 0, 0, [7], by decide +kernel⟩

theorem meets_BundleResults_4 : ∃ (s : State) (k : Nat) (a : PadWrite) (b : PadWrite), k < 256 ∧ (s.core k).run = .idle ∧ (s.core k).padWrites = [b, a] ∧ a.rank < b.rank ∧ ([1, 2, 3, 4].filterMap (neighbourOf k)).filter (s.wroteInto k) = [] :=
  ⟨{ cores := [(0, { padWrites := [⟨2, padBase, [1]⟩, ⟨1, padBase, [2]⟩] })] }, 0, ⟨1, padBase, [2]⟩, ⟨2, padBase, [1]⟩, by decide +kernel⟩

theorem meets_BundleResults_5 : ∃ (s : State) (k : Nat) (p : Nat) (a : PadWrite), k < 256 ∧ (s.core k).run = .idle ∧ (s.core k).padWrites = [] ∧ ([1, 2, 3, 4].filterMap (neighbourOf k)).filter (s.wroteInto k) = [p] ∧ p ≠ k ∧ (s.core p).padWrites = [a] :=
  ⟨{ cores := [(1, { padWrites := [⟨4 * seenFrom 1 0, padBase, [1]⟩] })] }, 0, 1, ⟨4 * seenFrom 1 0, padBase, [1]⟩, by decide +kernel⟩

theorem meets_BundleResults_6 : ∃ (c : Core) (d : Core) (w : Nat) (now : Nat) (i : Nat) (imm : BitVec 48), c.syncOp w now = d ∧ field w 11 6 = i ∧ BitVec.ofNat 48 (field w 63 16) = imm :=
  ⟨{}, Core.syncOp {} (1 + 0x50040) 0, 1 + 0x50040, 0, 1, 5, by decide⟩

theorem meets_BundleResults_7 : ∃ (c : Core) (i : Nat) (n : BitVec 48), c.incs = [(i, n)] :=
  ⟨{ incs := [(1, 2)], sets := 1 }, 1, 2, by rfl⟩

theorem meets_WaitsAndTaskEnds_1 : ∃ (s : State) (k : Nat) (h : WaitHold), k < 256 ∧ (s.core k).wait = some h ∧ (s.core k).run = .heldByWait ∧ h.deadlineFlag = none ∧ h.late = false ∧ (s.core k).waitOf h.spec = true :=
  ⟨issueState 0 fun c => { c with run := .heldByWait, wait := some ⟨0, none, 0, false⟩ }, 0, ⟨0, none, 0, false⟩, by decide +kernel⟩

theorem meets_WaitsAndTaskEnds_2 : ∃ (s : State) (k : Nat) (d : Nat) (h : WaitHold), k < 256 ∧ (s.core k).wait = some h ∧ (s.core k).run = .heldByWait ∧ h.deadlineFlag = some d ∧ h.late = false ∧ (s.core k).waitOf h.spec = true :=
  ⟨issueState 0 fun c => { c with run := .heldByWait, wait := some ⟨0, some 1, 2, false⟩ }, 0, 1, ⟨0, some 1, 2, false⟩, by decide +kernel⟩

theorem meets_WaitsAndTaskEnds_3 : ∃ (s : State) (k : Nat) (h : WaitHold), k < 256 ∧ (s.core k).wait = some h ∧ (s.core k).run = .heldByWait ∧ h.late = true :=
  ⟨issueState 0 fun c => { c with run := .heldByWait, flags := 2, wait := some ⟨4, some 1, 2, true⟩ }, 0, ⟨4, some 1, 2, true⟩, by decide +kernel⟩

theorem meets_WaitsAndTaskEnds_4 : ∃ (s : State) (k : Nat) (h : WaitHold), k < 256 ∧ (s.core k).wait = some h ∧ h.late = false :=
  ⟨issueState 0 fun c => { c with run := .heldByWait, flags := 2, wait := some ⟨4, some 1, 2, false⟩ }, 0, ⟨4, some 1, 2, false⟩, by decide +kernel⟩

theorem meets_WaitsAndTaskEnds_5 : ∃ (c : Core) (h : WaitHold) (d : Nat), c.wait = some h ∧ h.deadlineFlag = some d :=
  ⟨{ flags := 2, flagAt := [(1, 8)], wait := some ⟨4, some 1, 2, false⟩ }, ⟨4, some 1, 2, false⟩, 1, by decide⟩

theorem meets_WaitsAndTaskEnds_6 : ∃ (s : State) (k : Nat), k < 256 ∧ (s.core k).wait = none :=
  ⟨{}, 255, by decide⟩

theorem meets_WaitsAndTaskEnds_7 : ∃ (s : State) (u : State) (k : Nat), k < 256 ∧ s.beginCycle k = u ∧ (s.core k).run = .ending ∧ (s.core k).done = false ∧ (s.core k).started = [] ∧ ((∀ n ∈ [3, 4, 5, 6], (s.core k).queue n = [])) ∧ (s.core k).pend = [] ∧ (s.core k).stores = [] ∧ s.Quiet k ∧ (s.core k).hcm = false :=
  ⟨issueState 0 fun c => { c with run := .ending }, issueState 0 fun c => { c with run := .ending }, 0, by decide +kernel⟩

theorem meets_WaitsAndTaskEnds_8 : ∃ (s : State) (k : Nat), k < 256 ∧ (s.core k).started ≠ [] ∧ s.beginCycle k = s :=
  ⟨issueState 0 fun c => { c with run := .ending, started := [doneInstr] }, 0, by decide +kernel⟩

theorem meets_WaitsAndTaskEnds_9 : ∃ (s : State) (k : Nat), k < 256 ∧ s.coreEnabled k = true ∧ s.bld.applied = true ∧ (s.core k).run = .idle :=
  ⟨{ bld := { applied := true }, boot := { coreMask := BitVec.allOnes 256 } }, 255, by decide⟩

theorem meets_WaitsAndTaskEnds_10 : ∃ (s : State) (k : Nat), k < 256 ∧ ((s.core k).run ≠ .idle ∨ s.bld.applied = false ∨ s.coreEnabled k = false) :=
  ⟨issueState 0, 0, by decide +kernel⟩

theorem meets_MovesStart_1 : ∃ (s : State) (u : State) (k : Nat) (i : LongInstr), k < 256 ∧ s.starts k 5 2 = some (u, i) ∧ firstFail (u.ldTChecks k i) = none ∧ u.isRemote (u.coreDesc k (i.d 0)) = false :=
  ⟨coreState ldTInstr moveDs, startedState ldTInstr moveDs, 0, ldTInstr, by decide, by rfl, by decide +kernel⟩

theorem meets_MovesStart_2 : ∃ (s : State) (u : State) (k : Nat) (i : LongInstr) (st : Nat) (d : Nat), k < 256 ∧ s.starts k 5 2 = some (u, i) ∧ firstFail (u.ldTChecks k i) = some (st, d) :=
  ⟨coreState ldTInstr [zeros 64], startedState ldTInstr [zeros 64], 0, ldTInstr, 0x22, 0, by decide, by rfl, by decide +kernel⟩

theorem meets_MovesStart_3 : ∃ (s : State) (u : State) (k : Nat) (p : Nat) (i : LongInstr), k < 256 ∧ s.starts k 5 3 = some (u, i) ∧ firstFail (u.ldGChecks k i) = none ∧ u.emptyOf [u.coreDesc k (i.d 0), u.coreDesc k (i.d 1), u.coreDesc k (i.d 2)] = false ∧ oobCheck (((u.coreDesc k (i.d 1)).resolve u.mem).words u.mem) ((u.coreDesc k (i.d 0)).resolve u.mem).table.count (i.fld 41 40) = some (stBounds, p) :=
  ⟨coreState (longInstr 5 3 0) gatherDs [(256, leBytes 4 9)], startedState (longInstr 5 3 0) gatherDs [(256, leBytes 4 9)], 0, 0, longInstr 5 3 0, by decide, by rfl, by decide +kernel⟩

theorem meets_MovesStart_4 : ∃ (s : State) (u : State) (k : Nat) (i : LongInstr), k < 256 ∧ s.starts k 5 3 = some (u, i) ∧ firstFail (u.ldGChecks k i) = none ∧ u.emptyOf [u.coreDesc k (i.d 0), u.coreDesc k (i.d 1), u.coreDesc k (i.d 2)] = false ∧ oobCheck (((u.coreDesc k (i.d 1)).resolve u.mem).words u.mem) ((u.coreDesc k (i.d 0)).resolve u.mem).table.count (i.fld 41 40) = none ∧ u.eccRows (u.coreDesc k (i.d 0)) false (((u.coreDesc k (i.d 0)).resolve u.mem).table.named (((u.coreDesc k (i.d 1)).resolve u.mem).words u.mem)) = none :=
  ⟨coreState (longInstr 5 3 0) gatherDs, startedState (longInstr 5 3 0) gatherDs, 0, longInstr 5 3 0, by decide, by rfl, by decide +kernel⟩

theorem meets_MovesStart_5 : ∃ (s : State) (u : State) (k : Nat) (p : Nat) (i : LongInstr), k < 256 ∧ s.starts k 5 4 = some (u, i) ∧ u.neighbour k (i.fld 66 64) = some p ∧ i.fmt < 14 ∧ (u.core p).mode ≠ 1 ∧ (u.window p (i.fld 69 67)).en = true :=
  ⟨creditState, creditStart, 0, 1, creditInstr, by decide, by rfl, by decide +kernel⟩

theorem meets_MovesStart_6 : ∃ (s : State) (u : State) (k : Nat) (p : Nat) (i : LongInstr), k < 256 ∧ s.starts k 5 4 = some (u, i) ∧ u.neighbour k (i.fld 66 64) = some p ∧ i.fmt < 14 ∧ (u.core p).mode = 1 ∧ (u.window p (i.fld 69 67)).en = true ∧ ((∀ x ∈ (u.core k).started, x.unit ≠ 5)) :=
  ⟨serviceState, serviceStart, 0, 1, creditInstr, by decide, by rfl, by decide +kernel⟩

theorem meets_MovesStart_7 : ∃ (s : State) (u : State) (k : Nat) (p : Nat) (i : LongInstr) (x : StartedInstr), k < 256 ∧ s.starts k 5 4 = some (u, i) ∧ u.neighbour k (i.fld 66 64) = some p ∧ i.fmt < 14 ∧ (u.core p).mode = 1 ∧ (u.window p (i.fld 69 67)).en = true ∧ x ∈ (u.core k).started ∧ x.unit = 5 :=
  ⟨olderState, olderStart, 0, 1, creditInstr, doneInstr, by decide, by rfl, by decide +kernel⟩

theorem meets_MovesStart_8 : ∃ (k : Nat) (i : LongInstr), k < 256 ∧ 14 ≤ i.fmt :=
  ⟨0, badFmtInstr, by decide⟩

theorem meets_MovesStart_9 : ∃ (s : State) (u : State) (k : Nat) (i : LongInstr), k < 256 ∧ s.starts k 6 2 = some (u, i) ∧ firstFail (u.stTChecks k i) = none ∧ u.isRemote (u.coreDesc k (i.d 1)) = false ∧ i.remEn = false :=
  ⟨coreState (longInstr 6 2 0) moveDs, startedState (longInstr 6 2 0) moveDs, 0, longInstr 6 2 0, by decide, by rfl, by decide +kernel⟩

theorem meets_MovesStart_10 : ∃ (s : State) (u : State) (k : Nat) (i : LongInstr), k < 256 ∧ s.starts k 6 3 = some (u, i) ∧ firstFail (u.stSChecks k i) = none ∧ u.emptyOf [u.coreDesc k (i.d 0), u.coreDesc k (i.d 1), u.coreDesc k (i.d 2)] = false ∧ u.eccRows (u.coreDesc k (i.d 2)) true (((u.coreDesc k (i.d 2)).resolve u.mem).table.named (((u.coreDesc k (i.d 1)).resolve u.mem).words u.mem)) = none ∧ oobCheck (((u.coreDesc k (i.d 1)).resolve u.mem).words u.mem) ((u.coreDesc k (i.d 2)).resolve u.mem).table.count (i.fld 49 48) = none ∧ firstFail (u.storeChecks k i (u.coreDesc k (i.d 2)) (u.coreDesc k (i.d 2)) (localWrites (u.stSRows k i))) = none ∧ u.isRemote (u.coreDesc k (i.d 2)) = false ∧ i.remEn = false :=
  ⟨coreState (longInstr 6 3 0) scatterDs, startedState (longInstr 6 3 0) scatterDs, 0, longInstr 6 3 0, by decide, by rfl, by decide +kernel⟩

theorem meets_MovesStart_11 : ∃ (s : State) (u : State) (k : Nat) (i : LongInstr), k < 256 ∧ s.starts k 6 4 = some (u, i) ∧ firstFail (u.stAChecks k i) = none :=
  ⟨coreState (longInstr 6 4 0xA00) atomicDs, startedState (longInstr 6 4 0xA00) atomicDs, 0, longInstr 6 4 0xA00, by decide, by rfl, by decide +kernel⟩

theorem meets_MovesStart_12 : ∃ (s : State) (u : State) (k : Nat) (i : LongInstr), k < 256 ∧ s.starts k 6 5 = some (u, i) ∧ i.fmt < 14 :=
  ⟨coreState (longInstr 6 5 0) [], startedState (longInstr 6 5 0) [], 0, longInstr 6 5 0, by decide, by rfl, by decide⟩

theorem meets_MovesStart_13 : ∃ (s : State) (k : Nat), k < 256 ∧ (s.core k).qLd = [] ∧ (s.core k).qSt = [] :=
  ⟨{}, 255, by decide⟩

theorem meets_InstructionsComplete_1 : ∃ (s : State) (k : Nat) (n : Nat) (x : StartedInstr), k < 256 ∧ (s.core k).started.find? (fun x => x.unit == n) = some x ∧ x.remote = 0 ∧ x.creditWait = false ∧ x.arrival = none ∧ x.credit = [] ∧ n ≠ 4 ∧ ((∀ w ∈ x.writes, padCore w.1 w.2.length = none)) :=
  ⟨issueState 0 fun c => { c with started := [{ doneInstr with writes := [(0, [7])] }] }, 0, 5, { doneInstr with writes := [(0, [7])] }, by decide +kernel⟩

theorem meets_InstructionsComplete_2 : ∃ (s : State) (k : Nat) (n : Nat) (p : Nat) (x : StartedInstr), k < 256 ∧ (s.core k).started.find? (fun x => x.unit == n) = some x ∧ x.remote = 0 ∧ x.creditWait = false ∧ x.arrival = none ∧ x.credit = [] ∧ n ≠ 4 ∧ ((∀ w ∈ x.writes, padCore w.1 w.2.length = some p)) :=
  ⟨issueState 0 fun c => { c with started := [doneInstr] }, 0, 5, 0, doneInstr, by decide +kernel⟩

theorem meets_InstructionsComplete_3 : ∃ (s : State) (k : Nat) (n : Nat) (p : Nat) (w : Nat) (i : Nat) (x : StartedInstr), k < 256 ∧ p ≠ k ∧ (s.core k).started.find? (fun x => x.unit == n) = some x ∧ x.remote = 0 ∧ x.creditWait = false ∧ x.writes = [] ∧ x.arrival = some (p, i) ∧ x.credit = [(p, w)] :=
  ⟨issueState 0 fun c => { c with started := [sentInstr] }, 0, 6, 1, 3, 2, sentInstr, by decide +kernel⟩

theorem meets_InstructionsComplete_4 : ∃ (s : State) (k : Nat) (f : Nat) (x : StartedInstr), k < 256 ∧ (s.core k).started.find? (fun x => x.unit == 4) = some x ∧ x.remote = 0 ∧ x.creditWait = false ∧ x.arrival = none ∧ x.credit = [] ∧ f ≠ 0 ∧ ((∀ w ∈ x.writes, padCore w.1 w.2.length = some k)) :=
  ⟨issueState 0 fun c => { c with started := [{ doneInstr with unit := 4, busy := 9 }] }, 0, 1, { doneInstr with unit := 4, busy := 9 }, by decide +kernel⟩

theorem meets_InstructionsComplete_5 : ∃ (s : State) (k : Nat) (n : Nat) (x : StartedInstr), k < 256 ∧ (s.core k).started.find? (fun x => x.unit == n) = some x ∧ (x.remote ≠ 0 ∨ x.creditWait = true) :=
  ⟨issueState 0 fun c => { c with started := [{ doneInstr with remote := 1 }] }, 0, 5, { doneInstr with remote := 1 }, by decide +kernel⟩

theorem meets_InstructionsComplete_6 : ∃ (s : State) (k : Nat) (n : Nat), k < 256 ∧ (s.core k).started.find? (fun x => x.unit == n) = none :=
  ⟨{}, 0, 3, by decide⟩

theorem meets_InstructionsComplete_7 : ∃ (s : State) (k : Nat) (w : Nat) (r : CreditReq), k < 256 ∧ w < 8 ∧ (s.window k w).en = true ∧ (s.window k w).holder = 0 ∧ (s.window k w).free = true ∧ (s.core k).nextCredit w = some r ∧ r.core ≠ k :=
  ⟨{ cores := [(0, { crw := [(3, { en := true, free := true })], clock := 1, creditReqs := [⟨3, 4, 1, 0, 0⟩] }), (1, { started := [{ doneInstr with creditWait := true }] })] }, 0, 3, ⟨3, 4, 1, 0, 0⟩, by decide +kernel⟩

theorem meets_InstructionsComplete_8 : ∃ (c : Core) (w : Nat) (r : CreditReq) (q : CreditReq), c.nextCredit w = some r ∧ q ∈ c.creditReqs ∧ q.window = w ∧ q.clock < c.clock :=
  ⟨{ clock := 1, creditReqs := [⟨3, 4, 1, 0, 0⟩] }, 3, ⟨3, 4, 1, 0, 0⟩, ⟨3, 4, 1, 0, 0⟩, by decide +kernel⟩

theorem meets_InstructionsComplete_9 : ∃ (s : State) (k : Nat) (w : Nat), k < 256 ∧ w < 8 ∧ ((s.window k w).holder ≠ 0 ∨ (s.core k).nextCredit w = none) :=
  ⟨{ cores := [(0, { crw := [(3, { en := true, holder := 2 })] })] }, 0, 3, by decide +kernel⟩

theorem meets_TensorOpsStart_1 : ∃ (s : State) (u : State) (k : Nat) (i : LongInstr) (a : Tensor) (b : Tensor) (c : Tensor), k < 256 ∧ s.starts k 4 1 = some (u, i) ∧ firstFail (u.mmaChecks k i) = none ∧ (u.coreDesc k (i.d 0)).resolve u.mem = a ∧ (u.coreDesc k (i.d 1)).resolve u.mem = b ∧ (u.coreDesc k (i.d 2)).resolve u.mem = c ∧ i.fld 22 20 = 0 ∧ a.size ≠ 0 ∧ b.size ≠ 0 ∧ c.size ≠ 0 :=
  ⟨coreState mmaInstr mmaDs [(0, [0, 0x3F])], startedState mmaInstr mmaDs [(0, [0, 0x3F])], 0, mmaInstr, (parseDesc (mmaDs.getD 0 [])).resolve {}, (parseDesc (mmaDs.getD 1 [])).resolve {}, (parseDesc (mmaDs.getD 2 [])).resolve {}, by decide, by rfl, by decide +kernel⟩

theorem meets_TensorOpsStart_2 : ∃ (s : State) (u : State) (k : Nat) (i : LongInstr) (st : Nat) (d : Nat), k < 256 ∧ s.starts k 4 1 = some (u, i) ∧ firstFail (u.mmaChecks k i) = some (st, d) :=
  ⟨coreState mmaInstr [zeros 64], startedState mmaInstr [zeros 64], 0, mmaInstr, 0x22, 0, by decide, by rfl, by decide +kernel⟩

theorem meets_TensorOpsStart_3 : ∃ (s : State) (u : State) (k : Nat) (i : LongInstr) (a : Tensor) (b : Tensor) (c : Tensor) (md : Tensor) (rs : List (List FVal)), k < 256 ∧ s.starts k 4 1 = some (u, i) ∧ firstFail (u.mmaChecks k i) = none ∧ (u.coreDesc k (i.d 0)).resolve u.mem = a ∧ (u.coreDesc k (i.d 1)).resolve u.mem = b ∧ (u.coreDesc k (i.d 2)).resolve u.mem = c ∧ (u.coreDesc k (i.d 1 + 1)).resolve u.mem = md ∧ i.fld 22 20 ≠ 0 ∧ a.size ≠ 0 ∧ b.size ≠ 0 ∧ c.size ≠ 0 ∧ (denseA u.mem (i.fld 22 20) ((padExts c.exts).getD 1 1) (b.exts.headD 0) a md (md.fmt == 0x9)).toOption = some rs ∧ ((i.fld 22 20 = 4 → tileCheck u.mem ((padExts c.exts).getD 1 1) (b.exts.headD 0) md = none)) :=
  ⟨coreState sparseMma sparseMmaDs [(768, [0x44])], startedState sparseMma sparseMmaDs [(768, [0x44])], 0, sparseMma, (parseDesc (sparseMmaDs.getD 0 [])).resolve {}, (parseDesc (sparseMmaDs.getD 1 [])).resolve {}, (parseDesc (sparseMmaDs.getD 3 [])).resolve {}, (parseDesc (sparseMmaDs.getD 2 [])).resolve {}, [[.fin false 0 (-133), .fin false 0 (-133), fZero, fZero, .fin false 0 (-133), .fin false 0 (-133), fZero, fZero]], by decide, by rfl, by decide +kernel⟩

theorem meets_TensorOpsStart_4 : ∃ (s : State) (u : State) (k : Nat) (i : LongInstr) (a : Tensor) (b : Tensor) (c : Tensor) (th : Tensor), k < 256 ∧ s.starts k 4 2 = some (u, i) ∧ firstFail (u.mmaScreenChecks k i) = none ∧ (u.coreDesc k (i.d 0)).resolve u.mem = a ∧ (u.coreDesc k (i.d 1)).resolve u.mem = b ∧ (u.coreDesc k (i.d 2)).resolve u.mem = c ∧ (u.coreDesc k (i.d 2 + 1)).resolve u.mem = th ∧ a.size ≠ 0 ∧ b.size ≠ 0 :=
  ⟨coreState screenInstr screenDs, startedState screenInstr screenDs, 0, screenInstr, (parseDesc (screenDs.getD 0 [])).resolve {}, (parseDesc (screenDs.getD 1 [])).resolve {}, (parseDesc (screenDs.getD 2 [])).resolve {}, (parseDesc (screenDs.getD 3 [])).resolve {}, by decide, by rfl, by decide +kernel⟩

theorem meets_TensorOpsStart_5 : ∃ (s : State) (u : State) (k : Nat) (i : LongInstr) (a : Tensor) (b : Tensor), k < 256 ∧ s.starts k 3 0xC1 = some (u, i) ∧ firstFail (u.elementwiseChecks k i [0] 1) = none ∧ (u.coreDesc k (i.d 0)).resolve u.mem = a ∧ (u.coreDesc k (i.d 1)).resolve u.mem = b :=
  ⟨coreState (longInstr 3 0xC1 0) moveDs, startedState (longInstr 3 0xC1 0) moveDs, 0, longInstr 3 0xC1 0, (parseDesc (moveDs.getD 0 [])).resolve {}, (parseDesc (moveDs.getD 1 [])).resolve {}, by decide, by rfl, by decide +kernel⟩

theorem meets_TensorOpsStart_6 : ∃ (s : State) (u : State) (k : Nat) (i : LongInstr) (a : Tensor) (b : Tensor) (c : Tensor), k < 256 ∧ s.starts k 3 0xC2 = some (u, i) ∧ firstFail (u.elementwiseChecks k i [0, 1] 2) = none ∧ (u.coreDesc k (i.d 0)).resolve u.mem = a ∧ (u.coreDesc k (i.d 1)).resolve u.mem = b ∧ (u.coreDesc k (i.d 2)).resolve u.mem = c :=
  ⟨coreState (longInstr 3 0xC2 0) addDs, startedState (longInstr 3 0xC2 0) addDs, 0, longInstr 3 0xC2 0, (parseDesc (addDs.getD 0 [])).resolve {}, (parseDesc (addDs.getD 1 [])).resolve {}, (parseDesc (addDs.getD 2 [])).resolve {}, by decide, by rfl, by decide +kernel⟩

theorem meets_TensorOpsStart_7 : ∃ (s : State) (u : State) (k : Nat) (i : LongInstr) (a : Tensor) (b : Tensor) (c : Tensor), k < 256 ∧ s.starts k 3 0xC3 = some (u, i) ∧ firstFail (u.elementwiseChecks k i [0, 1] 2) = none ∧ (u.coreDesc k (i.d 0)).resolve u.mem = a ∧ (u.coreDesc k (i.d 1)).resolve u.mem = b ∧ (u.coreDesc k (i.d 2)).resolve u.mem = c :=
  ⟨coreState (longInstr 3 0xC3 0) addDs, startedState (longInstr 3 0xC3 0) addDs, 0, longInstr 3 0xC3 0, (parseDesc (addDs.getD 0 [])).resolve {}, (parseDesc (addDs.getD 1 [])).resolve {}, (parseDesc (addDs.getD 2 [])).resolve {}, by decide, by rfl, by decide +kernel⟩

theorem meets_TensorOpsStart_8 : ∃ (s : State) (u : State) (k : Nat) (i : LongInstr) (a : Tensor) (b : Tensor), k < 256 ∧ s.starts k 3 0xC4 = some (u, i) ∧ firstFail (u.tredChecks k i) = none ∧ (u.coreDesc k (i.d 0)).resolve u.mem = a ∧ (u.coreDesc k (i.d 1)).resolve u.mem = b ∧ a.size ≠ 0 :=
  ⟨coreState (longInstr 3 0xC4 0) redDs, startedState (longInstr 3 0xC4 0) redDs, 0, longInstr 3 0xC4 0, (parseDesc (redDs.getD 0 [])).resolve {}, (parseDesc (redDs.getD 1 [])).resolve {}, by decide, by rfl, by decide +kernel⟩

theorem meets_TensorOpsStart_9 : ∃ (s : State) (u : State) (k : Nat) (i : LongInstr) (a : Tensor) (b : Tensor) (md : Tensor), k < 256 ∧ s.starts k 3 0xC5 = some (u, i) ∧ (u.coreDesc k (i.d 0)).resolve u.mem = a ∧ (u.coreDesc k (i.d 1)).resolve u.mem = b ∧ (u.coreDesc k (i.d 2)).resolve u.mem = md ∧ i.fld 19 17 ≠ 4 ∧ i.fld 21 20 = 1 ∧ firstFail (u.tsparseChecks k i 1 true) = none :=
  ⟨coreState (sparseInstr 1) sparseDs, startedState (sparseInstr 1) sparseDs, 0, sparseInstr 1, (parseDesc (sparseDs.getD 0 [])).resolve {}, (parseDesc (sparseDs.getD 1 [])).resolve {}, (parseDesc (sparseDs.getD 2 [])).resolve {}, by decide, by rfl, by decide +kernel⟩

theorem meets_TensorOpsStart_10 : ∃ (s : State) (u : State) (k : Nat) (r : Nat) (g : Nat) (i : LongInstr) (a : Tensor), k < 256 ∧ s.starts k 3 0xC5 = some (u, i) ∧ i.fld 21 20 = 0 ∧ (u.coreDesc k (i.d 0)).resolve u.mem = a ∧ firstFail (u.tsparseChecks k i 0 true) = none ∧ a.rows = [r] ∧ (List.range (rowGroups u.mem (patternOf (i.fld 19 17)) a r).length).find? (fun g => (strictKept (patternOf (i.fld 19 17)).n ((rowGroups u.mem (patternOf (i.fld 19 17)) a r).getD g [])).isNone) = some g :=
  ⟨coreState (sparseInstr 0) sparseDs [(0, List.replicate 12 1)], startedState (sparseInstr 0) sparseDs [(0, List.replicate 12 1)], 0, padBase, 0, sparseInstr 0, (parseDesc (sparseDs.getD 0 [])).resolve {}, by decide, by rfl, by decide +kernel⟩

theorem meets_TensorOpsStart_11 : ∃ (s : State) (u : State) (k : Nat) (i : LongInstr) (a : Tensor) (b : Tensor) (md : Tensor), k < 256 ∧ s.starts k 3 0xC5 = some (u, i) ∧ (u.coreDesc k (i.d 0)).resolve u.mem = a ∧ (u.coreDesc k (i.d 1)).resolve u.mem = b ∧ (u.coreDesc k (i.d 2)).resolve u.mem = md ∧ i.fld 19 17 ≠ 4 ∧ i.fld 21 20 = 0 ∧ firstFail (u.tsparseChecks k i 0 true) = none ∧ ((∀ r ∈ a.rows, ∀ g ∈ rowGroups u.mem (patternOf (i.fld 19 17)) a r, (strictKept (patternOf (i.fld 19 17)).n g).isSome)) :=
  ⟨coreState (sparseInstr 0) sparseDs, startedState (sparseInstr 0) sparseDs, 0, sparseInstr 0, (parseDesc (sparseDs.getD 0 [])).resolve {}, (parseDesc (sparseDs.getD 1 [])).resolve {}, (parseDesc (sparseDs.getD 2 [])).resolve {}, by decide, by rfl, by decide +kernel⟩

theorem meets_TensorOpsStart_12 : ∃ (s : State) (u : State) (k : Nat) (i : LongInstr) (a : Tensor) (b : Tensor) (md : Tensor) (kept : List (List (List Nat))), k < 256 ∧ s.starts k 3 0xC5 = some (u, i) ∧ (u.coreDesc k (i.d 0)).resolve u.mem = a ∧ (u.coreDesc k (i.d 1)).resolve u.mem = b ∧ (u.coreDesc k (i.d 2)).resolve u.mem = md ∧ i.fld 19 17 = 4 ∧ i.fld 21 20 = 0 ∧ firstFail (u.tsparseChecks k i 0 true) = none ∧ ((∀ r ∈ a.rows, ∀ g ∈ rowGroups u.mem (patternOf 4) a r, (strictKept (patternOf 4).n g).isSome)) ∧ (a.rows.map fun r => (rowGroups u.mem (patternOf 4) a r).map fun g => (strictKept (patternOf 4).n g).getD []) = kept ∧ ((∀ q ∈ List.range (a.rows.length / 4), ∀ g ∈ List.range (a.exts.headD 0 / 4), twiceKept kept q g = true)) :=
  ⟨coreState tileInstr tileDs tileData, startedState tileInstr tileDs tileData, 0, tileInstr, (parseDesc (tileDs.getD 0 [])).resolve {}, (parseDesc (tileDs.getD 1 [])).resolve {}, (parseDesc (tileDs.getD 2 [])).resolve {}, [[[0, 1], [0, 1]], [[0, 1], [0, 1]], [[2, 3], [2, 3]], [[2, 3], [2, 3]]], by decide, by rfl, by decide +kernel⟩

theorem meets_TensorOpsStart_13 : ∃ (s : State) (u : State) (k : Nat) (g : Nat) (i : LongInstr) (a : Tensor) (kept : List (List (List Nat))), k < 256 ∧ s.starts k 3 0xC5 = some (u, i) ∧ (u.coreDesc k (i.d 0)).resolve u.mem = a ∧ i.fld 19 17 = 4 ∧ i.fld 21 20 = 0 ∧ firstFail (u.tsparseChecks k i 0 true) = none ∧ ((∀ r ∈ a.rows, ∀ g ∈ rowGroups u.mem (patternOf 4) a r, (strictKept (patternOf 4).n g).isSome)) ∧ (a.rows.map fun r => (rowGroups u.mem (patternOf 4) a r).map fun g => (strictKept (patternOf 4).n g).getD []) = kept ∧ a.rows.length = 4 ∧ (List.range (a.exts.headD 0 / 4)).find? (fun g => !twiceKept kept 0 g) = some g :=
  ⟨coreState tileInstr tileDs, startedState tileInstr tileDs, 0, 0, tileInstr, (parseDesc (tileDs.getD 0 [])).resolve {}, List.replicate 4 [[0, 1], [0, 1]], by decide, by rfl, by decide +kernel⟩

theorem meets_TensorOpsStart_14 : ∃ (s : State) (u : State) (k : Nat) (r : Nat) (i : LongInstr) (a : Tensor) (b : Tensor) (md : Tensor) (ks : List (List Nat)), k < 256 ∧ s.starts k 3 0xC5 = some (u, i) ∧ (u.coreDesc k (i.d 0)).resolve u.mem = a ∧ (u.coreDesc k (i.d 1)).resolve u.mem = b ∧ (u.coreDesc k (i.d 2)).resolve u.mem = md ∧ i.fld 21 20 = 2 ∧ firstFail (u.tsparseChecks k i 2 false) = none ∧ a.rows = [r] ∧ (lineKept (i.fld 19 17) (patternOf (i.fld 19 17)) (u.mem.bytes ((md.rows)[0]?.getD 0) md.rowLen) (a.exts.headD 0 / (patternOf (i.fld 19 17)).g)).toOption = some ks :=
  ⟨coreState (sparseInstr 2) sparseDs [(512, [0x44])], startedState (sparseInstr 2) sparseDs [(512, [0x44])], 0, padBase, sparseInstr 2, (parseDesc (sparseDs.getD 0 [])).resolve {}, (parseDesc (sparseDs.getD 1 [])).resolve {}, (parseDesc (sparseDs.getD 2 [])).resolve {}, [[0, 1], [0, 1]], by decide, by rfl, by decide +kernel⟩

theorem meets_TensorOpsStart_15 : ∃ (s : State) (u : State) (k : Nat) (i : LongInstr) (b : Tensor), k < 256 ∧ s.starts k 3 0xC5 = some (u, i) ∧ i.fld 21 20 = 3 ∧ (u.coreDesc k (i.d 1)).resolve u.mem = b ∧ firstFail (u.nzlistChecks k i) = none ∧ u.emptyOf [u.coreDesc k (i.d 0), u.coreDesc k (i.d 1)] = false :=
  ⟨coreState nzInstr nzDs, startedState nzInstr nzDs, 0, nzInstr, (parseDesc (nzDs.getD 1 [])).resolve {}, by decide, by rfl, by decide +kernel⟩

theorem meets_TensorOpsStart_16 : ∃ (s : State) (k : Nat), k < 256 ∧ (s.core k).qVec = [] ∧ (s.core k).qMat = [] :=
  ⟨{}, 255, by decide⟩

/-- A device with job 7 on core 0, a command of engine 1 or 0 waiting. -/
def taskState (op : Nat) (imm : Nat) : State :=
  let s := engineState 1 op [] [] [] (BitVec.ofNat 64 imm) 0
  { s with bld := { s.bld with cur := { s.bld.cur with cores := [0] } } }

def taskCmd : Cmd := { engine := 1, opcode := 2, imm := BitVec.ofNat 64 0x10000 }

def doneState (st : Nat) : State := { cores := [(0, { run := .ending, done := true, tasks := [taskCmd], faultStatus := st })] }

def counterState (op v : Nat) : State := engineState 0 op [] [] [] (BitVec.ofNat 64 v)

def saveState (op : Nat) : State :=
  let s := engineState 0 op (leBytes 4 1 ++ zeros 60 ++ leBytes 8 ssramBase ++ leBytes 8 256) [] [(ssramBase, [7]), (0x8000, [9])]
  { s with queues := [(0, [{ engine := 0, opcode := op, arg := 0x1000, arg2 := 0x8000 }])] }

def jobState (st : Nat) : State := { jobs := [(2, { state := st })] }

theorem meets_TasksOnCores_1 : ∃ (s : State) (u : State) (c : Cmd), s.begins 1 1 = some (u, c) ∧ firstFail (u.ploadChecks c) = none :=
  ⟨taskState 1 0x10000, begunState (taskState 1 0x10000) 1 1, begunCmd (taskState 1 0x10000) 1 1, by rfl, by decide +kernel⟩

theorem meets_TasksOnCores_2 : ∃ (s : State) (u : State) (c : Cmd) (st : Nat) (d : Nat), s.begins 1 1 = some (u, c) ∧ firstFail (u.ploadChecks c) = some (st, d) :=
  ⟨taskState 1 0, begunState (taskState 1 0) 1 1, begunCmd (taskState 1 0) 1 1, stBounds, 0, by rfl, by decide +kernel⟩

theorem meets_TasksOnCores_3 : ∃ (s : State) (u : State) (c : Cmd), s.begins 1 2 = some (u, c) ∧ firstFail (u.taskChecks c) = none :=
  ⟨taskState 2 0x500010000, begunState (taskState 2 0x500010000) 1 2, begunCmd (taskState 2 0x500010000) 1 2, by rfl, by decide +kernel⟩

theorem meets_TasksOnCores_4 : ∃ (s : State) (u : State) (c : Cmd) (st : Nat) (d : Nat), s.begins 1 2 = some (u, c) ∧ firstFail (u.taskChecks c) = some (st, d) :=
  ⟨taskState 2 0, begunState (taskState 2 0) 1 2, begunCmd (taskState 2 0) 1 2, stBounds, 0, by rfl, by decide +kernel⟩

theorem meets_TasksOnCores_5 : ∃ (s : State) (k : Nat) (c : Cmd) (r : List Cmd), k < 256 ∧ (s.core k).tasks = c :: r ∧ c.cores.all (s.coreDone c) = true ∧ c.cores.find? (fun i => (s.core i).faultStatus != 0) = none :=
  ⟨doneState 0, 0, taskCmd, [], by decide +kernel⟩

theorem meets_TasksOnCores_6 : ∃ (s : State) (k : Nat) (i : Nat) (c : Cmd) (r : List Cmd), k < 256 ∧ (s.core k).tasks = c :: r ∧ c.cores.all (s.coreDone c) = true ∧ c.cores.find? (fun i => (s.core i).faultStatus != 0) = some i :=
  ⟨doneState 0x22, 0, 0, taskCmd, [], by decide +kernel⟩

theorem meets_TasksOnCores_7 : ∃ (s : State) (k : Nat), k < 256 ∧ (s.core k).tasks = [] :=
  ⟨{}, 255, by decide⟩

theorem meets_CountersAndPreemption_1 : ∃ (s : State) (u : State) (c : Cmd) (i : Nat) (v : BitVec 48), s.begins 0 1 = some (u, c) ∧ c.counter = (i, v) ∧ i < 32 :=
  ⟨counterState 1 0x3000000000007, begunState (counterState 1 0x3000000000007) 0 1, begunCmd (counterState 1 0x3000000000007) 0 1, 3, 7, by rfl, by decide +kernel⟩

theorem meets_CountersAndPreemption_2 : ∃ (s : State) (u : State) (c : Cmd) (i : Nat) (v : BitVec 48), s.begins 0 2 = some (u, c) ∧ c.counter = (i, v) ∧ i < 32 :=
  ⟨counterState 2 0x1F000000000007, begunState (counterState 2 0x1F000000000007) 0 2, begunCmd (counterState 2 0x1F000000000007) 0 2, 31, 7, by rfl, by decide +kernel⟩

theorem meets_CountersAndPreemption_3 : ∃ (s : State) (u : State) (c : Cmd) (i : Nat) (v : BitVec 48), s.begins 0 3 = some (u, c) ∧ c.counter = (i, v) ∧ i < 32 :=
  ⟨counterState 3 7, begunState (counterState 3 7) 0 3, begunCmd (counterState 3 7) 0 3, 0, 7, by rfl, by decide +kernel⟩

theorem meets_CountersAndPreemption_4 : ∃ (s : State) (u : State) (c : Cmd) (i : Nat) (v : BitVec 48) (x : JobSlot), s.begins 0 4 = some (u, c) ∧ c.counter = (i, v) ∧ i < 32 ∧ (s.slot c.job).inCycle s.engCycle = x :=
  ⟨counterState 4 7, begunState (counterState 4 7) 0 4, begunCmd (counterState 4 7) 0 4, 0, 7, {}, by rfl, by decide +kernel⟩

theorem meets_CountersAndPreemption_5 : ∃ (s : State) (u : State) (c : Cmd) (i : Nat) (v : BitVec 48) (x : JobSlot), s.begins 0 5 = some (u, c) ∧ c.counter = (i, v) ∧ i < 32 ∧ (s.slot c.job).inCycle s.engCycle = x :=
  ⟨counterState 5 7, begunState (counterState 5 7) 0 5, begunCmd (counterState 5 7) 0 5, 0, 7, {}, by rfl, by decide +kernel⟩

theorem meets_CountersAndPreemption_6 : ∃ (x : JobSlot) (i : Nat) (e : Nat) (v : BitVec 48) (n : BitVec 48), x.csets = [(i, some v)] ∧ x.incs = [(i, n)] ∧ x.cntAt = e :=
  ⟨{ csets := [(1, some 5)], incs := [(1, 2)] }, 1, 0, 5, 2, by decide +kernel⟩

theorem meets_CountersAndPreemption_7 : ∃ (s : State) (u : State) (c : Cmd), s.begins 0 4 = some (u, c) ∧ 32 ≤ c.counter.1 :=
  ⟨counterState 4 0x20000000000000, begunState (counterState 4 0x20000000000000) 0 4, begunCmd (counterState 4 0x20000000000000) 0 4, by rfl, by decide +kernel⟩

theorem meets_CountersAndPreemption_8 : ∃ (s : State) (u : State) (c : Cmd), s.begins 0 0x10 = some (u, c) ∧ firstFail (u.saveChecks c ++ [need ((u.saveList c).all fun e => !u.hasBad e.1 e.2) stEccUncorr 0]) = none :=
  ⟨saveState 0x10, begunState (saveState 0x10) 0 0x10, begunCmd (saveState 0x10) 0 0x10, by rfl, by decide +kernel⟩

theorem meets_CountersAndPreemption_9 : ∃ (s : State) (u : State) (c : Cmd), s.begins 0 0x11 = some (u, c) ∧ firstFail (u.saveChecks c ++ [need (((packed c.arg2 (u.saveList c)).zip (u.saveList c)).all fun x => !u.hasBad x.1 x.2.2) stEccUncorr 0]) = none :=
  ⟨saveState 0x11, begunState (saveState 0x11) 0 0x11, begunCmd (saveState 0x11) 0 0x11, by rfl, by decide +kernel⟩

theorem meets_CountersAndPreemption_10 : ∃ (s : State) (u : State) (c : Cmd) (st : Nat) (d : Nat), s.begins 0 0x10 = some (u, c) ∧ firstFail (u.saveChecks c) = some (st, d) :=
  ⟨counterState 0x10 0, begunState (counterState 0x10 0) 0 0x10, begunCmd (counterState 0x10 0) 0 0x10, 0x22, 0, by rfl, by decide +kernel⟩

theorem meets_CountersAndPreemption_11 : ∃ (s : State) (j : Nat), j < 8 ∧ (s.slot j).state = 1 ∧ ((∀ l ∈ s.live, l.cmd.job ≠ j)) ∧ s.pfx.loads = [] :=
  ⟨jobState 1, 2, by decide +kernel⟩

theorem meets_CountersAndPreemption_12 : ∃ (s : State) (j : Nat) (l : Live), j < 8 ∧ (s.slot j).state = 1 ∧ s.live = [l] ∧ l.cmd.job = j ∧ l.cmd.engine = 7 ∧ l.restartable = true ∧ s.pfx.loads = [] :=
  ⟨{ jobState 1 with live := [{ cmd := { engine := 7, job := 2 } }] }, 2, { cmd := { engine := 7, job := 2 } }, by decide +kernel⟩

theorem meets_CountersAndPreemption_13 : ∃ (s : State) (j : Nat) (l : Live), j < 8 ∧ (s.slot j).state = 1 ∧ s.live = [l] ∧ l.cmd.job = j ∧ l.restartable = false :=
  ⟨{ jobState 1 with live := [{ cmd := { engine := 7, job := 2 }, restartable := false }] }, 2, { cmd := { engine := 7, job := 2 }, restartable := false }, by decide +kernel⟩

theorem meets_CountersAndPreemption_14 : ∃ (s : State) (j : Nat), j < 8 ∧ ((s.slot j).state = 2 ∨ (s.slot j).state = 3) :=
  ⟨jobState 3, 2, by decide +kernel⟩

theorem meets_CountersAndPreemption_15 : ∃ (s : State) (j : Nat) (c : Cmd), j < 8 ∧ s.hasJob j = true ∧ ((∀ l ∈ s.live, l.cmd.job ≠ j)) ∧ c.job = j ∧ ((List.range 11).flatMap fun e => s.queue e j) = [c] :=
  ⟨counterState 4 0, 0, { engine := 0, opcode := 4, arg := 0x1000 }, by decide +kernel⟩

theorem meets_CountersAndPreemption_16 : ∃ (s : State) (j : Nat), j < 8 ∧ (s.slot j).state = 0 ∧ s.hasJob j = false :=
  ⟨{}, 7, by decide +kernel⟩

theorem meets_Teardown_1 : ∃ (s : State) (j : Nat), j < 8 ∧ (s.slot j).state = 4 ∧ s.drained j = true :=
  ⟨jobState 4, 2, by decide +kernel⟩

theorem meets_Teardown_2 : ∃ (s : State) (j : Nat), j < 8 ∧ (s.slot j).state = 4 ∧ s.drained j = false :=
  ⟨{ jobState 4 with live := [{ cmd := { engine := 7, job := 2 } }] }, 2, by decide +kernel⟩

theorem meets_Teardown_3 : ∃ (s : State) (j : Nat), j < 8 ∧ (s.slot j).state = 5 ∧ s.scrubs.all (fun x => x.job != some j) = true :=
  ⟨jobState 5, 2, by decide +kernel⟩

theorem meets_Teardown_4 : ∃ (s : State) (j : Nat), j < 8 ∧ (s.slot j).state ≠ 5 :=
  ⟨jobState 4, 2, by decide +kernel⟩

theorem meets_Teardown_5 : ∃ (s : State) (k : Nat), k < 256 ∧ (s.core k).scrubbing = true :=
  ⟨{ cores := [(3, { scrubbing := true, s := [(1, 5)] })] }, 3, by decide +kernel⟩

theorem meets_Teardown_6 : ∃ (s : State) (k : Nat), k < 256 ∧ (s.core k).scrubbing = false :=
  ⟨{}, 255, by decide⟩

theorem meets_Teardown_7 : ∃ (s : State) (x : Scrub) (r : List Scrub), s.scrubs = x :: r :=
  ⟨{ scrubs := [⟨0, 64, none⟩], mem := Memory.writeAll {} [(0, [1]), (64, [2])] }, ⟨0, 64, none⟩, [], by decide +kernel⟩

theorem meets_Teardown_8 : ∃ (s : State), s.scrubs = [] :=
  ⟨{}, by decide⟩

/-- A running device, ID 0, with port 0 up; TTAB gives its slots to job slot 0. -/
def fabState (f : Port → Port) : State :=
  { fab := { fabId := 0 }, bld := { applied := true, hop0 := [{ phys := 0, en := true }], cur := { ttab := List.replicate 15 0 } }
    ht := { state := .locked }, pwr := { pwrOk := true }, ports := [(0, f { state := 3 })] }

def reqFlit : Flit := { vc := 2, hop := 1, route := 0xC0, src := 1, dst := 0, typ := 0x10, payload := zeros 240 }

def streamFlit : Flit := { vc := 1, hop := 1, route := 0xC0, src := 1, dst := 0, typ := 8, payload := zeros 240 }

def deadFlit : Flit := { reqFlit with route := 0x10 }

/-- A flit with the tag that a peer without keys gives its first position. -/
def sealedOf (f : Flit) : Flit := { f with tag := tagOf (sealFlit [] [] 0 f) }

def sealedReq : Flit := sealedOf reqFlit

/-- Such a flit passes its check. -/
theorem verifies_sealed (f : Flit) : ((fabState id).port 0).verifies (sealedOf f) 0 = true := by
  have h : (fabState id).port 0 = { state := 3 } := by decide +kernel
  rw [h]
  simp [Port.verifies, sealedOf, sealFlit, flitHeader]

def retryFlit : KeptFlit := { slot := 1, pos := 3, flit := streamFlit }

/-- At the end of a congestion period of one frame; the fabric manager is device 1, on port 0 when `path` is set. -/
def congState (path : Bool) : State :=
  let s := fabState fun p => { p with credits := [(6, 4)], congArb := 3 }
  { s with mem := if path then Memory.writeAll {} [(ssramBase + 16, leBytes 4 0xC0)] else {}
           bld := { s.bld with cur := { s.bld.cur with st := [(0x2F0008, 0x80000), (0x2F0010, 0x10001)] } } }

theorem meets_FlitsReceived_1 : ∃ (s : State) (p : Nat) (m : Nat) (f : Flit), p < 12 ∧ s.portUp p = true ∧ (s.port p).verifies f m = true ∧ f.typ = 0x10 ∧ (f.vc = 2 ∨ f.vc = 3) ∧ f.seq = (s.port p).rxLseq ∧ s.neighbourOnly = false ∧ s.hopAction f = .deliver ∧ (f.dst = 0xFFFF ∨ f.dst = s.fab.fabId) :=
  ⟨fabState id, 0, 0, sealedReq, by decide, by decide +kernel, verifies_sealed _, by decide +kernel⟩

theorem meets_FlitsReceived_2 : ∃ (s : State) (p : Nat) (m : Nat) (f : Flit), p < 12 ∧ s.portUp p = true ∧ (s.port p).verifies f m = true ∧ f.typ ≠ 0 ∧ f.typ ≠ 1 ∧ f.vc ≠ 1 ∧ f.seq ≠ (s.port p).rxLseq ∧ (f.seq - (s.port p).rxLseq).toNat < 2048 ∧ (s.port p).nak = none :=
  ⟨fabState id, 0, 0, sealedOf { reqFlit with seq := 5 }, by decide, by decide +kernel, verifies_sealed _, by decide +kernel⟩

theorem meets_FlitsReceived_3 : ∃ (s : State) (p : Nat) (m : Nat) (f : Flit) (ok : Bool), p < 12 ∧ s.portUp p = true ∧ (ok && (s.port p).verifies f m) = false ∧ f.typ ≠ 0 ∧ f.typ ≠ 1 ∧ f.vc ≠ 1 ∧ (s.port p).nak = none :=
  ⟨fabState id, 0, 0, reqFlit, false, by decide +kernel⟩

theorem meets_FlitsReceived_4 : ∃ (s : State) (p : Nat) (m : Nat) (ps : Nat) (f : Flit) (ok : Bool) (h : Nat × Nat), p < 12 ∧ s.portUp p = true ∧ (ok && (s.port p).verifies f m) = false ∧ f.vc = 1 ∧ (s.port p).vc1Place f (s.sentSlot p ps) ps = h ∧ ((f.retry = false → h = (s.sentSlot p ps, ps))) ∧ h ∉ (s.port p).holes :=
  ⟨fabState id, 0, 0, 3, streamFlit, false, (0, 3), by decide +kernel⟩

theorem meets_FlitsReceived_5 : ∃ (s : State) (p : Nat) (m : Nat) (sl : Nat) (ps : Nat) (at' : Nat) (j : Nat) (f : Flit), p < 12 ∧ s.portUp p = true ∧ (s.port p).verifies f m = true ∧ f.vc = 1 ∧ f.typ = 8 ∧ (s.port p).vc1Place f (s.sentSlot p ps) ps = (sl, at') ∧ ((f.retry = false → sl = s.sentSlot p ps ∧ at' = ps)) ∧ s.slotOwner p sl = some j ∧ s.neighbourOnly = false ∧ s.hopAction f = .deliver ∧ (f.dst = 0xFFFF ∨ f.dst = s.fab.fabId) :=
  ⟨fabState id, 0, 0, 0, 3, 3, 0, sealedOf streamFlit, by decide, by decide +kernel, verifies_sealed _, by decide +kernel⟩

theorem meets_FlitsReceived_6 : ∃ (s : State) (p : Nat) (m : Nat) (f : Flit), p < 12 ∧ s.portUp p = true ∧ (s.port p).verifies f m = true ∧ f.typ = 0x10 ∧ (f.vc = 2 ∨ f.vc = 3) ∧ f.seq = (s.port p).rxLseq ∧ s.neighbourOnly = false ∧ s.hopAction f = .dead :=
  ⟨fabState id, 0, 0, sealedOf deadFlit, by decide, by decide +kernel, verifies_sealed _, by decide +kernel⟩

theorem meets_FlitsReceived_7 : ∃ (s : State) (p : Nat), p < 12 ∧ s.portUp p = false :=
  ⟨{}, 11, by decide +kernel⟩

theorem meets_FlitsReceived_8 : ∃ (s : State) (p : Nat) (m : Nat) (f : Flit), p < 12 ∧ s.portUp p = true ∧ (s.port p).verifies f m = true ∧ f.typ.toNat ≤ 1 ∧ f.vc ≠ 0 :=
  ⟨fabState id, 0, 0, sealedOf { typ := 1, vc := 2 }, by decide, by decide +kernel, verifies_sealed _, by decide +kernel⟩

theorem meets_LinkControlAndReports_1 : ∃ (s : State) (p : Nat), p < 12 ∧ s.positionOpen p = true ∧ s.lctlDue p = true ∧ s.withinLimit p 0 = true :=
  ⟨fabState fun p => { p with lctlNew := true }, 0, by decide +kernel⟩

theorem meets_LinkControlAndReports_2 : ∃ (s : State) (p : Nat), p < 12 ∧ s.lctlDue p = false :=
  ⟨{}, 11, by decide +kernel⟩

theorem meets_LinkControlAndReports_3 : ∃ (s : State) (p : Nat) (i : Nat) (m : Lctl) (a : BitVec 12), p < 12 ∧ s.portUp p = true ∧ m.ack = some a ∧ m.nak = none ∧ (s.port p).unacked.findIdx? (fun f => f.seq == a) = some i :=
  ⟨fabState fun p => { p with unacked := [reqFlit], credits := [(2, 5)] }, 0, 0, { ack := some 0, nak := none, freed := [0, 0, 3, 0, 0, 0, 0, 0], holes := [] }, 0, by decide +kernel⟩

theorem meets_LinkControlAndReports_4 : ∃ (s : State) (p : Nat) (m : Lctl) (n : BitVec 12), p < 12 ∧ s.portUp p = true ∧ m.ack = none ∧ m.nak = some n :=
  ⟨fabState fun p => { p with unacked := [reqFlit] }, 0, { ack := none, nak := some 0, freed := zeros 8, holes := [] }, 0, by decide +kernel⟩

theorem meets_LinkControlAndReports_5 : ∃ (s : State) (p : Nat) (i : Nat) (n : BitVec 12) (f : Flit), p < 12 ∧ s.positionOpen p = true ∧ s.nextSource p (s.retryWaits p) = some .again ∧ (s.port p).resendAt = some n ∧ (s.port p).unacked.findIdx? (fun f => f.seq == n) = some i ∧ (s.port p).unacked[i]? = some f ∧ f.typ ≠ 0x04 :=
  ⟨fabState fun p => { p with unacked := [reqFlit], resendAt := some 0 }, 0, 0, 0, reqFlit, by decide +kernel⟩

theorem meets_LinkControlAndReports_6 : ∃ (s : State) (p : Nat) (k : KeptFlit) (r : List KeptFlit), p < 12 ∧ s.positionOpen p = true ∧ s.nextSource p (s.retryWaits p) = some .vc1Retry ∧ (s.port p).retries s.now = k :: r :=
  ⟨{ fabState fun p => { p with kept := [retryFlit], retry := [(1, 3)], lctlSlot := some 15 } with ht := { state := .locked, count := 2400 } }, 0, retryFlit, [], by decide +kernel⟩

theorem meets_LinkControlAndReports_7 : ∃ (s : State) (p : Nat), p < 12 ∧ s.now / slotLen % 16 ≠ 15 :=
  ⟨{}, 11, by decide +kernel⟩

theorem meets_LinkControlAndReports_8 : ∃ (s : State) (p : Nat) (c : Nat), p < 12 ∧ s.portUp p = true ∧ 1 ≤ c ∧ c ≤ 4 ∧ s.downCond p c = true :=
  ⟨fabState fun p => { p with unacked := [reqFlit], fourFails := true, txq := [{ flit := reqFlit, inPort := some 1, inVc := 2 }] }, 0, 2, by decide +kernel⟩

theorem meets_LinkControlAndReports_9 : ∃ (s : State) (p : Nat), p < 12 ∧ s.portUp p = false :=
  ⟨{}, 11, by decide +kernel⟩

theorem meets_LinkControlAndReports_10 : ∃ (s : State) (p : Nat), p < 12 ∧ s.portUp p = true ∧ s.portSeated p = false :=
  ⟨fabState id, 0, by decide +kernel⟩

theorem meets_LinkControlAndReports_11 : ∃ (s : State) (p : Nat) (c : Nat), p < 12 ∧ s.downCond p c = false :=
  ⟨{}, 11, 6, by decide +kernel⟩

theorem meets_LinkControlAndReports_12 : ∃ (p : Nat), p < 12 :=
  ⟨11, by decide⟩

theorem meets_LinkControlAndReports_13 : ∃ (s : State) (e : ErrRsp) (r : List ErrRsp), s.fab.errRsps = e :: r ∧ e.foundAt + 8 ≤ s.boot.sincePwrOk ∧ e.dst = s.devId :=
  ⟨{ boot := { sincePwrOk := 8 }, fab := { fabId := 0, errRsps := [{ status := 0x33, dst := 0, head := zeros 32 }] } }, { status := 0x33, dst := 0, head := zeros 32 }, [], by decide +kernel⟩

theorem meets_LinkControlAndReports_14 : ∃ (s : State) (e : ErrRsp) (r : List ErrRsp), s.fab.errRsps = e :: r ∧ e.foundAt + 8 ≤ s.boot.sincePwrOk ∧ e.dst ≠ s.devId ∧ s.chooseRoute e.dst 4 (flowKey (leAt e.head 8 8)) = none :=
  ⟨{ boot := { sincePwrOk := 8 }, fab := { fabId := 0, errRsps := [{ status := 0x33, dst := 1, head := zeros 32 }] } }, { status := 0x33, dst := 1, head := zeros 32 }, [], by decide +kernel⟩

theorem meets_LinkControlAndReports_15 : ∃ (s : State) (e : ErrRsp) (r : List ErrRsp), s.fab.errRsps = e :: r ∧ s.boot.sincePwrOk < e.foundAt + 8 :=
  ⟨{ fab := { errRsps := [{ status := 0x33, dst := 0, head := [] }] } }, { status := 0x33, dst := 0, head := [] }, [], by decide +kernel⟩

theorem meets_LinkControlAndReports_16 : ∃ (s : State), s.fab.errRsps = [] :=
  ⟨{}, by decide⟩

theorem meets_LinkControlAndReports_17 : ∃ (s : State) (n : Nat), field (s.st 0x2F0010) 31 16 = n ∧ n ≠ 0 ∧ s.counting = true ∧ s.now % (n * frameLen) = 0 ∧ s.fab.congAt ≠ some s.now ∧ s.chooseRoute (field (s.st 0x2F0010) 15 0) 6 0 = none :=
  ⟨congState false, 1, by decide +kernel⟩

theorem meets_LinkControlAndReports_18 : ∃ (s : State) (n : Nat) (r : BitVec 32) (h : HopEntry), field (s.st 0x2F0010) 31 16 = n ∧ n ≠ 0 ∧ s.counting = true ∧ s.now % (n * frameLen) = 0 ∧ s.fab.congAt ≠ some s.now ∧ s.chooseRoute (field (s.st 0x2F0010) 15 0) 6 0 = some r ∧ s.routeAllowed r 6 = true ∧ s.firstHop r = some h ∧ (s.port h.phys).credit 6 ≠ 0 :=
  ⟨congState true, 1, 0xC0, { phys := 0, en := true }, by decide +kernel⟩

theorem meets_LinkControlAndReports_19 : ∃ (s : State), (field (s.st 0x2F0010) 31 16 = 0 ∨ s.fab.congAt = some s.now) :=
  ⟨{}, by decide +kernel⟩

def ktlState (f : Kettle → Kettle) (st : Sparse Word := []) : State :=
  { pwr := { pwrOk := true }, ktl := f {}, bld := { cur := { st } }, ht := { state := .locked } }

def heated (s : State) (rs : List (BitVec 16)) : State :=
  { s with ktl := { s.ktl with heatAt := some (s.boot.sincePwrOk / 100000), temps := (List.range (min rs.length 11)).foldl (fun t n => tset 0 t n (rs.getD n 0)) s.ktl.temps } }

/-- An FM_ID of 1, with a route over port 0. -/
def fmState (f : TroubleLog → TroubleLog) : State :=
  let s := fabState fun p => { p with credits := [(6, 4), (7, 4)] }
  { s with mem := Memory.writeAll {} [(ssramBase + 16, leBytes 4 0xC0)], log := f {}
           bld := { s.bld with cur := { s.bld.cur with st := [(0x2F0008, 0x80000), (0x2F0010, 1)] } } }

/-- The payload of an envelope message (Table 19-2). -/
def envBytes (m : EnvMsg) : List Byte :=
  [0x21, 0, 0, 0] ++ leBytes 4 m.seq.toNat ++ leBytes 8 m.at' ++ leBytes 8 m.expiry ++ leBytes 2 m.ceil1ms ++ leBytes 2 m.ceil1s ++
  leBytes 2 m.floor ++ leBytes 2 m.slewUp ++ leBytes 2 m.slewDn ++ zeros 206

def envBlendState : State := ktlState id [(0x030000, 0x100200)]

def controlWitness : ControlOut := controlStep 0 0 2000000 10000000 100000 30000000 0 0 1875000

def exportOf (s : State) : State :=
  (s.inject 6 0x18 s.fmId 0 (leBytes 1 0x4C ++ leBytes 1 7 ++ zeros 6 ++ leBytes 8 0 ++ (List.replicate 7 ({} : Export)).flatMap fun e => e.entry.bytes)).getD s

def alarmOf (s : State) : State := (State.inject { s with log := { s.log with alarms := [], alarmMerge := none } } 7 0x1C s.fmId 0 (LogEntry.bytes { cls := 5 } ++ leBytes 2 s.fab.fabId.toNat)).getD s

/-- The telemetry period is over; FM_ID is 1, with a route over port 0. -/
def telState : State :=
  let s := fmState id
  { s with bld := { s.bld with cur := { s.bld.cur with st := [(0x030018, 0x10000), (0x2F0008, 0x80000), (0x2F0010, 1)] } } }

def tripState : State := { counterState 4 0 with pwr := { pwrOk := true } }

/-- A job whose one running command is a task on core 0, as an overdraw has held for 1 ms. -/
def killState : State :=
  { ktl := { overdrawSince := some 0 }, boot := { sincePwrOk := 1000000 }, bld := { cur := { jobs := [{ jobId := 7 }], cores := [0] } }
    jobs := [(0, { state := 1 })], live := [{ cmd := taskCmd }], cores := [(0, { run := .issuing, tasks := [taskCmd] })] }

theorem meets_KettleControlAndHeat_1 : ∃ (s : State) (v : Nat) (i : Nat) (o : ControlOut), s.pwr.pwrOk = true ∧ s.ktl.stepAt ≠ some (s.boot.sincePwrOk / 1000) ∧ controlStep (4 * v * i - s.ktl.applied s.boot.sincePwrOk) s.ktl.sPrev (s.envNow.floor * 1000000) (s.envNow.slewUp * 100000) (s.envNow.slewDn * 100000) ((min (min (s.envNow.ceil1ms * 1000000) (s.envNow.ceil1s * 1000000)) (90000 * v) : Nat) : Int) s.rampUp s.rampDown s.ballastCap = o ∧ o.b ≠ 0 :=
  ⟨{ ktlState id [(0x030000, 0x64002064064)] with boot := { coreMask := 1 } }, 200, 0, ⟨2000000, 1875000, false, some 3⟩, by decide +kernel⟩

theorem meets_KettleControlAndHeat_2 : ∃ (s : State) (v : Nat) (i : Nat), s.pwr.pwrOk = true ∧ s.ktl.stepAt ≠ some (s.boot.sincePwrOk / 1000) ∧ s.ballastCap = 0 ∧ s.ktl.draws = [] ∧ s.ktl.overdrawSince = none ∧ min (s.envNow.ceil1ms * 1000000) (90000 * v) < 4 * v * i :=
  ⟨ktlState id, 200, 30000, by decide +kernel⟩

theorem meets_KettleControlAndHeat_3 : ∃ (c : Int), 0 ≤ c :=
  ⟨3, by decide⟩

theorem meets_KettleControlAndHeat_4 : ∃ (s : State), (s.pwr.pwrOk = false ∨ s.ktl.stepAt = some (s.boot.sincePwrOk / 1000)) :=
  ⟨{}, by decide⟩

theorem meets_KettleControlAndHeat_5 : ∃ (n : Nat), n < 16 :=
  ⟨3, by decide⟩

theorem meets_KettleControlAndHeat_6 : ∃ (s : State) (n : Nat), s.ktl.overdrawSince = some n ∧ n + 1000000 ≤ s.boot.sincePwrOk ∧ ((∀ j, j < 8 → s.hasJob j = false)) :=
  ⟨{ ktlState (fun k => { k with overdrawSince := some 0 }) with boot := { sincePwrOk := 1000000 } }, 0, by decide +kernel⟩

theorem meets_KettleControlAndHeat_7 : ∃ (s : State) (n : Nat) (j : Nat) (c : Cmd), s.ktl.overdrawSince = some n ∧ n + 1000000 ≤ s.boot.sincePwrOk ∧ j < 8 ∧ s.hasJob j = true ∧ ((∀ i, i < 8 → i ≠ j → s.hasJob i = false)) ∧ s.live = [] ∧ c.job = j ∧ ((List.range 11).flatMap fun e => s.queue e j) = [c] ∧ ((∀ i, i < 8 → i ≠ j → ∀ e, e < 11 → s.queue e i = [])) :=
  ⟨{ counterState 4 0 with ktl := { overdrawSince := some 0 }, boot := { sincePwrOk := 1000000 } }, 0, 0, { engine := 0, opcode := 4, arg := 0x1000 }, by decide +kernel⟩

theorem meets_KettleControlAndHeat_8 : ∃ (s : State) (n : Nat) (j : Nat) (l : Live), s.ktl.overdrawSince = some n ∧ n + 1000000 ≤ s.boot.sincePwrOk ∧ j < 8 ∧ s.hasJob j = true ∧ ((∀ i, i < 8 → i ≠ j → s.hasJob i = false)) ∧ s.live = [l] ∧ l.cmd.job = j ∧ l.cmd.engine = 1 ∧ s.canStop l = true ∧ ((∀ e, e < 11 → s.queue e j = [])) ∧ s.pfx.loads = [] :=
  ⟨killState, 0, 0, { cmd := taskCmd }, by decide +kernel⟩

theorem meets_KettleControlAndHeat_9 : ∃ (s : State) (n : Nat), s.ktl.overdrawSince = some n ∧ s.boot.sincePwrOk < n + 1000000 :=
  ⟨{ ktlState (fun k => { k with overdrawSince := some 1 }) with boot := { sincePwrOk := 1000000 } }, 1, by decide +kernel⟩

theorem meets_KettleControlAndHeat_10 : ∃ (s : State), s.ktl.overdrawSince = none :=
  ⟨{}, by decide⟩

theorem meets_KettleControlAndHeat_11 : ∃ (s : State) (u : State) (rs : List (BitVec 16)) (n : Nat), s.pwr.pwrOk = true ∧ s.ktl.heatAt ≠ some (s.boot.sincePwrOk / 100000) ∧ { s with ktl := { s.ktl with heatAt := some (s.boot.sincePwrOk / 100000), temps := (List.range (min rs.length 11)).foldl (fun t n => tset 0 t n (rs.getD n 0)) s.ktl.temps } } = u ∧ u.hot (·.2.2) = some n :=
  ⟨ktlState id, heated (ktlState id) [115 * 16], [115 * 16], 0, by decide +kernel⟩

theorem meets_KettleControlAndHeat_12 : ∃ (s : State) (u : State) (rs : List (BitVec 16)) (n : Nat), s.pwr.pwrOk = true ∧ s.ktl.heatAt ≠ some (s.boot.sincePwrOk / 100000) ∧ { s with ktl := { s.ktl with heatAt := some (s.boot.sincePwrOk / 100000), temps := (List.range (min rs.length 11)).foldl (fun t n => tset 0 t n (rs.getD n 0)) s.ktl.temps } } = u ∧ u.hot (·.2.2) = none ∧ u.hot (·.2.1) = some n ∧ s.ktl.therm ≠ 2 ∧ ((∀ j, j < 8 → s.hasJob j = false)) :=
  ⟨ktlState id, heated (ktlState id) [105 * 16], [105 * 16], 0, by decide +kernel⟩

theorem meets_KettleControlAndHeat_13 : ∃ (s : State) (u : State) (rs : List (BitVec 16)) (n : Nat) (j : Nat) (c : Cmd), s.pwr.pwrOk = true ∧ s.ktl.heatAt ≠ some (s.boot.sincePwrOk / 100000) ∧ { s with ktl := { s.ktl with heatAt := some (s.boot.sincePwrOk / 100000), temps := (List.range (min rs.length 11)).foldl (fun t n => tset 0 t n (rs.getD n 0)) s.ktl.temps } } = u ∧ u.hot (·.2.2) = none ∧ u.hot (·.2.1) = some n ∧ s.ktl.therm ≠ 2 ∧ j < 8 ∧ s.hasJob j = true ∧ ((∀ i, i < 8 → i ≠ j → s.hasJob i = false)) ∧ s.live = [] ∧ c.job = j ∧ ((List.range 11).flatMap fun e => s.queue e j) = [c] :=
  ⟨tripState, heated tripState [105 * 16], [105 * 16], 0, 0, { engine := 0, opcode := 4, arg := 0x1000 }, by decide +kernel⟩

theorem meets_KettleControlAndHeat_14 : ∃ (s : State) (u : State) (rs : List (BitVec 16)) (n : Nat), s.pwr.pwrOk = true ∧ s.ktl.heatAt ≠ some (s.boot.sincePwrOk / 100000) ∧ { s with ktl := { s.ktl with heatAt := some (s.boot.sincePwrOk / 100000), temps := (List.range (min rs.length 11)).foldl (fun t n => tset 0 t n (rs.getD n 0)) s.ktl.temps } } = u ∧ u.hot (·.2.2) = none ∧ u.hot (·.2.1) = none ∧ u.hot (·.1) = some n ∧ s.ktl.therm = 0 :=
  ⟨ktlState id, heated (ktlState id) [0, 95 * 16], [0, 95 * 16], 1, by decide +kernel⟩

theorem meets_KettleControlAndHeat_15 : ∃ (s : State), (s.pwr.pwrOk = false ∨ s.ktl.heatAt = some (s.boot.sincePwrOk / 100000)) :=
  ⟨{}, by decide +kernel⟩

theorem meets_KettleControlAndHeat_16 : ∃ (s : State) (n : Nat), s.ktl.belowSince = some n ∧ s.ktl.therm = 2 ∧ n + 1000000000 ≤ s.boot.sincePwrOk :=
  ⟨{ ktlState (fun k => { k with therm := 2, belowSince := some 0 }) with boot := { sincePwrOk := 1000000000 } }, 0, by decide +kernel⟩

theorem meets_KettleControlAndHeat_17 : ∃ (s : State), s.ktl.belowSince = none :=
  ⟨{}, by decide⟩

theorem meets_EnvelopeMessages_1 : ∃ (m : EnvMsg), m.at' < 2 ^ 64 ∧ m.expiry < 2 ^ 64 ∧ m.ceil1ms < 65536 ∧ m.ceil1s < 65536 ∧ m.floor < 65536 ∧ m.slewUp < 65536 ∧ m.slewDn < 65536 :=
  ⟨{}, by decide⟩

theorem meets_EnvelopeMessages_2 : ∃ (b : List Byte), parseEnvelope b = none :=
  ⟨[], by decide +kernel⟩

theorem meets_EnvelopeMessages_3 : ∃ (s : State) (f : BitVec 16) (b : List Byte) (m : EnvMsg), parseEnvelope b = some m ∧ f ≠ 0xFFFF ∧ f.toNat = field (s.st 0x030018) 15 0 ∧ s.seqAhead m.seq = true ∧ s.now ≤ roundUp m.at' frameLen :=
  ⟨ktlState id [(0x030018, 5)], 5, envBytes { seq := 1, at' := 3000 }, { seq := 1, at' := 3000 }, by decide +kernel⟩

theorem meets_EnvelopeMessages_4 : ∃ (s : State) (f : BitVec 16) (b : List Byte) (m : EnvMsg), parseEnvelope b = some m ∧ f ≠ 0xFFFF ∧ f.toNat = field (s.st 0x030018) 15 0 ∧ s.seqAhead m.seq = true ∧ roundUp m.at' frameLen < s.now :=
  ⟨{ ktlState id [(0x030018, 5)] with ht := { state := .locked, count := 6000 } }, 5, envBytes { seq := 1, at' := 3000 }, { seq := 1, at' := 3000 }, by decide +kernel⟩

theorem meets_EnvelopeMessages_5 : ∃ (s : State) (f : BitVec 16) (b : List Byte) (m : EnvMsg), parseEnvelope b = some m ∧ (f.toNat ≠ field (s.st 0x030018) 15 0 ∨ s.seqAhead m.seq = false) :=
  ⟨ktlState (fun k => { k with msgAny := true, msgSeq := 1 }) [(0x030018, 5)], 5, envBytes { seq := 1 }, { seq := 1 }, by decide +kernel⟩

theorem meets_EnvelopeMessages_6 : ∃ (s : State) (m : EnvMsg) (r : List EnvMsg), s.ktl.msgQueue = m :: r ∧ m.at' ≤ s.now ∧ s.counting = true ∧ ((∀ x ∈ r, s.now < x.at')) :=
  ⟨{ ktlState (fun k => { k with msgQueue := [{ ceil1ms := 5 }, { at' := 2560 }] }) with ht := { state := .locked } }, { ceil1ms := 5 }, [{ at' := 2560 }], by decide +kernel⟩

theorem meets_EnvelopeMessages_7 : ∃ (s : State), s.ktl.msgQueue = [] :=
  ⟨{}, by decide⟩

theorem meets_EnvelopeMessages_8 : ∃ (s : State) (m : EnvMsg), s.ktl.msgActive = some m ∧ m.expiry ≠ 0 ∧ m.expiry ≤ s.now :=
  ⟨{ ktlState (fun k => { k with msgActive := some { expiry := 5 } }) with ht := { state := .locked, count := 5 } }, { expiry := 5 }, by decide +kernel⟩

theorem meets_EnvelopeMessages_9 : ∃ (s : State) (m : EnvMsg), s.ktl.msgActive = some m ∧ m.expiry = 0 :=
  ⟨ktlState (fun k => { k with msgActive := some {} }), {}, by decide +kernel⟩

theorem meets_EnvelopeMessages_10 : ∃ (s : State) (n : Nat), field (s.st 0x030018) 31 16 = n ∧ n ≠ 0 ∧ s.counting = true ∧ s.now % (n * frameLen) = 0 ∧ s.ktl.telAt ≠ some s.now ∧ s.creditTo (field (s.st 0x2F0010) 15 0) 6 = false :=
  ⟨ktlState id [(0x030018, 0x10000)], 1, by decide +kernel⟩

theorem meets_EnvelopeMessages_11 : ∃ (s : State) (u : State) (n : Nat), field (s.st 0x030018) 31 16 = n ∧ n ≠ 0 ∧ s.counting = true ∧ s.now % (n * frameLen) = 0 ∧ s.ktl.telAt ≠ some s.now ∧ s.creditTo (field (s.st 0x2F0010) 15 0) 6 = true ∧ s.inject 6 0x18 (field (s.st 0x2F0010) 15 0) 0 s.telemetry = some u :=
  ⟨telState, (telState.inject 6 0x18 1 0 telState.telemetry).getD telState, 1, by decide +kernel⟩

theorem meets_EnvelopeMessages_12 : ∃ (s : State), s.ktl.telAt = some s.now :=
  ⟨{ ktl := { telAt := some 0 } }, by decide +kernel⟩

theorem meets_EnvelopeMessages_13 : ∃ (s : State), field (s.st 0x030018) 31 16 = 0 :=
  ⟨{}, by decide +kernel⟩

theorem meets_TroubleLogRows_1 : ∃ (s : State) (st : Nat) (a : Nat), s.pwr.pwrOk = true ∧ s.patrolled st a = true ∧ s.log.badLines.contains (lineOf a) = false ∧ tget 0 s.log.corrected (eccKey st a) + 1 ≠ 16 :=
  ⟨{ pwr := { pwrOk := true } }, 7, 64, by decide +kernel⟩

theorem meets_TroubleLogRows_2 : ∃ (s : State) (st : Nat) (a : Nat) (e : EccFound), s.pwr.pwrOk = true ∧ st ≠ 8 ∧ s.patrolled st a = true ∧ (e = .uncorrectable ∨ s.log.badLines.contains (lineOf a) = true) :=
  ⟨{ pwr := { pwrOk := true } }, 3, padBase, .uncorrectable, by decide +kernel⟩

theorem meets_TroubleLogRows_3 : ∃ (s : State), s.pwr.pwrOk = true :=
  ⟨{ pwr := { pwrOk := true } }, by decide⟩

theorem meets_TroubleLogRows_4 : ∃ (a : Nat), a < gddrSize :=
  ⟨5, by decide +kernel⟩

theorem meets_TroubleLogRows_5 : ∃ (s : State) (c : Nat) (x : LogClass), c < 6 ∧ tget {} s.log.classes c = x ∧ x.coal = [] ∧ x.merge = none ∧ x.spent ≠ 0 ∧ s.log.dropPending = false ∧ x.refillAt + refillTime c ≤ s.boot.sincePwrOk :=
  ⟨{ boot := { sincePwrOk := 1000000 }, log := { classes := [(2, { spent := 3 })] } }, 2, { spent := 3 }, by decide +kernel⟩

theorem meets_TroubleLogRows_6 : ∃ (s : State) (c : Nat) (x : LogClass), c < 6 ∧ tget {} s.log.classes c = x ∧ s.log.dropPending = false ∧ (x.spent = 0 ∨ s.boot.sincePwrOk < x.refillAt + refillTime c) :=
  ⟨{}, 2, {}, by decide +kernel⟩

theorem meets_TroubleLogRows_7 : ∃ (s : State), s.log.dropPending = true ∧ s.log.unread < 6144 ∧ ((∀ n, s.log.lastReport = some n → n + 1000000 ≤ s.boot.sincePwrOk)) :=
  ⟨{ boot := { sincePwrOk := 1000000 }, log := { dropPending := true, dropCounts := [0, 2, 0, 0], lastReport := some 0 } }, by decide, by decide, fun n h => by cases h; decide⟩

theorem meets_TroubleLogRows_8 : ∃ (s : State), s.log.dropPending = false :=
  ⟨{}, by decide⟩

theorem meets_TroubleLogRows_9 : ∃ (s : State) (v : BitVec 64), s.log.rd ≤ v.toNat ∧ v.toNat ≤ s.log.wr ∧ s.log.classes = [] ∧ s.log.dropPending = false :=
  ⟨{ log := { wr := 5, rd := 1 } }, 4, by decide +kernel⟩

theorem meets_TroubleLogRows_10 : ∃ (s : State) (v : BitVec 64), v.toNat < s.log.rd :=
  ⟨{ log := { wr := 5, rd := 3 } }, 2, by decide +kernel⟩

theorem meets_TroubleLogRows_11 : ∃ (s : State) (u : State) (x : Export) (r : List Export), s.log.exports = x :: r ∧ 6 ≤ r.length ∧ s.fmId ≠ 0xFFFF ∧ s.inject 6 0x18 s.fmId 0 (leBytes 1 0x4C ++ leBytes 1 7 ++ zeros 6 ++ leBytes 8 (x.index % 8192) ++ ((x :: r).take 7).flatMap fun e => e.entry.bytes) = some u :=
  ⟨fmState fun l => { l with exports := List.replicate 8 {} }, (exportOf (fmState fun l => { l with exports := List.replicate 8 {} })), {}, List.replicate 7 {}, by decide +kernel⟩

theorem meets_TroubleLogRows_12 : ∃ (s : State) (x : Export), s.log.exports = [x] ∧ s.boot.sincePwrOk < x.at' + 10000 :=
  ⟨{ log := { exports := [{ at' := 1 }] }, boot := { sincePwrOk := 10000 } }, { at' := 1 }, by decide +kernel⟩

theorem meets_TroubleLogRows_13 : ∃ (s : State) (u : State) (e : LogEntry) (r : List LogEntry), s.log.alarms = e :: r ∧ s.fmId ≠ 0xFFFF ∧ State.inject { s with log := { s.log with alarms := r } } 7 0x1C s.fmId 0 (e.bytes ++ leBytes 2 s.fab.fabId.toNat) = some u :=
  ⟨fmState fun l => { l with alarms := [{ cls := 5 }] }, alarmOf (fmState fun l => { l with alarms := [{ cls := 5 }] }), { cls := 5 }, [], by decide +kernel⟩

theorem meets_TroubleLogRows_14 : ∃ (s : State) (u : State) (e : LogEntry), s.log.alarms = [] ∧ s.log.alarmMerge = some e ∧ s.fmId ≠ 0xFFFF ∧ State.inject { s with log := { s.log with alarmMerge := none } } 7 0x1C s.fmId 0 (e.bytes ++ leBytes 2 s.fab.fabId.toNat) = some u :=
  ⟨fmState fun l => { l with alarmMerge := some { cls := 5 } }, alarmOf (fmState fun l => { l with alarms := [] }), { cls := 5 }, by decide +kernel⟩

theorem meets_TroubleLogRows_15 : ∃ (s : State), s.fmId = 0xFFFF :=
  ⟨ktlState id [(0x2F0010, 0xFFFF)], by decide +kernel⟩

/-- Infusion set 2 of job slot 0: set words at the start of Stack SRAM, regions of 256 bytes of GDDR7 at 0x40000 and 0x80000. -/
def infBlend : Blend :=
  { planBlend with st := [(0x140100, 0), (0x140240, 1 + 4 * 16), (0x140248, 0x40), (0x140250, 0x80), (0x140258, 1)] }

def infState (op : Nat) (params : List Byte) (slots : List (Nat × List Byte) := []) (data : List (Nat × List Byte) := []) (x : InfSet := {}) : State :=
  { planState 6 op params slots data with
    bld := { cur := infBlend, hop0 := [{ phys := 0, en := true }] }, inf := { sets := [(2, x)] } }

def streamBlock (t : Nat) : List Byte := [2, 0] ++ leBytes 2 1 ++ leBytes 2 1 ++ [0, 0] ++ leBytes 4 0 ++ zeros 4 ++ leBytes 4 0xC0 ++ zeros 4 ++
  leBytes 8 t ++ zeros 32

def outStreamState : State := infState 1 (streamBlock 0) [(0, vecDesc 0x20000 9 240 240)]

def lateOut : State := { outStreamState with ht := { state := .locked, count := 9 } }

def shardHead (crc : Nat) : List Byte :=
  streamHeader 1 5 0 1 0 9 2 0 crc (leBytes 8 5 ++ leBytes 8 0 ++ leBytes 8 4 ++ leBytes 4 7)

def shardHd (crc : Nat) : RxFlit := ⟨1, 0, 0, 0, shardHead crc⟩

def shardData : RxFlit := ⟨1, 0, 0, 1, [1, 2, 3, 4] ++ zeros 236⟩

def shardState (crc : Nat) (x : InfSet) : State :=
  let s := infState 1 []
  { s with inf := { sets := [(2, x)] }, spt := { rx := [shardHd crc, shardData] }, bld := { s.bld with cur := { s.bld.cur with ttab := List.replicate 15 0 } } }

def acceptRun : AcceptRun := { cmd := { engine := 6, opcode := 2 }, version := 5, nshards := 1, done := [], deadline := 3 }

def shadowSet : InfSet := { r0 := .shadow, accept := some acceptRun }

def acceptBlock : List Byte := [2, 0] ++ leBytes 2 1 ++ zeros 4 ++ leBytes 8 5 ++ zeros 48

def accState (x : InfSet) : State := infState 2 acceptBlock [] [] x

def swapState : State :=
  { infState 3 ([2, 3] ++ zeros 62) with ht := { state := .locked, timers := [(3, { owner := 0x003 })] } }

def seqState (op n : Nat) (x : InfSet) : State :=
  infState op (2 :: zeros 63) [(0, vecDesc 0x20000 0xA n (4 * n))] [(0x20000, leBytes 4 1 ++ leBytes 4 1)] x

theorem meets_InfusionStreams_1 : ∃ (s : State) (u : State) (c : Cmd) (b : List Byte) (om : List Nat), s.begins 6 1 = some (u, c) ∧ firstFail (u.infuserStreamChecks c) = none ∧ u.params c = b ∧ u.omega (u.lanePort (streamLane b)) (u.posJob c.job) = om ∧ om ≠ [] ∧ u.now ≤ u.streamStart b :=
  ⟨outStreamState, begunState outStreamState 6 1, begunCmd outStreamState 6 1, streamBlock 0, [0], by rfl, by decide +kernel⟩

theorem meets_InfusionStreams_2 : ∃ (s : State) (u : State) (c : Cmd) (b : List Byte), s.begins 6 1 = some (u, c) ∧ firstFail (u.infuserStreamChecks c) = none ∧ u.params c = b ∧ u.streamStart b < u.now :=
  ⟨lateOut, begunState lateOut 6 1, begunCmd lateOut 6 1, streamBlock 0, by rfl, by decide +kernel⟩

theorem meets_InfusionStreams_3 : ∃ (s : State) (j : Nat) (c : Cmd) (r : List Cmd), j < 8 ∧ s.queue 6 j = c :: r ∧ c.opcode = 1 ∧ c.job = j ∧ s.counting = true ∧ s.streamStart (s.params c) < s.now ∧ ((∀ i, i < j → s.queue 6 i = [])) :=
  ⟨lateOut, 0, { engine := 6, opcode := 1, arg := 0x1000 }, [], by decide +kernel⟩

theorem meets_InfusionStreams_4 : ∃ (s : State), ((∀ j, j < 8 → s.queue 6 j = [])) :=
  ⟨{}, by decide +kernel⟩

theorem meets_InfusionStreams_5 : ∃ (s : State) (n : Nat) (base : Nat) (h : RxFlit) (fs : List RxFlit), (s.streamHeaders n).findSome? s.wholeStream = some (h :: fs) ∧ (s.takeStream (h :: fs)).streamFits h.payload = some base ∧ crc32c (padTo (leAt h.payload 40 8) (fs.flatMap fun f => padTo 240 f.payload)) = leAt h.payload 20 4 :=
  ⟨shardState (crc32c [1, 2, 3, 4]) shadowSet, 1, 0x40000, shardHd (crc32c [1, 2, 3, 4]), [shardData], by decide +kernel⟩

theorem meets_InfusionStreams_6 : ∃ (s : State) (n : Nat) (base : Nat) (h : RxFlit) (fs : List RxFlit), (s.streamHeaders n).findSome? s.wholeStream = some (h :: fs) ∧ (s.takeStream (h :: fs)).streamFits h.payload = some base ∧ crc32c (padTo (leAt h.payload 40 8) (fs.flatMap fun f => padTo 240 f.payload)) ≠ leAt h.payload 20 4 :=
  ⟨shardState 0 shadowSet, 1, 0x40000, shardHd 0, [shardData], by decide +kernel⟩

theorem meets_InfusionStreams_7 : ∃ (s : State) (n : Nat) (h : RxFlit) (fs : List RxFlit), (s.streamHeaders n).findSome? s.wholeStream = some (h :: fs) ∧ (s.takeStream (h :: fs)).streamFits h.payload = none :=
  ⟨shardState 0 {}, 1, shardHd 0, [shardData], by decide +kernel⟩

theorem meets_InfusionStreams_8 : ∃ (s : State), s.spt.rx = [] :=
  ⟨{}, by decide⟩

theorem meets_InfusionSets_1 : ∃ (s : State) (u : State) (c : Cmd) (i : Nat) (b : List Byte), s.begins 6 2 = some (u, c) ∧ firstFail (u.acceptChecks c) = none ∧ u.params c = b ∧ leAt b 0 1 = i ∧ leAt b 2 2 ≠ 0 ∧ (u.infSet i).r0 = .free ∧ (u.infSet i).r1 ≠ .free :=
  ⟨accState { r1 := .live }, begunState (accState { r1 := .live }) 6 2, begunCmd (accState { r1 := .live }) 6 2, 2, acceptBlock, by rfl, by decide +kernel⟩

theorem meets_InfusionSets_2 : ∃ (s : State) (u : State) (c : Cmd) (i : Nat) (b : List Byte), s.begins 6 2 = some (u, c) ∧ firstFail (u.acceptChecks c) = none ∧ u.params c = b ∧ leAt b 0 1 = i ∧ leAt b 2 2 ≠ 0 ∧ (u.infSet i).r0 = .free ∧ (u.infSet i).r1 = .free :=
  ⟨accState {}, begunState (accState {}) 6 2, begunCmd (accState {}) 6 2, 2, acceptBlock, by rfl, by decide +kernel⟩

theorem meets_InfusionSets_3 : ∃ (s : State) (u : State) (c : Cmd) (st : Nat) (d : Nat), s.begins 6 2 = some (u, c) ∧ firstFail (u.acceptChecks c) = some (st, d) :=
  ⟨accState { r0 := .ready }, begunState (accState { r0 := .ready }) 6 2, begunCmd (accState { r0 := .ready }) 6 2, stStructure, 2, by rfl, by decide +kernel⟩

theorem meets_InfusionSets_4 : ∃ (s : State) (i : Nat) (a : AcceptRun) (one : Bool), i < 8 ∧ (s.infSet i).accept = some a ∧ a.done.length = a.nshards ∧ (s.infSet i).find .shadow = some one ∧ ((∀ w ∈ (s.infSet i).swaps, w.due = false)) :=
  ⟨{ inf := { sets := [(2, { r1 := .shadow, accept := some { acceptRun with done := [0] } })] } }, 2, { acceptRun with done := [0] }, true, by decide +kernel⟩

theorem meets_InfusionSets_5 : ∃ (s : State) (i : Nat) (a : AcceptRun) (w : SwapRun), i < 8 ∧ (s.infSet i).accept = some a ∧ a.done.length = a.nshards ∧ (s.infSet i).r0 = .shadow ∧ (s.infSet i).r1 ≠ .ready ∧ (s.infSet i).r1 ≠ .live ∧ (s.infSet i).swaps = [w] ∧ w.due = true :=
  ⟨{ inf := { sets := [(2, { r0 := .shadow, accept := some { acceptRun with done := [0] }, swaps := [{ cmd := { engine := 6, opcode := 3 }, timer := 3, t := 0, due := true }] })] } }, 2, { acceptRun with done := [0] }, { cmd := { engine := 6, opcode := 3 }, timer := 3, t := 0, due := true }, by decide +kernel⟩

theorem meets_InfusionSets_6 : ∃ (s : State) (i : Nat) (a : AcceptRun) (one : Bool), i < 8 ∧ (s.infSet i).accept = some a ∧ a.done.length ≠ a.nshards ∧ a.deadline < s.now ∧ (s.infSet i).find .shadow = some one :=
  ⟨{ inf := { sets := [(2, shadowSet)] }, ht := { state := .locked, count := 4 } }, 2, acceptRun, false, by decide +kernel⟩

theorem meets_InfusionSets_7 : ∃ (s : State) (i : Nat), i < 8 ∧ (s.infSet i).accept = none :=
  ⟨{}, 7, by decide⟩

theorem meets_InfusionSets_8 : ∃ (s : State) (u : State) (c : Cmd) (i : Nat) (n : Nat) (b : List Byte), s.begins 6 3 = some (u, c) ∧ firstFail (u.swapChecks c) = none ∧ u.params c = b ∧ leAt b 0 1 = i ∧ leAt b 1 1 = n :=
  ⟨swapState, begunState swapState 6 3, begunCmd swapState 6 3, 2, 3, [2, 3] ++ zeros 62, by rfl, by decide +kernel⟩

theorem meets_InfusionSets_9 : ∃ (s : State) (u : State) (c : Cmd) (i : Nat) (live : Bool), s.begins 6 4 = some (u, c) ∧ firstFail (u.seqBeginChecks c) = none ∧ leAt (u.params c) 0 1 = i ∧ (u.infSet i).find .live = some live :=
  ⟨seqState 4 2 { r0 := .live }, begunState (seqState 4 2 { r0 := .live }) 6 4, begunCmd (seqState 4 2 { r0 := .live }) 6 4, 2, false, by decide +kernel, by decide +kernel⟩

theorem meets_InfusionSets_10 : ∃ (s : State) (u : State) (c : Cmd) (i : Nat), s.begins 6 5 = some (u, c) ∧ firstFail (u.seqEndChecks c) = none ∧ leAt (u.params c) 0 1 = i ∧ (u.infSet i).find .old = none :=
  ⟨seqState 5 1 {}, begunState (seqState 5 1 {}) 6 5, begunCmd (seqState 5 1 {}) 6 5, 2, by decide +kernel, by decide +kernel⟩

theorem meets_InfusionSets_11 : ∃ (s : State) (i : Nat) (r : Nat), i < 8 ∧ r < 2 ∧ (s.infSet i).region (r == 1) = .cooling ∧ (if r = 1 then (s.infSet i).coolAt1 else (s.infSet i).coolAt0) ≤ s.now :=
  ⟨{ inf := { sets := [(2, { r1 := .cooling })] } }, 2, 1, by decide +kernel⟩

theorem meets_InfusionSets_12 : ∃ (s : State) (i : Nat) (r : Nat), i < 8 ∧ r < 2 ∧ (s.infSet i).region (r == 1) ≠ .cooling :=
  ⟨{}, 7, 0, by decide +kernel⟩

/-- Job slot 0 has one request record at 0x10000 of Stack SRAM, four blocks at most, pool 0, and a loaded key for tenant 1. -/
def pfxSt : Sparse Word := [(0x170100, BitVec.ofNat 64 (1 + 2 + 1 * 2 ^ 11 + 4 * 2 ^ 24)), (0x170108, 0x10)]

def reqBase : Nat := ssramBase + 0x10000

def pfxBase (op : Nat) (params : List Byte) (slots : List (Nat × List Byte)) (data : List (Nat × List Byte) := []) : State :=
  { engineState 9 op params slots data 0 0x1000 pfxSt with pfx := { keyValid := [(1, true)], keys := [(1, zeros 32)] } }

def hashState : State := pfxBase 1 (zeros 64) [(0, vecDesc 0x20000 0xA 64 256), (7, vecDesc 0x30000 0xA 4 16)]

def lookupState : State := pfxBase 2 (zeros 64) [(1, vecDesc 0x20000 0xA 4 16), (7, vecDesc 0x30000 0xA 3 12)]

def insertState (n : Nat) : State :=
  pfxBase 3 (zeros 4 ++ leBytes 4 n ++ zeros 56) [(1, vecDesc 0x20000 0xA 4 16), (7, vecDesc 0x30000 0xA 3 12)] [(reqBase + 22, leBytes 2 1)]

def admitBytes (deadline : Nat) : List Byte := zeros 8 ++ leBytes 8 deadline ++ zeros 4 ++ leBytes 4 0 ++ leBytes 4 0 ++ zeros 36

def admitState (deadline now : Nat) : State :=
  { pfxBase 4 (leBytes 8 1 ++ leBytes 4 1 ++ zeros 52) [(0, vecDesc 0x20000 0xA 16 64), (1, vecDesc 0x28000 0xA 0 0), (7, vecDesc 0x30000 0xA 3 12)]
    [(0x20000, admitBytes deadline)] with ht := { state := .locked, count := now } }

def admitX (s : State) : AdmitResult :=
  (begunState s 9 4).admitOne (begunCmd s 9 4) [] 1 1 [] (admitRow (admitBytes (if s.ht.count = 0 then 100 else 0)))

def growState : State :=
  { pfxBase 5 (zeros 4 ++ leBytes 4 1 ++ zeros 56) [] [(reqBase + 26, leBytes 2 1)] with
    bld := { cur := { jobs := [{ jobId := 7 }], st := [(0x130100, BitVec.ofNat 64 (1 + 2 ^ 44)), (0x130108, 4)] ++ pfxSt } } }

def reqState' (op flags st : Nat) (params : List Byte := zeros 64) : State :=
  pfxBase op params [] [(reqBase + 18, leBytes 1 st ++ leBytes 1 flags)]

def beginState : State := pfxBase 6 (zeros 4 ++ leBytes 4 4 ++ zeros 56) [(0, vecDesc 0x20000 0xA 1 4)] [(0x20000, leBytes 4 0), (reqBase + 18, [1, 2])]

def commitState : State :=
  let s := pfxBase 7 (zeros 64) [(0, vecDesc 0x20000 0xA 1 4), (7, vecDesc 0x30000 0xA 2 8)] [(0x20000, leBytes 4 9), (reqBase + 18, [2, 2])]
  { s with pfx := { s.pfx with steps := [(0, { busy := true, rows := [0], void := [false] })] } }

theorem meets_PrefixTableAndSteps_1 : ∃ (s : State) (u : State) (c : Cmd), s.begins 9 1 = some (u, c) ∧ firstFail (u.prefixHashChecks c) = none :=
  ⟨hashState, begunState hashState 9 1, begunCmd hashState 9 1, by rfl, by decide +kernel⟩

theorem meets_PrefixTableAndSteps_2 : ∃ (s : State) (u : State) (c : Cmd) (hs : List Nat) (hit : List Nat), s.begins 9 2 = some (u, c) ∧ firstFail (u.prefixLookupChecks c) = none ∧ hashesOf ((u.slotTensor c 1).read u.mem) = hs ∧ u.chain (u.pfxTenant c.job) 0 hs = hit :=
  ⟨lookupState, begunState lookupState 9 2, begunCmd lookupState 9 2, [0], [], by rfl, by decide +kernel⟩

theorem meets_PrefixTableAndSteps_3 : ∃ (s : State) (u : State) (v : State) (c : Cmd) (slot : Nat) (k : Nat), s.begins 9 3 = some (u, c) ∧ firstFail (u.prefixInsertChecks c) = none ∧ leAt (u.params c) 0 2 = slot ∧ u.insertBlocks c.job slot (u.reqGet c.job slot 24 2) 0 ((hashesOf ((u.slotTensor c 1).read u.mem)).take (leAt (u.params c) 4 4)) = (v, k) :=
  ⟨insertState 1, begunState (insertState 1) 9 3, { begunState (insertState 1) 9 3 with pfx := { (insertState 1).pfx with table := [(0, { tenant := 1, valid := true, refs := 1 })] } }, begunCmd (insertState 1) 9 3, 0, 1, by rfl, by decide +kernel⟩

theorem meets_PrefixTableAndSteps_4 : ∃ (s : State) (u : State) (c : Cmd) (st : Nat) (d : Nat), s.begins 9 3 = some (u, c) ∧ firstFail (u.prefixInsertChecks c) = some (st, d) :=
  ⟨insertState 2, begunState (insertState 2) 9 3, begunCmd (insertState 2) 9 3, 0x22, 1, by rfl, by decide +kernel⟩

theorem meets_PrefixTableAndSteps_5 : ∃ (s : State) (k : Nat), k < 16 ∧ (s.live.any fun l => l.cmd.engine == 9) = true :=
  ⟨{ live := [{ cmd := { engine := 9 } }] }, 15, by decide +kernel⟩

theorem meets_PrefixTableAndSteps_6 : ∃ (s : State) (k : Nat), k < 16 ∧ (s.live.any fun l => l.cmd.engine == 9) = false ∧ s.pfx.loads = [] ∧ ((∀ e ∈ s.pfx.table, ¬(e.2.valid = true ∧ e.2.tenant = k))) :=
  ⟨{}, 15, by decide, by decide, by decide, by simp⟩

theorem meets_PrefixTableAndSteps_7 : ∃ (s : State) (u : State) (c : Cmd) (w : Nat), s.begins 9 6 = some (u, c) ∧ firstFail (u.stepBeginChecks c) = none ∧ (u.slotTensor c 0).words u.mem = [w] ∧ u.rowVoid c.job w = false :=
  ⟨beginState, begunState beginState 9 6, begunCmd beginState 9 6, 0, by rfl, by decide +kernel⟩

theorem meets_PrefixTableAndSteps_8 : ∃ (s : State) (u : State) (c : Cmd) (st : Nat) (d : Nat), s.begins 9 6 = some (u, c) ∧ firstFail (u.stepBeginChecks c) = some (st, d) :=
  ⟨reqState' 6 0 0, begunState (reqState' 6 0 0) 9 6, begunCmd (reqState' 6 0 0) 9 6, 0x22, 0, by rfl, by decide +kernel⟩

theorem meets_PrefixTableAndSteps_9 : ∃ (s : State) (u : State) (c : Cmd) (w : BitVec 32), s.begins 9 7 = some (u, c) ∧ firstFail (u.stepCommitChecks c) = none ∧ (u.stepCtx (leAt (u.params c) 0 1)).rows = [w] ∧ (u.stepCtx (leAt (u.params c) 0 1)).void = [false] ∧ bitOf (leAt (u.params c) 1 1) 0 = false ∧ rowPrefill w.toNat = 0 ∧ u.now ≤ u.reqDeadline c.job (rowSlot w.toNat) :=
  ⟨commitState, begunState commitState 9 7, begunCmd commitState 9 7, 0, by rfl, by decide +kernel⟩

theorem meets_PrefixTableAndSteps_10 : ∃ (s : State) (u : State) (c : Cmd) (st : Nat) (d : Nat), s.begins 9 7 = some (u, c) ∧ firstFail (u.stepCommitChecks c) = some (st, d) :=
  ⟨reqState' 7 0 0, begunState (reqState' 7 0 0) 9 7, begunCmd (reqState' 7 0 0) 9 7, stStructure, 0, by rfl, by decide +kernel⟩

theorem meets_Requests_1 : ∃ (s : State) (u : State) (c : Cmd) (row : List Byte) (x : AdmitResult), s.begins 9 4 = some (u, c) ∧ firstFail (u.admitChecks c) = none ∧ chunksOf 64 257 ((u.slotTensor c 0).read u.mem) = [row] ∧ leAt (u.params c) 8 4 ≠ 0 ∧ u.admitOne c (hashesOf ((u.slotTensor c 1).read u.mem)) (leAt (u.params c) 0 8) (leAt (u.params c) 8 4) [] (admitRow row) = x ∧ x.reason = 0 :=
  ⟨admitState 100 0, begunState (admitState 100 0) 9 4, begunCmd (admitState 100 0) 9 4, admitBytes 100, admitX (admitState 100 0), by rfl, by decide +kernel⟩

theorem meets_Requests_2 : ∃ (s : State) (u : State) (c : Cmd) (row : List Byte) (x : AdmitResult), s.begins 9 4 = some (u, c) ∧ firstFail (u.admitChecks c) = none ∧ chunksOf 64 257 ((u.slotTensor c 0).read u.mem) = [row] ∧ leAt (u.params c) 8 4 ≠ 0 ∧ u.admitOne c (hashesOf ((u.slotTensor c 1).read u.mem)) (leAt (u.params c) 0 8) (leAt (u.params c) 8 4) [] (admitRow row) = x ∧ x.reason ≠ 0 :=
  ⟨admitState 0 5, begunState (admitState 0 5) 9 4, begunCmd (admitState 0 5) 9 4, admitBytes 0, admitX (admitState 0 5), by rfl, by decide +kernel⟩

theorem meets_Requests_3 : ∃ (s : State) (u : State) (c : Cmd), s.begins 9 5 = some (u, c) ∧ firstFail (u.growChecks c) = none :=
  ⟨growState, begunState growState 9 5, begunCmd growState 9 5, by rfl, by decide +kernel⟩

theorem meets_Requests_4 : ∃ (s : State) (u : State) (c : Cmd) (slot : Nat), s.begins 9 8 = some (u, c) ∧ firstFail (u.retireChecks c) = none ∧ leAt (u.params c) 0 2 = slot ∧ u.reqFlag c.job slot 0 = true :=
  ⟨reqState' 8 1 1, begunState (reqState' 8 1 1) 9 8, begunCmd (reqState' 8 1 1) 9 8, 0, by rfl, by decide +kernel⟩

theorem meets_Requests_5 : ∃ (s : State) (u : State) (c : Cmd) (slot : Nat), s.begins 9 8 = some (u, c) ∧ firstFail (u.retireChecks c) = none ∧ leAt (u.params c) 0 2 = slot ∧ u.reqFlag c.job slot 0 = false ∧ u.reqGet c.job slot 22 2 = 0 ∧ u.reqGet c.job slot 24 2 = 0 ∧ c.spares (u.reqAddr c.job slot + 18) :=
  ⟨reqState' 8 0 1, begunState (reqState' 8 0 1) 9 8, begunCmd (reqState' 8 0 1) 9 8, 0, by rfl, by decide +kernel⟩

theorem meets_Requests_6 : ∃ (s : State) (u : State) (c : Cmd) (st : Nat) (d : Nat), s.begins 9 8 = some (u, c) ∧ firstFail (u.retireChecks c) = some (st, d) :=
  ⟨reqState' 8 0 0, begunState (reqState' 8 0 0) 9 8, begunCmd (reqState' 8 0 0) 9 8, stStructure, 0, by rfl, by decide +kernel⟩

theorem meets_Requests_7 : ∃ (s : State) (u : State) (c : Cmd) (slot : Nat) (v : Nat), s.begins 9 9 = some (u, c) ∧ firstFail (u.pinChecks c) = none ∧ leAt (u.params c) 0 2 = slot ∧ leAt (u.params c) 2 1 = v ∧ (v = 1 ∨ u.reqState c.job slot ≠ reqRetired) :=
  ⟨reqState' 9 2 3 ([0, 0, 1] ++ zeros 61), begunState (reqState' 9 2 3 ([0, 0, 1] ++ zeros 61)) 9 9, begunCmd (reqState' 9 2 3 ([0, 0, 1] ++ zeros 61)) 9 9, 0, 1, by rfl, by decide +kernel⟩

theorem meets_Requests_8 : ∃ (s : State) (j : Nat) (r : Nat), j < 8 ∧ bitOf (s.st (0x170100 + 0x10 * j)) 0 = true ∧ r < s.pfxNreq j ∧ s.reqState j r = reqAdmitted ∧ s.reqDeadline j r < s.now ∧ s.reqFlag j r 0 = true :=
  ⟨{ reqState' 8 1 1 with ht := { state := .locked, count := 5 } }, 0, 0, by decide +kernel⟩

theorem meets_Requests_9 : ∃ (s : State) (j : Nat) (r : Nat), j < 8 ∧ s.reqState j r ≠ reqAdmitted :=
  ⟨reqState' 8 1 3, 0, 0, by decide +kernel⟩

def copyState : State := engineState 7 1 (zeros 64) [(0, vecDesc 0x20000 0 4 16), (7, vecDesc 0x30000 0 4 16)] [(0x20000, [1, 2])]

def fillState : State := engineState 7 2 ([1, 2, 3, 4, 5, 6, 7, 8] ++ zeros 56) [(7, vecDesc 0x30000 0 4 16)]

def gatherOf (i : Nat) : State :=
  engineState 7 3 (zeros 64) [(0, vecDesc 0x20000 0 4 16), (1, vecDesc 0x28000 0xD 1 4), (7, vecDesc 0x30000 0 1 4)] [(0x28000, leBytes 4 i)]

def badGather : State := let s := gatherOf 3
  { s with log := { s.log with badLines := [lineOf (0x20000 + 12)] } }

def poolState' : State :=
  engineState 7 4 (zeros 64) [(0, matDesc 0x20000 0 2 2 8 16), (1, vecDesc 0x28000 0xD 1 4), (2, vecDesc 0x2C000 0xA 2 8),
    (7, matDesc 0x30000 0 2 1 8 8)] [(0x2C000, leBytes 4 0 ++ leBytes 4 1)]

def reduceState : State :=
  engineState 7 5 (2 :: zeros 63) [(0, vecDesc 0x20000 0xA 1 4), (1, vecDesc 0x28000 0xA 1 4), (7, vecDesc 0x30000 0xA 1 4)] [(0x20000, [5]), (0x28000, [6])]

def hostState (op slot : Nat) : State :=
  { engineState 7 op (zeros 8 ++ leBytes 8 0 ++ leBytes 8 64 ++ zeros 40) [(slot, vecDesc 0x20000 0 16 64)] with boot := { hostRate := 5 }, pwr := { perst := false } }

def digestState : State := engineState 7 0xA (zeros 64) [(0, vecDesc 0x20000 9 1 1), (7, vecDesc 0x30000 0xA 16 64)]

def auditState (b : Byte) : State := engineState 7 0xB (zeros 64) [(0, vecDesc 0x20000 0xA 32 128)] [(0x20000, [b])]

/-- The job's directory range is entries 0 to 7. -/
def strState (op : Nat) (params : List Byte) (slots : List (Nat × List Byte)) (data : List (Nat × List Byte) := []) : State :=
  engineState 2 op params slots data 0 0x1000 [(0x100100, BitVec.ofNat 64 (2 ^ 33 + 8 * 2 ^ 16))]

def dirState (op fmt n : Nat) (d : List Byte) : State := strState op (leBytes 2 1 ++ zeros 62) [(0, vecDesc 0x20000 fmt n (4 * n))] [(0x20000, d)]

def selState : State :=
  strState 1 ([0, 0, 0, 0, 0, 1] ++ zeros 58) [(0, matDesc 0x20000 0 1 1 4 4), (3, matDesc 0x28000 0xA 2 1 8 8), (4, matDesc 0x30000 0xA 4 1 16 16),
    (5, vecDesc 0x38000 0xA 3 12), (6, vecDesc 0x3C000 0xA 1 4)]

def selOf (s : State) : SelResult := (begunState s 2 1).select (begunCmd s 2 1) (selParams ((begunState s 2 1).params (begunCmd s 2 1)))

/-- Urn table 0 of job slot `j`: one element wide, in 4 KiB of Stack SRAM, `n` spill records. -/
def urnState (op j len n : Nat) (slots : List (Nat × List Byte)) (data : List (Nat × List Byte) := []) : State :=
  engineState 4 op (zeros 64) slots data 0 0x1000
    [(0x120100, BitVec.ofNat 64 (len * 2 ^ 20 + 2 ^ 40 + j * 2 ^ 56 + 2 ^ 63)), (0x120108, BitVec.ofNat 64 (0x80 + n * 2 ^ 32))]

def urnIn : List (Nat × List Byte) := [(0, vecDesc 0x20000 0xA 2 8), (1, vecDesc 0x28000 0xA 1 4)]

def urnInState (len n : Nat) : State := urnState 1 0 len n urnIn [(0x20000, [5]), (0x28000, [7])]

def urnOf (s : State) : UrnTable :=
  let u := begunState s 4 1
  let c := begunCmd s 4 1
  ((u.urnRecords c (u.urnCfg 0)).foldl (fun (o : Option UrnTable) r => o.bind fun t => t.insert (u.urnCfg 0) r) (some (u.urnTable 0))).getD {}

def urnDrainState : State := urnState 2 0 1 0 [(0, vecDesc 0x20000 0xA 2 8), (1, vecDesc 0x28000 0 1 4), (2, vecDesc 0x30000 0xA 1 4)]

theorem meets_NearChannel_1 : ∃ (s : State) (u : State) (c : Cmd), s.begins 7 1 = some (u, c) ∧ firstFail (u.copyChecks c) = none :=
  ⟨copyState, begunState copyState 7 1, begunCmd copyState 7 1, by rfl, by decide +kernel⟩

theorem meets_NearChannel_2 : ∃ (s : State) (u : State) (c : Cmd), s.begins 7 2 = some (u, c) ∧ firstFail (u.fillChecks c) = none :=
  ⟨fillState, begunState fillState 7 2, begunCmd fillState 7 2, by rfl, by decide +kernel⟩

theorem meets_NearChannel_3 : ∃ (s : State) (u : State) (c : Cmd), s.begins 7 3 = some (u, c) ∧ firstFail (u.gatherChecks c) = none ∧ oobCheck (u.gatherIndices c) (u.slotTensor c 0).table.count (leAt (u.params c) 0 1) = none ∧ u.nchRows (u.slotTensor c 0).rowLen ((u.slotTensor c 0).table.named (u.gatherIndices c)) = none :=
  ⟨gatherOf 3, begunState (gatherOf 3) 7 3, begunCmd (gatherOf 3) 7 3, by rfl, by decide +kernel⟩

theorem meets_NearChannel_4 : ∃ (s : State) (u : State) (c : Cmd) (p : Nat), s.begins 7 3 = some (u, c) ∧ firstFail (u.gatherChecks c) = none ∧ oobCheck (u.gatherIndices c) (u.slotTensor c 0).table.count (leAt (u.params c) 0 1) = some (stBounds, p) :=
  ⟨gatherOf 4, begunState (gatherOf 4) 7 3, begunCmd (gatherOf 4) 7 3, 0, by rfl, by decide +kernel⟩

theorem meets_NearChannel_5 : ∃ (s : State) (u : State) (c : Cmd), s.begins 7 4 = some (u, c) ∧ firstFail (u.poolChecks c) = none ∧ oobCheck (u.poolIndices c) (u.slotTensor c 0).table.count (leAt (u.params c) 0 1) = none ∧ u.nchRows (u.slotTensor c 0).rowLen ((u.slotTensor c 0).table.named (u.poolIndices c)) = none :=
  ⟨poolState', begunState poolState' 7 4, begunCmd poolState' 7 4, by rfl, by decide +kernel⟩

theorem meets_NearChannel_6 : ∃ (s : State) (u : State) (c : Cmd) (st : Nat) (d : Nat), s.begins 7 3 = some (u, c) ∧ firstFail (u.gatherChecks c) = none ∧ oobCheck (u.gatherIndices c) (u.slotTensor c 0).table.count (leAt (u.params c) 0 1) = none ∧ u.nchRows (u.slotTensor c 0).rowLen ((u.slotTensor c 0).table.named (u.gatherIndices c)) = some (st, d) :=
  ⟨badGather, begunState badGather 7 3, begunCmd badGather 7 3, 0x41, 87, by rfl, by decide +kernel⟩

theorem meets_NearChannel_7 : ∃ (s : State) (u : State) (c : Cmd), s.begins 7 5 = some (u, c) ∧ firstFail (u.reduceChecks c) = none :=
  ⟨reduceState, begunState reduceState 7 5, begunCmd reduceState 7 5, by rfl, by decide +kernel⟩

theorem meets_NearChannel_8 : ∃ (s : State) (u : State) (c : Cmd), s.hostRuns 8 = none ∧ s.begins 7 8 = some (u, c) ∧ firstFail (u.hostChecks c 7) = none :=
  ⟨hostState 8 7, begunState (hostState 8 7) 7 8, begunCmd (hostState 8 7) 7 8, by decide, by rfl, by decide +kernel⟩

theorem meets_NearChannel_9 : ∃ (s : State) (u : State) (c : Cmd) (r : HostReply) (st : Nat), s.hostRuns 8 = none ∧ s.begins 7 8 = some (u, c) ∧ firstFail (u.hostChecks c 7) = none ∧ replyFailure r = some st :=
  ⟨hostState 8 7, begunState (hostState 8 7) 7 8, begunCmd (hostState 8 7) 7 8, .poisoned, 0x41, by decide, by rfl, by decide +kernel⟩

theorem meets_NearChannel_10 : ∃ (s : State) (u : State) (c : Cmd), s.hostRuns 9 = none ∧ s.begins 7 9 = some (u, c) ∧ firstFail (u.hostChecks c 0) = none :=
  ⟨hostState 9 0, begunState (hostState 9 0) 7 9, begunCmd (hostState 9 0) 7 9, by decide, by rfl, by decide +kernel⟩

theorem meets_NearChannel_11 : ∃ (s : State) (u : State) (c : Cmd), s.begins 7 0xA = some (u, c) ∧ firstFail (u.digestChecks c) = none :=
  ⟨digestState, begunState digestState 7 0xA, begunCmd digestState 7 0xA, by rfl, by decide +kernel⟩

theorem meets_NearChannel_12 : ∃ (s : State) (u : State) (c : Cmd), s.begins 7 0xB = some (u, c) ∧ firstFail (u.auditChecks c) = none ∧ u.auditBad c = [] :=
  ⟨auditState 0, begunState (auditState 0) 7 0xB, begunCmd (auditState 0) 7 0xB, by rfl, by decide +kernel⟩

theorem meets_NearChannel_13 : ∃ (s : State) (u : State) (c : Cmd) (i : Nat) (r : List Nat), s.begins 7 0xB = some (u, c) ∧ firstFail (u.auditChecks c) = none ∧ u.auditBad c = i :: r :=
  ⟨auditState 1, begunState (auditState 1) 7 0xB, begunCmd (auditState 1) 7 0xB, 1, [], by rfl, by decide +kernel⟩

theorem meets_NearChannel_14 : ∃ (s : State) (u : State) (c : Cmd) (st : Nat) (d : Nat), s.begins 7 1 = some (u, c) ∧ firstFail (u.copyChecks c) = some (st, d) :=
  ⟨engineState 7 1 (1 :: zeros 63), begunState (engineState 7 1 (1 :: zeros 63)) 7 1, begunCmd (engineState 7 1 (1 :: zeros 63)) 7 1, stBadOpcode, 0, by rfl, by decide +kernel⟩

theorem meets_NearChannel_15 : ∃ (s : State) (u : State) (c : Cmd), s.hostRuns 8 = none ∧ s.begins 7 8 = some (u, c) ∧ firstFail (u.hostChecks c 7) = none :=
  ⟨hostState 8 7, begunState (hostState 8 7) 7 8, begunCmd (hostState 8 7) 7 8, by decide, by rfl, by decide +kernel⟩

theorem meets_NearChannel_16 : ∃ (s : State) (c : Cmd), s.hostRuns 8 = some c :=
  ⟨{ hostState 8 7 with live := [{ cmd := begunCmd (hostState 8 7) 7 8 }] }, begunCmd (hostState 8 7) 7 8, by rfl⟩

theorem meets_NearChannel_17 : ∃ (s : State) (c : Cmd), s.hostRuns 9 = some c :=
  ⟨{ hostState 9 0 with live := [{ cmd := begunCmd (hostState 9 0) 7 9 }] }, begunCmd (hostState 9 0) 7 9, by rfl⟩

theorem meets_StrainerCommands_1 : ∃ (s : State) (u : State) (c : Cmd) (b : Nat) (n : Nat), s.begins 2 2 = some (u, c) ∧ firstFail (u.dirWriteChecks c) = none ∧ dirWindow (u.params c) = (b, n) :=
  ⟨dirState 2 0xA 8 [5], begunState (dirState 2 0xA 8 [5]) 2 2, begunCmd (dirState 2 0xA 8 [5]) 2 2, 1, 1, by rfl, by decide +kernel⟩

theorem meets_StrainerCommands_2 : ∃ (s : State) (u : State) (c : Cmd) (st : Nat) (d : Nat), s.begins 2 2 = some (u, c) ∧ firstFail (u.dirWriteChecks c) = some (st, d) :=
  ⟨dirState 2 0xA 8 [0, 0, 1], begunState (dirState 2 0xA 8 [0, 0, 1]) 2 2, begunCmd (dirState 2 0xA 8 [0, 0, 1]) 2 2, stStructure, 1, by rfl, by decide +kernel⟩

theorem meets_StrainerCommands_3 : ∃ (s : State) (u : State) (c : Cmd) (b : Nat) (n : Nat), s.begins 2 3 = some (u, c) ∧ firstFail (u.dirChecks c 0xA (dirShape n) true true []) = none ∧ dirWindow (u.params c) = (b, n) :=
  ⟨dirState 3 0xA 8 [], begunState (dirState 3 0xA 8 []) 2 3, begunCmd (dirState 3 0xA 8 []) 2 3, 1, 1, by rfl, by decide +kernel⟩

theorem meets_StrainerCommands_4 : ∃ (s : State) (u : State) (c : Cmd) (b : Nat) (n : Nat), s.begins 2 4 = some (u, c) ∧ firstFail (u.dirBiasChecks c) = none ∧ dirWindow (u.params c) = (b, n) ∧ ((u.slotTensor c 0).vals u.mem).length = n :=
  ⟨dirState 4 0 1 [], begunState (dirState 4 0 1 []) 2 4, begunCmd (dirState 4 0 1 []) 2 4, 1, 1, by rfl, by decide +kernel⟩

theorem meets_StrainerCommands_5 : ∃ (s : State) (u : State) (c : Cmd) (r : SelResult), s.begins 2 1 = some (u, c) ∧ firstFail (u.selChecks c) = none ∧ u.select c (selParams (u.params c)) = r :=
  ⟨selState, begunState selState 2 1, begunCmd selState 2 1, selOf selState, by rfl, by decide +kernel⟩

theorem meets_StrainerCommands_6 : ∃ (s : State) (u : State) (c : Cmd) (st : Nat) (d : Nat), s.begins 2 1 = some (u, c) ∧ firstFail (u.selChecks c) = some (st, d) :=
  ⟨strState 1 (zeros 64) [], begunState (strState 1 (zeros 64) []) 2 1, begunCmd (strState 1 (zeros 64) []) 2 1, stStructure, 0, by rfl, by decide +kernel⟩

theorem meets_UrnCommands_1 : ∃ (s : State) (u : State) (c : Cmd) (n : Nat) (x : UrnTable), s.begins 4 1 = some (u, c) ∧ firstFail (u.urnInsertChecks c) = none ∧ u.urnTableOf c = n ∧ (u.urnRecords c (u.urnCfg n)).foldl (fun (o : Option UrnTable) r => o.bind fun t => t.insert (u.urnCfg n) r) (some (u.urnTable n)) = some x :=
  ⟨urnInState 1 0, begunState (urnInState 1 0) 4 1, begunCmd (urnInState 1 0) 4 1, 0, urnOf (urnInState 1 0), by rfl, by decide +kernel⟩

theorem meets_UrnCommands_2 : ∃ (s : State) (u : State) (c : Cmd) (n : Nat), s.begins 4 1 = some (u, c) ∧ firstFail (u.urnInsertChecks c) = none ∧ u.urnTableOf c = n ∧ (u.urnRecords c (u.urnCfg n)).foldl (fun (o : Option UrnTable) r => o.bind fun t => t.insert (u.urnCfg n) r) (some (u.urnTable n)) = none :=
  ⟨urnInState 0 0, begunState (urnInState 0 0) 4 1, begunCmd (urnInState 0 0) 4 1, 0, by rfl, by decide +kernel⟩

theorem meets_UrnCommands_3 : ∃ (s : State) (u : State) (c : Cmd) (n : Nat), s.begins 4 2 = some (u, c) ∧ firstFail (u.urnDrainChecks c) = none ∧ u.urnTableOf c = n :=
  ⟨urnDrainState, begunState urnDrainState 4 2, begunCmd urnDrainState 4 2, 0, by rfl, by decide +kernel⟩

theorem meets_UrnCommands_4 : ∃ (s : State) (u : State) (c : Cmd) (n : Nat), s.begins 4 3 = some (u, c) ∧ firstFail [u.urnOwned c n] = none ∧ u.urnTableOf c = n :=
  ⟨urnState 3 0 1 0 [], begunState (urnState 3 0 1 0 []) 4 3, begunCmd (urnState 3 0 1 0 []) 4 3, 0, by rfl, by decide +kernel⟩

theorem meets_UrnCommands_5 : ∃ (s : State) (u : State) (c : Cmd) (n : Nat), s.begins 4 3 = some (u, c) ∧ u.urnTableOf c = n ∧ (u.urnCfg n).job ≠ c.job :=
  ⟨urnState 3 1 1 0 [], begunState (urnState 3 1 1 0 []) 4 3, begunCmd (urnState 3 1 1 0 []) 4 3, 0, by rfl, by decide +kernel⟩

/-- A mounted Tin with one object, index 5 of namespace 0, generation 1, of one page. -/
def tinState (op : Nat) (params : List Byte) (slots : List (Nat × List Byte)) (mounted : Nat := 2) : State :=
  { engineState 10 op params slots with
    tin := { state := mounted, cap := 2 ^ 30, used := 4096, spare := 1, objects := [⟨0, 5, 1, true, 4096, [(3, 7)], []⟩] } }

def tinH : Nat := tinHandle 5 0 1

def tinMove (op : Nat) : State := tinState op (leBytes 8 tinH ++ leBytes 8 0 ++ leBytes 8 4096 ++ zeros 40) [(0, vecDesc 0x20000 0 1024 4096)]

def createState : State := tinState 1 (zeros 8 ++ leBytes 8 4096 ++ zeros 48) [(7, vecDesc 0x30000 0xA 2 8)]

/-- Group 0 of the step counters belongs to the job and stands at 1; rule 2 over one element. -/
def stepState (op : Nat) (params : List Byte) (slots : List (Nat × List Byte)) (v : BitVec 32 := 1) : State :=
  { engineState 7 op params slots [] 0 0x1000 [(0x150100, 0x400)] with upd := { steps := [(0, v)] } }

def updState (flags g : Nat) (bad : List Nat) : State :=
  let s := stepState 6 ([2, BitVec.ofNat 8 flags] ++ zeros 62)
    [(0, vecDesc 0x20000 0 1 4), (1, vecDesc 0x24000 0xB 1 6), (2, vecDesc 0x28000 0 1 4), (6, vecDesc 0x2C000 0xA 8 32)]
  { s with mem := s.mem.write 0x20000 (leBytes 4 g), log := { badLines := bad } }

/-- 65 elements: two blocks, the second of one gradient at 0x20100. -/
def updState2 (g : Nat) (bad : List Nat) : State :=
  let s := stepState 6 ([2, 1] ++ zeros 62)
    [(0, vecDesc 0x20000 0 65 260), (1, vecDesc 0x24000 0xB 65 390), (2, vecDesc 0x28000 0 65 260), (6, vecDesc 0x2C000 0xA 8 32)]
  { s with mem := s.mem.write 0x20000 (leBytes 4 g), log := { badLines := bad } }

def updP (s : State) : UpdParams := updParams ((begunState s 7 6).params (begunCmd s 7 6))

def updT (s : State) : UpdTensors := (begunState s 7 6).updTensors (begunCmd s 7 6) (updP s)

theorem meets_TinObjects_1 : ∃ (s : State) (u : State) (c : Cmd), s.begins 10 1 = some (u, c) ∧ u.tinMounted = true ∧ firstFail (u.createChecks c) = none :=
  ⟨createState, begunState (createState) 10 1, begunCmd (createState) 10 1, by rfl, by decide +kernel⟩

theorem meets_TinObjects_2 : ∃ (s : State) (u : State) (c : Cmd) (h : Nat), s.begins 10 2 = some (u, c) ∧ u.tinMounted = true ∧ firstFail (u.tinMoveChecks c (2 ^ 30) ++ [u.tinWritable] ++ u.eccSlots c [0] []) = none ∧ leAt (u.params c) 0 8 = h :=
  ⟨tinMove 2, begunState (tinMove 2) 10 2, begunCmd (tinMove 2) 10 2, tinH, by rfl, by decide +kernel⟩

theorem meets_TinObjects_3 : ∃ (s : State) (u : State) (c : Cmd) (ps : List (Nat × Nat × Nat)) (h : Nat), s.begins 10 3 = some (u, c) ∧ u.tinMounted = true ∧ firstFail (u.tinMoveChecks c (2 ^ 32) ++ u.eccSlots c [] [0]) = none ∧ leAt (u.params c) 0 8 = h ∧ ((∀ x ∈ (u.tinObject h).pageFails (leAt (u.params c) 8 8) (leAt (u.params c) 16 8) ps, x.2 = false)) ∧ ((u.tinObject h).lost.any fun p => inside (p * tinPage, tinPage) (leAt (u.params c) 8 8, leAt (u.params c) 16 8)) = false :=
  ⟨tinMove 3, begunState (tinMove 3) 10 3, begunCmd (tinMove 3) 10 3, [(0, 0, 0)], tinH, by rfl, by decide +kernel⟩

theorem meets_TinObjects_4 : ∃ (s : State) (u : State) (c : Cmd) (ps : List (Nat × Nat × Nat)) (p : Nat) (h : Nat), s.begins 10 3 = some (u, c) ∧ u.tinMounted = true ∧ firstFail (u.tinMoveChecks c (2 ^ 32) ++ u.eccSlots c [] [0]) = none ∧ leAt (u.params c) 0 8 = h ∧ (((p, true) ∈ (u.tinObject h).pageFails (leAt (u.params c) 8 8) (leAt (u.params c) 16 8) ps ∨ p ∈ (u.tinObject h).lost)) ∧ inside (p * tinPage, tinPage) (leAt (u.params c) 8 8, leAt (u.params c) 16 8) = true :=
  ⟨tinMove 3, begunState (tinMove 3) 10 3, begunCmd (tinMove 3) 10 3, [(0, 0, 0), (0, 1, 2)], 0, tinH, by rfl, by decide +kernel⟩

theorem meets_TinObjects_5 : ∃ (s : State) (u : State) (c : Cmd) (h : Nat), s.begins 10 4 = some (u, c) ∧ u.tinMounted = true ∧ leAt (u.params c) 0 8 = h ∧ firstFail [zeroParams (u.params c) (offsets 8 63), u.tinRange c h 0 0] = none :=
  ⟨tinState 4 (leBytes 8 tinH ++ zeros 56) [], begunState (tinState 4 (leBytes 8 tinH ++ zeros 56) []) 10 4, begunCmd (tinState 4 (leBytes 8 tinH ++ zeros 56) []) 10 4, tinH, by rfl, by decide +kernel⟩

theorem meets_TinObjects_6 : ∃ (s : State) (u : State) (c : Cmd) (o : TinObject), s.begins 10 5 = some (u, c) ∧ u.tinMounted = true ∧ firstFail (u.tinStatChecks c) = none ∧ s.tinObject (leAt (u.params c) 0 8) = o :=
  ⟨tinState 5 (leBytes 8 tinH ++ zeros 56) [(7, vecDesc 0x30000 0xA 3 12)], begunState (tinState 5 (leBytes 8 tinH ++ zeros 56) [(7, vecDesc 0x30000 0xA 3 12)]) 10 5, begunCmd (tinState 5 (leBytes 8 tinH ++ zeros 56) [(7, vecDesc 0x30000 0xA 3 12)]) 10 5, ⟨0, 5, 1, true, 4096, [(3, 7)], []⟩, by rfl, by decide +kernel⟩

theorem meets_TinObjects_7 : ∃ (s : State) (u : State) (c : Cmd) (i : Instr) (op : Nat) (n : List Nat) (ps : List (Nat × Nat × Nat)), s.begins 10 op = some (u, c) ∧ u.tinMounted = false ∧ (i, op) ∈ [(Instr.create, 1), (.tinWrite n, 2), (.tinRead ps n, 3), (.tinDelete n, 4), (.tinStat, 5)] :=
  ⟨tinState 4 (zeros 64) [] 4, begunState (tinState 4 (zeros 64) [] 4) 10 4, begunCmd (tinState 4 (zeros 64) [] 4) 10 4, .tinDelete [], 4, [], [], by rfl, by decide +kernel⟩

theorem meets_TinObjects_8 : ∃ (s : State) (u : State) (c : Cmd) (st : Nat) (d : Nat), s.begins 10 2 = some (u, c) ∧ u.tinMounted = true ∧ firstFail (u.tinMoveChecks c (2 ^ 30) ++ [u.tinWritable] ++ u.eccSlots c [0] []) = some (st, d) :=
  ⟨{ tinMove 2 with tin := { state := 3 } }, begunState { tinMove 2 with tin := { state := 3 } } 10 2, begunCmd { tinMove 2 with tin := { state := 3 } } 10 2, stBounds, 0, by rfl, by decide +kernel⟩

theorem meets_TinObjects_10 : ∃ (s : State) (b : Nat), s.tinMounted = true ∧ 50000 ≤ (s.tin.block b).reads :=
  ⟨{ tin := { state := 2, spare := 2, blocks := [(3, { reads := 50000, units := [⟨0, 5, 0, 0⟩] })] } }, 3, by decide⟩

theorem meets_TinObjects_11 : ∃ (s : State) (b : Nat), s.tinMounted = true ∧ 50000 ≤ (s.tin.block b).reads ∧ (s.tin.block b).units = [] :=
  ⟨{ tin := { state := 2, spare := 1, blocks := [(3, { reads := 50000 })] } }, 3, by decide⟩

theorem meets_TinObjects_12 : ∃ (s : State) (b : Nat), s.tinMounted = true ∧ 50000 ≤ (s.tin.block b).reads ∧ (s.tin.block b).units = [] :=
  ⟨{ tin := { state := 2, spare := 1, blocks := [(3, { reads := 50000 })] } }, 3, by decide⟩

theorem meets_TinObjects_13 : ∃ (s : State) (b : Nat), s.tinMounted = true ∧ (s.tin.block b).patrolAt + patrolPeriod ≤ s.poweredTime :=
  ⟨{ tin := { state := 2, spare := 1, powered := 604800000000000 } }, 3, by decide⟩

theorem meets_TinObjects_14 : ∃ (s : State) (b : Nat), (s.tinMounted = false ∨ s.poweredTime < (s.tin.block b).patrolAt + patrolPeriod) :=
  ⟨{ tin := { state := 2, spare := 1, powered := 604799999999999 } }, 3, by decide⟩

theorem meets_UpdatesAndStepCounters_1 : ∃ (s : State) (u : State) (c : Cmd) (p : UpdParams) (x : UpdTensors), s.begins 7 6 = some (u, c) ∧ updParams (u.params c) = p ∧ firstFail (u.updChecks c p) = none ∧ u.updTensors c p = x ∧ u.updTablesBad p x = false ∧ ((p.nonfin = true → u.updScanBad x = none ∧ u.updScan x = 0)) ∧ u.updBad p x = none :=
  ⟨updState 0 1 [], begunState (updState 0 1 []) 7 6, begunCmd (updState 0 1 []) 7 6, updP (updState 0 1 []), updT (updState 0 1 []), by rfl, by rfl, by decide +kernel, by rfl, by decide +kernel⟩

theorem meets_UpdatesAndStepCounters_2 : ∃ (s : State) (u : State) (c : Cmd) (p : UpdParams) (x : UpdTensors) (b : Nat), s.begins 7 6 = some (u, c) ∧ updParams (u.params c) = p ∧ firstFail (u.updChecks c p) = none ∧ u.updTensors c p = x ∧ u.updTablesBad p x = false ∧ ((p.nonfin = true → u.updScanBad x = none ∧ u.updScan x = 0)) ∧ u.updBad p x = some b :=
  ⟨updState 0 1 [0x20000], begunState (updState 0 1 [0x20000]) 7 6, begunCmd (updState 0 1 [0x20000]) 7 6, updP (updState 0 1 [0x20000]), updT (updState 0 1 [0x20000]), 0, by rfl, by rfl, by decide +kernel, by rfl, by decide +kernel⟩

theorem meets_UpdatesAndStepCounters_3 : ∃ (s : State) (u : State) (c : Cmd) (p : UpdParams) (x : UpdTensors), s.begins 7 6 = some (u, c) ∧ updParams (u.params c) = p ∧ firstFail (u.updChecks c p) = none ∧ u.updTensors c p = x ∧ u.updTablesBad p x = false ∧ p.nonfin = true ∧ u.updScanBad x = none ∧ u.updScan x ≠ 0 :=
  ⟨updState 1 0x7FC00000 [], begunState (updState 1 0x7FC00000 []) 7 6, begunCmd (updState 1 0x7FC00000 []) 7 6, updP (updState 1 0x7FC00000 []), updT (updState 1 0x7FC00000 []), by rfl, by rfl, by decide +kernel, by rfl, by decide +kernel⟩

theorem meets_UpdatesAndStepCounters_4 : ∃ (s : State) (u : State) (c : Cmd) (p : UpdParams) (x : UpdTensors) (b : Nat), s.begins 7 6 = some (u, c) ∧ updParams (u.params c) = p ∧ firstFail (u.updChecks c p) = none ∧ u.updTensors c p = x ∧ u.updTablesBad p x = false ∧ p.nonfin = true ∧ u.updScanBad x = some b ∧ u.updScan x ≠ 0 :=
  ⟨updState2 0x7FC00000 [0x20100], begunState (updState2 0x7FC00000 [0x20100]) 7 6, begunCmd (updState2 0x7FC00000 [0x20100]) 7 6, updP (updState2 0x7FC00000 [0x20100]), updT (updState2 0x7FC00000 [0x20100]), 1, by rfl, by rfl, by decide +kernel, by rfl, by decide +kernel⟩

theorem meets_UpdatesAndStepCounters_5 : ∃ (s : State) (u : State) (c : Cmd) (p : UpdParams) (x : UpdTensors) (b : Nat), s.begins 7 6 = some (u, c) ∧ updParams (u.params c) = p ∧ firstFail (u.updChecks c p) = none ∧ u.updTensors c p = x ∧ u.updTablesBad p x = false ∧ p.nonfin = true ∧ u.updScanBad x = some b ∧ u.updScan x = 0 :=
  ⟨updState2 1 [0x20100], begunState (updState2 1 [0x20100]) 7 6, begunCmd (updState2 1 [0x20100]) 7 6, updP (updState2 1 [0x20100]), updT (updState2 1 [0x20100]), 1, by rfl, by rfl, by decide +kernel, by rfl, by decide +kernel⟩

theorem meets_UpdatesAndStepCounters_6 : ∃ (s : State) (u : State) (c : Cmd) (st : Nat) (d : Nat), s.begins 7 6 = some (u, c) ∧ firstFail (u.updChecks c (updParams (u.params c))) = some (st, d) :=
  ⟨updState 8 1 [], begunState (updState 8 1 []) 7 6, begunCmd (updState 8 1 []) 7 6, stBadOpcode, 1, by rfl, by decide +kernel⟩

theorem meets_UpdatesAndStepCounters_7 : ∃ (s : State) (u : State) (c : Cmd), s.begins 7 7 = some (u, c) ∧ leAt (u.params c) 0 1 = 0 ∧ firstFail (u.stepAdvanceChecks c) = none :=
  ⟨stepState 7 (zeros 4 ++ [1] ++ zeros 59) [], begunState (stepState 7 (zeros 4 ++ [1] ++ zeros 59) []) 7 7, begunCmd (stepState 7 (zeros 4 ++ [1] ++ zeros 59) []) 7 7, by rfl, by decide +kernel⟩

theorem meets_UpdatesAndStepCounters_8 : ∃ (s : State) (u : State) (c : Cmd) (st : Nat) (d : Nat), s.begins 7 7 = some (u, c) ∧ leAt (u.params c) 0 1 ≠ 1 ∧ firstFail (u.stepAdvanceChecks c) = some (st, d) :=
  ⟨stepState 7 (zeros 4 ++ [1] ++ zeros 59) [] 0xFFFFFFFF, begunState (stepState 7 (zeros 4 ++ [1] ++ zeros 59) [] 0xFFFFFFFF) 7 7, begunCmd (stepState 7 (zeros 4 ++ [1] ++ zeros 59) [] 0xFFFFFFFF) 7 7, stBounds, 0, by rfl, by decide +kernel⟩

theorem meets_UpdatesAndStepCounters_9 : ∃ (s : State) (u : State) (c : Cmd), s.begins 7 7 = some (u, c) ∧ leAt (u.params c) 0 1 = 1 ∧ firstFail (u.stepChecks c) = none :=
  ⟨stepState 7 ([1, 0, 0, 0, 1] ++ zeros 59) [], begunState (stepState 7 ([1, 0, 0, 0, 1] ++ zeros 59) []) 7 7, begunCmd (stepState 7 ([1, 0, 0, 0, 1] ++ zeros 59) []) 7 7, by rfl, by decide +kernel⟩

/-- A device that applies requests of job 7 from device 5, to which it has no route. -/
def destState (op len : Nat) (flag seq : Nat := 0) (sync : Bool := true) (job : Nat := 7) : State :=
  let s := engineState 0 0 [] [] [(0x2000, [9])]
  { s with boot := { sincePwrOk := 2 }, fab := { s.fab with ingress := [{ src := 5, req := { op, len, addr := 0x2000, a := 9, b := 3, flagAddr := flag, jobId := job, data := [4, 5], rseq := seq, sync } }] } }

def uOf (s : State) (op : Nat) : State := ((s.arrives op).getD ({}, {})).1

def qOf (s : State) (op : Nat) : InReq := ((s.arrives op).getD ({}, {})).2

def wOf (s : State) (op : Nat) : State := ((uOf s op).acceptWrite (qOf s op)).getD {}

/-- The same, with the stream's record at `next`. -/
def recState (op len flag seq next : Nat) : State :=
  let s := destState op len flag seq false
  { s with fab := { s.fab with streams := [(5, some { next })] } }

def heldState (seq next now : Nat) : State :=
  let s := recState 3 2 0x3000 seq next
  { s with ht := { state := .locked, count := now }, fab := { s.fab with ingress := [], held := [{ inreq := s.fab.ingress.getD 0 {}, since := 0 }] } }

/-- Device 0 with a request for device 1 waiting, which port 0 leads to. -/
def memSendState : State :=
  { engineState 0 0 [] with
    bld := { applied := true, hop0 := [{ phys := 0, en := true }], cur := { ttab := List.replicate 15 0, jobs := [{ jobId := 7 }], st := [(0x2F0008, 0x80000)] } }
    ht := { state := .locked }, ports := [(0, { state := 3 })], boot := { sincePwrOk := 2 }
    mem := Memory.writeAll {} [(ssramBase + 16, leBytes 4 0xC0)]
    fab := { fabId := 0, toSend := [{ op := 2, len := 1, addr := BitVec.ofNat 64 (2 ^ 48 + 0x2000), data := [7] }] } }

def sendReq : RemReq := { op := 2, len := 1, addr := BitVec.ofNat 64 (2 ^ 48 + 0x2000), data := [7] }

def sentReq : RemReq :=
  { sendReq with tag := memSendState.freeTag, sync := sendReq.isWrite && !tget false memSendState.fab.synced (devOf sendReq.addr.toNat), rseq := if sendReq.isWrite then tget 0 memSendState.fab.rseq (devOf sendReq.addr.toNat) else 0, deadline := memSendState.now + memSendState.loadTimeout }

def sentState : State :=
  (State.inject { memSendState with fab := { memSendState.fab with toSend := memSendState.fab.toSend.eraseIdx 0 } } 2 0x10 (devOf sendReq.addr.toNat)
    (flowKey sendReq.addr.toNat) (RemReq.payload sentReq)).getD {}

def waitReq : RemReq := { op := 1, len := 2, tag := 4, addr := BitVec.ofNat 64 (2 ^ 48), dest := [(0x2000, 2)] }

def rspState (st tag : Nat) : State :=
  { engineState 0 0 [] with fab := { fabId := 0, outstanding := [waitReq], responses := [{ status := st, tag, data := [7, 8] }] } }

def fullState : State :=
  let s := recState 3 2 0x3000 3 2
  { s with fab := { s.fab with held := List.replicate 1024 ⟨{}, 0⟩ } }

def ffffReq : RemReq := { op := 2, len := 1, addr := BitVec.ofNat 64 (0xFFFF * 2 ^ 48 + 0x2000), data := [7] }

def ffffState : State := { memSendState with fab := { memSendState.fab with toSend := [ffffReq] } }

def ffffSent : RemReq :=
  { ffffReq with tag := ffffState.freeTag, sync := ffffReq.isWrite && !tget false ffffState.fab.synced (devOf ffffReq.addr.toNat), rseq := if ffffReq.isWrite then tget 0 ffffState.fab.rseq (devOf ffffReq.addr.toNat) else 0, deadline := ffffState.now + ffffState.loadTimeout }

theorem meets_RemoteWrites_1 : ∃ (s : State) (u : State) (w : State) (q : InReq) (i : Instr) (op : Nat) (old : Nat) (x : Nat), s.arrives op = some (u, q) ∧ u.acceptWrite q = some w ∧ w.targetCheck q = 0 ∧ w.mem.nat (localOf q.req.addr.toNat) q.req.len = old ∧ (i, op, x) ∈ [(Instr.aadd, 0x10, old + q.req.a.toNat), (.aand, 0x13, old &&& q.req.a.toNat), (.aor, 0x14, old ||| q.req.a.toNat), (.axor, 0x15, old ^^^ q.req.a.toNat), (.aswap, 0x16, q.req.a.toNat), (.amin, 0x11, if signedOf (8 * q.req.len) q.req.a.toNat < signedOf (8 * q.req.len) old then q.req.a.toNat else old), (.amax, 0x12, if signedOf (8 * q.req.len) old < signedOf (8 * q.req.len) q.req.a.toNat then q.req.a.toNat else old), (.acas, 0x17, if old = q.req.a.toNat % 2 ^ (8 * q.req.len) then q.req.b.toNat else old)] :=
  ⟨destState 0x16 4, uOf (destState 0x16 4) 0x16, wOf (destState 0x16 4) 0x16, qOf (destState 0x16 4) 0x16, .aswap, 0x16, 9, 9, by decide +kernel⟩

theorem meets_RemoteWrites_2 : ∃ (s : State) (u : State) (w : State) (q : InReq) (old : Nat), s.arrives 0x18 = some (u, q) ∧ u.acceptWrite q = some w ∧ w.targetCheck q = 0 ∧ w.mem.nat (localOf q.req.addr.toNat) q.req.len = old :=
  ⟨destState 0x18 4, uOf (destState 0x18 4) 0x18, wOf (destState 0x18 4) 0x18, qOf (destState 0x18 4) 0x18, 9, by decide +kernel⟩

theorem meets_RemoteWrites_3 : ∃ (s : State) (u : State) (w : State) (q : InReq), s.arrives 2 = some (u, q) ∧ u.acceptWrite q = some w ∧ w.targetCheck q = 0 :=
  ⟨destState 2 2, uOf (destState 2 2) 2, wOf (destState 2 2) 2, qOf (destState 2 2) 2, by decide +kernel⟩

theorem meets_RemoteWrites_4 : ∃ (s : State) (u : State) (w : State) (q : InReq), s.arrives 3 = some (u, q) ∧ u.acceptWrite q = some w ∧ w.gapClosed q = true ∧ w.targetCheck q = 0 :=
  ⟨destState 3 2 0x3000, uOf (destState 3 2 0x3000) 3, wOf (destState 3 2 0x3000) 3, qOf (destState 3 2 0x3000) 3, by decide +kernel⟩

theorem meets_RemoteWrites_5 : ∃ (s : State) (u : State) (w : State) (q : InReq), s.arrives 3 = some (u, q) ∧ u.acceptWrite q = some w ∧ w.gapClosed q = false ∧ s.fab.held.length < 1024 :=
  ⟨recState 3 2 0x3000 3 2, uOf (recState 3 2 0x3000 3 2) 3, wOf (recState 3 2 0x3000 3 2) 3, qOf (recState 3 2 0x3000 3 2) 3, by decide +kernel⟩

theorem meets_RemoteWrites_6 : ∃ (s : State) (u : State) (w : State) (q : InReq), s.arrives 3 = some (u, q) ∧ u.acceptWrite q = some w ∧ w.gapClosed q = false ∧ 1024 ≤ s.fab.held.length :=
  ⟨fullState, uOf (fullState) 3, wOf (fullState) 3, qOf (fullState) 3, by decide +kernel⟩

theorem meets_RemoteWrites_7 : ∃ (s : State) (h : HeldStore) (q : InReq), (s.fab.held.find? fun h => s.gapClosed h.inreq) = some h ∧ h.inreq = q ∧ s.targetCheck q = 0 :=
  ⟨heldState 2 2 0, ((heldState 2 2 0).fab.held.getD 0 ⟨{}, 0⟩), ((heldState 2 2 0).fab.held.getD 0 ⟨{}, 0⟩).inreq, by decide +kernel⟩

theorem meets_RemoteWrites_8 : ∃ (s : State) (h : HeldStore) (q : InReq) (r : StreamRec), (s.fab.held.find? fun h => decide (h.since + s.loadTimeout / 2 ≤ s.now) && !s.gapClosed h.inreq) = some h ∧ h.inreq = q ∧ s.stream q.src = some r ∧ s.targetCheck q = 0 :=
  ⟨heldState 3 2 50000, ((heldState 3 2 50000).fab.held.getD 0 ⟨{}, 0⟩), ((heldState 3 2 50000).fab.held.getD 0 ⟨{}, 0⟩).inreq, { next := 2 }, by decide +kernel⟩

theorem meets_RemoteAnswers_1 : ∃ (s : State) (u : State) (q : InReq) (i : Instr) (op : Nat), s.arrives op = some (u, q) ∧ u.acceptWrite q = none ∧ (i, op) ∈ [(Instr.remoteStore, 2), (.remoteStoreF, 3), (.aadd, 0x10), (.amin, 0x11), (.amax, 0x12), (.aand, 0x13), (.aor, 0x14), (.axor, 0x15), (.aswap, 0x16), (.acas, 0x17), (.fadd, 0x18)] :=
  ⟨destState 2 2 0 0 false, uOf (destState 2 2 0 0 false) 2, qOf (destState 2 2 0 0 false) 2, .remoteStore, 2, by decide +kernel⟩

theorem meets_RemoteAnswers_2 : ∃ (s : State) (u : State) (w : State) (q : InReq) (i : Instr) (op : Nat) (st : Nat), s.arrives op = some (u, q) ∧ u.acceptWrite q = some w ∧ w.targetCheck q = st ∧ st ≠ 0 ∧ (i, op) ∈ [(Instr.remoteStore, 2), (.aadd, 0x10), (.amin, 0x11), (.amax, 0x12), (.aand, 0x13), (.aor, 0x14), (.axor, 0x15), (.aswap, 0x16), (.acas, 0x17), (.fadd, 0x18)] :=
  ⟨destState 2 2 0 0 true 8, uOf (destState 2 2 0 0 true 8) 2, wOf (destState 2 2 0 0 true 8) 2, qOf (destState 2 2 0 0 true 8) 2, .remoteStore, 2, stBounds, by decide +kernel⟩

theorem meets_RemoteAnswers_3 : ∃ (s : State) (u : State) (q : InReq), s.arrives 1 = some (u, q) ∧ u.targetCheck q = 0 :=
  ⟨destState 1 2, uOf (destState 1 2) 1, qOf (destState 1 2) 1, by decide +kernel⟩

theorem meets_RemoteAnswers_4 : ∃ (s : State) (u : State) (q : InReq) (st : Nat), s.arrives 1 = some (u, q) ∧ u.targetCheck q = st ∧ st ≠ 0 :=
  ⟨destState 1 0, uOf (destState 1 0) 1, qOf (destState 1 0) 1, stBounds, by decide +kernel⟩

theorem meets_RemoteAnswers_5 : ∃ (s : State) (u : State) (i : Nat) (r : RemReq) (r' : RemReq), s.nextSend = some i ∧ s.fab.toSend.getD i {} = r ∧ s.fab.outstanding.length < 65536 ∧ devOf r.addr.toNat ≠ 0xFFFF ∧ { r with tag := s.freeTag, sync := r.isWrite && !tget false s.fab.synced (devOf r.addr.toNat), rseq := if r.isWrite then tget 0 s.fab.rseq (devOf r.addr.toNat) else 0, deadline := s.now + s.loadTimeout } = r' ∧ State.inject { s with fab := { s.fab with toSend := s.fab.toSend.eraseIdx i } } 2 0x10 (devOf r.addr.toNat) (flowKey r.addr.toNat) (RemReq.payload r') = some u :=
  ⟨memSendState, sentState, 0, sendReq, sentReq, by decide +kernel⟩

theorem meets_RemoteAnswers_6 : ∃ (s : State) (i : Nat) (st : Nat) (r : RemReq) (r' : RemReq), s.nextSend = some i ∧ s.fab.toSend.getD i {} = r ∧ { r with tag := s.freeTag, sync := r.isWrite && !tget false s.fab.synced (devOf r.addr.toNat), rseq := if r.isWrite then tget 0 s.fab.rseq (devOf r.addr.toNat) else 0, deadline := s.now + s.loadTimeout } = r' ∧ ((devOf r.addr.toNat = 0xFFFF ∧ st = stBounds ∨ devOf r.addr.toNat ≠ 0xFFFF ∧ st = stRouteDead ∧ State.inject { s with fab := { s.fab with toSend := s.fab.toSend.eraseIdx i } } 2 0x10 (devOf r.addr.toNat) (flowKey r.addr.toNat) (RemReq.payload r') = none)) :=
  ⟨ffffState, 0, stBounds, ffffReq, ffffSent, by rfl, by decide +kernel⟩

theorem meets_RemoteAnswers_7 : ∃ (s : State) (i : Nat) (r : RemReq), s.nextSend = some i ∧ s.fab.toSend.getD i {} = r :=
  ⟨memSendState, 0, sendReq, by decide +kernel⟩

theorem meets_RemoteAnswers_8 : ∃ (s : State), s.nextSend = none :=
  ⟨{}, by decide +kernel⟩

theorem meets_RemoteAnswers_9 : ∃ (s : State) (p : InRsp) (ps : List InRsp) (r : RemReq), s.fab.responses = p :: ps ∧ (s.fab.outstanding.find? fun r => r.tag == p.tag && decide (p.at' ≤ r.deadline)) = some r ∧ p.status = 0 :=
  ⟨rspState 0 4, { tag := 4, data := [7, 8] }, [], waitReq, by decide +kernel⟩

theorem meets_RemoteAnswers_10 : ∃ (s : State) (p : InRsp) (ps : List InRsp) (r : RemReq), s.fab.responses = p :: ps ∧ (s.fab.outstanding.find? fun r => r.tag == p.tag && decide (p.at' ≤ r.deadline)) = some r ∧ p.status ≠ 0 :=
  ⟨rspState 0x21 4, { status := 0x21, tag := 4, data := [7, 8] }, [], waitReq, by decide +kernel⟩

theorem meets_RemoteAnswers_11 : ∃ (s : State) (p : InRsp) (ps : List InRsp), s.fab.responses = p :: ps ∧ ((∀ r ∈ s.fab.outstanding, r.tag = p.tag → r.deadline < p.at')) :=
  ⟨rspState 0 5, { tag := 5, data := [7, 8] }, [], by decide +kernel⟩

theorem meets_RemoteAnswers_12 : ∃ (s : State) (n : Nat) (r : RemReq), (s.fab.outstanding.find? fun r => r.tag == n && decide (r.deadline < s.now) && s.fab.responses.all (fun p => p.tag != n || decide (r.deadline < p.at'))) = some r :=
  ⟨{ rspState 0 5 with ht := { state := .locked, count := 1 } }, 4, waitReq, by decide +kernel⟩

theorem meets_RemoteAnswers_13 : ∃ (s : State) (n : Nat), ((∀ r ∈ s.fab.outstanding, r.tag = n → s.now ≤ r.deadline ∨ ∃ p ∈ s.fab.responses, p.tag = n ∧ p.at' ≤ r.deadline)) :=
  ⟨{ rspState 0 4 with ht := { state := .locked, count := 1 } }, 4, by decide +kernel⟩

theorem tget_zip (bs : List Byte) : ∀ j k : Nat, tget 0 ((List.range' j bs.length).zip bs) (j + k) = bs.getD k 0 := by
  induction bs with
  | nil => intro j k; rfl
  | cons b r ih =>
    intro j k
    cases k with
    | zero => simp [tget, tfind, List.range'_succ]
    | succ k =>
      have := ih (j + 1) k
      rw [Nat.add_right_comm, Nat.add_assoc] at this
      simpa [tget, tfind, List.range'_succ] using this

theorem getD_map_range (bs : List Byte) : (List.range bs.length).map (fun k => bs.getD k 0) = bs := by
  apply List.ext_getElem
  · simp
  · intro i h1 h2; simp [List.getD_eq_getElem?_getD, List.getElem?_eq_getElem h2]

theorem takeBytes_append (x y : List Byte) : takeBytes x.length (x ++ y) = x := by
  induction x with
  | nil => rfl
  | cons b r ih => simp [takeBytes, ih]

theorem slice_left (x y : List Byte) : slice (x ++ y) 0 x.length = x := takeBytes_append x y

theorem slice_right (x y : List Byte) (n : Nat) : slice (x ++ y) x.length n = slice y 0 n := by
  simp [slice]

theorem leNat_leBytes (n : Nat) : ∀ v, v < 256 ^ n → leNat (leBytes n v) = v := by
  induction n with
  | zero => intro v h; simp [leBytes, leNat] at *; omega
  | succ n ih =>
    intro v h
    have : v / 256 < 256 ^ n := by
      rw [Nat.pow_succ] at h
      exact Nat.div_lt_of_lt_mul (by omega)
    simp only [leBytes, leNat, ih _ this, BitVec.toNat_ofNat]
    omega

/-- The fingerprint of a Warden that holds no identity key yet. -/
def fprNat : Nat := (deviceFpr []).toNat

/-- A request to the Warden with `ns` signatures; the nonce is 0. -/
def wbytes (cmd a b : Nat) (p : List Byte) (ns : Nat) : List Byte :=
  (ascii "AZB7WREQ" ++ leBytes 1 cmd ++ leBytes 1 a ++ leBytes 1 b ++ [0] ++ leBytes 4 p.length ++ leBytes 16 fprNat ++ zeros 32) ++
    (p ++ zeros (114 * ns))

theorem wbytes_fpr (cmd a b : Nat) (p : List Byte) (ns : Nat) : leAt (wbytes cmd a b p ns) 0x10 16 = fprNat := by
  have h : slice (wbytes cmd a b p ns) 0x10 16 = leBytes 16 fprNat := rfl
  rw [leAt, h, leNat_leBytes]
  have := (deviceFpr []).isLt
  unfold fprNat
  omega

/-- The Warden in maintenance, with that request in its mailbox. -/
def wardenState (cmd a b : Nat) (p : List Byte) (ns : Nat) (w : Warden := { mode := 2 }) (f : Fuses := {}) (m : Memory := {})
    (u : Nat := 0) (js : Sparse JobSlot := []) : State :=
  { pwr := { pwrOk := true }, boot := { step := 5, fwKeyUsed := u }, fuse := f, mem := m, jobs := js
    wdn := { w with wmbLen := BitVec.ofNat 16 (wbytes cmd a b p ns).length
                    wmbBytes := (List.range' 0 (wbytes cmd a b p ns).length).zip (wbytes cmd a b p ns) } }

theorem wardenState_wreq {cmd a b : Nat} {p : List Byte} {ns : Nat} {w : Warden} {f : Fuses} {m : Memory} {u : Nat} {js : Sparse JobSlot} (h : (wbytes cmd a b p ns).length < 65536) :
    (wardenState cmd a b p ns w f m u js).wreq = wbytes cmd a b p ns := by
  unfold State.wreq wardenState getBytes
  simp only [BitVec.toNat_ofNat, Nat.mod_eq_of_lt h]
  conv => rhs; rw [← getD_map_range (wbytes cmd a b p ns)]
  apply List.map_congr_left
  intro k _
  exact tget_zip _ 0 k

theorem wardenState_fpr {cmd a b : Nat} {p : List Byte} {ns : Nat} {w : Warden} {f : Fuses} {m : Memory} {u : Nat} {js : Sparse JobSlot} (h : (wbytes cmd a b p ns).length < 65536) :
    leAt (wardenState cmd a b p ns w f m u js).wreq 0x10 16 = fprNat := by rw [wardenState_wreq h, wbytes_fpr]

theorem wardenState_payload {cmd a b : Nat} {p : List Byte} {ns : Nat} {w : Warden} {f : Fuses} {m : Memory} {u : Nat} {js : Sparse JobSlot} (h : (wbytes cmd a b p ns).length < 65536) :
    wreqPayload (wardenState cmd a b p ns w f m u js).wreq = p := by
  have hl : p.length < 65536 := by unfold wbytes at h; simp at h; omega
  have h0 : slice (wbytes cmd a b p ns) 0x0C 4 = leBytes 4 p.length := rfl
  have h1 : leAt (wbytes cmd a b p ns) 0x0C 4 = p.length := by rw [leAt, h0, leNat_leBytes]; omega
  rw [wardenState_wreq h, wreqPayload, h1]
  unfold wbytes
  exact (slice_right _ _ p.length).trans (slice_left p _)

theorem wbytes_at (cmd a b : Nat) (p : List Byte) (ns : Nat) (hc : cmd < 256) (ha : a < 256) (hb : b < 256) (hp : p.length < 65536) :
    leAt (wbytes cmd a b p ns) 8 1 = cmd ∧ leAt (wbytes cmd a b p ns) 9 1 = a ∧ leAt (wbytes cmd a b p ns) 10 1 = b ∧
      leAt (wbytes cmd a b p ns) 0x0C 4 = p.length := by
  have h8 : slice (wbytes cmd a b p ns) 8 1 = leBytes 1 cmd := rfl
  have h9 : slice (wbytes cmd a b p ns) 9 1 = leBytes 1 a := rfl
  have hA : slice (wbytes cmd a b p ns) 10 1 = leBytes 1 b := rfl
  have hC : slice (wbytes cmd a b p ns) 0x0C 4 = leBytes 4 p.length := rfl
  simp only [leAt, h8, h9, hA, hC]
  exact ⟨leNat_leBytes 1 _ hc, leNat_leBytes 1 _ ha, leNat_leBytes 1 _ hb, leNat_leBytes 4 _ (by omega)⟩

theorem wbytes_at' (cmd a b : Nat) (p : List Byte) (ns : Nat) (ha : a < 256) (hb : b < 256) (_ : p.length < 65536) :
    leAt (wbytes cmd a b p ns) 9 1 = a ∧ leAt (wbytes cmd a b p ns) 10 1 = b := by
  have h9 : slice (wbytes cmd a b p ns) 9 1 = leBytes 1 a := rfl
  have hA : slice (wbytes cmd a b p ns) 10 1 = leBytes 1 b := rfl
  simp only [leAt, h9, hA]
  exact ⟨leNat_leBytes 1 _ ha, leNat_leBytes 1 _ hb⟩

theorem wbytes_fixed (cmd a b : Nat) (p : List Byte) (ns : Nat) : slice (wbytes cmd a b p ns) 0 8 = ascii "AZB7WREQ" ∧
    leAt (wbytes cmd a b p ns) 0x0B 1 = 0 ∧ leAt (wbytes cmd a b p ns) 0x30 16 = 0 ∧ leAt (wbytes cmd a b p ns) 0x20 16 = 0 := by
  have hB : slice (wbytes cmd a b p ns) 0x0B 1 = [0] := rfl
  have h3 : slice (wbytes cmd a b p ns) 0x30 16 = zeros 16 := rfl
  have h2 : slice (wbytes cmd a b p ns) 0x20 16 = zeros 16 := rfl
  simp only [leAt, hB, h3, h2]
  exact ⟨rfl, by decide⟩

theorem wardenState_passes {cmd a b n : Nat} {p : List Byte} {ns : Nat} {w : Warden} {f : Fuses} {m : Memory} {u : Nat} {js : Sparse JobSlot}
    {sig : SigVerdict} (h : (wbytes cmd a b p ns).length < 65536 ∧ w.wmbBusy = false ∧ w.nonce = 0 ∧ w.identityKey = [] ∧ cmd < 256 ∧ a < 256 ∧ b < 256 ∧ p.length = n ∧
      (wbytes cmd a b p ns).length = 0x40 + n + 114 * ((if a = 0xFF then 0 else 1) + (if b = 0xFF then 0 else 1)) ∧
      (w.signs a sig.a && w.signs b sig.b) = true) : (wardenState cmd a b p ns w f m u js).Passes cmd n sig := by
  obtain ⟨hl, hb, hn, hi, hc, ha, hb', rfl, hx, hs⟩ := h
  have hp : p.length < 65536 := by unfold wbytes at hl; simp at hl; omega
  obtain ⟨g8, g9, gA, gC⟩ := wbytes_at cmd a b p ns hc ha hb' hp
  obtain ⟨g0, gB, g3, g2⟩ := wbytes_fixed cmd a b p ns
  refine ⟨hb, rfl, by show 4 ≤ 5; omega, ?_, ?_, ?_⟩
  · rw [wardenState_wreq hl, g8]
  · rw [wardenState_wreq hl, gC]
  · rw [wardenState_wreq hl]
    have hw (c : Nat) (v : Bool) : (wardenState cmd a b p ns w f m u js).wdn.signs c v = w.signs c v := rfl
    have hnn : (wardenState cmd a b p ns w f m u js).wdn.nonce = 0 := hn
    have hf : (deviceFpr (wardenState cmd a b p ns w f m u js).wdn.identityKey).toNat = fprNat := by
      show (deviceFpr w.identityKey).toNat = _
      rw [hi]
      unfold fprNat
      with_reducible rfl
    simp only [State.wreqChecks, wreqSigners, g9, gA, gC, g0, gB, g3, g2, hx, hw, hnn, hf, wbytes_fpr, hs, beq_self_eq_true, Bool.and_self, need, firstFail, if_true,
      List.findSome?]
    rfl

theorem wardenState_signers {cmd a b : Nat} {p : List Byte} {ns : Nat} {w : Warden} {f : Fuses} {m : Memory} {u : Nat} {js : Sparse JobSlot}
    (h : (wbytes cmd a b p ns).length < 65536 ∧ a < 256 ∧ b < 256) : wreqSigners (wardenState cmd a b p ns w f m u js).wreq = (a, b) := by
  rw [wardenState_wreq h.1]
  have hp : p.length < 65536 := by have := h.1; unfold wbytes at this; simp at this; omega
  obtain ⟨g9, gA⟩ := wbytes_at' cmd a b p ns h.2.1 h.2.2 hp
  rw [wreqSigners, g9, gA]

/-- An owner record of count 1 whose seal is right. -/
def recordBody : List Byte := ascii "AZB7OWNR" ++ leBytes 4 1 ++ leBytes 4 1 ++ leBytes 8 2 ++ leBytes 4 1 ++ zeros 292

def recordBytes : List Byte := recordBody ++ ownerSeal [] recordBody

theorem recordBytes_ok : recordOk [] recordBytes 1 = true := by decide +kernel

def restoreState : State := wardenState 0x23 0xFF 0xFF recordBytes 0 { mode := 1, ownerLost := true } { ownerBits := 1 }

theorem restore_payload : wreqPayload restoreState.wreq = recordBytes := wardenState_payload (by decide +kernel)

def badPolicy : List Byte := zeros 16 ++ [6] ++ zeros 367

def ownerPayload : List Byte := zeros 256 ++ leBytes 4 1 ++ leBytes 8 0

theorem meets_WardenMailbox_1 : ∃ (s : State) (len : BitVec 16), s.pwr.pwrOk = true ∧ len.toNat ≤ 0x1000 :=
  ⟨{ pwr := { pwrOk := true } }, 16, by decide⟩

theorem meets_WardenMailbox_2 : ∃ (s : State) (len : BitVec 16), (s.pwr.pwrOk = false ∨ 0x1000 < len.toNat) :=
  ⟨{}, 16, by decide⟩

theorem meets_WardenMailbox_3 : ∃ (s : State) (half : Half) (d : BitVec 64) (i : Nat) (p : Nat) (bs : List Byte), s.pwr.pwrOk = true ∧ half ≠ .other ∧ mailboxWrite s.wdn.wmbPtr s.wdn.wmbLen.toNat half d = some (i, bs, p) :=
  ⟨{ pwr := { pwrOk := true }, wdn := { wmbLen := 16, wmbPtr := 8 } }, .low, 5, 8, 8, [5, 0, 0, 0], by decide⟩

theorem meets_WardenMailbox_4 : ∃ (s : State) (half : Half) (d : BitVec 64), half ≠ .other ∧ mailboxWrite s.wdn.wmbPtr s.wdn.wmbLen.toNat half d = none :=
  ⟨{ pwr := { pwrOk := true }, wdn := { wmbLen := 16, wmbPtr := 16 } }, .low, 5, by decide⟩

theorem meets_WardenMailbox_5 : ∃ (s : State), s.linkUp = true :=
  ⟨{ boot := { hostRate := 1 }, pwr := { perst := false } }, by decide⟩

theorem meets_WardenMailbox_7 : ∃ (s : State) (sig : SigVerdict) (acc : List Bool) (i : Instr) (cmd : Nat) (st : Nat) (d : Nat), s.Asked cmd ∧ firstFail (s.wreqChecks s.wreq sig) = some (st, d) ∧ (i, cmd) ∈ [(Instr.maintEnter sig, 0x01), (.maintExit sig, 0x02), (.fwUpdate sig acc, 0x10), (.svnCommit sig, 0x11), (.fwkeyRevoke sig, 0x12), (.ownerClaim sig, 0x20), (.ownerSet sig, 0x21), (.ownerRelease sig, 0x22), (.recordRestore sig, 0x23), (.debugAuth sig, 0x30), (.recordRead sig, 0x40)] :=
  ⟨{ pwr := { pwrOk := true }, boot := { step := 5 } }, {}, [], .maintEnter {}, 1, stStructure, 0, by decide +kernel⟩

theorem meets_WardenMailbox_8 : ∃ (s : State) (sig : SigVerdict) (acc : List Bool) (i : Instr) (cmd : Nat), s.Asked cmd ∧ firstFail (s.wreqChecks s.wreq sig) = none ∧ leAt s.wreq 8 1 ≠ cmd ∧ (i, cmd) ∈ [(Instr.maintEnter sig, 0x01), (.maintExit sig, 0x02), (.fwUpdate sig acc, 0x10), (.svnCommit sig, 0x11), (.fwkeyRevoke sig, 0x12), (.ownerClaim sig, 0x20), (.ownerSet sig, 0x21), (.ownerRelease sig, 0x22), (.recordRestore sig, 0x23), (.debugAuth sig, 0x30), (.recordRead sig, 0x40)] :=
  ⟨wardenState 3 0xFF 0xFF [] 0, {}, [], .maintEnter {}, 1, by decide +kernel, (wardenState_passes (sig := {}) (n := 0) (by decide +kernel)).2.2.2.2.2, by decide +kernel⟩

theorem meets_WardenMailbox_9 : ∃ (s : State) (sig : SigVerdict) (acc : List Bool) (i : Instr), (s.wdn.wmbBusy = true ∨ s.pwr.pwrOk = false ∨ s.boot.step < 4) ∧ i ∈ [Instr.maintEnter sig, .maintExit sig, .fwUpdate sig acc, .svnCommit sig, .fwkeyRevoke sig, .ownerClaim sig, .ownerSet sig, .ownerRelease sig, .recordRestore sig, .debugAuth sig, .recordRead sig] :=
  ⟨{}, {}, [], .recordRead {}, by decide⟩

theorem meets_WardenRequests_1 : ∃ (s : State) (sig : SigVerdict), s.Passes 0x01 0 sig ∧ wreqSigners s.wreq = (0xFF, 0xFF) ∧ s.wdn.mode = 1 ∧ s.bld.state = .empty ∧ ((∀ j, j < 8 → (s.slot j).state = 0)) :=
  ⟨wardenState 1 0xFF 0xFF [] 0 { mode := 1 }, {}, wardenState_passes (by decide +kernel), wardenState_signers (by decide +kernel), rfl, rfl, by decide⟩

theorem meets_WardenRequests_2 : ∃ (s : State) (sig : SigVerdict) (j : Nat), s.Passes 0x01 0 sig ∧ j < 8 ∧ (s.slot j).state ≠ 0 :=
  ⟨wardenState 1 0xFF 0xFF [] 0 { mode := 1 } {} {} 0 [(0, { state := 1 })], {}, 0, wardenState_passes (by decide +kernel), by decide⟩

theorem meets_WardenRequests_3 : ∃ (s : State) (sig : SigVerdict), s.Passes 0x02 0 sig ∧ wreqSigners s.wreq = (0xFF, 0xFF) ∧ s.wdn.mode = 2 :=
  ⟨wardenState 2 0xFF 0xFF [] 0, {}, wardenState_passes (by decide +kernel), wardenState_signers (by decide +kernel), rfl⟩

theorem meets_WardenRequests_4 : ∃ (s : State) (sig : SigVerdict) (acc : List Bool) (p : List Byte) (img : List Byte) (k : Nat), s.Passes 0x10 16 sig ∧ wreqPayload s.wreq = p ∧ s.updateImage p = img ∧ s.wdn.mode = 2 ∧ (if s.upgradeSigned then oneSigner isOwner else noSigner) (wreqSigners s.wreq) = true ∧ leAt p 0 8 % 256 = 0 ∧ inGddr (leAt p 0 8) (leAt p 8 8) = true ∧ leAt p 8 8 ≤ 0x800000 ∧ s.hasBad (leAt p 0 8) (leAt p 8 8) = false ∧ imageKey s img none acc = some k :=
  ⟨wardenState 0x10 0xFF 0xFF (leBytes 8 0x1000 ++ leBytes 8 256) 0 { mode := 2 } {} (Memory.writeAll {} [(0x1000, goodImage)]), {}, [true], leBytes 8 0x1000 ++ leBytes 8 256, goodImage, 0, wardenState_passes (by decide +kernel), wardenState_payload (by decide +kernel), by decide +kernel, rfl, by rw [wardenState_signers (by decide +kernel)]; decide, by decide +kernel⟩

theorem meets_WardenRequests_5 : ∃ (s : State) (sig : SigVerdict) (acc : List Bool) (p : List Byte), s.Passes 0x10 16 sig ∧ wreqPayload s.wreq = p ∧ s.wdn.mode = 2 ∧ (if s.upgradeSigned then oneSigner isOwner else noSigner) (wreqSigners s.wreq) = true ∧ leAt p 0 8 % 256 = 0 ∧ inGddr (leAt p 0 8) (leAt p 8 8) = true ∧ leAt p 8 8 ≤ 0x800000 ∧ imageKey s (s.updateImage p) none acc = none :=
  ⟨wardenState 0x10 0xFF 0xFF (leBytes 8 0x1000 ++ leBytes 8 0) 0, {}, [], leBytes 8 0x1000 ++ leBytes 8 0, wardenState_passes (by decide +kernel), wardenState_payload (by decide +kernel), rfl, by rw [wardenState_signers (by decide +kernel)]; decide, by decide +kernel⟩

theorem meets_WardenRequests_6 : ∃ (s : State), s.wdn.imageWriting = true :=
  ⟨{ wdn := { imageWriting := true } }, by decide⟩

theorem meets_WardenRequests_7 : ∃ (s : State) (sig : SigVerdict) (v : Nat), s.Passes 0x11 2 sig ∧ s.wdn.mode ≠ 0 ∧ (if s.wdn.owned then oneSigner isOwner else noSigner) (wreqSigners s.wreq) = true ∧ leAt (wreqPayload s.wreq) 0 2 = v ∧ v = s.boot.imageSvn ∧ s.fuse.svnBits ≤ v ∧ v ≤ 64 :=
  ⟨wardenState 0x11 0xFF 0xFF (leBytes 2 0) 0, {}, 0, wardenState_passes (by decide +kernel), by decide, by rw [wardenState_signers (by decide +kernel)]; decide, by rw [wardenState_payload (by decide +kernel)]; decide, by decide⟩

theorem meets_WardenRequests_8 : ∃ (s : State) (sig : SigVerdict) (v : Nat), s.Passes 0x11 2 sig ∧ s.wdn.mode ≠ 0 ∧ (if s.wdn.owned then oneSigner isOwner else noSigner) (wreqSigners s.wreq) = true ∧ leAt (wreqPayload s.wreq) 0 2 = v ∧ (v ≠ s.boot.imageSvn ∨ v < s.fuse.svnBits) :=
  ⟨wardenState 0x11 0xFF 0xFF (leBytes 2 5) 0, {}, 5, wardenState_passes (by decide +kernel), by decide, by rw [wardenState_signers (by decide +kernel)]; decide, by rw [wardenState_payload (by decide +kernel)]; decide, by decide⟩

theorem meets_WardenRequests_9 : ∃ (s : State) (sig : SigVerdict) (k : Nat) (c : Nat), s.Passes 0x12 1 sig ∧ s.wdn.mode = 2 ∧ s.upgradeSigned = false ∧ k < 4 ∧ c < 4 ∧ c ≠ k ∧ leAt (wreqPayload s.wreq) 0 1 = k ∧ wreqSigners s.wreq = (0x20 + c, 0xFF) ∧ s.fuse.revoked.getLsbD c = false ∧ k ≠ s.boot.fwKeyUsed :=
  ⟨wardenState 0x12 0x21 0xFF [2] 1, { a := true }, 2, 1, wardenState_passes (by decide +kernel), rfl, by decide, by decide, by decide, by decide, by rw [wardenState_payload (by decide +kernel)]; decide, wardenState_signers (by decide +kernel), by decide⟩

theorem meets_WardenRequests_10 : ∃ (s : State) (sig : SigVerdict) (k : Nat), s.Passes 0x12 1 sig ∧ s.wdn.mode = 2 ∧ k < 4 ∧ leAt (wreqPayload s.wreq) 0 1 = k ∧ ((∀ i, i < 4 → i ≠ k → s.fuse.revoked.getLsbD i = true)) :=
  ⟨wardenState 0x12 0x21 0xFF [2] 1 { mode := 2 } { revoked := 0xB }, { a := true }, 2, wardenState_passes (by decide +kernel), rfl, by decide, by rw [wardenState_payload (by decide +kernel)]; decide, by decide⟩

theorem meets_WardenRequests_11 : ∃ (s : State) (sig : SigVerdict) (p : List Byte) (b : List Byte), s.Passes 0x20 268 sig ∧ wreqPayload s.wreq = p ∧ s.wdn.mode = 2 ∧ s.wdn.owned = false ∧ s.wdn.ownerLost = false ∧ wreqSigners s.wreq = (0x11, 0xFF) ∧ firstFail (s.ownerChecks p) = none ∧ sealRecord s.wdn.sealKey (s.fuse.ownerBits + 1) (leAt p 260 8) (leAt p 256 4) (p.take 256) = b :=
  ⟨wardenState 0x20 0x11 0xFF ownerPayload 1, { a := true }, ownerPayload, sealRecord [] 1 (leAt ownerPayload 260 8) (leAt ownerPayload 256 4) (ownerPayload.take 256), wardenState_passes (by decide +kernel), wardenState_payload (by decide +kernel), rfl, rfl, rfl, wardenState_signers (by decide +kernel), by decide +kernel, rfl⟩

theorem meets_WardenRequests_12 : ∃ (s : State) (sig : SigVerdict) (p : List Byte) (b : List Byte), s.Passes 0x21 268 sig ∧ wreqPayload s.wreq = p ∧ s.wdn.mode = 2 ∧ s.wdn.owned = true ∧ oneSigner isOwner (wreqSigners s.wreq) = true ∧ firstFail (s.ownerChecks p) = none ∧ sealRecord s.wdn.sealKey (s.fuse.ownerBits + 1) (leAt p 260 8) (leAt p 256 4) (p.take 256) = b :=
  ⟨wardenState 0x21 1 0xFF ownerPayload 1 { mode := 2, owned := true, keyValid := 2 }, { a := true }, ownerPayload, sealRecord [] 1 (leAt ownerPayload 260 8) (leAt ownerPayload 256 4) (ownerPayload.take 256), wardenState_passes (by decide +kernel), wardenState_payload (by decide +kernel), rfl, rfl, by rw [wardenState_signers (by decide +kernel)]; decide, by decide +kernel, rfl⟩

theorem meets_WardenRequests_13 : ∃ (s : State) (sig : SigVerdict), s.Passes 0x22 0 sig ∧ s.wdn.mode = 2 ∧ s.wdn.owned = true ∧ oneSigner isOwner (wreqSigners s.wreq) = true ∧ s.fuse.ownerBits < 256 :=
  ⟨wardenState 0x22 1 0xFF [] 1 { mode := 2, owned := true, keyValid := 2 }, { a := true }, wardenState_passes (by decide +kernel), rfl, rfl, by rw [wardenState_signers (by decide +kernel)]; decide, by decide⟩

theorem meets_WardenRequests_14 : ∃ (s : State) (sig : SigVerdict) (p : List Byte), s.Passes 0x23 384 sig ∧ wreqPayload s.wreq = p ∧ 5 ≤ s.boot.step ∧ wreqSigners s.wreq = (0xFF, 0xFF) ∧ policyOk (leAt p 0x10 8) = true ∧ recordOk s.wdn.sealKey p s.fuse.ownerBits = true ∧ s.wdn.ownerLost = true :=
  ⟨restoreState, {}, recordBytes, wardenState_passes (by decide +kernel), restore_payload, by decide, wardenState_signers (by decide +kernel), by decide +kernel, recordBytes_ok, rfl⟩

theorem meets_WardenRequests_15 : ∃ (s : State) (sig : SigVerdict) (p : List Byte), s.Passes 0x23 384 sig ∧ wreqPayload s.wreq = p ∧ 5 ≤ s.boot.step ∧ wreqSigners s.wreq = (0xFF, 0xFF) ∧ policyOk (leAt p 0x10 8) = true ∧ s.wdn.ownerLost = false ∧ p ≠ s.wdn.record :=
  ⟨wardenState 0x23 0xFF 0xFF (zeros 384) 0 { mode := 1 }, {}, zeros 384, wardenState_passes (by decide +kernel), wardenState_payload (by decide +kernel), by decide, wardenState_signers (by decide +kernel), by decide +kernel, rfl, by decide +kernel⟩

theorem meets_WardenRequests_16 : ∃ (s : State) (sig : SigVerdict) (p : List Byte), s.Passes 0x23 384 sig ∧ wreqPayload s.wreq = p ∧ 5 ≤ s.boot.step ∧ wreqSigners s.wreq = (0xFF, 0xFF) ∧ policyOk (leAt p 0x10 8) = false :=
  ⟨wardenState 0x23 0xFF 0xFF badPolicy 0 { mode := 1 }, {}, badPolicy, wardenState_passes (by decide +kernel), wardenState_payload (by decide +kernel), by decide, wardenState_signers (by decide +kernel), by decide +kernel⟩

theorem meets_WardenRequests_17 : ∃ (s : State) (sig : SigVerdict), s.Passes 0x40 0 sig ∧ 5 ≤ s.boot.step ∧ wreqSigners s.wreq = (0xFF, 0xFF) :=
  ⟨wardenState 0x40 0xFF 0xFF [] 0, {}, wardenState_passes (by decide +kernel), by decide, wardenState_signers (by decide +kernel)⟩

theorem meets_WardenRequests_18 : ∃ (s : State) (sig : SigVerdict), s.Passes 0x30 1 sig ∧ s.wdn.mode = 2 ∧ leAt (wreqPayload s.wreq) 0 1 = 1 ∧ oneSigner (if s.unowned then (fun c => c == 0x10) else isOwner) (wreqSigners s.wreq) = true :=
  ⟨wardenState 0x30 0x10 0xFF [1] 1, { a := true }, wardenState_passes (by decide +kernel), rfl, by rw [wardenState_payload (by decide +kernel)]; decide, by rw [wardenState_signers (by decide +kernel)]; decide⟩

theorem meets_WardenRequests_19 : ∃ (s : State) (sig : SigVerdict), s.Passes 0x30 1 sig ∧ s.wdn.mode = 2 ∧ leAt (wreqPayload s.wreq) 0 1 = 2 ∧ s.wdn.policy.getLsbD 5 = false ∧ (if s.wdn.owned then twoSigners (fun c => c == 0x10) isOwner else oneSigner (fun c => c == 0x10)) (wreqSigners s.wreq) = true :=
  ⟨wardenState 0x30 0x10 0xFF [2] 1, { a := true }, wardenState_passes (by decide +kernel), rfl, by rw [wardenState_payload (by decide +kernel)]; decide, rfl, by rw [wardenState_signers (by decide +kernel)]; decide⟩

theorem meets_WardenRequests_20 : ∃ (s : State) (sig : SigVerdict), s.Passes 0x30 1 sig ∧ leAt (wreqPayload s.wreq) 0 1 = 2 ∧ s.wdn.policy.getLsbD 5 = true :=
  ⟨wardenState 0x30 0x10 0xFF [2] 1 { mode := 2, policy := 0x20 }, { a := true }, wardenState_passes (by decide +kernel), by rw [wardenState_payload (by decide +kernel)]; decide, by decide⟩

theorem meets_CommandEnds_1 : ∃ (s : State) (c : Cmd), c.compl.toNat ≠ 0 ∧ s.ownAddr c.compl.toNat = true ∧ inMain (localOf c.compl.toNat) 64 = true ∧ s.partBad (localOf c.compl.toNat) 64 = false :=
  ⟨{ fab := { fabId := 0 } }, { compl := 0x1000 }, by decide⟩

theorem meets_CommandEnds_2 : ∃ (s : State) (c : Cmd), c.compl.toNat ≠ 0 ∧ s.ownAddr c.compl.toNat = true ∧ (inMain (localOf c.compl.toNat) 64 = false ∨ s.partBad (localOf c.compl.toNat) 64 = true) :=
  ⟨{ fab := { fabId := 0 } }, { compl := 0xFFFFFFFFFFF0 }, by decide⟩

theorem meets_CommandEnds_3 : ∃ (s : State) (c : Cmd), c.compl.toNat ≠ 0 ∧ s.ownAddr c.compl.toNat = false :=
  ⟨{}, { compl := 0x1000, engine := 2 }, by decide⟩

theorem meets_CommandEnds_4 : ∃ (s : State) (p : InRsp) (ps : List InRsp) (r : RemReq) (e : Ending), s.fab.responses = p :: ps ∧ (s.fab.outstanding.find? fun r => r.tag == p.tag && decide (p.at' ≤ r.deadline)) = some r ∧ p.status = 0 ∧ r.op = 2 ∧ s.fab.endings = [e] ∧ ((∀ x ∈ s.fab.toSend ++ s.fab.outstanding.erase r, x.endId ≠ e.id)) :=
  ⟨{ fab := { responses := [{ tag := 4 }], outstanding := [{ op := 2, tag := 4, len := 64, endId := 1 }], endings := [{ id := 1, cmd := {}, jobId := 0, record := [], signals := true }] }, rings := [(0, { unposted := 1 })] }, { tag := 4 }, [], { op := 2, tag := 4, len := 64, endId := 1 }, { id := 1, cmd := {}, jobId := 0, record := [], signals := true }, by decide +kernel⟩

theorem meets_CommandEnds_5 : ∃ (c : Cmd), c.compl.toNat = 0 :=
  ⟨{}, by decide⟩

theorem meets_CommandEnds_6 : ∃ (c : Cmd), c.compl.toNat = 0 :=
  ⟨{}, by decide⟩

theorem meets_CommandEnds_7 : ∃ (c : Cmd), c.compl.toNat = 0 :=
  ⟨{}, by decide⟩

theorem meets_StepRunsTheFrontCommand_2 : ∃ (s : State), s.pending = [] :=
  ⟨{}, rfl⟩

theorem meets_TickAdvancesTime_1 : ∃ (s : State), s.counting = true ∧ s.ht.pause ≤ 1 :=
  ⟨{ ht := { state := .locked } }, by decide⟩

theorem meets_TickAdvancesTime_2 : ∃ (s : State), s.counting = true ∧ 1 < s.ht.pause :=
  ⟨{ ht := { state := .locked, pause := 2 } }, by decide⟩

theorem meets_TickAdvancesTime_3 : ∃ (s : State), s.ht.state = .acquiring ∧ s.ht.firstAcquire = true :=
  ⟨{ ht := { state := .acquiring, firstAcquire := true } }, by decide⟩

theorem meets_TickAdvancesTime_4 : ∃ (s : State), s.ht.state = .invalid :=
  ⟨{}, by decide⟩

theorem meets_TickAdvancesTime_6 : ∃ (s : State) (w : RepairWrite) (r : List RepairWrite), s.boot.repairWrites = w :: r ∧ w.doneAt ≤ s.boot.sincePwrOk :=
  ⟨{ boot := { repairWrites := [{ seq := 1, doneAt := 0 }] } }, { seq := 1, doneAt := 0 }, [], by decide⟩

theorem meets_TickAdvancesTime_7 : ∃ (s : State) (w : RepairWrite) (v : RepairWrite) (r : List RepairWrite), s.boot.repairWrites = w :: v :: r ∧ w.doneAt ≤ s.boot.sincePwrOk ∧ 2 ≤ w.copy :=
  ⟨{ boot := { repairWrites := [{ seq := 1, copy := 2, doneAt := 0 }, { seq := 2, doneAt := 0 }] } }, { seq := 1, copy := 2, doneAt := 0 }, { seq := 2, doneAt := 0 }, [], by decide⟩

theorem meets_TickAdvancesTime_8 : ∃ (s : State) (w : RepairWrite) (r : List RepairWrite), s.boot.repairWrites = w :: r ∧ s.boot.sincePwrOk < w.doneAt :=
  ⟨{ boot := { repairWrites := [{ seq := 1, doneAt := 5 }] } }, { seq := 1, doneAt := 5 }, [], by decide⟩

theorem meets_TickAdvancesTime_9 : ∃ (s : State), ((∀ i, i < 8 → ∀ w ∈ (s.infSet i).swaps, w.due = false)) ∧ s.host.waiting = [] :=
  ⟨{ ht := { state := .locked }, boot := { sincePwrOk := 3 }, pwr := { pwrOk := true }, ports := [(0, { state := 3, txq := [{ flit := {} }] })] }, by decide⟩

theorem meets_EveryStepKeepsMemoryForm_1 : ∃ (s : State) (t : State), s.MemOk ∧ step s = .next t :=
  ⟨{}, State.tick {}, by unfold State.MemOk; decide, rfl⟩

theorem meets_EveryStepTakesOneCommand_1 : ∃ (s : State) (t : State), step s = .next t :=
  ⟨{ pending := [.perstAssert] }, perstAssert {}, rfl⟩

theorem meets_EveryStepTakesOneCommand_2 : ∃ (s : State) (t : State), s.QueuesOwn ∧ step s = .next t :=
  ⟨{ queues := [(57, [{ engine := 7, job := 1 }])], pending := [.perstAssert] }, perstAssert { queues := [(57, [{ engine := 7, job := 1 }])] }, by decide, rfl⟩

theorem meets_WellFormedCommandsComplete_1 : ∃ (i : Instr), i.wellFormed = true :=
  ⟨.perstAssert, rfl⟩

theorem meets_WellFormedCommandsComplete_2 : ∃ (i : Instr), i.wellFormed = false :=
  ⟨.gddrTrainingDone 96 true, rfl⟩

/-! ## WellFormed refuses a term that names a resource the module does not have -/

theorem test_refuses_rail_out_of_range : ([
    .railRegulationTimeout 0, .railRegulationTimeout 7] : List Instr).all (fun i => !i.wellFormed) = true := by decide

theorem test_refuses_cage_out_of_range : ([
    .cablePowerOverload 4 0 0, .cagePresenceChange 4 false] : List Instr).all (fun i => !i.wellFormed) = true := by decide

theorem test_refuses_channel_out_of_range : ([
    .gddrTrainingDone 96 false, .refreshBatch 96, .refreshRateChange 96 false] : List Instr).all (fun i => !i.wellFormed) = true := by decide

theorem test_refuses_port_out_of_range : ([
    .timeExchangeRequestReceive 12 0 0 {}, .timeExchangeResponseReceive 12 0 0 0 0 {}, .schedFlitSend 12 0 0,
    .schedFlitForward 12 0 0, .cableMemoryRead 12 none, .pmdEqualisationDone 12, .fecLockDone 12,
    .linkLayerExchangeDone 12 0 0 0 0, .mutualAuthenticationDone 12 {} false false {}, .trainingStepTimeout 12 none false,
    .portTrainingRetry 12 0, .authenticationRetry 12 0, .peerTrainingDetected 12, .linkKeyRollover 12 false,
    .flitReceive 12 {} false 0 0 0, .lctlSend 12, .lctlReceive 12 {}, .vc1RetrySend 12 0 0, .portDown 12 0,
    .startAckReceive 12 {}, .startCommitReceive 12 {}, .startAbortReceive 12 {}] : List Instr).all (fun i => !i.wellFormed) = true := by decide

theorem test_refuses_timer_out_of_range : ([
    .hallTimerFire 16, .htTmrCmpWrite 0 16 .whole 0, .htTmrCtlWrite 0 16 .whole 0, .rampUntil 16] : List Instr).all (fun i => !i.wellFormed) = true := by decide

theorem test_refuses_core_out_of_range : ([
    .bundleIssue 256 .none, .waitSatisfied 256, .waitdDeadline 256, .taskEndDrained 256, .ldT 256, .ldG 256, .ldCr 256,
    .creditGrant 256 1, .stT 256, .stS 256, .stA 256, .stFence 256, .mma 256, .mmaScreen 256, .tcvt 256, .tadd 256, .tmul 256,
    .tred 256, .tsparseStrict 256, .tsparsePrune 256, .tsparseMask 256, .tsparseNzlist 256,
    .longInstructionComplete 256 0 false 0 0 false, .coreModeWrite 256 0, .taskCommit 256, .coreScrubDone 256] : List Instr).all (fun i => !i.wellFormed) = true := by decide

theorem test_refuses_window_out_of_range : ([
    .creditGrant 1 8] : List Instr).all (fun i => !i.wellFormed) = true := by decide

theorem test_refuses_ctx_out_of_range : ([
    .exchangePartStart 16, .spoutStreamComplete 16 0, .spoutLateStart 16, .spoutReceiveDeadline 16, .dispatchCommit 16,
    .combineCommit 16, .exchangeEnd 16] : List Instr).all (fun i => !i.wellFormed) = true := by decide

theorem test_refuses_p_out_of_range : ([
    .allocServe 64, .allocDeadline 64, .caddyEngineRequest 0 64 0 0 []] : List Instr).all (fun i => !i.wellFormed) = true := by decide

theorem test_refuses_set_out_of_range : ([
    .acceptComplete 8, .acceptDeadline 8, .coolingEnd 8 1] : List Instr).all (fun i => !i.wellFormed) = true := by decide

theorem test_refuses_region_out_of_range : ([
    .coolingEnd 1 2] : List Instr).all (fun i => !i.wellFormed) = true := by decide

theorem test_refuses_job_out_of_range : ([
    .requestDeadlineRetire 8 0, .preempt 8, .resume 8, .kill 8, .teardownDrainDone 8, .teardownScrubDone 8] : List Instr).all (fun i => !i.wellFormed) = true := by decide

theorem test_refuses_key_out_of_range : ([
    .tenantKeyLoad 16] : List Instr).all (fun i => !i.wellFormed) = true := by decide

theorem test_refuses_ring_out_of_range : ([
    .doorbellWrite 64 0, .descriptorFetch 64 none, .cqHeadWrite 64 .whole 0, .interruptCoalesceTimeout 64] : List Instr).all (fun i => !i.wellFormed) = true := by decide

theorem test_refuses_page_out_of_range : ([
    .biasFlipPageDone 196608] : List Instr).all (fun i => !i.wellFormed) = true := by decide

theorem test_refuses_payload_out_of_range : ([
    .envelopeMessage 0 []] : List Instr).all (fun i => !i.wellFormed) = true := by decide

theorem test_refuses_addr_out_of_range : ([
    .gddrWriteReissue 0x6000000000] : List Instr).all (fun i => !i.wellFormed) = true := by decide

theorem test_refuses_cls_out_of_range : ([
    .logTokenRefill 6] : List Instr).all (fun i => !i.wellFormed) = true := by decide

theorem test_accepts_last_port : (Instr.lctlSend 11).wellFormed = true := by decide
theorem test_accepts_last_channel : (Instr.refreshBatch 95).wellFormed = true := by decide

/-! ## Values of the spec's worked examples -/

/-- 01_module.md, "a sagging hall bus": 57.0 V for 4 ms goes on, for 12 ms is an input shutdown. -/
def sagging : State := { pwr := { running := true, pwrEn := true, internalEnable := true } }
theorem test_sag_of_4_ms_goes_on : inputShutdown 57000 42100 4000000 sagging = sagging := by decide
theorem test_sag_of_12_ms_shuts_down : (inputShutdown 57000 42100 12000000 sagging).pwr.running = false := by decide

/-- 03_hall_time.md, "one exchange on a calibrated port", with A taken as zero: θ is -0.010 ns (-655 after division), in units of 1/65536 ns. -/
def exchanging : State := { ht := { upstream := some 2, exchanging := true, departedAt := 48000, count := 48531 }, ports := [(2, { state := 3 })] }
theorem test_theta_without_asymmetry : (timeExchangeResponseReceive 2 (48000 * 65536) 3154315837 (48400 * 65536) 3180528927 {} exchanging).ht.offset = -655 := by
  decide

/-- 04_blend.md, "a hop-table change that arrives too soon": T rounds to frame 800,001. -/
theorem test_apply_time_rounds_up : roundUp 2048001000 frameLen = 2048002560 ∧ 2048002560 = 800001 * frameLen := by decide

/-- 07_sparsity_and_urn.md, "encoding one group of each kind". -/
theorem test_code_of_two_of_four : codeOf 1 [1, 3] = 0xD ∧ keptOf 1 0xD = some [1, 3] := by decide
theorem test_code_of_four_of_eight : codeOf 2 [1, 3, 4, 6] = 0x17 ∧ keptOf 2 0x17 = some [1, 3, 4, 6] := by decide

/-- 07_sparsity_and_urn.md, "PRUNE with ties": the group (3.0, 0.5, -3.0, 3.0) keeps positions 0 and 2; STRICT fails on it. -/
def tied : List FVal := [.fin false 3 0, .fin false 1 (-1), .fin true 3 0, .fin false 3 0]
theorem test_prune_keeps_lower_of_ties : pruneKept 2 tied = [0, 2] := by decide
theorem test_strict_fails_on_four_nonzeros : strictKept 2 tied = none := by decide

/-- 07_sparsity_and_urn.md, "one near-dense row in an embedding bag": W = 64 in 1 MiB gives slots of 1,056 bytes and 512 of them. -/
def bagUrn : UrnCfg := { base := 0, len := 0x100000, width := 64, frac := 40, job := 0, en := true, spillBase := 0, spillLen := 0 }
theorem test_urn_slots : bagUrn.slotBytes = 1056 ∧ bagUrn.b = 9 := by decide

/-- 10_fabric.md, "a request that meets a dead port": the hops of ROUTE 0x0000C294. -/
theorem test_route_hops : [0, 1, 2].map (routeNibble 0xC294) = [4, 9, 2] := by decide

end Sys2Proof.Tests
end

/-!
PROOF. Register writes (O15). The statement says of BLD_HOP_EPOCH, a read-only register, that no write of it changes anything, for every
requester and every form of access. R430 makes one exception, which the statement's next clause gives itself: a host's access that is
neither a whole register nor an aligned half completes as Unsupported Request, and its completion is an output of the device.
-/

namespace Sys2Proof.Machine

/-- R430: while the host link is up, a host's access that is not aligned, or is neither a whole register nor an aligned half, completes as
Unsupported Request. -/
theorem registerWrite_host_unsupported {s : State} {off : Nat} {h : Half} (v : BitVec 64) (hpwr : s.pwr.pwrOk = true)
    (hlink : s.linkUp = true) (hform : off % 8 ≠ 0 ∨ h = .other) : registerWrite 1 off h v s = s.emit .unsupported := by
  have hreach : (s.pwr.pwrOk && (1 != 1 || s.linkUp)) = true := by simp [hpwr, hlink]
  have hbad : ¬ (off % 8 = 0 && h != .other) = true := by
    rcases hform with hoff | hhalf
    · simp [hoff]
    · simp [hhalf]
  rw [registerWrite, if_pos hreach, if_neg hbad, if_pos rfl]

/-- A completion sent to the host is seen in the outputs. -/
theorem State.emit_ne_self (s : State) (o : Output) : s.emit o ≠ s := by
  intro heq
  have hout : s.out ++ [o] = s.out := congrArg State.out heq
  simp at hout

/-- The module with its core rails good and the host link up at its first rate: the host reaches the aperture. -/
def hostLinkUpState : State := { boot := { hostRate := 6 }, pwr := { pwrOk := true, perst := false } }

/-- Refutes O15: in `hostLinkUpState` a host's write of BLD_HOP_EPOCH (0x010048) that is neither a whole register nor an aligned half sends
an Unsupported Request completion (R430), where the clause of this read-only register says that the state stays as it was. -/
theorem not_registerWrites : ¬ Obligations.RegisterWrites := by
  unfold Obligations.RegisterWrites
  rintro ⟨-, -, -, -, -, hopEpochKept, -⟩
  have hkept : registerWrite 1 0x010048 .other 0 hostLinkUpState = hostLinkUpState :=
    Host.Outcome.next.inj (hopEpochKept hostLinkUpState 1 .other 0)
  have hsent : registerWrite 1 0x010048 .other 0 hostLinkUpState = hostLinkUpState.emit .unsupported :=
    registerWrite_host_unsupported 0 rfl rfl (.inr rfl)
  exact State.emit_ne_self _ _ (hsent.symm.trans hkept)

end Sys2Proof.Machine

/-!
PROOF. The power input and the rails (O1, O2): what each command of Machine/Power.lean does, one equation for each case of Table 1-2, and
what the operations of bring-up that it calls leave.
-/

namespace Sys2Proof.Machine

variable {s : State}

/-! ### A step of bring-up begins -/

@[simp] theorem State.noWait_pwr : s.noWait.pwr = s.pwr := rfl
@[simp] theorem State.noWait_mem : s.noWait.mem = s.mem := rfl

/-- R44: no hold, no wait, and neither's cause. -/
@[simp] theorem State.noWait_boot : s.noWait.boot = { s.boot with wait := false, hold := false, cause := 0, status := 0 } := rfl

@[simp] theorem State.beginStep_pwr {n : Nat} : (s.beginStep n).pwr = s.pwr := by simp [State.beginStep]
@[simp] theorem State.beginStep_log {n : Nat} : (s.beginStep n).log = s.log := by simp [State.beginStep]

/-- R43: a step that begins shows its number and attempt 1. -/
@[simp] theorem State.beginStep_boot {n : Nat} : (s.beginStep n).boot = { s.boot with step := n, attempt := 1 } := by
  simp [State.beginStep]

/-- A step that begins without a wait changes BOOT_STATE and may raise vector 64, and nothing else. -/
theorem State.beginStep_noWait_frame {n : Nat} : (s.beginStep n).noWait =
    { s with boot := (s.beginStep n).noWait.boot, irq := (s.beginStep n).noWait.irq, out := (s.beginStep n).noWait.out } := by
  simp [State.noWait, State.beginStep]

/-! ### PWR_EN, R25 -/

/-- R25: PWR_EN driven high after less than 100 ms leaves a latched module off. -/
theorem pwrEnChange_latched {held : Nat} (hpresent : s.pwr.present = true) (hlow : s.pwr.pwrEn = false) (hlatched : s.pwr.latched = true)
    (hshort : held < 100000) : pwrEnChange true held s = { s with pwr := { s.pwr with pwrEn := true, latched := true } } := by
  have hkept : ¬ 100000 ≤ held := by omega
  simp [pwrEnChange, hpresent, hlow, hlatched, hkept]

/-- R25: PWR_EN held low for 100 ms and driven high ends the latch, and step 1 begins. -/
theorem pwrEnChange_restart {held : Nat} (hpresent : s.pwr.present = true) (hlow : s.pwr.pwrEn = false) (hlatched : s.pwr.latched = true)
    (hoff : s.pwr.running = false) (hlong : 100000 ≤ held) : pwrEnChange true held s =
      (State.beginStep { s with pwr := { s.pwr with pwrEn := true, latched := false } } 1).noWait := by
  simp [pwrEnChange, hpresent, hlow, hlatched, hoff, hlong]

/-! ### Rail sequencing, R23, R47 -/

theorem railSequencingStart_of_latched {v held : Nat} (hlatched : s.pwr.latched = true) : railSequencingStart v held s = s := by
  simp [railSequencingStart, hlatched]

theorem railSequencingStart_of_low {v held : Nat} (hlow : v < 58000) : railSequencingStart v held s = s := by
  simp [railSequencingStart, hlow]

/-- R23: with PWR_EN high for 10 ms and 58 V, step 2 begins. -/
theorem railSequencingStart_of_ready {v held : Nat} (hpresent : s.pwr.present = true) (hen : s.pwr.pwrEn = true)
    (hoff : s.pwr.running = false) (hfree : s.pwr.latched = false) (hv : 58000 ≤ v) (hheld : 10000 ≤ held) :
    railSequencingStart v held s = (State.beginStep { s with pwr := { s.pwr with running := true, vinMv := v } } 2).noWait := by
  simp [railSequencingStart, hpresent, hen, hoff, hfree, hv, hheld]

theorem railRegulationTimeout_of_step2 {rail : Nat} (hrun : s.pwr.running = true) (hstep : s.boot.step = 2) (hok : s.pwr.pwrOk = false) :
    railRegulationTimeout rail s = { s with
      pwr := { s.pwr with running := false, latched := true, seqFault := some rail }
      boot := { s.boot with hold := true, wait := false, cause := 0x01, status := 0 } } := by
  simp [railRegulationTimeout, hrun, hstep, hok]

/-! ### 64 V applied, R25, R45 -/

/-- The state with 64 V restored: the latch as given, and BOOT_CFG, HT_SEED and FAB_ID at their reset values (R45). -/
def State.powered64v (s : State) (v : Nat) (latched : Bool) : State :=
  { s with
    pwr := { s.pwr with present := true, vinMv := v, latched }
    boot := { s.boot with imgSrc := false, timeRoot := false }
    ht := { s.ht with seed := 0 }
    fab := { s.fab with fabId := 0xFFFF } }

/-- R25: 64 V away for 1 s and restored with PWR_EN high ends the latch, and step 1 begins. -/
theorem power64vApplied_restart {v ms : Nat} (habsent : s.pwr.present = false) (hlatched : s.pwr.latched = true) (hv : 40000 ≤ v)
    (hfree : (s.pwr.pwrEn && decide (1000 ≤ ms)) = true) :
    power64vApplied v ms s = ((s.powered64v v false).beginStep 1).noWait := by
  obtain ⟨hen, hlong⟩ : s.pwr.pwrEn = true ∧ 1000 ≤ ms := by simpa using hfree
  simp [power64vApplied, State.powered64v, habsent, hlatched, hv, hen, hlong]

/-- R25: 64 V restored sooner, or with PWR_EN low, leaves a latched module at step 0. -/
theorem power64vApplied_latched {v ms : Nat} (habsent : s.pwr.present = false) (hlatched : s.pwr.latched = true) (hv : 40000 ≤ v)
    (hkept : (s.pwr.pwrEn && decide (1000 ≤ ms)) = false) :
    power64vApplied v ms s = ((s.powered64v v true).setStep 0).noWait := by
  simp [power64vApplied, State.powered64v, habsent, hlatched, hv, hkept]

/-! ### Input shutdown, R23, R24 -/

section
variable {c : Nat}

/-- R24: the rails are down, the latch holds, the internal enable is released, and the cause word is recorded. -/
@[simp] theorem State.inputShutdown_pwr : (s.inputShutdown c).pwr =
    { s.pwr with pwrOk := false, running := false, latched := true, internalEnable := true, cablePwr := [], memLogged := []
                 causeWord := some c } := rfl
@[simp] theorem State.inputShutdown_mem : (s.inputShutdown c).mem = {} := rfl
@[simp] theorem State.inputShutdown_cores : (s.inputShutdown c).cores = [] := rfl
@[simp] theorem State.inputShutdown_log : (s.inputShutdown c).log = {} := rfl
@[simp] theorem State.inputShutdown_live : (s.inputShutdown c).live = [] := rfl
@[simp] theorem State.inputShutdown_queues : (s.inputShutdown c).queues = [] := rfl
@[simp] theorem State.inputShutdown_rings : (s.inputShutdown c).rings = [] := rfl
@[simp] theorem State.inputShutdown_bld : (s.inputShutdown c).bld = {} := rfl
@[simp] theorem State.inputShutdown_ports : (s.inputShutdown c).ports = [] := rfl
@[simp] theorem State.inputShutdown_fuse : (s.inputShutdown c).fuse = s.fuse := rfl
@[simp] theorem State.inputShutdown_tinObjects : (s.inputShutdown c).tin.objects = s.tin.objects := rfl
@[simp] theorem State.inputShutdown_seed : (s.inputShutdown c).ht.seed = s.ht.seed := rfl
@[simp] theorem State.inputShutdown_fabId : (s.inputShutdown c).fab.fabId = s.fab.fabId := rfl

end

section
variable {v i ns : Nat}

/-- The conditions of Table 1-2 that end in an input shutdown, each with its time, are rows that a sample can meet. -/
theorem exists_shutdownRow (h : (v < 56000 ∧ 50000 ≤ ns) ∨ (56000 ≤ v ∧ v < 58000 ∧ 10000000 < ns) ∨ (69000 < v ∧ 100000 ≤ ns) ∨
    (50000 < i ∧ 20000 ≤ ns) ∨ (s.pwr.pwrEn = false ∧ 10000 ≤ ns)) : ∃ r ∈ shutdownRows s v i, r.2 ≤ ns := by
  rcases h with ⟨hv, hns⟩ | ⟨hlow, hhigh, hns⟩ | ⟨hv, hns⟩ | ⟨hi, hns⟩ | ⟨hen, hns⟩
  · exact ⟨(4, 50000), by simp [shutdownRows, hv], hns⟩
  · exact ⟨(3, 10000001), by simp [shutdownRows, hlow, hhigh], hns⟩
  · exact ⟨(6, 100000), by simp [shutdownRows, hv], hns⟩
  · exact ⟨(7, 20000), by simp [shutdownRows, hi], hns⟩
  · exact ⟨(8, 10000), by simp [shutdownRows, hen], hns⟩

/-- R23, R24: a running module that meets a row of Table 1-2 for the row's time shuts down with the cause word of the sample. -/
theorem inputShutdown_of_row (hrun : s.pwr.running = true) (hrow : ∃ r ∈ shutdownRows s v i, r.2 ≤ ns) :
    inputShutdown v i ns s = State.inputShutdown { s with pwr := { s.pwr with vinMv := v } } (causeBits s v i) := by
  have hany : (shutdownRows s v i).any (fun r => decide (r.2 ≤ ns)) = true := by simpa using hrow
  simp [inputShutdown, hrun, hany]

/-- An input in range, with both enables on, meets no row of Table 1-2. -/
theorem shutdownRows_of_inRange (hlow : 58000 ≤ v) (hhigh : v ≤ 69000) (hi : i ≤ 50000) (hen : s.pwr.pwrEn = true)
    (hint : s.pwr.internalEnable = true) : shutdownRows s v i = [] := by
  have h56 : ¬ v < 56000 := by omega
  simp [shutdownRows, hen, hint, hlow, hhigh, hi, h56]

theorem inputShutdown_of_inRange (hlow : 58000 ≤ v) (hhigh : v ≤ 69000) (hi : i ≤ 50000) (hen : s.pwr.pwrEn = true)
    (hint : s.pwr.internalEnable = true) : inputShutdown v i ns s = s := by
  simp [inputShutdown, shutdownRows_of_inRange hlow hhigh hi hen hint]

/-! ### The cause word, R24 -/

/-- Below 56 V the cause word shows row 4, and an enable that is off as row 8, the Warden's with bit 8. -/
theorem causeBits_of_low (hv : v < 56000) (hi : i ≤ 50000) : causeBits s v i =
    8 + (if s.pwr.pwrEn && s.pwr.internalEnable then 0 else 0x80) + (if s.pwr.internalEnable then 0 else 0x100) := by
  have hsag : ¬ 56000 ≤ v := by omega
  have hrow5 : ¬ 67000 < v := by omega
  have hrow6 : ¬ 69000 < v := by omega
  have hrow7 : ¬ 50000 < i := by omega
  cases hen : s.pwr.pwrEn <;> cases hint : s.pwr.internalEnable <;> simp [causeBits, flagBit, *]

/-- In range the cause word of the Warden's request shows row 8 and bit 8, and row 5 above 67 V. -/
theorem causeBits_of_warden (hlow : 58000 ≤ v) (hhigh : v ≤ 69000) (hi : i ≤ 50000) (hint : s.pwr.internalEnable = false) :
    causeBits s v i = if 67000 < v then 0x190 else 0x180 := by
  have hsag : ¬ v < 58000 := by omega
  have hrow4 : ¬ v < 56000 := by omega
  have hrow6 : ¬ 69000 < v := by omega
  have hrow7 : ¬ 50000 < i := by omega
  by_cases hrow5 : 67000 < v <;> simp [causeBits, flagBit, *]

end

/-! ### 64 V removed, R497 -/

/-- R497: below 40 V a running module shuts down as in row 4, and the controller's registers go. -/
theorem power64vRemoved_of_running {v : Nat} (hpresent : s.pwr.present = true) (hrun : s.pwr.running = true) (hv : v < 40000) :
    power64vRemoved v s =
      (State.setStep { s.inputShutdown (causeBits s v 0) with
        pwr := { (s.inputShutdown (causeBits s v 0)).pwr with present := false, vinMv := v }
        host := { (s.inputShutdown (causeBits s v 0)).host with i3cAddr := none } } 0).noWait := by
  simp [power64vRemoved, hpresent, hrun, hv]

/-! ### Excursions and PWR_OK, R23, R43, R48 -/

/-- The entry 0x0003 of an excursion (R23). -/
def State.excursionEntry (s : State) (row mv ns : Nat) : LogEntry :=
  { time := s.logTime - ns, at' := s.boot.sincePwrOk - ns, prelock := s.prelock, cls := 2, source := 0x000, event := 0x0003
    aux := row, span := min ns 0xFFFFFFFF, detail := BitVec.ofNat 64 mv }

/-- R23: an excursion of row 2 or 5 that ends from step 3 on leaves its one entry. -/
theorem inputExcursionEnd_of_logged {row mv ns : Nat} (hrun : s.pwr.running = true) (hstep : 3 ≤ s.boot.step)
    (hrow : (row = 2 ∧ ns ≤ 10000000) ∨ row = 5) : inputExcursionEnd row mv ns s =
      { s with log := { s.log with offered := s.log.offered ++ [s.excursionEntry row mv ns] } } := by
  simp [inputExcursionEnd, State.excursionEntry, hrun, hstep, hrow]

/-- R24, R46: the entries of the cause word, of the sequencing-fault word and of steps 1 and 2, after those already offered. -/
theorem State.firstEntries_offered : (s.firstEntries).log.offered.map (fun e => (e.event, e.aux)) =
    s.log.offered.map (fun e => (e.event, e.aux)) ++ (if s.pwr.causeWord = none then [] else [(0x0001, 0)]) ++
      (s.pwr.seqFault.toList.map fun r => (0x0002, r)) ++ [(0x0010, 1), (0x0010, 2)] := by
  cases hcause : s.pwr.causeWord <;> cases hfault : s.pwr.seqFault <;>
    simp [State.firstEntries, State.event, State.offer, hcause, hfault]

/-- R24: both words are entered, and no longer recorded. -/
@[simp] theorem State.firstEntries_pwr : s.firstEntries.pwr = { s.pwr with causeWord := none, seqFault := none } := by
  cases hcause : s.pwr.causeWord <;> cases hfault : s.pwr.seqFault <;> simp [State.firstEntries, hcause, hfault]

/-- The first entries are offered to the log, and nothing but the two words changes besides. -/
theorem State.firstEntries_frame : s.firstEntries =
    { s with pwr := s.firstEntries.pwr, log := { s.log with offered := s.firstEntries.log.offered } } := by
  cases hcause : s.pwr.causeWord <;> cases hfault : s.pwr.seqFault <;>
    simp [State.firstEntries, State.event, State.offer, hcause, hfault]

@[simp] theorem State.firstEntries_boot : s.firstEntries.boot = s.boot := by rw [State.firstEntries_frame]
@[simp] theorem State.firstEntries_irq : s.firstEntries.irq = s.irq := by rw [State.firstEntries_frame]
@[simp] theorem State.firstEntries_out : s.firstEntries.out = s.out := by rw [State.firstEntries_frame]

/-- The state that PWR_OK's release finds: the log empty of what was offered before step 3 (R43), and no time passed since (R48). -/
def State.pwrOkReleased (s : State) : State :=
  { s with pwr := { s.pwr with pwrOk := true }, boot := { s.boot with sincePwrOk := 0 }, log := { s.log with offered := [] } }

/-- R48: PWR_OK's release in step 2 begins step 3. -/
theorem pwrOkRelease_of_step2 (hrun : s.pwr.running = true) (hstep : s.boot.step = 2) (hhold : s.boot.hold = false) :
    pwrOkRelease s = (s.pwrOkReleased.beginStep 3).firstEntries := by
  simp [pwrOkRelease, State.pwrOkReleased, hrun, hstep, hhold]

/-! ### The statements -/

/-- Settles O1: the latch bars rail sequencing; R25's two actions end it, each at its time; the shutdown releases the internal enable. -/
theorem restartNeedsAction : Obligations.RestartNeedsAction := by
  unfold Obligations.RestartNeedsAction
  refine ⟨fun s v held hlatched => ?_, fun s held hpresent hlow hlatched hoff => ?_, fun s v ms habsent hlatched hv => ?_,
    fun s v i ns hrun hv hns => ?_⟩
  · exact congrArg Host.Outcome.next (railSequencingStart_of_latched hlatched)
  · refine ⟨pwrEnChange true held s, rfl, ?_⟩
    by_cases hshort : held < 100000
    · rw [pwrEnChange_latched hpresent hlow hlatched hshort]
      simp [hshort]
    · rw [pwrEnChange_restart hpresent hlow hlatched hoff (by omega)]
      refine ⟨by simp [hshort], by simp [hshort], ?_⟩
      exact State.beginStep_noWait_frame.trans (by simp)
  · refine ⟨power64vApplied v ms s, rfl, ?_⟩
    cases hfree : s.pwr.pwrEn && decide (1000 ≤ ms)
    · rw [power64vApplied_latched habsent hlatched hv hfree]
      simp [State.powered64v]
    · rw [power64vApplied_restart habsent hlatched hv hfree]
      simp [State.powered64v]
  · refine ⟨inputShutdown v i ns s, rfl, ?_⟩
    rw [inputShutdown_of_row hrun (exists_shutdownRow (.inl ⟨hv, hns⟩))]
    simp

/-- Settles O2: one clause for each command of the power stage, from its equations above. -/
theorem inputAndRails : Obligations.InputAndRails := by
  unfold Obligations.InputAndRails
  refine ⟨fun s v i ns hrun hrow => ?_, fun s v i ns hlow hhigh hi hen hint => ?_, fun s v hpresent hrun hv => ?_,
    fun s row mv ns hrun hstep hrow => ?_, fun s v held hpresent hen hoff hfree hv hheld => ?_, fun s v held hlow => ?_,
    fun s rail hrun hstep hok hone hsix => ?_, fun s hrun hstep hhold => ?_⟩
  · refine ⟨inputShutdown v i ns s, rfl, ?_⟩
    rw [inputShutdown_of_row hrun (exists_shutdownRow hrow)]
    have hrow4 (hv : v < 56000) (hi : i ≤ 50000) (hen : s.pwr.pwrEn = true) (hint : s.pwr.internalEnable = true) :
        causeBits s v i = 8 := by simp [causeBits_of_low hv hi, hen, hint]
    have hwarden (hlow : 58000 ≤ v) (hhigh : v ≤ 69000) (hi : i ≤ 50000) (hint : s.pwr.internalEnable = false) :=
      causeBits_of_warden hlow hhigh hi hint
    simpa using ⟨hrow4, hwarden⟩
  · exact congrArg Host.Outcome.next (inputShutdown_of_inRange hlow hhigh hi hen hint)
  · refine ⟨power64vRemoved v s, rfl, ?_⟩
    rw [power64vRemoved_of_running hpresent hrun hv]
    simp [causeBits_of_low (show v < 56000 by omega) (Nat.zero_le 50000)]
  · exact ⟨s.excursionEntry row mv ns, congrArg Host.Outcome.next (inputExcursionEnd_of_logged hrun hstep hrow), rfl, rfl, rfl, rfl, rfl⟩
  · refine ⟨railSequencingStart v held s, rfl, ?_⟩
    rw [railSequencingStart_of_ready hpresent hen hoff hfree hv hheld]
    exact ⟨by simp, by simp, by simp, State.beginStep_noWait_frame.trans (by simp)⟩
  · exact congrArg Host.Outcome.next (railSequencingStart_of_low hlow)
  · have hexec : exec (.railRegulationTimeout rail) s = .next (railRegulationTimeout rail s) := if_pos ⟨hone, hsix⟩
    rw [hexec, railRegulationTimeout_of_step2 hrun hstep hok]
  · refine ⟨pwrOkRelease s, rfl, ?_⟩
    rw [pwrOkRelease_of_step2 hrun hstep hhold]
    refine ⟨by simp [State.pwrOkReleased], by simp, by simp [State.pwrOkReleased], ?_, ?_⟩
    · rw [State.firstEntries_offered]
      simp [State.pwrOkReleased]
    · exact State.firstEntries_frame.trans (by simp [State.beginStep, State.pwrOkReleased])

end Sys2Proof.Machine

/-!
PROOF. What hall time and bring-up leave alone. Two parts of the state: all that lies outside hall time and its events, and all that lies
outside bring-up, hall time and the log; each operation of Machine/Bringup.lean keeps one of them, by one lemma each. No port, no power
rail and no memory lies inside either.
-/

namespace Sys2Proof.Machine

variable {s t : State}

/-! ### Outside hall time -/

/-- The state but for hall time and what it signals. -/
def State.outsideHall (s : State) : State := { s with ht := {}, irq := {}, out := [] }

/-- A state that agrees with another outside hall time is the other with hall time and its signals replaced. -/
theorem State.eq_of_outsideHall (h : t.outsideHall = s.outsideHall) : t = { s with ht := t.ht, irq := t.irq, out := t.out } :=
  calc t = { t.outsideHall with ht := t.ht, irq := t.irq, out := t.out } := rfl
    _ = { s.outsideHall with ht := t.ht, irq := t.irq, out := t.out } := by rw [h]

@[simp] theorem State.mk_outsideHall {h : HallTime} : ({ s with ht := h } : State).outsideHall = s.outsideHall := rfl

@[simp] theorem State.deviceEvent_outsideHall : s.deviceEvent.outsideHall = s.outsideHall := by
  unfold State.deviceEvent State.msix
  split_ifs <;> rfl

@[simp] theorem State.htEvent_outsideHall {b : Nat} : (s.htEvent b).outsideHall = s.outsideHall := by simp [State.htEvent]

@[simp] theorem State.dropUpstream_outsideHall : s.dropUpstream.outsideHall = s.outsideHall := by
  cases hup : s.ht.upstream <;> simp [State.dropUpstream, hup]

@[simp] theorem State.enterHoldover_outsideHall : s.enterHoldover.outsideHall = s.outsideHall := by simp [State.enterHoldover]

/-! ### Outside bring-up -/

/-- The state but for bring-up, hall time, what both signal, and the log. -/
def State.outsideBringup (s : State) : State := { s with boot := {}, ht := {}, irq := {}, out := [], log := {} }

/-- What agrees outside hall time agrees outside bring-up. -/
theorem State.outsideBringup_of_outsideHall (h : t.outsideHall = s.outsideHall) : t.outsideBringup = s.outsideBringup :=
  calc t.outsideBringup = t.outsideHall.outsideBringup := rfl
    _ = s.outsideHall.outsideBringup := by rw [h]

@[simp] theorem State.mk_outsideBringup {b : Boot} {h : HallTime} {i : MsixTables} {o : List Output} {l : TroubleLog} :
    ({ s with boot := b, ht := h, irq := i, out := o, log := l } : State).outsideBringup = s.outsideBringup := rfl

section
variable {n p c : Nat} {b : Bool}

@[simp] theorem State.deviceEvent_outsideBringup : s.deviceEvent.outsideBringup = s.outsideBringup :=
  State.outsideBringup_of_outsideHall State.deviceEvent_outsideHall
@[simp] theorem State.htEvent_outsideBringup : (s.htEvent n).outsideBringup = s.outsideBringup :=
  State.outsideBringup_of_outsideHall State.htEvent_outsideHall
@[simp] theorem State.dropUpstream_outsideBringup : s.dropUpstream.outsideBringup = s.outsideBringup :=
  State.outsideBringup_of_outsideHall State.dropUpstream_outsideHall
@[simp] theorem State.enterHoldover_outsideBringup : s.enterHoldover.outsideBringup = s.outsideBringup :=
  State.outsideBringup_of_outsideHall State.enterHoldover_outsideHall

@[simp] theorem State.event_outsideBringup {d e f g h i : Nat} : (s.event d e f g h i).outsideBringup = s.outsideBringup := rfl
@[simp] theorem State.stepEvent_outsideBringup : (s.stepEvent n b c).outsideBringup = s.outsideBringup := rfl
@[simp] theorem State.degrade_outsideBringup : (s.degrade n).outsideBringup = s.outsideBringup := rfl
@[simp] theorem State.waitFor_outsideBringup : (s.waitFor c).outsideBringup = s.outsideBringup := rfl
@[simp] theorem State.noWait_outsideBringup : s.noWait.outsideBringup = s.outsideBringup := rfl

@[simp] theorem State.setStep_outsideBringup : (s.setStep n).outsideBringup = s.outsideBringup := by
  unfold State.setStep
  split_ifs <;> simp

@[simp] theorem State.setHops_outsideBringup : (s.setHops n).outsideBringup = s.outsideBringup := by
  unfold State.setHops
  simp only
  split_ifs <;> simp

@[simp] theorem State.follow_outsideBringup : (s.follow p).outsideBringup = s.outsideBringup := by
  unfold State.follow
  simp only
  split_ifs <;> simp

@[simp] theorem State.takeUpstream_outsideBringup : (s.takeUpstream p).outsideBringup = s.outsideBringup := by
  unfold State.takeUpstream
  simp only
  split_ifs <;> simp

@[simp] theorem State.beginAcquire_outsideBringup : (s.beginAcquire p).outsideBringup = s.outsideBringup := by simp [State.beginAcquire]
@[simp] theorem State.beginRelock_outsideBringup : (s.beginRelock p).outsideBringup = s.outsideBringup := by simp [State.beginRelock]

/-- R67: a choice of upstream, in every state of Table 3-1. -/
@[simp] theorem State.reselect_outsideBringup : s.reselect.outsideBringup = s.outsideBringup := by
  unfold State.reselect
  -- two arms look further: an invalid device at the step, an acquiring one without a neighbour at whether it acquires for the first time
  split
  case h_2 => split_ifs <;> simp
  case h_5 => simp only; split_ifs <;> simp
  all_goals simp

@[simp] theorem State.upstreamDown_outsideBringup : (s.upstreamDown p).outsideBringup = s.outsideBringup := by
  unfold State.upstreamDown
  simp only
  split_ifs <;> simp

@[simp] theorem State.startRoot_outsideBringup : s.startRoot.outsideBringup = s.outsideBringup := by simp [State.startRoot]
@[simp] theorem State.beginStep10_outsideBringup : s.beginStep10.outsideBringup = s.outsideBringup := by simp [State.beginStep10]

@[simp] theorem State.beginStep9_outsideBringup : s.beginStep9.outsideBringup = s.outsideBringup := by
  unfold State.beginStep9
  simp only
  split_ifs
  · simp
  · split <;> simp

@[simp] theorem State.wait78_outsideBringup : s.wait78.outsideBringup = s.outsideBringup := by
  unfold State.wait78
  split_ifs <;> simp

/-- R41, R61, R64, R65: steps 7 and 8 complete. -/
@[simp] theorem State.advance78_outsideBringup : s.advance78.outsideBringup = s.outsideBringup := by
  unfold State.advance78
  simp only
  split_ifs <;> simp

end

/-! ### Ports, power and memory across bring-up -/

theorem State.pwr_of_outsideBringup (h : t.outsideBringup = s.outsideBringup) : t.pwr = s.pwr :=
  (congrArg State.pwr h : t.outsideBringup.pwr = s.outsideBringup.pwr)

theorem State.mem_of_outsideBringup (h : t.outsideBringup = s.outsideBringup) : t.mem = s.mem :=
  (congrArg State.mem h : t.outsideBringup.mem = s.outsideBringup.mem)

theorem State.ports_of_outsideBringup (h : t.outsideBringup = s.outsideBringup) : t.ports = s.ports :=
  (congrArg State.ports h : t.outsideBringup.ports = s.outsideBringup.ports)

section
variable {p : Nat}

@[simp] theorem State.upstreamDown_pwr : (s.upstreamDown p).pwr = s.pwr := State.pwr_of_outsideBringup State.upstreamDown_outsideBringup
@[simp] theorem State.upstreamDown_mem : (s.upstreamDown p).mem = s.mem := State.mem_of_outsideBringup State.upstreamDown_outsideBringup
@[simp] theorem State.upstreamDown_ports : (s.upstreamDown p).ports = s.ports :=
  State.ports_of_outsideBringup State.upstreamDown_outsideBringup
@[simp] theorem State.advance78_pwr : s.advance78.pwr = s.pwr := State.pwr_of_outsideBringup State.advance78_outsideBringup
@[simp] theorem State.advance78_mem : s.advance78.mem = s.mem := State.mem_of_outsideBringup State.advance78_outsideBringup
@[simp] theorem State.advance78_ports : s.advance78.ports = s.ports := State.ports_of_outsideBringup State.advance78_outsideBringup

end

end Sys2Proof.Machine

/-!
PROOF. The clock root, the steering of phase and the loss of the upstream (O9).
-/

namespace Sys2Proof.Machine

variable {s : State}

/-! ### The root's source, R39, R40 -/

/-- R40: 200 ns without an edge loses any source, and more than 50 ppm any but the oscillator: holdover, with its alarm. -/
theorem rootSourceLoss_of_lost {ns ppm : Nat} (hrun : s.pwr.running = true) (hsource : s.clk.holdover = false)
    (hlost : 200 ≤ ns ∨ (s.clk.source ≠ .oscillator ∧ 50 < ppm)) :
    rootSourceLoss ns ppm s = State.htAlarm { s with clk := { s.clk with holdover := true } } := by
  simp [rootSourceLoss, hrun, hsource, hlost]

theorem rootSourceLoss_of_good {ns ppm : Nat} (hns : ns < 200) (hppm : ppm ≤ 50) : rootSourceLoss ns ppm s = s := by
  simp [rootSourceLoss, Nat.not_le.2 hns, Nat.not_lt.2 hppm]

theorem rootSourceReturn_of_valid {us : Nat} (hrun : s.pwr.running = true) (hhold : s.clk.holdover = true) (hus : 10000 ≤ us) :
    rootSourceReturn us s = { s with clk := { s.clk with holdover := false } } := by
  simp [rootSourceReturn, hrun, hhold, hus]

theorem rootSourceReturn_of_short {us : Nat} (hus : us < 10000) : rootSourceReturn us s = s := by
  simp [rootSourceReturn, Nat.not_le.2 hus]

/-! ### Steering, R76, R79 -/

/-- R76, R79: who may steer, and in which steps. -/
theorem State.steers_iff {fs ns : Nat} : s.steers fs ns = true ↔
    (s.ht.state = .locked ∧ fs ≤ 500 ∧ 250 ≤ ns) ∨ (s.ht.state = .acquiring ∧ s.ht.firstAcquire = true) := by
  simp [State.steers, and_assoc]

/-- A step that the device may make, towards the correction and no further, spends it. -/
theorem rootPhaseStep_of_steers {fs ns : Nat} {l : Bool} (hsteers : s.steers fs ns = true) (hfs : fs ≤ s.ht.corr.natAbs)
    (hl : l = decide (0 < s.ht.corr)) : rootPhaseStep fs l ns s = { s with
      clk := { s.clk with phaseFs := s.clk.phaseFs + (if l then (fs : Int) else -fs) }
      ht := { s.ht with corr := s.ht.corr - (if l then (fs : Int) else -fs) } } := by
  simp [rootPhaseStep, hsteers, hfs, ← hl]

/-- A step that the device may not make, beyond the correction or against it, is not made. -/
theorem rootPhaseStep_of_refused {fs ns : Nat} {l : Bool}
    (h : s.steers fs ns = false ∨ s.ht.corr.natAbs < fs ∨ l ≠ decide (0 < s.ht.corr)) : rootPhaseStep fs l ns s = s := by
  rcases h with hsteers | hfs | hl
  · simp [rootPhaseStep, hsteers]
  · simp [rootPhaseStep, Nat.not_le.2 hfs]
  · simp [rootPhaseStep, hl]

/-- R79, R83, R84: no step of a device that relocks or holds over, nor one too large or too soon of a device past its first acquisition. -/
theorem State.steers_eq_false {fs ns : Nat} (h : ((500 < fs ∨ ns < 250) ∧ s.ht.firstAcquire = false) ∨
    (s.ht.state = .acquiring ∧ s.ht.firstAcquire = false) ∨ s.ht.state = .holdover) : s.steers fs ns = false := by
  rw [Bool.eq_false_iff, ne_eq, State.steers_iff]
  rcases h with ⟨hstep, hfirst⟩ | ⟨hstate, hfirst⟩ | hstate
  · rintro (⟨-, hfs, hns⟩ | ⟨-, hacquire⟩)
    · omega
    · simp [hfirst] at hacquire
  · simp [hstate, hfirst]
  · simp [hstate]

/-! ### Choosing an upstream, R67, R82 -/

/-- R67: where no neighbour offers hall time, there is no upstream to choose. -/
theorem State.chooseUpstream_eq_none (h : ∀ p, s.offers p = false) : s.chooseUpstream = none := by
  have hnone : allPorts.filter s.offers = [] := List.filter_eq_nil_iff.2 fun p _ => by simp [h p]
  simp [State.chooseUpstream, hnone]

/-- R82, R83: a locked device without another upstream holds over. -/
theorem State.reselect_locked_none (hlocked : s.ht.state = .locked) (hnone : s.chooseUpstream = none) : s.reselect = s.enterHoldover := by
  simp [State.reselect, hlocked, hnone]

/-- R82, R83: what holdover shows of hall time: its state and the count at which it began, no upstream, and the events. -/
theorem State.enterHoldover_ht {p : Nat} (hup : s.ht.upstream = some p) : s.enterHoldover.ht =
    { s.ht with state := .holdover, holdSince := s.ht.count, upstream := none, exchanging := false
                events := s.ht.events ||| 1 ||| 0x20 } := by
  simp [State.enterHoldover, State.dropUpstream, State.htEvent, hup]

/-- The state as an upstream that does not answer is given up: it counts as no neighbour until it reports again (R81). -/
def State.exchangeFailed (s : State) (p : Nat) : State :=
  { s with ht := { s.ht with exchanging := false, noResponse := 0, nbr := tset {} s.ht.nbr p {} } }

theorem State.exchangeFailed_offers_self {p : Nat} : (s.exchangeFailed p).offers p = false := by
  simp [State.exchangeFailed, State.offers, State.nbr]

theorem State.exchangeFailed_offers_ne {p q : Nat} (h : q ≠ p) : (s.exchangeFailed p).offers q = s.offers q := by
  simp [State.exchangeFailed, State.offers, State.nbr, State.portUp, State.port, tget_tset_ne h]

/-- R81: the third exchange without response takes the upstream. -/
theorem exchangeNoResponse_third {p : Nat} (hup : s.ht.upstream = some p) (hexch : s.ht.exchanging = true) (hthird : 2 ≤ s.ht.noResponse) :
    exchangeNoResponse s = (s.exchangeFailed p).reselect := by
  simp [exchangeNoResponse, State.exchangeFailed, hup, hexch, hthird]

theorem exchangeNoResponse_early (hearly : s.ht.noResponse < 2) : exchangeNoResponse s = s := by
  cases hup : s.ht.upstream <;> simp [exchangeNoResponse, hup, Nat.not_le.2 hearly]

/-- R81 to R83: a locked device whose upstream's third response fails, and which no other neighbour offers hall time, holds over. -/
theorem exchangeNoResponse_holdover {p : Nat} (hup : s.ht.upstream = some p) (hexch : s.ht.exchanging = true)
    (hthird : 2 ≤ s.ht.noResponse) (hlocked : s.ht.state = .locked) (hothers : ∀ q, q ≠ p → s.offers q = false) :
    exchangeNoResponse s = (s.exchangeFailed p).enterHoldover := by
  have hnone : (s.exchangeFailed p).chooseUpstream = none := State.chooseUpstream_eq_none fun q => by
    by_cases hq : q = p
    · rw [hq, State.exchangeFailed_offers_self]
    · rw [State.exchangeFailed_offers_ne hq, hothers q hq]
  rw [exchangeNoResponse_third hup hexch hthird]
  exact State.reselect_locked_none (s := s.exchangeFailed p) hlocked hnone

/-! ### The statement -/

/-- Settles O9: the source's loss and return, the steering rule in both directions, and the upstream that does not answer. -/
theorem rootSourceAndHoldover : Obligations.RootSourceAndHoldover := by
  unfold Obligations.RootSourceAndHoldover
  refine ⟨fun s ns ppm hrun hsource hlost => ?_, fun s ns ppm hns hppm => ?_, fun s us hrun hhold hus => ?_, fun s us hus => ?_,
    fun s fs ns l hsteers hfs hl => ?_, fun s fs ns l hrefused => ?_, fun s p hup hexch hthird hlocked hothers => ?_, fun s hearly => ?_,
    fun s hpause => ?_⟩
  · exact congrArg Host.Outcome.next (rootSourceLoss_of_lost hrun hsource hlost)
  · exact congrArg Host.Outcome.next (rootSourceLoss_of_good hns hppm)
  · exact congrArg Host.Outcome.next (rootSourceReturn_of_valid hrun hhold hus)
  · exact congrArg Host.Outcome.next (rootSourceReturn_of_short hus)
  · exact congrArg Host.Outcome.next (rootPhaseStep_of_steers (State.steers_iff.2 hsteers) hfs hl)
  · refine congrArg Host.Outcome.next (rootPhaseStep_of_refused ?_)
    rcases hrefused with hstep | hfs | hl | hrelock
    · exact .inl (State.steers_eq_false (.inl hstep))
    · exact .inr (.inl hfs)
    · exact .inr (.inr hl)
    · exact .inl (State.steers_eq_false (.inr hrelock))
  · refine ⟨exchangeNoResponse s, rfl, ?_⟩
    have hht := State.enterHoldover_ht (s := s.exchangeFailed p) hup
    rw [exchangeNoResponse_holdover hup hexch hthird hlocked hothers]
    refine ⟨by rw [hht], by rw [hht], by rw [hht]; rfl, by rw [hht]; rfl, ?_, State.eq_of_outsideHall (by simp [State.exchangeFailed])⟩
    rw [hht]
    simp
  · exact congrArg Host.Outcome.next (exchangeNoResponse_early hearly)
  · exact congrArg Host.Outcome.next (if_pos hpause)

end Sys2Proof.Machine

/-!
PROOF. Cages, cable power and plugs (O7). `State.portLine` reads of a port what R285 and Table 10-4 change of it as a cable goes or comes;
each operation on a port changes that of its own port and of no other.
-/

namespace Sys2Proof.Machine

variable {s : State}

/-! ### Folds over ports -/

/-- What every round of a fold keeps, the fold keeps. -/
theorem foldl_keeps_view {α β : Type} {view : State → β} {f : State → α → State} (hf : ∀ t x, view (f t x) = view t) (l : List α)
    (s : State) : view (l.foldl f s) = view s := by
  induction l generalizing s with
  | nil => rfl
  | cons x l ih => rw [List.foldl_cons, ih, hf]

/-- A fold whose round sets the view of its own port, and of no other, sets that of every port it runs over. -/
theorem foldl_sets_view {β : Type} {view : State → Nat → β} {f : State → Nat → State} {v : β}
    (hf : ∀ t p q, view (f t p) q = if q = p then v else view t q) (l : List Nat) (s : State) (q : Nat) :
    view (l.foldl f s) q = if q ∈ l then v else view s q := by
  induction l generalizing s with
  | nil => simp
  | cons p l ih =>
    rw [List.foldl_cons, ih, hf]
    by_cases hl : q ∈ l <;> by_cases hp : q = p <;> simp [hl, hp]

/-! ### A port -/

/-- State, training step and transmit queue of a port. -/
structure PortLine where
  state : Nat
  tstep : Nat
  txq : List QFlit

def Port.line (x : Port) : PortLine := ⟨x.state, x.tstep, x.txq⟩

/-- State, training step and transmit queue of port `q`. -/
def State.portLine (s : State) (q : Nat) : PortLine := (s.port q).line

theorem State.port_of_portLine {q state tstep : Nat} {txq : List QFlit} (h : s.portLine q = ⟨state, tstep, txq⟩) :
    (s.port q).state = state ∧ (s.port q).tstep = tstep ∧ (s.port q).txq = txq :=
  ⟨congrArg PortLine.state h, congrArg PortLine.tstep h, congrArg PortLine.txq h⟩

section
variable {p q : Nat} {f : Port → Port}

@[simp] theorem State.modPort_pwr : (s.modPort p f).pwr = s.pwr := rfl
@[simp] theorem State.modPort_mem : (s.modPort p f).mem = s.mem := rfl

@[simp] theorem State.port_modPort_self : (s.modPort p f).port p = f (s.port p) := tget_tmod_self

theorem State.port_modPort_ne (h : q ≠ p) : (s.modPort p f).port q = s.port q := tget_tmod_ne h

theorem State.portLine_modPort : (s.modPort p f).portLine q = if q = p then (f (s.port p)).line else s.portLine q := by
  by_cases hq : q = p
  · simp [State.portLine, hq]
  · simp [State.portLine, hq, State.port_modPort_ne hq]

/-- A change of a port that leaves its line leaves every port's. -/
theorem State.portLine_modPort_same (h : ∀ x, (f x).line = x.line) : (s.modPort p f).portLine q = s.portLine q := by
  rw [State.portLine_modPort]
  split_ifs with hq
  · rw [h, hq]; rfl
  · rfl

theorem Port.freeBuffer_line (x : Port) (v : Nat) : (x.freeBuffer v).line = x.line := by
  unfold Port.freeBuffer
  split_ifs <;> rfl

theorem State.portLine_of_ports {t : State} (h : t.ports = s.ports) : t.portLine q = s.portLine q := by
  simp [State.portLine, State.port, h]

end

/-! ### A port that goes down, R285 -/

section
variable {p q : Nat}

/-- The answers to dropped requests change the fabric's list of them alone. -/
theorem State.oweErr_frame {f : Flit} {status : Nat} : s.oweErr f status = { s with fab := (s.oweErr f status).fab } := by
  unfold State.oweErr
  split_ifs <;> rfl

@[simp] theorem State.dropQueued_pwr : (s.dropQueued p).pwr = s.pwr := by
  rw [State.dropQueued, foldl_keeps_view (view := State.pwr) fun _ _ => State.modPort_pwr, State.answerDropped]
  exact foldl_keeps_view (view := State.pwr) (fun _ _ => by rw [State.oweErr_frame]) _ s

@[simp] theorem State.dropQueued_mem : (s.dropQueued p).mem = s.mem := by
  rw [State.dropQueued, foldl_keeps_view (view := State.mem) fun _ _ => State.modPort_mem, State.answerDropped]
  exact foldl_keeps_view (view := State.mem) (fun _ _ => by rw [State.oweErr_frame]) _ s

/-- Freed buffers and answers leave every port's state, training step and queue. -/
theorem State.portLine_dropQueued : (s.dropQueued p).portLine q = s.portLine q := by
  have hanswer : (s.answerDropped p).ports = s.ports :=
    foldl_keeps_view (view := State.ports) (fun _ _ => by rw [State.oweErr_frame]) _ s
  have hfree (t : State) (h : Nat × Nat) : (t.modPort h.1 fun y => y.freeBuffer h.2).portLine q = t.portLine q :=
    State.portLine_modPort_same fun x => x.freeBuffer_line h.2
  calc (s.dropQueued p).portLine q
    _ = (s.answerDropped p).portLine q := foldl_keeps_view (view := fun t => t.portLine q) hfree _ _
    _ = s.portLine q := State.portLine_of_ports hanswer

end

/-! ### A cable that goes, a cable that comes -/

section
variable {p q cond k : Nat}

@[simp] theorem State.portDown_pwr {n : Nat} : (s.portDown p cond k n).pwr = s.pwr := by simp [State.portDown]
@[simp] theorem State.portDown_mem {n : Nat} : (s.portDown p cond k n).mem = s.mem := by simp [State.portDown]

/-- R285: what is left of a port that goes down: the state given, with FPT_EVT.DOWN set. -/
def Port.downed (x : Port) (state tstep : Nat) : Port := { x.dropped state tstep with evt := x.evt ||| 1 }

theorem State.portDown_ports {n : Nat} :
    (s.portDown p cond k n).ports = ((s.dropQueued p).modPort p fun x => x.downed k n).ports := by
  simp [State.portDown, Port.downed]

/-- R285: the port shows the state given, and has nothing queued. -/
theorem State.portLine_portDown {n : Nat} :
    (s.portDown p cond k n).portLine q = if q = p then ⟨k, n, []⟩ else s.portLine q := by
  rw [State.portLine_of_ports State.portDown_ports, State.portLine_modPort, State.portLine_dropQueued]
  rfl

@[simp] theorem State.loseCable_pwr : (s.loseCable p cond k).pwr = s.pwr := by
  unfold State.loseCable
  split_ifs <;> simp

@[simp] theorem State.loseCable_mem : (s.loseCable p cond k).mem = s.mem := by
  unfold State.loseCable
  split_ifs <;> simp

/-- R34, R285: a port that loses its cable, up or not, shows the state given, and has nothing queued. -/
theorem State.portLine_loseCable : (s.loseCable p cond k).portLine q = if q = p then ⟨k, 0, []⟩ else s.portLine q := by
  unfold State.loseCable
  split_ifs with hup hq hq
  · rw [State.portLine_portDown, if_pos hq]
  · rw [State.portLine_portDown, if_neg hq]
  · rw [State.portLine_modPort, if_pos hq]; rfl
  · rw [State.portLine_modPort, if_neg hq]

/-- R285: a port whose plug is removed forgets its authentication failures besides. -/
def State.unplug (s : State) (p : Nat) : State := (s.loseCable p 5 0).modPort p fun x => { x with authFails := 0 }

@[simp] theorem State.unplug_pwr : (s.unplug p).pwr = s.pwr := by simp [State.unplug]
@[simp] theorem State.unplug_mem : (s.unplug p).mem = s.mem := by simp [State.unplug]

theorem State.portLine_unplug : (s.unplug p).portLine q = if q = p then ⟨0, 0, []⟩ else s.portLine q := by
  calc (s.unplug p).portLine q
    _ = (s.loseCable p 5 0).portLine q := State.portLine_modPort_same fun _ => rfl
    _ = _ := State.portLine_loseCable

@[simp] theorem State.trainPort_pwr : (s.trainPort p).pwr = s.pwr := rfl
@[simp] theorem State.trainPort_mem : (s.trainPort p).mem = s.mem := rfl

/-- The state and training step of a port. -/
def State.portTraining (s : State) (q : Nat) : Nat × Nat := ((s.portLine q).state, (s.portLine q).tstep)

theorem State.port_of_portTraining {state tstep : Nat} (h : s.portTraining q = (state, tstep)) :
    (s.port q).state = state ∧ (s.port q).tstep = tstep := ⟨congrArg Prod.fst h, congrArg Prod.snd h⟩

theorem State.portTraining_trainPort : (s.trainPort p).portTraining q = if q = p then (1, 1) else s.portTraining q := by
  rw [State.portTraining, State.trainPort, State.portLine_modPort]
  split_ifs <;> rfl

end

/-! ### The ports of a cage -/

section
variable {l : List Nat} {cage p cond k : Nat}

@[simp] theorem State.foldl_loseCable_pwr : (l.foldl (fun t p => t.loseCable p cond k) s).pwr = s.pwr :=
  foldl_keeps_view (fun _ _ => State.loseCable_pwr) l s
@[simp] theorem State.foldl_loseCable_mem : (l.foldl (fun t p => t.loseCable p cond k) s).mem = s.mem :=
  foldl_keeps_view (fun _ _ => State.loseCable_mem) l s
@[simp] theorem State.foldl_trainPort_pwr : (l.foldl State.trainPort s).pwr = s.pwr :=
  foldl_keeps_view (fun _ _ => State.trainPort_pwr) l s
@[simp] theorem State.foldl_trainPort_mem : (l.foldl State.trainPort s).mem = s.mem :=
  foldl_keeps_view (fun _ _ => State.trainPort_mem) l s
@[simp] theorem State.foldl_unplug_pwr : (l.foldl State.unplug s).pwr = s.pwr :=
  foldl_keeps_view (fun _ _ => State.unplug_pwr) l s
@[simp] theorem State.foldl_unplug_mem : (l.foldl State.unplug s).mem = s.mem :=
  foldl_keeps_view (fun _ _ => State.unplug_mem) l s

/-- Steps 7 and 8 may complete as ports change, which leaves the ports as they are. -/
@[simp] theorem State.portLine_advance78 : s.advance78.portLine p = s.portLine p := State.portLine_of_ports State.advance78_ports

theorem State.portLine_loseCable_all (hp : p ∈ l) :
    (l.foldl (fun t p => t.loseCable p cond k) s).advance78.portLine p = ⟨k, 0, []⟩ := by
  rw [State.portLine_advance78, foldl_sets_view (view := State.portLine) (fun _ _ _ => State.portLine_loseCable), if_pos hp]

theorem State.portLine_unplug_all (hp : p ∈ l) : (l.foldl State.unplug s).advance78.portLine p = ⟨0, 0, []⟩ := by
  rw [State.portLine_advance78, foldl_sets_view (view := State.portLine) (fun _ _ _ => State.portLine_unplug), if_pos hp]

theorem State.portTraining_trainPort_all (hp : p ∈ l) : (l.foldl State.trainPort s).advance78.portTraining p = (1, 1) := by
  rw [State.portTraining, State.portLine_advance78]
  exact (foldl_sets_view (view := State.portTraining) (fun _ _ _ => State.portTraining_trainPort) l s p).trans (if_pos hp)

end

/-! ### Cages -/

section
variable {cage mw us : Nat}

/-- R34: an overload of a cage turns its CBL_PWR off until the plug is reseated, and writes the one entry of the cage. -/
def State.cageOff (s : State) (cage : Nat) : State :=
  State.event { s with pwr := { s.pwr with
    cablePwr := tset false s.pwr.cablePwr cage false, cableOff := tset false s.pwr.cableOff cage true } }
    2 (portSource (3 * cage)) 0x0043 (s.port (3 * cage)).cls 0

/-- R34: more than 4.0 W for 1 ms turns CBL_PWR off, and the three ports lose their cable. -/
theorem cablePowerOverload_of_over (hon : tget false s.pwr.cablePwr cage = true) (hmw : 4000 < mw) (hus : 1000 ≤ us) :
    cablePowerOverload cage mw us s =
      ((cagePorts cage).foldl (fun t p => t.loseCable p 6 6) (s.cageOff cage)).advance78 := by
  simp [cablePowerOverload, State.cageOff, hon, hmw, hus]

theorem cablePowerOverload_of_within (h : mw ≤ 4000 ∨ us < 1000) : cablePowerOverload cage mw us s = s := by
  rcases h with hmw | hus
  · simp [cablePowerOverload, Nat.not_lt.2 hmw]
  · simp [cablePowerOverload, Nat.not_le.2 hus]

/-- What a plug's coming or going does to the cage: R34's turn-off ends with a reseating, the entry of R267 may be written again after a
removal, and CBL_PWR is off until the cable memory is read. -/
def State.cageSeated (s : State) (cage : Nat) (seated : Bool) : State :=
  { s with pwr := { s.pwr with
    seated := tset false s.pwr.seated cage seated
    cableOff := if seated then tset false s.pwr.cableOff cage false else s.pwr.cableOff
    memLogged := if seated then s.pwr.memLogged else tset false s.pwr.memLogged cage false
    cablePwr := tset false s.pwr.cablePwr cage false } }

/-- R34, R267: a plug seated from step 7 on trains its three ports. -/
theorem cagePresenceChange_seated (hstep : 7 ≤ s.boot.step) (hempty : tget false s.pwr.seated cage = false) :
    cagePresenceChange cage true s = ((cagePorts cage).foldl State.trainPort (s.cageSeated cage true)).advance78 := by
  simp [cagePresenceChange, State.cageSeated, hstep, hempty]

/-- R285: a plug removed takes its three ports down. -/
theorem cagePresenceChange_removed :
    cagePresenceChange cage false s = ((cagePorts cage).foldl State.unplug (s.cageSeated cage false)).advance78 := by
  simp only [cagePresenceChange, State.cageSeated, Bool.false_eq_true, if_false]
  rfl

end

/-! ### The statement -/

/-- Settles O7: the fold over the cage's ports sets each of them, and keeps memory and the power that the change of the cage gave. -/
theorem cageCablePower : Obligations.CageCablePower := by
  unfold Obligations.CageCablePower
  refine ⟨fun s cage mw us hcage hon hmw hus => ?_, fun s cage mw us hcage hwithin => ?_, fun s cage hcage hstep hempty => ?_,
    fun s cage hcage => ?_⟩
  · refine ⟨cablePowerOverload cage mw us s, if_pos hcage, ?_⟩
    rw [cablePowerOverload_of_over hon hmw hus]
    refine ⟨by simp [State.cageOff], by simp [State.cageOff], fun p hp => ?_, fun c hc => by simp [State.cageOff, tget_tset_ne hc],
      by simp [State.cageOff]⟩
    obtain ⟨hstate, -, htxq⟩ := State.port_of_portLine (State.portLine_loseCable_all (s := s.cageOff cage) (cond := 6) (k := 6) hp)
    exact ⟨hstate, htxq⟩
  · exact (if_pos hcage).trans (congrArg Host.Outcome.next (cablePowerOverload_of_within hwithin))
  · refine ⟨cagePresenceChange cage true s, if_pos hcage, ?_⟩
    rw [cagePresenceChange_seated hstep hempty]
    refine ⟨by simp [State.cageSeated], by simp [State.cageSeated], fun p hp => ?_, by simp [State.cageSeated]⟩
    exact State.port_of_portTraining (State.portTraining_trainPort_all hp)
  · refine ⟨cagePresenceChange cage false s, if_pos hcage, ?_⟩
    rw [cagePresenceChange_removed]
    refine ⟨by simp [State.cageSeated], fun p hp => ?_, by simp [State.cageSeated]⟩
    exact (State.port_of_portLine (State.portLine_unplug_all hp)).1

end Sys2Proof.Machine

/-!
PROOF. The repair map (O3): the vote of Table 2-3, by which copies pass, and step 4 as the vote ends it. Everything that step 4 does with
the map taken leaves the map itself; a step of bring-up that ends is reported in the log alone.
-/

namespace Sys2Proof.Machine

variable {s : State}

/-! ### Reports of bring-up, R44, R46 -/

section
variable {n c st : Nat} {held : Bool}

@[simp] theorem State.stepEvent_boot : (s.stepEvent n held st).boot = s.boot := rfl
@[simp] theorem State.stepEvent_pwr : (s.stepEvent n held st).pwr = s.pwr := rfl
@[simp] theorem State.stepEvent_mem : (s.stepEvent n held st).mem = s.mem := rfl
@[simp] theorem State.stepEvent_wdn : (s.stepEvent n held st).wdn = s.wdn := rfl
@[simp] theorem State.stepEvent_tin : (s.stepEvent n held st).tin = s.tin := rfl

@[simp] theorem State.waitFor_boot :
    (s.waitFor c).boot = { s.boot with wait := true, hold := false, cause := c, status := 0 } := rfl

@[simp] theorem State.holdAt_pwr : (s.holdAt n c st).pwr = s.pwr := by simp [State.holdAt]
@[simp] theorem State.holdAt_mem : (s.holdAt n c st).mem = s.mem := by simp [State.holdAt]
@[simp] theorem State.holdAt_wdn : (s.holdAt n c st).wdn = s.wdn := by simp [State.holdAt]

/-- R42, R44: a hold shows its step, cause and status. -/
@[simp] theorem State.holdAt_boot : (s.holdAt n c st).boot =
    { (s.setStep n).boot with hold := true, wait := false, cause := c, status := st } := rfl

end

/-! ### The vote, Table 2-3 -/

section
variable {c : Nat → Option (Nat × List Byte)} {m a b : Nat × List Byte} {i j k : Nat}

/-- Two passing copies that agree give the map, whatever the third is. -/
theorem voteMap_of_agree (hij : i < j) (hj : j < 3) (hi : c i = some m) (hc : c j = some m) :
    voteMap ((List.range 3).map c) = some m := by
  obtain ⟨rfl, rfl⟩ | ⟨rfl, rfl⟩ | ⟨rfl, rfl⟩ : (i = 0 ∧ j = 1) ∨ (i = 0 ∧ j = 2) ∨ (i = 1 ∧ j = 2) := by omega
  · cases h2 : c 2 <;> simp [voteMap, List.range_succ, hi, hc, h2]
  · cases h1 : c 1 <;> simp [voteMap, List.range_succ, hi, hc, h1]
  · cases h0 : c 0 with
    | none => simp [voteMap, List.range_succ, hi, hc, h0]
    | some x => by_cases hx : x = m <;> simp [voteMap, List.range_succ, hi, hc, h0, hx]

/-- The three copies in some order. -/
theorem perm_range_three (h : [i, j, k].Perm [0, 1, 2]) :
    (i = 0 ∧ j = 1 ∧ k = 2) ∨ (i = 0 ∧ j = 2 ∧ k = 1) ∨ (i = 1 ∧ j = 0 ∧ k = 2) ∨ (i = 1 ∧ j = 2 ∧ k = 0) ∨
      (i = 2 ∧ j = 0 ∧ k = 1) ∨ (i = 2 ∧ j = 1 ∧ k = 0) := by
  have hmem (x : Nat) (hx : x ∈ [i, j, k]) : x ∈ List.range 3 := h.subset hx
  have horder : ∀ i ∈ List.range 3, ∀ j ∈ List.range 3, ∀ k ∈ List.range 3, [i, j, k].Nodup →
      (i = 0 ∧ j = 1 ∧ k = 2) ∨ (i = 0 ∧ j = 2 ∧ k = 1) ∨ (i = 1 ∧ j = 0 ∧ k = 2) ∨ (i = 1 ∧ j = 2 ∧ k = 0) ∨
        (i = 2 ∧ j = 0 ∧ k = 1) ∨ (i = 2 ∧ j = 1 ∧ k = 0) := by decide
  exact horder i (hmem i (by simp)) j (hmem j (by simp)) k (hmem k (by simp)) (h.nodup_iff.2 (by decide))

/-- Two passing copies one apart give the lower, where the third does not pass. -/
theorem voteMap_of_oneApart {n : Nat} {x y : List Byte} (hperm : [i, j, k].Perm [0, 1, 2]) (hi : c i = some (n, x))
    (hj : c j = some (n + 1, y)) (hk : c k = none) : voteMap ((List.range 3).map c) = some (n, x) := by
  rcases perm_range_three hperm with ⟨rfl, rfl, rfl⟩ | ⟨rfl, rfl, rfl⟩ | ⟨rfl, rfl, rfl⟩ | ⟨rfl, rfl, rfl⟩ | ⟨rfl, rfl, rfl⟩ | ⟨rfl, rfl, rfl⟩ <;>
    simp [voteMap, List.range_succ, hi, hj, hk, show ¬ n + 1 + 1 = n by omega]

/-- Two passing copies that neither agree nor are one apart give no map. -/
theorem voteMap_two_eq_none (hne : a ≠ b) (hab : a.1 + 1 ≠ b.1) (hba : b.1 + 1 ≠ a.1) (hcs : ((List.range 3).map c).filterMap id = [a, b]) :
    voteMap ((List.range 3).map c) = none := by
  simp only [voteMap, hcs]
  simp [hne, hab, hba]

/-- No two copies agree and no exactly two are one apart: there is no map to take. -/
theorem voteMap_eq_none (hagree : ¬ ∃ i j m, i < j ∧ j < 3 ∧ c i = some m ∧ c j = some m)
    (hapart : ¬ ∃ i j k n x y, [i, j, k].Perm [0, 1, 2] ∧ c i = some (n, x) ∧ c j = some (n + 1, y) ∧ c k = none) :
    voteMap ((List.range 3).map c) = none := by
  have hdiffer {i j : Nat} {x y : Nat × List Byte} (hij : i < j) (hj : j < 3) (hx : c i = some x) (hy : c j = some y) : x ≠ y := by
    rintro rfl
    exact hagree ⟨i, j, x, hij, hj, hx, hy⟩
  have hfar {i j k : Nat} {x y : Nat × List Byte} (hperm : [i, j, k].Perm [0, 1, 2]) (hx : c i = some x) (hy : c j = some y)
      (hk : c k = none) : x.1 + 1 ≠ y.1 := fun h => hapart ⟨i, j, k, x.1, x.2, y.2, hperm, hx, by rw [h]; exact hy, hk⟩
  cases h0 : c 0 <;> cases h1 : c 1 <;> cases h2 : c 2
  case none.some.some x y =>
    exact voteMap_two_eq_none (hdiffer (by decide) (by decide) h1 h2) (hfar (by decide) h1 h2 h0) (hfar (by decide) h2 h1 h0)
      (by simp [List.range_succ, h0, h1, h2])
  case some.none.some x y =>
    exact voteMap_two_eq_none (hdiffer (by decide) (by decide) h0 h2) (hfar (by decide) h0 h2 h1) (hfar (by decide) h2 h0 h1)
      (by simp [List.range_succ, h0, h1, h2])
  case some.some.none x y =>
    exact voteMap_two_eq_none (hdiffer (by decide) (by decide) h0 h1) (hfar (by decide) h0 h1 h2) (hfar (by decide) h1 h0 h2)
      (by simp [List.range_succ, h0, h1, h2])
  case some.some.some x y z =>
    have hxy : x ≠ y := hdiffer (by decide) (by decide) h0 h1
    have hxz : x ≠ z := hdiffer (by decide) (by decide) h0 h2
    have hyz : y ≠ z := hdiffer (by decide) (by decide) h1 h2
    simp [voteMap, List.range_succ, h0, h1, h2, hxy, hxz, hyz]
  all_goals simp [voteMap, List.range_succ, h0, h1, h2]

end

/-! ### The map taken, R51 to R53 -/

section
variable {rows : List (BitVec 9)} {columns : List Nat} {owners : List (List Byte)} {resource unit n : Nat}

/-- The repair map in force: its sequence number and body. -/
def State.mapInForce (s : State) : Nat × List Byte := (s.boot.repairSeq, s.boot.repairBody)

theorem State.mapInForce_of_boot {t : State} (h : t.boot = s.boot) : t.mapInForce = s.mapInForce := by simp [State.mapInForce, h]

@[simp] theorem State.repairWritten_mapInForce : (s.repairWritten resource unit).mapInForce = s.mapInForce := rfl

@[simp] theorem State.coreSpare_mapInForce : (s.coreSpare n).mapInForce = s.mapInForce := by
  unfold State.coreSpare
  split_ifs <;> simp

@[simp] theorem State.columnSpare_mapInForce : (s.columnSpare n).mapInForce = s.mapInForce := by
  unfold State.columnSpare
  split_ifs <;> simp

@[simp] theorem State.bistSpares_mapInForce : (s.bistSpares rows columns).mapInForce = s.mapInForce := by
  rw [State.bistSpares, foldl_keeps_view fun _ _ => State.columnSpare_mapInForce, foldl_keeps_view fun _ _ => State.coreSpare_mapInForce]

@[simp] theorem State.setGrade_mapInForce : (s.setGrade rows).mapInForce = s.mapInForce := by
  unfold State.setGrade
  dsimp only
  split_ifs <;> rfl

@[simp] theorem State.selectOwner_boot : (s.selectOwner owners).boot = s.boot := by
  unfold State.selectOwner
  dsimp only
  split_ifs
  · rfl
  · split <;> rfl

@[simp] theorem State.beginStep5_mapInForce : s.beginStep5.mapInForce = s.mapInForce := by
  unfold State.beginStep5
  split_ifs <;> simp [State.mapInForce]

/-- R55: step 5 begins without a hold, in both settings of IMG_SRC. -/
theorem State.beginStep5_boot_step_hold : s.beginStep5.boot.step = 5 ∧ s.beginStep5.boot.hold = false := by
  unfold State.beginStep5
  split_ifs <;> simp

end

/-! ### Step 4 -/

section
variable {copies : List (List Byte)} {bist : List (BitVec 9)} {columns : List Nat} {owners : List (List Byte)} {m : Nat × List Byte}

/-- The copies of the repair map as step 4 reads them: those that pass their checks. -/
def State.votes (s : State) (copies : List (List Byte)) (i : Nat) : Option (Nat × List Byte) := mapCopy (s.readCopy i (copies.getD i []))

/-- Step 4 runs: the Warden is powered and neither holds nor rebuilds the map. -/
def State.inStep4 (s : State) : Prop := s.boot.step = 4 ∧ s.pwr.pwrOk = true ∧ s.boot.hold = false ∧ s.boot.rebuilding = false

theorem State.inStep4.guard (h : s.inStep4) :
    (decide (s.boot.step = 4) && s.pwr.pwrOk && !s.boot.hold && !s.boot.rebuilding) = true := by
  obtain ⟨hstep, hpwr, hhold, hreb⟩ := h
  simp [hstep, hpwr, hhold, hreb]

/-- R50: a map that the vote takes is in force as step 5 begins. -/
theorem repairMapVote_of_taken (h : s.inStep4) (hvote : voteMap ((List.range 3).map (s.votes copies)) = some m) :
    (repairMapVote copies bist columns owners s).mapInForce = m ∧ (repairMapVote copies bist columns owners s).boot.step = 5 ∧
      (repairMapVote copies bist columns owners s).boot.hold = false := by
  have hvote' : voteMap ((List.range 3).map fun i => mapCopy (s.readCopy i (copies.getD i []))) = some m := hvote
  simp only [repairMapVote, if_pos h.guard, hvote']
  refine ⟨?_, State.beginStep5_boot_step_hold⟩
  rw [State.mapInForce_of_boot State.stepEvent_boot, State.beginStep5_mapInForce, State.bistSpares_mapInForce, State.mapInForce_of_boot State.selectOwner_boot, State.setGrade_mapInForce]
  split_ifs <;> rfl

/-- R50: where the vote takes no map, step 4 holds with REPAIR_DISAGREE, and only the highest sequence number found is kept. -/
theorem repairMapVote_of_none (h : s.inStep4) (hvote : voteMap ((List.range 3).map (s.votes copies)) = none) :
    repairMapVote copies bist columns owners s = State.holdAt { s with boot := { s.boot with
      repairHighest := (((List.range 3).map (s.votes copies)).filterMap id).foldl (fun m c => max m c.1) 0 } } 4 0x03 stRepairDisagree := by
  have hvote' : voteMap ((List.range 3).map fun i => mapCopy (s.readCopy i (copies.getD i []))) = none := hvote
  simp only [repairMapVote, if_pos h.guard, hvote']
  rfl

end

/-- Settles O3: the three cases of Table 2-3 by the vote, and step 4 as each ends it. -/
theorem repairMapVote_follows_table : Obligations.RepairMapVote := by
  unfold Obligations.RepairMapVote
  intro s copies bist columns owners hstep hpwr hhold hreb
  have hin : s.inStep4 := ⟨hstep, hpwr, hhold, hreb⟩
  refine ⟨fun i j m hij hj hi hc => ?_, fun i j k n a b hperm hi hj hk => ?_, fun hagree hapart => ?_⟩
  · obtain ⟨hmap, hfive, hfree⟩ := repairMapVote_of_taken (bist := bist) (columns := columns) (owners := owners) hin
      (voteMap_of_agree hij hj hi hc)
    exact ⟨_, rfl, congrArg Prod.fst hmap, congrArg Prod.snd hmap, hfive, hfree⟩
  · obtain ⟨hmap, hfive, hfree⟩ := repairMapVote_of_taken (bist := bist) (columns := columns) (owners := owners) hin
      (voteMap_of_oneApart hperm hi hj hk)
    exact ⟨_, rfl, congrArg Prod.fst hmap, congrArg Prod.snd hmap, hfive, hfree⟩
  · refine ⟨_, congrArg Host.Outcome.next (repairMapVote_of_none hin (voteMap_eq_none hagree hapart)), ?_⟩
    simp [stRepairDisagree]

end Sys2Proof.Machine

/-!
PROOF. The rebuilt repair map (O4). R52 leaves the rebuilt map in all three copies; a restart at step 3 leaves the copy whose write it
interrupts failing its checks (R51). Where a write of the map before it is still under way, the two meet in one copy.
-/

namespace Sys2Proof.Machine

variable {s : State}

/-- R51, R52: the rebuilt map with the write of a copy of an older map still under way leaves that copy failing its checks. -/
theorem repairRebuildDone_interrupted {body : List Byte} {w : RepairWrite} {ws : List RepairWrite} (hreb : s.boot.rebuilding = true)
    (hwrites : s.boot.repairWrites = w :: ws) : tget [] (repairRebuildDone body s).boot.repairCopies w.copy = [0] := by
  simp [repairRebuildDone, State.restartAt3, State.volatileLost, hreb, hwrites]

/-- A copy of the repair map has its header of 64 bytes. -/
theorem mapBytes_length {seq : Nat} {body : List Byte} : (mapBytes seq body).length = 64 + body.length := by
  simp [mapBytes, ascii, leBytes_length, zeros]
  omega

/-- A map is being rebuilt while the first copy of the map before it is being written. -/
def interruptedRebuild : State := { boot := { rebuilding := true, repairWrites := [{}] } }

/-- Refutes O4: in `interruptedRebuild` the restart after REPAIR_REBUILD_DONE leaves the first copy as the one byte of an interrupted write
(R51), where the statement says that every copy holds the rebuilt map. -/
theorem not_wardenStartAndMailbox : ¬ Obligations.WardenStartAndMailbox := by
  unfold Obligations.WardenStartAndMailbox
  rintro ⟨-, -, -, -, hrebuilt, -⟩
  obtain ⟨t, ht, -, -, hcopies, -⟩ := hrebuilt interruptedRebuild [] rfl
  have hmap : tget [] (repairRebuildDone [] interruptedRebuild).boot.repairCopies 0 = mapBytes 1 [] := by
    rw [Host.Outcome.next.inj ht]
    exact hcopies 0 (by decide)
  have hlost : tget [] (repairRebuildDone [] interruptedRebuild).boot.repairCopies 0 = [0] := repairRebuildDone_interrupted (w := {}) rfl rfl
  have hlength := congrArg List.length (hmap.symm.trans hlost)
  simp [mapBytes_length] at hlength

end Sys2Proof.Machine

/-!
PROOF. Images, GDDR7 and Tin in bring-up (O5): what verification, the start of the firmware, training, the zero fill and the mount leave.
-/

namespace Sys2Proof.Machine

variable {s : State}

/-! ### A zero fill of memory -/

section
variable {α : Type} {t : Sparse α} {k : Nat} {p : Nat × α → Bool}

/-- A filter that keeps a key's entry, whatever its value, leaves the key. -/
theorem tfind_filter_keep (h : ∀ x, p (k, x) = true) : tfind (t.filter p) k = tfind t k := by
  induction t with
  | nil => rfl
  | cons e r ih =>
    obtain ⟨j, x⟩ := e
    by_cases hj : j = k
    · subst hj; simp [h, tfind]
    · by_cases hp : p (j, x) = true <;> simp [hp, tfind, hj, ih]

/-- A filter that drops a key's entry, whatever its value, unlists the key. -/
theorem tfind_filter_drop (h : ∀ x, p (k, x) = false) : tfind (t.filter p) k = none := by
  induction t with
  | nil => rfl
  | cons e r ih =>
    obtain ⟨j, x⟩ := e
    by_cases hj : j = k
    · subst hj; simp [h, ih]
    · by_cases hp : p (j, x) = true <;> simp [hp, tfind, hj, ih]

end

section
variable {m : Memory} {base len epoch slot a : Nat}

/-- An overlay is what a covered byte reads as. -/
theorem Memory.byte_overlay_inside (hlo : base ≤ a) (hhi : a < base + len) :
    (m.overlay base len epoch slot).byte a = UndefRange.byte { base, len, epoch, slot } a := by
  simp [Memory.byte, Memory.unlisted, Memory.overlay, overlayByte, UndefRange.covers, tget, hlo, hhi, tfind_filter_drop]

/-- An overlay leaves every byte outside it. -/
theorem Memory.byte_overlay_outside (h : a < base ∨ base + len ≤ a) : (m.overlay base len epoch slot).byte a = m.byte a := by
  have hout : (decide (base ≤ a) && decide (a < base + len)) = false := by
    rcases h with h | h
    · simp [Nat.not_le.2 h]
    · simp [Nat.not_lt.2 h]
  rw [Memory.byte, Memory.byte, Memory.overlay_unlisted_outside hout, tget, tget, Memory.overlay]
  rw [tfind_filter_keep fun _ => by simp only [hout, Bool.not_false]]

/-- A zero fill reads zero. -/
theorem Memory.byte_zeroFill_inside (hlo : base ≤ a) (hhi : a < base + len) : (m.zeroFill base len).byte a = 0 := by
  unfold Memory.zeroFill
  split_ifs with hundef
  · simp [Memory.byte, Memory.unlisted, tget, tfind_filter_drop, hlo, hhi, List.isEmpty_iff.1 hundef, overlayByte]
  · simp [Memory.byte_overlay_inside hlo hhi, UndefRange.byte]

/-- A zero fill leaves every byte outside it. -/
theorem Memory.byte_zeroFill_outside (h : a < base ∨ base + len ≤ a) : (m.zeroFill base len).byte a = m.byte a := by
  have hout : (decide (base ≤ a) && decide (a < base + len)) = false := by
    rcases h with h | h
    · simp [Nat.not_le.2 h]
    · simp [Nat.not_lt.2 h]
  unfold Memory.zeroFill
  split_ifs
  · rw [Memory.byte, Memory.byte, tget, tget, tfind_filter_keep fun _ => by simp only [hout, Bool.not_false]]
    rfl
  · exact Memory.byte_overlay_outside h

end

/-! ### Step 5: verification, R54 to R57 -/

section
variable {img : List Byte} {accepts : List Bool} {k : Nat}

/-- R57, R460: the firmware runs as step 6 begins, without hold or wait. -/
theorem State.startFirmware_boot : s.startFirmware.boot =
    { (s.beginStep 6).noWait.boot with fwRunning := true, mboxBusy := false, imageWriting := false } := rfl

@[simp] theorem State.startFirmware_mem : s.startFirmware.mem = s.mem := by simp [State.startFirmware, State.beginStep]

/-- R57, R336: the Warden runs and has drawn the GDDR7 key; it keeps what it holds besides. -/
theorem State.startFirmware_wdn : s.startFirmware.wdn = { s.wdn.drawKey with mode := 1 } := by
  simp [State.startFirmware, State.beginStep, State.noWait]

theorem State.startFirmware_tin : s.startFirmware.tin = { s.tin with state := 1 } := by
  simp [State.startFirmware, State.beginStep, State.noWait]

/-- The Warden verifies what Tin's reserved area holds, which it has not written itself. -/
structure State.VerifiesTin (s : State) : Prop where
  step : s.boot.step = 5
  powered : s.pwr.pwrOk = true
  noHold : s.boot.hold = false
  noWrite : s.boot.imageWriting = false
  noCommit : s.boot.mboxBusy = false
  fromTin : s.boot.fromMailbox = false
  unwritten : s.boot.reservedImage = []

/-- R445, R446, R449: what is kept of an image that verifies: its digest, its version, its key slot, the alias key and its certificate. -/
def State.verified (s : State) (img : List Byte) (k : Nat) : State :=
  { s with
    boot := { s.boot with fwDigest := slice img 0x40 64, imageSvn := leAt img 0x0C 4, fwKeyUsed := k, mboxBusy := false }
    wdn := { s.wdn with
      aliasKey := devAliasKey (slice img 0x40 64) (leAt img 0x0C 4)
      aliasCert := some (issueAlias s.wdn.identityKey (slice img 0x40 64) (leAt img 0x0C 4)) } }

theorem imageVerifyDone_rejected (h : s.VerifiesTin) (hkey : imageKey s img none accepts = none) :
    imageVerifyDone img accepts s = State.holdAt { s with boot := { s.boot with mboxBusy := false } } 5 0x04 stImageVerify := by
  simp [imageVerifyDone, h.step, h.powered, h.noHold, h.noWrite, h.noCommit, h.fromTin, h.unwritten, hkey]

/-- R57: an image from Tin starts the firmware at once. -/
theorem imageVerifyDone_fromTin (h : s.VerifiesTin) (hkey : imageKey s img none accepts = some k) :
    imageVerifyDone img accepts s = (s.verified img k).startFirmware := by
  simp [imageVerifyDone, State.verified, h.step, h.powered, h.noHold, h.noWrite, h.noCommit, h.fromTin, h.unwritten, hkey]

/-- R56: an image from the mailbox is first written to the reserved area. -/
theorem imageVerifyDone_fromMailbox (hstep : s.boot.step = 5) (hpwr : s.pwr.pwrOk = true) (hhold : s.boot.hold = false)
    (hwrite : s.boot.imageWriting = false) (hbusy : s.boot.mboxBusy = true)
    (hkey : imageKey s s.mailboxImage (some s.boot.mboxLen.toNat) accepts = some k) : imageVerifyDone img accepts s =
      { s.verified s.mailboxImage k with boot := { (s.verified s.mailboxImage k).boot with imageWriting := true } } := by
  simp [imageVerifyDone, State.verified, hstep, hpwr, hhold, hwrite, hbusy, hkey]

theorem reservedImageWriteDone_of_writing (hstep : s.boot.step = 5) (hwrite : s.boot.imageWriting = true) : reservedImageWriteDone s =
    State.startFirmware { s with boot := { s.boot with reservedImage := s.mailboxImage } } := by
  simp [reservedImageWriteDone, hstep, hwrite]

end

/-! ### Step 6: GDDR7, R58, R59 -/

section
variable {c : Nat}

/-- A channel that has neither trained nor failed yet trains in step 6. -/
structure State.Trains (s : State) (c : Nat) : Prop where
  channel : c < 96
  step : s.boot.step = 6
  untrained : s.boot.gddrTrained.getLsbD c = false
  unfailed : s.boot.gddrFail.getLsbD c = false

theorem getLsbD_or_twoPow {w : BitVec 96} (hc : c < 96) : (w ||| BitVec.ofNat 96 (2 ^ c)).getLsbD c = true := by
  rw [BitVec.getLsbD_or, BitVec.getLsbD_ofNat, Nat.testBit_two_pow_self, decide_eq_true hc, Bool.true_and, Bool.or_true]

/-- R58: a channel that trains shows in its bit. -/
theorem gddrTrainingDone_passed (h : s.Trains c) : gddrTrainingDone c true s = { s with boot := { s.boot with
    gddrAttempts := tset 0 s.boot.gddrAttempts c (tget 0 s.boot.gddrAttempts c + 1)
    gddrTrained := s.boot.gddrTrained ||| BitVec.ofNat 96 (2 ^ c) } } := by
  simp [gddrTrainingDone, h.step, h.untrained, h.unfailed]

/-- The state as a channel has failed for the third time. -/
def State.channelFailed (s : State) (c : Nat) : State := { s with boot := { s.boot with
  gddrAttempts := tset 0 s.boot.gddrAttempts c 3, gddrFail := s.boot.gddrFail ||| BitVec.ofNat 96 (2 ^ c) } }

/-- R58: a channel's third failure shows in its bit, and holds, unless a hold stands already. -/
theorem gddrTrainingDone_thirdFailure (h : s.Trains c) (hthird : tget 0 s.boot.gddrAttempts c = 2) : gddrTrainingDone c false s =
    if s.boot.hold then s.channelFailed c else (s.channelFailed c).holdAt 6 0x05 0 := by
  simp [gddrTrainingDone, State.channelFailed, h.step, h.untrained, h.unfailed, hthird]

/-- A fold that trains ports leaves bring-up. -/
theorem State.foldl_trainSeated_boot {l : List Nat} :
    (l.foldl (fun t p => if t.portSeated p then t.trainPort p else t) s).boot = s.boot :=
  foldl_keeps_view (view := State.boot) (fun t p => by split_ifs <;> rfl) l s

theorem State.foldl_trainSeated_mem {l : List Nat} :
    (l.foldl (fun t p => if t.portSeated p then t.trainPort p else t) s).mem = s.mem :=
  foldl_keeps_view (view := State.mem) (fun t p => by split_ifs <;> rfl) l s

@[simp] theorem State.wait78_mem : s.wait78.mem = s.mem := State.mem_of_outsideBringup State.wait78_outsideBringup

/-- R44: the waits of steps 7 and 8 leave the step. -/
@[simp] theorem State.wait78_boot_step : s.wait78.boot.step = s.boot.step := by
  unfold State.wait78
  split_ifs <;> simp

/-- R59: the fill zeroes GDDR7, and step 7 begins. -/
theorem gddrZeroFillDone_of_trained (hstep : s.boot.step = 6) (hhold : s.boot.hold = false)
    (htrained : s.boot.gddrTrained = BitVec.allOnes 96) : (gddrZeroFillDone s).boot.step = 7 ∧
      (gddrZeroFillDone s).mem = s.mem.zeroFill 0 gddrSize := by
  simp only [gddrZeroFillDone, hstep, hhold, htrained]
  simp [State.foldl_trainSeated_boot, State.foldl_trainSeated_mem, State.beginStep, State.zero]

end

/-! ### Tin's mount, R60, R363 -/

section
variable {cap spare : Nat}

theorem tinMountDone_mounted (hmount : s.tin.state = 1) (hstep : s.boot.step ≠ 10) : tinMountDone true cap spare s =
    { s with tin := { s.tin with state := if spare = 0 then 3 else 2, cap := cap, spare := spare } } := by
  simp [tinMountDone, hmount, hstep]

/-- R60: a failed mount is a reduced resource, and step 10, which waited for the mount, waits for the first blend. -/
theorem tinMountDone_failed (hmount : s.tin.state = 1) (hstep : s.boot.step = 10) (hcause : s.boot.cause = 0x15) :
    tinMountDone false cap spare s = (State.degrade { s with tin := { s.tin with state := 4 } } 10).waitFor 0x13 := by
  simp [tinMountDone, State.degrade, hmount, hstep, hcause]

end

/-! ### The statement -/

/-- Settles O5: an image at each end of its verification, a channel at each end of its training, the zero fill and the mount. -/
theorem imagesAndMedia : Obligations.ImagesAndMedia := by
  unfold Obligations.ImagesAndMedia
  refine ⟨fun s img acc hstep hpwr hhold hwrite hbusy hmbox hres hkey => ?_,
    fun s img acc k hstep hpwr hhold hwrite hbusy hmbox hres hkey => ?_,
    fun s img acc k hstep hpwr hhold hwrite hbusy hkey => ?_, fun s hstep hwrite => ?_, fun s c hc hstep htrained hfail => ?_,
    fun s c hc hstep htrained hfail hthird => ?_, fun s hstep hhold htrained => ?_, fun s cap spare hmount hstep => ?_,
    fun s cap spare hmount hstep hcause => ?_⟩
  · refine ⟨_, congrArg Host.Outcome.next (imageVerifyDone_rejected ⟨hstep, hpwr, hhold, hwrite, hbusy, hmbox, hres⟩ hkey), ?_⟩
    simp [stImageVerify]
  · refine ⟨_, congrArg Host.Outcome.next (imageVerifyDone_fromTin ⟨hstep, hpwr, hhold, hwrite, hbusy, hmbox, hres⟩ hkey), ?_⟩
    simp [State.startFirmware_boot, State.startFirmware_wdn, State.startFirmware_tin, State.verified, Warden.drawKey]
  · refine ⟨_, congrArg Host.Outcome.next (imageVerifyDone_fromMailbox hstep hpwr hhold hwrite hbusy hkey), ?_⟩
    simp [State.verified, hstep]
  · refine ⟨_, congrArg Host.Outcome.next (reservedImageWriteDone_of_writing hstep hwrite), ?_⟩
    simp [State.startFirmware_boot]
  · refine ⟨_, (if_pos hc).trans (congrArg Host.Outcome.next (gddrTrainingDone_passed ⟨hc, hstep, htrained, hfail⟩)), ?_, rfl⟩
    exact getLsbD_or_twoPow hc
  · refine ⟨_, (if_pos hc).trans (congrArg Host.Outcome.next (gddrTrainingDone_thirdFailure ⟨hc, hstep, htrained, hfail⟩ hthird)), ?_⟩
    cases hhold : s.boot.hold
    · rw [if_neg Bool.false_ne_true, State.holdAt_boot, State.setStep_boot]
      exact ⟨getLsbD_or_twoPow hc, rfl, fun _ => rfl, rfl, State.holdAt_mem⟩
    · rw [if_pos rfl]
      exact ⟨getLsbD_or_twoPow hc, hhold, nofun, hstep, rfl⟩
  · obtain ⟨hseven, hmem⟩ := gddrZeroFillDone_of_trained hstep hhold htrained
    refine ⟨_, rfl, hseven, fun a ha => ?_, fun a ha => ?_⟩
    · rw [hmem, Memory.byte_zeroFill_inside (Nat.zero_le a) (by simpa using ha)]
    · rw [hmem, Memory.byte_zeroFill_outside (.inr (by simpa using ha))]
  · exact congrArg Host.Outcome.next (tinMountDone_mounted hmount hstep)
  · exact ⟨_, congrArg Host.Outcome.next (tinMountDone_failed hmount hstep hcause), rfl, rfl, rfl⟩

end Sys2Proof.Machine

/-!
PROOF. The end of a command (O54). `State.ended` is the state with a command's end accounted for, before its record goes out; the end
then has one of four forms, by where the record goes. `State.outsideCommands` is all that no command's end touches.
-/

namespace Sys2Proof.Machine

variable {s t : State}

/-! ### Outside commands -/

/-- The state but for what starting and ending commands touches. -/
def State.outsideCommands (s : State) : State :=
  { s with mem := {}, jobs := [], queues := [], pass := [], live := [], eng := [], rings := [], str := {}, log := {}, irq := {}, out := []
           freeCount := 0, fab := { s.fab with toSend := [], endings := [], lastEnding := 0 } }

/-- A state with what `State.outsideCommands` leaves out taken from another. -/
def State.withCommands (s t : State) : State :=
  { s with mem := t.mem, jobs := t.jobs, queues := t.queues, pass := t.pass, live := t.live, eng := t.eng, rings := t.rings, str := t.str
           fab := { s.fab with toSend := t.fab.toSend, endings := t.fab.endings, lastEnding := t.fab.lastEnding }
           log := t.log, irq := t.irq, out := t.out, freeCount := t.freeCount }

theorem onlyCommands_of_outsideCommands (h : t.outsideCommands = s.outsideCommands) : OnlyCommands { s with str := t.str } t :=
  calc t = t.outsideCommands.withCommands t := rfl
    _ = s.outsideCommands.withCommands t := by rw [h]

theorem onlyCommands_of_str (h : t.outsideCommands = s.outsideCommands) (hstr : t.str = s.str) : OnlyCommands s t := by
  have hat := onlyCommands_of_outsideCommands h
  rwa [hstr] at hat

section
variable {c : Cmd} {status detail sub j r v : Nat} {signals counts : Bool} {record : List Byte} {f : Ring → Ring} {rs : List RemReq}

@[simp] theorem State.emit_outsideCommands {o : Output} : (s.emit o).outsideCommands = s.outsideCommands := rfl
@[simp] theorem State.modRing_outsideCommands : (s.modRing r f).outsideCommands = s.outsideCommands := rfl
@[simp] theorem State.claim_outsideCommands {l : List (Nat × Nat)} : (s.claim l).outsideCommands = s.outsideCommands := rfl
@[simp] theorem State.store_outsideCommands {a : Nat} {bs : List Byte} : (s.store a bs).outsideCommands = s.outsideCommands := rfl
@[simp] theorem State.requests_outsideCommands : (s.requests rs).outsideCommands = s.outsideCommands := rfl
@[simp] theorem State.setSlot_outsideCommands {g : JobSlot → JobSlot} : (s.setSlot j g).outsideCommands = s.outsideCommands := rfl
@[simp] theorem State.dropLive_outsideCommands : (s.dropLive c).outsideCommands = s.outsideCommands := rfl
@[simp] theorem State.engineEnd_outsideCommands : (s.engineEnd c status detail sub).outsideCommands = s.outsideCommands := rfl

@[simp] theorem State.msix_outsideCommands : (s.msix v).outsideCommands = s.outsideCommands := by
  unfold State.msix
  split_ifs <;> rfl

@[simp] theorem State.ringInterrupt_outsideCommands : (s.ringInterrupt r).outsideCommands = s.outsideCommands := by
  simp [State.ringInterrupt]

@[simp] theorem State.post_outsideCommands : (s.post c record).outsideCommands = s.outsideCommands := by
  unfold State.post
  dsimp only
  split_ifs <;> simp

@[simp] theorem State.signal_outsideCommands {g : BitVec 8} : (s.signal j g).outsideCommands = s.outsideCommands := by
  unfold State.signal
  split <;> simp

@[simp] theorem State.conclude_outsideCommands : (s.conclude c record signals).outsideCommands = s.outsideCommands := by
  unfold State.conclude
  split_ifs <;> simp

@[simp] theorem State.writeCompl_outsideCommands : (s.writeCompl c record signals).outsideCommands = s.outsideCommands := by
  unfold State.writeCompl
  dsimp only
  split_ifs <;> rfl

@[simp] theorem State.finish_outsideCommands : (s.finish c record signals).outsideCommands = s.outsideCommands := by
  unfold State.finish
  split_ifs <;> simp

@[simp] theorem State.tallyEcc_outsideCommands : (s.tallyEcc status).outsideCommands = s.outsideCommands := by
  unfold State.tallyEcc
  split_ifs <;> rfl

@[simp] theorem State.settlePreempt_outsideCommands : (s.settlePreempt j).outsideCommands = s.outsideCommands := by
  unfold State.settlePreempt
  split_ifs <;> rfl

@[simp] theorem State.absent_outsideCommands : (s.absent c status).outsideCommands = s.outsideCommands := by
  unfold State.absent
  split_ifs <;> rfl

@[simp] theorem State.trace_outsideCommands : (s.trace c status).outsideCommands = s.outsideCommands := by
  unfold State.trace
  split_ifs <;> rfl

@[simp] theorem State.account_outsideCommands : (s.account c status).outsideCommands = s.outsideCommands := by
  unfold State.account
  split_ifs <;> rfl

end

/-! ### Rings, R437, R438 -/

section
variable {c : Cmd} {r q v : Nat} {signals : Bool} {record : List Byte}

/-- A ring as the host set it up and as its descriptors were fetched: without what the ends of commands count and post. -/
def Ring.unended (x : Ring) : Ring := { x with lost := 0, cqTail := 0, phase := true, unposted := 0, posts := 0, firstPostAt := 0 }

theorem State.ring_of_rings (h : t.rings = s.rings) : t.ring q = s.ring q := by rw [State.ring, State.ring, h]

@[simp] theorem State.ring_emit {o : Output} : (s.emit o).ring q = s.ring q := rfl
@[simp] theorem State.ring_msix : (s.msix v).ring q = s.ring q := State.ring_of_rings State.msix_rings

/-- A view of rings that a change of one keeps of it, it keeps of every ring. -/
theorem State.ring_modRing_view {β : Type} {view : Ring → β} {f : Ring → Ring} (h : ∀ x, view (f x) = view x) :
    view ((s.modRing r f).ring q) = view (s.ring q) := by
  by_cases hq : q = r
  · rw [hq, State.ring_modRing, h]
  · rw [State.ring_modRing_ne hq]

/-- R437, R438: of a ring, a post changes the count of commands to be posted, and beside it only what its queue and its interrupts show. -/
theorem State.post_ring_view {β : Type} {view : Ring → β} (h : ∀ (x : Ring) (lost cqTail : Nat) (phase : Bool) (posts firstPostAt : Nat),
    view { x with lost, cqTail, phase, posts, firstPostAt } = view x) :
    view ((s.post c record).ring q) = view ((s.modRing c.ring fun x => { x with unposted := x.unposted - 1 }).ring q) := by
  by_cases hcq : (!(s.ring c.ring).cqEn) = true
  · simp only [State.post, if_pos hcq]
  by_cases hlink : (!s.linkUp) = true
  · simp only [State.post, if_neg hcq, if_pos hlink]
    exact State.ring_modRing_view fun x => h x _ x.cqTail x.phase x.posts x.firstPostAt
  simp only [State.post, if_neg hcq, if_neg hlink]
  rw [apply_ite (fun t => view (State.ring t q)), State.ringInterrupt, State.ring_msix,
    State.ring_modRing_view fun x => h x _ x.cqTail x.phase _ x.firstPostAt, ite_self, State.ring_emit]
  exact State.ring_modRing_view fun x => h x x.lost _ _ _ _

/-- R437: a post leaves every ring as the host set it up, and as its descriptors were fetched. -/
@[simp] theorem State.post_ring_unended : ((s.post c record).ring q).unended = (s.ring q).unended :=
  (State.post_ring_view fun _ _ _ _ _ _ => rfl).trans (State.ring_modRing_view fun _ => rfl)

/-- R437: a post counts a command of its ring as posted. -/
@[simp] theorem State.post_ring_unposted : ((s.post c record).ring c.ring).unposted = (s.ring c.ring).unposted - 1 :=
  (State.post_ring_view (view := Ring.unposted) fun _ _ _ _ _ _ => rfl).trans (by rw [State.ring_modRing])

@[simp] theorem State.conclude_ring_unended : ((s.conclude c record signals).ring q).unended = (s.ring q).unended := by
  rw [State.conclude, State.post_ring_unended]
  split_ifs
  · rw [State.ring_of_rings State.signal_rings]
  · rfl

@[simp] theorem State.conclude_ring_unposted : ((s.conclude c record signals).ring c.ring).unposted = (s.ring c.ring).unposted - 1 := by
  rw [State.conclude, State.post_ring_unposted]
  split_ifs
  · rw [State.ring_of_rings State.signal_rings]
  · rfl

end

/-! ### Where a record goes, R437 -/

section
variable {c : Cmd} {signals : Bool} {record : List Byte}

/-- The record of a local COMPL can be written (R473, R492). -/
def State.takesRecord (s : State) (c : Cmd) : Bool := inMain (localOf c.compl.toNat) 64 && !s.partBad (localOf c.compl.toNat) 64

theorem State.takesRecord_iff : s.takesRecord c = true ↔ inMain (localOf c.compl.toNat) 64 = true ∧ s.partBad (localOf c.compl.toNat) 64 = false := by
  simp [State.takesRecord]

theorem State.takesRecord_eq_false_iff :
    s.takesRecord c = false ↔ inMain (localOf c.compl.toNat) 64 = false ∨ s.partBad (localOf c.compl.toNat) 64 = true := by
  rw [State.takesRecord, Bool.and_eq_false_iff, Bool.not_eq_false']

theorem Cmd.compl_ne_zero (h : c.compl.toNat ≠ 0) : (c.compl != 0) = true := by
  have hne : c.compl ≠ 0 := fun hz => h (by simp [hz])
  simpa using hne

theorem Cmd.compl_eq_zero (h : c.compl.toNat = 0) : c.compl = 0 := BitVec.eq_of_toNat_eq h

/-- Without a COMPL there is no record. -/
theorem State.finish_noCompl (h : c.compl.toNat = 0) : s.finish c record signals = s.conclude c record signals := by
  simp [State.finish, State.remoteCompl, State.writeCompl, Cmd.compl_eq_zero h]

/-- A record of a COMPL on this device is stored there, its line claimed from the host (R432). -/
theorem State.finish_stored (h : c.compl.toNat ≠ 0) (hown : s.ownAddr c.compl.toNat = true) (htakes : s.takesRecord c = true) :
    s.finish c record signals =
      ((s.claim [(localOf c.compl.toNat, 64)]).store (localOf c.compl.toNat) record).conclude c record signals := by
  obtain ⟨hmain, hbad⟩ := State.takesRecord_iff.1 htakes
  simp [State.finish, State.remoteCompl, State.writeCompl, h, hown, hmain, hbad]

/-- A record that would go into no region, or over a part of an uncorrectable line, is not written. -/
theorem State.finish_unwritten (h : c.compl.toNat ≠ 0) (hown : s.ownAddr c.compl.toNat = true) (htakes : s.takesRecord c = false) :
    s.finish c record signals = s.conclude c record signals := by
  have hbad : ¬ (inMain (localOf c.compl.toNat) 64 && !s.partBad (localOf c.compl.toNat) 64) = true := by
    rw [Bool.not_eq_true]; exact htakes
  simp only [State.finish, State.remoteCompl, State.writeCompl, hown, Bool.not_true, Bool.and_false, Bool.false_eq_true, if_false, if_neg h,
    if_true, if_neg hbad]

/-- The STOREs that carry a record to its COMPL on another device, and the end of command that they carry. -/
def State.recordStores (s : State) (c : Cmd) (record : List Byte) : List RemReq :=
  (storeRequests c.compl.toNat record (engCode c.unit) (s.job c.job).jobId c.job).map fun r => { r with endId := s.fab.lastEnding + 1 }

/-- The command whose end waits for the STOREs of its record. -/
def State.endingOf (s : State) (c : Cmd) (record : List Byte) (signals : Bool) : Ending :=
  { id := s.fab.lastEnding + 1, cmd := c, jobId := (s.job c.job).jobId, record, signals }

/-- With a COMPL on another device the STOREs of the record are handed over, and the end of the command waits for theirs. -/
theorem State.finish_remote (h : c.compl.toNat ≠ 0) (hown : s.ownAddr c.compl.toNat = false) : s.finish c record signals =
    State.requests { s with fab := { s.fab with
      endings := s.fab.endings ++ [s.endingOf c record signals], lastEnding := s.fab.lastEnding + 1 } } (s.recordStores c record) := by
  have hremote : s.remoteCompl c = true := by rw [State.remoteCompl, Cmd.compl_ne_zero h, hown]; rfl
  simp [State.finish, State.writeCompl, State.recordStores, State.endingOf, hremote, h, hown]

end

/-! ### The account of a command that ends -/

section
variable {c : Cmd} {status detail sub : Nat} {signals counts : Bool} {record : List Byte}

/-- The state with a command's end accounted for: no longer started, its status in its engine's registers and in its job's account, an
absent engine and an uncorrectable error counted, and its trace entry written. -/
def State.ended (s : State) (c : Cmd) (status detail : Nat) (signals : Bool) (sub : Nat) (counts : Bool) : State :=
  let s0 := if counts && !(c.engine == 1 && c.opcode == 0x02) then s.tallyEcc status else s
  let s1 := ((((s0.dropLive c).settlePreempt c.job).engineEnd c status detail sub).absent c status).trace c status
  if signals then s1.account c status else s1

theorem State.complete_eq_finish : s.complete c status detail signals sub counts =
    (s.ended c status detail signals sub counts).finish c (c.record status detail s.now) signals := rfl

/-- The same for a command that no engine has taken: no engine's registers show it. -/
def State.refused (s : State) (c : Cmd) (status : Nat) (signals : Bool) : State :=
  if signals then ((s.absent c status).trace c status).account c status else (s.absent c status).trace c status

theorem State.completeRefused_eq_finish : s.completeRefused c status detail signals =
    (s.refused c status signals).finish c (c.record status detail s.now) signals := rfl

@[simp] theorem State.tallyEcc_badLines : (s.tallyEcc status).log.badLines = s.log.badLines := by
  unfold State.tallyEcc
  split_ifs <;> rfl

@[simp] theorem State.absent_badLines : (s.absent c status).log.badLines = s.log.badLines := by
  unfold State.absent
  split_ifs <;> rfl

@[simp] theorem State.trace_badLines : (s.trace c status).log.badLines = s.log.badLines := by
  unfold State.trace
  split_ifs <;> rfl

/-- R480: an absent engine is counted, whatever else the end is counted as. -/
theorem State.absent_cntAbsent : (s.absent c status).log.cntAbsent = s.log.cntAbsent + if status = stEngineAbsent then 1 else 0 := by
  unfold State.absent
  split_ifs <;> rfl

@[simp] theorem State.trace_cntAbsent : (s.trace c status).log.cntAbsent = s.log.cntAbsent := by
  unfold State.trace
  split_ifs <;> rfl

@[simp] theorem State.tallyEcc_cntAbsent : (s.tallyEcc status).log.cntAbsent = s.log.cntAbsent := by
  unfold State.tallyEcc
  split_ifs <;> rfl

/-! ### What the account leaves, and what it shows -/

@[simp] theorem State.ended_outsideCommands : (s.ended c status detail signals sub counts).outsideCommands = s.outsideCommands := by
  simp only [State.ended]
  split_ifs <;> simp

@[simp] theorem State.ended_mem : (s.ended c status detail signals sub counts).mem = s.mem := by
  simp only [State.ended]
  split_ifs <;> simp

@[simp] theorem State.ended_fab : (s.ended c status detail signals sub counts).fab = s.fab := by
  simp only [State.ended]
  split_ifs <;> simp

@[simp] theorem State.ended_bld : (s.ended c status detail signals sub counts).bld = s.bld := by
  simp only [State.ended]
  split_ifs <;> simp

@[simp] theorem State.ended_boot : (s.ended c status detail signals sub counts).boot = s.boot := by
  simp only [State.ended]
  split_ifs <;> simp

@[simp] theorem State.ended_rings : (s.ended c status detail signals sub counts).rings = s.rings := by
  simp only [State.ended]
  split_ifs <;> simp

@[simp] theorem State.ended_badLines : (s.ended c status detail signals sub counts).log.badLines = s.log.badLines := by
  simp only [State.ended]
  split_ifs <;> simp

/-- R480: an absent engine is counted. -/
theorem State.ended_cntAbsent : (s.ended c status detail signals sub counts).log.cntAbsent =
    s.log.cntAbsent + if status = stEngineAbsent then 1 else 0 := by
  simp only [State.ended]
  split_ifs <;> simp [State.absent_cntAbsent, *]

theorem State.ended_eng : (s.ended c status detail signals sub counts).eng = (s.engineEnd c status detail sub).eng := by
  simp only [State.ended]
  split_ifs <;> simp [State.engineEnd, State.modEng]

/-- R229: the Strainer counts its commands that end. -/
theorem State.ended_str : (s.ended c status detail signals sub counts).str =
    { s.str with cntCmd := if c.engine = 2 then s.str.cntCmd + 1 else s.str.cntCmd } := by
  simp only [State.ended]
  split_ifs <;> simp [State.engineEnd, State.modEng, *]

theorem State.ended_ownAddr {g : Nat} : (s.ended c status detail signals sub counts).ownAddr g = s.ownAddr g := by
  simp [State.ownAddr, State.devId]

theorem State.ended_takesRecord : (s.ended c status detail signals sub counts).takesRecord c = s.takesRecord c := by
  simp [State.takesRecord, State.partBad]

@[simp] theorem State.refused_outsideCommands : (s.refused c status signals).outsideCommands = s.outsideCommands := by
  unfold State.refused
  split_ifs <;> simp

@[simp] theorem State.refused_mem : (s.refused c status signals).mem = s.mem := by
  unfold State.refused
  split_ifs <;> simp

@[simp] theorem State.refused_eng : (s.refused c status signals).eng = s.eng := by
  unfold State.refused
  split_ifs <;> simp

@[simp] theorem State.refused_str : (s.refused c status signals).str = s.str := by
  unfold State.refused
  split_ifs <;> simp

end

/-! ### A command that ends -/

section
variable {c : Cmd} {status detail sub : Nat} {signals counts : Bool}

@[simp] theorem State.complete_outsideCommands : (s.complete c status detail signals sub counts).outsideCommands = s.outsideCommands := by
  rw [State.complete_eq_finish, State.finish_outsideCommands, State.ended_outsideCommands]

@[simp] theorem State.completeRefused_outsideCommands : (s.completeRefused c status detail signals).outsideCommands = s.outsideCommands := by
  rw [State.completeRefused_eq_finish, State.finish_outsideCommands, State.refused_outsideCommands]

@[simp] theorem State.completeClosed_outsideCommands : (s.completeClosed c).outsideCommands = s.outsideCommands := State.finish_outsideCommands

theorem State.engRegs_of_eng {e : Nat} (h : t.eng = s.eng) : t.engRegs e = s.engRegs e := by rw [State.engRegs, State.engRegs, h]

/-- The registers of engines after the end of a command are those of the account. -/
@[simp] theorem State.complete_eng : (s.complete c status detail signals sub counts).eng = (s.engineEnd c status detail sub).eng := by
  rw [State.complete_eq_finish, State.finish_eng, State.ended_eng]

/-- Table 17-5: LAST_STATUS, and with a failure LAST_FAIL, of the engine whose command ends. -/
theorem State.engineEnd_engRegs : (s.engineEnd c status detail sub).engRegs c.engine =
    if status = 0 then { s.engRegs c.engine with lastStatus := 0 }
    else { s.engRegs c.engine with lastStatus := status, failStatus := status, failOpcode := c.opcode, failJob := c.job
                                   failUnit := sub, failDetail := detail } := State.engRegs_modEng

/-- No other engine's registers change. -/
theorem State.complete_engRegs_ne {e : Nat} (h : e ≠ c.engine) :
    (s.complete c status detail signals sub counts).engRegs e = s.engRegs e := by
  rw [State.engRegs_of_eng State.complete_eng, State.engineEnd, State.engRegs_modEng_ne h]
  rfl

theorem State.complete_engRegs : (s.complete c status detail signals sub counts).engRegs c.engine =
    if status = 0 then { s.engRegs c.engine with lastStatus := 0 }
    else { s.engRegs c.engine with lastStatus := status, failStatus := status, failOpcode := c.opcode, failJob := c.job
                                   failUnit := sub, failDetail := detail } := by
  rw [State.engRegs_of_eng State.complete_eng, State.engineEnd_engRegs]

/-- A command without COMPL writes nothing into memory. -/
theorem State.complete_noCompl_mem (h : c.compl.toNat = 0) : (s.complete c status detail signals sub counts).mem = s.mem := by
  rw [State.complete_eq_finish, State.finish_noCompl h, State.conclude_mem, State.ended_mem]

/-- Memory outside its record is as it was. -/
theorem State.complete_spares {a : Nat} (h : c.spares a) : (s.complete c status detail signals sub counts).mem.byte a = s.mem.byte a := by
  rcases h with hcompl | hout
  · rw [State.complete_noCompl_mem hcompl]
  · exact State.complete_byte hout

theorem State.ended_endingOf {record : List Byte} {sig : Bool} :
    (s.ended c status detail signals sub counts).endingOf c record sig = s.endingOf c record sig := by
  simp [State.endingOf, State.job]

theorem State.ended_recordStores {record : List Byte} :
    (s.ended c status detail signals sub counts).recordStores c record = s.recordStores c record := by
  simp [State.recordStores, State.job]

/-- R437: a record of a COMPL on this device stands at COMPL once the command has ended. -/
theorem State.complete_stored (h : c.compl.toNat ≠ 0) (hown : s.ownAddr c.compl.toNat = true) (htakes : s.takesRecord c = true) :
    (s.complete c status detail signals sub counts).mem = s.mem.write (localOf c.compl.toNat) (c.record status detail s.now) ∧
      (s.complete c status detail signals sub counts).fab = s.fab := by
  rw [State.complete_eq_finish, State.finish_stored h (State.ended_ownAddr.trans hown) (State.ended_takesRecord.trans htakes)]
  exact ⟨by simp [State.store], by simp⟩

theorem State.complete_unwritten (h : c.compl.toNat ≠ 0) (hown : s.ownAddr c.compl.toNat = true) (htakes : s.takesRecord c = false) :
    (s.complete c status detail signals sub counts).mem = s.mem ∧ (s.complete c status detail signals sub counts).fab = s.fab := by
  rw [State.complete_eq_finish, State.finish_unwritten h (State.ended_ownAddr.trans hown) (State.ended_takesRecord.trans htakes)]
  exact ⟨by simp, by simp⟩

theorem State.complete_noCompl_fab (h : c.compl.toNat = 0) : (s.complete c status detail signals sub counts).fab = s.fab := by
  rw [State.complete_eq_finish, State.finish_noCompl h, State.conclude_fab, State.ended_fab]

/-- The counts of the log and of the Strainer after the end of a command without COMPL are those of the account. -/
theorem State.complete_noCompl_counts (h : c.compl.toNat = 0) : (s.complete c status detail signals sub counts).log.cntAbsent =
      s.log.cntAbsent + (if status = stEngineAbsent then 1 else 0) ∧ (s.complete c status detail signals sub counts).str =
      { s.str with cntCmd := if c.engine = 2 then s.str.cntCmd + 1 else s.str.cntCmd } := by
  rw [State.complete_eq_finish, State.finish_noCompl h, State.conclude_log, State.conclude_str]
  exact ⟨State.ended_cntAbsent, State.ended_str⟩

theorem State.requests_toSend_congr {rs : List RemReq} (hfab : t.fab.toSend = s.fab.toSend) (hboot : t.boot = s.boot) :
    (t.requests rs).fab.toSend = (s.requests rs).fab.toSend := by
  simp [State.requests, State.engCycle, hfab, hboot]

/-- R437: with a COMPL on another device nothing is posted yet. -/
theorem State.complete_remote (h : c.compl.toNat ≠ 0) (hown : s.ownAddr c.compl.toNat = false) :
    (s.complete c status detail signals sub counts).mem = s.mem ∧
      (s.complete c status detail signals sub counts).fab.endings =
        s.fab.endings ++ [s.endingOf c (c.record status detail s.now) signals] ∧
      (s.complete c status detail signals sub counts).fab.toSend =
        (s.requests (s.recordStores c (c.record status detail s.now))).fab.toSend ∧
      (s.complete c status detail signals sub counts).rings = s.rings := by
  rw [State.complete_eq_finish, State.finish_remote h (State.ended_ownAddr.trans hown), State.ended_endingOf, State.ended_recordStores]
  refine ⟨by simp, by simp [State.requests], ?_, by simp⟩
  exact State.requests_toSend_congr (by simp) (by simp)

/-- R410: a refused command without COMPL changes no memory and no engine's registers. -/
theorem State.completeRefused_noCompl (h : c.compl.toNat = 0) : (s.completeRefused c status detail signals).mem = s.mem ∧
    (s.completeRefused c status detail signals).eng = s.eng ∧ (s.completeRefused c status detail signals).str = s.str := by
  rw [State.completeRefused_eq_finish, State.finish_noCompl h]
  exact ⟨by simp, by simp, by simp⟩

end

/-! ### The record that has arrived, R437 -/

section
variable {r : RemReq} {e : Ending}

theorem State.streamEnd_frame {status : Nat} : s.streamEnd r status =
    { s with fab := { s.fab with syncWait := (s.streamEnd r status).fab.syncWait, synced := (s.streamEnd r status).fab.synced } } := by
  unfold State.streamEnd
  split_ifs <;> rfl

theorem State.coreRequestEnd_frame {status : Nat} : s.coreRequestEnd r status = { s with cores := (s.coreRequestEnd r status).cores } := by
  unfold State.coreRequestEnd
  split_ifs <;> rfl

/-- R308: what the end of a STORE that succeeds changes ahead of the commands that wait for it. -/
theorem State.endRequest_store {old : BitVec 64} {data : List Byte} (hop : r.op = 2) : ∃ u : State,
    s.endRequest r 0 old data = u.settleEndings ∧ u.rings = s.rings ∧ u.mem = s.mem ∧ u.fab.endings = s.fab.endings ∧
      u.fab.toSend = s.fab.toSend ∧ u.fab.outstanding = s.fab.outstanding.erase r := by
  refine ⟨_, rfl, ?_⟩
  rw [State.coreRequestEnd_frame, State.streamEnd_frame]
  simp [State.remoteFault, hop]

/-- R437: the one command whose record has arrived signals and is posted. -/
theorem State.settleEndings_single (hending : s.fab.endings = [e]) (hdone : ∀ x ∈ s.fab.toSend ++ s.fab.outstanding, x.endId ≠ e.id) :
    s.settleEndings = State.conclude { s with fab := { s.fab with endings := [] } } e.cmd e.record
      (e.signals && (s.job e.cmd.job).jobId == e.jobId) := by
  have hon : (s.fab.toSend ++ s.fab.outstanding).any (fun r => r.endId == e.id) = false := by
    rw [List.any_eq_false]
    intro x hx
    simpa using hdone x hx
  simp only [State.settleEndings, hending, List.filter_cons, hon, List.filter_nil]
  rfl

end

/-! ### The statement -/

/-- R437: a response of a record's last STORE ends the one command that waits for it. -/
theorem memRspReceive_ends {p : InRsp} {ps : List InRsp} {r : RemReq} {e : Ending} (hrsp : s.fab.responses = p :: ps)
    (hfind : (s.fab.outstanding.find? fun r => r.tag == p.tag && decide (p.at' ≤ r.deadline)) = some r) (hstatus : p.status = 0)
    (hop : r.op = 2) (hending : s.fab.endings = [e]) (hdone : ∀ x ∈ s.fab.toSend ++ s.fab.outstanding.erase r, x.endId ≠ e.id) :
    (memRspReceive s).fab.endings = [] ∧ ((memRspReceive s).ring e.cmd.ring).unposted = (s.ring e.cmd.ring).unposted - 1 ∧
      (memRspReceive s).mem = s.mem := by
  obtain ⟨u, hu, hrings, hmem, hendings, hsend, hout⟩ := State.endRequest_store
    (s := { s with fab := { s.fab with responses := ps } }.modPort p.port fun x => x.freeBuffer p.vc) (old := p.old) (data := p.data) hop
  have hrcv : memRspReceive s = u.settleEndings := by
    simp only [memRspReceive, hrsp, hfind, hstatus]
    exact hu
  have hring : u.ring e.cmd.ring = s.ring e.cmd.ring := State.ring_of_rings hrings
  rw [hrcv, State.settleEndings_single (hendings.trans hending) (by rw [hsend, hout]; exact hdone)]
  refine ⟨by simp, ?_, by simpa using hmem⟩
  rw [State.conclude_ring_unposted, ← hring]
  rfl

/-- Settles O54: one clause for each place a record can go, the arrival of one at another device, and the two ends ahead of any engine. -/
theorem commandEnds : Obligations.CommandEnds := by
  unfold Obligations.CommandEnds
  refine ⟨fun s c st d hcompl hown hmain hbad => ?_, fun s c st d hcompl hown hno => ?_, fun s c st d hcompl hown => ?_,
    fun s p ps r e hrsp hfind hstatus hop hending hdone => ?_, fun s c st d hcompl => ?_, fun s c st d signals hcompl => ?_,
    fun s c hcompl => ?_⟩
  · obtain ⟨hmem, hfab⟩ := State.complete_stored (status := st) (detail := d) (sub := 0) (signals := true) (counts := true) hcompl hown
      (State.takesRecord_iff.2 ⟨hmain, hbad⟩)
    refine ⟨_, rfl, fun i hi => ?_, fun a ha => State.complete_spares ha, hfab,
      onlyCommands_of_outsideCommands State.complete_outsideCommands⟩
    have hlen : i < (c.record st d s.now).length := by rwa [Cmd.record_length]
    rw [hmem, Memory.byte_write_inside hlen, List.getD_eq_getElem _ _ hlen]
  · obtain ⟨hmem, hfab⟩ := State.complete_unwritten (status := st) (detail := d) (sub := 0) (signals := true) (counts := true) hcompl hown
      (State.takesRecord_eq_false_iff.2 hno)
    exact ⟨_, rfl, hmem, hfab, onlyCommands_of_outsideCommands State.complete_outsideCommands⟩
  · obtain ⟨hmem, hendings, hsend, hrings⟩ := State.complete_remote (status := st) (detail := d) (sub := 0) (signals := true)
      (counts := true) hcompl hown
    exact ⟨_, rfl, hmem, hendings, hsend, hrings, onlyCommands_of_outsideCommands State.complete_outsideCommands⟩
  · exact ⟨_, rfl, memRspReceive_ends hrsp hfind hstatus hop hending hdone⟩
  · obtain ⟨habsent, hstr⟩ := State.complete_noCompl_counts (s := s) (status := st) (detail := d) (sub := 0) (signals := true)
      (counts := true) hcompl
    refine ⟨_, rfl, State.complete_noCompl_mem hcompl, State.complete_noCompl_fab hcompl, ?_, fun hst => ?_, fun hst => ?_,
      fun e he => State.complete_engRegs_ne he, hstr, onlyCommands_of_outsideCommands State.complete_outsideCommands⟩
    · rw [State.complete_engRegs]
      split_ifs with hst
      · exact hst.symm
      · rfl
    · rw [State.complete_engRegs, if_neg hst]
      exact ⟨rfl, rfl, rfl⟩
    · rw [habsent, if_pos hst]
  · obtain ⟨hmem, heng, hstr⟩ := State.completeRefused_noCompl (s := s) (status := st) (detail := d) (signals := signals) hcompl
    exact ⟨_, rfl, hmem, fun e => State.engRegs_of_eng heng, onlyCommands_of_str State.completeRefused_outsideCommands hstr⟩
  · have hclosed : s.completeClosed c = s.conclude c (c.record stKilled 0 s.now) false := State.finish_noCompl hcompl
    refine ⟨_, rfl, by simp [hclosed], ?_, ?_, onlyCommands_of_str State.completeClosed_outsideCommands (by simp)⟩
    · rw [hclosed, State.conclude, if_neg Bool.false_ne_true, State.post_jobs]
    · rw [hclosed, State.conclude_log]

end Sys2Proof.Machine

/-!
PROOF. The host link (O6): what a link that comes up leaves through the steps of bring-up that it completes, and what the loss of the link
takes away. `State.attachment` is what BOOT_STATE and HOST_LINK say of the link; the steps of bring-up keep it.
-/

namespace Sys2Proof.Machine

variable {s t : State}

/-! ### Hall time leaves bring-up's registers -/

section
variable {n p : Nat}

@[simp] theorem State.setHops_boot : (s.setHops n).boot = s.boot := by
  unfold State.setHops
  dsimp only
  split_ifs <;> rfl

@[simp] theorem State.follow_boot : (s.follow p).boot = s.boot := by
  unfold State.follow
  dsimp only
  split_ifs <;> simp

@[simp] theorem State.takeUpstream_boot : (s.takeUpstream p).boot = s.boot := by
  unfold State.takeUpstream
  dsimp only
  split_ifs <;> simp

@[simp] theorem State.beginAcquire_boot : (s.beginAcquire p).boot = s.boot := by simp [State.beginAcquire]
@[simp] theorem State.startRoot_boot : s.startRoot.boot = s.boot := by simp [State.startRoot]

end

/-! ### Outputs are only added to -/

section
variable {n p v : Nat} {l : List Output}

theorem ite_out_prefix {c : Prop} [Decidable c] (h : l <+: s.out) (h' : l <+: t.out) : l <+: (if c then s else t).out := by
  split_ifs
  · exact h
  · exact h'

theorem State.msix_out_prefix (h : l <+: s.out) : l <+: (s.msix v).out :=
  ite_out_prefix h (ite_out_prefix h (h.trans (List.prefix_append _ _)))

theorem State.htEvent_out_prefix (h : l <+: s.out) : l <+: (s.htEvent n).out := by
  unfold State.htEvent State.deviceEvent
  exact State.msix_out_prefix h

theorem State.setStep_out_prefix (h : l <+: s.out) : l <+: (s.setStep n).out := by
  unfold State.setStep State.deviceEvent
  exact ite_out_prefix h (State.msix_out_prefix h)

theorem State.setHops_out_prefix (h : l <+: s.out) : l <+: (s.setHops n).out := by
  unfold State.setHops
  exact ite_out_prefix h h

theorem State.follow_out_prefix (h : l <+: s.out) : l <+: (s.follow p).out := by
  unfold State.follow
  exact ite_out_prefix (State.htEvent_out_prefix (State.setHops_out_prefix h)) (State.setHops_out_prefix h)

theorem State.takeUpstream_out_prefix (h : l <+: s.out) : l <+: (s.takeUpstream p).out := by
  unfold State.takeUpstream
  exact ite_out_prefix (State.htEvent_out_prefix (State.follow_out_prefix h)) (State.follow_out_prefix h)

theorem State.startRoot_out_prefix (h : l <+: s.out) : l <+: s.startRoot.out := by
  unfold State.startRoot
  exact State.htEvent_out_prefix h

theorem State.beginStep10_out_prefix (h : l <+: s.out) : l <+: s.beginStep10.out := by
  unfold State.beginStep10
  exact State.setStep_out_prefix h

theorem State.beginStep9_out_prefix (h : l <+: s.out) : l <+: s.beginStep9.out := by
  have hnine : l <+: (s.setStep 9).noWait.out := State.setStep_out_prefix h
  unfold State.beginStep9
  refine ite_out_prefix (State.beginStep10_out_prefix (State.startRoot_out_prefix hnine)) ?_
  split
  · exact State.takeUpstream_out_prefix hnine
  · exact hnine

@[simp] theorem State.wait78_out : s.wait78.out = s.out := by
  unfold State.wait78
  split_ifs <;> rfl

end

/-! ### What the steps of bring-up keep of the link -/

/-- What HOST_LINK and BOOT_STATE say of the host link: its rate, width and protocol, whether step 7 is complete, and DEGRADED. -/
def State.attachment (s : State) : Boot :=
  { hostRate := s.boot.hostRate, hostWidth := s.boot.hostWidth, hostCxl := s.boot.hostCxl, step7Done := s.boot.step7Done
    degraded := s.boot.degraded }

theorem State.attachment_of_boot (h : t.boot = s.boot) : t.attachment = s.attachment := by simp [State.attachment, h]

section
variable {n c : Nat}

@[simp] theorem State.setStep_attachment : (s.setStep n).attachment = s.attachment := by simp [State.attachment]
@[simp] theorem State.noWait_attachment : s.noWait.attachment = s.attachment := rfl
@[simp] theorem State.waitFor_attachment : (s.waitFor c).attachment = s.attachment := rfl

@[simp] theorem State.stepEvent_attachment {held : Bool} : (s.stepEvent n held c).attachment = s.attachment := rfl
@[simp] theorem State.startRoot_attachment : s.startRoot.attachment = s.attachment := State.attachment_of_boot State.startRoot_boot
@[simp] theorem State.beginAcquire_attachment : (s.beginAcquire n).attachment = s.attachment :=
  State.attachment_of_boot State.beginAcquire_boot

@[simp] theorem State.beginStep10_attachment : s.beginStep10.attachment = s.attachment := by simp [State.beginStep10]

@[simp] theorem State.beginStep9_attachment : s.beginStep9.attachment = s.attachment := by
  unfold State.beginStep9
  dsimp only
  split_ifs
  · simp
  · split <;> simp

@[simp] theorem State.wait78_attachment : s.wait78.attachment = s.attachment := by
  unfold State.wait78
  split_ifs <;> simp

/-- Step 9, once it has begun, shows as step 9, or as step 10 at a root. -/
theorem State.beginStep9_boot_step : s.beginStep9.boot.step = 9 ∨ s.beginStep9.boot.step = 10 := by
  unfold State.beginStep9
  dsimp only
  split_ifs
  · simp [State.beginStep10]
  · split <;> simp

/-- R64, R65: step 8 as its ports complete it. -/
def State.step8Settled (s : State) : State :=
  if !s.boot.step8Done && s.step8Ready then
    let t := State.stepEvent { s with boot := { s.boot with step8Done := true } } 8 false
    if allPorts.any fun p => s.portSeated p && !s.portUp p then t.degrade 8 else t
  else s

/-- Step 8 follows step 7. -/
def State.step7Settled (s : State) : State := if s.boot.step = 7 && s.boot.step7Done then s.setStep 8 else s

theorem State.advance78_eq (h : s.boot.step = 7 ∨ s.boot.step = 8) : s.advance78 =
    (if s.step8Settled.step7Settled.boot.step = 8 && s.step8Settled.step7Settled.boot.step8Done then
      s.step8Settled.step7Settled.beginStep9 else s.step8Settled.step7Settled.wait78) := by
  have hin : ¬ (s.boot.step != 7 && s.boot.step != 8) = true := by
    rcases h with h | h <;> simp [h]
  rw [State.advance78, if_neg hin]
  rfl

theorem State.advance78_of_outside (h7 : s.boot.step ≠ 7) (h8 : s.boot.step ≠ 8) : s.advance78 = s := by
  simp [State.advance78, h7, h8]

@[simp] theorem State.step7Settled_attachment : s.step7Settled.attachment = s.attachment := by
  unfold State.step7Settled
  split_ifs <;> simp

@[simp] theorem State.step8Settled_boot_step : s.step8Settled.boot.step = s.boot.step := by
  unfold State.step8Settled
  dsimp only
  split_ifs <;> rfl

@[simp] theorem State.step8Settled_out : s.step8Settled.out = s.out := by
  unfold State.step8Settled
  dsimp only
  split_ifs <;> rfl

/-- R65: step 8 completes without a change of the link, but for DEGRADED where a seated port is not up. -/
theorem State.step8Settled_attachment : ∃ d : Bool, s.step8Settled.attachment = { s.attachment with degraded := s.boot.degraded || d } ∧
    ((∀ p ∈ allPorts, s.portSeated p = true → s.portUp p = true) → d = false) := by
  unfold State.step8Settled
  dsimp only
  split_ifs with hready hdown
  · refine ⟨true, by simp [State.degrade, State.attachment], fun hup => ?_⟩
    obtain ⟨p, hp, hseated⟩ := List.any_eq_true.1 hdown
    simp only [Bool.and_eq_true, Bool.not_eq_true'] at hseated
    exact absurd (hup p hp hseated.1) (by simp [hseated.2])
  · exact ⟨false, by simp [State.attachment], fun _ => rfl⟩
  · exact ⟨false, by simp [State.attachment], fun _ => rfl⟩

/-- Steps 7 and 8 complete without a change of the link, but for DEGRADED where a seated port is not up. -/
theorem State.advance78_attachment : ∃ d : Bool, s.advance78.attachment = { s.attachment with degraded := s.boot.degraded || d } ∧
    ((∀ p ∈ allPorts, s.portSeated p = true → s.portUp p = true) → d = false) := by
  by_cases h : s.boot.step = 7 ∨ s.boot.step = 8
  · obtain ⟨d, hd, hup⟩ := s.step8Settled_attachment
    refine ⟨d, ?_, hup⟩
    rw [State.advance78_eq h]
    split_ifs <;> simpa using hd
  · rw [State.advance78_of_outside (fun h7 => h (.inl h7)) (fun h8 => h (.inr h8))]
    exact ⟨false, by simp [State.attachment], fun _ => rfl⟩

theorem State.step7Settled_boot_step (h7 : s.boot.step = 7) (hdone : s.boot.step7Done = true) : s.step7Settled.boot.step = 8 := by
  simp [State.step7Settled, h7, hdone]

/-- R61: a step 7 that is complete is over. -/
theorem State.advance78_boot_step_ne (h7 : s.boot.step = 7) (hdone : s.boot.step7Done = true) : s.advance78.boot.step ≠ 7 := by
  have hdone8 : s.step8Settled.boot.step7Done = true := by
    obtain ⟨d, hd, -⟩ := s.step8Settled_attachment
    exact (congrArg Boot.step7Done hd).trans hdone
  have height := State.step7Settled_boot_step (s.step8Settled_boot_step.trans h7) hdone8
  rw [State.advance78_eq (.inl h7)]
  split_ifs
  · rcases State.beginStep9_boot_step (s := s.step8Settled.step7Settled) with h | h <;> simp [h]
  · simp [height]

theorem State.step7Settled_out_prefix {l : List Output} (h : l <+: s.out) : l <+: s.step7Settled.out := by
  unfold State.step7Settled
  exact ite_out_prefix (State.setStep_out_prefix h) h

theorem State.advance78_out_prefix {l : List Output} (h : l <+: s.out) : l <+: s.advance78.out := by
  by_cases hin : s.boot.step = 7 ∨ s.boot.step = 8
  · have hsettled : l <+: s.step8Settled.step7Settled.out := State.step7Settled_out_prefix (by rwa [State.step8Settled_out])
    rw [State.advance78_eq hin]
    exact ite_out_prefix (State.beginStep9_out_prefix hsettled) (by rwa [State.wait78_out])
  · rwa [State.advance78_of_outside (fun h7 => hin (.inl h7)) (fun h8 => hin (.inr h8))]

end

/-! ### A link that comes up, R61, R426 to R428 -/

section
variable {rate width : Nat} {cxl : Bool}

/-- R426, R427: a rate and width at which a link runs: below 32 GT/s as PCIe, at 32 and 64 GT/s as CXL alone. -/
def legalLink (rate width : Nat) (cxl : Bool) : Bool :=
  (rate = 1 && !cxl || (rate = 2 || rate = 3) && cxl) && [1, 2, 4, 8, 16].contains width

theorem legalLink_cxl (hrate : rate = 2 ∨ rate = 3) (hwidth : width = 1 ∨ width = 2 ∨ width = 4 ∨ width = 8 ∨ width = 16) :
    legalLink rate width true = true := by
  rcases hrate with rfl | rfl <;> simp [legalLink, hwidth]

theorem legalLink_pcie (hwidth : width = 1 ∨ width = 2 ∨ width = 4 ∨ width = 8 ∨ width = 16) : legalLink 1 width false = true := by
  simp [legalLink, hwidth]

/-- The state with a link up: its rate and width, the identity that Function 0 reports, and DEGRADED below 64 GT/s x16. -/
def State.linked (s : State) (rate width : Nat) (cxl : Bool) : State :=
  let t := State.emit { s with boot := { s.boot with hostRate := rate, hostWidth := width, hostCxl := cxl && 8 ≤ width } } (.function0 functionId)
  if rate = 3 && width = 16 then t else t.degrade 7

/-- Step 7 completes. -/
def State.step7Completed (s : State) : State := State.stepEvent { s with boot := { s.boot with step7Done := true } } 7 false

@[simp] theorem State.step7Completed_pwr : s.step7Completed.pwr = s.pwr := rfl
@[simp] theorem State.step7Completed_mem : s.step7Completed.mem = s.mem := rfl
@[simp] theorem State.step7Completed_ports : s.step7Completed.ports = s.ports := rfl
@[simp] theorem State.step7Completed_out : s.step7Completed.out = s.out := rfl
@[simp] theorem State.step7Completed_boot : s.step7Completed.boot = { s.boot with step7Done := true } := rfl

theorem hostLinkUp_of_legal (hlegal : legalLink rate width cxl = true) (hstep : 7 ≤ s.boot.step) (hrate : s.boot.hostRate = 0)
    (hperst : s.pwr.perst = false) : hostLinkUp rate width cxl s =
      if s.boot.step = 7 && !s.boot.step7Done then (s.linked rate width cxl).step7Completed.advance78 else s.linked rate width cxl := by
  have hguard : (legalLink rate width cxl && decide (7 ≤ s.boot.step) && decide (s.boot.hostRate = 0) && !s.pwr.perst) = true := by
    simp [hlegal, hstep, hrate, hperst]
  exact if_pos hguard

theorem hostLinkUp_of_perst (hperst : s.pwr.perst = true) : hostLinkUp rate width cxl s = s := by simp [hostLinkUp, hperst]

theorem State.linked_best : s.linked 3 16 cxl =
    { s with boot := (s.linked 3 16 cxl).boot, out := s.out ++ [.function0 functionId] } := rfl

@[simp] theorem State.linked_boot : (s.linked rate width cxl).boot = { s.boot with
    hostRate := rate, hostWidth := width, hostCxl := cxl && decide (8 ≤ width)
    degraded := s.boot.degraded || !(decide (rate = 3) && decide (width = 16)) } := by
  unfold State.linked
  dsimp only
  split_ifs with hbest <;> simp [hbest, State.degrade]

@[simp] theorem State.linked_mem : (s.linked rate width cxl).mem = s.mem := by
  unfold State.linked
  dsimp only
  split_ifs <;> rfl

@[simp] theorem State.linked_pwr : (s.linked rate width cxl).pwr = s.pwr := by
  unfold State.linked
  dsimp only
  split_ifs <;> rfl

@[simp] theorem State.linked_ports : (s.linked rate width cxl).ports = s.ports := by
  unfold State.linked
  dsimp only
  split_ifs <;> rfl

@[simp] theorem State.linked_out : (s.linked rate width cxl).out = s.out ++ [Output.function0 functionId] := by
  unfold State.linked
  dsimp only
  split_ifs <;> rfl

/-- R61: DEGRADED below 64 GT/s or below x16. -/
theorem degraded_of_below {d : Bool} (hbelow : rate = 2 ∨ width < 16) : (d || !(decide (rate = 3) && decide (width = 16))) = true := by
  rcases hbelow with h | h
  · simp [h]
  · simp [Nat.ne_of_lt h]

theorem State.linkUp_of_rate (hrate : s.boot.hostRate ≠ 0) (hperst : s.pwr.perst = false) : s.linkUp = true := by
  simp [State.linkUp, hrate, hperst]

/-- R61: what a link that comes up in step 7 shows once the steps it completes have begun the next. -/
theorem State.linked_advance78 : ∃ d : Bool,
    (s.linked rate width cxl).step7Completed.advance78.attachment =
      { hostRate := rate, hostWidth := width, hostCxl := cxl && decide (8 ≤ width), step7Done := true
        degraded := s.boot.degraded || !(decide (rate = 3) && decide (width = 16)) || d } ∧
    ((∀ p ∈ allPorts, s.portSeated p = true → s.portUp p = true) → d = false) ∧
    (s.linked rate width cxl).step7Completed.advance78.pwr = s.pwr ∧ (s.linked rate width cxl).step7Completed.advance78.mem = s.mem ∧
    Output.function0 functionId ∈ (s.linked rate width cxl).step7Completed.advance78.out := by
  obtain ⟨d, hd, hup⟩ := (s.linked rate width cxl).step7Completed.advance78_attachment
  refine ⟨d, hd.trans ?_, fun hs => hup ?_, by simp, by simp, ?_⟩
  · simp [State.attachment]
  · simpa [State.portSeated, State.portUp, State.port] using hs
  · refine (State.advance78_out_prefix (l := s.out ++ [.function0 functionId]) ?_).subset (by simp)
    rw [State.step7Completed_out, State.linked_out]

theorem State.attachment_fields {b : Boot} (h : s.attachment = b) : s.boot.hostRate = b.hostRate ∧ s.boot.hostWidth = b.hostWidth ∧
    s.boot.hostCxl = b.hostCxl ∧ s.boot.step7Done = b.step7Done ∧ s.boot.degraded = b.degraded := by
  subst h
  exact ⟨rfl, rfl, rfl, rfl, rfl⟩

/-! ### A link that does not come up, R61 -/

/-- Step 7 waits for a link, with PERST_N released. -/
structure State.AwaitsLink (s : State) : Prop where
  step : s.boot.step = 7
  open7 : s.boot.step7Done = false
  down : s.boot.hostRate = 0
  released : s.pwr.perst = false

theorem hostLinkAttemptTimeout_early (h : s.AwaitsLink) (hearly : s.boot.hostAttempts < 4) : hostLinkAttemptTimeout s =
    { s with boot := { s.boot with hostAttempts := s.boot.hostAttempts + 1, attempt := s.boot.hostAttempts + 2 } } := by
  have hlt : s.boot.hostAttempts + 1 < 5 := by omega
  simp [hostLinkAttemptTimeout, h.step, h.open7, h.down, h.released, hlt]

/-- R61: the fifth attempt without a link completes step 7 degraded. -/
theorem hostLinkAttemptTimeout_fifth (h : s.AwaitsLink) (hfifth : s.boot.hostAttempts = 4) : hostLinkAttemptTimeout s =
    ((State.degrade { s with boot := { s.boot with hostAttempts := 5, step7Done := true } } 7).stepEvent 7 false).advance78 := by
  simp [hostLinkAttemptTimeout, h.step, h.open7, h.down, h.released, hfifth]

end

/-! ### The loss of the link, R31, R439, R441 -/

section
variable {c : Cmd} {q : Nat}

/-- Changes of ring after ring by a function that changes nothing the second time. -/
theorem tget_foldl_tmod {α : Type} [DecidableEq α] {d : α} {f : α → α} (hf : ∀ x, f (f x) = f x) (l : List Nat) (t : Sparse α) (q : Nat) :
    tget d (l.foldl (fun t r => tmod d t r f) t) q = if q ∈ l then f (tget d t q) else tget d t q := by
  induction l generalizing t with
  | nil => simp
  | cons r l ih =>
    rw [List.foldl_cons, ih]
    by_cases hr : q = r
    · subst hr; simp [hf]
    · simp [hr, tget_tmod_ne hr]

/-- R439: a ring that is disabled. -/
def Ring.disabled (x : Ring) : Ring := { x with en := false }

/-- R439, R460: the state with the link gone, before the host commands that run end. -/
def State.unlinked (s : State) : State :=
  { s with
    boot := { s.boot with hostRate := 0, hostWidth := 0, hostCxl := false }
    rings := (List.range 64).foldl (fun t r => tmod {} t r Ring.disabled) s.rings
    host := { s.host with
      hostBias := [], biasLeft := 0, waiting := [], session := 0, sessionKeys := 0, ideKeys := 0, linkStream := false, contained := false } }

theorem State.linkLost_eq : s.linkLost = s.unlinked.endHostCommands := rfl

theorem State.unlinked_frame : s.unlinked =
    { s with boot := s.unlinked.boot, rings := s.unlinked.rings, host := s.unlinked.host } := by simp only [State.unlinked]

theorem State.unlinked_ring (hq : q < 64) : s.unlinked.ring q = (s.ring q).disabled := by
  simp only [State.ring, State.unlinked]
  rw [tget_foldl_tmod (f := Ring.disabled) fun _ => rfl, if_pos (List.mem_range.2 hq)]

/-- Without a host command that runs, none ends. -/
theorem State.endHostCommands_none (h : s.noHostCommand) : s.endHostCommands = s := by
  have hnone : s.live.filter (fun l => l.cmd.engine == 7 && (l.cmd.opcode == 0x08 || l.cmd.opcode == 0x09)) = [] := by
    rw [List.filter_eq_nil_iff]
    intro l hl
    simpa using h l hl
  simp [State.endHostCommands, hnone]

/-- The host command that runs ends with ROUTE_DEAD. -/
theorem State.endHostCommands_single {l : Live} (hlive : s.live = [l]) (hengine : l.cmd.engine = 7)
    (hop : l.cmd.opcode = 8 ∨ l.cmd.opcode = 9) : s.endHostCommands = s.complete l.cmd stRouteDead 0 := by
  simp [State.endHostCommands, hlive, hengine, hop]

@[simp] theorem State.endHostCommands_boot : s.endHostCommands.boot = s.boot := foldl_keeps_view (fun _ _ => State.complete_boot) _ s
@[simp] theorem State.endHostCommands_pwr : s.endHostCommands.pwr = s.pwr := foldl_keeps_view (fun _ _ => State.complete_pwr) _ s
@[simp] theorem State.endHostCommands_host : s.endHostCommands.host = s.host := foldl_keeps_view (fun _ _ => State.complete_host) _ s

/-- The end of a command leaves every ring as the host set it up. -/
theorem State.complete_ring_unended {status detail sub : Nat} {signals counts : Bool} :
    ((s.complete c status detail signals sub counts).ring q).unended = (s.ring q).unended := by
  have hrings : (s.ended c status detail signals sub counts).ring q = s.ring q := State.ring_of_rings State.ended_rings
  rw [State.complete_eq_finish, State.finish]
  split_ifs
  · rw [State.ring_of_rings State.writeCompl_rings, hrings]
  · rw [State.conclude_ring_unended, State.ring_of_rings State.writeCompl_rings, hrings]

@[simp] theorem State.endHostCommands_ring_unended : (s.endHostCommands.ring q).unended = (s.ring q).unended :=
  foldl_keeps_view (view := fun t => (State.ring t q).unended) (fun _ _ => State.complete_ring_unended) _ s

@[simp] theorem State.linkLost_pwr : s.linkLost.pwr = s.pwr := State.endHostCommands_pwr
@[simp] theorem State.linkLost_boot : s.linkLost.boot = { s.boot with hostRate := 0, hostWidth := 0, hostCxl := false } :=
  State.endHostCommands_boot
@[simp] theorem State.linkLost_host : s.linkLost.host = { s.host with
    hostBias := [], biasLeft := 0, waiting := [], session := 0, sessionKeys := 0, ideKeys := 0, linkStream := false, contained := false } :=
  State.endHostCommands_host

/-- R439: every ring is disabled, and stands as it was besides. -/
theorem State.linkLost_ring (hq : q < 64) : (s.linkLost.ring q).unended = (s.ring q).unended.disabled := by
  rw [State.linkLost_eq, State.endHostCommands_ring_unended, State.unlinked_ring hq]
  rfl

/-- R439: what a host that finds the link again reads of a ring. -/
theorem State.linkLost_ring_fields (hq : q < 64) : (s.linkLost.ring q).en = false ∧ (s.linkLost.ring q).head = (s.ring q).head ∧
    (s.linkLost.ring q).base = (s.ring q).base := by
  have h := State.linkLost_ring (s := s) hq
  have hen := congrArg Ring.en h
  have hhead := congrArg Ring.head h
  have hbase := congrArg Ring.base h
  exact ⟨hen, hhead, hbase⟩

theorem State.linkLost_noHostCommand (h : s.noHostCommand) : s.linkLost = s.unlinked := State.endHostCommands_none (s := s.unlinked) h

theorem State.linkUp_eq_false_of_rate (h : s.boot.hostRate = 0) : s.linkUp = false := by simp [State.linkUp, h]

end

/-! ### PERST_N, R31, R63 -/

/-- The state with PERST_N at a level. -/
def State.withPerst (s : State) (b : Bool) : State := { s with pwr := { s.pwr with perst := b } }

theorem State.wait78_frame : s.wait78 = { s with boot := s.wait78.boot } := by
  unfold State.wait78
  split_ifs <;> rfl

/-- R44: the wait is shown by BOOT_STATE alone. -/
theorem State.hostWait_frame : s.hostWait = { s with boot := s.hostWait.boot } := by
  unfold State.hostWait
  split_ifs
  · exact State.wait78_frame
  · rfl

@[simp] theorem State.hostWait_pwr : s.hostWait.pwr = s.pwr := by rw [State.hostWait_frame]
@[simp] theorem State.hostWait_rings : s.hostWait.rings = s.rings := by rw [State.hostWait_frame]
@[simp] theorem State.hostWait_host : s.hostWait.host = s.host := by rw [State.hostWait_frame]

theorem State.hostWait_attachment : s.hostWait.attachment = s.attachment := by
  unfold State.hostWait
  split_ifs <;> simp

theorem perstAssert_of_released (h : s.pwr.perst = false) : perstAssert s = (s.withPerst true).linkLost.hostWait := by
  simp [perstAssert, State.withPerst, h]

theorem perstAssert_of_asserted (h : s.pwr.perst = true) : perstAssert s = s := by simp [perstAssert, h]

theorem perstDeassert_eq : perstDeassert s = (s.withPerst false).hostWait := rfl

theorem State.hostWait_of_outside (h7 : s.boot.step ≠ 7) (h8 : s.boot.step ≠ 8) : s.hostWait = s := by simp [State.hostWait, h7, h8]

theorem State.hostWait_step7 (h7 : s.boot.step = 7) : s.hostWait = s.wait78 := by simp [State.hostWait, h7]

/-- R44, R63: step 7 waits while PERST_N is asserted. -/
theorem State.wait78_perst (h7 : s.boot.step = 7) (hdone : s.boot.step7Done = false) (hperst : s.pwr.perst = true) :
    s.wait78 = s.waitFor 0x11 := by simp [State.wait78, h7, hdone, hperst]

/-- Step 7 does not wait once PERST_N is released and a port is up. -/
theorem State.wait78_released (hperst : s.pwr.perst = false) (hup : allPorts.any s.portUp = true) : s.wait78 = s.noWait := by
  have hsome : allPorts.all (fun p => !s.portUp p) = false := by
    obtain ⟨p, hp, hport⟩ := List.any_eq_true.1 hup
    exact List.all_eq_false.2 ⟨p, hp, by simp [hport]⟩
  simp [State.wait78, hperst, hsome]

/-- R31, R439: what PERST_N's assertion leaves of power, link, rings and host interface. -/
theorem State.perst_lost : (s.withPerst true).linkLost.hostWait.pwr = { s.pwr with perst := true } ∧
    (s.withPerst true).linkLost.hostWait.linkUp = false ∧ (s.withPerst true).linkLost.hostWait.boot.hostRate = 0 ∧
    (∀ q, (s.withPerst true).linkLost.hostWait.ring q = (s.withPerst true).linkLost.ring q) ∧
    (s.withPerst true).linkLost.hostWait.host = { s.host with
      hostBias := [], biasLeft := 0, waiting := [], session := 0, sessionKeys := 0, ideKeys := 0, linkStream := false, contained := false } := by
  refine ⟨by simp [State.withPerst], by simp [State.linkUp, State.withPerst], ?_, fun q => State.ring_of_rings State.hostWait_rings,
    by simp [State.withPerst]⟩
  have hkept := congrArg Boot.hostRate (State.hostWait_attachment (s := (s.withPerst true).linkLost))
  exact hkept.trans (by simp [State.attachment])

/-- With no host command that runs, PERST_N's assertion changes nothing else. -/
theorem State.unlinked_perst_frame : (s.withPerst true).unlinked.hostWait =
    { s with pwr := (s.withPerst true).unlinked.hostWait.pwr, boot := (s.withPerst true).unlinked.hostWait.boot
             rings := (s.withPerst true).unlinked.hostWait.rings, host := (s.withPerst true).unlinked.hostWait.host } := by
  rw [State.hostWait_pwr, State.hostWait_rings, State.hostWait_host]
  exact State.hostWait_frame

/-! ### The statement -/

/-- R439, R441: an IDE integrity failure reported: AER, the RAS capability and the log entry, whose content is free. -/
def State.ideReported (s : State) : State :=
  let f i := (Config.freeWord (s.freeCount + 1) i).toNat
  State.event { s with freeCount := s.freeCount + 1, host := { s.host with aer := true, ras := true } }
    (f 0 % 6) 0x000 (f 1 % 65536) (f 2 % 65536) (f 3)

theorem ideIntegrityFailure_of_up (h : s.linkUp = true) : ideIntegrityFailure s = s.ideReported.linkLost := by
  simp only [ideIntegrityFailure, h, if_true]
  rfl

theorem ideIntegrityFailure_of_down (h : s.linkUp = false) : ideIntegrityFailure s = s := by simp [ideIntegrityFailure, h]

/-- R61: a link that comes up in step 7 and completes it. -/
theorem hostLinkUp_completes {rate width : Nat} {cxl : Bool} (hlegal : legalLink rate width cxl = true) (h : s.AwaitsLink) :
    hostLinkUp rate width cxl s = (s.linked rate width cxl).step7Completed.advance78 := by
  rw [hostLinkUp_of_legal hlegal (Nat.le_of_eq h.step.symm) h.down h.released, if_pos (by simp [h.step, h.open7])]

/-- Settles O6: the link up at step 10, in step 7 and below CXL's rates, its five attempts, PERST_N's edges, and each way to lose it. -/
theorem hostLinkUpAndDown : Obligations.HostLinkUpAndDown := by
  unfold Obligations.HostLinkUpAndDown
  refine ⟨⟨rfl, rfl, rfl, rfl⟩, fun s rate width hstep hrate hperst hlegal hwidth => ?_,
    fun s rate width hstep hdone hrate hperst hlegal hwidth => ?_, fun s width hstep hrate hperst hwidth => ?_,
    fun s rate width hperst => ?_, fun s hstep hdone hrate hperst hearly => ?_, fun s hstep hdone hrate hperst hfifth => ?_,
    fun s hperst => ?_, fun s hperst => ?_, fun s => ?_, fun s hperst hstep hdone => ?_, fun s hrate => ?_, fun s l hrate hlive he hop => ?_,
    fun s hrate => ?_, fun s hup => ?_, fun s hup => ?_⟩
  · refine ⟨s.linked rate width true, congrArg Host.Outcome.next ?_, by simp, by simp, by simp, by simp [hstep], fun hbelow => ?_,
      fun hr hw => ?_⟩
    · rw [hostLinkUp_of_legal (legalLink_cxl hlegal hwidth) (by omega) hrate hperst, if_neg (by simp [hstep])]
    · rw [State.linked_boot]
      exact degraded_of_below hbelow
    · subst hr hw
      exact ⟨by simp, State.linked_best⟩
  · obtain ⟨d, hatt, hd, hpwr, hmem, hout⟩ := State.linked_advance78 (s := s) (rate := rate) (width := width) (cxl := true)
    obtain ⟨hr, hw, hc, hdone', hdeg⟩ := State.attachment_fields hatt
    refine ⟨_, congrArg Host.Outcome.next (hostLinkUp_completes (legalLink_cxl hlegal hwidth) ⟨hstep, hdone, hrate, hperst⟩), hr, hw,
      hc.trans (Bool.true_and _), hdone', State.advance78_boot_step_ne (by simp [hstep]) (by simp), fun hbelow => ?_, fun hbest hwide hup => ?_,
      State.linkUp_of_rate (by simp only [hr]; omega) (by rw [hpwr, hperst]), hout, hmem⟩
    · rw [hdeg]
      simp only [degraded_of_below hbelow, Bool.true_or]
    · rw [hdeg]
      simp [hbest, hwide, hd hup]
  · by_cases hpending : (decide (s.boot.step = 7) && !s.boot.step7Done) = true
    · obtain ⟨d, hatt, -, hpwr, hmem, -⟩ := State.linked_advance78 (s := s) (rate := 1) (width := width) (cxl := false)
      obtain ⟨hr, hw, hc, -, hdeg⟩ := State.attachment_fields hatt
      refine ⟨_, congrArg Host.Outcome.next ((hostLinkUp_of_legal (legalLink_pcie hwidth) hstep hrate hperst).trans (if_pos hpending)),
        hr, hw, hc, hdeg.trans (by simp), State.linkUp_of_rate (by simp [hr]) (by rw [hpwr, hperst]), hmem⟩
    · refine ⟨_, congrArg Host.Outcome.next ((hostLinkUp_of_legal (legalLink_pcie hwidth) hstep hrate hperst).trans (if_neg hpending)),
        by simp, by simp, by simp, by simp, State.linkUp_of_rate (by simp) (by simp [hperst]), by simp⟩
  · exact congrArg Host.Outcome.next (hostLinkUp_of_perst hperst)
  · exact congrArg Host.Outcome.next (hostLinkAttemptTimeout_early ⟨hstep, hdone, hrate, hperst⟩ hearly)
  · obtain ⟨d, hatt, -⟩ := State.advance78_attachment
      (s := (State.degrade { s with boot := { s.boot with hostAttempts := 5, step7Done := true } } 7).stepEvent 7 false)
    obtain ⟨hr, -, -, hdone', hdeg⟩ := State.attachment_fields hatt
    exact ⟨_, congrArg Host.Outcome.next (hostLinkAttemptTimeout_fifth ⟨hstep, hdone, hrate, hperst⟩ hfifth), hdone', hdeg, hr.trans hrate,
      State.advance78_mem⟩
  · obtain ⟨hpwr, hup, hrate, hring, hhost⟩ := State.perst_lost (s := s)
    refine ⟨_, congrArg Host.Outcome.next (perstAssert_of_released hperst), hpwr, hup, hrate, fun r hr => ?_, ?_, ?_, ?_, ?_, fun hno => ?_⟩
    · rw [hring]
      exact State.linkLost_ring_fields (s := s.withPerst true) hr
    iterate 4 rw [hhost]
    rw [State.linkLost_noHostCommand (s := s.withPerst true) hno]
    exact State.unlinked_perst_frame
  · exact congrArg Host.Outcome.next (perstAssert_of_asserted hperst)
  · refine ⟨_, congrArg Host.Outcome.next perstDeassert_eq, by simp [State.withPerst], fun h7 h8 => ?_, fun h7 hdone hup => ?_, ?_⟩
    · rw [State.hostWait_of_outside (s := s.withPerst false) h7 h8]
      rfl
    · rw [State.hostWait_step7 (s := s.withPerst false) h7, State.wait78_released (s := s.withPerst false) rfl hup]
      rfl
    · rw [State.hostWait_frame]
      rfl
  · refine ⟨_, congrArg Host.Outcome.next (perstAssert_of_released hperst), ?_⟩
    have h7 : (s.withPerst true).linkLost.boot.step = 7 := by simpa [State.withPerst] using hstep
    rw [State.hostWait_step7 h7, State.wait78_perst h7 (by simpa [State.withPerst] using hdone) (by simp [State.withPerst])]
    exact ⟨rfl, rfl⟩
  · refine ⟨s.linkLost, congrArg Host.Outcome.next (if_neg hrate), by simp, fun r hr => (State.linkLost_ring_fields hr).1, by simp,
      fun hno => ?_⟩
    rw [State.linkLost_noHostCommand hno]
    exact State.unlinked_frame
  · have hend : s.linkLost = s.unlinked.complete l.cmd stRouteDead 0 := State.endHostCommands_single (s := s.unlinked) hlive he hop
    refine ⟨s.linkLost, congrArg Host.Outcome.next (if_neg hrate), by simp, ?_, fun a ha => ?_⟩
    · rw [hend, ← he, State.complete_engRegs]
      rfl
    · rw [hend, State.complete_spares ha]
      rfl
  · exact congrArg Host.Outcome.next (if_pos hrate)
  · refine ⟨_, congrArg Host.Outcome.next (ideIntegrityFailure_of_up hup), State.linkUp_eq_false_of_rate (by simp), by simp; rfl, by simp; rfl,
      by simp, fun hno => ?_⟩
    rw [State.linkLost_noHostCommand (s := s.ideReported) hno]
    exact ⟨List.length_append, rfl⟩
  · exact congrArg Host.Outcome.next (ideIntegrityFailure_of_down hup)

end Sys2Proof.Machine

/-! PROOF. A write of HT_SEED over the sideband replaces the 64 bits of the register alone: a seed of the model, a natural number, keeps
what it holds above them. -/
namespace Sys2Proof.Machine

/-- Bring-up stands at step 3 and the seed holds 2^64, one more than a 64-bit register can. -/
def wideSeed : State := { pwr := { present := true }, boot := { step := 3 }, ht := { seed := 2 ^ 64 } }

theorem wideSeed_write_zero :
    exec (.i3cRegisterWrite ([0x02, 0, 0x02, 0, 0x18] ++ leBytes 8 0)) wideSeed =
      .next { wideSeed with host := { wideSeed.host with sbWrite := some (wideSeed.engCycle, 0x020018, 0) } } := by
  rfl

/-- Refutes O26: the sideband's write of 0 to HT_SEED leaves the seed 2^64 as it was, where the obligation says it becomes 0. -/
theorem not_sidebandAndJtag : ¬ Obligations.SidebandAndJtag := by
  unfold Obligations.SidebandAndJtag
  rintro ⟨-, -, -, seedWrite, -⟩
  have claimed := (seedWrite wideSeed 0 rfl (by decide)).1
  rw [show ((0 : BitVec 64).toNat) = 0 from rfl, wideSeed_write_zero] at claimed
  have seeds : (2 : Nat) ^ 64 = 0 := congrArg (fun s : State => s.ht.seed) (Host.Outcome.next.inj claimed)
  exact absurd seeds (by decide)

end Sys2Proof.Machine

/-! PROOF. The reset state: every table of it is empty, and memory holds no written byte. -/
namespace Sys2Proof.Machine

/-- Settles O57: each field of the reset state is the default of its type, and a read of an empty table gives its default. -/
theorem resetState : Obligations.ResetState := by
  have everyByteZero : ∀ a, State.reset.mem.byte a = 0 := fun _ => rfl
  have noQueue : State.reset.QueuesOwn := fun _ inQueues => nomatch inQueues
  exact ⟨rfl, rfl, rfl, rfl, fun _ => rfl, rfl, fun _ => rfl, rfl, rfl, rfl, everyByteZero, Memory.empty_wf, noQueue⟩

end Sys2Proof.Machine

/-!
PROOF. A hall tick (O56). Its parts before the counters advance (the swaps that end, the log, the positions of the ports, the host accesses
that wait) leave `State.clockwork` alone, all that the counters of time advance by; with no swap and no host access they leave
`State.outsideLines` alone too, all that a tick of R43 to R90 may not touch.
-/

namespace Sys2Proof.Machine

variable {s t : State}

/-! ### A sparse table under a map -/

/-- A map of the values of a table, which keeps the default, is read after the table. -/
theorem tget_map {α : Type} {d : α} {f : α → α} (h : f d = d) (l : Sparse α) (k : Nat) :
    tget d (l.map fun e => (e.1, f e.2)) k = f (tget d l k) := by
  induction l with
  | nil => exact h.symm
  | cons e l ih =>
    simp only [tget, List.map_cons, tfind] at ih ⊢
    split_ifs
    · rfl
    · exact ih

/-! ### Hall time, bring-up and power across the parts of a tick -/

/-- Hall time without the stamp of a time request that leaves (R77). -/
def HallTime.unstamped (h : HallTime) : HallTime := { h with departedAt := 0 }

/-- What the counters of time advance, and by what. -/
def State.clockwork (s : State) : HallTime × Boot × Power × Sparse Core := (s.ht.unstamped, s.boot, s.pwr, s.cores)

theorem State.boot_of_clockwork (h : t.clockwork = s.clockwork) : t.boot = s.boot := congrArg (fun x => x.2.1) h
theorem State.pwr_of_clockwork (h : t.clockwork = s.clockwork) : t.pwr = s.pwr := congrArg (fun x => x.2.2.1) h
theorem State.cores_of_clockwork (h : t.clockwork = s.clockwork) : t.cores = s.cores := congrArg (fun x => x.2.2.2) h

theorem State.ht_of_clockwork (h : t.clockwork = s.clockwork) : t.ht = { s.ht with departedAt := t.ht.departedAt } :=
  calc t.ht = { t.clockwork.1 with departedAt := t.ht.departedAt } := rfl
    _ = { s.ht with departedAt := t.ht.departedAt } := by rw [h]; rfl

theorem State.clockwork_of_outsideCommands (h : t.outsideCommands = s.outsideCommands) : t.clockwork = s.clockwork :=
  (congrArg State.clockwork h : t.outsideCommands.clockwork = s.outsideCommands.clockwork)

section
variable {c : Cmd} {i p n a status detail sub : Nat} {one : Bool} {f : InfSet → InfSet} {g : Port → Port} {bs : List Byte}

@[simp] theorem State.modSet_clockwork : (s.modSet i f).clockwork = s.clockwork := rfl
@[simp] theorem State.modPort_clockwork : (s.modPort p g).clockwork = s.clockwork := rfl
@[simp] theorem State.emit_clockwork {o : Output} : (s.emit o).clockwork = s.clockwork := rfl
@[simp] theorem State.countUncorr_clockwork : s.countUncorr.clockwork = s.clockwork := rfl
@[simp] theorem State.store_clockwork : (s.store a bs).clockwork = s.clockwork := rfl
@[simp] theorem State.complete_clockwork {x y : Bool} : (s.complete c status detail x sub y).clockwork = s.clockwork :=
  State.clockwork_of_outsideCommands State.complete_outsideCommands

@[simp] theorem State.storeAll_clockwork {ws : List (Nat × List Byte)} : (s.storeAll ws).clockwork = s.clockwork :=
  foldl_keeps_view (view := State.clockwork) (f := fun (t : State) (w : Nat × List Byte) => t.store w.1 w.2) (fun _ _ => rfl) ws s

@[simp] theorem State.cool_clockwork : (s.cool i one).clockwork = s.clockwork := rfl

@[simp] theorem State.swapWords_clockwork {old : Option Bool} {held : Bool} {ver : BitVec 64} :
    (s.swapWords i one old held ver).clockwork = s.clockwork := by
  simp [State.swapWords]

/-- R385: a swap that ends, with or without a READY region. -/
@[simp] theorem State.swapTakeEffect_clockwork {w : SwapRun} : (s.swapTakeEffect i w).clockwork = s.clockwork := by
  unfold State.swapTakeEffect
  dsimp only
  split
  · simp
  · split
    · rw [State.complete_clockwork]
      split_ifs <;> simp
    · simp

@[simp] theorem State.endSwaps_clockwork : s.endSwaps.clockwork = s.clockwork :=
  foldl_keeps_view (view := State.clockwork) (fun _ _ => foldl_keeps_view (fun _ _ => State.swapTakeEffect_clockwork) _ _) _ s

/-- R432, R434: a host access that is served. -/
@[simp] theorem State.hostAccess_clockwork {w : Option (List Byte)} : (s.hostAccess a n w).clockwork = s.clockwork := by
  unfold State.hostAccess
  split <;> split_ifs <;> simp

@[simp] theorem State.hostArrives_clockwork {x : HostAccess} : (s.hostArrives x).clockwork = s.clockwork := by
  unfold State.hostArrives State.serveHost
  split_ifs
  · rfl
  · exact State.hostAccess_clockwork
  · exact State.hostAccess_clockwork
  · rfl

@[simp] theorem State.serveWaiting_clockwork : s.serveWaiting.clockwork = s.clockwork :=
  foldl_keeps_view (view := State.clockwork) (fun _ _ => State.hostArrives_clockwork) _ _

/-! ### The log of a tick -/

/-- R438, R442: alarms raise an interrupt and an In-Band Interrupt each. -/
theorem State.alarmsRaised_outsideHall : (s.alarmsRaised n).outsideHall = s.outsideHall :=
  foldl_keeps_view (view := State.outsideHall) (f := fun t _ => t.deviceEvent.emit (.ibi 5)) (fun _ _ => State.deviceEvent_outsideHall) _ s

theorem State.alarmsRaised_frame : s.alarmsRaised n = { s with irq := (s.alarmsRaised n).irq, out := (s.alarmsRaised n).out } := by
  have hat := State.eq_of_outsideHall (State.alarmsRaised_outsideHall (s := s) (n := n))
  rwa [State.alarmsRaised_ht] at hat

theorem State.onLog_frame {l : TroubleLog → TroubleLog} :
    s.onLog l = { s with log := (s.onLog l).log, irq := (s.onLog l).irq, out := (s.onLog l).out } := by
  have hlog : (s.onLog l).log = l s.log := State.alarmsRaised_log
  rw [hlog]
  exact State.alarmsRaised_frame

/-- R487: the log's part of a tick changes the log and what its alarms raise. -/
theorem State.logTick_frame : s.logTick = { s with log := s.logTick.log, irq := s.logTick.irq, out := s.logTick.out } := by
  unfold State.logTick
  split_ifs
  · rw [State.onLog_frame (s := s.reported), State.reported, State.onLog_frame (s := s)]
  · rfl

@[simp] theorem State.logTick_clockwork : s.logTick.clockwork = s.clockwork := by
  rw [State.logTick_frame]
  rfl

/-! ### The positions of a tick -/

/-- The state but for the log, what it raises, hall time, the ports, the position that passed last, the cores, the repair map and the time
since power. -/
def State.outsideLines (s : State) : State :=
  { s with log := {}, ports := [], ht := {}, irq := {}, out := [], cores := [], fab := { s.fab with lineAt := none }
           boot := { s.boot with repairCopies := [], repairWrites := [], sincePwrOk := 0 } }

/-- A state with what `State.outsideLines` leaves out taken from another. -/
def State.withLines (s t : State) : State :=
  { s with log := t.log, ports := t.ports, ht := t.ht, irq := t.irq, out := t.out, cores := t.cores, fab := { s.fab with lineAt := t.fab.lineAt }
           boot := { s.boot with repairCopies := t.boot.repairCopies, repairWrites := t.boot.repairWrites, sincePwrOk := t.boot.sincePwrOk } }

theorem State.eq_of_outsideLines (h : t.outsideLines = s.outsideLines) : t = s.withLines t :=
  calc t = t.outsideLines.withLines t := rfl
    _ = s.outsideLines.withLines t := by rw [h]

@[simp] theorem State.logTick_outsideLines : s.logTick.outsideLines = s.outsideLines := by
  rw [State.logTick_frame]
  rfl

/-- The parts of the state that the flits of a tick leave alone: `State.clockwork`, and what lies outside the lines. -/
def State.offLine (s : State) : (HallTime × Boot × Power × Sparse Core) × State := (s.clockwork, s.outsideLines)

@[simp] theorem State.modPort_offLine : (s.modPort p g).offLine = s.offLine := rfl
@[simp] theorem State.emit_offLine {o : Output} : (s.emit o).offLine = s.offLine := rfl
@[simp] theorem State.takePosition_offLine {v : Nat} : (s.takePosition p v).offLine = s.offLine := State.modPort_offLine

/-- R77: of hall time, a flit that leaves sets only the stamp of its departure. -/
@[simp] theorem State.departs_offLine {q : Flit} : (s.departs q).offLine = s.offLine := by
  unfold State.departs
  split_ifs <;> rfl

@[simp] theorem State.sendLctl_offLine : (s.sendLctl p).offLine = s.offLine := by simp [State.sendLctl]

@[simp] theorem State.sendOne_offLine : (s.sendOne p i).offLine = s.offLine := by
  unfold State.sendOne
  split
  · rfl
  · dsimp only
    split <;> simp

@[simp] theorem State.sendRetry_offLine : (s.sendRetry p).offLine = s.offLine := by
  unfold State.sendRetry
  split <;> simp

@[simp] theorem State.sendAgain_offLine : (s.sendAgain p).offLine = s.offLine := by
  unfold State.sendAgain
  dsimp only
  split <;> simp

@[simp] theorem State.fillPosition_offLine : (s.fillPosition p).offLine = s.offLine := by
  unfold State.fillPosition
  split_ifs
  · split <;> simp
  · rfl

@[simp] theorem State.positionsPassed_offLine {l : Sparse Port} {d : Option (Bool × Nat)} :
    ({ s with ports := l, fab := { s.fab with lineAt := d } } : State).offLine = s.offLine := rfl

/-- R90, R281: the positions of a tick. -/
@[simp] theorem State.positions_offLine : s.positions.offLine = s.offLine := by
  unfold State.positions
  dsimp only
  split_ifs
  · exact State.positionsPassed_offLine.trans (foldl_keeps_view (view := State.offLine) (fun _ _ => State.fillPosition_offLine) _ s)
  · rfl

@[simp] theorem State.positions_clockwork : s.positions.clockwork = s.clockwork := congrArg Prod.fst State.positions_offLine
@[simp] theorem State.positions_outsideLines : s.positions.outsideLines = s.outsideLines := congrArg Prod.snd State.positions_offLine

end

/-! ### A tick -/

/-- A hall tick before its counters advance. -/
def State.beforeCounts (s : State) : State :=
  let s1 := s.endSwaps.logTick
  if s1.host.waiting.isEmpty then s1.positions else s1.positions.serveWaiting

/-- R43, R51, R72, R129: the counters of time advance, and where the count went on the cores keep what their tick left. -/
def State.advanceCounts (s : State) (now : Nat) : State :=
  { s with
    ht := s.ht.tick s.counting
    cores := if (s.ht.tick s.counting).count = s.ht.count then s.cores else s.cores.map fun e => (e.1, e.2.tick now)
    boot := { s.boot.tick with sincePwrOk := if s.pwr.pwrOk then s.boot.sincePwrOk + 1 else s.boot.sincePwrOk } }

theorem State.tick_eq : s.tick = s.beforeCounts.advanceCounts s.now := by
  unfold State.tick State.beforeCounts
  generalize s.endSwaps.logTick = s1
  dsimp only
  generalize (if s1.host.waiting.isEmpty then s1.positions else s1.positions.serveWaiting) = s2
  rfl

theorem State.beforeCounts_clockwork : s.beforeCounts.clockwork = s.clockwork := by
  unfold State.beforeCounts
  dsimp only
  split_ifs <;> simp

theorem State.beforeCounts_boot : s.beforeCounts.boot = s.boot := State.boot_of_clockwork State.beforeCounts_clockwork
theorem State.beforeCounts_pwr : s.beforeCounts.pwr = s.pwr := State.pwr_of_clockwork State.beforeCounts_clockwork

theorem State.beforeCounts_cores : s.beforeCounts.cores = s.cores := State.cores_of_clockwork State.beforeCounts_clockwork

theorem State.beforeCounts_ht : s.beforeCounts.ht = { s.ht with departedAt := s.beforeCounts.ht.departedAt } :=
  State.ht_of_clockwork State.beforeCounts_clockwork

theorem State.beforeCounts_counting : s.beforeCounts.counting = s.counting := by
  unfold State.counting
  rw [State.beforeCounts_ht]

/-- The stamp of a departure takes no part in how the count advances. -/
theorem HallTime.tick_departed {h : HallTime} {d : Nat} {b : Bool} :
    HallTime.tick { h with departedAt := d } b = { h.tick b with departedAt := d } := by
  unfold HallTime.tick
  dsimp only
  split_ifs <;> rfl

/-- R72, R76, R84: a tick advances hall time as `HallTime.tick` says, and beside it moves only the stamp of a departure. -/
theorem State.tick_ht_eq : s.tick.ht = { s.ht.tick s.counting with departedAt := s.beforeCounts.ht.departedAt } := by
  rw [State.tick_eq, State.advanceCounts, State.beforeCounts_counting]
  dsimp only
  rw [State.beforeCounts_ht, HallTime.tick_departed]

/-- R43, R51: a tick advances bring-up. -/
theorem State.tick_boot_eq : s.tick.boot = { s.boot.tick with
    sincePwrOk := if s.pwr.pwrOk then s.boot.sincePwrOk + 1 else s.boot.sincePwrOk } := by
  rw [State.tick_eq, State.advanceCounts, State.beforeCounts_boot, State.beforeCounts_pwr]

/-- R129: where the count goes on, each core keeps what the tick left. -/
theorem State.tick_cores : s.tick.cores = if (s.ht.tick s.counting).count = s.ht.count then s.cores
    else s.cores.map fun e => (e.1, e.2.tick s.now) := by
  rw [State.tick_eq, State.advanceCounts, State.beforeCounts_counting, State.beforeCounts_cores]
  dsimp only
  rw [State.beforeCounts_ht, HallTime.tick_departed]

/-! ### Hall time in a tick, R72, R76, R84 -/

/-- A device that counts is not in its first acquisition. -/
theorem State.not_firstAcquire_of_counting (h : s.counting = true) : (s.ht.state = .acquiring && s.ht.firstAcquire) = false := by
  unfold State.counting at h
  cases hstate : s.ht.state <;> simp_all

theorem HallTime.tick_running {x : HallTime} (hfirst : (x.state = .acquiring && x.firstAcquire) = false) (hpause : x.pause ≤ 1) :
    x.tick true = { x with count := x.count + 1, pause := 0 } := by
  simp [HallTime.tick, hfirst, hpause]

theorem HallTime.tick_paused {x : HallTime} (hfirst : (x.state = .acquiring && x.firstAcquire) = false) (hpause : 1 < x.pause) :
    x.tick true = { x with pause := x.pause - 1 } := by
  simp [HallTime.tick, hfirst, Nat.not_le.mpr hpause]

theorem HallTime.tick_acquiring {x : HallTime} {b : Bool} (hstate : x.state = .acquiring) (hfirst : x.firstAcquire = true) :
    x.tick b = { x with prov := x.prov + 1 } := by
  simp [HallTime.tick, hstate, hfirst]

theorem HallTime.tick_stopped {x : HallTime} (h : (x.state = .acquiring && x.firstAcquire) = false) : x.tick false = x := by
  simp [HallTime.tick, h]

/-- The count goes on in no tick in which the device does not count, or a pause of two ticks or more runs. -/
theorem State.tick_count_held (h : s.counting = false ∨ 1 < s.ht.pause) : (s.ht.tick s.counting).count = s.ht.count := by
  unfold HallTime.tick
  split_ifs <;> simp_all
  omega

/-! ### The repair map in a tick, R51 -/

theorem Boot.tick_writing {b : Boot} {w : RepairWrite} {r : List RepairWrite} (hwrites : b.repairWrites = w :: r) (hdone : w.doneAt ≤ b.sincePwrOk) :
    b.tick = { b with
      repairCopies := tset [] b.repairCopies w.copy (mapBytes w.seq w.body)
      repairWrites := beginWrite (if w.copy < 2 then { w with copy := w.copy + 1 } :: r else r) b.sincePwrOk } := by
  simp [Boot.tick, hwrites, hdone]

theorem Boot.tick_before {b : Boot} {w : RepairWrite} {r : List RepairWrite} (hwrites : b.repairWrites = w :: r) (hdone : b.sincePwrOk < w.doneAt) :
    b.tick = b := by
  simp [Boot.tick, hwrites, Nat.not_le.mpr hdone]

/-- R51: of bring-up, the writes of the repair map change its copies and what is left to write. -/
theorem Boot.tick_frame {b : Boot} : b.tick = { b with repairCopies := b.tick.repairCopies, repairWrites := b.tick.repairWrites } := by
  unfold Boot.tick
  split
  · split_ifs <;> rfl
  · rfl

theorem State.advanceCounts_outsideLines {n : Nat} : (s.advanceCounts n).outsideLines = s.outsideLines := by
  rw [State.advanceCounts, Boot.tick_frame]
  rfl

/-! ### A tick without swaps and host accesses -/

/-- A fold whose every round leaves the state leaves it. -/
theorem foldl_fixed_of_mem {α : Type} {f : State → α → State} {l : List α} (h : ∀ x ∈ l, f s x = s) : l.foldl f s = s := by
  induction l with
  | nil => rfl
  | cons x l ih =>
    rw [List.foldl_cons, h x List.mem_cons_self]
    exact ih fun y hy => h y (List.mem_cons_of_mem x hy)

theorem State.endSwaps_of_noneDue (h : ∀ i, i < 8 → ∀ w ∈ (s.infSet i).swaps, w.due = false) : s.endSwaps = s := by
  refine foldl_fixed_of_mem fun i hi => ?_
  have hnone : (s.infSet i).swaps.filter (·.due) = [] :=
    List.filter_eq_nil_iff.mpr fun w hw => by simp [h i (List.mem_range.mp hi) w hw]
  rw [hnone, List.foldl_nil]

section
variable (hswaps : ∀ i, i < 8 → ∀ w ∈ (s.infSet i).swaps, w.due = false) (hwaiting : s.host.waiting = [])
include hswaps hwaiting

theorem State.beforeCounts_quiet : s.beforeCounts = s.logTick.positions := by
  have hhost : s.logTick.host = s.host := by rw [State.logTick_frame]
  simp [State.beforeCounts, State.endSwaps_of_noneDue hswaps, hhost, hwaiting]

/-- What a tick without swaps and host accesses leaves as it was. -/
theorem State.tick_outsideLines : s.tick.outsideLines = s.outsideLines := by
  rw [State.tick_eq, State.advanceCounts_outsideLines, State.beforeCounts_quiet hswaps hwaiting, State.positions_outsideLines,
    State.logTick_outsideLines]

end

/-- Settles O56: by the equations of a tick (`State.tick_ht_eq`, `State.tick_boot_eq`, `State.tick_cores`), case by case. -/
theorem tickAdvancesTime : Obligations.TickAdvancesTime := by
  unfold Obligations.TickAdvancesTime
  refine ⟨fun s hcounting hpause => ?_, fun s hcounting hpause => ?_, fun s hstate hfirst => ?_, fun s hstate => ?_, fun s => ?_,
    fun s w r hwrites hdone => ?_, fun s w v r hwrites hdone hlast => ?_, fun s w r hwrites hdone => ?_, fun s hswaps hwaiting => ⟨?_, ?_, ?_⟩⟩
  · rw [State.tick_ht_eq, hcounting, HallTime.tick_running (State.not_firstAcquire_of_counting hcounting) hpause]
    exact ⟨rfl, rfl⟩
  · rw [State.tick_ht_eq, hcounting, HallTime.tick_paused (State.not_firstAcquire_of_counting hcounting) hpause]
    exact ⟨rfl, rfl⟩
  · rw [State.tick_ht_eq, HallTime.tick_acquiring hstate hfirst]
    exact ⟨rfl, rfl⟩
  · have hstopped : s.counting = false := by simp [State.counting, hstate]
    rw [State.tick_ht_eq, hstopped, HallTime.tick_stopped (by simp [hstate])]
  · rw [State.tick_boot_eq]
  · rw [State.tick_boot_eq, Boot.tick_writing hwrites hdone]
    dsimp only
    refine ⟨tget_tset_self, fun k hk => tget_tset_ne hk, fun hmore => ?_, fun hlast hr => ?_⟩
    · simp [beginWrite, hmore]
    · simp [beginWrite, Nat.not_lt.mpr hlast, hr]
  · rw [State.tick_boot_eq, Boot.tick_writing hwrites hdone]
    simp [beginWrite, Nat.not_lt.mpr hlast]
  · rw [State.tick_boot_eq, Boot.tick_before hwrites hdone]
    exact ⟨rfl, hwrites⟩
  · intro hcounting hpause k
    have hcount : ¬ (s.ht.tick s.counting).count = s.ht.count := by
      rw [hcounting, HallTime.tick_running (State.not_firstAcquire_of_counting hcounting) hpause]
      exact Nat.succ_ne_self _
    rw [State.core, State.tick_cores, if_neg hcount]
    exact tget_map (f := (Core.tick · s.now)) rfl s.cores k
  · intro hheld
    rw [State.tick_cores, if_pos (State.tick_count_held hheld)]
  · exact State.eq_of_outsideLines (State.tick_outsideLines hswaps hwaiting)

end Sys2Proof.Machine

/-!
PROOF. DOE and SPDM (O24): the gates that a request passes (the link, the size, the negotiated connection, the identity, the session) as
equations, open and closed; each request row is then its gates and its answer.
-/

namespace Sys2Proof.Machine

variable {s : State} {kind : Nat} {request : List Byte} {body : State → State}

/-! ### The gates of a request -/

theorem State.doe_open (hlink : s.linkUp = true) : s.doe body = body s := if_pos hlink
theorem State.fits_open (hsize : request.length ≤ 65536) : s.fits request body = body s := if_pos hsize
theorem State.fits_closed (hsize : 65536 < request.length) : s.fits request body = s := if_neg (Nat.not_le.mpr hsize)

theorem State.spdm_open (hlink : s.linkUp = true) (halgs : s.host.spdmAlgs = true) : s.spdm kind body = body s :=
  (State.doe_open hlink).trans (if_pos halgs)

theorem State.spdm_closed (hlink : s.linkUp = true) (halgs : s.host.spdmAlgs = false) : s.spdm kind body = s.spdmRefuse kind :=
  (State.doe_open hlink).trans (if_neg (by simp [halgs]))

theorem State.identified_unnegotiated (hlink : s.linkUp = true) (halgs : s.host.spdmAlgs = false) :
    s.identified kind body = s.spdmRefuse kind := State.spdm_closed hlink halgs

theorem State.identified_open (hlink : s.linkUp = true) (halgs : s.host.spdmAlgs = true) (hcert : s.wdn.certBad = false) :
    s.identified kind body = body s :=
  (State.spdm_open hlink halgs).trans (if_neg (by simp [hcert]))

theorem State.identified_certBad (hlink : s.linkUp = true) (halgs : s.host.spdmAlgs = true) (hcert : s.wdn.certBad = true) :
    s.identified kind body = s.spdmRefuse kind :=
  (State.spdm_open hlink halgs).trans (if_pos hcert)

theorem State.inSession_open (hlink : s.linkUp = true) (halgs : s.host.spdmAlgs = true) (hsession : s.host.session = 2) :
    s.inSession kind body = body s :=
  (State.spdm_open hlink halgs).trans (if_pos hsession)

theorem State.inSession_closed (hlink : s.linkUp = true) (halgs : s.host.spdmAlgs = true) (hsession : s.host.session ≠ 2) :
    s.inSession kind body = s.spdmRefuse kind :=
  (State.spdm_open hlink halgs).trans (if_neg hsession)

/-! ### The answers -/

/-- R440: the four protocols, and after each the index of the next. -/
theorem doeProtocols_entry {i : BitVec 8} (hi : i.toNat < 4) :
    doeProtocols.getD i.toNat (0xFFFF, 0) = (if i = 3 then 0x1E98 else 1, if i = 3 then 2 else i.toNat) ∧
      (if i.toNat + 1 < doeProtocols.length then i.toNat + 1 else 0) = if i = 3 then 0 else i.toNat + 1 := by
  have hcases : i = 0 ∨ i = 1 ∨ i = 2 ∨ i = 3 := by bv_omega
  rcases hcases with rfl | rfl | rfl | rfl <;> decide

/-- Table 18-8: the record of one measurement block. -/
theorem State.measurementRecord_singleton (k : Nat) : s.measurementRecord [k] =
    leBytes 1 1 ++ leBytes 3 (s.measurementBlock k).length ++ s.measurementBlock k := by
  simp [State.measurementRecord]

theorem getMeasurements_block {k : Nat} {nonce : List Byte} (hlink : s.linkUp = true) (halgs : s.host.spdmAlgs = true)
    (hcert : s.wdn.certBad = false) (hsize : nonce.length ≤ 65536) (hlow : 1 ≤ k) (hhigh : k ≤ 7) :
    getMeasurements k nonce s = s.signedReply 0x60 (s.measurementRecord [k]) nonce := by
  rw [getMeasurements, State.fits_open hsize, State.identified_open hlink halgs hcert, if_neg (by omega), if_neg (by omega), if_pos hhigh]

theorem getMeasurements_count {nonce : List Byte} (hlink : s.linkUp = true) (halgs : s.host.spdmAlgs = true)
    (hcert : s.wdn.certBad = false) (hsize : nonce.length ≤ 65536) : getMeasurements 0 nonce s = s.signedReply 0x60 [7] nonce := by
  rw [getMeasurements, State.fits_open hsize, State.identified_open hlink halgs hcert, if_pos rfl]

theorem getCertificate_slot0 (hlink : s.linkUp = true) (halgs : s.host.spdmAlgs = true) :
    getCertificate 0 s = s.reply 0x02 s.wdn.chain.flatten [] := (State.spdm_open hlink halgs).trans (if_pos rfl)

theorem getCertificate_noSlot {k : Nat} (hlink : s.linkUp = true) (halgs : s.host.spdmAlgs = true) (hk : k ≠ 0) :
    getCertificate k s = s.spdmRefuse 0x02 := (State.spdm_open hlink halgs).trans (if_neg hk)

theorem getDigests_open (hlink : s.linkUp = true) (halgs : s.host.spdmAlgs = true) : getDigests s = s.reply 0x01 [] [] :=
  State.spdm_open hlink halgs

theorem challenge_open {nonce : List Byte} (hlink : s.linkUp = true) (halgs : s.host.spdmAlgs = true) (hcert : s.wdn.certBad = false)
    (hsize : nonce.length ≤ 65536) : challenge nonce s = s.signedReply 0x03 [] nonce :=
  (State.fits_open hsize).trans (State.identified_open hlink halgs hcert)

/-- An answer of either kind is one output. -/
theorem State.reply_out_length {content : List Byte} : (s.reply kind content request).out.length = s.out.length + 1 :=
  List.length_append
theorem State.spdmRefuse_out_length : (s.spdmRefuse kind).out.length = s.out.length + 1 := List.length_append

theorem getCertificate_out_length {k : Nat} (hlink : s.linkUp = true) (halgs : s.host.spdmAlgs = true) :
    (getCertificate k s).out.length = s.out.length + 1 := by
  by_cases hk : k = 0
  · rw [hk, getCertificate_slot0 hlink halgs, State.reply_out_length]
  · rw [getCertificate_noSlot hlink halgs hk, State.spdmRefuse_out_length]

theorem keyExchange_open (hlink : s.linkUp = true) (halgs : s.host.spdmAlgs = true) (hcert : s.wdn.certBad = false)
    (hsize : request.length ≤ 65536) : keyExchange request s =
      State.reply { s with host := { s.host with session := 1, sessionKeys := s.host.sessionKeys + 1 } } 0x64 [] request :=
  (State.fits_open hsize).trans (State.identified_open hlink halgs hcert)

/-- R460: FINISH establishes the session that a KEY_EXCHANGE began, or ends it. -/
theorem finish_host {verified : Bool} (hlink : s.linkUp = true) (halgs : s.host.spdmAlgs = true) (hsession : s.host.session = 1) :
    (finish verified s).host =
      if verified then { s.host with session := 2 } else { s.host with session := 0, sessionKeys := 0 } := by
  rw [finish, State.spdm_open hlink halgs, if_neg (by simp [hsession])]
  cases verified <;> rfl

theorem heartbeat_open (hlink : s.linkUp = true) (halgs : s.host.spdmAlgs = true) (hsession : s.host.session = 2) :
    heartbeat s = s.reply 0x68 [] [] := State.inSession_open hlink halgs hsession

theorem keyUpdate_open (hlink : s.linkUp = true) (halgs : s.host.spdmAlgs = true) (hsession : s.host.session = 2) : keyUpdate s =
    State.reply { s with host := { s.host with sessionKeys := s.host.sessionKeys + 1 } } 0x69 [] [] :=
  State.inSession_open hlink halgs hsession

theorem endSession_open (hlink : s.linkUp = true) (halgs : s.host.spdmAlgs = true) (hsession : s.host.session = 2) : endSession s =
    State.reply { s with host := { s.host with session := 0, sessionKeys := 0 } } 0x6C [] [] :=
  State.inSession_open hlink halgs hsession

theorem ideKm_program (hlink : s.linkUp = true) (halgs : s.host.spdmAlgs = true) (hsession : s.host.session = 2)
    (hsize : request.length ≤ 65536) : ideKm request true s =
      State.reply { s with host := { s.host with ideKeys := s.host.ideKeys + 1, linkStream := true, contained := s.boot.hostCxl } }
        0x100 [] request :=
  (State.fits_open hsize).trans (State.inSession_open hlink halgs hsession)

/-- Settles O24: each row is an equation of its gates and its answer. -/
theorem spdmSessions : Obligations.SpdmSessions := by
  unfold Obligations.SpdmSessions
  refine ⟨fun s i hlink hi => ?_, fun s => rfl, fun s hlink => ?_, fun s hlink hversion => ?_, fun s hlink hcaps => ?_,
    fun s n hlink halgs hn => ⟨?_, ?_⟩, fun s i n b hlink halgs hcert hb hn => ⟨?_, ?_, ?_⟩,
    fun s k n hlink halgs hcert hn => ?_, fun s k n hlink halgs hcert hn hlow hhigh => ?_, fun s b hlink halgs hcert hb => ?_,
    fun s ok hlink halgs hsession => ?_, fun s b hlink halgs hsession hb => ?_, fun s b p hlink halgs hsession hb => ?_,
    fun s b p k hb => ⟨?_, ?_, ?_, ?_⟩, fun s e hlink => ?_⟩
  · -- DOE_DISCOVERY
    obtain ⟨hentry, hnext⟩ := doeProtocols_entry hi
    refine ⟨_, congrArg Host.Outcome.next (State.doe_open hlink), ?_, rfl⟩
    simp only [hentry, hnext]
    rfl
  · exact ⟨_, congrArg Host.Outcome.next (State.doe_open hlink), rfl, rfl⟩
  · exact ⟨_, congrArg Host.Outcome.next ((State.doe_open hlink).trans (if_pos hversion)), rfl⟩
  · exact ⟨_, congrArg Host.Outcome.next ((State.doe_open hlink).trans (if_pos hcaps)), rfl⟩
  · exact congrArg Host.Outcome.next (State.spdm_closed hlink halgs)
  · exact congrArg Host.Outcome.next ((State.fits_open hn).trans (State.identified_unnegotiated hlink halgs))
  · exact congrArg Host.Outcome.next ((State.fits_open hn).trans (State.identified_certBad hlink halgs hcert))
  · exact congrArg Host.Outcome.next ((State.fits_open hn).trans (State.identified_certBad hlink halgs hcert))
  · exact congrArg Host.Outcome.next ((State.fits_open hb).trans (State.identified_certBad hlink halgs hcert))
  · -- the identity's answers
    refine ⟨_, getCertificate k s, _, _, congrArg Host.Outcome.next (getDigests_open hlink halgs), rfl,
      congrArg Host.Outcome.next (challenge_open hlink halgs hcert hn),
      congrArg Host.Outcome.next (getMeasurements_count hlink halgs hcert hn), rfl, State.reply_out_length,
      getCertificate_out_length hlink halgs, State.reply_out_length, rfl, fun hk => ?_, fun hk => ?_⟩
    · rw [hk, getCertificate_slot0 hlink halgs]
      simp [State.reply, State.emit]
    · rw [getCertificate_noSlot hlink halgs hk]
      rfl
  · refine ⟨_, congrArg Host.Outcome.next (getMeasurements_block hlink halgs hcert hn hlow hhigh), ?_⟩
    rw [State.measurementRecord_singleton]
    rfl
  · exact ⟨_, congrArg Host.Outcome.next (keyExchange_open hlink halgs hcert hb), rfl⟩
  · exact ⟨_, rfl, finish_host hlink halgs hsession⟩
  · exact ⟨_, _, _, _, congrArg Host.Outcome.next (heartbeat_open hlink halgs hsession), rfl,
      congrArg Host.Outcome.next (keyUpdate_open hlink halgs hsession), rfl,
      congrArg Host.Outcome.next (endSession_open hlink halgs hsession), rfl,
      congrArg Host.Outcome.next (ideKm_program hlink halgs hsession hb), rfl⟩
  · exact congrArg Host.Outcome.next ((State.fits_open hb).trans (State.inSession_closed hlink halgs hsession))
  · exact congrArg Host.Outcome.next (State.fits_closed hb)
  · exact congrArg Host.Outcome.next (State.fits_closed hb)
  · exact congrArg Host.Outcome.next (State.fits_closed hb)
  · exact congrArg Host.Outcome.next (State.fits_closed hb)
  · -- CDAT_READ
    exact ⟨_, congrArg Host.Outcome.next (State.doe_open hlink), rfl, rfl⟩

end Sys2Proof.Machine

/-!
PROOF. A port that trains (O8). What follows a training step at the device (a choice of upstream, the end of steps 7 and 8) leaves the ports
and the memory as `State.outsideBringup` says, and only adds outputs; so each statement is that of the one port the step changes.
-/

namespace Sys2Proof.Machine

variable {s t : State}

/-! ### What the device does as a port changes -/

theorem State.eq_of_outsideBringup (h : t.outsideBringup = s.outsideBringup) :
    t = { s with boot := t.boot, ht := t.ht, irq := t.irq, out := t.out, log := t.log } :=
  calc t = { t.outsideBringup with boot := t.boot, ht := t.ht, irq := t.irq, out := t.out, log := t.log } := rfl
    _ = { s.outsideBringup with boot := t.boot, ht := t.ht, irq := t.irq, out := t.out, log := t.log } := by rw [h]

theorem State.port_of_ports (h : t.ports = s.ports) (q : Nat) : t.port q = s.port q := by rw [State.port, State.port, h]

section
variable {p q : Nat} {r : NbrReport} {f : Port → Port} {l : List Output}

@[simp] theorem State.port_advance78 : s.advance78.port q = s.port q := State.port_of_ports State.advance78_ports q

/-- A neighbour's report is noted, before the device acts on it. -/
def State.heard (s : State) (p : Nat) (r : NbrReport) : State :=
  { s with ht := { s.ht.seesGen r.gen with nbr := tset {} s.ht.nbr p r } }

/-- R67, R81, R85, R86: of a neighbour's report a device makes nothing more, a choice of upstream, or, as a root, a relock. -/
theorem State.noteNbr_cases : s.noteNbr p r = s.heard p r ∨ s.noteNbr p r = (s.heard p r).reselect ∨
    s.noteNbr p r = (s.heard p r).beginRelock p := by
  unfold State.noteNbr
  dsimp only [← State.heard.eq_1]
  split
  case h_1 => exact (ite_eq_or_eq ..).elim (.inr ∘ .inr) .inl
  case h_5 => exact (ite_eq_or_eq ..).elim (.inr ∘ .inl) .inl
  case h_6 => exact (ite_eq_or_eq ..).elim (.inr ∘ .inl) .inl
  all_goals exact .inr (.inl rfl)

theorem State.noteNbr_outsideBringup : (s.noteNbr p r).outsideBringup = s.outsideBringup := by
  have hheard : (s.heard p r).outsideBringup = s.outsideBringup := rfl
  rcases s.noteNbr_cases (p := p) (r := r) with h | h | h <;> simp [h, hheard]

theorem State.noteNbr_advance78_outsideBringup : (s.noteNbr p r).advance78.outsideBringup = s.outsideBringup :=
  State.advance78_outsideBringup.trans State.noteNbr_outsideBringup

theorem State.dropUpstream_out_prefix (h : l <+: s.out) : l <+: s.dropUpstream.out := by
  unfold State.dropUpstream
  exact ite_out_prefix (State.htEvent_out_prefix h) h

theorem State.enterHoldover_out_prefix (h : l <+: s.out) : l <+: s.enterHoldover.out :=
  State.dropUpstream_out_prefix (State.htEvent_out_prefix h)

/-- R67: a choice of upstream only adds outputs. -/
theorem State.reselect_out_prefix (h : l <+: s.out) : l <+: s.reselect.out := by
  unfold State.reselect
  split
  case h_1 => exact h
  case h_2 => exact ite_out_prefix (State.takeUpstream_out_prefix h) h
  case h_3 => exact h
  case h_4 => exact State.takeUpstream_out_prefix h
  case h_5 =>
    exact ite_out_prefix (ite_out_prefix (State.dropUpstream_out_prefix h) (State.dropUpstream_out_prefix h))
      (State.dropUpstream_out_prefix (State.htEvent_out_prefix h))
  case h_6 => exact State.takeUpstream_out_prefix h
  case h_7 => exact State.enterHoldover_out_prefix h
  case h_8 => exact State.takeUpstream_out_prefix h
  case h_9 => exact h
  case h_10 => exact State.takeUpstream_out_prefix h
  case h_11 => exact h

theorem State.noteNbr_out_prefix (h : l <+: s.out) : l <+: (s.noteNbr p r).out := by
  rcases s.noteNbr_cases (p := p) (r := r) with hcase | hcase | hcase <;> rw [hcase]
  · exact h
  · exact State.reselect_out_prefix h
  · exact State.takeUpstream_out_prefix h

/-! ### A training step -/

theorem State.trainStep_next {step : Nat} (hstate : (s.port p).state ≤ 2) (hstep : (s.port p).tstep = step) (hseated : s.portSeated p = true) :
    s.trainStep p step f = s.modPort p f := by
  simp [State.trainStep, hstate, hstep, hseated]

/-- R267: the entry of a cable whose memory cannot be read is of power and log. -/
theorem State.memoryUnreadable_frame : s.memoryUnreadable p =
    { s with pwr := (s.memoryUnreadable p).pwr, log := (s.memoryUnreadable p).log } := by
  unfold State.memoryUnreadable
  split_ifs <;> rfl

theorem State.memoryUnreadable_port : (s.memoryUnreadable p).port q = s.port q := by rw [State.memoryUnreadable_frame]; rfl
theorem State.memoryUnreadable_mem : (s.memoryUnreadable p).mem = s.mem := by rw [State.memoryUnreadable_frame]

/-- R267: without delay data the cable part of a port's asymmetry is zero and uncalibrated. -/
theorem State.cablePart_asym_zero : (tget ({} : Asym) (s.cablePart p 0 0).ht.asym p).cable = 0 ∧
    (tget ({} : Asym) (s.cablePart p 0 0).ht.asym p).cal = false := by
  simp [State.cablePart]

/-- R267: a port whose cable memory cannot be read. -/
def Port.unreadable (x : Port) : Port := { x with cls := 1, tstep := 2, evt := x.evt ||| 4, delayOut := 0, delayIn := 0 }

theorem cableMemoryRead_unreadable (hstep : (s.port p).tstep = 1) (hseated : s.portSeated p = true) :
    cableMemoryRead p none s = ((s.modPort p Port.unreadable).memoryUnreadable p).cablePart p 0 0 := by
  simp only [cableMemoryRead, hstep, hseated]
  rfl

theorem linkLayerExchangeDone_eq {id : BitVec 16} {peer a b : Nat} (hstate : (s.port p).state = 1) (hstep : (s.port p).tstep = 4) :
    linkLayerExchangeDone p id peer a b s =
      State.emit { s with
        ports := (s.modPort p fun x => { x with
          state := 2, tstep := 5, peerId := id, peerPort := peer
          fusedDelay := tget 0 s.fuse.txLatency p + tget 0 s.fuse.rxLatency p + a + b }).ports
        ht := { s.ht with asym := tmod {} s.ht.asym p fun x => { x with device := s.devicePart p a b } } } (.train p (s.exchangeMsg p)) := by
  simp only [linkLayerExchangeDone, hstate, hstep]
  rfl

/-! ### A step that fails -/

theorem State.trainFail_port {n : Nat} : ((s.trainFail p n).port p) = { s.port p with state := n, tstep := 0 } := by
  simp [State.trainFail]

theorem State.trainFail_mem {n : Nat} : (s.trainFail p n).mem = s.mem := by simp [State.trainFail]

theorem trainingStepTimeout_fail {b : Bool} (hstate : (s.port p).state = 1) (hstep : (s.port p).tstep = 4) :
    trainingStepTimeout p none b s = s.trainFail p 4 := by
  simp [trainingStepTimeout, hstate, hstep]

theorem trainingStepTimeout_spare {l : Nat} (hstate : (s.port p).state = 1) (hstep : (s.port p).tstep = 3)
    (hspare : tget 0 s.log.laneSpares (p / 3) < 2) : trainingStepTimeout p (some l) true s = s.substituteLane p l := by
  simp [trainingStepTimeout, hstate, hstep, hspare]

theorem State.substituteLane_port {l : Nat} : (s.substituteLane p l).port p = { s.port p with state := 1, tstep := 2 } :=
  State.port_modPort_self

theorem State.substituteLane_spares {l : Nat} :
    tget 0 (s.substituteLane p l).log.laneSpares (p / 3) = tget 0 s.log.laneSpares (p / 3) + 1 :=
  tget_tset_self (t := s.log.laneSpares) (v := tget 0 s.log.laneSpares (p / 3) + 1)

/-! ### Authentication, R270 -/

section
variable {h : Hello} {chainOk refused : Bool}

/-- This end has sent its chain, its key and its signature, with a secret drawn for this training. -/
def State.authSent (s : State) (p : Nat) (h : Hello) : State :=
  State.emit { s with freeCount := s.freeCount + 1 } (.train p (s.authMsg p s.freeCount h))

theorem mutualAuthenticationDone_up (hstate : (s.port p).state = 2) (hstep : (s.port p).tstep = 5) (haccepts : s.acceptsPeer true h.fpr = true) :
    mutualAuthenticationDone p h true false r s = (((s.authSent p h).modPort p fun x =>
      x.up (s.linkKeyBytes p s.freeCount h) (s.lowerEnd p) s.boot.sincePwrOk).noteNbr p r).advance78 := by
  simp only [mutualAuthenticationDone, hstate, hstep, haccepts]
  rfl

/-- This end's refusal and the peer's fail the step alike, but for the refusal that this end sends. -/
theorem mutualAuthenticationDone_fails (hstate : (s.port p).state = 2) (hstep : (s.port p).tstep = 5)
    (hfails : s.acceptsPeer chainOk h.fpr = false ∨ refused = true) :
    ∃ o, mutualAuthenticationDone p h chainOk refused r s = State.authFail { s with freeCount := s.freeCount + 1, out := o } p := by
  cases haccepts : s.acceptsPeer chainOk h.fpr
  · simp only [mutualAuthenticationDone, hstate, hstep, haccepts]
    exact ⟨_, rfl⟩
  · have hrefused : refused = true := hfails.resolve_left (by simp [haccepts])
    simp only [mutualAuthenticationDone, hstate, hstep, haccepts, hrefused]
    exact ⟨_, rfl⟩

theorem State.acceptsPeer_true (hcert : s.wdn.certBad = false) (howner : s.ownerOk h.fpr = true) : s.acceptsPeer true h.fpr = true := by
  simp [State.acceptsPeer, hcert, howner]

theorem State.acceptsPeer_false (hfails : chainOk = false ∨ s.wdn.certBad = true ∨ s.ownerOk h.fpr = false) :
    s.acceptsPeer chainOk h.fpr = false := by
  rcases hfails with hchain | hcert | howner
  · simp [State.acceptsPeer, hchain]
  · simp [State.acceptsPeer, hcert]
  · simp [State.acceptsPeer, howner]

end

/-- R64, R270: a port whose step 5 failed. -/
def Port.unauthenticated (x : Port) : Port := { x with state := 5, tstep := 0, evt := x.evt ||| 2, authFails := x.authFails + 1 }

theorem State.authFail_ports : (s.authFail p).ports = (s.modPort p Port.unauthenticated).ports := by
  unfold State.authFail
  dsimp only
  split_ifs <;> simp <;> rfl

theorem State.authFail_mem : (s.authFail p).mem = s.mem := by
  unfold State.authFail
  dsimp only
  split_ifs <;> simp

/-- Table 10-7: the credits of a port that comes up. -/
theorem Port.up_credit {x : Port} {secret : List Byte} {first : Bool} {now v : Nat} (hv : v < 8) :
    (x.up secret first now).credit v = vcBuffers v := by
  change tget 0 [(0, 16), (2, 64), (3, 64), (4, 64), (5, 64), (6, 32), (7, 8)] v = vcBuffers v
  interval_cases v <;> rfl

/-! ### Retries, R64 -/

theorem State.retrain_due {state step : Nat} {due : Bool} (hstate : (s.port p).state = state) (hseated : s.portSeated p = true)
    (hdue : due = true) : s.retrain p state step due = (s.modPort p fun x => { x with state := 1, tstep := step }).advance78 := by
  simp [State.retrain, hstate, hseated, hdue]

theorem State.retrain_notDue {state step : Nat} {due : Bool} (hdue : due = false) : s.retrain p state step due = s := by
  simp [State.retrain, hdue]

/-- A port that starts again, and what the device does with it. -/
theorem State.retrained (step : Nat) :
    let t := (s.modPort p fun x => { x with state := 1, tstep := step }).advance78
    t.port p = { s.port p with state := 1, tstep := step } ∧ (∀ q, q ≠ p → t.port q = s.port q) ∧
      t = { s with ports := t.ports, boot := t.boot, irq := t.irq, out := t.out, ht := t.ht, log := t.log } := by
  refine ⟨by simp, fun q hq => by rw [State.port_advance78, State.port_modPort_ne hq], ?_⟩
  have hframe := State.eq_of_outsideBringup
    (State.advance78_outsideBringup (s := s.modPort p fun x => { x with state := 1, tstep := step }))
  rw [State.advance78_ports]
  exact hframe

/-! ### Link keys, R272 -/

theorem linkKeyRollover_transmit (hup : s.portUp p = true) (hdue : (s.port p).txKey < (s.port p).txPos / 2 ^ 32) :
    linkKeyRollover p true s = s.modPort p fun x => { x with txKey := x.txKey + 1, txSecret := nextKey x.txSecret (x.txKey + 1) } :=
  if_pos (by simpa [hup] using hdue)

theorem linkKeyRollover_receive (hup : s.portUp p = true) (hdue : (s.port p).rxKey < (s.port p).rxPos / 2 ^ 32) :
    linkKeyRollover p false s = s.modPort p fun x => { x with rxKey := x.rxKey + 1, rxSecret := nextKey x.rxSecret (x.rxKey + 1) } :=
  if_pos (by simpa [hup] using hdue)

theorem linkKeyRollover_notDue (hearly : (s.port p).txPos / 2 ^ 32 ≤ (s.port p).txKey) : linkKeyRollover p true s = s :=
  if_neg (by simpa using fun _ => hearly)

end

/-! ### The statement -/

/-- Settles O8: each row by its equation, the ports and the memory by `State.outsideBringup`. -/
theorem portsTrainAndAuthenticate : Obligations.PortsTrainAndAuthenticate := by
  unfold Obligations.PortsTrainAndAuthenticate
  refine ⟨fun s p hp hstep hseated => ?_, fun s p hp hstate hstep hseated => ?_, fun s p hp hstate hstep hseated => ?_,
    fun s p id peer a b hp hstate hstep => ?_, fun s p f hp hstate hstep => ?_, fun s p l hp hstate hstep hspare => ?_,
    fun s p h r hp hstate hstep hcert howner => ?_, fun s p h chainOk refused r hp hstate hstep hfails => ?_,
    fun s p ms hp hstate hseated hms => ?_, fun s p ms hp hstate hseated hms => ?_, fun s p hp hstate hseated hcls => ?_,
    fun s p hp hcls => ?_, fun s p ms hp hms => ⟨?_, ?_⟩, fun s p hp hup hdue => ?_, fun s p hp hup hdue => ?_, fun s p hp hearly => ?_⟩
  · refine ⟨cableMemoryRead p none s, if_pos hp, ?_⟩
    rw [cableMemoryRead_unreadable hstep hseated]
    obtain ⟨hcable, hcal⟩ := State.cablePart_asym_zero (s := (s.modPort p Port.unreadable).memoryUnreadable p) (p := p)
    have hport : ∀ q, (((s.modPort p Port.unreadable).memoryUnreadable p).cablePart p 0 0).port q = (s.modPort p Port.unreadable).port q :=
      fun q => State.memoryUnreadable_port
    refine ⟨?_, ?_, ?_, hcable, hcal, fun q hq => (hport q).trans (State.port_modPort_ne hq), State.memoryUnreadable_mem⟩
    all_goals
      rw [hport, State.port_modPort_self]
      rfl
  · exact (if_pos hp).trans (congrArg Host.Outcome.next (State.trainStep_next hstate hstep hseated))
  · exact (if_pos hp).trans (congrArg Host.Outcome.next (State.trainStep_next hstate hstep hseated))
  · refine ⟨_, (if_pos hp).trans (congrArg Host.Outcome.next (linkLayerExchangeDone_eq hstate hstep)), ?_, ?_, ?_, ?_, ?_, rfl⟩
    all_goals simp [State.port, State.emit, State.modPort, State.devicePart]
  · exact ⟨_, (if_pos hp).trans (congrArg Host.Outcome.next (trainingStepTimeout_fail hstate hstep)), by rw [State.trainFail_port],
      by rw [State.trainFail_port], State.trainFail_mem⟩
  · exact ⟨_, (if_pos hp).trans (congrArg Host.Outcome.next (trainingStepTimeout_spare hstate hstep hspare)),
      by rw [State.substituteLane_port], by rw [State.substituteLane_port], State.substituteLane_spares, rfl⟩
  · -- the port comes up
    have hout := State.noteNbr_advance78_outsideBringup (p := p) (r := r) (s := (s.authSent p h).modPort p fun x =>
      x.up (s.linkKeyBytes p s.freeCount h) (s.lowerEnd p) s.boot.sincePwrOk)
    have hport := State.port_of_ports (State.ports_of_outsideBringup hout)
    have hself := (hport p).trans State.port_modPort_self
    refine ⟨_, (if_pos hp).trans (congrArg Host.Outcome.next (mutualAuthenticationDone_up hstate hstep (State.acceptsPeer_true hcert howner))),
      by rw [hself]; rfl, by rw [hself]; rfl, by rw [hself]; rfl, by rw [hself]; rfl, by rw [hself]; rfl, ?_, fun v hv => ?_, ?_,
      fun q hq => (hport q).trans (State.port_modPort_ne hq), (State.mem_of_outsideBringup hout).trans rfl⟩
    · rw [hself]
      cases hend : s.lowerEnd p <;> rfl
    · rw [hself]
      exact Port.up_credit hv
    · have hsent : (s.authSent p h).out <+: _ := State.advance78_out_prefix (State.noteNbr_out_prefix (p := p) (r := r)
        (s := (s.authSent p h).modPort p fun x => x.up (s.linkKeyBytes p s.freeCount h) (s.lowerEnd p) s.boot.sincePwrOk) List.prefix_rfl)
      exact hsent.subset (by simp [State.authSent, State.emit])
  · -- the step fails
    have hrefusal : s.acceptsPeer chainOk h.fpr = false ∨ refused = true := by
      rcases hfails with hchain | hrefused | hcert | howner
      · exact .inl (State.acceptsPeer_false (.inl hchain))
      · exact .inr hrefused
      · exact .inl (State.acceptsPeer_false (.inr (.inl hcert)))
      · exact .inl (State.acceptsPeer_false (.inr (.inr howner)))
    obtain ⟨o, heq⟩ := mutualAuthenticationDone_fails (r := r) hstate hstep hrefusal
    have hport := State.port_of_ports (State.authFail_ports (s := { s with freeCount := s.freeCount + 1, out := o }) (p := p))
    have hself := (hport p).trans State.port_modPort_self
    refine ⟨_, (if_pos hp).trans (congrArg Host.Outcome.next heq), by rw [hself]; rfl, by rw [hself]; rfl, by rw [hself]; rfl,
      fun q hq => (hport q).trans (State.port_modPort_ne hq), State.authFail_mem⟩
  · have hrow : (s.port p).state = if (s.port p).state = 6 then 6 else 4 := by
      rcases hstate with h4 | h6
      · simp [h4]
      · simp [h6]
    exact ⟨_, (if_pos hp).trans (congrArg Host.Outcome.next (State.retrain_due hrow hseated (decide_eq_true hms))), State.retrained 1⟩
  · exact ⟨_, (if_pos hp).trans (congrArg Host.Outcome.next (State.retrain_due hstate hseated (decide_eq_true hms))), State.retrained 1⟩
  · have hdue : ((s.port p).cls == 1 || (s.port p).cls == 2) = true := by simpa using hcls
    exact ⟨_, (if_pos hp).trans (congrArg Host.Outcome.next (State.retrain_due hstate hseated hdue)), State.retrained 2⟩
  · exact (if_pos hp).trans (congrArg Host.Outcome.next (State.retrain_notDue (by simp [hcls])))
  · exact (if_pos hp).trans (congrArg Host.Outcome.next (State.retrain_notDue (decide_eq_false (by omega))))
  · exact (if_pos hp).trans (congrArg Host.Outcome.next (State.retrain_notDue (decide_eq_false (by omega))))
  · exact (if_pos hp).trans (congrArg Host.Outcome.next (linkKeyRollover_transmit hup hdue))
  · exact (if_pos hp).trans (congrArg Host.Outcome.next (linkKeyRollover_receive hup hdue))
  · exact (if_pos hp).trans (congrArg Host.Outcome.next (linkKeyRollover_notDue hearly))

end Sys2Proof.Machine

/-! PROOF. A host write of an MSI-X entry in the engine cycle in which a state says that the sideband has written the same offset (R442). -/
namespace Sys2Proof.Machine

/-- The host link is up, and the sideband's last write, in this engine cycle, is of 1 to the address of vector 0: one that the sideband's
list does not have, but that a state can name. -/
def sidebandAtVector : State := { hostLinkUpState with host := { sbWrite := some (0, 0x4040000, 1) } }

theorem sidebandAtVector_write_addr :
    ((registerWrite 1 0x4040000 .whole 0 sidebandAtVector).vector 0).addr = 1 := by
  rfl

/-- Refutes O16: the host writes 0 to the address of vector 0, and the sideband's value of the same engine cycle stands (R442). -/
theorem not_ringsAndDescriptors : ¬ Obligations.RingsAndDescriptors := by
  unfold Obligations.RingsAndDescriptors
  rintro ⟨-, -, -, -, -, -, -, -, writeAddr, -⟩
  obtain ⟨t, hwrite, haddr, -⟩ := writeAddr sidebandAtVector 0 0 (by decide) rfl rfl rfl
  have hstate : registerWrite 1 0x4040000 .whole 0 sidebandAtVector = t := Host.Outcome.next.inj hwrite
  rw [← hstate] at haddr
  have haddrs : (1 : BitVec 64) = 0 := sidebandAtVector_write_addr.symm.trans (congrArg MsixVector.addr haddr)
  exact absurd haddrs (by decide)

end Sys2Proof.Machine

/-!
PROOF. Scheduled flits (O23). A flit that leaves, of a stream or to be forwarded, is `State.sendSched`: what it leaves of its port and of the
rest is said once, and each row is the state it is applied to.
-/

namespace Sys2Proof.Machine

variable {s : State} {p q slot pos i : Nat} {k : KeptFlit} {o : OutStream}

/-! ### A flit that leaves -/

theorem State.takePosition_fwd {v : Nat} : ((s.takePosition p v).port p).fwd = (s.port p).fwd := by
  rw [State.takePosition, State.port_modPort_self]
  unfold Port.atSlot
  split_ifs <;> rfl

theorem State.takePosition_cntTx {v : Nat} : ((s.takePosition p v).port p).cntTx = (s.port p).cntTx := by
  rw [State.takePosition, State.port_modPort_self]
  unfold Port.atSlot
  split_ifs <;> rfl

/-- R90, R284: the port keeps the flit for retry, with its tick, and counts it. -/
def Port.sendsSched (x : Port) (k : KeptFlit) (now : Nat) : Port := { x.keep k now with cntTx := x.cntTx + 1 }

theorem Port.sendsSched_kept {x : Port} {now : Nat} : (x.sendsSched k now).kept.getLast? = some { k with at' := now } :=
  List.getLast?_concat

theorem Port.sendsSched_fwd {x : Port} {now : Nat} : (x.sendsSched k now).fwd = x.fwd := rfl
theorem Port.sendsSched_cntTx {x : Port} {now : Nat} : (x.sendsSched k now).cntTx = x.cntTx + 1 := rfl

/-- A flit that leaves takes its position, is counted and is put out; nothing else changes. -/
theorem State.sendSched_eq : s.sendSched p k = { s with
    spt := { s.spt with cntFlits := s.spt.cntFlits + 1 }
    ports := ((s.takePosition p 1).modPort p fun x => x.sendsSched k s.now).ports
    out := s.out ++ [s.flitOut p k.flit] } := by
  unfold State.sendSched State.emit State.modPort State.takePosition Port.sendsSched
  rfl

theorem State.sendSched_frame : s.sendSched p k = { s with
    spt := { s.spt with cntFlits := s.spt.cntFlits + 1 }, ports := (s.sendSched p k).ports, out := (s.sendSched p k).out } := by
  rw [State.sendSched_eq]

theorem State.sendSched_ports : (s.sendSched p k).ports = ((s.takePosition p 1).modPort p fun x => x.sendsSched k s.now).ports := by
  rw [State.sendSched_eq]

theorem State.port_sendSched_self : (s.sendSched p k).port p = ((s.takePosition p 1).port p).sendsSched k s.now :=
  (State.port_of_ports State.sendSched_ports p).trans State.port_modPort_self

theorem State.port_sendSched_ne (h : q ≠ p) : (s.sendSched p k).port q = s.port q :=
  (State.port_of_ports State.sendSched_ports q).trans ((State.port_modPort_ne h).trans (State.port_modPort_ne h))

theorem State.sendSched_kept : ((s.sendSched p k).port p).kept.getLast? = some { k with at' := s.now } := by
  rw [State.port_sendSched_self, Port.sendsSched_kept]

theorem State.sendSched_fwd : ((s.sendSched p k).port p).fwd = (s.port p).fwd := by
  rw [State.port_sendSched_self, Port.sendsSched_fwd, State.takePosition_fwd]

theorem State.sendSched_cntTx : ((s.sendSched p k).port p).cntTx = (s.port p).cntTx + 1 := by
  rw [State.port_sendSched_self, Port.sendsSched_cntTx, State.takePosition_cntTx]

/-- What a port has to forward is no part of how it seals a flit, or of its lanes. -/
theorem State.flitOut_modPort_fwd {g : Port → List KeptFlit} {f : Flit} :
    (s.modPort p fun x => { x with fwd := g x }).flitOut p f = s.flitOut p f := by
  simp only [State.flitOut, State.port_modPort_self, Port.sealed, Port.seal]
  rfl

/-- Nor are the streams of the device. -/
theorem State.flitOut_mk_spt {x : Spout} {f : Flit} : ({ s with spt := x } : State).flitOut p f = s.flitOut p f := by
  simp only [State.flitOut, State.port, State.laneMap, State.hopTable]

/-! ### A stream's flit, R244 -/

/-- R248: the next flit of a stream, over VC1 with hop 1. -/
def State.nextFlit (s : State) (o : OutStream) : Flit :=
  { vc := 1, epoch := s.bld.epoch, hop := 1, route := o.route, src := s.fab.fabId, dst := o.dst, typ := 0x08, payload := s.nextPayload o }

section
variable (hnow : s.now = positionTick slot pos) (hcounting : s.counting = true) (hfree : s.positionFree p = true)
  (hstream : s.streamAt p slot pos = some i) (ho : s.spt.outs[i]? = some o)
include hnow hcounting hfree hstream ho

/-- A flit that is not the last of its stream, in its position, with its port up. -/
theorem schedFlitSend_sends (hlane : s.laneUp o.lane = true) (hsched : s.schedOk = true) (happlied : s.neighbourOnly = false)
    (hmore : o.next + 1 < o.flits.length) (hgood : (o.source.any fun r => s.hasBad r.1 r.2) = false) :
    schedFlitSend p slot pos s =
      State.sendSched { s with spt := { s.spt with outs := s.spt.outs.set i { o with next := o.next + 1 } } } p
        { slot, pos, flit := s.nextFlit o } := by
  have hnotLast : o.next + 1 ≠ o.flits.length := hmore.ne
  simp [schedFlitSend, State.streamNext, State.nextFlit, hnow, hcounting, hfree, hstream, ho, hgood, hlane, hsched, happlied, hnotLast]

/-- R263: a stream whose first-hop port is down at its start is dropped, and its exchange is marked. -/
theorem schedFlitSend_routeDead (hlane : s.laneUp o.lane = false) (hstart : o.next = 0) :
    schedFlitSend p slot pos s = State.streamDead { s with spt := { s.spt with outs := s.spt.outs.eraseIdx i } } o := by
  have hsource : o.source = none := if_pos hstart
  simp [schedFlitSend, State.streamNext, hnow, hcounting, hfree, hstream, ho, hsource, hlane, hstart]

end

/-- R88: in another tick than its position's no flit leaves. -/
theorem schedFlitSend_elsewhere (hnow : s.now ≠ positionTick slot pos) : schedFlitSend p slot pos s = s := by
  simp [schedFlitSend, hnow]

/-- R263: the exchange of a Spout stream that cannot start. -/
theorem State.streamDead_spout (hengine : o.engine = 3) (hstatus : (s.spCtx o.ctx).status = 0) :
    (s.streamDead o).spCtx o.ctx = { s.spCtx o.ctx with status := 0x33, detail := o.lane } := by
  rw [State.streamDead, if_pos hengine]
  exact tget_tmod_self.trans (if_pos hstatus)

theorem State.streamDead_spout_frame (hengine : o.engine = 3) :
    s.streamDead o = { s with spt := { s.spt with ctx := (s.streamDead o).spt.ctx } } := by
  rw [State.streamDead, if_pos hengine]

/-! ### A flit to forward, R245 -/

theorem schedFlitForward_sends (hnow : s.now = positionTick slot pos) (hopen : s.positionOpen p = true) (hsched : s.schedOk = true)
    (happlied : s.neighbourOnly = false) (hk : (s.port p).fwd.find? (fun k => k.slot == slot && k.pos == pos) = some k) :
    schedFlitForward p slot pos s = (s.modPort p fun x => { x with fwd := x.fwd.erase k }).sendSched p k := by
  simp only [schedFlitForward, hnow, hopen, hsched, happlied, hk]
  rfl

theorem schedFlitForward_elsewhere (hnow : s.now ≠ positionTick slot pos) : schedFlitForward p slot pos s = s := by
  simp [schedFlitForward, hnow]

/-! ### The statement -/

/-- Settles O23: what leaves is `State.sendSched` of the stream, or of the port, that gives it up. -/
theorem scheduledFlits : Obligations.ScheduledFlits := by
  unfold Obligations.ScheduledFlits
  refine ⟨fun s p slot pos i o hp hnow hcounting hstream ho hlane hsched happlied hfree _ hmore hgood => ?_,
    fun s p slot pos hp hnow => ⟨?_, ?_⟩, fun s p slot pos k hp hnow hopen hsched happlied hk => ?_,
    fun s p slot pos i o hp hnow hcounting hstream ho hlane hstart hengine hfree hstatus => ?_⟩
  · refine ⟨_, (if_pos hp).trans (congrArg Host.Outcome.next
        (schedFlitSend_sends hnow hcounting hfree hstream ho hlane hsched happlied hmore hgood)),
      by rw [State.sendSched_eq], ?_, State.sendSched_kept, by rw [State.sendSched_eq], State.sendSched_cntTx,
      fun _ => State.port_sendSched_ne, State.sendSched_frame⟩
    simp only [State.sendSched_eq, State.flitOut_mk_spt, State.nextFlit]
  · exact (if_pos hp).trans (congrArg Host.Outcome.next (schedFlitSend_elsewhere hnow))
  · exact (if_pos hp).trans (congrArg Host.Outcome.next (schedFlitForward_elsewhere hnow))
  · refine ⟨_, (if_pos hp).trans (congrArg Host.Outcome.next (schedFlitForward_sends hnow hopen hsched happlied hk)),
      by rw [State.sendSched_fwd, State.port_modPort_self], State.sendSched_kept, ?_,
      fun _ hq => (State.port_sendSched_ne hq).trans (State.port_modPort_ne hq), State.sendSched_frame⟩
    simp only [State.sendSched_eq, State.flitOut_modPort_fwd]
    rfl
  · have hctx := State.streamDead_spout (s := { s with spt := { s.spt with outs := s.spt.outs.eraseIdx i } }) hengine hstatus
    refine ⟨_, (if_pos hp).trans (congrArg Host.Outcome.next (schedFlitSend_routeDead hnow hcounting hfree hstream ho hlane hstart)),
      ?_, by rw [hctx], by rw [hctx], ?_, ?_⟩
    all_goals rw [State.streamDead_spout_frame hengine]

end Sys2Proof.Machine

/-!
PROOF. A time request of a neighbour (O10). A device that waits in step 9 without hall time begins to acquire as the first neighbour that offers
it speaks, and its count is then zero (R72, R76), whatever a state names as the count before.
-/

namespace Sys2Proof.Machine

variable {s : State} {p : Nat} {r : NbrReport}

/-! ### The count as an upstream is taken -/

theorem State.setHops_count {h : Nat} : (s.setHops h).ht.count = s.ht.count := by
  simp only [State.setHops]
  split_ifs <;> simp

theorem State.htEvent_count {b : Nat} : (s.htEvent b).ht.count = s.ht.count := by simp [State.htEvent]

theorem State.follow_count : (s.follow p).ht.count = s.ht.count := by
  simp only [State.follow]
  split_ifs <;> simp [State.htEvent_count, State.setHops_count]

theorem State.takeUpstream_count : (s.takeUpstream p).ht.count = s.ht.count := by
  simp only [State.takeUpstream]
  split_ifs <;> simp [State.htEvent_count, State.follow_count]

/-- R72, R76: a device that begins to acquire has a count of zero. -/
theorem State.beginAcquire_count : (s.beginAcquire p).ht.count = 0 := State.takeUpstream_count

/-! ### An upstream to choose, R67 -/

/-- A fold whose rounds all give a value gives one over a list that is not empty. -/
theorem isSome_foldl {α : Type} {f : Option α → α → Option α} (hf : ∀ b x, (f b x).isSome) {l : List α} (hl : l ≠ []) {b : Option α} :
    (l.foldl f b).isSome := by
  induction l using List.reverseRecOn with
  | nil => exact absurd rfl hl
  | append_singleton l x _ => rw [List.foldl_append]; exact hf _ x

/-- R67: where a neighbour offers hall time there is an upstream to choose. -/
theorem State.chooseUpstream_isSome (hp : p < 12) (hoffers : s.offers p = true) : s.chooseUpstream.isSome := by
  refine isSome_foldl (fun b x => ?_) (List.ne_nil_of_mem (List.mem_filter.2 ⟨List.mem_range.2 hp, hoffers⟩))
  cases b with
  | none => rfl
  | some q => dsimp only; split_ifs <;> rfl

/-! ### The first neighbour that offers hall time, R67, R76 -/

theorem State.noteNbr_invalid (hinvalid : s.ht.state = .invalid) : s.noteNbr p r = (s.heard p r).reselect := by
  simp only [State.noteNbr, hinvalid]
  rfl

theorem State.reselect_invalid_count (hinvalid : s.ht.state = .invalid) (hstep : s.boot.step = 9) (hsome : s.chooseUpstream.isSome) :
    s.reselect.ht.count = 0 := by
  obtain ⟨q, hq⟩ := Option.isSome_iff_exists.1 hsome
  simp only [State.reselect, hinvalid, hq, hstep]
  exact State.beginAcquire_count

theorem State.heard_offers (hup : s.portUp p = true) (hlocked : r.state = 2) : (s.heard p r).offers p = true := by
  have hport : (s.heard p r).portUp p = true := hup
  have hnbr : (s.heard p r).nbr p = r := tget_tset_self
  simp [State.offers, hport, hnbr, hlocked]

/-- A locked neighbour's report starts the acquisition of a device that waits in step 9. -/
theorem State.noteNbr_invalid_count (hp : p < 12) (hup : s.portUp p = true) (hinvalid : s.ht.state = .invalid) (hstep : s.boot.step = 9)
    (hlocked : r.state = 2) : (s.noteNbr p r).ht.count = 0 := by
  have hstate : (s.heard p r).ht.state = .invalid := by
    rw [State.heard, HallTime.seesGen]
    split_ifs <;> exact hinvalid
  rw [State.noteNbr_invalid hinvalid]
  exact State.reselect_invalid_count hstate hstep (State.chooseUpstream_isSome hp (State.heard_offers hup hlocked))

theorem State.portUp_queueFlit {q : QFlit} : (s.queueFlit p q).portUp p = s.portUp p := by
  rw [State.portUp, State.queueFlit, State.port_modPort_self]
  rfl

theorem timeExchangeRequestReceive_invalid_count {t2 t3 : Nat} (hp : p < 12) (hup : s.portUp p = true) (hinvalid : s.ht.state = .invalid)
    (hstep : s.boot.step = 9) (hlocked : r.state = 2) : (timeExchangeRequestReceive p t2 t3 r s).ht.count = 0 := by
  rw [timeExchangeRequestReceive, if_pos hup]
  exact State.noteNbr_invalid_count hp (State.portUp_queueFlit.trans hup) hinvalid hstep hlocked

/-! ### The statement -/

/-- A device in step 9 without hall time, port 0 up, whose state names a count of 1. An invalid device's count is zero by R72, but the statement
is of every state. -/
def invalidCounted : State := { boot := { step := 9 }, ht := { count := 1 }, ports := [(0, { state := 3 })] }

/-- Refutes O10: in `invalidCounted` the request of a locked neighbour on port 0 sets the count to zero, where the clause of requests says that
it stays. -/
theorem not_timeExchangeAndSuccession : ¬ Obligations.TimeExchangeAndSuccession := by
  unfold Obligations.TimeExchangeAndSuccession
  rintro ⟨-, -, request, -⟩
  obtain ⟨t, hreceive, -, -, -, hcount, -⟩ := request invalidCounted 0 0 0 { state := 2 } (by decide) rfl
  have hstate : timeExchangeRequestReceive 0 0 0 { state := 2 } invalidCounted = t := Host.Outcome.next.inj hreceive
  have hzero : t.ht.count = 0 := by
    rw [← hstate, timeExchangeRequestReceive_invalid_count (by decide) rfl rfl rfl rfl]
  exact absurd (hzero.symm.trans hcount) (by decide)

end Sys2Proof.Machine

/-!
PROOF. A write of a hall timer's CMP (O11). CMP is kept as a natural number, and a write of the register replaces its 64 bits alone. SWAP arms
its timer with T rounded up to a frame (R385): for a T in the last frame of the 64-bit count that is beyond 64 bits, and what lies beyond them
stays as the timer's owner writes CMP.
-/

namespace Sys2Proof.Machine

variable {s : State}

/-- Table 0-6: a write leaves the bits that its access, or the register's fields, do not reach. -/
theorem testBit_mergeWrite_unreached {h : Half} {fields old new i : Nat} (hi : (Half.mask h &&& fields).testBit i = false)
    (hnew : new.testBit i = false) : (mergeWrite h fields old new).testBit i = old.testBit i := by
  simp only [mergeWrite, Nat.testBit_or, Nat.testBit_xor, Nat.testBit_and _ (Half.mask h &&& fields), hi, hnew]
  simp

theorem State.timer_modTimer {n : Nat} {f : HtTimer → HtTimer} : (s.modTimer n f).timer n = f (s.timer n) := tget_tmod_self

/-- R92: the owner's write of CMP. -/
theorem htTmrCmpWrite_timer {r n : Nat} {h : Half} {v : BitVec 64} (howns : s.ownsTimer r n = true) :
    (htTmrCmpWrite r n h v s).timer n =
      { s.timer n with cmp := mergeWrite h (2 ^ 64 - 1) (s.timer n).cmp v.toNat, lateAt := s.now + 1 } := by
  rw [htTmrCmpWrite, if_pos howns, State.timer_modTimer]

/-- Bit 64 of CMP outlasts the owner's write of the whole register. -/
theorem htTmrCmpWrite_whole_bit64 {r n : Nat} {v : BitVec 64} (howns : s.ownsTimer r n = true) :
    ((htTmrCmpWrite r n .whole v s).timer n).cmp.testBit 64 = (s.timer n).cmp.testBit 64 := by
  rw [htTmrCmpWrite_timer howns]
  exact testBit_mergeWrite_unreached (by decide) (Nat.testBit_lt_two_pow v.isLt)

/-- Timer 0 as a SWAP for the last tick of the 64-bit count leaves it: the Infuser's, armed, its CMP at the next frame boundary. -/
def swapArmed : State :=
  { ht := { timers := [(0, { owner := 0x003, arm := true, cmp := ({} : State).swapAt (2 ^ 64 - 1) })] } }

theorem swapArmed_cmp_bit64 : (swapArmed.timer 0).cmp.testBit 64 = true := by
  decide

/-- Refutes O11: the Infuser writes 0 to the CMP of its timer in `swapArmed`, and bit 64 of CMP stays. -/
theorem not_refreshAndTimers : ¬ Obligations.RefreshAndTimers := by
  unfold Obligations.RefreshAndTimers
  rintro ⟨-, -, -, -, -, -, -, -, -, -, cmpWrite, -⟩
  obtain ⟨t, hwrite, htimer, -⟩ := cmpWrite swapArmed 0x003 0 0 (by decide) (by decide) rfl
  have hstate : htTmrCmpWrite 0x003 0 .whole 0 swapArmed = t := Host.Outcome.next.inj hwrite
  have hkept : (t.timer 0).cmp.testBit 64 = true := by
    rw [← hstate, htTmrCmpWrite_whole_bit64 rfl, swapArmed_cmp_bit64]
  have hwritten : (t.timer 0).cmp.testBit 64 = false := by
    rw [htimer]
    rfl
  exact absurd (hkept.symm.trans hwritten) (by decide)

end Sys2Proof.Machine

/-!
PROOF. A write of an ST field (O12). LOAD and every write of a field stage its bits alone (R104), by `setSt`. The statement ranges over
every stage, also one that holds a reserved bit, which no command of the model leaves there: a write of the field clears that bit, and the
statement says that it stays.
-/

namespace Sys2Proof.Machine

variable {s : State} {off m : Nat} {h : Half} {v : BitVec 64}

/-- R104, R107: a write of an ST field, unless the stage is ARMED, stages the bits of the field alone. -/
theorem stFieldWrite_stagedSt (hfield : stMask off = some m) (hfree : s.bld.state ≠ .armed) :
    (stFieldWrite off h v s).stagedSt off = (mergeWrite h m (s.stagedSt off) v.toNat &&& m) % 2 ^ 64 := by
  simp only [stFieldWrite, hfield, if_neg hfree, State.modBld, State.stagedSt, setSt, tget_tset_self, BitVec.toNat_ofNat]

/-- A stage in which a bit outside the fields of HT_CFG (0x020020) stands. -/
def reservedBitStaged : State := { bld := { stagedSt := [(0x020020, 2)] } }

/-- Refutes O12: in `reservedBitStaged` a write of HT_CFG stages the bits of its fields alone, where the clause of a write in a stage that is not
ARMED says that the bits the write does not reach stay. -/
theorem not_stageCommandsAndFields : ¬ Obligations.StageCommandsAndFields := by
  unfold Obligations.StageCommandsAndFields
  rintro ⟨-, -, -, -, -, -, -, fieldWrite, -⟩
  obtain ⟨t, hwrite, hstaged, -⟩ := fieldWrite reservedBitStaged 0x020020 0x3FFF0001 .whole 0 (by decide) (by decide) (by decide) (by decide)
  have hstate : stFieldWrite 0x020020 .whole 0 reservedBitStaged = t := Host.Outcome.next.inj hwrite
  have hcleared : t.stagedSt 0x020020 = 0 := by
    rw [← hstate, stFieldWrite_stagedSt (m := 0x3FFF0001) (by decide) (by decide)]
    decide
  have hkept : t.stagedSt 0x020020 = 2 := by
    rw [hstaged]
    decide
  exact absurd (hcleared.symm.trans hkept) (by decide)

end Sys2Proof.Machine

/-!
PROOF. What an apply and a rollback leave alone (O14). `State.inForce` is the blend unit with the count of rollbacks: no end of a command,
no kill, and nothing that settles after a change of blend reaches it. One lemma for each operation, from the tables up to
`State.settleChange`.
-/

namespace Sys2Proof.Machine

variable {s t : State}

/-! ### What the end of a command leaves in force -/

/-- The blend unit, with the blend in force and the stage, and the count of rollbacks. -/
def State.inForce (s : State) : BlendUnit × Nat := (s.bld, s.col.cntRollback)

theorem State.bld_of_inForce (h : t.inForce = s.inForce) : t.bld = s.bld := congrArg Prod.fst h

theorem State.inForce_of_outsideCommands (h : t.outsideCommands = s.outsideCommands) : t.inForce = s.inForce :=
  (congrArg State.inForce h : t.outsideCommands.inForce = s.outsideCommands.inForce)

theorem State.inForce_of_outsideBringup (h : t.outsideBringup = s.outsideBringup) : t.inForce = s.inForce :=
  (congrArg State.inForce h : t.outsideBringup.inForce = s.outsideBringup.inForce)

@[simp] theorem State.ite_inForce {p : Prop} [Decidable p] : (if p then t else s).inForce = if p then t.inForce else s.inForce :=
  apply_ite State.inForce p t s

/-- What every round of a fold leaves in force, the fold does. -/
theorem State.foldl_inForce {α : Type} {f : State → α → State} {l : List α} (hf : ∀ t x, (f t x).inForce = t.inForce) :
    (l.foldl f s).inForce = s.inForce :=
  foldl_keeps_view hf l s

/-- A fold that carries a value beside the state. -/
theorem State.foldl_fst_inForce {α β : Type} {f : State × β → α → State × β} {l : List α} {b : β}
    (hf : ∀ a x, (f a x).1.inForce = a.1.inForce) : (l.foldl f (s, b)).1.inForce = s.inForce :=
  List.foldlRecOn l f (motive := fun a => a.1.inForce = s.inForce) rfl fun a ha x _ => (hf a x).trans ha

section
variable {c : Cmd} {e i j k n p status : Nat} {ht : HallTime} {clk : ClockRoot} {mem : Memory} {jobs : Sparse JobSlot} {spt : Spout} {fab : Fabric}
  {scrubs : List Scrub} {pools : Sparse PoolState} {inf : Infuser} {pfx : Prefix} {ktl : Kettle}

@[simp] theorem State.mk_inForce : ({ s with ht, clk, mem, spt, fab, scrubs, pools, inf, pfx, ktl } : State).inForce = s.inForce := rfl

@[simp] theorem State.mk_col_inForce {run : Option ColRun} {start : Option StartRun} {startState : Nat} {lastEnd : Sparse Nat} :
    ({ s with jobs, spt, col := { s.col with run, start, startState, lastEnd } } : State).inForce = s.inForce := rfl

@[simp] theorem State.modTimer_inForce {f : HtTimer → HtTimer} : (s.modTimer n f).inForce = s.inForce := rfl
@[simp] theorem State.modCore_inForce {f : Core → Core} : (s.modCore k f).inForce = s.inForce := rfl
@[simp] theorem State.modSpCtx_inForce {f : SpoutCtx → SpoutCtx} : (s.modSpCtx i f).inForce = s.inForce := rfl
@[simp] theorem State.modPool_inForce {f : PoolState → PoolState} : (s.modPool p f).inForce = s.inForce := rfl
@[simp] theorem State.modSet_inForce {f : InfSet → InfSet} : (s.modSet i f).inForce = s.inForce := rfl
@[simp] theorem State.setSlot_inForce {f : JobSlot → JobSlot} : (s.setSlot j f).inForce = s.inForce := rfl
@[simp] theorem State.setQueue_inForce {q : List Cmd} : (s.setQueue e j q).inForce = s.inForce := rfl
@[simp] theorem State.setUrn_inForce {x : UrnTable} : (s.setUrn i x).inForce = s.inForce := rfl
@[simp] theorem State.modPort_inForce {f : Port → Port} : (s.modPort p f).inForce = s.inForce := rfl
@[simp] theorem State.store_inForce {bs : List Byte} : (s.store n bs).inForce = s.inForce := rfl
@[simp] theorem State.zero_inForce {a : Nat} : (s.zero a n).inForce = s.inForce := rfl
@[simp] theorem State.countUncorr_inForce : s.countUncorr.inForce = s.inForce := rfl
@[simp] theorem State.jobEvent_inForce {a b c d e f g : Nat} : (s.jobEvent a b c d e f g).inForce = s.inForce := rfl
@[simp] theorem State.dropStreams_inForce : (s.dropStreams e i).inForce = s.inForce := rfl
@[simp] theorem State.dropRequests_inForce : (s.dropRequests k).inForce = s.inForce := rfl
@[simp] theorem State.startTask_inForce : (s.startTask k c).inForce = s.inForce := rfl
@[simp] theorem State.pfxEvt_inForce : (s.pfxEvt n).inForce = s.inForce := rfl

/-! ### Commands that end or are killed, R418, R420, R437 -/

@[simp] theorem State.complete_inForce {d u : Nat} {x y : Bool} : (s.complete c status d x u y).inForce = s.inForce :=
  State.inForce_of_outsideCommands State.complete_outsideCommands

@[simp] theorem State.conclude_inForce {bs : List Byte} {x : Bool} : (s.conclude c bs x).inForce = s.inForce :=
  State.inForce_of_outsideCommands State.conclude_outsideCommands

@[simp] theorem State.leaveUndefined_inForce {rs : List (Nat × Nat)} : (s.leaveUndefined rs).inForce = s.inForce := by
  simp [State.inForce]

@[simp] theorem State.failOutputs_inForce : (s.failOutputs c status).inForce = s.inForce := by simp [State.inForce]

@[simp] theorem State.nextTask_inForce : (s.nextTask k).inForce = s.inForce := by
  unfold State.nextTask
  dsimp only
  split <;> simp

@[simp] theorem State.stopTask_inForce : (s.stopTask c k).inForce = s.inForce := by simp [State.stopTask]

theorem State.chainOne_inForce {a : State × Nat} {l : Live} : (State.chainOne a l).1.inForce = a.1.inForce := by
  unfold State.chainOne
  dsimp only
  split
  · rfl
  · split_ifs <;> simp

@[simp] theorem State.chainStarts_inForce : (s.chainStarts j).inForce = s.inForce :=
  State.foldl_fst_inForce fun _ _ => State.chainOne_inForce

@[simp] theorem State.relink_inForce {b : Option Nat} {l : List Nat} : (s.relink p b l).inForce = s.inForce :=
  State.foldl_fst_inForce fun _ _ => State.store_inForce

@[simp] theorem State.pushBuffer_inForce {q g : Nat} : (s.pushBuffer q p i g).inForce = s.inForce := by simp [State.pushBuffer]

@[simp] theorem State.returnBuffers_inForce {q : Nat} {l : List Nat} : (s.returnBuffers q p l).inForce = s.inForce :=
  State.foldl_inForce fun _ _ => State.pushBuffer_inForce

@[simp] theorem State.freeHandle_inForce {q h : Nat} : (s.freeHandle q j h).inForce = s.inForce := by
  unfold State.freeHandle
  dsimp only
  split <;> simp

@[simp] theorem State.freeAll_inForce {q : Nat} {l : List Nat} : (s.freeAll q j l).1.inForce = s.inForce := by
  unfold State.freeAll
  split
  · rfl
  · exact State.foldl_inForce fun _ _ => State.freeHandle_inForce

/-- R354: the frees of engine 9, those that fail a check too. -/
@[simp] theorem State.pfxFree_inForce {l : List Nat} : (s.pfxFree j l).inForce = s.inForce := by
  refine State.foldl_inForce fun t part => ?_
  have hfree : (t.freeAll (engCode 9) j part).1.inForce = t.inForce := State.freeAll_inForce
  split
  next heq => rwa [heq] at hfree
  next heq =>
    rw [heq] at hfree
    simpa using hfree

@[simp] theorem State.keyLoad_inForce : (s.keyLoad k).inForce = s.inForce := by
  unfold State.keyLoad
  dsimp only
  rw [State.pfxEvt_inForce, State.foldl_inForce fun _ _ => State.pfxFree_inForce, State.mk_inForce]

@[simp] theorem State.settleLoads_inForce : s.settleLoads.inForce = s.inForce := by
  simp [State.settleLoads, State.foldl_inForce]

/-- R420: what a killed command held, in each engine. -/
@[simp] theorem State.undo_inForce : (s.undo c).inForce = s.inForce := by
  unfold State.undo
  split
  · exact State.foldl_inForce fun _ _ => State.stopTask_inForce
  · simp [State.foldl_inForce]
  · exact State.foldl_inForce fun t p => by simp [State.foldl_inForce]
  · exact State.foldl_inForce fun t p => by simp [State.foldl_inForce]
  · refine State.foldl_inForce fun t i => ?_
    dsimp only
    split
    · simp
    · split <;> simp
  · split <;> simp
  · rfl

@[simp] theorem State.killOne_inForce : (s.killOne c).inForce = s.inForce := by simp [State.killOne]

@[simp] theorem State.coreRequestEnd_inForce {r : RemReq} : (s.coreRequestEnd r status).inForce = s.inForce := by
  simp [State.coreRequestEnd]

@[simp] theorem State.settleEndings_inForce : s.settleEndings.inForce = s.inForce := by
  simp [State.settleEndings, State.foldl_inForce]

@[simp] theorem State.dropHeld_inForce : (s.dropHeld j).inForce = s.inForce := by
  simp [State.dropHeld, State.foldl_inForce]

@[simp] theorem State.killJob_inForce : (s.killJob j).inForce = s.inForce := by
  simp [State.killJob, State.foldl_inForce, State.foldl_inForce fun _ _ => State.setQueue_inForce]

@[simp] theorem State.beginTeardown_inForce : (s.beginTeardown j).inForce = s.inForce := by simp [State.beginTeardown]

/-! ### What an apply and a rollback settle -/

section
variable {old : Blend}

@[simp] theorem State.markRamps_inForce : s.markRamps.inForce = s.inForce := by simp [State.markRamps]
@[simp] theorem State.addScrub_inForce {a : Nat} {o : Option Nat} : (s.addScrub a n o).inForce = s.inForce := by simp [State.addScrub]
@[simp] theorem State.clearSet_inForce : (s.clearSet i).inForce = s.inForce := by simp [State.clearSet]

/-- R389: the commands of an infusion set that changes are killed. -/
@[simp] theorem State.endSet_inForce : (s.endSet i).inForce = s.inForce := by
  unfold State.endSet
  dsimp only
  split <;> simp [State.foldl_inForce]

@[simp] theorem State.settleTimers_inForce : s.settleTimers.inForce = s.inForce := by
  simp [State.settleTimers, State.foldl_inForce]

@[simp] theorem State.settleRamps_inForce : (s.settleRamps old).inForce = s.inForce :=
  State.foldl_inForce fun _ _ => State.modTimer_inForce

@[simp] theorem State.settleEnvelope_inForce : (s.settleEnvelope old).inForce = s.inForce := by simp [State.settleEnvelope]
@[simp] theorem State.settleClock_inForce : s.settleClock.inForce = s.inForce := by simp [State.settleClock]
@[simp] theorem State.settleCore_inForce : (s.settleCore old k).inForce = s.inForce := by simp [State.settleCore]

@[simp] theorem State.clearSlot_inForce : (s.clearSlot j).inForce = s.inForce := by
  simp [State.clearSlot, State.foldl_inForce]

/-- R114, R423: a job slot across an apply, in each case of its job. -/
@[simp] theorem State.settleJob_inForce : (s.settleJob old n j).inForce = s.inForce := by simp [State.settleJob]

@[simp] theorem State.settleLent_inForce : (s.settleLent old).inForce = s.inForce :=
  State.foldl_inForce fun _ _ => State.addScrub_inForce

@[simp] theorem State.settleLanding_inForce : (s.settleLanding old).inForce = s.inForce :=
  State.foldl_inForce fun _ _ => State.store_inForce

@[simp] theorem State.settlePools_inForce : (s.settlePools old).inForce = s.inForce := by
  simp [State.settlePools, State.foldl_inForce]

@[simp] theorem State.emptySlots_inForce {u : UrnCfg} : (s.emptySlots u).inForce = s.inForce := by simp [State.emptySlots]

@[simp] theorem State.settleUrns_inForce : (s.settleUrns old).inForce = s.inForce := by
  simp [State.settleUrns, State.foldl_inForce]

@[simp] theorem State.oweErr_inForce {f : Flit} : (s.oweErr f status).inForce = s.inForce := by simp [State.oweErr]

@[simp] theorem State.dropQueued_inForce : (s.dropQueued p).inForce = s.inForce :=
  (State.foldl_inForce fun _ _ => State.modPort_inForce).trans (State.foldl_inForce fun _ _ => State.oweErr_inForce)

@[simp] theorem State.upstreamDown_inForce : (s.upstreamDown p).inForce = s.inForce :=
  State.inForce_of_outsideBringup State.upstreamDown_outsideBringup

@[simp] theorem State.retrainPort_inForce : (s.retrainPort p).inForce = s.inForce := by simp [State.retrainPort]

@[simp] theorem State.settlePorts_inForce : (s.settlePorts old).inForce = s.inForce := by
  simp [State.settlePorts, State.foldl_inForce]

/-- R114: none of what a change of blend restarts, empties or kills reaches the blend unit. -/
@[simp] theorem State.settleChange_inForce : (s.settleChange old n).inForce = s.inForce := by
  simp [State.settleChange, State.foldl_inForce]

@[simp] theorem State.killStarted_inForce : (s.killStarted j).inForce = s.inForce := by
  simp [State.killStarted, State.foldl_inForce]

@[simp] theorem State.scrubStarted_inForce : (s.scrubStarted j).inForce = s.inForce := by
  simp [State.scrubStarted, State.foldl_inForce]

end
end
end Sys2Proof.Machine

/-!
PROOF. APPLY, its instant and the rollback (O14). Why an APPLY is refused, what is in force at T and after a rollback, and what is not.
-/

namespace Sys2Proof.Machine

variable {s : State} {r t : Nat}

/-! ### APPLY, R112, R113 -/

/-- R112: the frame boundary at or after a tick. -/
theorem roundUp_frame (a : Nat) : roundUp a 2560 % 2560 = 0 ∧ a ≤ roundUp a 2560 ∧ roundUp a 2560 < a + 2560 := by
  unfold roundUp ceilDiv
  omega

theorem State.hallOk_iff : s.hallOk = true ↔ s.ht.state = .locked ∨ s.ht.state = .holdover ∨ s.ht.state = .root := by
  unfold State.hallOk
  cases s.ht.state <;> simp

theorem State.hallOk_eq_false (h : s.ht.state ≠ .locked ∧ s.ht.state ≠ .holdover ∧ s.ht.state ≠ .root) : s.hallOk = false := by
  rw [Bool.eq_false_iff, Ne, State.hallOk_iff]
  simp [h]

theorem State.hopHold_iff : s.hopHold t = true ↔ s.bld.flipped = true ∧ s.hopChanges = true ∧ t < s.bld.flipAt + 1000000 := by
  simp [State.hopHold, and_assoc]

/-- The refusals of a stage that is not dirty, in the order in which they are found. -/
theorem State.applyRefusal_clean (hclean : s.bld.dirty = false) : s.applyRefusal t =
    if s.boot.step < 10 || !s.hallOk || t < s.now + 10240 then some (oneFail (conflict 0x03 0 0))
    else if !s.bld.applied && s.tin.state ≤ 1 then some (oneFail (conflict 0x11 0 0))
    else if s.hopHold t then some (oneFail (conflict 0x0B 0x03 0))
    else if s.ktl.therm = 2 then some (oneFail (conflict 0x0F 0 0))
    else none := by
  simp [State.applyRefusal, hclean]

theorem State.applyRefusal_untimely (hclean : s.bld.dirty = false) (hlate : s.boot.step < 10 ∨ s.hallOk = false ∨ t < s.now + 10240) :
    s.applyRefusal t = some (oneFail (conflict 0x03 0 0)) := by
  rw [State.applyRefusal_clean hclean, if_pos]
  simpa [or_assoc] using hlate

section
variable (hclean : s.bld.dirty = false) (hstep : 10 ≤ s.boot.step)
  (hhall : s.ht.state = .locked ∨ s.ht.state = .holdover ∨ s.ht.state = .root) (hahead : s.now + 10240 ≤ t)
include hclean hstep hhall hahead

/-- In time, Tin, the hop table and the heat are left to refuse an APPLY. -/
theorem State.applyRefusal_timely : s.applyRefusal t =
    if !s.bld.applied && s.tin.state ≤ 1 then some (oneFail (conflict 0x11 0 0))
    else if s.hopHold t then some (oneFail (conflict 0x0B 0x03 0))
    else if s.ktl.therm = 2 then some (oneFail (conflict 0x0F 0 0))
    else none := by
  rw [State.applyRefusal_clean hclean, if_neg]
  simp [State.hallOk_iff.2 hhall, Nat.not_lt.2 hstep, Nat.not_lt.2 hahead]

theorem State.applyRefusal_accepted (htin : s.bld.applied = true ∨ 2 ≤ s.tin.state)
    (hhop : s.bld.flipped = false ∨ s.hopChanges = false ∨ s.bld.flipAt + 1000000 ≤ t) (htherm : s.ktl.therm ≠ 2) :
    s.applyRefusal t = none := by
  have hready : (!s.bld.applied && decide (s.tin.state ≤ 1)) = false := by
    rcases htin with h | h
    · simp [h]
    · simp [show 1 < s.tin.state from h]
  have hnohold : s.hopHold t = false := by
    rw [Bool.eq_false_iff, Ne, State.hopHold_iff]
    rintro ⟨hflip, hchange, hnear⟩
    simp [hflip, hchange, Nat.not_le.2 hnear] at hhop
  simp [State.applyRefusal_timely hclean hstep hhall hahead, hready, hnohold, htherm]

theorem State.applyRefusal_tin (hfirst : s.bld.applied = false) (htin : s.tin.state ≤ 1) :
    s.applyRefusal t = some (oneFail (conflict 0x11 0 0)) := by
  simp [State.applyRefusal_timely hclean hstep hhall hahead, hfirst, htin]

theorem State.applyRefusal_hopHold (happlied : s.bld.applied = true) (hhold : s.hopHold t = true) :
    s.applyRefusal t = some (oneFail (conflict 0x0B 0x03 0)) := by
  simp [State.applyRefusal_timely hclean hstep hhall hahead, happlied, hhold]

end

theorem State.applyRefusal_unsigned (hdirty : s.bld.dirty = true) (hpolicy : s.wdn.policy.getLsbD 0 = true) :
    s.applyRefusal t = some (oneFail { status := stBlendSignature, index := imgKey s.bld.image }) := by
  rw [State.applyRefusal, if_pos (by simp [hdirty, hpolicy])]

section
variable (hopen : s.bldOpen = true) (hchecked : s.bld.state = .checked) (hclaimant : r = s.bld.claimant)
include hopen hchecked hclaimant

/-- The claimant's APPLY in a CHECKED stage that nothing refuses arms it. -/
theorem blendApply_arms (haccepted : s.applyRefusal (roundUp s.bld.applyTime 2560) = none) :
    blendApply r s = { s with bld := { s.bld with state := .armed, armedT := roundUp s.bld.applyTime 2560, result := {} } } := by
  simp [blendApply, State.applyCmd, hopen, hchecked, hclaimant, frameLen, haccepted, State.modBld]

theorem blendApply_refused {f : BldResult} (hrefused : s.applyRefusal (roundUp s.bld.applyTime 2560) = some f) :
    blendApply r s = s.refuse f := by
  simp [blendApply, State.applyCmd, hopen, hchecked, hclaimant, frameLen, hrefused]

end

/-! ### The instant of an apply, R107, R112, R114 -/

theorem State.firstBlend_bld : s.firstBlend.bld = { s.bld with applied := true } := by
  unfold State.firstBlend
  split_ifs with h
  · rw [← h]
  · simp [State.stepEvent, State.noWait, State.modBld]

/-- R69: the first blend completes bring-up. -/
theorem State.firstBlend_step (hfirst : s.bld.applied = false) : s.firstBlend.boot.step = 15 := by
  simp [State.firstBlend, hfirst, State.stepEvent]

theorem State.startApplied_bld {b : BlendUnit} : (s.startApplied b).bld = s.bld := by
  unfold State.startApplied
  split
  · rfl
  · split_ifs
    · simp only [State.complete_bld, State.modCol]
      split <;> simp
    · rfl

theorem State.startApplied_boot {b : BlendUnit} : (s.startApplied b).boot = s.boot := by
  unfold State.startApplied
  split
  · rfl
  · split_ifs
    · simp only [State.complete_boot, State.modCol]
      split <;> simp
    · rfl

/-- The state as the settings of an apply settle, with the blend in force already. -/
def State.settlesApply (s : State) : State :=
  State.settleChange (((setsChanged s.bld.cur s.candidate).foldl State.endSet s.markRamps).modBld fun b => b.afterApply s.candidate s.hopChanges)
    s.bld.cur s.bld.armedT

theorem State.applyStage_eq : s.applyStage = (s.settlesApply.firstBlend).startApplied s.bld := rfl

theorem State.settlesApply_bld : s.settlesApply.bld = s.bld.afterApply s.candidate s.hopChanges := by
  have hkept : ((setsChanged s.bld.cur s.candidate).foldl State.endSet s.markRamps).bld = s.bld :=
    State.bld_of_inForce ((State.foldl_inForce fun _ _ => State.endSet_inForce).trans State.markRamps_inForce)
  rw [State.settlesApply, State.bld_of_inForce State.settleChange_inForce, State.modBld, hkept]

theorem State.applyStage_bld : s.applyStage.bld = { s.bld.afterApply s.candidate s.hopChanges with applied := true } := by
  rw [State.applyStage_eq, State.startApplied_bld, State.firstBlend_bld, State.settlesApply_bld]

theorem State.applyStage_step (hfirst : s.bld.applied = false) : s.applyStage.boot.step = 15 := by
  rw [State.applyStage_eq, State.startApplied_boot, State.firstBlend_step]
  rwa [State.settlesApply_bld]

theorem countFails_ne_none {l : List BldResult} (h : l ≠ []) : countFails l ≠ none := by
  cases l with
  | nil => exact absurd rfl h
  | cons => exact Option.some_ne_none _

/-- R112: the hold of the hop table is among the checks at T. -/
theorem State.failAtT_of_hopHold (hhold : s.hopHold s.bld.armedT = true) : s.failAtT ≠ none := by
  unfold State.failAtT
  refine countFails_ne_none ?_
  simp [hhold]

section
variable (harmed : s.bld.state = .armed) (hdue : s.bld.armedT ≤ s.now)
include harmed hdue

theorem blendApplyAtT_applies (hfine : s.failAtT = none) : blendApplyAtT s = s.applyStage := by
  simp [blendApplyAtT, harmed, hdue, hfine]

theorem blendApplyAtT_refused {f : BldResult} (hfail : s.failAtT = some f) (hstart : s.col.start = none) :
    blendApplyAtT s = (s.modBld fun b => { b with state := .checked }).refuse f := by
  have hnone : ((s.modBld fun b => { b with state := .checked }).refuse f).col.start = none := hstart
  simp [blendApplyAtT, harmed, hdue, hfail, State.refusedAtT, hnone]

end

theorem blendApplyAtT_early (hearly : s.now < s.bld.armedT) : blendApplyAtT s = s := by
  simp [blendApplyAtT, Nat.not_le.2 hearly]

/-! ### The rollback, R330 -/

/-- R330 1, 3: the start's job, if it is known, has ended and its windows are zeroed. -/
def State.startedStopped (s : State) : State :=
  match s.col.provJob with
  | some j => (s.markRamps.killStarted j).scrubStarted j
  | none => s.markRamps

@[simp] theorem State.startedStopped_inForce : s.startedStopped.inForce = s.inForce := by
  unfold State.startedStopped
  split <;> simp

/-- R330 2, 4: the change back to the prior blend has settled, and the stage holds the start's blend. -/
def State.settlesRollback (s : State) (prior : Blend) : State :=
  State.settleChange (((setsChanged s.bld.cur prior).foldl State.endSet s.startedStopped).modBld fun b =>
    b.rolledBack { s.col.rollbackStage with cur := prior } s.now) s.bld.cur s.now

/-- R330: COL_EVT.ROLLBACK, the count of rollbacks, and the end of the start. -/
def State.rollbackRecorded (s : State) : State :=
  (s.modEng 8 fun e => { e with evt := e.evt ||| 8 }).modCol fun c =>
    { c with startState := 5, cntRollback := c.cntRollback + 1, rollbackAt := none, prior := none, provJob := none, rollbackStage := {} }

theorem State.rollbackRecorded_bld : s.rollbackRecorded.bld = s.bld := rfl

theorem State.rollbackRecorded_col : s.rollbackRecorded.col =
    { s.col with startState := 5, cntRollback := s.col.cntRollback + 1, rollbackAt := none, prior := none, provJob := none, rollbackStage := {} } :=
  rfl

theorem State.rollbackRecorded_evt : (s.rollbackRecorded.engRegs 8).evt.getLsbD 3 = true := by
  have hregs : s.rollbackRecorded.engRegs 8 = (s.modEng 8 fun e => { e with evt := e.evt ||| 8 }).engRegs 8 := rfl
  rw [hregs, State.engRegs_modEng]
  simp

theorem startRollback_due {prior : Blend} (hset : s.col.rollbackAt = some t) (hprior : s.col.prior = some prior) (hdue : t ≤ s.now) :
    startRollback s = (s.settlesRollback prior).rollbackRecorded := by
  simp only [startRollback, hset, hprior, if_pos hdue]
  rfl

theorem startRollback_unset (hset : s.col.rollbackAt = none) : startRollback s = s := by
  simp [startRollback, hset]

theorem State.modBld_inForce {f : BlendUnit → BlendUnit} : (s.modBld f).inForce = (f s.inForce.1, s.inForce.2) := rfl

theorem State.settlesRollback_inForce {prior : Blend} : (s.settlesRollback prior).inForce =
    (s.bld.rolledBack { s.col.rollbackStage with cur := prior } s.now, s.col.cntRollback) := by
  rw [State.settlesRollback, State.settleChange_inForce, State.modBld_inForce, State.foldl_inForce fun _ _ => State.endSet_inForce,
    State.startedStopped_inForce]
  rfl

/-- Settles O14: the refusals of an APPLY are read off `State.applyRefusal`; the blend in force at T, and after a rollback, is the one that the
change begins with, since `State.settleChange` leaves the blend unit alone. -/
theorem applyAndRollback : Obligations.ApplyAndRollback := by
  unfold Obligations.ApplyAndRollback
  refine ⟨?arms, ?untimely, ?tin, ?hop, ?unsigned, ?closed, roundUp_frame, ?applies, ?hopAtT, ?failsAtT, ?early, ?rollback, ?noRollback⟩
  case arms =>
    intro s r hopen hchecked hr hclean hstep hhall hahead htin hhop htherm
    exact congrArg Host.Outcome.next
      (blendApply_arms hopen hchecked hr (State.applyRefusal_accepted hclean hstep hhall hahead htin hhop htherm))
  case untimely =>
    intro s r hopen hchecked hr hclean hlate
    have hrefused := State.applyRefusal_untimely hclean (hlate.imp_right (Or.imp_left State.hallOk_eq_false))
    exact ⟨_, congrArg Host.Outcome.next (blendApply_refused hopen hchecked hr hrefused), rfl⟩
  case tin =>
    intro s r hopen hchecked hr hclean hstep hhall hahead hfirst htin
    have hrefused := State.applyRefusal_tin hclean hstep hhall hahead hfirst htin
    exact ⟨_, congrArg Host.Outcome.next (blendApply_refused hopen hchecked hr hrefused), rfl⟩
  case hop =>
    intro s r hopen hchecked hr hclean hstep hhall hahead happlied hflip hchange hnear
    have hrefused := State.applyRefusal_hopHold hclean hstep hhall hahead happlied (State.hopHold_iff.2 ⟨hflip, hchange, hnear⟩)
    exact ⟨_, congrArg Host.Outcome.next (blendApply_refused hopen hchecked hr hrefused), hchecked, rfl, rfl, rfl⟩
  case unsigned =>
    intro s r hopen hchecked hr hdirty hpolicy
    exact ⟨_, congrArg Host.Outcome.next (blendApply_refused hopen hchecked hr (State.applyRefusal_unsigned hdirty hpolicy)), hchecked, rfl⟩
  case closed =>
    intro s r hclosed
    exact congrArg Host.Outcome.next (by simp [blendApply, hclosed])
  case applies =>
    intro s harmed hdue hfine
    refine ⟨s.applyStage, congrArg Host.Outcome.next (blendApplyAtT_applies harmed hdue hfine), ?_⟩
    rw [State.applyStage_bld]
    exact ⟨rfl, rfl, rfl, rfl, rfl, rfl, rfl, rfl, State.applyStage_step⟩
  case hopAtT =>
    intro s _ hchange hflip hnear
    exact State.failAtT_of_hopHold (State.hopHold_iff.2 ⟨hflip, hchange, hnear⟩)
  case failsAtT =>
    intro s f harmed hdue hfail hstart
    exact ⟨_, congrArg Host.Outcome.next (blendApplyAtT_refused harmed hdue hfail hstart), rfl, rfl⟩
  case early =>
    intro s hearly
    exact congrArg Host.Outcome.next (blendApplyAtT_early hearly)
  case rollback =>
    intro s at' b hset hprior hdue
    obtain ⟨hbld, hcount⟩ := Prod.mk.inj (State.settlesRollback_inForce (s := s) (prior := b))
    refine ⟨_, congrArg Host.Outcome.next (startRollback_due hset hprior hdue), ?_⟩
    rw [State.rollbackRecorded_bld, State.rollbackRecorded_col, hbld, hcount]
    exact ⟨rfl, rfl, rfl, rfl, rfl, rfl, rfl, rfl, State.rollbackRecorded_evt⟩
  case noRollback =>
    intro s hset
    exact congrArg Host.Outcome.next (startRollback_unset hset)

end Sys2Proof.Machine

/-!
PROOF. The moves (O30). In every state that the model reaches the head of the LD queue is an instruction of the LD unit. The statement ranges
over every state, also one whose LD queue holds an instruction that names the array as its unit: it starts as any other, and the statement
says of it what R463 says of the array's instructions alone, that ballast leaves the array of its core.
-/

namespace Sys2Proof.Machine

variable {s u : State} {k : Nat} {i : LongInstr}

/-- R127: a head that can start runs its row. -/
theorem State.startHead_of_starts {unit op : Nat} {body : State → LongInstr → State} (h : s.starts k unit op = some (u, i)) :
    s.startHead k unit [op] body = body u i := by
  simp only [State.starts] at h
  split at h
  next j hhead =>
    split at h
    next hready =>
      obtain ⟨rfl, rfl⟩ := Prod.mk.inj (Option.some.inj h)
      simp [State.startHead, hhead, hready.1, hready.2]
    next => exact absurd h (by simp)
  next => exact absurd h (by simp)

/-- R124: against a neighbour in SERVICE mode an LD.CR behind an earlier instruction of its unit starts, and waits for its turn to
complete. -/
theorem ldCr_behind {p : Nat} {x : StartedInstr} (hstarts : s.starts k 5 4 = some (u, i)) (hnbr : u.neighbour k (i.fld 66 64) = some p)
    (hfmt : i.fmt < 14) (hmode : (u.core p).mode = 1) (hopen : (u.window p (i.fld 69 67)).en = true) (hx : x ∈ (u.core k).started)
    (hunit : x.unit = 5) : ldCr k s = u.started k i [] := by
  have hbehind : ((u.core k).started.any fun x => x.unit == 5) = true := List.any_eq_true.2 ⟨x, hx, by simp [hunit]⟩
  rw [ldCr, State.startHead_of_starts hstarts]
  simp [Nat.not_le.2 hfmt, hnbr, hmode, hopen, hbehind]

/-- An LD.CR to window 3 of the neighbour in the east that names the array as its unit. -/
def misnamedCredit : LongInstr := { unit := 4, bits := BitVec.ofNat 96 (4 + (4 + 3 * 8) * 2 ^ 64), bundle := 5 }

/-- An LD instruction in flight. -/
def misnamedInFlight : StartedInstr := { unit := 5, bits := 2, bundle := 4, id := 0, writes := [] }

/-- The misnamed LD.CR in the LD queue of core 0, behind an LD instruction in flight; ballast runs in the array of core 0, and core 1, its
neighbour in the east, is in SERVICE mode. -/
def misnamedQueue : State :=
  { bld := { cur := { jobs := [{ jobId := 7 }], cores := [0, 0] } }, boot := { coreMask := 3 }, ktl := { ballastOn := 1 }
    cores := [(0, { run := .issuing, qLd := [misnamedCredit], started := [misnamedInFlight] }), (1, { mode := 1, crw := [(3, { en := true })] })] }

/-- The state once the head has left its queue. -/
def misnamedStart : State :=
  (misnamedQueue.modCore 0 fun c => (c.setQueue 5 (c.queue 5).tail).takeWait (waitField 5 misnamedCredit.bits.toNat)).claim
    (misnamedQueue.named 0 misnamedCredit)

theorem misnamedQueue_starts : misnamedQueue.starts 0 5 4 = some (misnamedStart, misnamedCredit) := by rfl

/-- Refutes O30: in `misnamedQueue` an LD.CR that names the array as its unit starts and leaves the ballast of its core running, where the
clause of an LD.CR behind an earlier instruction of its unit says that ballast leaves the array (R463). -/
theorem not_movesStart : ¬ Obligations.MovesStart := by
  unfold Obligations.MovesStart
  rintro ⟨-, -, -, -, -, -, behind, -⟩
  have hnbr : misnamedStart.neighbour 0 (misnamedCredit.fld 66 64) = some 1 := by decide +kernel
  have hopen : (misnamedStart.window 1 (misnamedCredit.fld 69 67)).en = true := by decide +kernel
  obtain ⟨t, hrun, -, -, -, hframe⟩ := behind misnamedQueue misnamedStart 0 1 misnamedCredit misnamedInFlight (by decide)
    misnamedQueue_starts hnbr (by decide) (by decide) hopen (by decide) rfl
  have hstate : misnamedStart.started 0 misnamedCredit [] = t := by
    rw [← ldCr_behind misnamedQueue_starts hnbr (by decide) (by decide) hopen (x := misnamedInFlight) (by decide) rfl]
    exact Host.Outcome.next.inj hrun
  have hruns : t.ktl.ballastOn = 1 := by rw [← hstate]; rfl
  have hleaves : t.ktl.ballastOn = 0 := by rw [hframe]; rfl
  exact absurd (hruns.symm.trans hleaves) (by decide)

end Sys2Proof.Machine

/-!
PROOF. Core cycles: what a cycle's begin and end do to the cores (R124, R125, R138). `State.outsideCores` is all of the state but its cores.
-/

namespace Sys2Proof.Machine

variable {s t u : State} {j k p : Nat} {f : Core → Core}

/-! ### Cores and the rest of the state -/

/-- The state but for its cores. -/
def State.outsideCores (s : State) : State := { s with cores := [] }

theorem State.eq_of_outsideCores (h : t.outsideCores = s.outsideCores) : t = { s with cores := t.cores } :=
  (congrArg (fun x : State => { x with cores := t.cores }) h : { t.outsideCores with cores := t.cores } = { s with cores := t.cores })

theorem State.mem_of_outsideCores (h : t.outsideCores = s.outsideCores) : t.mem = s.mem :=
  (congrArg State.mem h : t.outsideCores.mem = s.outsideCores.mem)

@[simp] theorem State.modCore_outsideCores : (s.modCore k f).outsideCores = s.outsideCores := rfl

theorem State.core_of_cores (h : t.cores = s.cores) : t.core j = s.core j := by rw [State.core, State.core, h]

@[simp] theorem State.storeAll_core {ws : List (Nat × List Byte)} : (s.storeAll ws).core j = s.core j := State.core_of_cores State.storeAll_cores

/-! ### The grid, R8 -/

/-- No core is its own neighbour. -/
theorem neighbourOf_ne {c d n : Nat} (h : neighbourOf c d = some n) : n ≠ c := by
  unfold neighbourOf at h
  split at h
  case h_5 => exact absurd h (by simp)
  all_goals
    simp only [Option.ite_none_right_eq_some, Option.some.injEq] at h
    omega

/-! ### A core cycle's writes to a scratchpad, R138 -/

@[simp] theorem State.flushPad_core : (s.flushPad p).core p = { s.core p with padWrites := [] } := by
  simp [State.flushPad]

theorem State.flushPad_core_ne (h : j ≠ p) : (s.flushPad p).core j = s.core j := by
  simp [State.flushPad, State.core_modCore_ne h]

/-- Without writes in the cycle the scratchpad stays. -/
theorem State.flushPad_quiet (h : s.Quiet p) : s.flushPad p = s.modCore p fun c => { c with padWrites := [] } := by
  simp [State.flushPad, h, sortBy, State.storeAll]

/-- One write of the cycle applies as it ends. -/
theorem State.flushPad_single_mem {a : PadWrite} (h : (s.core p).padWrites = [a]) : (s.flushPad p).mem = s.mem.write a.addr a.bytes := by
  simp [State.flushPad, h, sortBy, insertBy, State.storeAll, State.store]

/-- Of two writes the one with the higher rank applies last, whichever was made first. -/
theorem State.flushPad_pair_mem {a b : PadWrite} (h : (s.core p).padWrites = [b, a]) (hrank : a.rank < b.rank) :
    (s.flushPad p).mem = (s.mem.write a.addr a.bytes).write b.addr b.bytes := by
  have hlate : ¬ b.rank ≤ a.rank := Nat.not_le.2 hrank
  simp [State.flushPad, h, sortBy, insertBy, hlate, State.storeAll, State.store]

/-! ### The begin and the end of a cycle -/

/-- The neighbours of core k whose scratchpads it wrote in the cycle before. -/
def State.written (s : State) (k : Nat) : List Nat := ([1, 2, 3, 4].filterMap (neighbourOf k)).filter (s.wroteInto k)

theorem State.beginCycle_eq : s.beginCycle k = (s.written k).foldl State.flushPad s := rfl

theorem State.ne_of_mem_written (h : p ∈ s.written k) : p ≠ k := by
  obtain ⟨d, -, hd⟩ := List.mem_filterMap.1 (List.mem_filter.1 h).1
  exact neighbourOf_ne hd

/-- The begin of a cycle leaves the core itself as it is. -/
@[simp] theorem State.beginCycle_core : (s.beginCycle k).core k = s.core k := by
  rw [State.beginCycle_eq]
  refine List.foldlRecOn (s.written k) State.flushPad (motive := fun t => t.core k = s.core k) rfl fun t ht p hp => ?_
  rw [State.flushPad_core_ne (State.ne_of_mem_written hp).symm, ht]

theorem State.endCycle_core : (s.endCycle k).core k = Core.endCycle { s.core k with padWrites := [] } := by
  simp [State.endCycle]

theorem State.endCycle_core_ne (h : j ≠ k) : (s.endCycle k).core j = s.core j := by
  rw [State.endCycle, State.core_modCore_ne h, State.flushPad_core_ne h]

/-- A cycle without writes to the scratchpad ends with its counters alone. -/
theorem State.endCycle_quiet_core (h : s.Quiet k) : (s.endCycle k).core k = (s.core k).endCycle := by
  rw [State.endCycle_core]
  congr 1
  exact congrArg (fun ws => { s.core k with padWrites := ws }) (Eq.symm h)

theorem State.endCycle_quiet_outsideCores (h : s.Quiet k) : (s.endCycle k).outsideCores = s.outsideCores := by
  rw [State.endCycle, State.modCore_outsideCores, State.flushPad_quiet h, State.modCore_outsideCores]

@[simp] theorem State.endCycle_mem : (s.endCycle k).mem = (s.flushPad k).mem := rfl

/-! ### The stores of a core, R137, R138 -/

/-- No ST.V store of a core takes its place among the writes of the cycle that ends. -/
def Core.NoneDue (c : Core) : Prop := ∀ q ∈ c.stores, q.dmem = true ∨ c.cycle + 1 < q.visibleAt

theorem Core.storesEnd_noneDue {c : Core} (h : c.NoneDue) : c.storesEnd = c := by
  have hkept : c.stores.filter (fun q => q.dmem || decide (c.cycle + 1 < q.visibleAt)) = c.stores :=
    List.filter_eq_self.2 fun q hq => by simpa using h q hq
  have hdue : c.stores.filter (fun q => !q.dmem && decide (q.visibleAt ≤ c.cycle + 1)) = [] :=
    List.filter_eq_nil_iff.2 fun q hq => by
      rcases h q hq with hd | hd
      · simp [hd]
      · simp [Nat.not_le.2 hd]
  simp only [Core.storesEnd, hkept, hdue, List.map_nil, List.append_nil]

/-- The end of a core's cycle: its due stores take their places, the scratchpad's writes apply, the counters move, and the cycle is over. -/
def State.closeCycle (s : State) (k : Nat) : State :=
  ((s.modCore k Core.storesEnd).endCycle k).modCore k fun c => { c with cycle := c.cycle + 1 }

theorem State.closeCycle_core : (s.closeCycle k).core k =
    { Core.endCycle { (s.core k).storesEnd with padWrites := [] } with cycle := (s.core k).cycle + 1 } := by
  simp [State.closeCycle, State.endCycle_core, Core.endCycle, Core.storesEnd]

theorem State.closeCycle_core_ne (h : j ≠ k) : (s.closeCycle k).core j = s.core j := by
  rw [State.closeCycle, State.core_modCore_ne h, State.endCycle_core_ne h, State.core_modCore_ne h]

theorem State.modCore_storesEnd_quiet (hquiet : s.Quiet k) (hdue : (s.core k).NoneDue) : (s.modCore k Core.storesEnd).Quiet k := by
  rw [State.Quiet, State.core_modCore, Core.storesEnd_noneDue hdue]
  exact hquiet

/-- A cycle without writes to the scratchpad ends with the core's counters alone. -/
theorem State.closeCycle_quiet_core (hquiet : s.Quiet k) (hdue : (s.core k).NoneDue) :
    (s.closeCycle k).core k = { (s.core k).endCycle with cycle := (s.core k).cycle + 1 } := by
  rw [State.closeCycle, State.core_modCore, State.endCycle_quiet_core (State.modCore_storesEnd_quiet hquiet hdue), State.core_modCore,
    Core.storesEnd_noneDue hdue]
  rfl

theorem State.closeCycle_quiet_outsideCores (hquiet : s.Quiet k) (hdue : (s.core k).NoneDue) :
    (s.closeCycle k).outsideCores = s.outsideCores := by
  rw [State.closeCycle, State.modCore_outsideCores, State.endCycle_quiet_outsideCores (State.modCore_storesEnd_quiet hquiet hdue),
    State.modCore_outsideCores]

end Sys2Proof.Machine

/-!
PROOF. Waits and the end of a task (O29).
-/

namespace Sys2Proof.Machine

variable {s t u : State} {k d : Nat} {h : WaitHold} {c : Core}

/-! ### WAIT and WAITD, R128, R129 -/

theorem getLsbD_and_not_twoPow {flags : BitVec 64} {i : Nat} : (flags &&& ~~~(BitVec.ofNat 64 (2 ^ i))).getLsbD i = false := by
  by_cases hi : i < 64
  · rw [BitVec.getLsbD_and, BitVec.getLsbD_not, BitVec.getLsbD_ofNat, Nat.testBit_two_pow_self]
    simp [hi]
  · exact BitVec.getLsbD_of_ge _ _ (Nat.not_lt.1 hi)

/-- A core whose hold is met issues again: the hold's event is taken, and the result flag of a WAITD clear. -/
def Core.resumed (c : Core) (h : WaitHold) : Core :=
  let c1 := { c.takeWait h.spec with run := .issuing, wait := none }
  if h.deadlineFlag.isSome then { c1 with flags := c1.flags &&& ~~~(BitVec.ofNat 64 (2 ^ h.resultFlag)) } else c1

theorem waitSatisfied_met (hwait : (s.core k).wait = some h) (hrun : (s.core k).run = .heldByWait) (hlate : h.late = false)
    (hmet : (s.core k).waitOf h.spec = true) : waitSatisfied k s = s.modCore k fun c => c.resumed h := by
  simp [waitSatisfied, hwait, hrun, hlate, hmet, Core.resumed]

theorem waitSatisfied_late (hwait : (s.core k).wait = some h) (hlate : h.late = true) : waitSatisfied k s = s := by
  simp [waitSatisfied, hwait, hlate]

theorem waitSatisfied_noWait (hwait : (s.core k).wait = none) : waitSatisfied k s = s := by
  simp [waitSatisfied, hwait]

theorem waitdDeadline_late (hwait : (s.core k).wait = some h) (hrun : (s.core k).run = .heldByWait) (hlate : h.late = true) :
    waitdDeadline k s = s.modCore k fun c => Core.setFlag { c with run := .issuing, wait := none } h.resultFlag s.now := by
  simp [waitdDeadline, hwait, hrun, hlate]

theorem waitdDeadline_early (hwait : (s.core k).wait = some h) (hlate : h.late = false) : waitdDeadline k s = s := by
  simp [waitdDeadline, hwait, hlate]

theorem waitdDeadline_noWait (hwait : (s.core k).wait = none) : waitdDeadline k s = s := by
  simp [waitdDeadline, hwait]

/-- R129: the tick in which the flag of a WAITD was set ends it where its condition is still unmet. -/
theorem Core.tick_wait {now : Nat} (hwait : c.wait = some h) (hflag : h.deadlineFlag = some d) : (c.tick now).wait =
    some (if tget 0 c.flagAt d = now + 1 ∧ c.waitOf h.spec = false then { h with late := true } else h) := by
  have hkept : (c.keepTick now).wait = some h := hwait
  have hat : tget 0 (c.keepTick now).flagAt d = tget 0 c.flagAt d := rfl
  have hmet : (c.keepTick now).waitOf h.spec = c.waitOf h.spec := rfl
  simp only [Core.tick, hkept, hflag, hat, hmet, Bool.and_eq_true, decide_eq_true_eq, Bool.not_eq_true']
  split_ifs
  · rfl
  · exact hkept

/-! ### The rows on a core of the module -/

theorem runs_onCore {r : Result} (hk : k < 256) (h : t = u) : (if k < 256 then Host.Outcome.next t else r) = .next u := by
  rw [if_pos hk, h]

/-! ### The end of a task, R130, R142 -/

theorem Core.applyDue_empty (hpend : c.pend = []) {n : Nat} : c.applyDue n = c := by
  simp only [Core.applyDue, hpend, List.filter_nil, sortBy, List.foldl_nil, List.length_nil, List.range_zero, List.zip_nil_right]
  rw [← hpend]

/-- A core without results and stores on their way begins its cycle as it is. -/
theorem State.cycleStart_idle_core (hpend : (s.core k).pend = []) (hstores : (s.core k).stores = []) :
    (s.cycleStart k).core k = s.core k := by
  simp only [State.cycleStart, State.core_modCore, Core.applyDue_empty hpend, hstores, List.filter_nil, List.foldl_nil]
  rw [← hstores]

@[simp] theorem State.cycleStart_outsideCores : (s.cycleStart k).outsideCores = s.outsideCores := rfl

/-- R130: a task at its end of which nothing is queued, started, or on its way. -/
structure Core.Drained (c : Core) : Prop where
  ending : c.run = .ending
  notDone : c.done = false
  started : c.started = []
  queues : ∀ n ∈ [3, 4, 5, 6], c.queue n = []
  pend : c.pend = []
  stores : c.stores = []
  pads : c.padWrites = []
  unchecked : c.hcm = false

theorem State.hazardEvent_unchecked (hhcm : (s.core k).hcm = false) : s.hazardEvent k = s := by
  simp [State.hazardEvent, hhcm]

/-- The core cycle in which what is on its way at the end of a task takes its place; `last` is the last cycle in which any of it is due. -/
def State.drainCycle (s : State) (k last : Nat) : State :=
  ((State.cycleStart (s.modCore k fun c => { c with cycle := last }) k).modCore k Core.storesEnd).endCycle k

theorem Core.noneDue_of_noStores (hstores : c.stores = []) : c.NoneDue := by
  intro q hq
  simp [hstores] at hq

/-- With nothing on its way the cycle moves the counters alone. -/
theorem State.drainCycle_drained (hd : (s.core k).Drained) : (s.drainCycle k (s.core k).cycle).core k = (s.core k).endCycle ∧
    (s.drainCycle k (s.core k).cycle).outsideCores = s.outsideCores := by
  have hsame : (s.modCore k fun c => { c with cycle := (s.core k).cycle }).core k = s.core k := by rw [State.core_modCore]
  have hcore : (State.cycleStart (s.modCore k fun c => { c with cycle := (s.core k).cycle }) k).core k = s.core k := by
    rw [State.cycleStart_idle_core (by rw [hsame, hd.pend]) (by rw [hsame, hd.stores]), hsame]
  have hdue := Core.noneDue_of_noStores hd.stores
  have hquiet := State.modCore_storesEnd_quiet (by rw [State.Quiet, hcore, hd.pads]) (by rwa [hcore])
  constructor
  · rw [State.drainCycle, State.endCycle_quiet_core hquiet, State.core_modCore, hcore, Core.storesEnd_noneDue hdue]
  · rw [State.drainCycle, State.endCycle_quiet_outsideCores hquiet, State.modCore_outsideCores, State.cycleStart_outsideCores,
      State.modCore_outsideCores]

/-- The core of a drained task as TASK_END_DRAINED leaves it. -/
def Core.ended (c : Core) : Core := { c.endCycle with done := true, faultStatus := c.remoteStatus }

/-- The last core cycle in which anything on its way is due. -/
def Core.lastDue (c : Core) : Nat :=
  c.pend.foldl (fun m p => max m p.visibleAt) (c.stores.foldl (fun m p => max m p.visibleAt) c.cycle)

/-- R130: nothing of the core's task is queued or started. -/
def Core.isEmpty (c : Core) : Bool := c.qVec.isEmpty && c.qMat.isEmpty && c.qLd.isEmpty && c.qSt.isEmpty && c.started.isEmpty

theorem taskEndDrained_eq (h : (((s.core k).run = .ending || (s.core k).run = .failed) && (s.core k).isEmpty && !(s.core k).done) = true) :
    taskEndDrained k s = State.hazardEvent ((((s.beginCycle k).drainCycle k (s.core k).lastDue).modCore k fun x =>
      { x with cycle := (s.core k).cycle, done := true }).modCore k fun x => { x with faultStatus := x.taskStatus }) k :=
  if_pos h

theorem taskEndDrained_drained (hd : (s.core k).Drained) : (taskEndDrained k s).core k = (s.core k).ended ∧
    (taskEndDrained k s).outsideCores = (s.beginCycle k).outsideCores := by
  have hbegun : (s.beginCycle k).core k = s.core k := State.beginCycle_core
  obtain ⟨hcore, hrest⟩ := State.drainCycle_drained (hbegun.symm ▸ hd)
  obtain ⟨hending, hnotDone, hstarted, hqueues, hpend, hstores, -, hhcm⟩ := hd
  have hvec : (s.core k).qVec = [] := hqueues 3 (by simp)
  have hmat : (s.core k).qMat = [] := hqueues 4 (by simp)
  have hld : (s.core k).qLd = [] := hqueues 5 (by simp)
  have hst : (s.core k).qSt = [] := hqueues 6 (by simp)
  have hlast : (s.core k).lastDue = (s.core k).cycle := by rw [Core.lastDue, hpend, hstores]; rfl
  rw [hbegun] at hcore hrest
  rw [taskEndDrained_eq (by simp [Core.isEmpty, hending, hvec, hmat, hld, hst, hstarted, hnotDone]), hlast,
    State.hazardEvent_unchecked (by rw [State.core_modCore, State.core_modCore, hcore]; exact hhcm)]
  constructor
  · rw [State.core_modCore, State.core_modCore, hcore]
    simp [Core.taskStatus, Core.ended, Core.endCycle, hhcm, hending]
  · rw [State.modCore_outsideCores, State.modCore_outsideCores, hrest]

theorem taskEndDrained_started (hstarted : (s.core k).started ≠ []) : taskEndDrained k s = s.beginCycle k := by
  simp [taskEndDrained, hstarted]

/-! ### CORE_MODE, R150 -/

theorem coreModeWrite_idle {m : BitVec 2} (henabled : s.coreEnabled k = true) (happlied : s.bld.applied = true) (hidle : (s.core k).run = .idle) :
    coreModeWrite k m s = s.modCore k fun c => { c with mode := m } := by
  simp [coreModeWrite, henabled, happlied, hidle]

theorem coreModeWrite_refused_cores {m : BitVec 2} (h : (s.core k).run ≠ .idle ∨ s.bld.applied = false ∨ s.coreEnabled k = false) :
    (coreModeWrite k m s).cores = s.cores := by
  have hno : s.coreEnabled k = true → ¬ ((s.core k).run = .idle && s.bld.applied) = true := by
    intro henabled
    rcases h with h | h | h
    · simp [h]
    · simp [h]
    · simp [h] at henabled
  unfold coreModeWrite
  split_ifs with habsent hwrites
  · rfl
  · exact absurd hwrites (hno (by simpa using habsent))
  · exact State.event_cores

/-! ### The statement -/

/-- Settles O29: the equations of WAIT_SATISFIED and WAITD_DEADLINE by the hold, and those of the end of a task and of CORE_MODE. -/
theorem waitsAndTaskEnds : Obligations.WaitsAndTaskEnds := by
  unfold Obligations.WaitsAndTaskEnds
  refine ⟨?wait, ?waitd, ?late, ?early, ?tick, ?noWait, ?drained, ?started, ?mode, ?modeRefused⟩
  case wait =>
    intro s k h hk hwait hrun hflag hlate hmet
    refine ⟨_, runs_onCore hk (waitSatisfied_met hwait hrun hlate hmet), ?_, rfl⟩
    rw [State.core_modCore, Core.resumed, hflag]
    rfl
  case waitd =>
    intro s k d h hk hwait hrun hflag hlate hmet
    refine ⟨_, runs_onCore hk (waitSatisfied_met hwait hrun hlate hmet), ?_, ?_, rfl⟩
    · rw [State.core_modCore, Core.resumed, hflag]
      rfl
    · rw [State.core_modCore, Core.resumed, hflag]
      exact getLsbD_and_not_twoPow
  case late =>
    intro s k h hk hwait hrun hlate
    refine ⟨runs_onCore hk (waitSatisfied_late hwait hlate), _, runs_onCore hk (waitdDeadline_late hwait hrun hlate), ?_, rfl⟩
    rw [State.core_modCore]
  case early =>
    intro s k h hk hwait hlate
    exact runs_onCore hk (waitdDeadline_early hwait hlate)
  case tick =>
    intro c h d now hwait hflag
    exact Core.tick_wait hwait hflag
  case noWait =>
    intro s k hk hwait
    exact ⟨runs_onCore hk (waitSatisfied_noWait hwait), runs_onCore hk (waitdDeadline_noWait hwait)⟩
  case drained =>
    intro s u k hk hu hending hnotDone hstarted hqueues hpend hstores hquiet hhcm
    subst hu
    obtain ⟨hcore, hrest⟩ := taskEndDrained_drained ⟨hending, hnotDone, hstarted, hqueues, hpend, hstores, hquiet, hhcm⟩
    exact ⟨_, runs_onCore hk rfl, congrArg Core.done hcore, congrArg Core.faultStatus hcore, State.mem_of_outsideCores hrest,
      State.eq_of_outsideCores hrest⟩
  case started =>
    intro s k hk hstarted hbegun
    exact runs_onCore hk ((taskEndDrained_started hstarted).trans hbegun)
  case mode =>
    intro s k m hk henabled happlied hidle
    refine ⟨_, runs_onCore hk rfl, ?_, ?_⟩ <;> rw [coreModeWrite_idle henabled happlied hidle]
    · rw [State.core_modCore]
    · rfl
  case modeRefused =>
    intro s k m hk hrefused
    exact ⟨_, runs_onCore hk rfl, coreModeWrite_refused_cores hrefused⟩

end Sys2Proof.Machine

/-!
PROOF. The completion of a started instruction, and the grant of a credit window (O31). `State.unitStores` is what a completing
instruction writes: to a scratchpad with the writes of its core cycle (R138), else at once.
-/

namespace Sys2Proof.Machine

variable {s t u : State} {j k n p : Nat} {x : StartedInstr}

/-- A view of cores that a change of one keeps of it, it keeps of every core. -/
theorem State.core_modCore_view {β : Type} {view : Core → β} {f : Core → Core} (h : ∀ c, view (f c) = view c) :
    view ((s.modCore k f).core j) = view (s.core j) := by
  by_cases hj : j = k
  · rw [hj, State.core_modCore, h]
  · rw [State.core_modCore_ne hj]

/-! ### A unit's writes, R138 -/

section
variable {ws : List (Nat × List Byte)}

/-- The writes of an instruction of a unit of core k. -/
def State.unitStores (s : State) (k unit : Nat) (ws : List (Nat × List Byte)) : State := ws.foldl (fun s w => s.unitStore k unit w) s

/-- Writes outside the scratchpads go to memory at once. -/
theorem State.unitStores_main (hmain : ∀ w ∈ ws, padCore w.1 w.2.length = none) : s.unitStores k n ws = s.storeAll ws := by
  induction ws generalizing s with
  | nil => rfl
  | cons w ws ih =>
    have hw : s.unitStore k n w = s.store w.1 w.2 := by rw [State.unitStore, hmain w List.mem_cons_self]
    rw [State.unitStores, List.foldl_cons, hw]
    exact ih fun v hv => hmain v (List.mem_cons_of_mem w hv)

theorem State.storeAll_mem : (s.storeAll ws).mem = s.mem.writeAll ws := by
  induction ws generalizing s with
  | nil => rfl
  | cons w ws ih => exact ih

/-- Writes to one scratchpad take their places among the writes of its cycle. -/
theorem State.unitStores_pad_core (hpad : ∀ w ∈ ws, padCore w.1 w.2.length = some p) : (s.unitStores k n ws).core p =
    { s.core p with padWrites := (s.core p).padWrites ++ ws.map fun w => ⟨writeRank p k n, w.1, w.2⟩ } := by
  induction ws generalizing s with
  | nil => simp [State.unitStores]
  | cons w ws ih =>
    have hw : s.unitStore k n w =
        s.modCore p fun c => { c with padWrites := c.padWrites ++ [{ rank := writeRank p k n, addr := w.1, bytes := w.2 }] } := by
      rw [State.unitStore, hpad w List.mem_cons_self]
    rw [State.unitStores, List.foldl_cons, hw]
    refine (ih fun v hv => hpad v (List.mem_cons_of_mem w hv)).trans ?_
    simp

theorem State.unitStores_pad_frame (hpad : ∀ w ∈ ws, padCore w.1 w.2.length = some p) :
    (s.unitStores k n ws).mem = s.mem ∧ ∀ j, j ≠ p → (s.unitStores k n ws).core j = s.core j := by
  refine List.foldlRecOn ws _ (motive := fun t : State => t.mem = s.mem ∧ ∀ j, j ≠ p → t.core j = s.core j) ⟨rfl, fun _ _ => rfl⟩
    fun t ht w hw => ?_
  rw [State.unitStore, hpad w hw]
  exact ⟨ht.1, fun j hj => (State.core_modCore_ne hj).trans (ht.2 j hj)⟩

end

/-! ### An instruction completes, R124, R149, R151 -/

/-- What an instruction signals as its core cycle ends. -/
def StartedInstr.signals (x : StartedInstr) (incs : Sparse (BitVec 48)) : Sparse (BitVec 48) :=
  match sigCounter (sigField x.unit x.bits.toNat) with | some j => bump incs j | none => incs

/-- A core whose instruction leaves it, with its signal. -/
def Core.completes (c : Core) (x : StartedInstr) : Core := { c with started := c.started.erase x, incs := x.signals c.incs }

/-- What an instruction's signal changes. -/
def State.signalled (s : State) (k : Nat) (x : StartedInstr) : State :=
  (sigCounter (sigField x.unit x.bits.toNat)).elim s (s.bumpCore k)

theorem State.signalled_core : (s.signalled k x).core k = { s.core k with incs := x.signals (s.core k).incs } := by
  unfold State.signalled StartedInstr.signals
  split <;> simp [State.bumpCore, *]

theorem State.signalled_core_ne (h : j ≠ k) : (s.signalled k x).core j = s.core j := by
  unfold State.signalled
  cases sigCounter (sigField x.unit x.bits.toNat) with
  | none => rfl
  | some i => exact State.core_modCore_ne h

/-- A view of cores that counts no increments is as before the signal. -/
theorem State.signalled_view {β : Type} {view : Core → β} (h : ∀ (c : Core) incs, view { c with incs } = view c) :
    view ((s.signalled k x).core j) = view (s.core j) := by
  unfold State.signalled
  cases sigCounter (sigField x.unit x.bits.toNat) with
  | none => rfl
  | some i => exact State.core_modCore_view fun c => h c _

theorem State.signalled_mem : (s.signalled k x).mem = s.mem := by
  unfold State.signalled
  cases sigCounter (sigField x.unit x.bits.toNat) <;> rfl

/-- The instruction as it leaves its core: its writes, and its signal. -/
def State.departed (s : State) (k : Nat) (x : StartedInstr) : State :=
  ((s.modCore k fun c => { c with started := c.started.erase x }).unitStores k x.unit x.writes).signalled k x

/-- Without an arrival and a grant nothing else happens. -/
theorem State.completeInstr_plain (harrival : x.arrival = none) (hcredit : x.credit = []) : s.completeInstr k x = s.departed k x := by
  simp only [State.completeInstr, harrival, hcredit, Option.elim_none, List.foldl_nil]
  rfl

theorem State.completeInstr_arrival {i w : Nat} (hwrites : x.writes = []) (harrival : x.arrival = some (p, i)) (hcredit : x.credit = [(p, w)]) :
    s.completeInstr k x = (((s.modCore k fun c => { c with started := c.started.erase x }).signalled k x).bumpCore p i).modWindow p w fun y =>
      { y with holder := 0, free := false, used := false } := by
  simp only [State.completeInstr, hwrites, harrival, hcredit, Option.elim_some, List.foldl_nil, List.foldl_cons]
  rfl

theorem State.departed_main (hmain : ∀ w ∈ x.writes, padCore w.1 w.2.length = none) : (s.departed k x).core k = (s.core k).completes x ∧
      (s.departed k x).mem = s.mem.writeAll x.writes ∧ ∀ j, j ≠ k → (s.departed k x).core j = s.core j := by
  rw [State.departed, State.unitStores_main hmain]
  refine ⟨?_, ?_, fun j hj => ?_⟩
  · rw [State.signalled_core, State.storeAll_core, State.core_modCore]
    rfl
  · rw [State.signalled_mem, State.storeAll_mem, State.modCore_mem]
  · rw [State.signalled_core_ne hj, State.storeAll_core, State.core_modCore_ne hj]

section
variable (hpad : ∀ w ∈ x.writes, padCore w.1 w.2.length = some p)
include hpad

theorem State.departed_pad_mem : (s.departed k x).mem = s.mem := by
  rw [State.departed, State.signalled_mem, (State.unitStores_pad_frame hpad).1, State.modCore_mem]

theorem State.departed_pad_core_ne (hjk : j ≠ k) (hjp : j ≠ p) : (s.departed k x).core j = s.core j := by
  rw [State.departed, State.signalled_core_ne hjk, (State.unitStores_pad_frame hpad).2 j hjp, State.core_modCore_ne hjk]

/-- A view of cores that neither the scratchpad's writes nor a signal shows. -/
theorem State.departed_pad_view {β : Type} {view : Core → β} (h : ∀ (c : Core) padWrites incs, view { c with padWrites, incs } = view c) :
    view ((s.departed k x).core j) = view ((s.modCore k fun c => { c with started := c.started.erase x }).core j) := by
  rw [State.departed, State.signalled_view fun c incs => h c c.padWrites incs]
  by_cases hj : j = p
  · rw [hj, State.unitStores_pad_core hpad]
    exact h _ _ _
  · rw [(State.unitStores_pad_frame hpad).2 j hj]

/-- The writes take their places behind those that the cycle has made to the scratchpad. -/
theorem State.departed_pad_padWrites : ((s.departed k x).core p).padWrites =
    (s.core p).padWrites ++ x.writes.map fun w => ⟨writeRank p k x.unit, w.1, w.2⟩ := by
  rw [State.departed, State.signalled_view (view := Core.padWrites) fun _ _ => rfl, State.unitStores_pad_core hpad]
  exact congrArg (· ++ _) (State.core_modCore_view (view := Core.padWrites) fun _ => rfl)

end

/-! ### LONG_INSTRUCTION_COMPLETE -/

/-- The array's account of an instruction: the cycles it advanced, those it stood frozen, and the causes of the last of them (R168, R169). -/
def Core.arrayAdvances (c : Core) (busy frozen cause : Nat) (drain : Bool) : Core :=
  { c with matBusy := c.matBusy + busy, matFrozen := c.matFrozen + frozen, matCause := if frozen = 0 then c.matCause else cause % 16
           matDrain := if frozen = 0 then c.matDrain else drain }

section
variable {o d : Bool} {f c : Nat}

theorem longInstructionComplete_ready (hfind : (s.core k).started.find? (fun x => x.unit == n) = some x) (hremote : x.remote = 0)
    (hwait : x.creditWait = false) : longInstructionComplete k n o f c d s =
      if n = 4 then (s.completeInstr k x).modCore k fun y => y.arrayAdvances (x.busy - if o && x.backToBack then 2 else 0) f c d
      else s.completeInstr k x := by
  simp only [longInstructionComplete, State.completeOldest, hfind, hremote, hwait, bne_self_eq_false, Bool.or_self, Bool.false_eq_true, if_false]
  rfl

/-- An instruction of another unit than the array leaves the array's account. -/
theorem longInstructionComplete_other (hn : n ≠ 4) (hfind : (s.core k).started.find? (fun x => x.unit == n) = some x)
    (hremote : x.remote = 0) (hwait : x.creditWait = false) : longInstructionComplete k n o f c d s = s.completeInstr k x := by
  rw [longInstructionComplete_ready hfind hremote hwait, if_neg hn]

theorem longInstructionComplete_waits (hfind : (s.core k).started.find? (fun x => x.unit == n) = some x)
    (hopen : x.remote ≠ 0 ∨ x.creditWait = true) : longInstructionComplete k n o f c d s = s := by
  have hwaits : (x.remote != 0 || x.creditWait) = true := by simpa using hopen
  simp only [longInstructionComplete, hfind, if_pos hwaits]

theorem longInstructionComplete_none (hfind : (s.core k).started.find? (fun x => x.unit == n) = none) :
    longInstructionComplete k n o f c d s = s := by
  simp only [longInstructionComplete, hfind]

theorem longInstructionComplete_core_ne (hj : j ≠ k) (hfind : (s.core k).started.find? (fun x => x.unit == n) = some x)
    (hremote : x.remote = 0) (hwait : x.creditWait = false) :
    (longInstructionComplete k n o f c d s).core j = (s.completeInstr k x).core j ∧
      (longInstructionComplete k n o f c d s).mem = (s.completeInstr k x).mem := by
  rw [longInstructionComplete_ready hfind hremote hwait]
  by_cases hn : n = 4
  · rw [if_pos hn]
    exact ⟨State.core_modCore_ne hj, rfl⟩
  · rw [if_neg hn]
    exact ⟨rfl, rfl⟩

end

theorem StartedInstr.unit_of_find {l : List StartedInstr} (hfind : l.find? (fun x => x.unit == n) = some x) : x.unit = n := by
  simpa using List.find?_some hfind

/-! ### CREDIT_GRANT, R151 -/

section
variable {α : Type} {le : α → α → Bool}

theorem mem_insertBy_iff {y z : α} {l : List α} : z ∈ insertBy le y l ↔ z = y ∨ z ∈ l := by
  induction l with
  | nil => simp [insertBy]
  | cons w ws ih =>
    unfold insertBy
    split_ifs
    · rw [List.mem_cons, ih, List.mem_cons]
      tauto
    · exact List.mem_cons

/-- Insertion by a transitive and total order keeps a list in that order. -/
theorem insertBy_pairwise (htrans : ∀ a b c, le a b = true → le b c = true → le a c = true) (htotal : ∀ a b, le a b = true ∨ le b a = true)
    {y : α} {l : List α} (hl : l.Pairwise fun a b => le a b = true) : (insertBy le y l).Pairwise fun a b => le a b = true := by
  induction l with
  | nil => simp [insertBy]
  | cons w ws ih =>
    obtain ⟨hw, hws⟩ := List.pairwise_cons.1 hl
    unfold insertBy
    split_ifs with hle
    · refine List.pairwise_cons.2 ⟨fun z hz => ?_, ih hws⟩
      rcases mem_insertBy_iff.1 hz with rfl | hz
      · exact hle
      · exact hw z hz
    · have hyw : le y w = true := (htotal y w).resolve_right hle
      refine List.pairwise_cons.2 ⟨fun z hz => ?_, hl⟩
      rcases List.mem_cons.1 hz with rfl | hz
      · exact hyw
      · exact htrans _ _ _ hyw (hw z hz)

theorem mem_sortBy_iff {z : α} {l : List α} : z ∈ sortBy le l ↔ z ∈ l := by
  have hfold : ∀ acc : List α, z ∈ l.foldl (fun acc x => insertBy le x acc) acc ↔ z ∈ acc ∨ z ∈ l := by
    induction l with
    | nil => simp
    | cons w ws ih =>
      intro acc
      rw [List.foldl_cons, ih, mem_insertBy_iff, List.mem_cons]
      tauto
  exact (hfold []).trans (by simp)

theorem sortBy_pairwise (htrans : ∀ a b c, le a b = true → le b c = true → le a c = true) (htotal : ∀ a b, le a b = true ∨ le b a = true)
    (l : List α) : (sortBy le l).Pairwise fun a b => le a b = true :=
  List.foldlRecOn l _ (motive := fun acc : List α => acc.Pairwise fun a b => le a b = true) List.Pairwise.nil fun _ hacc _ _ =>
    insertBy_pairwise htrans htotal hacc

/-- The head of a sorted list is at or before each of its elements. -/
theorem sortBy_head_le (htrans : ∀ a b c, le a b = true → le b c = true → le a c = true) (htotal : ∀ a b, le a b = true ∨ le b a = true)
    {l : List α} {y z : α} (hhead : (sortBy le l).head? = some y) (hz : z ∈ l) : le y z = true := by
  obtain ⟨ws, hws⟩ := List.head?_eq_some_iff.1 hhead
  have hsorted := sortBy_pairwise htrans htotal l
  have hmem := mem_sortBy_iff (le := le).2 hz
  rw [hws] at hsorted hmem
  rcases List.mem_cons.1 hmem with rfl | hmem
  · exact (htotal z z).elim id id
  · exact (List.pairwise_cons.1 hsorted).1 z hmem

end

/-- R151: the order of the requests for a window: by cycle, then north, south, west, east. -/
def CreditReq.before (a b : CreditReq) : Bool := decide (a.clock < b.clock) || (a.clock == b.clock && decide (a.dir ≤ b.dir))

theorem CreditReq.before_iff {a b : CreditReq} : a.before b = true ↔ a.clock < b.clock ∨ (a.clock = b.clock ∧ a.dir ≤ b.dir) := by
  simp [CreditReq.before]

theorem Core.nextCredit_first {c : Core} {w : Nat} {r q : CreditReq} (hnext : c.nextCredit w = some r) (hq : q ∈ c.creditReqs)
    (hwindow : q.window = w) (hearlier : q.clock < c.clock) :
    r ∈ c.creditReqs ∧ r.window = w ∧ r.clock < c.clock ∧ (r.clock < q.clock ∨ (r.clock = q.clock ∧ r.dir ≤ q.dir)) := by
  have hhead : (sortBy CreditReq.before (c.creditReqs.filter fun r => r.window == w && decide (r.clock < c.clock))).head? = some r := hnext
  have hr := mem_sortBy_iff.1 (List.mem_of_head? hhead)
  simp only [List.mem_filter, Bool.and_eq_true, beq_iff_eq, decide_eq_true_eq] at hr
  have hfirst : r.before q = true := by
    refine sortBy_head_le (fun a b c => ?_) (fun a b => ?_) hhead (List.mem_filter.2 ⟨hq, by simp [hwindow, hearlier]⟩)
    · simp only [CreditReq.before_iff]
      omega
    · simp only [CreditReq.before_iff]
      omega
  exact ⟨hr.1, hr.2.1, hr.2.2, CreditReq.before_iff.1 hfirst⟩

/-- A request's instruction that waits for its grant no longer does. -/
def Core.granted (c : Core) (r : CreditReq) : Core :=
  { c with started := c.started.map fun i => if i.id == r.instr && i.creditWait then { i with creditWait := false } else i }

/-- An owner's window goes to a request. -/
def Core.grants (c : Core) (w : Nat) (r : CreditReq) : Core :=
  { c with creditReqs := c.creditReqs.erase r, crw := tmod {} c.crw w fun y => { y with holder := r.dir, used := false } }

theorem creditGrant_grants {w : Nat} {r : CreditReq} (hopen : (s.window k w).en = true) (hholder : (s.window k w).holder = 0)
    (hfree : (s.window k w).free = true) (hnext : (s.core k).nextCredit w = some r) :
    creditGrant k w s = (s.modCore k fun c => c.grants w r).modCore r.core fun c => c.granted r := by
  simp only [creditGrant, hopen, hholder, hfree, hnext, decide_true, Bool.and_self, if_true]
  rfl

theorem creditGrant_none {w : Nat} (h : (s.window k w).holder ≠ 0 ∨ (s.core k).nextCredit w = none) : creditGrant k w s = s := by
  simp only [creditGrant]
  split_ifs with hgrantable
  · simp only [Bool.and_eq_true, decide_eq_true_eq] at hgrantable
    rw [h.resolve_left fun hheld => hheld hgrantable.1.2]
  · rfl

theorem Core.granted_no_wait {c : Core} {r : CreditReq} {i : StartedInstr} (hi : i ∈ (c.granted r).started) (hid : i.id = r.instr) :
    i.creditWait = false := by
  obtain ⟨y, -, rfl⟩ := List.mem_map.1 hi
  split_ifs at hid ⊢ with hwaits
  · rfl
  · simpa [hid] using hwaits

theorem execCreditGrant_eq {w : Nat} (hk : k < 256) (hw : w < 8) : exec (.creditGrant k w) s = .next (creditGrant k w s) := by
  have hrow : exec (.creditGrant k w) s = execCreditGrant k w s := rfl
  rw [hrow, execCreditGrant, if_neg (Nat.not_le.2 hk), if_neg (Nat.not_le.2 hw)]

/-! ### The statement -/

/-- Settles O31: each completion is `State.departed`, with its arrival and its grants; the head of a sorted list gives the order of R151. -/
theorem instructionsComplete : Obligations.InstructionsComplete := by
  unfold Obligations.InstructionsComplete
  refine ⟨?main, ?pad, ?arrival, ?array, ?waits, ?none, ?grant, ?first, ?noGrant⟩
  case main =>
    intro s k n f c o d x hk hfind hremote hwait harrival hcredit hn hmain
    refine ⟨_, runs_onCore hk rfl, ?_⟩
    rw [longInstructionComplete_other hn hfind hremote hwait, State.completeInstr_plain harrival hcredit]
    obtain ⟨hcore, hmem, hothers⟩ := State.departed_main (s := s) (k := k) hmain
    have hunit := StartedInstr.unit_of_find hfind
    subst hunit
    exact ⟨congrArg Core.started hcore, hmem, congrArg Core.incs hcore, hothers⟩
  case pad =>
    intro s k n p f c o d x hk hfind hremote hwait harrival hcredit hn hpad
    refine ⟨_, runs_onCore hk rfl, ?_⟩
    rw [longInstructionComplete_other hn hfind hremote hwait, State.completeInstr_plain harrival hcredit]
    have hunit := StartedInstr.unit_of_find hfind
    subst hunit
    refine ⟨?_, State.departed_pad_mem hpad, State.departed_pad_padWrites hpad, fun j hjk hjp => State.departed_pad_core_ne hpad hjk hjp⟩
    rw [State.departed_pad_view hpad (view := Core.started) fun _ _ _ => rfl, State.core_modCore]
  case arrival =>
    intro s k n p w i f c o d x hk hpk hfind hremote hwait hwrites harrival hcredit
    refine ⟨_, runs_onCore hk rfl, ?_⟩
    obtain ⟨hcore, hmem⟩ := longInstructionComplete_core_ne (o := o) (d := d) (f := f) (c := c) hpk hfind hremote hwait
    rw [State.window, hcore, hmem, State.completeInstr_arrival hwrites harrival hcredit]
    have hat : (((s.modCore k fun c => { c with started := c.started.erase x }).signalled k x)).core p = s.core p := by
      rw [State.signalled_core_ne hpk, State.core_modCore_ne hpk]
    refine ⟨?_, ?_, ?_, ?_⟩
    · simp [State.modWindow, State.bumpCore, State.signalled_mem]
    all_goals simp [State.modWindow, State.bumpCore, hat, State.window]
  case array =>
    intro s k f c o d x hk hfind hremote hwait harrival hcredit hf hpad
    refine ⟨_, runs_onCore hk rfl, ?_⟩
    rw [longInstructionComplete_ready hfind hremote hwait, if_pos rfl, State.completeInstr_plain harrival hcredit, State.core_modCore]
    have hunit := StartedInstr.unit_of_find hfind
    have hrank : writeRank k k x.unit = 1 := by rw [hunit]; simp [writeRank]
    have hview := State.departed_pad_view (s := s) (k := k) (j := k) hpad
      (view := fun c => (c.matBusy, c.matFrozen)) fun _ _ _ => rfl
    rw [State.core_modCore] at hview
    obtain ⟨hbusy, hfrozen⟩ := Prod.mk.inj hview
    refine ⟨State.departed_pad_mem hpad, ?_, congrArg (· + _) hbusy, congrArg (· + f) hfrozen, if_neg hf, if_neg hf⟩
    exact (State.departed_pad_padWrites hpad).trans (by rw [hrank])
  case waits =>
    intro s k n f c o d x hk hfind hopen
    exact runs_onCore hk (longInstructionComplete_waits hfind hopen)
  case none =>
    intro s k n f c o d hk hfind
    exact runs_onCore hk (longInstructionComplete_none hfind)
  case grant =>
    intro s k w r hk hw hopen hholder hfree hnext hr
    refine ⟨_, execCreditGrant_eq hk hw, ?_⟩
    rw [creditGrant_grants hopen hholder hfree hnext]
    have hcore : (((s.modCore k fun c => c.grants w r).modCore r.core fun c => c.granted r)).core k = (s.core k).grants w r := by
      rw [State.core_modCore_ne hr.symm, State.core_modCore]
    refine ⟨?_, congrArg Core.creditReqs hcore, fun i hi hid => ?_, rfl⟩
    · rw [State.window, hcore, Core.grants, tget_tmod_self]
    · rw [State.core_modCore] at hi
      exact Core.granted_no_wait hi hid
  case first =>
    intro c w r q hnext hq hwindow hearlier
    exact Core.nextCredit_first hnext hq hwindow hearlier
  case noGrant =>
    intro s k w hk hw h
    rw [execCreditGrant_eq hk hw, creditGrant_none h]

end Sys2Proof.Machine

/-!
PROOF. The issue of a bundle (O27, O28). A frame equation for each slot says which fields of the core it touches; `Core.slotsDone` is the
core once every slot has acted, ahead of the advance of issue (R132).
-/

namespace Sys2Proof.Machine

variable {s t u : State} {c r : Core} {j k w now b : Nat} {m : Memory} {x : Slots}

/-! ### What each slot touches -/

theorem Core.hazardAt_frame {kind file reg cycle : Nat} : c.hazardAt b kind file reg cycle =
    { c with hazard := (c.hazardAt b kind file reg cycle).hazard, hazardSeen := (c.hazardAt b kind file reg cycle).hazardSeen } := by
  unfold Core.hazardAt
  split_ifs <;> rfl

theorem Core.scalarOp_frame : c.scalarOp r w k now b = { c with
    pend := (c.scalarOp r w k now b).pend, stores := (c.scalarOp r w k now b).stores, inDelay := (c.scalarOp r w k now b).inDelay
    delay := (c.scalarOp r w k now b).delay, target := (c.scalarOp r w k now b).target, htLatch := (c.scalarOp r w k now b).htLatch } := by
  unfold Core.scalarOp Core.push
  dsimp only
  repeat' split
  all_goals rfl

theorem Core.vecOp_frame : c.vecOp r w b = { c with pend := (c.vecOp r w b).pend } := by
  unfold Core.vecOp Core.push
  dsimp only
  split_ifs <;> rfl

theorem Core.vecMem_frame : c.vecMem r m x k b = { c with pend := (c.vecMem r m x k b).pend, stores := (c.vecMem r m x k b).stores } := by
  unfold Core.vecMem Core.push
  dsimp only
  split_ifs <;> rfl

/-- A core but for what its synchronization slot touches: counters, targets, steps, flags, windows, and its hold. -/
def Core.offSync (c : Core) : Core :=
  { c with tgt := [], stp := [], cnt := [], incs := [], sets := 0, flagAt := [], flags := 0, crw := [], run := .idle, wait := none }

theorem Core.takeWait_offSync {spec : BitVec 10} : (c.takeWait spec).offSync = c.offSync := by
  unfold Core.takeWait
  split <;> rfl

theorem Core.syncOp_offSync : (c.syncOp w now).offSync = c.offSync := by
  unfold Core.syncOp
  dsimp only
  split
  case h_9 =>
    split_ifs
    · exact Core.takeWait_offSync
    · rfl
  case h_10 =>
    rw [apply_ite Core.offSync]
    exact (ite_congr rfl (fun _ => Core.takeWait_offSync) fun _ => rfl).trans (ite_self _)
  all_goals rfl

theorem Core.setQueue_frame {n : Nat} {q : List LongInstr} : c.setQueue n q = { c with
    qVec := (c.setQueue n q).qVec, qMat := (c.setQueue n q).qMat, qLd := (c.setQueue n q).qLd, qSt := (c.setQueue n q).qSt } := by
  unfold Core.setQueue
  split <;> rfl

/-! ### The slots of a bundle, one after another -/

/-- A core that takes up a bundle: a read of a result on its way is recorded (R141). -/
def Core.taken (r : Core) (x : Slots) : Core :=
  { (x.reads.find? fun q => r.earlyRead q.1 q.2).elim r fun q => r.hazardAt r.pc 0 q.1 q.2 r.cycle with run := .issuing, lastBundle := r.pc }

/-- The core with the results of its fixed-latency slots on their way. -/
def Core.results (r : Core) (m : Memory) (k now : Nat) (x : Slots) : Core :=
  (((r.taken x).scalarOp r x.scalar k now r.pc).vecOp r x.vec r.pc).vecMem r m x k r.pc

/-- A long-running instruction of bundle b, as it enters its queue. -/
def longOf (b : Nat) (l : Nat × Nat) : LongInstr := { unit := l.1, bits := BitVec.ofNat 96 l.2, bundle := b }

/-- R126: long-running instructions join their queues. -/
def Core.joinQueues (c : Core) (b : Nat) (ls : List (Nat × Nat)) : Core :=
  ls.foldl (fun c l => c.setQueue l.1 (c.queue l.1 ++ [longOf b l])) c

/-- The core once every slot has acted. -/
def Core.slotsDone (r : Core) (m : Memory) (k now : Nat) (x : Slots) : Core :=
  ((r.results m k now x).joinQueues r.pc x.long).syncOp x.sync now

theorem Core.issued_eq : r.issued m k now x = (r.slotsDone m k now x).advance := rfl

/-- A core but for what the slots of a bundle touch. -/
def Core.still (c : Core) : Core :=
  { c.offSync with pend := [], stores := [], inDelay := 0, delay := 0, target := 0, htLatch := 0, hazard := {}, hazardSeen := false
                   qVec := [], qMat := [], qLd := [], qSt := [] }

theorem Core.taken_frame : r.taken x = { r with run := .issuing, lastBundle := r.pc, hazard := (r.taken x).hazard
                                                hazardSeen := (r.taken x).hazardSeen } := by
  unfold Core.taken
  cases x.reads.find? fun q => r.earlyRead q.1 q.2 with
  | none => rfl
  | some q => exact congrArg (fun c : Core => { c with run := .issuing, lastBundle := r.pc }) Core.hazardAt_frame

theorem Core.joinQueues_frame {ls : List (Nat × Nat)} : c.joinQueues b ls = { c with
    qVec := (c.joinQueues b ls).qVec, qMat := (c.joinQueues b ls).qMat, qLd := (c.joinQueues b ls).qLd, qSt := (c.joinQueues b ls).qSt } := by
  have hkeeps : { c.joinQueues b ls with qVec := [], qMat := [], qLd := [], qSt := [] } = { c with qVec := [], qMat := [], qLd := [], qSt := [] } :=
    List.foldlRecOn ls _ (motive := fun d : Core => { d with qVec := [], qMat := [], qLd := [], qSt := [] } =
      { c with qVec := [], qMat := [], qLd := [], qSt := [] }) rfl fun d hd l _ =>
        (congrArg (fun d : Core => { d with qVec := [], qMat := [], qLd := [], qSt := [] }) Core.setQueue_frame).trans hd
  exact congrArg (fun d : Core => { d with
    qVec := (c.joinQueues b ls).qVec, qMat := (c.joinQueues b ls).qMat, qLd := (c.joinQueues b ls).qLd, qSt := (c.joinQueues b ls).qSt }) hkeeps

theorem Core.still_of_offSync {d : Core} (h : d.offSync = c.offSync) : d.still = c.still := by rw [Core.still, h, Core.still]

theorem Core.vecMem_still : (c.vecMem r m x k b).still = c.still := by rw [Core.vecMem_frame]; rfl
theorem Core.vecOp_still : (c.vecOp r w b).still = c.still := by rw [Core.vecOp_frame]; rfl
theorem Core.scalarOp_still : (c.scalarOp r w k now b).still = c.still := by rw [Core.scalarOp_frame]; rfl
theorem Core.joinQueues_still {ls : List (Nat × Nat)} : (c.joinQueues b ls).still = c.still := by rw [Core.joinQueues_frame]; rfl
theorem Core.taken_still : (r.taken x).still = { r with lastBundle := r.pc }.still := by rw [Core.taken_frame]; rfl

theorem Core.slotsDone_still : (r.slotsDone m k now x).still = { r with lastBundle := r.pc }.still := by
  rw [Core.slotsDone, Core.still_of_offSync Core.syncOp_offSync, Core.joinQueues_still, Core.results, Core.vecMem_still, Core.vecOp_still,
    Core.scalarOp_still, Core.taken_still]

/-- What the slots do not touch. -/
theorem Core.kept_of_still {d : Core} (h : d.still = c.still) :
    d.pc = c.pc ∧ d.lastBundle = c.lastBundle ∧ d.cycle = c.cycle ∧ d.clock = c.clock ∧ d.padWrites = c.padWrites :=
  ⟨(congrArg Core.pc h : d.still.pc = c.still.pc), (congrArg Core.lastBundle h : d.still.lastBundle = c.still.lastBundle),
    (congrArg Core.cycle h : d.still.cycle = c.still.cycle), (congrArg Core.clock h : d.still.clock = c.still.clock),
    (congrArg Core.padWrites h : d.still.padWrites = c.still.padWrites)⟩

/-! ### Branches, R132 -/

/-- Where issue goes: delay bundles left, delay bundles to come, and the target of a taken branch. -/
def Core.flow (c : Core) : Nat × Nat × Nat := (c.delay, c.inDelay, c.target)

theorem Core.flow_of_offSync {d : Core} (h : d.offSync = c.offSync) : d.flow = c.flow :=
  (congrArg Core.flow h : d.offSync.flow = c.offSync.flow)

theorem branchTaken_of_not_branch {op : Nat} {a a' : BitVec 32} {f : Bool} (h : isBranch op = false) : branchTaken op a a' f = none := by
  unfold branchTaken
  split
  case h_10 => rfl
  all_goals exact absurd h (by decide)

theorem scalarAlu_of_branch {op : Nat} {a a' imm : BitVec 32} {f t : Bool} (h : branchTaken op a a' f = some t) : scalarAlu op a a' imm = none := by
  unfold branchTaken at h
  split at h
  case h_10 => exact absurd h (by simp)
  all_goals rfl

/-- A scalar operation that is no branch leaves where issue goes. -/
theorem Core.scalarOp_flow (h : isBranch (field w 7 0) = false) : (c.scalarOp r w k now b).flow = c.flow := by
  unfold Core.scalarOp Core.push
  dsimp only
  simp only [branchTaken_of_not_branch h]
  repeat' split
  all_goals rfl

theorem Core.scalarOp_branch {t : Bool} (h : branchTaken (field w 7 0) (r.sreg (field w 17 13)) (r.sreg (field w 22 18))
    (r.flags.getLsbD (field (field w 63 32) 17 12)) = some t) : (c.scalarOp r w k now b).flow = (if t then 3 else 0, 3, field w 63 32 % 4096) := by
  simp only [Core.scalarOp, scalarAlu_of_branch h, h, Core.flow]

theorem Core.slotsDone_flow : (r.slotsDone m k now x).flow = ((r.taken x).scalarOp r x.scalar k now r.pc).flow := by
  have hqueues (c : Core) (ls : List (Nat × Nat)) : (c.joinQueues r.pc ls).flow = c.flow := by rw [Core.joinQueues_frame]; rfl
  have hmem (c : Core) : (c.vecMem r m x k r.pc).flow = c.flow := by rw [Core.vecMem_frame]; rfl
  have hvec (c : Core) : (c.vecOp r x.vec r.pc).flow = c.flow := by rw [Core.vecOp_frame]; rfl
  rw [Core.slotsDone, Core.flow_of_offSync Core.syncOp_offSync, hqueues, Core.results, hmem, hvec]

theorem Core.taken_flow : (r.taken x).flow = r.flow := by rw [Core.taken_frame]; rfl

theorem Core.advance_frame : c.advance = { c with pc := c.advance.pc, delay := c.advance.delay, inDelay := c.advance.inDelay } := by
  unfold Core.advance
  dsimp only
  split_ifs <;> rfl

theorem Core.advance_pc : c.advance.pc = if c.flow.1 = 1 then c.flow.2.2 else c.pc + 1 := by
  unfold Core.advance Core.flow
  dsimp only
  split_ifs <;> rfl

/-! ### Queues, R126 -/

theorem Core.queue_of_offSync {d : Core} {n : Nat} (h : d.offSync = c.offSync) : d.queue n = c.queue n :=
  (congrArg (fun c : Core => c.queue n) h : d.offSync.queue n = c.offSync.queue n)

theorem Core.queue_setQueue {n u : Nat} {q : List LongInstr} (hu : u ∈ [3, 4, 5, 6]) :
    (c.setQueue u q).queue n = if n = u then q else c.queue n := by
  simp only [List.mem_cons, List.not_mem_nil, or_false] at hu
  rcases hu with rfl | rfl | rfl | rfl
  all_goals
    unfold Core.queue
    split <;> simp_all [Core.setQueue]

theorem Core.joinQueues_queue {n : Nat} {ls : List (Nat × Nat)} (hls : ∀ l ∈ ls, l.1 ∈ [3, 4, 5, 6]) :
    (c.joinQueues b ls).queue n = c.queue n ++ (ls.filter fun l => l.1 == n).map (longOf b) := by
  induction ls generalizing c with
  | nil => simp [Core.joinQueues]
  | cons l ls ih =>
    refine (ih fun l' hl' => hls l' (List.mem_cons_of_mem l hl')).trans ?_
    rw [Core.queue_setQueue (hls l List.mem_cons_self)]
    by_cases hn : n = l.1
    · subst hn
      simp
    · simp [hn, Ne.symm hn]

theorem Slots.long_units {l : Nat × Nat} (h : l ∈ x.long) : l.1 ∈ [3, 4, 5, 6] := by
  simp only [Slots.long, List.mem_append, List.mem_ite_nil_right, List.mem_singleton] at h
  rcases h with ((⟨-, rfl⟩ | ⟨-, rfl⟩) | ⟨-, rfl⟩) | ⟨-, rfl⟩ <;> simp

theorem Core.slotsDone_queue {n : Nat} : (r.slotsDone m k now x).queue n = r.queue n ++ (x.long.filter fun l => l.1 == n).map (longOf r.pc) := by
  have hmem (c : Core) : (c.vecMem r m x k r.pc).queue n = c.queue n := by rw [Core.vecMem_frame]; rfl
  have hvec (c : Core) : (c.vecOp r x.vec r.pc).queue n = c.queue n := by rw [Core.vecOp_frame]; rfl
  have hscalar (c : Core) : (c.scalarOp r x.scalar k now r.pc).queue n = c.queue n := by rw [Core.scalarOp_frame]; rfl
  have htaken : (r.taken x).queue n = r.queue n := by rw [Core.taken_frame]; rfl
  rw [Core.slotsDone, Core.queue_of_offSync Core.syncOp_offSync, Core.joinQueues_queue fun l hl => Slots.long_units hl, Core.results, hmem, hvec,
    hscalar, htaken]

/-! ### Stores and results on their way -/

theorem Core.scalarOp_stores {q : PendingStore} (hq : q ∈ (c.scalarOp r w k now b).stores) : q ∈ c.stores ∨ q.dmem = true := by
  have hput (v : BitVec 32) (lat : Nat) : (if field w 12 8 = 0 then c
      else c.push 0 (field w 12 8) (BitVec.ofNat 2048 v.toNat) lat 2 b).stores = c.stores := by split_ifs <;> rfl
  unfold Core.scalarOp at hq
  dsimp only at hq
  split at hq
  · exact .inl (hput _ _ ▸ hq)
  split at hq
  · exact .inl hq
  split at hq
  · split at hq
    · exact .inl (hput _ _ ▸ hq)
    · rcases List.mem_append.1 hq with hq | hq
      · exact .inl hq
      · exact .inr (by rw [List.mem_singleton.1 hq])
  split at hq
  case h_6 => exact .inl hq
  all_goals exact .inl (hput _ _ ▸ hq)

theorem Core.vecMem_stores {q : PendingStore} (hq : q ∈ (c.vecMem r m x k b).stores) : q ∈ c.stores ∨ c.cycle + 1 < q.visibleAt := by
  have hload (v : BitVec 2048) : (if field x.ld 7 0 = 1 then c.push 1 (field x.ld 16 12) v 10 5 b else c).stores = c.stores ∧
      (if field x.ld 7 0 = 1 then c.push 1 (field x.ld 16 12) v 10 5 b else c).cycle = c.cycle := by split_ifs <;> exact ⟨rfl, rfl⟩
  unfold Core.vecMem at hq
  dsimp only at hq
  split at hq
  · rcases List.mem_append.1 hq with hq | hq
    · exact .inl ((hload _).1 ▸ hq)
    · rw [List.mem_singleton.1 hq, (hload _).2]
      exact .inr (Nat.lt_succ_self _)
  · exact .inl ((hload _).1 ▸ hq)

/-- The stores and the results on their way are those of the fixed-latency slots. -/
theorem Core.slotsDone_onTheWay : (r.slotsDone m k now x).stores = (r.results m k now x).stores ∧
    (r.slotsDone m k now x).pend = (r.results m k now x).pend := by
  have hsync {c d : Core} (h : d.offSync = c.offSync) : (d.stores, d.pend) = (c.stores, c.pend) :=
    (congrArg (fun c : Core => (c.stores, c.pend)) h : (d.offSync.stores, d.offSync.pend) = (c.offSync.stores, c.offSync.pend))
  have hqueues (c : Core) (ls : List (Nat × Nat)) : ((c.joinQueues r.pc ls).stores, (c.joinQueues r.pc ls).pend) = (c.stores, c.pend) := by
    rw [Core.joinQueues_frame]
  exact Prod.mk.inj ((hsync Core.syncOp_offSync).trans (hqueues _ _))

/-- What a bundle stores is not due before the core cycle after the next. -/
theorem Core.slotsDone_noneDue (h : r.NoneDue) : (r.slotsDone m k now x).NoneDue := by
  intro q hq
  rw [Core.slotsDone_onTheWay.1] at hq
  obtain ⟨-, -, hcycle, -⟩ := Core.kept_of_still (Core.slotsDone_still (r := r) (m := m) (k := k) (now := now) (x := x))
  rw [hcycle]
  rcases Core.vecMem_stores hq with hq | hq
  · rw [Core.vecOp_frame] at hq
    rcases Core.scalarOp_stores hq with hq | hq
    · rw [Core.taken_frame] at hq
      exact h q hq
    · exact .inl hq
  · have hstill : (((r.taken x).scalarOp r x.scalar k now r.pc).vecOp r x.vec r.pc).still = { r with lastBundle := r.pc }.still :=
      Core.vecOp_still.trans (Core.scalarOp_still.trans Core.taken_still)
    obtain ⟨-, -, hthen, -⟩ := Core.kept_of_still hstill
    exact .inr (hthen ▸ hq)

theorem Core.push_pend {file reg latency slot : Nat} {value : BitVec 2048} : (c.push file reg value latency slot b).pend = c.pend ++
    [{ file, reg, value, visibleAt := c.cycle + latency, slot, issued := c.cycle, bundle := b }] := rfl

/-- R131, R139: the result of a scalar operation is the only one on its way where the vector slot and LD.V have none. -/
theorem Core.slotsDone_pend_alu {v : BitVec 32} (hvec : field x.vec 7 0 = 0) (hld : field x.ld 7 0 ≠ 1)
    (halu : scalarAlu (field x.scalar 7 0) (r.sreg (field x.scalar 17 13)) (r.sreg (field x.scalar 22 18))
      (BitVec.ofNat 32 (field x.scalar 63 32)) = some v) (hrd : field x.scalar 12 8 ≠ 0) :
    (r.slotsDone m k now x).pend = r.pend ++ [{
      file := 0, reg := field x.scalar 12 8, value := BitVec.ofNat 2048 v.toNat
      visibleAt := r.cycle + (if field x.scalar 7 0 < 0x20 then 1 else 3), slot := 2, issued := r.cycle, bundle := r.pc }] := by
  have hnoVec (c : Core) : c.vecOp r x.vec r.pc = c := by simp [Core.vecOp, hvec]
  have hnoLd (c : Core) : (c.vecMem r m x k r.pc).pend = c.pend := by
    simp only [Core.vecMem, if_neg hld]
    split_ifs <;> rfl
  have htaken : ((r.taken x).pend, (r.taken x).cycle) = (r.pend, r.cycle) := by rw [Core.taken_frame]
  obtain ⟨hpend, hcycle⟩ := Prod.mk.inj htaken
  rw [Core.slotsDone_onTheWay.2, Core.results, hnoLd, hnoVec]
  simp only [Core.scalarOp, halu, if_neg hrd, Core.push_pend, hpend, hcycle]

/-! ### BUNDLE_ISSUE -/

/-- A task fails with the status, slot and bundle of its fault. -/
def Core.failed (c : Core) (status slot bundle detail : Nat) : Core :=
  { c with run := .failed, wait := none, qVec := [], qMat := [], qLd := [], qSt := []
           faultStatus := status, faultSlot := slot, faultBundle := bundle, faultDetail := detail }

theorem State.failTask_core {status slot bundle detail : Nat} (hidle : (s.core k).run ≠ .idle) (hfailed : (s.core k).run ≠ .failed) :
    (s.failTask k status slot bundle detail).core k = (s.core k).failed status slot bundle detail := by
  rw [State.failTask, State.core_modCore, if_neg (by simp [hidle, hfailed])]
  rfl

/-- What the core cycle of a core that runs a task does before it ends: an attempt to issue, where nothing holds issue. -/
def State.attempt (s : State) (k : Nat) : State :=
  if (s.core k).run = .issuing || (s.core k).run = .stalled then s.tryIssue k else s

theorem bundleIssue_idle {e : EccEvent} (hidle : (s.core k).run = .idle) : bundleIssue k e s = (s.beginCycle k).endCycle k := by
  rw [bundleIssue]
  exact if_pos ((congrArg Core.run State.beginCycle_core).trans hidle)

theorem bundleIssue_running {e : EccEvent} (hrun : (s.core k).run ≠ .idle) :
    bundleIssue k e s = ((((s.beginCycle k).cycleStart k).coreCycleEcc k e).attempt k).closeCycle k := by
  rw [bundleIssue]
  exact if_neg fun hidle => hrun ((congrArg Core.run State.beginCycle_core).symm.trans hidle)

theorem bundleIssue_issuing (hrun : (s.core k).run ≠ .idle) (hu : (s.beginCycle k).cycleStart k = u) (hissuing : (u.core k).run = .issuing) :
    bundleIssue k .none s = (u.tryIssue k).closeCycle k := by
  have hattempt : u.attempt k = u.tryIssue k := by simp [State.attempt, hissuing]
  rw [bundleIssue_running hrun, hu, State.coreCycleEcc, hattempt]

section
variable (hx : slotsOf (tget 0 (u.core k).imem (u.core k).pc) = x)
include hx

theorem State.tryIssue_reserved {slot : Nat} (hfmt : x.reservedFmt = some slot) :
    u.tryIssue k = u.failTask k stStructure slot (u.core k).pc 0 := by
  simp only [State.tryIssue, hx, hfmt]

theorem State.tryIssue_bad {slot : Nat} (hfmt : x.reservedFmt = none) (hbad : x.bad ((u.core k).inDelay != 0) = some slot) :
    u.tryIssue k = u.failTask k stBadOpcode slot (u.core k).pc 0 := by
  simp only [State.tryIssue, hx, hfmt, hbad]

theorem State.tryIssue_full (hfmt : x.reservedFmt = none) (hbad : x.bad ((u.core k).inDelay != 0) = none) (hroom : (u.core k).hasRoom x = false) :
    u.tryIssue k = u.modCore k fun c => { c with run := .stalled } := by
  simp only [State.tryIssue, hx, hfmt, hbad, hroom, Bool.not_false, if_true]

theorem State.tryIssue_passes (hfmt : x.reservedFmt = none) (hbad : x.bad ((u.core k).inDelay != 0) = none) (hroom : (u.core k).hasRoom x = true)
    (haddr : x.addrCheck (u.core k) = none) (hld : field x.ld 7 0 = 1 →
      u.hasBad (padBase + k * padSize + ((u.core k).sreg (field x.ld 21 17)).toNat + field x.ld 85 64) 256 = false) :
    u.tryIssue k = u.issue k x := by
  have hgood : ¬ (field x.ld 7 0 = 1 &&
      u.hasBad (padBase + k * padSize + ((u.core k).sreg (field x.ld 21 17)).toNat + field x.ld 85 64) 256) = true := by
    simp only [Bool.and_eq_true, decide_eq_true_eq, not_and, Bool.not_eq_true]
    exact hld
  simp only [State.tryIssue, hx, hfmt, hbad, hroom, haddr, Bool.not_true, Bool.false_eq_true, if_false, if_neg hgood]

end

/-- The core of a bundle that issues, ahead of what follows at the last bundle. -/
theorem State.issue_eq (hpc : ((u.core k).issued u.mem k u.now x).pc ≠ 4096) : u.issue k x = u.modCore k fun _ => (u.core k).issued u.mem k u.now x := by
  simp [State.issue, hpc]

/-- Whether or not issue passes the last bundle, the results on their way are those of the bundle. -/
theorem State.issue_pend : ((u.issue k x).core k).pend = ((u.core k).issued u.mem k u.now x).pend := by
  have hfail (t : State) (st slot bundle d : Nat) : ((t.failTask k st slot bundle d).core k).pend = (t.core k).pend := by
    rw [State.failTask, State.core_modCore]
    split_ifs <;> rfl
  simp only [State.issue]
  split_ifs
  · rw [hfail, State.core_modCore]
  · rw [State.core_modCore]

end Sys2Proof.Machine

/-!
PROOF. A core cycle with an attempt to issue (O27, O28): each outcome of the attempt puts one core in the place of another, and the cycle then
ends with that core's counters.
-/

namespace Sys2Proof.Machine

variable {s t u : State} {c q r : Core} {j k now : Nat} {m : Memory} {x : Slots}

/-! ### The core that a bundle leaves -/

/-- What the issue of a bundle leaves, and what it passes on to the end of its cycle. -/
theorem Core.issued_kept : (r.issued m k now x).lastBundle = r.pc ∧ (r.issued m k now x).cycle = r.cycle ∧
    (r.issued m k now x).clock = r.clock ∧ (r.issued m k now x).padWrites = r.padWrites := by
  obtain ⟨-, hlast, hcycle, hclock, hpads⟩ := Core.kept_of_still (Core.slotsDone_still (r := r) (m := m) (k := k) (now := now) (x := x))
  rw [Core.issued_eq, Core.advance_frame]
  exact ⟨hlast, hcycle, hclock, hpads⟩

theorem Core.issued_noneDue (h : r.NoneDue) : (r.issued m k now x).NoneDue := by
  rw [Core.issued_eq, Core.advance_frame]
  exact Core.slotsDone_noneDue h

theorem Core.issued_queue {n : Nat} : (r.issued m k now x).queue n = r.queue n ++ (x.long.filter fun l => l.1 == n).map (longOf r.pc) := by
  rw [Core.issued_eq, Core.advance_frame]
  exact Core.slotsDone_queue

theorem Core.issued_pend : (r.issued m k now x).pend = (r.slotsDone m k now x).pend := by
  rw [Core.issued_eq, Core.advance_frame]

theorem Core.issued_pc : (r.issued m k now x).pc = if (r.slotsDone m k now x).flow.1 = 1 then (r.slotsDone m k now x).flow.2.2 else r.pc + 1 := by
  obtain ⟨hpc, -⟩ := Core.kept_of_still (Core.slotsDone_still (r := r) (m := m) (k := k) (now := now) (x := x))
  rw [Core.issued_eq, Core.advance_pc, hpc]

/-- R132: without a branch issue goes on, or to the target of the branch taken before. -/
theorem Core.issued_pc_of_not_branch (h : isBranch (field x.scalar 7 0) = false) :
    (r.issued m k now x).pc = if r.delay = 1 then r.target else r.pc + 1 := by
  rw [Core.issued_pc, Core.slotsDone_flow, Core.scalarOp_flow h, Core.taken_flow]
  rfl

/-- R132: a branch issues two more bundles. -/
theorem Core.issued_branch {b : Bool} (h : branchTaken (field x.scalar 7 0) (r.sreg (field x.scalar 17 13)) (r.sreg (field x.scalar 22 18))
    (r.flags.getLsbD (field (field x.scalar 63 32) 17 12)) = some b) : (r.issued m k now x).pc = r.pc + 1 ∧
      (r.issued m k now x).flow = (if b then 2 else 0, 2, field x.scalar 63 32 % 4096) := by
  have hflow : (r.slotsDone m k now x).flow = (if b then 3 else 0, 3, field x.scalar 63 32 % 4096) := by
    rw [Core.slotsDone_flow, Core.scalarOp_branch h]
  have hnotLast : (r.slotsDone m k now x).flow.1 ≠ 1 := by
    rw [hflow]
    cases b <;> simp
  refine ⟨by rw [Core.issued_pc, if_neg hnotLast], ?_⟩
  obtain ⟨hdelay, hrest⟩ := Prod.mk.inj hflow
  obtain ⟨hin, htarget⟩ := Prod.mk.inj hrest
  have hd : (r.slotsDone m k now x).delay ≠ 1 := hnotLast
  rw [Core.issued_eq, Core.advance, if_neg hd]
  simp only [Core.flow, hdelay, hin, htarget]
  cases b <;> rfl

/-! ### The end of the cycle -/

/-- A change of one core by its own state. -/
theorem State.modCore_const {f : Core → Core} : u.modCore k f = u.modCore k fun _ => f (u.core k) := rfl

/-- A core cycle in which an attempt to issue has put a core in the place of another, and nothing is written to its scratchpad. -/
theorem bundleIssue_leaves (hrun : (s.core k).run ≠ .idle) (hu : (s.beginCycle k).cycleStart k = u) (hissuing : (u.core k).run = .issuing)
    (htry : u.tryIssue k = u.modCore k fun _ => q) (hquiet : q.padWrites = []) (hdue : q.NoneDue) :
    (bundleIssue k .none s).core k = { q.endCycle with cycle := q.cycle + 1 } ∧
      (∀ j, j ≠ k → (bundleIssue k .none s).core j = u.core j) ∧ (bundleIssue k .none s).outsideCores = u.outsideCores := by
  have hcore : (u.modCore k fun _ => q).core k = q := State.core_modCore
  have hquiet' : (u.modCore k fun _ => q).Quiet k := by rw [State.Quiet, hcore, hquiet]
  have hdue' : ((u.modCore k fun _ => q).core k).NoneDue := by rwa [hcore]
  rw [bundleIssue_issuing hrun hu hissuing, htry]
  refine ⟨?_, fun j hj => ?_, ?_⟩
  · rw [State.closeCycle_quiet_core hquiet' hdue', hcore]
  · rw [State.closeCycle_core_ne hj, State.core_modCore_ne hj]
  · rw [State.closeCycle_quiet_outsideCores hquiet' hdue', State.modCore_outsideCores]

theorem State.failTask_eq {status slot bundle detail : Nat} (hissuing : (u.core k).run = .issuing) :
    u.failTask k status slot bundle detail = u.modCore k fun _ => (u.core k).failed status slot bundle detail := by
  rw [State.failTask, State.modCore_const, if_neg (by simp [hissuing])]
  rfl

/-- R145: a bundle that fails a check as it would issue fails its task. -/
theorem bundleIssue_fails {status slot : Nat} (hrun : (s.core k).run ≠ .idle) (hu : (s.beginCycle k).cycleStart k = u)
    (hissuing : (u.core k).run = .issuing) (htry : u.tryIssue k = u.failTask k status slot (u.core k).pc 0) (hquiet : u.Quiet k)
    (hdue : (u.core k).NoneDue) : (bundleIssue k .none s).core k =
      { ((u.core k).failed status slot (u.core k).pc 0).endCycle with cycle := (u.core k).cycle + 1 } ∧
      (bundleIssue k .none s).outsideCores = u.outsideCores := by
  obtain ⟨hcore, -, hrest⟩ := bundleIssue_leaves hrun hu hissuing (htry.trans (State.failTask_eq hissuing)) hquiet hdue
  exact ⟨hcore, hrest⟩

/-! ### ECC in the core's stores, R145, R473 -/

section
variable {a b source store addr : Nat} {flag : Bool}

@[simp] theorem State.repairWritten_cores : (s.repairWritten a b).cores = s.cores := by simp [State.repairWritten]
@[simp] theorem State.repairExhausted_cores : (s.repairExhausted a).cores = s.cores := by simp [State.repairExhausted]

@[simp] theorem State.coreSpare_cores : (s.coreSpare a).cores = s.cores := by
  unfold State.coreSpare
  split_ifs <;> simp

@[simp] theorem State.coreEcc_cores : (s.coreEcc k).cores = s.cores := by
  unfold State.coreEcc
  dsimp only
  split_ifs <;> simp

@[simp] theorem State.markRow_cores : (s.markRow store addr flag).cores = s.cores := by
  unfold State.markRow
  dsimp only
  split_ifs <;> simp

@[simp] theorem State.eccUncorr_cores : (s.eccUncorr source store addr).cores = s.cores := by simp [State.eccUncorr]

end

theorem Core.writeDmem_run {a : Nat} {bs : List Byte} : (c.writeDmem a bs).run = c.run := by
  induction bs generalizing c a with
  | nil => rfl
  | cons b bs ih => exact ih

theorem Core.hazardAt_run {b kind file reg cycle : Nat} : (c.hazardAt b kind file reg cycle).run = c.run := by rw [Core.hazardAt_frame]

theorem Core.applyReg_run {p : PendingReg} {twice : Bool} : (c.applyReg p twice).run = c.run := by
  unfold Core.applyReg
  dsimp only
  split_ifs <;> simp [Core.hazardAt_run]

theorem Core.applyDue_run {n : Nat} : (c.applyDue n).run = c.run :=
  List.foldlRecOn _ _ (motive := fun d : Core => d.run = c.run) rfl fun _ hd _ _ => Core.applyReg_run.trans hd

/-- The begin of a core's cycle leaves its state of issue. -/
theorem State.cycleStart_run : ((s.cycleStart k).core k).run = (s.core k).run := by
  rw [State.cycleStart, State.core_modCore]
  exact List.foldlRecOn _ _ (motive := fun d : Core => d.run = (s.core k).run) Core.applyDue_run fun _ hd _ _ => Core.writeDmem_run.trans hd

theorem bundleIssue_uncorrectable {st a : Nat} (hrun : (s.core k).run ≠ .idle) (hu : (s.beginCycle k).cycleStart k = u)
    (hfailed : (u.core k).run ≠ .failed) (hread : ¬ (st = 5 || st = 6 || st = 8) = true) :
    ((bundleIssue k (.uncorrectable st a) s).core k).run = .failed ∧
      ((bundleIssue k (.uncorrectable st a) s).core k).faultStatus = stEccUncorr := by
  have hidle : (u.core k).run ≠ .idle := by
    rw [← hu, State.cycleStart_run, State.beginCycle_core]
    exact hrun
  have hecc : (u.coreCycleEcc k (.uncorrectable st a)).core k = (u.core k).failed stEccUncorr 0 (u.core k).pc 0 := by
    have hcores (v : State) (hv : v.cores = u.cores) : (v.failTask k stEccUncorr 0 (u.core k).pc 0).core k =
        (u.core k).failed stEccUncorr 0 (u.core k).pc 0 := by
      have hsame : v.core k = u.core k := State.core_of_cores hv
      rw [State.failTask_core (hsame ▸ hidle) (hsame ▸ hfailed), hsame]
    simp only [State.coreCycleEcc, if_neg hread]
    refine hcores _ ?_
    split_ifs <;> simp
  have hattempt : (u.coreCycleEcc k (.uncorrectable st a)).attempt k = u.coreCycleEcc k (.uncorrectable st a) := by
    rw [State.attempt, hecc]
    exact if_neg (by simp [Core.failed])
  rw [bundleIssue_running hrun, hu, hattempt, State.closeCycle_core, hecc]
  exact ⟨rfl, rfl⟩

/-! ### The statement -/

theorem State.eq_of_outsideCores_freeCount (h : t.outsideCores = u.outsideCores) : t = { u with cores := t.cores, freeCount := t.freeCount } :=
  (congrArg (fun y : State => { y with cores := t.cores, freeCount := t.freeCount }) h :
    { t.outsideCores with cores := t.cores, freeCount := t.freeCount } = { u with cores := t.cores, freeCount := t.freeCount })

/-- Settles O27: the bundle that issues by what its slots leave, the others by the core that their check puts in its place. -/
theorem bundlesIssue : Obligations.BundlesIssue := by
  unfold Obligations.BundlesIssue
  refine ⟨?issues, ?branch, ?bad, ?full, ?idle, ?reserved, ?ecc⟩
  case issues =>
    intro s u k x hk hrun hu hissuing hx hfmt hbad hroom haddr hbranch hpc htarget hquiet hdue hld
    obtain ⟨hlast, hcycle, hclock, hpads⟩ := Core.issued_kept (r := u.core k) (m := u.mem) (k := k) (now := u.now) (x := x)
    have hnext := Core.issued_pc_of_not_branch (r := u.core k) (m := u.mem) (k := k) (now := u.now) hbranch
    have hinside : ((u.core k).issued u.mem k u.now x).pc ≠ 4096 := by
      rw [hnext]
      split_ifs <;> omega
    obtain ⟨hcore, hothers, hrest⟩ := bundleIssue_leaves hrun hu hissuing
      ((State.tryIssue_passes hx hfmt hbad hroom haddr hld).trans (State.issue_eq hinside)) (hpads.trans hquiet) (Core.issued_noneDue hdue)
    refine ⟨_, runs_onCore hk rfl, ?_, ?_, ?_, ?_, fun n _ => ?_, hothers, State.mem_of_outsideCores hrest,
      State.eq_of_outsideCores_freeCount hrest⟩
    · rw [hcore]
      exact hnext
    · rw [hcore]
      exact hlast
    · rw [hcore, hcycle]
    · rw [hcore]
      exact congrArg (· + 1) hclock
    · rw [hcore]
      exact Core.issued_queue
  case branch =>
    intro s u k x b hk hrun hu hissuing hx hfmt hbad hroom haddr hld hdelay hbranch hpc hquiet hdue
    obtain ⟨-, -, -, hpads⟩ := Core.issued_kept (r := u.core k) (m := u.mem) (k := k) (now := u.now) (x := x)
    obtain ⟨hnext, hflow⟩ := Core.issued_branch (m := u.mem) (k := k) (now := u.now) hbranch
    obtain ⟨hd, hflow⟩ := Prod.mk.inj hflow
    obtain ⟨hin, htarget⟩ := Prod.mk.inj hflow
    obtain ⟨hcore, -, hrest⟩ := bundleIssue_leaves hrun hu hissuing
      ((State.tryIssue_passes hx hfmt hbad hroom haddr fun h => absurd h hld).trans (State.issue_eq (by omega))) (hpads.trans hquiet)
      (Core.issued_noneDue hdue)
    refine ⟨_, runs_onCore hk rfl, ?_⟩
    rw [hcore]
    exact ⟨hnext, hd, hin, htarget, State.mem_of_outsideCores hrest⟩
  case bad =>
    intro s u k slot x hk hrun hu hissuing hx hfmt hbad hquiet hdue
    obtain ⟨hcore, hrest⟩ := bundleIssue_fails hrun hu hissuing (State.tryIssue_bad hx hfmt hbad) hquiet hdue
    refine ⟨_, runs_onCore hk rfl, ?_⟩
    rw [hcore]
    exact ⟨rfl, rfl, rfl, rfl, rfl, State.mem_of_outsideCores hrest⟩
  case full =>
    intro s u k x hk hrun hu hissuing hx hfmt hbad hroom hquiet hdue
    obtain ⟨hcore, -, hrest⟩ := bundleIssue_leaves hrun hu hissuing
      ((State.tryIssue_full hx hfmt hbad hroom).trans State.modCore_const) hquiet hdue
    exact ⟨_, runs_onCore hk rfl, hcore, State.eq_of_outsideCores hrest⟩
  case idle =>
    intro s k e hk hidle
    exact runs_onCore hk (bundleIssue_idle hidle)
  case reserved =>
    intro s u k slot x hk hrun hu hissuing hx hfmt hquiet hdue
    obtain ⟨hcore, hrest⟩ := bundleIssue_fails hrun hu hissuing (State.tryIssue_reserved hx hfmt) hquiet hdue
    refine ⟨_, runs_onCore hk rfl, ?_⟩
    rw [hcore]
    exact ⟨rfl, rfl, rfl, rfl, State.mem_of_outsideCores hrest⟩
  case ecc =>
    intro s u k st a hk hrun hu hfailed h5 h6 h8
    exact ⟨_, runs_onCore hk rfl, bundleIssue_uncorrectable hrun hu hfailed (by simp [h5, h6, h8])⟩

end Sys2Proof.Machine

/-!
PROOF. Results in their registers, stores in the scratchpads, and the synchronization slot (O28).
-/

namespace Sys2Proof.Machine

variable {s t u : State} {c d : Core} {j k n p w now i : Nat} {x : Slots}

/-! ### A cycle in which issue is held -/

/-- While a WAIT holds issue the core's cycle begins and ends. -/
theorem bundleIssue_held (hheld : (s.core k).run = .heldByWait) :
    bundleIssue k .none s = ((s.beginCycle k).cycleStart k).closeCycle k := by
  have hrun : (((s.beginCycle k).cycleStart k).core k).run = .heldByWait := by
    rw [State.cycleStart_run, State.beginCycle_core, hheld]
  have hattempt : ((s.beginCycle k).cycleStart k).attempt k = (s.beginCycle k).cycleStart k := by simp [State.attempt, hrun]
  rw [bundleIssue_running (by simp [hheld]), State.coreCycleEcc, hattempt]

/-! ### A result in its register, R139, R140 -/

theorem Core.applyDue_early {q : PendingReg} (hpend : c.pend = [q]) (hearly : n < q.visibleAt) : c.applyDue n = c := by
  have hdue : c.pend.filter (fun q => decide (q.visibleAt ≤ n)) = [] := by simp [hpend, hearly]
  have hkept : c.pend.filter (fun q => decide (n < q.visibleAt)) = c.pend := by simp [hpend, hearly]
  simp only [Core.applyDue, hdue, hkept, sortBy, List.foldl_nil, List.length_nil, List.range_zero, List.zip_nil_right]

theorem Core.applyDue_single {q : PendingReg} (hpend : c.pend = [q]) (hdue : q.visibleAt ≤ n) :
    c.applyDue n = Core.applyReg { c with pend := [] } q false := by
  have hnow : c.pend.filter (fun q => decide (q.visibleAt ≤ n)) = [q] := by simp [hpend, hdue]
  have hrest : c.pend.filter (fun q => decide (n < q.visibleAt)) = [] := by simp [hpend, hdue]
  simp only [Core.applyDue, hnow, hrest]
  rfl

/-- R118, R139: a scalar result stands in its register; s0 stays zero. -/
theorem Core.applyReg_sreg {q : PendingReg} (hfile : q.file = 0) :
    (c.applyReg q false).sreg q.reg = if q.reg = 0 then 0 else BitVec.ofNat 32 q.value.toNat := by
  by_cases hreg : q.reg = 0
  · simp [Core.sreg, hreg]
  · simp [Core.applyReg, Core.sreg, hfile, hreg]

/-- A result that becomes visible touches registers and the account of hazards alone. -/
theorem Core.applyReg_kept {q : PendingReg} {twice : Bool} : (c.applyReg q twice).pend = c.pend ∧ (c.applyReg q twice).cycle = c.cycle ∧
    (c.applyReg q twice).padWrites = c.padWrites := by
  have hhazard (d : Core) (b kind file reg cycle : Nat) : (d.hazardAt b kind file reg cycle).pend = d.pend ∧
      (d.hazardAt b kind file reg cycle).cycle = d.cycle ∧ (d.hazardAt b kind file reg cycle).padWrites = d.padWrites := by
    rw [Core.hazardAt_frame]
    exact ⟨rfl, rfl, rfl⟩
  unfold Core.applyReg
  dsimp only
  split_ifs <;> simp [hhazard]

/-- The core as its cycle begins, without stores on their way. -/
theorem State.cycleStart_noStores (hstores : (s.core k).stores = []) :
    (s.cycleStart k).core k = { (s.core k).applyDue (s.core k).cycle with stores := [] } := by
  simp only [State.cycleStart, State.core_modCore, hstores, List.filter_nil, List.foldl_nil]

theorem bundleIssue_result {q : PendingReg} (hheld : (s.core k).run = .heldByWait) (hpend : (s.core k).pend = [q]) (hfile : q.file = 0)
    (hstores : (s.core k).stores = []) (hquiet : s.Quiet k) :
    ((bundleIssue k .none s).core k).cycle = (s.core k).cycle + 1 ∧ (bundleIssue k .none s).mem = (s.beginCycle k).mem ∧
      (q.visibleAt ≤ (s.core k).cycle → ((bundleIssue k .none s).core k).pend = [] ∧
        ((bundleIssue k .none s).core k).sreg q.reg = if q.reg = 0 then 0 else BitVec.ofNat 32 q.value.toNat) ∧
      ((s.core k).cycle < q.visibleAt → ((bundleIssue k .none s).core k).pend = [q] ∧
        ((bundleIssue k .none s).core k).sreg q.reg = (s.core k).sreg q.reg) := by
  have hbegun : (s.beginCycle k).core k = s.core k := State.beginCycle_core
  have hcore : ((s.beginCycle k).cycleStart k).core k = { (s.core k).applyDue (s.core k).cycle with stores := [] } := by
    rw [State.cycleStart_noStores (by rw [hbegun, hstores]), hbegun]
  have hkept : ((s.core k).applyDue (s.core k).cycle).cycle = (s.core k).cycle ∧ ((s.core k).applyDue (s.core k).cycle).padWrites = [] := by
    rcases Nat.lt_or_ge (s.core k).cycle q.visibleAt with hearly | hdue
    · rw [Core.applyDue_early hpend hearly]
      exact ⟨rfl, hquiet⟩
    · rw [Core.applyDue_single hpend hdue]
      exact ⟨Core.applyReg_kept.2.1, Core.applyReg_kept.2.2.trans hquiet⟩
  have hstill : ((s.beginCycle k).cycleStart k).Quiet k := by rw [State.Quiet, hcore]; exact hkept.2
  have hdue : (((s.beginCycle k).cycleStart k).core k).NoneDue := Core.noneDue_of_noStores (by rw [hcore])
  have hend : (bundleIssue k .none s).core k =
      { Core.endCycle { (s.core k).applyDue (s.core k).cycle with stores := [] } with cycle := (s.core k).cycle + 1 } := by
    rw [bundleIssue_held hheld, State.closeCycle_quiet_core hstill hdue, hcore]
    dsimp only
    rw [hkept.1]
  have hpends : ((bundleIssue k .none s).core k).pend = ((s.core k).applyDue (s.core k).cycle).pend := by
    rw [hend]
    rfl
  have hsreg : ((bundleIssue k .none s).core k).sreg q.reg = ((s.core k).applyDue (s.core k).cycle).sreg q.reg := by
    rw [hend]
    rfl
  rw [hpends, hsreg]
  refine ⟨by rw [hend], ?_, fun hvisible => ?_, fun hearly => ?_⟩
  · rw [bundleIssue_held hheld]
    exact State.mem_of_outsideCores ((State.closeCycle_quiet_outsideCores hstill hdue).trans State.cycleStart_outsideCores)
  · rw [Core.applyDue_single hpend hvisible]
    exact ⟨Core.applyReg_kept.1, Core.applyReg_sreg hfile⟩
  · rw [Core.applyDue_early hpend hearly]
    exact ⟨hpend, rfl⟩

/-! ### Writes of a core cycle, R137, R138 -/

/-- R138: a store's bytes are there in the core cycle after its latency. -/
theorem bundleIssue_store {a : Nat} {bs : List Byte} (hheld : (s.core k).run = .heldByWait) (hpend : (s.core k).pend = [])
    (hstores : (s.core k).stores = [{ dmem := false, addr := a, bytes := bs, visibleAt := n }]) (hdue : n ≤ (s.core k).cycle + 1)
    (hquiet : s.Quiet k) : (bundleIssue k .none s).mem = (s.beginCycle k).mem.write a bs ∧ ((bundleIssue k .none s).core k).stores = [] := by
  have hcore : ((s.beginCycle k).cycleStart k).core k = s.core k := by
    have hbegun : (s.beginCycle k).core k = s.core k := State.beginCycle_core
    simp only [State.cycleStart, State.core_modCore, hbegun, Core.applyDue_empty hpend, hstores]
    simp only [List.filter_cons, List.filter_nil, Bool.false_and, Bool.false_eq_true, if_false, List.foldl_nil, Bool.not_false,
      Bool.true_or, if_true]
    rw [← hstores]
  have hends : (s.core k).storesEnd = { s.core k with stores := [], padWrites := [{ rank := 3, addr := a, bytes := bs }] } := by
    simp [Core.storesEnd, hstores, hdue, hquiet]
  rw [bundleIssue_held hheld]
  constructor
  · rw [State.closeCycle, State.modCore_mem, State.endCycle_mem, State.flushPad_single_mem (a := { rank := 3, addr := a, bytes := bs })]
    · rw [State.modCore_mem, State.mem_of_outsideCores State.cycleStart_outsideCores]
    · rw [State.core_modCore, hcore, hends]
  · rw [State.closeCycle_core, hcore, hends]
    rfl

/-- A core without a task whose neighbours it wrote nothing into ends its cycle. -/
theorem bundleIssue_idle_unwritten {e : EccEvent} (hidle : (s.core k).run = .idle) (hnone : s.written k = []) :
    bundleIssue k e s = s.endCycle k := by
  rw [bundleIssue_idle hidle, State.beginCycle_eq, hnone]
  rfl

/-- What a core wrote into one neighbour's scratchpad is there as its cycle begins. -/
theorem bundleIssue_idle_neighbour {e : EccEvent} {a : PadWrite} (hidle : (s.core k).run = .idle) (hquiet : s.Quiet k)
    (hone : s.written k = [p]) (hp : p ≠ k) (hwrite : (s.core p).padWrites = [a]) :
    (bundleIssue k e s).mem = s.mem.write a.addr a.bytes ∧ ((bundleIssue k e s).core p).padWrites = [] := by
  have hbegun : s.beginCycle k = s.flushPad p := by
    rw [State.beginCycle_eq, hone]
    rfl
  have hstill : (s.flushPad p).Quiet k := by rw [State.Quiet, State.flushPad_core_ne hp.symm, hquiet]
  rw [bundleIssue_idle hidle, hbegun]
  constructor
  · rw [State.mem_of_outsideCores (State.endCycle_quiet_outsideCores hstill), State.flushPad_single_mem hwrite]
  · rw [State.endCycle_core_ne hp, State.flushPad_core]

/-! ### The synchronization slot, R128 -/

theorem field_lt {hi lo : Nat} : field w hi lo < 2 ^ (hi + 1 - lo) := Nat.mod_lt _ (Nat.two_pow_pos _)

section
variable {imm : BitVec 48} (hd : c.syncOp w now = d) (hi : field w 11 6 = i) (himm : BitVec.ofNat 48 (field w 63 16) = imm)
include hd hi himm

theorem Core.syncOp_counters :
    (field w 5 0 = 1 → tget 0 d.tgt i = imm ∧ d = { c with tgt := d.tgt }) ∧
    (field w 5 0 = 2 → tget 0 d.tgt i = tget 0 c.tgt i + imm ∧ d = { c with tgt := d.tgt }) ∧
    (field w 5 0 = 3 → tget 0 d.stp i = imm ∧ d = { c with stp := d.stp }) ∧
    (field w 5 0 = 4 → tget 0 d.cnt i = imm ∧ d = { c with cnt := d.cnt }) ∧
    (field w 5 0 = 5 → tget 0 d.incs i = tget 0 c.incs i + imm ∧ d = { c with incs := d.incs }) := by
  subst hd hi himm
  refine ⟨fun h => ?_, fun h => ?_, fun h => ?_, fun h => ?_, fun h => ?_⟩
  all_goals
    simp only [Core.syncOp, h]
    simp

theorem Core.syncOp_flags :
    (field w 5 0 = 8 → d.sets.getLsbD i = true ∧ d = { c with sets := d.sets, flagAt := d.flagAt }) ∧
    (field w 5 0 = 9 → d.flags.getLsbD i = false ∧ d = { c with flags := d.flags }) := by
  have hbit : i < 64 := hi ▸ field_lt
  subst hd hi
  refine ⟨fun h => ?_, fun h => ?_⟩
  · simp only [Core.syncOp, h, Core.setFlag, and_true]
    rw [BitVec.getLsbD_or, BitVec.getLsbD_ofNat, Nat.testBit_two_pow_self, decide_eq_true hbit, Bool.true_and, Bool.or_true]
  · simp only [Core.syncOp, h, and_true]
    exact getLsbD_and_not_twoPow

end

/-- R125: what the cycle adds to a counter and sets of the flags is there as it ends. -/
theorem Core.endCycle_single {v : BitVec 48} (hincs : c.incs = [(i, v)]) : tget 0 c.endCycle.cnt i = tget 0 c.cnt i + v := by
  simp [Core.endCycle, hincs]

/-! ### A result on its way, R125, R139 -/

/-- The end of a cycle leaves the results on their way. -/
theorem State.closeCycle_pend : ((s.closeCycle k).core k).pend = (s.core k).pend := by
  rw [State.closeCycle_core]
  rfl

/-- The result of the scalar slot stands among the pending ones when its bundle issued. -/
theorem bundleIssue_alu {v : BitVec 32} (hrun : (s.core k).run ≠ .idle) (hu : (s.beginCycle k).cycleStart k = u)
    (hissuing : (u.core k).run = .issuing) (hx : slotsOf (tget 0 (u.core k).imem (u.core k).pc) = x) (hfmt : x.reservedFmt = none)
    (hbad : x.bad ((u.core k).inDelay != 0) = none) (hroom : (u.core k).hasRoom x = true) (haddr : x.addrCheck (u.core k) = none)
    (hld : field x.ld 7 0 ≠ 1) (hvec : field x.vec 7 0 = 0)
    (halu : scalarAlu (field x.scalar 7 0) ((u.core k).sreg (field x.scalar 17 13)) ((u.core k).sreg (field x.scalar 22 18))
      (BitVec.ofNat 32 (field x.scalar 63 32)) = some v) (hrd : field x.scalar 12 8 ≠ 0) :
    ((bundleIssue k .none s).core k).pend = (u.core k).pend ++
      [{ file := 0, reg := field x.scalar 12 8, value := BitVec.ofNat 2048 v.toNat,
         visibleAt := (u.core k).cycle + (if field x.scalar 7 0 < 0x20 then 1 else 3), slot := 2, issued := (u.core k).cycle,
         bundle := (u.core k).pc }] := by
  rw [bundleIssue_issuing hrun hu hissuing, State.closeCycle_pend,
    State.tryIssue_passes hx hfmt hbad hroom haddr fun h => absurd h hld, State.issue_pend, Core.issued_pend]
  exact Core.slotsDone_pend_alu hvec hld halu hrd

/-! ### The statement -/

/-- Settles O28: the result of a scalar operation as its bundle issues and as it becomes visible, the writes of a cycle by their ranks, and
the equations of the synchronization slot. -/
theorem bundleResults : Obligations.BundleResults := by
  unfold Obligations.BundleResults
  refine ⟨?alu, ?visible, ?store, ?ranks, ?neighbour, ?sync, ?ends⟩
  case alu =>
    intro s u k x v hk hrun hu hissuing hx hfmt hbad hroom haddr hld hvec hpc halu hrd
    refine ⟨bundleIssue k .none s, runs_onCore hk rfl, ?_⟩
    exact bundleIssue_alu hrun hu hissuing hx hfmt hbad hroom haddr hld hvec halu hrd
  case visible =>
    intro s u k r n q hk hu hheld hpend hfile hreg hvisible hstores hquiet
    subst hu hreg hvisible
    refine ⟨bundleIssue k .none s, runs_onCore hk rfl, ?_⟩
    exact bundleIssue_result hheld hpend hfile hstores hquiet
  case store =>
    intro s u k a n bs hk hu hheld hpend hstores hdue hquiet
    subst hu
    refine ⟨bundleIssue k .none s, runs_onCore hk rfl, ?_⟩
    exact bundleIssue_store hheld hpend hstores hdue hquiet
  case ranks =>
    intro s k a b hk hidle hwrites hrank hnone
    refine ⟨s.endCycle k, runs_onCore hk (bundleIssue_idle_unwritten hidle hnone), ?_⟩
    exact State.flushPad_pair_mem hwrites hrank
  case neighbour =>
    intro s k p a hk hidle hquiet hone hp hwrite
    refine ⟨bundleIssue k .none s, runs_onCore hk rfl, ?_⟩
    exact bundleIssue_idle_neighbour hidle hquiet hone hp hwrite
  case sync =>
    intro c d w now i imm hd hi himm
    obtain ⟨harm, harmadd, hstep, hcset, hcinc⟩ := Core.syncOp_counters hd hi himm
    obtain ⟨hset, hclear⟩ := Core.syncOp_flags hd hi himm
    exact ⟨harm, harmadd, hstep, hcset, hcinc, hset, hclear⟩
  case ends =>
    intro c i v hincs
    exact ⟨Core.endCycle_single hincs, rfl, rfl⟩

end Sys2Proof.Machine

/-!
PROOF. How the head command of an engine starts, and what starts and ends of commands leave of the job slots (O34). `CommandBegun` is what
a start leaves; `JobSlot.accounted` and `JobSlot.signalled` are what an end makes of the slot of its job.
-/

namespace Sys2Proof.Machine

variable {s t u : State} {c h : Cmd} {e op i j k st d sub : Nat} {v : BitVec 48} {signals counts : Bool} {x : JobSlot}

/-! ### The start of a command, R414 -/

theorem State.slot_of_jobs (hjobs : t.jobs = s.jobs) : t.slot j = s.slot j := by rw [State.slot, State.slot, hjobs]

/-- What the start of a command leaves of the state. -/
structure CommandBegun (s u : State) (c : Cmd) : Prop where
  outside : u.outsideCommands = s.outsideCommands
  mem : u.mem = s.mem
  str : u.str = s.str
  cycle : u.engCycle = s.engCycle
  slot : ∃ tgt, u.slot c.job = { s.slot c.job with tgt }
  slot_ne : ∀ j, j ≠ c.job → u.slot j = s.slot j

/-- R122: a job slot whose target GE_ADV has advanced by its step. -/
def JobSlot.advanced (x : JobSlot) (k : Nat) : JobSlot := { x with tgt := tmod 0 x.tgt k (· + tget 0 x.stp k) }

/-- R122, R414: of the job slots, the start of a command changes the target that its wait advances. -/
theorem State.startCmd_jobs : (s.startCmd h).1.jobs =
    (if waitMode h.wait = 2 then s.setSlot h.job fun x => x.advanced (waitIdx h.wait) else s).jobs := by
  simp only [State.startCmd]
  split_ifs <;> rfl

theorem State.startCmd_begun : CommandBegun s (s.startCmd h).1 (s.startCmd h).2 where
  outside := by
    simp only [State.startCmd, State.claim_outsideCommands]
    split_ifs <;> rfl
  mem := State.startCmd_mem
  str := State.startCmd_str
  cycle := by rw [State.engCycle, State.engCycle, State.startCmd_boot]
  slot := by
    rw [State.slot_of_jobs State.startCmd_jobs]
    split_ifs
    · exact ⟨_, State.slot_setSlot⟩
    · exact ⟨(s.slot h.job).tgt, rfl⟩
  slot_ne := fun j hj => by
    rw [State.slot_of_jobs State.startCmd_jobs]
    split_ifs
    · exact State.slot_setSlot_ne hj
    · rfl

/-- The head command that starts: the queue's own, as its engine takes it. -/
theorem State.pick_of_begins (hbegins : s.begins e op = some (u, c)) :
    ∃ h, s.pick e = some h ∧ h.engine = e ∧ h.opcode = op ∧ s.argCheck h = none ∧ s.startCmd h = (u, c) := by
  simp only [State.begins] at hbegins
  split at hbegins
  next h hpick =>
    split_ifs at hbegins with hstarts
    obtain ⟨hengine, hopcode, hcheck⟩ := hstarts
    exact ⟨h, hpick, hengine, hopcode, hcheck, Option.some.inj hbegins⟩
  next => cases hbegins

theorem State.begun_of_begins (hbegins : s.begins e op = some (u, c)) : CommandBegun s u c := by
  obtain ⟨h, -, -, -, -, hstart⟩ := State.pick_of_begins hbegins
  have hbegun : CommandBegun s (s.startCmd h).1 (s.startCmd h).2 := State.startCmd_begun
  rwa [hstart] at hbegun

theorem State.engine_of_begins (hbegins : s.begins e op = some (u, c)) : c.engine = e := by
  obtain ⟨h, -, hengine, -, -, hstart⟩ := State.pick_of_begins hbegins
  rw [← hengine, ← show (s.startCmd h).2 = c by rw [hstart]]
  rfl

/-- A row of an engine runs on the command that begins. -/
theorem State.withHead_of_begins {body : State → Cmd → State} (hbegins : s.begins e op = some (u, c)) (hknown : knownOpcode e op = true) :
    s.withHead e op body = body u c := by
  obtain ⟨h, hpick, -, hopcode, hcheck, hstart⟩ := State.pick_of_begins hbegins
  simp [State.withHead, State.withHeadIf, hpick, hopcode, hknown, hcheck, hstart]

/-! ### The end of a command and its job's slot, R411, R437 -/

/-- A job slot in another run state. -/
def JobSlot.inState (x : JobSlot) (run : Nat) : JobSlot := { x with state := run }

/-- A job slot with the end of a command in its account. -/
def JobSlot.accounted (x : JobSlot) (st : Nat) : JobSlot := if st = 0 then x else { x with lastFail := st, fails := satAdd 32 x.fails 1 }

/-- A job slot that a counter's signal has reached in an engine cycle. -/
def JobSlot.signalled (x : JobSlot) (e : Nat) : Option Nat → JobSlot
  | some k => { x.inCycle e with incs := bump (x.inCycle e).incs k }
  | none => x

/-- R437: the counter that the end of a command signals; a record on its way to another device holds the signal back. -/
def State.signalOf (s : State) (c : Cmd) : Option Nat := if s.remoteCompl c then none else sigCounter c.signal

/-- The account that JOB_STAT shows. -/
def JobSlot.fault (x : JobSlot) : Nat × Nat := (x.lastFail, x.fails)

theorem JobSlot.inCycle_kept : (x.inCycle e).tgt = x.tgt ∧ (x.inCycle e).stp = x.stp ∧ (x.inCycle e).fault = x.fault := by
  unfold JobSlot.inCycle
  split_ifs <;> exact ⟨rfl, rfl, rfl⟩

theorem JobSlot.inCycle_cntAt : (x.inCycle e).cntAt = e := by
  unfold JobSlot.inCycle
  split_ifs with hat
  · exact hat
  · rfl

/-- Targets, steps, and the run state stand beside the counters of a cycle. -/
theorem JobSlot.inCycle_tgt {tgt : Sparse (BitVec 48)} : ({ x with tgt } : JobSlot).inCycle e = { x.inCycle e with tgt } := by
  unfold JobSlot.inCycle
  split_ifs <;> rfl

theorem JobSlot.inCycle_of_cntAt (hat : x.cntAt = e) : x.inCycle e = x := if_pos hat

section
variable {g : Option Nat}

theorem JobSlot.signalled_kept : (x.signalled e g).tgt = x.tgt ∧ (x.signalled e g).stp = x.stp ∧ (x.signalled e g).fault = x.fault := by
  cases g with
  | none => exact ⟨rfl, rfl, rfl⟩
  | some k => exact JobSlot.inCycle_kept

/-- R125: a signal leaves what its cycle sets, and adds to what it increments. -/
theorem JobSlot.signalled_of_cntAt (hat : x.cntAt = e) :
    x.signalled e g = { x with incs := match g with | some k => bump x.incs k | none => x.incs } := by
  cases g with
  | none => rfl
  | some k => rw [JobSlot.signalled, JobSlot.inCycle_of_cntAt hat]

end

theorem State.signal_slot {g : BitVec 8} : (s.signal j g).slot j = (s.slot j).signalled s.engCycle (sigCounter g) := by
  unfold State.signal
  split
  next k hk => rw [State.slot_setSlot, hk, JobSlot.signalled]
  next hk => rw [hk, JobSlot.signalled]

theorem State.signal_slot_ne {g : BitVec 8} (hj : j ≠ k) : (s.signal k g).slot j = s.slot j := by
  unfold State.signal
  split
  · exact State.slot_setSlot_ne hj
  · rfl

section
variable {record : List Byte}

theorem State.post_slot : (s.post c record).slot j = s.slot j := State.slot_of_jobs State.post_jobs

theorem State.finish_slot : (s.finish c record true).slot c.job = (s.slot c.job).signalled s.engCycle (s.signalOf c) := by
  unfold State.finish State.signalOf
  split_ifs
  · exact State.slot_of_jobs State.writeCompl_jobs
  · rw [State.conclude, if_pos rfl, State.post_slot, State.signal_slot, State.slot_of_jobs State.writeCompl_jobs, State.engCycle,
      State.writeCompl_boot, State.engCycle]

theorem State.conclude_slot_ne (hj : j ≠ c.job) : (s.conclude c record signals).slot j = s.slot j := by
  rw [State.conclude, State.post_slot]
  split_ifs
  · exact State.signal_slot_ne hj
  · rfl

theorem State.finish_slot_ne (hj : j ≠ c.job) : (s.finish c record signals).slot j = s.slot j := by
  unfold State.finish
  split_ifs
  · exact State.slot_of_jobs State.writeCompl_jobs
  · rw [State.conclude_slot_ne hj, State.slot_of_jobs State.writeCompl_jobs]

/-- The end of a command that waits for its record leaves the account of every job as it is. -/
theorem State.conclude_fault : ((s.conclude c record signals).slot j).fault = (s.slot j).fault := by
  rw [State.conclude, State.post_slot]
  split_ifs
  · by_cases hj : j = c.job
    · rw [hj, State.signal_slot]
      exact JobSlot.signalled_kept.2.2
    · rw [State.signal_slot_ne hj]
  · rfl

end

/-- R420: the last running command of a job under preemption settles its run state, and nothing else. -/
theorem State.settlePreempt_slot : ∃ run, (s.settlePreempt j).slot j = (s.slot j).inState run := by
  unfold State.settlePreempt
  split_ifs
  · exact ⟨3, State.slot_setSlot⟩
  · exact ⟨(s.slot j).state, rfl⟩

theorem State.settlePreempt_slot_ne (hj : j ≠ k) : (s.settlePreempt k).slot j = s.slot j := by
  unfold State.settlePreempt
  split_ifs
  · exact State.slot_setSlot_ne hj
  · rfl

theorem State.account_slot : (s.account c st).slot c.job = (s.slot c.job).accounted st := by
  unfold State.account JobSlot.accounted
  split_ifs
  · rfl
  · exact State.slot_setSlot

theorem State.account_slot_ne (hj : j ≠ c.job) : (s.account c st).slot j = s.slot j := by
  unfold State.account
  split_ifs
  · rfl
  · exact State.slot_setSlot_ne hj

/-- The trace, the registers and the counts of an end stand outside the job slots. -/
theorem State.ended_slot : ∃ run, (s.ended c st d true sub counts).slot c.job = ((s.slot c.job).inState run).accounted st := by
  simp only [State.ended, if_true, State.account_slot]
  rw [State.slot_of_jobs State.trace_jobs, State.slot_of_jobs State.absent_jobs, State.slot_of_jobs State.engineEnd_jobs]
  obtain ⟨run, hrun⟩ := State.settlePreempt_slot (j := c.job)
    (s := (if (counts && !(c.engine == 1 && c.opcode == 0x02)) = true then s.tallyEcc st else s).dropLive c)
  refine ⟨run, ?_⟩
  rw [hrun, State.slot_of_jobs State.dropLive_jobs]
  split_ifs
  · rw [State.slot_of_jobs State.tallyEcc_jobs]
  · rfl

theorem State.ended_slot_ne (hj : j ≠ c.job) : (s.ended c st d signals sub counts).slot j = s.slot j := by
  have htraced (y : State) : (((((y.dropLive c).settlePreempt c.job).engineEnd c st d sub).absent c st).trace c st).slot j = y.slot j := by
    rw [State.slot_of_jobs State.trace_jobs, State.slot_of_jobs State.absent_jobs, State.slot_of_jobs State.engineEnd_jobs,
      State.settlePreempt_slot_ne hj, State.slot_of_jobs State.dropLive_jobs]
  simp only [State.ended]
  split_ifs <;> simp [State.account_slot_ne hj, htraced, State.slot_of_jobs State.tallyEcc_jobs]

/-- What the end of a command makes of the slot of its job. -/
theorem State.complete_slot : ∃ run, (s.complete c st d true sub counts).slot c.job =
    (((s.slot c.job).inState run).accounted st).signalled s.engCycle (s.signalOf c) := by
  obtain ⟨run, hrun⟩ := State.ended_slot (s := s) (c := c) (st := st) (d := d) (sub := sub) (counts := counts)
  refine ⟨run, ?_⟩
  rw [State.complete_eq_finish, State.finish_slot, hrun, State.engCycle, State.ended_boot, State.engCycle, State.signalOf, State.signalOf,
    State.remoteCompl, State.remoteCompl, State.ended_ownAddr]

theorem State.complete_slot_ne (hj : j ≠ c.job) : (s.complete c st d signals sub counts).slot j = s.slot j := by
  rw [State.complete_eq_finish, State.finish_slot_ne hj, State.ended_slot_ne hj]

/-- R229: of the Strainer's registers the end of a command changes one count. -/
theorem State.complete_str : (s.complete c st d signals sub counts).str =
    { s.str with cntCmd := if c.engine = 2 then s.str.cntCmd + 1 else s.str.cntCmd } := by
  rw [State.complete_eq_finish, State.finish_str, State.ended_str]

/-- The status that the engine's registers show of a command that ends. -/
theorem State.complete_lastStatus : ((s.complete c st d signals sub counts).engRegs c.engine).lastStatus = st := by
  rw [State.complete_engRegs]
  split_ifs with hst
  · exact hst.symm
  · rfl

/-- A record on this device leaves the requests to others. -/
theorem State.complete_localFab (hlocal : s.remoteCompl c = false) : (s.complete c st d signals sub counts).fab = s.fab := by
  by_cases hcompl : c.compl.toNat = 0
  · exact State.complete_noCompl_fab hcompl
  have hown : s.ownAddr c.compl.toNat = true := by
    rw [State.remoteCompl, Cmd.compl_ne_zero hcompl, Bool.true_and, Bool.not_eq_false'] at hlocal
    exact hlocal
  cases htakes : s.takesRecord c with
  | true => exact (State.complete_stored hcompl hown htakes).2
  | false => exact (State.complete_unwritten hcompl hown htakes).2

end Sys2Proof.Machine

/-!
PROOF. The counters of jobs, context save, and JOB_CTL (O34): the commands of engine 0 by the start and the end of a command, and PREEMPT,
RESUME and KILL by what they do to the queues and to the running commands of their job.
-/

namespace Sys2Proof.Machine

variable {s t u : State} {c : Cmd} {e op i j k st d : Nat} {v n : BitVec 48} {x : JobSlot} {l : Live}

/-! ### Counter commands, R411 -/

section
variable {f : JobSlot → Nat → BitVec 48 → JobSlot}

/-- A counter command that names one of the counters changes the slot of its job, and ends. -/
theorem State.counterOp_passes (hbegins : s.begins 0 op = some (u, c)) (hknown : knownOpcode 0 op = true) (hcounter : c.counter = (i, v))
    (hi : i < 32) : s.counterOp op f = (u.setSlot c.job fun x => f (x.inCycle u.engCycle) i v).complete c 0 0 := by
  have hpasses : firstFail [need (decide (i < 32)) stBadOpcode 0] = none := by simp [firstFail, need, hi]
  simp only [State.counterOp, State.withHead_of_begins hbegins hknown, State.orFail, hcounter, hpasses]
  rfl

theorem State.counterOp_refuses (hbegins : s.begins 0 op = some (u, c)) (hknown : knownOpcode 0 op = true) (hi : 32 ≤ c.counter.1) :
    s.counterOp op f = u.complete c stBadOpcode 0 := by
  have hfails : firstFail [need (decide (c.counter.1 < 32)) stBadOpcode 0] = some (stBadOpcode, 0) := by
    simp [firstFail, need, Nat.not_lt.2 hi]
  simp only [State.counterOp, State.withHead_of_begins hbegins hknown, State.orFail, hfails]

/-- What every counter command leaves: the other slots, and all that no command touches. -/
structure CounterDone (s t : State) (c : Cmd) : Prop where
  slot_ne : ∀ j, j ≠ c.job → t.slot j = s.slot j
  status : (t.engRegs c.engine).lastStatus = 0
  only : OnlyCommands s t

/-- The end of a command of engine 0 leaves the state but for what commands touch. -/
theorem State.complete_only {signals counts : Bool} {sub : Nat} (hbegun : CommandBegun s u c) (hbegins : s.begins 0 op = some (u, c))
    (houtside : t.outsideCommands = u.outsideCommands) (hstr : t.str = u.str) : OnlyCommands s (t.complete c st d signals sub counts) := by
  refine onlyCommands_of_str (State.complete_outsideCommands.trans (houtside.trans hbegun.outside)) ?_
  rw [State.complete_str, State.engine_of_begins hbegins, if_neg (by decide), hstr, hbegun.str]

theorem State.counterOp_done (hbegins : s.begins 0 op = some (u, c)) (hknown : knownOpcode 0 op = true) (hcounter : c.counter = (i, v))
    (hi : i < 32) : CounterDone s (s.counterOp op f) c := by
  have hbegun := State.begun_of_begins hbegins
  rw [State.counterOp_passes hbegins hknown hcounter hi]
  exact {
    slot_ne := fun j hj => by rw [State.complete_slot_ne hj, State.slot_setSlot_ne hj, hbegun.slot_ne j hj]
    status := State.complete_lastStatus
    only := State.complete_only hbegun hbegins rfl rfl }

/-- The slot of its job after a counter command, the signal of its end included. -/
theorem State.counterOp_slot (hbegins : s.begins 0 op = some (u, c)) (hknown : knownOpcode 0 op = true) (hcounter : c.counter = (i, v))
    (hi : i < 32) : ∃ run, (s.counterOp op f).slot c.job =
      ((f ((u.slot c.job).inCycle s.engCycle) i v).inState run).signalled s.engCycle (u.signalOf c) := by
  have hbegun := State.begun_of_begins hbegins
  obtain ⟨run, hrun⟩ := State.complete_slot (s := u.setSlot c.job fun x => f (x.inCycle u.engCycle) i v) (c := c) (st := 0) (d := 0)
    (sub := 0) (counts := true)
  have hcycle : (u.setSlot c.job fun x => f (x.inCycle u.engCycle) i v).engCycle = s.engCycle := hbegun.cycle
  rw [State.slot_setSlot, hcycle, hbegun.cycle] at hrun
  exact ⟨run, by rw [State.counterOp_passes hbegins hknown hcounter hi, hbegun.cycle]; exact hrun⟩

/-- R125: the counters of the job's slot as the command starts, but for a target that its wait advanced. -/
theorem CommandBegun.inCycle_slot (hbegun : CommandBegun s u c) : ∃ tgt,
    (u.slot c.job).inCycle s.engCycle = { (s.slot c.job).inCycle s.engCycle with tgt } := by
  obtain ⟨tgt, htgt⟩ := hbegun.slot
  exact ⟨tgt, by rw [htgt, JobSlot.inCycle_tgt]⟩

end

/-- ARM: the target. -/
theorem jobArm_tgt (hbegins : s.begins 0 1 = some (u, c)) (hcounter : c.counter = (i, v)) (hi : i < 32) :
    ((jobArm s).slot c.job).tgt = tset 0 (u.slot c.job).tgt i v := by
  obtain ⟨run, hslot⟩ := State.counterOp_slot (f := fun x i v => { x with tgt := tset 0 x.tgt i v }) hbegins (by decide) hcounter hi
  rw [jobArm, hslot, JobSlot.signalled_kept.1]
  exact congrArg (fun tgt => tset 0 tgt i v) JobSlot.inCycle_kept.1

/-- ARMADD: the target. -/
theorem jobArmadd_tgt (hbegins : s.begins 0 2 = some (u, c)) (hcounter : c.counter = (i, v)) (hi : i < 32) :
    ((jobArmadd s).slot c.job).tgt = tmod 0 (u.slot c.job).tgt i (· + v) := by
  obtain ⟨run, hslot⟩ := State.counterOp_slot (f := fun x i v => { x with tgt := tmod 0 x.tgt i (· + v) }) hbegins (by decide) hcounter hi
  rw [jobArmadd, hslot, JobSlot.signalled_kept.1]
  exact congrArg (fun tgt => tmod 0 tgt i (· + v)) JobSlot.inCycle_kept.1

/-- STEP: the step, which no start of a command changes. -/
theorem jobStep_stp (hbegins : s.begins 0 3 = some (u, c)) (hcounter : c.counter = (i, v)) (hi : i < 32) :
    ((jobStep s).slot c.job).stp = tset 0 (s.slot c.job).stp i v := by
  obtain ⟨run, hslot⟩ := State.counterOp_slot (f := fun x i v => { x with stp := tset 0 x.stp i v }) hbegins (by decide) hcounter hi
  obtain ⟨tgt, htgt⟩ := (State.begun_of_begins hbegins).slot
  rw [jobStep, hslot, JobSlot.signalled_kept.2.1]
  refine congrArg (fun stp => tset 0 stp i v) (JobSlot.inCycle_kept.2.1.trans ?_)
  rw [htgt]

/-- CSET: what the cycle sets and what it increments. -/
theorem jobCset_slot (hbegins : s.begins 0 4 = some (u, c)) (hcounter : c.counter = (i, v)) (hi : i < 32)
    (hx : (s.slot c.job).inCycle s.engCycle = x) :
    ((jobCset s).slot c.job).csets = tset none x.csets i (some v) ∧
      ((jobCset s).slot c.job).incs = (match (if u.remoteCompl c then none else sigCounter c.signal) with
        | some k => bump x.incs k
        | none => x.incs) ∧
      ((jobCset s).slot c.job).cnt = x.cnt ∧ ((jobCset s).slot c.job).cntAt = s.engCycle := by
  obtain ⟨run, hslot⟩ := State.counterOp_slot (f := fun x i v => { x with csets := tset none x.csets i (some v) }) hbegins (by decide)
    hcounter hi
  obtain ⟨tgt, htgt⟩ := (State.begun_of_begins hbegins).inCycle_slot
  have hat : x.cntAt = s.engCycle := hx ▸ JobSlot.inCycle_cntAt
  rw [htgt, hx, JobSlot.signalled_of_cntAt (by exact hat)] at hslot
  rw [jobCset, hslot]
  exact ⟨rfl, rfl, rfl, hat⟩

/-- CINC: the same. -/
theorem jobCinc_slot (hbegins : s.begins 0 5 = some (u, c)) (hcounter : c.counter = (i, v)) (hi : i < 32)
    (hx : (s.slot c.job).inCycle s.engCycle = x) :
    ((jobCinc s).slot c.job).incs = (match (if u.remoteCompl c then none else sigCounter c.signal) with
        | some k => bump (tmod 0 x.incs i (· + v)) k
        | none => tmod 0 x.incs i (· + v)) ∧
      ((jobCinc s).slot c.job).csets = x.csets ∧ ((jobCinc s).slot c.job).cnt = x.cnt ∧
      ((jobCinc s).slot c.job).cntAt = s.engCycle := by
  obtain ⟨run, hslot⟩ := State.counterOp_slot (f := fun x i v => { x with incs := tmod 0 x.incs i (· + v) }) hbegins (by decide) hcounter hi
  obtain ⟨tgt, htgt⟩ := (State.begun_of_begins hbegins).inCycle_slot
  have hat : x.cntAt = s.engCycle := hx ▸ JobSlot.inCycle_cntAt
  rw [htgt, hx, JobSlot.signalled_of_cntAt (by exact hat)] at hslot
  rw [jobCinc, hslot]
  exact ⟨rfl, rfl, rfl, hat⟩

/-- An index of 32 or more: no target of the slot changes. -/
theorem jobCset_refused (hbegins : s.begins 0 4 = some (u, c)) (hi : 32 ≤ c.counter.1) :
    ((jobCset s).slot c.job).tgt = (u.slot c.job).tgt ∧ ((jobCset s).engRegs c.engine).lastStatus = stBadOpcode ∧
      OnlyCommands s (jobCset s) := by
  rw [jobCset, State.counterOp_refuses hbegins (by decide) hi]
  refine ⟨?_, State.complete_lastStatus, State.complete_only (State.begun_of_begins hbegins) hbegins rfl rfl⟩
  obtain ⟨run, hrun⟩ := State.complete_slot (s := u) (c := c) (st := stBadOpcode) (d := 0) (sub := 0) (counts := true)
  rw [hrun, JobSlot.signalled_kept.1]
  rfl

/-! ### Counters between cycles, R125 -/

/-- A cycle that sets one counter and adds to it: the value set comes first. -/
theorem JobSlot.after_single (hcsets : x.csets = [(i, some v)]) (hincs : x.incs = [(i, n)]) :
    x.after = tmod 0 (tset 0 x.cnt i v) i (· + n) := by simp [JobSlot.after, hcsets, hincs]

/-- A later cycle reads the counters with the changes of the cycle before in them. -/
theorem JobSlot.cntIn_later (hlater : x.cntAt ≠ e) : x.cntIn e = x.after ∧ (x.inCycle e).cnt = x.after := by
  rw [JobSlot.cntIn, JobSlot.inCycle, if_neg hlater, if_neg hlater]
  exact ⟨rfl, rfl⟩

theorem JobSlot.cntIn_single (hcsets : x.csets = [(i, some v)]) (hincs : x.incs = [(i, n)]) (hat : x.cntAt = e) :
    x.cntIn e = x.cnt ∧ tget 0 (x.cntIn (e + 1)) i = v + n ∧ (x.inCycle (e + 1)).cnt = x.cntIn (e + 1) ∧
      (∀ k, k ≠ i → tget 0 (x.cntIn (e + 1)) k = tget 0 x.cnt k) := by
  obtain ⟨hread, hcnt⟩ := JobSlot.cntIn_later (x := x) (e := e + 1) (by omega)
  rw [hread, hcnt, JobSlot.after_single hcsets hincs]
  refine ⟨if_pos hat, ?_, rfl, fun k hk => ?_⟩
  · rw [tget_tmod_self, tget_tset_self]
  · rw [tget_tmod_ne hk, tget_tset_ne hk]

/-! ### Context save, R421, R422 -/

section
variable {ranges : List (Nat × Nat)} {writes : List (Nat × List Byte)}

/-- The copies of a context end their command; beside its record memory has the bytes they write. -/
theorem copies_mem (hbegun : CommandBegun s u c) (ht : ((u.claim ranges).storeAll writes).complete c 0 0 = t) :
    (∀ a, c.spares a → t.mem.byte a = (u.storeAll writes).mem.byte a) ∧
      (∀ a, c.spares a → (∀ w ∈ writes, a < w.1 ∨ w.1 + w.2.length ≤ a) → t.mem.byte a = s.mem.byte a) := by
  subst ht
  have hcopied : ((u.claim ranges).storeAll writes).mem = (u.storeAll writes).mem := by rw [State.storeAll_mem, State.storeAll_mem]; rfl
  refine ⟨fun a ha => ?_, fun a ha hout => ?_⟩
  · rw [State.complete_spares ha, hcopied]
  · rw [State.complete_spares ha, hcopied, State.storeAll_byte_outside hout, hbegun.mem]

end

theorem save_copies (hbegins : s.begins 0 0x10 = some (u, c))
    (hpasses : firstFail (u.saveChecks c ++ [need ((u.saveList c).all fun e => !u.hasBad e.1 e.2) stEccUncorr 0]) = none) :
    save s = ((u.claim (u.switchRanges c)).storeAll (u.saveWrites c)).complete c 0 0 := by
  rw [save, State.withHead_of_begins hbegins (by decide), State.orFail, hpasses]
  rfl

theorem restore_copies (hbegins : s.begins 0 0x11 = some (u, c))
    (hpasses : firstFail (u.saveChecks c ++
      [need (((packed c.arg2 (u.saveList c)).zip (u.saveList c)).all fun x => !u.hasBad x.1 x.2.2) stEccUncorr 0]) = none) :
    restore s = ((u.claim (u.switchRanges c)).storeAll (u.restoreWrites c)).complete c 0 0 := by
  rw [restore, State.withHead_of_begins hbegins (by decide), State.orFail, hpasses]
  rfl

/-- A check that fails, fails whatever checks follow. -/
theorem firstFail_append {a b : List Check} {z : Nat × Nat} (hfails : firstFail a = some z) : firstFail (a ++ b) = some z := by
  rw [firstFail] at hfails
  rw [firstFail, List.findSome?_append, hfails]
  rfl

theorem save_fails (hbegins : s.begins 0 0x10 = some (u, c)) (hfails : firstFail (u.saveChecks c) = some (st, d)) :
    save s = u.complete c st d := by
  rw [save, State.withHead_of_begins hbegins (by decide), State.orFail, firstFail_append hfails]

/-! ### PREEMPT and RESUME, R420 -/

/-- The running commands of a job that PREEMPT and KILL stop. -/
def State.stoppable (s : State) (j : Nat) : List Cmd := (s.live.filter fun l => l.cmd.job == j && s.canStop l).map (·.cmd)

theorem State.stoppable_none (hnone : ∀ l ∈ s.live, l.cmd.job ≠ j) : s.stoppable j = [] := by
  rw [State.stoppable, List.map_eq_nil_iff, List.filter_eq_nil_iff]
  intro l hl
  simp [hnone l hl]

theorem State.stoppable_norestart (hlive : s.live = [l]) (hnorestart : l.restartable = false) : s.stoppable j = [] := by
  simp [State.stoppable, hlive, State.canStop, hnorestart]

/-- A restartable command of the Stir can be stopped. -/
theorem State.stoppable_stir (hlive : s.live = [l]) (hjob : l.cmd.job = j) (hengine : l.cmd.engine = 7) (hrestart : l.restartable = true) :
    s.stoppable j = [l.cmd] := by
  simp [State.stoppable, hlive, State.canStop, hrestart, hjob, hengine]

/-- The state with a job slot as its preemption begins. -/
def State.preempting (s : State) (j : Nat) : State := s.setSlot j fun x => { x with state := 2 }

theorem State.preemptJob_eq : s.preemptJob j = ((s.stoppable j).reverse.foldl State.requeue (s.preempting j)).settlePreempt j := rfl

/-- R420: with no running command left, the job is preempted. -/
theorem State.settlePreempt_settles (hstate : (s.slot j).state = 2) (hnone : ∀ l ∈ s.live, l.cmd.job ≠ j) :
    s.settlePreempt j = s.setSlot j fun x => { x with state := 3 } := by
  have hall : s.live.all (fun l => l.cmd.job != j) = true := by
    rw [List.all_eq_true]
    intro l hl
    simpa using hnone l hl
  rw [State.settlePreempt, hstate, hall]
  rfl

theorem State.settlePreempt_waits (hlive : l ∈ s.live) (hjob : l.cmd.job = j) : s.settlePreempt j = s := by
  have hall : s.live.all (fun l => l.cmd.job != j) = false := by
    rw [List.all_eq_false]
    exact ⟨l, hlive, by simp [hjob]⟩
  rw [State.settlePreempt, hall, Bool.and_false, if_neg Bool.false_ne_true]

theorem preempt_running (hstate : (s.slot j).state = 1) : preempt j s = s.preemptJob j := if_pos hstate

/-- PREEMPT of a job without running commands. -/
theorem preempt_still (hstate : (s.slot j).state = 1) (hnone : ∀ l ∈ s.live, l.cmd.job ≠ j) :
    ((preempt j s).slot j).state = 3 ∧ (∀ i, i ≠ j → (preempt j s).slot i = s.slot i) ∧ preempt j s = { s with jobs := (preempt j s).jobs } := by
  have hpreempt : preempt j s = (s.preempting j).setSlot j fun x => { x with state := 3 } := by
    rw [preempt_running hstate, State.preemptJob_eq, State.stoppable_none hnone]
    exact State.settlePreempt_settles (congrArg JobSlot.state State.slot_setSlot) hnone
  rw [hpreempt]
  refine ⟨congrArg JobSlot.state State.slot_setSlot, fun i hi => ?_, rfl⟩
  rw [State.slot_setSlot_ne hi, State.preempting, State.slot_setSlot_ne hi]

/-- PREEMPT waits for a running command that cannot be restarted. -/
theorem preempt_waits (hstate : (s.slot j).state = 1) (hlive : s.live = [l]) (hjob : l.cmd.job = j) (hnorestart : l.restartable = false) :
    preempt j s = s.preempting j := by
  rw [preempt_running hstate, State.preemptJob_eq, State.stoppable_norestart hlive hnorestart]
  have hlives : l ∈ (s.preempting j).live := by
    rw [State.preempting, State.setSlot_live, hlive]
    exact List.mem_singleton_self l
  exact State.settlePreempt_waits hlives hjob

/-- Without keys being loaded nothing waits for the end of a command. -/
theorem State.settleLoads_none (hloads : s.pfx.loads = []) : s.settleLoads = s := by
  rw [State.settleLoads, hloads]
  split_ifs
  · rfl
  · rw [List.foldl_nil, ← hloads]

/-- A raised pass value is all that changes. -/
theorem State.raisePass_frame : s.raisePass e j = { s with pass := (s.raisePass e j).pass } := by
  unfold State.raisePass
  dsimp only
  split <;> rfl

/-- A stopped command of the Stir, which holds nothing, goes back to the head of its queue. -/
theorem State.requeue_stir (hengine : c.engine = 7) (hloads : s.pfx.loads = []) :
    (s.requeue c).queue 7 c.job = { c with wait := 0 } :: s.queue 7 c.job ∧ (s.requeue c).live = (s.dropLive c).live ∧
      s.requeue c = { s with queues := (s.requeue c).queues, pass := (s.requeue c).pass, live := (s.requeue c).live } := by
  have hundo : s.undo c = s := by simp only [State.undo, hengine]
  have hqueue : ((s.dropLive c).raisePass 7 c.job).queue 7 c.job = s.queue 7 c.job := by
    rw [State.queue, State.raisePass_queues]
    rfl
  rw [State.requeue, hundo, State.settleLoads_none (s := s.dropLive c) hloads, hengine, hqueue, State.raisePass_frame]
  exact ⟨State.queue_setQueue, rfl, rfl⟩

/-- PREEMPT of a job whose one running command is restartable. -/
theorem preempt_requeues (hstate : (s.slot j).state = 1) (hlive : s.live = [l]) (hjob : l.cmd.job = j) (hengine : l.cmd.engine = 7)
    (hrestart : l.restartable = true) (hloads : s.pfx.loads = []) :
    ((preempt j s).slot j).state = 3 ∧ (preempt j s).queue 7 j = { l.cmd with wait := 0 } :: s.queue 7 j ∧ (preempt j s).live = [] ∧
      preempt j s = { s with jobs := (preempt j s).jobs, queues := (preempt j s).queues, pass := (preempt j s).pass
                             live := (preempt j s).live } := by
  subst hjob
  obtain ⟨hqueue, hkept, hframe⟩ := State.requeue_stir (s := s.preempting l.cmd.job) hengine hloads
  have hdropped : ((s.preempting l.cmd.job).requeue l.cmd).live = [] := by
    rw [hkept]
    simp [State.dropLive, State.preempting, hlive, Cmd.same]
  have hslot : (((s.preempting l.cmd.job).requeue l.cmd).slot l.cmd.job).state = 2 := by
    have hjobs : ((s.preempting l.cmd.job).requeue l.cmd).jobs = (s.preempting l.cmd.job).jobs := by rw [hframe]
    rw [State.slot_of_jobs hjobs]
    exact congrArg JobSlot.state State.slot_setSlot
  have hpreempt : preempt l.cmd.job s = ((s.preempting l.cmd.job).requeue l.cmd).setSlot l.cmd.job fun x => { x with state := 3 } := by
    rw [preempt_running hstate, State.preemptJob_eq, State.stoppable_stir hlive rfl hengine hrestart]
    refine State.settlePreempt_settles hslot fun m hm => ?_
    have hmember : m ∈ ((s.preempting l.cmd.job).requeue l.cmd).live := hm
    rw [hdropped] at hmember
    cases hmember
  rw [hpreempt]
  exact ⟨congrArg JobSlot.state State.slot_setSlot, hqueue, hdropped,
    congrArg (fun t : State => { t with jobs := (((s.preempting l.cmd.job).requeue l.cmd).setSlot l.cmd.job fun x => { x with state := 3 }).jobs }) hframe⟩

theorem resume_running (hstate : (s.slot j).state = 2 ∨ (s.slot j).state = 3) :
    ((resume j s).slot j).state = 1 ∧ resume j s = { s with jobs := (resume j s).jobs } := by
  have hresume : resume j s = s.setSlot j fun x => { x with state := 1 } := by
    rw [resume, if_pos (by simpa using hstate)]
  rw [hresume]
  exact ⟨congrArg JobSlot.state State.slot_setSlot, rfl⟩

/-! ### KILL, R420 -/

/-- The state but for what a KILL touches: what commands touch, and the cores whose writes to other devices it ends. -/
def State.outsideKill (s : State) : State := { s.outsideCommands with cores := [] }

theorem State.outsideKill_of_outsideCommands (h : t.outsideCommands = s.outsideCommands) : t.outsideKill = s.outsideKill := by
  rw [State.outsideKill, State.outsideKill, h]

theorem onlyCommands_of_outsideKill (h : t.outsideKill = s.outsideKill) (hstr : t.str = { s.str with cntCmd := t.str.cntCmd }) :
    OnlyCommands { s with cores := t.cores, str := { s.str with cntCmd := t.str.cntCmd } } t := by
  have houtside : t.outsideCommands = { s with cores := t.cores }.outsideCommands :=
    (congrArg (fun x : State => { x with cores := t.cores }) h : { t.outsideKill with cores := t.cores } = _)
  have honly := onlyCommands_of_outsideCommands houtside
  rwa [hstr] at honly

/-- The job's queues, empty. -/
def State.clearQueues (s : State) (j : Nat) : State := (List.range 11).foldl (fun s e => s.setQueue e j []) s

/-- The queues of one job stand apart, one for each engine. -/
theorem State.queue_setQueue_ne {q : List Cmd} (hne : k ≠ e) : (s.setQueue e j q).queue k j = s.queue k j := by
  have hkey : k * 8 + j ≠ e * 8 + j := by omega
  exact tget_tset_ne (d := []) (t := s.queues) (v := q) hkey

theorem State.clearQueues_queue (he : e < 11) : (s.clearQueues j).queue e j = [] := by
  have hqueue (t : State) (p q : Nat) : (t.setQueue p j []).queue q j = if q = p then [] else t.queue q j := by
    split_ifs with hq
    · rw [hq, State.queue_setQueue]
    · exact State.queue_setQueue_ne hq
  have hall : (s.clearQueues j).queue e j = if e ∈ List.range 11 then [] else s.queue e j :=
    foldl_sets_view (view := fun t q => t.queue q j) hqueue _ s e
  rw [hall, if_pos (List.mem_range.2 he)]

/-- Of the state, emptied queues change no view that a queue does not show in. -/
theorem State.clearQueues_view {α : Type} {view : State → α} (hview : ∀ t e, view (t.setQueue e j []) = view t) :
    view (s.clearQueues j) = view s := foldl_keeps_view hview _ s

/-- R329: a request that a provisional job holds back. -/
def RemReq.heldFor (r : RemReq) (j : Nat) : Bool := r.jobSlot == j && r.isWrite

/-- The ends of commands whose records have arrived keep what the end of each keeps. -/
theorem State.settleEndings_view {α : Type} {view : State → α} (hview : ∀ t c r b, view (State.conclude t c r b) = view t)
    (hfab : ∀ f : List Ending, view { s with fab := { s.fab with endings := f } } = view s) : view s.settleEndings = view s := by
  rw [State.settleEndings, foldl_keeps_view (view := view) fun t x => hview t _ _ _]
  exact hfab _

/-- The writes that a provisional job holds leave the queue of requests; beside it only the cores and the ends that waited change. -/
theorem State.dropHeld_view {α : Type} {view : State → α} (hconclude : ∀ t c r b, view (State.conclude t c r b) = view t)
    (hendings : ∀ (t : State) (f : List Ending), view { t with fab := { t.fab with endings := f } } = view t)
    (hcore : ∀ (t : State) r, view (t.coreRequestEnd r stKilled) = view t) :
    view (s.dropHeld j) = view { s with fab := { s.fab with toSend := s.fab.toSend.filter fun r => !r.heldFor j } } := by
  rw [State.dropHeld, State.settleEndings_view hconclude (hendings _), foldl_keeps_view (view := view) fun t x => hcore t _]
  rfl

/-- The account of every job, before its queued commands end. -/
theorem State.dropHeld_fault : ((s.dropHeld j).slot k).fault = (s.slot k).fault := by
  rw [State.dropHeld_view (view := fun t => (t.slot k).fault)]
  · rfl
  · exact fun t c r b => State.conclude_fault
  · exact fun t f => rfl
  · exact fun t r => by rw [State.coreRequestEnd_frame]; rfl

theorem State.dropHeld_toSend : (s.dropHeld j).fab.toSend = s.fab.toSend.filter fun r => !r.heldFor j := by
  rw [State.dropHeld_view (view := fun t => t.fab.toSend)]
  · exact fun t c r b => by rw [State.conclude_fab]
  · exact fun t f => rfl
  · exact fun t r => by rw [State.coreRequestEnd_frame]

theorem State.dropHeld_queues : (s.dropHeld j).queues = s.queues := by
  rw [State.dropHeld_view (view := State.queues)]
  · exact fun t c r b => State.conclude_queues
  · exact fun t f => rfl
  · exact fun t r => by rw [State.coreRequestEnd_frame]

theorem State.dropHeld_str : (s.dropHeld j).str = s.str := by
  rw [State.dropHeld_view (view := State.str)]
  · exact fun t c r b => State.conclude_str
  · exact fun t f => rfl
  · exact fun t r => by rw [State.coreRequestEnd_frame]

theorem State.dropHeld_outsideKill : (s.dropHeld j).outsideKill = s.outsideKill := by
  rw [State.dropHeld_view (view := State.outsideKill)]
  · rfl
  · exact fun t c r b => State.outsideKill_of_outsideCommands State.conclude_outsideCommands
  · exact fun t f => rfl
  · exact fun t r => by rw [State.coreRequestEnd_frame]; rfl

/-- What KILL leaves of a job before its queued commands end: its queues, and the writes that it holds while it is provisional. -/
def State.killedQueues (s : State) (j : Nat) : State :=
  if (s.slot j).provisional then (s.clearQueues j).dropHeld j else s.clearQueues j

/-- What of the state KILL leaves ahead of the queued commands. -/
structure QueuesKilled (s t : State) (j : Nat) : Prop where
  queue : ∀ e, e < 11 → t.queue e j = []
  fault : (t.slot j).fault = (s.slot j).fault
  outside : t.outsideKill = s.outsideKill
  str : t.str = s.str
  cores : (s.slot j).provisional = false → t.cores = s.cores
  toSend : ∀ r ∈ t.fab.toSend, (s.slot j).provisional = true → r.heldFor j = false

theorem State.killedQueues_killed : QueuesKilled s (s.killedQueues j) j := by
  have hfault : ((s.clearQueues j).slot j).fault = (s.slot j).fault :=
    State.clearQueues_view (view := fun t => (t.slot j).fault) fun _ _ => rfl
  have houtside : (s.clearQueues j).outsideKill = s.outsideKill := State.clearQueues_view fun _ _ => rfl
  have hstr : (s.clearQueues j).str = s.str := State.clearQueues_view fun _ _ => rfl
  have hcores : (s.clearQueues j).cores = s.cores := State.clearQueues_view fun _ _ => rfl
  unfold State.killedQueues
  split_ifs with hprov
  · exact {
      queue := fun e he => by rw [State.queue, State.dropHeld_queues]; exact State.clearQueues_queue he
      fault := State.dropHeld_fault.trans hfault
      outside := State.dropHeld_outsideKill.trans houtside
      str := State.dropHeld_str.trans hstr
      cores := fun hnot => by rw [hprov] at hnot; cases hnot
      toSend := fun r hr _ => by
        rw [State.dropHeld_toSend] at hr
        simpa using (List.mem_filter.1 hr).2 }
  · exact {
      queue := fun e he => State.clearQueues_queue he
      fault := hfault
      outside := houtside
      str := hstr
      cores := fun _ => hcores
      toSend := fun r _ hyes => absurd hyes hprov }

/-- A queued command that KILL ends. -/
def State.endKilled (s : State) (c : Cmd) : State := (s.failOutputs c stKilled).complete c stKilled 0

/-- KILL of a job with one queued command and none running. -/
theorem kill_queued (hjob : s.hasJob j = true) (hnone : ∀ l ∈ s.live, l.cmd.job ≠ j)
    (hqueued : ((List.range 11).flatMap fun e => s.queue e j) = [c]) :
    kill j s = (s.killedQueues j).endKilled c := by
  have hrunning : ((s.live.filter fun l => l.cmd.job == j && s.canStop l).map (·.cmd)) = [] := State.stoppable_none hnone
  rw [kill, if_pos hjob, State.killJob, hqueued, hrunning]
  rfl

theorem failOutputs_outsideCommands : (s.failOutputs c st).outsideCommands = s.outsideCommands := by
  unfold State.failOutputs State.leaveUndefined
  split_ifs <;> rfl

/-- What the end of the queued command adds to a KILL. -/
theorem kill_done (hkilled : QueuesKilled s t j) (hcj : c.job = j) :
    (∀ e, e < 11 → (t.endKilled c).queue e j = []) ∧ ((t.endKilled c).engRegs c.engine).lastStatus = stKilled ∧
      ((t.endKilled c).slot j).lastFail = stKilled ∧ ((t.endKilled c).slot j).fails = satAdd 32 (s.slot j).fails 1 ∧
      (s.remoteCompl c = false → ∀ r ∈ (t.endKilled c).fab.toSend, (s.slot j).provisional = true → r ∈ s.fab.toSend → r.isWrite = true → r.jobSlot ≠ j) ∧
      ((s.slot j).provisional = false → (t.endKilled c).cores = s.cores) ∧
      OnlyCommands { s with cores := (t.endKilled c).cores, str := { s.str with cntCmd := (t.endKilled c).str.cntCmd } } (t.endKilled c) := by
  have hfault : ((t.endKilled c).slot j).fault = (stKilled, satAdd 32 (s.slot j).fails 1) := by
    obtain ⟨run, hrun⟩ := State.complete_slot (s := t.failOutputs c stKilled) (c := c) (st := stKilled) (d := 0) (sub := 0) (counts := true)
    have hfails : (t.slot j).fails = (s.slot j).fails := congrArg Prod.snd hkilled.fault
    rw [State.endKilled, ← hcj, hrun, JobSlot.signalled_kept.2.2, State.slot_of_jobs State.failOutputs_jobs, hcj, ← hfails]
    rfl
  have houtside : (t.endKilled c).outsideKill = s.outsideKill :=
    (State.outsideKill_of_outsideCommands (State.complete_outsideCommands.trans failOutputs_outsideCommands)).trans hkilled.outside
  refine ⟨fun e he => ?_, State.complete_lastStatus, congrArg Prod.fst hfault, congrArg Prod.snd hfault, fun hlocal r hr hprov _ hwrite heq => ?_,
    fun hprov => ?_, onlyCommands_of_outsideKill houtside ?_⟩
  · rw [State.queue, State.endKilled, State.complete_queues, State.failOutputs_queues]
    exact hkilled.queue e he
  · have hid : (t.failOutputs c stKilled).fab.fabId = s.fab.fabId := by
      rw [State.failOutputs_fab]
      exact (congrArg (fun x : State => x.fab.fabId) hkilled.outside : t.outsideKill.fab.fabId = s.outsideKill.fab.fabId)
    have hlocal' : (t.failOutputs c stKilled).remoteCompl c = false := by
      rw [State.remoteCompl, State.ownAddr, State.devId, hid]
      exact hlocal
    rw [State.endKilled, State.complete_localFab hlocal', State.failOutputs_fab] at hr
    have hheld := hkilled.toSend r hr hprov
    simp [RemReq.heldFor, heq, hwrite] at hheld
  · rw [State.endKilled, State.complete_cores, State.failOutputs_cores, hkilled.cores hprov]
  · rw [State.endKilled, State.complete_str, State.failOutputs_str, hkilled.str]

/-! ### The statement -/

/-- Settles O34: each command by what its start and its end leave of the job's slot and of memory, each row of JOB_CTL by its queues. -/
theorem countersAndPreemption : Obligations.CountersAndPreemption := by
  unfold Obligations.CountersAndPreemption
  refine ⟨?arm, ?armadd, ?step, ?cset, ?cinc, ?between, ?refused, ?save, ?restore, ?saveFails, ?still, ?requeues, ?waits, ?resume, ?kill,
    ?empty⟩
  case arm =>
    intro s u c i v hbegins hcounter hi
    obtain ⟨hslot, hstatus, honly⟩ := State.counterOp_done (f := fun x i v => { x with tgt := tset 0 x.tgt i v }) hbegins (by decide)
      hcounter hi
    have htgt := jobArm_tgt hbegins hcounter hi
    exact ⟨jobArm s, rfl, htgt, by rw [htgt, tget_tset_self], hslot, hstatus, honly⟩
  case armadd =>
    intro s u c i v hbegins hcounter hi
    obtain ⟨-, hstatus, honly⟩ := State.counterOp_done (f := fun x i v => { x with tgt := tmod 0 x.tgt i (· + v) }) hbegins (by decide)
      hcounter hi
    have htgt := jobArmadd_tgt hbegins hcounter hi
    exact ⟨jobArmadd s, rfl, by rw [htgt, tget_tmod_self], fun k hk => by rw [htgt, tget_tmod_ne hk], hstatus, honly⟩
  case step =>
    intro s u c i v hbegins hcounter hi
    obtain ⟨-, hstatus, honly⟩ := State.counterOp_done (f := fun x i v => { x with stp := tset 0 x.stp i v }) hbegins (by decide) hcounter hi
    have hstp := jobStep_stp hbegins hcounter hi
    exact ⟨jobStep s, rfl, hstp, by rw [hstp, tget_tset_self], hstatus, honly⟩
  case cset =>
    intro s u c i v x hbegins hcounter hi hx
    obtain ⟨-, hstatus, honly⟩ := State.counterOp_done (f := fun x i v => { x with csets := tset none x.csets i (some v) }) hbegins
      (by decide) hcounter hi
    obtain ⟨hcsets, hincs, hcnt, hat⟩ := jobCset_slot hbegins hcounter hi hx
    exact ⟨jobCset s, rfl, hcsets, hincs, hcnt, hat, hstatus, honly⟩
  case cinc =>
    intro s u c i v x hbegins hcounter hi hx
    obtain ⟨-, hstatus, honly⟩ := State.counterOp_done (f := fun x i v => { x with incs := tmod 0 x.incs i (· + v) }) hbegins (by decide)
      hcounter hi
    obtain ⟨hincs, hcsets, hcnt, hat⟩ := jobCinc_slot hbegins hcounter hi hx
    exact ⟨jobCinc s, rfl, hincs, hcsets, hcnt, hat, hstatus, honly⟩
  case between => exact fun x i e v n hcsets hincs hat => JobSlot.cntIn_single hcsets hincs hat
  case refused => exact fun s u c hbegins hi => ⟨jobCset s, rfl, jobCset_refused hbegins hi⟩
  case save =>
    intro s u c hbegins hpasses
    refine ⟨save s, rfl, ?_⟩
    rw [save_copies hbegins hpasses]
    exact ⟨State.complete_lastStatus, copies_mem (State.begun_of_begins hbegins) rfl⟩
  case restore =>
    intro s u c hbegins hpasses
    refine ⟨restore s, rfl, ?_⟩
    rw [restore_copies hbegins hpasses]
    exact ⟨State.complete_lastStatus, copies_mem (State.begun_of_begins hbegins) rfl⟩
  case saveFails =>
    intro s u c st d hbegins hfails
    refine ⟨save s, rfl, ?_⟩
    rw [save_fails hbegins hfails]
    exact ⟨State.complete_lastStatus, fun a ha => by rw [State.complete_spares ha, (State.begun_of_begins hbegins).mem]⟩
  case still => exact fun s j hj hstate hnone _ => ⟨preempt j s, if_pos hj, preempt_still hstate hnone⟩
  case requeues =>
    exact fun s j l hj hstate hlive hjob hengine hrestart hloads =>
      ⟨preempt j s, if_pos hj, preempt_requeues hstate hlive hjob hengine hrestart hloads⟩
  case waits =>
    intro s j l hj hstate hlive hjob hnorestart
    refine ⟨preempt j s, if_pos hj, ?_⟩
    rw [preempt_waits hstate hlive hjob hnorestart]
    exact ⟨congrArg JobSlot.state State.slot_setSlot, rfl⟩
  case resume => exact fun s j hj hstate => ⟨resume j s, if_pos hj, resume_running hstate⟩
  case kill =>
    intro s j c hj hjob hnone hcj hqueued
    refine ⟨kill j s, if_pos hj, ?_⟩
    rw [kill_queued hjob hnone hqueued]
    exact kill_done State.killedQueues_killed hcj
  case empty =>
    intro s j hj hstate hno
    have hstill : preempt j s = s ∧ resume j s = s ∧ kill j s = s := by simp [preempt, resume, kill, hstate, hno]
    obtain ⟨hpreempt, hresume, hkill⟩ := hstill
    exact ⟨(if_pos hj).trans (congrArg _ hpreempt), (if_pos hj).trans (congrArg _ hresume), (if_pos hj).trans (congrArg _ hkill)⟩

end Sys2Proof.Machine

/-!
PROOF. The tensor operations (O32). In every state that the model reaches the head of the VEC queue is an instruction of the vector unit. The
statement ranges over every state, also one whose VEC queue holds an instruction that names the array as its unit: it starts as any other,
and the statement says of it what R463 says of the array's instructions alone, that ballast leaves the array of its core.
-/

namespace Sys2Proof.Machine

variable {s u : State} {k : Nat} {i : LongInstr}

/-- R174: an elementwise operation that passes its checks starts, whatever it will write. -/
theorem State.elementwise_started {srcs : List Nat} {dst : Nat} {f : List FVal → FVal}
    (hchecks : firstFail (u.elementwiseChecks k i srcs dst) = none) : ∃ ws, u.elementwise k i srcs dst f = u.started k i ws := by
  simp only [State.elementwise, State.orFailTask, hchecks]
  exact ⟨_, rfl⟩

/-- A TCVT that passes its checks starts, and leaves the power of the arrays as it is. -/
theorem tcvt_ktl (hk : k < 256) (hstarts : s.starts k 3 0xC1 = some (u, i)) (hchecks : firstFail (u.elementwiseChecks k i [0] 1) = none) :
    ∃ v, exec (.tcvt k) s = .next v ∧ v.ktl = u.ktl := by
  obtain ⟨ws, hstarted⟩ := State.elementwise_started (f := fun l => l.headD fZero) hchecks
  exact ⟨u.started k i ws, runs_onCore hk ((State.startHead_of_starts hstarts).trans hstarted), State.modCore_ktl⟩

/-- The descriptor of four FP32 elements at an address. -/
def fourFp32At (base : Nat) : List Byte := leBytes 8 base ++ [0x10, 0, 0] ++ leBytes 5 16 ++ leBytes 4 4 ++ zeros 44

/-- A TCVT from descriptor 1 to descriptor 2 that names the array as its unit. -/
def misnamedConvert : LongInstr := { unit := 4, bits := BitVec.ofNat 96 (0xC1 + (1 + 2 * 2 ^ 10) * 2 ^ 64), bundle := 5 }

/-- The misnamed TCVT in the VEC queue of core 0, its operands in the scratchpad of that core; ballast runs in the array of core 0. -/
def misnamedVector : State :=
  { fab := { fabId := 0 }, ktl := { ballastOn := 1 }
    cores := [(0, { Core.writeDmem {} 64 (fourFp32At padBase ++ fourFp32At (padBase + 256)) with run := .issuing, qVec := [misnamedConvert] })] }

/-- The state once the head has left its queue. -/
def misnamedVectorStart : State :=
  (misnamedVector.modCore 0 fun c => (c.setQueue 3 (c.queue 3).tail).takeWait (waitField 3 misnamedConvert.bits.toNat)).claim
    (misnamedVector.named 0 misnamedConvert)

theorem misnamedVector_starts : misnamedVector.starts 0 3 0xC1 = some (misnamedVectorStart, misnamedConvert) := by rfl

/-- Refutes O32: in `misnamedVector` a TCVT that names the array as its unit starts and leaves the ballast of its core running, where the
clause of TCVT says that ballast leaves the array (R463). -/
theorem not_tensorOpsStart : ¬ Obligations.TensorOpsStart := by
  unfold Obligations.TensorOpsStart
  rintro ⟨-, -, -, -, convert, -⟩
  have hchecks : firstFail (misnamedVectorStart.elementwiseChecks 0 misnamedConvert [0] 1) = none := by decide +kernel
  obtain ⟨t, hrun, -, -, -, hframe⟩ := convert misnamedVector misnamedVectorStart 0 misnamedConvert _ _ (by decide)
    misnamedVector_starts hchecks rfl rfl
  obtain ⟨v, hv, hktl⟩ := tcvt_ktl (by decide) misnamedVector_starts hchecks
  have hruns : t.ktl.ballastOn = 1 := by
    rw [← Host.Outcome.next.inj (hv.symm.trans hrun), hktl]
    rfl
  have hleaves : t.ktl.ballastOn = 0 := by rw [hframe]; rfl
  exact absurd (hruns.symm.trans hleaves) (by decide)

end Sys2Proof.Machine

/-!
PROOF. The tables of Urn (O47). A command of Urn that passes its checks puts one table in the place of the table it names, stores what
changes in memory, and ends: `UrnReplaced` says what that leaves. A command that fails ends with BOUNDS and changes no table: `UrnRefused`.
-/

namespace Sys2Proof.Machine

variable {s t u v : State} {c : Cmd} {e op n st d : Nat} {x : UrnTable} {m : Memory}

/-! ### Tables and memory, R198 -/

theorem State.urnTable_of_urn (h : t.urn = s.urn) : t.urnTable n = s.urnTable n := by
  rw [State.urnTable, State.urnTable, h]

@[simp] theorem State.urnTable_setUrn : (s.setUrn n x).urnTable n = x := tget_tset_self

theorem State.urnTable_setUrn_ne {i : Nat} (hi : i ≠ n) : (s.setUrn n x).urnTable i = s.urnTable i := tget_tset_ne hi

/-- What stores leave in memory depends on nothing of the state but its memory. -/
theorem State.storeAll_mem_congr {ws : List (Nat × List Byte)} (h : t.mem = s.mem) : (t.storeAll ws).mem = (s.storeAll ws).mem := by
  rw [State.storeAll_mem, State.storeAll_mem, h]

/-- The start and the end of a command touch no table. -/
theorem CommandBegun.urn (hbegun : CommandBegun s u c) : u.urn = s.urn :=
  show u.outsideCommands.urn = s.outsideCommands.urn from congrArg State.urn hbegun.outside

/-- The end of a command of any engine but the Strainer leaves the state but for what commands touch. -/
theorem State.complete_onlyCommands (hbegins : s.begins e op = some (u, c)) (hengine : e ≠ 2) : OnlyCommands s (u.complete c st d) := by
  have hbegun := State.begun_of_begins hbegins
  refine onlyCommands_of_str (State.complete_outsideCommands.trans hbegun.outside) ?_
  rw [State.complete_str, State.engine_of_begins hbegins, if_neg hengine, hbegun.str]

/-! ### The two ends of a command of Urn -/

/-- From `s` to `t` the command `c` has put `x` in the place of table `n` and ended with success; outside its record memory is `m`. -/
structure UrnReplaced (s t : State) (c : Cmd) (n : Nat) (x : UrnTable) (m : Memory) : Prop where
  table : t.urnTable n = x
  others : ∀ i, i ≠ n → t.urnTable i = s.urnTable i
  status : (t.engRegs c.engine).lastStatus = 0
  memory : ∀ a, c.spares a → t.mem.byte a = m.byte a

theorem urnReplaced_of_complete (hbegins : s.begins 4 op = some (u, c)) (hurn : v.urn = (u.setUrn n x).urn) (hmem : v.mem = m) :
    UrnReplaced s (v.complete c stOk 0) c n x m where
  table := by rw [State.urnTable_of_urn (State.complete_urn.trans hurn), State.urnTable_setUrn]
  others i hi := by
    rw [State.urnTable_of_urn (State.complete_urn.trans hurn), State.urnTable_setUrn_ne hi,
      State.urnTable_of_urn (State.begun_of_begins hbegins).urn]
  status := State.complete_lastStatus
  memory a ha := by rw [State.complete_spares ha, hmem]

/-- From `s` to `t` the command `c` has ended with BOUNDS and DETAIL `d`, and no table has changed (R202). -/
structure UrnRefused (s t : State) (c : Cmd) (d : Nat) : Prop where
  tables : t.urn = s.urn
  status : (t.engRegs c.engine).failStatus = stBounds
  detail : (t.engRegs c.engine).failDetail = d
  only : OnlyCommands s t

theorem urnRefused_of_complete (hbegins : s.begins 4 op = some (u, c)) : UrnRefused s (u.complete c stBounds d) c d where
  tables := State.complete_urn.trans (State.begun_of_begins hbegins).urn
  status := by rw [State.complete_engRegs, if_neg (by decide)]
  detail := by rw [State.complete_engRegs, if_neg (by decide)]
  only := State.complete_onlyCommands hbegins (by decide)

/-! ### INSERT, R199 to R202 -/

/-- The table that an INSERT leaves of the table it names: its records inserted in turn; none once one finds no place. -/
def State.urnInserted (s : State) (c : Cmd) : Option UrnTable :=
  (s.urnRecords c (s.urnCfg (s.urnTableOf c))).foldl (fun (o : Option UrnTable) r => o.bind fun t => t.insert (s.urnCfg (s.urnTableOf c)) r)
    (some (s.urnTable (s.urnTableOf c)))

theorem urnInsert_replaces (hbegins : s.begins 4 1 = some (u, c)) (hpasses : firstFail (u.urnInsertChecks c) = none)
    (hplaces : u.urnInserted c = some x) :
    UrnReplaced s (urnInsert s) c (u.urnTableOf c) x (u.storeAll (x.image (u.urnCfg (u.urnTableOf c)))).mem := by
  have hends : urnInsert s = ((u.setUrn (u.urnTableOf c) x).storeAll (x.image (u.urnCfg (u.urnTableOf c)))).complete c stOk 0 := by
    rw [State.urnInserted] at hplaces
    simp only [urnInsert, State.withHead_of_begins hbegins (by decide), State.orFail, hpasses, hplaces]
  rw [hends]
  exact urnReplaced_of_complete hbegins State.storeAll_urn (State.storeAll_mem_congr rfl)

/-- R201: a record that finds no place fails its INSERT whole, at slot 1, or at slot 0 where slot 1 is empty. -/
theorem urnInsert_refuses (hbegins : s.begins 4 1 = some (u, c)) (hpasses : firstFail (u.urnInsertChecks c) = none)
    (hfull : u.urnInserted c = none) : UrnRefused s (urnInsert s) c (if (u.slotTensor c 1).size = 0 then 0 else 1) := by
  have hends : urnInsert s = u.complete c stBounds (if (u.slotTensor c 1).size = 0 then 0 else 1) := by
    rw [State.urnInserted] at hfull
    simp only [urnInsert, State.withHead_of_begins hbegins (by decide), State.orFail, hpasses, hfull]
  rw [hends]
  exact urnRefused_of_complete hbegins

/-! ### DRAIN and CLEAR, R203, R204 -/

theorem urnDrain_replaces (hbegins : s.begins 4 2 = some (u, c)) (hpasses : firstFail (u.urnDrainChecks c) = none) :
    UrnReplaced s (urnDrain s) c (u.urnTableOf c) {}
      ((u.storeAll ((u.urnTable (u.urnTableOf c)).cleared (u.urnCfg (u.urnTableOf c)))).storeAll (u.urnDrainWrites c)).mem := by
  have hends : urnDrain s = (((u.setUrn (u.urnTableOf c) {}).storeAll ((u.urnTable (u.urnTableOf c)).cleared
      (u.urnCfg (u.urnTableOf c)))).storeAll (u.urnDrainWrites c)).complete c stOk 0 := by
    simp only [urnDrain, State.withHead_of_begins hbegins (by decide), State.orFail, hpasses]
  rw [hends]
  exact urnReplaced_of_complete hbegins (State.storeAll_urn.trans State.storeAll_urn)
    (State.storeAll_mem_congr (State.storeAll_mem_congr rfl))

theorem urnClear_replaces (hbegins : s.begins 4 3 = some (u, c)) (howned : firstFail [u.urnOwned c (u.urnTableOf c)] = none) :
    UrnReplaced s (urnClear s) c (u.urnTableOf c) {}
      (u.storeAll ((u.urnTable (u.urnTableOf c)).cleared (u.urnCfg (u.urnTableOf c)))).mem := by
  have hends : urnClear s = ((u.setUrn (u.urnTableOf c) {}).storeAll ((u.urnTable (u.urnTableOf c)).cleared
      (u.urnCfg (u.urnTableOf c)))).complete c stOk 0 := by
    simp only [urnClear, State.withHead_of_begins hbegins (by decide), State.orFail, howned]
  rw [hends]
  exact urnReplaced_of_complete hbegins State.storeAll_urn (State.storeAll_mem_congr rfl)

/-- R202: a table of another job is out of bounds, whether it is enabled or not. -/
theorem State.urnOwned_foreign (hjob : (s.urnCfg n).job ≠ c.job) : s.urnOwned c n = some (stBounds, 0) := by
  simp [State.urnOwned, need, hjob]

theorem urnClear_refuses (hbegins : s.begins 4 3 = some (u, c)) (hjob : (u.urnCfg (u.urnTableOf c)).job ≠ c.job) :
    UrnRefused s (urnClear s) c 0 := by
  have hfails : firstFail [u.urnOwned c (u.urnTableOf c)] = some (stBounds, 0) := by rw [State.urnOwned_foreign hjob]; rfl
  have hends : urnClear s = u.complete c stBounds 0 := by
    simp only [urnClear, State.withHead_of_begins hbegins (by decide), State.orFail, hfails]
  rw [hends]
  exact urnRefused_of_complete hbegins

/-! ### The statement -/

/-- Settles O47: each command by what it puts in the place of the table it names, or by the BOUNDS that it ends with. -/
theorem urnCommands : Obligations.UrnCommands := by
  unfold Obligations.UrnCommands
  refine ⟨?insert, ?full, ?drain, ?clear, ?foreign⟩
  case insert =>
    rintro s u c _ x hbegins hpasses rfl hplaces
    obtain ⟨htable, hothers, hstatus, hmemory⟩ := urnInsert_replaces hbegins hpasses hplaces
    exact ⟨urnInsert s, rfl, htable, hothers, hstatus, hmemory⟩
  case full =>
    rintro s u c _ hbegins hpasses rfl hfull
    obtain ⟨htables, hstatus, -, honly⟩ := urnInsert_refuses hbegins hpasses hfull
    exact ⟨urnInsert s, rfl, htables, hstatus, honly⟩
  case drain =>
    rintro s u c _ hbegins hpasses rfl
    obtain ⟨htable, hothers, hstatus, hmemory⟩ := urnDrain_replaces hbegins hpasses
    exact ⟨urnDrain s, rfl, htable, hothers, hstatus, hmemory⟩
  case clear =>
    rintro s u c _ hbegins howned rfl
    obtain ⟨htable, hothers, hstatus, hmemory⟩ := urnClear_replaces hbegins howned
    exact ⟨urnClear s, rfl, htable, hothers, hstatus, hmemory⟩
  case foreign =>
    rintro s u c _ hbegins rfl hjob
    obtain ⟨htables, hstatus, hdetail, honly⟩ := urnClear_refuses hbegins hjob
    exact ⟨urnClear s, rfl, htables, hstatus, hdetail, honly⟩

end Sys2Proof.Machine

/-!
PROOF. The commands of Strainer (O46). `StrainerDone` is what the end of one leaves, whatever it did before; `StrainerRefused` is what its
first failure leaves, which no check names with the status of success. The directory changes by `State.dirEntry_setDir` alone, and SELECT
changes the Strainer's registers by `Strainer.selected`.
-/

namespace Sys2Proof.Machine

variable {s t u v : State} {c : Cmd} {op b n st d : Nat} {x : Strainer} {m : Memory} {ck : Check} {l k : List Check}

/-! ### No check fails with the status of success, Table 8-9 -/

/-- A check that fails, fails with the status of a failure. -/
def NamesFailure (ck : Check) : Prop := ∀ z, ck = some z → z.1 ≠ 0

/-- Every check of a list does. -/
def NamesFailures (l : List Check) : Prop := ∀ ck ∈ l, NamesFailure ck

theorem NamesFailures.status_ne (hl : NamesFailures l) (hfails : firstFail l = some (st, d)) : st ≠ 0 := by
  obtain ⟨ck, hck, hsome⟩ := List.exists_of_findSome?_eq_some hfails
  exact hl ck hck _ hsome

@[simp] theorem namesFailures_nil : NamesFailures [] := List.forall_mem_nil _

@[simp] theorem namesFailures_cons : NamesFailures (ck :: l) ↔ NamesFailure ck ∧ NamesFailures l := List.forall_mem_cons

@[simp] theorem namesFailures_append : NamesFailures (l ++ k) ↔ NamesFailures l ∧ NamesFailures k := List.forall_mem_append

theorem namesFailure_map {α : Type} {o : Option α} {f : α → Nat} (hst : st ≠ 0) : NamesFailure (o.map fun i => (st, f i)) := by
  rintro _ hsome
  obtain ⟨i, -, rfl⟩ := Option.map_eq_some_iff.1 hsome
  exact hst

theorem namesFailure_need {ok : Bool} (hst : st ≠ 0) : NamesFailure (need ok st d) := by
  rintro _ hsome
  cases ok with
  | true => cases hsome
  | false => cases hsome; exact hst

theorem namesFailures_need {ok : Nat → Bool} {f : Nat → Nat} {is : List Nat} (hst : st ≠ 0) :
    NamesFailures (is.map fun i => need (ok i) st (f i)) :=
  List.forall_mem_map.2 fun _ _ => namesFailure_need hst

/-- A list that depends on the parameters. -/
theorem namesFailures_ite {p : Prop} [Decidable p] (hl : NamesFailures l) (hk : NamesFailures k) : NamesFailures (if p then l else k) := by
  split_ifs
  · exact hl
  · exact hk

theorem NamesFailures.byStatus (hl : NamesFailures l) : NamesFailures (byStatus l st) := fun ck hck => hl ck (List.mem_of_mem_filter hck)

@[simp] theorem namesFailure_zeroParams {p : List Byte} {offs : List Nat} : NamesFailure (zeroParams p offs) := namesFailure_map (by decide)

@[simp] theorem State.namesFailures_checkSlot {i : Nat} {fmts : List Nat} {shape : Tensor → Bool} :
    NamesFailures (s.checkSlot c i fmts shape) := by
  simp only [State.checkSlot, namesFailures_cons, namesFailures_nil, and_true]
  exact ⟨namesFailure_need (by decide), namesFailure_need (by decide), namesFailure_need (by decide), namesFailure_need (by decide)⟩

@[simp] theorem State.namesFailures_eccSlots {ins outs : List Nat} : NamesFailures (s.eccSlots c ins outs) :=
  namesFailures_append.2 ⟨namesFailures_need (by decide), namesFailures_need (by decide)⟩

@[simp] theorem State.namesFailure_dirOutside {j : Nat} : NamesFailure (s.dirOutside j b n) := namesFailure_map (by decide)

@[simp] theorem State.namesFailure_dirBad : NamesFailure (s.dirBad b n) := namesFailure_map (by decide)

@[simp] theorem State.namesFailure_overlapSlot : NamesFailure (s.overlapSlot c) := namesFailure_map (f := id) (by decide)

/-- R209: the checks the directory commands share. -/
theorem State.namesFailures_dirChecks {fmt : Nat} {shape : Tensor → Bool} {write reads : Bool} (hentries : NamesFailures l) :
    NamesFailures (s.dirChecks c fmt shape write reads l) := by
  have hslot (st : Nat) : NamesFailures (byStatus (s.checkSlot c 0 [fmt] shape) st) := State.namesFailures_checkSlot.byStatus
  simp only [State.dirChecks, namesFailures_append, namesFailures_cons, namesFailures_nil, namesFailure_zeroParams,
    State.namesFailure_dirOutside, and_true, true_and, hslot, hentries]
  exact ⟨⟨⟨namesFailure_need (by decide), namesFailures_need (by decide)⟩, namesFailures_ite (by simp) namesFailures_nil⟩,
    namesFailures_ite State.namesFailures_eccSlots State.namesFailures_eccSlots⟩

theorem State.namesFailures_dirWriteChecks : NamesFailures (s.dirWriteChecks c) :=
  State.namesFailures_dirChecks (namesFailures_cons.2 ⟨namesFailure_map (by decide), namesFailures_nil⟩)

/-- The checks of SELECT. -/
theorem State.namesFailures_selChecks : NamesFailures (s.selChecks c) := by
  unfold State.selChecks
  extract_lets b p es sMax used opt screenIn structural slots r badAddr
  have hopt (i : Nat) (fmt : List Nat) (shape : Tensor → Bool) : NamesFailures (opt i fmt shape) :=
    namesFailures_ite State.namesFailures_checkSlot namesFailures_nil
  have hslots : NamesFailures slots := by
    simp only [slots, namesFailures_append, State.namesFailures_checkSlot, hopt, and_true, true_and]
    exact namesFailures_ite State.namesFailures_checkSlot namesFailures_nil
  have hstructural : NamesFailures structural :=
    namesFailures_cons.2 ⟨namesFailure_need (by decide), namesFailures_cons.2 ⟨namesFailure_need (by decide), namesFailures_nil⟩⟩
  have hreserved : NamesFailure (if field (leAt b 6 1) 7 6 != 0 then some (stBadOpcode, 6) else none) := by
    rintro _ hsome
    split_ifs at hsome
    cases hsome
    decide
  have haddr : NamesFailure badAddr := namesFailure_map (by decide)
  simp only [namesFailures_append, namesFailures_cons, namesFailures_nil, namesFailure_zeroParams, State.namesFailure_dirOutside,
    State.namesFailure_overlapSlot, State.namesFailure_dirBad, State.namesFailures_eccSlots, hslots.byStatus, hstructural, hreserved, haddr,
    and_self]

/-! ### The two ends of a command of Strainer -/

/-- The command `c` has ended with success on the Strainer's registers `x` and memory `m` (R229). -/
structure StrainerDone (t : State) (c : Cmd) (x : Strainer) (m : Memory) : Prop where
  str : t.str = { x with cntCmd := x.cntCmd + 1 }
  status : (t.engRegs c.engine).lastStatus = 0
  memory : ∀ a, c.spares a → t.mem.byte a = m.byte a

theorem StrainerDone.dir (hdone : StrainerDone t c x m) : t.str.dir = x.dir := by rw [hdone.str]

theorem strainerDone_of_strEnd (hbegins : s.begins 2 op = some (u, c)) (hstr : v.str = x) (hmem : v.mem = m) :
    StrainerDone (v.strEnd c stOk 0) c x m where
  str := by rw [← hstr]; exact State.complete_str.trans (by rw [State.engine_of_begins hbegins, if_pos rfl]; rfl)
  status := State.complete_lastStatus
  memory a ha := by rw [← hmem]; exact State.complete_spares ha

/-- From `s` to `t` the command `c` has failed with status `st`: it is counted, with its event, and nothing else of Strainer or of memory
has changed. -/
structure StrainerRefused (s t : State) (c : Cmd) (st : Nat) : Prop where
  str : t.str = { s.str with cntCmd := s.str.cntCmd + 1 }
  status : (t.engRegs c.engine).failStatus = st
  event : (t.engRegs 2).evt.getLsbD 3 = true
  memory : ∀ a, c.spares a → t.mem.byte a = s.mem.byte a

theorem strainerRefused_of_strEnd (hbegins : s.begins 2 op = some (u, c)) (hst : st ≠ 0) : StrainerRefused s (u.strEnd c st d) c st := by
  have hbegun := State.begun_of_begins hbegins
  have hengine := State.engine_of_begins hbegins
  rw [State.strEnd, if_neg hst]
  exact {
    str := by rw [State.complete_str, State.modEng_str, hbegun.str, hengine, if_pos rfl]
    status := by rw [State.complete_engRegs, if_neg hst]
    event := by
      rw [← hengine, State.complete_engRegs, if_neg hst, hengine, State.engRegs_modEng]
      simp
    memory := fun a ha => by rw [State.complete_spares ha, State.modEng_mem, hbegun.mem] }

theorem State.strFail_passes {body : State → State} (hpasses : firstFail l = none) : s.strFail c l body = body s := by
  simp only [State.strFail, hpasses]

theorem State.strFail_fails {body : State → State} (hfails : firstFail l = some (st, d)) : s.strFail c l body = s.strEnd c st d := by
  simp only [State.strFail, hfails]

/-! ### Entries of the directory, R205 -/

section
variable {i : Nat} {es : List (BitVec 256)}

theorem State.dirEntry_of_dir (h : t.str.dir = s.str.dir) : t.dirEntry i = s.dirEntry i := by rw [State.dirEntry, State.dirEntry, h]

/-- A list written at consecutive keys from `b` on. -/
theorem tget_foldl_tset {α : Type} [DecidableEq α] {z : α} {r : Sparse α} {ys : List α} :
    tget z ((ys.zip (List.range ys.length)).foldl (fun r y => tset z r (b + y.2) y.1) r) i =
      if b ≤ i ∧ i < b + ys.length then ys.getD (i - b) z else tget z r i := by
  induction ys using List.reverseRecOn with
  | nil => exact (if_neg (by simp)).symm
  | append_singleton ys y ih =>
    rw [List.length_append, List.length_singleton, List.range_succ, List.zip_append (by simp), List.foldl_append]
    by_cases hi : i = b + ys.length
    · subst hi
      simp
    · simp only [List.zip_cons_cons, List.zip_nil_right, List.foldl_cons, List.foldl_nil]
      rw [tget_tset_ne hi, ih]
      by_cases hin : b ≤ i ∧ i < b + ys.length
      · rw [if_pos hin, if_pos (by omega), List.getD_append _ _ _ _ (by omega)]
      · rw [if_neg hin, if_neg (by omega)]

theorem State.dirEntry_setDir :
    (s.setDir b es).dirEntry i = if b ≤ i ∧ i < b + es.length then es.getD (i - b) 0 else s.dirEntry i := tget_foldl_tset

/-- From `s` to `t` the entries from `b` on have become `es`, and no other entry has changed. -/
structure WindowReplaced (s t : State) (b : Nat) (es : List (BitVec 256)) : Prop where
  inside : ∀ i, i < es.length → t.dirEntry (b + i) = es.getD i 0
  outside : ∀ i, i < b ∨ b + es.length ≤ i → t.dirEntry i = s.dirEntry i

theorem windowReplaced_of_dir (hu : u.str = s.str) (ht : t.str.dir = (u.setDir b es).str.dir) : WindowReplaced s t b es where
  inside i hi := by rw [State.dirEntry_of_dir ht, State.dirEntry_setDir, if_pos (by omega), Nat.add_sub_cancel_left]
  outside i hi := by
    rw [State.dirEntry_of_dir ht, State.dirEntry_setDir, if_neg (by omega), State.dirEntry_of_dir (congrArg Strainer.dir hu)]

end

/-! ### The directory commands, R209 to R211 -/

theorem State.dirSource_length : (s.dirSource c n).length = n := by rw [State.dirSource, List.length_map, List.length_range]

theorem dirWrite_done (hbegins : s.begins 2 2 = some (u, c)) (hpasses : firstFail (u.dirWriteChecks c) = none)
    (hwindow : dirWindow (u.params c) = (b, n)) : StrainerDone (dirWrite s) c (u.setDir b (u.dirSource c n)).str s.mem := by
  have hends : dirWrite s = (u.setDir b (u.dirSource c n)).strEnd c stOk 0 := by
    simp only [dirWrite, State.withHead_of_begins hbegins (by decide), hwindow, State.strFail_passes hpasses]
  rw [hends]
  exact strainerDone_of_strEnd hbegins rfl (State.begun_of_begins hbegins).mem

theorem dirWrite_refuses (hbegins : s.begins 2 2 = some (u, c)) (hfails : firstFail (u.dirWriteChecks c) = some (st, d)) :
    StrainerRefused s (dirWrite s) c st := by
  have hends : dirWrite s = u.strEnd c st d := by
    simp only [dirWrite, State.withHead_of_begins hbegins (by decide), State.strFail_fails hfails]
  rw [hends]
  exact strainerRefused_of_strEnd hbegins (State.namesFailures_dirWriteChecks.status_ne hfails)

/-- The entries of a window as they stand in slot 0, from its first. -/
def State.dirImage (s : State) (b n : Nat) : List Byte := (List.range n).flatMap fun i => leBytes 32 (s.dirEntry (b + i)).toNat

theorem dirRead_done (hbegins : s.begins 2 3 = some (u, c))
    (hpasses : firstFail (u.dirChecks c 0xA (dirShape n) true true []) = none) (hwindow : dirWindow (u.params c) = (b, n)) :
    StrainerDone (dirRead s) c s.str (u.storeAll ((u.slotTensor c 0).place (u.dirImage b n))).mem := by
  have hends : dirRead s = (u.storeAll ((u.slotTensor c 0).place (u.dirImage b n))).strEnd c stOk 0 := by
    simp only [dirRead, State.withHead_of_begins hbegins (by decide), hwindow, State.strFail_passes hpasses, State.dirImage]
  rw [hends]
  exact strainerDone_of_strEnd hbegins (State.storeAll_str.trans (State.begun_of_begins hbegins).str) rfl

/-- R211: the entries of a window from `b` on, each with its bias raised by its delta. -/
def State.biased (s : State) (b : Nat) (ds : List FVal) : List (BitVec 256) :=
  (ds.zip (List.range ds.length)).map fun (d, i) => biasPlus (s.dirEntry (b + i)) d

theorem State.biased_length {ds : List FVal} : (s.biased b ds).length = ds.length := by simp [State.biased]

theorem State.biased_getD {ds : List FVal} {i : Nat} (hi : i < ds.length) :
    (s.biased b ds).getD i 0 = biasPlus (s.dirEntry (b + i)) (ds.getD i fZero) := by
  rw [List.getD_eq_getElem _ _ (by rwa [State.biased_length]), List.getD_eq_getElem _ _ hi]
  simp [State.biased]

theorem dirBias_done (hbegins : s.begins 2 4 = some (u, c)) (hpasses : firstFail (u.dirBiasChecks c) = none)
    (hwindow : dirWindow (u.params c) = (b, ((u.slotTensor c 0).vals u.mem).length)) :
    StrainerDone (dirBias s) c (u.setDir b (u.biased b ((u.slotTensor c 0).vals u.mem))).str s.mem := by
  have hends : dirBias s = (u.setDir b (u.biased b ((u.slotTensor c 0).vals u.mem))).strEnd c stOk 0 := by
    simp only [dirBias, State.withHead_of_begins hbegins (by decide), hwindow, State.strFail_passes hpasses, State.biased]
  rw [hends]
  exact strainerDone_of_strEnd hbegins rfl (State.begun_of_begins hbegins).mem

/-! ### SELECT, R212 to R231 -/

/-- The Strainer's registers with a SELECT's dispatch list, by its address, and its counts. -/
def Strainer.selected (x : Strainer) (list : Nat) (p : SelParams) (r : SelResult) : Strainer :=
  { x with
    lists := tset 0 x.lists list (p.k + 1), cntNan := x.cntNan + r.nans.length, cntDrop := x.cntDrop + r.dropped.length
    cntSkip := x.cntSkip + ((List.range p.t).filter r.skipped).length }

/-- A SELECT that passes its checks ends with success on its registers and its outputs, whichever events it raises. -/
theorem State.selected_ends {p : SelParams} {r : SelResult} : ∃ v : State, s.selected c p r = v.strEnd c stOk 0 ∧
    v.str = s.str.selected (s.slotTensor c 4).base p r ∧ v.mem = (s.storeAll (s.selWrites c p r)).mem := by
  refine ⟨_, rfl, ?_, ?_⟩
  · split
    · simp [Strainer.selected]
    · simp [Strainer.selected]
  · split
    · simp
    · simp

theorem select_done (hbegins : s.begins 2 1 = some (u, c)) (hpasses : firstFail (u.selChecks c) = none) {p : SelParams} {r : SelResult}
    (hp : selParams (u.params c) = p) (hr : u.select c p = r) :
    StrainerDone (select s) c (s.str.selected (u.slotTensor c 4).base p r) (u.storeAll (u.selWrites c p r)).mem := by
  obtain ⟨v, hends, hstr, hmem⟩ := State.selected_ends (s := u) (c := c) (p := p) (r := r)
  have hselect : select s = v.strEnd c stOk 0 := by
    simp only [select, State.withHead_of_begins hbegins (by decide), State.strFail_passes hpasses, hp, hr, hends]
  rw [hselect]
  exact strainerDone_of_strEnd hbegins (hstr.trans (by rw [(State.begun_of_begins hbegins).str])) hmem

theorem select_refuses (hbegins : s.begins 2 1 = some (u, c)) (hfails : firstFail (u.selChecks c) = some (st, d)) :
    StrainerRefused s (select s) c st := by
  have hends : select s = u.strEnd c st d := by
    simp only [select, State.withHead_of_begins hbegins (by decide), State.strFail_fails hfails]
  rw [hends]
  exact strainerRefused_of_strEnd hbegins (State.namesFailures_selChecks.status_ne hfails)

/-! ### The statement -/

/-- Settles O46: each command by what it leaves of the Strainer's registers and of memory, or by its first failure. -/
theorem strainerCommands : Obligations.StrainerCommands := by
  unfold Obligations.StrainerCommands
  refine ⟨?write, ?writeFails, ?read, ?bias, ?select, ?selectFails⟩
  case write =>
    intro s u c b n hbegins hpasses hwindow
    have hdone := dirWrite_done hbegins hpasses hwindow
    have hbegun := State.begun_of_begins hbegins
    obtain ⟨hinside, houtside⟩ := windowReplaced_of_dir hbegun.str hdone.dir
    refine ⟨dirWrite s, rfl, hinside, houtside, ?_, hdone.status, hdone.memory⟩
    rw [hdone.str, ← hbegun.str]
    rfl
  case writeFails =>
    intro s u c st d hbegins hfails
    obtain ⟨hstr, hstatus, hevent, hmemory⟩ := dirWrite_refuses hbegins hfails
    exact ⟨dirWrite s, rfl, hstr, hstatus, hevent, hmemory⟩
  case read =>
    intro s u c b n hbegins hpasses hwindow
    have hdone := dirRead_done hbegins hpasses hwindow
    exact ⟨dirRead s, rfl, hdone.dir, hdone.status, hdone.memory⟩
  case bias =>
    rintro s u c b _ hbegins hpasses hwindow rfl
    have hdone := dirBias_done hbegins hpasses hwindow
    have hbegun := State.begun_of_begins hbegins
    obtain ⟨hinside, houtside⟩ := windowReplaced_of_dir hbegun.str hdone.dir
    rw [State.biased_length] at hinside houtside
    refine ⟨dirBias s, rfl, hdone.status, fun i hi => ?_, houtside, hdone.memory⟩
    rw [hinside i hi, State.biased_getD hi, State.dirEntry_of_dir (congrArg Strainer.dir hbegun.str)]
  case select =>
    intro s u c r hbegins hpasses hr
    obtain ⟨hstr, hstatus, hmemory⟩ := select_done hbegins hpasses rfl hr
    exact ⟨select s, rfl, hstr, hstatus, hmemory⟩
  case selectFails =>
    intro s u c st d hbegins hfails
    obtain ⟨hstr, hstatus, -, hmemory⟩ := select_refuses hbegins hfails
    exact ⟨select s, rfl, hstr, hstatus, hmemory⟩

end Sys2Proof.Machine

/-!
PROOF. The commands of Spout (O21). `SpoutEnded` is what the end of one leaves, `SpoutLate` the end of one past its effective start (R258),
and `ExchangeBegun` what the start of an exchange leaves: the chain of effective starts (R257) changes of the contexts only what
`SpoutCtx.unchained` leaves out.
-/

namespace Sys2Proof.Machine

variable {s t u v : State} {c : Cmd} {op i j k n st d : Nat} {bits : BitVec 16} {x y : SpoutCtx} {p : SpParams}

/-! ### Contexts, R239 -/

theorem State.spCtx_of_spt (h : t.spt = s.spt) : t.spCtx i = s.spCtx i := by rw [State.spCtx, State.spCtx, h]

@[simp] theorem State.spCtx_modSpCtx {f : SpoutCtx → SpoutCtx} : (s.modSpCtx i f).spCtx i = f (s.spCtx i) := tget_tmod_self

@[simp] theorem State.modSpCtx_mem {f : SpoutCtx → SpoutCtx} : (s.modSpCtx i f).mem = s.mem := rfl

theorem State.spCtx_modSpCtx_ne {f : SpoutCtx → SpoutCtx} (h : i ≠ k) : (s.modSpCtx k f).spCtx i = s.spCtx i := tget_tmod_ne h

/-- A context but for what the chain of effective starts sets (R257). -/
def SpoutCtx.unchained (x : SpoutCtx) : SpoutCtx := { x with base := 0, gap := none, effStart := 0, endsAt := 0 }

theorem SpoutCtx.eq_of_unchained (h : y.unchained = x.unchained) :
    y = { x with base := y.base, gap := y.gap, effStart := y.effStart, endsAt := y.endsAt } :=
  calc y = { y.unchained with base := y.base, gap := y.gap, effStart := y.effStart, endsAt := y.endsAt } := rfl
    _ = _ := by rw [h]; rfl

/-- From `s` to `t` the chain of effective starts has been set again, and nothing else has changed. -/
structure Rechained (s t : State) : Prop where
  ctx : ∀ i, (t.spCtx i).unchained = (s.spCtx i).unchained
  frame : t = { s with spt := { s.spt with ctx := t.spt.ctx } }

theorem Rechained.refl : Rechained s s := ⟨fun _ => rfl, rfl⟩

theorem Rechained.trans (hfirst : Rechained s u) (hsecond : Rechained u t) : Rechained s t where
  ctx i := (hsecond.ctx i).trans (hfirst.ctx i)
  frame := by rw [hsecond.frame, hfirst.frame]

theorem State.modSpCtx_rechained {f : SpoutCtx → SpoutCtx} (hf : ∀ x, (f x).unchained = x.unchained) : Rechained s (s.modSpCtx i f) where
  ctx k := by
    by_cases hk : k = i
    · rw [hk, State.spCtx_modSpCtx, hf]
    · rw [State.spCtx_modSpCtx_ne hk]
  frame := rfl

theorem State.chainOne_rechained {a : State × Nat} {l : Live} : Rechained a.1 (State.chainOne a l).1 := by
  unfold State.chainOne
  dsimp only
  split
  · exact Rechained.refl
  next i e _ =>
    by_cases hbegun : (!e.unbegun) = true
    · rw [if_pos hbegun]
      exact Rechained.refl
    · rw [if_neg hbegun]
      exact State.modSpCtx_rechained fun _ => rfl

theorem State.chainStarts_rechained : Rechained s (s.chainStarts j) :=
  List.foldlRecOn _ State.chainOne (motive := fun a => Rechained s a.1) Rechained.refl fun _ ha _ _ => ha.trans State.chainOne_rechained

/-! ### An exchange begins, R239, R240 -/

/-- From `v` to `t` the command `c` has put the context `x` in the place of context `k`, and runs. -/
structure ExchangeBegun (v t : State) (k : Nat) (x : SpoutCtx) : Prop where
  here : (t.spCtx k).unchained = x.unchained
  others : ∀ i, i ≠ k → t.spCtx i = { v.spCtx i with
    base := (t.spCtx i).base, gap := (t.spCtx i).gap, effStart := (t.spCtx i).effStart, endsAt := (t.spCtx i).endsAt }
  live : t.live.length = v.live.length + 1
  frame : t = { v with live := t.live, spt := { v.spt with ctx := t.spt.ctx } }

theorem exchangeBegun_of_chain {f : SpoutCtx → SpoutCtx} :
    ExchangeBegun v (((v.modSpCtx k f).addLive c true).chainStarts j) k (f (v.spCtx k)) := by
  have hchain := State.chainStarts_rechained (s := (v.modSpCtx k f).addLive c true) (j := j)
  exact {
    here := by
      rw [hchain.ctx, State.spCtx_of_spt State.addLive_spt, State.spCtx_modSpCtx]
    others := fun i hi => by
      refine SpoutCtx.eq_of_unchained ((hchain.ctx i).trans ?_)
      rw [State.spCtx_of_spt State.addLive_spt, State.spCtx_modSpCtx_ne hi]
    live := by
      rw [hchain.frame]
      exact List.length_append
    frame := by
      rw [hchain.frame]
      rfl }

theorem ExchangeBegun.spCtx (hbegun : ExchangeBegun v t k x) : t.spCtx k = { x with
    base := (t.spCtx k).base, gap := (t.spCtx k).gap, effStart := (t.spCtx k).effStart, endsAt := (t.spCtx k).endsAt } :=
  SpoutCtx.eq_of_unchained hbegun.here

theorem State.opcode_of_begins {e : Nat} (hbegins : s.begins e op = some (u, c)) : c.opcode = op := by
  obtain ⟨h, -, -, hopcode, -, hstart⟩ := State.pick_of_begins hbegins
  rw [← hopcode, ← show (s.startCmd h).2 = c by rw [hstart]]
  rfl

/-- The start and the end of a command touch no context. -/
theorem CommandBegun.spt (hbegun : CommandBegun s u c) : u.spt = s.spt :=
  show u.outsideCommands.spt = s.outsideCommands.spt from congrArg State.spt hbegun.outside

/-- R261: the records that DISPATCH has moved to other homes are counted, and raise an event. -/
def State.redirected (s : State) (n : Nat) : State :=
  let s1 : State := { s with spt := { s.spt with cntRedirect := s.spt.cntRedirect + n } }
  if n = 0 then s1 else s1.modEng 3 fun e => { e with evt := e.evt ||| 0x20 }

@[simp] theorem State.redirected_spt : (s.redirected n).spt = { s.spt with cntRedirect := s.spt.cntRedirect + n } := by
  unfold State.redirected
  split_ifs <;> rfl

/-- The state but for what the start of an exchange touches. -/
def State.outsideExchange (s : State) : State := { s with live := [], spt := {}, eng := [] }

theorem State.eq_of_outsideExchange (h : t.outsideExchange = s.outsideExchange) : t = { s with live := t.live, spt := t.spt, eng := t.eng } :=
  calc t = { t.outsideExchange with live := t.live, spt := t.spt, eng := t.eng } := rfl
    _ = _ := by rw [h]; rfl

theorem ExchangeBegun.outsideExchange (hbegun : ExchangeBegun v t k x) : t.outsideExchange = v.outsideExchange := by
  rw [hbegun.frame]
  rfl

theorem State.redirected_outsideExchange : (s.redirected n).outsideExchange = s.outsideExchange := by
  unfold State.redirected
  split_ifs <;> rfl

theorem State.redirected_live : (s.redirected n).live = s.live := by
  unfold State.redirected
  split_ifs <;> rfl

theorem State.redirected_spCtx : (s.redirected n).spCtx i = s.spCtx i := by
  rw [State.spCtx, State.redirected_spt]
  rfl

@[simp] theorem State.raiseEnd_ctx : (s.raiseEnd j n).spt.ctx = s.spt.ctx := rfl
@[simp] theorem State.raiseEnd_outs : (s.raiseEnd j n).spt.outs = s.spt.outs := rfl
@[simp] theorem State.raiseEnd_cntRedirect : (s.raiseEnd j n).spt.cntRedirect = s.spt.cntRedirect := rfl

theorem State.raiseEnd_spCtx : (s.raiseEnd j n).spCtx i = s.spCtx i := rfl
theorem State.raiseEnd_live : (s.raiseEnd j n).live = s.live := rfl
theorem State.raiseEnd_outsideExchange : (s.raiseEnd j n).outsideExchange = s.outsideExchange := rfl

/-- The latest END of a job is raised to an instant. -/
@[simp] theorem State.raiseEnd_lastEnd : tget 0 (s.raiseEnd j n).spt.lastEnd j = max n (tget 0 s.spt.lastEnd j) := tget_tset_self

/-- R239, R240: a checked DISPATCH in time begins its count rounds. -/
theorem dispatch_begins (hbegins : s.begins 3 1 = some (u, c)) (hpasses : firstFail (u.dispatchChecks c) = none)
    (hassigned : (u.assignAll c).fail = none) (hp : spParams (u.params c) = p)
    (hintime : u.spPast p c.job (vectorTicks (u.dispatchCount c)) = false) :
    ∃ x : SpoutCtx, ExchangeBegun ((u.redirected (u.assignAll c).moved).raiseEnd (u.spCtx p.ctx).job (u.spCtx p.ctx).endsAt) (dispatch s) p.ctx x ∧
      x.state = 1 ∧ x.recs = (u.assignAll c).recs ∧ x.job = c.job ∧ x.cmd = some c := by
  subst hp
  have hrun : dispatch s = _ := State.withHead_of_begins hbegins (by decide)
  simp only [hpasses, hassigned, hintime] at hrun
  rw [hrun]
  exact ⟨_, exchangeBegun_of_chain, rfl, rfl, rfl, rfl⟩

/-- R239: a checked COMBINE in time takes up its DISPATCHED context. -/
theorem combine_begins (hbegins : s.begins 3 2 = some (u, c)) (hpasses : firstFail (u.combineChecks c) = none)
    (hp : spParams (u.params c) = p) (hintime : u.spPast p c.job 0 = false) :
    ∃ x : SpoutCtx, ExchangeBegun u (combine s) p.ctx x ∧ x.state = 4 ∧ x.landed = (u.spCtx p.ctx).landed ∧ x.cmd = some c := by
  subst hp
  have hrun : combine s = _ := State.withHead_of_begins hbegins (by decide)
  simp only [hpasses, hintime] at hrun
  rw [hrun]
  exact ⟨_, exchangeBegun_of_chain, rfl, rfl, rfl⟩

/-! ### The end of a command of Spout -/

@[simp] theorem State.spEnd_spt : (s.spEnd c k st d bits).spt = s.spt := by simp [State.spEnd]

theorem State.spEnd_lastStatus : ((s.spEnd c k st d bits).engRegs c.engine).lastStatus = st := State.complete_lastStatus

/-- Table 9-8: the events of a status, and those of the end itself. -/
theorem State.spEnd_evt : ((s.spEnd c k st d bits).engRegs 3).evt = (s.engRegs 3).evt ||| sptBits st ||| bits := by
  have hkept : (((s.failOutputs c st).modEng 3 fun e => { e with evt := e.evt ||| sptBits st ||| bits }).engRegs 3).evt =
      (s.engRegs 3).evt ||| sptBits st ||| bits := by
    rw [State.engRegs_modEng, State.engRegs_of_eng State.failOutputs_eng]
  rw [State.spEnd, ← hkept]
  by_cases hengine : 3 = c.engine
  · rw [hengine, State.complete_engRegs]
    split_ifs <;> rfl
  · rw [State.complete_engRegs_ne hengine]

theorem State.spEnd_outsideCommands : (s.spEnd c k st d bits).outsideCommands = s.outsideCommands := by
  rw [State.spEnd, State.complete_outsideCommands]
  exact failOutputs_outsideCommands

/-- A command that ends with success leaves memory outside its record as it is. -/
theorem State.spEnd_ok_spares {a : Nat} (ha : c.spares a) : (s.spEnd c k stOk d bits).mem.byte a = s.mem.byte a := State.complete_spares ha

/-- R263: the end of a command leaves the state but for what commands touch. -/
theorem State.spEnd_onlyCommands (hbegins : s.begins 3 op = some (u, c)) : OnlyCommands s (u.spEnd c k st d bits) := by
  have hbegun := State.begun_of_begins hbegins
  refine onlyCommands_of_str (State.spEnd_outsideCommands.trans hbegun.outside) ?_
  rw [State.spEnd, State.complete_str, State.engine_of_begins hbegins, if_neg (by decide), State.modEng_str, State.failOutputs_str, hbegun.str]

theorem dispatch_refuses (hbegins : s.begins 3 1 = some (u, c)) (hfails : firstFail (u.dispatchChecks c) = some (st, d)) :
    dispatch s = u.spEnd c (spParams (u.params c)).ctx st d 0 := by
  simp only [dispatch, State.withHead_of_begins hbegins (by decide), hfails]

theorem spoutRelease_frees (hbegins : s.begins 3 3 = some (u, c)) (hpasses : firstFail (u.releaseChecks c) = none)
    (hp : spParams (u.params c) = p) :
    spoutRelease s = (u.modSpCtx p.ctx fun x => { job := x.job, endsAt := x.endsAt }).spEnd c p.ctx stOk 0 0 := by
  simp only [spoutRelease, State.withHead_of_begins hbegins (by decide), hpasses, hp]

/-! ### A command past its effective start, R257, R258 -/

@[simp] theorem State.spLate_spt : (s.spLate c k).spt = s.spt := by simp [State.spLate]

theorem State.spLate_lastStatus : ((s.spLate c k).engRegs c.engine).lastStatus = stRemoteTimeout := State.spEnd_lastStatus

theorem State.spLate_evt : ((s.spLate c k).engRegs 3).evt.getLsbD 4 = true := by
  rw [State.spLate, State.spEnd_evt]
  simp

theorem State.raiseLate_ctx : (s.raiseLate c).spt.ctx = s.spt.ctx := by
  unfold State.raiseLate
  split <;> rfl

theorem State.raiseLate_outs : (s.raiseLate c).spt.outs = s.spt.outs := by
  unfold State.raiseLate
  split <;> rfl

theorem combine_late (hbegins : s.begins 3 2 = some (u, c)) (hpasses : firstFail (u.combineChecks c) = none)
    (hp : spParams (u.params c) = p) (hlate : u.spPast p c.job 0 = true) : combine s = (u.raiseLate c).spLate c p.ctx := by
  subst hp
  simp only [combine, State.withHead_of_begins hbegins (by decide), hpasses, hlate, if_true]

/-- Table 9-5: the count rounds of a plan take the same places, whatever is counted. -/
theorem Exch.phases_counts {e e' : Exch} {part : Nat} (hplan : e'.plan = e.plan) (hpart : part ≤ 3) :
    e'.phases part n false = e.phases part n false := by
  unfold Exch.phases
  rw [hplan]
  simp only [hpart, if_true]

/-- The END of the count rounds depends on the plan and on the owned slots alone. -/
theorem Exch.endFrom_counts {e e' : Exch} (hplan : e'.plan = e.plan) (hom : e'.om = e.om) (hstate : e.x.state = 1) (hstate' : e'.x.state = 1) :
    e'.endFrom n = e.endFrom n := by
  have hround (t part : Nat) (hpart : part ≤ 3) : e'.endOf part 0 false (firstOwned e'.om t) = e.endOf part 0 false (firstOwned e.om t) := by
    rw [Exch.endOf, Exch.endOf, Exch.phases_counts hplan hpart, hplan, hom]
  have hcounting (x : Exch) (hx : x.x.state = 1) : x.x.state ≠ 4 := by rw [hx]; decide
  rw [Exch.endFrom, Exch.endFrom, if_neg (hcounting e hstate), if_neg (hcounting e' hstate'), hplan]
  split_ifs
  · simp only [List.foldl_cons, List.foldl_nil, hround _ _ (by decide : 1 ≤ 3), hround _ _ (by decide : 2 ≤ 3), hround _ _ (by decide : 3 ≤ 3)]
  · simp only [List.foldl_cons, List.foldl_nil, hround _ _ (by decide : 2 ≤ 3)]

/-- The exchange that a late DISPATCH would have run. -/
theorem State.lateExch_dispatch {e : Exch} (hopcode : c.opcode = 1) (he : s.lateExch c = some e) :
    e.x.state = 1 ∧ e.p = spParams (s.params c) ∧ s.plan e.p.plan = some e.plan ∧ e.om = s.planOmega e.plan c.job := by
  simp only [State.lateExch] at he
  split at he
  · cases he
  next pl hpl =>
    rw [if_pos hopcode] at he
    obtain rfl := Option.some.inj he
    exact ⟨rfl, rfl, hpl, rfl⟩

theorem dispatch_late (hbegins : s.begins 3 1 = some (u, c)) (hpasses : firstFail (u.dispatchChecks c) = none)
    (hassigned : (u.assignAll c).fail = none) (hp : spParams (u.params c) = p)
    (hlate : u.spPast p c.job (vectorTicks (u.dispatchCount c)) = true) :
    ∃ e : Exch, e.x.state = 1 ∧ e.plan = (u.plan p.plan).getD {} ∧ e.om = u.planOmega e.plan c.job ∧
      dispatch s = ((u.redirected (u.assignAll c).moved).raiseEnd c.job (e.endFrom (u.spStart p c.job))).spLate c p.ctx := by
  subst hp
  have hrun : dispatch s = _ := State.withHead_of_begins hbegins (by decide)
  simp only [hpasses, hassigned, hlate, if_true] at hrun
  exact ⟨_, rfl, rfl, rfl, hrun⟩

/-- R257: the END that a late DISPATCH raises is that of the count rounds its peers run. -/
theorem State.lateExch_endFrom {e e' : Exch} (hopcode : c.opcode = 1) (hp : spParams (s.params c) = p) (hstate : e.x.state = 1)
    (hplan : e.plan = (s.plan p.plan).getD {}) (hom : e.om = s.planOmega e.plan c.job) (he' : s.lateExch c = some e') :
    e'.endFrom (s.spStart e'.p c.job) = e.endFrom (s.spStart p c.job) := by
  obtain ⟨hstate', hp', hplan', hom'⟩ := State.lateExch_dispatch hopcode he'
  rw [hp] at hp'
  rw [hp'] at hplan' ⊢
  have hsame : e'.plan = e.plan := by rw [hplan, hplan', Option.getD_some]
  exact Exch.endFrom_counts hsame (by rw [hom', hom, hsame]) hstate hstate'

/-! ### The statement -/

/-- Settles O21: a DISPATCH and a COMBINE by the exchange they begin, by their refusal, or by their late end; RELEASE by its end. -/
theorem spoutCommands : Obligations.SpoutCommands := by
  unfold Obligations.SpoutCommands
  refine ⟨?dispatches, ?combines, ?releases, ?refused, ?lateCombine, ?lateDispatch⟩
  case dispatches =>
    intro s u c p hbegins hpasses hassigned hp hintime
    obtain ⟨x, hbegun, hstate, hrecs, hjob, hcmd⟩ := dispatch_begins hbegins hpasses hassigned hp hintime
    have hspt := (State.begun_of_begins hbegins).spt
    have hctx (i : Nat) : ((u.redirected (u.assignAll c).moved).raiseEnd (u.spCtx p.ctx).job (u.spCtx p.ctx).endsAt).spCtx i = s.spCtx i :=
      State.raiseEnd_spCtx.trans (State.redirected_spCtx.trans (State.spCtx_of_spt hspt))
    have hlive : ((u.redirected (u.assignAll c).moved).raiseEnd (u.spCtx p.ctx).job (u.spCtx p.ctx).endsAt).live = u.live :=
      State.raiseEnd_live.trans State.redirected_live
    refine ⟨dispatch s, rfl, (congrArg SpoutCtx.state hbegun.spCtx).trans hstate, (congrArg SpoutCtx.recs hbegun.spCtx).trans hrecs,
      (congrArg SpoutCtx.job hbegun.spCtx).trans hjob, (congrArg SpoutCtx.cmd hbegun.spCtx).trans hcmd, fun i hi => ?_, ?_, ?_, ?_, ?_⟩
    · rw [← hctx i]
      exact hbegun.others i hi
    · rw [hbegun.live, hlive]
    · rw [hbegun.frame, ← hspt]
      simp
    · rw [hbegun.frame, ← State.spCtx_of_spt hspt, ← hspt]
      simp
    · exact State.eq_of_outsideExchange
        (hbegun.outsideExchange.trans (State.raiseEnd_outsideExchange.trans State.redirected_outsideExchange))
  case combines =>
    intro s u c p hbegins hpasses hp hintime
    obtain ⟨x, hbegun, hstate, hlanded, hcmd⟩ := combine_begins hbegins hpasses hp hintime
    have hctx (i : Nat) : u.spCtx i = s.spCtx i := State.spCtx_of_spt (State.begun_of_begins hbegins).spt
    refine ⟨combine s, rfl, (congrArg SpoutCtx.state hbegun.spCtx).trans hstate,
      (congrArg SpoutCtx.landed hbegun.spCtx).trans (hlanded.trans (congrArg SpoutCtx.landed (hctx p.ctx))),
      (congrArg SpoutCtx.cmd hbegun.spCtx).trans hcmd, fun i hi => ?_, hbegun.live, ?_⟩
    · rw [← hctx i]
      exact hbegun.others i hi
    · rw [hbegun.frame]
  case releases =>
    intro s u c hbegins hpasses
    have hbegun := State.begun_of_begins hbegins
    refine ⟨spoutRelease s, rfl, ?_⟩
    rw [spoutRelease_frees hbegins hpasses rfl, State.spCtx_of_spt State.spEnd_spt, State.spCtx_modSpCtx, State.spCtx_of_spt hbegun.spt]
    exact ⟨rfl, rfl, State.spEnd_lastStatus, fun a ha => by rw [State.spEnd_ok_spares ha, State.modSpCtx_mem, hbegun.mem]⟩
  case refused =>
    intro s u c st d hbegins hfails
    refine ⟨dispatch s, rfl, ?_⟩
    rw [dispatch_refuses hbegins hfails]
    exact ⟨State.spEnd_spt.trans (State.begun_of_begins hbegins).spt, State.spEnd_lastStatus, State.spEnd_onlyCommands hbegins⟩
  case lateCombine =>
    intro s u c p hbegins hpasses hp hlate
    have hspt := (State.begun_of_begins hbegins).spt
    refine ⟨combine s, rfl, ?_⟩
    rw [combine_late hbegins hpasses hp hlate, State.spLate_spt, State.raiseLate_ctx, State.raiseLate_outs, hspt]
    exact ⟨rfl, rfl, rfl, State.spLate_lastStatus, State.spLate_evt⟩
  case lateDispatch =>
    intro s u c p hbegins hpasses hassigned hp hlate
    obtain ⟨e, hstate, hplan, hom, hends⟩ := dispatch_late hbegins hpasses hassigned hp hlate
    refine ⟨dispatch s, rfl, ?_⟩
    rw [hends, State.spLate_spt, ← (State.begun_of_begins hbegins).spt]
    refine ⟨by simp, by simp, ?_, State.spLate_lastStatus, State.spLate_evt⟩
    rw [State.raiseEnd_lastEnd, State.redirected_spt, Option.all_eq_true]
    intro e' he'
    rw [State.lateExch_endFrom (State.opcode_of_begins hbegins) hp hstate hplan hom he']
    exact beq_self_eq_true _

end Sys2Proof.Machine

/-!
PROOF. A receive deadline of Spout (O22). Of the streams that a context expects, those past their deadline are given up, and a count stream
among them loses the maxima (R253, R259). In no state that the model reaches does a context expect count streams and record streams at once.
The statement ranges over every state, also one whose context expects a count stream after a record stream, and there takes as lost a count
stream whose deadline has not come.
-/

namespace Sys2Proof.Machine

variable {s : State} {i : Nat} {x : SpoutCtx} {y : SpoutExpect} {l : List SpoutExpect}

/-- A context that gives up the streams `y :: l` at a tick: REMOTE_TIMEOUT with the phase and stage of the first (R253), and the maxima lost
with a count stream (R259). -/
def SpoutCtx.givesUp (x : SpoutCtx) (now : Nat) (y : SpoutExpect) (l : List SpoutExpect) : SpoutCtx :=
  { x with status := stRemoteTimeout, detail := y.phase * 65536 + partStage y.part
           countsLost := x.countsLost || (y :: l).any fun z => decide (z.part ≤ 3), expect := x.expect.filter fun z => decide (now ≤ z.deadline) }

/-- R253: a context without a failure yet, before its END, gives up the streams past their deadline, and no others. -/
theorem spoutReceiveDeadline_givesUp (hctx : s.spCtx i = x) (hlate : (x.expect.filter fun z => decide (z.deadline < s.now)) = y :: l)
    (hstatus : x.status = 0) (hend : s.now < x.endsAt) : (spoutReceiveDeadline i s).spCtx i = x.givesUp s.now y l := by
  have hbefore : ¬ x.endsAt ≤ s.now := Nat.not_le.2 hend
  simp only [spoutReceiveDeadline, hctx, hlate, State.spMark, State.loseCounts, State.spCtx_modSpCtx, if_pos hstatus, if_neg hbefore]
  rfl

/-- A record stream of stage 1 that device 1 was to have sent by tick 0. -/
def lateRecords : SpoutExpect := { part := 4, src := 1, phase := 1, base := 0, upTo := 1, pos := 0, deadline := 0 }

/-- A count stream of round B1 that device 1 has to have sent by tick 1. -/
def countToCome : SpoutExpect := { part := 2, src := 1, phase := 1, base := 0, upTo := 1, pos := 0, deadline := 1 }

/-- A context that expects both, and that ends at tick 2. -/
def countAfterRecords : SpoutCtx := { state := 1, endsAt := 2, expect := [lateRecords, countToCome] }

/-- At tick 1 the record stream is missing, and the count stream can still come. -/
def recordsMissing : State := { ht := { state := .locked, count := 1 }, spt := { ctx := [(0, countAfterRecords)] } }

/-- Refutes O22: in `recordsMissing` the record stream alone is given up, and no count stream is lost, where the clause of the receive deadline
says that one is: it looks for count streams among all that the context expects, not among those past their deadline. -/
theorem not_spoutExchanges : ¬ Obligations.SpoutExchanges := by
  unfold Obligations.SpoutExchanges
  rintro ⟨-, -, -, -, -, -, -, -, deadline, -⟩
  obtain ⟨t, hrun, hclaimed, -⟩ := deadline recordsMissing 0 lateRecords [countToCome] (by decide) rfl (by decide) rfl (by decide)
  have hgivesUp : t.spCtx 0 = countAfterRecords.givesUp 1 lateRecords [] := by
    rw [← Host.Outcome.next.inj hrun]
    exact spoutReceiveDeadline_givesUp rfl rfl rfl (by decide)
  have hlost : (t.spCtx 0).countsLost = true := by rw [hclaimed]; rfl
  have hkept : (t.spCtx 0).countsLost = false := by rw [hgivesUp]; rfl
  exact absurd (hkept.symm.trans hlost) (by decide)

end Sys2Proof.Machine

/-!
PROOF. Flits received (O36). A flit that comes counts at its port before its check; one that passes it counts again, and goes on as its VC and
its sequence number say. Every such count leaves the ports that are up as they were, so a flit's hop leads where it led before.
-/

namespace Sys2Proof.Machine

variable {s t : State} {p q n m slot pos : Nat} {f : Flit} {ok : Bool}

/-! ### States that differ in their ports alone -/

/-- `t` is `s` but for its ports. -/
def OnlyPorts (s t : State) : Prop := t = { s with ports := t.ports }

theorem OnlyPorts.trans {u : State} (h : OnlyPorts s t) (h' : OnlyPorts t u) : OnlyPorts s u := by
  unfold OnlyPorts at h h' ⊢
  rw [h', h]

theorem State.modPort_onlyPorts {g : Port → Port} : OnlyPorts s (s.modPort p g) := rfl

theorem OnlyPorts.fab (h : OnlyPorts s t) : t.fab = s.fab := (congrArg State.fab h :)
theorem OnlyPorts.spt (h : OnlyPorts s t) : t.spt = s.spt := (congrArg State.spt h :)
theorem OnlyPorts.boot (h : OnlyPorts s t) : t.boot = s.boot := (congrArg State.boot h :)
theorem OnlyPorts.bld (h : OnlyPorts s t) : t.bld = s.bld := (congrArg State.bld h :)
theorem OnlyPorts.mem (h : OnlyPorts s t) : t.mem = s.mem := (congrArg State.mem h :)
theorem OnlyPorts.wdn (h : OnlyPorts s t) : t.wdn = s.wdn := (congrArg State.wdn h :)
theorem OnlyPorts.now (h : OnlyPorts s t) : t.now = s.now := (congrArg State.now h :)
theorem OnlyPorts.engCycle (h : OnlyPorts s t) : t.engCycle = s.engCycle := (congrArg State.engCycle h :)
theorem OnlyPorts.neighbourOnly (h : OnlyPorts s t) : t.neighbourOnly = s.neighbourOnly := (congrArg State.neighbourOnly h :)
theorem OnlyPorts.slotOwner (h : OnlyPorts s t) : t.slotOwner p slot = s.slotOwner p slot := congrArg (fun u => u.slotOwner p slot) h

/-! What is put in the place of the ports, and of the fabric or the streams, makes one state of two that differ in their ports alone. -/

theorem OnlyPorts.mk_ports_fab {l : Sparse Port} {x : Fabric} (h : OnlyPorts s t) :
    ({ t with ports := l, fab := x } : State) = { s with ports := l, fab := x } :=
  congrArg (fun u : State => { u with ports := l, fab := x }) h

theorem OnlyPorts.mk_ports_spt {l : Sparse Port} {x : Spout} (h : OnlyPorts s t) :
    ({ t with ports := l, spt := x } : State) = { s with ports := l, spt := x } :=
  congrArg (fun u : State => { u with ports := l, spt := x }) h

/-! ### The flit at its port -/

theorem State.portUp_of_portLine (h : t.portLine q = s.portLine q) : t.portUp q = s.portUp q :=
  congrArg (fun x => x.state == 3) h

/-- R275 to R277: a hop leads by the blend and by the ports that are up. -/
theorem State.hopAction_modPort {g : Port → Port} (hline : ∀ x, (g x).line = x.line) : (s.modPort p g).hopAction f = s.hopAction f := by
  have hup (q : Nat) : (s.modPort p g).portUp q = s.portUp q := State.portUp_of_portLine (State.portLine_modPort_same hline)
  simp only [State.hopAction, hup]
  rfl

/-- Which slot a flit counts for rests on the holes of its port. -/
theorem Port.vc1Place_of_holes {x y : Port} (h : y.holes = x.holes) : y.vc1Place f slot pos = x.vc1Place f slot pos := by
  simp only [Port.vc1Place, h]

/-- R271: a port counts the position of a flit, and the codewords its FEC corrected. -/
def Port.hears (x : Port) (n m : Nat) : Port := { x with cntFec := x.cntFec + n, rxPos := max x.rxPos (m + 1) }

/-- R285: a flit has passed its check. -/
def Port.passes (x : Port) (now : Nat) : Port := { x with lastGood := now }

/-- A flit that is neither IDLE nor LCTL has passed its check. -/
def Port.counts (x : Port) : Port := { x with cntRx := x.cntRx + 1 }

theorem Port.hears_line (x : Port) : (x.hears n m).line = x.line := rfl
theorem Port.passes_line (x : Port) : (x.passes n).line = x.line := rfl
theorem Port.counts_line (x : Port) : x.counts.line = x.line := rfl

/-- The state as a flit comes, before its check. -/
def State.hears (s : State) (p n m : Nat) : State := s.modPort p fun x => x.hears n m

/-- The state as a flit passes its check. -/
def State.checked (s : State) (p n m : Nat) : State := (s.hears p n m).modPort p fun x => x.passes s.boot.sincePwrOk

/-- The state as a flit that is neither IDLE nor LCTL passes its check. -/
def State.counted (s : State) (p n m : Nat) : State := (s.checked p n m).modPort p Port.counts

theorem State.port_hears : (s.hears p n m).port p = (s.port p).hears n m := State.port_modPort_self

theorem State.port_checked : (s.checked p n m).port p = ((s.port p).hears n m).passes s.boot.sincePwrOk := by
  rw [State.checked, State.port_modPort_self, State.port_hears]

theorem State.port_counted : (s.counted p n m).port p = (((s.port p).hears n m).passes s.boot.sincePwrOk).counts := by
  rw [State.counted, State.port_modPort_self, State.port_checked]

theorem State.hears_nak : ((s.hears p n m).port p).nak = (s.port p).nak := by rw [State.port_hears, Port.hears]

theorem State.hears_vc1Place : ((s.hears p n m).port p).vc1Place f slot pos = (s.port p).vc1Place f slot pos :=
  Port.vc1Place_of_holes (by rw [State.port_hears, Port.hears])

theorem State.counted_vc1Place : ((s.counted p n m).port p).vc1Place f slot pos = (s.port p).vc1Place f slot pos :=
  Port.vc1Place_of_holes (by rw [State.port_counted, Port.counts, Port.passes, Port.hears])

theorem State.counted_nak : ((s.counted p n m).port p).nak = (s.port p).nak := by
  rw [State.port_counted, Port.counts, Port.passes, Port.hears]

theorem State.counted_rxLseq : ((s.counted p n m).port p).rxLseq = (s.port p).rxLseq := by
  rw [State.port_counted, Port.counts, Port.passes, Port.hears]

theorem State.port_counted_ne (h : q ≠ p) : (s.counted p n m).port q = s.port q := by
  rw [State.counted, State.port_modPort_ne h, State.checked, State.port_modPort_ne h, State.hears, State.port_modPort_ne h]

theorem State.hears_onlyPorts : OnlyPorts s (s.hears p n m) := State.modPort_onlyPorts

theorem State.checked_onlyPorts : OnlyPorts s (s.checked p n m) := State.hears_onlyPorts.trans State.modPort_onlyPorts

theorem State.counted_onlyPorts : OnlyPorts s (s.counted p n m) := State.checked_onlyPorts.trans State.modPort_onlyPorts

theorem State.hopAction_counted : (s.counted p n m).hopAction f = s.hopAction f := by
  rw [State.counted, State.hopAction_modPort Port.counts_line, State.checked, State.hopAction_modPort fun x => Port.passes_line x,
    State.hears, State.hopAction_modPort fun x => Port.hears_line x]

/-! ### The check, R271 -/

theorem flitReceive_of_down (hdown : s.portUp p = false) : flitReceive p f ok n m pos s = s := if_pos (by rw [hdown]; rfl)

theorem flitReceive_of_failed (hup : s.portUp p = true) (hfail : (ok && (s.port p).verifies f m) = false) :
    flitReceive p f ok n m pos s = (s.hears p n m).failCheck p f (s.sentSlot p pos) pos := by
  rw [flitReceive, if_neg (by simp [hup])]
  exact if_pos (by rw [hfail]; rfl)

/-- The state as a flit of type 0 or 1 has passed its check on another VC than VC0. -/
def State.wrongVc (s : State) (p n m : Nat) : State :=
  { s with ports := (s.checked p n m).ports, fab := { s.fab with cntMisroute := s.fab.cntMisroute + 1 } }

theorem State.wrongVc_frame : s.wrongVc p n m = { s with ports := (s.wrongVc p n m).ports, fab := (s.wrongVc p n m).fab } := by
  simp only [State.wrongVc]

theorem State.port_wrongVc : (s.wrongVc p n m).port q = (s.checked p n m).port q := by simp only [State.port, State.wrongVc]

section
variable (hup : s.portUp p = true) (hpass : (s.port p).verifies f m = true)
include hup hpass

/-- A flit that passes its check. -/
theorem flitReceive_of_passed : flitReceive p f true n m pos s =
    if f.typ.toNat ≤ 1 && f.vc != 0 then (s.checked p n m).countMisroute
    else if f.typ = 0x00 then s.checked p n m
    else if f.typ = 0x01 then (s.checked p n m).takeLctl p (parseLctl f.payload)
    else if f.vc = 1 then (s.counted p n m).receiveVc1 p f (s.sentSlot p pos) pos
    else (s.counted p n m).receiveArb p f := by
  rw [flitReceive, if_neg (by simp [hup])]
  exact if_neg (by simp [hpass])

/-- Table 10-6: a flit whose VC its type does not allow is counted. -/
theorem flitReceive_wrongVc (htyp : f.typ.toNat ≤ 1) (hvc : f.vc ≠ 0) : flitReceive p f true n m pos s = s.wrongVc p n m := by
  have hports : OnlyPorts s (s.checked p n m) := State.checked_onlyPorts
  rw [flitReceive_of_passed hup hpass, if_pos (by simpa [htyp] using hvc), State.countMisroute, hports.mk_ports_fab, hports.fab,
    ← State.wrongVc]

theorem flitReceive_vc1 (h0 : f.typ ≠ 0) (h1 : f.typ ≠ 1) (hvc : f.vc = 1) :
    flitReceive p f true n m pos s = (s.counted p n m).receiveVc1 p f (s.sentSlot p pos) pos := by
  have hlarge : ¬ f.typ.toNat ≤ 1 := by bv_omega
  rw [flitReceive_of_passed hup hpass, if_neg (by simp [hlarge]), if_neg h0, if_neg h1, if_pos hvc]

theorem flitReceive_arb (h0 : f.typ ≠ 0) (h1 : f.typ ≠ 1) (hvc : f.vc ≠ 1) :
    flitReceive p f true n m pos s = (s.counted p n m).receiveArb p f := by
  have hlarge : ¬ f.typ.toNat ≤ 1 := by bv_omega
  rw [flitReceive_of_passed hup hpass, if_neg (by simp [hlarge]), if_neg h0, if_neg h1, if_neg hvc]

end

/-! ### Arbitrated flits, R283 -/

/-- R283: the port that has taken the flit it awaited. -/
def Port.takesNext (x : Port) (f : Flit) : Port :=
  { x.takeBuffer f.vc.toNat with
    rxLseq := x.rxLseq + 1, ack := some f.seq, nak := none, seqFails := 0, arbSinceLctl := x.arbSinceLctl + 1 }

theorem Port.takesNext_line (x : Port) : (x.takesNext f).line = x.line := rfl

theorem Port.takesNext_occ {x : Port} : tget 0 (x.takesNext f).occ f.vc.toNat = tget 0 x.occ f.vc.toNat + 1 := by
  simp [Port.takesNext, Port.takeBuffer]

theorem State.receiveArb_inSequence (hseq : f.seq = (s.port p).rxLseq) (htyp : f.typ = 0x10) (hvc : f.vc = 2 ∨ f.vc = 3)
    (happlied : s.neighbourOnly = false) : s.receiveArb p f = (s.modPort p fun x => x.takesNext f).routeArb p f := by
  have hallowed : (typeVcs f.typ.toNat).contains f.vc.toNat = true := by
    rw [htyp]
    rcases hvc with hvc | hvc <;> rw [hvc] <;> rfl
  rw [State.receiveArb, if_neg (by simp [hseq])]
  refine (if_neg ?_).trans ((if_neg ?_).trans (if_neg ?_))
  · rw [hallowed]; decide
  · simp [happlied]
  · rw [htyp]; decide

theorem State.routeArb_delivers (haction : s.hopAction f = .deliver) (hdst : f.dst = 0xFFFF ∨ f.dst = s.fab.fabId) :
    s.routeArb p f = s.deliver p f := by
  simp only [State.routeArb, haction]
  exact if_neg (by rcases hdst with h | h <;> simp [h])

/-- R289: a request whose hop leads to a dead port is answered, and its buffer freed. -/
theorem State.routeArb_dead (haction : s.hopAction f = .dead) (htyp : f.typ = 0x10) : s.routeArb p f =
    { s with
      ports := (s.release p f).ports
      fab := { s.fab with
        cntRouteDead := s.fab.cntRouteDead + 1
        errRsps := s.fab.errRsps ++ [{ status := stRouteDead, dst := f.src.toNat, head := f.payload.take 32, foundAt := s.boot.sincePwrOk }] } } := by
  simp only [State.routeArb, haction, State.oweErr, htyp, if_true, State.countDead, State.release, State.modPort]

/-- The request that a flit brings, as it waits at its destination. -/
def State.inReq (s : State) (p : Nat) (f : Flit) : InReq :=
  { src := f.src.toNat, port := p, vc := f.vc.toNat, req := parseReq f.payload, cycle := s.engCycle }

theorem State.deliver_request (htyp : f.typ = 0x10) : s.deliver p f =
    { s with fab := { s.fab with ingress := insertBy InReq.before (s.inReq p f) s.fab.ingress } } := if_pos htyp

/-- The state as the awaited flit has passed its check. -/
def State.awaited (s : State) (p n m : Nat) (f : Flit) : State := (s.counted p n m).modPort p fun x => x.takesNext f

theorem State.port_awaited : (s.awaited p n m f).port p =
    ((((s.port p).hears n m).passes s.boot.sincePwrOk).counts).takesNext f := by
  rw [State.awaited, State.port_modPort_self, State.port_counted]

theorem State.port_awaited_ne (h : q ≠ p) : (s.awaited p n m f).port q = s.port q := by
  rw [State.awaited, State.port_modPort_ne h, State.port_counted_ne h]

theorem State.awaited_onlyPorts : OnlyPorts s (s.awaited p n m f) := State.counted_onlyPorts.trans State.modPort_onlyPorts

theorem State.hopAction_awaited {g : Flit} : (s.awaited p n m f).hopAction g = s.hopAction g := by
  rw [State.awaited, State.hopAction_modPort fun x => Port.takesNext_line x, State.hopAction_counted]

theorem State.inReq_awaited : (s.awaited p n m f).inReq p f = s.inReq p f := by
  rw [State.inReq, State.awaited_onlyPorts.engCycle, ← State.inReq]

/-- The state as a request for this device waits at its destination. -/
def State.requested (s : State) (p n m : Nat) (f : Flit) : State :=
  { s with
    ports := (s.awaited p n m f).ports
    fab := { s.fab with ingress := insertBy InReq.before (s.inReq p f) s.fab.ingress } }

/-- R289: the state as a request's hop leads to a dead port: an answer is owed, and its buffer is freed. -/
def State.deadEnded (s : State) (p n m : Nat) (f : Flit) : State :=
  { s with
    ports := ((s.awaited p n m f).release p f).ports
    fab := { s.fab with
      cntRouteDead := s.fab.cntRouteDead + 1
      errRsps := s.fab.errRsps ++ [{ status := stRouteDead, dst := f.src.toNat, head := f.payload.take 32, foundAt := s.boot.sincePwrOk }] } }

theorem State.requested_frame : s.requested p n m f =
    { s with ports := (s.requested p n m f).ports, fab := (s.requested p n m f).fab } := by simp only [State.requested]

theorem State.deadEnded_frame : s.deadEnded p n m f =
    { s with ports := (s.deadEnded p n m f).ports, fab := (s.deadEnded p n m f).fab } := by simp only [State.deadEnded]

theorem State.port_requested : (s.requested p n m f).port q = (s.awaited p n m f).port q := by simp only [State.port, State.requested]

section
variable (hup : s.portUp p = true) (hpass : (s.port p).verifies f m = true) (htyp : f.typ = 0x10) (hvc : f.vc = 2 ∨ f.vc = 3)
  (hseq : f.seq = (s.port p).rxLseq) (happlied : s.neighbourOnly = false)
include hup hpass htyp hvc hseq happlied

/-- A request in sequence is routed. -/
theorem flitReceive_request : flitReceive p f true n m pos s = (s.awaited p n m f).routeArb p f := by
  have hseq' : f.seq = ((s.counted p n m).port p).rxLseq := hseq.trans State.counted_rxLseq.symm
  rw [flitReceive_arb hup hpass (by rw [htyp]; decide) (by rw [htyp]; decide) (by rcases hvc with h | h <;> rw [h] <;> decide),
    State.receiveArb_inSequence hseq' htyp hvc (State.counted_onlyPorts.neighbourOnly.trans happlied), ← State.awaited]

theorem flitReceive_delivers (haction : s.hopAction f = .deliver) (hdst : f.dst = 0xFFFF ∨ f.dst = s.fab.fabId) :
    flitReceive p f true n m pos s = s.requested p n m f := by
  have hdst' : f.dst = 0xFFFF ∨ f.dst = (s.awaited p n m f).fab.fabId := by rwa [State.awaited_onlyPorts.fab]
  rw [flitReceive_request hup hpass htyp hvc hseq happlied, State.routeArb_delivers (State.hopAction_awaited.trans haction) hdst',
    State.deliver_request htyp, State.inReq_awaited, State.awaited_onlyPorts.fab, State.requested]
  exact State.awaited_onlyPorts.mk_ports_fab

theorem flitReceive_dead (haction : s.hopAction f = .dead) : flitReceive p f true n m pos s = s.deadEnded p n m f := by
  have hports : OnlyPorts s (s.awaited p n m f) := State.awaited_onlyPorts
  rw [flitReceive_request hup hpass htyp hvc hseq happlied, State.routeArb_dead (State.hopAction_awaited.trans haction) htyp,
    hports.mk_ports_fab, hports.fab, hports.boot, ← State.deadEnded]

end

theorem State.receiveArb_gap (hseq : f.seq ≠ (s.port p).rxLseq) (hgap : (f.seq - (s.port p).rxLseq).toNat < 2048)
    (hnak : (s.port p).nak = none) : (s.receiveArb p f).port p =
      { s.port p with arbSinceLctl := (s.port p).arbSinceLctl + 1, nak := some (s.port p).rxLseq, lctlNew := true } := by
  rw [State.receiveArb, if_pos (by simpa using hseq), State.port_modPort_self]
  exact if_pos (Bool.and_eq_true _ _ ▸ ⟨decide_eq_true hgap, by rw [hnak]; rfl⟩)

theorem State.receiveArb_gap_onlyPorts (hseq : f.seq ≠ (s.port p).rxLseq) : OnlyPorts s (s.receiveArb p f) := by
  rw [State.receiveArb, if_pos (by simpa using hseq)]
  exact State.modPort_onlyPorts

/-! ### VC1 flits, R245, R284, R286 -/

/-- R284: a VC1 flit that passed its check fills the hole at its place. -/
def Port.fillsHole (x : Port) (sl ps : Nat) : Port :=
  { x with holes := x.holes.erase (sl, ps), holeFails := tset 0 x.holeFails (sl * 128 + ps) 0 }

theorem Port.fillsHole_line {sl ps : Nat} (x : Port) : (x.fillsHole sl ps).line = x.line := rfl

/-- R286: a stream flit for this device, kept for the job whose slot it came in. -/
theorem State.receiveVc1_delivers {sl ps j : Nat} (hplace : (s.port p).vc1Place f slot pos = (sl, ps)) (htyp : f.typ = 8)
    (howner : s.slotOwner p sl = some j) (happlied : s.neighbourOnly = false) (haction : s.hopAction f = .deliver)
    (hdst : f.dst = 0xFFFF ∨ f.dst = s.fab.fabId) : s.receiveVc1 p f slot pos = { s with
      ports := (s.modPort p fun x => x.fillsHole sl ps).ports
      spt := { s.spt with rx := s.spt.rx ++ [{ src := f.src, port := p, job := j, key := sl * 128 + ps, payload := f.payload }] } } := by
  have howner' (g : Port → Port) : (s.modPort p g).slotOwner p sl = some j := howner
  have happlied' (g : Port → Port) : (s.modPort p g).neighbourOnly = false := happlied
  have haction' : (s.modPort p fun x => x.fillsHole sl ps).hopAction f = .deliver :=
    (State.hopAction_modPort fun x => Port.fillsHole_line x).trans haction
  have hhere : (f.dst != 0xFFFF && f.dst != s.fab.fabId) = false := by rcases hdst with h | h <;> simp [h]
  simp only [State.receiveVc1, hplace, htyp, ← Port.fillsHole.eq_1, howner', happlied', haction', hhere]
  rfl

/-! ### Checks that fail, R283 to R285 -/

theorem State.failCheck_onlyPorts : OnlyPorts s ((s.hears p n m).failCheck p f slot pos) :=
  State.hears_onlyPorts.trans State.modPort_onlyPorts

/-- R283: the port that refuses an arbitrated flit. -/
def Port.refuses (x : Port) : Port :=
  { x.seqFailed with nak := some (x.nak.getD x.rxLseq), lctlNew := true, arbSinceLctl := x.arbSinceLctl + 1 }

/-- R284: the port that notes a hole. -/
def Port.notesHole (x : Port) (h : Nat × Nat) : Port :=
  { x.holeFailed h.1 h.2 with holes := if x.holes.contains h then x.holes else x.holes ++ [h], lctlNew := true }

theorem Port.refuses_nak {x : Port} (h : x.nak = none) : x.refuses.nak = some x.rxLseq := by simp [Port.refuses, h]

theorem Port.refuses_fourFails {x : Port} (h : x.seqFails = 3) : x.refuses.fourFails = true := by simp [Port.refuses, Port.seqFailed, h]

theorem Port.notesHole_holes {x : Port} {h : Nat × Nat} (hnew : h ∉ x.holes) : (x.notesHole h).holes = x.holes ++ [h] :=
  if_neg (by simpa using hnew)

theorem Port.notesHole_nak {x : Port} {h : Nat × Nat} : ((x.checkFailed n).notesHole h).nak = x.nak := by
  rw [Port.notesHole, Port.holeFailed, Port.checkFailed]

/-- R283: a failed arbitrated flit is refused, unless one is refused already. -/
theorem State.failCheck_arb (hvc : f.vc ≠ 1) (h0 : f.typ ≠ 0) (h1 : f.typ ≠ 1) (hnak : (s.port p).nak = none) :
    (s.failCheck p f slot pos).port p = ((s.port p).checkFailed s.boot.sincePwrOk).refuses := by
  have hfirst : (f.seq = (s.port p).rxLseq || (s.port p).nak.isNone) = true := by simp [hnak]
  rw [State.failCheck, State.port_modPort_self]
  exact (if_neg hvc).trans ((if_neg (by rw [decide_eq_false h0, decide_eq_false h1]; decide)).trans (if_pos hfirst))

/-- R284: a failed VC1 flit leaves a hole. -/
theorem State.failCheck_vc1 (hvc : f.vc = 1) : (s.failCheck p f slot pos).port p =
    ((s.port p).checkFailed s.boot.sincePwrOk).notesHole ((s.port p).vc1Place f slot pos) := by
  rw [State.failCheck, State.port_modPort_self]
  exact if_pos hvc

/-! ### A stream flit that passes its check -/

/-- R286: the state as a stream flit for this device is kept for the job of its slot. -/
def State.streamed (s : State) (p n m : Nat) (f : Flit) (sl ps j : Nat) : State :=
  { s with
    ports := ((s.counted p n m).modPort p fun x => x.fillsHole sl ps).ports
    spt := { s.spt with rx := s.spt.rx ++ [{ src := f.src, port := p, job := j, key := sl * 128 + ps, payload := f.payload }] } }

theorem State.streamed_frame {sl ps j : Nat} : s.streamed p n m f sl ps j =
    { s with ports := (s.streamed p n m f sl ps j).ports, spt := (s.streamed p n m f sl ps j).spt } := by simp only [State.streamed]

theorem flitReceive_streams {sl ps j : Nat} (hup : s.portUp p = true) (hpass : (s.port p).verifies f m = true) (hvc : f.vc = 1)
    (htyp : f.typ = 8) (hplace : (s.port p).vc1Place f (s.sentSlot p pos) pos = (sl, ps)) (howner : s.slotOwner p sl = some j)
    (happlied : s.neighbourOnly = false) (haction : s.hopAction f = .deliver) (hdst : f.dst = 0xFFFF ∨ f.dst = s.fab.fabId) :
    flitReceive p f true n m pos s = s.streamed p n m f sl ps j := by
  have hports : OnlyPorts s (s.counted p n m) := State.counted_onlyPorts
  have hplace' : ((s.counted p n m).port p).vc1Place f (s.sentSlot p pos) pos = (sl, ps) := State.counted_vc1Place.trans hplace
  have hdst' : f.dst = 0xFFFF ∨ f.dst = (s.counted p n m).fab.fabId := by rwa [hports.fab]
  rw [flitReceive_vc1 hup hpass (by rw [htyp]; decide) (by rw [htyp]; decide) hvc,
    State.receiveVc1_delivers hplace' htyp (hports.slotOwner.trans howner) (hports.neighbourOnly.trans happlied)
      (State.hopAction_counted.trans haction) hdst', hports.mk_ports_spt, hports.spt, ← State.streamed]

/-! ### The statement -/

/-- Settles O36: a flit that fails its check by `State.failCheck`, one that passes by what its VC makes of it. -/
theorem flitsReceived : Obligations.FlitsReceived := by
  unfold Obligations.FlitsReceived
  refine ⟨fun s p n m ps f hp hup hpass htyp hvc hseq happlied haction hdst => ?_,
    fun s p n m ps f hp hup hpass h0 h1 hvc hseq hgap hnak => ?_, fun s p n m ps f ok hp hup hfail h0 h1 hvc hnak => ?_,
    fun s p n m ps f ok h hp hup hfail hvc hplace _ hnew => ?_,
    fun s p n m sl ps at' j f hp hup hpass hvc htyp hplace _ howner happlied haction hdst => ?_,
    fun s p n m ps f hp hup hpass htyp hvc hseq happlied haction => ?_,
    fun s p n m ps f ok hp hdown => (if_pos hp).trans (congrArg Host.Outcome.next (flitReceive_of_down hdown)),
    fun s p n m ps f hp hup hpass htyp hvc => ?_⟩
  · refine ⟨_, (if_pos hp).trans (congrArg Host.Outcome.next (flitReceive_delivers hup hpass htyp hvc hseq happlied haction hdst)), ?_⟩
    rw [State.port_requested, State.port_awaited]
    generalize s.port p = x
    exact ⟨rfl, rfl, rfl, rfl, rfl, rfl, Port.takesNext_occ, rfl, rfl, fun _ hq => State.port_requested.trans (State.port_awaited_ne hq),
      State.requested_frame⟩
  · have hseq' : f.seq ≠ ((s.counted p n m).port p).rxLseq := by rwa [State.counted_rxLseq]
    have hport := State.receiveArb_gap hseq' (by rwa [State.counted_rxLseq]) (State.counted_nak.trans hnak)
    refine ⟨_, (if_pos hp).trans (congrArg Host.Outcome.next (flitReceive_arb hup hpass h0 h1 hvc)), ?_⟩
    rw [hport, State.port_counted]
    generalize s.port p = x
    exact ⟨rfl, rfl, rfl, State.counted_onlyPorts.trans (State.receiveArb_gap_onlyPorts hseq')⟩
  · refine ⟨_, (if_pos hp).trans (congrArg Host.Outcome.next (flitReceive_of_failed hup hfail)), ?_⟩
    rw [State.failCheck_arb hvc h0 h1 (State.hears_nak.trans hnak), State.port_hears]
    generalize s.port p = x at hnak ⊢
    exact ⟨Port.refuses_nak (x := (x.hears n m).checkFailed _) hnak, rfl, rfl, rfl,
      Port.refuses_fourFails (x := (x.hears n m).checkFailed _), State.failCheck_onlyPorts⟩
  · refine ⟨_, (if_pos hp).trans (congrArg Host.Outcome.next (flitReceive_of_failed hup hfail)), ?_⟩
    rw [State.failCheck_vc1 hvc, State.hears_vc1Place, hplace, State.port_hears]
    generalize s.port p = x at hnew ⊢
    exact ⟨Port.notesHole_holes (x := (x.hears n m).checkFailed _) hnew, rfl, rfl, Port.notesHole_nak, State.failCheck_onlyPorts⟩
  · have hrun := flitReceive_streams (n := n) hup hpass hvc htyp hplace howner happlied haction hdst
    exact ⟨_, (if_pos hp).trans (congrArg Host.Outcome.next hrun), rfl, rfl, State.streamed_frame⟩
  · exact ⟨_, (if_pos hp).trans (congrArg Host.Outcome.next (flitReceive_dead hup hpass htyp hvc hseq happlied haction)), rfl, rfl, rfl,
      State.deadEnded_frame⟩
  · refine ⟨_, (if_pos hp).trans (congrArg Host.Outcome.next (flitReceive_wrongVc hup hpass htyp hvc)), ?_⟩
    rw [State.port_wrongVc, State.port_checked]
    generalize s.port p = x
    exact ⟨rfl, rfl, rfl, State.wrongVc_frame⟩

end Sys2Proof.Machine

/-!
PROOF. Link control and reports (O37). A flit that leaves takes its position, changes its port and is put out (`State.sendsFlit`); LCTLs, flits
sent again and retries are that. What an LCTL frees and adds is said VC by VC. A report leaves the routes of the device as they were.
-/

namespace Sys2Proof.Machine

variable {s t : State} {p q n c v i dst vc key : Nat} {f : Flit}

/-! ### A flit that leaves, R88, R90 -/

/-- R88, R90: a port whose position a flit of a VC takes. -/
def Port.takes (x : Port) (v slot : Nat) (line : Bool × Nat) : Port :=
  { x.atSlot slot with
    usedAt := some line
    taken0 := if v = 0 then (x.atSlot slot).taken0 + 1 else (x.atSlot slot).taken0
    taken7 := if v = 7 then (x.atSlot slot).taken7 + 1 else (x.atSlot slot).taken7 }

/-- Only the counts of positions change. -/
theorem Port.takes_frame {x : Port} {slot : Nat} {line : Bool × Nat} : x.takes v slot line = { x with
    usedAt := some line, slotNo := (x.takes v slot line).slotNo, taken0 := (x.takes v slot line).taken0
    taken7 := (x.takes v slot line).taken7 } := by
  simp only [Port.takes, Port.atSlot]
  split_ifs <;> rfl

/-- A flit takes a position of a port, which changes by `g`, and is put out. -/
def State.sendsFlit (s : State) (p v : Nat) (g : Port → Port) (f : Flit) : State :=
  { s with ports := ((s.takePosition p v).modPort p g).ports, out := s.out ++ [s.flitOut p f] }

section
variable {g : Port → Port}

theorem State.sendsFlit_frame : s.sendsFlit p v g f = { s with ports := (s.sendsFlit p v g f).ports, out := (s.sendsFlit p v g f).out } := by
  simp only [State.sendsFlit]

/-- A flit that leaves is put out after its port has changed. -/
theorem State.emit_takePosition : ((s.takePosition p v).modPort p g).emit (s.flitOut p f) = s.sendsFlit p v g f := by
  simp only [State.emit, State.sendsFlit, State.takePosition, State.modPort]

theorem State.port_sendsFlit : (s.sendsFlit p v g f).port p = g ((s.port p).takes v (s.lineTick / slotLen) s.line) := by
  have hports : (s.sendsFlit p v g f).ports = ((s.takePosition p v).modPort p g).ports := by simp only [State.sendsFlit]
  rw [State.port_of_ports hports, State.port_modPort_self, State.takePosition, State.port_modPort_self]
  rfl

/-- R88: a position carries one flit. -/
theorem State.positionOpen_sendsFlit (hg : ∀ x, (g x).usedAt = x.usedAt) : (s.sendsFlit p v g f).positionOpen p = false := by
  have hused : ((s.sendsFlit p v g f).port p).usedAt = some (s.sendsFlit p v g f).line := by
    rw [State.port_sendsFlit, hg, Port.takes_frame]
    rfl
  simp [State.positionOpen, State.positionFree, hused]

end

/-! ### An LCTL that leaves, R282 -/

/-- R282: a port whose LCTL leaves, in the repair slot or not. -/
def Port.sendsLctl (x : Port) (repair : Bool) (slot : Nat) : Port :=
  { x with arbSinceLctl := 0, lctlNew := false, lctlSlot := if repair then some slot else x.lctlSlot, cntTx := x.cntTx + 1 }

theorem lctlSend_of_due (hopen : s.positionOpen p = true) (hdue : s.lctlDue p = true) (hlimit : s.withinLimit p 0 = true) :
    lctlSend p s = s.sendsFlit p 0 (fun x => x.sendsLctl s.inRepair (s.now / slotLen)) (s.lctlFlit p) := by
  rw [lctlSend, if_pos (by simp [hopen, hdue, hlimit]), State.sendLctl]
  exact State.emit_takePosition

theorem lctlSend_of_notDue (hdue : s.lctlDue p = false) : lctlSend p s = s := by simp [lctlSend, hdue]

theorem lctlSend_of_down (hdown : s.portUp p = false) : lctlSend p s = s := lctlSend_of_notDue (by simp [State.lctlDue, hdown])

/-! ### Flits that leave again, R283, R284 -/

/-- R283: a port that sends the unacknowledged flit `i` again; the one after it is next. -/
def Port.sendsAgain (x : Port) (i : Nat) : Port :=
  { x with
    resendAt := (x.unacked[i + 1]?).map (·.seq), cntRetryArb := x.cntRetryArb + 1, congRetry := x.congRetry + 1
    congArb := x.congArb + 1, cntTx := x.cntTx + 1 }

/-- A flit that is no time exchange leaves again as it left. -/
theorem State.sendAgain_of_kept {k : BitVec 12} (hagain : (s.port p).resendAt = some k)
    (hi : (s.port p).unacked.findIdx? (fun f => f.seq == k) = some i) (hf : (s.port p).unacked[i]? = some f) (htyp : f.typ ≠ 0x04) :
    s.sendAgain p = s.sendsFlit p f.vc.toNat (fun x => x.sendsAgain i) f := by
  have hfound : ((s.port p).resendAt.bind fun n => (s.port p).unacked.findIdx? fun f => f.seq == n) = some i := by
    rw [hagain]; exact hi
  have hget : (s.port p).unacked.getD i {} = f := by rw [List.getD_eq_getElem?_getD, hf]; rfl
  have hstamped : s.stamped f = f := if_neg (by rw [decide_eq_false htyp, Bool.false_and]; decide)
  have hdeparts (t : State) : t.departs f = t := if_neg (by rw [decide_eq_false htyp, Bool.false_and]; decide)
  simp only [State.sendAgain, hfound, hget, hstamped, hdeparts]
  exact State.emit_takePosition

theorem State.fillPosition_again (hopen : s.positionOpen p = true) (hnext : s.nextSource p (s.retryWaits p) = some .again) :
    s.fillPosition p = s.sendAgain p := by
  simp only [State.fillPosition, hopen, hnext, if_true]

/-- R284: a port that sends a retry. -/
def Port.sendsRetry (x : Port) (k : KeptFlit) (now : Nat) : Port :=
  { x.keep k now with
    retry := x.retry.filter fun r => !(r.1 == k.slot && r.2 == k.pos)
    fwdRetry := x.fwdRetry.filter fun r => !(r.slot == k.slot && r.pos == k.pos)
    cntTx := x.cntTx + 1, cntRetrySched := x.cntRetrySched + 1, congRetry := x.congRetry + 1 }

theorem Port.sendsRetry_notMem {x : Port} {k : KeptFlit} : (k.slot, k.pos) ∉ (x.sendsRetry k n).retry := by
  simp [Port.sendsRetry]

/-- R284: the flit of a retry, which names the position it was sent in. -/
def KeptFlit.again (k : KeptFlit) : Flit := { k.flit with retry := true, seq := BitVec.ofNat 12 (k.slot % 16 * 128 + k.pos) }

theorem vc1RetrySend_oldest {k : KeptFlit} {r : List KeptFlit} (hopen : s.positionOpen p = true)
    (hnext : s.nextSource p (s.retryWaits p) = some .vc1Retry) (hk : (s.port p).retries s.now = k :: r) :
    vc1RetrySend p k.slot k.pos s = s.sendsFlit p 1 (fun x => x.sendsRetry k s.now) k.again := by
  rw [vc1RetrySend, if_pos (by simp [hopen, hnext, hk]), State.sendRetry]
  simp only [hk]
  exact State.emit_takePosition

theorem orElse_ne_some {α : Type} {a b : Option α} {x : α} (ha : a ≠ some x) (hb : b ≠ some x) : (a <|> b) ≠ some x := by
  cases a with
  | none => exact hb
  | some y => exact ha

/-- R90: outside the repair slot no position goes to a retry. -/
theorem State.nextSource_ne_vc1Retry {b : Bool} (hslot : s.inRepair = false) : s.nextSource p b ≠ some .vc1Retry := by
  simp only [State.nextSource, hslot, Bool.false_eq_true, if_false]
  have hqueued (a : Option Nat) : a.map Source.queued ≠ some .vc1Retry := by cases a <;> simp
  have hcan (b : Bool) (a : Option Nat) : (if b then a.map Source.queued else none) ≠ some .vc1Retry := by
    cases b
    · simp
    · exact hqueued a
  have hagain (a : Option Flit) : (a.map fun _ => Source.again) ≠ some .vc1Retry := by cases a <;> simp
  split
  · simp
  · exact orElse_ne_some (hcan _ _) (orElse_ne_some (hcan _ _) (orElse_ne_some (hagain _) (hqueued _)))

theorem vc1RetrySend_elsewhere {sl ps : Nat} (hslot : s.now / slotLen % 16 ≠ 15) : vc1RetrySend p sl ps s = s := by
  have hrepair : s.inRepair = false := by simp [State.inRepair, hslot]
  exact if_neg (by simp [State.nextSource_ne_vc1Retry hrepair])

/-! ### An LCTL that comes, R279, R282 to R284 -/

/-- R279: the credits that the count of one VC's freed buffers adds. -/
def Port.takesCredit (freed : List Byte) (x : Port) (v : Nat) : Port :=
  if v = 1 then x
  else { x with
    credits := tset 0 x.credits v (min (vcBuffers v) (x.credit v + (freed.getD v 0 - tget 0 x.peerFreed v).toNat))
    peerFreed := tset 0 x.peerFreed v (freed.getD v 0) }

theorem Port.takeCredits_eq {x : Port} {freed : List Byte} : x.takeCredits freed = (List.range 8).foldl (Port.takesCredit freed) x := rfl

/-- The credits of a VC, and the freed buffers its peer counts. -/
def Port.creditLine (x : Port) (v : Nat) : Nat × Byte := (x.credit v, tget 0 x.peerFreed v)

/-- A port without its credits and the freed buffers its peer counts. -/
def Port.uncredited (x : Port) : Port := { x with credits := [], peerFreed := [] }

section
variable {x : Port} {freed : List Byte} {l : List Nat}

theorem Port.takesCredit_creditLine_ne {w : Nat} (h : v ≠ w) : (x.takesCredit freed w).creditLine v = x.creditLine v := by
  unfold Port.takesCredit
  split_ifs
  · rfl
  · simp only [Port.creditLine, Port.credit, tget_tset_ne h]

theorem Port.takesCredit_credit (h : v ≠ 1) : (x.takesCredit freed v).credit v =
    min (vcBuffers v) (x.credit v + (freed.getD v 0 - tget 0 x.peerFreed v).toNat) := by
  rw [Port.takesCredit, if_neg h, Port.credit, tget_tset_self]

theorem Port.foldl_takesCredit_creditLine (h : v ∉ l) : (l.foldl (Port.takesCredit freed) x).creditLine v = x.creditLine v :=
  List.foldlRecOn (motive := fun y : Port => y.creditLine v = x.creditLine v) l _ rfl
    fun _ hy _ hw => (Port.takesCredit_creditLine_ne (ne_of_mem_of_not_mem hw h).symm).trans hy

/-- R279: each VC but VC1 takes its credits once. -/
theorem Port.takeCredits_credit (hv : v < 8) (h : v ≠ 1) : (x.takeCredits freed).credit v =
    min (vcBuffers v) (x.credit v + (freed.getD v 0 - tget 0 x.peerFreed v).toNat) := by
  obtain ⟨l₁, l₂, hl⟩ := List.append_of_mem (List.mem_range.2 hv)
  have honce : v ∉ l₁ ++ l₂ := (List.nodup_cons.1 (List.nodup_middle.1 (hl ▸ List.nodup_range))).1
  have hbefore := Port.foldl_takesCredit_creditLine (x := x) (freed := freed) fun hmem => honce (List.mem_append_left l₂ hmem)
  have hafter := Port.foldl_takesCredit_creditLine (x := (l₁.foldl (Port.takesCredit freed) x).takesCredit freed v) (freed := freed)
    fun hmem => honce (List.mem_append_right l₁ hmem)
  obtain ⟨hcredit, hpeer⟩ := Prod.mk.inj hbefore
  rw [Port.takeCredits_eq, hl, List.foldl_append, List.foldl_cons]
  rw [(Prod.mk.inj hafter).1, Port.takesCredit_credit h, hcredit, hpeer]

theorem Port.takeCredits_uncredited : (x.takeCredits freed).uncredited = x.uncredited := by
  refine List.foldlRecOn (motive := fun y : Port => y.uncredited = x.uncredited) (List.range 8) _ rfl fun y hy w _ => ?_
  dsimp only
  split_ifs
  · exact hy
  · exact hy

theorem Port.unacked_of_uncredited {y : Port} (h : y.uncredited = x.uncredited) : y.unacked = x.unacked := (congrArg Port.unacked h :)
theorem Port.lastGood_of_uncredited {y : Port} (h : y.uncredited = x.uncredited) : y.lastGood = x.lastGood := (congrArg Port.lastGood h :)

theorem Port.takeCredits_unacked : (x.takeCredits freed).unacked = x.unacked := Port.unacked_of_uncredited Port.takeCredits_uncredited

theorem Port.takeAck_of_kept {a : BitVec 12} (h : x.unacked.findIdx? (fun f => f.seq == a) = some i) :
    x.takeAck a = { x with unacked := x.unacked.drop (i + 1) } := by
  simp only [Port.takeAck, h]

/-- What an LCTL changes of the port it comes to. -/
def Port.takesLctl (x : Port) (m : Lctl) (now : Nat) : Port :=
  { (m.ack.elim (x.takeCredits m.freed) (x.takeCredits m.freed).takeAck).takeHoles m.holes now with
    cntRx := x.cntRx + 1
    resendAt := m.nak.elim (m.ack.elim (x.takeCredits m.freed) (x.takeCredits m.freed).takeAck).resendAt some }

theorem Port.takeAck_frame {a : BitVec 12} : x.takeAck a = { x with unacked := (x.takeAck a).unacked } := by
  unfold Port.takeAck
  split <;> rfl

/-- R279: an acknowledgement changes no credits. -/
theorem Port.takesLctl_credit {m : Lctl} : (x.takesLctl m n).credit v = (x.takeCredits m.freed).credit v := by
  unfold Port.takesLctl Port.takeHoles
  cases m.ack with
  | none => simp only [Port.credit, Option.elim]
  | some a => rw [Option.elim, Port.takeAck_frame, Port.credit, Port.credit]

theorem Port.takesLctl_unacked_of_ack {m : Lctl} {a : BitVec 12} (hack : m.ack = some a)
    (hi : x.unacked.findIdx? (fun f => f.seq == a) = some i) : (x.takesLctl m n).unacked = x.unacked.drop (i + 1) := by
  have hkept : (x.takeCredits m.freed).unacked.findIdx? (fun f => f.seq == a) = some i := by rwa [Port.takeCredits_unacked]
  simp only [Port.takesLctl, Port.takeHoles, hack, Option.elim, Port.takeAck_of_kept hkept, Port.takeCredits_unacked]

theorem Port.takesLctl_unacked_of_noAck {m : Lctl} (hack : m.ack = none) : (x.takesLctl m n).unacked = x.unacked := by
  simp only [Port.takesLctl, Port.takeHoles, hack, Option.elim, Port.takeCredits_unacked]

theorem Port.takesLctl_resendAt {m : Lctl} {k : BitVec 12} (hnak : m.nak = some k) : (x.takesLctl m n).resendAt = some k := by
  simp only [Port.takesLctl, hnak, Option.elim]

theorem Port.takesLctl_lastGood {m : Lctl} : (x.takesLctl m n).lastGood = x.lastGood := by
  have hcredits : (x.takeCredits m.freed).lastGood = x.lastGood := Port.lastGood_of_uncredited Port.takeCredits_uncredited
  unfold Port.takesLctl Port.takeHoles
  cases m.ack with
  | none => rw [Option.elim, hcredits]
  | some a => rw [Option.elim, Port.takeAck_frame, hcredits]

end

section
variable {m : Lctl}

theorem State.port_takeLctl : (s.takeLctl p m).port p = (s.port p).takesLctl m s.now := State.port_modPort_self

/-- The state as an LCTL is taken. -/
def State.takesLctl (s : State) (p : Nat) (m : Lctl) : State :=
  (s.modPort p fun x => x.passes s.boot.sincePwrOk).takeLctl p m

theorem lctlReceive_of_up (hup : s.portUp p = true) : lctlReceive p m s = s.takesLctl p m := if_pos hup

theorem lctlReceive_of_down (hdown : s.portUp p = false) : lctlReceive p m s = s := if_neg (by simp [hdown])

theorem State.takesLctl_onlyPorts : OnlyPorts s (s.takesLctl p m) := State.modPort_onlyPorts.trans State.modPort_onlyPorts

theorem State.port_takesLctl : (s.takesLctl p m).port p = ((s.port p).passes s.boot.sincePwrOk).takesLctl m s.now := by
  rw [State.takesLctl, State.port_takeLctl, State.modPort_onlyPorts.now, State.port_modPort_self]

end

/-! ### A port that goes down, R285 -/

theorem State.port_portDown : (s.portDown p c n i).port p = ((s.dropQueued p).port p).downed n i := by
  rw [State.port_of_ports State.portDown_ports, State.port_modPort_self]

theorem State.modPort_jobs {g : Port → Port} : (s.modPort p g).jobs = s.jobs := rfl

theorem State.dropQueued_jobs : (s.dropQueued p).jobs = s.jobs := by
  rw [State.dropQueued, foldl_keeps_view (view := State.jobs) fun _ _ => State.modPort_jobs, State.answerDropped]
  exact foldl_keeps_view (view := State.jobs) (fun _ _ => by rw [State.oweErr_frame]) _ s

theorem State.upstreamDown_jobs : (s.upstreamDown p).jobs = s.jobs :=
  (congrArg State.jobs (State.upstreamDown_outsideBringup (s := s) (p := p)) :)

theorem State.portDown_jobs : (s.portDown p c n i).jobs = s.jobs := by
  simp [State.portDown, State.upstreamDown_jobs, State.modPort_jobs, State.dropQueued_jobs]

theorem Port.downed_evt {x : Port} : (x.downed n i).evt.getLsbD 0 = true := by simp [Port.downed]

/-- R285: conditions 1 to 4 start the training of the port again. -/
theorem portGoesDown_trains (hup : s.portUp p = true) (hc : c ≤ 4) (hcond : s.downCond p c = true) :
    portGoesDown p c s = s.portDown p c 1 1 := by
  rw [portGoesDown, if_pos (by simp [hup, hcond]), if_neg (by omega), if_neg (by omega)]

/-- R285: a port whose cable is gone is unused. -/
theorem portGoesDown_unseated (hup : s.portUp p = true) (hseated : s.portSeated p = false) :
    portGoesDown p 5 s = (s.portDown p 5 0 0).advance78 := by
  rw [portGoesDown, if_pos (by simp [hup, State.downCond, hseated]), if_pos rfl]

theorem portGoesDown_of_not (h : s.portUp p = false ∨ s.downCond p c = false) : portGoesDown p c s = s :=
  if_neg (by rcases h with h | h <;> simp [h])

/-! ### Routes, R287, R288 -/

/-- What the choice of a route reads of a state is the same in both: the blend, the memory, the mode of the Warden, and of each port its state
and its credits. -/
structure SameRoutes (s t : State) : Prop where
  bld : t.bld = s.bld
  mem : t.mem = s.mem
  wdn : t.wdn = s.wdn
  state (q : Nat) : (t.port q).state = (s.port q).state
  credits (q : Nat) : (t.port q).credits = (s.port q).credits

namespace SameRoutes
variable {r : BitVec 32} {l : List (BitVec 32)}

theorem st (h : SameRoutes s t) {off : Nat} : t.st off = s.st off := by rw [State.st, State.st, h.bld]

theorem routeAllowed (h : SameRoutes s t) : t.routeAllowed r vc = s.routeAllowed r vc := by
  simp only [State.routeAllowed, State.neighbourOnly, h.bld, h.wdn]

theorem hopTable (h : SameRoutes s t) {e : Bool} : t.hopTable e = s.hopTable e := by rw [State.hopTable, State.hopTable, h.bld]

theorem portUp (h : SameRoutes s t) : t.portUp q = s.portUp q := by rw [State.portUp, State.portUp, h.state]

theorem credit (h : SameRoutes s t) : (t.port q).credit v = (s.port q).credit v := by rw [Port.credit, Port.credit, h.credits]

theorem firstHop (h : SameRoutes s t) : t.firstHop r = s.firstHop r := by
  simp only [State.firstHop, h.bld, h.hopTable, h.portUp]

theorem adaptiveRoute (h : SameRoutes s t) : t.adaptiveRoute l vc = s.adaptiveRoute l vc := by
  simp only [State.adaptiveRoute, h.firstHop, h.credit]

theorem routesTo (h : SameRoutes s t) : t.routesTo dst = s.routesTo dst := by simp only [State.routesTo, h.st, h.mem]

theorem chooseRoute (h : SameRoutes s t) : t.chooseRoute dst vc key = s.chooseRoute dst vc key := by
  simp only [State.chooseRoute, h.routesTo, h.st, h.adaptiveRoute]

end SameRoutes

/-- R287: a flit with a route that may be used is queued on its first hop. -/
theorem State.inject_of_route {r : BitVec 32} {h : HopEntry} {w : BitVec 3} {typ : Nat} {payload : List Byte}
    (hroute : s.chooseRoute dst vc key = some r) (hallowed : s.routeAllowed r vc = true) (hfirst : s.firstHop r = some h)
    (hvc : vcBeyond h (BitVec.ofNat 3 vc) = some w) : ∃ x, (s.inject vc typ dst key payload).getD t = s.queueFlit h.phys x := by
  simp only [State.inject, hroute, Option.filter, hallowed, if_true, hfirst, hvc]
  exact ⟨_, rfl⟩

/-- R280: only VC2 to VC5 change at a dateline. -/
theorem vcBeyond_vc6 (h : HopEntry) : vcBeyond h 6 = some 6 := by
  unfold vcBeyond
  split_ifs <;> rfl

/-! ### ERR_RSPs, R289 -/

section
variable {e : ErrRsp} {r : List ErrRsp}

/-- R289: the response that the ERR_RSP for an own request is, at a tick. -/
def ErrRsp.response (e : ErrRsp) (now : Nat) : InRsp :=
  { err := true, status := e.status, op := leAt e.head 0 1, tag := leAt e.head 6 2, port := 12, at' := now }

/-- The fabric is no part of the choice of a route. -/
theorem SameRoutes.mk_fab {x : Fabric} : SameRoutes s { s with fab := x } := ⟨rfl, rfl, rfl, fun _ => rfl, fun _ => rfl⟩

theorem errRspSend_own (hfirst : s.fab.errRsps = e :: r) (hdue : e.foundAt + 8 ≤ s.boot.sincePwrOk) (hown : e.dst = s.devId) :
    errRspSend s = { s with fab := { s.fab with errRsps := r, responses := s.fab.responses ++ [e.response s.now] } } := by
  simp only [errRspSend, hfirst, if_neg (Nat.not_lt.2 hdue), if_pos hown]
  rfl

theorem errRspSend_unroutable (hfirst : s.fab.errRsps = e :: r) (hdue : e.foundAt + 8 ≤ s.boot.sincePwrOk) (hother : e.dst ≠ s.devId)
    (hroute : s.chooseRoute e.dst 4 (flowKey (leAt e.head 8 8)) = none) :
    errRspSend s = { s with fab := { s.fab with errRsps := r, cntErrNoPath := s.fab.cntErrNoPath + 1 } } := by
  simp only [errRspSend, hfirst, if_neg (Nat.not_lt.2 hdue), if_neg hother, SameRoutes.mk_fab.chooseRoute, hroute]
  rfl

theorem errRspSend_early (hfirst : s.fab.errRsps = e :: r) (hearly : s.boot.sincePwrOk < e.foundAt + 8) : errRspSend s = s := by
  simp only [errRspSend, hfirst, if_pos hearly]

theorem errRspSend_none (hnone : s.fab.errRsps = []) : errRspSend s = s := by simp only [errRspSend, hnone]

end

/-! ### Congestion reports, R290 -/

/-- R290: a report takes the next number, and is that of its tick. -/
def State.reportNumbered (s : State) : State := { s with fab := { s.fab with congSeq := s.fab.congSeq + 1, congAt := some s.now } }

/-- R290: the counters of every port restart. -/
def State.reportBegun (s : State) : State := allPorts.foldl (fun t p => t.modPort p Port.congRestart) s.reportNumbered

theorem State.reportBegun_onlyPorts : OnlyPorts s.reportNumbered s.reportBegun :=
  List.foldlRecOn (motive := fun t : State => OnlyPorts s.reportNumbered t) allPorts _ rfl fun _ ht _ _ => ht.trans State.modPort_onlyPorts

theorem State.reportBegun_fab : s.reportBegun.fab = { s.fab with congSeq := s.fab.congSeq + 1, congAt := some s.now } :=
  State.reportBegun_onlyPorts.fab

theorem Port.congRestart_twice (x : Port) : x.congRestart.congRestart = x.congRestart := rfl

/-- The ports of a report change as one port after the other does. -/
theorem State.ports_foldl_modPort {g : Port → Port} {l : List Nat} :
    (l.foldl (fun t p => t.modPort p g) s).ports = l.foldl (fun a p => tmod {} a p g) s.ports := by
  induction l generalizing s with
  | nil => rfl
  | cons p l ih => exact ih

theorem State.port_reportBegun : s.reportBegun.port q = if q ∈ allPorts then (s.port q).congRestart else s.port q := by
  simp only [State.port, State.reportBegun, State.reportNumbered, State.ports_foldl_modPort, tget_foldl_tmod Port.congRestart_twice]

/-- A port whose counters restart keeps its state and its credits. -/
theorem State.reportBegun_sameRoutes : SameRoutes s s.reportBegun where
  bld := by rw [State.reportBegun_onlyPorts.bld, State.reportNumbered]
  mem := by rw [State.reportBegun_onlyPorts.mem, State.reportNumbered]
  wdn := by rw [State.reportBegun_onlyPorts.wdn, State.reportNumbered]
  state q := by rw [State.port_reportBegun]; split_ifs <;> rfl
  credits q := by rw [State.port_reportBegun]; split_ifs <;> rfl

/-- The state as a report is dropped. -/
def State.reportDropped (s : State) : State :=
  { s with
    ports := s.reportBegun.ports
    fab := { s.fab with congSeq := s.fab.congSeq + 1, congAt := some s.now, cntCongDrop := s.fab.cntCongDrop + 1 } }

theorem State.reportDropped_frame : s.reportDropped = { s with ports := s.reportDropped.ports, fab := s.reportDropped.fab } := by
  simp only [State.reportDropped]

theorem State.port_reportDropped : s.reportDropped.port q = s.reportBegun.port q := by simp only [State.port, State.reportDropped]

theorem State.reportBegun_dropped :
    { s.reportBegun with fab := { s.reportBegun.fab with cntCongDrop := s.reportBegun.fab.cntCongDrop + 1 } } = s.reportDropped := by
  rw [State.reportBegun_onlyPorts.mk_ports_fab, State.reportBegun_fab, State.reportDropped, State.reportNumbered]

/-- A report that is queued changes a port more. -/
theorem State.reportQueued_onlyPorts {x : QFlit} : OnlyPorts s.reportNumbered (s.reportBegun.queueFlit p x) :=
  State.reportBegun_onlyPorts.trans State.modPort_onlyPorts

theorem State.reportQueued_fab {x : QFlit} : (s.reportBegun.queueFlit p x).fab =
    { s.fab with congSeq := s.fab.congSeq + 1, congAt := some s.now } := State.reportQueued_onlyPorts.fab

theorem OnlyPorts.frame_of_numbered (h : OnlyPorts s.reportNumbered t) : t = { s with ports := t.ports, fab := t.fab } := by
  rw [h.fab]
  exact h

section
variable (hperiod : field (s.st 0x2F0010) 31 16 = n) (hn : n ≠ 0) (hcounting : s.counting = true) (hend : s.now % (n * frameLen) = 0)
  (hnew : s.fab.congAt ≠ some s.now)
include hperiod hn hcounting hend hnew

theorem congReportSend_unroutable (hroute : s.chooseRoute (field (s.st 0x2F0010) 15 0) 6 0 = none) :
    congReportSend s = s.reportDropped := by
  subst hperiod
  rw [congReportSend, if_pos (by simp [hn, hcounting, hend, hnew])]
  simp only [hroute, ← State.reportNumbered.eq_1, ← State.reportBegun.eq_1]
  exact State.reportBegun_dropped

theorem congReportSend_queued {r : BitVec 32} {h : HopEntry} (hroute : s.chooseRoute (field (s.st 0x2F0010) 15 0) 6 0 = some r)
    (hallowed : s.routeAllowed r 6 = true) (hfirst : s.firstHop r = some h) (hcredit : (s.port h.phys).credit 6 ≠ 0) :
    ∃ x, congReportSend s = s.reportBegun.queueFlit h.phys x := by
  have hsame : SameRoutes s s.reportBegun := State.reportBegun_sameRoutes
  subst hperiod
  rw [congReportSend, if_pos (by simp [hn, hcounting, hend, hnew])]
  simp only [hroute, hfirst, if_neg hcredit, ← State.reportNumbered.eq_1, ← State.reportBegun.eq_1]
  exact State.inject_of_route (hsame.chooseRoute.trans hroute) (hsame.routeAllowed.trans hallowed) (hsame.firstHop.trans hfirst)
    (vcBeyond_vc6 h)

end

theorem congReportSend_notDue (h : field (s.st 0x2F0010) 31 16 = 0 ∨ s.fab.congAt = some s.now) : congReportSend s = s :=
  if_neg (by rcases h with h | h <;> simp [h])

/-! ### The statement -/

/-- Settles O37: what leaves in a position is `State.sendsFlit`, what comes is `State.takesLctl`, what goes down is `State.portDown`, and each
report is its equation. -/
theorem linkControlAndReports : Obligations.LinkControlAndReports := by
  unfold Obligations.LinkControlAndReports
  refine ⟨fun s p hp hopen hdue hlimit => ?_, fun s p hp hdue => (if_pos hp).trans (congrArg Host.Outcome.next (lctlSend_of_notDue hdue)),
    fun s p i m a hp hup hack hnak hi => ?_, fun s p m k hp hup hack hnak => ?_,
    fun s p i k f hp hopen hnext hagain hi hf htyp => ?_, fun s p k r hp hopen hnext hk => ?_,
    fun s p sl ps hp hslot => (if_pos hp).trans (congrArg Host.Outcome.next (vc1RetrySend_elsewhere hslot)),
    fun s p c hp hup _ hc hcond => ?_, fun s p m c hp hdown => ⟨?_, ?_, ?_⟩, fun s p hp hup hseated => ?_,
    fun s p c hp hcond => (if_pos hp).trans (congrArg Host.Outcome.next (portGoesDown_of_not (.inr hcond))),
    fun s p hp => ⟨rfl, rfl, rfl, rfl, rfl⟩, fun s e r hfirst hdue hown => ?_, fun s e r hfirst hdue hother hroute => ?_,
    fun s e r hfirst hearly => congrArg Host.Outcome.next (errRspSend_early hfirst hearly),
    fun s hnone => congrArg Host.Outcome.next (errRspSend_none hnone), fun s n hperiod hn hcounting hend hnew hroute => ?_,
    fun s n r h hperiod hn hcounting hend hnew hroute hallowed hhop hcredit => ?_,
    fun s h => congrArg Host.Outcome.next (congReportSend_notDue h)⟩
  · refine ⟨_, (if_pos hp).trans (congrArg Host.Outcome.next (lctlSend_of_due hopen hdue hlimit)), rfl, rfl, rfl, ?_, ?_, ?_,
      State.positionOpen_sendsFlit fun _ => rfl, State.sendsFlit_frame⟩
    all_goals rw [State.port_sendsFlit, Port.takes_frame, Port.sendsLctl]
  · refine ⟨_, (if_pos hp).trans (congrArg Host.Outcome.next (lctlReceive_of_up hup)), ?_⟩
    rw [State.port_takesLctl, Port.takesLctl_lastGood]
    generalize s.port p = x at hi ⊢
    exact ⟨Port.takesLctl_unacked_of_ack (x := x.passes _) hack hi,
      fun v hv h => Port.takesLctl_credit.trans (Port.takeCredits_credit (x := x.passes _) hv h), rfl, rfl, State.takesLctl_onlyPorts⟩
  · refine ⟨_, (if_pos hp).trans (congrArg Host.Outcome.next (lctlReceive_of_up hup)), ?_⟩
    rw [State.port_takesLctl, Port.takesLctl_resendAt hnak, Port.takesLctl_unacked_of_noAck hack]
    generalize s.port p = x
    exact ⟨rfl, rfl, State.takesLctl_onlyPorts⟩
  · rw [State.fillPosition_again hopen hnext, State.sendAgain_of_kept hagain hi hf htyp, State.port_sendsFlit]
    refine ⟨rfl, ?_, ?_, ?_, State.sendsFlit_frame⟩
    all_goals rw [Port.takes_frame, Port.sendsAgain]
  · refine ⟨_, (if_pos hp).trans (congrArg Host.Outcome.next (vc1RetrySend_oldest hopen hnext hk)), rfl, ?_, ?_, State.sendsFlit_frame⟩
    · rw [State.port_sendsFlit]
      exact Port.sendsRetry_notMem
    · rw [State.port_sendsFlit, Port.takes_frame, Port.sendsRetry]
  · refine ⟨_, (if_pos hp).trans (congrArg Host.Outcome.next (portGoesDown_trains hup hc hcond)), ?_⟩
    rw [State.port_portDown]
    exact ⟨rfl, rfl, rfl, rfl, rfl, Port.downed_evt, State.portDown_mem, State.portDown_jobs⟩
  · exact (if_pos hp).trans (congrArg Host.Outcome.next (lctlSend_of_down hdown))
  · exact (if_pos hp).trans (congrArg Host.Outcome.next (lctlReceive_of_down hdown))
  · exact (if_pos hp).trans (congrArg Host.Outcome.next (portGoesDown_of_not (.inl hdown)))
  · refine ⟨_, (if_pos hp).trans (congrArg Host.Outcome.next (portGoesDown_unseated hup hseated)), ?_⟩
    rw [State.port_advance78, State.port_portDown]
    exact ⟨rfl, rfl, rfl, Port.downed_evt, State.advance78_mem.trans State.portDown_mem⟩
  · exact ⟨_, congrArg Host.Outcome.next (errRspSend_own hfirst hdue hown), rfl, List.length_append,
      ⟨e.response s.now, List.getLast?_concat, rfl, rfl, rfl⟩, rfl⟩
  · exact ⟨_, congrArg Host.Outcome.next (errRspSend_unroutable hfirst hdue hother hroute), rfl⟩
  · refine ⟨_, congrArg Host.Outcome.next (congReportSend_unroutable hperiod hn hcounting hend hnew hroute), rfl, fun q hq => ?_,
      State.reportDropped_frame⟩
    rw [State.port_reportDropped, State.port_reportBegun]
    exact if_pos (List.mem_range.2 hq)
  · obtain ⟨x, hx⟩ := congReportSend_queued hperiod hn hcounting hend hnew hroute hallowed hhop hcredit
    exact ⟨_, congrArg Host.Outcome.next hx, State.reportQueued_fab, State.reportQueued_onlyPorts.frame_of_numbered⟩

end Sys2Proof.Machine

/-!
PROOF. What every step keeps (O58, O59): each command keeps the queue, the form of memory and the place of queued commands (`Keeps`), so
every step does.
-/

namespace Sys2Proof.Machine

/-- A state that the outcome goes on with keeps what s has. -/
def Result.KeepsFrom (s : State) (r : Result) : Prop := ∀ t, r = .next t → Keeps s t

variable {s t : State}

theorem Result.KeepsFrom.next (h : Keeps s t) : Result.KeepsFrom s (.next t) := fun _ e => by cases e; exact h

theorem Result.KeepsFrom.noResource (kind : String) (i : Nat) : Result.KeepsFrom s (noResource kind i) := fun _ e => by cases e

theorem Result.KeepsFrom.ite {c : Prop} [Decidable c] {x y : Result} (hx : Result.KeepsFrom s x) (hy : Result.KeepsFrom s y) :
    Result.KeepsFrom s (if c then x else y) := by
  split
  · exact hx
  · exact hy

/-- A command that names a resource goes on only where the module has it. -/
theorem Result.KeepsFrom.guardOf {c : Prop} [Decidable c] {kind : String} {i : Nat} (h : c → Keeps s t) :
    Result.KeepsFrom s (if c then .next t else Machine.noResource kind i) := by
  split
  next hc => exact .next (h hc)
  next => exact .noResource kind i

theorem Result.KeepsFrom.guard {c : Prop} [Decidable c] {kind : String} {i : Nat} (h : Keeps s t) :
    Result.KeepsFrom s (if c then .next t else Machine.noResource kind i) := .guardOf fun _ => h

/-- Every command, by the lemma of its row under Laws/. -/
theorem exec_keeps (i : Instr) (s : State) : Result.KeepsFrom s (exec i s) :=
  match i with
  | .pwrEnChange .. => .next (pwrEnChange_keeps (.refl s))
  | .railSequencingStart .. => .next (railSequencingStart_keeps (.refl s))
  | .railRegulationTimeout .. => .guard (railRegulationTimeout_keeps (.refl s))
  | .pwrOkRelease => .next (pwrOkRelease_keeps (.refl s))
  | .inputShutdown .. => .next (inputShutdown_keeps (.refl s))
  | .inputExcursionEnd .. => .next (inputExcursionEnd_keeps (.refl s))
  | .power64vApplied .. => .next (power64vApplied_keeps (.refl s))
  | .power64vRemoved .. => .next (power64vRemoved_keeps (.refl s))
  | .cablePowerOverload .. => .guard (cablePowerOverload_keeps (.refl s))
  | .cagePresenceChange .. => .guard (cagePresenceChange_keeps (.refl s))
  | .perstAssert => .next (perstAssert_keeps (.refl s))
  | .perstDeassert => .next (perstDeassert_keeps (.refl s))
  | .rootSourceLoss .. => .next (rootSourceLoss_keeps (.refl s))
  | .rootSourceReturn .. => .next (rootSourceReturn_keeps (.refl s))
  | .wardenSelfTestDone .. => .next (wardenSelfTestDone_keeps (.refl s))
  | .repairMapVote .. => .next (repairMapVote_keeps (.refl s))
  | .repairRebuild => .next (repairRebuild_keeps (.refl s))
  | .repairRebuildDone .. => .next (repairRebuildDone_keeps (.refl s))
  | .bootMboxLengthWrite .. => .next (bootMboxLengthWrite_keeps (.refl s))
  | .bootMboxDataWrite .. => .next (served_keeps (.refl s) fun _ => bootMboxDataWrite_keeps)
  | .bootMboxCommit => .next (bootMboxCommit_keeps (.refl s))
  | .imageVerifyDone .. => .next (imageVerifyDone_keeps (.refl s))
  | .reservedImageWriteDone => .next (reservedImageWriteDone_keeps (.refl s))
  | .gddrTrainingDone .. => .guard (gddrTrainingDone_keeps (.refl s))
  | .gddrZeroFillDone => .next (gddrZeroFillDone_keeps (.refl s))
  | .tinMountDone .. => .next (tinMountDone_keeps (.refl s))
  | .hostLinkUp .. => .next (hostLinkUp_keeps (.refl s))
  | .hostLinkAttemptTimeout => .next (hostLinkAttemptTimeout_keeps (.refl s))
  | .timeExchangeStart => .next (timeExchangeStart_keeps (.refl s))
  | .timeExchangeRequestReceive .. => .guard (timeExchangeRequestReceive_keeps (.refl s))
  | .timeExchangeResponseReceive .. => .guard (timeExchangeResponseReceive_keeps (.refl s))
  | .rootPhaseStep .. => .next (rootPhaseStep_keeps (.refl s))
  | .exchangeNoResponse => .next (exchangeNoResponse_keeps (.refl s))
  | .holdLimitExpiry => .next (holdLimitExpiry_keeps (.refl s))
  | .relockPauseEnd => .next (relockPauseEnd_keeps (.refl s))
  | .rootSequenceIncrement => .next (rootSequenceIncrement_keeps (.refl s))
  | .backupRootTakeover => .next (backupRootTakeover_keeps (.refl s))
  | .hallTimerFire .. => .guard (hallTimerFire_keeps (.refl s))
  | .htTmrCmpWrite .. => .guard (served_keeps (.refl s) fun _ => htTmrCmpWrite_keeps)
  | .htTmrCtlWrite .. => .guard (served_keeps (.refl s) fun _ => htTmrCtlWrite_keeps)
  | .refreshBatch .. => .guard (refreshBatch_keeps (.refl s))
  | .refreshRateChange .. => .guard (refreshRateChange_keeps (.refl s))
  | .blendClaim .. => .next (blendClaim_keeps (.refl s))
  | .blendLoad .. => .next (blendLoad_keeps (.refl s))
  | .blendCheckDone .. => .next (blendCheckDone_keeps (.refl s))
  | .hopTableLoadDeferEnd => .next (hopTableLoadDeferEnd_keeps (.refl s))
  | .blendApply .. => .next (blendApply_keeps (.refl s))
  | .blendCancel .. => .next (blendCancel_keeps (.refl s))
  | .blendRelease .. => .next (blendRelease_keeps (.refl s))
  | .stFieldWrite .. => .next (served_keeps (.refl s) fun _ => stFieldWrite_keeps)
  | .blendApplyAtT => .next (blendApplyAtT_keeps (.refl s))
  | .registerWrite .. => .next (registerWrite_keeps (.refl s))
  | .bundleIssue .. => .guard (bundleIssue_keeps (.refl s))
  | .waitSatisfied .. => .guard (waitSatisfied_keeps (.refl s))
  | .waitdDeadline .. => .guard (waitdDeadline_keeps (.refl s))
  | .taskEndDrained .. => .guard (taskEndDrained_keeps (.refl s))
  | .ldT .. => .guard (ldT_keeps (.refl s))
  | .ldG .. => .guard (ldG_keeps (.refl s))
  | .ldCr .. => .guard (ldCr_keeps (.refl s))
  | .creditGrant .. => .ite (.noResource _ _) (.ite (.noResource _ _) (.next (creditGrant_keeps (.refl s))))
  | .stT .. => .guard (stT_keeps (.refl s))
  | .stS .. => .guard (stS_keeps (.refl s))
  | .stA .. => .guard (stA_keeps (.refl s))
  | .stFence .. => .guard (stFence_keeps (.refl s))
  | .mma .. => .guard (mma_keeps (.refl s))
  | .mmaScreen .. => .guard (mmaScreen_keeps (.refl s))
  | .tcvt .. => .guard (State.startHead_keeps (.refl s) fun _ _ => State.elementwise_keeps)
  | .tadd .. => .guard (State.startHead_keeps (.refl s) fun _ _ => State.elementwise_keeps)
  | .tmul .. => .guard (State.startHead_keeps (.refl s) fun _ _ => State.elementwise_keeps)
  | .tred .. => .guard (tred_keeps (.refl s))
  | .tsparseStrict .. => .guard (tsparseStrict_keeps (.refl s))
  | .tsparsePrune .. => .guard (tsparsePrune_keeps (.refl s))
  | .tsparseMask .. => .guard (tsparseMask_keeps (.refl s))
  | .tsparseNzlist .. => .guard (tsparseNzlist_keeps (.refl s))
  | .longInstructionComplete .. => .guard (longInstructionComplete_keeps (.refl s))
  | .coreModeWrite .. => .guard (coreModeWrite_keeps (.refl s))
  | .urnInsert => .next (urnInsert_keeps (.refl s))
  | .urnDrain => .next (urnDrain_keeps (.refl s))
  | .urnClear => .next (urnClear_keeps (.refl s))
  | .select => .next (select_keeps (.refl s))
  | .dirWrite => .next (dirWrite_keeps (.refl s))
  | .dirRead => .next (dirRead_keeps (.refl s))
  | .dirBias => .next (dirBias_keeps (.refl s))
  | .dispatch => .next (dispatch_keeps (.refl s))
  | .combine => .next (combine_keeps (.refl s))
  | .spoutRelease => .next (spoutRelease_keeps (.refl s))
  | .exchangePartStart .. => .guard (exchangePartStart_keeps (.refl s))
  | .schedFlitSend .. => .guard (schedFlitSend_keeps (.refl s))
  | .schedFlitForward .. => .guard (schedFlitForward_keeps (.refl s))
  | .spoutStreamComplete .. => .guard (spoutStreamComplete_keeps (.refl s))
  | .spoutLateStart .. => .guard (spoutLateStart_keeps (.refl s))
  | .spoutReceiveDeadline .. => .guard (spoutReceiveDeadline_keeps (.refl s))
  | .dispatchCommit .. => .guard (dispatchCommit_keeps (.refl s))
  | .combineCommit .. => .guard (combineCommit_keeps (.refl s))
  | .cableMemoryRead .. => .guard (cableMemoryRead_keeps (.refl s))
  | .pmdEqualisationDone .. => .guard (State.trainStep_keeps (.refl s))
  | .fecLockDone .. => .guard (State.trainStep_keeps (.refl s))
  | .linkLayerExchangeDone .. => .guard (linkLayerExchangeDone_keeps (.refl s))
  | .mutualAuthenticationDone .. => .guard (mutualAuthenticationDone_keeps (.refl s))
  | .trainingStepTimeout .. => .guard (trainingStepTimeout_keeps (.refl s))
  | .portTrainingRetry .. => .guard (State.retrain_keeps (.refl s))
  | .authenticationRetry .. => .guard (State.retrain_keeps (.refl s))
  | .peerTrainingDetected .. => .guard (State.retrain_keeps (.refl s))
  | .linkKeyRollover .. => .guard (linkKeyRollover_keeps (.refl s))
  | .flitReceive .. => .guard (flitReceive_keeps (.refl s))
  | .errRspSend => .next (errRspSend_keeps (.refl s))
  | .lctlSend .. => .guard (lctlSend_keeps (.refl s))
  | .lctlReceive .. => .guard (lctlReceive_keeps (.refl s))
  | .vc1RetrySend .. => .guard (vc1RetrySend_keeps (.refl s))
  | .portDown .. => .guard (portGoesDown_keeps (.refl s))
  | .congReportSend => .next (congReportSend_keeps (.refl s))
  | .remoteRequestSend => .next (remoteRequestSend_keeps (.refl s))
  | .remoteLoad => .next (remoteLoad_keeps (.refl s))
  | .remoteStore => .next (remoteStore_keeps (.refl s))
  | .remoteStoreF => .next (remoteStoreF_keeps (.refl s))
  | .storeFRelease => .next (storeFRelease_keeps (.refl s))
  | .storeFGapTimeout => .next (storeFGapTimeout_keeps (.refl s))
  | .aadd => .next (State.atomic_keeps (.refl s))
  | .amin => .next (State.atomic_keeps (.refl s))
  | .amax => .next (State.atomic_keeps (.refl s))
  | .aand => .next (State.atomic_keeps (.refl s))
  | .aor => .next (State.atomic_keeps (.refl s))
  | .axor => .next (State.atomic_keeps (.refl s))
  | .aswap => .next (State.atomic_keeps (.refl s))
  | .acas => .next (State.atomic_keeps (.refl s))
  | .fadd => .next (fadd_keeps (.refl s))
  | .memRspReceive => .next (memRspReceive_keeps (.refl s))
  | .remoteRequestDeadline .. => .next (remoteRequestDeadline_keeps (.refl s))
  | .reduceScatter => .next (collectiveStart_keeps (.refl s))
  | .allGather => .next (collectiveStart_keeps (.refl s))
  | .collectivePartStart => .next (collectivePartStart_keeps (.refl s))
  | .chunkReceive .. => .next (chunkReceive_keeps (.refl s))
  | .collectiveLate => .next (collectiveLate_keeps (.refl s))
  | .collectiveReceiveDeadline => .next (collectiveReceiveDeadline_keeps (.refl s))
  | .collectiveCommit => .next (collectiveCommit_keeps (.refl s))
  | .start => .next (start_keeps (.refl s))
  | .startAckReceive .. => .guard (startAckReceive_keeps (.refl s))
  | .ackDeadlineExpiry => .next (ackDeadlineExpiry_keeps (.refl s))
  | .startCommitReceive .. => .guard (startCommitReceive_keeps (.refl s))
  | .startAbortReceive .. => .guard (startAbortReceive_keeps (.refl s))
  | .startCommitTimeout => .next (startCommitTimeout_keeps (.refl s))
  | .startRollback => .next (startRollback_keeps (.refl s))
  | .copy => .next (copy_keeps (.refl s))
  | .fill => .next (fill_keeps (.refl s))
  | .gather => .next (gather_keeps (.refl s))
  | .pool => .next (pool_keeps (.refl s))
  | .reduce => .next (reduce_keeps (.refl s))
  | .hostRead .. => .next (hostRead_keeps (.refl s))
  | .hostWrite .. => .next (hostWrite_keeps (.refl s))
  | .digest => .next (digest_keeps (.refl s))
  | .audit => .next (audit_keeps (.refl s))
  | .scrubFillDone => .next (scrubFillDone_keeps (.refl s))
  | .alloc => .next (alloc_keeps (.refl s))
  | .allocServe .. => .guard (allocServe_keeps (.refl s))
  | .allocDeadline .. => .guard (allocDeadline_keeps (.refl s))
  | .free => .next (free_keeps (.refl s))
  | .caddyEngineRequest .. => .guard (caddyEngineRequest_keeps (.refl s))
  | .create => .next (create_keeps (.refl s))
  | .tinWrite .. => .next (tinWrite_keeps (.refl s))
  | .tinRead .. => .next (tinRead_keeps (.refl s))
  | .tinDelete .. => .next (tinDelete_keeps (.refl s))
  | .tinStat => .next (tinStat_keeps (.refl s))
  | .wearLevelMove .. => .next (wearLevelMove_keeps (.refl s))
  | .readDisturbMove .. => .next (readDisturbMove_keeps (.refl s))
  | .retentionPatrol .. => .next (retentionPatrol_keeps (.refl s))
  | .update => .next (update_keeps (.refl s))
  | .stepAdvance => .next (stepAdvance_keeps (.refl s))
  | .stepSet => .next (stepSet_keeps (.refl s))
  | .infuserStream => .next (infuserStream_keeps (.refl s))
  | .infuserStreamLate => .next (infuserStreamLate_keeps (.refl s))
  | .infusionStreamReceive .. => .next (infusionStreamReceive_keeps (.refl s))
  | .accept => .next (accept_keeps (.refl s))
  | .acceptComplete .. => .guard (acceptComplete_keeps (.refl s))
  | .acceptDeadline .. => .guard (acceptDeadline_keeps (.refl s))
  | .swap => .next (swap_keeps (.refl s))
  | .seqBegin => .next (seqBegin_keeps (.refl s))
  | .seqEnd => .next (seqEnd_keeps (.refl s))
  | .coolingEnd .. => .guard (coolingEnd_keeps (.refl s))
  | .prefixHash => .next (prefixHash_keeps (.refl s))
  | .prefixLookup => .next (prefixLookup_keeps (.refl s))
  | .prefixInsert => .next (prefixInsert_keeps (.refl s))
  | .admitRequest => .next (admitRequest_keeps (.refl s))
  | .grow => .next (grow_keeps (.refl s))
  | .stepBegin => .next (stepBegin_keeps (.refl s))
  | .stepCommit => .next (stepCommit_keeps (.refl s))
  | .retire => .next (retire_keeps (.refl s))
  | .pin => .next (pin_keeps (.refl s))
  | .requestDeadlineRetire .. => .guard (requestDeadlineRetire_keeps (.refl s))
  | .tenantKeyLoad .. => .guard (tenantKeyLoad_keeps (.refl s))
  | .jobArm => .next (jobArm_keeps (.refl s))
  | .jobArmadd => .next (jobArmadd_keeps (.refl s))
  | .jobStep => .next (jobStep_keeps (.refl s))
  | .jobCset => .next (jobCset_keeps (.refl s))
  | .jobCinc => .next (jobCinc_keeps (.refl s))
  | .save => .next (save_keeps (.refl s))
  | .restore => .next (restore_keeps (.refl s))
  | .pload => .next (pload_keeps (.refl s))
  | .task => .next (task_keeps (.refl s))
  | .taskCommit .. => .guard (taskCommit_keeps (.refl s))
  | .preempt .. => .guardOf fun hj => preempt_keeps (.refl s) hj
  | .resume .. => .guard (resume_keeps (.refl s))
  | .kill .. => .guard (kill_keeps (.refl s))
  | .teardownDrainDone .. => .guard (teardownDrainDone_keeps (.refl s))
  | .teardownScrubDone .. => .guard (teardownScrubDone_keeps (.refl s))
  | .coreScrubDone .. => .guard (coreScrubDone_keeps (.refl s))
  | .doorbellWrite .. => .guard (doorbellWrite_keeps (.refl s))
  | .descriptorFetch .. => .guard (descriptorFetch_keeps (.refl s))
  | .cqHeadWrite .. => .guard (served_keeps (.refl s) fun _ => cqHeadWrite_keeps)
  | .interruptCoalesceTimeout .. => .guard (interruptCoalesceTimeout_keeps (.refl s))
  | .biasFlip .. => .next (biasFlip_keeps (.refl s))
  | .biasFlipPageDone .. => .guard (biasFlipPageDone_keeps (.refl s))
  | .hostCxlMemAccess .. => .next (hostCxlMemAccess_keeps (.refl s))
  | .hostBar4Access .. => .next (hostBar4Access_keeps (.refl s))
  | .hostLinkDown => .next (hostLinkDown_keeps (.refl s))
  | .ideIntegrityFailure => .next (ideIntegrityFailure_keeps (.refl s))
  | .doeDiscovery .. => .next (doeDiscovery_keeps (.refl s))
  | .doeAbort => .next (doeAbort_keeps (.refl s))
  | .getVersion => .next (getVersion_keeps (.refl s))
  | .getCapabilities => .next (getCapabilities_keeps (.refl s))
  | .negotiateAlgorithms => .next (negotiateAlgorithms_keeps (.refl s))
  | .getDigests => .next (getDigests_keeps (.refl s))
  | .getCertificate .. => .next (getCertificate_keeps (.refl s))
  | .challenge .. => .next (challenge_keeps (.refl s))
  | .getMeasurements .. => .next (getMeasurements_keeps (.refl s))
  | .keyExchange .. => .next (keyExchange_keeps (.refl s))
  | .finish .. => .next (finish_keeps (.refl s))
  | .heartbeat => .next (heartbeat_keeps (.refl s))
  | .keyUpdate => .next (keyUpdate_keeps (.refl s))
  | .endSession => .next (endSession_keeps (.refl s))
  | .ideKm .. => .next (ideKm_keeps (.refl s))
  | .cdatRead .. => .next (cdatRead_keeps (.refl s))
  | .i3cSetdasa .. => .next (i3cSetdasa_keeps (.refl s))
  | .i3cRegisterWrite .. => .next (.elim (.refl s) fun _ => i3cRegisterWrite_keeps (.refl s))
  | .i3cRegisterRead .. => .next (.elim (.refl s) fun _ => i3cRegisterRead_keeps (.refl s))
  | .jtagTapAccess .. => .next (jtagTapAccess_keeps (.refl s))
  | .wmbCtrlLengthWrite .. => .next (wmbCtrlLengthWrite_keeps (.refl s))
  | .wmbDataWrite .. => .next (served_keeps (.refl s) fun _ => wmbDataWrite_keeps)
  | .wmbRdataRead => .next (wmbRdataRead_keeps (.refl s))
  | .maintEnter .. => .next (maintEnter_keeps (.refl s))
  | .maintExit .. => .next (maintExit_keeps (.refl s))
  | .fwUpdate .. => .next (fwUpdate_keeps (.refl s))
  | .fwImageWriteDone => .next (fwImageWriteDone_keeps (.refl s))
  | .svnCommit .. => .next (svnCommit_keeps (.refl s))
  | .fwkeyRevoke .. => .next (fwkeyRevoke_keeps (.refl s))
  | .ownerClaim .. => .next (ownerClaim_keeps (.refl s))
  | .ownerSet .. => .next (ownerSet_keeps (.refl s))
  | .ownerRelease .. => .next (ownerRelease_keeps (.refl s))
  | .recordRestore .. => .next (recordRestore_keeps (.refl s))
  | .debugAuth .. => .next (debugAuth_keeps (.refl s))
  | .recordRead .. => .next (recordRead_keeps (.refl s))
  | .kettleControlStep .. => .next (kettleControlStep_keeps (.refl s))
  | .overdrawKill => .next (overdrawKill_keeps (.refl s))
  | .thermalSample .. => .next (thermalSample_keeps (.refl s))
  | .thermalTripClear => .next (thermalTripClear_keeps (.refl s))
  | .envelopeMessage .. => .next (envelopeMessage_keeps (.refl s))
  | .envelopeInForce => .next (envelopeInForce_keeps (.refl s))
  | .envelopeExpiry => .next (envelopeExpiry_keeps (.refl s))
  | .rampUntil .. => .guard (rampUntil_keeps (.refl s))
  | .kettleTelemetry => .next (kettleTelemetry_keeps (.refl s))
  | .patrolRead .. => .next (patrolRead_keeps (.refl s))
  | .gddrWriteReissue .. => .guard (gddrWriteReissue_keeps (.refl s))
  | .logTokenRefill .. => .guard (logTokenRefill_keeps (.refl s))
  | .dropReport => .next (State.reported_keeps (.refl s))
  | .logExportSend => .next (logExportSend_keeps (.refl s))
  | .alarmSend => .next (alarmSend_keeps (.refl s))
  | .logRdWrite .. => .next (served_keeps (.refl s) fun _ => logRdWrite_keeps)
  | .exchangeEnd .. => .guard (exchangeEnd_keeps (.refl s))
  | .collectiveEnd => .next (collectiveEnd_keeps (.refl s))

theorem step_nil (h : s.pending = []) : step s = .next s.tick := by
  unfold step
  rw [h]

theorem step_cons {i : Instr} {r : List Instr} (h : s.pending = i :: r) : step s = exec i { s with pending := r } := by
  unfold step
  rw [h]

/-- From s without the command that runs, a step keeps memory and queues. -/
theorem step_keeps (h : step s = .next t) : Keeps { s with pending := s.pending.tail } t := by
  cases hp : s.pending with
  | nil =>
    rw [step_nil hp] at h
    have hk := State.tick_keeps (.refl s)
    have hp' : Keeps { s with pending := [] } s.tick := ⟨hk.pending.trans hp, hk.wf, hk.own⟩
    exact Result.KeepsFrom.next hp' t h
  | cons i r =>
    rw [step_cons hp] at h
    exact exec_keeps i { s with pending := r } t h

/-- Settles O58: no command and no tick leaves memory out of its canonical form (`step_keeps`). -/
theorem everyStepKeepsMemoryForm : Obligations.EveryStepKeepsMemoryForm :=
  fun _ _ hm h => (step_keeps h).wf hm

/-- Settles O59: the command that runs has left the queue and none adds another (`step_keeps`). -/
theorem everyStepTakesOneCommand : Obligations.EveryStepTakesOneCommand :=
  ⟨fun _ _ h => (step_keeps h).pending, fun _ _ hq h => (step_keeps h).own hq⟩

/-- Settles O55: a step is the command of the queue's front, or a tick, by the equations of a step. -/
theorem stepRunsTheFrontCommand : Obligations.StepRunsTheFrontCommand :=
  ⟨fun _ _ => step_cons rfl, fun _ => step_nil⟩

end Sys2Proof.Machine

/-!
PROOF. Bias flips and host accesses to GDDR7 (O25). A host access that is ready is served at once; what it leaves then is `State.hostAccess`
on a state that differs in the bias of its pages alone.
-/

namespace Sys2Proof.Machine

variable {s : State} {a n p q first count : Nat} {h : HostIf} {bs : List Byte} {w : Option (List Byte)} {x : HostAccess}

/-! ### A table set over a list of keys -/

theorem tget_foldl_const {α : Type} [DecidableEq α] {d v : α} {t : Sparse α} {l : List Nat} :
    tget d (l.foldl (fun t p => tset d t p v) t) q = if q ∈ l then v else tget d t q := by
  induction l generalizing t with
  | nil => rfl
  | cons k l ih =>
    rw [List.foldl_cons, ih]
    by_cases hq : q = k
    · subst hq
      simp
    · rw [tget_tset_ne hq]
      simp [hq]

/-! ### BIAS_CMD, R432 to R434 -/

/-- The fields of a BIAS_CMD value with GO to device bias. -/
theorem biasCmd_fields {v : BitVec 64} (hv : v.toNat = first + count * 2 ^ 18 + 2 ^ 36 + 2 ^ 37) (hrange : first + count ≤ 196608) :
    field v.toNat 17 0 = first ∧ field v.toNat 35 18 = count ∧ bitOf v.toNat 36 = true ∧ bitOf v.toNat 37 = true := by
  rw [hv]
  simp only [field, bitOf, Nat.testBit_eq_decide_div_mod_eq, decide_eq_true_eq]
  omega

theorem biasFlip_begins {v : BitVec 64} (hv : v.toNat = first + count * 2 ^ 18 + 2 ^ 36 + 2 ^ 37) (hcount : 1 ≤ count)
    (hrange : first + count ≤ 196608) (hidle : s.host.biasLeft = 0) (hfree : ∀ i, i < count → s.pinned (first + i) = false) :
    biasFlip v s = { s with host := { s.host with
      biasFirst := first, biasCount := count, biasDir := true, biasLeft := count, biasNext := first,
      biasAt := some s.engCycle, biasFresh := [] } } := by
  obtain ⟨hfirst, hpages, hdir, hgo⟩ := biasCmd_fields hv hrange
  have hsize : ¬ biasPages < first + count := by rw [biasPages]; omega
  have hpinned : ((List.range count).map (first + ·)).any s.pinned = false := by simpa using hfree
  simp [biasFlip, hfirst, hpages, hdir, hgo, hidle, hsize, hpinned, Nat.ne_of_gt hcount]

theorem biasFlip_refused {v : BitVec 64} {i : Nat} (hv : v.toNat = first + count * 2 ^ 18 + 2 ^ 36 + 2 ^ 37)
    (hrange : first + count ≤ 196608) (hidle : s.host.biasLeft = 0) (hi : i < count) (hpinned : s.pinned (first + i) = true) :
    biasFlip v s = { s with host := { s.host with biasFirst := first, biasCount := count, biasDir := true, biasRefused := true } } := by
  obtain ⟨hfirst, hpages, hdir, hgo⟩ := biasCmd_fields hv hrange
  have hsize : ¬ biasPages < first + count := by rw [biasPages]; omega
  have hany : ((List.range count).map (first + ·)).any s.pinned = true := by simpa using ⟨i, hi, hpinned⟩
  simp [biasFlip, hfirst, hpages, hdir, hgo, hidle, hsize, hany, Nat.ne_of_gt (Nat.zero_lt_of_lt hi)]

/-! ### Host accesses, R431, R473 -/

theorem State.hostAccess_read : s.hostAccess a n none = { s with
    log := { s.log with cntUncorr := s.log.cntUncorr + (if s.hasBad a n then 1 else 0) }
    out := s.out ++ [if s.hasBad a n then .poison else .data (s.mem.bytes a n)] } := by
  cases hbad : s.hasBad a n <;> simp [State.hostAccess, hbad, State.countUncorr, State.emit]

theorem State.hostAccess_good (hgood : s.hasBad a n = false) : s.hostAccess a n none = { s with out := s.out ++ [.data (s.mem.bytes a n)] } := by
  rw [State.hostAccess_read, hgood]
  rfl

theorem padTo_length (hlen : bs.length = n) : padTo n bs = bs := by
  subst hlen
  rw [padTo, slice, List.drop_zero]
  induction bs with
  | nil => rfl
  | cons b r ih => simp [takeBytes, ih]

theorem State.hostAccess_write (hgood : s.partBad a n = false) (hlen : bs.length = n) : s.hostAccess a n (some bs) = s.store a bs := by
  simp [State.hostAccess, hgood, padTo_length hlen]

/-- R433, R434: an access that meets no other and whose pages do not flip is served at once. -/
theorem State.hostArrives_served (hlen : 1 ≤ x.len) (hflip : ∀ p ∈ pagesOf x.addr x.len, s.flipping p = false)
    (hserves : s.servesHost x.addr x.len = true) (hnone : s.host.waiting = []) : s.hostArrives x = s.serveHost x := by
  have hany : (pagesOf x.addr x.len).any s.flipping = false := by simpa using hflip
  simp [State.hostArrives, State.hostReady, Nat.ne_of_gt hlen, hany, hserves, hnone]

theorem State.hostArrives_waits (hlen : 1 ≤ x.len) (hin : inGddr x.addr x.len = true)
    (hwaits : s.servesHost x.addr x.len = false ∨ ∃ p ∈ pagesOf x.addr x.len, s.flipping p = true) :
    s.hostArrives x = { s with host := { s.host with waiting := s.host.waiting ++ [x] } } := by
  have hgddr : inGddr x.addr 1 = true := by
    simp only [inGddr, decide_eq_true_eq] at hin ⊢
    omega
  have hready : s.hostReady s.host.waiting x = false := by
    rcases hwaits with hbusy | ⟨p, hp, hflips⟩
    · simp [State.hostReady, hbusy]
    · have hany : (pagesOf x.addr x.len).any s.flipping = true := List.any_eq_true.2 ⟨p, hp, hflips⟩
      simp [State.hostReady, hgddr, hany]
  simp [State.hostArrives, Nat.ne_of_gt hlen, hready]

theorem State.not_flipping_of_idle (hidle : s.host.biasLeft = 0) : s.flipping p = false := by simp [State.flipping, hidle]

/-! ### The end of a page's flip, R432, R433 -/

/-- The state once a page has flipped to device bias, its lines claimed. -/
def State.pageFlipped (s : State) (p : Nat) : State :=
  { s with
    host := { s.host with hostBias := tset false s.host.hostBias p false, biasLeft := s.host.biasLeft - 1, biasNext := p + 1 }
    out := s.out ++ [.claim (p * 2097152) 2097152] }

theorem biasFlipPageDone_flips (hflips : s.host.biasLeft ≠ 0) (hnext : s.host.biasNext = p) :
    biasFlipPageDone p s = (s.pageFlipped p).serveWaiting := by
  simp [biasFlipPageDone, hflips, hnext, biasPage, State.pageFlipped, State.emit]

theorem State.pageFlipped_bias : tget false (s.pageFlipped p).host.hostBias p = false ∧
    ∀ q, q ≠ p → tget false (s.pageFlipped p).host.hostBias q = tget false s.host.hostBias q :=
  ⟨show tget false (tset false s.host.hostBias p false) p = false from tget_tset_self,
    fun q hq => show tget false (tset false s.host.hostBias p false) q = _ from tget_tset_ne hq⟩

theorem State.serveWaiting_none (hnone : s.host.waiting = []) : s.serveWaiting = s := by
  rw [State.serveWaiting, hnone, List.foldl_nil, ← hnone]

/-- R434: the one access that waits is served as the last page of the flip has flipped. -/
theorem State.serveWaiting_bar4 (hone : s.host.waiting = [{ cxl := false, addr := a, len := n, write := none }]) (hlen : 1 ≤ n)
    (hidle : s.host.biasLeft = 0) (hserves : s.servesHost a n = true) (hgood : s.hasBad a n = false) :
    s.serveWaiting = { s with host := { s.host with waiting := [] }, out := s.out ++ [.data (s.mem.bytes a n)] } := by
  have hserved := State.hostArrives_served (s := { s with host := { s.host with waiting := [] } })
    (x := { cxl := false, addr := a, len := n, write := none }) hlen (fun _ _ => State.not_flipping_of_idle hidle) hserves rfl
  rw [State.serveWaiting, hone]
  exact hserved.trans (State.hostAccess_good hgood)

/-! ### CXL.mem and BAR4 -/

theorem hostCxlMemAccess_arrives (hup : s.linkUp = true) (hcxl : s.boot.hostCxl = true) (hin : a + n ≤ 0x6000000000) :
    hostCxlMemAccess a n w s = s.hostArrives { cxl := true, addr := a, len := n, write := w } := by
  have hgddr : inGddr a n = true := decide_eq_true hin
  simp [hostCxlMemAccess, hup, hcxl, hgddr]

/-- R432: an access through CXL.mem leaves each of its pages that no job pins in host bias. -/
theorem State.serveCxl_eq : ∃ h : HostIf, s.serveCxl a n w = State.hostAccess { s with host := h } a n w ∧
    ∀ p ∈ pagesOf a n, s.pinned p = false → tget false h.hostBias p = true := by
  refine ⟨_, rfl, fun p hp hfree => ?_⟩
  rw [tget_foldl_const]
  split_ifs with hmem
  · rfl
  · simp only [State.foundHost, List.mem_filter, hp, hfree, Bool.not_false, Bool.and_true, true_and, Bool.not_eq_true', Bool.not_eq_false,
      Bool.and_eq_true] at hmem
    exact hmem.1

theorem hostBar4Access_unsupported {o : Nat} (hup : s.linkUp = true) (hpast : 2 ^ 30 < o + n ∨ inMain (s.host.win * 2 ^ 30 + o) n = false) :
    hostBar4Access o n w s = s.emit .unsupported := by
  have hguard : (decide (2 ^ 30 < o + n) || !inMain (s.host.win * 2 ^ 30 + o) n) = true := by
    rcases hpast with hpast | hpast
    · rw [decide_eq_true hpast, Bool.true_or]
    · rw [hpast, Bool.not_false, Bool.or_true]
  simp only [hostBar4Access, hup, Bool.not_true, Bool.false_eq_true, if_false, hguard, if_true]

theorem hostBar4Access_arrives {o : Nat} (hup : s.linkUp = true) (hwindow : o + n ≤ 2 ^ 30)
    (hin : inMain (s.host.win * 2 ^ 30 + o) n = true) :
    hostBar4Access o n w s = s.hostArrives { cxl := false, addr := s.host.win * 2 ^ 30 + o, len := n, write := w } := by
  have hguard : (decide (2 ^ 30 < o + n) || !inMain (s.host.win * 2 ^ 30 + o) n) = false := by
    rw [hin, decide_eq_false (Nat.not_lt.2 hwindow)]
    rfl
  simp only [hostBar4Access, hup, Bool.not_true, Bool.false_eq_true, if_false, hguard]

/-! ### The statement -/

/-- Settles O25: a flip by the fields of BIAS_CMD, an access by what it leaves when it is served, when it waits and when it is refused. -/
theorem hostMemory : Obligations.HostMemory := by
  unfold Obligations.HostMemory
  refine ⟨?begins, ?refused, ?page, ?served, ?read, ?write, ?waits, ?unsupported, ?bar4⟩
  case begins =>
    intro s v first count hv hcount hrange hidle hfree
    exact congrArg Host.Outcome.next (biasFlip_begins hv hcount hrange hidle hfree)
  case refused =>
    intro s v first count i hv hrange hidle hi hpinned
    exact ⟨_, congrArg Host.Outcome.next (biasFlip_refused hv hrange hidle hi hpinned), rfl, hidle, rfl⟩
  case page =>
    intro s p hp hflips hnext hnone
    refine ⟨_, (if_pos hp).trans (congrArg Host.Outcome.next ((biasFlipPageDone_flips hflips hnext).trans (State.serveWaiting_none (s := s.pageFlipped p) hnone))),
      State.pageFlipped_bias.1, rfl, rfl, State.pageFlipped_bias.2, rfl, rfl⟩
  case served =>
    intro s p a n hp hleft hnext hone hlen hserves hgood
    have hends := biasFlipPageDone_flips (hleft ▸ Nat.one_ne_zero) hnext
    have hidle : s.host.biasLeft - 1 = 0 := by rw [hleft]
    rw [State.serveWaiting_bar4 (s := s.pageFlipped p) hone hlen hidle hserves hgood] at hends
    exact ⟨_, (if_pos hp).trans (congrArg Host.Outcome.next hends), rfl, rfl, List.append_assoc _ _ _⟩
  case read =>
    intro s a n hup hcxl hlen hin hpages hserves hnone hgood
    obtain ⟨h, hserved, hbias⟩ := State.serveCxl_eq (s := s) (a := a) (n := n) (w := none)
    have hends := (hostCxlMemAccess_arrives hup hcxl hin).trans
      (State.hostArrives_served (x := { cxl := true, addr := a, len := n, write := none }) hlen (fun p hp => (hpages p hp).1) hserves hnone)
    exact ⟨_, congrArg Host.Outcome.next (hends.trans (hserved.trans (State.hostAccess_good hgood))), rfl, rfl,
      fun p hp => hbias p hp (hpages p hp).2, rfl⟩
  case write =>
    intro s a n bs hup hcxl hlen hin hpages hserves hnone hgood hbs
    obtain ⟨h, hserved, -⟩ := State.serveCxl_eq (s := s) (a := a) (n := n) (w := some bs)
    have hends := (hostCxlMemAccess_arrives hup hcxl hin).trans
      (State.hostArrives_served (x := { cxl := true, addr := a, len := n, write := some bs }) hlen hpages hserves hnone)
    exact ⟨_, congrArg Host.Outcome.next (hends.trans (hserved.trans (State.hostAccess_write hgood hbs))), rfl, rfl⟩
  case waits =>
    intro s a n w hup hcxl hlen hin hwaits
    exact congrArg Host.Outcome.next ((hostCxlMemAccess_arrives hup hcxl hin).trans
      (State.hostArrives_waits (x := { cxl := true, addr := a, len := n, write := w }) hlen (decide_eq_true hin) hwaits))
  case unsupported =>
    intro s o n w hup hpast
    exact congrArg Host.Outcome.next (hostBar4Access_unsupported hup hpast)
  case bar4 =>
    intro s o n hup hwindow hin hidle hserves hnone hlen
    have hends := (hostBar4Access_arrives hup hwindow hin).trans (State.hostArrives_served
      (x := { cxl := false, addr := s.host.win * 2 ^ 30 + o, len := n, write := none }) hlen (fun _ _ => State.not_flipping_of_idle hidle)
      hserves hnone)
    exact ⟨_, congrArg Host.Outcome.next (hends.trans State.hostAccess_read), rfl, rfl, rfl⟩

end Sys2Proof.Machine

/-!
PROOF. Teardown and scrubs (O35). `Scrubs` is what a step of the scrub of memory does: bytes that read zero stay zero, and fills to come are
added. Every window of the job is such a step, and so is whatever follows it.
-/

namespace Sys2Proof.Machine

variable {s t u : State} {j k a base len : Nat} {w : Window}

/-! ### Zeroed ranges -/

theorem State.zero_byte_inside (hlo : base ≤ a) (hhi : a < base + len) : (s.zero base len).mem.byte a = 0 :=
  Memory.byte_zeroFill_inside hlo hhi

theorem State.zero_byte_outside (h : a < base ∨ base + len ≤ a) : (s.zero base len).mem.byte a = s.mem.byte a :=
  Memory.byte_zeroFill_outside h

/-- A byte that reads zero does so after any zero fill. -/
theorem State.zero_byte_zero (h : s.mem.byte a = 0) : (s.zero base len).mem.byte a = 0 := by
  by_cases hin : base ≤ a ∧ a < base + len
  · exact State.zero_byte_inside hin.1 hin.2
  · rw [State.zero_byte_outside (by omega), h]

/-! ### The scrub of a job's memory, R423 -/

/-- From s to t nothing but a scrub of memory has passed. -/
structure Scrubs (s t : State) : Prop where
  zero : ∀ a, s.mem.byte a = 0 → t.mem.byte a = 0
  fills : ∀ x ∈ s.scrubs, x ∈ t.scrubs
  frame : t = { s with mem := t.mem, scrubs := t.scrubs, pools := t.pools, urn := t.urn, log := t.log }

theorem Scrubs.refl (s : State) : Scrubs s s := ⟨fun _ => id, fun _ => id, rfl⟩

theorem Scrubs.trans (hst : Scrubs s t) (htu : Scrubs t u) : Scrubs s u where
  zero a h := htu.zero a (hst.zero a h)
  fills x h := htu.fills x (hst.fills x h)
  frame := by rw [htu.frame, hst.frame]

theorem Scrubs.foldl {α : Type} {f : State → α → State} {l : List α} (hf : ∀ t x, Scrubs t (f t x)) : Scrubs s (l.foldl f s) := by
  induction l generalizing s with
  | nil => exact .refl s
  | cons x l ih => exact (hf s x).trans ih

theorem State.zero_isScrub : Scrubs s (s.zero base len) := ⟨fun _ => State.zero_byte_zero, fun _ => id, rfl⟩

theorem State.scrubRange_isScrub : Scrubs s (s.scrubRange j base len) := by
  unfold State.scrubRange State.addScrub
  split_ifs
  · exact .refl s
  · exact ⟨fun _ => id, fun x hx => List.mem_append_left _ hx, rfl⟩
  · exact State.zero_isScrub

theorem State.scrubRange_zeroes (hbase : ssramBase ≤ base) (hlo : base ≤ a) (hhi : a < base + len) :
    (s.scrubRange j base len).mem.byte a = 0 := by
  rw [State.scrubRange, if_neg (Nat.not_lt.2 hbase)]
  exact State.zero_byte_inside hlo hhi

theorem State.scrubRange_fills (hbase : base < ssramBase) (hlen : len ≠ 0) :
    { base, len, job := some j } ∈ (s.scrubRange j base len).scrubs := by
  rw [State.scrubRange, if_pos hbase, State.addScrub, if_neg hlen]
  exact List.mem_append_right _ List.mem_cons_self

/-- The windows of a job are scrubbed first; the scrub of its pools and of its Urn regions follows. -/
theorem State.scrubMemory_afterWindows :
    Scrubs ((s.jobWindows j).foldl (fun t w => t.scrubRange j w.base w.len) s) (s.scrubMemory j) := by
  unfold State.scrubMemory
  refine (Scrubs.foldl fun t p => ?_).trans (Scrubs.foldl fun t i => ?_)
  · dsimp only
    split_ifs
    · obtain ⟨hzero, hfills, hframe⟩ := State.scrubRange_isScrub (s := t) (j := j) (base := (s.pool p).base) (len := (s.pool p).len)
      exact ⟨hzero, hfills, by rw [hframe]⟩
    · exact .refl t
  · dsimp only
    split_ifs
    · obtain ⟨hzero, hfills, hframe⟩ := State.zero_isScrub.trans (State.scrubRange_isScrub (s := t.zero (s.urnCfg i).base (s.urnCfg i).len)
        (j := j) (base := (s.urnCfg i).spillBase) (len := (s.urnCfg i).spillLen * (s.urnCfg i).slotBytes))
      exact ⟨hzero, hfills, by rw [State.setUrn, hframe]⟩
    · exact .refl t

/-- A window of the job is scrubbed once, and the scrubs after it leave what it left. -/
theorem State.scrubMemory_window (hw : w ∈ s.jobWindows j) :
    ∃ v : State, Scrubs (v.scrubRange j w.base w.len) (s.scrubMemory j) := by
  obtain ⟨before, after, hsplit⟩ := List.append_of_mem hw
  refine ⟨before.foldl (fun t w => t.scrubRange j w.base w.len) s, .trans ?_ State.scrubMemory_afterWindows⟩
  rw [hsplit, List.foldl_append, List.foldl_cons]
  exact Scrubs.foldl fun t x => State.scrubRange_isScrub

theorem State.scrubMemory_isScrub : Scrubs s (s.scrubMemory j) :=
  (Scrubs.foldl fun _ _ => State.scrubRange_isScrub).trans State.scrubMemory_afterWindows

/-! ### The end of draining, R423 -/

/-- The state with the job's entries of the directory and of the Prefix table freed, and its slot in run state 5. -/
def State.entriesFreed (s : State) (j : Nat) : State :=
  ((s.scrubDirectory j).scrubPrefix j).setSlot j fun x => { x with state := 5 }

theorem teardownDrainDone_drained (hstate : (s.slot j).state = 4) (hdrained : s.drained j = true) :
    teardownDrainDone j s = (s.scrubMemory j).entriesFreed j := if_pos (by rw [hstate, hdrained]; rfl)

theorem teardownDrainDone_waits (hdrained : s.drained j = false) : teardownDrainDone j s = s :=
  if_neg (by rw [hdrained, Bool.and_false]; exact Bool.false_ne_true)

theorem State.entriesFreed_frame : s.entriesFreed j =
    { s with str := (s.entriesFreed j).str, pfx := (s.entriesFreed j).pfx, jobs := (s.entriesFreed j).jobs } := rfl

theorem State.entriesFreed_state : ((s.entriesFreed j).slot j).state = 5 := by rw [State.entriesFreed, State.slot_setSlot]

theorem State.entriesFreed_prefix {e : Nat × PfxEntry} (he : e ∈ (s.entriesFreed j).pfx.table) : ¬(e.2.valid = true ∧ e.2.job = j) := by
  have hkept := (List.mem_filter.1 he).2
  rintro ⟨hvalid, hjob⟩
  simp [hvalid, hjob] at hkept

/-! ### A core's scrub, R425 -/

/-- A core whose scrub is complete. -/
def Core.scrubbed (x : Core) : Core := { x with scrubbing := false, s := [], v := [], dmem := [], imem := [], padWrites := [] }

theorem Core.scrubbed_sreg {x : Core} {r : Nat} : x.scrubbed.sreg r = 0 := by
  unfold Core.sreg Core.scrubbed
  split_ifs <;> rfl

theorem coreScrubDone_scrubs (h : (s.core k).scrubbing = true) :
    coreScrubDone k s = (s.zero (padBase + k * padSize) padSize).modCore k Core.scrubbed := if_pos h

/-! ### The statement -/

/-- Settles O35: the end of draining by the scrub of memory, window for window; the ends of scrubs and fills by the range they zero. -/
theorem teardown : Obligations.Teardown := by
  unfold Obligations.Teardown
  refine ⟨?drained, ?draining, ?done, ?scrubbing, ?core, ?coreIdle, ?fill, ?noFill⟩
  case drained =>
    intro s j hj hstate hdrained
    have hmem : ((s.scrubMemory j).entriesFreed j).mem = (s.scrubMemory j).mem := by rw [State.entriesFreed_frame]
    have hfills : ((s.scrubMemory j).entriesFreed j).scrubs = (s.scrubMemory j).scrubs := by rw [State.entriesFreed_frame]
    refine ⟨(s.scrubMemory j).entriesFreed j, (if_pos hj).trans (congrArg Host.Outcome.next (teardownDrainDone_drained hstate hdrained)),
      State.entriesFreed_state, fun w hw hbase a hlo hhi => ?_, fun w hw hbase hlen => ?_, fun e he => State.entriesFreed_prefix he, ?_⟩
    · obtain ⟨v, hv⟩ := State.scrubMemory_window hw
      rw [hmem]
      exact hv.zero a (State.scrubRange_zeroes hbase hlo hhi)
    · obtain ⟨v, hv⟩ := State.scrubMemory_window hw
      rw [hfills]
      exact hv.fills _ (State.scrubRange_fills hbase hlen)
    · rw [State.entriesFreed_frame, State.scrubMemory_isScrub.frame]
  case draining =>
    intro s j hj _ hdrained
    exact (if_pos hj).trans (congrArg Host.Outcome.next (teardownDrainDone_waits hdrained))
  case done =>
    intro s j hj hstate hfills
    have hdone : teardownScrubDone j s = s.setSlot j fun x => { x with state := 6 } := if_pos (by rw [hstate, hfills]; rfl)
    exact ⟨_, (if_pos hj).trans (congrArg Host.Outcome.next hdone), by rw [State.slot_setSlot], fun i hi => State.slot_setSlot_ne hi, rfl⟩
  case scrubbing =>
    intro s j hj hstate
    have hwaits : teardownScrubDone j s = s := if_neg (by simp [hstate])
    exact (if_pos hj).trans (congrArg Host.Outcome.next hwaits)
  case core =>
    intro s k hk hscrubbing
    refine ⟨_, (if_pos hk).trans (congrArg Host.Outcome.next (coreScrubDone_scrubs hscrubbing)), fun r => ?_, fun r => ?_,
      fun a ha => State.zero_byte_inside (by omega) (by omega), fun a ha => State.zero_byte_outside (by rw [Nat.succ_mul] at ha; omega), ?_, rfl⟩
    · rw [State.core_modCore]
      exact Core.scrubbed_sreg
    · rw [State.core_modCore]
      rfl
    · rw [State.core_modCore]
      rfl
  case coreIdle =>
    intro s k hk hidle
    have hkept : coreScrubDone k s = s := if_neg (by rw [hidle]; exact Bool.false_ne_true)
    exact (if_pos hk).trans (congrArg Host.Outcome.next hkept)
  case fill =>
    intro s x r hscrubs
    have hends : scrubFillDone s = { s.zero x.base x.len with scrubs := r } := by rw [scrubFillDone, hscrubs]
    exact ⟨_, congrArg Host.Outcome.next hends, rfl, fun a hlo hhi => State.zero_byte_inside hlo hhi,
      fun a ha => State.zero_byte_outside ha, rfl⟩
  case noFill =>
    intro s hnone
    have hkept : scrubFillDone s = s := by rw [scrubFillDone, hnone]
    exact congrArg Host.Outcome.next hkept

end Sys2Proof.Machine

/-!
PROOF. The Warden's mailbox and its requests (O52, O53). A request that reaches its row is first met by the checks of Table 18-5; one that
passes them is met by its state, its signers and its own checks, and has its effect on `State.answered`.
-/

namespace Sys2Proof.Machine

variable {s t : State} {i j k n p a cmd plen st d v : Nat} {sig : SigVerdict} {allowed : Bool} {signers : Nat × Nat → Bool}
  {checks : List Byte → List Check} {effect : State → List Byte → State} {bs : List Byte} {ck : Check} {l m : List Check}

/-! ### Lists of checks -/

theorem firstFail_append_none (h : firstFail l = none) : firstFail (l ++ m) = firstFail m := by
  rw [firstFail] at h
  rw [firstFail, List.findSome?_append, h]
  rfl

theorem firstFail_cons_none (h : ck = none) : firstFail (ck :: l) = firstFail l := by rw [h, firstFail, List.findSome?_cons]; rfl

theorem firstFail_cons_some {z : Nat × Nat} (h : ck = some z) : firstFail (ck :: l) = some z := by rw [h, firstFail, List.findSome?_cons]; rfl

theorem need_true {ok : Bool} (h : ok = true) : need ok st d = none := if_pos h

theorem need_false {ok : Bool} (h : ok = false) : need ok st d = some (st, d) := if_neg (by rw [h]; exact Bool.false_ne_true)

/-! ### The mailbox, R430, R453 -/

theorem tget_putBytes_outside {x : Sparse Byte} (h : k < i ∨ i + bs.length ≤ k) : tget 0 (putBytes x i bs) k = tget 0 x k := by
  induction bs generalizing x i with
  | nil => rfl
  | cons b r ih =>
    rw [List.length_cons] at h
    rw [putBytes, ih (by omega), tget_tset_ne (by omega)]

theorem getBytes_putBytes {x : Sparse Byte} : getBytes (putBytes x i bs) i bs.length = bs := by
  induction bs generalizing x i with
  | nil => rfl
  | cons b r ih =>
    have hrest := ih (x := tset 0 x i b) (i := i + 1)
    simp only [getBytes, List.length_cons, List.range_succ_eq_map, List.map_cons, List.map_map, Nat.add_zero, putBytes] at hrest ⊢
    rw [tget_putBytes_outside (.inl (Nat.lt_succ_self i)), tget_tset_self]
    refine congrArg (b :: ·) (.trans (List.map_congr_left fun k _ => ?_) hrest)
    rw [Function.comp_apply, Nat.succ_eq_add_one, Nat.add_right_comm, Nat.add_assoc]

theorem served_reached {half : Half} {body : State → State} (hhalf : half ≠ .other) : served half body s = body s := if_neg hhalf

/-! ### A GO, R453, Table 18-5 -/

/-- A GO that does not reach the Warden has no effect. -/
theorem State.wardenGo_ignored (h : s.wdn.wmbBusy = true ∨ s.pwr.pwrOk = false ∨ s.boot.step < 4) :
    s.wardenGo cmd plen sig allowed signers checks effect = s := by
  have hguard : (s.wdn.wmbBusy || !s.pwr.pwrOk || decide (s.boot.step < 4) || (leAt s.wreq 8 1 != cmd && wreqCodes.contains (leAt s.wreq 8 1))) = true := by
    rcases h with h | h | h <;> simp [h]
  rw [State.wardenGo, if_pos hguard]

/-- A GO that reaches the Warden, by its checks in order. -/
theorem State.wardenGo_asked (hasked : s.Asked cmd) : s.wardenGo cmd plen sig allowed signers checks effect =
    match firstFail (s.wreqChecks s.wreq sig ++ [need (leAt s.wreq 8 1 == cmd) stBadOpcode 0, need (leAt s.wreq 0x0C 4 == plen) stStructure 0,
      need allowed stStructure 0, need (signers (wreqSigners s.wreq)) stStructure 0] ++ checks (wreqPayload s.wreq)) with
    | some (st, _) => s.answered st
    | none => effect (s.answered 0) (wreqPayload s.wreq) := by
  obtain ⟨hidle, hpower, hstep, hcode⟩ := hasked
  have hguard : (s.wdn.wmbBusy || !s.pwr.pwrOk || decide (s.boot.step < 4) || (leAt s.wreq 8 1 != cmd && wreqCodes.contains (leAt s.wreq 8 1))) = false := by
    rcases hcode with hcode | hcode
    · simp [hidle, hpower, hstep, hcode]
    · rw [hcode, Bool.and_false]
      simp [hidle, hpower, hstep]
  rw [State.wardenGo, if_neg (by rw [hguard]; exact Bool.false_ne_true)]
  rfl

/-- A request that a check of Table 18-5 refuses. -/
theorem State.wardenGo_unchecked (hasked : s.Asked cmd) (hfails : firstFail (s.wreqChecks s.wreq sig) = some (st, d)) :
    s.wardenGo cmd plen sig allowed signers checks effect = s.answered st := by
  rw [State.wardenGo_asked hasked, firstFail_append (firstFail_append hfails)]

/-- A COMMAND that Table 18-6 does not list. -/
theorem State.wardenGo_unlisted (hasked : s.Asked cmd) (hchecked : firstFail (s.wreqChecks s.wreq sig) = none) (hcode : leAt s.wreq 8 1 ≠ cmd) :
    s.wardenGo cmd plen sig allowed signers checks effect = s.answered stBadOpcode := by
  rw [State.wardenGo_asked hasked, List.append_assoc, firstFail_append_none hchecked, List.cons_append,
    firstFail_cons_some (need_false (beq_false_of_ne hcode))]

/-- A request that passes the checks of Table 18-5, by its state, its signers and its own checks. -/
theorem State.wardenGo_passes (hpasses : s.Passes cmd plen sig) : s.wardenGo cmd plen sig allowed signers checks effect =
    match firstFail (need allowed stStructure 0 :: need (signers (wreqSigners s.wreq)) stStructure 0 :: checks (wreqPayload s.wreq)) with
    | some (st, _) => s.answered st
    | none => effect (s.answered 0) (wreqPayload s.wreq) := by
  obtain ⟨hidle, hpower, hstep, hcode, hlen, hchecked⟩ := hpasses
  rw [State.wardenGo_asked ⟨hidle, hpower, hstep, .inl hcode⟩, List.append_assoc, firstFail_append_none hchecked, List.cons_append,
    firstFail_cons_none (need_true (beq_iff_eq.2 hcode)), List.cons_append, firstFail_cons_none (need_true (beq_iff_eq.2 hlen))]
  rfl

theorem State.wardenGo_effect (hpasses : s.Passes cmd plen sig) (hallowed : allowed = true) (hsigned : signers (wreqSigners s.wreq) = true)
    (hchecks : firstFail (checks (wreqPayload s.wreq)) = none) :
    s.wardenGo cmd plen sig allowed signers checks effect = effect (s.answered 0) (wreqPayload s.wreq) := by
  rw [State.wardenGo_passes hpasses, firstFail_cons_none (need_true hallowed), firstFail_cons_none (need_true hsigned), hchecks]

theorem State.wardenGo_disallowed (hpasses : s.Passes cmd plen sig) (hstate : allowed = false) :
    s.wardenGo cmd plen sig allowed signers checks effect = s.answered stStructure := by
  rw [State.wardenGo_passes hpasses, firstFail_cons_some (need_false hstate)]

theorem State.wardenGo_refused (hpasses : s.Passes cmd plen sig) (hallowed : allowed = true) (hsigned : signers (wreqSigners s.wreq) = true)
    (hfails : firstFail (checks (wreqPayload s.wreq)) = some (st, d)) :
    s.wardenGo cmd plen sig allowed signers checks effect = s.answered st := by
  rw [State.wardenGo_passes hpasses, firstFail_cons_none (need_true hallowed), firstFail_cons_none (need_true hsigned), hfails]

/-- A request whose own checks fail is refused, if not for its state or its signers. -/
theorem State.wardenGo_refused_somehow (hpasses : s.Passes cmd plen sig) (hst : st ≠ 0)
    (hfails : firstFail (checks (wreqPayload s.wreq)) = some (st, d)) :
    ∃ z, z ≠ 0 ∧ s.wardenGo cmd plen sig allowed signers checks effect = s.answered z := by
  cases hallowed : allowed with
  | false => exact ⟨stStructure, by decide, State.wardenGo_disallowed hpasses rfl⟩
  | true =>
    cases hsigned : signers (wreqSigners s.wreq) with
    | false =>
      refine ⟨stStructure, by decide, ?_⟩
      rw [State.wardenGo_passes hpasses, firstFail_cons_none (need_true rfl), firstFail_cons_some (need_false hsigned)]
    | true => exact ⟨st, hst, State.wardenGo_refused hpasses rfl hsigned hfails⟩

/-- The rows of Table 18-6 with their COMMANDs. -/
inductive WardenRow (sig : SigVerdict) (acc : List Bool) : Instr → Nat → Prop
  | maintEnter : WardenRow sig acc (.maintEnter sig) 0x01
  | maintExit : WardenRow sig acc (.maintExit sig) 0x02
  | fwUpdate : WardenRow sig acc (.fwUpdate sig acc) 0x10
  | svnCommit : WardenRow sig acc (.svnCommit sig) 0x11
  | fwkeyRevoke : WardenRow sig acc (.fwkeyRevoke sig) 0x12
  | ownerClaim : WardenRow sig acc (.ownerClaim sig) 0x20
  | ownerSet : WardenRow sig acc (.ownerSet sig) 0x21
  | ownerRelease : WardenRow sig acc (.ownerRelease sig) 0x22
  | recordRestore : WardenRow sig acc (.recordRestore sig) 0x23
  | debugAuth : WardenRow sig acc (.debugAuth sig) 0x30
  | recordRead : WardenRow sig acc (.recordRead sig) 0x40

/-- A row's outcome is a GO of its COMMAND. -/
def State.Goes (s : State) (sig : SigVerdict) (cmd : Nat) (t : State) : Prop :=
  ∃ plen allowed signers checks effect, t = s.wardenGo cmd plen sig allowed signers checks effect

theorem fwUpdate_goes {acc : List Bool} : s.Goes sig 0x10 (fwUpdate sig acc s) := by
  rw [fwUpdate]
  exact ⟨_, _, _, _, _, rfl⟩

theorem fwkeyRevoke_goes : s.Goes sig 0x12 (fwkeyRevoke sig s) := by
  rw [fwkeyRevoke]
  exact ⟨_, _, _, _, _, rfl⟩

theorem debugAuth_goes : s.Goes sig 0x30 (debugAuth sig s) := by
  rw [debugAuth]
  exact ⟨_, _, _, _, _, rfl⟩

theorem WardenRow.exec_eq {acc : List Bool} {i : Instr} (hrow : WardenRow sig acc i cmd) : ∃ t, exec i s = .next t ∧ s.Goes sig cmd t := by
  cases hrow with
  | fwUpdate => exact ⟨_, rfl, fwUpdate_goes⟩
  | fwkeyRevoke => exact ⟨_, rfl, fwkeyRevoke_goes⟩
  | debugAuth => exact ⟨_, rfl, debugAuth_goes⟩
  | _ => exact ⟨_, rfl, _, _, _, _, _, rfl⟩

theorem WardenRow.of_mem {acc : List Bool} {i : Instr} (h : (i, cmd) ∈ [(Instr.maintEnter sig, 0x01), (.maintExit sig, 0x02),
    (.fwUpdate sig acc, 0x10), (.svnCommit sig, 0x11), (.fwkeyRevoke sig, 0x12), (.ownerClaim sig, 0x20), (.ownerSet sig, 0x21),
    (.ownerRelease sig, 0x22), (.recordRestore sig, 0x23), (.debugAuth sig, 0x30), (.recordRead sig, 0x40)]) : WardenRow sig acc i cmd := by
  simp only [List.mem_cons, Prod.mk.injEq, List.not_mem_nil, or_false] at h
  rcases h with ⟨rfl, rfl⟩ | ⟨rfl, rfl⟩ | ⟨rfl, rfl⟩ | ⟨rfl, rfl⟩ | ⟨rfl, rfl⟩ | ⟨rfl, rfl⟩ | ⟨rfl, rfl⟩ | ⟨rfl, rfl⟩ | ⟨rfl, rfl⟩ |
    ⟨rfl, rfl⟩ | ⟨rfl, rfl⟩ <;> constructor

/-- Settles O52: the registers of the mailbox by its data pointer, a GO by the first of its checks that fails. -/
theorem wardenMailbox : Obligations.WardenMailbox := by
  unfold Obligations.WardenMailbox
  refine ⟨?length, ?lengthIgnored, ?data, ?dataIgnored, ?unsupported, ?read, ?unchecked, ?unlisted, ?ignored⟩
  case length =>
    intro s len hpower hlen
    have hset : wmbCtrlLengthWrite len s = { s with wdn := { s.wdn with wmbLen := len, wmbPtr := 0 } } := by
      simp [wmbCtrlLengthWrite, hpower, hlen]
    exact congrArg Host.Outcome.next hset
  case lengthIgnored =>
    intro s len h
    have hkept : wmbCtrlLengthWrite len s = s := by
      rcases h with h | h
      · simp [wmbCtrlLengthWrite, h]
      · simp [wmbCtrlLengthWrite, Nat.not_le.2 h]
    exact congrArg Host.Outcome.next hkept
  case data =>
    intro s half data i p bs hpower hhalf hplaces
    have hwritten : served half (wmbDataWrite half data) s =
        { s with wdn := { s.wdn with wmbBytes := putBytes s.wdn.wmbBytes i bs, wmbPtr := p } } := by
      simp only [served_reached hhalf, wmbDataWrite, hpower, if_true, hplaces]
    exact ⟨_, congrArg Host.Outcome.next hwritten, getBytes_putBytes, fun k hk => tget_putBytes_outside hk, rfl, rfl⟩
  case dataIgnored =>
    intro s half data hhalf hplaces
    have hkept : served half (wmbDataWrite half data) s = s := by
      simp only [served_reached hhalf, wmbDataWrite, hplaces, ite_self]
    exact congrArg Host.Outcome.next hkept
  case unsupported =>
    intro s data hup
    have hanswer : served .other (wmbDataWrite .other data) s = s.emit .unsupported := by rw [served, if_pos rfl, if_pos hup]
    exact congrArg Host.Outcome.next hanswer
  case read => exact fun s => ⟨_, rfl, rfl, rfl⟩
  case unchecked =>
    intro s sig acc i cmd st d hasked hfails hrow
    obtain ⟨_, hexec, _, _, _, _, _, rfl⟩ := (WardenRow.of_mem hrow).exec_eq (s := s)
    exact hexec.trans (congrArg Host.Outcome.next (State.wardenGo_unchecked hasked hfails))
  case unlisted =>
    intro s sig acc i cmd hasked hchecked hcode hrow
    obtain ⟨_, hexec, _, _, _, _, _, rfl⟩ := (WardenRow.of_mem hrow).exec_eq (s := s)
    exact hexec.trans (congrArg Host.Outcome.next (State.wardenGo_unlisted hasked hchecked hcode))
  case ignored =>
    intro s sig acc i hunheard hrow
    obtain ⟨cmd, hrow⟩ : ∃ cmd, WardenRow sig acc i cmd := by
      simp only [List.mem_cons, List.not_mem_nil, or_false] at hrow
      rcases hrow with rfl | rfl | rfl | rfl | rfl | rfl | rfl | rfl | rfl | rfl | rfl <;> exact ⟨_, by constructor⟩
    obtain ⟨_, hexec, _, _, _, _, _, rfl⟩ := hrow.exec_eq (s := s)
    exact hexec.trans (congrArg Host.Outcome.next (State.wardenGo_ignored hunheard))

/-! ### A maintenance stop, R456 -/

theorem Port.freeBuffer_txq {x : Port} : (x.freeBuffer v).txq = x.txq := by
  unfold Port.freeBuffer
  split_ifs <;> rfl

/-- The ports with the flits gone that may not leave any more. -/
def State.neighbourPorts (s : State) : State :=
  { s with ports := s.ports.map fun e => (e.1, { e.2 with txq := e.2.txq.filter fun q => s.flitAllowed q.flit }) }

theorem State.neighbourPorts_txq : (s.neighbourPorts.port p).txq = (s.port p).txq.filter fun q => s.flitAllowed q.flit :=
  congrArg Port.txq (tget_map (f := fun x : Port => { x with txq := x.txq.filter fun q => s.flitAllowed q.flit }) rfl s.ports p)

theorem State.dropBeyond_frame : s.dropBeyond = { s with ports := s.dropBeyond.ports } := by
  have hfold (l : List QFlit) (t : State) :
      { (l.foldl (fun s q => match q.inPort with | some i => s.modPort i fun y => y.freeBuffer q.inVc | none => s) t) with ports := [] } =
        { t with ports := [] } :=
    foldl_keeps_view (view := fun t : State => { t with ports := [] }) (fun t q => by cases q.inPort <;> rfl) l t
  have hrest : { s.dropBeyond with ports := [] } = { s with ports := [] } := hfold _ _
  calc s.dropBeyond = { { s.dropBeyond with ports := [] } with ports := s.dropBeyond.ports } := rfl
    _ = _ := by rw [hrest]

theorem State.dropBeyond_txq : (s.dropBeyond.port p).txq = (s.port p).txq.filter fun q => s.flitAllowed q.flit := by
  rw [← State.neighbourPorts_txq]
  refine foldl_keeps_view (view := fun t : State => (t.port p).txq) (fun t q => ?_) _ s.neighbourPorts
  cases q.inPort with
  | none => rfl
  | some i =>
    by_cases hp : p = i
    · subst hp
      exact (congrArg Port.txq State.port_modPort_self).trans Port.freeBuffer_txq
    · exact congrArg Port.txq (State.port_modPort_ne hp)

/-! ### Firmware keys, R458 -/

theorem fwkeyRevoke_check_fails {s : State} (hothers : ∀ i, i < 4 → i ≠ k → s.fuse.revoked.getLsbD i = true) :
    firstFail [need (decide (k < 4) && k != s.boot.fwKeyUsed && (List.range 4).any (fun i => i != k && !s.fuse.revoked.getLsbD i)) stBounds 0] =
      some (stBounds, 0) := by
  refine firstFail_cons_some (need_false ?_)
  have hany : (List.range 4).any (fun i => i != k && !s.fuse.revoked.getLsbD i) = false := by
    simp only [List.any_eq_false, List.mem_range, Bool.and_eq_true, bne_iff_ne, Bool.not_eq_true', not_and, Bool.not_eq_false]
    exact hothers
  rw [hany, Bool.and_false]

/-! ### The statement -/

/-- Settles O53: each request by its effect on the state that its answer leaves, or by the check of its own that fails. -/
theorem wardenRequests : Obligations.WardenRequests := by
  unfold Obligations.WardenRequests
  refine ⟨?enter, ?occupied, ?exit, ?update, ?unverified, ?written, ?svn, ?svnBounds, ?revoke, ?lastKey, ?claim, ?set, ?release, ?restore,
    ?mismatch, ?policy, ?read, ?debugOne, ?debugTwo, ?debugBarred⟩
  case enter =>
    intro s sig hpasses hsigners hmode hstage hjobs
    have hallowed : (s.wdn.mode == 1 && (List.range 8).all (fun j => (s.slot j).state == 0) && s.bld.state == .empty) = true := by
      simpa [hmode, hstage] using hjobs
    have hends := State.wardenGo_effect (signers := noSigner) (checks := fun _ => [])
      (effect := fun s _ => State.dropBeyond { s with wdn := { s.wdn with mode := 2, maintAt := some s.engCycle } }) hpasses hallowed
      (by rw [hsigners]; rfl) rfl
    refine ⟨_, congrArg Host.Outcome.next hends, fun p q hq => ?_, State.dropBeyond_frame⟩
    rw [State.dropBeyond_txq] at hq
    rw [State.dropBeyond_frame]
    exact (List.mem_filter.1 hq).2
  case occupied =>
    intro s sig j hpasses hj hstate
    have hstate : (s.wdn.mode == 1 && (List.range 8).all (fun j => (s.slot j).state == 0) && s.bld.state == .empty) = false := by
      have hall : (List.range 8).all (fun j => (s.slot j).state == 0) = false := by simpa using ⟨j, hj, hstate⟩
      rw [hall, Bool.and_false, Bool.false_and]
    exact congrArg Host.Outcome.next (State.wardenGo_disallowed hpasses hstate)
  case exit =>
    intro s sig hpasses hsigners hmode
    have hends := State.wardenGo_effect (signers := noSigner) (checks := fun _ => []) (effect := fun s _ => s.restartAt3) hpasses
      (beq_iff_eq.2 hmode) (by rw [hsigners]; rfl) rfl
    exact ⟨_, congrArg Host.Outcome.next hends, rfl, rfl, rfl⟩
  case update =>
    rintro s sig acc _ _ k hpasses rfl rfl hmode hsigners halign hrange hsize hgood hkey
    refine congrArg Host.Outcome.next ?_
    rw [fwUpdate, State.wardenGo_effect hpasses (beq_iff_eq.2 hmode) hsigners]
    · rfl
    · simp [firstFail, need, halign, hrange, hsize, hgood, hkey]
  case unverified =>
    rintro s sig acc _ hpasses rfl hmode hsigners halign hrange hsize hkey
    refine congrArg Host.Outcome.next ?_
    rw [fwUpdate, State.wardenGo_refused (st := stImageVerify) (d := 0) hpasses (beq_iff_eq.2 hmode) hsigners]
    simp [firstFail, need, halign, hrange, hsize, hkey]
  case written =>
    intro s hwriting
    have hends : fwImageWriteDone s = State.restartAt3 { s with boot := { s.boot with reservedImage := s.wdn.newImage } } := if_pos hwriting
    exact ⟨_, congrArg Host.Outcome.next hends, rfl, rfl, rfl⟩
  case svn =>
    rintro s sig v hpasses hmode hsigners rfl hrunning hmin hmax
    refine congrArg Host.Outcome.next ((State.wardenGo_effect hpasses (bne_iff_ne.2 hmode) hsigners ?_).trans rfl)
    simp [firstFail, need, ← hrunning, hmin, hmax]
  case svnBounds =>
    rintro s sig v hpasses hmode hsigners rfl hbounds
    refine congrArg Host.Outcome.next (State.wardenGo_refused (d := 0) hpasses (bne_iff_ne.2 hmode) hsigners ?_)
    refine firstFail_cons_some (need_false ?_)
    rcases hbounds with hbounds | hbounds
    · rw [beq_false_of_ne hbounds, Bool.false_and, Bool.false_and]
    · rw [decide_eq_false (Nat.not_le.2 hbounds), Bool.and_false, Bool.false_and]
  case revoke =>
    rintro s sig _ c hpasses hmode hunsigned hk hc hne rfl hsigners hvalid hused
    refine congrArg Host.Outcome.next ?_
    rw [fwkeyRevoke, State.wardenGo_effect hpasses (beq_iff_eq.2 hmode)]
    · rfl
    · rw [hunsigned, hsigners]
      simp [oneSigner, hvalid, hne]
      omega
    · have hany : (List.range 4).any (fun i => i != leAt (wreqPayload s.wreq) 0 1 && !s.fuse.revoked.getLsbD i) = true :=
        List.any_eq_true.2 ⟨c, List.mem_range.2 hc, by simp [hne, hvalid]⟩
      rw [hany]
      simp [firstFail, need, hk, hused]
  case lastKey =>
    rintro s sig _ hpasses hmode hk rfl hothers
    have hends : ∃ z, z ≠ 0 ∧ fwkeyRevoke sig s = s.answered z := by
      rw [fwkeyRevoke]
      exact State.wardenGo_refused_somehow hpasses (by decide : stBounds ≠ 0) (fwkeyRevoke_check_fails hothers)
    obtain ⟨z, hz, hends⟩ := hends
    exact ⟨z, hz, congrArg Host.Outcome.next hends⟩
  case claim =>
    rintro s sig _ _ hpasses rfl hmode howned hlost hsigners hchecks rfl
    refine congrArg Host.Outcome.next ((State.wardenGo_effect hpasses ?_ (by rw [hsigners]; rfl) hchecks).trans rfl)
    rw [hmode, State.unowned, howned, hlost]
    rfl
  case set =>
    rintro s sig _ _ hpasses rfl hmode howned hsigners hchecks rfl
    refine congrArg Host.Outcome.next ((State.wardenGo_effect hpasses ?_ hsigners hchecks).trans rfl)
    rw [hmode, howned]
    rfl
  case release =>
    intro s sig hpasses hmode howned hsigners hbits
    refine congrArg Host.Outcome.next ((State.wardenGo_effect hpasses ?_ hsigners ?_).trans rfl)
    · rw [hmode, howned]
      rfl
    · exact firstFail_cons_none (need_true (decide_eq_true hbits))
  case restore =>
    rintro s sig _ hpasses rfl hstep hsigners hpolicy hrecord hlost
    have hends : recordRestore sig s = { s with wdn := { (s.answered 0).wdn.useRecord (wreqPayload s.wreq) s.fuse.ownerBits with
        copies := (List.range 3).map fun k => (k, wreqPayload s.wreq) } } := by
      refine (State.wardenGo_effect hpasses (decide_eq_true hstep) (by rw [hsigners]; rfl) ?_).trans ?_
      · simp [firstFail, need, hpolicy, hrecord, hlost]
      · have hlost' : (s.answered 0).wdn.ownerLost = true := hlost
        rw [hlost', if_pos rfl]
        rfl
    have hword : leAt (wreqPayload s.wreq) 0x10 8 < 64 := by
      simp only [policyOk, Bool.and_eq_true, decide_eq_true_eq] at hpolicy
      exact hpolicy.1
    refine ⟨_, congrArg Host.Outcome.next hends, rfl, rfl, rfl, ?_, rfl, rfl⟩
    exact Nat.mod_eq_of_lt (hword.trans (by decide))
  case mismatch =>
    rintro s sig _ hpasses rfl hstep hsigners hpolicy hlost hrecord
    refine congrArg Host.Outcome.next (State.wardenGo_refused (d := 0) hpasses (decide_eq_true hstep) (by rw [hsigners]; rfl) ?_)
    rw [firstFail_cons_none (need_true hpolicy)]
    refine firstFail_cons_some (need_false ?_)
    rw [hlost, beq_false_of_ne hrecord, Bool.and_false, Bool.false_or, Bool.and_false]
  case policy =>
    rintro s sig _ hpasses rfl hstep hsigners hpolicy
    exact congrArg Host.Outcome.next (State.wardenGo_refused hpasses (decide_eq_true hstep) (by rw [hsigners]; rfl)
      (firstFail_cons_some (need_false hpolicy)))
  case read =>
    intro s sig hpasses hstep hsigners
    exact congrArg Host.Outcome.next ((State.wardenGo_effect hpasses (decide_eq_true hstep) (by rw [hsigners]; rfl) rfl).trans rfl)
  case debugOne =>
    intro s sig hpasses hmode hlevel hsigners
    have hends : debugAuth sig s = { s.answered 0 with host := { s.host with debugLevel := max s.host.debugLevel 1 } } := by
      rw [debugAuth, State.wardenGo_effect hpasses]
      · simp only [hlevel]
        rfl
      · rw [hmode, hlevel]
        rfl
      · rw [if_pos hlevel]
        exact hsigners
      · rw [hlevel]
        rfl
    exact congrArg Host.Outcome.next hends
  case debugTwo =>
    intro s sig hpasses hmode hlevel hunbarred hsigners
    have hends : debugAuth sig s = { (s.answered 0).eraseKeys with host := { s.host with debugLevel := max s.host.debugLevel 2 } } := by
      rw [debugAuth, State.wardenGo_effect hpasses]
      · simp only [hlevel, if_true]
        rfl
      · rw [hmode, hlevel]
        rfl
      · rw [if_neg (by rw [hlevel]; decide)]
        exact hsigners
      · rw [hunbarred, Bool.not_false, Bool.or_true]
        rfl
    refine ⟨_, congrArg Host.Outcome.next hends, rfl, rfl, rfl, rfl, rfl, fun a hlo hhi => ?_, rfl⟩
    exact State.zero_byte_zero (State.zero_byte_inside hlo hhi)
  case debugBarred =>
    intro s sig hpasses hlevel hbarred
    have hcheck : (leAt (wreqPayload s.wreq) 0 1 == 1 || !s.wdn.policy.getLsbD 5) = false := by
      rw [hlevel, hbarred]
      rfl
    have hends : ∃ z, z ≠ 0 ∧ debugAuth sig s = s.answered z := by
      rw [debugAuth]
      exact State.wardenGo_refused_somehow hpasses (by decide : stStructure ≠ 0) (firstFail_cons_some (need_false hcheck))
    obtain ⟨z, hz, hends⟩ := hends
    exact ⟨z, hz, congrArg Host.Outcome.next hends⟩

end Sys2Proof.Machine

/-!
PROOF. The end of a command of any engine but the Strainer, said once for the statements that follow: `CommandEnded` is what it leaves of
its engine's registers and of memory, `State.complete_onlyFrom` that nothing but what commands touch has changed.
-/

namespace Sys2Proof.Machine

variable {s t u v : State} {c : Cmd} {e op st d sub : Nat} {signals counts : Bool} {record : List Byte} {m : Memory} {l : List Output}

/-- The command `c` has ended with status `st` and DETAIL `d`; outside its record memory is `m`. -/
structure CommandEnded (t : State) (c : Cmd) (st d : Nat) (m : Memory) : Prop where
  status : (t.engRegs c.engine).lastStatus = st
  failure : st ≠ 0 → (t.engRegs c.engine).failStatus = st ∧ (t.engRegs c.engine).failDetail = d
  memory : ∀ a, c.spares a → t.mem.byte a = m.byte a

theorem State.complete_ended (hmem : s.mem = m) : CommandEnded (s.complete c st d signals sub counts) c st d m where
  status := State.complete_lastStatus
  failure hst := by
    rw [State.complete_engRegs, if_neg hst]
    exact ⟨rfl, rfl⟩
  memory a ha := by rw [State.complete_spares ha, hmem]

/-- Whatever stood before its end, the end of a command of any engine but the Strainer adds only what commands touch. -/
theorem State.complete_onlyFrom (hengine : c.engine ≠ 2) (houtside : v.outsideCommands = s.outsideCommands) (hstr : v.str = s.str) :
    OnlyCommands s (v.complete c st d signals sub counts) := by
  refine onlyCommands_of_str (State.complete_outsideCommands.trans houtside) ?_
  rw [State.complete_str, if_neg hengine, hstr]

/-- The same of a command that has just begun. -/
theorem State.complete_onlyBegun (hbegins : s.begins e op = some (u, c)) (hengine : e ≠ 2) (houtside : v.outsideCommands = u.outsideCommands)
    (hstr : v.str = u.str) : OnlyCommands s (v.complete c st d signals sub counts) :=
  have hbegun := State.begun_of_begins hbegins
  State.complete_onlyFrom (State.engine_of_begins hbegins ▸ hengine) (houtside.trans hbegun.outside) (hstr.trans hbegun.str)

theorem State.storeAll_outsideCommands {ws : List (Nat × List Byte)} : (s.storeAll ws).outsideCommands = s.outsideCommands :=
  foldl_keeps_view (view := State.outsideCommands) (f := fun (t : State) (w : Nat × List Byte) => t.store w.1 w.2) (fun _ _ => rfl) ws s

/-- From s to t the command `c` has ended, over memory `m`, and only what commands touch has changed. -/
structure EndsOnly (s t : State) (c : Cmd) (st d : Nat) (m : Memory) : Prop where
  ended : CommandEnded t c st d m
  only : OnlyCommands s t

theorem endsOnly_of_complete (hbegins : s.begins e op = some (u, c)) (hengine : e ≠ 2) (houtside : v.outsideCommands = u.outsideCommands)
    (hstr : v.str = u.str) (hmem : v.mem = m) : EndsOnly s (v.complete c st d signals sub counts) c st d m :=
  ⟨State.complete_ended hmem, State.complete_onlyBegun hbegins hengine houtside hstr⟩

/-- A command that writes its result, at its commit. -/
theorem endsOnly_of_stores {ws : List (Nat × List Byte)} (hbegins : s.begins e op = some (u, c)) (hengine : e ≠ 2)
    (ht : t = (u.storeAll ws).complete c stOk 0) : EndsOnly s t c 0 0 (u.storeAll ws).mem :=
  ht ▸ endsOnly_of_complete hbegins hengine State.storeAll_outsideCommands State.storeAll_str rfl

/-- A command that fails leaves memory as it is. -/
theorem endsOnly_of_failure (hbegins : s.begins e op = some (u, c)) (hengine : e ≠ 2) (ht : t = u.complete c st d) :
    EndsOnly s t c st d s.mem :=
  ht ▸ endsOnly_of_complete hbegins hengine rfl rfl (State.begun_of_begins hbegins).mem

/-! ### What stands through the end of a command -/

theorem State.writeCompl_evt : (s.writeCompl c record signals).log.evt = s.log.evt := by
  unfold State.writeCompl
  dsimp only
  split_ifs <;> rfl

/-- LOG_EVT stands through the end of a command. -/
theorem State.complete_evt : (s.complete c st d signals sub counts).log.evt = s.log.evt := by
  have hended : (s.ended c st d signals sub counts).log.evt = s.log.evt := by
    have htally : (s.tallyEcc st).log.evt = s.log.evt := by unfold State.tallyEcc; split_ifs <;> rfl
    have htraced (x : State) : ((x.absent c st).trace c st).log.evt = x.log.evt := by
      unfold State.trace State.absent
      split_ifs <;> rfl
    simp only [State.ended]
    split_ifs <;> simp [htraced, htally]
  rw [State.complete_eq_finish, State.finish]
  split_ifs
  · rw [State.writeCompl_evt, hended]
  · rw [State.conclude_log, State.writeCompl_evt, hended]

theorem State.writeCompl_out_prefix (h : l <+: s.out) : l <+: (s.writeCompl c record signals).out := by
  unfold State.writeCompl
  dsimp only
  split_ifs
  · exact h
  · exact h.trans (List.prefix_append _ _)
  · exact h
  · exact h

theorem State.ringInterrupt_out_prefix {r : Nat} (h : l <+: s.out) : l <+: (s.ringInterrupt r).out := State.msix_out_prefix h

theorem State.post_out_prefix (h : l <+: s.out) : l <+: (s.post c record).out := by
  have hposted {o : Output} : l <+: s.out ++ [o] := h.trans (List.prefix_append _ _)
  unfold State.post
  exact ite_out_prefix h (ite_out_prefix h (ite_out_prefix (State.ringInterrupt_out_prefix hposted) hposted))

theorem State.conclude_out_prefix (h : l <+: s.out) : l <+: (s.conclude c record signals).out := by
  unfold State.conclude
  refine State.post_out_prefix ?_
  split_ifs
  · rwa [State.signal_out]
  · exact h

/-- What has left the block has left it. -/
theorem State.complete_out_prefix (h : l <+: s.out) : l <+: (s.complete c st d signals sub counts).out := by
  have hended : l <+: (s.ended c st d signals sub counts).out := by
    simp only [State.ended]
    split_ifs <;> simpa using h
  rw [State.complete_eq_finish, State.finish]
  split_ifs
  · exact State.writeCompl_out_prefix hended
  · exact State.conclude_out_prefix (State.writeCompl_out_prefix hended)

theorem State.complete_emitted {o : Output} (h : o ∈ s.out) : o ∈ (s.complete c st d signals sub counts).out :=
  (State.complete_out_prefix (List.prefix_refl _)).subset h

/-- A command that has ended is no longer started; every other one that was still is. -/
theorem State.complete_live : (s.complete c st d signals sub counts).live = s.live.filter fun l => !l.cmd.same c := by
  rw [State.complete_eq_finish, State.finish_live]
  simp only [State.ended]
  split_ifs <;> simp [State.dropLive]

/-- The first failure of a row's checks ends its command. -/
theorem State.orFail_passes {checks : List Check} {body : State → State} (hpasses : firstFail checks = none) :
    s.orFail c checks body = body s := by rw [State.orFail, hpasses]

theorem State.orFail_fails {checks : List Check} {body : State → State} (hfails : firstFail checks = some (st, d)) :
    s.orFail c checks body = s.complete c st d := by rw [State.orFail, hfails]

theorem firstFail_single {ck : Check} : firstFail [ck] = ck := by cases ck <;> rfl

end Sys2Proof.Machine

/-!
PROOF. The near-channel commands (O45). A command that writes ends on its stores, one that fails on nothing, and one of the host also on
what it has sent out.
-/

namespace Sys2Proof.Machine

variable {s t u v : State} {c : Cmd} {op st d : Nat} {ws : List (Nat × List Byte)} {m : Memory} {ck : Check}

/-! ### Their checks -/

theorem State.orIndex_passes {body : State → State} (h : ck = none) : s.orIndex c ck body = body s := by simp only [State.orIndex, h]

theorem State.orIndex_fails {body : State → State} (h : ck = some (st, d)) :
    s.orIndex c ck body = (s.jobEvent 3 0x180 0x0020 c.opcode d st c.job).complete c st d := by simp only [State.orIndex, h]

/-- R473: rows that cannot be read fail with ECC_UNCORR. -/
theorem State.namesFailure_nchRows {n : Nat} {rows : List Nat} : NamesFailure (s.nchRows n rows) := namesFailure_map (by decide)

/-- The checks of COPY name failures. -/
theorem State.namesFailures_copyChecks : NamesFailures (s.copyChecks c) := by
  have hoverlap : NamesFailure (s.overlapCheck c 7) := namesFailure_need (by decide)
  have hecc : NamesFailures (s.nchEcc c [0] [7]) := by
    unfold State.nchEcc
    simp only [namesFailures_append, List.map_cons, List.map_nil, namesFailures_cons, namesFailures_nil, and_true]
    exact ⟨namesFailure_map (by decide), namesFailure_map (by decide)⟩
  simp only [State.copyChecks, namesFailures_append, namesFailures_cons, namesFailures_nil, namesFailure_zeroParams,
    State.namesFailures_checkSlot, hoverlap, hecc, and_self]

/-! ### COPY, FILL, GATHER, POOL, REDUCE and DIGEST -/

theorem copy_writes (hbegins : s.begins 7 1 = some (u, c)) (hpasses : firstFail (u.copyChecks c) = none) :
    copy s = (u.storeAll ((u.slotTensor c 7).place ((u.slotTensor c 0).read u.mem))).complete c stOk 0 := by
  simp only [copy, State.withHead_of_begins hbegins (by decide), State.orFail_passes hpasses]

theorem copy_fails (hbegins : s.begins 7 1 = some (u, c)) (hfails : firstFail (u.copyChecks c) = some (st, d)) :
    copy s = u.complete c st d := by
  simp only [copy, State.withHead_of_begins hbegins (by decide), State.orFail_fails hfails]

theorem fill_writes (hbegins : s.begins 7 2 = some (u, c)) (hpasses : firstFail (u.fillChecks c) = none) :
    fill s = (u.storeAll ((u.slotTensor c 7).place ((List.range ((u.slotTensor c 7).rows.length * (u.slotTensor c 7).rowLen)).map
      fun i => (u.params c).getD (i % 8) 0))).complete c stOk 0 := by
  simp only [fill, State.withHead_of_begins hbegins (by decide), State.orFail_passes hpasses]

section
variable (hbegins : s.begins 7 3 = some (u, c)) (hpasses : firstFail (u.gatherChecks c) = none)
include hbegins hpasses

theorem gather_indexFails
    (hindex : oobCheck (u.gatherIndices c) (u.slotTensor c 0).table.count (leAt (u.params c) 0 1) = some (st, d)) :
    gather s = (u.jobEvent 3 0x180 0x0020 c.opcode d st c.job).complete c st d := by
  simp only [gather, State.withHead_of_begins hbegins (by decide), State.orFail_passes hpasses, State.orIndex_fails hindex]

theorem gather_named (hindex : oobCheck (u.gatherIndices c) (u.slotTensor c 0).table.count (leAt (u.params c) 0 1) = none) :
    gather s = u.orFail c [u.nchRows (u.slotTensor c 0).rowLen ((u.slotTensor c 0).table.named (u.gatherIndices c))] fun s =>
      (s.storeAll (s.gatherRowWrites c)).complete c stOk 0 := by
  simp only [gather, State.withHead_of_begins hbegins (by decide), State.orFail_passes hpasses, State.orIndex_passes hindex]

end

theorem pool_writes (hbegins : s.begins 7 4 = some (u, c)) (hpasses : firstFail (u.poolChecks c) = none)
    (hindex : oobCheck (u.poolIndices c) (u.slotTensor c 0).table.count (leAt (u.params c) 0 1) = none)
    (hrows : u.nchRows (u.slotTensor c 0).rowLen ((u.slotTensor c 0).table.named (u.poolIndices c)) = none) :
    pool s = (u.storeAll (u.poolWrites c)).complete c stOk 0 := by
  simp only [pool, State.withHead_of_begins hbegins (by decide), State.orFail_passes hpasses, State.orIndex_passes hindex,
    State.orFail_passes (firstFail_single.trans hrows)]

theorem reduce_writes (hbegins : s.begins 7 5 = some (u, c)) (hpasses : firstFail (u.reduceChecks c) = none) :
    reduce s = (u.storeAll (u.reduceSumWrites c)).complete c stOk 0 := by
  simp only [reduce, State.withHead_of_begins hbegins (by decide), State.orFail_passes hpasses]

theorem digest_writes (hbegins : s.begins 7 0xA = some (u, c)) (hpasses : firstFail (u.digestChecks c) = none) :
    digest s = (u.storeAll ((u.slotTensor c 7).place (digest512 ((u.slotTensor c 0).read u.mem)))).complete c stOk 0 := by
  simp only [digest, State.withHead_of_begins hbegins (by decide), State.orFail_passes hpasses]

/-! ### AUDIT, R482 -/

theorem audit_agrees (hbegins : s.begins 7 0xB = some (u, c)) (hpasses : firstFail (u.auditChecks c) = none) (hbad : u.auditBad c = []) :
    audit s = u.complete c stOk 0 := by
  simp only [audit, State.withHead_of_begins hbegins (by decide), State.orFail_passes hpasses, hbad]

/-- The state with the entry of an audit that names a digest, and its event. -/
def State.audited (s : State) (c : Cmd) (bad : List Nat) (i : Nat) : State :=
  let s1 := s.jobEvent 4 0x180 0x0035 0 (bad.length + i * 2 ^ 32) stCheckMismatch c.job
  { s1 with log := { s1.log with evt := s1.log.evt ||| 0x100 } }

theorem audit_differs {i : Nat} {r : List Nat} (hbegins : s.begins 7 0xB = some (u, c)) (hpasses : firstFail (u.auditChecks c) = none)
    (hbad : u.auditBad c = i :: r) : audit s = (u.audited c (i :: r) i).complete c stCheckMismatch i := by
  simp only [audit, State.withHead_of_begins hbegins (by decide), State.orFail_passes hpasses, hbad]
  rfl

theorem State.audited_evt {i : Nat} {bad : List Nat} : (s.audited c bad i).log.evt.getLsbD 8 = true := by
  simp [State.audited]

/-! ### Host commands, R344 -/

/-- The state once HOST_READ has sent its request out. -/
def State.hostReadSent (s : State) (c : Cmd) : State := s.emit (.hostRead s.boot.hostCxl (leAt (s.params c) 8 8) (leAt (s.params c) 16 8))

/-- The state once HOST_WRITE has sent its data out. -/
def State.hostWriteSent (s : State) (c : Cmd) : State :=
  s.emit (.hostCmdWrite s.boot.hostCxl (leAt (s.params c) 8 8) ((s.slotTensor c 0).read s.mem))

/-- What the host's data makes of memory. -/
def State.hostWrites (s : State) (c : Cmd) (bs : List Byte) : List (Nat × List Byte) :=
  (s.slotTensor c 7).place (padTo (leAt (s.params c) 16 8) bs)

theorem hostRead_starts {r : HostReply} (hnone : s.hostRuns 8 = none) (hbegins : s.begins 7 8 = some (u, c))
    (hpasses : firstFail (u.hostChecks c 7) = none) :
    hostRead r s = (if r = .pending then (u.hostReadSent c).addLive c true else u.hostReadSent c).hostReadEnds c r := by
  simp only [hostRead, hnone, State.withHead_of_begins hbegins (by decide), State.orFail_passes hpasses]
  rfl

theorem hostWrite_starts {r : HostReply} (hnone : s.hostRuns 9 = none) (hbegins : s.begins 7 9 = some (u, c))
    (hpasses : firstFail (u.hostChecks c 0) = none) :
    hostWrite r s = (if r = .pending then (u.hostWriteSent c).addLive c false else u.hostWriteSent c).hostWriteEnds c r := by
  simp only [hostWrite, hnone, State.withHead_of_begins hbegins (by decide), State.orFail_passes hpasses]
  rfl

theorem State.hostReadEnds_data {bs : List Byte} : s.hostReadEnds c (.data bs) = (s.storeAll (s.hostWrites c bs)).complete c stOk 0 := rfl

theorem State.hostReadEnds_failure {r : HostReply} (hr : replyFailure r = some st) : s.hostReadEnds c r =
    s.complete c st (if st = stEccUncorr then s.hostChannel c 7 else 0) true 0 false := by
  simp only [State.hostReadEnds, hr]

theorem State.hostWriteEnds_done : s.hostWriteEnds c .done = s.complete c stOk 0 := rfl

/-- A host command that runs is one of engine 7. -/
theorem State.hostRuns_engine (hruns : s.hostRuns op = some c) : c.engine = 7 := by
  obtain ⟨l, hl, rfl⟩ := Option.map_eq_some_iff.1 hruns
  have hfound := List.find?_some hl
  simp only [Bool.and_eq_true, beq_iff_eq] at hfound
  exact hfound.1

/-! ### The statement -/

/-- Settles O45: each command by its end, on its stores, on its failure or on what the host has answered. -/
theorem nearChannel : Obligations.NearChannel := by
  unfold Obligations.NearChannel
  refine ⟨?copy, ?fill, ?gather, ?gatherBounds, ?pool, ?gatherEcc, ?reduce, ?hostRead, ?hostReadFails, ?hostWrite, ?digest, ?agrees, ?differs,
    ?copyFails, ?pending, ?answered, ?taken⟩
  case copy =>
    intro s u c hbegins hpasses
    obtain ⟨hended, honly⟩ := endsOnly_of_stores hbegins (by decide) (copy_writes hbegins hpasses)
    exact ⟨copy s, rfl, hended.status, hended.memory, honly⟩
  case fill =>
    intro s u c hbegins hpasses
    obtain ⟨hended, honly⟩ := endsOnly_of_stores hbegins (by decide) (fill_writes hbegins hpasses)
    exact ⟨fill s, rfl, hended.status, hended.memory, honly⟩
  case gather =>
    intro s u c hbegins hpasses hindex hrows
    obtain ⟨hended, honly⟩ := endsOnly_of_stores hbegins (by decide)
      ((gather_named hbegins hpasses hindex).trans (State.orFail_passes (firstFail_single.trans hrows)))
    exact ⟨gather s, rfl, hended.status, hended.memory, honly⟩
  case gatherBounds =>
    intro s u c p hbegins hpasses hindex
    obtain ⟨hended, honly⟩ : EndsOnly s (gather s) c stBounds p s.mem := by
      rw [gather_indexFails hbegins hpasses hindex]
      exact endsOnly_of_complete hbegins (by decide) rfl rfl (State.begun_of_begins hbegins).mem
    obtain ⟨hstatus, hdetail⟩ := hended.failure (by decide)
    exact ⟨gather s, rfl, hstatus, hdetail, hended.memory, honly⟩
  case pool =>
    intro s u c hbegins hpasses hindex hrows
    obtain ⟨hended, honly⟩ := endsOnly_of_stores hbegins (by decide) (pool_writes hbegins hpasses hindex hrows)
    exact ⟨pool s, rfl, hended.status, hended.memory, honly⟩
  case gatherEcc =>
    intro s u c st d hbegins hpasses hindex hrows
    obtain ⟨hended, honly⟩ := endsOnly_of_failure hbegins (by decide)
      ((gather_named hbegins hpasses hindex).trans (State.orFail_fails (firstFail_single.trans hrows)))
    obtain ⟨hstatus, hdetail⟩ := hended.failure (State.namesFailure_nchRows _ hrows)
    exact ⟨gather s, rfl, hstatus, hdetail, hended.memory, honly⟩
  case reduce =>
    intro s u c hbegins hpasses
    obtain ⟨hended, honly⟩ := endsOnly_of_stores hbegins (by decide) (reduce_writes hbegins hpasses)
    exact ⟨reduce s, rfl, hended.status, hended.memory, honly⟩
  case hostRead =>
    intro s u c bs hnone hbegins hpasses
    have hends : hostRead (.data bs) s = ((u.hostReadSent c).storeAll (u.hostWrites c bs)).complete c stOk 0 :=
      hostRead_starts hnone hbegins hpasses
    obtain ⟨hended, honly⟩ : EndsOnly s (hostRead (.data bs) s) c 0 0 (u.storeAll (u.hostWrites c bs)).mem := by
      rw [hends]
      exact endsOnly_of_complete hbegins (by decide) State.storeAll_outsideCommands State.storeAll_str (State.storeAll_mem_congr rfl)
    refine ⟨hostRead (.data bs) s, rfl, hended.status, ?_, hended.memory, honly⟩
    rw [hends]
    exact State.complete_emitted (by rw [State.storeAll_out]; exact List.mem_append_right _ List.mem_cons_self)
  case hostReadFails =>
    intro s u c r st hnone hbegins hpasses hr
    have hanswer : r ≠ .pending := by
      rintro rfl
      cases hr
    have hends := (hostRead_starts hnone hbegins hpasses).trans (congrArg (State.hostReadEnds · c r) (if_neg hanswer))
    obtain ⟨hended, honly⟩ : EndsOnly s (hostRead r s) c st _ s.mem := by
      rw [hends, State.hostReadEnds_failure hr]
      exact endsOnly_of_complete hbegins (by decide) rfl rfl (State.begun_of_begins hbegins).mem
    exact ⟨hostRead r s, rfl, hended.status, hended.memory, honly⟩
  case hostWrite =>
    intro s u c hnone hbegins hpasses
    have hends : hostWrite .done s = (u.hostWriteSent c).complete c stOk 0 := hostWrite_starts hnone hbegins hpasses
    obtain ⟨hended, honly⟩ : EndsOnly s (hostWrite .done s) c 0 0 s.mem := by
      rw [hends]
      exact endsOnly_of_complete hbegins (by decide) rfl rfl (State.begun_of_begins hbegins).mem
    refine ⟨hostWrite .done s, rfl, hended.status, ?_, hended.memory, honly⟩
    rw [hends]
    exact State.complete_emitted (List.mem_append_right _ List.mem_cons_self)
  case digest =>
    intro s u c hbegins hpasses
    obtain ⟨hended, honly⟩ := endsOnly_of_stores hbegins (by decide) (digest_writes hbegins hpasses)
    exact ⟨digest s, rfl, hended.status, hended.memory, honly⟩
  case agrees =>
    intro s u c hbegins hpasses hbad
    obtain ⟨hended, honly⟩ := endsOnly_of_failure hbegins (by decide) (audit_agrees hbegins hpasses hbad)
    exact ⟨audit s, rfl, hended.status, hended.memory, honly⟩
  case differs =>
    intro s u c i r hbegins hpasses hbad
    have hends := audit_differs hbegins hpasses hbad
    obtain ⟨hended, honly⟩ : EndsOnly s (audit s) c stCheckMismatch i s.mem := by
      rw [hends]
      exact endsOnly_of_complete hbegins (by decide) rfl rfl (State.begun_of_begins hbegins).mem
    obtain ⟨hstatus, hdetail⟩ := hended.failure (by decide)
    refine ⟨audit s, rfl, hstatus, hdetail, ?_, hended.memory, honly⟩
    rw [hends, State.complete_evt]
    exact State.audited_evt
  case copyFails =>
    intro s u c st d hbegins hfails
    obtain ⟨hended, honly⟩ := endsOnly_of_failure hbegins (by decide) (copy_fails hbegins hfails)
    obtain ⟨hstatus, hdetail⟩ := hended.failure (State.namesFailures_copyChecks.status_ne hfails)
    exact ⟨copy s, rfl, hstatus, hdetail, hended.memory, honly⟩
  case pending =>
    intro s u c hnone hbegins hpasses
    have hbegun := State.begun_of_begins hbegins
    have hends : hostRead .pending s = (u.hostReadSent c).addLive c true := hostRead_starts hnone hbegins hpasses
    refine ⟨_, congrArg Host.Outcome.next hends, ⟨_, List.mem_append_right _ List.mem_cons_self, rfl⟩,
      List.mem_append_right _ List.mem_cons_self, hbegun.mem, onlyCommands_of_str ?_ hbegun.str⟩
    exact hbegun.outside
  case answered =>
    intro s c bs hruns
    have hends : hostRead (.data bs) s = (s.storeAll (s.hostWrites c bs)).complete c stOk 0 := by
      simp only [hostRead, hruns, State.hostReadEnds_data]
    have hended : CommandEnded (hostRead (.data bs) s) c 0 0 (s.storeAll (s.hostWrites c bs)).mem := hends ▸ State.complete_ended rfl
    refine ⟨hostRead (.data bs) s, rfl, hended.status, hended.memory, ?_⟩
    rw [hends]
    exact State.complete_onlyFrom (by rw [State.hostRuns_engine hruns]; decide) State.storeAll_outsideCommands State.storeAll_str
  case taken =>
    intro s c hruns
    have hends : hostWrite .done s = s.complete c stOk 0 := by simp only [hostWrite, hruns, State.hostWriteEnds_done]
    have hended : CommandEnded (hostWrite .done s) c 0 0 s.mem := hends ▸ State.complete_ended rfl
    refine ⟨hostWrite .done s, rfl, hended.status, hended.memory, ?_⟩
    rw [hends]
    exact State.complete_onlyFrom (by rw [State.hostRuns_engine hruns]; decide) rfl rfl

end Sys2Proof.Machine

/-!
PROOF. UPDATE and the step counters (O49). An UPDATE ends on the state that `State.updRun` leaves of its blocks up to the one that stops
it; the two rows of STEP run on the OP of their parameters.
-/

namespace Sys2Proof.Machine

variable {s t u v : State} {c h : Cmd} {e op st d b g n : Nat} {p : UpdParams} {x : UpdTensors} {ck : Check}

/-! ### A row that looks at its parameters -/

/-- The parameters of a command as it starts are those of the command that waits. -/
theorem State.params_startCmd : (s.startCmd h).1.params (s.startCmd h).2 = s.params h := by
  rw [State.params, State.startCmd_mem]
  rfl

theorem State.withHeadIf_of_begins {pred : List Byte → Bool} {body : State → Cmd → State} (hbegins : s.begins e op = some (u, c))
    (hknown : knownOpcode e op = true) (hpred : pred (u.params c) = true) : s.withHeadIf e op pred body = body u c := by
  obtain ⟨h, hpick, -, hopcode, hcheck, hstart⟩ := State.pick_of_begins hbegins
  have hparams := State.params_startCmd (s := s) (h := h)
  rw [hstart] at hparams
  replace hparams : u.params c = s.params h := hparams
  rw [hparams] at hpred
  simp [State.withHeadIf, hpick, hopcode, hknown, hcheck, hstart, hpred]

theorem CommandBegun.upd (hbegun : CommandBegun s u c) : u.upd = s.upd :=
  show u.outsideCommands.upd = s.outsideCommands.upd from congrArg State.upd hbegun.outside

/-! ### The end of a command of the update engine -/

/-- From s to t the command `c` has ended with the update engine at `x`, over memory `m`. -/
structure UpdEnded (s t : State) (c : Cmd) (st d : Nat) (x : UpdateEngine) (m : Memory) : Prop where
  upd : t.upd = x
  ends : EndsOnly { s with upd := t.upd } t c st d m

/-- What the end of a command leaves of a state that differs from its begin in the update engine. -/
theorem updEnded_of_complete {x : UpdateEngine} {m : Memory} (hbegins : s.begins 7 op = some (u, c)) (hupd : v.upd = x) (hmem : v.mem = m)
    (houtside : { v with upd := {} }.outsideCommands = { u with upd := {} }.outsideCommands) (hstr : v.str = u.str) :
    UpdEnded s (v.complete c st d) c st d x m := by
  have hbegun := State.begun_of_begins hbegins
  have hends : (v.complete c st d).upd = v.upd := State.complete_upd
  refine ⟨hends.trans hupd, State.complete_ended hmem, ?_⟩
  rw [hends]
  refine State.complete_onlyFrom (by rw [State.engine_of_begins hbegins]; decide) ?_ (hstr.trans hbegun.str)
  calc v.outsideCommands = { { v with upd := {} }.outsideCommands with upd := v.upd } := rfl
    _ = { u.outsideCommands with upd := v.upd } := by rw [houtside]; rfl
    _ = _ := by rw [hbegun.outside]; rfl

/-- UPD_EVT after the end of a command of engine 7. -/
theorem State.updEvt_complete (hengine : c.engine = 7) : (((s.updEvt b).complete c st d).engRegs 11).evt = (s.engRegs 11).evt ||| BitVec.ofNat 16 b := by
  rw [State.complete_engRegs_ne (by rw [hengine]; decide), State.updEvt, State.engRegs_modEng]

/-- Stores after which a command of the update engine ends. -/
theorem updEnded_of_stores {ws : List (Nat × List Byte)} (hbegins : s.begins 7 op = some (u, c))
    (houtside : { v with upd := {} }.outsideCommands = { u with upd := {} }.outsideCommands) (hstr : v.str = u.str) :
    UpdEnded s ((v.storeAll ws).complete c st d) c st d v.upd (v.storeAll ws).mem :=
  updEnded_of_complete hbegins State.storeAll_upd rfl
    ((congrArg (fun t : State => { t with upd := {} }) State.storeAll_outsideCommands).trans houtside) (State.storeAll_str.trans hstr)

/-! ### The run over the blocks, R369 -/

/-- The blocks of a run that a block stops. -/
def State.updDone (s : State) (p : UpdParams) (t : UpdTensors) (stop : Option Nat) : List Nat :=
  (s.updLive p t).filter fun b => match stop with | some x => decide (b < x) | none => true

/-- What the run over the blocks writes. -/
def State.updWrites (s : State) (p : UpdParams) (t : UpdTensors) (stop : Option Nat) : List (Nat × List Byte) :=
  (s.updOuts p t (s.updDone p t stop)).flatMap (·.writes)

section
variable {stop : Option Nat}

theorem State.updDone_none : s.updDone p x none = s.updLive p x := List.filter_eq_self.2 fun _ _ => rfl

theorem State.updRun_mem : (s.updRun p x stop).mem = (s.storeAll (s.updWrites p x stop)).mem := by
  unfold State.updRun
  dsimp only
  split_ifs <;> rfl

theorem State.updRun_frame : { s.updRun p x stop with upd := {} }.outsideCommands = { s with upd := {} }.outsideCommands ∧
    (s.updRun p x stop).str = s.str := by
  have hstores {ws : List (Nat × List Byte)} : { s.storeAll ws with upd := {} }.outsideCommands = { s with upd := {} }.outsideCommands :=
    congrArg (fun t : State => { t with upd := {} }) State.storeAll_outsideCommands
  unfold State.updRun
  dsimp only
  split_ifs
  · exact ⟨hstores, State.storeAll_str⟩
  · exact ⟨hstores, State.storeAll_str⟩

theorem State.updRun_counts : (s.updRun p x stop).upd.cntElems = s.upd.cntElems + blockElems x.w.size (s.updDone p x stop) ∧
    (s.updRun p x stop).upd.steps = s.upd.steps := by
  have hstores {ws : List (Nat × List Byte)} : (s.storeAll ws).upd = s.upd := State.storeAll_upd
  unfold State.updRun
  dsimp only
  split_ifs
  · exact ⟨by rw [hstores]; rfl, by rw [hstores]⟩
  · exact ⟨by rw [State.updEvt, State.modEng_upd, hstores]; rfl, by rw [State.updEvt, State.modEng_upd, hstores]⟩

/-- A run that its block `b` stops. -/
theorem updEnded_of_run (hbegins : s.begins 7 op = some (u, c)) :
    UpdEnded s (((u.updRun p x stop).updEvt 4).complete c st d) c st d (u.updRun p x stop).upd (u.storeAll (u.updWrites p x stop)).mem :=
  updEnded_of_complete hbegins rfl State.updRun_mem State.updRun_frame.1 State.updRun_frame.2

end

/-! ### The ends of UPDATE -/

section
variable (hbegins : s.begins 7 6 = some (u, c)) (hp : updParams (u.params c) = p)
include hbegins hp

theorem update_fails (hfails : firstFail (u.updChecks c p) = some (st, d)) : update s = u.complete c st d := by
  simp only [update, State.withHead_of_begins hbegins (by decide), hp, State.orFail_fails hfails]

variable (hpasses : firstFail (u.updChecks c p) = none) (hx : u.updTensors c p = x) (htables : u.updTablesBad p x = false)
include hpasses hx htables

/-- Past its checks, an UPDATE goes on by what its scan has found. -/
theorem update_scanned : update s =
    match (if p.nonfin then u.updScanBad x else none), p.nonfin && u.updScan x != 0 with
    | some b, true => (u.updEvt 4).complete c stEccUncorr (max b p.first)
    | some b, false => ((u.updRun p x (some (u.updStop p x b))).updEvt 4).complete c stEccUncorr (u.updStop p x b)
    | none, true => (State.updEvt { u.storeAll (u.updSkipEntry p x) with upd := { (u.storeAll (u.updSkipEntry p x)).upd with
        cntNonfin := (u.storeAll (u.updSkipEntry p x)).upd.cntNonfin + u.updScan x } } 3).complete c stOk 0
    | none, false =>
      match u.updBad p x with
      | some b => ((u.updRun p x (some b)).updEvt 4).complete c stEccUncorr b
      | none => ((u.updRun p x none).storeAll (u.updEntry p x (u.updOuts p x (u.updLive p x)))).complete c stOk 0 := by
  simp only [update, State.withHead_of_begins hbegins (by decide), hp, State.orFail_passes hpasses, hx, htables, Bool.false_eq_true,
    if_false] <;> rfl

/-- An UPDATE whose scan finds nothing goes on over its blocks, up to the first that meets an uncorrectable line. -/
theorem update_runs (hscan : p.nonfin = true → u.updScanBad x = none ∧ u.updScan x = 0) : update s =
    match u.updBad p x with
    | some b => ((u.updRun p x (some b)).updEvt 4).complete c stEccUncorr b
    | none => ((u.updRun p x none).storeAll (u.updEntry p x (u.updOuts p x (u.updLive p x)))).complete c stOk 0 := by
  rw [update_scanned hbegins hp hpasses hx htables]
  cases hnonfin : p.nonfin with
  | false => rfl
  | true =>
    obtain ⟨hbad, hzero⟩ := hscan hnonfin
    simp only [if_true, hbad, hzero]
    rfl

end

/-! ### The checks of UPDATE and STEP name failures -/

theorem namesFailure_ite_some {q : Prop} [Decidable q] (hst : st ≠ 0) : NamesFailure (if q then some (st, d) else none) := by
  rintro _ hsome
  split_ifs at hsome
  cases hsome
  exact hst

theorem State.namesFailures_updChecks : NamesFailures (s.updChecks c p) := by
  have hown : NamesFailure (need (s.ownsStep c.job p.group) stBounds p.group) := namesFailure_need (by decide)
  have hoverlap {l : List Nat} : NamesFailure (s.updOverlap c l) := namesFailure_map (by decide)
  have hmoment {fmts : List Nat} {shape : Tensor → Bool} :
      NamesFailures (if p.rule = 2 then [need (s.slotZero c 3) stStructure 3] else s.checkSlot c 3 fmts shape) :=
    namesFailures_ite (namesFailures_cons.2 ⟨namesFailure_need (by decide), namesFailures_nil⟩) State.namesFailures_checkSlot
  have hoptional {q : Prop} [Decidable q] {i : Nat} {fmts : List Nat} {shape : Tensor → Bool} :
      NamesFailures (if q then s.checkSlot c i fmts shape else []) := namesFailures_ite State.namesFailures_checkSlot namesFailures_nil
  simp only [State.updChecks, namesFailures_append, namesFailures_cons, namesFailures_nil, namesFailure_zeroParams,
    State.namesFailures_checkSlot, hown, hoverlap, hmoment, hoptional, and_true, true_and]
  exact ⟨⟨namesFailure_ite_some (by decide), namesFailure_ite_some (by decide)⟩, namesFailure_need (by decide)⟩

theorem State.namesFailures_stepAdvanceChecks : NamesFailures (s.stepAdvanceChecks c) := by
  simp only [State.stepAdvanceChecks, State.stepChecks, namesFailures_append, namesFailures_cons, namesFailures_nil, namesFailure_zeroParams,
    and_true, true_and]
  exact ⟨⟨namesFailure_ite_some (by decide), namesFailure_need (by decide), namesFailure_map (by decide)⟩, namesFailure_map (by decide)⟩

/-! ### Step counters, R374 -/

theorem stepGroups_nodup {bs : List Byte} : (stepGroups bs).Nodup :=
  List.Nodup.map (fun _ _ h => Nat.add_left_cancel h) List.nodup_range

/-- Changing each key of a list without repetitions. -/
theorem tget_foldl_tmod_of_nodup {α : Type} [DecidableEq α] {z : α} {f : α → α} {l : List Nat} {r : Sparse α} (hl : l.Nodup) :
    tget z (l.foldl (fun r k => tmod z r k f) r) g = if g ∈ l then f (tget z r g) else tget z r g := by
  induction l generalizing r with
  | nil => rfl
  | cons k l ih =>
    obtain ⟨hk, hl⟩ := List.nodup_cons.1 hl
    rw [List.foldl_cons, ih hl]
    by_cases hg : g = k
    · subst hg
      rw [if_neg hk, if_pos List.mem_cons_self, tget_tmod_self]
    · rw [tget_tmod_ne hg]
      simp [hg]

/-- From s to t the command `c` has left `steps` in the step counters, and nothing else of the update engine or of memory has changed. -/
structure StepsEnded (s t : State) (c : Cmd) (steps : Sparse (BitVec 32)) : Prop where
  steps : t.upd.steps = steps
  ended : CommandEnded t c 0 0 s.mem
  only : OnlyCommands { s with upd := { s.upd with steps := t.upd.steps } } t

theorem stepsEnded_of_complete {steps : Sparse (BitVec 32)} (hbegins : s.begins 7 op = some (u, c)) :
    StepsEnded s (State.complete { u with upd := { u.upd with steps } } c stOk 0) c steps := by
  have hbegun := State.begun_of_begins hbegins
  obtain ⟨hupd, hended, honly⟩ := updEnded_of_complete (v := { u with upd := { u.upd with steps } }) (st := stOk) (d := 0) hbegins rfl
    hbegun.mem rfl rfl
  refine ⟨by rw [hupd], hended, ?_⟩
  rw [hupd, hbegun.upd] at honly ⊢
  exact honly

theorem stepAdvance_passes (hbegins : s.begins 7 7 = some (u, c)) (hop : leAt (u.params c) 0 1 = 0)
    (hpasses : firstFail (u.stepAdvanceChecks c) = none) :
    stepAdvance s = State.complete { u with upd := { u.upd with
      steps := (stepGroups (u.params c)).foldl (fun t g => tmod 0 t g (· + 1)) u.upd.steps } } c stOk 0 := by
  rw [stepAdvance, State.withHeadIf_of_begins hbegins (by decide) (by rw [hop]; rfl)]
  exact State.orFail_passes hpasses

theorem stepAdvance_fails (hbegins : s.begins 7 7 = some (u, c)) (hop : leAt (u.params c) 0 1 ≠ 1)
    (hfails : firstFail (u.stepAdvanceChecks c) = some (st, d)) : stepAdvance s = u.complete c st d := by
  rw [stepAdvance, State.withHeadIf_of_begins (pred := fun b => leAt b 0 1 != 1) hbegins (by decide) (bne_iff_ne.2 hop)]
  exact State.orFail_fails hfails

theorem stepSet_passes (hbegins : s.begins 7 7 = some (u, c)) (hop : leAt (u.params c) 0 1 = 1) (hpasses : firstFail (u.stepChecks c) = none) :
    stepSet s = State.complete { u with upd := { u.upd with
      steps := (stepGroups (u.params c)).foldl (fun t g => tset 0 t g (BitVec.ofNat 32 (leAt (u.params c) 8 4))) u.upd.steps } } c stOk 0 := by
  rw [stepSet, State.withHeadIf_of_begins hbegins (by decide) (by rw [hop]; rfl)]
  exact State.orFail_passes hpasses

/-! ### The statement -/

/-- Settles O49: an UPDATE by what its scan and its blocks meet, a STEP by the counters it leaves. -/
theorem updatesAndStepCounters : Obligations.UpdatesAndStepCounters := by
  unfold Obligations.UpdatesAndStepCounters
  refine ⟨?whole, ?stopped, ?skipped, ?scanStops, ?scanBad, ?fails, ?advance, ?advanceFails, ?set⟩
  case whole =>
    intro s u c p x hbegins hp hpasses hx htables hscan hbad
    have hends : update s = ((u.updRun p x none).storeAll (u.updEntry p x (u.updOuts p x (u.updLive p x)))).complete c stOk 0 := by
      rw [update_runs hbegins hp hpasses hx htables hscan, hbad]
    obtain ⟨hupd, hended, honly⟩ := updEnded_of_stores (v := u.updRun p x none) (st := stOk) (d := 0)
      (ws := u.updEntry p x (u.updOuts p x (u.updLive p x))) hbegins State.updRun_frame.1 State.updRun_frame.2
    rw [← hends] at hupd hended honly
    have hcounts := State.updRun_counts (s := u) (p := p) (x := x) (stop := none)
    rw [(State.begun_of_begins hbegins).upd, State.updDone_none] at hcounts
    have hmem := hended.memory
    rw [State.storeAll_mem_congr State.updRun_mem, State.updWrites, State.updDone_none] at hmem
    exact ⟨update s, rfl, hended.status, hmem, by rw [hupd, hcounts.1], by rw [hupd, hcounts.2], honly⟩
  case stopped =>
    intro s u c p x b hbegins hp hpasses hx htables hscan hbad
    have hends : update s = ((u.updRun p x (some b)).updEvt 4).complete c stEccUncorr b := by
      rw [update_runs hbegins hp hpasses hx htables hscan, hbad]
    obtain ⟨-, hended, honly⟩ : UpdEnded s (update s) c stEccUncorr b (u.updRun p x (some b)).upd (u.storeAll (u.updWrites p x (some b))).mem :=
      hends ▸ updEnded_of_run hbegins
    obtain ⟨hstatus, hdetail⟩ := hended.failure (by decide)
    refine ⟨update s, rfl, hstatus, hdetail, hended.memory, ?_, honly⟩
    rw [hends, State.updEvt_complete (State.engine_of_begins hbegins)]
    simp
  case skipped =>
    intro s u c p x hbegins hp hpasses hx htables hnonfin hscanned hfound
    have hbegun := State.begun_of_begins hbegins
    have hends := update_scanned hbegins hp hpasses hx htables
    rw [hnonfin, if_pos rfl, hscanned, Bool.true_and, bne_iff_ne.2 hfound] at hends
    obtain ⟨hupd, hended, honly⟩ : UpdEnded s (update s) c 0 0 { s.upd with cntNonfin := s.upd.cntNonfin + u.updScan x }
        (u.storeAll (u.updSkipEntry p x)).mem := by
      rw [hends]
      refine updEnded_of_complete hbegins ?_ rfl (congrArg (fun t : State => { t with upd := {} }) State.storeAll_outsideCommands) State.storeAll_str
      rw [State.updEvt, State.modEng_upd, ← hbegun.upd, State.storeAll_upd]
    have hevt := State.updEvt_complete (s := { u.storeAll (u.updSkipEntry p x) with upd := { (u.storeAll (u.updSkipEntry p x)).upd with
        cntNonfin := (u.storeAll (u.updSkipEntry p x)).upd.cntNonfin + u.updScan x } }) (b := 3) (st := stOk) (d := 0)
        (State.engine_of_begins hbegins)
    refine ⟨update s, rfl, hended.status, hended.memory, hupd, ?_, ?_, honly⟩
    · rw [hends, hevt]
      simp
    · rw [hends, hevt]
      simp
  case scanStops =>
    intro s u c p x b hbegins hp hpasses hx htables hnonfin hscanned hfound
    have hbegun := State.begun_of_begins hbegins
    have hends := update_scanned hbegins hp hpasses hx htables
    rw [hnonfin, if_pos rfl, hscanned, Bool.true_and, bne_iff_ne.2 hfound] at hends
    obtain ⟨hupd, hended, honly⟩ : UpdEnded s (update s) c stEccUncorr (max b p.first) s.upd s.mem := by
      rw [hends]
      exact updEnded_of_complete hbegins hbegun.upd hbegun.mem rfl rfl
    obtain ⟨hstatus, hdetail⟩ := hended.failure (by decide)
    rw [hupd] at honly
    refine ⟨update s, rfl, hstatus, hdetail, hended.memory, ?_, hupd, honly⟩
    rw [hends, State.updEvt_complete (State.engine_of_begins hbegins)]
    simp
  case scanBad =>
    intro s u c p x b hbegins hp hpasses hx htables hnonfin hscanned hfound
    have hends := update_scanned hbegins hp hpasses hx htables
    rw [hnonfin, if_pos rfl, hscanned, Bool.true_and, hfound] at hends
    obtain ⟨-, hended, honly⟩ : UpdEnded s (update s) c stEccUncorr (u.updStop p x b) (u.updRun p x (some (u.updStop p x b))).upd
        (u.storeAll (u.updWrites p x (some (u.updStop p x b)))).mem := hends ▸ updEnded_of_run hbegins
    obtain ⟨hstatus, hdetail⟩ := hended.failure (by decide)
    refine ⟨update s, rfl, hstatus, hdetail, hended.memory, ?_, honly⟩
    rw [hends]
    exact (congrArg (fun w : BitVec 16 => w.getLsbD 2) (State.updEvt_complete (State.engine_of_begins hbegins))).trans (by simp)
  case fails =>
    intro s u c st d hbegins hfails
    obtain ⟨hended, honly⟩ := endsOnly_of_failure hbegins (by decide) (update_fails hbegins rfl hfails)
    obtain ⟨hstatus, hdetail⟩ := hended.failure (State.namesFailures_updChecks.status_ne hfails)
    exact ⟨update s, rfl, hstatus, hdetail, hended.memory, honly⟩
  case advance =>
    intro s u c hbegins hop hpasses
    obtain ⟨hsteps, hended, honly⟩ := stepsEnded_of_complete (steps := (stepGroups (u.params c)).foldl (fun t g => tmod 0 t g (· + 1))
      u.upd.steps) hbegins
    rw [← stepAdvance_passes hbegins hop hpasses] at hsteps hended honly
    rw [(State.begun_of_begins hbegins).upd] at hsteps
    refine ⟨stepAdvance s, rfl, hended.status, fun g hg => ?_, fun g hg => ?_, hended.memory, honly⟩
    · rw [hsteps, tget_foldl_tmod_of_nodup stepGroups_nodup, if_pos hg]
    · rw [hsteps, tget_foldl_tmod_of_nodup stepGroups_nodup, if_neg hg]
  case advanceFails =>
    intro s u c st d hbegins hop hfails
    obtain ⟨hended, honly⟩ := endsOnly_of_failure hbegins (by decide) (stepAdvance_fails hbegins hop hfails)
    obtain ⟨hstatus, hdetail⟩ := hended.failure (State.namesFailures_stepAdvanceChecks.status_ne hfails)
    exact ⟨stepAdvance s, rfl, hstatus, hdetail, hended.memory, honly⟩
  case set =>
    intro s u c hbegins hop hpasses
    obtain ⟨hsteps, hended, honly⟩ := stepsEnded_of_complete (steps := (stepGroups (u.params c)).foldl
      (fun t g => tset 0 t g (BitVec.ofNat 32 (leAt (u.params c) 8 4))) u.upd.steps) hbegins
    rw [← stepSet_passes hbegins hop hpasses] at hsteps hended honly
    rw [(State.begun_of_begins hbegins).upd] at hsteps
    refine ⟨stepSet s, rfl, hended.status, fun g hg => ?_, fun g hg => ?_, hended.memory, honly⟩
    · rw [hsteps, tget_foldl_const, if_pos hg]
    · rw [hsteps, tget_foldl_const, if_neg hg]

end Sys2Proof.Machine

/-!
PROOF. The Prefix engine's layer: the fields of a request's record, the words a command writes into slot 7, and the checks its commands
share.
-/

namespace Sys2Proof.Machine

variable {s t u v : State} {c : Cmd} {e op st d j r i n x off a : Nat} {m m' : Memory} {b : Byte} {bs : List Byte} {ws : List Nat}

/-! ### Numbers in memory -/

/-- A number is that of the bytes it stands in. -/
theorem Memory.nat_congr (h : ∀ i < n, m.byte (a + i) = m'.byte (a + i)) : m.nat a n = m'.nat a n :=
  congrArg leNat (List.map_congr_left fun i hi => h i (List.mem_range.1 hi))

theorem Memory.nat_one : m.nat a 1 = (m.byte a).toNat := by
  simp [Memory.nat, Memory.bytes, leNat]

theorem Memory.bytes_write : (m.write a bs).bytes a bs.length = bs := by
  refine List.ext_getElem (by simp [Memory.bytes]) fun i hlt hi => ?_
  simp only [Memory.bytes, List.getElem_map, List.getElem_range]
  rw [Memory.byte_write_inside hi]

theorem leNat_leBytes (hx : x < 256 ^ n) : leNat (leBytes n x) = x := by
  induction n generalizing x with
  | zero => exact (Nat.lt_one_iff.1 hx).symm
  | succ n ih =>
    rw [leBytes, leNat, ih (Nat.div_lt_of_lt_mul (by rwa [← pow_succ'])), BitVec.toNat_ofNat]
    omega

/-- A number that has been written is read again. -/
theorem Memory.nat_write (hx : x < 256 ^ n) : (m.write a (leBytes n x)).nat a n = x := by
  have hbytes : (m.write a (leBytes n x)).bytes a n = leBytes n x := by
    simpa [leBytes_length] using Memory.bytes_write (m := m) (a := a) (bs := leBytes n x)
  rw [Memory.nat, hbytes, leNat_leBytes hx]

/-! ### Records of requests, R391 -/

theorem State.reqAddr_congr (h : t.bld = s.bld) : t.reqAddr j r = s.reqAddr j r := by
  simp only [State.reqAddr, State.st, h]

/-- A field is that of the bytes it stands in. -/
theorem State.reqGet_congr (hbld : t.bld = s.bld) (hmem : ∀ i < n, t.mem.byte (s.reqAddr j r + off + i) = s.mem.byte (s.reqAddr j r + off + i)) :
    t.reqGet j r off n = s.reqGet j r off n := by
  rw [State.reqGet, State.reqAddr_congr hbld]
  exact Memory.nat_congr hmem

theorem State.reqGet_one : s.reqGet j r off 1 = (s.mem.byte (s.reqAddr j r + off)).toNat := Memory.nat_one

/-- A field of one byte, read where a state's memory holds it. -/
theorem State.reqGet_of_byte (hbld : t.bld = s.bld) (hbyte : t.mem.byte (s.reqAddr j r + off) = b) : t.reqGet j r off 1 = b.toNat := by
  rw [State.reqGet_one, State.reqAddr_congr hbld, hbyte]

@[simp] theorem State.reqSet_bld : (s.reqSet j r off n x).bld = s.bld := rfl

@[simp] theorem State.reqSet_pfx : (s.reqSet j r off n x).pfx = s.pfx := rfl

@[simp] theorem State.reqSet_str : (s.reqSet j r off n x).str = s.str := rfl

theorem State.reqSet_outsideCommands : (s.reqSet j r off n x).outsideCommands = s.outsideCommands := rfl

theorem State.reqSet_byte_ne (h : a ≠ s.reqAddr j r + off) : (s.reqSet j r off 1 x).mem.byte a = s.mem.byte a :=
  State.store_byte_outside (by simp only [leBytes_length]; omega)

theorem State.reqSet_byte : (s.reqSet j r off 1 x).mem.byte (s.reqAddr j r + off) = BitVec.ofNat 8 x :=
  State.store_byte_inside (s := s) (a := s.reqAddr j r + off) (i := 0) (bs := leBytes 1 x) Nat.one_pos

/-! ### The words of slot 7 -/

theorem State.pfxOut_mem_congr (h : t.mem = s.mem) : (t.pfxOut c ws).mem = (s.pfxOut c ws).mem := by
  have hslot : t.slotTensor c 7 = s.slotTensor c 7 := by rw [State.slotTensor, State.slotTensor, State.slotDesc, State.slotDesc, h]
  rw [State.pfxOut, State.pfxOut, hslot]
  exact State.storeAll_mem_congr h

@[simp] theorem State.pfxOut_pfx : (s.pfxOut c ws).pfx = s.pfx := State.storeAll_pfx

@[simp] theorem State.pfxOut_eng : (s.pfxOut c ws).eng = s.eng := State.storeAll_eng

@[simp] theorem State.pfxOut_str : (s.pfxOut c ws).str = s.str := State.storeAll_str

theorem State.pfxOut_outsideCommands : (s.pfxOut c ws).outsideCommands = s.outsideCommands := State.storeAll_outsideCommands

/-! ### The end of a command of the Prefix engine -/

theorem CommandBegun.pfx (hbegun : CommandBegun s u c) : u.pfx = s.pfx :=
  show u.outsideCommands.pfx = s.outsideCommands.pfx from congrArg State.pfx hbegun.outside

theorem CommandBegun.bld (hbegun : CommandBegun s u c) : u.bld = s.bld :=
  show u.outsideCommands.bld = s.outsideCommands.bld from congrArg State.bld hbegun.outside

theorem CommandBegun.now (hbegun : CommandBegun s u c) : u.now = s.now :=
  show u.outsideCommands.now = s.outsideCommands.now from congrArg State.now hbegun.outside

/-- The command `c` has ended with status `st` and DETAIL `d`; the Prefix engine holds `p`, and outside the record memory is `m`. -/
structure PfxEnded (t : State) (c : Cmd) (p : Prefix) (m : Memory) : Prop where
  status : (t.engRegs c.engine).lastStatus = 0
  pfx : t.pfx = p
  memory : ∀ a, c.spares a → t.mem.byte a = m.byte a

theorem pfxEnded_of_complete {p : Prefix} (ht : t = v.complete c stOk 0) (hpfx : v.pfx = p) (hmem : v.mem = m) : PfxEnded t c p m := by
  obtain ⟨hstatus, -, hmemory⟩ := State.complete_ended (c := c) (st := stOk) (d := 0) (signals := true) (sub := 0) (counts := true) hmem
  exact ht ▸ ⟨hstatus, State.complete_pfx.trans hpfx, hmemory⟩

/-- A command whose words go to slot 7, at its commit. -/
theorem pfxEnded_of_pfxOut {p : Prefix} (ht : t = (v.pfxOut c ws).complete c stOk 0) (hpfx : v.pfx = p) (hmem : v.mem = u.mem) :
    PfxEnded t c p (u.pfxOut c ws).mem :=
  pfxEnded_of_complete ht (State.pfxOut_pfx.trans hpfx) (State.pfxOut_mem_congr hmem)

/-- From s to t the command `c` has ended with status `st`, and only what commands touch has changed. -/
structure PfxFailed (s t : State) (c : Cmd) (st : Nat) : Prop where
  pfx : t.pfx = s.pfx
  status : (t.engRegs c.engine).lastStatus = st
  only : OnlyCommands s t

theorem pfxFailed_of_complete (hbegins : s.begins 9 op = some (u, c)) (ht : t = u.complete c st d) : PfxFailed s t c st := by
  obtain ⟨hended, honly⟩ := endsOnly_of_failure hbegins (by decide) ht
  exact ⟨ht ▸ State.complete_pfx.trans (State.begun_of_begins hbegins).pfx, hended.status, honly⟩

/-! ### The checks its commands share -/

theorem State.namesFailure_keyCheck : NamesFailure (s.keyCheck j) := namesFailure_need (by decide)

theorem State.namesFailure_overlapCheck : NamesFailure (s.overlapCheck c n) := namesFailure_need (by decide)

theorem State.namesFailure_reqReadable : NamesFailure (s.reqReadable j r) := namesFailure_need (by decide)

theorem State.namesFailures_reqChecks : NamesFailures (s.reqChecks c r) :=
  namesFailures_cons.2 ⟨namesFailure_need (by decide), namesFailures_cons.2 ⟨State.namesFailure_reqReadable, namesFailures_nil⟩⟩

theorem State.namesFailure_badEntry {hs : List Nat} : NamesFailure (s.badEntry n d hs) := by
  induction hs generalizing d with
  | nil => rintro _ ⟨⟩
  | cons h hs ih =>
    rintro z hsome
    rw [State.badEntry] at hsome
    split at hsome
    · cases hsome
      exact (by decide : stEccUncorr ≠ 0)
    · exact ih z hsome

end Sys2Proof.Machine

/-!
PROOF. HASH, LOOKUP, INSERT, the tenant keys and the step contexts (O43): each command's end over the words it writes, and one row settled.
-/

namespace Sys2Proof.Machine

variable {s t u v : State} {c : Cmd} {st d k w : Nat}

/-! ### The checks name failures -/

theorem State.namesFailures_prefixInsertChecks : NamesFailures (s.prefixInsertChecks c) := by
  simp only [State.prefixInsertChecks, namesFailures_append, namesFailures_cons, namesFailures_nil, namesFailure_zeroParams,
    State.namesFailures_checkSlot, State.namesFailures_eccSlots, State.namesFailures_reqChecks, State.namesFailure_keyCheck,
    State.namesFailure_overlapCheck, State.namesFailure_badEntry, and_true, true_and]
  exact namesFailure_need (by decide)

theorem State.namesFailures_stepCheck {j budget : Nat} {ws : List Nat} : NamesFailures (s.stepCheck j budget ws) := by
  have hbad {o : Option Nat} : NamesFailure (o.map fun i => (stStructure, i)) := namesFailure_map (f := fun i => i) (by decide)
  simp only [State.stepCheck, namesFailures_cons, namesFailures_nil, hbad, and_self]

theorem State.namesFailures_stepBeginChecks : NamesFailures (s.stepBeginChecks c) := by
  have hrows {ws : List Nat} : NamesFailures (ws.map fun w => s.reqReadable c.job (rowSlot w)) :=
    List.forall_mem_map.2 fun _ _ => State.namesFailure_reqReadable
  simp only [State.stepBeginChecks, namesFailures_append, namesFailures_cons, namesFailures_nil, namesFailure_zeroParams,
    State.namesFailures_checkSlot, State.namesFailures_eccSlots, State.namesFailures_stepCheck, hrows, and_true, true_and]
  exact ⟨namesFailures_need (f := fun i => i) (by decide), namesFailure_need (by decide)⟩

theorem State.namesFailures_stepCommitChecks : NamesFailures (s.stepCommitChecks c) := by
  have hrows {ws : List Nat} : NamesFailures (ws.map fun w => s.reqReadable c.job (rowSlot w)) :=
    List.forall_mem_map.2 fun _ _ => State.namesFailure_reqReadable
  simp only [State.stepCommitChecks, namesFailures_append, namesFailures_cons, namesFailures_nil, namesFailure_zeroParams,
    State.namesFailures_checkSlot, State.namesFailures_eccSlots, State.namesFailure_overlapCheck, hrows, and_true, true_and]
  exact ⟨namesFailure_ite_some (by decide), namesFailure_need (by decide)⟩

/-! ### The rows of the commands -/

theorem prefixHash_passes (hbegins : s.begins 9 1 = some (u, c)) (hpasses : firstFail (u.prefixHashChecks c) = none) :
    prefixHash s = (u.pfxOut c ((blockKeys (tget [] u.pfx.keys (u.pfxTenant c.job)) (slice (u.params c) 0 16)
      ((chunksOf 256 ((u.slotTensor c 0).size / 64 + 1) ((u.slotTensor c 0).read u.mem)).take ((u.slotTensor c 0).size / 64))).flatMap
        fun h => words32 4 (leNat h))).complete c stOk 0 := by
  rw [prefixHash, State.withHead_of_begins hbegins (by decide)]
  exact State.orFail_passes hpasses

/-- A LOOKUP that does not hit every hash is counted. -/
def State.countMiss (s : State) (missed : Bool) : State :=
  if missed then { s with pfx := { s.pfx with cntMiss := s.pfx.cntMiss + 1 } } else s

theorem State.countMiss_mem {missed : Bool} : (s.countMiss missed).mem = s.mem := by cases missed <;> rfl

theorem State.countMiss_pfx {missed : Bool} :
    (s.countMiss missed).pfx = { s.pfx with cntMiss := s.pfx.cntMiss + if missed then 1 else 0 } := by cases missed <;> rfl

theorem prefixLookup_passes {hs hit : List Nat} (hbegins : s.begins 9 2 = some (u, c)) (hpasses : firstFail (u.prefixLookupChecks c) = none)
    (hhs : hashesOf ((u.slotTensor c 1).read u.mem) = hs) (hhit : u.chain (u.pfxTenant c.job) 0 hs = hit) :
    prefixLookup s = ((u.countMiss (decide (hit.length < hs.length))).pfxOut c
      (hit.length :: hit.flatMap fun i => words32 2 (u.pfxAt i).handle.toNat)).complete c stOk 0 := by
  rw [prefixLookup, State.withHead_of_begins hbegins (by decide)]
  simp only [State.orFail_passes hpasses, hhs, hhit, State.countMiss, decide_eq_true_eq]

theorem prefixInsert_passes {slot : Nat} (hbegins : s.begins 9 3 = some (u, c)) (hpasses : firstFail (u.prefixInsertChecks c) = none)
    (hslot : leAt (u.params c) 0 2 = slot)
    (hinsert : u.insertBlocks c.job slot (u.reqGet c.job slot 24 2) 0
      ((hashesOf ((u.slotTensor c 1).read u.mem)).take (leAt (u.params c) 4 4)) = (v, k)) :
    prefixInsert s = ((v.reqSet c.job slot 24 2 (u.reqGet c.job slot 24 2 + k)).pfxOut c [k]).complete c stOk 0 := by
  rw [prefixInsert, State.withHead_of_begins hbegins (by decide)]
  simp only [State.orFail_passes hpasses, hslot, hinsert]

theorem prefixInsert_fails (hbegins : s.begins 9 3 = some (u, c)) (hfails : firstFail (u.prefixInsertChecks c) = some (st, d)) :
    prefixInsert s = u.complete c st d := by
  rw [prefixInsert, State.withHead_of_begins hbegins (by decide)]
  exact State.orFail_fails hfails

/-! ### Tenant keys, R393 -/

/-- The Prefix engine with tenant key k loaded from its words. -/
def Prefix.withKey (p : Prefix) (k : Nat) : Prefix :=
  { p with keyValid := tset false p.keyValid k true
           keys := tset [] p.keys k ((List.range 4).flatMap fun i => leBytes 8 (tget 0 p.keyWords (4 * k + i)).toNat) }

section
variable {p : Prefix} {i : Nat}

theorem Prefix.withKey_valid : tget false (p.withKey k).keyValid k = true := by
  rw [Prefix.withKey, tget_tset_self]

theorem Prefix.withKey_key : tget [] (p.withKey k).keys k = (List.range 4).flatMap fun i => leBytes 8 (tget 0 p.keyWords (4 * k + i)).toNat := by
  rw [Prefix.withKey, tget_tset_self]

theorem Prefix.withKey_key_ne (h : i ≠ k) : tget [] (p.withKey k).keys i = tget [] p.keys i := by
  rw [Prefix.withKey, tget_tset_ne h]

end

theorem State.pfxEvt_bit {b : Nat} (hb : b < 16) : ((s.pfxEvt b).engRegs 9).evt.getLsbD b = true := by
  rw [State.pfxEvt, State.engRegs_modEng, BitVec.getLsbD_or, BitVec.getLsbD_ofNat]
  simp [hb, Nat.testBit_two_pow_self]

/-- A load with no entry of its tenant in the table changes the key, and raises its event. -/
theorem State.keyLoad_of_noEntries (hnone : ∀ e ∈ s.pfx.table, ¬(e.2.valid = true ∧ e.2.tenant = k)) :
    s.keyLoad k = State.pfxEvt { s with pfx := s.pfx.withKey k } 4 := by
  have hother (e : Nat × PfxEntry) (he : e ∈ s.pfx.table) : (e.2.valid && e.2.tenant == k) = false := by
    simpa using hnone e he
  have hmine : s.pfx.table.filter (fun e => e.2.valid && e.2.tenant == k) = [] :=
    List.filter_eq_nil_iff.2 fun e he => by simp [hother e he]
  have hkept : s.pfx.table.filterMap (fun e => if e.2.valid && e.2.tenant == k then
      (if e.2.refs = 0 then none else some (e.1, { e.2 with orphan := true })) else some e) = s.pfx.table := by
    rw [List.filterMap_congr (g := some) fun e he => by rw [hother e he]; rfl, List.filterMap_some]
  simp only [State.keyLoad, hmine, hkept, List.filter_nil, List.foldl_nil, Prefix.withKey]

/-! ### Steps, R401, R402 -/

theorem stepBegin_fails (hbegins : s.begins 9 6 = some (u, c)) (hfails : firstFail (u.stepBeginChecks c) = some (st, d)) :
    stepBegin s = u.complete c st d := by
  rw [stepBegin, State.withHead_of_begins hbegins (by decide)]
  exact State.orFail_fails hfails

theorem stepBegin_row (hbegins : s.begins 9 6 = some (u, c)) (hpasses : firstFail (u.stepBeginChecks c) = none)
    (hrow : (u.slotTensor c 0).words u.mem = [w]) (hvoid : u.rowVoid c.job w = false) :
    stepBegin s = State.complete { u.reqSet c.job (rowSlot w) 18 1 reqInStep with pfx := { u.pfx with
      steps := tset {} u.pfx.steps (leAt (u.params c) 0 1) { busy := true, job := c.job, rows := [BitVec.ofNat 32 w], void := [false] } } }
      c stOk 0 := by
  rw [stepBegin, State.withHead_of_begins hbegins (by decide)]
  simp only [State.orFail_passes hpasses, hrow, List.map_cons, List.map_nil, hvoid, Bool.not_false, List.filter_cons_of_pos, List.filter_nil,
    List.foldl_cons, List.foldl_nil, State.reqSet_pfx]

/-- A decode row of a request that has not passed its deadline gets its token, unless the step is aborted. -/
theorem State.settleRow_token {j token : Nat} (hprefill : rowPrefill w = 0) (hdeadline : s.now ≤ s.reqDeadline j (rowSlot w)) :
    s.settleRow j false false w token = (((s.reqSet j (rowSlot w) 18 1 reqAdmitted).reqSet j (rowSlot w) 28 4
      (s.reqGet j (rowSlot w) 28 4 + 1)).reqSet j (rowSlot w) 19 1 (s.reqGet j (rowSlot w) 19 1 ||| 2), [token, 0x100]) := by
  simp [State.settleRow, hprefill, Nat.not_lt.2 hdeadline]

theorem stepCommit_fails (hbegins : s.begins 9 7 = some (u, c)) (hfails : firstFail (u.stepCommitChecks c) = some (st, d)) :
    stepCommit s = u.complete c st d := by
  rw [stepCommit, State.withHead_of_begins hbegins (by decide)]
  exact State.orFail_fails hfails

theorem stepCommit_row {w : BitVec 32} {out : List Nat} (hbegins : s.begins 9 7 = some (u, c))
    (hpasses : firstFail (u.stepCommitChecks c) = none) (hrows : (u.stepCtx (leAt (u.params c) 0 1)).rows = [w])
    (hvoid : (u.stepCtx (leAt (u.params c) 0 1)).void = [false]) (habort : bitOf (leAt (u.params c) 1 1) 0 = false)
    (hsettled : u.settleRow c.job false false w.toNat (((u.slotTensor c 0).words u.mem).getD 0 0) = (v, out)) :
    PfxEnded (stepCommit s) c { v.pfx with steps := tset {} v.pfx.steps (leAt (u.params c) 0 1) {} } (v.pfxOut c out).mem := by
  have hends : stepCommit s = (State.pfxOut { v with pfx := { v.pfx with steps := tset {} v.pfx.steps (leAt (u.params c) 0 1) {} } } c
      out).complete c stOk 0 := by
    have hone : List.range 1 = [0] := rfl
    rw [stepCommit, State.withHead_of_begins hbegins (by decide)]
    simp only [State.orFail_passes hpasses, hrows, hvoid, habort, List.map_cons, List.map_nil, List.length_cons, List.length_nil, zero_add,
      hone, List.foldl_cons, List.foldl_nil, List.getD_cons_zero, List.nil_append, hsettled]
  exact pfxEnded_of_pfxOut hends rfl rfl

/-! ### The statement -/

/-- Settles O43, command by command: the words of slot 7, the entries, the key, and one row of a step. -/
theorem prefixTableAndSteps : Obligations.PrefixTableAndSteps := by
  unfold Obligations.PrefixTableAndSteps
  refine ⟨?hash, ?lookup, ?insert, ?insertFails, ?loadWaits, ?loads, ?begins, ?beginFails, ?commits, ?commitFails⟩
  case hash =>
    intro s u c hbegins hpasses
    obtain ⟨hstatus, hpfx, hmem⟩ := pfxEnded_of_pfxOut (prefixHash_passes hbegins hpasses) (State.begun_of_begins hbegins).pfx rfl
    exact ⟨prefixHash s, rfl, hstatus, hpfx, hmem⟩
  case lookup =>
    intro s u c hs hit hbegins hpasses hhs hhit
    obtain ⟨hstatus, hpfx, hmem⟩ := pfxEnded_of_pfxOut (prefixLookup_passes hbegins hpasses hhs hhit) State.countMiss_pfx State.countMiss_mem
    rw [(State.begun_of_begins hbegins).pfx] at hpfx
    have hmiss : (prefixLookup s).pfx.cntMiss = s.pfx.cntMiss + if decide (hit.length < hs.length) then 1 else 0 := by rw [hpfx]
    exact ⟨prefixLookup s, rfl, hstatus, by rw [hpfx], by simpa using hmiss, hmem⟩
  case insert =>
    intro s u v c slot k hbegins hpasses hslot hinsert
    obtain ⟨hstatus, hpfx, hmem⟩ := pfxEnded_of_pfxOut (prefixInsert_passes hbegins hpasses hslot hinsert) rfl rfl
    exact ⟨prefixInsert s, rfl, hstatus, congrArg Prefix.table hpfx, hmem⟩
  case insertFails =>
    intro s u c st d hbegins hfails
    obtain ⟨hpfx, hstatus, honly⟩ := pfxFailed_of_complete hbegins (prefixInsert_fails hbegins hfails)
    exact ⟨prefixInsert s, rfl, hpfx, hstatus, honly⟩
  case loadWaits =>
    intro s k hk hruns
    have hwaits : tenantKeyLoad k s = { s with pfx := { s.pfx with loads := s.pfx.loads ++ [k] } } := if_pos hruns
    exact ⟨_, (if_pos hk).trans (congrArg Host.Outcome.next hwaits), rfl⟩
  case loads =>
    intro s k hk hidle hloads hnone
    have hloaded : tenantKeyLoad k s = State.pfxEvt { s with pfx := { s.pfx with loads := [] }.withKey k } 4 := by
      rw [tenantKeyLoad, State.settleLoads, if_neg (by rw [hidle]; decide), hloads]
      exact State.keyLoad_of_noEntries hnone
    exact ⟨_, (if_pos hk).trans (congrArg Host.Outcome.next hloaded), Prefix.withKey_valid, rfl, Prefix.withKey_key,
      fun i hi => Prefix.withKey_key_ne hi, State.pfxEvt_bit (by decide), rfl⟩
  case begins =>
    intro s u c w hbegins hpasses hrow hvoid
    have hbegun := State.begun_of_begins hbegins
    have hends := stepBegin_row hbegins hpasses hrow hvoid
    obtain ⟨hstatus, hpfx, hmem⟩ := pfxEnded_of_complete hends rfl rfl
    have hctx (i : Nat) : (stepBegin s).stepCtx i = tget {} (tset {} u.pfx.steps (leAt (u.params c) 0 1)
        { busy := true, job := c.job, rows := [BitVec.ofNat 32 w], void := [false] }) i := by rw [State.stepCtx, hpfx]
    have hbld : (stepBegin s).bld = u.bld := by rw [hends, State.complete_bld, State.reqSet_bld]
    refine ⟨stepBegin s, rfl, hstatus, ?_, fun i hi => ?_, fun ha => ?_, fun a ha hother => ?_⟩
    · rw [hctx, tget_tset_self]
    · rw [hctx, tget_tset_ne hi, hbegun.pfx, State.stepCtx]
    · exact State.reqGet_of_byte hbld ((hmem _ ha).trans State.reqSet_byte)
    · rw [hmem a ha, State.reqSet_byte_ne hother, hbegun.mem]
  case beginFails =>
    intro s u c st d hbegins hfails
    obtain ⟨hpfx, hstatus, honly⟩ := pfxFailed_of_complete hbegins (stepBegin_fails hbegins hfails)
    exact ⟨stepBegin s, rfl, hpfx, hstatus, honly⟩
  case commits =>
    intro s u c w hbegins hpasses hrows hvoid habort hprefill hdeadline
    obtain ⟨hstatus, hpfx, hmem⟩ := stepCommit_row hbegins hpasses hrows hvoid habort (State.settleRow_token hprefill hdeadline)
    refine ⟨stepCommit s, rfl, hstatus, ?_, hmem⟩
    rw [State.stepCtx, hpfx, tget_tset_self]
  case commitFails =>
    intro s u c st d hbegins hfails
    obtain ⟨hpfx, hstatus, honly⟩ := pfxFailed_of_complete hbegins (stepCommit_fails hbegins hfails)
    exact ⟨stepCommit s, rfl, hpfx, hstatus, honly⟩

end Sys2Proof.Machine

/-!
PROOF. The request table (O44): ADMIT of one row, GROW's wait, RETIRE and PIN over the bytes of a record, and the deadline of a request.
-/

namespace Sys2Proof.Machine

variable {s t u v : State} {c : Cmd} {st d j n r slot off : Nat} {row : List Byte} {x : AdmitResult}

theorem State.namesFailures_retireChecks : NamesFailures (s.retireChecks c) := by
  simp only [State.retireChecks, namesFailures_append, namesFailures_cons, namesFailures_nil, namesFailure_zeroParams,
    State.namesFailures_reqChecks, and_true, true_and]
  exact namesFailure_need (by decide)

/-! ### ADMIT, R400 -/

/-- Counts one row that an ADMIT has decided. -/
def Prefix.countRow (p : Prefix) (x : AdmitResult) : Prefix :=
  { p with cntHit := p.cntHit + x.hits.length, cntMiss := p.cntMiss + (if x.missed then 1 else 0)
           cntRefused := p.cntRefused + (if x.reason = 0 then 0 else 1) }

theorem admitRequest_admits (hbegins : s.begins 9 4 = some (u, c)) (hpasses : firstFail (u.admitChecks c) = none)
    (hrow : chunksOf 64 257 ((u.slotTensor c 0).read u.mem) = [row])
    (hx : u.admitOne c (hashesOf ((u.slotTensor c 1).read u.mem)) (leAt (u.params c) 0 8) (leAt (u.params c) 8 4) [] (admitRow row) = x)
    (hreason : x.reason = 0) :
    admitRequest s = (State.pfxOut { u.admitRecord c.job x with pfx := (u.admitRecord c.job x).pfx.countRow x } c
      [0, x.hits.length]).complete c stOk 0 := by
  rw [admitRequest, State.withHead_of_begins hbegins (by decide)]
  simp only [State.orFail_passes hpasses, hrow, List.map_cons, List.map_nil, List.foldl_cons, List.foldl_nil, List.nil_append, hx, hreason,
    Prefix.countRow]
  cases hmissed : x.missed <;> simp [hreason, hmissed]

theorem admitRequest_refuses (hbegins : s.begins 9 4 = some (u, c)) (hpasses : firstFail (u.admitChecks c) = none)
    (hrow : chunksOf 64 257 ((u.slotTensor c 0).read u.mem) = [row])
    (hx : u.admitOne c (hashesOf ((u.slotTensor c 1).read u.mem)) (leAt (u.params c) 0 8) (leAt (u.params c) 8 4) [] (admitRow row) = x)
    (hreason : x.reason ≠ 0) :
    admitRequest s = ((State.pfxEvt { u with pfx := u.pfx.countRow x } 1).pfxOut c [stAdmissionRefused + 256 * x.reason, 0]).complete c
      stOk 0 := by
  rw [admitRequest, State.withHead_of_begins hbegins (by decide)]
  simp only [State.orFail_passes hpasses, hrow, List.map_cons, List.map_nil, List.foldl_cons, List.foldl_nil, List.nil_append, hx,
    Prefix.countRow]
  cases hmissed : x.missed <;> simp [hreason, hmissed]

/-- An admission changes entries of the table and no counter. -/
theorem State.admitRecord_counters :
    (s.admitRecord j x).pfx.cntHit = s.pfx.cntHit ∧ (s.admitRecord j x).pfx.cntRefused = s.pfx.cntRefused := by
  unfold State.admitRecord
  constructor
  · refine (foldl_keeps_view (view := fun t : State => t.pfx.cntHit) ?_ x.hits _).trans ?_
    · exact fun _ _ => rfl
    · exact congrArg Prefix.cntHit State.storeAll_pfx
  · refine (foldl_keeps_view (view := fun t : State => t.pfx.cntRefused) ?_ x.hits _).trans ?_
    · exact fun _ _ => rfl
    · exact congrArg Prefix.cntRefused State.storeAll_pfx

theorem State.complete_evt9 (hengine : c.engine = 9) : ((s.complete c 0 d).engRegs 9).evt = (s.engRegs 9).evt := by
  have hregs := State.complete_engRegs (s := s) (c := c) (status := 0) (detail := d) (signals := true) (sub := 0) (counts := true)
  rw [hengine, if_pos rfl] at hregs
  rw [hregs]

/-! ### GROW, R399 -/

theorem insertBy_length {α : Type} {le : α → α → Bool} {y : α} {l : List α} : (insertBy le y l).length = l.length + 1 := by
  induction l with
  | nil => rfl
  | cons z l ih =>
    rw [insertBy]
    split_ifs
    · rw [List.length_cons, ih, List.length_cons]
    · rfl

theorem State.waitPool_waiters {p : Nat} {w : Waiter} : ((s.waitPool p w).poolState p).waiters.length = (s.poolState p).waiters.length + 1 := by
  rw [State.waitPool, State.modPool, State.poolState, tget_tmod_self, insertBy_length]
  rfl

theorem grow_passes (hbegins : s.begins 9 5 = some (u, c)) (hpasses : firstFail (u.growChecks c) = none) :
    grow s = (u.addLive c true).waitPool (u.pfxPool c.job) { requester := engCode 9, at' := u.now, count := leAt (u.params c) 4 4,
                                                             deadline := u.reqDeadline c.job (leAt (u.params c) 0 2), cmd := some c } := by
  rw [grow, State.withHead_of_begins hbegins (by decide)]
  exact State.orFail_passes hpasses

/-! ### RETIRE, R404 -/

/-- R404: what every retirement writes into the record. -/
def State.retireWrites (s : State) (j slot status : Nat) : List (Nat × List Byte) :=
  [(s.reqAddr j slot + 18, leBytes 1 reqRetired), (s.reqAddr j slot + 20, leBytes 1 status), (s.reqAddr j slot + 26, leBytes 2 0),
    (s.reqAddr j slot + 40, leBytes 8 s.now)]

theorem retire_passes (hbegins : s.begins 9 8 = some (u, c)) (hpasses : firstFail (u.retireChecks c) = none)
    (hslot : leAt (u.params c) 0 2 = slot) : retire s = (u.retireReq c.job slot 0).complete c stOk 0 := by
  rw [retire, State.withHead_of_begins hbegins (by decide)]
  simp only [State.orFail_passes hpasses, hslot]

theorem retire_fails (hbegins : s.begins 9 8 = some (u, c)) (hfails : firstFail (u.retireChecks c) = some (st, d)) :
    retire s = u.complete c st d := by
  rw [retire, State.withHead_of_begins hbegins (by decide)]
  exact State.orFail_fails hfails

/-- A pinned request keeps what it holds. -/
theorem State.retireReq_pinned (hpinned : s.reqFlag j slot 0 = true) : s.retireReq j slot 0 = s.storeAll (s.retireWrites j slot 0) := by
  simp only [State.retireReq, hpinned, if_true]
  rfl

theorem State.retireReq_unpinned (hunpinned : s.reqFlag j slot 0 = false) :
    s.retireReq j slot 0 = (s.storeAll (s.retireWrites j slot 0)).releaseReq j slot := by
  simp only [State.retireReq, hunpinned, Bool.false_eq_true, if_false]
  rfl

/-- A request without blocks releases none. -/
theorem State.releaseReq_of_noBlocks (hblocks : s.reqGet j slot 22 2 = 0) (hshared : s.reqGet j slot 24 2 = 0) :
    s.releaseReq j slot = s.reqSet j slot 18 1 reqFree := by
  simp only [State.releaseReq, hblocks, hshared, State.reqHandles, Nat.sub_self, List.range_zero, List.map_nil, List.foldl_nil]
  rfl

/-- What a retirement writes leaves the rest of the record. -/
theorem State.storeAll_retireWrites_byte {i status : Nat} (h : i < 18 ∨ i = 19 ∨ 21 ≤ i ∧ i < 26 ∨ 28 ≤ i ∧ i < 40 ∨ 48 ≤ i) :
    (s.storeAll (s.retireWrites j slot status)).mem.byte (s.reqAddr j slot + i) = s.mem.byte (s.reqAddr j slot + i) := by
  simp only [State.retireWrites, State.storeAll, List.foldl_cons, List.foldl_nil]
  rw [State.store_byte_outside, State.store_byte_outside, State.store_byte_outside, State.store_byte_outside] <;>
    (simp only [leBytes_length]; omega)

theorem State.storeAll_retireWrites_state {status : Nat} :
    (s.storeAll (s.retireWrites j slot status)).mem.byte (s.reqAddr j slot + 18) = BitVec.ofNat 8 reqRetired := by
  simp only [State.retireWrites, State.storeAll, List.foldl_cons, List.foldl_nil]
  rw [State.store_byte_outside (by simp only [leBytes_length]; omega), State.store_byte_outside (by simp only [leBytes_length]; omega),
    State.store_byte_outside (by simp only [leBytes_length]; omega)]
  exact State.store_byte_inside (i := 0) (bs := leBytes 1 reqRetired) Nat.one_pos

theorem State.storeAll_retireWrites_status {status : Nat} :
    (s.storeAll (s.retireWrites j slot status)).mem.byte (s.reqAddr j slot + 20) = BitVec.ofNat 8 status := by
  simp only [State.retireWrites, State.storeAll, List.foldl_cons, List.foldl_nil]
  rw [State.store_byte_outside (by simp only [leBytes_length]; omega), State.store_byte_outside (by simp only [leBytes_length]; omega)]
  exact State.store_byte_inside (i := 0) (bs := leBytes 1 status) Nat.one_pos

theorem State.storeAll_retireWrites_reserved {i status : Nat} (hi : i < 2) :
    (s.storeAll (s.retireWrites j slot status)).mem.byte (s.reqAddr j slot + 26 + i) = 0 := by
  simp only [State.retireWrites, State.storeAll, List.foldl_cons, List.foldl_nil]
  rw [State.store_byte_outside (by simp only [leBytes_length]; omega), State.store_byte_inside (by rwa [leBytes_length])]
  interval_cases i <;> rfl

/-- Outside the record a retirement writes nothing. -/
theorem State.storeAll_retireWrites_outside {a status : Nat} (h : a < s.reqAddr j slot ∨ s.reqAddr j slot + 64 ≤ a) :
    (s.storeAll (s.retireWrites j slot status)).mem.byte a = s.mem.byte a := by
  simp only [State.retireWrites, State.storeAll, List.foldl_cons, List.foldl_nil]
  rw [State.store_byte_outside, State.store_byte_outside, State.store_byte_outside, State.store_byte_outside] <;>
    (simp only [leBytes_length]; omega)

/-! ### PIN -/

theorem pin_passes (hbegins : s.begins 9 9 = some (u, c)) (hpasses : firstFail (u.pinChecks c) = none)
    (hslot : leAt (u.params c) 0 2 = slot) (hkeeps : leAt (u.params c) 2 1 = 1 ∨ u.reqState c.job slot ≠ reqRetired) :
    pin s = (u.reqSet c.job slot 19 1 (u.reqGet c.job slot 19 1 / 2 * 2 + leAt (u.params c) 2 1)).complete c stOk 0 := by
  have hheld : (decide (leAt (u.params c) 2 1 = 0) && u.reqState c.job slot == reqRetired) = false := by
    rcases hkeeps with h | h
    · rw [h]
      rfl
    · simp [h]
  rw [pin, State.withHead_of_begins hbegins (by decide)]
  simp only [State.orFail_passes hpasses, hslot, hheld, Bool.false_eq_true, if_false]

theorem State.pin_lt (hpasses : firstFail (s.pinChecks c) = none) : leAt (s.params c) 2 1 < 2 := by
  by_contra hge
  rw [State.pinChecks, List.cons_append, firstFail_cons_some (if_pos (Nat.le_of_not_lt hge))] at hpasses
  cases hpasses

/-! ### The deadline of a request, R403 -/

theorem State.storeAll_frame {ws : List (Nat × List Byte)} :
    s.storeAll ws = { s with mem := (s.storeAll ws).mem, log := (s.storeAll ws).log } := by
  induction ws generalizing s with
  | nil => rfl
  | cons w ws ih => exact (ih (s := s.store w.1 w.2)).trans rfl

/-- What is written before an event of the Prefix engine is raised frames what stands after it. -/
theorem State.pfxEvt_frame {p : Prefix} {b : Nat} (hv : v = { s with mem := v.mem, log := v.log })
    (ht : t = State.pfxEvt { v with pfx := p } b) : t = { s with mem := t.mem, pfx := t.pfx, eng := t.eng, log := t.log } := by
  subst ht
  calc State.pfxEvt { v with pfx := p } b = State.pfxEvt { { s with mem := v.mem, log := v.log } with pfx := p } b :=
        congrArg (fun w : State => State.pfxEvt { w with pfx := p } b) hv
    _ = _ := by rw [hv]; rfl

theorem Memory.nat_zero {m : Memory} {a : Nat} (h : ∀ i < n, m.byte (a + i) = 0) : m.nat a n = 0 := by
  have hbytes : m.bytes a n = List.replicate n 0 :=
    List.eq_replicate_iff.2 ⟨by simp [Memory.bytes], fun b hb => by
      obtain ⟨i, hi, rfl⟩ := List.mem_map.1 hb
      exact h i (List.mem_range.1 hi)⟩
  rw [Memory.nat, hbytes]
  clear hbytes h
  induction n with
  | zero => rfl
  | succ n ih => rw [List.replicate_succ, leNat, ih]; rfl

/-- A field whose bytes are zero. -/
theorem State.reqGet_zero (hbld : t.bld = s.bld) (hmem : ∀ i < n, t.mem.byte (s.reqAddr j r + off + i) = 0) : t.reqGet j r off n = 0 := by
  rw [State.reqGet, State.reqAddr_congr hbld]
  exact Memory.nat_zero hmem

theorem requestDeadlineRetire_pinned (hslot : r < s.pfxNreq j) (hadmitted : s.reqState j r = reqAdmitted) (hpast : s.reqDeadline j r < s.now)
    (hpinned : s.reqFlag j r 0 = true) :
    requestDeadlineRetire j r s = State.pfxEvt { s.storeAll (s.retireWrites j r stDeadline) with
      pfx := { s.pfx with cntDeadline := s.pfx.cntDeadline + 1 } } 0 := by
  rw [requestDeadlineRetire, if_pos (by simp [hslot, hadmitted, hpast])]
  simp only [State.retireReq, hpinned, if_true]
  rw [State.retireWrites, State.storeAll_pfx]

/-! ### The statement -/

/-- Settles O44, command by command: the record's bytes, the table's entries, and the pool's queue. -/
theorem requests : Obligations.Requests := by
  unfold Obligations.Requests
  refine ⟨?admits, ?refuses, ?grows, ?retiresPinned, ?retires, ?retireFails, ?pins, ?deadline, ?noDeadline⟩
  case admits =>
    intro s u c row x hbegins hpasses hrow _ hx hreason
    obtain ⟨hstatus, hpfx, hmem⟩ := pfxEnded_of_pfxOut (u := u.admitRecord c.job x)
      (admitRequest_admits hbegins hpasses hrow hx hreason) rfl rfl
    obtain ⟨hhit, hrefused⟩ := State.admitRecord_counters (s := u) (j := c.job) (x := x)
    rw [(State.begun_of_begins hbegins).pfx] at hhit hrefused
    refine ⟨admitRequest s, rfl, hstatus, ?_, ?_, ?_, hmem⟩
    · rw [hpfx, Prefix.countRow]
    · rw [hpfx, Prefix.countRow, hhit]
    · rw [hpfx, Prefix.countRow, hrefused, if_pos hreason, Nat.add_zero]
  case refuses =>
    intro s u c row x hbegins hpasses hrow _ hx hreason
    have hends := admitRequest_refuses hbegins hpasses hrow hx hreason
    obtain ⟨hstatus, hpfx, hmem⟩ := pfxEnded_of_pfxOut (u := u) hends rfl rfl
    rw [State.pfxEvt, State.modEng_pfx, (State.begun_of_begins hbegins).pfx] at hpfx
    refine ⟨admitRequest s, rfl, hstatus, by rw [hpfx, Prefix.countRow], by rw [hpfx, Prefix.countRow, if_neg hreason], ?_, hmem⟩
    rw [hends, stOk, State.complete_evt9 (State.engine_of_begins hbegins), State.engRegs_of_eng State.pfxOut_eng]
    exact State.pfxEvt_bit (by decide)
  case grows =>
    intro s u c hbegins hpasses
    have hbegun := State.begun_of_begins hbegins
    have hgrow := grow_passes hbegins hpasses
    have hpools : u.pools = s.pools := show u.outsideCommands.pools = s.outsideCommands.pools from congrArg State.pools hbegun.outside
    refine ⟨_, congrArg Host.Outcome.next hgrow, ?_, ?_, hbegun.mem, rfl⟩
    · rw [State.waitPool_waiters]
      exact congrArg (fun l => (tget {} l (u.pfxPool c.job)).waiters.length + 1) hpools
    · exact List.length_append
  case retiresPinned =>
    intro s u c slot hbegins hpasses hslot hpinned
    have hbegun := State.begun_of_begins hbegins
    have hends := retire_passes hbegins hpasses hslot
    rw [State.retireReq_pinned hpinned, State.retireWrites, hbegun.now] at hends
    obtain ⟨hstatus, hpfx, hmem⟩ := pfxEnded_of_complete hends State.storeAll_pfx rfl
    exact ⟨retire s, rfl, hstatus, hpfx.trans hbegun.pfx, hmem⟩
  case retires =>
    intro s u c slot hbegins hpasses hslot hunpinned hblocks hshared ha
    have hkept {off : Nat} (hoff : 21 ≤ off ∧ off + 2 ≤ 26) :
        (u.storeAll (u.retireWrites c.job slot 0)).reqGet c.job slot off 2 = u.reqGet c.job slot off 2 :=
      State.reqGet_congr State.storeAll_bld fun i hi => by
        rw [Nat.add_assoc, State.storeAll_retireWrites_byte (by omega)]
    have hends := retire_passes hbegins hpasses hslot
    rw [State.retireReq_unpinned hunpinned, State.releaseReq_of_noBlocks ((hkept (by decide)).trans hblocks) ((hkept (by decide)).trans hshared)]
      at hends
    obtain ⟨hstatus, -, hmem⟩ := pfxEnded_of_complete hends rfl rfl
    have haddr : (u.storeAll (u.retireWrites c.job slot 0)).reqAddr c.job slot = u.reqAddr c.job slot := State.reqAddr_congr State.storeAll_bld
    have hbld : (retire s).bld = u.bld := by rw [hends, State.complete_bld, State.reqSet_bld, State.storeAll_bld]
    have hfreed := hmem _ ha
    rw [← haddr, State.reqSet_byte, haddr] at hfreed
    exact ⟨retire s, rfl, hstatus, State.reqGet_of_byte hbld hfreed⟩
  case retireFails =>
    intro s u c st d hbegins hfails
    obtain ⟨hpfx, hstatus, honly⟩ := pfxFailed_of_complete hbegins (retire_fails hbegins hfails)
    exact ⟨retire s, rfl, hpfx, hstatus, honly⟩
  case pins =>
    intro s u c slot v hbegins hpasses hslot hv hkeeps
    have hlt := hv ▸ State.pin_lt hpasses
    have hbegun := State.begun_of_begins hbegins
    have hends := pin_passes hbegins hpasses hslot (hv.symm ▸ hkeeps)
    rw [hv] at hends
    obtain ⟨hstatus, hpfx, hmem⟩ := pfxEnded_of_complete hends rfl rfl
    have hbld : (pin s).bld = u.bld := by rw [hends, State.complete_bld, State.reqSet_bld]
    refine ⟨pin s, rfl, hstatus, hpfx.trans hbegun.pfx, fun a ha hother => ?_, fun ha => ?_⟩
    · rw [hmem a ha, State.reqSet_byte_ne hother, hbegun.mem]
    · have hflags : (pin s).reqGet c.job slot 19 1 = (BitVec.ofNat 8 (u.reqGet c.job slot 19 1 / 2 * 2 + v)).toNat :=
        State.reqGet_of_byte hbld ((hmem _ ha).trans State.reqSet_byte)
      have hbyte : u.reqGet c.job slot 19 1 < 256 := by rw [State.reqGet_one]; exact BitVec.isLt _
      rw [BitVec.toNat_ofNat, Nat.mod_eq_of_lt (by omega)] at hflags
      simp only [State.reqFlag, hflags, bitOf, Nat.testBit_zero, Nat.testBit_succ]
      exact ⟨by rw [decide_eq_decide]; omega, by rw [decide_eq_decide]; omega⟩
  case deadline =>
    intro s j r hj _ hslot hadmitted hpast hpinned
    have hretired := requestDeadlineRetire_pinned hslot hadmitted hpast hpinned
    have hmem : (requestDeadlineRetire j r s).mem = (s.storeAll (s.retireWrites j r stDeadline)).mem := by rw [hretired]; rfl
    have hbld : (requestDeadlineRetire j r s).bld = s.bld := by rw [hretired]; exact State.storeAll_bld
    refine ⟨requestDeadlineRetire j r s, if_pos hj, ?_, ?_, ?_, ?_, ?_, fun a ha => ?_, ?_⟩
    · exact (State.reqGet_of_byte hbld (by rw [hmem, State.storeAll_retireWrites_state])).trans (by decide)
    · exact (State.reqGet_of_byte hbld (by rw [hmem, State.storeAll_retireWrites_status])).trans (by decide)
    · exact State.reqGet_zero hbld fun i hi => by rw [hmem, State.storeAll_retireWrites_reserved hi]
    · rw [hretired]; rfl
    · rw [hretired]; exact State.pfxEvt_bit (by decide)
    · rw [hmem, State.storeAll_retireWrites_outside ha]
    · exact State.pfxEvt_frame State.storeAll_frame hretired
  case noDeadline =>
    intro s j r hj hstate
    have hstays : requestDeadlineRetire j r s = s := if_neg (by simp [hstate])
    exact (if_pos hj).trans (congrArg Host.Outcome.next hstays)

end Sys2Proof.Machine

/-!
PROOF. Tasks on cores (O33). A run names each core once, so what PLOAD, TASK and a commit do to a run's cores is what they do to one of them;
a task that starts keeps its core's tasks; a failure writes nothing outside the outputs it leaves undefined.
-/

namespace Sys2Proof.Machine

variable {s t u v : State} {c : Cmd} {st d k i j a : Nat} {bs : List Byte} {l : List Nat} {rs : List (Nat × Nat)} {x : Core}

/-! ### Outputs left undefined, R418 -/

theorem Memory.byte_foldl_overlay_outside {m : Memory} {epoch : Nat} (h : ∀ r ∈ rs, a < localOf r.1 ∨ localOf r.1 + r.2 ≤ a) :
    (rs.foldl (fun m r => if r.2 = 0 then m else m.overlay (localOf r.1) r.2 epoch) m).byte a = m.byte a := by
  induction rs generalizing m with
  | nil => rfl
  | cons r rs ih =>
    rw [List.foldl_cons, ih fun q hq => h q (List.mem_cons_of_mem _ hq)]
    split_ifs
    · rfl
    · exact Memory.byte_overlay_outside (h r List.mem_cons_self)

theorem State.leaveUndefined_byte (h : ∀ r ∈ rs, a < localOf r.1 ∨ localOf r.1 + r.2 ≤ a) :
    (s.leaveUndefined rs).mem.byte a = s.mem.byte a := by
  unfold State.leaveUndefined
  split_ifs
  · rfl
  · exact Memory.byte_foldl_overlay_outside h

/-- A failure leaves what lies outside the outputs it leaves undefined. -/
theorem State.failOutputs_byte (h : s.leaves c a) : (s.failOutputs c st).mem.byte a = s.mem.byte a := by
  unfold State.failOutputs
  split_ifs
  · rfl
  · exact State.leaveUndefined_byte h.2

theorem cores_of_onlyCommands (h : OnlyCommands s t) : t.cores = s.cores := by rw [h]

/-! ### The cores of a run, R412 -/

theorem Cmd.cores_nodup : c.cores.Nodup := List.Nodup.map (fun _ _ h => Nat.add_left_cancel h) List.nodup_range

/-- A fold that changes one core at a time, over cores named once: what holds of each change holds of each core, and no other changes. -/
theorem State.core_foldl_of_nodup {g : State → Nat → State} {R : Core → Core → Prop} (hself : ∀ t k, R (t.core k) ((g t k).core k))
    (hother : ∀ t k i, i ≠ k → (g t k).core i = t.core i) (hl : l.Nodup) :
    (∀ i ∈ l, R (s.core i) ((l.foldl g s).core i)) ∧ ∀ i, i ∉ l → (l.foldl g s).core i = s.core i := by
  induction l generalizing s with
  | nil => exact ⟨fun i hi => absurd hi List.not_mem_nil, fun i _ => rfl⟩
  | cons k l ih =>
    obtain ⟨hk, hl⟩ := List.nodup_cons.1 hl
    obtain ⟨hmem, hnot⟩ := ih (s := g s k) hl
    refine ⟨fun i hi => ?_, fun i hi => ?_⟩
    · rcases List.mem_cons.1 hi with rfl | hi
      · rw [List.foldl_cons, hnot i hk]
        exact hself s i
      · have hne : i ≠ k := fun h => hk (h ▸ hi)
        rw [List.foldl_cons, ← hother s k i hne]
        exact hmem i hi
    · rw [List.mem_cons, not_or] at hi
      rw [List.foldl_cons, hnot i hi.2, hother s k i hi.1]

theorem CommandBegun.core (hbegun : CommandBegun s u c) : u.core k = s.core k :=
  show u.outsideCommands.core k = s.outsideCommands.core k from congrArg (State.core · k) hbegun.outside

/-! ### A task that starts, R119 -/

theorem Core.writeDmem_keeps {β : Type} {view : Core → β} (hview : ∀ (x : Core) (m : Sparse Byte), view { x with dmem := m } = view x) :
    view (x.writeDmem a bs) = view x := by
  induction bs generalizing x a with
  | nil => rfl
  | cons b bs ih => rw [Core.writeDmem, ih, hview]

/-- What a core shows of the task that it has just started. -/
structure Core.Starts (x : Core) (c : Cmd) : Prop where
  run : x.run = .issuing
  pc : x.pc = field c.imm.toNat 43 32
  cnt : x.cnt = []
  flags : x.flags = 0
  job : x.job = c.job

theorem State.startTask_starts : ((s.startTask k c).core k).Starts c := by
  have hview {β : Type} {view : Core → β} (h : ∀ (x : Core) (m : Sparse Byte), view { x with dmem := m } = view x) :=
    fun x : Core => Core.writeDmem_keeps (x := x) (a := 0xFFC0) (bs := leBytes 64 c.bytes.toNat) h
  rw [State.startTask, State.core_modCore]
  constructor
  · exact hview (view := fun x => x.run) (fun _ _ => rfl) _
  · exact hview (view := fun x => x.pc) (fun _ _ => rfl) _
  · exact hview (view := fun x => x.cnt) (fun _ _ => rfl) _
  · exact hview (view := fun x => x.flags) (fun _ _ => rfl) _
  · exact hview (view := fun x => x.job) (fun _ _ => rfl) _

theorem State.startTask_tasks : ((s.startTask k c).core i).tasks = (s.core i).tasks :=
  State.core_modCore_view (view := fun x => x.tasks) fun _ => Core.writeDmem_keeps (view := fun x => x.tasks) fun _ _ => rfl

theorem State.startTask_core_ne (h : i ≠ k) : (s.startTask k c).core i = s.core i := State.core_modCore_ne h

/-- The start of a core's next task keeps the tasks of every core. -/
theorem State.nextTask_tasks : ((s.nextTask k).core i).tasks = (s.core i).tasks := by
  unfold State.nextTask
  dsimp only
  split
  · split_ifs
    · exact State.startTask_tasks
    · rfl
  · rfl

theorem State.nextTask_core_ne (h : i ≠ k) : (s.nextTask k).core i = s.core i := by
  unfold State.nextTask
  dsimp only
  split
  · split_ifs
    · exact State.startTask_core_ne h
    · rfl
  · rfl

/-- Nothing but cores changes as a task starts. -/
theorem State.nextTask_outsideCores : (s.nextTask k).outsideCores = s.outsideCores := by
  unfold State.nextTask
  dsimp only
  split
  · split_ifs <;> rfl
  · rfl

theorem State.nextTask_busy (h : (s.core k).run ≠ .idle) : s.nextTask k = s := by
  unfold State.nextTask
  dsimp only
  split
  · rw [if_neg h]
  · rfl

theorem State.nextTask_idle {r : List Cmd} (htasks : (s.core k).tasks = c :: r) (h : (s.core k).run = .idle) : s.nextTask k = s.startTask k c := by
  rw [State.nextTask, htasks]
  exact if_pos h

/-! ### PLOAD and TASK -/

theorem State.namesFailures_runChecks : NamesFailures (s.runChecks c) := by
  simp only [State.runChecks, namesFailures_cons, namesFailures_nil, and_true]
  exact ⟨namesFailure_need (by decide), namesFailure_need (by decide)⟩

theorem State.namesFailures_ploadChecks : NamesFailures (s.ploadChecks c) := by
  simp only [State.ploadChecks, namesFailures_append, State.namesFailures_runChecks, namesFailures_cons, namesFailures_nil, and_true, true_and]
  exact ⟨namesFailure_need (by decide), namesFailure_need (by decide)⟩

theorem State.namesFailures_taskChecks : NamesFailures (s.taskChecks c) := by
  simp only [State.taskChecks, namesFailures_append, State.namesFailures_runChecks, namesFailures_cons, namesFailures_nil, and_true, true_and]
  exact ⟨namesFailure_need (by decide), namesFailure_need (by decide), namesFailure_need (by decide), namesFailure_need (by decide),
    namesFailure_need (by decide)⟩

/-- The run's cores with their images. -/
def State.loadCores (s : State) (c : Cmd) (im dm : List Byte) : State := c.cores.foldl (fun s k => s.modCore k fun x => x.load im dm) s

theorem State.loadCores_core {im dm : List Byte} :
    (∀ k ∈ c.cores, (s.loadCores c im dm).core k = (s.core k).load im dm) ∧ ∀ k, k ∉ c.cores → (s.loadCores c im dm).core k = s.core k :=
  State.core_foldl_of_nodup (R := fun x y => y = x.load im dm) (fun _ _ => State.core_modCore) (fun _ _ _ h => State.core_modCore_ne h)
    Cmd.cores_nodup

theorem State.loadCores_mem {im dm : List Byte} : (s.loadCores c im dm).mem = s.mem :=
  foldl_keeps_view (view := State.mem) (f := fun (s : State) k => s.modCore k fun x => x.load im dm) (fun _ _ => rfl) c.cores s

theorem pload_passes (hbegins : s.begins 1 1 = some (u, c)) (hpasses : firstFail (u.ploadChecks c) = none) :
    pload s = (u.loadCores c (u.mem.bytes c.arg c.images.1) (u.mem.bytes c.arg2 c.images.2)).complete c stOk 0 := by
  rw [pload, State.withHead_of_begins hbegins (by decide)]
  exact State.orFail_passes hpasses

theorem pload_fails (hbegins : s.begins 1 1 = some (u, c)) (hfails : firstFail (u.ploadChecks c) = some (st, d)) :
    pload s = u.complete c st d := by
  rw [pload, State.withHead_of_begins hbegins (by decide)]
  exact State.orFail_fails hfails

/-- A core takes a task, and starts it when it is idle. -/
def State.giveTask (c : Cmd) (s : State) (k : Nat) : State := (s.modCore k fun x => { x with tasks := x.tasks ++ [c] }).nextTask k

/-- What a core shows of a task it has taken. -/
structure Core.TakesTask (c : Cmd) (x y : Core) : Prop where
  tasks : y.tasks = x.tasks ++ [c]
  starts : x.run = .idle → x.tasks = [] → y.Starts c
  waits : x.run ≠ .idle → y = { x with tasks := y.tasks }

theorem State.giveTask_takes : (s.core k).TakesTask c ((s.giveTask c k).core k) := by
  have hcore : (s.modCore k fun x => { x with tasks := x.tasks ++ [c] }).core k = { s.core k with tasks := (s.core k).tasks ++ [c] } :=
    State.core_modCore
  refine ⟨?tasks, fun hidle hnone => ?starts, fun hbusy => ?waits⟩
  case tasks => rw [State.giveTask, State.nextTask_tasks, hcore]
  case starts =>
    rw [State.giveTask, State.nextTask_idle (c := c) (r := []) (by rw [hcore, hnone]; rfl) (by rw [hcore]; exact hidle)]
    exact State.startTask_starts
  case waits => rw [State.giveTask, State.nextTask_busy (by rw [hcore]; exact hbusy), hcore]

theorem State.giveTask_core_ne (h : i ≠ k) : (s.giveTask c k).core i = s.core i := by
  rw [State.giveTask, State.nextTask_core_ne h, State.core_modCore_ne h]

theorem task_passes (hbegins : s.begins 1 2 = some (u, c)) (hpasses : firstFail (u.taskChecks c) = none) :
    task s = c.cores.foldl (State.giveTask c) (u.addLive c (!c.norerun)) := by
  rw [task, State.withHead_of_begins hbegins (by decide)]
  simp only [hpasses]
  rfl

theorem task_fails (hbegins : s.begins 1 2 = some (u, c)) (hfails : firstFail (u.taskChecks c) = some (st, d)) :
    task s = ((u.failOutputs c st).tallyEcc st).complete c st d := by
  rw [task, State.withHead_of_begins hbegins (by decide)]
  simp only [hfails]

/-- A TASK whose cores have taken it touches cores and the started commands alone. -/
theorem State.giveTasks_frame : l.foldl (State.giveTask c) s = { s with cores := (l.foldl (State.giveTask c) s).cores } := by
  have hframe : (l.foldl (State.giveTask c) s).outsideCores = s.outsideCores :=
    foldl_keeps_view (view := State.outsideCores) (f := State.giveTask c) (fun _ _ => State.nextTask_outsideCores) l s
  exact congrArg (fun t : State => { t with cores := (l.foldl (State.giveTask c) s).cores }) hframe

/-! ### The commit of a TASK -/

/-- The cores of a run after its task has left them. -/
def State.leaveCores (s : State) (c : Cmd) : State := c.cores.foldl (fun s i => s.modCore i Core.leave) s

theorem State.leaveCores_tasks (hi : i ∈ c.cores) : ((s.leaveCores c).core i).tasks = (s.core i).tasks.tail :=
  (State.core_foldl_of_nodup (R := fun x y => y.tasks = x.tasks.tail) (fun t k => by rw [State.core_modCore]; rfl)
    (fun _ _ _ h => State.core_modCore_ne h) Cmd.cores_nodup).1 i hi

theorem State.leaveCores_outsideCores : (s.leaveCores c).outsideCores = s.outsideCores :=
  foldl_keeps_view (view := State.outsideCores) (f := fun (s : State) i => s.modCore i Core.leave) (fun _ _ => rfl) c.cores s

theorem State.leaveCores_mem : (s.leaveCores c).mem = s.mem :=
  show (s.leaveCores c).outsideCores.mem = s.outsideCores.mem from congrArg State.mem State.leaveCores_outsideCores

/-- Which outputs a failure leaves undefined does not depend on the cores. -/
theorem State.leaveCores_undefinedOuts : (s.leaveCores c).undefinedOuts c = s.undefinedOuts c :=
  show (s.leaveCores c).outsideCores.undefinedOuts c = s.outsideCores.undefinedOuts c from
    congrArg (State.undefinedOuts · c) State.leaveCores_outsideCores

/-- Every core of the run starts its next task. -/
def State.nextTasks (s : State) (c : Cmd) : State := c.cores.foldl (fun s i => s.nextTask i) s

theorem State.nextTasks_outsideCores : (s.nextTasks c).outsideCores = s.outsideCores :=
  foldl_keeps_view (view := State.outsideCores) (f := fun (s : State) i => s.nextTask i) (fun _ _ => State.nextTask_outsideCores) c.cores s

theorem State.nextTasks_mem : (s.nextTasks c).mem = s.mem :=
  show (s.nextTasks c).outsideCores.mem = s.outsideCores.mem from congrArg State.mem State.nextTasks_outsideCores

theorem State.nextTasks_engRegs {e : Nat} : (s.nextTasks c).engRegs e = s.engRegs e :=
  show (s.nextTasks c).outsideCores.engRegs e = s.outsideCores.engRegs e from congrArg (State.engRegs · e) State.nextTasks_outsideCores

theorem State.nextTasks_tasks : ((s.nextTasks c).core i).tasks = (s.core i).tasks :=
  foldl_keeps_view (view := fun t : State => (t.core i).tasks) (f := fun (s : State) i => s.nextTask i) (fun _ _ => State.nextTask_tasks)
    c.cores s

theorem taskCommit_commits {r : List Cmd} {bad : Option Nat} (htasks : (s.core k).tasks = c :: r) (hdone : c.cores.all (s.coreDone c) = true)
    (hbad : c.cores.find? (fun i => (s.core i).faultStatus != 0) = bad) :
    taskCommit k s = ((((s.leaveCores c).failOutputs c (bad.elim 0 fun i => (s.core i).faultStatus)).complete c
      (bad.elim 0 fun i => (s.core i).faultStatus) (bad.elim 0 fun i => (s.core i).faultDetail)).nextTasks c) := by
  simp only [taskCommit, htasks, hdone, if_true, hbad]
  rfl

/-! ### The statement -/

/-- Settles O33: each clause from what it does to one core of the run. -/
theorem tasksOnCores : Obligations.TasksOnCores := by
  unfold Obligations.TasksOnCores
  refine ⟨?loads, ?loadFails, ?takes, ?taskFails, ?commits, ?commitFails, ?noTask⟩
  case loads =>
    intro s u c hbegins hpasses
    have hbegun := State.begun_of_begins hbegins
    have hends := pload_passes hbegins hpasses
    have hcore (k : Nat) : (pload s).core k = _ := State.core_of_cores (hends ▸ State.complete_cores)
    obtain ⟨hloaded, hothers⟩ := State.loadCores_core (s := u) (c := c) (im := u.mem.bytes c.arg c.images.1)
      (dm := u.mem.bytes c.arg2 c.images.2)
    have hmem : (u.loadCores c (u.mem.bytes c.arg c.images.1) (u.mem.bytes c.arg2 c.images.2)).mem = s.mem :=
      State.loadCores_mem.trans hbegun.mem
    obtain ⟨hstatus, -, hmemory⟩ := State.complete_ended (c := c) (st := stOk) (d := 0) (signals := true) (sub := 0) (counts := true) hmem
    rw [← hends] at hstatus hmemory
    exact ⟨pload s, rfl, fun k hk => (hcore k).trans (hloaded k hk), fun k hk => (hcore k).trans ((hothers k hk).trans hbegun.core),
      hstatus, hmemory⟩
  case loadFails =>
    intro s u c st d hbegins hfails
    have hends := pload_fails hbegins hfails
    obtain ⟨hended, honly⟩ := endsOnly_of_failure hbegins (by decide) hends
    exact ⟨pload s, rfl, cores_of_onlyCommands honly, hended.status, honly⟩
  case takes =>
    intro s u c hbegins hpasses
    have hbegun := State.begun_of_begins hbegins
    have hends := task_passes hbegins hpasses
    have hframe := State.giveTasks_frame (c := c) (l := c.cores) (s := u.addLive c (!c.norerun))
    have hcores := State.core_foldl_of_nodup (s := u.addLive c (!c.norerun)) (R := Core.TakesTask c) (g := State.giveTask c)
      (fun _ _ => State.giveTask_takes) (fun _ _ _ h => State.giveTask_core_ne h) (Cmd.cores_nodup (c := c))
    have hbefore (k : Nat) : (u.addLive c (!c.norerun)).core k = s.core k := hbegun.core
    rw [← hends] at hframe hcores
    simp only [hbefore] at hcores
    obtain ⟨htakes, hothers⟩ := hcores
    refine ⟨task s, rfl, fun k hk => (htakes k hk).tasks, fun k hk hidle hnone => ?_, fun k hk hbusy => (htakes k hk).waits hbusy, hothers, ?_, ?_⟩
    · obtain ⟨hrun, hpc, hcnt, hflags, hjob⟩ := (htakes k hk).starts hidle hnone
      exact ⟨hrun, hpc, hcnt, hflags, hjob⟩
    · rw [hframe]
      exact List.length_append
    · rw [hframe]
      rfl
  case taskFails =>
    intro s u c st d hbegins hfails
    have hbegun := State.begun_of_begins hbegins
    have hends := task_fails hbegins hfails
    have hmem : ((u.failOutputs c st).tallyEcc st).mem = (u.failOutputs c st).mem := State.tallyEcc_mem
    obtain ⟨⟨hstatus, -, hmemory⟩, honly⟩ := endsOnly_of_complete (v := (u.failOutputs c st).tallyEcc st) (st := st) (d := d)
      (signals := true) (sub := 0) (counts := true) hbegins (by decide)
      (State.tallyEcc_outsideCommands.trans failOutputs_outsideCommands) (State.tallyEcc_str.trans State.failOutputs_str) hmem
    rw [← hends] at hstatus hmemory honly
    refine ⟨task s, rfl, cores_of_onlyCommands honly, hstatus, honly, fun a ha => ?_⟩
    rw [hmemory a ha.1, State.failOutputs_byte ha, hbegun.mem]
  case commits =>
    intro s k c r hk htasks hdone hbad
    have hends := taskCommit_commits htasks hdone hbad
    refine ⟨taskCommit k s, if_pos hk, fun i hi => ?_, ?_, fun a ha => ?_⟩
    · rw [hends, State.nextTasks_tasks, State.core_of_cores State.complete_cores, State.core_of_cores State.failOutputs_cores,
        State.leaveCores_tasks hi]
    · rw [hends, State.nextTasks_engRegs]
      exact State.complete_lastStatus
    · rw [hends, State.nextTasks_mem, State.complete_spares ha]
      exact congrArg (Memory.byte · a) State.leaveCores_mem
  case commitFails =>
    intro s k i c r hk htasks hdone hbad
    have hends := taskCommit_commits htasks hdone hbad
    have hfault : (s.core i).faultStatus ≠ 0 := by simpa using List.find?_some hbad
    have hregs := State.complete_engRegs (s := (s.leaveCores c).failOutputs c (s.core i).faultStatus) (c := c) (status := (s.core i).faultStatus)
      (detail := (s.core i).faultDetail) (signals := true) (sub := 0) (counts := true)
    rw [if_neg hfault] at hregs
    refine ⟨taskCommit k s, if_pos hk, ?_, ?_, fun a ha => ?_⟩
    · rw [hends, State.nextTasks_engRegs]
      exact congrArg EngRegs.failStatus hregs
    · rw [hends, State.nextTasks_engRegs]
      exact congrArg EngRegs.failDetail hregs
    · have hleaves : (s.leaveCores c).leaves c a := ⟨ha.1, State.leaveCores_undefinedOuts.symm ▸ ha.2⟩
      rw [hends, State.nextTasks_mem, State.complete_spares ha.1]
      exact (State.failOutputs_byte hleaves).trans (congrArg (Memory.byte · a) State.leaveCores_mem)
  case noTask =>
    intro s k hk hnone
    have hstays : taskCommit k s = s := by rw [taskCommit, hnone]
    exact (if_pos hk).trans (congrArg Host.Outcome.next hstays)

end Sys2Proof.Machine

/-!
PROOF. Kettle's control law, overdraw and heat (O38). The control step's arithmetic stands alone; a KILL of every job is that of the one job
there is; a running task that is killed leaves its cores.
-/

namespace Sys2Proof.Machine

variable {s t u : State} {c : Cmd} {l : Live} {k i j n b aux v : Nat}

/-! ### The control law, R464 -/

/-- S is never below W. -/
theorem controlStep_covers {w p f up d lim a r cap : Int} : w ≤ (controlStep w p f up d lim a r cap).s := le_max_left _ _

/-- B is the rest of S, as far as there is ballast. -/
theorem controlStep_ballast {w p f up d lim a r cap : Int} :
    (controlStep w p f up d lim a r cap).b = min ((controlStep w p f up d lim a r cap).s - w) cap := rfl

/-- A draw above the limit runs without ballast. -/
theorem controlStep_above {w p f up d lim a r cap : Int} (h : lim < w) : (controlStep w p f up d lim a r cap).s = w :=
  max_eq_left ((min_le_right _ _).trans ((min_le_right _ _).trans h.le))

/-- Any other draw keeps S below the limit and the slew limit. -/
theorem controlStep_within {w p f up d lim a r cap : Int} (hlim : w ≤ lim) (hslew : w ≤ p + up) :
    (controlStep w p f up d lim a r cap).s ≤ min lim (p + up) :=
  max_le (le_min hlim hslew) ((min_le_right _ _).trans (le_min (min_le_right _ _) (min_le_left _ _)))

/-- Without ballast to apply none is applied. -/
theorem controlStep_noBallast {w p f up d lim a r : Int} : (controlStep w p f up d lim a r 0).b = 0 := by
  rw [controlStep_ballast]
  exact min_eq_right (Int.sub_nonneg.2 controlStep_covers)

/-! ### Events and alarms -/

theorem State.ktlEvt_bit (hb : b < 16) : (s.ktlEvt b).ktl.evt.getLsbD b = true := by
  show (s.ktl.evt ||| BitVec.ofNat 16 (2 ^ b)).getLsbD b = true
  rw [BitVec.getLsbD_or, BitVec.getLsbD_ofNat]
  simp [hb, Nat.testBit_two_pow_self]

/-- An event that has been raised stays raised. -/
theorem State.ktlEvt_bit_keeps (h : s.ktl.evt.getLsbD n = true) : (s.ktlEvt b).ktl.evt.getLsbD n = true := by
  show (s.ktl.evt ||| BitVec.ofNat 16 (2 ^ b)).getLsbD n = true
  rw [BitVec.getLsbD_or, h, Bool.true_or]

/-- What a sample leaves of Kettle, before its events and its overdraw. -/
def State.sampled (s : State) (v i : Nat) (o : ControlOut) : State :=
  { s.sampleBallast o.b with ktl := { (s.sampleBallast o.b).ktl with
      stepAt := some (s.boot.sincePwrOk / 1000), vin := BitVec.ofNat 16 v, iin := BitVec.ofNat 16 i, sampleTick := s.now
      draws := (4 * v * i :: s.ktl.draws).take 1000000, sPrev := o.s, bcap := s.ballastCap, energy := s.ktl.energy + 4 * v * i
      ballastSum := s.ktl.ballastSum + o.b.toNat, ballastCount := s.ktl.ballastCount + 1, vinLow := min s.ktl.vinLow v
      cntSlew := if o.excess then s.ktl.cntSlew + 1 else s.ktl.cntSlew } }

/-- The events of a sample. -/
def State.sampleEvents (s : State) (o : ControlOut) : State :=
  let s2 := if o.excess then s.ktlEvt 2 else s
  match o.short with | some b => if s.ktl.therm != 0 && b = 3 then s2 else s2.ktlEvt b | none => s2

/-- A sample's events change Kettle's events alone. -/
theorem State.sampleEvents_view {α : Type} {view : State → α} (hview : ∀ t b, view (State.ktlEvt t b) = view t) {o : ControlOut} :
    view (s.sampleEvents o) = view s := by
  have hslew : view (if o.excess then s.ktlEvt 2 else s) = view s := by
    split_ifs
    · exact hview _ _
    · rfl
  cases hshort : o.short with
  | none => simpa only [State.sampleEvents, hshort] using hslew
  | some b =>
    simp only [State.sampleEvents, hshort]
    by_cases hquiet : (s.ktl.therm != 0 && decide (b = 3)) = true
    · rw [if_pos hquiet]
      exact hslew
    · rw [if_neg hquiet]
      exact (hview _ _).trans hslew

theorem State.sampleEvents_excess {o : ControlOut} (hexcess : o.excess = true) : (s.sampleEvents o).ktl.evt.getLsbD 2 = true := by
  have hslew : (if o.excess then s.ktlEvt 2 else s).ktl.evt.getLsbD 2 = true := by
    rw [if_pos hexcess]
    exact State.ktlEvt_bit (by decide)
  cases hshort : o.short with
  | none => simpa only [State.sampleEvents, hshort] using hslew
  | some b =>
    simp only [State.sampleEvents, hshort]
    by_cases hquiet : (s.ktl.therm != 0 && decide (b = 3)) = true
    · rw [if_pos hquiet]
      exact hslew
    · rw [if_neg hquiet]
      exact State.ktlEvt_bit_keeps hslew

/-- The state but for Kettle. -/
def State.outsideKtl (s : State) : State := { s with ktl := {} }

theorem State.eq_of_outsideKtl (h : t.outsideKtl = s.outsideKtl) : t = { s with ktl := t.ktl } :=
  (congrArg (fun x : State => { x with ktl := t.ktl }) h : { t.outsideKtl with ktl := t.ktl } = { s with ktl := t.ktl })

theorem State.sampleEvents_outsideKtl {o : ControlOut} : (s.sampleEvents o).outsideKtl = s.outsideKtl :=
  State.sampleEvents_view fun _ _ => rfl

/-- A sample, up to its overdraw. -/
def State.sample (s : State) (v i : Nat) (o : ControlOut) : State := (s.sampled v i o).sampleEvents o

/-- What a sample leaves of Kettle but its events. -/
theorem State.sample_view {α : Type} {view : State → α} (hview : ∀ t b, view (State.ktlEvt t b) = view t) {o : ControlOut} :
    view (s.sample v i o) = view (s.sampled v i o) := State.sampleEvents_view hview

theorem State.sampled_outsideKtl {o : ControlOut} : (s.sampled v i o).outsideKtl = s.outsideKtl := by
  simp only [State.outsideKtl, State.sampled, State.sampleBallast, State.ballastTo]

theorem State.sample_outsideKtl {o : ControlOut} : (s.sample v i o).outsideKtl = s.outsideKtl := by
  rw [State.sample, State.sampleEvents_outsideKtl, State.sampled_outsideKtl]

/-- An overdraw that begins takes the ballast away. -/
def State.beginOverdraw (s : State) (now : Nat) : State :=
  (State.ktlAlarm { s.ballastTo 0 0 with ktl := { (s.ballastTo 0 0).ktl with overdrawSince := some now } } 0xFF).ktlEvt 0

theorem State.sample_draws {o : ControlOut} (hdraws : s.ktl.draws = []) : (s.sample v i o).ktl.draws = [4 * v * i] := by
  rw [State.sample_view (view := fun t => t.ktl.draws) fun _ _ => rfl, State.sampled, hdraws]
  rfl

theorem State.sample_envNow {o : ControlOut} : (s.sample v i o).envNow = s.envNow := by
  rw [State.sample_view (view := State.envNow) fun _ _ => rfl]
  rfl

section
variable {o : ControlOut} (hon : s.pwr.pwrOk = true) (hdue : s.ktl.stepAt ≠ some (s.boot.sincePwrOk / 1000))
  (ho : controlStep (4 * v * i - s.ktl.applied s.boot.sincePwrOk) s.ktl.sPrev (s.envNow.floor * 1000000) (s.envNow.slewUp * 100000)
    (s.envNow.slewDn * 100000) ((min (min (s.envNow.ceil1ms * 1000000) (s.envNow.ceil1s * 1000000)) (90000 * v) : Nat) : Int) s.rampUp
    s.rampDown s.ballastCap = o)
include hon hdue ho

/-- A sample goes on by whether it finds an overdraw. -/
theorem kettleControlStep_samples : kettleControlStep v i s =
    if (s.sample v i o).overdraw o.b v then
      if s.ktl.overdrawSince.isSome then s.sample v i o
      else (s.sample v i o).beginOverdraw s.boot.sincePwrOk
    else { s.sample v i o with ktl := { (s.sample v i o).ktl with overdrawSince := none } } := by
  have hcast : ((4 * v * i : Nat) : Int) = 4 * v * i := by push_cast; rfl
  rw [kettleControlStep, if_pos (by simpa [hon] using hdue)]
  simp only [hcast, ho]
  rfl

theorem kettleControlStep_begins (hover : (s.sample v i o).overdraw o.b v = true) (hnone : s.ktl.overdrawSince = none) :
    kettleControlStep v i s = (s.sample v i o).beginOverdraw s.boot.sincePwrOk := by
  rw [kettleControlStep_samples hon hdue ho, if_pos hover, hnone]
  exact if_neg Bool.false_ne_true

theorem kettleControlStep_ballast (hballast : o.b ≠ 0) :
    kettleControlStep v i s = { s.sample v i o with ktl := { (s.sample v i o).ktl with overdrawSince := none } } := by
  rw [kettleControlStep_samples hon hdue ho]
  have hnone : (s.sample v i o).overdraw o.b v = false := by simp [State.overdraw, hballast]
  rw [hnone]
  rfl

end

/-! ### An overdraw, R467 -/

/-- Without ballast, a draw above the millisecond's ceiling is an overdraw. -/
theorem State.overdraw_above (hdraws : s.ktl.draws = [n]) (h : min (s.envNow.ceil1ms * 1000000) (90000 * v) < n) :
    s.overdraw 0 v = true := by
  have hmean : (s.ktl.draws.take 1000).sum / max 1 (s.ktl.draws.take 1000).length = n := by simp [hdraws]
  simp only [State.overdraw, hmean, decide_eq_true h]
  rfl

/-! ### Every job is killed, R467, R468 -/

/-- The jobs of a list that the device holds are killed. -/
def State.killEach (s : State) (l : List Nat) : State := l.foldl (fun s j => if s.hasJob j then s.killJob j else s) s

theorem State.killAll_eq : s.killAll = (s.killEach (List.range 8)).rampsOver := rfl

/-- A KILL does not change which jobs there are. -/
theorem State.killJob_hasJob : (s.killJob j).hasJob i = s.hasJob i := by
  have hbld : (s.killJob j).bld = s.bld := congrArg Prod.fst State.killJob_inForce
  simp only [State.hasJob, State.job, hbld]

theorem State.killEach_none {is : List Nat} (hnone : ∀ i ∈ is, s.hasJob i = false) : s.killEach is = s := by
  induction is with
  | nil => rfl
  | cons i is ih =>
    have hi : s.hasJob i = false := hnone i List.mem_cons_self
    rw [State.killEach, List.foldl_cons, hi]
    exact ih fun k hk => hnone k (List.mem_cons_of_mem _ hk)

theorem State.killEach_only {is : List Nat} (hnodup : is.Nodup) (hj : j ∈ is) (hjob : s.hasJob j = true)
    (hnone : ∀ i ∈ is, i ≠ j → s.hasJob i = false) : s.killEach is = s.killJob j := by
  induction is with
  | nil => cases hj
  | cons i is ih =>
    obtain ⟨hi, hnodup⟩ := List.nodup_cons.1 hnodup
    by_cases hij : i = j
    · subst hij
      have hrest : (s.killJob i).killEach is = s.killJob i := State.killEach_none fun k hk =>
        State.killJob_hasJob.trans (hnone k (List.mem_cons_of_mem _ hk) fun h => hi (h ▸ hk))
      rw [State.killEach, List.foldl_cons, hjob]
      exact hrest
    · have hstays : s.hasJob i = false := hnone i List.mem_cons_self hij
      rw [State.killEach, List.foldl_cons, hstays]
      exact ih hnodup ((List.mem_cons.1 hj).resolve_left (Ne.symm hij)) fun k hk => hnone k (List.mem_cons_of_mem _ hk)

theorem State.killEach_noJob (hnone : ∀ j, j < 8 → s.hasJob j = false) : s.killEach (List.range 8) = s :=
  State.killEach_none fun i hi => hnone i (List.mem_range.1 hi)

theorem State.killEach_oneJob (hj : j < 8) (hjob : s.hasJob j = true) (hnone : ∀ i, i < 8 → i ≠ j → s.hasJob i = false) :
    s.killEach (List.range 8) = s.killJob j :=
  State.killEach_only List.nodup_range (List.mem_range.2 hj) hjob fun i hi => hnone i (List.mem_range.1 hi)

theorem State.rampsOver_over {r : RampState} (hr : r ∈ s.rampsOver.ktl.ramps) : r.levelOver = true := by
  obtain ⟨_, -, rfl⟩ := List.mem_map.1 hr
  rfl

/-! ### A queued command is killed -/

theorem State.dropHeld_mem : (s.dropHeld j).mem = s.mem := by
  rw [State.dropHeld_view (view := State.mem)]
  · exact fun t c r b => State.conclude_mem
  · exact fun t f => rfl
  · exact fun t r => by rw [State.coreRequestEnd_frame]

theorem State.killedQueues_mem : (s.killedQueues j).mem = s.mem := by
  have hmem : (s.clearQueues j).mem = s.mem := State.clearQueues_view (view := State.mem) fun _ _ => rfl
  unfold State.killedQueues
  split_ifs
  · exact State.dropHeld_mem.trans hmem
  · exact hmem

theorem State.killedQueues_undefinedOuts : (s.killedQueues j).undefinedOuts c = s.undefinedOuts c := by
  have houts (t : State) : t.undefinedOuts c = State.undefinedOuts { t.outsideKill with mem := t.mem } c := rfl
  refine (houts _).trans (Eq.trans ?_ (houts s).symm)
  rw [State.killedQueues_killed.outside, State.killedQueues_mem]

/-- From s to t the one queued command `c` of job `j` has been killed. -/
structure JobKilled (s t : State) (j : Nat) (c : Cmd) : Prop where
  queue : ∀ e, e < 11 → t.queue e j = []
  status : (t.engRegs c.engine).lastStatus = stKilled
  lastFail : (t.slot j).lastFail = stKilled
  fails : (t.slot j).fails = satAdd 32 (s.slot j).fails 1
  ktl : t.ktl = s.ktl
  memory : ∀ a, s.leaves c a → t.mem.byte a = s.mem.byte a

theorem State.killJob_queued (hjob : s.hasJob j = true) (hlive : s.live = []) (hcj : c.job = j)
    (hqueued : ((List.range 11).flatMap fun e => s.queue e j) = [c]) : JobKilled s (s.killJob j) j c := by
  have hkill : s.killJob j = (s.killedQueues j).endKilled c := by
    rw [← kill_queued hjob (by rw [hlive]; exact fun l hl => absurd hl List.not_mem_nil) hqueued, kill, if_pos hjob]
  obtain ⟨hqueue, hstatus, hlastFail, hfails, -, -, honly⟩ := kill_done (s := s) State.killedQueues_killed hcj
  rw [← hkill] at hqueue hstatus hlastFail hfails honly
  refine ⟨hqueue, hstatus, hlastFail, hfails, by rw [honly], fun a ha => ?_⟩
  have hleaves : (s.killedQueues j).leaves c a := ⟨ha.1, State.killedQueues_undefinedOuts.symm ▸ ha.2⟩
  rw [hkill, State.endKilled, State.complete_spares ha.1, State.failOutputs_byte hleaves, State.killedQueues_mem]

/-! ### A running task is killed -/

/-- No task of a core is the command. -/
def State.FreeOf (s : State) (c : Cmd) (k : Nat) : Prop := ∀ x ∈ (s.core k).tasks, x.same c = false

/-- The state but for what stopping a task touches. -/
def State.outsideTasks (s : State) : State := { s with cores := [], fab := {} }

theorem State.dropRequests_tasks : ((s.dropRequests k).core i).tasks = (s.core i).tasks := by
  have hcore : (s.dropRequests k).core i = { s.core i with creditReqs := (s.core i).creditReqs.filter fun r => r.core != k } :=
    tget_map (d := ({} : Core)) (f := fun x => { x with creditReqs := x.creditReqs.filter fun r => r.core != k }) rfl s.cores i
  rw [hcore]

/-- Before its tasks are sorted out, a core keeps them. -/
theorem State.stopTask_tasks : ((s.stopTask c k).core i).tasks =
    if i = k then (s.core i).tasks.filter fun x => !x.same c else (s.core i).tasks := by
  have hdropped : (((s.dropRequests k).modCore k Core.drop).core i).tasks = (s.core i).tasks := by
    rw [State.core_modCore_view (view := Core.tasks) (f := Core.drop) fun _ => rfl, State.dropRequests_tasks]
  have hbefore : ((if ((s.core k).tasks.head?).any c.same = true then (s.dropRequests k).modCore k Core.drop else s).core i).tasks =
      (s.core i).tasks := by
    split_ifs
    · exact hdropped
    · rfl
  rw [State.stopTask, State.nextTask_tasks]
  by_cases hik : i = k
  · subst hik
    rw [if_pos rfl, State.core_modCore]
    exact congrArg (List.filter fun x => !x.same c) hbefore
  · rw [if_neg hik, State.core_modCore_ne hik, hbefore]

theorem State.stopTask_freeOf_self : (s.stopTask c k).FreeOf c k := by
  intro x hx
  rw [State.stopTask_tasks, if_pos rfl] at hx
  simpa using (List.mem_filter.1 hx).2

theorem State.stopTask_freeOf (h : s.FreeOf c i) : (s.stopTask c k).FreeOf c i := by
  intro x hx
  rw [State.stopTask_tasks] at hx
  split_ifs at hx
  · exact h x (List.mem_filter.1 hx).1
  · exact h x hx

theorem State.stopTask_outsideTasks : (s.stopTask c k).outsideTasks = s.outsideTasks := by
  have hnext (t : State) : (t.nextTask k).outsideTasks = t.outsideTasks :=
    congrArg (fun x : State => { x with fab := {} }) State.nextTask_outsideCores
  rw [State.stopTask, hnext]
  split_ifs <;> rfl

/-- A task stopped on cores. -/
def State.stopTasks (s : State) (c : Cmd) (ks : List Nat) : State := ks.foldl (fun s k => s.stopTask c k) s

theorem State.stopTasks_outsideTasks {ks : List Nat} : (s.stopTasks c ks).outsideTasks = s.outsideTasks :=
  foldl_keeps_view (view := State.outsideTasks) (f := fun (s : State) k => s.stopTask c k) (fun _ _ => State.stopTask_outsideTasks) ks s

theorem State.stopTasks_freeOf {ks : List Nat} (h : s.FreeOf c i) : (s.stopTasks c ks).FreeOf c i := by
  induction ks generalizing s with
  | nil => exact h
  | cons k ks ih => exact ih (State.stopTask_freeOf h)

theorem State.stopTasks_freeOf_mem {ks : List Nat} (hi : i ∈ ks) : (s.stopTasks c ks).FreeOf c i := by
  induction ks generalizing s with
  | nil => cases hi
  | cons k ks ih =>
    rcases List.mem_cons.1 hi with rfl | hi
    · exact State.stopTasks_freeOf (ks := ks) State.stopTask_freeOf_self
    · exact ih hi

theorem State.undo_task (h : c.engine = 1) : s.undo c = s.stopTasks c c.cores := by
  rw [State.undo, h]
  rfl

theorem State.dropHeld_live : (s.dropHeld j).live = s.live := by
  rw [State.dropHeld_view (view := State.live)]
  · exact fun t c r b => State.conclude_live
  · exact fun t f => rfl
  · exact fun t r => by rw [State.coreRequestEnd_frame]

theorem State.killedQueues_live : (s.killedQueues j).live = s.live := by
  have hlive : (s.clearQueues j).live = s.live := State.clearQueues_view (view := State.live) fun _ _ => rfl
  unfold State.killedQueues
  split_ifs
  · exact State.dropHeld_live.trans hlive
  · exact hlive

/-- The account of a command that ends with a failure. -/
theorem State.complete_lastFail {st d : Nat} (hst : st ≠ 0) : ((s.complete c st d).slot c.job).lastFail = st := by
  obtain ⟨run, hrun⟩ := State.complete_slot (s := s) (c := c) (st := st) (d := d) (sub := 0) (counts := true)
  have hfault : ((s.complete c st d).slot c.job).fault = (((s.slot c.job).inState run).accounted st).fault := by
    rw [hrun, JobSlot.signalled_kept.2.2]
  rw [JobSlot.accounted, if_neg hst] at hfault
  exact congrArg Prod.fst hfault

theorem State.view_of_outsideTasks {α : Type} {view : State → α} (hview : ∀ x : State, view x.outsideTasks = view x)
    (h : t.outsideTasks = s.outsideTasks) : view t = view s := by rw [← hview t, h, hview]

theorem State.view_of_outsideKill {α : Type} {view : State → α} (hview : ∀ x : State, view x.outsideKill = view x)
    (h : t.outsideKill = s.outsideKill) : view t = view s := by rw [← hview t, h, hview]

/-- From s to t the task that runs has been killed. -/
structure TaskKilled (s t : State) (c : Cmd) : Prop where
  live : t.live = []
  status : (t.engRegs 1).lastStatus = stKilled
  lastFail : (t.slot c.job).lastFail = stKilled
  tasks : ∀ k ∈ c.cores, t.FreeOf c k
  ktl : t.ktl = s.ktl

theorem State.killJob_running (hlive : s.live = [l]) (hjob : l.cmd.job = j) (hstop : s.canStop l = true)
    (hnone : ∀ e, e < 11 → s.queue e j = []) : s.killJob j = (s.killedQueues j).killOne l.cmd := by
  have hrunning : (s.live.filter fun l => l.cmd.job == j && s.canStop l).map (·.cmd) = [l.cmd] := by simp [hlive, hjob, hstop]
  have hqueued : ((List.range 11).flatMap fun e => s.queue e j) = [] :=
    List.flatMap_eq_nil_iff.2 fun e he => hnone e (List.mem_range.1 he)
  rw [State.killJob, hrunning, hqueued]
  rfl

theorem State.killJob_task (hlive : s.live = [l]) (hjob : l.cmd.job = j) (hengine : l.cmd.engine = 1) (hstop : s.canStop l = true)
    (hnone : ∀ e, e < 11 → s.queue e j = []) (hloads : s.pfx.loads = []) : TaskKilled s (s.killJob j) l.cmd := by
  have hbefore := State.killedQueues_killed (s := s) (j := j)
  have houtside := (State.stopTasks_outsideTasks (s := s.killedQueues j) (c := l.cmd) (ks := l.cmd.cores))
  have hpfx : (((s.killedQueues j).stopTasks l.cmd l.cmd.cores).endKilled l.cmd).pfx.loads = [] := by
    have hstopped : ((s.killedQueues j).stopTasks l.cmd l.cmd.cores).pfx = (s.killedQueues j).pfx := State.view_of_outsideTasks (view := State.pfx) (fun _ => rfl) houtside
    have hqueues : (s.killedQueues j).pfx = s.pfx := State.view_of_outsideKill (view := State.pfx) (fun _ => rfl) hbefore.outside
    rw [State.endKilled, State.complete_pfx, State.failOutputs_pfx, hstopped, hqueues, hloads]
  have hkill : s.killJob j = ((s.killedQueues j).stopTasks l.cmd l.cmd.cores).endKilled l.cmd := by
    rw [State.killJob_running hlive hjob hstop hnone, State.killOne, State.undo_task hengine]
    exact State.settleLoads_none hpfx
  rw [hkill]
  refine ⟨?_, ?_, State.complete_lastFail (by decide), fun k hk x hx => ?_, ?_⟩
  · have hstarted : ((s.killedQueues j).stopTasks l.cmd l.cmd.cores).live = (s.killedQueues j).live := State.view_of_outsideTasks (view := State.live) (fun _ => rfl) houtside
    rw [State.endKilled, State.complete_live, State.failOutputs_live, hstarted, State.killedQueues_live, hlive]
    simp [Cmd.same]
  · rw [← hengine]
    exact State.complete_lastStatus
  · rw [State.endKilled, State.core_of_cores State.complete_cores, State.core_of_cores State.failOutputs_cores] at hx
    exact State.stopTasks_freeOf_mem hk x hx
  · have hstopped : ((s.killedQueues j).stopTasks l.cmd l.cmd.cores).ktl = (s.killedQueues j).ktl := State.view_of_outsideTasks (view := State.ktl) (fun _ => rfl) houtside
    have hqueues : (s.killedQueues j).ktl = s.ktl := State.view_of_outsideKill (view := State.ktl) (fun _ => rfl) hbefore.outside
    rw [State.endKilled, State.complete_ktl, State.failOutputs_ktl, hstopped, hqueues]

/-! ### OVERDRAW_KILL -/

/-- What OVERDRAW_KILL does beside the KILL of the jobs. -/
def State.endOverdraw (s : State) : State :=
  let s1 := (s.rampsOver.ktlAlarm 0xFF).ktlEvt 1
  { s1 with ktl := { s1.ktl with cntKill := s1.ktl.cntKill + 1, overdrawSince := none } }

theorem State.endOverdraw_frame :
    s.endOverdraw = { s with ktl := s.endOverdraw.ktl, log := s.endOverdraw.log, out := s.endOverdraw.out } := by
  simp only [State.endOverdraw, State.ktlEvt, State.ktlAlarm, State.event, State.offer, State.rampsOver]

theorem State.endOverdraw_queues : (s.endOverdraw).queues = s.queues := by rw [State.endOverdraw_frame]

theorem State.endOverdraw_eng : (s.endOverdraw).eng = s.eng := by rw [State.endOverdraw_frame]

theorem State.endOverdraw_jobs : (s.endOverdraw).jobs = s.jobs := by rw [State.endOverdraw_frame]

theorem State.endOverdraw_mem : (s.endOverdraw).mem = s.mem := by rw [State.endOverdraw_frame]

theorem State.endOverdraw_live : (s.endOverdraw).live = s.live := by rw [State.endOverdraw_frame]

theorem State.endOverdraw_cores : (s.endOverdraw).cores = s.cores := by rw [State.endOverdraw_frame]

theorem overdrawKill_kills (hsince : s.ktl.overdrawSince = some n) (hdue : n + 1000000 ≤ s.boot.sincePwrOk) :
    overdrawKill s = (s.killEach (List.range 8)).endOverdraw := by
  simp only [overdrawKill, hsince, if_pos hdue, State.killAll_eq, State.endOverdraw]

theorem overdrawKill_waits (hsince : s.ktl.overdrawSince = some n) (hearly : s.boot.sincePwrOk < n + 1000000) : overdrawKill s = s := by
  simp only [overdrawKill, hsince, if_neg (Nat.not_le.2 hearly)]

/-! ### Heat, R468 -/

/-- The readings of a sample. -/
def State.read (s : State) (rs : List (BitVec 16)) : State :=
  { s with ktl := { s.ktl with
      heatAt := some (s.boot.sincePwrOk / 100000)
      temps := (List.range (min rs.length 11)).foldl (fun t n => tset 0 t n (rs.getD n 0)) s.ktl.temps } }

theorem thermalSample_reads {rs : List (BitVec 16)} (hon : s.pwr.pwrOk = true) (hdue : s.ktl.heatAt ≠ some (s.boot.sincePwrOk / 100000)) :
    thermalSample rs s = (s.read rs).heat := by
  rw [thermalSample, if_pos (by simpa [hon] using hdue)]
  rfl

/-- What TRIP does beside the KILL of the jobs. -/
def State.trip (s : State) (n : Nat) : State :=
  let s1 := (s.rampsOver.ktlAlarm n).ktlEvt 9
  { s1 with ktl := { s1.ktl with therm := 2, belowSince := none, bcap := 0 } }

theorem State.trip_frame : s.trip n = { s with ktl := (s.trip n).ktl, log := (s.trip n).log, out := (s.trip n).out } := by
  simp only [State.trip, State.ktlEvt, State.ktlAlarm, State.event, State.offer, State.rampsOver]

theorem State.trip_queues : (s.trip n).queues = s.queues := by rw [State.trip_frame]

theorem State.trip_eng : (s.trip n).eng = s.eng := by rw [State.trip_frame]

theorem State.trip_jobs : (s.trip n).jobs = s.jobs := by rw [State.trip_frame]

theorem State.heat_shutdown (hshut : s.hot (·.2.2) = some n) :
    s.heat = { s.ktlAlarm n with pwr := { (s.ktlAlarm n).pwr with internalEnable := false } } := by
  simp only [State.heat, hshut]

theorem State.heat_trip (hshut : s.hot (·.2.2) = none) (htrip : s.hot (·.2.1) = some n) (htherm : s.ktl.therm ≠ 2) :
    s.heat = (s.killEach (List.range 8)).trip n := by
  simp only [State.heat, hshut, htrip, if_neg htherm, State.killAll_eq, State.trip]

theorem State.heat_warn (hshut : s.hot (·.2.2) = none) (htrip : s.hot (·.2.1) = none) (hwarn : s.hot (·.1) = some n) (htherm : s.ktl.therm = 0) :
    s.heat = { (s.ktlAlarm n).ktlEvt 8 with ktl := { ((s.ktlAlarm n).ktlEvt 8).ktl with therm := 1, bcap := 0 } } := by
  simp only [State.heat, hshut, htrip, hwarn, if_pos htherm]

/-! ### The statement -/

/-- Settles O38: the control law by its arithmetic, an overdraw and a TRIP by the KILL of the one job there is. -/
theorem kettleControlAndHeat : Obligations.KettleControlAndHeat := by
  unfold Obligations.KettleControlAndHeat
  refine ⟨?ballast, ?begins, ?law, ?notDue, ?rampEnds, ?overNoJob, ?overQueued, ?overTask, ?overEarly, ?noOverdraw, ?shutdown, ?tripNoJob,
    ?tripQueued, ?warn, ?noHeat, ?clear, ?noClear⟩
  case ballast =>
    intro s v i o hon hdue ho hballast
    have hstep := kettleControlStep_ballast hon hdue ho hballast
    have hkept {α : Type} {view : State → α} (hview : ∀ t b, view (State.ktlEvt t b) = view t) := State.sample_view (s := s) (v := v) (i := i)
      (o := o) hview
    refine ⟨_, congrArg Host.Outcome.next hstep, hkept (view := fun t => t.ktl.sPrev) fun _ _ => rfl,
      hkept (view := fun t => t.ktl.ballast) fun _ _ => rfl, hkept (view := fun t => t.ktl.stepAt) fun _ _ => rfl,
      hkept (view := fun t => t.ktl.draws) fun _ _ => rfl, hkept (view := fun t => t.ktl.energy) fun _ _ => rfl,
      hkept (view := fun t => t.ktl.sampleTick) fun _ _ => rfl, rfl, ?_, fun hexcess => State.sampleEvents_excess hexcess, ?_⟩
    · refine (hkept (view := fun t => t.ktl.cntSlew) fun _ _ => rfl).trans ?_
      show (if o.excess then s.ktl.cntSlew + 1 else s.ktl.cntSlew) = _
      split_ifs <;> rfl
    · exact State.eq_of_outsideKtl State.sample_outsideKtl
  case begins =>
    intro s v i hon hdue hcap hdraws hnone habove
    obtain ⟨o, ho⟩ : ∃ o, controlStep (4 * v * i - s.ktl.applied s.boot.sincePwrOk) s.ktl.sPrev (s.envNow.floor * 1000000)
        (s.envNow.slewUp * 100000) (s.envNow.slewDn * 100000)
        ((min (min (s.envNow.ceil1ms * 1000000) (s.envNow.ceil1s * 1000000)) (90000 * v) : Nat) : Int) s.rampUp s.rampDown s.ballastCap = o :=
      ⟨_, rfl⟩
    have hzero : o.b = 0 := by
      rw [← ho, hcap]
      exact controlStep_noBallast
    have hover : (s.sample v i o).overdraw o.b v = true := by
      rw [hzero]
      exact State.overdraw_above (State.sample_draws hdraws) (by rwa [State.sample_envNow])
    have hstep := kettleControlStep_begins hon hdue ho hover hnone
    have hframe := State.eq_of_outsideKtl (State.sample_outsideKtl (s := s) (v := v) (i := i) (o := o))
    generalize s.sample v i o = w at hstep hframe
    exact ⟨_, congrArg Host.Outcome.next hstep, rfl, rfl, State.ktlEvt_bit (by decide), (by rw [hframe]; rfl), (by rw [hframe]; rfl)⟩
  case law =>
    intro w p f u d l a b c hc
    refine ⟨controlStep_covers, min_le_right _ _, fun habove => ⟨controlStep_above habove, ?_⟩, controlStep_within⟩
    rw [controlStep_ballast, controlStep_above habove, Int.sub_self]
    exact min_eq_left hc
  case notDue =>
    intro s v i hnot
    have hstays : kettleControlStep v i s = s := if_neg (by rcases hnot with h | h <;> simp [h])
    exact congrArg Host.Outcome.next hstays
  case rampEnds =>
    intro s n hn
    refine ⟨rampUntil n s, if_pos hn, List.map_congr_left fun r _ => ?_, rfl⟩
    simp only [Bool.and_eq_true, decide_eq_true_eq, and_assoc]
  case overNoJob =>
    intro s n hsince hdue hnone
    have hkill := overdrawKill_kills hsince hdue
    rw [State.killEach_noJob hnone] at hkill
    exact ⟨_, congrArg Host.Outcome.next hkill, rfl, rfl, State.ktlEvt_bit (by decide), fun r hr => State.rampsOver_over hr,
      List.length_append, State.endOverdraw_frame⟩
  case overQueued =>
    intro s n j c hsince hdue hj hjob hothers hlive hcj hqueued _
    have hkill := overdrawKill_kills hsince hdue
    rw [State.killEach_oneJob hj hjob hothers] at hkill
    obtain ⟨hqueue, hstatus, hlastFail, hfails, hktl, hmem⟩ := State.killJob_queued hjob hlive hcj hqueued
    generalize s.killJob j = w at hkill hqueue hstatus hlastFail hfails hktl hmem
    have hcount : w.ktl.cntKill + 1 = s.ktl.cntKill + 1 := by rw [hktl]
    have hslot : w.endOverdraw.slot j = w.slot j := State.slot_of_jobs State.endOverdraw_jobs
    refine ⟨_, congrArg Host.Outcome.next hkill, fun e he => ?_, ?_, ?_, ?_, hcount, rfl, State.ktlEvt_bit (by decide),
      fun r hr => State.rampsOver_over hr, fun a ha => ?_⟩
    · rw [State.queue, State.endOverdraw_queues]
      exact hqueue e he
    · rw [State.engRegs_of_eng State.endOverdraw_eng]
      exact hstatus
    · rw [hslot]
      exact hlastFail
    · rw [hslot, hfails]
    · rw [State.endOverdraw_mem, hmem a ha]
  case overTask =>
    intro s n j l hsince hdue hj hjob hothers hlive hlj hengine hstop hqueues hloads
    have hkill := overdrawKill_kills hsince hdue
    rw [State.killEach_oneJob hj hjob hothers] at hkill
    obtain ⟨hlive', hstatus, hlastFail, htasks, hktl⟩ := State.killJob_task hlive hlj hengine hstop hqueues hloads
    rw [hlj] at hlastFail
    generalize s.killJob j = w at hkill hlive' hstatus hlastFail htasks hktl
    have hcount : w.ktl.cntKill + 1 = s.ktl.cntKill + 1 := by rw [hktl]
    refine ⟨_, congrArg Host.Outcome.next hkill, ?_, ?_, ?_, fun k hk x hx => ?_, hcount, rfl⟩
    · rw [State.endOverdraw_live, hlive']
    · rw [State.engRegs_of_eng State.endOverdraw_eng]
      exact hstatus
    · rw [State.slot_of_jobs State.endOverdraw_jobs]
      exact hlastFail
    · rw [State.core_of_cores State.endOverdraw_cores] at hx
      exact htasks k hk x hx
  case overEarly => exact fun s n hsince hearly => congrArg Host.Outcome.next (overdrawKill_waits hsince hearly)
  case noOverdraw =>
    intro s hnone
    have hstays : overdrawKill s = s := by rw [overdrawKill, hnone]
    exact congrArg Host.Outcome.next hstays
  case shutdown =>
    intro s u rs n hon hdue hu hshut
    have hreads := thermalSample_reads (rs := rs) hon hdue
    rw [show s.read rs = u from hu, State.heat_shutdown hshut] at hreads
    subst hu
    exact ⟨_, congrArg Host.Outcome.next hreads, rfl, rfl⟩
  case tripNoJob =>
    intro s u rs n hon hdue hu hshut htrip htherm hnone
    have hreads := thermalSample_reads (rs := rs) hon hdue
    rw [show s.read rs = u from hu, State.heat_trip hshut htrip (by rw [← hu]; exact htherm),
      State.killEach_noJob (by rw [← hu]; exact hnone)] at hreads
    subst hu
    exact ⟨_, congrArg Host.Outcome.next hreads, rfl, rfl, rfl, State.ktlEvt_bit (by decide), fun r hr => State.rampsOver_over hr,
      State.trip_frame⟩
  case tripQueued =>
    intro s u rs n j c hon hdue hu hshut htrip htherm hj hjob hothers hlive hcj hqueued
    have hreads := thermalSample_reads (rs := rs) hon hdue
    rw [show s.read rs = u from hu, State.heat_trip hshut htrip (by rw [← hu]; exact htherm),
      State.killEach_oneJob hj (by rw [← hu]; exact hjob) (by rw [← hu]; exact hothers)] at hreads
    obtain ⟨hqueue, hstatus, hlastFail, -, -, -⟩ := State.killJob_queued (s := u) (by rw [← hu]; exact hjob) (by rw [← hu]; exact hlive) hcj
      (by rw [← hu]; exact hqueued)
    generalize u.killJob j = w at hreads hqueue hstatus hlastFail
    refine ⟨_, congrArg Host.Outcome.next hreads, fun e he => ?_, ?_, ?_, rfl, rfl, rfl, State.ktlEvt_bit (by decide)⟩
    · rw [State.queue, State.trip_queues]
      exact hqueue e he
    · rw [State.engRegs_of_eng State.trip_eng]
      exact hstatus
    · rw [State.slot_of_jobs State.trip_jobs]
      exact hlastFail
  case warn =>
    intro s u rs n hon hdue hu hshut htrip hwarn htherm
    have hreads := thermalSample_reads (rs := rs) hon hdue
    rw [show s.read rs = u from hu, State.heat_warn hshut htrip hwarn (by rw [← hu]; exact htherm)] at hreads
    exact ⟨_, congrArg Host.Outcome.next hreads, rfl, rfl, State.ktlEvt_bit (by decide), rfl⟩
  case noHeat =>
    intro s rs hnot
    have hstays : thermalSample rs s = s := if_neg (by rcases hnot with h | h <;> simp [h])
    exact congrArg Host.Outcome.next hstays
  case clear =>
    intro s n hsince htherm hdue
    have hclears : thermalTripClear s = { s with ktl := { s.ktl with therm := if s.coolBy 48 then 0 else 1, belowSince := none } } := by
      rw [thermalTripClear, hsince]
      exact if_pos (by simp [htherm, hdue])
    exact ⟨_, congrArg Host.Outcome.next hclears, rfl, rfl⟩
  case noClear =>
    intro s hnone
    have hstays : thermalTripClear s = s := by rw [thermalTripClear, hnone]
    exact congrArg Host.Outcome.next hstays

end Sys2Proof.Machine

/-!
PROOF. The write of LOG_RD (O40), with a read index that 64 bits do not hold.
-/

namespace Sys2Proof.Machine

/-- A read index of 2^64: of LOG_RD's 64 bits none is set. -/
def longLog : State := { log := { rd := 2 ^ 64 } }

/-- A write of LOG_RD reaches the 64 bits of the register, and leaves the index's bit 64 as it was. -/
theorem longLog_merged : mergeWrite .whole 0xFFFFFFFFFFFFFFFF longLog.log.rd (0 : BitVec 64).toNat = 2 ^ 64 := by decide

/-- Above LOG_WR, the written index is taken as LOG_WR, which is 0. -/
theorem longLog_taken : (logRdWrite .whole 0 longLog).log.rd = 0 := by decide

/-- Refutes O40: in `longLog` a write of 0 to LOG_RD, below the read index 2^64, moves the index to LOG_WR, where the clause of a lower value says
that the write is ignored. -/
theorem not_troubleLogRows : ¬ Obligations.TroubleLogRows := by
  unfold Obligations.TroubleLogRows
  rintro ⟨-, -, -, -, -, -, -, -, -, hlower, -⟩
  have hignored : Host.Outcome.next (logRdWrite .whole 0 longLog) = Host.Outcome.next longLog := hlower longLog 0 (by decide)
  have hrd : (logRdWrite .whole 0 longLog).log.rd = longLog.log.rd := by rw [Host.Outcome.next.inj hignored]
  rw [longLog_taken] at hrd
  exact absurd hrd (by decide)

end Sys2Proof.Machine

/-!
PROOF. Envelope messages and telemetry (O39): the layout of Table 19-2 field by field, then each row by what it leaves of Kettle.
-/

namespace Sys2Proof.Machine

variable {s t u : State} {m : EnvMsg} {f : BitVec 16} {b x y : List Byte} {i n v : Nat}

/-! ### The layout of a message, Table 19-2 -/

theorem takeBytes_left : takeBytes x.length (x ++ y) = x := by
  induction x with
  | nil => rfl
  | cons z x ih => exact congrArg (z :: ·) ih

/-- A field behind a part of a byte string. -/
theorem leAt_append_right (h : x.length ≤ i) : leAt (x ++ y) i n = leAt y (i - x.length) n := by
  rw [leAt, leAt, slice, slice, List.drop_append, List.drop_eq_nil_of_le h, List.nil_append]

/-- A field at the head of a byte string. -/
theorem leAt_leBytes (h : v < 256 ^ n) : leAt (leBytes n v ++ y) 0 n = v := by
  have htake := takeBytes_left (x := leBytes n v) (y := y)
  rw [leBytes_length] at htake
  rw [leAt, slice, List.drop_zero, htake, leNat_leBytes h]

/-- A field behind another. -/
theorem leAt_skip {k w : Nat} (h : k ≤ i) : leAt (leBytes k w ++ y) i n = leAt y (i - k) n := by
  rw [leAt_append_right (by rwa [leBytes_length]), leBytes_length]

/-- The fields of a message, in order. -/
def messageFields (m : EnvMsg) : List Byte :=
  leBytes 4 m.seq.toNat ++ (leBytes 8 m.at' ++ (leBytes 8 m.expiry ++ (leBytes 2 m.ceil1ms ++ (leBytes 2 m.ceil1s ++ (leBytes 2 m.floor ++
    (leBytes 2 m.slewUp ++ (leBytes 2 m.slewDn ++ zeros 206)))))))

theorem messageFields_rest : ([0x21, 0, 0, 0] ++ messageFields m).drop 34 = zeros 206 := by
  simp [messageFields, List.drop_append, leBytes_length, List.drop_eq_nil_of_le]

/-- Every field is read where Table 19-2 puts it. -/
theorem messageFields_at (hat : m.at' < 2 ^ 64) (hexpiry : m.expiry < 2 ^ 64) (hms : m.ceil1ms < 65536) (hs : m.ceil1s < 65536)
    (hfloor : m.floor < 65536) (hup : m.slewUp < 65536) (hdn : m.slewDn < 65536) :
    leAt (messageFields m) 0 4 = m.seq.toNat ∧ leAt (messageFields m) 4 8 = m.at' ∧ leAt (messageFields m) 12 8 = m.expiry ∧
      leAt (messageFields m) 20 2 = m.ceil1ms ∧ leAt (messageFields m) 22 2 = m.ceil1s ∧ leAt (messageFields m) 24 2 = m.floor ∧
      leAt (messageFields m) 26 2 = m.slewUp ∧ leAt (messageFields m) 28 2 = m.slewDn := by
  have hseq : m.seq.toNat < 256 ^ 4 := m.seq.isLt
  simp only [Nat.reducePow] at hat hexpiry hseq
  simp [messageFields, leAt_skip, leAt_leBytes, hat, hexpiry, hms, hs, hfloor, hup, hdn, hseq]

theorem parseEnvelope_messageFields (hat : m.at' < 2 ^ 64) (hexpiry : m.expiry < 2 ^ 64) (hms : m.ceil1ms < 65536) (hs : m.ceil1s < 65536)
    (hfloor : m.floor < 65536) (hup : m.slewUp < 65536) (hdn : m.slewDn < 65536) :
    parseEnvelope ([0x21, 0, 0, 0] ++ messageFields m) = some m := by
  have hhead : leAt ([0x21, 0, 0, 0] ++ messageFields m) 0 1 = 0x21 ∧ leAt ([0x21, 0, 0, 0] ++ messageFields m) 1 3 = 0 := ⟨rfl, rfl⟩
  have hrest : (([0x21, 0, 0, 0] ++ messageFields m).drop 34).all (· == 0) = true := by
    rw [messageFields_rest]
    decide
  have hfield {k n : Nat} (hk : 4 ≤ k) : leAt ([0x21, 0, 0, 0] ++ messageFields m) k n = leAt (messageFields m) (k - 4) n := leAt_append_right hk
  obtain ⟨hseqAt, hatAt, hexpiryAt, hmsAt, hsAt, hfloorAt, hupAt, hdnAt⟩ := messageFields_at hat hexpiry hms hs hfloor hup hdn
  rw [parseEnvelope, if_pos (by rw [hhead.1, hhead.2, hrest]; rfl), hfield (by decide), hfield (by decide), hfield (by decide),
    hfield (by decide), hfield (by decide), hfield (by decide), hfield (by decide), hfield (by decide)]
  simp only [Nat.reduceSub, hseqAt, hatAt, hexpiryAt, hmsAt, hsAt, hfloorAt, hupAt, hdnAt, BitVec.ofNat_toNat, BitVec.setWidth_eq]

/-! ### A message that has come, R462 -/

theorem envelopeMessage_unparsed (hparse : parseEnvelope b = none) : envelopeMessage f b s = s.ktlEvt 7 := by rw [envelopeMessage, hparse]; rfl

theorem envelopeMessage_parsed (hparse : parseEnvelope b = some m) : envelopeMessage f b s = s.takeEnvelope f m := by
  rw [envelopeMessage, hparse]
  rfl

/-- A message with its instant, in the queue. -/
def State.queueMessage (s : State) (m : EnvMsg) (at' : Nat) : State :=
  { s with ktl := { s.ktl with msgSeq := m.seq, msgAny := true, msgQueue := s.ktl.msgQueue ++ [{ m with at' }] } }

section
variable (hsource : f ≠ 0xFFFF) (hmaster : f.toNat = field (s.st 0x030018) 15 0) (hahead : s.seqAhead m.seq = true)
include hsource hmaster hahead

theorem State.takeEnvelope_accepts : s.takeEnvelope f m =
    if roundUp m.at' frameLen < s.now then (s.queueMessage m ((s.now / frameLen + 1) * frameLen)).ktlEvt 6
    else s.queueMessage m (roundUp m.at' frameLen) := by
  have hother : (f != 0xFFFF) = true := bne_iff_ne.2 hsource
  rw [State.takeEnvelope, if_pos (by rw [hother, hahead, decide_eq_true hmaster]; rfl)]
  by_cases hlate : roundUp m.at' frameLen < s.now
  · simp only [hlate, decide_true, if_true]
    rfl
  · simp only [hlate, decide_false, if_false, Bool.false_eq_true]
    rfl

end

theorem State.takeEnvelope_rejects (hnot : f.toNat ≠ field (s.st 0x030018) 15 0 ∨ s.seqAhead m.seq = false) :
    s.takeEnvelope f m = s.ktlEvt 7 := by
  rw [State.takeEnvelope, if_neg]
  rcases hnot with h | h <;> simp [h]

/-! ### A message in force, R461, R462 -/

/-- Of the messages in the queue the first alone is due. -/
theorem firstMessage_due {r : List EnvMsg} {now : Nat} (hdue : m.at' ≤ now) (hrest : ∀ x ∈ r, now < x.at') :
    (List.range (m :: r).length).filter (fun i => decide (((m :: r).getD i {}).at' ≤ now)) = [0] := by
  rw [List.length_cons, List.range_succ_eq_map, List.filter_cons_of_pos (by simpa using hdue)]
  refine congrArg (0 :: ·) (List.filter_eq_nil_iff.2 fun i hi => ?_)
  obtain ⟨k, hk, rfl⟩ := List.mem_map.1 hi
  have hlt : k < r.length := List.mem_range.1 hk
  have hlater := hrest _ (List.getElem_mem hlt)
  simpa [List.getD_eq_getElem?_getD, hlt] using hlater

/-- The first message of the queue, in force. -/
def State.takeFirst (s : State) (m : EnvMsg) (r : List EnvMsg) : State :=
  State.ktlEvt { s.markRamps with ktl := { s.markRamps.ktl with msgActive := some m, msgQueue := r } } 5

theorem envelopeInForce_first {r : List EnvMsg} (hqueue : s.ktl.msgQueue = m :: r) (hdue : m.at' ≤ s.now) (hcounting : s.counting = true)
    (hrest : ∀ x ∈ r, s.now < x.at') : envelopeInForce s = s.takeFirst m r := by
  simp only [envelopeInForce, hqueue, firstMessage_due hdue hrest, List.getLast?_singleton, hcounting, if_true]
  rfl

/-- A message without its limits leaves the blend's. -/
theorem State.envNow_of_none (h : s.ktl.msgActive = none) : s.envNow.ceil1ms = s.envBlend.ceil1ms := by rw [State.envNow, h]

theorem State.envNow_of_some (h : s.ktl.msgActive = some m) :
    s.envNow.ceil1ms = min s.envBlend.ceil1ms m.ceil1ms ∧ s.envNow.ceil1s = min s.envBlend.ceil1s m.ceil1s := by
  rw [State.envNow, h]
  exact ⟨rfl, rfl⟩

/-! ### Telemetry, R469 -/

/-- A telemetry period ends, and the next one starts. -/
def State.startPeriod (s : State) (now : Nat) : State :=
  { s with ktl := { s.ktl with telAt := some now, evtPeriod := 0, ballastSum := 0, ballastCount := 0, vinLow := 0xFFFF } }

theorem kettleTelemetry_due (hper : field (s.st 0x030018) 31 16 = n) (hn : n ≠ 0) (hcounting : s.counting = true)
    (hframe : s.now % (n * frameLen) = 0) (hnew : s.ktl.telAt ≠ some s.now) : kettleTelemetry s =
    (if s.creditTo (field (s.st 0x2F0010) 15 0) 6 then (s.inject 6 0x18 (field (s.st 0x2F0010) 15 0) 0 s.telemetry).getD s
      else { s with ktl := { s.ktl with cntTelDrop := s.ktl.cntTelDrop + 1 } }).startPeriod s.now := by
  rw [kettleTelemetry]
  simp only [hper]
  exact if_pos (by simp [hn, hcounting, hframe, hnew])

/-! ### The statement -/

/-- Settles O39: the layout of a message, and row by row what of Kettle it changes. -/
theorem envelopeMessages : Obligations.EnvelopeMessages := by
  unfold Obligations.EnvelopeMessages
  refine ⟨?layout, ?unparsed, ?accepted, ?late, ?rejected, ?inForce, ?noMessage, ?expires, ?stays, ?dropped, ?sent, ?sameTick, ?noPeriod⟩
  case layout =>
    intro m hat hexpiry hms hs hfloor hup hdn
    have hparse := parseEnvelope_messageFields hat hexpiry hms hs hfloor hup hdn
    simpa only [messageFields, List.append_assoc] using hparse
  case unparsed =>
    intro s f b hparse
    exact ⟨_, congrArg Host.Outcome.next (envelopeMessage_unparsed hparse), rfl, State.ktlEvt_bit (by decide), rfl⟩
  case accepted =>
    intro s f b m hparse hsource hmaster hahead hnow
    have htakes := (envelopeMessage_parsed (f := f) hparse).trans (State.takeEnvelope_accepts hsource hmaster hahead)
    rw [if_neg (Nat.not_lt.2 hnow)] at htakes
    exact ⟨_, congrArg Host.Outcome.next htakes, rfl⟩
  case late =>
    intro s f b m hparse hsource hmaster hahead hlate
    have htakes := (envelopeMessage_parsed (f := f) hparse).trans (State.takeEnvelope_accepts hsource hmaster hahead)
    rw [if_pos hlate] at htakes
    exact ⟨_, congrArg Host.Outcome.next htakes, rfl, State.ktlEvt_bit (by decide), rfl⟩
  case rejected =>
    intro s f b m hparse hnot
    have htakes := (envelopeMessage_parsed (f := f) hparse).trans (State.takeEnvelope_rejects hnot)
    exact ⟨_, congrArg Host.Outcome.next htakes, rfl, rfl, State.ktlEvt_bit (by decide), rfl⟩
  case inForce =>
    intro s m r hqueue hdue hcounting hrest
    have hforce := envelopeInForce_first hqueue hdue hcounting hrest
    obtain ⟨hms, hs⟩ := State.envNow_of_some (s := s.takeFirst m r) (m := m) rfl
    exact ⟨_, congrArg Host.Outcome.next hforce, rfl, rfl, rfl, State.ktlEvt_bit (by decide), rfl, hms, hs⟩
  case noMessage =>
    intro s hnone
    have hstays : envelopeInForce s = s := by rw [envelopeInForce, hnone]; rfl
    exact congrArg Host.Outcome.next hstays
  case expires =>
    intro s m hactive hexpiry hdue
    have hexpires : envelopeExpiry s = { s.markRamps with ktl := { s.markRamps.ktl with msgActive := none } } := by
      rw [envelopeExpiry, hactive]
      exact if_pos (by simp [hexpiry, hdue])
    exact ⟨_, congrArg Host.Outcome.next hexpires, rfl, State.envNow_of_none rfl⟩
  case stays =>
    intro s m hactive hexpiry
    have hstays : envelopeExpiry s = s := by
      rw [envelopeExpiry, hactive]
      exact if_neg (by simp [hexpiry])
    exact congrArg Host.Outcome.next hstays
  case dropped =>
    intro s n hper hn hcounting hframe hnew hcredit
    have hdue := kettleTelemetry_due hper hn hcounting hframe hnew
    rw [hcredit] at hdue
    exact ⟨_, congrArg Host.Outcome.next hdue, rfl⟩
  case sent =>
    intro s u n hper hn hcounting hframe hnew hcredit hsent
    have hdue := kettleTelemetry_due hper hn hcounting hframe hnew
    rw [hcredit, hsent] at hdue
    exact ⟨_, congrArg Host.Outcome.next hdue, rfl⟩
  case sameTick =>
    intro s hsame
    have hstays : kettleTelemetry s = s := if_neg (by simp [hsame])
    exact congrArg Host.Outcome.next hstays
  case noPeriod =>
    intro s hper
    have hstays : kettleTelemetry s = s := if_neg (by simp [hper])
    exact congrArg Host.Outcome.next hstays

end Sys2Proof.Machine

/-!
PROOF. INFUSER_STREAM_LATE (O41), of a command in the Infuser's queue that names another engine.
-/

namespace Sys2Proof.Machine

/-- A STREAM that waits in the Infuser's queue, and names the Strainer as its engine: at tick 1 its effective start, tick 0, has passed. -/
def misplacedStream : State :=
  { ht := { state := .root, count := 1 }, queues := [(48, [{ engine := 2, opcode := 1, job := 0 }])] }

theorem misplacedStream_queue : misplacedStream.queue 6 0 = [{ engine := 2, opcode := 1, job := 0 }] := rfl

/-- Its end counts as the end of a command of the Strainer. -/
theorem misplacedStream_counted : (infuserStreamLate misplacedStream).str.cntCmd = 1 := by decide

/-- Refutes O41: in `misplacedStream` the late STREAM ends as a command of the Strainer and counts in STR_CNT_CMD, where the clause of a late STREAM
in its queue says that only what commands touch changes. -/
theorem not_infusionStreams : ¬ Obligations.InfusionStreams := by
  unfold Obligations.InfusionStreams
  rintro ⟨-, -, hlate, -⟩
  obtain ⟨t, hends, -, -, -, honly⟩ := hlate misplacedStream 0 _ [] (by decide) misplacedStream_queue rfl rfl rfl (by decide)
    fun i hi => absurd hi (Nat.not_lt_zero i)
  have ht : infuserStreamLate misplacedStream = t := Host.Outcome.next.inj hends
  have hstr : t.str = misplacedStream.str := by rw [honly]
  rw [← ht] at hstr
  have hcount := congrArg Strainer.cntCmd hstr
  rw [misplacedStream_counted] at hcount
  exact absurd hcount (by decide)

end Sys2Proof.Machine

/-!
PROOF. Infusion sets (O42): each row by what it leaves of its set, of the timers and of the sequence table.
-/

namespace Sys2Proof.Machine

variable {s t u v : State} {c : Cmd} {e op st d i k n a : Nat} {b : List Byte} {one : Bool} {x : InfSet} {f : InfSet → InfSet} {q : AcceptRun}

/-! ### Sets, R379 -/

@[simp] theorem State.infSet_modSet : (s.modSet i f).infSet i = f (s.infSet i) := tget_tmod_self

theorem State.infSet_modSet_ne (h : k ≠ i) : (s.modSet i f).infSet k = s.infSet k := tget_tmod_ne h

theorem State.infSet_of_inf (h : t.inf = s.inf) : t.infSet i = s.infSet i := by rw [State.infSet, State.infSet, h]

theorem CommandBegun.inf (hbegun : CommandBegun s u c) : u.inf = s.inf :=
  show u.outsideCommands.inf = s.outsideCommands.inf from congrArg State.inf hbegun.outside

theorem CommandBegun.ht (hbegun : CommandBegun s u c) : u.ht = s.ht :=
  show u.outsideCommands.ht = s.outsideCommands.ht from congrArg State.ht hbegun.outside

theorem InfSet.region_setRegion {r : RegionState} : (x.setRegion one r).region one = r := by cases one <;> rfl

/-- What a region's change leaves of its set. -/
theorem InfSet.setRegion_swaps {r : RegionState} : (x.setRegion one r).swaps = x.swaps := by cases one <;> rfl

/-! ### The end of a command of the Infuser -/

/-- The command `c` has ended with OK; the Infuser is at `inf`, and outside the record memory is `m`. -/
structure InfEnded (t : State) (c : Cmd) (st : Nat) (inf : Infuser) (m : Memory) : Prop where
  status : (t.engRegs c.engine).lastStatus = st
  inf : t.inf = inf
  memory : ∀ a, c.spares a → t.mem.byte a = m.byte a

theorem infEnded_of_complete (ht : t = v.complete c st d) : InfEnded t c st v.inf v.mem := by
  obtain ⟨hstatus, -, hmemory⟩ := State.complete_ended (s := v) (c := c) (st := st) (d := d) (signals := true) (sub := 0) (counts := true) rfl
  exact ht ▸ ⟨hstatus, State.complete_inf, hmemory⟩

/-! ### ACCEPT, R384 -/

theorem State.namesFailures_acceptChecks : NamesFailures (s.acceptChecks c) := by
  have hset : NamesFailure (s.setCheck c (leAt (s.params c) 0 1)) := namesFailure_need (by decide)
  simp only [State.acceptChecks, namesFailures_cons, namesFailures_nil, namesFailure_zeroParams, hset, and_true, true_and]
  exact namesFailure_need (by decide)

/-- The ACCEPT that a parameter block asks for. -/
def acceptOf (c : Cmd) (b : List Byte) : AcceptRun :=
  { cmd := c, version := BitVec.ofNat 64 (leAt b 8 8), nshards := leAt b 2 2, done := [], deadline := leAt b 16 8 }

/-- An ACCEPT that runs in a region of its set. -/
def State.accepts (s : State) (c : Cmd) (i : Nat) (one : Bool) (q : AcceptRun) : State :=
  (s.addLive c true).modSet i fun x => { x.setRegion one .shadow with accept := some q }

theorem accept_passes (hbegins : s.begins 6 2 = some (u, c)) (hpasses : firstFail (u.acceptChecks c) = none) (hb : u.params c = b)
    (hi : leAt b 0 1 = i) (hshards : leAt b 2 2 ≠ 0) : accept s = u.accepts c i
      (if (u.infSet i).r0 == .free && (u.infSet i).r1 == .free then Config.freeRegion i else (u.infSet i).r1 == .free) (acceptOf c b) := by
  rw [accept, State.withHead_of_begins hbegins (by decide)]
  simp only [State.orFail_passes hpasses, hb, hi, if_neg hshards]
  rfl

theorem accept_fails (hbegins : s.begins 6 2 = some (u, c)) (hfails : firstFail (u.acceptChecks c) = some (st, d)) :
    accept s = u.complete c st d := by
  rw [accept, State.withHead_of_begins hbegins (by decide)]
  exact State.orFail_fails hfails

theorem State.accepts_infSet : (s.accepts c i one q).infSet i = { (s.infSet i).setRegion one .shadow with accept := some q } :=
  State.infSet_modSet

theorem State.accepts_frame : (s.accepts c i one q).live.length = s.live.length + 1 ∧
    s.accepts c i one q = { s with live := (s.accepts c i one q).live, inf := (s.accepts c i one q).inf } :=
  ⟨List.length_append, rfl⟩

/-- A set whose ACCEPT commits. -/
def InfSet.commit (x : InfSet) (q : AcceptRun) : InfSet :=
  match x.find .shadow with
  | some one => { x.setRegion one .ready with accept := none, readyVer := q.version }
  | none => { x with accept := none }

theorem InfSet.commit_shadow (hshadow : x.find .shadow = some one) :
    x.commit q = { x.setRegion one .ready with accept := none, readyVer := q.version } := by rw [InfSet.commit, hshadow]

/-- A set with its ACCEPT committed, before a swap that waits for it. -/
def State.committed (s : State) (i : Nat) (q : AcceptRun) : State := (s.modSet i fun x => x.commit q).complete q.cmd stOk 0

theorem State.committed_infSet : (s.committed i q).infSet i = (s.infSet i).commit q := by
  rw [State.committed, State.infSet_of_inf State.complete_inf, State.infSet_modSet]

theorem State.acceptCommit_eq : s.acceptCommit i q =
    (((s.committed i q).infSet i).swaps.find? (·.due)).elim (s.committed i q) ((s.committed i q).swapTakeEffect i) := by
  have hcommitted : s.acceptCommit i q = match ((s.committed i q).infSet i).swaps.find? (·.due) with
      | some w => (s.committed i q).swapTakeEffect i w
      | none => s.committed i q := rfl
  rw [hcommitted]
  cases ((s.committed i q).infSet i).swaps.find? (·.due) <;> rfl

theorem acceptComplete_commits (haccept : (s.infSet i).accept = some q) (hdone : q.done.length = q.nshards) :
    acceptComplete i s = s.acceptCommit i q := by
  rw [acceptComplete, haccept]
  exact if_pos hdone

theorem acceptDeadline_ends (haccept : (s.infSet i).accept = some q) (hmore : q.done.length ≠ q.nshards) (hpast : q.deadline < s.now)
    (hshadow : (s.infSet i).find .shadow = some one) :
    acceptDeadline i s = ((s.leaveUndefined [((s.setCfg i).base one, (s.setCfg i).len)]).modSet i fun x =>
      { x.setRegion one .free with accept := none }).complete q.cmd stRemoteTimeout i := by
  rw [acceptDeadline, haccept]
  simp only [hshadow, Option.getD_some]
  exact if_pos (by simp [hpast, hmore])

/-! ### SWAP, R385 -/

theorem State.swapWords_inf {old : Option Bool} {held : Bool} {ver : BitVec 64} : (s.swapWords i one old held ver).inf = s.inf :=
  State.storeAll_inf.trans State.store_inf

/-- A set that shows neither a LIVE region nor another READY one, and whose one swap takes effect. -/
theorem State.swapTakeEffect_first {w : SwapRun} (hready : (s.infSet i).r0 = .ready) (hlive : (s.infSet i).r1 ≠ .live)
    (hswaps : (s.infSet i).swaps = [w]) : ∃ v : State, v.inf = (s.modSet i fun x => { x with swaps := x.swaps.erase w }).inf ∧
      s.swapTakeEffect i w = (v.modSet i fun y => y.setRegion false .live).complete w.cmd stOk 0 := by
  have hset : (s.modSet i fun x => { x with swaps := x.swaps.erase w }).infSet i = { s.infSet i with swaps := [] } := by
    rw [State.infSet_modSet, hswaps, List.erase_cons_head]
  have hfind : (InfSet.find { s.infSet i with swaps := [] } .ready) = some false := by simp [InfSet.find, hready]
  have hold : (InfSet.find { s.infSet i with swaps := [] } .live) = none := by simp [InfSet.find, hready, hlive]
  refine ⟨State.swapWords (s.modSet i fun x => { x with swaps := x.swaps.erase w }) i false none false (s.infSet i).readyVer,
    State.swapWords_inf, ?_⟩
  simp only [State.swapTakeEffect, hset, hfind, hold]
  rfl

theorem swap_passes (hbegins : s.begins 6 3 = some (u, c)) (hpasses : firstFail (u.swapChecks c) = none) (hb : u.params c = b)
    (hi : leAt b 0 1 = i) (hn : leAt b 1 1 = n) :
    swap s = { (u.addLive c true).modSet i fun x => { x with swaps := x.swaps ++ [{ cmd := c, timer := n, t := u.swapAt (leAt b 8 8) }] } with
      ht := { u.ht with timers := tmod {} u.ht.timers n fun x => { x with cmp := u.swapAt (leAt b 8 8), arm := true, periodic := false } } } := by
  rw [swap, State.withHead_of_begins hbegins (by decide)]
  simp only [State.orFail_passes hpasses, hb, hi, hn]
  rfl

/-! ### Sequences, R386 -/

theorem seqBegin_passes {live : Bool} (hbegins : s.begins 6 4 = some (u, c)) (hpasses : firstFail (u.seqBeginChecks c) = none)
    (hi : leAt (u.params c) 0 1 = i) (hlive : (u.infSet i).find .live = some live) :
    seqBegin s = (u.storeAll ((List.range ((u.seqWords c).length / 2)).map fun k =>
      ((u.setCfg i).seq ((u.seqWords c).getD (2 * k) 0), leBytes 8 (u.liveVer i) ++
        leBytes 8 (1 + 2 * (u.seqWords c).getD (2 * k + 1) 0 + flagBit live 2)))).complete c stOk 0 := by
  rw [seqBegin, State.withHead_of_begins hbegins (by decide)]
  simp only [State.orFail_passes hpasses, hi, hlive, Option.getD_some, List.map_map]
  rfl

/-- A sequence entry that is no longer VALID. -/
def State.clearSeq (s : State) (cfg : SetCfg) (k : Nat) : State :=
  s.store (cfg.seq k + 8) (leBytes 1 ((s.mem.byte (cfg.seq k + 8)).toNat / 2 * 2))

section
variable {cfg : SetCfg} {ks : List Nat}

theorem State.clearSeq_byte (h : a ≠ cfg.seq k + 8) : (s.clearSeq cfg k).mem.byte a = s.mem.byte a :=
  State.store_byte_outside (by simp only [leBytes_length]; omega)

theorem State.clearSeq_byte_self :
    (s.clearSeq cfg k).mem.byte (cfg.seq k + 8) = BitVec.ofNat 8 ((s.mem.byte (cfg.seq k + 8)).toNat / 2 * 2) :=
  State.store_byte_inside (i := 0) (bs := leBytes 1 _) Nat.one_pos

theorem State.clearSeqs_byte (h : ∀ k ∈ ks, a ≠ cfg.seq k + 8) : (ks.foldl (State.clearSeq · cfg ·) s).mem.byte a = s.mem.byte a := by
  induction ks generalizing s with
  | nil => rfl
  | cons k ks ih =>
    rw [List.foldl_cons, ih fun j hj => h j (List.mem_cons_of_mem _ hj), State.clearSeq_byte (h k List.mem_cons_self)]

/-- Clearing VALID once more changes nothing. -/
theorem halved_twice {z : Byte} : BitVec.ofNat 8 ((BitVec.ofNat 8 (z.toNat / 2 * 2)).toNat / 2 * 2) = BitVec.ofNat 8 (z.toNat / 2 * 2) := by
  have hlt := z.isLt
  rw [BitVec.toNat_ofNat, Nat.mod_eq_of_lt (by omega), Nat.mul_div_cancel _ (by decide)]

theorem State.clearSeqs_byte_self (hk : k ∈ ks) : (ks.foldl (State.clearSeq · cfg ·) s).mem.byte (cfg.seq k + 8) =
    BitVec.ofNat 8 ((s.mem.byte (cfg.seq k + 8)).toNat / 2 * 2) := by
  induction ks generalizing s with
  | nil => cases hk
  | cons j ks ih =>
    rw [List.foldl_cons]
    by_cases hj : k = j
    · subst hj
      by_cases hagain : k ∈ ks
      · rw [ih hagain, State.clearSeq_byte_self, halved_twice]
      · have hother (i : Nat) (hi : i ∈ ks) : cfg.seq k + 8 ≠ cfg.seq i + 8 := fun h =>
          hagain (by simp only [SetCfg.seq] at h; exact (show k = i by omega) ▸ hi)
        rw [State.clearSeqs_byte hother, State.clearSeq_byte_self]
    · rw [ih ((List.mem_cons.1 hk).resolve_left hj), State.clearSeq_byte (by simp only [SetCfg.seq]; omega)]

theorem State.clearSeqs_inf : (ks.foldl (State.clearSeq · cfg ·) s).inf = s.inf :=
  foldl_keeps_view (view := State.inf) (f := fun (s : State) k => s.clearSeq cfg k) (fun _ _ => rfl) ks s

end

theorem State.releaseOld_none (hold : (s.infSet i).find .old = none) : s.releaseOld i = s := by rw [State.releaseOld, hold]

theorem seqEnd_passes (hbegins : s.begins 6 5 = some (u, c)) (hpasses : firstFail (u.seqEndChecks c) = none)
    (hi : leAt (u.params c) 0 1 = i) (hold : (u.infSet i).find .old = none) :
    seqEnd s = ((u.seqWords c).foldl (State.clearSeq · (u.setCfg i) ·) u).complete c stOk 0 := by
  have hset : ((u.seqWords c).foldl (State.clearSeq · (u.setCfg i) ·) u).infSet i = u.infSet i := State.infSet_of_inf State.clearSeqs_inf
  rw [seqEnd, State.withHead_of_begins hbegins (by decide)]
  simp only [State.orFail_passes hpasses, hi]
  exact congrArg (fun v : State => v.complete c stOk 0) (State.releaseOld_none ((congrArg (InfSet.find · .old) hset).trans hold))

/-! ### The statement -/

/-- Settles O42: each row by its set, an ACCEPT that commits also by the swap that waits for it. -/
theorem infusionSets : Obligations.InfusionSets := by
  unfold Obligations.InfusionSets
  refine ⟨?oneFree, ?bothFree, ?acceptFails, ?complete, ?swapWaits, ?deadline, ?noAccept, ?swaps, ?seqBegins, ?seqEnds, ?cools, ?notCooling⟩
  case oneFree =>
    intro s u c i b hbegins hpasses hb hi hshards h0 h1
    have haccept := accept_passes hbegins hpasses hb hi hshards
    have hone : (if (u.infSet i).r0 == .free && (u.infSet i).r1 == .free then Config.freeRegion i else (u.infSet i).r1 == .free) = false := by
      simp [h1]
    rw [hone] at haccept
    refine ⟨_, congrArg Host.Outcome.next haccept, State.accepts_infSet, fun n hn => ?_, State.accepts_frame.1, State.accepts_frame.2⟩
    exact (State.infSet_modSet_ne hn).trans (State.infSet_of_inf (State.begun_of_begins hbegins).inf)
  case bothFree =>
    intro s u c i b hbegins hpasses hb hi hshards h0 h1
    refine ⟨_, congrArg Host.Outcome.next (accept_passes hbegins hpasses hb hi hshards), ?_, State.accepts_frame.2⟩
    rw [State.accepts_infSet]
    generalize (if (u.infSet i).r0 == .free && (u.infSet i).r1 == .free then Config.freeRegion i else (u.infSet i).r1 == .free) = one
    cases one with
    | false => exact Or.inl ⟨rfl, h1⟩
    | true => exact Or.inr ⟨h0, rfl⟩
  case acceptFails =>
    intro s u c st d hbegins hfails
    have hends := accept_fails hbegins hfails
    obtain ⟨hended, honly⟩ := endsOnly_of_failure hbegins (by decide) hends
    refine ⟨accept s, rfl, ?_, hended.status, honly⟩
    rw [hends, State.complete_inf, (State.begun_of_begins hbegins).inf]
  case complete =>
    intro s i q one hi haccept hdone hshadow hnotDue
    have hset := (State.committed_infSet (s := s) (i := i) (q := q)).trans (InfSet.commit_shadow hshadow)
    have hnone : ((s.committed i q).infSet i).swaps.find? (·.due) = none := by
      rw [hset]
      refine List.find?_eq_none.2 fun w hw => ?_
      have hmem : w ∈ (s.infSet i).swaps := by simpa only [InfSet.setRegion_swaps] using hw
      simp [hnotDue w hmem]
    have hcommits : acceptComplete i s = s.committed i q := by
      rw [acceptComplete_commits haccept hdone, State.acceptCommit_eq, hnone]
      rfl
    obtain ⟨hstatus, -, hmem⟩ := infEnded_of_complete (t := s.committed i q) rfl
    refine ⟨_, (if_pos hi).trans (congrArg Host.Outcome.next hcommits), ?_, ?_, ?_, hstatus, hmem⟩
    · rw [hset]
      exact InfSet.region_setRegion
    · rw [hset]
    · rw [hset]
  case swapWaits =>
    intro s i q w hi haccept hdone h0 hready hlive hswaps hdue
    have hshadow : (s.infSet i).find .shadow = some false := by simp [InfSet.find, h0]
    have hset : (s.committed i q).infSet i = { s.infSet i with r0 := .ready, accept := none, readyVer := q.version } :=
      State.committed_infSet.trans (InfSet.commit_shadow hshadow)
    have hfound : ((s.committed i q).infSet i).swaps.find? (·.due) = some w := by
      rw [hset]
      simp [hswaps, hdue]
    obtain ⟨v, hv, htakes⟩ := State.swapTakeEffect_first (s := s.committed i q) (i := i) (w := w) (by rw [hset]) (by rw [hset]; exact hlive)
      (by rw [hset]; exact hswaps)
    have hcommits : acceptComplete i s = (v.modSet i fun y => y.setRegion false .live).complete w.cmd stOk 0 := by
      rw [acceptComplete_commits haccept hdone, State.acceptCommit_eq, hfound, ← htakes]
      rfl
    obtain ⟨hstatus, hinf, -⟩ := infEnded_of_complete hcommits
    have hlast : (acceptComplete i s).infSet i = { s.infSet i with r0 := .live, accept := none, readyVer := q.version, swaps := [] } := by
      rw [State.infSet_of_inf hinf, State.infSet_modSet, State.infSet_of_inf hv, State.infSet_modSet, hset, hswaps, List.erase_cons_head]
      rfl
    exact ⟨acceptComplete i s, if_pos hi, by rw [hlast], by rw [hlast], by rw [hlast], by rw [hlast], hstatus⟩
  case deadline =>
    intro s i q one hi haccept hmore hpast hshadow
    have hends := acceptDeadline_ends haccept hmore hpast hshadow
    obtain ⟨hstatus, hinf, hmem⟩ := infEnded_of_complete hends
    have hset : (acceptDeadline i s).infSet i = { (s.infSet i).setRegion one .free with accept := none } := by
      rw [State.infSet_of_inf hinf, State.infSet_modSet, State.infSet_of_inf State.leaveUndefined_inf]
    refine ⟨acceptDeadline i s, if_pos hi, ?_, ?_, hstatus, fun x hx hout => ?_⟩
    · rw [hset]
      exact InfSet.region_setRegion
    · rw [hset]
    · exact (hmem x hx).trans (State.leaveUndefined_byte fun r hr => by rw [List.mem_singleton.1 hr]; exact hout)
  case noAccept =>
    intro s i hi hnone
    have hcomplete : acceptComplete i s = s := by rw [acceptComplete, hnone]
    have hdeadline : acceptDeadline i s = s := by rw [acceptDeadline, hnone]
    exact ⟨(if_pos hi).trans (congrArg Host.Outcome.next hcomplete), (if_pos hi).trans (congrArg Host.Outcome.next hdeadline)⟩
  case swaps =>
    intro s u c i n b hbegins hpasses hb hi hn
    have hbegun := State.begun_of_begins hbegins
    have hset : u.infSet i = s.infSet i := State.infSet_of_inf hbegun.inf
    have hends := swap_passes hbegins hpasses hb hi hn
    have htimers : (swap s).ht.timers =
        tmod {} s.ht.timers n fun x => { x with cmp := u.swapAt (leAt b 8 8), arm := true, periodic := false } := by rw [hends, hbegun.ht]
    refine ⟨swap s, rfl, ?_, ?_, fun k hk => ?_, by rw [hends]; rfl⟩
    · rw [hends, ← hset]
      exact congrArg InfSet.swaps (State.infSet_modSet (s := u.addLive c true))
    · rw [htimers, tget_tmod_self]
    · rw [htimers, tget_tmod_ne hk]
  case seqBegins =>
    intro s u c i live hbegins hpasses hi hlive
    obtain ⟨hstatus, hinf, hmem⟩ := infEnded_of_complete (seqBegin_passes hbegins hpasses hi hlive)
    exact ⟨seqBegin s, rfl, hstatus, hinf.trans (State.storeAll_inf.trans (State.begun_of_begins hbegins).inf), hmem⟩
  case seqEnds =>
    intro s u c i hbegins hpasses hi hold
    have hbegun := State.begun_of_begins hbegins
    obtain ⟨hstatus, hinf, hmem⟩ := infEnded_of_complete (seqEnd_passes hbegins hpasses hi hold)
    refine ⟨seqEnd s, rfl, hstatus, hinf.trans (State.clearSeqs_inf.trans hbegun.inf), fun k hk ha => ?_, fun a ha hother => ?_⟩
    · rw [hmem _ ha, State.clearSeqs_byte_self hk, hbegun.mem]
    · rw [hmem a ha, State.clearSeqs_byte hother, hbegun.mem]
  case cools =>
    intro s i r hi hr hcooling hdue
    have hends : coolingEnd i r s = s.modSet i fun x => x.setRegion (r == 1) .free := by
      refine if_pos ?_
      have hdue' : (if (r == 1) = true then (s.infSet i).coolAt1 else (s.infSet i).coolAt0) ≤ s.now := by simpa using hdue
      simp only [hcooling, decide_true, hdue', Bool.and_self]
    exact ⟨_, (if_pos (by simp [hi, hr])).trans (congrArg Host.Outcome.next hends), State.infSet_modSet, rfl⟩
  case notCooling =>
    intro s i r hi hr hnot
    have hstays : coolingEnd i r s = s := if_neg (by simp [hnot])
    exact (if_pos (by simp [hi, hr])).trans (congrArg Host.Outcome.next hstays)

end Sys2Proof.Machine

/-!
PROOF. The broadcast start (O18). A START's messages go to the ports and leave the stage as it is; its commit arms the stage, and every other
end of it applies nothing.
-/

namespace Sys2Proof.Machine

variable {s t u v : State} {c : Cmd} {e op st d sub b k p i at' : Nat} {signals counts : Bool} {r : StartRun} {m : StartMsg}

/-! ### An event of an engine through the end of a command -/

/-- The end of a command, of whatever engine, raises no event of an engine and clears none. -/
theorem State.complete_engEvt : ((s.complete c st d signals sub counts).engRegs e).evt = (s.engRegs e).evt := by
  by_cases he : e = c.engine
  · subst he
    rw [State.complete_engRegs]
    split_ifs <;> rfl
  · rw [State.complete_engRegs_ne he]

/-! ### What the messages of a START leave, R325 to R327 -/

/-- The state but for the ports and the started commands. -/
def State.outsideMessages (s : State) : State := { s with ports := [], live := [] }

theorem State.sendStart_outsideMessages : (s.sendStart i k m).outsideMessages = s.outsideMessages := by
  unfold State.sendStart
  split
  · rfl
  · rfl

theorem State.sendDown_outsideMessages : (s.sendDown r k at').outsideMessages = s.outsideMessages := by
  have hsend (treeB : Bool) (t : State) (i : Nat) : (t.sendStart i k (r.msg treeB 0 at')).outsideMessages = t.outsideMessages :=
    State.sendStart_outsideMessages
  unfold State.sendDown
  dsimp only
  rw [foldl_keeps_view (view := State.outsideMessages) (hsend true), foldl_keeps_view (view := State.outsideMessages) (hsend false)]
  rfl

theorem State.sendDown_bld : (s.sendDown r k at').bld = s.bld :=
  show (s.sendDown r k at').outsideMessages.bld = s.outsideMessages.bld from congrArg State.bld State.sendDown_outsideMessages

theorem State.sendDown_col : (s.sendDown r k at').col = s.col :=
  show (s.sendDown r k at').outsideMessages.col = s.outsideMessages.col from congrArg State.col State.sendDown_outsideMessages

theorem State.sendDown_mem : (s.sendDown r k at').mem = s.mem :=
  show (s.sendDown r k at').outsideMessages.mem = s.outsideMessages.mem from congrArg State.mem State.sendDown_outsideMessages

/-! ### The commit, R326, R327 -/

/-- The stage is CHECKED, and nothing refuses an APPLY of it for tick `t`. -/
def State.CommitReady (s : State) (t : Nat) : Prop :=
  s.bld.state = .checked ∧ s.bld.dirty = false ∧ 10 ≤ s.boot.step ∧ (s.ht.state = .locked ∨ s.ht.state = .holdover ∨ s.ht.state = .root) ∧
    s.bld.applied = true ∧ s.bld.flipped = false ∧ s.ktl.therm ≠ 2 ∧ s.now + 10240 ≤ t

theorem State.CommitReady.of_outsideMessages (hsame : t.outsideMessages = s.outsideMessages) (hready : s.CommitReady at') : t.CommitReady at' := by
  have houtside : s.outsideMessages.CommitReady at' := hready
  rw [← hsame] at houtside
  exact houtside

/-- The state in which a START has committed for a tick. -/
def State.startCommitted (s : State) (r : StartRun) (t : Nat) : State :=
  { s with
    bld := { s.bld with applyTime := t, state := .armed, armedT := roundUp t 2560, result := {} }
    col := { s.col with start := some { r with committed := true }, startState := 2, startT := t } }

theorem State.commitApply_committed (hready : s.CommitReady at') : s.commitApply r at' = s.startCommitted r at' := by
  obtain ⟨hchecked, hclean, hstep, hhall, happlied, hunflipped, hcool, hahead⟩ := hready
  have haccepted : (s.modBld fun b => { b with applyTime := at' }).applyRefusal (roundUp at' frameLen) = none :=
    State.applyRefusal_accepted hclean hstep hhall (hahead.trans (roundUp_frame at').2.1) (.inl happlied) (.inl hunflipped) hcool
  have harmed : (s.modBld fun b => { b with applyTime := at' }).applyCmd 0x005 =
      { s with bld := { s.bld with applyTime := at', state := .armed, armedT := roundUp at' 2560, result := {} } } := by
    rw [State.applyCmd, if_pos (by simp [State.modBld, hchecked])]
    dsimp only [State.modBld] at haccepted ⊢
    rw [haccepted]
    rfl
  rw [State.commitApply]
  simp only [harmed]
  rw [if_pos (by simp [hchecked])]
  rfl

/-- A START commits for a tick that it has sent down its trees. -/
theorem State.sendDown_commits (hready : s.CommitReady at') : ∃ v : State, (s.sendDown r k at').commitApply r at' = v.startCommitted r at' ∧
    v.bld = s.bld ∧ v.col = s.col ∧ v.mem = s.mem :=
  ⟨_, State.commitApply_committed (hready.of_outsideMessages State.sendDown_outsideMessages), State.sendDown_bld, State.sendDown_col,
    State.sendDown_mem⟩

/-! ### The end of a START that applies nothing, R327 -/

theorem State.engRegs_modCol {f : Collective → Collective} : (s.modCol f).engRegs e = s.engRegs e := rfl

/-- The START `r` has ended without applying. -/
structure StartFailed (s t : State) (r : StartRun) : Prop where
  col : t.col = { s.col with start := none, startState := 0, ended := some r.seq }
  status : (t.engRegs r.cmd.engine).lastStatus = 0x31
  event : (t.engRegs 8).evt.getLsbD 2 = true
  bld : t.bld = s.bld

theorem State.startFail_failed (hcol : v.col = s.col) (hbld : v.bld = s.bld) : StartFailed s (v.startFail r stRemoteTimeout) r where
  col := by rw [State.startFail, State.complete_col, ← hcol]; rfl
  status := State.complete_lastStatus
  event := by
    have hraised : ((v.modEng 8 fun e => { e with evt := e.evt ||| 4 ||| colBits stRemoteTimeout }).engRegs 8).evt =
        (v.engRegs 8).evt ||| 4 ||| colBits stRemoteTimeout := by rw [State.engRegs_modEng]
    rw [State.startFail, State.complete_engEvt, State.engRegs_modCol, hraised]
    simp
  bld := by rw [State.startFail, State.complete_bld]; exact hbld

theorem State.sendDown_failed : StartFailed s ((s.sendDown r k at').startFail r stRemoteTimeout) r :=
  State.startFail_failed State.sendDown_col State.sendDown_bld

/-! ### START and its messages -/

theorem CommandBegun.col (hbegun : CommandBegun s u c) : u.col = s.col :=
  show u.outsideCommands.col = s.outsideCommands.col from congrArg State.col hbegun.outside

/-- A START that has passed its checks, before what its early messages say. -/
def State.startRuns (s : State) (c : Cmd) (r : StartRun) : State :=
  { s.addLive c true with col := { s.col with start := some r, startState := 1, startSeq := r.seq, viaB := false, early := [] } }

section
variable (hidle : s.col.start = none) (hbegins : s.begins 8 0x10 = some (u, c))
include hidle hbegins

theorem start_passes (hpasses : firstFail (u.startChecks c) = none) : start s =
    u.col.early.foldl (fun s e => s.startMessage e.1 e.2.1 e.2.2) (u.startRuns c (parseStart c (u.params c))).startAdvance := by
  rw [start, if_neg (by simp [hidle]), State.withHead_of_begins hbegins (by decide)]
  exact State.orFail_passes hpasses

theorem start_fails (hfails : firstFail (u.startChecks c) = some (st, d)) : start s = u.complete c st d := by
  rw [start, if_neg (by simp [hidle]), State.withHead_of_begins hbegins (by decide)]
  exact State.orFail_fails hfails

end

/-- A START waits for its stage. -/
theorem State.startAdvance_waits (hrun : s.col.start = some r) (hstage : s.stageReady r = false) : s.startAdvance = s := by
  simp only [State.startAdvance, hrun, hstage, Bool.not_false, Bool.or_true, if_true]

/-- The root whose counts have reached TOTAL commits for its start instant. -/
theorem State.startAdvance_commits (hrun : s.col.start = some r) (huncommitted : r.committed = false) (hstage : s.stageReady r = true)
    (hroot : r.root = s.fab.fabId) (htotal : r.count = r.total) :
    s.startAdvance = (s.sendDown r 0x12 (s.startInstant r)).commitApply r (s.startInstant r) := by
  simp only [State.startAdvance, hrun, huncommitted, hstage, hroot, htotal, Bool.not_true, Bool.or_self, Bool.false_eq_true, if_false,
    beq_self_eq_true, if_true]

/-- The START with one count more. -/
def StartRun.acking (r : StartRun) (i : Nat) (m : StartMsg) : StartRun := { r with acks := r.acks ++ [(i, m.count)] }

theorem StartRun.acking_count : (r.acking i m).count = r.count + m.count := by
  simp [StartRun.count, StartRun.acking, Nat.add_assoc]

section
variable (hrun : s.col.start = some r) (howns : r.owns m = true)
include hrun howns

theorem startAckReceive_takes (hchild : (bitsSet 12 r.childA.toNat).find? (fun i => s.indexPort i == some p && r.acks.all fun a => a.1 != i) = some i) :
    startAckReceive p m s = (s.modCol fun c => { c with start := some (r.acking i m) }).startAdvance := by
  simp only [startAckReceive, State.startMessage, hrun, howns, if_true, State.takeAck, hchild]
  rfl

variable (huncommitted : r.committed = false)
include huncommitted

theorem startCommitReceive_takes : startCommitReceive p m s =
    ((s.modCol fun c => { c with viaB := m.treeB }).sendDown r 0x12 m.t).commitApply r m.t := by
  simp only [startCommitReceive, State.startMessage, hrun, howns, if_true, State.takeCommit, huncommitted, Bool.false_eq_true, if_false]
  rfl

theorem startAbortReceive_ends : startAbortReceive p m s = (s.sendDown r 0x13 0).startFail r stRemoteTimeout := by
  simp only [startAbortReceive, State.startMessage, hrun, howns, if_true, State.takeAbort, huncommitted, Bool.false_eq_true, if_false]
  rfl

end

/-- A later copy of a message of the START that ended last is discarded. -/
theorem State.startMessage_ended (hidle : s.col.start = none) (hended : s.col.ended = some m.seq) : s.startMessage k p m = s := by
  simp [State.startMessage, hidle, hended]

/-! ### The statement -/

/-- Settles O18: START by its checks, each message by the START that runs, and the two deadlines. -/
theorem broadcastStart : Obligations.BroadcastStart := by
  unfold Obligations.BroadcastStart
  refine ⟨?starts, ?fails, ?ack, ?commits, ?copies, ?commit, ?abort, ?deadline, ?idle, ?timeout⟩
  case starts =>
    intro s u c hidle hbegins hpasses hstage hearly
    have hruns : start s = u.startRuns c (parseStart c (u.params c)) := by
      rw [start_passes hidle hbegins hpasses, hearly, List.foldl_nil]
      exact State.startAdvance_waits rfl hstage
    refine ⟨_, congrArg Host.Outcome.next hruns, rfl, rfl, rfl, ?_, rfl⟩
    exact List.length_append
  case fails =>
    intro s u c st d hidle hbegins hfails
    have hbegun := State.begun_of_begins hbegins
    have hends := start_fails hidle hbegins hfails
    obtain ⟨hended, honly⟩ := endsOnly_of_failure hbegins (by decide) hends
    exact ⟨start s, rfl, by rw [hends, State.complete_col, hbegun.col], by rw [hends, State.complete_bld, hbegun.bld], hended.status, honly⟩
  case ack =>
    intro s p i r m hp hrun howns huncommitted hchild hstage
    refine ⟨s.modCol fun c => { c with start := some (r.acking i m) }, ?_, rfl, rfl⟩
    rw [exec, execStartAckReceive, if_pos hp, startAckReceive_takes hrun howns hchild]
    exact congrArg Host.Outcome.next (State.startAdvance_waits (r := r.acking i m) rfl hstage)
  case commits =>
    intro s p i r m hp hrun howns huncommitted hchild hstage hroot htotal hclean hstep hhall happlied hunflipped hcool
    have hinstant : s.now + 10240 ≤ s.startInstant r := by
      have hround := (roundUp_frame (s.now + 10240 + r.depth * 2720)).2.1
      exact le_max_of_le_right (by rw [frameLen]; omega)
    have hready : s.CommitReady (s.startInstant r) := by
      have hchecked : s.bld.state = .checked := by simpa using (Bool.and_eq_true_iff.1 hstage).1
      exact ⟨hchecked, hclean, hstep, hhall.imp_right .inr, happlied, hunflipped, hcool, hinstant⟩
    obtain ⟨v, hcommits, -, -, hmem⟩ := State.sendDown_commits (s := s.modCol fun c => { c with start := some (r.acking i m) })
      (r := r.acking i m) (k := 0x12) (at' := s.startInstant r) hready
    have hadvance := State.startAdvance_commits (s := s.modCol fun c => { c with start := some (r.acking i m) }) (r := r.acking i m) rfl
      huncommitted hstage hroot (StartRun.acking_count.trans htotal)
    refine ⟨v.startCommitted (r.acking i m) (s.startInstant r), ?_, rfl, rfl, rfl, rfl, hmem⟩
    rw [exec, execStartAckReceive, if_pos hp, startAckReceive_takes hrun howns hchild]
    exact congrArg Host.Outcome.next (hadvance.trans hcommits)
  case copies =>
    intro s p m hp hidle hended
    have hsame (k : Nat) : s.startMessage k p m = s := State.startMessage_ended hidle hended
    refine ⟨?_, ?_, ?_⟩
    · rw [exec, execStartAckReceive, if_pos hp, startAckReceive, hsame]
    · rw [exec, execStartCommitReceive, if_pos hp, startCommitReceive, hsame]
    · rw [exec, execStartAbortReceive, if_pos hp, startAbortReceive, hsame]
  case commit =>
    intro s p r m hp hrun howns huncommitted hchecked hclean hstep hhall happlied hunflipped hcool hahead
    have hready : s.CommitReady m.t := ⟨hchecked, hclean, hstep, .inl hhall, happlied, hunflipped, hcool, hahead⟩
    obtain ⟨v, hcommits, hbld, hcol, -⟩ := State.sendDown_commits (s := s.modCol fun c => { c with viaB := m.treeB }) (r := r) (k := 0x12)
      (at' := m.t) hready
    refine ⟨v.startCommitted r m.t, ?_, rfl, rfl, rfl, (congrArg Collective.viaB hcol : _), rfl, (congrArg BlendUnit.cur hbld : _)⟩
    rw [exec, execStartCommitReceive, if_pos hp, startCommitReceive_takes hrun howns huncommitted]
    exact congrArg Host.Outcome.next hcommits
  case abort =>
    intro s p r m hp hrun howns huncommitted
    obtain ⟨hcol, hstatus, hevent, hbld⟩ := State.sendDown_failed (s := s) (r := r) (k := 0x13) (at' := 0)
    refine ⟨_, ?_, by rw [hcol], by rw [hcol], by rw [hcol], hstatus, hevent, hbld⟩
    rw [exec, execStartAbortReceive, if_pos hp, startAbortReceive_ends hrun howns huncommitted]
  case deadline =>
    intro s r hrun hroot huncommitted hpast
    obtain ⟨hcol, hstatus, -, hbld⟩ := State.sendDown_failed (s := s) (r := r) (k := 0x13) (at' := 0)
    refine ⟨_, ?_, by rw [hcol], by rw [hcol], hstatus, hbld⟩
    rw [exec, execAckDeadlineExpiry, ackDeadlineExpiry]
    simp only [hrun, hroot, huncommitted, hpast, beq_self_eq_true, Bool.not_false, decide_true, Bool.and_self, if_true]
  case idle =>
    intro s hidle
    exact ⟨by simp only [exec, execAckDeadlineExpiry, ackDeadlineExpiry, hidle], by simp only [exec, execStartCommitTimeout, startCommitTimeout, hidle]⟩
  case timeout =>
    intro s r hrun hroot huncommitted hpast
    obtain ⟨hcol, hstatus, -, hbld⟩ := State.startFail_failed (s := s) (v := s) (r := r) rfl rfl
    refine ⟨_, ?_, by rw [hcol], by rw [hcol], hstatus, hbld⟩
    rw [exec, execStartCommitTimeout, startCommitTimeout]
    simp only [hrun, huncommitted, hpast, bne_iff_ne.2 hroot, Bool.not_false, decide_true, Bool.and_self, if_true]

end Sys2Proof.Machine

/-!
PROOF. The start of a collective (O19). A collective that fails, at its start or later, ends by `State.colEnds`: what that leaves is said once,
for its start and for its parts and ends.
-/

namespace Sys2Proof.Machine

variable {s t u v : State} {c : Cmd} {e op st d j at' : Nat} {x : ColX} {f : Collective → Collective}

/-! ### The end of a collective that failed, R322, R330 -/

/-- Of the state, the end of a collective that failed changes its start check alone. -/
theorem State.checkFailed_frame : ∃ done at', s.checkFailed j st d = { s with col := { s.col with checkDone := done, rollbackAt := at' } } := by
  unfold State.checkFailed
  split
  · exact ⟨_, _, rfl⟩
  · exact ⟨s.col.checkDone, s.col.rollbackAt, rfl⟩

/-- A job that is not provisional has no start check. -/
theorem State.checkFailed_settled (hsettled : (s.slot j).provisional = false) : s.checkFailed j st d = s := by
  rw [State.checkFailed, if_neg (by simp [hsettled])]

/-- The end of a collective with a failure, past what it withdraws and counts. -/
def State.colEnds (s : State) (c : Cmd) (st d deadline : Nat) : State :=
  ((s.checkFailed c.job st deadline).failOutputs c st).complete c st d

/-- The collective of `c` has ended from v with status `st` and DETAIL `d`. -/
structure ColEnded (v t : State) (c : Cmd) (st d : Nat) : Prop where
  status : (t.engRegs c.engine).lastStatus = st
  failure : st ≠ 0 → (t.engRegs c.engine).failStatus = st ∧ (t.engRegs c.engine).failDetail = d
  event : (t.engRegs 8).evt = (v.engRegs 8).evt
  run : t.col.run = v.col.run
  lastEnd : t.col.lastEnd = v.col.lastEnd
  spt : t.spt = v.spt
  queues : t.queues = v.queues
  memory : ∀ a, v.leaves c a → t.mem.byte a = v.mem.byte a

theorem State.colEnds_ended : ColEnded s (s.colEnds c st d at') c st d := by
  obtain ⟨done, roll, hcheck⟩ := State.checkFailed_frame (s := s) (j := c.job) (st := st) (d := at')
  rw [State.colEnds, hcheck]
  generalize hw : ({ s with col := { s.col with checkDone := done, rollbackAt := roll } } : State) = w
  obtain ⟨hstatus, hfailure, -⟩ := State.complete_ended (s := w.failOutputs c st) (c := c) (st := st) (d := d) (signals := true) (sub := 0)
    (counts := true) rfl
  refine ⟨hstatus, hfailure, ?_, ?_, ?_, ?_, ?_, fun a ha => ?_⟩
  · rw [State.complete_engEvt, State.engRegs_of_eng State.failOutputs_eng, ← hw]
    rfl
  · rw [State.complete_col, State.failOutputs_col, ← hw]
  · rw [State.complete_col, State.failOutputs_col, ← hw]
  · rw [State.complete_spt, State.failOutputs_spt, ← hw]
  · rw [State.complete_queues, State.failOutputs_queues, ← hw]
  · subst hw
    rw [State.complete_spares ha.1]
    exact State.failOutputs_byte ha

/-- The collective engine's events of a status. -/
def State.colRaised (s : State) (st : Nat) : State := s.modEng 8 fun e => { e with evt := e.evt ||| colBits st }

theorem State.colRaised_evt : ((s.colRaised st).engRegs 8).evt = (s.engRegs 8).evt ||| colBits st := by
  rw [State.colRaised, State.engRegs_modEng]

/-- The state without the collective that ran: its streams are withdrawn, and its status is raised. -/
def State.colStopped (s : State) (st : Nat) : State := ((s.dropStreams 8 0).colRaised st).modCol fun x => { x with run := none }

theorem State.colStopped_evt : ((s.colStopped st).engRegs 8).evt = (s.engRegs 8).evt ||| colBits st := State.colRaised_evt

theorem State.colFail_ended : ColEnded (s.colStopped st) (s.colFail c st d at') c st d :=
  State.colEnds_ended (s := s.colStopped st)

/-- A collective that failed leaves memory outside its outputs and its record. -/
theorem State.colFail_byte {a : Nat} (ha : s.leaves c a) : (s.colFail c st d at').mem.byte a = s.mem.byte a :=
  State.colFail_ended.memory a ha

/-! ### The start, R312 to R322 -/

/-- A collective runs from its effective start: its deadline and what marks it are known. -/
def State.colRuns (s : State) (c : Cmd) (x : ColX) : State :=
  State.addLive ((s.setColEnd c.job (s.colFin x)).modCol fun y => { y with run := some { x.r with
    deadline := s.colFin x + x.p.rxSlack, status := ((s.colFirst x).getD (0, 0)).1, detail := ((s.colFirst x).getD (0, 0)).2 } }) c true

section
variable (hidle : s.col.run = none) (hbegins : s.begins 8 op = some (u, c)) (hknown : knownOpcode 8 op = true)
include hidle hbegins hknown

section
variable (hpasses : firstFail (u.colChecks c (op == 1)) = none) (hplan : u.colPlan c = some x)
  (htables : ([1, 2, 3, 4].all fun part => (timetable (u.colPhases x part)).isSome) = true)
include hpasses hplan htables

/-- A collective that passes its checks and can be timetabled starts by its effective start. -/
theorem collectiveStart_passes : collectiveStart op s =
    if x.r.effStart < u.now + u.colWork x then (u.setColEnd c.job (u.colFin x)).colLate c (u.colFin x + x.p.rxSlack) else u.colRuns c x := by
  have hnone : ([1, 2, 3, 4].any fun part => (timetable (u.colPhases x part)).isNone) = false := by
    rw [← Bool.not_inj_iff, List.not_any_eq_all_not, Bool.not_false, ← htables]
    simp only [Option.not_isNone]
  rw [collectiveStart, if_neg (by simp [hidle]), State.withHead_of_begins hbegins hknown]
  simp only [hpasses, hplan, hnone, Bool.false_eq_true, if_false]
  rfl

theorem collectiveStart_inTime (hintime : u.now + u.colWork x ≤ x.r.effStart) : collectiveStart op s = u.colRuns c x := by
  rw [collectiveStart_passes hidle hbegins hknown hpasses hplan htables, if_neg (Nat.not_lt.2 hintime)]

theorem collectiveStart_late (hlate : x.r.effStart < u.now + u.colWork x) :
    collectiveStart op s = (u.setColEnd c.job (u.colFin x)).colLate c (u.colFin x + x.p.rxSlack) := by
  rw [collectiveStart_passes hidle hbegins hknown hpasses hplan htables, if_pos hlate]

end

theorem collectiveStart_fails (hfails : firstFail (u.colChecks c (op == 1)) = some (st, d)) :
    collectiveStart op s = (u.colRaised st).colEnds c st d (u.colDeadline c) := by
  rw [collectiveStart, if_neg (by simp [hidle]), State.withHead_of_begins hbegins hknown]
  simp only [hfails]
  rfl

end

/-- What the start of a collective leaves of the engine. -/
theorem State.colRuns_col : (s.colRuns c x).col = { s.col with
    run := some { x.r with deadline := s.colFin x + x.p.rxSlack, status := ((s.colFirst x).getD (0, 0)).1, detail := ((s.colFirst x).getD (0, 0)).2 }
    lastEnd := tset 0 s.col.lastEnd c.job (s.colFin x) } := rfl

/-- A collective that starts is one command more of those that have started. -/
theorem State.colRuns_live : (s.colRuns c x).live.length = s.live.length + 1 := List.length_append

/-! ### A collective that never starts, R322 -/

/-- The command at the head of a queue, when it is a collective whose effective start has passed. -/
def State.lateHead (s : State) (j : Nat) : Option Cmd := ((s.queue 8 j).head?).filter fun c =>
  (c.opcode == 1 || c.opcode == 2) && s.counting && decide (s.colStart (colParams (s.params c)) j < s.now)

/-- The queue without its head, whose END is that of its final stage, and the entry of a late collective. -/
def State.colSkipped (s : State) (c : Cmd) : State :=
  ((s.setQueue 8 c.job (s.queue 8 c.job).tail).setColEnd c.job ((s.colPlan c).elim (s.colStart (colParams (s.params c)) c.job) s.colFin)).jobEvent
    3 0x160 0x0020 c.opcode 0 stRemoteTimeout c.job

theorem collectiveLate_ends (hlate : s.lateHead 0 = some c) :
    collectiveLate s = ((s.colSkipped c).colRaised stRemoteTimeout).colEnds c stRemoteTimeout 0 (s.colDeadline c) := by
  have hfirst : (List.range 8).findSome? s.lateHead = some c := by
    rw [show List.range 8 = 0 :: [1, 2, 3, 4, 5, 6, 7] from rfl, List.findSome?_cons, hlate]
  unfold State.lateHead at hfirst
  simp only [collectiveLate, hfirst]
  rfl

theorem State.lateHead_of_head (hhead : (s.queue 8 j).head? = some c) (hop : c.opcode = 1 ∨ c.opcode = 2) (hcounting : s.counting = true)
    (hpast : s.colStart (colParams (s.params c)) j < s.now) : s.lateHead j = some c := by
  rw [State.lateHead, hhead]
  have hcollective : (c.opcode == 1 || c.opcode == 2) = true := by simpa only [Bool.or_eq_true, beq_iff_eq] using hop
  simp only [Option.filter, hcollective, hcounting, hpast, Bool.and_self, decide_true, if_true]

/-! ### The statement -/

/-- A collective that starts in time (R313, R320 to R322). -/
theorem colRuns_starts (hbegun : CommandBegun s u c) :
    (u.colRuns c x).col = { s.col with
        run := some { x.r with deadline := u.colFin x + x.p.rxSlack, status := ((u.colFirst x).getD (0, 0)).1, detail := ((u.colFirst x).getD (0, 0)).2 }
        lastEnd := tset 0 s.col.lastEnd c.job (u.colFin x) } ∧
      (u.colRuns c x).live.length = u.live.length + 1 ∧
      u.colRuns c x = { u with live := (u.colRuns c x).live, col := (u.colRuns c x).col } :=
  ⟨by rw [State.colRuns_col, hbegun.col], State.colRuns_live, rfl⟩

/-- Settles O19: a collective by its checks and its effective start. -/
theorem collectivesStart : Obligations.CollectivesStart := by
  unfold Obligations.CollectivesStart
  refine ⟨?reduces, ?gathers, ?late, ?fails, ?skipped, ?nothing⟩
  case reduces =>
    intro s u c x hidle hbegins hpasses hplan htables hintime
    exact ⟨_, congrArg Host.Outcome.next (collectiveStart_inTime hidle hbegins (by decide) hpasses hplan htables hintime),
      colRuns_starts (State.begun_of_begins hbegins)⟩
  case gathers =>
    intro s u c x hidle hbegins hpasses hplan htables hintime
    exact ⟨_, congrArg Host.Outcome.next (collectiveStart_inTime hidle hbegins (by decide) hpasses hplan htables hintime),
      colRuns_starts (State.begun_of_begins hbegins)⟩
  case late =>
    intro s u c x hidle hbegins hpasses hplan htables hlate
    have hbegun := State.begun_of_begins hbegins
    have hends := collectiveStart_late hidle hbegins (by decide) hpasses hplan htables hlate
    obtain ⟨hstatus, -, hevent, hrun, hlast, hspt, -, -⟩ := State.colFail_ended
      (s := (u.setColEnd c.job (u.colFin x)).jobEvent 3 0x160 0x0020 c.opcode 0 stRemoteTimeout c.job) (c := c) (st := stRemoteTimeout) (d := 0)
      (at' := u.colFin x + x.p.rxSlack)
    refine ⟨_, congrArg Host.Outcome.next hends, hrun, hstatus, ?_, ?_, ?_⟩
    · exact (congrArg (fun b : BitVec 16 => b.getLsbD 0) (hevent.trans State.colStopped_evt)).trans (by simp [colBits, stRemoteTimeout])
    · exact (congrArg (fun l => tget 0 l c.job) hlast).trans tget_tset_self
    · refine (congrArg (fun p : Spout => p.outs.length) hspt).trans_le ((List.length_filter_le _ _).trans_eq ?_)
      exact congrArg (fun p : Spout => p.outs.length)
        (show u.outsideCommands.spt = s.outsideCommands.spt from congrArg State.spt hbegun.outside)
  case fails =>
    intro s u c st d hidle hbegins hfails hsettled
    have hbegun := State.begun_of_begins hbegins
    have hends := collectiveStart_fails hidle hbegins (by decide) hfails
    obtain ⟨hstatus, -, -, -, -, -, -, hmemory⟩ := State.colEnds_ended (s := u.colRaised st) (c := c) (st := st) (d := d) (at' := u.colDeadline c)
    rw [State.colEnds, State.checkFailed_settled (s := u.colRaised st) hsettled] at hends hstatus hmemory
    refine ⟨_, congrArg Host.Outcome.next hends, ?_, hstatus, ?_, fun a ha => ?_⟩
    · rw [State.complete_col, State.failOutputs_col]
      exact hbegun.col
    · exact State.complete_onlyBegun hbegins (by decide) failOutputs_outsideCommands State.failOutputs_str
    · rw [hmemory a ha]
      exact congrArg (Memory.byte · a) hbegun.mem
  case skipped =>
    intro s c hhead hop hcounting hpast
    have hends := collectiveLate_ends (State.lateHead_of_head hhead hop hcounting hpast)
    obtain ⟨hstatus, -, -, hrun, -, -, hqueues, -⟩ := State.colEnds_ended (s := (s.colSkipped c).colRaised stRemoteTimeout) (c := c)
      (st := stRemoteTimeout) (d := 0) (at' := s.colDeadline c)
    refine ⟨_, congrArg Host.Outcome.next hends, fun _ hjob => ?_, hstatus, hrun⟩
    have hqueue : (s.colSkipped c).queue 8 c.job = (s.queue 8 c.job).tail := State.queue_setQueue
    rw [hjob] at hqueue
    rw [State.queue, hqueues]
    exact hqueue
  case nothing =>
    intro s hempty
    have hnone : (List.range 8).findSome? s.lateHead = none := by
      rw [List.findSome?_eq_none_iff]
      intro j hj
      rw [State.lateHead, hempty j (List.mem_range.1 hj)]
      rfl
    unfold State.lateHead at hnone
    simp only [exec, execCollectiveLate, collectiveLate, hnone]

end Sys2Proof.Machine

/-!
PROOF. The parts of a collective and its ends (O20). A part begins as `State.partSends`; what comes of a stream is taken from the run, whose
progress is `ColRun.progress`; a collective commits by `State.colCommit` and fails by `State.colFail`.
-/

namespace Sys2Proof.Machine

variable {s t u v : State} {c : Cmd} {e op st d j a s0 used src n member : Nat} {x y : ColX} {r : ColRun} {places : List Placed} {pl : Placed}
  {z : SpoutExpect} {es : List SpoutExpect} {hd f : RxFlit} {rest more fs : List RxFlit} {h : ColRun → ColRun} {ws : List (Nat × List Byte)}

/-! ### The collective that runs -/

theorem State.run_of_colOf (hof : s.colOf r = some x) : x.r = r := by
  unfold State.colOf at hof
  dsimp only at hof
  split at hof
  · exact absurd hof (by simp)
  · obtain ⟨m, -, rfl⟩ := Option.map_eq_some_iff.1 hof
    rfl

theorem State.run_of_colx (hx : s.colx = some x) : s.col.run = some x.r := by
  obtain ⟨r, hrun, hof⟩ := Option.bind_eq_some_iff.1 hx
  rw [hrun, State.run_of_colOf hof]

/-- The part that starts next is of the collective that runs, with what it has failed with. -/
theorem ColX.upNext_status (hnext : y.upNext = some x) : x.r.status = y.r.status := by
  unfold ColX.upNext at hnext
  split_ifs at hnext
  · rw [← Option.some.inj hnext]
  · obtain ⟨n, -, rfl⟩ := Option.map_eq_some_iff.1 hnext
    rfl

theorem State.run_of_upNext (hnext : s.colx.bind ColX.upNext = some x) : ∃ r, s.col.run = some r ∧ r.status = x.r.status := by
  obtain ⟨y, hy, hnext⟩ := Option.bind_eq_some_iff.1 hnext
  exact ⟨y.r, State.run_of_colx hy, (ColX.upNext_status hnext).symm⟩

@[simp] theorem State.modRun_run : (s.modRun h).col.run = s.col.run.map h := rfl

/-! ### A part begins, R319 to R321 -/

/-- The run whose part `x.r.part` has begun in slot `s0`. -/
def ColX.begun (x : ColX) (s0 used : Nat) (places : List Placed) (r : ColRun) : ColRun :=
  { r with part := x.r.part, partBegun := true, partBase := s0, partEnd := partEnd x.om s0 used x.plan.hmax
           expect := r.expect ++ x.expected places s0 (partEnd x.om s0 used x.plan.hmax) }

/-- The part begins, and stage 1 takes the landing window. -/
def State.partBegins (s : State) (x : ColX) (s0 used : Nat) (places : List Placed) : State :=
  if x.r.part = 3 then (s.modRun (x.begun s0 used places)).windowUsed x else s.modRun (x.begun s0 used places)

/-- Its streams are sent whose start is to come. -/
def State.partSends (s : State) (x : ColX) (s0 used : Nat) (places : List Placed) : State :=
  ((s.partBegins x s0 used places).addStreams ((places.filter (x.inTime s0 s.now)).map (s.colStream x s0))).noRestart x.r.cmd

section
variable (hnext : s.colx.bind ColX.upNext = some x) (hdue : firstOwned x.om x.due ≤ s.now / 160)
  (htable : timetable (s.colPhases x x.r.part) = some (places, used))
include hnext hdue htable

theorem collectivePartStart_inTime (hall : (places.all (x.inTime (firstOwned x.om x.due) s.now)) = true) :
    collectivePartStart s = s.partSends x (firstOwned x.om x.due) used places := by
  have hnone : places.find? (fun pl => !x.inTime (firstOwned x.om x.due) s.now pl) = none :=
    List.find?_eq_none.2 fun pl hpl => by simpa using List.all_eq_true.1 hall pl hpl
  simp only [collectivePartStart, hnext, slotLen, if_neg (Nat.not_lt.2 hdue), htable, hnone]
  rfl

theorem collectivePartStart_late (hlate : places.find? (fun q => !x.inTime (firstOwned x.om x.due) s.now q) = some pl) :
    collectivePartStart s =
      (s.partSends x (firstOwned x.om x.due) used places).colMark stRemoteTimeout (pl.phase * 65536 + colStage x.r.part) := by
  simp only [collectivePartStart, hnext, slotLen, if_neg (Nat.not_lt.2 hdue), htable, hlate]
  rfl

end

theorem State.windowUsed_col : (s.windowUsed x).col = s.col := by
  unfold State.windowUsed
  split
  · exact State.leaveUndefined_col
  · rfl

theorem State.windowUsed_spt : (s.windowUsed x).spt = s.spt := by
  unfold State.windowUsed
  split
  · exact State.leaveUndefined_spt
  · rfl

/-- R321: of memory, a collective uses its landing window alone. -/
theorem State.windowUsed_byte (ha : ∀ w ∈ s.landingWindow x.r.cmd.job x.p.lwin, a < localOf w.base ∨ localOf w.base + s.windowFlits x * 240 ≤ a) :
    (s.windowUsed x).mem.byte a = s.mem.byte a := by
  unfold State.windowUsed
  split
  · next w hw =>
    refine State.leaveUndefined_byte fun q hq => ?_
    rw [List.mem_singleton.1 hq]
    exact (ha w hw).imp_right fun hpast => (Nat.add_le_add_left (min_le_right _ _) _).trans hpast
  · rfl

theorem State.partSends_run (hrun : s.col.run = some r) : (s.partSends x s0 used places).col.run = some (x.begun s0 used places r) := by
  have hbegins : (s.partBegins x s0 used places).col.run = some (x.begun s0 used places r) := by
    unfold State.partBegins
    split_ifs
    · rw [State.windowUsed_col, State.modRun_run, hrun, Option.map_some]
    · rw [State.modRun_run, hrun, Option.map_some]
  exact hbegins

theorem State.partSends_outs : (s.partSends x s0 used places).spt.outs =
    s.spt.outs ++ (places.filter (x.inTime s0 s.now)).map (s.colStream x s0) := by
  have hbegins : (s.partBegins x s0 used places).spt.outs = s.spt.outs := by
    unfold State.partBegins
    split_ifs
    · rw [State.windowUsed_spt]
      rfl
    · rfl
  exact congrArg (· ++ _) hbegins

theorem State.partSends_other (hpart : x.r.part ≠ 3) : s.partSends x s0 used places =
    ((s.modRun (x.begun s0 used places)).addStreams ((places.filter (x.inTime s0 s.now)).map (s.colStream x s0))).noRestart x.r.cmd := by
  rw [State.partSends, State.partBegins, if_neg hpart]

theorem State.partSends_byte (ha : ∀ w ∈ s.landingWindow x.r.cmd.job x.p.lwin, a < localOf w.base ∨ localOf w.base + s.windowFlits x * 240 ≤ a) :
    (s.partSends x s0 used places).mem.byte a = s.mem.byte a := by
  have hbegins : (s.partBegins x s0 used places).mem.byte a = s.mem.byte a := by
    unfold State.partBegins
    split_ifs
    · exact State.windowUsed_byte (s := s.modRun (x.begun s0 used places)) ha
    · rfl
  exact hbegins

theorem State.colMark_run (hrun : s.col.run = some r) (hclean : r.status = 0) :
    (s.colMark st d).col.run = some { r with status := st, detail := d } := by
  rw [State.colMark, State.modRun_run, hrun, Option.map_some, if_pos hclean]

/-! ### A stream's flits, R317 to R319 -/

/-- What an expected stream is, whatever its deadline. -/
def SpoutExpect.place (z : SpoutExpect) : Nat × Nat × Nat × Nat × Nat × Nat := (z.part, z.src, z.phase, z.base, z.upTo, z.pos)

/-- What has come of a collective's streams. -/
def ColRun.progress (r : ColRun) : Nat × (Nat × Nat × List Chunk) × List (Nat × Nat × Nat × Nat × Nat × Nat) :=
  (r.smax, (r.part, r.status, r.chunks), r.expect.map SpoutExpect.place)

/-- A stream that is done with: its flits are taken away, and it is expected no more. -/
def State.streamGone (s : State) (z : SpoutExpect) (fs : List RxFlit) : State :=
  (s.takeStream fs).modRun fun r => { r with expect := r.expect.filter (· != z) }

/-- The END and the deadline that follow Smax leave the progress. -/
theorem State.settleEnd_progress : s.settleEnd.col.run.map ColRun.progress = s.col.run.map ColRun.progress := by
  unfold State.settleEnd
  split
  · rfl
  · have hplaces (d : Nat) (r : ColRun) : ColRun.progress { r with deadline := d, expect := r.expect.map fun y => { y with deadline := d } } =
        r.progress := by
      simp only [ColRun.progress, List.map_map]
      rfl
    rw [State.modRun_run, Option.map_map]
    exact congrArg (Option.map · s.col.run) (funext (hplaces _))

theorem State.settleEnd_frame : s.settleEnd.spt = s.spt ∧ s.settleEnd.mem = s.mem := by
  unfold State.settleEnd
  split
  · exact ⟨rfl, rfl⟩
  · exact ⟨rfl, rfl⟩

/-- A count round goes on while a stream is expected. -/
theorem State.colAdvance_waits (hexpect : ∀ r, s.col.run = some r → r.expect ≠ []) : s.colAdvance = s := by
  unfold State.colAdvance
  split
  · rfl
  · next x hx =>
    have hmore : x.r.expect.isEmpty = false := List.isEmpty_eq_false_iff.2 (hexpect _ (State.run_of_colx hx))
    rw [if_pos (by simp [hmore])]

/-- The first stream that is expected of the source. -/
theorem ColRun.expect_first (hexpect : r.expect = z :: es) (hsrc : z.src = src) (hintime : n ≤ z.deadline) :
    (r.expect.filter fun y => y.src == src && decide (n ≤ y.deadline)) = z :: es.filter fun y => y.src == src && decide (n ≤ y.deadline) := by
  rw [hexpect, List.filter_cons, if_pos (by simp [hsrc, hintime])]

section
variable (hx : s.colx = some x) (hexpect : x.r.expect = z :: es) (hsrc : z.src = src) (hintime : s.now ≤ z.deadline)
  (hmember : x.plan.member src = some member) (hstream : s.streamFrom x.r.cmd.job src z.base z.upTo z.pos x.om = hd :: rest)
include hx hexpect hsrc hintime hmember hstream

theorem chunkReceive_count (hpart : z.part = 1) :
    chunkReceive src s = (s.streamGone z [hd]).takeCount x hd.payload
      (headerOk hd.payload x.p.seq x.plan.tag.toNat src s.devId 6 1 z.phase) (z.phase * 65536 + 1) := by
  have hfirst := ColRun.expect_first hexpect hsrc hintime
  simp only [chunkReceive, hx, hfirst, List.findSome?_cons, hstream, hmember, hpart]
  rfl

/-- A chunk that agrees, the first of its stream, is taken. -/
theorem chunkReceive_chunk {ck : Chunk} (hrest : rest = f :: more) (hpart : 3 ≤ z.part)
    (hhead : headerOk hd.payload x.p.seq x.plan.tag.toNat src s.devId (if x.rs then 7 else 8) (colStage z.part) z.phase = true)
    (hcount : leAt hd.payload 0 4 = x.chunkCount (colStage z.part)) (hnone : (x.r.chunks.filter fun c => c.src == src && c.stage == colStage z.part) = [])
    (hn : max 1 ((parseChunk f.payload (colStage z.part) z.phase src (s.chunkFmt x (colStage z.part))).1.flits x.r.smax
      (s.chunkFmt x (colStage z.part))) = n)
    (hwhole : n ≤ more.length + 1)
    (hagrees : s.chunkOk x (colStage z.part) member 0 (parseChunk f.payload (colStage z.part) z.phase src (s.chunkFmt x (colStage z.part))).1 = true)
    (hsealed : parseChunk (((f :: more).take n).map (·.payload)).flatten (colStage z.part) z.phase src (s.chunkFmt x (colStage z.part)) = (ck, true)) :
    chunkReceive src s = State.refreshStreams ((if 1 = x.chunkCount (colStage z.part) then s.streamGone z (hd :: (f :: more).take n) else s).modRun
      fun r => { r with chunks := r.chunks ++ [ck] }) := by
  subst hrest
  have hfirst := ColRun.expect_first hexpect hsrc hintime
  have hkind : ¬z.part ≤ 2 := by omega
  have hlong : ¬(f :: more).length < n := by simpa using hwhole
  simp only [chunkReceive, hx, hfirst, List.findSome?_cons, hstream, hmember, hkind, if_false, hhead, hcount, hnone, List.map_nil, List.sum_nil, List.drop_zero, Nat.zero_add,
    bne_self_eq_false, Bool.not_true, Bool.or_self, Bool.false_eq_true, hn, List.length_nil, hagrees, hlong, decide_false, Bool.and_false, hsealed,
    Bool.and_self, if_true]
  rfl

end

/-- A header of the count round that agrees raises Smax. -/
theorem State.takeCount_agrees {b : List Byte} (hrun : s.col.run = some r) (hmore : r.expect ≠ []) (hcrc : leAt b 28 4 = x.r.sizeCrc.toNat) :
    (s.takeCount x b true d).col.run.map ColRun.progress = some { r with smax := max r.smax (leAt b 24 4) }.progress ∧
      (s.takeCount x b true d).spt = s.spt ∧ (s.takeCount x b true d).mem = s.mem := by
  let raise (r : ColRun) : ColRun := { r with smax := max r.smax (leAt b 24 4) }
  have hprogress : (s.modRun raise).settleEnd.col.run.map ColRun.progress = some (raise r).progress := by
    rw [State.settleEnd_progress, State.modRun_run, hrun, Option.map_some, Option.map_some]
  have hwaits : ∀ q, (s.modRun raise).settleEnd.col.run = some q → q.expect ≠ [] := by
    rintro q hq hnil
    rw [hq, Option.map_some, Option.some_inj] at hprogress
    have hplaces : q.expect.map SpoutExpect.place = r.expect.map SpoutExpect.place := congrArg (fun p => p.2.2) hprogress
    rw [hnil, List.map_nil] at hplaces
    exact hmore (List.map_eq_nil_iff.1 hplaces.symm)
  have htaken : s.takeCount x b true d = (s.modRun raise).settleEnd := by
    rw [State.takeCount]
    simp only [hcrc, beq_self_eq_true, Bool.and_self, if_true]
    exact State.colAdvance_waits hwaits
  rw [htaken]
  exact ⟨hprogress, State.settleEnd_frame⟩

theorem State.refreshStreams_frame : s.refreshStreams.col = s.col ∧ s.refreshStreams.mem = s.mem := by
  unfold State.refreshStreams
  split
  · exact ⟨rfl, rfl⟩
  · split_ifs
    · exact ⟨rfl, rfl⟩
    · exact ⟨rfl, rfl⟩

/-! ### The commit, R313, R315, R329 -/

/-- A collective that confirms its job's start leaves memory, what runs and the count of collectives. -/
theorem State.confirmStart_frame : (s.confirmStart j).mem = s.mem ∧ (s.confirmStart j).col.run = s.col.run ∧
    (s.confirmStart j).col.cntCmd = s.col.cntCmd := by
  unfold State.confirmStart
  split_ifs
  · exact ⟨rfl, rfl, rfl⟩
  · exact ⟨rfl, rfl, rfl⟩

/-- The collective of `c` has committed `ws`. -/
structure ColCommitted (s t : State) (c : Cmd) (ws : List (Nat × List Byte)) : Prop where
  run : t.col.run = none
  count : t.col.cntCmd = s.col.cntCmd + 1
  status : (t.engRegs c.engine).lastStatus = 0
  memory : ∀ a, c.spares a → t.mem.byte a = (s.storeAll ws).mem.byte a

theorem State.colCommit_committed : ColCommitted s (s.colCommit c ws) c ws := by
  obtain ⟨hmem, hrun, hcount⟩ := State.confirmStart_frame (j := c.job)
    (s := { s.storeAll ws with col := { (s.storeAll ws).col with run := none, cntCmd := (s.storeAll ws).col.cntCmd + 1 } })
  obtain ⟨hstatus, -, hmemory⟩ := State.complete_ended (c := c) (st := stOk) (d := 0) (signals := true) (sub := 0) (counts := true) hmem
  refine ⟨?_, ?_, hstatus, hmemory⟩
  · rw [State.colCommit, State.complete_col, hrun]
  · rw [State.colCommit, State.complete_col, hcount, State.storeAll_col]

section
variable (hx : s.colx = some x) (hlast : x.lastPart = true) (hcome : x.r.expect = []) (hclean : x.r.status = 0)
  (hwhole : ∀ c ∈ x.r.chunks, c.missing = false) (hsent : s.allSent 8 0 = true) (hforwarded : s.allForwarded x.r.cmd.job = true)
include hx hlast hcome hclean hwhole hsent hforwarded

/-- A collective whose streams are complete commits its output, or fails on it. -/
theorem collectiveCommit_complete : collectiveCommit s =
    if x.rs then
      match s.reducedShard x with
      | some ws => s.orColEcc x [1] fun s => s.colCommit x.r.cmd (s.reduceWrites x ws)
      | none => s
    else match s.gathered x with
      | some gs =>
        if (s.slotTensor x.r.cmd 1).exts.headD 0 < (gs.map (·.1)).sum then s.colFail x.r.cmd stStructure 1 x.r.deadline
        else s.orColEcc x (if x.p.var then [1, 2] else [1]) fun s => s.colCommit x.r.cmd (s.gatherWrites x gs)
      | none => s := by
  have hchunks : (x.r.chunks.all fun c => !c.missing) = true := List.all_eq_true.2 fun c hc => by rw [hwhole c hc, Bool.not_false]
  simp only [collectiveCommit, hx, hlast, hcome, hclean, hchunks, hsent, hforwarded, List.isEmpty_nil, beq_self_eq_true, Bool.and_self,
    if_true] <;> rfl

theorem collectiveCommit_reduces {ws : List Nat} (hreduce : x.rs = true) (hshard : s.reducedShard x = some ws)
    (hecc : s.rowsEcc x.r.cmd [] [1] = none) : collectiveCommit s = s.colCommit x.r.cmd (s.reduceWrites x ws) := by
  rw [collectiveCommit_complete hx hlast hcome hclean hwhole hsent hforwarded, if_pos hreduce, hshard]
  simp only [State.orColEcc, hecc]

theorem collectiveCommit_gathers {gs : List (Nat × List Byte)} (hgather : x.rs = false) (hshards : s.gathered x = some gs)
    (hroom : (gs.map (·.1)).sum ≤ (s.slotTensor x.r.cmd 1).exts.headD 0)
    (hecc : s.rowsEcc x.r.cmd [] (if x.p.var then [1, 2] else [1]) = none) : collectiveCommit s = s.colCommit x.r.cmd (s.gatherWrites x gs) := by
  rw [collectiveCommit_complete hx hlast hcome hclean hwhole hsent hforwarded, if_neg (by simp [hgather]), hshards]
  simp only [if_neg (Nat.not_lt.2 hroom), State.orColEcc, hecc]

end

/-! ### The failures at a deadline and at the END, R318, R321, R322 -/

/-- What has not come of a collective, by phase and stage: its streams, the chunks that came MISSING, and a part that has not begun. -/
def ColX.lacking (x : ColX) : List (Nat × Nat) :=
  (x.r.expect.map fun y => (y.phase, colStage y.part)) ++ ((x.r.chunks.filter (·.missing)).map fun c => (c.phase, c.stage)) ++
    ((if x.r.partBegun then x.nextPart else some x.r.part).toList.map fun n => (1, colStage n))

theorem collectiveReceiveDeadline_lacks {ph stage : Nat} {l : List (Nat × Nat)} (hx : s.colx = some x) (hlacks : x.lacking = (ph, stage) :: l)
    (hclean : x.r.status = 0) (hpast : x.r.deadline < s.now) :
    collectiveReceiveDeadline s = s.colFail x.r.cmd stRemoteTimeout (ph * 65536 + stage) x.r.deadline := by
  unfold ColX.lacking at hlacks
  simp only [collectiveReceiveDeadline, hx, hlacks, hpast, hclean, if_true]

theorem collectiveEnd_fails (hx : s.colx = some x) (hfailed : x.r.status ≠ 0) (hend : x.finish ≤ s.now) :
    collectiveEnd s = s.colFail x.r.cmd x.r.status x.r.detail x.r.deadline := by
  simp only [collectiveEnd, hx]
  rw [if_pos (by simp [hfailed, hend])]

/-- A collective that failed ends with its status, its outputs left undefined. -/
theorem State.colFail_failed {dl : Nat} (hst : st ≠ 0) : (s.colFail c st d dl).col.run = none ∧ ((s.colFail c st d dl).engRegs c.engine).failStatus = st ∧
    ((s.colFail c st d dl).engRegs c.engine).failDetail = d ∧ ∀ a, s.leaves c a → (s.colFail c st d dl).mem.byte a = s.mem.byte a := by
  obtain ⟨-, hfailure, -, hrun, -, -, -, -⟩ := State.colFail_ended (s := s) (c := c) (st := st) (d := d) (at' := dl)
  obtain ⟨hstatus, hdetail⟩ := hfailure hst
  exact ⟨hrun, hstatus, hdetail, fun a ha => State.colFail_byte ha⟩

/-! ### The statement -/

/-- Settles O20: a part by its slot and its streams' starts, an arrival by what it says, an end by what has come. -/
theorem collectivePartsAndEnds : Obligations.CollectivePartsAndEnds := by
  unfold Obligations.CollectivePartsAndEnds
  refine ⟨?part, ?stage, ?late, ?waits, ?count, ?chunk, ?idle, ?reduces, ?gathers, ?incomplete, ?unbegun, ?fails, ?clean⟩
  case part =>
    rintro s x s0 places used hnext hpart rfl hdue htable hall
    have hbegins := collectivePartStart_inTime hnext hdue htable hall
    refine ⟨_, congrArg Host.Outcome.next hbegins, ?_, ?_, ?_⟩
    · rw [State.partSends_outs, List.filter_eq_self.2 (List.all_eq_true.1 hall)]
    · rw [State.partSends_other hpart]
      rfl
    · rw [State.partSends_other hpart]
      rfl
  case stage =>
    rintro s x s0 places used hnext hpart rfl hdue htable hall
    obtain ⟨r, hrun, -⟩ := State.run_of_upNext hnext
    refine ⟨_, congrArg Host.Outcome.next (collectivePartStart_inTime hnext hdue htable hall), ?_, ?_, ?_, fun w hw hbase a ha => ?_⟩
    · rw [State.partSends_outs, List.filter_eq_self.2 (List.all_eq_true.1 hall), List.length_append, List.length_map]
    · rw [State.partSends_run hrun]
      rfl
    · rw [State.partSends_run hrun, ← hpart]
      rfl
    · refine State.partSends_byte fun w' hw' => ?_
      rw [Option.mem_unique hw' hw, show localOf w.base = w.base from Nat.mod_eq_of_lt hbase]
      exact ha
  case late =>
    intro s x places used pl hnext hpart hclean hdue htable hlate
    obtain ⟨r, hrun, hstatus⟩ := State.run_of_upNext hnext
    have hmarked := State.colMark_run (s := s.partSends x (firstOwned x.om x.due) used places) (st := stRemoteTimeout)
      (d := pl.phase * 65536 + colStage x.r.part) (State.partSends_run hrun) (hstatus.trans hclean)
    refine ⟨_, congrArg Host.Outcome.next (collectivePartStart_late hnext hdue htable hlate), ?_, ?_, ?_, ?_⟩
    · rw [hmarked]
      rfl
    · rw [hmarked]
      rfl
    · rw [hmarked]
      rfl
    · rw [State.partSends_other hpart]
      rfl
  case waits =>
    intro s x hnext hearly
    refine congrArg Host.Outcome.next ?_
    simp only [collectivePartStart, hnext, slotLen]
    exact if_pos hearly
  case count =>
    intro s x src member y es hd rest hx hexpect hsrc hpart hintime hmember hstream hhead hcrc hmore
    have htakes := chunkReceive_count hx hexpect hsrc hintime hmember hstream hpart
    rw [hhead] at htakes
    have hrun : (s.streamGone y [hd]).col.run = some { x.r with expect := es.filter (· != y) } := by
      have hgone : (s.streamGone y [hd]).col.run = s.col.run.map fun r => { r with expect := r.expect.filter (· != y) } := rfl
      rw [hgone, State.run_of_colx hx, Option.map_some, hexpect, List.filter_cons, if_neg (by simp)]
    obtain ⟨hprogress, hspt, hmem⟩ := State.takeCount_agrees (d := y.phase * 65536 + 1) hrun hmore hcrc
    rw [← htakes] at hprogress hspt hmem
    obtain ⟨q, hq, hqr⟩ := Option.map_eq_some_iff.1 hprogress
    obtain ⟨hsmax, hkept, hplaces⟩ : q.smax = max x.r.smax (leAt hd.payload 24 4) ∧ (q.part, q.status, q.chunks) = (x.r.part, x.r.status, x.r.chunks) ∧
        q.expect.map SpoutExpect.place = (es.filter (· != y)).map SpoutExpect.place := by
      simpa only [ColRun.progress, Prod.mk.injEq] using hqr
    refine ⟨_, rfl, ?_, ?_, ?_, congrArg Spout.rx hspt, hmem⟩
    · rw [hq, Option.map_some, hsmax]
    · rw [hq, Option.map_some, hkept]
    · rw [hq, Option.map_some]
      exact congrArg some hplaces
  case chunk =>
    intro s x src member n y es hd f more c hx hexpect hsrc hpart hintime hmember hstream hhead hcount hnone hn hwhole hagrees hsealed
    have htakes := chunkReceive_chunk hx hexpect hsrc hintime hmember hstream rfl hpart hhead hcount hnone hn hwhole hagrees hsealed
    generalize hw : (if 1 = x.chunkCount (colStage y.part) then s.streamGone y (hd :: (f :: more).take n) else s) = w at htakes
    obtain ⟨q, hq, hkept, hseal, hmem⟩ : ∃ q, w.col.run = some q ∧ (q.part, q.status, q.smax, q.chunks) =
        (x.r.part, x.r.status, x.r.smax, x.r.chunks) ∧ w.col.cntSeal = s.col.cntSeal ∧ w.mem = s.mem := by
      rw [← hw]
      split_ifs
      · exact ⟨_, congrArg (Option.map _) (State.run_of_colx hx), rfl, rfl, rfl⟩
      · exact ⟨_, State.run_of_colx hx, rfl, rfl, rfl⟩
    obtain ⟨hpartq, hstatusq, hsmaxq, hchunksq⟩ : q.part = x.r.part ∧ q.status = x.r.status ∧ q.smax = x.r.smax ∧ q.chunks = x.r.chunks := by
      simpa only [Prod.mk.injEq] using hkept
    obtain ⟨hcol, hmemory⟩ := State.refreshStreams_frame (s := w.modRun fun r => { r with chunks := r.chunks ++ [c] })
    refine ⟨_, congrArg Host.Outcome.next htakes, ?_, ?_, ?_, hmemory.trans hmem⟩
    · rw [hcol, State.modRun_run, hq, Option.map_some, Option.map_some, hchunksq]
    · rw [hcol, State.modRun_run, hq, Option.map_some, Option.map_some, hpartq, hstatusq, hsmaxq]
    · rw [hcol]
      exact hseal
  case idle =>
    intro s src hidle
    have hx : s.colx = none := by rw [State.colx, hidle, Option.bind_none]
    simp only [exec, execChunkReceive, chunkReceive, hx]
  case reduces =>
    intro s x ws hx hreduce hlast hcome hclean hwhole hsent hforwarded hshard hecc
    obtain ⟨hrun, hcount, hstatus, hmemory⟩ := State.colCommit_committed (s := s) (c := x.r.cmd) (ws := s.reduceWrites x ws)
    exact ⟨_, congrArg Host.Outcome.next (collectiveCommit_reduces hx hlast hcome hclean hwhole hsent hforwarded hreduce hshard hecc), hrun, hcount,
      hstatus, hmemory⟩
  case gathers =>
    intro s x gs hx hgather hlast hcome hclean hwhole hsent hforwarded hshards hroom hecc
    obtain ⟨hrun, hcount, -, hmemory⟩ := State.colCommit_committed (s := s) (c := x.r.cmd) (ws := s.gatherWrites x gs)
    exact ⟨_, congrArg Host.Outcome.next (collectiveCommit_gathers hx hlast hcome hclean hwhole hsent hforwarded hgather hshards hroom hecc), hrun,
      hcount, hmemory⟩
  case incomplete =>
    intro s x y l hx hexpect hclean hpast
    have hlacks : x.lacking = (y.phase, colStage y.part) :: x.lacking.tail := by
      rw [ColX.lacking, hexpect]
      rfl
    exact ⟨_, congrArg Host.Outcome.next (collectiveReceiveDeadline_lacks hx hlacks hclean hpast), State.colFail_failed (by decide)⟩
  case unbegun =>
    intro s x hx hcome hwhole hunbegun hclean hpast
    have hlacks : x.lacking = [(1, colStage x.r.part)] := by
      rw [ColX.lacking, hcome, hwhole, hunbegun]
      rfl
    exact ⟨_, congrArg Host.Outcome.next (collectiveReceiveDeadline_lacks hx hlacks hclean hpast), State.colFail_failed (by decide)⟩
  case fails =>
    intro s x hx hfailed hend
    exact ⟨_, congrArg Host.Outcome.next (collectiveEnd_fails hx hfailed hend), State.colFail_failed hfailed⟩
  case clean =>
    intro s x hx hclean
    refine congrArg Host.Outcome.next ?_
    simp only [collectiveEnd, hx, hclean, bne_self_eq_false, Bool.false_and, Bool.false_eq_true, if_false]

end Sys2Proof.Machine

/-!
PROOF. Remote writes (O50). A request leaves its receive buffer (`State.takeIngress`), its stream's record accepts it (`State.acceptWrite`), it
changes memory at its target, counts arrivals and is accounted for: each of these is said once, of the state outside what it touches.
-/

namespace Sys2Proof.Machine

variable {s t u v w x y : State} {e op st i a : Nat} {q : InReq} {r : RemReq} {rec : StreamRec} {l : List (Nat × List Byte)}
  {apply : State → InReq → State × BitVec 64} {m : Memory}

/-! ### What a request's arrival touches -/

/-- The state but for what the arrival of a request changes. -/
def State.outsideArrivals (s : State) : State :=
  { s with mem := {}, cores := [], ports := [], log := {}, out := [], fab := { s.fab with ingress := [], streams := [] } }

/-- A state with what `State.outsideArrivals` leaves out taken from another. -/
def State.withArrivals (s v : State) : State :=
  { s with mem := v.mem, cores := v.cores, ports := v.ports, log := v.log, out := v.out
           fab := { s.fab with ingress := v.fab.ingress, streams := v.fab.streams } }

theorem appliedOnly_of_outsideArrivals (h : v.outsideArrivals = s.outsideArrivals) : AppliedOnly s v :=
  calc v = v.outsideArrivals.withArrivals v := rfl
    _ = s.outsideArrivals.withArrivals v := by rw [h]

theorem State.arrives_takes (harrives : s.arrives op = some (u, q)) :
    ∃ i, s.nextApply op = some i ∧ s.takeIngress i = u ∧ s.fab.ingress.getD i {} = q := by
  obtain ⟨i, hi, htakes⟩ := Option.map_eq_some_iff.1 harrives
  exact ⟨i, hi, congrArg Prod.fst htakes, congrArg Prod.snd htakes⟩

/-- What a request that has left its receive buffer leaves as it was. -/
structure Taken (s u : State) : Prop where
  mem : u.mem = s.mem
  cores : u.cores = s.cores
  streams : u.fab.streams = s.fab.streams
  event : u.fab.rmEvt = s.fab.rmEvt
  outside : u.outsideArrivals = s.outsideArrivals

theorem State.takeIngress_taken : Taken s (s.takeIngress i) := ⟨rfl, rfl, rfl, rfl, rfl⟩

theorem State.taken_of_arrives (harrives : s.arrives op = some (u, q)) : Taken s u := by
  obtain ⟨i, -, rfl, -⟩ := State.arrives_takes harrives
  exact State.takeIngress_taken

/-! ### The record of a stream, Table 11-4, R300 -/

/-- The record that accepts a write changes the records alone. -/
theorem State.acceptWrite_frame (haccepts : u.acceptWrite q = some w) : ∃ l, w = { u with fab := { u.fab with streams := l } } := by
  unfold State.acceptWrite at haccepts
  split at haccepts
  · split_ifs at haccepts
    exact ⟨_, (Option.some.inj haccepts).symm⟩
  · split_ifs at haccepts
    exact ⟨u.fab.streams, (Option.some.inj haccepts).symm⟩

/-- A write that its record accepts before a gap leaves the records as they are. -/
theorem State.acceptWrite_open (haccepts : u.acceptWrite q = some w) (hopen : w.gapClosed q = false) : w = u := by
  unfold State.acceptWrite at haccepts
  split at haccepts
  · split_ifs at haccepts
    rw [← Option.some.inj haccepts, State.gapClosed, State.stream] at hopen
    simp [tget_tset_self] at hopen
  · split_ifs at haccepts
    exact (Option.some.inj haccepts).symm

/-- A record accepts the same writes before and after they leave their receive buffers. -/
theorem State.acceptWrite_takeIngress : (s.takeIngress i).acceptWrite q = (s.acceptWrite q).map (·.takeIngress i) := by
  have hstream : (s.takeIngress i).stream q.src = s.stream q.src := rfl
  simp only [State.acceptWrite, hstream]
  split
  · split_ifs
    · rfl
    · rfl
  · split_ifs
    · rfl
    · rfl

theorem State.acceptWrite_of_takeIngress (haccepts : (s.takeIngress i).acceptWrite q = some w) :
    ∃ t, s.acceptWrite q = some t ∧ t.takeIngress i = w := by
  rw [State.acceptWrite_takeIngress] at haccepts
  exact Option.map_eq_some_iff.1 haccepts

theorem State.accountSeq_accounted : Accounted s (s.accountSeq q.src q.req.rseq) q :=
  ⟨tget_tmod_self, fun _ hd => tget_tmod_ne hd⟩

/-! ### What a write does at its target -/

theorem State.arrivals_outsideCores : (s.arrivals r).outsideCores = s.outsideCores :=
  foldl_keeps_view (view := State.outsideCores) (f := fun (s : State) (w : Window) => s.bumpCore (w.arrival - 0x100) w.arrCnt) (fun _ _ => rfl) _ s

theorem State.arrivals_mem : (s.arrivals r).mem = s.mem := State.mem_of_outsideCores State.arrivals_outsideCores

theorem State.arrivals_fab : (s.arrivals r).fab = s.fab :=
  show (s.arrivals r).outsideCores.fab = s.outsideCores.fab from congrArg State.fab State.arrivals_outsideCores

theorem State.arrivals_outsideArrivals : (s.arrivals r).outsideArrivals = s.outsideArrivals :=
  show (s.arrivals r).outsideCores.outsideArrivals = s.outsideCores.outsideArrivals from
    congrArg State.outsideArrivals State.arrivals_outsideCores

/-- A write into no landing window counts nowhere. -/
theorem State.arrivals_of_noLanding (hnone : s.landings r = []) : s.arrivals r = s := by
  rw [State.arrivals, hnone]
  rfl

/-- From y to v, a write has left memory `m` and counted its arrivals in the windows that w has. -/
structure WriteLanded (y w v : State) (r : RemReq) (m : Memory) : Prop where
  memory : v.mem = m
  cores : w.landings r = [] → v.cores = y.cores
  ingress : v.fab.ingress = w.fab.ingress
  only : AppliedOnly y v

/-- A write that leaves `x` at its target, before its arrivals are counted. -/
theorem landed_of_arrivals (hmem : x.mem = m) (hcores : x.cores = y.cores) (hbld : x.bld = w.bld) (hingress : x.fab.ingress = w.fab.ingress)
    (houtside : x.outsideArrivals = y.outsideArrivals) : WriteLanded y w (x.arrivals r) r m where
  memory := State.arrivals_mem.trans hmem
  cores hnone := by
    have hlandings : x.landings r = w.landings r := by rw [State.landings, State.landings, hbld]
    rw [State.arrivals_of_noLanding (hlandings.trans hnone), hcores]
  ingress := (congrArg Fabric.ingress State.arrivals_fab).trans hingress
  only := appliedOnly_of_outsideArrivals (State.arrivals_outsideArrivals.trans houtside)

theorem WriteLanded.accountSeq {src n : Nat} (hlanded : WriteLanded y w v r m) : WriteLanded y w (v.accountSeq src n) r m := by
  obtain ⟨hmemory, hcores, hingress, honly⟩ := hlanded
  refine ⟨hmemory, hcores, hingress, ?_⟩
  calc v.accountSeq src n = v.withArrivals (v.accountSeq src n) := rfl
    _ = (y.withArrivals v).withArrivals (v.accountSeq src n) := congrArg (State.withArrivals · _) honly

/-- The account of a write that left the records at its target. -/
theorem accounted_of_streams (hstreams : v.fab.streams = w.fab.streams) : Accounted w (v.accountSeq q.src q.req.rseq) q := by
  have hstream (d : Nat) : v.stream d = w.stream d := by rw [State.stream, State.stream, hstreams]
  obtain ⟨hself, hother⟩ := State.accountSeq_accounted (s := v) (q := q)
  exact ⟨hself.trans (by rw [hstream]), fun d hd => (hother d hd).trans (hstream d)⟩

/-! ### A write that its record accepts, R292, R300 -/

section
variable (harrives : s.arrives op = some (u, q))
include harrives

theorem applyWrite_refused (hrefuses : u.acceptWrite q = none) : s.applyWrite op apply = u.refuseWrite q := by
  obtain ⟨i, hi, rfl, rfl⟩ := State.arrives_takes harrives
  simp only [State.applyWrite, hi, hrefuses]

variable (haccepts : u.acceptWrite q = some w)
include haccepts

theorem applyWrite_applies (hok : w.targetCheck q = 0) : s.applyWrite op apply =
    (((apply w q).1.arrivals q.req).accountSeq q.src q.req.rseq).respond q 0 (apply w q).2 [] := by
  obtain ⟨i, hi, rfl, rfl⟩ := State.arrives_takes harrives
  simp only [State.applyWrite, hi, haccepts, hok, if_true]

theorem applyWrite_stops (hst : w.targetCheck q = st) (hne : st ≠ 0) : s.applyWrite op apply =
    ((w.tallyEcc st).accountSeq q.src q.req.rseq).respond q st 0 [] := by
  obtain ⟨i, hi, rfl, rfl⟩ := State.arrives_takes harrives
  simp only [State.applyWrite, hi, haccepts, hst, hne, if_false]

/-- What a write that has been accepted leaves as it was. -/
theorem State.accepted_frame : w.mem = s.mem ∧ w.cores = s.cores ∧ w.fab.ingress = u.fab.ingress ∧ w.outsideArrivals = s.outsideArrivals := by
  obtain ⟨hmem, hcores, -, -, houtside⟩ := State.taken_of_arrives harrives
  obtain ⟨l, rfl⟩ := State.acceptWrite_frame haccepts
  exact ⟨hmem, hcores, rfl, houtside⟩

/-- A write of bytes at its target, and its account. -/
theorem State.store_landed {bs : List Byte} : WriteLanded s w (((w.store a bs).arrivals q.req).accountSeq q.src q.req.rseq) q.req (s.mem.write a bs) ∧
    Accounted w (((w.store a bs).arrivals q.req).accountSeq q.src q.req.rseq) q := by
  obtain ⟨hmem, hcores, -, houtside⟩ := State.accepted_frame harrives haccepts
  refine ⟨(landed_of_arrivals (y := s) (w := w) (x := w.store a bs) ?_ hcores rfl rfl houtside).accountSeq,
    accounted_of_streams (congrArg Fabric.streams State.arrivals_fab)⟩
  rw [← hmem]
  rfl

/-- The state with FAB_CNT_FP_ATOMIC at `n`. -/
def State.withFpCount (s : State) (n : Nat) : State := { s with fab := { s.fab with cntFpAtomic := n } }

/-- The same of an FADD, which its home counts (R311). -/
theorem State.fadd_landed {bs : List Byte} :
    WriteLanded (s.withFpCount (w.fab.cntFpAtomic + 1)) w
        ((((w.store a bs).withFpCount (w.fab.cntFpAtomic + 1)).arrivals q.req).accountSeq q.src q.req.rseq) q.req (s.mem.write a bs) ∧
      Accounted w ((((w.store a bs).withFpCount (w.fab.cntFpAtomic + 1)).arrivals q.req).accountSeq q.src q.req.rseq) q := by
  obtain ⟨hmem, hcores, -, houtside⟩ := State.accepted_frame harrives haccepts
  refine ⟨(landed_of_arrivals (y := s.withFpCount (w.fab.cntFpAtomic + 1)) (w := w)
    (x := (w.store a bs).withFpCount (w.fab.cntFpAtomic + 1)) ?_ hcores rfl rfl (congrArg (State.withFpCount · (w.fab.cntFpAtomic + 1)) houtside)).accountSeq,
    accounted_of_streams ((congrArg Fabric.streams State.arrivals_fab).trans rfl)⟩
  rw [← hmem]
  rfl

end

/-- Table 11-1: each atomic and its word. -/
theorem atomic_rows {row : Instr} {n old : Nat}
    (hrow : (row, op, n) ∈ [(Instr.aadd, 0x10, old + r.a.toNat), (.aand, 0x13, old &&& r.a.toNat), (.aor, 0x14, old ||| r.a.toNat),
      (.axor, 0x15, old ^^^ r.a.toNat), (.aswap, 0x16, r.a.toNat),
      (.amin, 0x11, if signedOf (8 * r.len) r.a.toNat < signedOf (8 * r.len) old then r.a.toNat else old),
      (.amax, 0x12, if signedOf (8 * r.len) old < signedOf (8 * r.len) r.a.toNat then r.a.toNat else old),
      (.acas, 0x17, if old = r.a.toNat % 2 ^ (8 * r.len) then r.b.toNat else old)]) :
    ∃ f : Nat → Nat → RemReq → Nat, exec row s = .next (s.atomic op f) ∧ f (8 * r.len) old r = n := by
  simp only [List.mem_cons, Prod.mk.injEq, List.not_mem_nil, or_false] at hrow
  rcases hrow with ⟨rfl, rfl, rfl⟩ | ⟨rfl, rfl, rfl⟩ | ⟨rfl, rfl, rfl⟩ | ⟨rfl, rfl, rfl⟩ | ⟨rfl, rfl, rfl⟩ | ⟨rfl, rfl, rfl⟩ | ⟨rfl, rfl, rfl⟩ |
    ⟨rfl, rfl, rfl⟩
  · exact ⟨_, rfl, rfl⟩
  · exact ⟨_, rfl, rfl⟩
  · exact ⟨_, rfl, rfl⟩
  · exact ⟨_, rfl, rfl⟩
  · exact ⟨_, rfl, rfl⟩
  · exact ⟨_, rfl, rfl⟩
  · exact ⟨_, rfl, rfl⟩
  · exact ⟨_, rfl, rfl⟩

/-! ### STORE_F, R298 to R301 -/

/-- The data of a STORE_F, and the add to its flag. -/
def RemReq.flagged (r : RemReq) (m : Memory) : Memory :=
  (m.write (localOf r.addr.toNat) (padTo r.len r.data)).write r.flagAddr
    (leBytes 8 ((m.write (localOf r.addr.toNat) (padTo r.len r.data)).nat r.flagAddr 8 + 1))

theorem State.finishStoreF_applies (hok : w.targetCheck q = 0) :
    w.finishStoreF q = (((w.applyStoreF q true).arrivals q.req).accountSeq q.src q.req.rseq).respond q 0 0 [] := by
  simp only [State.finishStoreF, hok, if_true]

/-- A STORE_F whose gap is closed writes its data and adds to its flag. -/
theorem State.storeF_landed (hmem : w.mem = y.mem) (hcores : w.cores = y.cores) (houtside : w.outsideArrivals = y.outsideArrivals) :
    WriteLanded y w (((w.applyStoreF q true).arrivals q.req).accountSeq q.src q.req.rseq) q.req (q.req.flagged y.mem) ∧
      Accounted w (((w.applyStoreF q true).arrivals q.req).accountSeq q.src q.req.rseq) q := by
  refine ⟨(landed_of_arrivals (y := y) (w := w) (x := w.applyStoreF q true) ?_ hcores rfl rfl houtside).accountSeq,
    accounted_of_streams (congrArg Fabric.streams State.arrivals_fab)⟩
  rw [← hmem]
  rfl

/-- The state without a STORE_F that was held. -/
def State.released (s : State) (h : HeldStore) : State := { s with fab := { s.fab with held := s.fab.held.erase h } }

/-- R299: the gap before a held STORE_F has stood too long, and the missing numbers are lost. -/
def State.gapLost (s : State) (h : HeldStore) (rec : StreamRec) : State :=
  { s with fab := { s.fab with
    held := s.fab.held.erase h
    streams := tset none s.fab.streams h.inreq.src (some ((s.missing h.inreq rec ++ [h.inreq.req.rseq]).foldl StreamRec.account rec))
    cntGap := s.fab.cntGap + (s.missing h.inreq rec).length, rmEvt := s.fab.rmEvt ||| 8 } }

theorem State.gapLost_stream {h : HeldStore} :
    (s.gapLost h rec).stream h.inreq.src = some ((s.missing h.inreq rec ++ [h.inreq.req.rseq]).foldl StreamRec.account rec) := by
  unfold State.stream State.gapLost
  dsimp only
  rw [tget_tset_self]

theorem State.stream_of_fab {d : Nat} (h : t.fab = s.fab) : t.stream d = s.stream d := by rw [State.stream, State.stream, h]

section
variable (harrives : s.arrives 3 = some (u, q)) (haccepts : u.acceptWrite q = some w)
include harrives haccepts

theorem remoteStoreF_closed (hclosed : w.gapClosed q = true) : remoteStoreF s = w.finishStoreF q := by
  obtain ⟨i, hi, rfl, rfl⟩ := State.arrives_takes harrives
  obtain ⟨t, ht, rfl⟩ := State.acceptWrite_of_takeIngress haccepts
  have hgap : t.gapClosed (s.fab.ingress.getD i {}) = true := hclosed
  simp only [remoteStoreF, hi, ht, hgap, if_true]

/-- A STORE_F before a gap is held, or waits while the hold is full. -/
theorem remoteStoreF_open (hopen : w.gapClosed q = false) : remoteStoreF s =
    if s.holdFull then s
    else { u with fab := { u.fab with
      held := u.fab.held ++ [{ inreq := q, since := s.now }], heldPeak := max (u.fab.held.length + 1) u.fab.heldPeak } } := by
  obtain ⟨i, hi, rfl, rfl⟩ := State.arrives_takes harrives
  obtain ⟨t, ht, rfl⟩ := State.acceptWrite_of_takeIngress haccepts
  have hgap : t.gapClosed (s.fab.ingress.getD i {}) = false := hopen
  obtain rfl := State.acceptWrite_open ht hgap
  simp only [remoteStoreF, hi, ht, hgap, Bool.false_eq_true, if_false]

end

/-! ### The statement -/

/-- Settles O50: a write by what it leaves at its target; a STORE_F by its gap. -/
theorem remoteWrites : Obligations.RemoteWrites := by
  unfold Obligations.RemoteWrites
  refine ⟨?atomics, ?fadds, ?stores, ?flags, ?holds, ?full, ?releases, ?gaps⟩
  case atomics =>
    intro s u w q row op old n harrives haccepts hok hold hrow
    obtain ⟨f, hexec, rfl⟩ := atomic_rows (s := s) hrow
    obtain ⟨⟨hmemory, hcores, hingress, honly⟩, haccounted⟩ := State.store_landed (a := localOf q.req.addr.toNat)
      (bs := leBytes q.req.len (f (8 * q.req.len) old q.req)) harrives haccepts
    refine ⟨_, ?_, fun a => by rw [hmemory], haccounted, hcores, hingress.trans (State.accepted_frame harrives haccepts).2.2.1, honly⟩
    rw [hexec, State.atomic, applyWrite_applies harrives haccepts hok]
    simp only [hold]
  case fadds =>
    intro s u w q old harrives haccepts hok hold
    obtain ⟨hmem, -, hingress, houtside⟩ := State.accepted_frame harrives haccepts
    have hcount : w.fab.cntFpAtomic = s.fab.cntFpAtomic :=
      show w.outsideArrivals.fab.cntFpAtomic = s.outsideArrivals.fab.cntFpAtomic from congrArg (·.fab.cntFpAtomic) houtside
    obtain ⟨hlanded, haccounted⟩ := State.fadd_landed (a := localOf q.req.addr.toNat) (bs := leBytes q.req.len
      (encodeElem 0 .rne ((decodeElem 0 old).add (decodeElem 0 (q.req.a.toNat % 2 ^ 32))))) harrives haccepts
    obtain ⟨hmemory, hnoLanding, hleft, honly⟩ := hlanded
    have hcounted := congrArg (·.fab.cntFpAtomic) honly
    refine ⟨_, ?_, fun a => by rw [hmemory], haccounted, hnoLanding, hleft.trans hingress, hcounted.trans (congrArg (· + 1) hcount), ?_⟩
    · rw [exec, execFadd, fadd, applyWrite_applies harrives haccepts hok]
      simp only [hold]
      rfl
    · rw [hcounted]
      exact honly
  case stores =>
    intro s u w q harrives haccepts hok
    obtain ⟨⟨hmemory, hcores, hingress, honly⟩, haccounted⟩ := State.store_landed (a := localOf q.req.addr.toNat)
      (bs := padTo q.req.len q.req.data) harrives haccepts
    exact ⟨_, congrArg Host.Outcome.next (applyWrite_applies harrives haccepts hok), fun a => by rw [hmemory], haccounted, hcores,
      hingress.trans (State.accepted_frame harrives haccepts).2.2.1, honly⟩
  case flags =>
    intro s u w q harrives haccepts hclosed hok
    obtain ⟨hmem, hcores, hingress, houtside⟩ := State.accepted_frame harrives haccepts
    obtain ⟨⟨hmemory, hnoLanding, hleft, honly⟩, haccounted⟩ := State.storeF_landed (q := q) hmem hcores houtside
    refine ⟨_, ?_, fun a => ?_, haccounted, hnoLanding, hleft.trans hingress, honly⟩
    · exact congrArg Host.Outcome.next ((remoteStoreF_closed harrives haccepts hclosed).trans (State.finishStoreF_applies hok))
    · rw [hmemory]
      rfl
  case holds =>
    intro s u w q harrives haccepts hopen hroom
    have hheld := remoteStoreF_open harrives haccepts hopen
    rw [if_neg (by simpa [State.holdFull] using hroom)] at hheld
    obtain ⟨i, -, rfl, -⟩ := State.arrives_takes harrives
    refine ⟨_, congrArg Host.Outcome.next hheld, rfl, le_max_right _ _, ?_, rfl, rfl, rfl⟩
    exact List.length_append.trans_le (le_max_left _ _)
  case full =>
    intro s u w q harrives haccepts hopen hfull
    have hwaits := remoteStoreF_open harrives haccepts hopen
    rw [if_pos (by simpa [State.holdFull] using hfull)] at hwaits
    exact congrArg Host.Outcome.next hwaits
  case releases =>
    rintro s h q hfirst rfl hok
    obtain ⟨⟨hmemory, hnoLanding, -, honly⟩, haccounted⟩ := State.storeF_landed (q := h.inreq) (w := s.released h) (y := s.released h) rfl rfl rfl
    have hheld := congrArg (·.fab.held) honly
    refine ⟨_, ?_, hheld, fun a => ?_, haccounted, hnoLanding, ?_⟩
    · rw [exec, execStoreFRelease, storeFRelease, hfirst]
      exact congrArg Host.Outcome.next (State.finishStoreF_applies (w := s.released h) hok)
    · rw [hmemory]
      rfl
    · rw [hheld]
      exact honly
  case gaps =>
    rintro s h q rec hfirst rfl hstream hok
    obtain ⟨hmemory, hnoLanding, -, honly⟩ := landed_of_arrivals (y := s.gapLost h rec) (w := s.gapLost h rec)
      (x := (s.gapLost h rec).applyStoreF h.inreq false) (r := h.inreq.req) rfl rfl rfl rfl rfl
    have hheld := congrArg (·.fab.held) honly
    have hgap := congrArg (·.fab.cntGap) honly
    have hevent := congrArg (·.fab.rmEvt) honly
    refine ⟨_, ?_, hheld, fun a => ?_, hgap, hevent, ?_, hnoLanding, ?_⟩
    · rw [exec, execStoreFGapTimeout, storeFGapTimeout, hfirst]
      have hfits : (s.gapLost h rec).targetCheck h.inreq = 0 := hok
      simp only [hstream]
      exact congrArg (fun t : State => Host.Outcome.next (t.respond h.inreq stCheckMismatch 0 [])) (if_pos hfits)
    · rw [hmemory]
      rfl
    · exact (State.stream_of_fab State.arrivals_fab).trans State.gapLost_stream
    · rw [hheld, hgap, hevent]
      exact honly

end Sys2Proof.Machine

/-!
PROOF. Remote requests and their answers (O51). What a refusal leaves at the destination follows the rules of remote writes; a request that
leaves is `State.sends` of the request that `State.numbered` makes; the end of a request is said once, by `RequestEnded`.
-/

namespace Sys2Proof.Machine

variable {s t u v w : State} {e op st i n : Nat} {q : InReq} {r x : RemReq} {p : InRsp} {ps : List InRsp} {old : BitVec 64} {data : List Byte}

/-! ### Refusals at the destination, R292, R300 -/

/-- The rows that apply one write: what each changes is a function of the state and the request. -/
theorem write_rows {row : Instr} (hrow : (row, op) ∈ [(Instr.remoteStore, 2), (.aadd, 0x10), (.amin, 0x11), (.amax, 0x12), (.aand, 0x13), (.aor, 0x14),
      (.axor, 0x15), (.aswap, 0x16), (.acas, 0x17), (.fadd, 0x18)]) :
    ∃ apply : State → InReq → State × BitVec 64, exec row s = .next (s.applyWrite op apply) := by
  simp only [List.mem_cons, Prod.mk.injEq, List.not_mem_nil, or_false] at hrow
  rcases hrow with ⟨rfl, rfl⟩ | ⟨rfl, rfl⟩ | ⟨rfl, rfl⟩ | ⟨rfl, rfl⟩ | ⟨rfl, rfl⟩ | ⟨rfl, rfl⟩ | ⟨rfl, rfl⟩ | ⟨rfl, rfl⟩ | ⟨rfl, rfl⟩ | ⟨rfl, rfl⟩
  · exact ⟨_, rfl⟩
  · exact ⟨_, rfl⟩
  · exact ⟨_, rfl⟩
  · exact ⟨_, rfl⟩
  · exact ⟨_, rfl⟩
  · exact ⟨_, rfl⟩
  · exact ⟨_, rfl⟩
  · exact ⟨_, rfl⟩
  · exact ⟨_, rfl⟩
  · exact ⟨_, rfl⟩

theorem remoteStoreF_refused (harrives : s.arrives 3 = some (u, q)) (hrefuses : u.acceptWrite q = none) :
    remoteStoreF s = u.refuseWrite q := by
  obtain ⟨i, hi, rfl, rfl⟩ := State.arrives_takes harrives
  rw [State.acceptWrite_takeIngress, Option.map_eq_none_iff] at hrefuses
  simp only [remoteStoreF, hi, hrefuses]

/-- Every row refuses a write that its record does not accept. -/
theorem refused_rows {row : Instr} (hrow : (row, op) ∈ [(Instr.remoteStore, 2), (.remoteStoreF, 3), (.aadd, 0x10), (.amin, 0x11), (.amax, 0x12),
      (.aand, 0x13), (.aor, 0x14), (.axor, 0x15), (.aswap, 0x16), (.acas, 0x17), (.fadd, 0x18)])
    (harrives : s.arrives op = some (u, q)) (hrefuses : u.acceptWrite q = none) : exec row s = .next (u.refuseWrite q) := by
  have hwrite (hother : (row, op) ∈ [(Instr.remoteStore, 2), (.aadd, 0x10), (.amin, 0x11), (.amax, 0x12), (.aand, 0x13), (.aor, 0x14),
      (.axor, 0x15), (.aswap, 0x16), (.acas, 0x17), (.fadd, 0x18)]) : exec row s = .next (u.refuseWrite q) := by
    obtain ⟨apply, hexec⟩ := write_rows (s := s) hother
    rw [hexec, applyWrite_refused harrives hrefuses]
  rcases List.mem_cons.1 hrow with hstore | hrow
  · exact hwrite (List.mem_cons.2 (.inl hstore))
  rcases List.mem_cons.1 hrow with hflag | hrow
  · obtain ⟨rfl, rfl⟩ := Prod.mk.inj hflag
    exact congrArg Host.Outcome.next (remoteStoreF_refused harrives hrefuses)
  · exact hwrite (List.mem_cons.2 (.inr hrow))

theorem State.tallyEcc_outsideArrivals : (s.tallyEcc st).outsideArrivals = s.outsideArrivals := by
  unfold State.tallyEcc
  split_ifs
  · rfl
  · rfl

theorem State.tallyEcc_zero : s.tallyEcc 0 = s := if_neg (by decide)

theorem remoteLoad_answers (harrives : s.arrives 1 = some (u, q)) (hst : u.targetCheck q = st) : remoteLoad s =
    (u.tallyEcc st).respond q st 0 (if st = 0 then u.mem.bytes (localOf q.req.addr.toNat) q.req.len else []) := by
  obtain ⟨i, hi, rfl, rfl⟩ := State.arrives_takes harrives
  simp only [remoteLoad, hi, hst]

/-! ### A request leaves, R294, R296, R307 -/

/-- Of more consecutive numbers than a list has elements, one is not in it, as long as they differ modulo `m`. -/
theorem exists_unlisted {l : List Nat} {m a : Nat} (hlength : l.length < m) : ∃ k, k < l.length + 1 ∧ (a + k) % m ∉ l := by
  by_contra hall
  push Not at hall
  have hnodup : ((List.range (l.length + 1)).map fun k => (a + k) % m).Nodup := by
    refine List.Nodup.map_on (fun j hj k hk hsame => ?_) List.nodup_range
    have hj' := List.mem_range.1 hj
    have hk' := List.mem_range.1 hk
    exact (Nat.ModEq.add_left_cancel' a hsame).eq_of_lt_of_lt (by omega) (by omega)
  have hsubset : ((List.range (l.length + 1)).map fun k => (a + k) % m) ⊆ l := by
    intro y hy
    obtain ⟨k, hk, rfl⟩ := List.mem_map.1 hy
    exact hall k (List.mem_range.1 hk)
  have hle := (List.subperm_of_subset hnodup hsubset).length_le
  rw [List.length_map, List.length_range] at hle
  omega

/-- R295: no outstanding request carries the tag of the next one. -/
theorem State.freeTag_unused (hroom : s.fab.outstanding.length < 65536) (hx : x ∈ s.fab.outstanding) : x.tag ≠ s.freeTag := by
  obtain ⟨k, hk, hfree⟩ := exists_unlisted (l := s.fab.outstanding.map (·.tag)) (m := 65536) (a := s.fab.nextTag) (by simpa using hroom)
  rw [List.length_map] at hk
  have hsome : ((List.range (s.fab.outstanding.length + 1)).find? fun i =>
      s.fab.outstanding.all fun r => r.tag != (s.fab.nextTag + i) % 65536).isSome = true := by
    rw [List.find?_isSome]
    refine ⟨k, List.mem_range.2 hk, List.all_eq_true.2 fun y hy => bne_iff_ne.2 fun hsame => hfree ?_⟩
    exact hsame ▸ List.mem_map_of_mem hy
  obtain ⟨j, hj⟩ := Option.isSome_iff_exists.1 hsome
  have hunused := List.find?_some hj
  rw [State.freeTag, hj]
  exact bne_iff_ne.1 (List.all_eq_true.1 hunused x hx)

/-- The request as it leaves: with its tag, its number in its stream and its deadline. -/
def State.numbered (s : State) (r : RemReq) : RemReq :=
  { r with tag := s.freeTag, sync := r.isWrite && !tget false s.fab.synced (devOf r.addr.toNat)
           rseq := if r.isWrite then tget 0 s.fab.rseq (devOf r.addr.toNat) else 0, deadline := s.now + s.loadTimeout }

/-- The state without a request that waited. -/
def State.unqueued (s : State) (i : Nat) : State := { s with fab := { s.fab with toSend := s.fab.toSend.eraseIdx i } }

/-- A request is outstanding, and its stream goes on. -/
def State.sends (s : State) (r : RemReq) : State :=
  { s with fab := { s.fab with
      outstanding := s.fab.outstanding ++ [r], nextTag := (r.tag + 1) % 65536
      rseq := if r.isWrite then tset 0 s.fab.rseq (devOf r.addr.toNat) ((r.rseq + 1) % 65536) else s.fab.rseq
      syncWait := if r.sync then tset 0 s.fab.syncWait (devOf r.addr.toNat) (r.tag + 1) else s.fab.syncWait
      synced := if r.sync then tset false s.fab.synced (devOf r.addr.toNat) true else s.fab.synced } }

section
variable (hnext : s.nextSend = some i) (hr : s.fab.toSend.getD i {} = r)
include hnext hr

/-- What becomes of the request that goes next. -/
theorem remoteRequestSend_next : remoteRequestSend s =
    if devOf r.addr.toNat = 0xFFFF then (s.unqueued i).endRequest (s.numbered r) stBounds 0 []
    else ((s.unqueued i).inject 2 0x10 (devOf r.addr.toNat) (flowKey r.addr.toNat) (s.numbered r).payload).elim
      ((s.unqueued i).endRequest (s.numbered r) stRouteDead 0 []) fun t => (t.sends (s.numbered r)).leftCore (s.numbered r) := by
  simp only [remoteRequestSend, hnext, hr]
  refine if_congr Iff.rfl rfl ?_
  change (match (s.unqueued i).inject 2 0x10 (devOf r.addr.toNat) (flowKey r.addr.toNat) (s.numbered r).payload with
    | none => _
    | some t => _) = _
  cases (s.unqueued i).inject 2 0x10 (devOf r.addr.toNat) (flowKey r.addr.toNat) (s.numbered r).payload with
  | none => rfl
  | some t => rfl

theorem remoteRequestSend_sends (hdev : devOf r.addr.toNat ≠ 0xFFFF)
    (hroute : (s.unqueued i).inject 2 0x10 (devOf r.addr.toNat) (flowKey r.addr.toNat) (s.numbered r).payload = some u) :
    remoteRequestSend s = (u.sends (s.numbered r)).leftCore (s.numbered r) := by
  rw [remoteRequestSend_next hnext hr, if_neg hdev, hroute, Option.elim_some]

theorem remoteRequestSend_ends (hends : devOf r.addr.toNat = 0xFFFF ∧ st = stBounds ∨ devOf r.addr.toNat ≠ 0xFFFF ∧ st = stRouteDead ∧
      (s.unqueued i).inject 2 0x10 (devOf r.addr.toNat) (flowKey r.addr.toNat) (s.numbered r).payload = none) :
    remoteRequestSend s = (s.unqueued i).endRequest (s.numbered r) st 0 [] := by
  rw [remoteRequestSend_next hnext hr]
  rcases hends with ⟨hdev, rfl⟩ | ⟨hdev, rfl, hroute⟩
  · rw [if_pos hdev]
  · rw [if_neg hdev, hroute, Option.elim_none]

end

/-- R287: a flit that is injected waits at its port; nothing else changes. -/
theorem State.inject_onlyPorts {vc typ dst key : Nat} {payload : List Byte} (hinject : s.inject vc typ dst key payload = some u) :
    u = { s with ports := u.ports } := by
  unfold State.inject at hinject
  split at hinject
  · exact absurd hinject (by simp)
  · split at hinject
    · exact absurd hinject (by simp)
    · split at hinject
      · exact absurd hinject (by simp)
      · rw [← Option.some.inj hinject]
        rfl

/-- What a flit that is injected leaves. -/
theorem State.inject_frame {vc typ dst key : Nat} {payload : List Byte} (hinject : s.inject vc typ dst key payload = some u) :
    u.fab = s.fab ∧ u.mem = s.mem ∧ u.cores = s.cores := by
  rw [State.inject_onlyPorts hinject]
  exact ⟨rfl, rfl, rfl⟩

theorem State.leftCore_outsideCores : (s.leftCore r).outsideCores = s.outsideCores := by
  unfold State.leftCore
  split_ifs
  · rfl
  · rfl

/-- A request that is a read, or of no core, leaves the cores as they are. -/
theorem State.leftCore_cores (hother : r.requester < 0x100 ∨ r.isWrite = false) : (s.leftCore r).cores = s.cores := by
  rw [State.leftCore, if_pos (by simpa using hother)]

/-- R294, R296: what the request that goes next satisfies. -/
theorem State.nextSend_spec (hnext : s.nextSend = some i) (hr : s.fab.toSend.getD i {} = r) :
    i < s.fab.toSend.length ∧ s.canSend r = true ∧
      ∀ q ∈ s.fab.toSend.take i, q.requester ≠ r.requester ∨ q.jobSlot ≠ r.jobSlot ∨ q.isWrite ≠ r.isWrite := by
  have hfound := List.find?_some hnext
  rw [hr, Bool.and_eq_true] at hfound
  obtain ⟨hcan, hfirst⟩ := hfound
  refine ⟨List.mem_range.1 (List.mem_of_find?_eq_some hnext), hcan, fun q hq => ?_⟩
  simpa only [Bool.or_eq_true, bne_iff_ne, or_assoc] using List.all_eq_true.1 hfirst q hq

theorem State.canSend_iff : s.canSend r = true ↔ r.cycle < s.engCycle ∧ (r.requester < 0x100 ∨ s.outstandingOf r.requester < 256) ∧
    (r.isWrite = false ∨ tget 0 s.fab.syncWait (devOf r.addr.toNat) = 0 ∧ (s.slot r.jobSlot).provisional = false) := by
  simp [State.canSend, and_assoc]

/-! ### The end of a request, R308 to R310 -/

/-- What the end of a request writes at its requester. -/
def RemReq.writes (r : RemReq) (st : Nat) (old : BitVec 64) (data : List Byte) : List (Nat × List Byte) :=
  if r.op = 1 ∨ 0x10 ≤ r.op then spread (r.result st old data) r.dest else []

theorem RemReq.writes_failed (hst : st ≠ 0) :
    r.writes st old data = if r.op = 1 ∨ 0x10 ≤ r.op then spread (List.replicate r.len 0xFF) r.dest else [] := by
  rw [RemReq.writes, RemReq.result, if_pos (bne_iff_ne.2 hst)]

theorem RemReq.writes_ok : r.writes 0 old data =
    if r.op = 1 then spread (padTo r.len data) r.dest else if 0x10 ≤ r.op then spread (leBytes r.len old.toNat) r.dest else [] := by
  have hresult : r.result 0 old data = if r.op = 1 then padTo r.len data else leBytes r.len old.toNat := if_neg (by decide)
  rw [RemReq.writes, hresult]
  by_cases hload : r.op = 1
  · simp [hload]
  · simp [hload]

/-- Memory, and what of the requests the commands that waited for them do not change. -/
def State.requestView (s : State) : Memory × Fabric := (s.mem, { s.fab with endings := [], syncWait := [], synced := [] })

/-- The state in which a request has ended, before its fault record. -/
def State.unasked (s : State) (r : RemReq) (st : Nat) (old : BitVec 64) (data : List Byte) : State :=
  State.storeAll { s with fab := { s.fab with outstanding := s.fab.outstanding.erase r } } (r.writes st old data)

theorem State.endRequest_view : (s.endRequest r st old data).requestView = ((s.unasked r st old data).remoteFault r st).requestView := by
  have hwritten : (if (r.op = 0x01 || 0x10 ≤ r.op) = true then
      State.writeResult { s with fab := { s.fab with outstanding := s.fab.outstanding.erase r } } r (r.result st old data)
      else { s with fab := { s.fab with outstanding := s.fab.outstanding.erase r } }) = s.unasked r st old data := by
    rw [State.unasked, RemReq.writes]
    by_cases hresult : r.op = 1 ∨ 0x10 ≤ r.op
    · rw [if_pos hresult, if_pos (by simpa using hresult), State.writeResult]
    · rw [if_neg hresult, if_neg (by simpa using hresult)]
      rfl
  rw [State.endRequest]
  dsimp only
  rw [hwritten, State.settleEndings_view (view := State.requestView)]
  · rw [State.coreRequestEnd_frame, State.streamEnd_frame]
    rfl
  · intro t c b g
    rw [State.requestView, State.conclude_mem, State.conclude_fab]
    rfl
  · exact fun _ => rfl

/-- From s to t, the request has ended with a status, and has written `m`. -/
structure RequestEnded (s t : State) (r : RemReq) (st : Nat) (m : Memory) : Prop where
  mem : t.mem = m
  outstanding : t.fab.outstanding = s.fab.outstanding.erase r
  toSend : t.fab.toSend = s.fab.toSend
  rseq : t.fab.rseq = s.fab.rseq
  responses : t.fab.responses = s.fab.responses
  fault : st ≠ 0 → t.fab.lastStatus = st ∧ t.fab.lastAddr = r.addr ∧ t.fab.lastOp = r.op ∧ t.fab.lastReq = r.requester ∧
    t.fab.rmEvt = s.fab.rmEvt ||| rmEvtOf st ∧ t.fab.cntTimeout = s.fab.cntTimeout + if st = stRemoteTimeout then 1 else 0
  quiet : st = 0 → t.fab.lastStatus = s.fab.lastStatus ∧ t.fab.rmEvt = s.fab.rmEvt

/-- The fabric's registers after the fault record of a request (R310). -/
def Fabric.faulted (f : Fabric) (s : State) (r : RemReq) (st : Nat) : Fabric :=
  { f with
    rmEvt := f.rmEvt ||| rmEvtOf st
    cntTimeout := f.cntTimeout + (if st = stRemoteTimeout then 1 else 0)
    lastAddr := r.addr, lastStatus := st, lastOp := r.op, lastReq := r.requester, lastTime := s.now % 2 ^ 32 }

theorem State.remoteFault_view : (s.remoteFault r st).requestView =
    (s.mem, { (if st = 0 then s.fab else s.fab.faulted s r st) with endings := [], syncWait := [], synced := [] }) := by
  by_cases hst : st = 0
  · rw [State.remoteFault, if_pos hst, if_pos hst]
    rfl
  · rw [State.remoteFault, if_neg hst, if_neg hst]
    rfl

theorem State.endRequest_ended : RequestEnded s (s.endRequest r st old data) r st (s.storeAll (r.writes st old data)).mem := by
  have hview := State.endRequest_view (s := s) (r := r) (st := st) (old := old) (data := data)
  rw [State.remoteFault_view] at hview
  have hfab : (s.unasked r st old data).fab = { s.fab with outstanding := s.fab.outstanding.erase r } := State.storeAll_fab
  have hmem : (s.unasked r st old data).mem = (s.storeAll (r.writes st old data)).mem := State.storeAll_mem_congr rfl
  rw [hfab, hmem] at hview
  generalize s.endRequest r st old data = t at hview
  generalize s.unasked r st old data = y at hview
  obtain ⟨hm, hf⟩ := Prod.mk.inj hview
  refine ⟨hm, ?_, ?_, ?_, ?_, fun hst => ?_, fun hst => ?_⟩
  · exact (congrArg Fabric.outstanding hf).trans (by dsimp only; split_ifs <;> rfl)
  · exact (congrArg Fabric.toSend hf).trans (by dsimp only; split_ifs <;> rfl)
  · exact (congrArg Fabric.rseq hf).trans (by dsimp only; split_ifs <;> rfl)
  · exact (congrArg Fabric.responses hf).trans (by dsimp only; split_ifs <;> rfl)
  · rw [if_neg hst] at hf
    exact ⟨congrArg Fabric.lastStatus hf, congrArg Fabric.lastAddr hf, congrArg Fabric.lastOp hf, congrArg Fabric.lastReq hf,
      congrArg Fabric.rmEvt hf, congrArg Fabric.cntTimeout hf⟩
  · rw [if_pos hst] at hf
    exact ⟨(congrArg Fabric.lastStatus hf).trans rfl, (congrArg Fabric.rmEvt hf).trans rfl⟩

/-! ### A response, R289, R307 -/

/-- The state without its first response. -/
def State.answeredFirst (s : State) (p : InRsp) (ps : List InRsp) : State :=
  { s with fab := { s.fab with responses := ps } }.modPort p.port fun x => x.freeBuffer p.vc

theorem memRspReceive_found (hfirst : s.fab.responses = p :: ps)
    (hfound : (s.fab.outstanding.find? fun r => r.tag == p.tag && decide (p.at' ≤ r.deadline)) = some r) :
    memRspReceive s = (s.answeredFirst p ps).endRequest r p.status p.old p.data := by
  simp only [memRspReceive, hfirst, hfound]
  rfl

theorem memRspReceive_late (hfirst : s.fab.responses = p :: ps)
    (hnone : (s.fab.outstanding.find? fun r => r.tag == p.tag && decide (p.at' ≤ r.deadline)) = none) :
    memRspReceive s = { s.answeredFirst p ps with fab := { (s.answeredFirst p ps).fab with cntLate := s.fab.cntLate + 1 } } := by
  simp only [memRspReceive, hfirst, hnone]
  rfl

/-! ### The statement -/

/-- Settles O51: refusals at the destination, requests that leave or end at issue, responses and deadlines. -/
theorem remoteAnswers : Obligations.RemoteAnswers := by
  unfold Obligations.RemoteAnswers
  refine ⟨?refused, ?stops, ?loads, ?loadStops, ?sends, ?ends, ?next, ?none, ?answered, ?failed, ?late, ?deadline, ?inTime⟩
  case refused =>
    intro s u q row op harrives hrefuses hrow
    obtain ⟨hmem, -, hstreams, hevent, -⟩ := State.taken_of_arrives harrives
    refine ⟨{ u with fab := { u.fab with rmEvt := s.fab.rmEvt ||| 16 } }, ?_, rfl, hmem, hstreams⟩
    rw [refused_rows hrow harrives hrefuses, ← hevent]
    rfl
  case stops =>
    intro s u w q row op st harrives haccepts hst hne hrow
    obtain ⟨apply, hexec⟩ := write_rows (s := s) hrow
    obtain ⟨hmem, hcores, hingress, houtside⟩ := State.accepted_frame harrives haccepts
    refine ⟨_, hexec.trans (congrArg Host.Outcome.next (applyWrite_stops harrives haccepts hst hne)), ?_, ?_,
      accounted_of_streams (congrArg Fabric.streams State.tallyEcc_fab), ?_, ?_⟩
    · exact State.tallyEcc_mem.trans hmem
    · exact State.tallyEcc_cores.trans hcores
    · exact (congrArg Fabric.ingress State.tallyEcc_fab).trans hingress
    · exact appliedOnly_of_outsideArrivals (show ((w.tallyEcc st).accountSeq q.src q.req.rseq).outsideArrivals = _ from
        State.tallyEcc_outsideArrivals.trans houtside)
  case loads =>
    intro s u q harrives hok
    obtain ⟨hmem, -, hstreams, -, -⟩ := State.taken_of_arrives harrives
    refine ⟨u, ?_, rfl, hmem, hstreams⟩
    rw [exec, execRemoteLoad, remoteLoad_answers harrives hok, State.tallyEcc_zero, if_pos rfl, hmem]
  case loadStops =>
    intro s u q st harrives hst hne
    refine ⟨u.tallyEcc st, ?_, rfl, State.tallyEcc_mem.trans (State.taken_of_arrives harrives).mem⟩
    rw [exec, execRemoteLoad, remoteLoad_answers harrives hst, if_neg hne]
  case sends =>
    rintro s u i r r' hnext hr hroom hdev rfl hroute
    obtain ⟨hufab, humem, hucores⟩ := State.inject_frame (s := s.unqueued i) hroute
    have hsends := remoteRequestSend_sends hnext hr hdev hroute
    have hcores := State.eq_of_outsideCores (State.leftCore_outsideCores (s := u.sends (s.numbered r)) (r := s.numbered r))
    have hkept : r.requester < 0x100 ∨ r.isWrite = false → ((u.sends (s.numbered r)).leftCore (s.numbered r)).cores = s.cores := fun hother =>
      (State.leftCore_cores (s := u.sends (s.numbered r)) (r := s.numbered r) hother).trans hucores
    generalize (u.sends (s.numbered r)).leftCore (s.numbered r) = t at hsends hcores hkept
    have hfab : t.fab = (u.sends (s.numbered r)).fab := (congrArg State.fab hcores).trans rfl
    have hmem : t.mem = u.mem := (congrArg State.mem hcores).trans rfl
    refine ⟨t, congrArg Host.Outcome.next hsends, ?_, fun x hx => State.freeTag_unused hroom hx, ?_, ?_, fun hwrite => ?_, fun hread => ?_,
      fun hsync => ?_, fun hnosync => ?_, hmem.trans humem, hkept, ?_⟩
    · rw [hfab, State.sends, hufab]
      rfl
    · rw [hfab, State.sends, hufab]
      rfl
    · rw [hfab]
      rfl
    · rw [hfab, State.sends, hufab]
      have hnumber : (s.numbered r).rseq = tget 0 s.fab.rseq (devOf r.addr.toNat) := if_pos hwrite
      have hkind : (s.numbered r).isWrite = true := hwrite
      simp only [hkind, if_true]
      rw [hnumber]
      exact tget_tset_self
    · rw [hfab, State.sends, hufab]
      have hkind : (s.numbered r).isWrite = false := hread
      simp only [hkind, Bool.false_eq_true, if_false]
      rfl
    · have hsync' : (s.numbered r).sync = true := hsync
      rw [hfab, State.sends]
      simp only [hsync', if_true]
      exact ⟨tget_tset_self, tget_tset_self⟩
    · have hsync' : (s.numbered r).sync = false := hnosync
      rw [hfab, State.sends, hufab]
      simp only [hsync', Bool.false_eq_true, if_false]
      exact ⟨rfl, rfl⟩
    · rw [hfab]
      exact hcores
  case ends =>
    rintro s i st r r' hnext hr rfl hends
    have hst : st ≠ 0 := by
      rcases hends with ⟨-, rfl⟩ | ⟨-, rfl, -⟩
      · decide
      · decide
    obtain ⟨hmem, houtstanding, htoSend, hrseq, -, hfault, -⟩ := State.endRequest_ended (s := s.unqueued i) (r := s.numbered r) (st := st) (old := 0)
      (data := [])
    obtain ⟨hstatus, haddr, hop, hrequester, -, -⟩ := hfault hst
    refine ⟨_, congrArg Host.Outcome.next (remoteRequestSend_ends hnext hr hends), htoSend, hstatus, haddr, hop, hrequester, houtstanding, hrseq, ?_⟩
    rw [hmem, RemReq.writes_failed hst]
    exact State.storeAll_mem_congr rfl
  case next =>
    intro s i r hnext hr
    obtain ⟨hi, hcan, hfirst⟩ := State.nextSend_spec hnext hr
    obtain ⟨hcycle, hroom, hstream⟩ := State.canSend_iff.1 hcan
    exact ⟨hi, hcycle, fun hcore => hroom.resolve_left (Nat.not_lt.2 hcore), fun hwrite => hstream.resolve_left (by simp [hwrite]), hfirst⟩
  case none =>
    intro s hnone
    simp only [exec, execRemoteRequestSend, remoteRequestSend, hnone]
  case answered =>
    intro s p ps r hfirst hfound hok
    have hends := memRspReceive_found hfirst hfound
    rw [hok] at hends
    obtain ⟨hmem, houtstanding, -, -, hresponses, -, hquiet⟩ := State.endRequest_ended (s := s.answeredFirst p ps) (r := r) (st := 0) (old := p.old)
      (data := p.data)
    obtain ⟨hstatus, hevent⟩ := hquiet rfl
    refine ⟨_, congrArg Host.Outcome.next hends, hresponses, houtstanding, ?_, hstatus, hevent⟩
    rw [hmem, RemReq.writes_ok]
    exact State.storeAll_mem_congr rfl
  case failed =>
    intro s p ps r hfirst hfound hst
    obtain ⟨hmem, houtstanding, -, -, hresponses, hfault, -⟩ := State.endRequest_ended (s := s.answeredFirst p ps) (r := r) (st := p.status)
      (old := p.old) (data := p.data)
    obtain ⟨hstatus, haddr, hop, hrequester, -, -⟩ := hfault hst
    refine ⟨_, congrArg Host.Outcome.next (memRspReceive_found hfirst hfound), hresponses, houtstanding, ?_, hstatus, haddr, hop, hrequester⟩
    rw [hmem, RemReq.writes_failed hst]
    exact State.storeAll_mem_congr rfl
  case late =>
    intro s p ps hfirst hlate
    have hnone : (s.fab.outstanding.find? fun r => r.tag == p.tag && decide (p.at' ≤ r.deadline)) = none := by
      refine List.find?_eq_none.2 fun r hr => ?_
      simpa using hlate r hr
    exact ⟨_, congrArg Host.Outcome.next (memRspReceive_late hfirst hnone), rfl⟩
  case deadline =>
    intro s n r hfound
    obtain ⟨hmem, houtstanding, -, -, -, hfault, -⟩ := State.endRequest_ended (s := s) (r := r) (st := stRemoteTimeout) (old := 0) (data := [])
    obtain ⟨hstatus, -, -, -, hevent, hcount⟩ := hfault (by decide)
    refine ⟨s.endRequest r stRemoteTimeout 0 [], ?_, houtstanding, hcount, hstatus, hevent, ?_⟩
    · simp only [exec, execRemoteRequestDeadline, remoteRequestDeadline, hfound]
    · rw [hmem, RemReq.writes_failed (by decide)]
  case inTime =>
    intro s n hall
    have hnone : (s.fab.outstanding.find? fun r => r.tag == n && decide (r.deadline < s.now) &&
        s.fab.responses.all (fun p => p.tag != n || decide (r.deadline < p.at'))) = none := by
      refine List.find?_eq_none.2 fun r hr hdue => ?_
      simp only [Bool.and_eq_true, beq_iff_eq, decide_eq_true_eq, List.all_eq_true, Bool.or_eq_true, bne_iff_ne] at hdue
      obtain ⟨⟨htag, hpast⟩, hnoAnswer⟩ := hdue
      rcases hall r hr htag with hintime | ⟨p, hp, hanswers, hbefore⟩
      · exact absurd hpast (Nat.not_lt.2 hintime)
      · exact (hnoAnswer p hp).elim (fun hother => hother hanswers) fun hafter => absurd hbefore (Nat.not_le.2 hafter)
    simp only [exec, execRemoteRequestDeadline, remoteRequestDeadline, hnone]

end Sys2Proof.Machine

/-!
PROOF. Tin (O48). What the translation layer does to its blocks is `Tin.Worked`, kept by each of its steps and so by what is made of them; the
objects change by `State.putTin` alone, and a command's end leaves Tin as its row made it (`TinEnded`).
-/

namespace Sys2Proof.Machine

variable {s t u v : State} {c : Cmd} {e op st d b n h off len : Nat} {x y z : Tin} {failed l : List Nat} {us : List TinUnit}
  {f : TinBlock → TinBlock} {o : TinObject} {m : Memory}

/-! ### The translation layer's work, R361, R362 -/

/-- Tin but for its blocks and what their failures change. -/
def Tin.outsideBlocks (x : Tin) : Tin := { x with blocks := [], spare := 0, state := 0 }

/-- Tin is mounted, or read-only without a spare. -/
def Tin.InService (x : Tin) : Prop := x.state = 2 ∨ x.state = 3 ∧ x.spare = 0

/-- From x to y the translation layer has worked on blocks, of which those of `failed` may have failed. -/
structure Tin.Worked (failed : List Nat) (x y : Tin) : Prop where
  outside : y.outsideBlocks = x.outsideBlocks
  spare : y.spare ≤ x.spare
  retired : ∀ n, (y.block n).retired = true → (x.block n).retired = true ∨ n ∈ failed
  service : x.InService → y.InService
  patrol : ∀ n, (y.block n).patrolAt = (x.block n).patrolAt

theorem Tin.Worked.refl : Tin.Worked failed x x := ⟨rfl, le_rfl, fun _ => .inl, id, fun _ => rfl⟩

theorem Tin.Worked.trans (hxy : Tin.Worked failed x y) (hyz : Tin.Worked failed y z) : Tin.Worked failed x z where
  outside := hyz.outside.trans hxy.outside
  spare := hyz.spare.trans hxy.spare
  retired n hn := (hyz.retired n hn).elim (hxy.retired n) .inr
  service := hyz.service ∘ hxy.service
  patrol n := (hyz.patrol n).trans (hxy.patrol n)

theorem Tin.Worked.objects (hworked : Tin.Worked failed x y) : y.objects = x.objects :=
  show y.outsideBlocks.objects = x.outsideBlocks.objects from congrArg Tin.objects hworked.outside

theorem Tin.Worked.cntMove (hworked : Tin.Worked failed x y) : y.cntMove = x.cntMove :=
  show y.outsideBlocks.cntMove = x.outsideBlocks.cntMove from congrArg Tin.cntMove hworked.outside

@[simp] theorem Tin.block_modBlock : (x.modBlock n f).block n = f (x.block n) := tget_tmod_self

theorem Tin.block_modBlock_ne (hb : b ≠ n) : (x.modBlock n f).block b = x.block b := tget_tmod_ne hb

/-- A block that is changed in use: it is as retired as it was, and its patrol is due when it was. -/
theorem Tin.worked_modBlock (hf : ∀ b, (f b).retired = b.retired ∧ (f b).patrolAt = b.patrolAt) : Tin.Worked failed x (x.modBlock n f) := by
  refine ⟨rfl, le_rfl, fun k hk => .inl ?_, id, fun k => ?_⟩
  · by_cases hkn : k = n
    · rwa [hkn, Tin.block_modBlock, (hf _).1, ← hkn] at hk
    · rwa [Tin.block_modBlock_ne hkn] at hk
  · by_cases hkn : k = n
    · rw [hkn, Tin.block_modBlock, (hf _).2]
    · rw [Tin.block_modBlock_ne hkn]

theorem Tin.block_of_blocks (hblocks : y.blocks = x.blocks) : y.block b = x.block b := by rw [Tin.block, Tin.block, hblocks]

/-- A block that is retired holds no unit. -/
def TinBlock.retire (k : TinBlock) : TinBlock := { k with retired := true, units := [] }

theorem Tin.retire_blocks : (x.retire n).blocks = (x.modBlock n TinBlock.retire).blocks := rfl

theorem Tin.block_retire : (x.retire n).block n = (x.block n).retire := (Tin.block_of_blocks Tin.retire_blocks).trans Tin.block_modBlock

theorem Tin.block_retire_ne (hb : b ≠ n) : (x.retire n).block b = x.block b :=
  (Tin.block_of_blocks Tin.retire_blocks).trans (Tin.block_modBlock_ne hb)

theorem Tin.retire_state : (x.retire n).state = if x.spare - 1 = 0 ∧ x.state = 2 then 3 else x.state := by
  simp [Tin.retire]

/-- R362, R363: a block of those that may fail is retired. -/
theorem Tin.worked_retire (hn : n ∈ failed) : Tin.Worked failed x (x.retire n) where
  outside := rfl
  spare := Nat.sub_le _ _
  retired k hk := by
    by_cases hkn : k = n
    · exact .inr (hkn ▸ hn)
    · exact .inl (by rwa [Tin.block_retire_ne hkn] at hk)
  service hx := by
    have hspare : (x.retire n).spare = x.spare - 1 := rfl
    rw [Tin.InService, hspare, Tin.retire_state]
    rcases hx with hmounted | ⟨hreadOnly, hnone⟩
    · by_cases hlast : x.spare - 1 = 0
      · exact .inr ⟨if_pos ⟨hlast, hmounted⟩, hlast⟩
      · exact .inl (by rw [if_neg fun hboth => hlast hboth.1, hmounted])
    · exact .inr ⟨by rw [if_neg (by simp [hreadOnly]), hreadOnly], by rw [hnone]⟩
  patrol k := by
    by_cases hkn : k = n
    · rw [hkn, Tin.block_retire, TinBlock.retire]
    · rw [Tin.block_retire_ne hkn]

theorem Tin.worked_free : Tin.Worked failed x (x.free failed n) := by
  unfold Tin.free
  split_ifs with hn
  · exact Tin.worked_retire (List.contains_iff_mem.1 hn)
  · exact Tin.worked_modBlock fun _ => ⟨rfl, rfl⟩

theorem Tin.worked_drop {w : TinUnit} : Tin.Worked failed x (x.drop failed w) := by
  unfold Tin.drop
  split
  · exact .refl
  · dsimp only
    split_ifs
    · exact Tin.worked_free
    · exact Tin.worked_modBlock fun _ => ⟨rfl, rfl⟩

/-- What every round of a fold works on, the fold does. -/
theorem Tin.worked_foldl {g : Tin → TinUnit → Tin} (hg : ∀ y w, Tin.Worked failed y (g y w)) : Tin.Worked failed x (us.foldl g x) := by
  induction us generalizing x with
  | nil => exact .refl
  | cons w us ih => exact (hg x w).trans ih

theorem Tin.worked_put {fuel : Nat} {w : TinUnit} : Tin.Worked failed x (Tin.put failed fuel x w) := by
  induction fuel generalizing x w with
  | zero => exact .refl
  | succ fuel ih =>
    rw [Tin.put]
    split
    · exact .refl
    · split_ifs with hn
      · exact (Tin.worked_retire (List.contains_iff_mem.1 hn)).trans (Tin.worked_foldl fun _ _ => ih)
      · exact Tin.worked_modBlock fun _ => ⟨rfl, rfl⟩

theorem Tin.worked_rewrite : Tin.Worked failed x (x.rewrite failed us) := Tin.worked_foldl fun _ _ => Tin.worked_drop.trans Tin.worked_put

theorem Tin.worked_forget : Tin.Worked failed x (x.forget failed o) := Tin.worked_foldl fun _ _ => Tin.worked_drop

/-- A block whose read is counted, when it holds one of the units. -/
def TinBlock.counted (us : List TinUnit) (b : TinBlock) : TinBlock := if b.units.any us.contains then { b with reads := b.reads + 1 } else b

theorem TinBlock.counted_kept {k : TinBlock} : (k.counted us).retired = k.retired ∧ (k.counted us).patrolAt = k.patrolAt := by
  unfold TinBlock.counted
  split_ifs
  · exact ⟨rfl, rfl⟩
  · exact ⟨rfl, rfl⟩

theorem Tin.block_countReads : (x.countReads us).block n = (x.block n).counted us := tget_map (f := TinBlock.counted us) rfl x.blocks n

theorem Tin.worked_countReads : Tin.Worked failed x (x.countReads us) := by
  refine ⟨rfl, le_rfl, fun k hk => .inl ?_, id, fun k => ?_⟩
  · rwa [Tin.block_countReads, TinBlock.counted_kept.1] at hk
  · rw [Tin.block_countReads, TinBlock.counted_kept.2]

/-! ### A block that is moved, R362 -/

/-- A block that is written no more, and whose units have left it. -/
def TinBlock.emptied (k : TinBlock) : TinBlock := { k with filled := max k.filled Config.tinBlockUnits, units := [] }

/-- Tin with a block so. -/
def Tin.emptied (x : Tin) (n : Nat) : Tin := x.modBlock n TinBlock.emptied

/-- A move before its count. -/
def Tin.moves (x : Tin) (failed : List Nat) (n : Nat) : Tin :=
  ((x.block n).units.foldl (Tin.put failed (failed.length + 1)) (x.emptied n)).free failed n

theorem Tin.move_eq : x.move failed n = { x.moves failed n with cntMove := x.cntMove + 1 } := rfl

theorem Tin.worked_moves : Tin.Worked failed x (x.moves failed n) := by
  have hemptied : Tin.Worked failed x (x.emptied n) := Tin.worked_modBlock (f := TinBlock.emptied) fun _ => ⟨rfl, rfl⟩
  have hput : Tin.Worked failed (x.emptied n) ((x.block n).units.foldl (Tin.put failed (failed.length + 1)) (x.emptied n)) :=
    Tin.worked_foldl fun _ _ => Tin.worked_put
  exact (hemptied.trans hput).trans Tin.worked_free

theorem Tin.move_objects : (x.move failed n).objects = x.objects := Tin.worked_moves.objects

theorem Tin.move_block : (x.move failed n).block b = (x.moves failed n).block b := rfl

theorem Tin.moves_empty (hempty : (x.block n).units = []) : x.moves failed n = (x.emptied n).free failed n := by
  rw [Tin.moves, hempty, List.foldl_nil]

/-- R362: an empty block that fails its erase is retired, one spare with it. -/
theorem Tin.move_retires (hempty : (x.block n).units = []) : ((x.move [n] n).block n).retired = true ∧ (x.move [n] n).spare = x.spare - 1 ∧
    (x.move [n] n).state = if x.spare - 1 = 0 ∧ x.state = 2 then 3 else x.state := by
  have hmoves : x.moves [n] n = (x.emptied n).retire n := by rw [Tin.moves_empty hempty, Tin.free, if_pos (by simp)]
  refine ⟨?_, congrArg Tin.spare hmoves, (congrArg Tin.state hmoves).trans (Tin.retire_state (x := x.emptied n) (n := n))⟩
  rw [Tin.move_block, hmoves, Tin.block_retire]
  rfl

/-- R362: an empty block that does not fail is erased. -/
theorem Tin.move_erases (hempty : (x.block n).units = []) :
    (x.move [] n).block n = (x.block n).emptied.erase ∧ (x.move [] n).spare = x.spare := by
  have hmoves : x.moves [] n = (x.emptied n).modBlock n TinBlock.erase := by rw [Tin.moves_empty hempty, Tin.free, if_neg (by simp)]
  have hspare : (x.moves [] n).spare = x.spare := by
    rw [hmoves]
    rfl
  refine ⟨?_, hspare⟩
  rw [Tin.move_block, hmoves, Tin.block_modBlock, Tin.emptied, Tin.block_modBlock]

/-! ### The object store, R357 -/

theorem State.tinAt_of_objects {k j : Nat} (ht : t.tin.objects = s.tin.objects) : t.tinAt k j = s.tinAt k j := by
  rw [State.tinAt, State.tinAt, ht]

theorem State.tinAt_place {k j : Nat} (hat : s.tinAt k j = some o) : o.ns = k ∧ o.index = j := by
  simpa using List.find?_some hat

theorem State.tinAt_putTin : (s.putTin o).tinAt o.ns o.index = some o := by
  have hgone : (s.tin.objects.filter fun x => !(x.ns == o.ns && x.index == o.index)).find? (fun x => x.ns == o.ns && x.index == o.index) = none := by
    refine List.find?_eq_none.2 fun x hx => ?_
    simpa only [Bool.not_eq_true, Bool.not_eq_true'] using (List.mem_filter.1 hx).2
  rw [State.tinAt, State.putTin, List.find?_append, hgone]
  simp

theorem State.tinAt_putTin_ne {k j : Nat} (hother : k ≠ o.ns ∨ j ≠ o.index) : (s.putTin o).tinAt k j = s.tinAt k j := by
  have hkeep (x : TinObject) (hx : (x.ns == k && x.index == j) = true) : (!(x.ns == o.ns && x.index == o.index)) = true := by
    obtain ⟨rfl, rfl⟩ : x.ns = k ∧ x.index = j := by simpa using hx
    simpa [imp_iff_not_or] using hother
  have hnew : (o.ns == k && o.index == j) = false := by
    rw [Bool.and_eq_false_iff, beq_eq_false_iff_ne, beq_eq_false_iff_ne]
    exact hother.imp Ne.symm Ne.symm
  rw [State.tinAt, State.putTin, List.find?_append, List.find?_filter]
  simp only [List.find?_cons, hnew, List.find?_nil, Option.or_none]
  rw [State.tinAt]
  refine congrArg (List.find? · s.tin.objects) (funext fun x => ?_)
  by_cases hx : (x.ns == k && x.index == j) = true
  · simp [hx, hkeep x hx]
  · simp [hx]

theorem State.putTin_objects (ht : t.tin.objects = s.tin.objects) : (t.putTin o).tin.objects = (s.putTin o).tin.objects := by
  simp only [State.putTin, ht]

/-- A row that changes Tin alone. -/
theorem State.setTin_frame (x : Tin) : { ({ s with tin := x } : State) with tin := {} }.outsideCommands = { s with tin := {} }.outsideCommands ∧
    ({ s with tin := x } : State).str = s.str ∧ ({ s with tin := x } : State).mem = s.mem := ⟨rfl, rfl, rfl⟩

theorem State.storeAll_besideTin {ws : List (Nat × List Byte)} :
    { s.storeAll ws with tin := {} }.outsideCommands = { s with tin := {} }.outsideCommands :=
  congrArg (fun t : State => { t with tin := {} }) State.storeAll_outsideCommands

/-- An object in another's place, or in its own: what a handle names afterwards, and what stands at every other place. -/
theorem State.tinObject_of_put (ht : t.tin.objects = (s.putTin o).tin.objects) (hns : o.ns = field h 31 24) (hindex : o.index = field h 23 0) :
    t.tinObject h = o ∧ ∀ k j, k ≠ field h 31 24 ∨ j ≠ field h 23 0 → t.tinAt k j = s.tinAt k j := by
  refine ⟨?_, fun k j hother => ?_⟩
  · rw [State.tinObject, State.tinAt_of_objects ht, ← hns, ← hindex, State.tinAt_putTin]
    rfl
  · rw [State.tinAt_of_objects ht, State.tinAt_putTin_ne (hns ▸ hindex ▸ hother)]

theorem State.tinObject_of_tin (ht : t.tin.objects = s.tin.objects) : t.tinObject h = s.tinObject h := by
  rw [State.tinObject, State.tinObject, State.tinAt_of_objects ht]

/-- R364: a handle and a range that pass their check name an object at its place. -/
theorem State.tinObject_place (hrange : s.tinRange c h off len = none) : (s.tinObject h).ns = field h 31 24 ∧ (s.tinObject h).index = field h 23 0 := by
  unfold State.tinRange at hrange
  split at hrange
  · exact absurd hrange (by simp)
  · next o hat =>
    rw [State.tinObject, hat]
    exact State.tinAt_place hat

/-- Of fewer live objects than indices, an index is free. -/
theorem State.freeIndex_free {ns start : Nat} (hroom : (s.tin.objects.filter fun o => o.ns == ns && o.live).length < 2 ^ 24) :
    (s.tin.objects.all fun o => !(o.ns == ns && o.index == s.freeIndex ns start && o.live)) = true := by
  let live := (s.tin.objects.filter fun o => o.ns == ns && o.live).map (·.index)
  obtain ⟨k, hk, hfree⟩ := exists_unlisted (l := live) (m := 2 ^ 24) (a := start) (by rwa [List.length_map])
  have hsome : (((List.range (live.length + 1)).map fun k => (start + k) % 2 ^ 24).find? fun i => !live.contains i).isSome = true := by
    rw [List.find?_isSome]
    exact ⟨_, List.mem_map_of_mem (List.mem_range.2 hk), by simpa using hfree⟩
  obtain ⟨i, hi⟩ := Option.isSome_iff_exists.1 hsome
  have hindex : s.freeIndex ns start = i := by
    show (List.find? _ _).getD 0 = i
    rw [hi]
    rfl
  have hnot : i ∉ live := by simpa using List.find?_some hi
  rw [hindex, List.all_eq_true]
  intro o ho
  have hother : ¬((o.ns == ns && o.index == i && o.live) = true) := by
    rintro htaken
    simp only [Bool.and_eq_true, beq_iff_eq] at htaken
    obtain ⟨⟨hns, rfl⟩, hlive⟩ := htaken
    exact hnot (List.mem_map_of_mem (List.mem_filter.2 ⟨ho, by simp [hns, hlive]⟩))
  rw [Bool.eq_false_iff.2 hother]
  rfl

/-! ### Rows and their ends -/

theorem CommandBegun.tin (hbegun : CommandBegun s u c) : u.tin = s.tin :=
  show u.outsideCommands.tin = s.outsideCommands.tin from congrArg State.tin hbegun.outside

theorem State.tinMounted_iff : s.tinMounted = true ↔ s.tin.state = 2 ∨ s.tin.state = 3 := by simp [State.tinMounted]

section
variable {body : State → Cmd → State} (hbegins : s.begins 10 op = some (u, c)) (hknown : knownOpcode 10 op = true)
include hbegins hknown

theorem State.withTin_mounted (hmounted : u.tinMounted = true) : s.withTin op body = body u c := by
  rw [State.withTin, State.withHead_of_begins hbegins hknown, if_pos (by simpa using State.tinMounted_iff.1 hmounted)]

/-- R363: no command runs while Tin is not mounted. -/
theorem State.withTin_unmounted (hunmounted : u.tinMounted = false) : s.withTin op body = u.complete c stEngineAbsent 0 := by
  rw [State.withTin, State.withHead_of_begins hbegins hknown, if_neg]
  rw [Bool.eq_false_iff, Ne, State.tinMounted_iff] at hunmounted
  simpa using hunmounted

end

theorem firstFail_none {k : List Check} {ck : Check} (hpasses : firstFail k = none) (hck : ck ∈ k) : ck = none :=
  List.findSome?_eq_none_iff.1 hpasses ck hck

theorem need_none {ok : Bool} (hck : need ok st d = none) : ok = true := by
  cases ok with
  | true => rfl
  | false => cases hck

/-- From s to t the command `c` has ended with Tin at `x`, over memory `m`. -/
structure TinEnded (s t : State) (c : Cmd) (st : Nat) (x : Tin) (m : Memory) : Prop where
  tin : t.tin = x
  status : (t.engRegs c.engine).lastStatus = st
  failure : st ≠ 0 → (t.engRegs c.engine).failStatus = st
  memory : ∀ a, c.spares a → t.mem.byte a = m.byte a
  only : OnlyCommands { s with tin := t.tin } t

/-- The end of a command of Tin whose row left `v`. -/
theorem tinEnded_of_complete {sub : Nat} {signals counts : Bool} (hbegins : s.begins 10 op = some (u, c))
    (houtside : { v with tin := {} }.outsideCommands = { u with tin := {} }.outsideCommands) (hstr : v.str = u.str) :
    TinEnded s (v.complete c st d signals sub counts) c st v.tin v.mem := by
  have hbegun := State.begun_of_begins hbegins
  have htin : (v.complete c st d signals sub counts).tin = v.tin := State.complete_tin
  obtain ⟨hstatus, hfailure, hmemory⟩ := State.complete_ended (s := v) (c := c) (st := st) (d := d) (signals := signals) (sub := sub)
    (counts := counts) rfl
  refine ⟨htin, hstatus, fun hst => (hfailure hst).1, hmemory, ?_⟩
  rw [htin]
  refine State.complete_onlyFrom (by rw [State.engine_of_begins hbegins]; decide) ?_ (hstr.trans hbegun.str)
  calc v.outsideCommands = { { v with tin := {} }.outsideCommands with tin := v.tin } := rfl
    _ = { u.outsideCommands with tin := v.tin } := by rw [houtside]; rfl
    _ = _ := by rw [hbegun.outside]; rfl

theorem State.namesFailure_tinRange : NamesFailure (s.tinRange c h off len) := by
  unfold State.tinRange
  split
  · rintro _ ⟨⟩
    decide
  · split_ifs
    · rintro _ ⟨⟩
      decide
    · rintro _ ⟨⟩
      decide
    · exact namesFailure_need (by decide)

theorem State.namesFailures_tinWriteChecks : NamesFailures (s.tinMoveChecks c n ++ [s.tinWritable] ++ s.eccSlots c [0] []) := by
  simp only [State.tinMoveChecks, namesFailures_append, namesFailures_cons, namesFailures_nil, namesFailure_zeroParams,
    State.namesFailures_checkSlot, State.namesFailures_eccSlots, State.namesFailure_tinRange, and_true, true_and]
  exact ⟨⟨namesFailure_need (by decide), namesFailure_need (by decide)⟩, namesFailure_need (by decide)⟩

/-- The range that WRITE and READ name passes its check with theirs. -/
theorem State.tinMoveChecks_range {k : List Check} (hpasses : firstFail (s.tinMoveChecks c n ++ k) = none) :
    s.tinRange c (leAt (s.params c) 0 8) (leAt (s.params c) 8 8) (leAt (s.params c) 16 8) = none :=
  firstFail_none hpasses (by simp [State.tinMoveChecks])

/-! ### CREATE, R357, R358 -/

/-- The object that CREATE makes. -/
def State.tinNew (s : State) (c : Cmd) (i gen : Nat) : TinObject :=
  { ns := s.tinNs c.job, index := i, gen, live := true, size := leAt (s.params c) 8 8, data := [] }

/-- The state with the new object, and its handle in slot 7. -/
def State.creates (s : State) (c : Cmd) (i gen : Nat) : State :=
  (State.putTin { s with tin := { s.tin with used := s.tin.used + leAt (s.params c) 8 8 } } (s.tinNew c i gen)).tinOut c
    [tinHandle i (s.tinNs c.job) gen % 2 ^ 32, tinHandle i (s.tinNs c.job) gen / 2 ^ 32]

/-- CREATE changes Tin, and what commands touch. -/
theorem State.creates_frame {i gen : Nat} :
    { s.creates c i gen with tin := {} }.outsideCommands = { s with tin := {} }.outsideCommands ∧ (s.creates c i gen).str = s.str := by
  have hout (w : State) (ws : List Nat) : { w.tinOut c ws with tin := {} }.outsideCommands = { w with tin := {} }.outsideCommands := rfl
  have hput (w : State) (x : TinObject) : { w.putTin x with tin := {} }.outsideCommands = { w with tin := {} }.outsideCommands := rfl
  refine ⟨(hout _ _).trans (hput _ _), ?_⟩
  rw [State.creates, State.tinOut, State.store_str, State.putTin]

theorem State.creates_tin {i gen : Nat} : (s.creates c i gen).tin =
    (State.putTin { s with tin := { s.tin with used := s.tin.used + leAt (s.params c) 8 8 } } (s.tinNew c i gen)).tin := State.store_tin

theorem State.creates_objects {i gen : Nat} : (s.creates c i gen).tin.objects = (s.putTin (s.tinNew c i gen)).tin.objects := by
  rw [State.creates_tin]
  exact State.putTin_objects rfl

/-- The handle of the new object is all that CREATE writes. -/
theorem State.creates_mem {i gen : Nat} : (s.creates c i gen).mem =
    (s.tinOut c [tinHandle i (s.tinNs c.job) gen % 2 ^ 32, tinHandle i (s.tinNs c.job) gen / 2 ^ 32]).mem := by
  have hout (x : Tin) (ws : List Nat) : (State.tinOut { s with tin := x } c ws).mem = (s.tinOut c ws).mem := rfl
  exact hout _ _

theorem create_passes (hbegins : s.begins 10 1 = some (u, c)) (hmounted : u.tinMounted = true) (hpasses : firstFail (u.createChecks c) = none) :
    ∃ start gen, create s = (u.creates c (u.freeIndex (u.tinNs c.job) start) gen).complete c stOk 0 := by
  rw [create, State.withTin_mounted hbegins (by decide) hmounted]
  exact ⟨_, _, State.orFail_passes hpasses⟩

/-- What CREATE's checks say of the namespace. -/
theorem State.createChecks_room (hpasses : firstFail (s.createChecks c) = none) :
    (s.tin.objects.filter fun o => o.ns == s.tinNs c.job && o.live).length < 2 ^ 24 := by
  have hroom : need (decide ((s.tin.objects.filter fun o => o.ns == s.tinNs c.job && o.live).length < 2 ^ 24)) stBounds 0 = none :=
    firstFail_none hpasses (by simp [State.createChecks])
  simpa using need_none hroom

/-! ### WRITE, R359, R361 -/

/-- An object with bytes written at an offset, its lost pages there whole again. -/
def TinObject.written (o : TinObject) (off len : Nat) (bs : List Byte) : TinObject :=
  { o with data := (bs.zip (List.range bs.length)).foldl (fun d x => tset 0 d (off + x.2) x.1) o.data
           lost := o.lost.filter fun p => !inside (p * tinPage, tinPage) (off, len) }

theorem TinObject.written_data {bs : List Byte} {k : Nat} : tget 0 (o.written off len bs).data k =
    if off ≤ k ∧ k < off + bs.length then bs.getD (k - off) 0 else tget 0 o.data k := tget_foldl_tset

/-- The state after a WRITE of bytes. -/
def State.tinWrites (s : State) (failed : List Nat) (h off len : Nat) (bs : List Byte) : State :=
  { s.putTin ((s.tinObject h).written off len bs) with
    tin := (s.putTin ((s.tinObject h).written off len bs)).tin.rewrite failed ((s.tinObject h).units off len) }

theorem State.tinWrites_frame {bs : List Byte} :
    { s.tinWrites failed h off len bs with tin := {} }.outsideCommands = { s with tin := {} }.outsideCommands ∧
      (s.tinWrites failed h off len bs).str = s.str ∧ (s.tinWrites failed h off len bs).mem = s.mem := State.setTin_frame _

theorem State.tinWrites_worked {bs : List Byte} :
    Tin.Worked failed (s.putTin ((s.tinObject h).written off len bs)).tin (s.tinWrites failed h off len bs).tin := Tin.worked_rewrite

section
variable (hbegins : s.begins 10 2 = some (u, c)) (hmounted : u.tinMounted = true)
include hbegins hmounted

theorem tinWrite_passes (hpasses : firstFail (u.tinMoveChecks c (2 ^ 30) ++ [u.tinWritable] ++ u.eccSlots c [0] []) = none) :
    tinWrite failed s = (u.tinWrites failed (leAt (u.params c) 0 8) (leAt (u.params c) 8 8) (leAt (u.params c) 16 8)
      ((u.slotTensor c 0).read u.mem)).complete c stOk 0 := by
  rw [tinWrite, State.withTin_mounted hbegins (by decide) hmounted]
  exact State.orFail_passes hpasses

theorem tinWrite_fails (hfails : firstFail (u.tinMoveChecks c (2 ^ 30) ++ [u.tinWritable] ++ u.eccSlots c [0] []) = some (st, d)) :
    tinWrite failed s = u.complete c st d := by
  rw [tinWrite, State.withTin_mounted hbegins (by decide) hmounted]
  exact State.orFail_fails hfails

end

/-! ### READ, R360, R361 -/

/-- The pages of a READ that are lost, and those that are rebuilt. -/
def TinObject.gone (o : TinObject) (off len : Nat) (ps : List (Nat × Nat × Nat)) : List Nat := ((o.pageFails off len ps).filter (·.2)).map (·.1)

def TinObject.built (o : TinObject) (off len : Nat) (ps : List (Nat × Nat × Nat)) : List Nat := ((o.pageFails off len ps).filter (!·.2)).map (·.1)

/-- An object with pages lost. -/
def TinObject.losing (o : TinObject) (l : List Nat) : TinObject := { o with lost := o.lost ++ l }

/-- The blocks after a READ: their reads are counted, and rebuilt pages are written elsewhere. -/
def Tin.reads (x : Tin) (o : TinObject) (off len : Nat) (ps : List (Nat × Nat × Nat)) (bad : List Nat) : Tin :=
  (x.countReads (o.units off len)).rewrite bad (((o.built off len ps).map fun p => o.unitAt (p * tinPage)).eraseDups)

/-- The state after the pages of a READ have been decoded. -/
def State.tinReads (s : State) (h off len : Nat) (ps : List (Nat × Nat × Nat)) (bad : List Nat) : State :=
  State.putTin { s with tin := { s.tin.reads (s.tinObject h) off len ps bad with
    cntParity := s.tin.cntParity + ((s.tinObject h).built off len ps).length
    cntLost := s.tin.cntLost + ((s.tinObject h).gone off len ps).length } } ((s.tinObject h).losing ((s.tinObject h).gone off len ps))

theorem State.tinReads_frame {ps : List (Nat × Nat × Nat)} {bad : List Nat} :
    { s.tinReads h off len ps bad with tin := {} }.outsideCommands = { s with tin := {} }.outsideCommands ∧
      (s.tinReads h off len ps bad).str = s.str ∧ (s.tinReads h off len ps bad).mem = s.mem := State.setTin_frame _

/-- The pages of a range that an object has lost. -/
def TinObject.lacks (o : TinObject) (off len : Nat) : Bool := o.lost.any fun p => inside (p * tinPage, tinPage) (off, len)

theorem TinObject.lacks_of_lost {p : Nat} (hp : p ∈ o.lost) (hinside : inside (p * tinPage, tinPage) (off, len) = true) : o.lacks off len = true :=
  List.any_eq_true.2 ⟨p, hp, hinside⟩

theorem tinRead_passes {ps : List (Nat × Nat × Nat)} {bad : List Nat} (hbegins : s.begins 10 3 = some (u, c)) (hmounted : u.tinMounted = true)
    (hpasses : firstFail (u.tinMoveChecks c (2 ^ 32) ++ u.eccSlots c [] [0]) = none) (hh : leAt (u.params c) 0 8 = h)
    (hoff : leAt (u.params c) 8 8 = off) (hlen : leAt (u.params c) 16 8 = len) :
    tinRead ps bad s =
      if ((u.tinObject h).losing ((u.tinObject h).gone off len ps)).lacks off len then
        (u.tinReads h off len ps bad).complete c stEccUncorr 0 true 0 false
      else ((u.tinReads h off len ps bad).storeAll ((u.slotTensor c 0).place ((List.range len).map fun i =>
        tget 0 (u.tinObject h).data (off + i)))).complete c stOk 0 := by
  subst hh hoff hlen
  rw [tinRead, State.withTin_mounted hbegins (by decide) hmounted]
  exact State.orFail_passes hpasses

theorem Tin.worked_reads {ps : List (Nat × Nat × Nat)} {bad : List Nat} : Tin.Worked bad x (x.reads o off len ps bad) :=
  Tin.worked_countReads.trans Tin.worked_rewrite

theorem State.tinReads_retired {ps : List (Nat × Nat × Nat)} {bad : List Nat}
    (hretired : ((s.tinReads h off len ps bad).tin.block n).retired = true) : (s.tin.block n).retired = true ∨ n ∈ bad := by
  have hblock : (s.tinReads h off len ps bad).tin.block n = (s.tin.reads (s.tinObject h) off len ps bad).block n := Tin.block_of_blocks rfl
  rw [hblock] at hretired
  exact Tin.worked_reads.retired n hretired

/-- After a READ a handle names its object with the pages it lost. -/
theorem State.tinReads_object {ps : List (Nat × Nat × Nat)} {bad : List Nat} (hplace : (s.tinObject h).ns = field h 31 24 ∧ (s.tinObject h).index = field h 23 0)
    (ht : t.tin.objects = (s.tinReads h off len ps bad).tin.objects) : t.tinObject h = (s.tinObject h).losing ((s.tinObject h).gone off len ps) := by
  refine (State.tinObject_of_put (s := s) (o := (s.tinObject h).losing ((s.tinObject h).gone off len ps)) ?_ hplace.1 hplace.2).1
  rw [ht]
  exact congrArg (fun l : List TinObject => l.filter (fun x => !(x.ns == _ && x.index == _)) ++ [_])
    (Tin.worked_reads (x := s.tin) (o := s.tinObject h) (off := off) (len := len) (ps := ps) (bad := bad)).objects

/-- A READ of pages that can all be decoded or rebuilt loses none. -/
theorem TinObject.gone_nil {ps : List (Nat × Nat × Nat)} (hall : ∀ x ∈ o.pageFails off len ps, x.2 = false) : o.gone off len ps = [] := by
  rw [TinObject.gone, List.filter_eq_nil_iff.2 fun x hx => by simp [hall x hx], List.map_nil]

theorem TinObject.built_length {ps : List (Nat × Nat × Nat)} (hall : ∀ x ∈ o.pageFails off len ps, x.2 = false) :
    (o.built off len ps).length = (o.pageFails off len ps).length := by
  rw [TinObject.built, List.length_map, List.filter_eq_self.2 fun x hx => by simp [hall x hx]]

theorem TinObject.losing_nil : o.losing [] = o := by rw [TinObject.losing, List.append_nil]

/-- A READ whose pages are all decoded or rebuilt leaves its object as it was, and counts the pages that it rebuilt. -/
theorem State.tinReads_whole {ps : List (Nat × Nat × Nat)} {bad : List Nat}
    (hplace : (s.tinObject h).ns = field h 31 24 ∧ (s.tinObject h).index = field h 23 0)
    (hall : ∀ x ∈ (s.tinObject h).pageFails off len ps, x.2 = false) (ht : t.tin = (s.tinReads h off len ps bad).tin) :
    t.tinObject h = s.tinObject h ∧ t.tin.cntParity = s.tin.cntParity + ((s.tinObject h).pageFails off len ps).length ∧
      t.tin.cntLost = s.tin.cntLost := by
  have hobject := State.tinReads_object hplace (congrArg Tin.objects ht)
  have hparity : (s.tinReads h off len ps bad).tin.cntParity = s.tin.cntParity + ((s.tinObject h).built off len ps).length := rfl
  have hlost : (s.tinReads h off len ps bad).tin.cntLost = s.tin.cntLost + ((s.tinObject h).gone off len ps).length := rfl
  rw [TinObject.gone_nil hall] at hobject hlost
  rw [TinObject.built_length hall] at hparity
  rw [TinObject.losing_nil] at hobject
  exact ⟨hobject, (congrArg Tin.cntParity ht).trans hparity, (congrArg Tin.cntLost ht).trans hlost⟩

/-! ### DELETE and STAT, R357 -/

/-- An object that is deleted: its handles are stale. -/
def TinObject.deleted (o : TinObject) : TinObject := { o with live := false, gen := (o.gen + 1) % 65536, size := 0, data := [], lost := [] }

/-- The state after a DELETE. -/
def State.tinDeletes (s : State) (failed : List Nat) (h : Nat) : State :=
  { s.putTin (s.tinObject h).deleted with tin := { (s.putTin (s.tinObject h).deleted).tin.forget failed (s.tinObject h) with
    used := s.tin.used - (s.tinObject h).size } }

theorem State.tinDeletes_frame : { s.tinDeletes failed h with tin := {} }.outsideCommands = { s with tin := {} }.outsideCommands ∧
    (s.tinDeletes failed h).str = s.str ∧ (s.tinDeletes failed h).mem = s.mem := State.setTin_frame _

/-- After a DELETE: the object's handles are stale, its bytes are free, and of the blocks those of `failed` may have failed. -/
theorem State.tinDeletes_leaves (hplace : (s.tinObject h).ns = field h 31 24 ∧ (s.tinObject h).index = field h 23 0)
    (ht : t.tin = (s.tinDeletes failed h).tin) :
    (t.tinObject h = (s.tinObject h).deleted ∧ ∀ k j, k ≠ field h 31 24 ∨ j ≠ field h 23 0 → t.tinAt k j = s.tinAt k j) ∧
      t.tin.used = s.tin.used - (s.tinObject h).size ∧ t.tin.spare ≤ s.tin.spare ∧
      ∀ n, (t.tin.block n).retired = true → (s.tin.block n).retired = true ∨ n ∈ failed := by
  have hworked := Tin.worked_forget (failed := failed) (x := (s.putTin (s.tinObject h).deleted).tin) (o := s.tinObject h)
  have hobjects : (s.tinDeletes failed h).tin.objects = (s.putTin (s.tinObject h).deleted).tin.objects := hworked.objects
  refine ⟨State.tinObject_of_put (o := (s.tinObject h).deleted) ((congrArg Tin.objects ht).trans hobjects) hplace.1 hplace.2, congrArg Tin.used ht, ?_, ?_⟩
  · rw [ht]
    exact hworked.spare
  · rw [ht]
    exact hworked.retired

theorem tinDelete_passes (hbegins : s.begins 10 4 = some (u, c)) (hmounted : u.tinMounted = true)
    (hpasses : firstFail [zeroParams (u.params c) (offsets 8 63), u.tinRange c (leAt (u.params c) 0 8) 0 0] = none) :
    tinDelete failed s = (u.tinDeletes failed (leAt (u.params c) 0 8)).complete c stOk 0 := by
  rw [tinDelete, State.withTin_mounted hbegins (by decide) hmounted]
  exact State.orFail_passes hpasses

theorem tinStat_passes (hbegins : s.begins 10 5 = some (u, c)) (hmounted : u.tinMounted = true) (hpasses : firstFail (u.tinStatChecks c) = none)
    (ho : u.tinObject (leAt (u.params c) 0 8) = o) : tinStat s = (u.tinOut c [o.size % 2 ^ 32, o.size / 2 ^ 32, o.gen]).complete c stOk 0 := by
  subst ho
  rw [tinStat, State.withTin_mounted hbegins (by decide) hmounted]
  exact State.orFail_passes hpasses

/-- R363: every command of an unmounted Tin ends with ENGINE_ABSENT. -/
theorem tin_unmounted {row : Instr} {ps : List (Nat × Nat × Nat)} (hbegins : s.begins 10 op = some (u, c)) (hunmounted : u.tinMounted = false)
    (hrow : (row, op) ∈ [(Instr.create, 1), (.tinWrite l, 2), (.tinRead ps l, 3), (.tinDelete l, 4), (.tinStat, 5)]) :
    exec row s = .next (u.complete c stEngineAbsent 0) := by
  simp only [List.mem_cons, Prod.mk.injEq, List.not_mem_nil, or_false] at hrow
  rcases hrow with ⟨rfl, rfl⟩ | ⟨rfl, rfl⟩ | ⟨rfl, rfl⟩ | ⟨rfl, rfl⟩ | ⟨rfl, rfl⟩
  · exact congrArg Host.Outcome.next (State.withTin_unmounted hbegins (by decide) hunmounted)
  · exact congrArg Host.Outcome.next (State.withTin_unmounted hbegins (by decide) hunmounted)
  · exact congrArg Host.Outcome.next (State.withTin_unmounted hbegins (by decide) hunmounted)
  · exact congrArg Host.Outcome.next (State.withTin_unmounted hbegins (by decide) hunmounted)
  · exact congrArg Host.Outcome.next (State.withTin_unmounted hbegins (by decide) hunmounted)

/-! ### Background work, R362 -/

theorem wearLevelMove_moves (hmounted : s.tinMounted = true) (hspread : 512 < s.tin.spread)
    (hcoldest : s.tin.coldest (s.tin.allBlocks.filter fun m => !(s.tin.block m).units.isEmpty) = some n) :
    wearLevelMove failed s = { s with tin := s.tin.move failed n } := by
  simp only [wearLevelMove, hmounted, hspread, decide_true, Bool.and_self, if_true, hcoldest]

theorem wearLevelMove_quiet (hquiet : s.tinMounted = false ∨ s.tin.spread ≤ 512) : wearLevelMove failed s = s := by
  rw [wearLevelMove, if_neg]
  rcases hquiet with hunmounted | hspread
  · simp [hunmounted]
  · simp [Nat.not_lt.2 hspread]

theorem wearLevelMove_objects : (wearLevelMove failed s).tin.objects = s.tin.objects := by
  unfold wearLevelMove
  split_ifs
  · split
    · exact Tin.move_objects
    · rfl
  · rfl

theorem readDisturbMove_moves (hmounted : s.tinMounted = true) (hreads : 50000 ≤ (s.tin.block b).reads) :
    readDisturbMove b failed s = { s with tin := s.tin.move failed b } := by
  rw [readDisturbMove, if_pos (by simp [hmounted, hreads])]

/-- The block of a patrol read. -/
def Tin.patrolled (x : Tin) (b at' : Nat) : Tin := x.modBlock b fun k => { k with patrolAt := at', reads := k.reads + 1 }

/-- A patrol read of a block whose weak units are written elsewhere. -/
theorem Tin.patrol_rewrite {at' : Nat} : (((x.patrolled n at').rewrite failed us).block n).patrolAt = at' ∧
    ((x.patrolled n at').rewrite failed us).cntMove = x.cntMove ∧ ((x.patrolled n at').rewrite failed us).objects = x.objects ∧
    (us = [] → (((x.patrolled n at').rewrite failed us).block n).reads = (x.block n).reads + 1 ∧
      ∀ k, k ≠ n → ((x.patrolled n at').rewrite failed us).block k = x.block k) := by
  have hworked := Tin.worked_rewrite (failed := failed) (x := x.patrolled n at') (us := us)
  have hblock : (x.patrolled n at').block n = { x.block n with patrolAt := at', reads := (x.block n).reads + 1 } := Tin.block_modBlock
  refine ⟨(hworked.patrol n).trans (congrArg TinBlock.patrolAt hblock), hworked.cntMove, hworked.objects, ?_⟩
  rintro rfl
  exact ⟨congrArg TinBlock.reads hblock, fun k hk => Tin.block_modBlock_ne hk⟩

/-- The units of a block that a patrol read moves. -/
def TinBlock.weakUnits (k : TinBlock) (weak : List Nat) : List TinUnit := weak.eraseDups.filterMap fun i => k.units[i]?

theorem retentionPatrol_due {weak : List Nat} (hmounted : s.tinMounted = true) (hdue : (s.tin.block b).patrolAt + patrolPeriod ≤ s.poweredTime) :
    retentionPatrol b weak failed s =
      { s with tin := (s.tin.patrolled b s.poweredTime).rewrite failed ((s.tin.block b).weakUnits weak) } := by
  rw [retentionPatrol]
  exact if_pos (by rw [hmounted, Bool.true_and]; exact decide_eq_true hdue)

theorem retentionPatrol_quiet {weak : List Nat} (hquiet : s.tinMounted = false ∨ s.poweredTime < (s.tin.block b).patrolAt + patrolPeriod) :
    retentionPatrol b weak failed s = s := by
  rw [retentionPatrol]
  refine if_neg ?_
  rcases hquiet with hunmounted | hearly
  · simp [hunmounted]
  · simp [Nat.not_le.2 hearly]

/-! ### The statement -/

/-- Settles O48: each command by its checks, background work by the blocks it moves. -/
theorem tinObjects : Obligations.TinObjects := by
  unfold Obligations.TinObjects
  refine ⟨?creates, ?writes, ?reads, ?loses, ?deletes, ?stat, ?unmounted, ?writeFails, ?wear, ?disturb, ?retires, ?erases, ?patrol, ?noPatrol⟩
  case creates =>
    intro s u c hbegins hmounted hpasses
    have hbegun := State.begun_of_begins hbegins
    obtain ⟨start, gen, hends⟩ := create_passes hbegins hmounted hpasses
    generalize hi : u.freeIndex (u.tinNs c.job) start = i at hends
    obtain ⟨htin, hstatus, -, hmemory, honly⟩ := tinEnded_of_complete (v := u.creates c i gen) (st := stOk) (d := 0) (sub := 0) (signals := true)
      (counts := true) hbegins State.creates_frame.1 State.creates_frame.2
    rw [← hends] at htin hstatus hmemory honly
    have hobjects : (create s).tin.objects = (u.putTin (u.tinNew c i gen)).tin.objects := (congrArg Tin.objects htin).trans State.creates_objects
    refine ⟨create s, i, gen, rfl, hstatus, ?_, ?_, fun k j hother => ?_, ?_, fun a ha => by rw [hmemory a ha, State.creates_mem], honly⟩
    · rw [← hi, ← hbegun.tin]
      exact State.freeIndex_free (State.createChecks_room hpasses)
    · rw [State.tinAt_of_objects hobjects]
      exact State.tinAt_putTin (o := u.tinNew c i gen)
    · rw [State.tinAt_of_objects hobjects, State.tinAt_putTin_ne (o := u.tinNew c i gen) hother]
      exact State.tinAt_of_objects (congrArg Tin.objects hbegun.tin)
    · rw [htin, ← hbegun.tin, State.creates_tin]
      rfl
  case writes =>
    rintro s u c h failed hbegins hmounted hpasses rfl
    have hbegun := State.begun_of_begins hbegins
    have hends := tinWrite_passes (failed := failed) hbegins hmounted hpasses
    generalize hbs : (u.slotTensor c 0).read u.mem = bs at hends ⊢
    generalize hh : leAt (u.params c) 0 8 = h at hends ⊢
    have hobject : u.tinObject h = s.tinObject h := State.tinObject_of_tin (congrArg Tin.objects hbegun.tin)
    have hplace := State.tinObject_place (State.tinMoveChecks_range (List.append_assoc .. ▸ hpasses))
    rw [hh, hobject] at hplace
    have hwritable : u.tin.state = 2 := by
      have hck : u.tinWritable = none := firstFail_none hpasses (by simp)
      simpa using (Bool.and_eq_true_iff.1 (need_none hck)).1
    obtain ⟨htin, hstatus, -, hmemory, honly⟩ := tinEnded_of_complete
      (v := u.tinWrites failed h (leAt (u.params c) 8 8) (leAt (u.params c) 16 8) bs) (st := stOk) (d := 0) (sub := 0) (signals := true)
      (counts := true) hbegins State.tinWrites_frame.1 State.tinWrites_frame.2.1
    rw [← hends] at htin hstatus hmemory honly
    have hworked : Tin.Worked failed (u.putTin ((u.tinObject h).written (leAt (u.params c) 8 8) (leAt (u.params c) 16 8) bs)).tin
        (tinWrite failed s).tin := htin.symm ▸ State.tinWrites_worked
    rw [hobject] at hworked
    obtain ⟨hnow, hothers⟩ := State.tinObject_of_put (h := h) hworked.objects hplace.1 hplace.2
    refine ⟨tinWrite failed s, rfl, hstatus, fun k hk => ?_, fun k hk => ?_, fun p hp => ?_, fun k j hother => ?_, ?_, ?_, fun k hk => ?_, fun a ha => ?_,
      honly⟩
    · rw [hnow, TinObject.written_data, if_pos (by omega), Nat.add_sub_cancel_left]
    · rw [hnow, TinObject.written_data, if_neg (by omega)]
    · rw [hnow] at hp
      simpa using List.mem_filter.1 hp
    · rw [hothers k j hother]
      exact State.tinAt_of_objects (congrArg Tin.objects hbegun.tin)
    · exact hworked.spare.trans_eq ((congrArg Tin.spare hbegun.tin : u.tin.spare = s.tin.spare))
    · exact hworked.service (.inl hwritable)
    · exact (hworked.retired k hk).imp_left fun hretired => congrArg (fun x : Tin => (x.block k).retired) hbegun.tin ▸ hretired
    · rw [hmemory a ha, State.tinWrites_frame.2.2, hbegun.mem]
  case reads =>
    rintro s u c ps bad h hbegins hmounted hpasses hh hall hwhole
    have hbegun := State.begun_of_begins hbegins
    have hends := tinRead_passes (ps := ps) (bad := bad) hbegins hmounted hpasses hh rfl rfl
    have hplace := State.tinObject_place (State.tinMoveChecks_range hpasses)
    rw [hh] at hplace
    have hobject : u.tinObject h = s.tinObject h := State.tinObject_of_tin (congrArg Tin.objects hbegun.tin)
    rw [TinObject.gone_nil hall, TinObject.losing_nil, if_neg (by rw [TinObject.lacks, hwhole]; decide)] at hends
    obtain ⟨htin, hstatus, -, hmemory, honly⟩ := tinEnded_of_complete
      (v := (u.tinReads h (leAt (u.params c) 8 8) (leAt (u.params c) 16 8) ps bad).storeAll ((u.slotTensor c 0).place
        ((List.range (leAt (u.params c) 16 8)).map fun i => tget 0 (u.tinObject h).data (leAt (u.params c) 8 8 + i)))) (st := stOk) (d := 0) (sub := 0)
      (signals := true) (counts := true) hbegins (State.storeAll_besideTin.trans State.tinReads_frame.1)
      (State.storeAll_str.trans State.tinReads_frame.2.1)
    rw [← hends] at htin hstatus hmemory honly
    rw [State.storeAll_tin] at htin
    obtain ⟨hsame, hparity, hlost⟩ := State.tinReads_whole hplace hall htin
    refine ⟨tinRead ps bad s, rfl, hstatus, hsame.trans hobject, ?_, ?_, fun k hk => ?_, fun a ha => ?_, honly⟩
    · rw [hparity, hbegun.tin]
    · rw [hlost, hbegun.tin]
    · rw [htin] at hk
      rw [← hbegun.tin]
      exact State.tinReads_retired hk
    · rw [hmemory a ha, State.storeAll_mem_congr (s := u) State.tinReads_frame.2.2, hobject]
  case loses =>
    rintro s u c ps bad p h hbegins hmounted hpasses hh hlost hinside
    have hbegun := State.begun_of_begins hbegins
    have hends := tinRead_passes (ps := ps) (bad := bad) hbegins hmounted hpasses hh rfl rfl
    have hplace := State.tinObject_place (State.tinMoveChecks_range hpasses)
    rw [hh] at hplace
    have hp : p ∈ ((u.tinObject h).losing ((u.tinObject h).gone (leAt (u.params c) 8 8) (leAt (u.params c) 16 8) ps)).lost := by
      rcases hlost with hfails | hold
      · exact List.mem_append_right _ (List.mem_map.2 ⟨_, List.mem_filter.2 ⟨hfails, rfl⟩, rfl⟩)
      · exact List.mem_append_left _ hold
    rw [if_pos (TinObject.lacks_of_lost hp hinside)] at hends
    obtain ⟨htin, -, hfailure, hmemory, honly⟩ := tinEnded_of_complete
      (v := u.tinReads h (leAt (u.params c) 8 8) (leAt (u.params c) 16 8) ps bad) (st := stEccUncorr) (d := 0) (sub := 0) (signals := true)
      (counts := false) hbegins State.tinReads_frame.1 State.tinReads_frame.2.1
    rw [← hends] at htin hfailure hmemory honly
    refine ⟨tinRead ps bad s, rfl, hfailure (by decide), ?_, fun a ha => ?_, honly⟩
    · rwa [State.tinReads_object hplace (congrArg Tin.objects htin)]
    · rw [hmemory a ha, State.tinReads_frame.2.2, hbegun.mem]
  case deletes =>
    rintro s u c failed h hbegins hmounted rfl hpasses
    have hbegun := State.begun_of_begins hbegins
    have hends := tinDelete_passes (failed := failed) hbegins hmounted hpasses
    generalize hh : leAt (u.params c) 0 8 = h at hpasses hends ⊢
    have hobject : u.tinObject h = s.tinObject h := State.tinObject_of_tin (congrArg Tin.objects hbegun.tin)
    have hplace := State.tinObject_place (s := u) (h := h) (c := c) (off := 0) (len := 0) (firstFail_none hpasses (by simp))
    obtain ⟨htin, hstatus, -, hmemory, honly⟩ := tinEnded_of_complete (v := u.tinDeletes failed h) (st := stOk) (d := 0) (sub := 0)
      (signals := true) (counts := true) hbegins State.tinDeletes_frame.1 State.tinDeletes_frame.2.1
    rw [← hends] at htin hstatus hmemory honly
    obtain ⟨⟨hnow, hothers⟩, hused, hspare, hretired⟩ := State.tinDeletes_leaves hplace htin
    rw [hbegun.tin] at hused hspare
    refine ⟨tinDelete failed s, rfl, hstatus, by rw [hnow]; rfl, ?_, ?_, fun k hk => ?_, hspare, fun k j hother => ?_, fun a ha => ?_, honly⟩
    · rw [hnow, hobject]
      rfl
    · rw [hused, hobject]
    · exact hbegun.tin ▸ hretired k hk
    · rw [hothers k j hother]
      exact State.tinAt_of_objects (congrArg Tin.objects hbegun.tin)
    · rw [hmemory a ha, State.tinDeletes_frame.2.2, hbegun.mem]
  case stat =>
    rintro s u c o hbegins hmounted hpasses ho
    have hobject : u.tinObject (leAt (u.params c) 0 8) = o :=
      (State.tinObject_of_tin (congrArg Tin.objects (State.begun_of_begins hbegins).tin)).trans ho
    have hends := tinStat_passes hbegins hmounted hpasses hobject
    obtain ⟨hended, honly⟩ := endsOnly_of_complete (v := u.tinOut c [o.size % 2 ^ 32, o.size / 2 ^ 32, o.gen]) (st := stOk) (d := 0) (sub := 0)
      (signals := true) (counts := true) hbegins (by decide) State.store_outsideCommands State.store_str rfl
    rw [← hends] at hended honly
    exact ⟨tinStat s, rfl, hended.status, hended.memory, honly⟩
  case unmounted =>
    intro s u c row op l ps hbegins hunmounted hrow
    obtain ⟨hended, honly⟩ := endsOnly_of_failure (st := stEngineAbsent) (d := 0) hbegins (by decide) rfl
    exact ⟨_, tin_unmounted hbegins hunmounted hrow, (hended.failure (by decide)).1, hended.memory, honly⟩
  case writeFails =>
    intro s u c l st d hbegins hmounted hfails
    have hends := tinWrite_fails (failed := l) hbegins hmounted hfails
    obtain ⟨hended, honly⟩ := endsOnly_of_failure hbegins (by decide) hends
    exact ⟨tinWrite l s, rfl, (hended.failure (State.namesFailures_tinWriteChecks.status_ne hfails)).1, hended.memory, honly⟩
  case wear =>
    intro s failed
    refine ⟨wearLevelMove failed s, rfl, wearLevelMove_objects, fun n hmounted hspread hcoldest => ?_, wearLevelMove_quiet⟩
    have hmoves := wearLevelMove_moves (failed := failed) hmounted hspread hcoldest
    exact ⟨hmoves, by rw [hmoves]; rfl⟩
  case disturb =>
    intro s b failed hmounted hreads
    exact ⟨_, congrArg Host.Outcome.next (readDisturbMove_moves hmounted hreads), rfl, rfl, Tin.move_objects, Tin.worked_moves.spare⟩
  case retires =>
    intro s b hmounted hreads hempty
    obtain ⟨hretired, hspare, hstate⟩ := Tin.move_retires hempty
    refine ⟨_, congrArg Host.Outcome.next (readDisturbMove_moves hmounted hreads), hretired, hspare, fun hlast => ?_, fun hmore => ?_⟩
    · refine hstate.trans ?_
      rcases State.tinMounted_iff.1 hmounted with hwritable | hreadOnly
      · exact if_pos ⟨by omega, hwritable⟩
      · rw [if_neg (by simp [hreadOnly]), hreadOnly]
    · exact hstate.trans (if_neg (by omega))
  case erases =>
    intro s b hmounted hreads hempty
    obtain ⟨hblock, hspare⟩ := Tin.move_erases hempty
    exact ⟨_, congrArg Host.Outcome.next (readDisturbMove_moves hmounted hreads), hblock ▸ rfl, hblock ▸ rfl, hblock ▸ rfl, hspare⟩
  case patrol =>
    intro s b weak failed hmounted hdue
    obtain ⟨hpatrol, hmoved, hobjects, hread⟩ := Tin.patrol_rewrite (x := s.tin) (n := b) (at' := s.poweredTime) (failed := failed)
      (us := (s.tin.block b).weakUnits weak)
    refine ⟨_, congrArg Host.Outcome.next (retentionPatrol_due hmounted hdue), hpatrol, hmoved, hobjects, rfl, ?_⟩
    rintro rfl
    exact hread rfl
  case noPatrol =>
    intro s b weak failed hquiet
    exact congrArg Host.Outcome.next (retentionPatrol_quiet hquiet)

end Sys2Proof.Machine
